-- ==== Sys2Proof/Word.lean ====
section
/-! DEFINITION. The words of the block and their plainest arithmetic: registers are 32 bits wide (R16), a 64-bit value
takes two of them, and multi-byte values are little-endian (R12). -/

namespace Sys2Proof

/-- One byte. -/
abbrev Byte := BitVec 8
/-- One register (R16: registers are 32 bits wide). -/
abbrev Word := BitVec 32
/-- A 64-bit value in two registers (R16). -/
abbrev Dword := BitVec 64

/-- Bits `[lo + w - 1 : lo]` of `n`, as a number. -/
def fld (n lo w : Nat) : Nat := n / 2 ^ lo % 2 ^ w

/-- Bit `i` of `n`. -/
def bitOf (n i : Nat) : Bool := n / 2 ^ i % 2 == 1

/-- A Bool as the number 0 or 1. -/
def b2n (b : Bool) : Nat := if b then 1 else 0

/-- The little-endian number of a byte list (R12). -/
def leNat : List Byte → Nat
  | [] => 0
  | b :: bs => b.toNat + 256 * leNat bs

/-- The big-endian number of a byte list (fields of Ethernet, IP and UDP headers, R12). -/
def beNat (bs : List Byte) : Nat := bs.foldl (fun a b => a * 256 + b.toNat) 0

/-- `n` as `k` little-endian bytes (R12). -/
def toLe : Nat → Nat → List Byte
  | 0, _ => []
  | k + 1, n => BitVec.ofNat 8 n :: toLe k (n / 256)

/-- The `k` bytes of `bs` from offset `off` on; bytes past the end read 0. -/
def slice (bs : List Byte) (off k : Nat) : List Byte :=
  let t := (bs.drop off).take k
  t ++ List.replicate (k - t.length) 0

/-- The little-endian field of `k` bytes at `off`. -/
def leAt (bs : List Byte) (off k : Nat) : Nat := leNat (slice bs off k)

/-- The big-endian field of `k` bytes at `off`. -/
def beAt (bs : List Byte) (off k : Nat) : Nat := beNat (slice bs off k)

/-- The byte at `off`, as a number. -/
def byteAt (bs : List Byte) (off : Nat) : Nat := (bs.getD off 0).toNat

end Sys2Proof
end

