-- ==== Sys2Proof/Syntax.lean ====
section
/-! DEFINITION. The commands of the block: one constructor of `Instr` per row of spec/opcode_table.json, with the operands
that the row's happening brings from outside, and the operand types. What the spec computes is not an operand. -/

namespace Sys2Proof

/-- Assembly variant of the module (R3, R6). -/
inductive Variant where
  | s | m | n
  deriving DecidableEq, Repr

/-- Who makes a register access (R13, R16, R29, R425, R533): the host through a function's BAR0, the sideband of IOD0 or
IOD3, or a Flesha command authenticated for an owner. -/
inductive Requester where
  | host (fn : Nat)
  | sideband (iod : Nat)
  | flesha (owner : Nat)
  deriving DecidableEq, Repr

/-- Who issues an image command (R338): the bound function on a queue, or a Flesha COMMAND message (R474) that arrived on a
management port from an address and UDP port. -/
inductive Issuer where
  | host (fn sq : Nat)
  | flesha (port addr udp : Nat) (msg : List Byte)
  deriving DecidableEq, Repr

/-- Where a configuration command comes from (R416): a write of CFG_CMD, or a Flesha COMMAND message. -/
inductive CmdSrc where
  | reg (req : Requester)
  | flesha (port addr udp : Nat) (msg : List Byte)
  deriving DecidableEq, Repr

/-! ### The plaintext of a model image (R328). The spec gives the sections and what they hold, and not their bytes inside;
the plaintext is therefore held as this structure (log entry 6). -/

/-- A static outlier entry (R107, R330): position and element, with its group's E4M3 scale. -/
structure Outlier where
  row   : Nat
  col   : Nat
  e4m3  : Bool
  elem  : Nat
  scale : Nat
  deriving DecidableEq, Repr

/-- One weight matrix of a layer (R103, R106, R123, R147, R156). `codes` holds, per output column, one element code per
input; `scales` per output column one E4M3 code per 32-input block. -/
structure Matrix where
  k : Nat
  n : Nat
  fmt : Nat
  inFmt : Nat
  codes : List (List Nat)
  scales : List (List Nat)
  outliers : List Outlier
  termBound : Nat
  contributors : Nat
  splitFp32 : Bool
  supplied : List Nat
  outFmt : Nat
  bias : List Nat
  deriving DecidableEq, Repr

/-- One layer of an image (R184) with its type code and parameters. `fsPpm` is the outlier fraction in millionths
(0.25 % = 2,500); `tau` an E4M3 code; `accPlace` 0 CELL, 1 BASIN (R154). -/
structure Layer where
  typ : Nat
  width : Nat
  act : Nat
  heads : Nat
  kvHeads : Nat
  headDim : Nat
  qFmt : Nat
  outFmt : Nat
  topK : Nat
  sigmoid : Bool
  accPlace : Nat
  outputsPerTile : Nat
  regionAligned : Bool
  fsPpm : Nat
  tau : Nat
  ca : Nat
  matrices : List Matrix
  embed : List (List Nat)
  embedFmt : Nat
  embedScales : List (List Nat)
  deriving DecidableEq, Repr

/-- One Tarn that a placement level needs (R103, R104, R331): the partition-relative tile, the number by which the level's Tarn
sets name it on that tile, and the chunk it carries: layer, matrix, K-chunk, N-chunk, replica. -/
structure TarnPlace where
  tile : Nat
  idx : Nat
  layer : Nat
  matrix : Nat
  k : Nat
  n : Nat
  replica : Nat
  deriving DecidableEq, Repr

/-- A placement level (R331): Tarn-placed layers, the Tarns it needs, replicas. -/
structure Level where
  layers : List Nat
  tarns : List TarnPlace
  replicas : Nat
  deriving DecidableEq, Repr

/-- A pair (R213, R214): one layer and KV head, the partition-relative tile that hands its walks out, and the engine. -/
structure Pair where
  layer : Nat
  kvHead : Nat
  tile : Nat
  engine : Nat
  deriving DecidableEq, Repr

/-- The KV section (R215, R231, R236): `freq` the FP32 table, `sigma` FP32. -/
structure KvParams where
  fmt : Nat
  d : Nat
  sink : Bool
  feedback : Bool
  reclaim : Bool
  retrieve : Bool
  p : Nat
  w : Nat
  pairs : List Pair
  dRot : Nat
  interleaved : Bool
  freq : List Nat
  sigma : Nat
  deriving DecidableEq, Repr

/-- A slot of a schedule's slot table (R189): base row, rows, readers. -/
structure SlotDecl where
  base : Nat
  rows : Nat
  readers : Nat
  deriving DecidableEq, Repr

/-- One Tarn of a Tarn set (R72, R329): which Tarn, which K-chunk of the input drives it, and the offset of its weight
column 0 from the instruction's LA base word. -/
structure TarnUse where
  tarn : Nat
  kChunk : Nat
  laOff : Nat
  deriving DecidableEq, Repr

/-- A CE operand set (R329): layer and matrix, first output column and how many, and the part of the reduction dimension that it covers:
first input and how many (R107, R156: a tile that holds part of a split dimension has the operands of that part). -/
structure OperandSet where
  layer : Nat
  matrix : Nat
  col : Nat
  cols : Nat
  row : Nat
  rows : Nat
  deriving DecidableEq, Repr

/-- A slot on a partition-relative tile that one query head of a walk is pulled from, or put to (R214): the first element of the head in
the slot, and for an output the arrival counter to raise (0xFFFF for none). -/
structure HeadPort where
  tile : Nat
  slot : Nat
  off : Nat
  ctr : Nat
  deriving DecidableEq, Repr

/-- A walk descriptor (R213, R214): the pair, and per query head of its group where the query vector lies and where the output goes. -/
structure WalkDecl where
  pair : Nat
  queries : List HeadPort
  outs : List HeadPort
  deriving DecidableEq, Repr

/-- A schedule (R180, R181, R189, R329, R331): placement level, partition-relative tile, context, instruction words of 128 bits and the
first of the scratchpad rows that hold them, slot table, row ranges (base, count), Basin ranges, the first row of the save area (R169), Tarn
sets, operand sets and walk descriptors. -/
structure Sched where
  level : Nat
  tile : Nat
  ctx : Nat
  instrs : List Nat
  codeRow : Nat
  slots : List SlotDecl
  ranges : List (Nat × Nat)
  basin : List (Nat × Nat)
  saveRow : Nat
  tarnSets : List (List TarnUse)
  opSets : List OperandSet
  walks : List WalkDecl
  deriving DecidableEq, Repr

/-- A split accumulation (R156): the first output column, the contributor's partition-relative tile and first LA word, how many words it
sends, its contributor index, the home tile, the home's receive base word, and the home's context and arrival counter. -/
structure Split where
  layer : Nat
  matrix : Nat
  col : Nat
  tile : Nat
  laBase : Nat
  words : Nat
  index : Nat
  home : Nat
  recv : Nat
  ctx : Nat
  ctr : Nat
  deriving DecidableEq, Repr

/-- A delta block of a variant (R271, R272). -/
structure DeltaBlock where
  layer : Nat
  matrix : Nat
  tile : Nat
  col : Nat
  kBlock : Nat
  scale : Nat
  elems : List Nat
  deriving DecidableEq, Repr

/-- The plaintext of an image (R328): section table, and what the sections hold. -/
structure Plain where
  sections : List (Nat × Nat × Nat)
  order : Nat
  vocab : Nat
  residual : Nat
  classes : Nat
  stop : Option Nat
  lostToken : Option Nat
  layers : List Layer
  levels : List Level
  scheds : List Sched
  splits : List Split
  kv : Option KvParams
  deltaCap : List (Nat × Nat × Nat × Nat)
  deltaColMax : Nat
  narrPrefix : Option (List Nat)
  classTokens : List Nat
  binTokens : List Nat
  deltaFmt : Nat
  deltas : List DeltaBlock
  shadowBytes : Nat
  basinWords : List (Nat × Nat)
  rowsNeeded : List (Nat × Nat)
  deriving DecidableEq, Repr

/-- What reading DRAM words brings (R459): clean, one corrected error, or uncorrectable. -/
inductive Ecc where
  | clean | corrected | uncorrectable
  deriving DecidableEq, Repr

/-- The residue units and words of R455 and R467 (unit kinds). -/
inductive UnitKind where
  | ceRow | aeRow | adderTree | spadRow | basinWord
  deriving DecidableEq, Repr

/-- The engines a tile instruction runs on (R179). -/
inductive Engine where
  | tarn | ce | vector | rank | moments | attention | transfer
  deriving DecidableEq, Repr

/-- What an engine's completion finds (R454, R457, R458). -/
inductive EngineFinding where
  | ok
  | residueMismatch (unit : UnitKind) (index : Nat)
  | spadParity (row : Nat)
  | basinCorrected (word : Nat) (reappeared : Bool)
  | basinUncorrectable (word : Nat)
  deriving DecidableEq, Repr

/-- IEEE 1149.1 instructions of R541. -/
inductive TapInstr where
  | bypass | idcode | sample | extest | clamp | highz
  deriving DecidableEq, Repr

/-- Sweep triggers (R487). -/
inductive Sweep where
  | spring | user | selfTimed
  deriving DecidableEq, Repr

/-- A KV write named by a DMA_PUT (R227): the pass, the pair, and whether the vector is V. -/
structure KvDest where
  pass : Nat
  pair : Nat
  isV : Bool
  deriving DecidableEq, Repr

/-- The commands of the block: one constructor per row of spec/opcode_table.json, in the table's order. `t` is a tile
(die × 32 + tile), `c` a schedule context, `p` a partition, `fn` a host function (port × 8 + function), `now` a reading of
the module time in ns (log entry 7). -/
inductive Instr where
  | powerUp (vin48mV : Nat) (jtagEn : Bool)
  | modEnFall
  | vin48Undervoltage (vin48mV : Nat)
  | auxOutOfRange
  | iin48Crossing (mA : Nat)
  | moduleStart (iod0SelfTest iod3SelfTest : Bool)
  | perstAssert (port : Nat)
  | hostLinkLoss (port : Nat)
  | hostLinkTrained (port rate width : Nat)
  | flr (fn now : Nat)
  | d3hotToD0 (fn now : Nat)
  | busMasterEnableWrite (fn : Nat) (on msix : Bool)
  | msixUnmask (fn vec : Nat)
  | springTrigger (now : Nat)
  | refBufferOn (die : Nat)
  | hkSweepStepDone (die : Nat) (sweep : Sweep) (codes : List (Nat × Nat)) (last : Bool)
  | springReportMissed (die : Nat)
  | springControl (hotStacks : List (Nat × Option Int)) (now : Nat)
  | springTriggerTimeout (die : Nat)
  | selfTimedSweep (die : Nat) (codes : List (Nat × Nat))
  | mcHeartbeat (now : Nat)
  | heartbeatMiss (now : Nat)
  | mcSelfFailReport (now : Nat)
  | watchdogTick (now : Nat)
  | troubleTest (p now : Nat)
  | noticeAck (notice die now : Nat)
  | noticeAckTimeout (notice die now : Nat)
  | logDrain
  | coalesceIntervalEnd (die now : Nat)
  | fleshaEventSend (sub : Nat)
  | telemetrySend (sub now : Nat)
  | subscriptionLapse (sub now : Nat)
  | lanternExpiry (now : Nat)
  | faultWindowRoll (now : Nat)
  | cqCoalTimeout (fn cq now : Nat)
  | arbHoldExpiry (iod ch now : Nat)
  | tarnScrubRead (t tarn row bits now : Nat)
  | tarnRowRewrite (t tarn row : Nat)
  | dramPatrolRead (stack ch : Nat) (ecc : Ecc) (now : Nat)
  | resPatrolRead (stack model slot corrected : Nat) (uncorrectable : Bool) (now : Nat)
  | tstatWindowClose (t tarn col : Nat)
  | driftUpdate (t tarn bank col now : Nat)
  | arrayDegraded (p now : Nat)
  | arrayRecovered (p now : Nat)
  | feedFrameRx (port : Nat) (frame : List Byte) (now : Nat)
  | keyLookupDone (iod now : Nat)
  | ingestDrain (p iod now : Nat)
  | feedLinkUp (port now : Nat)
  | feedLinkDown (port now : Nat)
  | alarmMsgTx (port : Nat)
  | arbResyncCmd (iod value : Nat)
  | sqDoorbell (fn n value now : Nat)
  | cqHeadDoorbell (fn n value now : Nat)
  | erHeadDoorbell (fn value now : Nat)
  | fnQCtrlWrite (fn value : Nat)
  | sqCtrlWrite (fn n value : Nat)
  | cqCtrlWrite (fn n value : Nat)
  | erCtrlWrite (fn value : Nat)
  | queueBaseWrite (fn off value : Nat)
  | fnCtrlPartReset (fn value now : Nat)
  | fnEvtClear (fn value : Nat)
  | sqFetch (fn n : Nat) (desc : Option (List Byte)) (now : Nat)
  | promptRead (p entry : Nat) (words : Option (List Nat)) (now : Nat)
  | cqCompletionWrite (fn now : Nat)
  | evidenceRingWrite (fn : Nat)
  | nop (t c : Nat)
  | loop (t c count body : Nat)
  | jump (t c : Nat) (offset : Int)
  | stepEnd (t c layer matrix : Nat)
  | waitArr (t c ctr k : Nat)
  | waitArrResume (t c : Nat)
  | signal (t c ctr target : Nat)
  | dmaGet (t c slot off rows ctr epoch : Nat) (embed : Option Nat)
  | dmaPut (t c slot off rows ctr epoch : Nat) (kv : Option KvDest)
  | put (t c slot tile rslot ctr e1 e2 : Nat)
  | pull (t c slot tile rslot ctr e1 e2 : Nat) (release : Bool)
  | pullServe (t req : Nat) (merged : Bool) (coll : Nat)
  | releaseArrive (t slotBase rows epoch : Nat)
  | transferLanded (xfer : Nat) (ecc : Ecc) (coll now : Nat)
  | fill (t c rows first value width epoch : Nat)
  | copy (t c rows src dst e1 e2 : Nat)
  | quant (t c src dst fmt scaleIdx : Nat) (supplied : Bool) (e1 e2 : Nat)
  | tarnMvm (t c slot set laBase : Nat) (add int8 : Bool) (epoch : Nat)
  | tarnRoundDone (t tarn : Nat) (codes : List (Nat × Nat))
  | ceExact (t c opSet slot laBase terms : Nat) (add : Bool) (epoch : Nat)
  | ceFp32 (t c opSet slot laBase terms : Nat) (add : Bool) (epoch : Nat)
  | ceOutl (t c opSet slot laBase terms : Nat) (add : Bool) (epoch : Nat)
  | combine (t c recvBase contributors laBase ctr : Nat)
  | round (t c laBase dst fmt count epoch : Nat)
  | vec (t c src src2 dst op fmt strips e1 e2 : Nat)
  | vecFn (t c src dst fn fmt strips e1 e2 : Nat)
  | vecRed (t c src dst fmt strips e1 e2 : Nat)
  | moments (t c src dst fmt strips e1 e2 : Nat)
  | rank (t c src posSlot dst fmt k : Nat) (minMode : Bool) (e1 e2 : Nat)
  | aeIssue (t c walk engine e1 e2 : Nat)
  | engineCompletion (t : Nat) (engine : Engine) (finding : EngineFinding) (coll now : Nat)
  | residueRepeatDone (t : Nat) (unit : UnitKind) (index : Nat) (repeatOk thirdOk : Bool) (now : Nat)
  | transientLimit (die : Nat) (unit : UnitKind) (index now : Nat)
  | flitParityError (die port stripe : Nat) (onDie : Option Nat) (resendOk : Bool) (now : Nat)
  | stripeDown (die port stripe now : Nat)
  | twimerLinkDown (die port now : Nat)
  | contextSwitch (t c corrected : Nat) (poisoned : List Nat) (now : Nat)
  | preempt (t c corrected : Nat) (poisoned : List Nat) (now : Nat)
  | passOpen (p now : Nat)
  | matrixOutputComplete (p pass layer matrix outTile t laBase now : Nat)
  | checkDone (t : Nat) (shadowPoison : Bool) (now : Nat)
  | troubleNotice (p pass layer gen outTile matrix now : Nat)
  | stepResolved (p pass layer matrix gen t now : Nat)
  | walkAccept (die engine now : Nat)
  | walkEnd (die engine idx : Nat) (poison : Bool) (now : Nat)
  | passCommit (p pass now : Nat)
  | specCut (p entry : Nat)
  | specProbe (p entry : Nat)
  | confirmStart (p now : Nat)
  | confirmEnd (p idx now : Nat)
  | alarmRelease (p cand now : Nat)
  | entryFreed (p entry now : Nat)
  | editApply (p entry now : Nat)
  | install (iss : Issuer) (cmd header : List Byte) (plain : Plain) (keyOk : Bool) (now : Nat)
  | installChunk (stack : Nat) (tagOk : Bool) (bytes now : Nat)
  | activate (iss : Issuer) (cmd : List Byte) (now : Nat)
  | erase (iss : Issuer) (cmd : List Byte) (now : Nat)
  | load (iss : Issuer) (cmd : List Byte) (now : Nat)
  | imageChunkDecrypted (stack : Nat) (tagOk : Bool) (now : Nat)
  | pvDone (p slot layer : Nat) (failing again : List (Nat × Nat × Nat)) (seeds : List (Nat × Nat × Nat × Int × Int)) (now : Nat)
  | unload (iss : Issuer) (cmd : List Byte) (now : Nat)
  | swap (iss : Issuer) (cmd : List Byte) (now : Nat)
  | weirClose (p slot now : Nat)
  | weirDrainDone (p slot now : Nat)
  | weirRelease (p slot now : Nat)
  | variantLoad (iss : Issuer) (cmd : List Byte) (now : Nat)
  | variantUnload (iss : Issuer) (cmd : List Byte) (now : Nat)
  | abort (iss : Issuer) (cmd : List Byte) (now : Nat)
  | tempWindowResume (op now : Nat)
  | installTempTimeout (stack now : Nat)
  | installSessionTimeout (stack now : Nat)
  | shadowRepair (p slot chunk : Nat) (now : Nat)
  | partResetStart (p cause now : Nat)
  | partResetFinish (p : Nat) (failedTarns : List (Nat × Nat)) (us now : Nat)
  | ptReset (req : Requester) (now : Nat)
  | ptFence (req : Requester) (now : Nat)
  | fmComputeRetire (req : Requester) (die : Nat) (transitOk : Bool) (now : Nat)
  | fmDarkRetire (req : Requester) (die now : Nat)
  | fmRetireChannel (req : Requester) (stack ch now : Nat)
  | dieRetire (die reason : Nat) (transitOk : Bool) (now : Nat)
  | channelRetire (stack ch now : Nat)
  | relocation (p now : Nat)
  | relocationRetry (p now : Nat)
  | partRestart (src : CmdSrc) (p now : Nat)
  | ownersReload (src : CmdSrc) (now : Nat)
  | moduleRestart (src : CmdSrc) (now : Nat)
  | cfgWrite (req : Requester) (image : List Byte) (now : Nat)
  | cfgFlashWriteDone (readback : List Byte) (now : Nat)
  | fleshaSubscribe (port addr udp : Nat) (msg : List Byte) (now : Nat)
  | fleshaRead (port addr udp : Nat) (msg : List Byte) (now : Nat)
  | fleshaWrite (port addr udp : Nat) (msg : List Byte) (now : Nat)
  | fleshaImageData (port addr udp : Nat) (msg : List Byte) (tagOk : Bool) (now : Nat)
  | fleshaCfgData (port addr udp : Nat) (msg : List Byte) (now : Nat)
  | fleshaTime (port addr udp : Nat) (msg : List Byte) (now : Nat)
  | fleshaResync (port addr udp : Nat) (msg : List Byte) (now : Nat)
  | fleshaDebugUnlock (port addr udp : Nat) (msg : List Byte) (now : Nat)
  | fleshaDebugLock (port addr udp : Nat) (msg : List Byte) (now : Nat)
  | fleshaFailover (port addr udp : Nat) (msg : List Byte) (now : Nat)
  | fleshaLogRead (port addr udp : Nat) (msg : List Byte) (now : Nat)
  | sbStatus (iod : Nat)
  | sbRead (iod : Nat) (body : List Byte)
  | sbWrite (iod : Nat) (body : List Byte) (now : Nat)
  | sbCfgData (iod : Nat) (body : List Byte) (now : Nat)
  | sbTime (iod : Nat) (body : List Byte) (now : Nat)
  | ltnLock (req : Requester) (value now : Nat)
  | lanternSelWrite (req : Requester) (addr value : Nat)
  | hkSwTrig (die value now : Nat)
  | tstatSelect (t off value : Nat)
  | tstatClear (t value : Nat)
  | rcRead (req : Requester) (addr : Nat)
  | lowWordRead (req : Requester) (addr : Nat)
  | regWrite (req : Requester) (addr value be : Nat)
  | bar2Access (fn off : Nat) (data : Option (List Byte)) (len : Nat)
  | hostBatchCommandRead (fn : Nat) (bytes : Option (List Byte)) (now : Nat)
  | auxInRange
  | boundaryScanCycle (trst tms tdi : Bool) (irs : List TapInstr)
  deriving DecidableEq, Repr

end Sys2Proof
end

