-- ==== Sys2Proof/Machine/Store.lean ====
section
/-! DEFINITION. Sparse tables: the one form in which the block's large arrays (DRAM, Basins, scratchpads, registers by
selector, request entries) are held. A table is a list of key and value pairs with keys strictly rising and no entry equal
to the table's default, so equal tables are equal data. -/

namespace Sys2Proof.Machine

/-- A sparse table from Nat keys to `α`. -/
abbrev Tab (α : Type) := List (Nat × α)

/-- Read key `k`; a key that is not listed reads `d`. -/
def tget {α : Type} (d : α) : Tab α → Nat → α
  | [], _ => d
  | (j, v) :: t, k => if k = j then v else tget d t k

/-- Put the pair `(k, v)` at its place, whatever `v` is. -/
def tput {α : Type} : Tab α → Nat → α → Tab α
  | [], k, v => [(k, v)]
  | (j, w) :: t, k, v =>
    if k = j then (k, v) :: t else if k < j then (k, v) :: (j, w) :: t else (j, w) :: tput t k v

/-- Drop key `k`. -/
def tdel {α : Type} : Tab α → Nat → Tab α
  | [], _ => []
  | (j, w) :: t, k => if k = j then tdel t k else (j, w) :: tdel t k

/-- Write `v` at `k`; writing the default removes the entry, so the canonical form is kept. -/
def tset {α : Type} [DecidableEq α] (d : α) (t : Tab α) (k : Nat) (v : α) : Tab α :=
  if v = d then tdel t k else tput t k v

/-- Change the value at `k` by `f`. -/
def tmod {α : Type} [DecidableEq α] (d : α) (t : Tab α) (k : Nat) (f : α → α) : Tab α :=
  tset d t k (f (tget d t k))

/-- Every key is above `lo`, keys rise strictly, and no entry holds the default. -/
def tabWfFrom {α : Type} [DecidableEq α] (d : α) : Nat → Tab α → Bool
  | _, [] => true
  | lo, (j, v) :: t => decide (lo ≤ j) && decide (v ≠ d) && tabWfFrom d (j + 1) t

/-- The canonical form of a table. -/
def tabWf {α : Type} [DecidableEq α] (d : α) (t : Tab α) : Bool := tabWfFrom d 0 t

/-- Byte memory: addresses as keys; an unlisted address reads 0 (R412 step 6: DRAM is written with zeros). -/
abbrev Memory := Tab Byte

/-- The canonical form of a memory. -/
abbrev Memory.wf (m : Memory) : Prop := tabWf (0 : Byte) m = true

/-- Read one byte. -/
def memGet (m : Memory) (a : Nat) : Byte := tget 0 m a

/-- Write one byte. -/
def memSet (m : Memory) (a : Nat) (b : Byte) : Memory := tset 0 m a b

/-- Read `n` bytes from `a` on. -/
def memRead (m : Memory) (a : Nat) : Nat → List Byte
  | 0 => []
  | n + 1 => memGet m a :: memRead m (a + 1) n

/-- Write the bytes `bs` from `a` on. -/
def memWrite (m : Memory) (a : Nat) : List Byte → Memory
  | [] => m
  | b :: bs => memWrite (memSet m a b) (a + 1) bs

/-- A counter that saturates at its all-ones value (R15). -/
def satAdd {w : Nat} (c : BitVec w) (n : Nat) : BitVec w :=
  if c.toNat + n < 2 ^ w then BitVec.ofNat w (c.toNat + n) else BitVec.allOnes w

/-- A counter marked as wrapping (R15). -/
def wrapAdd {w : Nat} (c : BitVec w) (n : Nat) : BitVec w := c + BitVec.ofNat w n

end Sys2Proof.Machine
end

