-- ==== Sys2Proof/Machine/Flags.lean ====
section
/-! DEFINITION. Check words and digests: CRC-16 of Tarn rows (R462), CRC-32 of Ethernet, CRC-32C (R309, R402), CRC-64/XZ
(R290), the Internet checksum (R300), SHA-384 (R334, R401) and HMAC-SHA-384 (R472). -/

namespace Sys2Proof.Machine

/-- `f x`, where a reader that evaluates it step by step evaluates `x` first: a long computation then carries numbers and not
a chain of steps still to be done. -/
def evalThen {w : Nat} {α : Type} (x : BitVec w) (f : BitVec w → α) : α :=
  match x.toNat with
  | 0 => f 0#w
  | n + 1 => f (BitVec.ofNat w (n + 1))

/-- `f xs`, the words evaluated first. -/
def evalAll {w : Nat} {α : Type} : List (BitVec w) → (List (BitVec w) → α) → α
  | [], f => f []
  | x :: xs, f => evalThen x fun y => evalAll xs fun ys => f (y :: ys)

/-! ### CRCs -/

/-- One step of a reflected CRC with reversed polynomial `poly`. -/
def crcStepR {w : Nat} (poly c : BitVec w) : BitVec w := if c.getLsbD 0 then (c >>> 1) ^^^ poly else c >>> 1

/-- Eight steps. -/
def crcByteR {w : Nat} (poly c : BitVec w) (b : Byte) : BitVec w :=
  let c0 := c ^^^ BitVec.setWidth w b
  crcStepR poly (crcStepR poly (crcStepR poly (crcStepR poly (crcStepR poly (crcStepR poly (crcStepR poly (crcStepR poly
    c0)))))))

/-- The CRC register after bytes, from `c`. -/
def crcRun {w : Nat} (poly : BitVec w) : List Byte → BitVec w → BitVec w
  | [], c => c
  | b :: bs, c => evalThen (crcByteR poly c b) (crcRun poly bs)

/-- A reflected CRC with initial value and final XOR all ones. -/
def crcR {w : Nat} (poly : BitVec w) (bs : List Byte) : BitVec w := ~~~(crcRun poly bs (BitVec.allOnes w))

/-- CRC-32 of Ethernet frames (IEEE 802.3). -/
def crc32 (bs : List Byte) : BitVec 32 := crcR 0xEDB88320#32 bs

/-- CRC-32C: Castagnoli polynomial 0x1EDC_6F41, reflected (R402). -/
def crc32c (bs : List Byte) : BitVec 32 := crcR 0x82F63B78#32 bs

/-- CRC-64/XZ: ECMA-182 polynomial, reflected (R290). -/
def crc64 (bs : List Byte) : BitVec 64 := crcR 0xC96C5795D7870F42#64 bs

/-- One step of the unreflected CRC-16 with polynomial 0x8BB7 (R462). -/
def crc16Step (c : BitVec 16) : BitVec 16 := if c.getLsbD 15 then (c <<< 1) ^^^ 0x8BB7#16 else c <<< 1

/-- One byte of the CRC-16, most significant bit first. -/
def crc16Byte (c : BitVec 16) (b : Byte) : BitVec 16 :=
  let c0 := c ^^^ (BitVec.setWidth 16 b <<< 8)
  crc16Step (crc16Step (crc16Step (crc16Step (crc16Step (crc16Step (crc16Step (crc16Step c0)))))))

/-- The check word of a Tarn row (R462): CRC-16, initial value 0, over its 256 bits as 32 bytes. -/
def rowCheck (row : Nat) : Nat := ((toLe 32 row).foldl crc16Byte 0).toNat

/-- The one's-complement sum of a list of big-endian 16-bit words, folded. -/
def inetSum : List Byte → Nat
  | [] => 0
  | [a] => a.toNat * 256
  | a :: b :: r => let t := a.toNat * 256 + b.toNat + inetSum r; t % 65536 + t / 65536

/-- The Internet checksum of a byte list. -/
def inetChecksum (bs : List Byte) : Nat := 65535 - inetSum bs

/-! ### SHA-384 (FIPS 180-4) -/

/-- The five 64-bit words of a 320-bit number, the most significant first. -/
def words5 (n : Nat) : List (BitVec 64) := [256, 192, 128, 64, 0].map fun i => BitVec.ofNat 64 (n / 2 ^ i)

/-- The round constants, five to a number. -/
def shaTable : List Nat :=
  [0x428a2f98d728ae227137449123ef65cdb5c0fbcfec4d3b2fe9b5dba58189dbbc3956c25bf348b538,
   0x59f111f1b605d019923f82a4af194f9bab1c5ed5da6d8118d807aa98a303024212835b0145706fbe,
   0x243185be4ee4b28c550c7dc3d5ffb4e272be5d74f27b896f80deb1fe3b1696b19bdc06a725c71235,
   0xc19bf174cf692694e49b69c19ef14ad2efbe4786384f25e30fc19dc68b8cd5b5240ca1cc77ac9c65,
   0x2de92c6f592b02754a7484aa6ea6e4835cb0a9dcbd41fbd476f988da831153b5983e5152ee66dfab,
   0xa831c66d2db43210b00327c898fb213fbf597fc7beef0ee4c6e00bf33da88fc2d5a79147930aa725,
   0x06ca6351e003826f142929670a0e6e7027b70a8546d22ffc2e1b21385c26c9264d2c6dfc5ac42aed,
   0x53380d139d95b3df650a73548baf63de766a0abb3c77b2a881c2c92e47edaee692722c851482353b,
   0xa2bfe8a14cf10364a81a664bbc423001c24b8b70d0f89791c76c51a30654be30d192e819d6ef5218,
   0xd69906245565a910f40e35855771202a106aa07032bbd1b819a4c116b8d2d0c81e376c085141ab53,
   0x2748774cdf8eeb9934b0bcb5e19b48a8391c0cb3c5c95a634ed8aa4ae3418acb5b9cca4f7763e373,
   0x682e6ff3d6b2b8a3748f82ee5defb2fc78a5636f43172f6084c87814a1f0ab728cc702081a6439ec,
   0x90befffa23631e28a4506cebde82bde9bef9a3f7b2c67915c67178f2e372532bca273eceea26619c,
   0xd186b8c721c0c207eada7dd6cde0eb1ef57d4f7fee6ed17806f067aa72176fba0a637dc5a2c898a6,
   0x113f9804bef90dae1b710b35131c471b28db77f523047d8432caab7b40c724933c9ebe0a15c9bebc,
   0x431d67c49c100d4c4cc5d4becb3e42b6597f299cfc657e2a5fcb6fab3ad6faec6c44198c4a475817]

/-- The 80 round constants. -/
def shaK : List (BitVec 64) := (shaTable.map words5).flatten

/-- Initial hash values of SHA-384: the last eight words of two numbers. -/
def sha384Init : List (BitVec 64) :=
  (words5 0xcbbb9d5dc1059ed8629a292a367cd5079159015a3070dd17152fecd8f70e5939).tail ++ (words5 0x67332667ffc00b318eb44a8768581511db0c2e0d64f98fa747b5481dbefa4fa4).tail

/-- The exclusive or of two rotations of a word and of a third word. -/
def mix2 (x : BitVec 64) (i j : Nat) (y : BitVec 64) : BitVec 64 := x.rotateRight i ^^^ (x.rotateRight j ^^^ y)

/-- The message schedule: `n` words more than the given ones, newest first. -/
def shaSchedule : Nat → List (BitVec 64) → List (BitVec 64)
  | 0, ws => ws
  | n + 1, ws =>
    let at_ := fun back : Nat => ws.getD (back - 1) 0
    let old := mix2 (at_ 15) 1 8 (at_ 15 >>> 7)
    let young := mix2 (at_ 2) 19 61 (at_ 2 >>> 6)
    evalThen (at_ 16 + at_ 7 + old + young) fun x => shaSchedule n (x :: ws)

/-- A round on the eight working variables, with the sum of its constant and its word. -/
def shaRound (kw : BitVec 64) : List (BitVec 64) → (List (BitVec 64) → List (BitVec 64)) → List (BitVec 64)
  | [a, b, c, d, e, f, g, h], go =>
    let pick := g ^^^ (e &&& (f ^^^ g))
    let most := (a &&& b) ||| (c &&& (a ||| b))
    evalThen (kw + h + pick + mix2 e 14 18 (e.rotateRight 41)) fun t =>
      evalThen (t + most + mix2 a 28 34 (a.rotateRight 39)) fun x => evalThen (d + t) fun y => go [x, a, b, c, y, e, f, g]
  | v, go => go v

/-- The rounds, one for each constant and word. -/
def shaRounds : List (BitVec 64 × BitVec 64) → List (BitVec 64) → List (BitVec 64)
  | [], v => v
  | q :: qs, v => shaRound (q.1 + q.2) v (shaRounds qs)

/-- One 128-byte block. -/
def shaBlock (h : List (BitVec 64)) (blk : List Byte) : List (BitVec 64) :=
  evalAll ((List.range 16).map fun i => BitVec.ofNat 64 (beAt blk (8 * i) 8)) fun w0 =>
    let w := (shaSchedule 64 w0.reverse).reverse
    List.zipWith (· + ·) h (shaRounds (shaK.zip w) h)

/-- Split bytes into 128-byte blocks and hash them, with fuel. -/
def shaBlocks : Nat → List (BitVec 64) → List Byte → List (BitVec 64)
  | 0, h, _ => h
  | n + 1, h, bs => evalAll (shaBlock h (bs.take 128)) fun h => shaBlocks n h (bs.drop 128)

/-- `n` as `k` big-endian bytes. -/
def toBe (k n : Nat) : List Byte := (toLe k n).reverse

/-- SHA-384 of a byte list. -/
def sha384 (bs : List Byte) : List Byte :=
  let len := bs.length
  let pad := (128 - (len + 17) % 128) % 128
  let m := bs ++ [0x80] ++ List.replicate pad 0 ++ toBe 16 (8 * len)
  (((shaBlocks (m.length / 128) sha384Init m).take 6).map fun w => toBe 8 w.toNat).flatten

/-- HMAC-SHA-384 (RFC 2104, block of 128 bytes). -/
def hmac384 (key msg : List Byte) : List Byte :=
  let k0 := if 128 < key.length then sha384 key else key
  let k := k0 ++ List.replicate (128 - k0.length) 0
  sha384 ((k.map (· ^^^ 0x5C#8)) ++ sha384 ((k.map (· ^^^ 0x36#8)) ++ msg))

end Sys2Proof.Machine
end

