-- ==== Sys2Proof/Machine/Operands.lean ====
section
/-! DEFINITION. The number formats of spec/02: element and scalar codes, block scales, rounding, the conversions of R47 to
R55, and FP32 arithmetic. Values are exact rationals; a rounding is applied to the exact value (R44). -/

namespace Sys2Proof.Machine

/-- An exact value: NaN, a signed infinity, or `± num / den` with `den > 0` (a zero keeps its sign, R45). -/
inductive Val where
  | nan
  | inf (neg : Bool)
  | fin (neg : Bool) (num den : Nat)
  deriving DecidableEq, Repr

/-! ### Rounding (R44) -/

/-- `num / den` rounded to the nearest integer, ties to even (R44). -/
def rneDiv (num den : Nat) : Nat :=
  let q := num / den
  let r := num % den
  if 2 * r < den then q else if den < 2 * r then q + 1 else if q % 2 = 0 then q else q + 1

/-- `floor (log2 (num / den))` for positive `num` and `den`. -/
def log2q (num den : Nat) : Int :=
  let e : Int := (Nat.log2 num : Int) - (Nat.log2 den : Int)
  let below : Bool :=
    if 0 ≤ e then decide (num < den * 2 ^ e.toNat) else decide (num * 2 ^ (-e).toNat < den)
  if below then e - 1 else e

/-- Round the positive value `num / den` onto a binary grid with `mb` mantissa bits and smallest normal exponent `1 - bias`;
the answer is exponent and mantissa field as one number, which carries into the next exponent by itself. -/
def roundMag (mb bias num den : Nat) : Nat :=
  if num = 0 then 0 else
  let emin : Int := 1 - (bias : Int)
  let e := log2q num den
  let e' := if e < emin then emin else e
  let sh : Int := e' - (mb : Int)
  let q := if 0 ≤ sh then rneDiv num (den * 2 ^ sh.toNat) else rneDiv (num * 2 ^ (-sh).toNat) den
  if e < emin then q else (e + (bias : Int)).toNat * 2 ^ mb + q - 2 ^ mb

/-! ### Scalar formats (R31, R37, R38) -/

/-- Decode exponent and mantissa field `m` of a binary format. -/
def magVal (mb bias m : Nat) (neg : Bool) : Val :=
  let e := m / 2 ^ mb
  let f := m % 2 ^ mb
  if e = 0 then .fin neg f (2 ^ (bias - 1 + mb))
  else
    let sh : Int := (e : Int) - (bias : Int) - (mb : Int)
    if 0 ≤ sh then .fin neg ((2 ^ mb + f) * 2 ^ sh.toNat) 1 else .fin neg (2 ^ mb + f) (2 ^ (-sh).toNat)

/-- Value of an E4M3 code (R37: no infinity, NaN 0x7F and 0xFF). -/
def decE4M3 (c : Nat) : Val :=
  let m := c % 128
  if m = 127 then .nan else magVal 3 7 m (bitOf c 7)

/-- Value of an E5M2 code (R37). -/
def decE5M2 (c : Nat) : Val :=
  let m := c % 128
  if m = 0x7C then .inf (bitOf c 7) else if 0x7C < m then .nan else magVal 2 15 m (bitOf c 7)

/-- Value of a BF16 code (R38). -/
def decBF16 (c : Nat) : Val :=
  let m := c % 2 ^ 15
  if m = 0x7F80 then .inf (bitOf c 15) else if 0x7F80 < m then .nan else magVal 7 127 m (bitOf c 15)

/-- Value of an FP32 code (R38). -/
def decFP32 (c : Nat) : Val :=
  let m := c % 2 ^ 31
  if m = 0x7F800000 then .inf (bitOf c 31) else if 0x7F800000 < m then .nan else magVal 23 127 m (bitOf c 31)

/-- Round into E4M3: finite and infinite overflow saturate (R52 S). -/
def encE4M3 : Val → Nat
  | .nan => 0x7F
  | .inf n => 128 * b2n n + 0x7E
  | .fin n a b => 128 * b2n n + Nat.min (roundMag 3 7 a b) 0x7E

/-- Round into E5M2: finite overflow saturates, infinities stay (R52 S). -/
def encE5M2 : Val → Nat
  | .nan => 0x7E
  | .inf n => 128 * b2n n + 0x7C
  | .fin n a b => 128 * b2n n + Nat.min (roundMag 2 15 a b) 0x7B

/-- Round into BF16 with IEEE 754 overflow (R52 I). -/
def encBF16 : Val → Nat
  | .nan => 0x7FC0
  | .inf n => 2 ^ 15 * b2n n + 0x7F80
  | .fin n a b => 2 ^ 15 * b2n n + Nat.min (roundMag 7 127 a b) 0x7F80

/-- Round into FP32 with IEEE 754 overflow (R44, R46). -/
def encFP32 : Val → Nat
  | .nan => 0x7FC00000
  | .inf n => 2 ^ 31 * b2n n + 0x7F800000
  | .fin n a b => 2 ^ 31 * b2n n + Nat.min (roundMag 23 127 a b) 0x7F800000

/-! ### Element codes of the block formats (R33 to R36) -/

/-- Element width in bits of a format code (R31). -/
def fmtBits (f : Nat) : Nat :=
  match f with
  | 0 => 32 | 1 => 16 | 2 => 8 | 3 => 8 | 4 => 8 | 5 => 4 | 6 => 4 | 7 => 2 | _ => 0

/-- Formats that carry a block scale (R31). -/
def fmtBlock (f : Nat) : Bool := decide (4 ≤ f) && decide (f ≤ 7)

/-- A code reserved by R31. -/
def fmtReserved (f : Nat) : Bool := decide (8 ≤ f)

/-- Twice the magnitude of a Y4 element (R35). -/
def y4Mag2 (c : Nat) : Nat :=
  match c % 8 with
  | 0 => 0 | 1 => 1 | 2 => 2 | 3 => 3 | 4 => 4 | 5 => 6 | 6 => 8 | _ => 12

/-- Two's complement of `w` bits. -/
def twosComp (w c : Nat) : Int :=
  let m := c % 2 ^ w
  if m < 2 ^ (w - 1) then (m : Int) else (m : Int) - (2 ^ w : Nat)

/-- An integer as a value over a denominator. -/
def intVal (a : Int) (den : Nat) : Val := .fin (decide (a < 0)) a.natAbs den

/-- Value of an element of any format, without its block scale (R33, R35, R36, R37, R38). -/
def decElem (f c : Nat) : Val :=
  match f with
  | 0 => decFP32 c
  | 1 => decBF16 c
  | 2 => decE5M2 c
  | 3 => decE4M3 c
  | 4 => intVal (twosComp 8 c) 1
  | 5 => intVal (twosComp 4 c) 1
  | 6 => .fin (bitOf c 3) (y4Mag2 c) 2
  | _ => intVal (2 * ((c % 4 : Nat) : Int) - 3) 2

/-- Value of a block scale code (R41). -/
def decScale (c : Nat) : Val := if 0x7F ≤ c then .nan else decE4M3 c

/-- A scale code that a weight block may hold (R42). -/
def scaleOk (c : Nat) : Bool := decide (c < 0x7F)

/-- A scale code that a schedule may supply (R48). -/
def suppliedScaleOk (c : Nat) : Bool := decide (1 ≤ c) && decide (c < 0x7F)

/-! ### Exact arithmetic on values (R45) -/

/-- A value with the sign flipped. -/
def Val.neg : Val → Val
  | .nan => .nan
  | .inf n => .inf (!n)
  | .fin n a b => .fin (!n) a b

/-- Exact sum (R45: ∞ − ∞ is NaN). -/
def Val.add : Val → Val → Val
  | .nan, _ => .nan
  | _, .nan => .nan
  | .inf m, .inf n => if m = n then .inf m else .nan
  | .inf m, _ => .inf m
  | _, .inf n => .inf n
  | .fin m a b, .fin n c d =>
    if m = n then .fin m (a * d + c * b) (b * d)
    else if a * d = c * b then .fin false 0 1
    else if c * b < a * d then .fin m (a * d - c * b) (b * d)
    else .fin n (c * b - a * d) (b * d)

/-- Exact product (R45: 0 × ∞ is NaN). -/
def Val.mul : Val → Val → Val
  | .nan, _ => .nan
  | _, .nan => .nan
  | .inf m, .inf n => .inf (m != n)
  | .inf m, .fin n c _ => if c = 0 then .nan else .inf (m != n)
  | .fin m a _, .inf n => if a = 0 then .nan else .inf (m != n)
  | .fin m a b, .fin n c d => .fin (m != n) (a * c) (b * d)

/-- Exact quotient with the IEEE 754 cases. -/
def Val.div : Val → Val → Val
  | .nan, _ => .nan
  | _, .nan => .nan
  | .inf _, .inf _ => .nan
  | .inf m, .fin n _ _ => .inf (m != n)
  | .fin m _ _, .inf n => .fin (m != n) 0 1
  | .fin m a b, .fin n c d =>
    if c = 0 then (if a = 0 then .nan else .inf (m != n)) else .fin (m != n) (a * d) (b * c)

/-- Is the value NaN? -/
def Val.isNan : Val → Bool
  | .nan => true
  | _ => false

/-- Is the value infinite? -/
def Val.isInf : Val → Bool
  | .inf _ => true
  | _ => false

/-- Is the value zero? -/
def Val.isZero : Val → Bool
  | .fin _ a _ => decide (a = 0)
  | _ => false

/-- The sign. -/
def Val.isNeg : Val → Bool
  | .nan => false
  | .inf n => n
  | .fin n _ _ => n

/-- The magnitude. -/
def Val.abs : Val → Val
  | .nan => .nan
  | .inf _ => .inf false
  | .fin _ a b => .fin false a b

/-- `x < y` for values that are not NaN; NaN answers false (R45). -/
def Val.lt : Val → Val → Bool
  | .nan, _ => false
  | _, .nan => false
  | .inf m, .inf n => m && !n
  | .inf m, .fin _ _ _ => m
  | .fin _ _ _, .inf n => !n
  | .fin m a b, .fin n c d =>
    let x : Int := if m then -((a * d : Nat) : Int) else ((a * d : Nat) : Int)
    let y : Int := if n then -((c * b : Nat) : Int) else ((c * b : Nat) : Int)
    decide (x < y)

/-- Value of a number of 2⁻⁴⁰ units (R53, R145). -/
def laVal (a : Int) : Val := intVal a (2 ^ 40)

/-! ### Scalars by format code and block conversion (R47 to R55) -/

/-- Round a value into a scalar format (R51, R52). -/
def encScalar (f : Nat) (v : Val) : Nat :=
  match f with
  | 0 => encFP32 v
  | 1 => encBF16 v
  | 2 => encE5M2 v
  | _ => encE4M3 v

/-- Fmax of a block format in halves (R47). -/
def fmax2 (f : Nat) : Nat :=
  match f with
  | 4 => 254 | 5 => 14 | 6 => 12 | _ => 3

/-- Round a value onto the element grid of Y4, Y4i or INT8 and clamp it (R47). -/
def rneGrid (f : Nat) (v : Val) : Nat :=
  match f, v with
  | _, .nan => 0
  | 4, .inf n => if n then 0x80 else 0x7F
  | 4, .fin n a b =>
    let q := rneDiv a b
    if n then (256 - Nat.min q 128) % 256 else Nat.min q 127
  | 5, .inf n => if n then 0x8 else 0x7
  | 5, .fin n a b =>
    let q := rneDiv a b
    if n then (16 - Nat.min q 8) % 16 else Nat.min q 7
  | _, .inf n => 8 * b2n n + 7
  | _, .fin n a b => 8 * b2n n + Nat.min (roundMag 1 1 a b) 7

/-- The largest magnitude of a block, NaN first and infinity next (R47, R50). -/
def amaxOf : List Val → Val
  | [] => .fin false 0 1
  | v :: vs =>
    let m := amaxOf vs
    match v, m with
    | .nan, _ => .nan
    | _, .nan => .nan
    | _, _ => if Val.lt m v.abs then v.abs else m

/-- The measured scale code of a block whose largest magnitude is `m` (R47): 0x7F where a NaN stands in it. -/
def measuredScale (f : Nat) (m : Val) : Nat :=
  match m with
  | .nan => 0x7F
  | .inf _ => 0x7E
  | .fin _ a b =>
    if a = 0 then 0 else
    let c := encE4M3 (.fin false (a * 2) (b * fmax2 f))
    if c = 0 then 1 else c

/-- Convert a block of values at scale code `s` (the loop of R47); a NaN or zero scale gives zero codes. -/
def convAt (f s : Nat) (xs : List Val) : List Nat :=
  if s = 0 ∨ 0x7F ≤ s then xs.map fun _ => 0
  else xs.map fun x => rneGrid f (x.div (decE4M3 s))

/-- Convert one block with a measured scale (R47): scale code and element codes. -/
def convMeasured (f : Nat) (xs : List Val) : Nat × List Nat :=
  let s := measuredScale f (amaxOf xs)
  (s, convAt f s xs)

/-- Convert one block with a supplied scale (R48): a NaN source makes the NaN block. -/
def convSupplied (f s : Nat) (xs : List Val) : Nat × List Nat :=
  if xs.any Val.isNan then (0x7F, xs.map fun _ => 0) else (s, convAt f s xs)

/-- Value of element code `c` of block format `f` under scale code `s` (R39, R41). -/
def blockVal (f s c : Nat) : Val :=
  if s = 0 then .fin false 0 1 else (decElem f c).mul (decScale s)

/-! ### Packing (R40) -/

/-- Pack element codes of width `w` bits, element 0 in the lowest bits of byte 0. -/
def packNat (w : Nat) : List Nat → Nat
  | [] => 0
  | c :: cs => c % 2 ^ w + 2 ^ w * packNat w cs

/-- Unpack `n` element codes of width `w`. -/
def unpackNat (w : Nat) : Nat → Nat → List Nat
  | 0, _ => []
  | n + 1, v => v % 2 ^ w :: unpackNat w n (v / 2 ^ w)

/-- The bytes of `n` packed elements. -/
def packBytes (f : Nat) (cs : List Nat) : List Byte :=
  toLe ((cs.length * fmtBits f + 7) / 8) (packNat (fmtBits f) cs)

/-- Split a list into blocks of `n` with fuel. -/
def chunksOf {α : Type} (n : Nat) : Nat → List α → List (List α)
  | 0, _ => []
  | _, [] => []
  | k + 1, xs => xs.take n :: chunksOf n k (xs.drop n)

/-- Blocks of 32 elements (R39). -/
def blocks32 {α : Type} (xs : List α) : List (List α) := chunksOf 32 xs.length xs

/-- Fill a block to 32 with the zero code (R43). -/
def padBlock (cs : List Nat) : List Nat := cs ++ List.replicate (32 - cs.length) 0

/-- Bytes of a vector in format `f`: a scalar format packed, a block format block by block with each scale after its element
bytes (R40), padded under R43. -/
def vecBytes (f : Nat) (blocks : List (Nat × List Nat)) : List Byte :=
  (blocks.map fun b => packBytes f (padBlock b.2) ++ toLe 1 b.1).flatten

/-- Bytes that a vector of `n` elements takes in format `f` (R40). -/
def vecLen (f n : Nat) : Nat :=
  if fmtBlock f then ((n + 31) / 32) * (4 * fmtBits f + 1) else n * fmtBits f / 8

/-- Read the blocks of a vector of `n` elements in a block format: scale code and element codes, without the padding. -/
def readBlocks (f n : Nat) (bs : List Byte) : List (Nat × List Nat) :=
  let bl := 4 * fmtBits f
  (List.range ((n + 31) / 32)).map fun b =>
    (byteAt bs (b * (bl + 1) + bl), (unpackNat (fmtBits f) 32 (leAt bs (b * (bl + 1)) bl)).take (Nat.min 32 (n - 32 * b)))

/-- Values of blocks (R39, R41). -/
def blocksVals (f : Nat) (bs : List (Nat × List Nat)) : List Val := (bs.map fun b => b.2.map (blockVal f b.1)).flatten

/-- Read a vector of `n` values in format `f` from its bytes. -/
def readVec (f n : Nat) (bs : List Byte) : List Val :=
  if fmtBlock f then blocksVals f (readBlocks f n bs)
  else (unpackNat (fmtBits f) n (leAt bs 0 (n * fmtBits f / 8))).map fun c => decElem f c

/-- Write values in format `f`: rounded for a scalar format, converted block by block with measured scales otherwise. -/
def writeVec (f : Nat) (xs : List Val) : List Byte :=
  if fmtBlock f then vecBytes f ((blocks32 xs).map (convMeasured f))
  else packBytes f (xs.map (encScalar f))

/-- A conversion that the module does not perform: N in R51, and every conversion into Y2 but the identity (R34, R52). -/
def convNone (f g : Nat) : Bool := f != g && (g == 7 || (f == 7 && decide (2 ≤ g) && decide (g ≤ 6)))

/-- A conversion that copies element and scale codes: the identity of a block format, and Y4i into INT8 (`=` and C of R51). -/
def convCopies (f g : Nat) : Bool := fmtBlock f && (f == g || (f == 5 && g == 4))

/-- A block copied from format `f` to `g` (R52): elements sign-extended where the width grows, the scale code kept; a scale that reads
as NaN makes the NaN block (R42, R47). -/
def copyBlock (f g : Nat) (b : Nat × List Nat) : Nat × List Nat :=
  if 0x7F ≤ b.1 then (0x7F, b.2.map fun _ => zeroElem g)
  else (b.1, if f = g then b.2 else b.2.map fun c => (twosComp 4 c % 256).toNat)
where
  /-- The code that padding and NaN blocks hold (R43, R47). -/
  zeroElem (g : Nat) : Nat := if g = 7 then 2 else 0

/-- Convert blocks of format `f` into the bytes of format `g` under R51. -/
def convBlocks (f g : Nat) (bs : List (Nat × List Nat)) : List Byte :=
  if convCopies f g then vecBytes g (bs.map (copyBlock f g)) else writeVec g (blocksVals f bs)

/-- Convert the bytes of a vector of `n` elements from format `f` to `g` under R51. -/
def convVec (f g n : Nat) (bs : List Byte) : List Byte :=
  if fmtBlock f then convBlocks f g (readBlocks f n bs) else writeVec g (readVec f n bs)

/-! ### FP32 arithmetic on codes (R46) -/

/-- FP32 sum with one rounding. -/
def f32Add (a b : Nat) : Nat := encFP32 ((decFP32 a).add (decFP32 b))

/-- FP32 product with one rounding. -/
def f32Mul (a b : Nat) : Nat := encFP32 ((decFP32 a).mul (decFP32 b))

/-- FP32 difference with one rounding. -/
def f32Sub (a b : Nat) : Nat := encFP32 ((decFP32 a).add (decFP32 b).neg)

/-- FP32 quotient with one rounding. -/
def f32Div (a b : Nat) : Nat := encFP32 ((decFP32 a).div (decFP32 b))

/-- The fused step of R46: `s + x × y` exactly, then one rounding. -/
def f32Fma (s : Nat) (x y : Val) : Nat := encFP32 ((decFP32 s).add (x.mul y))

/-- `a ≥ b` on FP32 codes; false with a NaN. -/
def f32Ge (a b : Nat) : Bool :=
  match decFP32 a, decFP32 b with
  | .nan, _ => false
  | _, .nan => false
  | x, y => !(Val.lt x y)

/-- `a < b` on FP32 codes. -/
def f32Lt (a b : Nat) : Bool := Val.lt (decFP32 a) (decFP32 b)

/-- A natural number as FP32. -/
def f32OfNat (n : Nat) : Nat := encFP32 (.fin false n 1)

/-- FP32 +0. -/
def f32Zero : Nat := 0

/-- Is the FP32 code NaN? -/
def f32IsNan (c : Nat) : Bool := (decFP32 c).isNan

/-! ### Functions rounded once from the exact value (R44, R183)

A value is computed with `prec` fractional bits, far beyond FP32, and rounded once; every finite argument that FP32 holds, and its
product with a position, is a whole number of these units. -/

/-- Working precision of the functions below. -/
def prec : Nat := 512

/-- `ln 2` in units of 2^-512. -/
def ln2Fix : Nat := 9293584264128987901384440660653081117630633404975079641076009770578364573633075645167623918067512986930843040596952636663673675798576024949780480621393957

/-- Signed fixed point (2^-prec units) of a finite value, truncated. -/
def toFix (v : Val) : Int :=
  match v with
  | .fin n a b => let q := a * 2 ^ prec / b; if n then -(q : Int) else (q : Int)
  | _ => 0

/-- Taylor sum of `exp r` for `0 ≤ r < 1` in fixed point: term `t` is `r^k / k!`. -/
def expTaylor : Nat → Nat → Nat → Nat → Nat → Nat
  | 0, _, _, _, acc => acc
  | fuel + 1, k, r, t, acc =>
    let t' := t * r / 2 ^ prec / k
    expTaylor fuel (k + 1) r t' (acc + t')

/-- `exp` of a fixed-point number as a value. -/
def expFix (x : Int) : Val :=
  let k := x / (ln2Fix : Int)
  let r := (x - k * (ln2Fix : Int)).toNat
  let m := expTaylor 110 1 r (2 ^ prec) (2 ^ prec)
  if 0 ≤ k then .fin false (m * 2 ^ k.toNat) (2 ^ prec) else .fin false m (2 ^ (prec + (-k).toNat))

/-- `exp v`: exact at 0 and the infinities; beyond ±200 the result over- or underflows every scalar format. -/
def valExp (v : Val) : Val :=
  match v with
  | .nan => .nan
  | .inf n => if n then .fin false 0 1 else .inf false
  | .fin n a b =>
    if a = 0 then .fin false 1 1
    else if 200 * b < a then (if n then .fin false 1 (2 ^ 280) else .fin false (2 ^ 280) 1)
    else expFix (toFix v)

/-- One as a value. -/
def valOne : Val := .fin false 1 1

/-- `1 / (1 + exp (-v))`. -/
def valSigmoid (v : Val) : Val :=
  match v with
  | .nan => .nan
  | .inf n => if n then .fin false 0 1 else valOne
  | _ => valOne.div (valOne.add (valExp v.neg))

/-- `v × sigmoid v`; an infinite `v` gives ∞ at +∞ and −0 at −∞ (the limit). -/
def valSilu (v : Val) : Val :=
  match v with
  | .inf true => .fin true 0 1
  | _ => v.mul (valSigmoid v)

/-- `2 pi` in units of 2^-512: reducing an angle up to 2^154 by it leaves an error below 2^-356. -/
def twoPiFix : Nat := 84243741786901272438893642969118776210511994626978509211189370176207611564552197839587770744495452692887542593832666970654585833251198323084707548407665199

/-- Working precision of `erf`, whose series loses digits at large arguments. -/
def erfPrec : Nat := 448

/-- Maclaurin sum of `sum (-1)^k x^(2k+1) / (k! (2k+1))` in fixed point, `x2 = x²`; `t` is `x^(2k+1)/k!`. -/
def erfTaylor : Nat → Nat → Nat → Nat → Int → Int
  | 0, _, _, _, acc => acc
  | fuel + 1, k, x2, t, acc =>
    let term := t / (2 * k + 1)
    let acc' := if k % 2 = 0 then acc + (term : Int) else acc - (term : Int)
    erfTaylor fuel (k + 1) x2 (t * x2 / 2 ^ erfPrec / (k + 1)) acc'

/-- `pi` in units of 2^-448. -/
def piErf : Nat := 2283431196591655772568293192637813162989505182201807620455461503647463674352091780948082810000813750461678719846639713479115845689692381

/-- `erf` of a fixed-point magnitude (2^-448 units). -/
def erfFix (x : Nat) : Int :=
  let c := Nat.sqrt (4 * 2 ^ (3 * erfPrec) / piErf)
  erfTaylor 640 0 (x * x / 2 ^ erfPrec) x 0 * (c : Int) / (2 ^ erfPrec : Nat)

/-- GELU_ERF of R183, `0.5 v (1 + erf (v / √2))`; below −15 the magnitude is under half the smallest FP32 subnormal. -/
def valGeluErf (v : Val) : Val :=
  match v with
  | .nan => .nan
  | .inf n => if n then .fin true 0 1 else .inf false
  | .fin n a b =>
    if a = 0 then v
    else if n = true ∧ 15 * b ≤ a then .fin true 1 (2 ^ 300)
    else if 9 * b ≤ a then v
    else
      let x := a * Nat.sqrt (2 ^ (2 * erfPrec) / 2) / b
      let e := erfFix x
      let one : Int := (2 ^ erfPrec : Nat)
      let s := if n then one - e else one + e
      v.mul (.fin false s.toNat (2 ^ (erfPrec + 1)))

/-- `√(2/π)` in units of 2^-512. -/
def sqrtTwoOverPiFix : Nat := Nat.sqrt (2 * 2 ^ (3 * prec) / (twoPiFix / 2))

/-- GELU_TANH of R183: `0.5 v (1 + tanh z) = v / (1 + e^(-2z))` with `z = √(2/π) (v + 0.044715 v³)`. -/
def valGeluTanh (v : Val) : Val :=
  match v with
  | .nan => .nan
  | .inf n => if n then .fin true 0 1 else .inf false
  | .fin _ a _ =>
    if a = 0 then v
    else
      let inner := v.add ((Val.fin false 44715 1000000).mul (v.mul (v.mul v)))
      let z2 := (Val.fin false (2 * sqrtTwoOverPiFix) (2 ^ prec)).mul inner
      v.div (valOne.add (valExp z2.neg))

/-- Reciprocal square root of a value, to `prec` bits. -/
def valRsqrt (v : Val) : Val :=
  match v with
  | .nan => .nan
  | .inf n => if n then .nan else .fin false 0 1
  | .fin n a b =>
    if a = 0 then .inf n
    else if n then .nan
    else .fin false (Nat.sqrt (b * 2 ^ (2 * prec + 512) / a)) (2 ^ (prec + 256))

/-- Square root of a value, to `prec` bits (exact squares stay exact). -/
def valSqrt (v : Val) : Val :=
  match v with
  | .nan => .nan
  | .inf n => if n then .nan else .inf false
  | .fin n a b =>
    if a = 0 then v else if n then .nan
    else .fin false (Nat.sqrt (a * 2 ^ (2 * prec + 512) / b)) (2 ^ (prec + 256))

/-- RELU of R183: `max (v, +0)`; −0 and every negative give +0. -/
def valRelu (v : Val) : Val :=
  match v with
  | .nan => .nan
  | .inf n => if n then .fin false 0 1 else .inf false
  | .fin n a b => if n then .fin false 0 1 else .fin false a b

/-- The functions of R183 by code, exact before the one rounding; a reserved code is refused at load and answers NaN. -/
def vecFnVal (code : Nat) (v : Val) : Val :=
  match code with
  | 0 => valExp v
  | 1 => valRsqrt v
  | 2 => valOne.div v
  | 3 => valSigmoid v
  | 4 => valSilu v
  | 5 => valGeluTanh v
  | 6 => valGeluErf v
  | 7 => valRelu v
  | _ => .nan

/-- Maclaurin sums of sine (`k` odd start) and cosine in fixed point: `t` is the running power over factorial. -/
def trigTaylor : Nat → Nat → Int → Int → Int → Int
  | 0, _, _, _, acc => acc
  | fuel + 1, k, x2, t, acc =>
    let t' := -(t * x2 / (2 ^ prec : Nat) / (((k + 1) * (k + 2) : Nat) : Int))
    trigTaylor fuel (k + 2) x2 t' (acc + t')

/-- The angle reduced to one turn. -/
def reduceTurn (x : Int) : Int := x % (twoPiFix : Int)

/-- Sine of a fixed-point angle, as a value. -/
def sinFix (x : Int) : Val :=
  let r := reduceTurn x
  intVal (trigTaylor 100 1 (r * r / (2 ^ prec : Nat)) r r) (2 ^ prec)

/-- Cosine of a fixed-point angle, as a value. -/
def cosFix (x : Int) : Val :=
  let r := reduceTurn x
  let one : Int := (2 ^ prec : Nat)
  intVal (trigTaylor 100 0 (r * r / (2 ^ prec : Nat)) one one) (2 ^ prec)

end Sys2Proof.Machine
end

