-- ==== Sys2Proof/Machine/StateTile.lean ====
section
/-! DEFINITION. The state of a tile: Tarns, correction path, long accumulators and Basin, scratchpad, schedule contexts
(spec files 03 to 06). Field defaults are the reset values; the rule that gives each stands beside it. -/

namespace Sys2Proof.Machine

/-! ### Long accumulators (R145 to R150) -/

/-- The value of a 104-bit long accumulator: an integer `A` of value `A × 2⁻⁴⁰`, or the NaN marker of R146. -/
inductive La where
  | num (a : Int)
  | nanMark
  deriving DecidableEq, Repr

/-- A Basin word or CE cell register (R149): the accumulator and its status bits. An FP32 partial in [31:0] is held as the
number of its code; which of the two a word holds is the schedule's to know, not the word's. `err` is the model's own: by how
much the array's contributions differ from the reference value of the same accumulation (R124), in units of 2⁻⁴⁰. -/
structure LaWord where
  la : La := .num 0
  poison : Bool := false
  sat : Bool := false
  outl : Bool := false
  fallback : Bool := false
  confirm : Bool := false
  err : Int := 0
  deriving DecidableEq, Repr

/-- A pass tag of a 16-word block (R150): partition, pass and replay generation. -/
structure PassTag where
  part : Nat
  pass : Nat
  gen : Nat
  deriving DecidableEq, Repr

/-! ### Tarns (R60 to R104, R114 to R118) -/

/-- Coefficients of a converter column (R114, R118). `reached` is set at the first limit after seeding. -/
structure Coef where
  g : Int := 0
  o : Int := 0
  atLimit : Bool := false
  reached : Bool := false
  deriving DecidableEq, Repr

/-- Comparison sums of a converter column (R115), FP32 codes and the count. -/
structure CmpSums where
  n : Nat := 0
  se : Nat := 0
  sc : Nat := 0
  sec : Nat := 0
  scc : Nat := 0
  deriving DecidableEq, Repr

/-- A statistics window or snapshot of a bit-column (R93). -/
structure StatWin where
  n : Nat := 0
  sum : Nat := 0
  sumsq : Nat := 0
  min : Nat := 0
  max : Nat := 0
  sat : Nat := 0
  excess : Nat := 0
  deriving DecidableEq, Repr

/-- An entry of a Tarn's column map (R91, R97): the logical bit-column that its spare column replaces, whether it was fused at the factory,
and whether the spare column failed in its turn and another entry replaces it (log entry 190). -/
structure ColEntry where
  col : Nat
  factory : Bool
  dead : Bool := false
  deriving DecidableEq, Repr

/-- An entry of a tile's spare-Tarn map (R92, R97): the addressable Tarn that the spare replaces, whether it was fused at the factory, and
whether the spare failed in its turn (log entry 190). -/
structure SpEntry where
  tarn : Nat
  factory : Bool
  dead : Bool := false
  deriving DecidableEq, Repr

/-- An MVM in progress on a Tarn (R72, R116): its inputs, its remaining quads, the plane that runs next, the sums of the
active quad (column × 16 + group) and the groups flagged for recomputation. It stays after its last round, with no quad left,
until the next MVM of the Tarn starts. `discard` marks one whose codes are discarded (R71), `dead` one whose step went to fallback: its
rounds run on, and their results enter nothing. `op` is the instruction in flight that it belongs to. -/
structure Mvm where
  part : Nat := 0
  slot : Nat := 0
  ctx : Nat := 0
  layer : Nat := 0
  matrix : Nat := 0
  nBase : Nat := 0
  cols : Nat := 0
  pass : Nat := 0
  gen : Nat := 0
  planes : Nat := 4
  x : List Int := []
  xScale : List Nat := []
  quads : List Nat := []
  plane : Nat := 0
  usum : Tab Int := []
  flagged : List Nat := []
  laBase : Nat := 0
  cell : Bool := false
  poison : Bool := false
  sampled : List Nat := []
  discard : Bool := false
  dead : Bool := false
  op : Nat := 0
  deriving DecidableEq, Repr

/-- A fine count kept for a sampled output tile until its check resolves (R115): the step, the converter column
(bank × 264 + physical bit-column), the fine count in 2⁻²² units and the ideal count of the shadow's weights. -/
structure Kept where
  part : Nat
  pass : Nat
  gen : Nat
  layer : Nat
  matrix : Nat
  outTile : Nat
  key : Nat
  fine : Int
  ideal : Nat
  deriving DecidableEq, Repr

/-- A Tarn (R61): 512 rows of 256 logical bits, the check word of each row (R102, R462), its format and weight scales
(column × 16 + group, R65), the column map (R91), who holds it (partition, image slot, replica) with the matrix chunk it carries, and its converter columns (bank × 264 +
physical bit-column). `seeded` says that its columns hold the seed of a program-and-verify (R117). `pend` holds coefficients that wait for the next MVM (R116), `rewrite` rows waiting for an MVM
boundary (R102), `ranSince` the passes (partition, pass) that ran on it since its last clean scrub (R463). -/
structure Tarn where
  rows : Tab Nat := []
  check : Tab Nat := []
  fmt : Nat := 5
  scales : Tab Nat := []
  colMap : Tab ColEntry := []
  holder : Option (Nat × Nat × Nat) := none
  layer : Nat := 0
  matrix : Nat := 0
  kChunk : Nat := 0
  nBase : Nat := 0
  cols : Nat := 0
  kept : List Kept := []
  coefs : Tab Coef := []
  seeded : Bool := false
  cmps : Tab CmpSums := []
  pend : Tab Coef := []
  win : Tab StatWin := []
  snap : Tab StatWin := []
  snapSeq : Tab Nat := []
  mvm : Option Mvm := none
  rewrite : Tab Nat := []
  rowFixAt : Tab Nat := []
  ranSince : List (Nat × Nat) := []
  deriving DecidableEq, Repr

/-- The read window of the column statistics (R94, R96). -/
structure StatView where
  seq : Nat := 0
  valid : Bool := false
  mapped : Bool := false
  frozen : Bool := false
  win : StatWin := {}
  deriving DecidableEq, Repr

/-- A queued sampled check (R124, R126), with the dies whose Tarns worked for its output tile (R132). -/
structure Check where
  part : Nat
  slot : Nat
  pass : Nat
  gen : Nat
  layer : Nat
  matrix : Nat
  outTile : Nat
  forced : Bool
  vals : List La
  refs : List La
  dies : List Nat := []
  deriving DecidableEq, Repr

/-! ### Instructions in flight (R179) -/

/-- A result that an instruction names: scratchpad rows, or LA words, from a base on. -/
inductive Res where
  | rows (base n : Nat)
  | words (base n : Nat)
  deriving DecidableEq, Repr

/-- An engine instruction that has been issued and has not completed (R179): its number on the tile, the engine, the context, the results
that a later instruction waits for, the Tarns that run its MVM, and whether it is a COMBINE (R157). -/
structure InFlight where
  id : Nat := 0
  engine : Engine
  ctx : Nat
  res : List Res := []
  tarns : List Nat := []
  combine : Bool := false
  deriving DecidableEq, Repr

/-- The fields of a 128-bit schedule instruction (R329): opcode, the two epochs, and the operand fields A to D. -/
structure Code where
  op : Nat
  e1 : Nat := 0
  e2 : Nat := 0
  a : Nat := 0
  b : Nat := 0
  c : Nat := 0
  d : Nat := 0
  deriving DecidableEq, Repr

/-! ### Scratchpad (R185 to R197) -/

/-- A scratchpad row: 64 data bytes, epoch tag, FULL, remaining readers, poison (R449), suspect mark (R457). -/
structure Row where
  data : List Byte := []
  epoch : Nat := 0
  full : Bool := false
  readers : Nat := 0
  poison : Bool := false
  suspect : Bool := false
  deriving DecidableEq, Repr

/-- A PULL request open at a source station (R195 to R197). -/
structure PullReq where
  id : Nat
  part : Nat
  tag : Nat
  srcSlot : Nat
  epoch : Nat
  release : Bool
  dstTile : Nat
  dstCtx : Nat
  dstSlot : Nat
  dstEpoch : Nat
  ctr : Nat
  pass : Nat
  gen : Nat
  deriving DecidableEq, Repr

/-! ### Schedule contexts (R169, R180, R181, R189) -/

/-- A schedule context of a tile: who owns it, its schedule, program counter, loops in progress, the 48 arrival counters,
a WAIT_ARR in progress (counter, count), the pass it serves and that pass's generation, the layer it last ended, the CE cells of a context
that is switched out (with what each holds against its reference value, which the save area has no place for),
the dynamic outliers selected per quantised slot (R112: position and BF16 code),
which output columns its LA words carry (word, count, layer, matrix, first column: the model's bookkeeping of what the
schedule fixes), the placement of the step that runs (R176: 1 BASIN), the newest turn it has taken up, and the passes that it has
finished and must run again from a layer on (R129). -/
structure Ctx where
  part : Option Nat := none
  slot : Nat := 0
  relTile : Nat := 0
  sched : Option Sched := none
  pc : Nat := 0
  loops : List (Nat × Nat × Nat) := []
  arr : Tab Nat := []
  wait : Option (Nat × Nat) := none
  pass : Option Nat := none
  gen : Nat := 0
  layer : Nat := 0
  cells : Tab LaWord := []
  outl : Tab (List (Nat × Nat)) := []
  regions : List (Nat × Nat × Nat × Nat × Nat) := []
  place : Nat := 0
  served : Option Nat := none
  redo : List (Nat × Nat) := []
  deriving DecidableEq, Repr

/-! ### The tile -/

/-- A tile (block 0x20 + tile number, R26). `units` is what the vector, moments and rank units hold, as the words of R169's save area (log
entry 78). -/
structure Tile where
  -- Tarns and statistics (R96, R97)
  tarns : Tab Tarn := []
  tstatTarn : Nat := 0
  tstatCol : Nat := 0
  windowLog2 : Nat := 16
  freeze : Bool := false
  view : StatView := {}
  rounds : Dword := 0
  satCnt : Word := 0
  excessCnt : Word := 0
  spMap : Tab SpEntry := []
  short : Bool := false
  mapSel : Nat := 0
  -- correction path (R142)
  driftFreeze : Bool := false
  driftTarn : Nat := 0
  driftBank : Nat := 0
  driftCol : Nat := 0
  driftUpdCnt : Word := 0
  driftLimitCnt : Word := 0
  dynOutlCnt : Dword := 0
  dynOvfCnt : Word := 0
  dynFbCnt : Word := 0
  dynRangeCnt : Word := 0
  satFbCnt : Word := 0
  chkTakenCnt : Word := 0
  chkSkipCnt : Word := 0
  chkTroubleCnt : Word := 0
  chkNdiff : Nat := 0
  chkMaxdiff : Nat := 0
  chkLayer : Nat := 0
  chkMatrix : Nat := 0
  satFlags : List (Nat × Nat × Nat) := []
  checks : List Check := []
  chkPeak : Nat := 0
  -- accumulation (R149, R150, R154, R176)
  basin : Tab LaWord := []
  tags : Tab (Option PassTag) := []
  cells : Tab LaWord := []
  basinSpares : Nat := 0
  basinLost : Nat := 0
  basinWords : Nat := 0
  units : Tab Nat := []
  combining : Bool := false
  switching : Bool := false
  switchTarget : Option Nat := none
  accRangeCnt : Word := 0
  accStaleCnt : Word := 0
  accCombineCnt : Word := 0
  ctxSaveCnt : Word := 0
  ctxRestoreCnt : Word := 0
  ctxFixCnt : Word := 0
  ctxPoisonCnt : Word := 0
  -- sequencer, scratchpad, mesh (R208)
  ctxs : Tab Ctx := []
  running : Option Nat := none
  switchPending : Bool := false
  fenced : Bool := false
  arrSel : Nat := 0
  rows : Tab Row := []
  spareRows : Nat := 0
  spadShort : Bool := false
  rowsLost : List Nat := []
  rowsUsed : Nat := 0
  schedFaultCnt : Word := 0
  accessFaultCnt : Word := 0
  pullCnt : Word := 0
  pullMergeCnt : Word := 0
  arbCollideCnt : Word := 0
  meshXpartCnt : Word := 0
  pulls : List PullReq := []
  -- engines and spares (R179, R455, R456); a pending residue repeat: unit, index, the instruction in flight
  inFlight : List InFlight := []
  issued : Nat := 0
  residuePending : List (UnitKind × Nat × Nat) := []
  ceSpareUsed : Bool := false
  unitFaults : Tab (Tab Nat) := []
  deriving DecidableEq, Repr

end Sys2Proof.Machine
end

