-- ==== Sys2Proof/Machine/Arith.lean ====
section
/-! DEFINITION. Accumulation, reduction and the scale-and-add tree: long accumulators (R145 to R153), FP32 reductions in
both orders (R159 to R163), the rank unit (R164 to R166), the moments unit (R167, R168), the corrected count and the tree
(R76 to R82), drift updates (R114 to R118), the sampled check (R124) and the LFSR (R122, R123). -/

namespace Sys2Proof.Machine

/-! ### Long accumulators -/

/-- A magnitude of an LA value in 2⁻⁴⁰ units is legal when it is at most 2⁶³ − 2⁻⁴⁰ (R146). -/
def laLegal (a : Int) : Bool := decide (a.natAbs < 2 ^ 103)

/-- An exact value as an LA (R53): NaN gives the marker (R54). -/
def laOf : Val → La
  | .fin n a b => let q : Nat := a * 2 ^ 40 / b; .num (if n then -(q : Int) else (q : Int))
  | _ => .nanMark

/-- The exact value of an LA; the marker reads as NaN (R54). -/
def laToVal : La → Val
  | .num a => laVal a
  | .nanMark => .nan

/-- Exact sum of two LAs (R146, R151); `none` where the sum leaves the legal range (R148). -/
def laAdd : La → La → Option La
  | .nanMark, _ => some .nanMark
  | _, .nanMark => some .nanMark
  | .num a, .num b => if laLegal (a + b) then some (.num (a + b)) else none

/-- Enter a contribution into a word (R151). The flag says that the addition left the legal range: the LA keeps its value
and POISON is set (R148). -/
def laEnter (w c : LaWord) : LaWord × Bool :=
  let st := { w with
    poison := w.poison || c.poison, sat := w.sat || c.sat, outl := w.outl || c.outl,
    fallback := w.fallback || c.fallback, confirm := false }
  match laAdd w.la c.la with
  | some v => ({ st with la := v }, false)
  | none => ({ st with poison := true }, true)

/-- The 112 bits of a Basin word (R149); an LA is shown in 104-bit two's complement. -/
def laWordNat (w : LaWord) : Nat :=
  let la := match w.la with
    | .nanMark => 2 ^ 103
    | .num a => (a % (2 ^ 104 : Nat)).toNat
  la + 2 ^ 104 * b2n w.poison + 2 ^ 105 * b2n w.sat + 2 ^ 106 * b2n w.outl + 2 ^ 107 * b2n w.fallback +
    2 ^ 108 * b2n w.confirm

/-! ### FP32 reductions -/

/-- One strip of R160 over the lanes. -/
def laneStep : List (Option Nat) → List Val → List (Option Nat)
  | [], _ => []
  | as, [] => as
  | a :: as, t :: ts =>
    some (match a with
      | none => encFP32 t
      | some x => encFP32 ((decFP32 x).add t)) :: laneStep as ts

/-- Fold of two lanes (R160): an empty lane passes its partner through. -/
def foldPair : Option Nat → Option Nat → Option Nat
  | none, b => b
  | a, none => a
  | some a, some b => some (f32Add a b)

/-- The folds at half widths of R160. -/
def foldLanes : Nat → List (Option Nat) → Option Nat
  | 0, as => as.headD none
  | fuel + 1, as =>
    let h := as.length / 2
    if h = 0 then as.headD none else foldLanes fuel (List.zipWith foldPair (as.take h) (as.drop h))

/-- Native order (R160) on a shape of `L` lanes. -/
def redNative (L : Nat) (ts : List Val) : Nat :=
  let lanes := (chunksOf L ts.length ts).foldl laneStep (List.replicate L none)
  (foldLanes 8 lanes).getD 0

/-- One level of the pairwise tree of R162. -/
def pairUp : List Val → List Val
  | a :: b :: r => decFP32 (encFP32 (a.add b)) :: pairUp r
  | r => r

/-- Compatibility order (R162). -/
def redCompat : Nat → List Val → Nat
  | _, [] => 0
  | _, [v] => encFP32 v
  | 0, v :: _ => encFP32 v
  | fuel + 1, vs => redCompat fuel (pairUp vs)

/-- A reduction under an order code (R159): 0 native, 1 compatibility. -/
def reduce (order L : Nat) (ts : List Val) : Nat :=
  if order = 0 then redNative L ts else redCompat 24 ts

/-! ### Rank unit -/

/-- `a` ranks strictly before `b` (R164): value codes with positions, in format `f` (0 FP32, 1 BF16). -/
def rankBefore (f : Nat) (minMode : Bool) (a b : Nat × Nat) : Bool :=
  let x := decElem f a.1
  let y := decElem f b.1
  if x.isNan then y.isNan && decide (a.2 < b.2)
  else if y.isNan then true
  else if Val.lt x y then minMode
  else if Val.lt y x then !minMode
  else decide (a.2 < b.2)

/-- Insert a candidate into a ranked list. -/
def rankInsert (f : Nat) (m : Bool) (c : Nat × Nat) : List (Nat × Nat) → List (Nat × Nat)
  | [] => [c]
  | d :: ds => if rankBefore f m c d then c :: d :: ds else d :: rankInsert f m c ds

/-- Candidates in rank order. -/
def rankSort (f : Nat) (m : Bool) (cs : List (Nat × Nat)) : List (Nat × Nat) :=
  cs.foldl (fun acc c => rankInsert f m c acc) []

/-- The rank unit (R164, R166): count and `k` entries, the missing ones with position 0xFFFF_FFFF and the produced NaN. -/
def rankUnit (f k : Nat) (m : Bool) (cs : List (Nat × Nat)) : Nat × List (Nat × Nat) :=
  let r := (rankSort f m cs).take k
  (r.length, r ++ List.replicate (k - r.length) (encScalar f .nan, 0xFFFFFFFF))

/-! ### Moments unit -/

/-- A lane of the moments unit (R167). -/
structure MomLane where
  n : Nat := 0
  sum : Nat := 0
  sumsq : Nat := 0
  mean : Nat := 0
  m2 : Nat := 0
  deriving DecidableEq, Repr

/-- One element into one lane (R167). -/
def momElem (l : MomLane) (x : Nat) : MomLane :=
  let n := l.n + 1
  let xv := decFP32 x
  let d := f32Sub x l.mean
  let mean := f32Add l.mean (encFP32 ((decFP32 d).div (.fin false n 1)))
  { n := n
    sum := f32Add l.sum x
    sumsq := f32Fma l.sumsq xv xv
    mean := mean
    m2 := f32Add l.m2 (f32Mul d (f32Sub x mean)) }

/-- Fold of two lanes (R167). -/
def momFold (a b : MomLane) : MomLane :=
  if b.n = 0 then a else if a.n = 0 then b else
  let nn := a.n + b.n
  let d := f32Sub b.mean a.mean
  { n := nn
    sum := f32Add a.sum b.sum
    sumsq := f32Add a.sumsq b.sumsq
    mean := f32Add a.mean (f32Mul d (encFP32 (.fin false b.n nn)))
    m2 := f32Add (f32Add a.m2 b.m2) (f32Mul (f32Mul d d) (encFP32 (.fin false (a.n * b.n) nn))) }

/-- One strip over the lanes. -/
def momStrip : List MomLane → List Nat → List MomLane
  | [], _ => []
  | ls, [] => ls
  | l :: ls, x :: xs => momElem l x :: momStrip ls xs

/-- The folds at 32, 16, 8, 4, 2, 1. -/
def momFolds : Nat → List MomLane → MomLane
  | 0, ls => ls.headD {}
  | fuel + 1, ls =>
    let h := ls.length / 2
    if h = 0 then ls.headD {} else momFolds fuel (List.zipWith momFold (ls.take h) (ls.drop h))

/-- The moments of a vector of FP32 codes (R167). -/
def momentsOf (xs : List Nat) : MomLane :=
  momFolds 7 ((chunksOf 64 xs.length xs).foldl momStrip (List.replicate 64 {}))

/-- What the unit delivers (R168): n, sum, sumsq, mean, var, rms. -/
def momentsOut (m : MomLane) : Nat × Nat × Nat × Nat × Nat × Nat :=
  if m.n = 0 then (0, 0, 0, 0, 0, 0) else
  let nv : Val := .fin false m.n 1
  let ms := encFP32 ((decFP32 m.sumsq).div nv)
  (m.n, m.sum, m.sumsq, m.mean, encFP32 ((decFP32 m.m2).div nv), encFP32 (valSqrt (decFP32 ms)))

/-- The block RMS of R110. -/
def blockRms (xs : List Nat) : Nat := (momentsOut (momentsOf xs)).2.2.2.2.2

/-! ### Dynamic outliers -/

/-- Selection of R110 for one BF16 element under threshold code `tau` and block RMS: 0 no, 1 selected, 2 over the
threshold and out of range. -/
def outlSelect (tau rms x : Nat) : Nat :=
  let v := (decBF16 x).abs
  match v with
  | .fin _ a b =>
    let thr := encFP32 ((decE4M3 tau).mul (decFP32 rms))
    if Val.lt (decFP32 thr) v then
      (if b ≤ a * 2 ^ 20 ∧ a < 2 ^ 24 * b then 1 else 2)
    else 0
  | _ => 0

/-! ### LFSR (R122, R123) -/

/-- One step of the Galois LFSR of R122. -/
def lfsrStep (s : Word) : Word :=
  let t := s >>> 1
  if s.getLsbD 0 then t ^^^ 0x80200003#32 else t

/-- `n` steps. -/
def lfsrSteps : Nat → Word → Word
  | 0, s => s
  | n + 1, s => lfsrSteps n (lfsrStep s)

/-- One draw: 32 steps (R122). -/
def lfsrDraw (s : Word) : Word := lfsrSteps 32 s

/-- The seed, with 0 replaced by 1 (R122). -/
def lfsrSeed (s : Word) : Word := if s = 0 then 1 else s

/-- The sampling offset of matrix `m` for check seed `v` and `S = 2^sLog2` (R123). -/
def checkOffset : Nat → Word → Nat → Nat
  | 0, v, sLog2 => (lfsrDraw v).toNat % 2 ^ sLog2
  | m + 1, v, sLog2 => checkOffset m (lfsrDraw v) sLog2

/-- Output tile `i` of matrix `m` is sampled (R123). -/
def sampledTile (v : Word) (sLog2 m i : Nat) : Bool := decide (i % 2 ^ sLog2 = checkOffset m v sLog2)

/-! ### The tree (R58, R63, R73, R76 to R82) -/

/-- Slices per weight column (R58). -/
def slices (f : Nat) : Nat :=
  match f with
  | 7 => 2 | 6 => 5 | _ => 4

/-- Weight columns per Tarn (R58, R84). -/
def weightCols (f : Nat) : Nat :=
  match f with
  | 7 => 128 | 6 => 51 | _ => 64

/-- The stored value `u` of a weight code (R33, R35, R58). -/
def storedU (f c : Nat) : Nat :=
  match f with
  | 7 => c % 4
  | 6 => let m := y4Mag2 c; if bitOf c 3 then 16 - m else 16 + m
  | _ => (c + 8) % 16

/-- The code whose stored value is the zero of the format (R106): Y2 has none and holds 0b10. -/
def zeroCode (f : Nat) : Nat := if f = 7 then 2 else 0

/-- Weight of plane `p` of `n` (R36, R73). -/
def planeWeight (n p : Nat) : Int := if p + 1 = n then -((2 ^ p : Nat) : Int) else ((2 ^ p : Nat) : Int)

/-- Bit of an input element in plane `p`, in two's complement. -/
def planeBit (x : Int) (p : Nat) : Bool := bitOf (x % 256).toNat p

/-- Plane popcount of a row group (R73). -/
def popPlane (xs : List Int) (p : Nat) : Nat := (xs.filter fun x => planeBit x p).length

/-- The exact number of driven rows whose stored bit `bc` is 1 (R68); `rows` are the group's rows. -/
def idealCount (xs : List Int) (rows : List Nat) (p bc : Nat) : Nat :=
  ((xs.zip rows).filter fun q => planeBit q.1 p && bitOf q.2 bc).length

/-- The fine count of a raw code (R114), in units of 2⁻²². -/
def fineCount (code : Nat) (co : Coef) : Int := ((code : Int) * 256 - co.o) * (16384 + co.g)

/-- A fine count rounded to an integer, ties to even (R76, R44). -/
def fineRound (f : Int) : Int :=
  let q := rneDiv f.natAbs (2 ^ 22)
  if f < 0 then -(q : Int) else (q : Int)

/-- Clamp to 0–32 (R76). -/
def clampCount (c : Int) : Nat := Nat.min c.toNat 32

/-- `i_grp` from `u_sum` and `x_sum` (R77). -/
def iGrp (f : Nat) (uSum xSum : Int) : Int :=
  match f with
  | 7 => 2 * uSum - 3 * xSum
  | 6 => uSum - 16 * xSum
  | _ => uSum - 8 * xSum

/-- Denominator of `h` (R77): 1 for Y4i, 2 for Y4 and Y2. -/
def hDen (f : Nat) : Nat := if f = 5 then 1 else 2

/-- The contribution of a group (R77, R79): NaN where a scale reads NaN, 0 where one is 0. -/
def contribution (f : Nat) (i : Int) (sw sx : Nat) : La :=
  let w := decScale sw
  let x := decScale sx
  if w.isNan || x.isNan then .nanMark
  else laOf ((intVal i (hDen f)).mul (w.mul x))

/-! ### Drift (R114 to R118) -/

/-- Clamp an integer. -/
def clampI (lo hi x : Int) : Int := if x < lo then lo else if hi < x then hi else x

/-- A finite FP32 code rounded to an integer, ties to even; NaN and ∞ do not arise from R115's sums and give 0. -/
def f32Rne (c : Nat) : Int :=
  match decFP32 c with
  | .fin n a b => let q := rneDiv a b; if n then -(q : Int) else (q : Int)
  | _ => 0

/-- One comparison into the sums of a converter column (R115): fine count in 2⁻²² units, ideal count. *e* is formed from the exact fine count
and rounded once (log entry 208). -/
def driftSum (s : CmpSums) (fine : Int) (c : Nat) : CmpSums :=
  let e := encFP32 ((intVal fine (2 ^ 22)).add (intVal (-(c : Int)) 1))
  let cf := f32OfNat c
  { n := s.n + 1
    se := f32Add s.se e
    sc := f32Add s.sc cf
    sec := f32Add s.sec (f32Mul e cf)
    scc := f32Add s.scc (f32Mul cf cf) }

/-- The moves of gain and offset after 256 comparisons (R115), before the limits: unclamped new G and O. -/
def driftMove (s : CmpSums) (co : Coef) : Int × Int :=
  let k256 := f32OfNat 256
  let den := f32Sub (f32Mul k256 s.scc) (f32Mul s.sc s.sc)
  let slope := if f32Ge den (f32OfNat 262144) then
      f32Div (f32Sub (f32Mul k256 s.sec) (f32Mul s.se s.sc)) den
    else f32Zero
  let g := if f32Ge den (f32OfNat 262144) then co.g - clampI (-4) 4 (f32Rne (f32Mul slope (f32OfNat 8192))) else co.g
  let off := f32Div (f32Sub s.se (f32Mul slope s.sc)) k256
  (g, co.o + clampI (-4) 4 (f32Rne (f32Mul off (f32OfNat 128))))

/-- Outcome of an update (R118): new coefficients, whether a limit stopped it, whether that is the first limit after the
seeding, and which coefficient: 0 gain, 1 offset, and 2 where both reach a limit in one update, for which R467 gives no code (log entry 209). -/
def driftApply (s : CmpSums) (co : Coef) : Coef × Bool × Bool × Nat :=
  let (g, o) := driftMove s co
  let gLim := decide (g < -2048) || decide (2047 < g)
  let oLim := decide (o < -2048) || decide (2047 < o)
  let lim := gLim || oLim
  ({ co with g := clampI (-2048) 2047 g, o := clampI (-2048) 2047 o, atLimit := co.atLimit || lim,
             reached := co.reached || lim },
   lim, lim && !co.reached, if gLim && oLim then 2 else if oLim then 1 else 0)

/-! ### Sampled check (R124) -/

/-- The check unit `U` as an E4M3 code (R124). -/
def checkUnit (rs : List La) : Nat :=
  let vs := (rs.filter fun r => r != .nanMark).map laToVal
  let c := measuredScale 4 (amaxOf vs)
  if c = 0 then 1 else c

/-- Differing elements and the largest `|a − r| ÷ U` rounded down, saturating at 255 (R124, R142). -/
def checkDiffs (t : Nat) (as rs : List La) : Nat × Nat :=
  let u := decE4M3 (checkUnit rs)
  (as.zip rs).foldl (fun acc p =>
    match p.1, p.2 with
    | .num a, .num r =>
      match u with
      | .fin _ un ud =>
        let d := (a - r).natAbs * ud
        let unit := un * 2 ^ 40
        let differs := decide (t * unit < d)
        (acc.1 + b2n differs, Nat.max acc.2 (Nat.min (d / unit) 255))
      | _ => acc
    | _, _ => acc) (0, 0)

/-- Trouble is declared when more than `m` elements differ (R124). -/
def troubleDeclared (m ndiff : Nat) : Bool := decide (m < ndiff)

/-! ### Column statistics (R93) -/

/-- One conversion into a statistics window. -/
def statAdd (w : StatWin) (code : Nat) (excess : Bool) : StatWin :=
  { n := w.n + 1
    sum := w.sum + code
    sumsq := w.sumsq + code * code
    min := if w.n = 0 then code else Nat.min w.min code
    max := Nat.max w.max code
    sat := Nat.min (w.sat + b2n (decide (33 ≤ code))) 0xFFFF
    excess := Nat.min (w.excess + b2n excess) 0xFFFF }

end Sys2Proof.Machine
end

