-- ==== Sys2Proof/Config.lean ====
section
/-! DEFINITION. What an implementation fixes and the spec leaves open: the free values. -/

namespace Sys2Proof

/-- A value the spec leaves open (R387: the bytes of a pad record other than LENGTH and KIND). It has no body: nothing can be
proved about it, and a statement holds for every value of it. It is applied to `State.free`, which a step that takes a free
value advances (log entry 1). -/
opaque Config.freeValue : Nat → Word

/-- The status codes NO_DIE (R5) and NO_BLOCK (R28) in a reply over Flesha or the sideband: the spec names the statuses and gives
no code (log entry 188). -/
opaque Config.noDieCode : Nat
opaque Config.noBlockCode : Nat

/-- Where an identity block shows the die's stepping (R7, R26), and where a fuse block shows the public part of the installation
key (R6, R27): the spec gives no offset (log entry 189). -/
opaque Config.steppingOffset : Nat
opaque Config.keyOffset : Nat

/-- The words of the module identity in block 0x00 of die id 0xF0, below MC_STATUS (R27): the codes of variant, coolant coupling,
key provisioning, stepping and serial number are all the identity the spec gives, and no layout (log entry 189). -/
opaque Config.identityWord : List Nat → Nat → Nat

/-- One SECDED code of a Basin word's check bits, over 56 bits (R149): the spec gives its size and not its matrix (log entry 192). -/
opaque Config.secded : BitVec 56 → BitVec 8

/-- The 1 MiB chunk of an image's shadow that holds a weight block: image, epoch, layer, matrix, output column and 32-input block. The spec
does not lay out the shadow (log entry 193). -/
opaque Config.shadowChunk : List Nat → Nat

end Sys2Proof
end

