-- ==== Sys2Proof/Machine/Events.lean ====
section
/-! DEFINITION. Event class codes (R466, R509, R545), by class name. -/

namespace Sys2Proof.Machine

/-- DIE_UNCALIBRATED. -/
abbrev evDieUncalibrated : Nat := 0x0101
/-- ARRAY_SUPPLY. -/
abbrev evArraySupply : Nat := 0x0102
/-- CHECK_TROUBLE. -/
abbrev evCheckTrouble : Nat := 0x0103
/-- LAYER_FALLBACK. -/
abbrev evLayerFallback : Nat := 0x0104
/-- DRIFT_LIMIT. -/
abbrev evDriftLimit : Nat := 0x0105
/-- ARRAY_DEGRADED. -/
abbrev evArrayDegraded : Nat := 0x0106
/-- ARRAY_RECOVERED. -/
abbrev evArrayRecovered : Nat := 0x0107
/-- ACC_RANGE. -/
abbrev evAccRange : Nat := 0x0201
/-- CTX_RESTORE_POISON. -/
abbrev evCtxRestorePoison : Nat := 0x0202
/-- SCHED_FAULT. -/
abbrev evSchedFault : Nat := 0x0203
/-- XPART_ACCESS. -/
abbrev evXpartAccess : Nat := 0x0204
/-- KV_FRAMES_LOW. -/
abbrev evKvFramesLow : Nat := 0x0301
/-- KV_FRAMES_EXHAUSTED. -/
abbrev evKvFramesExhausted : Nat := 0x0302
/-- KV_PAGE_POISON. -/
abbrev evKvPagePoison : Nat := 0x0303
/-- ALARM_BACKLOG_FULL. -/
abbrev evAlarmBacklogFull : Nat := 0x0304
/-- REQ_TABLE_FULL. -/
abbrev evReqTableFull : Nat := 0x0305
/-- DEADLINE_MISS. -/
abbrev evDeadlineMiss : Nat := 0x0306
/-- CAPTURE_SKIP. -/
abbrev evCaptureSkip : Nat := 0x0307
/-- FEED_LINK. -/
abbrev evFeedLink : Nat := 0x0401
/-- FEED_GAP. -/
abbrev evFeedGap : Nat := 0x0402
/-- FEED_RESYNC. -/
abbrev evFeedResync : Nat := 0x0403
/-- INGEST_OVERLOAD. -/
abbrev evIngestOverload : Nat := 0x0404
/-- KEY_TABLE_FULL. -/
abbrev evKeyTableFull : Nat := 0x0405
/-- IMAGE_INSTALLED. -/
abbrev evImageInstalled : Nat := 0x0501
/-- INSTALL_FAILED. -/
abbrev evInstallFailed : Nat := 0x0502
/-- IMAGE_LOADED. -/
abbrev evImageLoaded : Nat := 0x0503
/-- LOAD_REFUSED. -/
abbrev evLoadRefused : Nat := 0x0504
/-- WEIR_DONE. -/
abbrev evWeirDone : Nat := 0x0505
/-- WEIR_TEMP_WAIT. -/
abbrev evWeirTempWait : Nat := 0x0506
/-- SEQ_STALE. -/
abbrev evSeqStale : Nat := 0x0507
/-- HOST_LINK. -/
abbrev evHostLink : Nat := 0x0601
/-- HOST_QUEUE_FAULT. -/
abbrev evHostQueueFault : Nat := 0x0602
/-- HOST_FLR. -/
abbrev evHostFlr : Nat := 0x0603
/-- EVIDENCE_SPOOL_FULL. -/
abbrev evEvidenceSpoolFull : Nat := 0x0604
/-- CFG_COPY_BAD. -/
abbrev evCfgCopyBad : Nat := 0x0701
/-- CFG_DEFAULTED. -/
abbrev evCfgDefaulted : Nat := 0x0702
/-- CFG_APPLIED. -/
abbrev evCfgApplied : Nat := 0x0703
/-- PART_CFG_REFUSED. -/
abbrev evPartCfgRefused : Nat := 0x0704
/-- PART_RESTARTED. -/
abbrev evPartRestarted : Nat := 0x0705
/-- TIME_SET. -/
abbrev evTimeSet : Nat := 0x0706
/-- PARTITION_HANG. -/
abbrev evPartitionHang : Nat := 0x0801
/-- PARTITION_RESET. -/
abbrev evPartitionReset : Nat := 0x0802
/-- DIE_RETIRED. -/
abbrev evDieRetired : Nat := 0x0803
/-- RELOCATED. -/
abbrev evRelocated : Nat := 0x0804
/-- RELOCATION_BLOCKED. -/
abbrev evRelocationBlocked : Nat := 0x0805
/-- CHANNEL_RETIRED. -/
abbrev evChannelRetired : Nat := 0x0806
/-- MC_FAILOVER. -/
abbrev evMcFailover : Nat := 0x0807
/-- LOG_OVERFLOW. -/
abbrev evLogOverflow : Nat := 0x0900
/-- FAULT_TRANSIENT. -/
abbrev evFaultTransient : Nat := 0x0901
/-- FAULT_PERMANENT. -/
abbrev evFaultPermanent : Nat := 0x0902
/-- MEM_UNCORRECTABLE. -/
abbrev evMemUncorrectable : Nat := 0x0903
/-- ROW_MAPPED_OUT. -/
abbrev evRowMappedOut : Nat := 0x0904
/-- TARN_ROW_REPAIR. -/
abbrev evTarnRowRepair : Nat := 0x0905
/-- LINK_PARITY. -/
abbrev evLinkParity : Nat := 0x0906
/-- STRIPE_DOWN. -/
abbrev evStripeDown : Nat := 0x0907
/-- RES_REFRESH. -/
abbrev evResRefresh : Nat := 0x0908
/-- RES_DATA_LOST. -/
abbrev evResDataLost : Nat := 0x0909
/-- SHADOW_REPAIR. -/
abbrev evShadowRepair : Nat := 0x090A
/-- FLESHA_AUTH_FAIL. -/
abbrev evFleshaAuthFail : Nat := 0x090B
/-- THERMAL_THROTTLE. -/
abbrev evThermalThrottle : Nat := 0x0A01
/-- THERMAL_CLEAR. -/
abbrev evThermalClear : Nat := 0x0A02
/-- POWER_LIMIT. -/
abbrev evPowerLimit : Nat := 0x0A03
/-- POWER_CLEAR. -/
abbrev evPowerClear : Nat := 0x0A04
/-- SENSOR_SUSPECT. -/
abbrev evSensorSuspect : Nat := 0x0A05
/-- SENSOR_OK. -/
abbrev evSensorOk : Nat := 0x0A06
/-- THERMAL_TRIP. -/
abbrev evThermalTrip : Nat := 0x0A07
/-- THERMAL_EMERGENCY. -/
abbrev evThermalEmergency : Nat := 0x0A08
/-- STACK_HOT. -/
abbrev evStackHot : Nat := 0x0A09
/-- INPUT_RANGE. -/
abbrev evInputRange : Nat := 0x0A0A
/-- VCORE_RANGE. -/
abbrev evVcoreRange : Nat := 0x0A0B
/-- SPRING_MISSED. -/
abbrev evSpringMissed : Nat := 0x0A0C
/-- LANTERN_UNLOCKED. -/
abbrev evLanternUnlocked : Nat := 0x0B01
/-- LANTERN_LOCKED. -/
abbrev evLanternLocked : Nat := 0x0B02

end Sys2Proof.Machine
end

