-- ==== Sys2Proof/Machine/StatePart.lean ====
section
/-! DEFINITION. The state of a partition: request entries and work queues, token passes, backlog and narratives, image slots
with their KV pools, and the partition-domain registers of the lead tile (spec files 07, 08, 13). Field defaults are the
reset values. -/

namespace Sys2Proof.Machine

/-! ### Work (R259, R267, R275, R379, R380) -/

/-- Kinds of a queued work item (R259, R311, R313). -/
inductive ItemKind where
  | score | decode
  deriving DecidableEq, Repr

/-- Where an item's completion goes (R377, R383): function, queue, TAG and QUIET. `live` is false once an FLR of the function
has taken place: the completion is then discarded (R393). -/
structure HostRef where
  fn : Nat
  sq : Nat
  tag : Nat
  quiet : Bool
  live : Bool := true
  deriving DecidableEq, Repr

/-- Where the RESPONSE to a Flesha COMMAND goes (R472, R474). -/
structure Reply where
  port : Nat
  addr : Nat
  udp : Nat
  owner : Nat
  opcode : Nat
  tag : Nat
  deriving DecidableEq, Repr

/-- A work item of an entry's queue. `left` are the tokens whose pass has not opened, `started` that a pass of it has opened, `open_` how many of its passes are
open, `lost` marks a LOST_EVENTS token (R313), `removal` the reason of an item removed before all its tokens have run
(R259), `prompt` an unread prompt (address and length, R380), `narr` the alarm a narrative explains (R292). -/
structure Item where
  id : Nat
  kind : ItemKind
  host : Option HostRef := none
  left : List Nat := []
  lost : Bool := false
  started : Bool := false
  open_ : Nat := 0
  arrival : Nat := 0
  deadline : Option Nat := none
  result : Nat := 0
  done : Nat := 0
  missed : Bool := false
  score : Nat := 0x7FC00000
  writes : List (Nat × List Byte) := []
  tCommit : Nat := 0
  removal : Option Nat := none
  prompt : Option (Nat × Nat) := none
  outAddr : Nat := 0
  limit : Nat := 0
  stop : Option Nat := none
  notify : Nat := 1
  generated : Nat := 0
  nextTok : Option Nat := none
  lastCommit : Option Nat := none
  narr : Option Nat := none
  narrTokens : List Nat := []
  narrChunk : Nat := 0
  deriving DecidableEq, Repr

/-- A page descriptor (R220). -/
structure PageDesc where
  stripe : Nat := 0
  valid : Bool := false
  spec : Bool := false
  summary : Bool := false
  poison : Bool := false
  deriving DecidableEq, Repr

/-- An edit operation (R244, R245). -/
structure EditOp where
  op : Nat
  n : Nat
  first : Nat
  dest : Nat
  rsv : Nat
  deriving DecidableEq, Repr

/-- A waiting edit batch (R244) with the bytes it is held in (R257) and where its completion goes. -/
structure EditBatch where
  bytes : List Byte
  ops : List EditOp
  host : HostRef
  deriving DecidableEq, Repr

/-- A verify step in flight (R277): where it starts, its depth, its first input, whether it is a probe (R279), and the draft
and main passes opened so far. -/
structure Verify where
  start : Nat
  depth : Nat
  probe : Bool
  input : Nat
  draftPasses : List Nat := []
  mainPasses : List Nat := []
  deriving DecidableEq, Repr

/-- A request-table entry (R257), its work queue and its page table: descriptors of pages and of index stripes, carry slots, and per root
entry with a leaf the leaf's number in the control area plus one (R219, R222). Index `n` of the table is the key in `State.entries`. -/
structure Entry where
  open_ : Bool := false
  draft : Bool := false
  narrative : Bool := false
  stale : Bool := false
  closing : Bool := false
  frameWait : Bool := false
  specDepth : Nat := 0
  zeroRun : Nat := 0
  probe : Nat := 0
  cls : Nat := 0
  variant : Nat := 0
  slot : Nat := 0
  dropOnMiss : Bool := false
  refMode : Bool := false
  specEn : Bool := false
  misses : Nat := 0
  length : Nat := 0
  committed : Nat := 0
  root : Nat := 0
  partner : Nat := 0
  partnerValid : Bool := false
  seqId : Nat := 0
  tFirst : Nat := 0
  tLast : Nat := 0
  edit : Option EditBatch := none
  queue : List Item := []
  gone : List Item := []
  held : Bool := false
  verify : Option Verify := none
  pages : Tab PageDesc := []
  index : Tab PageDesc := []
  carry : Tab (List Nat) := []
  leaves : Tab Nat := []
  lostRun : Bool := false
  closers : List HostRef := []
  deriving DecidableEq, Repr

/-! ### Passes (R123, R128 to R137, R263, R266, R287 to R290) -/

/-- What a panel of the evidence record shows for one layer and query head (R288). -/
structure PanelData where
  layer : Nat
  qhead : Nat
  probs : List (Nat × Nat)
  pages : List Nat
  deriving DecidableEq, Repr

/-- Tarn work that a pass has begun (R132): generation, layer, matrix, first column and how many, and the die. -/
structure StepWork where
  gen : Nat
  layer : Nat
  matrix : Nat
  nBase : Nat
  cols : Nat
  die : Nat
  deriving DecidableEq, Repr

/-- A K or V entry that a recomputation formed at its own position (R230): pair, whether V, elements and scales. -/
structure OwnKv where
  pair : Nat
  isV : Bool
  elems : List Byte
  scales : List Byte
  deriving DecidableEq, Repr

/-- A token pass in flight. `turn` is its place in the order in which the tiles took passes up (R265), `restarts` are the generations begun and the layer each began
at, `walked` the layers whose walks it has begun, `troubles` the declarations outstanding (layer, generation, output tile,
matrix), `replayed` the layers that replayed for a trouble of their own (R129), `later` those that replayed with an earlier pass (R23), `begun`
the layers with a Tarn round done under the current generation (R100), `worked` its Tarn work, `notices`
the step-resolved notices on their way to the lead tile (layer, matrix, generation, tile) and `resolved` those that have arrived (layer,
matrix, tile). A recomputation under confirm-before-alarm (R282, R285) is a pass of its own: `confirm` is the pass it recomputes, `carryIn` its
carry copy, `ownKv` its own K and V at the position, `streams` the read streams of its walks by pair (R290). -/
structure Pass where
  id : Nat
  slot : Nat
  entry : Nat
  item : Nat
  pos : Nat
  token : Nat
  cls : Nat := 0
  deadline : Option Nat := none
  arrival : Nat := 0
  opened : Nat := 0
  turn : Option Nat := none
  gen : Nat := 0
  ref : Bool := false
  seed : Word := 0
  sLog2 : Nat := 6
  chkT : Nat := 4
  chkM : Nat := 2
  variant : Nat := 0
  imageId : Nat := 0
  epoch : Nat := 0
  paired : Option Nat := none
  verify : Bool := false
  replayed : List Nat := []
  fellBack : List (Nat × Nat) := []
  measured : List Nat := []
  later : List Nat := []
  begun : List Nat := []
  worked : List StepWork := []
  notices : List (Nat × Nat × Nat × Nat) := []
  resolved : List (Nat × Nat × Nat) := []
  confirm : Option Nat := none
  ownKv : List OwnKv := []
  carryIn : Tab (List Nat) := []
  streams : Tab (List Byte) := []
  forced : List (Nat × Nat × Nat) := []
  restarts : List (Nat × Nat) := []
  walked : List Nat := []
  troubles : List (Nat × Nat × Nat × Nat) := []
  poison : Option Nat := none
  scores : List Nat := []
  top : Option (Nat × Nat) := none
  thermal : Bool := false
  panels : List PanelData := []
  digests : Tab Nat := []
  walking : Nat := 0
  kvPairs : List (Nat × Bool) := []
  promptTok : Bool := false
  deriving DecidableEq, Repr

/-- A candidate (R280, R281, R284): its serial number, score class, score, threshold and, once resolved, its status. -/
structure Cand where
  serial : Nat
  entry : Nat
  seqId : Nat
  cls : Nat
  score : Nat
  thresh : Nat
  scoreRef : Nat := 0x7FC00000
  status : Option Nat := none
  resolve : Nat := 0
  pass : Pass
  tCommit : Nat := 0
  missed : Bool := false
  panels : List PanelData := []
  digest : Nat := 0
  capture : Option (Nat × Nat) := none
  deriving DecidableEq, Repr

/-- A backlog entry (R282): the committed pass, the serials of its candidates, the carry copy, and whether its
recomputation runs. -/
structure Backlog where
  pass : Pass
  cands : List Nat
  carry : Tab (List Nat) := []
  running : Bool := false
  deriving DecidableEq, Repr

/-! ### Image slots (R217, R222, R224, R225, R273, R343, R407) -/

/-- The stripe pool and control area of an image slot. The free stack is `returned` (top first) above the stripes never yet
popped, `fresh` and up; roots likewise. -/
structure KvPool where
  total : Nat := 0
  returned : List Nat := []
  fresh : Nat := 0
  withdrawn : List Nat := []
  rootsTotal : Nat := 0
  rootsReturned : List Nat := []
  rootsFresh : Nat := 0
  waiters : List Nat := []
  lowMark : Nat := 0
  lowReported : Bool := false
  exhaustedReported : Bool := false
  allocWait : Word := 0
  reclaim : Word := 0
  specReturn : Word := 0
  editCnt : Word := 0
  editBusy : Word := 0
  seqFull : Word := 0
  poisonPages : Word := 0
  deriving DecidableEq, Repr

/-! ### Image operations (R337, R338) -/

/-- The image commands that run over several steps (R338). -/
inductive OpKind where
  | install | load | swap | variantLoad | relocation | shadowRepair | tarnReload
  deriving DecidableEq, Repr

/-- An operation in progress or waiting at an image engine (R337, R338): where its completion goes (a host reference, a
Flesha reply, or neither for a start-time load), the image and the position it has reached. `waiting` marks a wait for the
write-temperature window since `waitSince`. -/
structure ImgOp where
  id : Nat
  kind : OpKind
  part : Nat := 0
  slot : Nat := 0
  vslot : Nat := 0
  tag : Nat := 0
  href : Option HostRef := none
  reply : Option Reply := none
  atStart : Bool := false
  stack : Nat := 0
  model : Nat := 0
  resB : Bool := false
  header : List Byte := []
  plain : Option Plain := none
  chunk : Nat := 0
  chunks : Nat := 0
  addr : Nat := 0
  waiting : Bool := false
  waitSince : Nat := 0
  started : Nat := 0
  stripes : Nat := 0
  entries : Nat := 0
  staleClose : Bool := false
  arg : Nat := 0
  deriving DecidableEq, Repr

/-- States of an image slot (R357 STATE). -/
inductive SlotState where
  | empty | loading | ready | weirClosed | partial_
  deriving DecidableEq, Repr

/-- Steps of R349 a closed Weir has reached. -/
inductive WeirStep where
  | staging | draining | programming | releasing
  deriving DecidableEq, Repr

/-- A SWAP in progress on an image slot (R346 to R350): the incoming image, whether its staging is complete, the step
reached, the layers resident under the new epoch, the outgoing epoch, STALE_CLOSE, and when the Weir closed. -/
structure Weir where
  res : Nat × Nat × Nat
  epoch : Nat
  header : List Byte
  plain : Plain
  staged : Bool := false
  step : WeirStep := .staging
  done : List Nat := []
  staleCnt : Nat := 0
  oldEpoch : Nat := 0
  closedAt : Nat := 0
  staleClose : Bool := false
  deriving DecidableEq, Repr

/-- A variant slot (R273, R352). -/
structure VarSlot where
  imageId : Nat := 0
  epoch : Nat := 0
  fmt : Nat := 4
  blocks : List DeltaBlock := []
  loading : Bool := false
  deriving DecidableEq, Repr

/-- Where a copy of a Tarn-placed matrix chunk lies (R103, R104): layer, matrix, K-chunk, N-chunk, replica and the tile and
Tarn that hold it. -/
structure Placed where
  layer : Nat
  matrix : Nat
  k : Nat
  n : Nat
  replica : Nat
  tile : Nat
  tarn : Nat
  deriving DecidableEq, Repr

/-- What a refusal of check 4 names (R177, R211, R339): the image as a whole, a layer, an accumulation of a layer, or an instruction of a
schedule. -/
inductive ImgPlace where
  | image
  | layer (l : Nat)
  | accum (l m : Nat)
  | instr (sched pc : Nat)
  deriving DecidableEq, Repr

/-- An image slot of a partition. `refusedAt` is what the last refusal under check 4 named (log entry 197). `job` is the operation that runs on it. `res` names the Reservoir slot it was loaded from (stack, directory entry, slot A or B). -/
structure ImgSlot where
  state : SlotState := .empty
  res : Nat × Nat × Nat := (0, 0, 0)
  imageId : Nat := 0
  epoch : Nat := 0
  level : Nat := 0
  header : List Byte := []
  plain : Option Plain := none
  pool : KvPool := {}
  entries : Nat := 0
  placed : List Placed := []
  nextReplica : Nat := 0
  resident : List Nat := []
  notResident : List Nat := []
  variants : Tab VarSlot := []
  weir : Option Weir := none
  job : Option ImgOp := none
  lastReason : Nat := 0
  lastTag : Nat := 0
  refusedAt : Option ImgPlace := none
  swapCnt : Word := 0
  staleCnt : Word := 0
  pvMapCnt : Word := 0
  pvTarnCnt : Word := 0
  schedFault : Word := 0
  layerFb : Tab Nat := []
  layerReplay : Tab Nat := []
  shadowBad : List Nat := []
  deriving DecidableEq, Repr

/-! ### Configuration of a partition as applied (R405 to R407, R409) and its serving registers (R143, R296, R297, R322) -/

/-- Partition states of PT_STATUS (R443, R444). -/
inductive PartState where
  | absent | running | degraded | fenced | resetting | relocating | configError | unconfigured
  deriving DecidableEq, Repr

/-- Serving counters (R297). -/
structure ServCnt where
  missSel : Nat := 0
  miss : Tab Nat := []
  drop : Word := 0
  tableFull : Word := 0
  cand : Word := 0
  release : Word := 0
  suppress : Word := 0
  unresolved : Word := 0
  nan : Word := 0
  txDrop : Word := 0
  verify : Word := 0
  proposed : Word := 0
  accept : Word := 0
  cut : Word := 0
  noEntry : Word := 0
  narr : Word := 0
  narrSkip : Word := 0
  captSkip : Word := 0
  histKind : Nat := 0
  histCls : Nat := 0
  hist : Tab Nat := []
  staleDrop : Word := 0
  deriving DecidableEq, Repr

/-- Serving configuration (R296, R143): reset values are those of the configuration image, written when the section is
applied. -/
structure ServCfg where
  passLimit : Nat := 1024
  preempt : Bool := false
  confirm : Bool := false
  capture : Bool := false
  confirmSlots : Nat := 0
  dlEvent : Tab Nat := []
  dlTtft : Nat := 0
  dlTbt : Nat := 0
  depthMax : Nat := 1
  draftSlot : Nat := 0
  almSel : Nat := 0
  thresh : Tab Nat := []
  ring : Bool := false
  feed : Bool := false
  narrFeed : Bool := false
  port : Nat := 0
  narrEnable : Bool := false
  narrRef : Bool := false
  narrCls : Nat := 0
  narrSlot : Nat := 0
  narrMax : Nat := 1
  nPanel : Nat := 0
  panels : Tab (Nat × Nat × Nat) := []
  captSlots : Nat := 0
  captMib : Nat := 1
  chkS : Nat := 6
  chkT : Nat := 4
  chkM : Nat := 2
  seed : Word := 1
  deriving DecidableEq, Repr

end Sys2Proof.Machine
end

