-- ==== Sys2Proof/Machine/StateHost.lean ====
section
/-! DEFINITION. The state of host ports and functions (spec file 11): rings, doorbells, completion buffer, MSI-X, the window
copies of R392. Defaults are the reset values of R372 and R373. -/

namespace Sys2Proof.Machine

/-- A completion owed to the host (R383): the ring, the item it belongs to, and the fields of the entry. `data` are the
result writes that land before it (R379, R384); `quiet` marks data with no entry to follow (R377). -/
structure Compl where
  sq : Nat
  item : Option Nat
  tag : Nat
  reason : Nat := 0
  quiet : Bool := false
  entry : Nat := 0
  progress : Bool := false
  miss : Bool := false
  limit : Bool := false
  stop : Bool := false
  position : Nat := 0
  score : Nat := 0x7FC00000
  count : Nat := 0
  tCommit : Nat := 0
  data : List (Nat × List Byte) := []
  deriving DecidableEq, Repr

/-- A submission ring and its completion ring (R373, R385, R390, R391). `tail` is the last doorbell value; `marks` the
doorbell acceptances with their stamps, the descriptors below each tail carrying that stamp (R376). -/
structure Ring where
  sqBase : Nat := 0
  sqEn : Bool := false
  sqSize : Nat := 0
  head : Nat := 0
  sqFault : Bool := false
  tail : Nat := 0
  marks : List (Nat × Nat) := []
  cqBase : Nat := 0
  cqEn : Bool := false
  cqSize : Nat := 0
  vector : Nat := 0
  coalCount : Nat := 0
  coalUs : Nat := 0
  cqTail : Nat := 0
  phase : Bool := true
  cqHead : Nat := 0
  unsignalled : Nat := 0
  oldest : Nat := 0
  deriving DecidableEq, Repr

/-- The evidence ring (R373, R387). `written` is how many records of the spool stand in the ring, with the slots each
takes (pad slots before it counted with it). -/
structure EvRing where
  base : Nat := 0
  en : Bool := false
  size : Nat := 0
  vector : Nat := 0
  wb : Nat := 0
  tail : Nat := 0
  head : Nat := 0
  written : List Nat := []
  deriving DecidableEq, Repr

/-- A host read of 64 bytes in flight (R381): a batch, a command, with the descriptor's queue and tag. -/
structure HostRead where
  edit : Bool
  sq : Nat
  addr : Nat
  quiet : Bool
  deriving DecidableEq, Repr

/-- Per-function copies of the status window's selectors and read-clear fields (R392). -/
structure WinCopy where
  layerSel : Nat := 0
  imgSel : Nat := 0
  missSel : Nat := 0
  almSel : Nat := 0
  histKind : Nat := 0
  histCls : Nat := 0
  hist : Tab Nat := []
  peak : Nat := 0
  deriving DecidableEq, Repr

/-- A host function (R372, R373, R391, R392). `cmds` are image commands read from host memory that wait to run. `bme` and `msixEn` are PCI
configuration bits; `msix` holds address, data and mask per vector, `pba` the pending bits. -/
structure Fn where
  presented : Bool := false
  part : Option Nat := none
  bme : Bool := false
  msixEn : Bool := false
  reason : Nat := 0
  reasonReg : Nat := 0
  evt : Nat := 0
  evtMask : Nat := 0
  evtVec : Nat := 0
  outstanding : Nat := 0
  descCnt : Word := 0
  descErr : Word := 0
  cqStall : Word := 0
  bar2Miss : Word := 0
  evDrop : Word := 0
  qEn : Bool := false
  rings : Tab Ring := []
  er : EvRing := {}
  buffer : List Compl := []
  nextSq : Nat := 0
  reads : List HostRead := []
  cmds : List (HostRef × List Byte) := []
  msix : Tab (Nat × Nat × Bool) := []
  pba : Nat := 0
  win : WinCopy := {}
  deriving DecidableEq, Repr

/-- A host port's link (R362, R363). -/
structure HostPort where
  up : Bool := false
  rate : Nat := 0
  width : Nat := 0
  fns : Nat := 0
  deriving DecidableEq, Repr

end Sys2Proof.Machine
end

