-- ==== Sys2Proof/Machine/StateDie.lean ====
section
/-! DEFINITION. The state of a logic die outside its tiles: housekeeping, event FIFO and coalescing, error counters, Twimer
ports, attention engines, DRAM port, Lantern node (spec files 06, 07, 14, 15, 17). Defaults are the reset values. -/

namespace Sys2Proof.Machine

/-! ### Events (R466 to R470) -/

/-- A record of the event path in the layout of R470. `part` is the partition it names. -/
structure EvRec where
  cls : Nat
  kind : Nat := 0
  die : Nat
  block : Nat
  part : Option Nat := none
  count : Nat := 1
  first : Nat := 0
  last : Nat := 0
  payload : List Byte := []
  deriving DecidableEq, Repr

/-- The event FIFO, coalescing table and summary area of a die or of the MC (R468, R469). `arrived` counts the reports of
the running interval, `unattr` the unattributed ones, `coalesced` those summarised, `lastAt` when the last of them arrived, `high` that the level reached 48. -/
structure EvQueue where
  fifo : List EvRec := []
  coalescing : Bool := false
  table : List EvRec := []
  arrived : Nat := 0
  unattr : Nat := 0
  coalesced : Nat := 0
  high : Bool := false
  summary : List EvRec := []
  lostIvl : Word := 0
  lastAt : Nat := 0
  classCnt : Tab Nat := []
  classSel : Nat := 0
  deriving DecidableEq, Repr

/-! ### Housekeeping (R484 to R489, R503, R507) -/

/-- An entry of the sequence table (R486, R507). -/
structure HkSeq where
  input : Nat := 0
  conv : Nat := 0
  step : Bool := false
  enable : Bool := false
  deriving DecidableEq, Repr

/-- A housekeeping result (R489, R507). -/
structure HkRes where
  code : Nat := 0
  valid : Bool := false
  sweep : Nat := 0
  spring : Bool := false
  deriving DecidableEq, Repr

/-- A sweep that runs: its trigger and the entries still to be converted, step by step (R484, R487); `sawLo` marks that a
DIODE_LO has been converted in it (R486). -/
structure HkSweep where
  kind : Sweep
  steps : List (List Nat)
  sawLo : Bool := false
  deriving DecidableEq, Repr

/-- The housekeeping block of a die, and what the MC holds about its sensor and setpoint. `parked` is a user sweep that a Spring
sweep interrupts, `rep` the results of the last Spring report that reached the MC, `mcSet` the MC's setpoint and `vset` the one
in force. `ideal` is fused (log entry 2). Temperatures are in sixteenths of a degree. -/
structure Hk where
  lowPower : Bool := false
  userOnSpring : Bool := false
  refOn : Bool := true
  trip : Bool := false
  selfTimed : Bool := false
  sweepSeq : Nat := 0
  seq : Tab HkSeq := []
  res : Tab HkRes := []
  sweep : Option HkSweep := none
  parked : Option HkSweep := none
  heldTrig : Bool := false
  reported : Bool := false
  missed : Bool := false
  missRun : Nat := 0
  rep : Tab HkRes := []
  raw : Int := 0
  ctl : Int := 0
  suspect : Bool := false
  noNeighbour : Bool := false
  devRun : Nat := 0
  okRun : Nat := 0
  hotSweeps : Nat := 0
  emergRun : Nat := 0
  vset : Nat := 30
  mcSet : Nat := 30
  throttled : Bool := false
  power : Nat := 0
  ideal : Nat := 0
  throttleCnt : Word := 0
  tripCnt : Word := 0
  vcoreRun : Nat := 0
  railOut : Bool := false
  railGood : Nat := 2
  window : List (Int × Bool) := []
  adjOffset : Int := 0
  deriving DecidableEq, Repr

/-! ### Links (R200 to R202, R210, R464) -/

/-- A Twimer port (R210). `up` is false for LINK_DOWN; whether a port is absent follows from the die map (R20). `ivlErr` counts the parity
errors of each stripe in the 100 ms interval `ivl`, and `failed` lists the stripes on which a resend failed (R464). -/
structure TwPort where
  up : Bool := true
  stripes : Nat := 15
  tx : Dword := 0
  rx : Dword := 0
  parity : Word := 0
  stale : Word := 0
  lost : Word := 0
  ivlErr : Tab Nat := []
  ivl : Nat := 0
  failed : List Nat := []
  deriving DecidableEq, Repr

/-! ### Attention engines (R212, R213, R243, R251, R455) -/

/-- A walk (R213, R214): partition, image slot, pass, entry, replay generation, pair, the tile and context that issued it, the slots that its
query vectors are pulled from and its outputs are put to, and the epochs of the two. -/
structure Walk where
  part : Nat
  slot : Nat
  pass : Nat
  entry : Nat
  gen : Nat
  pair : Nat
  tile : Nat
  ctx : Nat
  queries : List HeadPort
  outs : List HeadPort
  e1 : Nat
  e2 : Nat
  deriving DecidableEq, Repr

/-- An attention engine (R251): walks held, and the AE_ISSUEs that wait (R213). -/
structure Ae where
  walks : List Walk := []
  waiting : List Walk := []
  walkCnt : Word := 0
  posCnt : Dword := 0
  candCnt : Word := 0
  sumStored : Word := 0
  sumFly : Word := 0
  readBytes : Dword := 0
  poisonCnt : Word := 0
  limitCnt : Word := 0
  sparesUsed : Nat := 0
  fenced : Bool := false
  faults : Tab (Tab Nat) := []
  deriving DecidableEq, Repr

/-! ### DRAM channels (R441, R459, R460, R480) -/

/-- A DRAM channel. `ce24` and `ue24` are the 24 hourly buckets of R465, keyed by hour of module time. -/
structure Chan where
  ce : Word := 0
  ue : Word := 0
  ce24 : Tab Nat := []
  ue24 : Tab Nat := []
  pass : Word := 0
  pos : Nat := 0
  poison : List Nat := []
  deriving DecidableEq, Repr

/-- A DRAM stack (R441, R496): channels, retired pairs, and the temperature readout (value and validity of the last
rounds). -/
structure Stack where
  chans : Tab Chan := []
  chSel : Nat := 0
  retired : List Nat := []
  lost : Bool := false
  temp : Int := 0
  tempValid : Bool := false
  invalidRun : Nat := 0
  hot : Bool := false
  deriving DecidableEq, Repr

/-! ### Lantern node (R534, R540) -/

/-- One line of a Lantern node. -/
structure LnLine where
  kind : Nat := 0
  tile : Nat := 0
  tarn : Nat := 0
  bank : Nat := 0
  column : Nat := 0
  rg : Nat := 0
  deriving DecidableEq, Repr

/-- A fabric manager state of an array die (R437, R445). -/
inductive DieState where
  | inService | compute | dark | excluded
  deriving DecidableEq, Repr

/-- A logic die. `stepping`, `calCount` and `calTime` are the factory's (R88, R90, log entry 2). -/
structure Die where
  stepping : Nat := 0xB0
  calCount : Nat := 1
  calTime : Nat := 0
  ev : EvQueue := {}
  hk : Hk := {}
  tw : Tab TwPort := []
  ae : Tab Ae := []
  ln : Tab LnLine := []
  state : DieState := .inService
  reason : Nat := 0
  trouble : Word := 0
  residTrans : Word := 0
  residPerm : Word := 0
  permFaults : Nat := 0
  shortTiles : Nat := 0
  spadPar : Word := 0
  spadMapout : Word := 0
  basinCe : Word := 0
  basinUe : Word := 0
  basinMapout : Word := 0
  scrubRows : Dword := 0
  rowFix : Word := 0
  chanPar : Word := 0
  iodStale : Word := 0
  deriving DecidableEq, Repr

end Sys2Proof.Machine
end

