-- ==== Sys2Proof/Machine/StateFeed.lean ====
section
/-! DEFINITION. The state of feed ingest and alarm egress (spec file 09): feed ports, line tables and channels, feed rules,
encoder tables, lookups in flight, ingest shares, lost maps and transmit queues. Defaults are the reset values. -/

namespace Sys2Proof.Machine

/-- Network addresses and groups of a feed port, from the module section (R300, R405). Addresses are held as (IPv6, number):
the number of an IPv4 address's 4 bytes or of an IPv6 address's 16; `addrs` keeps the order of the section, with (true, 0) for
an unused entry. -/
structure PortCfg where
  mac : Nat := 0
  addrs : List (Bool × Nat) := []
  vlans : List Nat := []
  groups : List (Bool × Nat × List Nat) := []
  mtu : Nat := 1500
  enable : Bool := false
  deriving DecidableEq, Repr

/-- A message waiting in a port's transmit queue (R315, R317): the partition and the datagram's bytes. -/
structure TxMsg where
  part : Nat
  bytes : List Byte
  deriving DecidableEq, Repr

/-- A feed port (R320). `igmp1`, `igmp2` and `mld1` are the module times until which an older querier counts as present (R300:
the compatibility modes of RFC 3376 and RFC 3810). -/
structure FeedPort where
  cfg : PortCfg := {}
  up : Bool := false
  rxFrames : Dword := 0
  rxBytes : Dword := 0
  fcsErr : Word := 0
  lenErr : Word := 0
  pauseDrop : Word := 0
  l2Drop : Word := 0
  ipErr : Word := 0
  fragDrop : Word := 0
  udpErr : Word := 0
  l4Drop : Word := 0
  addrDrop : Word := 0
  noMatch : Word := 0
  fecCorr : Word := 0
  fecUncorr : Word := 0
  txFrames : Dword := 0
  txDrop : Word := 0
  txTrunc : Word := 0
  mcastTx : Word := 0
  txq : List TxMsg := []
  igmp1 : Nat := 0
  igmp2 : Nat := 0
  mld1 : Nat := 0
  deriving DecidableEq, Repr

/-- A line entry (R302, R405). -/
structure LineCfg where
  port : Nat
  dstIp6 : Bool
  dst : Nat
  udp : Nat
  channel : Nat
  seqOff : Nat
  seqWidth : Nat
  seqBig : Bool
  cntOff : Nat
  cntWidth : Nat
  cntBig : Bool
  first : Nat
  stride : Nat
  lenOff : Nat
  lenWidth : Nat
  lenBig : Bool
  lenAdd : Nat
  deriving DecidableEq, Repr

/-- A datagram as it leaves the port (R300, R301): where it came from, its addresses and payload, its stamp, and the first
message and count that still count (after skipping below E, R303). -/
structure Dgram where
  port : Nat
  vlan : Nat
  dst6 : Bool
  dst : Nat
  udp : Nat
  payload : List Byte
  arrival : Nat
  line : Option LineCfg := none
  seq : Nat := 0
  count : Nat := 1
  skip : Nat := 0
  deriving DecidableEq, Repr

/-- A channel of the line arbiter (R303 to R305, R321). `held` are datagrams with the time their hold began; `gone` the ranges
given up at gaps since the channel last synchronised (first number and count, R304). -/
structure Channel where
  synced : Bool := false
  expect : Nat := 0
  held : List (Nat × Dgram) := []
  gone : List (Nat × Nat) := []
  hold : Nat := 0
  subs : Nat := 0
  dup : Word := 0
  gaps : Word := 0
  gapMsgs : Word := 0
  late : Word := 0
  resync : Word := 0
  holdOvf : Word := 0
  short : Word := 0
  deriving DecidableEq, Repr

/-- A payload term of a rule (R307). -/
structure Term where
  off : Nat
  width : Nat
  big : Bool
  mask : Nat
  value : Nat
  deriving DecidableEq, Repr

/-- A value field of a rule (R311). -/
structure ValField where
  off : Nat
  width : Nat
  big : Bool
  signed : Bool
  bin : Bool
  table : Nat
  radix : Nat
  deriving DecidableEq, Repr

/-- A feed rule (R306, R307, R408). -/
structure Rule where
  number : Nat
  part : Nat
  ports : Nat
  vlan : Option Nat
  dst : Option Nat
  udp : Option Nat
  terms : List Term
  discard : Bool
  keyspace : Nat
  keys : List (Nat × Nat)
  vals : List ValField
  tokenBase : Nat
  cls : Nat
  autoOpen : Bool
  slot : Nat
  drop : Bool
  deriving DecidableEq, Repr

/-- An encoder table (R311): BIN thresholds ascending, or exact keys with codes and a default. -/
structure EncTable where
  part : Nat
  index : Nat
  bin : Bool
  width : Nat
  dflt : Nat
  keys : List (Nat × Nat)
  thresholds : List Int
  deriving DecidableEq, Repr

/-- A lookup in flight (R309): key, its rule's settings and the encoded value fields. -/
structure Lookup where
  part : Nat
  port : Nat
  keyspace : Nat
  key : List Byte
  token : Nat
  cls : Nat
  autoOpen : Bool
  slot : Nat
  drop : Bool
  arrival : Nat
  deadline : Option Nat
  deriving DecidableEq, Repr

/-- An ingest entry (R312): request index, token, class, arrival stamp, and whether it is a LOST_EVENTS token (R313). The
deadline was fixed at arrival (R267). -/
structure IngestEntry where
  entry : Nat
  token : Nat
  cls : Nat
  arrival : Nat
  lost : Bool
  deadline : Option Nat := none
  deriving DecidableEq, Repr

/-- A partition's share on an IOD (R313, R314): its size in units of 1,024 entries, the entries, the lost map, and whether a
period of losses runs (R548). -/
structure Share where
  units : Nat := 0
  fifo : List IngestEntry := []
  lost : List Nat := []
  overload : Bool := false
  deriving DecidableEq, Repr

/-- The feed ingest of an I/O die. -/
structure FeedIod where
  lines : List LineCfg := []
  channels : Tab Channel := []
  arbSel : Nat := 0
  rules : List Rule := []
  tables : List EncTable := []
  lookups : List Lookup := []
  shares : Tab Share := []
  deriving DecidableEq, Repr

/-- Ingest counters of a partition (R322). -/
structure IngCnt where
  events : Word := 0
  overload : Word := 0
  lostTokens : Word := 0
  keyMiss : Word := 0
  autoOpen : Word := 0
  keyFull : Word := 0
  trunc : Word := 0
  gaps : Word := 0
  peak : Nat := 0
  deriving DecidableEq, Repr

/-- An alarm destination of a partition (R318, R408). -/
structure AlarmDest where
  port : Nat
  mac : Nat
  vlan : Option Nat
  ip6 : Bool
  srcIdx : Nat
  dst : Nat
  udpSrc : Nat
  udpDst : Nat
  dscp : Nat
  ttl : Nat
  deriving DecidableEq, Repr

end Sys2Proof.Machine
end

