-- ==== Sys2Proof/Machine/StateWeights.lean ====
section
/-! DEFINITION. The state of the Reservoir stacks and the image engines (spec file 10). Defaults are the reset values. -/

namespace Sys2Proof.Machine

/-- States of a Reservoir slot (R333). -/
inductive ResState where
  | empty | writing | invalid | valid | active
  deriving DecidableEq, Repr

/-- A commit record (R335): the image it stands for, the digest of what is stored (twelve words), and the extents. Its CRC holds unless the
record is damaged, which the state of the slot then says. -/
structure CommitRec where
  imageId : Nat
  epoch : Nat
  chunks : Nat
  digest : List Word
  extents : List Nat
  deriving DecidableEq, Repr

/-- A Reservoir slot: its state, the extents it holds, the header of the stored image and its plaintext as the engine
delivers it (log entry 6). -/
structure ResSlot where
  state : ResState := .empty
  extents : List Nat := []
  header : List Byte := []
  plain : Option Plain := none
  record : Option CommitRec := none
  deriving DecidableEq, Repr

/-- A directory entry (R332): a model of an owner with two slots. -/
structure ResModel where
  imageId : Nat
  owner : Nat
  a : ResSlot := {}
  b : ResSlot := {}
  deriving DecidableEq, Repr

/-- A Reservoir stack (R332, R359, R461): its directory, its link registers and its patrol counters. -/
structure Reservoir where
  ready : Bool := false
  models : Tab (Option ResModel) := []
  sel : Nat := 0
  slotB : Bool := false
  progBytes : Dword := 0
  installFail : Word := 0
  tempReads : List (Int × Bool) := []
  invalidRun : Nat := 0
  hot : Bool := false
  corrected : Word := 0
  refreshed : Word := 0
  uncorr : Word := 0
  deriving DecidableEq, Repr

/-- An image engine (R358). -/
structure ImgEngine where
  jobs : List ImgOp := []
  bytes : Dword := 0
  authFail : Word := 0
  keyFail : Word := 0
  deriving DecidableEq, Repr

end Sys2Proof.Machine
end

