-- ==== Sys2Proof/Machine/StateMc.lean ====
section
/-! DEFINITION. The state of the management controllers: power entry, configuration, module log, Flesha, thermal and power
control, fabric manager, Lantern control, partitions as applied (spec files 11 to 17). Defaults are the reset values. -/

namespace Sys2Proof.Machine

/-! ### Power entry and pins (R527 to R529, R532, R541, R542) -/

/-- A test access port (R541): its instruction, the bypass bit and the IDCODE shift register. The TAP controller's state is
one of the 16 states of IEEE 1149.1. -/
inductive TapState where
  | reset | idle | selDr | capDr | shDr | ex1Dr | pauDr | ex2Dr | updDr
  | selIr | capIr | shIr | ex1Ir | pauIr | ex2Ir | updIr
  deriving DecidableEq, Repr

/-- Power entry: inputs, rails, PWRGD, the 120 °C lock, and the TAP of each IOD (log entry 12). -/
structure Power where
  aux : Bool := true
  modEn : Bool := false
  vin48 : Nat := 0
  rails : Bool := false
  pwrgd : Bool := false
  lock120 : Bool := false
  vinRemoved : Bool := false
  thermAlert : Bool := false
  testMode : Bool := false
  iinOver : Bool := false
  tapState : TapState := .reset
  taps : Tab TapInstr := []
  shift : Tab Nat := []
  tdo : Bool := false
  deriving DecidableEq, Repr

/-! ### Configuration (R399 to R422) -/

/-- An owner (R406, R473): OPERATOR flag, key, the last SEQ accepted, and the module's own SEQ towards it. -/
structure Owner where
  id : Nat
  operator : Bool
  key : List Byte
  lastSeq : Nat := 0
  outSeq : Nat := 0
  deriving DecidableEq, Repr

/-- A DRAM granule of a partition (R407). -/
structure Granule where
  role : Nat
  ad : Nat
  slot : Nat
  g : Nat
  deriving DecidableEq, Repr

/-- An IMAGE_SLOT record (R407). -/
structure SlotCfg where
  slot : Nat
  loadAtStart : Bool
  imageId : Nat
  epoch : Nat
  stripes : Nat
  lowMark : Nat
  entries : Nat
  deriving DecidableEq, Repr

/-- A partition's section as read (R407). -/
structure PartCfg where
  part : Nat
  owner : Nat
  enable : Bool
  hostReset : Bool
  flrPart : Bool
  seed : Word
  keyLog2 : Nat
  bar2 : Option Nat
  bind : Option Nat
  tiles : List Nat
  granules : List Granule
  blocks : List Nat
  shares : List Nat
  rules : List Rule
  ruleIods : List Nat
  tables : List (Nat × EncTable)
  slots : List SlotCfg
  serv : ServCfg
  dests : List AlarmDest
  deriving DecidableEq, Repr

/-- A slot of a key table (R309). -/
structure KeySlot where
  key : List Byte
  keyspace : Nat
  entry : Nat
  deriving DecidableEq, Repr

/-- A record in an evidence spool (R388): its bytes; `narr` and `event` say its kind. -/
structure SpoolRec where
  bytes : List Byte
  deriving DecidableEq, Repr

/-- PT_STATUS.STATE (R444). -/
inductive PtState where
  | disabled | running | starting | fenced
  deriving DecidableEq, Repr

/-- A partition: its section in force, what the fabric manager and the MC hold about it, and its serving state. `newCfg` and
`newGen` wait for the end of a reset that a PART_RESTART shares (`restarting`), `disableAs` is the reason with which the reset leaves
the partition DISABLED, `moved` how many tiles the running relocation has moved, `starts` the start-time loads of its section that are still due (R412), `recomps`
the recomputations that run (R282), `nextTurn` the turn that the next pass taken up gets (R265, log entry 20). -/
structure Part where
  cfg : Option PartCfg := none
  state : PtState := .disabled
  reason : Nat := 0
  present : Bool := false
  gen : Nat := 0
  cause : Nat := 0
  tag : Nat := 0
  resets : Word := 0
  lastUs : Nat := 0
  wdgMs : Nat := 100
  wdgReset : Bool := true
  idleMs : Nat := 0
  idleBase : Nat := 0
  fires : Nat := 0
  progress : Nat := 0
  progressSeen : Nat := 0
  -- resources as applied and relocated (R437, R439)
  tiles : List Nat := []
  relocated : List (Nat × Nat) := []
  fn : Option Nat := none
  rulesOk : Bool := false
  heldReloc : List Nat := []
  blocked : List Nat := []
  aeMap : List (Nat × Nat) := []
  newCfg : Option PartCfg := none
  newGen : Nat := 0
  resetting : Bool := false
  restarting : Bool := false
  starts : List SlotCfg := []
  disableAs : Option Nat := none
  moved : Nat := 0
  -- serving
  slots : Tab ImgSlot := []
  imgSel : Nat := 0
  passes : List Pass := []
  recomps : List Pass := []
  nextPass : Nat := 0
  nextTurn : Nat := 0
  nextItem : Nat := 0
  lfsr : Word := 1
  backlog : List Backlog := []
  cands : List Cand := []
  alarmSeq : Nat := 0
  captNext : Nat := 0
  spool : List SpoolRec := []
  serv : ServCfg := {}
  cnt : ServCnt := {}
  ing : IngCnt := {}
  msgSeq : Tab Nat := []
  keys : Tab (List KeySlot) := []
  keyFullPeriod : Bool := false
  tableFullPeriod : Bool := false
  backlogPeriod : Bool := false
  spoolPeriod : Bool := false
  -- governor (R139, R143)
  run : Nat := 0
  okRun : Nat := 0
  degraded : Bool := false
  troubleBase : Tab Nat := []
  allFbLast : Bool := false
  fbgPasses : Dword := 0
  fbgReplay : Word := 0
  fbgStepFb : Word := 0
  fbgAllFb : Word := 0
  fbgDegraded : Word := 0
  fbHist : List (Nat × Nat) := []
  layerSel : Nat := 0
  deriving DecidableEq, Repr

/-- The module section in force (R405). -/
structure ModCfg where
  ssVendor : Nat := 0
  ssId : Nat := 0
  fns : List Nat := [1, 1, 1, 1, 1, 1, 1, 1]
  mpAddr : List Nat := [0, 0]
  mpPrefix : List Nat := [64, 64]
  mpGateway : List Nat := [0, 0]
  udp : Nat := 18630
  power : Nat := 1500
  reserve : List Nat := []
  ports : List (Nat × PortCfg) := []
  lines : List (Nat × LineCfg) := []
  channels : List (Nat × Nat × Nat × Nat) := []
  deriving DecidableEq, Repr

/-- A configuration command in progress (R416, R417), with where the RESPONSE of a Flesha command goes. -/
structure CfgCmd where
  action : Nat
  part : Nat
  reply : Option Reply := none
  deriving DecidableEq, Repr

/-- A CFG_WRITE in progress (R400): the image, and whether copy 1 has been written and read back. -/
structure CfgWr where
  image : List Byte
  first : Bool := false
  deriving DecidableEq, Repr

/-- Configuration state of the MC (R421). Flash contents are byte lists; an empty list is an absent device (log entry 3). -/
structure Cfg where
  flash0 : List Byte := []
  flash1 : List Byte := []
  started : Bool := false
  phase : Nat := 0
  test0 : Bool := true
  test3 : Bool := true
  active3 : Bool := false
  standbyReady : Bool := false
  defaulted : Bool := false
  copyUse : Bool := false
  reason0 : Nat := 0
  reason1 : Nat := 0
  gen0 : Nat := 0
  gen1 : Nat := 0
  genUse : Nat := 0
  owners : List Owner := []
  module : ModCfg := {}
  cmdReason : Nat := 0
  cmdBusy : Option CfgCmd := none
  cmdAction : Nat := 0
  partSel : Nat := 0
  restartCnt : Word := 0
  write : Option CfgWr := none
  writeBuf : List Byte := []
  writeSrc : Option Requester := none
  deriving DecidableEq, Repr

/-! ### Module time (R255, R415) -/

/-- The module time in ns, TIME_UTC, the adopted value and step, a held time of day (R420) and a slew target (R255). -/
structure Time where
  now : Nat := 0
  utc : Bool := false
  adopt : Nat := 0
  step : Nat := 0
  heldTod : Option Nat := none
  slew : Int := 0
  deriving DecidableEq, Repr

/-! ### Log and Flesha (R468 to R477, R481) -/

/-- A subscriber (R475, R476). -/
structure Sub where
  port : Nat
  addr : Nat
  udp : Nat
  owner : Nat
  events : Bool
  telemetry : Bool
  period : Nat
  addrs : List Nat
  expires : Nat
  nextSeq : Nat
  deriving DecidableEq, Repr

/-- The module log, thresholds and Flesha (R481). `recs` holds LOG_SEQ and record, oldest first; `anonSeq` numbers the messages
sent while no owner exists (R477), `anonNext` is the next LOG_SEQ that they carry; `installRx` are INSTALLs over Flesha: owner, TAG, bytes received, time of the last data. -/
structure Log where
  head : Nat := 0
  recs : List (Nat × EvRec) := []
  sel : Nat := 0
  ovf : Word := 0
  rrSum : Nat := 0
  rrFifo : Nat := 0
  second : Nat := 0
  secCount : Nat := 0
  rate : Nat := 0
  thrDiePerm : Nat := 32
  thrDieShort : Nat := 4
  thrChUe : Nat := 8
  thrChCe : Nat := 1000000
  thrTrans : Nat := 16
  authFail : Word := 0
  subs : List Sub := []
  anonSeq : Nat := 0
  anonNext : Nat := 0
  installRx : List (Nat × Nat × Nat × Nat) := []
  deriving DecidableEq, Repr

/-! ### Power and thermal control (R499 to R505, R508) -/

/-- Module power and thermal control. Powers in W; VIN48 and IIN48 as the codes of R485 that the active MC's die last reported.
`limitRound` is the limit of the running round (R500), `limitOn` holds between POWER_LIMIT and POWER_CLEAR, `brakeRound` marks a
crossing during the running round (R506), `emergFenced` the partitions that the emergency has fenced (R504). -/
structure Therm where
  limit : Nat := 1500
  limitRound : Nat := 1500
  limiting : Bool := false
  limitOn : Bool := false
  currentLimiting : Bool := false
  brake : Bool := false
  brakeRound : Bool := false
  emergency : Bool := false
  coolRun : Nat := 0
  input : Nat := 0
  effLimit : Nat := 1500
  vinCode : Nat := 0
  iinCode : Nat := 0
  vTarget : Nat := 30
  max : Int := 0
  maxDie : Nat := 0
  seq : Word := 0
  miss : Word := 0
  brakeCnt : Word := 0
  adjSel : Nat := 0
  stackSel : Nat := 0
  vinRun : Nat := 0
  roundOpen : Bool := false
  emergFenced : List Nat := []
  deriving DecidableEq, Repr

/-! ### Fabric manager (R435 to R445) -/

/-- Notice kinds (R435). -/
inductive NoticeKind where
  | reset | fence | relocate | route | retireDie | retireChannel
  deriving DecidableEq, Repr

/-- A notice in flight: its number, kind, the partition or die it concerns, and the dies still to acknowledge. -/
structure Notice where
  id : Nat
  kind : NoticeKind
  part : Option Nat
  arg : Nat := 0
  wait : List Nat
  sent : Nat := 0
  deriving DecidableEq, Repr

/-- The fabric manager (R445) with the heartbeat and failover state of R442. `retry` marks that reserve capacity has
changed since the last try (R440); `standbyLogAt` is the log's head at the last heartbeat (R471). -/
structure Fm where
  dieSel : Nat := 0
  troubleThr : Nat := 256
  ratio : Nat := 4
  cmdReason : Nat := 0
  chanStack : Nat := 0
  chanPair : Nat := 0
  relocQueue : List Nat := []
  relocActive : Option Nat := none
  retry : Bool := false
  failovers : Word := 0
  notices : List Notice := []
  nextNotice : Nat := 0
  heartMiss : Nat := 0
  lastHeart : Nat := 0
  standbyLogAt : Nat := 0
  deriving DecidableEq, Repr

/-! ### Lantern control (R534 to R539) -/

/-- Module Lantern control. -/
structure Lantern where
  unlocked : Bool := false
  taint : Bool := false
  indefinite : Bool := false
  reason : Nat := 0
  until_ : Nat := 0
  routes : Tab (Nat × Bool) := []
  deriving DecidableEq, Repr

end Sys2Proof.Machine
end

