-- ==== Sys2Proof/Machine/State.lean ====
section
/-! DEFINITION. The state of the block, why a step can stop, and the state right after reset. The queue `pending` holds the
commands that wait, first in, first out. -/

namespace Sys2Proof.Machine

/-- What a transfer carries (R189, R190, R195, R227, R156): rows into a slot or plain rows, a KV vector, rows to DRAM, a bare
signal, or finished partial words. -/
inductive XferKind where
  | rows (rows : List (List Byte × Bool)) (base : Nat) (slot : Bool) (readers epoch : Nat)
  | signal
  | dram (addr : Nat) (bytes : List Byte) (poison : Bool)
  | kv (entry pos pair : Nat) (isV : Bool) (elems scales : List Byte) (carry : List Nat) (poison : Bool)
  | partial_ (recv : Nat) (words : List LaWord) (layer matrix : Nat)
  deriving DecidableEq, Repr

/-- A reader's release on its way to the source of a PULL (R196): the partition, the source tile, the rows it releases, and the epoch. -/
structure Release where
  part : Nat
  tile : Nat
  base : Nat
  rows : Nat
  epoch : Nat
  deriving DecidableEq, Repr

/-- A transfer in flight: its partition and generation tag (R429), the pass and replay generation it serves (R128), where it
lands, the counter it raises, the tile it comes from, the DRAM address it reads or writes, the Twimer ports it crosses and its bytes, and the
release it owes to its source when it has landed (R196). -/
structure Xfer where
  id : Nat
  part : Nat
  tag : Nat
  pass : Nat
  gen : Nat
  tile : Nat
  ctx : Nat
  ctr : Option Nat
  kind : XferKind
  src : Nat := 0
  dramAddr : Option Nat := none
  links : List (Nat × Nat) := []
  bytes : Nat := 0
  pull : Option Release := none
  deriving DecidableEq, Repr

/-- What the block sends to the outside, in order: host writes and interrupts, feed frames, Flesha messages, sideband
replies, and answers to register and BAR2 accesses (status 0 OK, 1 NO_DIE, 2 NO_BLOCK, R5, R28). -/
inductive OutMsg where
  | hostWrite (fn addr : Nat) (bytes : List Byte)
  | msix (fn vec : Nat)
  | feedTx (port : Nat) (bytes : List Byte)
  | flesha (port addr udp : Nat) (bytes : List Byte)
  | sideband (iod : Nat) (bytes : List Byte)
  | regRead (req : Requester) (addr value status : Nat)
  | regWrite (req : Requester) (addr status : Nat)
  | barRead (fn off : Nat) (bytes : List Byte) (poisoned : Bool)
  | hostRead (fn addr len : Nat)
  deriving DecidableEq, Repr

/-- Coolant coupling (R6): dry-break quick-disconnect, or flanged. -/
inductive Coupling where
  | q
  | f
  deriving DecidableEq, Repr

/-- Key provisioning (R6, R7): generated at the factory, or certified to the buyer's chain. -/
inductive Provisioning where
  | g
  | p
  deriving DecidableEq, Repr

/-- The state of the block. -/
structure State where
  /-- The part number's fields (R3, R6), serial number and base MAC (R544), key identity (R325) and the public part of the
  installation key (R6): fused (log entry 2). The stepping is each die's. -/
  variant : Variant := .s
  coupling : Coupling := .q
  provisioning : Provisioning := .g
  serial : Nat := 1
  baseMac : Nat := 0x020000000000
  keyId : List Byte := []
  keyPublic : List Byte := []
  power : Power := {}
  cfg : Cfg := {}
  time : Time := {}
  log : Log := {}
  therm : Therm := {}
  fm : Fm := {}
  lantern : Lantern := {}
  /-- Events the MC raises itself (R468). -/
  mcEv : EvQueue := {}
  /-- Logic dies by die id (0x00–0x27 array dies, 0x40–0x45 I/O dies). -/
  dies : Tab Die := []
  /-- Tiles by die id × 32 + tile number. -/
  tiles : Tab Tile := []
  stackTab : Tab Stack := []
  feedPorts : Tab FeedPort := []
  feedIods : Tab FeedIod := []
  hostPorts : Tab HostPort := []
  /-- Functions by host port × 8 + function number. -/
  fns : Tab Fn := []
  reservoirs : Tab Reservoir := []
  engines : Tab ImgEngine := []
  parts : Tab Part := []
  ptSel : Nat := 0
  /-- Request table by entry index (R256). -/
  entries : Tab Entry := []
  dram : Memory := []
  xfers : List Xfer := []
  /-- Releases on their way to the sources of PULLs (R196). -/
  releases : List Release := []
  nextXfer : Nat := 0
  nextOp : Nat := 0
  /-- High words latched by a read of the low word, per requester (R16): requester, address of the high word, value. -/
  latches : List (Requester × Nat × Nat) := []
  out : List OutMsg := []
  /-- The index of the next free value (log entry 1): the model's own field, not the spec's. Index 0 is the IDCODE's (R541). -/
  free : Nat := 1
  pending : List Instr := []
  deriving DecidableEq, Repr

/-- Why a step stops with a fault. -/
inductive Fault where
  /-- The command names a die, tile, function, partition, port, engine or stack that no module of the series has. Raised by
  the guards of Machine/Ops.lean before anything changes. Safe: no such command can reach the hardware. -/
  | illFormed
  deriving DecidableEq, Repr

/-- Why a command is refused. -/
inductive Refusal where
  /-- The model gives the command no meaning yet. Raised by the arms of Machine/Dispatch.lean only. Safe. -/
  | notModelled (mnemonic : String)
  deriving DecidableEq, Repr

/-- The state right after reset: the module before power-up, every field at its reset value and no command waiting. -/
def State.reset : State := {}

end Sys2Proof.Machine
end

