-- ==== Sys2Proof/WellFormed.lean ====
section
/-! DEFINITION. Which operands name a site of the series: the checks that a command's meaning makes before anything else. A
site that the fitted variant lacks is no ill-formed operand; its commands find nothing there (R5). -/

namespace Sys2Proof

/-- Partitions P00–P63 (R17). -/
def okPart (p : Nat) : Bool := decide (p < 64)
/-- Host functions: port × 8 + function, 8 ports of 8 functions (R365). -/
def okFn (fn : Nat) : Bool := decide (fn < 64)
/-- Array die ids 0x00–0x27. -/
def okAd (die : Nat) : Bool := decide (die < 40)
/-- I/O dies IOD0–IOD5. -/
def okIod (iod : Nat) : Bool := decide (iod < 6)
/-- Logic die ids: array dies and I/O dies 0x40–0x45. -/
def okDie (die : Nat) : Bool := decide (die < 40) || (decide (0x40 ≤ die) && decide (die < 0x46))
/-- Tiles: die × 32 + tile number. -/
def okTile (t : Nat) : Bool := decide (t < 1280)
/-- Schedule contexts 0–14 of a tile (R180). -/
def okCtx (c : Nat) : Bool := decide (c < 15)
/-- Tarns 000–383 and S00–S15 as 384–399 (R61, R96). -/
def okTarn (n : Nat) : Bool := decide (n < 400)
/-- Physical bit-columns 0–263 of a Tarn (R61). -/
def okCol (c : Nat) : Bool := decide (c < 264)
/-- Rows 0–511 of a Tarn (R65). -/
def okRow (r : Nat) : Bool := decide (r < 512)
/-- Attention engines AE0–AE3. -/
def okEngine (e : Nat) : Bool := decide (e < 4)
/-- Arrival counters AC0–AC47 (R189). -/
def okCtr (c : Nat) : Bool := decide (c < 48)
/-- DRAM stacks DS00–DS19. -/
def okStack (k : Nat) : Bool := decide (k < 20)
/-- DRAM channels 0–15 of a stack (R441). -/
def okChan (c : Nat) : Bool := decide (c < 16)
/-- Arbiter channels 0–255 of an I/O die (R302). -/
def okChannel (c : Nat) : Bool := decide (c < 256)
/-- Reservoir stacks RES0–RES3. -/
def okRes (k : Nat) : Bool := decide (k < 4)
/-- Host ports HP0–HP7. -/
def okHostPort (k : Nat) : Bool := decide (k < 8)
/-- Feed ports FP0–FP11. -/
def okFeedPort (k : Nat) : Bool := decide (k < 12)
/-- Management ports MP0 and MP1. -/
def okMgmtPort (k : Nat) : Bool := decide (k < 2)
/-- Twimer ports of a die: north, east, south, west (R210). -/
def okEdge (k : Nat) : Bool := decide (k < 4)
/-- Queues SQ0–SQ3 and CQ0–CQ3 of a function (R373). -/
def okQueue (n : Nat) : Bool := decide (n < 4)
/-- MSI-X vectors 0–63 (R362). -/
def okVec (v : Nat) : Bool := decide (v < 64)

/-- Every site that a command names exists in the series, and the codes of a round are six-bit ones of its 1,024 converters (R62, R68). -/
def instrWellFormed : Instr → Bool
  | .powerUp _ _ => true
  | .modEnFall => true
  | .vin48Undervoltage _ => true
  | .auxOutOfRange => true
  | .iin48Crossing _ => true
  | .moduleStart _ _ => true
  | .perstAssert port => okHostPort port
  | .hostLinkLoss port => okHostPort port
  | .hostLinkTrained port _ _ => okHostPort port
  | .flr fn _ => okFn fn
  | .d3hotToD0 fn _ => okFn fn
  | .busMasterEnableWrite fn _ _ => okFn fn
  | .msixUnmask fn vec => okFn fn && okVec vec
  | .springTrigger _ => true
  | .refBufferOn die => okDie die
  | .hkSweepStepDone die _ _ _ => okDie die
  | .springReportMissed die => okDie die
  | .springControl _ _ => true
  | .springTriggerTimeout die => okDie die
  | .selfTimedSweep die _ => okDie die
  | .mcHeartbeat _ => true
  | .heartbeatMiss _ => true
  | .mcSelfFailReport _ => true
  | .watchdogTick _ => true
  | .troubleTest p _ => okPart p
  | .noticeAck _ die _ => okDie die
  | .noticeAckTimeout _ die _ => okDie die
  | .logDrain => true
  | .coalesceIntervalEnd die _ => okDie die
  | .fleshaEventSend _ => true
  | .telemetrySend _ _ => true
  | .subscriptionLapse _ _ => true
  | .lanternExpiry _ => true
  | .faultWindowRoll _ => true
  | .cqCoalTimeout fn cq _ => okFn fn && okQueue cq
  | .arbHoldExpiry iod ch _ => okIod iod && okChannel ch
  | .tarnScrubRead t tarn row _ _ => okTile t && okTarn tarn && okRow row
  | .tarnRowRewrite t tarn row => okTile t && okTarn tarn && okRow row
  | .dramPatrolRead stack ch _ _ => okStack stack && okChan ch
  | .resPatrolRead stack _ _ _ _ _ => okRes stack
  | .tstatWindowClose t tarn col => okTile t && okTarn tarn && okCol col
  | .driftUpdate t tarn bank col _ => okTile t && okTarn tarn && decide (bank < 4) && okCol col
  | .arrayDegraded p _ => okPart p
  | .arrayRecovered p _ => okPart p
  | .feedFrameRx port _ _ => okFeedPort port
  | .keyLookupDone iod _ => okIod iod
  | .ingestDrain p iod _ => okPart p && okIod iod
  | .feedLinkUp port _ => okFeedPort port
  | .feedLinkDown port _ => okFeedPort port
  | .alarmMsgTx port => okFeedPort port
  | .arbResyncCmd iod _ => okIod iod
  | .sqDoorbell fn n _ _ => okFn fn && okQueue n
  | .cqHeadDoorbell fn n _ _ => okFn fn && okQueue n
  | .erHeadDoorbell fn _ _ => okFn fn
  | .fnQCtrlWrite fn _ => okFn fn
  | .sqCtrlWrite fn n _ => okFn fn && okQueue n
  | .cqCtrlWrite fn n _ => okFn fn && okQueue n
  | .erCtrlWrite fn _ => okFn fn
  | .queueBaseWrite fn _ _ => okFn fn
  | .fnCtrlPartReset fn _ _ => okFn fn
  | .fnEvtClear fn _ => okFn fn
  | .sqFetch fn n _ _ => okFn fn && okQueue n
  | .promptRead p _ _ _ => okPart p
  | .cqCompletionWrite fn _ => okFn fn
  | .evidenceRingWrite fn => okFn fn
  | .nop t c => okTile t && okCtx c
  | .loop t c _ _ => okTile t && okCtx c
  | .jump t c _ => okTile t && okCtx c
  | .stepEnd t c _ _ => okTile t && okCtx c
  | .waitArr t c ctr _ => okTile t && okCtx c && okCtr ctr
  | .waitArrResume t c => okTile t && okCtx c
  | .signal t c ctr _ => okTile t && okCtx c && okCtr ctr
  | .dmaGet t c _ _ _ _ _ _ => okTile t && okCtx c
  | .dmaPut t c _ _ _ _ _ _ => okTile t && okCtx c
  | .put t c _ _ _ _ _ _ => okTile t && okCtx c
  | .pull t c _ _ _ _ _ _ _ => okTile t && okCtx c
  | .pullServe t _ _ _ => okTile t
  | .releaseArrive t _ _ _ => okTile t
  | .transferLanded _ _ _ _ => true
  | .fill t c _ _ _ _ _ => okTile t && okCtx c
  | .copy t c _ _ _ _ _ => okTile t && okCtx c
  | .quant t c _ _ _ _ _ _ _ => okTile t && okCtx c
  | .tarnMvm t c _ _ _ _ _ _ => okTile t && okCtx c
  | .tarnRoundDone t tarn codes => okTile t && okTarn tarn && codes.all fun q => decide (q.1 < 1024) && decide (q.2 < 64)
  | .ceExact t c _ _ _ _ _ _ => okTile t && okCtx c
  | .ceFp32 t c _ _ _ _ _ _ => okTile t && okCtx c
  | .ceOutl t c _ _ _ _ _ _ => okTile t && okCtx c
  | .combine t c _ _ _ _ => okTile t && okCtx c
  | .round t c _ _ _ _ _ => okTile t && okCtx c
  | .vec t c _ _ _ _ _ _ _ _ => okTile t && okCtx c
  | .vecFn t c _ _ _ _ _ _ _ => okTile t && okCtx c
  | .vecRed t c _ _ _ _ _ _ => okTile t && okCtx c
  | .moments t c _ _ _ _ _ _ => okTile t && okCtx c
  | .rank t c _ _ _ _ _ _ _ _ => okTile t && okCtx c
  | .aeIssue t c _ engine _ _ => okTile t && okCtx c && okEngine engine
  | .engineCompletion t _ _ _ _ => okTile t
  | .residueRepeatDone t _ _ _ _ _ => okTile t
  | .transientLimit die _ _ _ => okDie die
  | .flitParityError die port _ _ _ _ => okDie die && okEdge port
  | .stripeDown die port _ _ => okDie die && okEdge port
  | .twimerLinkDown die port _ => okDie die && okEdge port
  | .contextSwitch t c _ _ _ => okTile t && okCtx c
  | .preempt t c _ _ _ => okTile t && okCtx c
  | .passOpen p _ => okPart p
  | .matrixOutputComplete p _ _ _ _ t _ _ => okPart p && okTile t
  | .checkDone t _ _ => okTile t
  | .troubleNotice p _ _ _ _ _ _ => okPart p
  | .stepResolved p _ _ _ _ t _ => okPart p && okTile t
  | .walkAccept die engine _ => okAd die && okEngine engine
  | .walkEnd die engine _ _ _ => okAd die && okEngine engine
  | .passCommit p _ _ => okPart p
  | .specCut p _ => okPart p
  | .specProbe p _ => okPart p
  | .confirmStart p _ => okPart p
  | .confirmEnd p _ _ => okPart p
  | .alarmRelease p _ _ => okPart p
  | .entryFreed p _ _ => okPart p
  | .editApply p _ _ => okPart p
  | .install _ _ _ _ _ _ => true
  | .installChunk stack _ _ _ => okRes stack
  | .activate _ _ _ => true
  | .erase _ _ _ => true
  | .load _ _ _ => true
  | .imageChunkDecrypted stack _ _ => okRes stack
  | .pvDone p _ _ _ _ _ _ => okPart p
  | .unload _ _ _ => true
  | .swap _ _ _ => true
  | .weirClose p _ _ => okPart p
  | .weirDrainDone p _ _ => okPart p
  | .weirRelease p _ _ => okPart p
  | .variantLoad _ _ _ => true
  | .variantUnload _ _ _ => true
  | .abort _ _ _ => true
  | .tempWindowResume _ _ => true
  | .installTempTimeout stack _ => okRes stack
  | .installSessionTimeout stack _ => okRes stack
  | .shadowRepair p _ _ _ => okPart p
  | .partResetStart p _ _ => okPart p
  | .partResetFinish p _ _ _ => okPart p
  | .ptReset _ _ => true
  | .ptFence _ _ => true
  | .fmComputeRetire _ _ _ _ => true
  | .fmDarkRetire _ _ _ => true
  | .fmRetireChannel _ _ _ _ => true
  | .dieRetire die _ _ _ => okAd die
  | .channelRetire stack ch _ => okStack stack && okChan ch
  | .relocation p _ => okPart p
  | .relocationRetry p _ => okPart p
  | .partRestart _ p _ => okPart p
  | .ownersReload _ _ => true
  | .moduleRestart _ _ => true
  | .cfgWrite _ _ _ => true
  | .cfgFlashWriteDone _ _ => true
  | .fleshaSubscribe port _ _ _ _ => okMgmtPort port
  | .fleshaRead port _ _ _ _ => okMgmtPort port
  | .fleshaWrite port _ _ _ _ => okMgmtPort port
  | .fleshaImageData port _ _ _ _ _ => okMgmtPort port
  | .fleshaCfgData port _ _ _ _ => okMgmtPort port
  | .fleshaTime port _ _ _ _ => okMgmtPort port
  | .fleshaResync port _ _ _ _ => okMgmtPort port
  | .fleshaDebugUnlock port _ _ _ _ => okMgmtPort port
  | .fleshaDebugLock port _ _ _ _ => okMgmtPort port
  | .fleshaFailover port _ _ _ _ => okMgmtPort port
  | .fleshaLogRead port _ _ _ _ => okMgmtPort port
  | .sbStatus iod => okIod iod
  | .sbRead iod _ => okIod iod
  | .sbWrite iod _ _ => okIod iod
  | .sbCfgData iod _ _ => okIod iod
  | .sbTime iod _ _ => okIod iod
  | .ltnLock _ _ _ => true
  | .lanternSelWrite _ _ _ => true
  | .hkSwTrig die _ _ => okDie die
  | .tstatSelect t _ _ => okTile t
  | .tstatClear t _ => okTile t
  | .rcRead _ _ => true
  | .lowWordRead _ _ => true
  | .regWrite _ _ _ _ => true
  | .bar2Access fn _ _ _ => okFn fn
  | .hostBatchCommandRead fn _ _ => okFn fn
  | .auxInRange => true
  | .boundaryScanCycle _ _ _ _ => true

end Sys2Proof
end

