-- ==== Sys2Proof/Machine/Ops.lean ====
section
/-! DEFINITION. The shared operations on the state: access by site, the die map, module time, event reports, function events
and interrupts, the evidence spool and completions. -/

namespace Sys2Proof.Machine

/-- Outcome of a command. -/
abbrev Out := Host.Outcome State Fault Refusal

/-- Answer `s'` where the operands name sites of the series, else the fault `illFormed`. -/
def guarded (ok : Bool) (s' : State) : Out := if ok then .next s' else .fault .illFormed

/-! ### Access by site -/

namespace State

/-- A logic die. -/
def die (s : State) (d : Nat) : Die := tget {} s.dies d
/-- Change a die. -/
def modDie (s : State) (d : Nat) (f : Die → Die) : State := { s with dies := tmod {} s.dies d f }
/-- A tile. -/
def tile (s : State) (t : Nat) : Tile := tget {} s.tiles t
/-- Change a tile. -/
def modTile (s : State) (t : Nat) (f : Tile → Tile) : State := { s with tiles := tmod {} s.tiles t f }
/-- A DRAM stack. -/
def stack (s : State) (k : Nat) : Stack := tget {} s.stackTab k
/-- Change a stack. -/
def modStack (s : State) (k : Nat) (f : Stack → Stack) : State := { s with stackTab := tmod {} s.stackTab k f }
/-- A partition. -/
def part (s : State) (p : Nat) : Part := tget {} s.parts p
/-- Change a partition. -/
def modPart (s : State) (p : Nat) (f : Part → Part) : State := { s with parts := tmod {} s.parts p f }
/-- A request entry. -/
def entry (s : State) (e : Nat) : Entry := tget {} s.entries e
/-- Change a request entry. -/
def modEntry (s : State) (e : Nat) (f : Entry → Entry) : State := { s with entries := tmod {} s.entries e f }
/-- A host function. -/
def fnOf (s : State) (n : Nat) : Fn := tget {} s.fns n
/-- Change a host function. -/
def modFn (s : State) (n : Nat) (f : Fn → Fn) : State := { s with fns := tmod {} s.fns n f }
/-- A host port. -/
def hport (s : State) (n : Nat) : HostPort := tget {} s.hostPorts n
/-- Change a host port. -/
def modHport (s : State) (n : Nat) (f : HostPort → HostPort) : State := { s with hostPorts := tmod {} s.hostPorts n f }
/-- A feed port. -/
def fport (s : State) (n : Nat) : FeedPort := tget {} s.feedPorts n
/-- Change a feed port. -/
def modFport (s : State) (n : Nat) (f : FeedPort → FeedPort) : State := { s with feedPorts := tmod {} s.feedPorts n f }
/-- The ingest of an I/O die. -/
def fiod (s : State) (n : Nat) : FeedIod := tget {} s.feedIods n
/-- Change the ingest of an I/O die. -/
def modFiod (s : State) (n : Nat) (f : FeedIod → FeedIod) : State := { s with feedIods := tmod {} s.feedIods n f }
/-- A Reservoir stack. -/
def res (s : State) (n : Nat) : Reservoir := tget {} s.reservoirs n
/-- Change a Reservoir stack. -/
def modRes (s : State) (n : Nat) (f : Reservoir → Reservoir) : State := { s with reservoirs := tmod {} s.reservoirs n f }
/-- The image engine of IOD `n`. -/
def engine (s : State) (n : Nat) : ImgEngine := tget {} s.engines n
/-- Change an image engine. -/
def modEngine (s : State) (n : Nat) (f : ImgEngine → ImgEngine) : State := { s with engines := tmod {} s.engines n f }
/-- An image slot of a partition. -/
def slot (s : State) (p k : Nat) : ImgSlot := tget {} (s.part p).slots k
/-- Change an image slot. -/
def modSlot (s : State) (p k : Nat) (f : ImgSlot → ImgSlot) : State :=
  s.modPart p fun q => { q with slots := tmod {} q.slots k f }
/-- Send a message to the outside. -/
def emit (s : State) (m : OutMsg) : State := { s with out := s.out ++ [m] }
/-- Advance the module time to a reading; it never runs backwards (R255). -/
def setNow (s : State) (now : Nat) : State := { s with time := { s.time with now := Nat.max s.time.now now } }
/-- The module time. -/
def now (s : State) : Nat := s.time.now

end State

/-- An operand site of a tile. -/
def tileDie (t : Nat) : Nat := t / 32
/-- The management block of a tile (R26). -/
def tileBlock (t : Nat) : Nat := 0x20 + t % 32

/-! ### The die map (R3, R4, R18 to R21) -/

/-- Array dies fitted on a variant (R3, R4). -/
def adFitted (v : Variant) (d : Nat) : Bool :=
  decide (d < 40) && (match v with
    | .s => true
    | .m => !(d == 17 || d == 18 || d == 21 || d == 22)
    | .n => !(d == 16 || d == 23))

/-- I/O dies fitted (R3). -/
def iodFitted (v : Variant) (n : Nat) : Bool := decide (n < 4) || (v == .n && decide (n < 6))

/-- Logic dies fitted, by die id. -/
def dieFitted (v : Variant) (d : Nat) : Bool := adFitted v d || (decide (0x40 ≤ d) && iodFitted v (d - 0x40))

/-- DRAM stacks fitted (R3). -/
def stackFitted (v : Variant) (k : Nat) : Bool := decide (k < 16) || (v == .m && decide (k < 20))

/-- Feed ports fitted (R3, R4). -/
def feedPortFitted (v : Variant) (k : Nat) : Bool := decide (k < 8) || (v == .n && decide (k < 12))

/-- Logic die ids of a variant, array dies first. -/
def allDies (v : Variant) : List Nat :=
  (List.range 40).filter (adFitted v) ++ ((List.range 6).filter (iodFitted v)).map (0x40 + ·)

/-- The die that holds the DRAM port of a stack (R19, R21). -/
def stackDie (k : Nat) : Nat :=
  if k < 8 then k else if k < 16 then 24 + k else match k with
    | 16 => 9 | 17 => 10 | 18 => 13 | _ => 14

/-- The stack behind a die's DRAM port (R19, R21). -/
def dieStack (v : Variant) (d : Nat) : Option Nat :=
  if d < 8 then some d
  else if 32 ≤ d ∧ d < 40 then some (d - 24)
  else if v == .m then (match d with
    | 9 => some 16 | 10 => some 17 | 13 => some 18 | 14 => some 19 | _ => none)
  else none

/-- The site that a port of an array die faces (R19, R21), fitted or not: north 0, east 1, south 2, west 3. -/
def gridFace (v : Variant) (d port : Nat) : Option Nat :=
  let row := d / 8
  let col := d % 8
  match port with
  | 0 => if v == .n && d == 24 then some 0x44 else if v == .n && d == 31 then some 0x45
         else if row = 0 then none else some (d - 8)
  | 1 => if col = 7 then (match d with
           | 7 => some 0x42 | 15 => some 0x42 | 31 => some 0x43 | 39 => some 0x43 | _ => none)
         else some (d + 1)
  | 2 => if v == .n && d == 8 then some 0x44 else if v == .n && d == 15 then some 0x45
         else if row = 4 then none else some (d + 8)
  | _ => if col = 0 then (match d with
           | 0 => some 0x40 | 8 => some 0x40 | 24 => some 0x41 | 32 => some 0x41 | _ => none)
         else some (d - 1)

/-- The array dies of an I/O die, in the order of R19 and R21. -/
def iodDies (n : Nat) : List Nat :=
  match n with
  | 0 => [0, 8] | 1 => [24, 32] | 2 => [7, 15] | 3 => [31, 39] | 4 => [8, 24] | _ => [15, 31]

/-- The die at the far end of a Twimer port, where one is fitted there (R20). -/
def twNeighbour (v : Variant) (d port : Nat) : Option Nat :=
  if adFitted v d then (match gridFace v d port with
    | some e => if dieFitted v e then some e else none
    | none => none)
  else if 0x40 ≤ d ∧ dieFitted v d then (iodDies (d - 0x40))[port]? else none

/-- A die's neighbours (R493). -/
def dieNeighbours (v : Variant) (d : Nat) : List Nat := (List.range 4).filterMap (twNeighbour v d)

/-- The port of `e` that faces `d`. -/
def facingPort (v : Variant) (e d : Nat) : Option Nat := (List.range 4).find? fun q => twNeighbour v e q == some d

/-- Steps along the die grid from `a` to `b`: the dies passed with the port left through (R201, R438); `ns` takes north or
south first. -/
def gridPath (ns : Bool) : Nat → Nat → Nat → List (Nat × Nat)
  | 0, _, _ => []
  | fuel + 1, a, b =>
    if a = b then [] else
    let ra := a / 8; let ca := a % 8; let rb := b / 8; let cb := b % 8
    let ew : Bool := if ns then decide (ra = rb) else decide (ca ≠ cb)
    if ew then
      (if ca < cb then (a, 1) :: gridPath ns fuel (a + 1) b else (a, 3) :: gridPath ns fuel (a - 1) b)
    else
      (if ra < rb then (a, 2) :: gridPath ns fuel (a + 8) b else (a, 0) :: gridPath ns fuel (a - 8) b)

/-- Every die that a path enters is fitted and not dark (R438). -/
def pathOk (s : State) (path : List (Nat × Nat)) : Bool :=
  path.all fun q => match twNeighbour s.variant q.1 q.2 with
    | some e => (s.die e).state != .dark && (s.die q.1).state != .dark
    | none => false

/-- Every port that a path leaves through is up (R202). -/
def pathUp (s : State) (path : List (Nat × Nat)) : Bool := path.all fun q => (tget {} (s.die q.1).tw q.2).up

/-- The route between two array dies (R201, R438): east or west first, or, where that crosses a dark die, north or south first;
`none` when both do. -/
def route (s : State) (a b : Nat) : Option (List (Nat × Nat)) :=
  let p := gridPath false 16 a b
  if pathOk s p then some p
  else
    let q := gridPath true 16 a b
    if pathOk s q then some q else none

/-- The gateway die of an I/O die for an array die: the attached one whose row is nearest, of two the lower-numbered row (R201). -/
def gateway (v : Variant) (iod d : Nat) : Option Nat :=
  let far := fun a : Nat => Int.natAbs ((a / 8 : Nat) - (d / 8 : Nat) : Int)
  ((iodDies iod).filter (adFitted v)).foldl (fun b a =>
    match b with
    | none => some a
    | some c => if far a < far c then some a else b) none

/-- The route from an I/O die to an array die: out of the port that faces the gateway, then over the grid (R201). -/
def routeIn (s : State) (iod d : Nat) : Option (List (Nat × Nat)) :=
  (gateway s.variant iod d).bind fun g => (facingPort s.variant (0x40 + iod) g).bind fun q =>
    if pathOk s [(0x40 + iod, q)] then (route s g d).map fun ls => (0x40 + iod, q) :: ls else none

/-- The route from an array die to an I/O die: over the grid to the gateway, then out of its port that faces the I/O die (R201). -/
def routeOut (s : State) (d iod : Nat) : Option (List (Nat × Nat)) :=
  (gateway s.variant iod d).bind fun g => (facingPort s.variant g (0x40 + iod)).bind fun q =>
    if pathOk s [(g, q)] then (route s d g).map fun ls => ls ++ [(g, q)] else none

/-! ### Events (R466 to R469) -/

/-- Pack payload fields little-endian with no padding, up to 32 bytes (R467). -/
def pay (fields : List (Nat × Nat)) : List Byte := ((fields.map fun f => toLe f.1 f.2).flatten).take 32

/-- A list of dies or partitions as a bit mask (R467). -/
def maskOf (l : List Nat) : Nat := (l.eraseDups.map fun d => 2 ^ (if 0x40 ≤ d ∧ d < 0x46 then d - 24 else d)).sum

/-- Add a report to a coalescing entry of its pair, if there is one (R469). -/
def coalesceInto (r : EvRec) : List EvRec → Option (List EvRec)
  | [] => none
  | e :: es =>
    if e.block = r.block ∧ e.cls = r.cls ∧ e.part = r.part then some ({ e with count := e.count + 1, last := r.last } :: es)
    else (coalesceInto r es).map (e :: ·)

/-- A report reaches an event queue (R468, R469): counted always; queued, coalesced or unattributed. -/
def evPush (q : EvQueue) (r : EvRec) : EvQueue :=
  let q := { q with classCnt := tmod 0 q.classCnt r.cls (fun n => (n + 1) % 2 ^ 32), arrived := q.arrived + 1 }
  if q.coalescing then
    match coalesceInto r q.table with
    | some t => { q with table := t, coalesced := q.coalesced + 1, lastAt := r.last }
    | none =>
      if q.table.length < 32 then { q with table := q.table ++ [{ r with kind := 1 }], coalesced := q.coalesced + 1, lastAt := r.last }
      else { q with unattr := q.unattr + 1, lastAt := r.last }
  else
    let f := q.fifo ++ [r]
    let full := decide (48 ≤ f.length)
    { q with fifo := f, coalescing := full, high := q.high || full }

/-- Raise an event report on a die, or on the MC for 0xF0 (R468). -/
def report (s : State) (die block cls : Nat) (part : Option Nat) (fields : List (Nat × Nat)) : State :=
  let r : EvRec := { cls := cls, die := die, block := block, part := part, first := s.now, last := s.now, payload := pay fields }
  if die = 0xF0 then { s with mcEv := evPush s.mcEv r } else s.modDie die fun d => { d with ev := evPush d.ev r }

/-- The lead tile of a partition: its lowest-numbered tile (file 01), after relocation. -/
def leadTile (s : State) (p : Nat) : Nat := ((s.part p).tiles.min?).getD 0

/-- A report raised by a tile. -/
def reportTile (s : State) (t cls : Nat) (part : Option Nat) (fields : List (Nat × Nat)) : State :=
  report s (tileDie t) (tileBlock t) cls part fields

/-- A report raised by a partition's lead tile. -/
def reportLead (s : State) (p cls : Nat) (fields : List (Nat × Nat)) : State :=
  reportTile s (leadTile s p) cls (some p) fields

/-! ### Function events and interrupts (R372, R391) -/

/-- The port of a function. -/
def fnPort (fn : Nat) : Nat := fn / 8

/-- A function can issue requests and interrupts: link up and Bus Master Enable set (R394, R395). -/
def fnIssues (s : State) (fn : Nat) : Bool :=
  let f := s.fnOf fn
  (s.hport (fnPort fn)).up && f.bme

/-- Raise an MSI-X vector: sent when unmasked, else its pending bit is set (R391). -/
def raiseVec (s : State) (fn vec : Nat) : State :=
  let f := s.fnOf fn
  if !f.msixEn then s
  else if (tget (0, 0, true) f.msix vec).2.2 || !fnIssues s fn then
    s.modFn fn fun f => { f with pba := f.pba ||| 2 ^ vec }
  else s.emit (.msix fn vec)

/-- Set an FN_EVT bit; it interrupts unless masked (R372). -/
def setEvt (s : State) (fn bit : Nat) : State :=
  let s := s.modFn fn fun f => { f with evt := f.evt ||| 2 ^ bit }
  if bitOf (s.fnOf fn).evtMask bit then s else raiseVec s fn (s.fnOf fn).evtVec

/-- Refuse an enable or a write: FN_REASON and FN_EVT.REFUSED (R374). -/
def refuse (s : State) (fn reason off : Nat) : State :=
  setEvt (s.modFn fn fun f => { f with reason := reason, reasonReg := off }) fn 0

/-! ### The evidence spool (R387 to R389) -/

/-- A record bound for the ring enters the spool, or is dropped and counted where 4,096 records stand in it (R388, R548). -/
def spoolAdd (s : State) (p : Nat) (bytes : List Byte) : State :=
  let q := s.part p
  match q.fn with
  | none => s
  | some fn =>
    if q.spool.length < 4096 then s.modPart p fun q => { q with spool := q.spool ++ [{ bytes := bytes }] }
    else
      let s := setEvt (s.modFn fn fun f => { f with evDrop := satAdd f.evDrop 1 }) fn 4
      if q.spoolPeriod then s
      else report (s.modPart p fun q => { q with spoolPeriod := true }) 0xF0 0x01 evEvidenceSpoolFull (some p)
        [(1, p), (4, 1)]

/-- An event record of 32 bytes (R389). -/
def eventRecord (cls p t : Nat) (payload : List Byte) : List Byte :=
  toLe 2 32 ++ [0x03, 0x01] ++ toLe 2 cls ++ toLe 1 p ++ [0] ++ toLe 8 t ++ slice payload 0 16

/-! ### Completions (R383 to R386) -/

/-- A ring of a function. -/
def State.ring (s : State) (fn n : Nat) : Ring := tget {} (s.fnOf fn).rings n

/-- Change a ring. -/
def State.modRing (s : State) (fn n : Nat) (f : Ring → Ring) : State :=
  s.modFn fn fun g => { g with rings := tmod {} g.rings n f }

/-- Entries a completion ring holds beyond the host's head. -/
def cqUsed (r : Ring) : Nat := (r.cqTail + 2 ^ r.cqSize - r.cqHead) % 2 ^ r.cqSize

/-- A completion ring is full: TAIL + 1 is the last head (R385). -/
def cqFull (r : Ring) : Bool := decide ((r.cqTail + 1) % 2 ^ r.cqSize = r.cqHead % 2 ^ r.cqSize)

/-- The partition bound to a function is fenced outside a reset: its completions and records wait (R426). -/
def fnFenced (s : State) (fn : Nat) : Bool :=
  match (s.fnOf fn).part with
  | some p => (s.part p).state == .fenced
  | none => false

/-- A completion ring runs: both enables set, the function can issue and no fence stands (R374, R395, R426). -/
def cqRuns (s : State) (fn n : Nat) : Bool :=
  (s.ring fn n).cqEn && (s.fnOf fn).qEn && fnIssues s fn && !fnFenced s fn

/-- Replace a waiting PROGRESS of the same item (R385), keeping its data writes; `none` where there is none. -/
def replaceProgress (c : Compl) : List Compl → Option (List Compl)
  | [] => none
  | d :: ds =>
    if d.progress && d.item == c.item && c.item.isSome then some ({ c with data := d.data ++ c.data } :: ds)
    else (replaceProgress c ds).map (d :: ·)

/-- A completion is produced (R385, R386): merged with a waiting PROGRESS of its item, else put into the completion buffer,
counted as stalled where its ring does not run or has no room. A quiet success with nothing to write ends at once. -/
def produce (s : State) (fn : Nat) (c : Compl) : State :=
  let s := if decide (0x0320 ≤ c.reason) && decide (c.reason ≤ 0x0325) then
      s.modFn fn fun f => { f with descErr := satAdd f.descErr 1 } else s
  if c.quiet && c.reason == 0 && !c.progress && c.data.isEmpty then
    s.modFn fn fun f => { f with outstanding := f.outstanding - 1 }
  else
    match replaceProgress c (s.fnOf fn).buffer with
    | some b => s.modFn fn fun f => { f with buffer := b }
    | none =>
      let r := s.ring fn c.sq
      let waiting := ((s.fnOf fn).buffer.filter fun d => d.sq == c.sq).length
      let stalled := !cqRuns s fn c.sq || decide (2 ^ r.cqSize ≤ cqUsed r + waiting + 1)
      s.modFn fn fun f => { f with
        buffer := f.buffer ++ [c], cqStall := if stalled then satAdd f.cqStall 1 else f.cqStall }

/-- Take the next operation number. -/
def newOp (s : State) : State × Nat := ({ s with nextOp := s.nextOp + 1 }, s.nextOp)

/-- An operation queues at the engine of a stack (R337). -/
def pushJob (s : State) (stack : Nat) (j : ImgOp) : State := s.modEngine stack fun e => { e with jobs := e.jobs ++ [j] }

/-- Complete a host item or command with a reason (R383): the plain form. -/
def completeWith (s : State) (h : HostRef) (reason entry count : Nat) : State :=
  if !h.live then s
  else produce s h.fn
    { sq := h.sq, item := none, tag := h.tag, reason := reason, quiet := h.quiet, entry := entry, count := count
      position := (s.entry entry).committed }

end Sys2Proof.Machine
end

