-- ==== Sys2Proof/Machine/OpsTile.lean ====
section
/-! DEFINITION. Shared operations of a tile: schedule contexts and instruction issue (R179 to R181), poisoning of passes (R193,
R451), slot access (R185, R192), arrival counters (R189, R190), long-accumulator words (R148 to R151), the image's shadow
weights, and transfers (R195 to R202). -/

namespace Sys2Proof.Machine

/-! ### Passes as the tiles see them -/

/-- Passes in flight and recomputations that run (R282): both are served by the tiles. -/
def allPasses (s : State) (p : Nat) : List Pass := (s.part p).passes ++ (s.part p).recomps

/-- The pass `id` of partition `p`, while it is in flight. -/
def findPass (s : State) (p id : Nat) : Option Pass := (allPasses s p).find? fun x => x.id == id

/-- Change the pass `id` of partition `p`. -/
def modPass (s : State) (p id : Nat) (f : Pass → Pass) : State :=
  let g := fun x : Pass => if x.id == id then f x else x
  s.modPart p fun q => { q with passes := q.passes.map g, recomps := q.recomps.map g }

/-- A pass consumes poison (R451, R193): it keeps the first reason. -/
def poisonPass (s : State) (p : Nat) (pass : Option Nat) (reason : Nat) : State :=
  match pass with
  | some id => modPass s p id fun x => { x with poison := some (x.poison.getD reason) }
  | none => s

/-- PASS_FAILED (R299). -/
abbrev reasonPassFailed : Nat := 0x0311
/-- SCHED_FAULT (R299). -/
abbrev reasonSchedFault : Nat := 0x0312

/-- What a pass produced for a layer under a generation is superseded (R128, R131): a later generation began at that layer or
before it. -/
def stale (x : Pass) (layer gen : Nat) : Bool := x.restarts.any fun r => decide (gen < r.1) && decide (r.2 ≤ layer)

/-- The pass is in flight and what it produced for the layer under the generation stands. -/
def genCurrent (s : State) (p pass layer gen : Nat) : Bool :=
  match findPass s p pass with
  | some x => !stale x layer gen
  | none => false

/-- The plaintext of the image in a slot. -/
def planOf (s : State) (p k : Nat) : Option Plain := (s.slot p k).plain

/-- A layer of the image in a slot. -/
def layerOf (s : State) (p k l : Nat) : Option Layer := (planOf s p k).bind fun x => x.layers[l]?

/-- A matrix of a layer of the image in a slot. -/
def matrixOf (s : State) (p k l m : Nat) : Option Matrix := (layerOf s p k l).bind fun x => x.matrices[m]?

/-- Layers that the level in force places on Tarns (R331). -/
def tarnLayers (s : State) (p k : Nat) : List Nat :=
  match planOf s p k with
  | some x => ((x.levels[(s.slot p k).level]?).map Level.layers).getD []
  | none => []

/-- A matrix step runs in fallback for a pass (R137): (layer, matrix) is listed. -/
def inFallback (x : Pass) (l m : Nat) : Bool := x.fellBack.contains (l, m)

/-- A matrix step goes to fallback (R112, R121, R130, R100). The first of a layer makes the layer step a fallback: it is
counted and LAYER_FALLBACK is reported with its cause (R144). -/
def markFallback (s : State) (p pass l m cause : Nat) : State :=
  match findPass s p pass with
  | none => s
  | some x =>
    if inFallback x l m then s
    else
      let fresh := !(x.fellBack.any fun q => q.1 == l)
      let s := modPass s p pass fun y => { y with fellBack := y.fellBack ++ [(l, m)] }
      if fresh then
        let s := s.modPart p fun q => { q with fbgStepFb := satAdd q.fbgStepFb 1 }
        let s := s.modSlot p x.slot fun k => { k with layerFb := tmod 0 k.layerFb l (· + 1) }
        reportLead s p evLayerFallback [(1, p), (1, l), (1, cause)]
      else s

/-! ### Rows -/

/-- Row data in stored form: a row of zeros is the empty list. -/
def mkData (bs : List Byte) : List Byte := if bs.all (· == 0) then [] else slice bs 0 64

/-- The 64 bytes of a row. -/
def rowBytes (r : Row) : List Byte := slice r.data 0 64

/-- A row of a tile. -/
def rowOf (x : Tile) (r : Nat) : Row := tget {} x.rows r

/-! ### Contexts -/

/-- A schedule context of a tile. -/
def ctxOf (s : State) (t c : Nat) : Ctx := tget {} (s.tile t).ctxs c

/-- Change a schedule context. -/
def modCtx (s : State) (t c : Nat) (f : Ctx → Ctx) : State :=
  s.modTile t fun x => { x with ctxs := tmod {} x.ctxs c f }

/-- The partition of a context; 0 where none owns it (no instruction issues there). -/
def ctxPart (k : Ctx) : Nat := k.part.getD 0

/-- An AE_ISSUE of the context waits for an engine to accept its walk (R213). -/
def aeWaits (s : State) (t c : Nat) : Bool :=
  s.dies.any fun d => d.2.ae.any fun q => q.2.waiting.any fun w => w.tile == t && w.ctx == c

/-- The operand word at bit `lo` of a 128-bit instruction (R329). -/
def instrFld (w lo n : Nat) : Nat := fld w lo n

/-- Where a schedule re-enters a layer (R129, R181): after its last STEP_END of an earlier layer. -/
def layerEntry (instrs : List Nat) (layer : Nat) : Nat :=
  ((List.range instrs.length).zip instrs).foldl (fun pc q =>
    if instrFld q.2 0 8 = 0x03 ∧ instrFld q.2 16 16 < layer then q.1 + 1 else pc) 0

/-- The instruction words of a context. -/
def ctxInstrs (k : Ctx) : List Nat := (k.sched.map Sched.instrs).getD []

/-- The fields of an instruction word (R329). -/
def codeOf (w : Nat) : Code :=
  { op := fld w 0 8, e1 := fld w 8 4, e2 := fld w 12 4, a := fld w 16 16, b := fld w 32 32, c := fld w 64 32, d := fld w 96 32 }

/-- The instruction that a context fetches at its program counter (R180): four to a row, from its schedule's code rows. -/
def fetch (s : State) (t c : Nat) : Option Code :=
  let k := ctxOf s t c
  match k.sched with
  | some d =>
    if k.pc < d.instrs.length then
      some (codeOf (leAt (rowBytes (rowOf (s.tile t) (d.codeRow + k.pc / 4))) (16 * (k.pc % 4)) 16))
    else none
  | none => none

/-- Two results share a row or a word. -/
def resMeets : Res → Res → Bool
  | .rows a n, .rows b m => decide (a < b + m) && decide (b < a + n)
  | .words a n, .words b m => decide (a < b + m) && decide (b < a + n)
  | _, _ => false

/-- An instruction of context `c` that names the results `us` waits for the completion of an earlier one (R179). -/
def awaits (x : Tile) (c : Nat) (us : List Res) : Bool :=
  x.inFlight.any fun f => f.ctx == c && f.res.any fun r => us.any (resMeets r)

/-- An instruction of context `c` issues (R157, R179): the context runs on the tile and is at this instruction, waits for nothing that the
instruction names, no switch is due at this boundary, no combine runs, and the tile is not fenced. -/
def issues (s : State) (t c : Nat) (w : Code) (us : List Res) : Bool :=
  let x := s.tile t
  let k := tget {} x.ctxs c
  x.running == some c && k.part.isSome && k.wait.isNone && !x.fenced && !x.switchPending && !x.combining &&
    !aeWaits s t c && fetch s t c == some w && !awaits x c us

/-- The first member of a list under an order: of two that neither precedes, the earlier in the list. -/
def firstBy {α : Type} (lt : α → α → Bool) (xs : List α) : Option α :=
  xs.foldl (fun b x => match b with | some y => if lt x y then some x else b | none => some x) none

/-- Passes in the order of R264 and R265: class, deadline (none last), entry, then the order of opening. -/
def passLt (a b : Pass) : Bool :=
  let key := fun x : Pass => (x.cls, x.deadline.getD (2 ^ 64), x.entry, x.id)
  let ka := key a
  let kb := key b
  decide (ka.1 < kb.1) || (ka.1 == kb.1 && (decide (ka.2.1 < kb.2.1) || (ka.2.1 == kb.2.1 &&
    (decide (ka.2.2.1 < kb.2.2.1) || (ka.2.2.1 == kb.2.2.1 && decide (ka.2.2.2 < kb.2.2.2))))))

/-- An earlier pass of the same sequence still waits for its turn (R23). -/
def behindOwn (xs : List Pass) (x : Pass) : Bool :=
  x.confirm.isNone && xs.any fun y => y.confirm.isNone && y.entry == x.entry && decide (y.pos < x.pos)

/-- The next work of a context: a pass that it must run again from a layer on (R129), else the next pass of its image. Passes that some context
has taken up keep the order in which their turns came; of those that none has, the first under R264 is next (R265, log entry 20). -/
def nextWork (s : State) (k : Ctx) : Option (Pass × Nat) :=
  match k.redo.findSome? fun r => (findPass s (ctxPart k) r.1).map fun x => (x, r.2) with
  | some q => some q
  | none =>
    let xs := (allPasses s (ctxPart k)).filter fun x => x.slot == k.slot
    let begun := xs.filter fun x => match x.turn with
      | some n => (match k.served with | some q => decide (q < n) | none => true)
      | none => false
    let fresh := xs.filter fun x => x.turn.isNone
    ((firstBy (fun a b => decide (a.turn.getD 0 < b.turn.getD 0)) begun).or
      (firstBy passLt (fresh.filter fun x => !behindOwn fresh x))).map fun x => (x, 0)

/-- A pass that no context has taken up gets its turn. -/
def giveTurn (s : State) (p : Nat) (x : Pass) : State × Pass :=
  match x.turn with
  | some _ => (s, x)
  | none =>
    let n := (s.part p).nextTurn
    (modPass (s.modPart p fun q => { q with nextTurn := n + 1 }) p x.id fun y => { y with turn := some n }, { x with turn := some n })

/-- A context takes up a pass at a layer. -/
def takeUp (k : Ctx) (x : Pass) (layer : Nat) : Ctx :=
  { k with
    pass := some x.id, gen := x.gen, wait := none, loops := [], regions := [], place := 0
    pc := if layer = 0 then 0 else layerEntry (ctxInstrs k) layer
    served := some (Nat.max (x.turn.getD 0) (k.served.getD 0)), redo := k.redo.filter fun r => r.1 != x.id }

/-- A context serves no pass. -/
def restCtx (k : Ctx) : Ctx :=
  { k with pass := none, gen := 0, wait := none, loops := [], regions := [], place := 0, pc := 0, redo := [] }

/-! ### Save areas (R169) -/

/-- The first row of a context's save area (R169). -/
def saveBase (k : Ctx) : Nat := (k.sched.map Sched.saveRow).getD 0

/-- A word of a context's save area. -/
def savedBits (x : Tile) (k : Ctx) (w : Nat) : Nat := leAt (rowBytes (rowOf x (saveBase k + w / 4))) (16 * (w % 4)) 16

/-- Write a word of a context's save area. -/
def putSaved (k : Ctx) (x : Tile) (w n : Nat) : Tile :=
  match k.sched with
  | none => x
  | some d =>
    let r := d.saveRow + w / 4
    let o := rowOf x r
    let bs := rowBytes o
    { x with rows := tset {} x.rows r { o with data := mkData (bs.take (16 * (w % 4)) ++ toLe 16 n ++ bs.drop (16 * (w % 4) + 16)) } }

/-- The 8 context words of a save area (R169, R189): the 48 arrival counters, the pass identity and the replay generation (log entry 78). -/
def ctxSaved (k : Ctx) (w : Nat) : Nat :=
  if w < 1447 then ((List.range 8).map fun i => tget 0 k.arr (8 * (w - 1441) + i) * 2 ^ (16 * i)).sum
  else if w = 1447 then (k.pass.map (· + 1)).getD 0 else k.gen

/-- The context words of a context that does not run are those of its save area (R189). -/
def mirrorCtx (s : State) (t c : Nat) : State :=
  if (s.tile t).running == some c then s
  else s.modTile t fun x =>
    let k := tget {} x.ctxs c
    (List.range 8).foldl (fun x i => putSaved k x (1441 + i) (ctxSaved k (1441 + i))) x

/-- The context takes up its next work, if there is any. -/
def nextUp (s : State) (t c : Nat) : State :=
  match nextWork s (ctxOf s t c) with
  | some (x, l) =>
    let r := giveTurn s (ctxPart (ctxOf s t c)) x
    mirrorCtx (modCtx r.1 t c fun k => takeUp k r.2 l) t c
  | none => mirrorCtx (modCtx s t c restCtx) t c

/-- Close the loops that end at `pc` (R181): a body with repeats left starts again. -/
def closeLoops : List (Nat × Nat × Nat) → Nat → List (Nat × Nat × Nat) × Nat
  | [], pc => ([], pc)
  | (st, en, left) :: ls, pc =>
    if pc = en then (if left = 0 then closeLoops ls pc else ((st, en, left - 1) :: ls, st))
    else ((st, en, left) :: ls, pc)

/-- The context moves on to `pc`, through its loops; at the end of its schedule it takes up its next work. -/
def goTo (s : State) (t c pc : Nat) : State :=
  let (ls, pc) := closeLoops (ctxOf s t c).loops pc
  let len := (ctxInstrs (ctxOf s t c)).length
  if len ≠ 0 ∧ len ≤ pc then nextUp s t c else modCtx s t c fun k => { k with pc := pc, loops := ls }

/-- Issue an instruction (R179): its effect, then the program counter moves on. Where the context cannot issue, the
instruction is not run and nothing changes. -/
def issue (s : State) (t c : Nat) (w : Code) (us : List Res) (f : Ctx → State) : State :=
  if issues s t c w us then
    let k := ctxOf s t c
    goTo (f k) t c (k.pc + 1)
  else s

/-- An engine instruction is issued in order and completes later (R179), with the results that it gives. -/
def engineBusy (s : State) (t c : Nat) (e : Engine) (rs : List Res) : State :=
  s.modTile t fun x => { x with inFlight := x.inFlight ++ [{ id := x.issued, engine := e, ctx := c, res := rs }], issued := x.issued + 1 }

/-- Field D of an instruction: a low part and mode bits in [31:24] (R329). No instruction word has a low part of more than 24 bits. -/
def modeD (lo mode : Nat) : Nat := if lo < 2 ^ 24 then lo + 2 ^ 24 * mode else 2 ^ 32

/-- Field D of a vector, moments or rank instruction: operation, format, length and mode bits, 8 bits each (R329). -/
def vecD (op fmt len mode : Nat) : Nat :=
  if op < 256 ∧ fmt < 256 ∧ len < 256 then op + 2 ^ 8 * fmt + 2 ^ 16 * len + 2 ^ 24 * mode else 2 ^ 32

/-- The layer whose step an instruction belongs to: that of the next STEP_END of its schedule, else the one last ended (log entry 44). -/
def ctxLayer (k : Ctx) : Nat :=
  match (ctxInstrs k).drop k.pc |>.find? fun w => instrFld w 0 8 == 0x03 with
  | some w => instrFld w 16 16
  | none => k.layer

/-! ### Faults of a schedule (R185, R193) -/

/-- SCHED_FAULT of a pass (R193): the pass is poisoned, the tile and the image count it, and the class is reported. Access
kinds: 0 read, 1 write, 2 arrival counter. -/
def schedFault (s : State) (t p k : Nat) (pass : Option Nat) (slot row kind : Nat) : State :=
  let s := poisonPass s p pass reasonSchedFault
  let s := s.modTile t fun x => { x with schedFaultCnt := satAdd x.schedFaultCnt 1 }
  let s := s.modSlot p k fun x => { x with schedFault := satAdd x.schedFault 1 }
  reportTile s t evSchedFault (some p)
    [(1, p), (4, (s.slot p k).imageId), (1, t % 32), (1, slot), (2, row), (1, kind)]

/-- An access outside the schedule's rows or tiles (R185). -/
def accessFault (s : State) (t c slot row kind : Nat) : State :=
  let k := ctxOf s t c
  let s := s.modTile t fun x => { x with accessFaultCnt := satAdd x.accessFaultCnt 1 }
  schedFault s t (ctxPart k) k.slot k.pass slot row kind

/-! ### Slots -/

/-- Rows of a save area: 24 KiB (R169). -/
abbrev saveRows : Nat := 384

/-- The row ranges of a schedule (R185): what its image reserves, its code rows and its save area. -/
def schedRanges (d : Sched) : List (Nat × Nat) := d.ranges ++ [(d.codeRow, (d.instrs.length + 3) / 4), (d.saveRow, saveRows)]

/-- The schedule owns row `r` (R185). -/
def ownsRow (k : Ctx) (r : Nat) : Bool :=
  ((k.sched.map schedRanges).getD []).any fun q => decide (q.1 ≤ r) && decide (r < q.1 + q.2)

/-- A slot of the context's slot table (R189). -/
def slotDecl (k : Ctx) (n : Nat) : Option SlotDecl := (k.sched.map Sched.slots).bind fun x => x[n]?

/-- The declared slot that holds row `r`, with its index. -/
def slotAt (k : Ctx) (r : Nat) : Option (Nat × SlotDecl) :=
  let ds := (k.sched.map Sched.slots).getD []
  ((List.range ds.length).zip ds).find? fun q => decide (q.2.base ≤ r) && decide (r < q.2.base + q.2.rows)

/-- The slot that a fault at row `r` names: 0xFF where no declared slot holds the row (log entry 42). -/
def slotIdx (k : Ctx) (r : Nat) : Nat := ((slotAt k r).map Prod.fst).getD 0xFF

/-- The rows of a slot, as a result that an instruction names. -/
def slotRes (k : Ctx) (n : Nat) : Res := match slotDecl k n with | some d => .rows d.base d.rows | none => .rows 0 0

/-- A read with epoch `e` is served (R192). -/
def rowReads (r : Row) (e : Nat) : Bool := r.full && r.epoch == e % 16

/-- A served write of a slot row (R192): tag ← `e`, FULL ← 1, remaining readers ← the slot's count. A write of unpoisoned data
clears the poison (R449), and the write that reads back clean clears the suspect mark (R457). -/
def rowWrite (bs : List Byte) (e readers : Nat) (poison : Bool) : Row :=
  { data := mkData bs, epoch := e % 16, full := true, readers := readers, poison := poison }

/-- A release of a row (R192). -/
def rowRelease (r : Row) : Row := { r with readers := r.readers - 1, full := decide (1 < r.readers) }

/-- The slot that an access names faults at row `r`: outside the schedule's rows, or refused by R192. -/
def slotFault (s : State) (t c slot r kind : Nat) : State :=
  let k := ctxOf s t c
  if ownsRow k r then schedFault s t (ctxPart k) k.slot k.pass slot r kind else accessFault s t c slot r kind

/-- Read rows of a slot (R192) from row `off` of it on: the bytes and whether any row is poisoned, which the pass then
consumes (R451); `none`, with the fault, where a row is suppressed. -/
def slotRead (s : State) (t c slot off rows epoch : Nat) : State × Option (List Byte × Bool) :=
  let k := ctxOf s t c
  match slotDecl k slot with
  | none => (accessFault s t c slot 0 0, none)
  | some d =>
    let idx := (List.range rows).map fun i => d.base + off + i
    match idx.find? fun r => !(rowReads (rowOf (s.tile t) r) epoch && ownsRow k r && decide (r < d.base + d.rows)) with
    | some r => (slotFault s t c slot r 0, none)
    | none =>
      let rs := idx.map (rowOf (s.tile t))
      let bad := rs.any Row.poison
      (if bad then poisonPass s (ctxPart k) k.pass reasonPassFailed else s, some ((rs.map rowBytes).flatten, bad))

/-- Write one row of a slot (R192): a row that is FULL stays as it is and faults. -/
def slotWriteRow (s : State) (t c slot r epoch readers : Nat) (bs : List Byte) (poison : Bool) : State :=
  if (rowOf (s.tile t) r).full || !ownsRow (ctxOf s t c) r then slotFault s t c slot r 1
  else s.modTile t fun x => { x with rows := tset {} x.rows r (rowWrite bs epoch readers poison) }

/-- Write rows from row `r` on. -/
def slotWriteRows (s : State) (t c slot r epoch readers : Nat) (poison : Bool) : List (List Byte) → State
  | [] => s
  | b :: bs => slotWriteRows (slotWriteRow s t c slot r epoch readers b poison) t c slot (r + 1) epoch readers poison bs

/-- Bytes as rows of 64. -/
def toRows (bs : List Byte) : List (List Byte) := chunksOf 64 bs.length bs

/-- Write a result into a slot (R192). -/
def slotWrite (s : State) (t c slot epoch : Nat) (bs : List Byte) (poison : Bool) : State :=
  match slotDecl (ctxOf s t c) slot with
  | none => accessFault s t c slot 0 1
  | some d => slotWriteRows s t c slot d.base epoch d.readers poison ((toRows bs).take d.rows)

/-- Rows of a declared slot. -/
def slotRows (s : State) (t c slot : Nat) : Nat := ((slotDecl (ctxOf s t c) slot).map SlotDecl.rows).getD 0

/-! ### Arrival counters (R189, R190) -/

/-- Raise counter `ctr` of a context, also of one that is switched out; past 0xFFFF it stays and the pass fails (R190). -/
def raiseArr (s : State) (t c ctr : Nat) : State :=
  let k := ctxOf s t c
  let v := tget 0 k.arr ctr
  if 48 ≤ ctr then s
  else if v = 0xFFFF then schedFault s t (ctxPart k) k.slot k.pass ctr 0 2
  else mirrorCtx (modCtx s t c fun k => { k with arr := tset 0 k.arr ctr (v + 1) }) t c

/-- Subtract `k` from a counter in one step (R190). -/
def takeArr (s : State) (t c ctr k : Nat) : State :=
  modCtx s t c fun x => { x with arr := tset 0 x.arr ctr (tget 0 x.arr ctr - k), wait := none }

/-! ### Long-accumulator words -/

/-- A Basin word, or a CE cell's register of the running context under CELL placement (R149, R154). -/
def wordOf (x : Tile) (cell : Bool) (w : Nat) : LaWord := if cell then tget {} x.cells w else tget {} x.basin w

/-- Write a word. -/
def putWord (x : Tile) (cell : Bool) (w : Nat) (v : LaWord) : Tile :=
  if cell then { x with cells := tset {} x.cells w v } else { x with basin := tset {} x.basin w v }

/-- The bits of a number at every second place from `i` on. -/
def everyOther (w i : Nat) : Nat := ((List.range 56).map fun j => fld w (2 * j + i) 1 * 2 ^ j).sum

/-- A Basin word of 128 bits (R149): CHECK holds the code of the even-numbered bits in its low byte, of the odd-numbered ones in its high
byte (log entry 192). -/
def basinBits (v : LaWord) : Nat :=
  let w := laWordNat v
  w + 2 ^ 112 * (Config.secded (BitVec.ofNat 56 (everyOther w 0))).toNat + 2 ^ 120 * (Config.secded (BitVec.ofNat 56 (everyOther w 1))).toNat

/-- What a Basin word of 128 bits holds; its check bits have done their work (R171, R458). -/
def basinWord (n : Nat) (err : Int) : LaWord :=
  { la := if fld n 0 104 = 2 ^ 103 then .nanMark else .num (twosComp 104 n)
    poison := bitOf n 104, sat := bitOf n 105, outl := bitOf n 106, fallback := bitOf n 107, confirm := bitOf n 108, err := err }

/-- An LA word of a context (R154, R169): a CE cell of a context that does not run lies in its save area. -/
def ctxWord (s : State) (t c : Nat) (cell : Bool) (w : Nat) : LaWord :=
  if cell && (s.tile t).running != some c then tget {} (ctxOf s t c).cells w else wordOf (s.tile t) cell w

/-- Write an LA word of a context. -/
def putCtxWord (s : State) (t c : Nat) (cell : Bool) (w : Nat) (v : LaWord) : State :=
  if cell && (s.tile t).running != some c then
    (modCtx s t c fun k => { k with cells := tset {} k.cells w v }).modTile t fun x => putSaved (tget {} x.ctxs c) x w (basinBits v)
  else s.modTile t fun x => putWord x cell w v

/-- Layer, matrix and output column of an LA word. -/
def regionOf (k : Ctx) (w : Nat) : Option (Nat × Nat × Nat) :=
  (k.regions.find? fun q => decide (q.1 ≤ w) && decide (w < q.1 + q.2.1)).map fun q => (q.2.2.1, q.2.2.2.1, q.2.2.2.2 + (w - q.1))

/-- ACC_RANGE (R148, R178): counted, reported with the output's index in its matrix (in 4 bytes, log entry 191), and the pass fails. -/
def accRange (s : State) (t c p : Nat) (pass : Option Nat) (layer w : Nat) : State :=
  let out := ((regionOf (ctxOf s t c) w).map fun q => q.2.2).getD w
  let s := s.modTile t fun x => { x with accRangeCnt := satAdd x.accRangeCnt 1 }
  let s := reportTile s t evAccRange (some p) [(1, p), (1, layer), (1, t % 32), (4, out)]
  poisonPass s p pass reasonPassFailed

/-- Enter one contribution (R151) to a word of a context. An addition that leaves the legal range keeps the value and sets POISON
(R148). -/
def enterWord (s : State) (t c p : Nat) (pass : Option Nat) (cell : Bool) (layer w : Nat) (v : LaWord) : State :=
  let (nw, isOver) := laEnter (ctxWord s t c cell w) v
  let s := putCtxWord s t c cell w { nw with err := nw.err + v.err }
  if isOver then accRange s t c p pass layer w else s

/-- Enter contributions to the words from `w` on. -/
def enterWords (s : State) (t c p : Nat) (pass : Option Nat) (cell : Bool) (layer w : Nat) : List LaWord → State
  | [] => s
  | v :: vs => enterWords (enterWord s t c p pass cell layer w v) t c p pass cell layer (w + 1) vs

/-- Enter products one by one into a word (R148, R151): each is an addition of its own. -/
def enterTerms (s : State) (t c p : Nat) (pass : Option Nat) (cell : Bool) (layer w : Nat) (vs : List LaWord) : State :=
  vs.foldl (fun s v => enterWord s t c p pass cell layer w v) s

/-- Step open with OVERWRITE (R151): words and status are cleared and each block's pass tag names the pass. -/
def openWords (s : State) (t : Nat) (tag : Option PassTag) (cell : Bool) (w n : Nat) : State :=
  s.modTile t fun x =>
    let x := (List.range n).foldl (fun x i => putWord x cell (w + i) {}) x
    if cell then x
    else { x with tags := (List.range n).foldl (fun g i => tset none g ((w + i) / 16) tag) x.tags }

/-- The pass tag of a context (R150). -/
def ctxTag (k : Ctx) : Option PassTag :=
  match k.part, k.pass with
  | some p, some x => some { part := p, pass := x, gen := k.gen }
  | _, _ => none

/-- The LA words of a step carry these output columns from now on. -/
def noteRegion (s : State) (t c w n l m col : Nat) : State :=
  modCtx s t c fun k =>
    { k with regions := (w, n, l, m, col) :: k.regions.filter fun q => decide (q.1 + q.2.1 ≤ w) || decide (w + n ≤ q.1) }

/-- The accumulations of a layer lie in CE cells (R154). -/
def cellPlaced (s : State) (p k l : Nat) : Bool :=
  match layerOf s p k l with
  | some x => x.accPlace == 0
  | none => false

/-! ### Shadow weights -/

/-- The Tarn-part element code of a weight (R106). -/
def weightCode (m : Matrix) (col row : Nat) : Nat := (m.codes.getD col []).getD row (zeroCode m.fmt)

/-- The scale code of a weight block. -/
def weightScale (m : Matrix) (col block : Nat) : Nat := (m.scales.getD col []).getD block 0

/-- The Tarn-part value of a weight: a block format's value, or a scalar format's. -/
def weightVal (m : Matrix) (col row : Nat) : Val :=
  let c := weightCode m col row
  if m.fmt = 7 then (if weightScale m col (row / 32) = 0 then .fin false 0 1
    else (intVal (2 * (c : Int) - 3) 2).mul (decScale (weightScale m col (row / 32))))
  else if fmtBlock m.fmt then blockVal m.fmt (weightScale m col (row / 32)) c
  else decElem m.fmt c

/-- The static entry of a position, where there is one (R41, R107). -/
def staticVal (m : Matrix) (col row : Nat) : Option Val :=
  (m.outliers.find? fun o => o.row == row && o.col == col).map fun o =>
    if o.scale = 0 then .fin false 0 1
    else (if o.e4m3 then decE4M3 o.elem else intVal (twosComp 8 o.elem) 1).mul (decScale o.scale)

/-- The delta blocks of a variant on one output column of a matrix (R271). -/
def deltasOf (s : State) (p k v l m col : Nat) : List DeltaBlock :=
  if v = 0 then []
  else (tget {} (s.slot p k).variants v).blocks.filter fun b => b.layer == l && b.matrix == m && b.col == col

/-- The delta of a variant at one weight. -/
def deltaVal (fmt : Nat) (bs : List DeltaBlock) (row : Nat) : Option Val :=
  (bs.find? fun b => b.kBlock == row / 32).map fun b => blockVal fmt b.scale (b.elems.getD (row % 32) 0)

/-- Values of a quantised input vector of `n` elements in a slot's bytes. -/
def inputVals (fmt n : Nat) (bs : List Byte) : List Val := readVec fmt n bs

/-- Integer elements and block scale codes of a quantised array input (R65, R72). -/
def inputInts (int8 : Bool) (n : Nat) (bs : List Byte) : List Int × List Nat :=
  let f := if int8 then 4 else 5
  let bl := 4 * fmtBits f
  let nb := (n + 31) / 32
  (((List.range nb).map fun b =>
      (unpackNat (fmtBits f) 32 (leAt bs (b * (bl + 1)) bl)).map (twosComp (fmtBits f))).flatten.take n,
   (List.range nb).map fun b => byteAt bs (b * (bl + 1) + bl))

/-- An exact dot product as one LA contribution (R53, R54). -/
def dotLa (xs ws : List Val) : La :=
  (List.zipWith (fun x w => laOf (x.mul w)) xs ws).foldl
    (fun acc v => match acc, v with | .num a, .num b => .num (a + b) | _, _ => .nanMark) (.num 0)

/-- The read of a weight block from the shadow meets poison (R452): its chunk waits for its repair. -/
def shadowBlockBad (s : State) (p k l m col block : Nat) : Bool :=
  let q := s.slot p k
  !q.shadowBad.isEmpty && q.shadowBad.contains (Config.shadowChunk [q.imageId, q.epoch, l, m, col, block])

/-- Some block of one output column's inputs from `row` on meets poison. -/
def shadowColBad (s : State) (p k l m col row rows : Nat) : Bool :=
  !(s.slot p k).shadowBad.isEmpty && (List.range ((rows + 31) / 32)).any fun i => shadowBlockBad s p k l m col (row / 32 + i)

/-! ### Transfers -/

/-- The tile that a partition-relative index names (R199). -/
def absTile (s : State) (p rel : Nat) : Option Nat := (s.part p).tiles[rel]?

/-- The context of an image on a tile: `c` itself where it serves the image, else the lowest that does (log entry 45). -/
def destCtx (s : State) (p k t c : Nat) : Option Nat :=
  let x := s.tile t
  if (tget {} x.ctxs c).part == some p && (tget {} x.ctxs c).slot == k then some c
  else (x.ctxs.find? fun q => q.2.part == some p && q.2.slot == k).map Prod.fst

/-- The Twimer ports that a transfer between two dies leaves through; `none` where no route is up. -/
def linksOf (s : State) (a b : Nat) : Option (List (Nat × Nat)) := if a = b then some [] else (route s a b).filter (pathUp s)

/-- Bytes leave through a port (R210). -/
def countTx (s : State) (q : Nat × Nat) (bytes : Nat) : State :=
  s.modDie q.1 fun d => { d with tw := tmod {} d.tw q.2 fun w => { w with tx := wrapAdd w.tx bytes } }

/-- Bytes that left through a port enter at the facing one (R210). -/
def countRx (s : State) (q : Nat × Nat) (bytes : Nat) : State :=
  match twNeighbour s.variant q.1 q.2 with
  | some e => (match facingPort s.variant e q.1 with
    | some r => s.modDie e fun d => { d with tw := tmod {} d.tw r fun w => { w with rx := wrapAdd w.rx bytes } }
    | none => s)
  | none => s

/-- What a transfer counts as it leaves: bytes sent on its first link. -/
def countFirst (s : State) (links : List (Nat × Nat)) (bytes : Nat) : State :=
  match links with
  | q :: _ => countTx s q bytes
  | [] => s

/-- What a transfer counts when it has crossed links: bytes received on each, and sent on all but the first. -/
def countCrossed (s : State) (links : List (Nat × Nat)) (bytes : Nat) : State :=
  links.tail.foldl (fun s q => countTx s q bytes) (links.foldl (fun s q => countRx s q bytes) s)

/-- Bytes that cross every link of a path at once (R210). -/
def countPath (s : State) (links : List (Nat × Nat)) (bytes : Nat) : State := countCrossed (countFirst s links bytes) links bytes

/-- Send a transfer for a context from a station of a die to a context of a tile, with the partition's tag and the pass's generation (R128,
R429). Where no route is up the transfer is lost and poisons the pass (R202). -/
def launchFrom (s : State) (die src : Nat) (k : Ctx) (dt dc : Nat) (ctr : Option Nat) (kind : XferKind) (bytes : Nat)
    (pull : Option Release) : State :=
  match linksOf s die (tileDie dt) with
  | none => poisonPass s (ctxPart k) k.pass reasonPassFailed
  | some ls =>
    let x : Xfer := { id := s.nextXfer, part := ctxPart k, tag := (s.part (ctxPart k)).tag, pass := k.pass.getD 0
                      gen := k.gen, tile := dt, ctx := dc, ctr := ctr, kind := kind, src := src, links := ls, bytes := bytes, pull := pull }
    countFirst { s with xfers := s.xfers ++ [x], nextXfer := s.nextXfer + 1 } ls bytes

/-- Send a transfer from a tile. -/
def launch (s : State) (t : Nat) (k : Ctx) (dt dc : Nat) (ctr : Option Nat) (kind : XferKind) (bytes : Nat)
    (pull : Option Release) : State := launchFrom s (tileDie t) t k dt dc ctr kind bytes pull

/-- The slot of a context takes `n` rows: its declaration (R189). -/
def slotFor (k : Ctx) (slot n : Nat) : Option SlotDecl := (slotDecl k slot).filter fun d => decide (n ≤ d.rows)

/-- The counter that an instruction names: 0xFFFF is none (R329). -/
def ctrOf (ctr : Nat) : Option Nat := if ctr = 0xFFFF then none else some ctr

/-! ### SEQ_STATUS (R208, R427) -/

/-- The context that runs on a tile. -/
def runningCtx (x : Tile) : Option Ctx := x.running.map fun c => tget {} x.ctxs c

/-- SEQ_STATUS.STATE (R208): idle, running, waiting, fenced. -/
def seqState (x : Tile) : Nat :=
  if x.fenced then 3
  else match runningCtx x with
    | none => 0
    | some c => if c.wait.isSome then 2 else 1

/-- SEQ_STATUS of a tile (R208). -/
def seqStatus (x : Tile) : Nat :=
  seqState x + 16 * (x.running.getD 0 % 16) + 256 * b2n x.switchPending +
    65536 * ((((runningCtx x).bind Ctx.wait).map Prod.fst).getD 0 % 64)

end Sys2Proof.Machine
end

