-- ==== Sys2Proof/Machine/OpsTarn.lean ====
section
/-! DEFINITION. Shared operations of the Tarns: column maps and spares (R91, R92), statistics windows (R93), drift updates
(R115 to R118), one round through the tree (R76 to R83, R120) and fallback of a matrix step (R121, R130). -/

namespace Sys2Proof.Machine

/-- A Tarn of a tile, by number. -/
def tarnOf (x : Tile) (n : Nat) : Tarn := tget {} x.tarns n

/-- Change a Tarn. -/
def modTarn (s : State) (t n : Nat) (f : Tarn → Tarn) : State :=
  s.modTile t fun x => { x with tarns := tmod {} x.tarns n f }

/-- The physical bit-column of a logical one (R62, R91): the steering switch follows the entry whose spare column has not failed. -/
def physCol (T : Tarn) (lc : Nat) : Nat :=
  match T.colMap.find? fun e => e.2.col == lc && !e.2.dead with
  | some e => 256 + e.1
  | none => lc

/-- A physical bit-column is in use (R96 MAPPED): a spare that is mapped in and has not failed, a logical one that is not replaced. -/
def colMapped (T : Tarn) (col : Nat) : Bool :=
  if 256 ≤ col then T.colMap.any fun e => e.1 == col - 256 && !e.2.dead else !(T.colMap.any fun e => e.2.col == col)

/-- The Tarn that a selector shows (R96, R97, R142): a spare that is mapped in is shown under its own number and under the number that it
took (log entry 194). -/
def shownTarn (x : Tile) (n : Nat) : Nat :=
  match x.spMap.find? fun q => q.1 + 384 == n && !q.2.dead with
  | some q => q.2.tarn
  | none => n

/-- MAPPED of a column under a selector (R96): a spare Tarn that is not mapped in has no column in use. -/
def shownMapped (x : Tile) (n col : Nat) : Bool :=
  if 384 ≤ n ∧ shownTarn x n = n then false else colMapped (tarnOf x (shownTarn x n)) col

/-- The key of a converter column (R114). -/
def convKey (bank col : Nat) : Nat := bank * 264 + col

/-- An MVM runs on the Tarn. -/
def mvmBusy (T : Tarn) : Bool :=
  match T.mvm with
  | some m => !m.quads.isEmpty
  | none => false

/-! ### Statistics windows -/

/-- A window becomes the column's snapshot, unless frozen, and the next starts empty (R93, R96). -/
def closeWindow (freeze : Bool) (T : Tarn) (col : Nat) : Tarn :=
  let w := tget {} T.win col
  { T with
    win := tset {} T.win col {}
    snap := if freeze then T.snap else tset {} T.snap col w
    snapSeq := if freeze then T.snapSeq else tset 0 T.snapSeq col ((tget 0 T.snapSeq col + 1) % 256) }

/-- One conversion enters a column's window; a window that is already full closes first. -/
def statConv (wl2 : Nat) (freeze : Bool) (T : Tarn) (col code : Nat) (excess : Bool) : Tarn :=
  let T := if 2 ^ wl2 ≤ (tget {} T.win col).n then closeWindow freeze T col else T
  { T with win := tset {} T.win col (statAdd (tget {} T.win col) code excess) }

/-- Copy the selected column's snapshot into the read window in one step (R94). -/
def copyView (x : Tile) : Tile :=
  let T := tarnOf x (shownTarn x x.tstatTarn)
  let w := tget {} T.snap x.tstatCol
  { x with view := { seq := tget 0 T.snapSeq x.tstatCol, valid := w.n != 0, mapped := shownMapped x x.tstatTarn x.tstatCol
                     frozen := x.freeze, win := w } }

/-- Discard every running window of a tile (R96). -/
def restartWindows (x : Tile) : Tile :=
  { x with tarns := x.tarns.foldl (fun ts q => tmod {} ts q.1 fun T => { T with win := [] }) x.tarns }

/-- A write of TSTAT_CTRL (R96): reserved WINDOW_LOG2 values leave the field unchanged and make no copy. -/
def tstatCtrl (x : Tile) (value : Nat) : Tile :=
  let wl := fld value 0 5
  let ok := decide (10 ≤ wl) && decide (wl ≤ 24)
  let changed := ok && wl != x.windowLog2
  let x := if changed || bitOf value 10 then restartWindows x else x
  let x := { x with windowLog2 := if ok then wl else x.windowLog2, freeze := bitOf value 8 }
  if ok && bitOf value 9 then copyView x else x

/-- A write of TSTAT_SEL (R94, R96): the newly selected column is copied into the read window; reserved values leave their field
unchanged and make no copy. -/
def tstatSel (x : Tile) (value : Nat) : Tile :=
  let tn := fld value 0 9
  let col := fld value 16 9
  let x := { x with tstatTarn := if tn < 400 then tn else x.tstatTarn, tstatCol := if col < 264 then col else x.tstatCol }
  if tn < 400 ∧ col < 264 then copyView x else x

/-! ### Drift updates -/

/-- The coefficients that an update starts from: those waiting, else those in force. -/
def coefNow (T : Tarn) (key : Nat) : Coef :=
  match T.pend.find? fun q => q.1 == key with
  | some q => q.2
  | none => tget {} T.coefs key

/-- Update a converter column after 256 comparisons (R115, R118), waiting for the next MVM where one runs (R116). -/
def driftNow (s : State) (t tarn key : Nat) : State :=
  let x := s.tile t
  let T := tarnOf x tarn
  let (co, lim, first, which) := driftApply (tget {} T.cmps key) (coefNow T key)
  let s := modTarn s t tarn fun T =>
    let T := { T with cmps := tset {} T.cmps key {} }
    if mvmBusy T then { T with pend := tput T.pend key co } else { T with coefs := tset {} T.coefs key co }
  let s := s.modTile t fun x => { x with
    driftUpdCnt := wrapAdd x.driftUpdCnt 1
    driftLimitCnt := if lim then satAdd x.driftLimitCnt 1 else x.driftLimitCnt }
  if first then
    reportTile s t evDriftLimit none
      [(1, tileDie t), (1, t % 32), (2, tarn), (1, key / 264), (2, key % 264), (1, which)]
  else s

/-- One comparison of a converter column (R115); none while DRIFT_FREEZE is set (R119). A column with 256 comparisons is
updated first. -/
def driftCompare (s : State) (t tarn key : Nat) (fine : Int) (ideal : Nat) : State :=
  if (s.tile t).driftFreeze then s
  else
    let s := if 256 ≤ (tget {} (tarnOf (s.tile t) tarn).cmps key).n then driftNow s t tarn key else s
    modTarn s t tarn fun T => { T with cmps := tmod {} T.cmps key fun c => driftSum c fine ideal }

/-! ### Spares and short tiles -/

/-- Partitions that hold a tile. -/
def partsOfTile (s : State) (t : Nat) : List Nat := (s.parts.filter fun q => q.2.tiles.contains t).map Prod.fst

/-- A partition is to be relocated (R439): it joins the queue of the fabric manager. -/
def queueReloc (s : State) (p : Nat) : State :=
  if s.fm.relocQueue.contains p then s else { s with fm := { s.fm with relocQueue := s.fm.relocQueue ++ [p] } }

/-- A tile becomes SHORT (R92): counted once on its die, and its partitions are to be relocated. -/
def shortTile (s : State) (t : Nat) : State :=
  let was := (s.tile t).short || (s.tile t).spadShort
  let s := if was then s else s.modDie (tileDie t) fun d => { d with shortTiles := d.shortTiles + 1 }
  (partsOfTile s t).foldl queueReloc s

/-- The lowest free spare Tarn of a tile. -/
def freeSpare (x : Tile) : Option Nat := (List.range 16).find? fun k => !(x.spMap.any fun q => q.1 == k)

/-- A Tarn comes into use: a Lantern line that selects its column node (KIND 5) is switched off first (R538). -/
def lanternClear (s : State) (t tarn : Nat) : State :=
  let sel := fun l : LnLine => l.kind == 5 && l.tile == t % 32 && l.tarn == tarn
  if (s.die (tileDie t)).ln.any fun q => sel q.2 then
    s.modDie (tileDie t) fun d => { d with
      ln := (d.ln.map fun q => (q.1, if sel q.2 then { q.2 with kind := 0 } else q.2)).filter fun q => q.2 != {} }
  else s

/-- The record of a spare Tarn once it replaces another (R92): its own column map and converters, with the number, weights, scale store
and work of the one that failed. Row writes that were pending come with the weights, and an MVM in progress goes on (log entry 195). -/
def takeOver (spare failed : Tarn) : Tarn :=
  { spare with
    rows := failed.rewrite.foldl (fun r q => tset 0 r q.1 q.2) failed.rows
    check := failed.rewrite.foldl (fun r q => tset 0 r q.1 (rowCheck q.2)) failed.check
    fmt := failed.fmt, scales := failed.scales, holder := failed.holder, layer := failed.layer, matrix := failed.matrix
    kChunk := failed.kChunk, nBase := failed.nBase, cols := failed.cols, mvm := failed.mvm
    ranSince := match failed.mvm with | some v => [(v.part, v.pass)] | none => [] }

/-- Replace a Tarn by a free spare (R92). A spare that fails in its turn keeps its entry, which stays VALID and goes on counting in
TARNS_USED, and is no longer the one in use (log entry 190). With no spare free the tile is SHORT. -/
def replaceTarn (s : State) (t tarn : Nat) : State :=
  match freeSpare (s.tile t) with
  | some k =>
    let spare := tarnOf (s.tile t) (384 + k)
    let s := (lanternClear s t (384 + k)).modTile t fun x => { x with
      spMap := tput (x.spMap.map fun q => (q.1, if q.2.tarn = tarn then { q.2 with dead := true } else q.2)) k { tarn := tarn, factory := false } }
    modTarn s t tarn (takeOver spare)
  | none => (shortTile s t).modTile t fun x => { x with short := true }

/-- Map a bit-column of a Tarn to a spare column (R91), the lowest whose entry is free (log entry 190); the ninth replaces the Tarn (R92).
An entry whose spare column failed stays filled, and the new one takes its place. -/
def mapColumn (s : State) (t tarn lc : Nat) : State :=
  let T := tarnOf (s.tile t) tarn
  match (List.range 8).find? fun e => !(T.colMap.any fun q => q.1 == e) with
  | some e => modTarn s t tarn fun T => { T with
      colMap := tput (T.colMap.map fun q => (q.1, if q.2.col = lc then { q.2 with dead := true } else q.2)) e { col := lc, factory := false } }
  | none => replaceTarn s t tarn

/-! ### Matrix steps -/

/-- Index of a Tarn-placed matrix in image order across all layers (R123). -/
def matrixIndex (s : State) (p k l m : Nat) : Nat :=
  match planOf s p k with
  | some x =>
    ((List.range l).map fun i =>
      if (tarnLayers s p k).contains i then ((x.layers[i]?).map fun y => y.matrices.length).getD 0 else 0).sum + m
  | none => m

/-- An output tile of a matrix step is sampled in a pass (R123), or forced by a replay (R129). -/
def tileSampled (s : State) (p : Nat) (x : Pass) (l m o : Nat) : Bool :=
  x.forced.contains (l, m, o) || sampledTile x.seed x.sLog2 (matrixIndex s p x.slot l m) o

/-- The stored value of a shadow weight, for the ideal counts (R115, R120). -/
def shadowU (m : Matrix) (col row : Nat) : Nat := storedU m.fmt (weightCode m col row)

/-- Inputs of one row group. -/
def groupX (x : List Int) (g : Nat) : List Int := (x.drop (32 * g)).take 32

/-- `i_grp` with every count ideal (R77): from the shadow's weights. -/
def idealGroup (m : Matrix) (x : List Int) (kChunk col g : Nat) : Int :=
  let xs := groupX x g
  let us := ((List.range xs.length).zip xs).map fun q => q.2 * (shadowU m col (512 * kChunk + 32 * g + q.1) : Int)
  iGrp m.fmt us.sum xs.sum

/-- The exact contribution of a column group (R120). -/
def idealLa (m : Matrix) (x : List Int) (xScale : List Nat) (kChunk col g : Nat) : La :=
  contribution m.fmt (idealGroup m x kChunk col g) (weightScale m col (16 * kChunk + g)) (xScale.getD g 0)

/-- Row groups of the quads listed. -/
def quadGroups (qs : List Nat) : List Nat := (qs.map fun q => [4 * q, 4 * q + 1, 4 * q + 2, 4 * q + 3]).flatten

/-- The weight block of a column group, as the CE reads it from the shadow, meets poison (R113, R452). -/
def groupBad (s : State) (kChunk : Nat) (v : Mvm) (j g : Nat) : Bool :=
  shadowBlockBad s v.part v.slot v.layer v.matrix (v.nBase + j) (16 * kChunk + g)

/-- Enter a column group's contribution for the column `j` of an MVM; where it was read from the shadow and the read met poison, the pass
consumes it (R451, R452). -/
def enterGroup (s : State) (t : Nat) (v : Mvm) (j : Nat) (bad : Bool) (w : LaWord) : State :=
  let s := if bad then poisonPass s v.part (some v.pass) reasonPassFailed else s
  enterWord s t v.ctx v.part (some v.pass) v.cell v.layer (v.laBase + j) { w with poison := w.poison || bad }

/-- Enter the exact contributions of the groups `gs` of a Tarn's columns (reference arithmetic, R173). -/
def enterIdeal (s : State) (t kChunk : Nat) (v : Mvm) (m : Matrix) (gs : List Nat) (fb : Bool) : State :=
  (List.range v.cols).foldl (fun s j =>
    gs.foldl (fun s g => enterGroup s t v j (groupBad s kChunk v j g)
      { la := idealLa m v.x v.xScale kChunk (v.nBase + j) g, poison := v.poison, fallback := fb }) s) s

/-- A word of a step that goes to fallback: its contributions from the arrays give way to the exact ones (R121). -/
def exactWord (o : LaWord) : LaWord :=
  { o with la := (match o.la with | .num a => La.num (a - o.err) | .nanMark => .nanMark), err := 0, fallback := true }

/-- The words of a context that carry outputs of a matrix step. -/
def stepWords (k : Ctx) (l m : Nat) : List Nat :=
  ((k.regions.filter fun q => q.2.2.1 == l && q.2.2.2.1 == m).map fun q => (List.range q.2.1).map (q.1 + ·)).flatten

/-- The contexts that serve a pass: tile and context. -/
def ctxsOfPass (s : State) (p k pass : Nat) : List (Nat × Nat) :=
  ((s.part p).tiles.map fun t => ((s.tile t).ctxs.filter fun q =>
    q.2.part == some p && q.2.slot == k && q.2.pass == some pass).map fun q => (t, q.1)).flatten

/-- The receive words of a home tile's context that hold partials of a matrix step (R156). -/
def recvWords (s : State) (p : Nat) (k : Ctx) (l m : Nat) : List Nat :=
  ((((planOf s p k.slot).map Plain.splits).getD []).filter fun q => q.layer == l && q.matrix == m && q.home == k.relTile).map (fun q =>
    (List.range q.words).map fun i => q.recv + q.index * q.words + i) |>.flatten

/-- A running MVM of a matrix step of a pass: the rest of its groups enter exactly, and its rounds run on to no effect (R71, R121). -/
def finishExact (s : State) (t p pass l m : Nat) (mx : Matrix) (n : Nat) : State :=
  let T := tarnOf (s.tile t) n
  match T.mvm with
  | none => s
  | some v =>
    if v.part == p && v.pass == pass && v.layer == l && v.matrix == m && !v.dead && !v.discard && genCurrent s p pass l v.gen then
      modTarn (enterIdeal s t T.kChunk v mx (quadGroups v.quads) true) t n fun T => { T with mvm := T.mvm.map fun v => { v with dead := true } }
    else s

/-- A whole matrix step goes to fallback while it runs (R100, R121): on every tile, what its words hold becomes the reference value, in
transfers of partials too, and the groups not yet entered enter exactly. An output that has already been rounded and forwarded stays as
it is (log entry 196). -/
def stepToFallback (s : State) (p pass l m : Nat) : State :=
  match findPass s p pass with
  | none => s
  | some x =>
    match matrixOf s p x.slot l m with
    | none => s
    | some mx =>
      let cell := cellPlaced s p x.slot l
      let s := (ctxsOfPass s p x.slot pass).foldl (fun s q =>
        let k := ctxOf s q.1 q.2
        let s := (stepWords k l m).foldl (fun s w => putCtxWord s q.1 q.2 cell w (exactWord (ctxWord s q.1 q.2 cell w))) s
        (recvWords s p k l m).foldl (fun s w => s.modTile q.1 fun x => putWord x false w (exactWord (wordOf x false w))) s) s
      let s := { s with xfers := s.xfers.map fun y : Xfer => match y.kind with
        | XferKind.partial_ r ws l' m' => if y.part = p ∧ y.pass = pass ∧ l' = l ∧ m' = m then { y with kind := .partial_ r (ws.map exactWord) l' m' } else y
        | _ => y }
      (s.part p).tiles.foldl (fun s t => (s.tile t).tarns.foldl (fun s q => finishExact s t p pass l m mx q.1) s) s

/-! ### A round (R69, R76, R81, R83, R93, R114) -/

/-- What one conversion gives: column, slice, group, plane popcount, ideal count of the stored rows, code, fine count,
corrected count before the clamp. -/
structure Conv where
  j : Nat
  b : Nat
  g : Nat
  pi : Nat
  code : Nat
  fine : Int
  cnt : Int
  deriving DecidableEq, Repr

/-- The conversions of a round, column by column; a code that is not listed is the ideal count of the stored bits (R68).
Codes are listed by bank × 256 + logical bit-column. -/
def roundConvs (T : Tarn) (v : Mvm) (q : Nat) (codes : List (Nat × Nat)) : List Conv :=
  let S := slices T.fmt
  ((List.range v.cols).map fun j => ((List.range S).map fun b => (quadGroups [q]).map fun g =>
    let lc := S * j + b
    let xs := groupX v.x g
    let rows := (List.range 32).map fun i => tget 0 T.rows (32 * g + i)
    let code := match codes.find? fun e => e.1 == (g % 4) * 256 + lc with
      | some e => e.2
      | none => idealCount xs rows v.plane lc
    let f := fineCount code (tget {} T.coefs (convKey (g % 4) (physCol T lc)))
    ({ j := j, b := b, g := g, pi := popPlane xs v.plane, code := code, fine := f, cnt := fineRound f } : Conv)).flatten).flatten

/-- Saturation of a conversion (R81). -/
def Conv.sat (c : Conv) : Bool := c.pi != 0 && decide (33 ≤ c.code)

/-- Excess of a conversion (R81): the corrected count before the clamp above the plane popcount. -/
def Conv.excess (c : Conv) : Bool := c.pi != 0 && decide ((c.pi : Int) < c.cnt)

/-- The count that enters the group sum (R76). -/
def Conv.count (c : Conv) : Nat := if c.pi = 0 then 0 else clampCount c.cnt

/-- A column group's key. -/
def grpKey (j g : Nat) : Nat := j * 16 + g

/-- Statistics of a round (R93): conversions with π = 0 are not counted. -/
def roundStats (wl2 : Nat) (freeze : Bool) (T : Tarn) (cs : List Conv) : Tarn :=
  let S := slices T.fmt
  cs.foldl (fun T c => if c.pi = 0 then T
    else statConv wl2 freeze T (physCol T (S * c.j + c.b)) c.code c.excess) T

/-- Fine counts kept for the sampled columns (R115). -/
def roundKept (T : Tarn) (v : Mvm) (m : Matrix) (cs : List Conv) : List Kept :=
  let S := slices T.fmt
  (cs.filter fun c => c.pi != 0 && v.sampled.contains c.j).map fun c =>
    let xs := groupX v.x c.g
    let ideal := ((List.range xs.length).zip xs).filter fun q =>
      planeBit q.2 v.plane && bitOf (shadowU m (v.nBase + c.j) (512 * T.kChunk + 32 * c.g + q.1)) c.b
    { part := v.part, pass := v.pass, gen := v.gen, layer := v.layer, matrix := v.matrix, outTile := (v.nBase + c.j) / 32
      key := convKey (c.g % 4) (physCol T (S * c.j + c.b)), fine := c.fine, ideal := ideal.length }

/-- Column groups that a round flags for the first time, with whether saturation is what counts (R83). -/
def newFlags (v : Mvm) (cs : List Conv) : List (Nat × Bool) :=
  let ks := ((cs.filter fun c => c.sat || c.excess).map fun c => grpKey c.j c.g).eraseDups
  (ks.filter fun k => !v.flagged.contains k).map fun k => (k, cs.any fun c => c.sat && grpKey c.j c.g == k)

/-- The result of one column group at the end of its planes (R77, R79, R82): the tree's contribution, or the exact one for a
flagged group with SAT_TOUCHED. -/
def groupWord (T : Tarn) (v : Mvm) (m : Matrix) (j g : Nat) : LaWord :=
  let exact := idealLa m v.x v.xScale T.kChunk (v.nBase + j) g
  if v.flagged.contains (grpKey j g) then { la := exact, sat := true, poison := v.poison }
  else
    let la := contribution T.fmt (iGrp T.fmt (tget 0 v.usum (grpKey j g)) (groupX v.x g).sum)
      (tget 0 T.scales (grpKey j g)) (v.xScale.getD g 0)
    let err := match la, exact with | .num a, .num e => a - e | _, _ => 0
    { la := la, poison := v.poison, err := err }

/-- Enter the results of a finished quad into the words of the context that issued the MVM. A flagged group's weights are read from the
shadow (R120). -/
def enterQuad (s : State) (t : Nat) (T : Tarn) (v : Mvm) (m : Matrix) (q : Nat) : State :=
  (List.range v.cols).foldl (fun s j =>
    (quadGroups [q]).foldl (fun s g =>
      enterGroup s t v j (v.flagged.contains (grpKey j g) && groupBad s T.kChunk v j g) (groupWord T v m j g)) s) s

/-- How many column groups of a step the tile has accepted so far (R121). -/
def flagCount (x : Tile) (v : Mvm) : Nat :=
  ((x.satFlags.find? fun q => q.1 == v.pass * 64 + v.part && q.2.1 == v.layer * 16 + v.matrix).map fun q => q.2.2).getD 0

/-- Add accepted column groups of a step. -/
def addFlags (x : Tile) (v : Mvm) (n : Nat) : Tile :=
  let key := fun q : Nat × Nat × Nat => q.1 == v.pass * 64 + v.part && q.2.1 == v.layer * 16 + v.matrix
  { x with satFlags := (v.pass * 64 + v.part, v.layer * 16 + v.matrix, flagCount x v + n) ::
      x.satFlags.filter fun q => !key q }

end Sys2Proof.Machine
end

