-- ==== Sys2Proof/Machine/OpsPass.lean ====
section
/-! DEFINITION. Shared operations on token passes in flight: replay and fallback (R128 to R131, R23). -/

namespace Sys2Proof.Machine

/-- The walks that a context has handed out and that no engine has accepted are taken back. -/
def dropWaiting (s : State) (t c : Nat) : State :=
  if aeWaits s t c then
    s.dies.foldl (fun s d => d.2.ae.foldl (fun s a => s.modDie d.1 fun x => { x with
      ae := tmod {} x.ae a.1 fun y => { y with waiting := y.waiting.filter fun w => !(w.tile == t && w.ctx == c) } }) s) s
  else s

/-- A context that serves a pass starts over at a layer under generation `g`; one that has finished it runs it again from there on, before
any pass that it has not taken up (log entry 20). A context still in front of the layer goes on under the new generation. -/
def restartCtx (s : State) (pass layer g t c : Nat) : State :=
  let k := ctxOf s t c
  let e := layerEntry (ctxInstrs k) layer
  if k.pass == some pass then
    if ctxLayer k < layer then mirrorCtx (modCtx s t c fun k => { k with gen := g }) t c
    else if e < (ctxInstrs k).length then
      mirrorCtx (modCtx (dropWaiting s t c) t c fun k => { k with
        gen := g, wait := none, loops := [], regions := k.regions.filter fun q => decide (q.2.2.1 < layer), place := 0, pc := e }) t c
    else nextUp (dropWaiting s t c) t c
  else if (match (findPass s (ctxPart k) pass).bind Pass.turn, k.served with | some n, some q => decide (n ≤ q) | _, _ => false) && decide (e < (ctxInstrs k).length) then
    let at_ := ((k.redo.find? fun r => r.1 == pass).map Prod.snd).getD layer
    let s := modCtx s t c fun k => { k with redo := (k.redo.filter fun r => r.1 != pass) ++ [(pass, Nat.min at_ layer)] }
    if k.pass.isNone then nextUp s t c else s
  else s

/-- The contexts of an image: tile and context. -/
def imageCtxs (s : State) (p k : Nat) : List (Nat × Nat) :=
  ((s.part p).tiles.map fun t => ((s.tile t).ctxs.filter fun q => q.2.part == some p && q.2.slot == k).map fun q => (t, q.1)).flatten

/-- A pass starts over at a layer under the next generation (R128, R129 steps 1 to 3): its layer steps from there on are discarded and run
again. A second declaration of trouble in that layer under the old generation is still to be handled (R141), and measured scales hold in
the replay of their layer only (R129). -/
def restartPass (s : State) (p pass layer : Nat) : State :=
  match findPass s p pass with
  | none => s
  | some x =>
    let g := x.gen + 1
    let s := modPass s p pass fun x => { x with
      gen := g, restarts := x.restarts ++ [(g, layer)]
      resolved := x.resolved.filter fun q => decide (q.1 < layer)
      troubles := x.troubles.filter fun q => decide (q.1 < layer) || (q.1 == layer && q.2.1 == x.gen)
      walked := x.walked.filter fun l => decide (l < layer)
      begun := x.begun.filter fun l => decide (l < layer)
      measured := x.measured.filter fun l => decide (l < layer)
      scores := [], top := none }
    (imageCtxs s p x.slot).foldl (fun s q => restartCtx s pass layer g q.1 q.2) s

/-- A pass of the sequence that has read KV of an earlier pass replays with it from the first layer at which it read it (R23). -/
def replayLater (s : State) (p entry pos layer : Nat) : State :=
  ((s.part p).passes.filter fun x => x.entry == entry && decide (pos < x.pos)).foldl (fun s x =>
    match (x.walked.filter fun l => decide (layer ≤ l)).min? with
    | some l => restartPass (modPass s p x.id fun x => { x with later := x.later ++ [l] }) p x.id l
    | none => s) s

/-- Every Tarn-placed matrix step of a layer goes to fallback (R130). -/
def layerToFallback (s : State) (p pass layer cause : Nat) : State :=
  match findPass s p pass with
  | none => s
  | some x =>
    let n := ((layerOf s p x.slot layer).map fun l => l.matrices.length).getD 0
    (List.range n).foldl (fun s m => markFallback s p pass layer m cause) s

/-- Layer steps with an MVM on a die's Tarns that are not past their first round: partition, pass and layer (R100). -/
def earlySteps (s : State) (d : Nat) : List (Nat × Nat × Nat) :=
  (((List.range 32).map fun i => (s.tile (32 * d + i)).tarns.filterMap fun q =>
    if mvmBusy q.2 then q.2.mvm.map fun v => (v.part, v.pass, v.layer) else none).flatten.eraseDups).filter fun q =>
      match findPass s q.1 q.2.1 with
      | some x => !x.begun.contains q.2.2 && !x.ref
      | none => false

/-- An array rail of a die leaves its window (R100): what has begun on the die and is not past its first round goes to fallback. -/
def supplyFallback (s : State) (d : Nat) : State :=
  (earlySteps s d).foldl (fun s q =>
    let n := match findPass s q.1 q.2.1 with
      | some x => ((layerOf s q.1 x.slot q.2.2).map fun l => l.matrices.length).getD 0
      | none => 0
    (List.range n).foldl (fun s m => stepToFallback s q.1 q.2.1 q.2.2 m) (layerToFallback s q.1 q.2.1 q.2.2 3)) s

/-- Every matrix step of a layer runs in fallback for a pass. -/
def layerFellBack (s : State) (p : Nat) (x : Pass) (layer : Nat) : Bool :=
  (List.range (((layerOf s p x.slot layer).map fun l => l.matrices.length).getD 0)).all (inFallback x layer)

/-- The layer restarted next after generation `gen`, for a trouble of its own, and that replay is the pass's current generation: a
declaration under `gen` in it is a second check of the same replay (R141). -/
def samePlay (x : Pass) (layer gen : Nat) : Bool :=
  x.replayed.contains layer && x.restarts.contains (gen + 1, layer) && x.gen == gen + 1

/-- The trouble response (R129, R130): a first trouble of a layer replays it with measured scales and forces the check of the
output tile; a trouble in the replay sends the layer to fallback. A declaration of a superseded step is discarded (R131), save that a
second check of the same replay forces its output tile as well (R141). In a pass that has consumed poison the replay is abandoned (R134,
R141). -/
def troubleResponse (s : State) (p pass layer gen : Nat) (forced : Option (Nat × Nat)) : State :=
  match findPass s p pass with
  | none => s
  | some x =>
    if x.poison.isSome then s
    else if stale x layer gen then
      (match forced with
      | some (m, o) =>
        if samePlay x layer gen then
          modPass s p pass fun x => { x with forced := if x.forced.contains (layer, m, o) then x.forced else x.forced ++ [(layer, m, o)] }
        else s
      | none => s)
    else if x.replayed.contains layer then
      if layerFellBack s p x layer then modPass s p pass fun x => { x with troubles := x.troubles.filter fun q => q.1 != layer }
      else replayLater (restartPass (layerToFallback s p pass layer 0) p pass layer) p x.entry x.pos layer
    else
      let s := modPass s p pass fun x => { x with
        replayed := x.replayed ++ [layer]
        forced := x.forced ++ (match forced with | some (m, o) => [(layer, m, o)] | none => []) }
      let s := s.modPart p fun q => { q with fbgReplay := satAdd q.fbgReplay 1 }
      let s := s.modSlot p x.slot fun k => { k with layerReplay := tmod 0 k.layerReplay layer (· + 1) }
      let s := modPass (restartPass s p pass layer) p pass fun x => { x with measured := x.measured ++ [layer] }
      replayLater s p x.entry x.pos layer

end Sys2Proof.Machine
end

