-- ==== Sys2Proof/Machine/OpsKv.lean ====
section
/-! DEFINITION. Shared operations on key-value memory: DRAM addresses and channels (R407, R441, R459), frames and stripes (R215
to R217), the stripe pool (R223 to R226), summaries (R233, R234), and what an uncorrectable word does to its owner (R453). -/

namespace Sys2Proof.Machine

/-! ### DRAM addresses -/

/-- Bytes of a granule: 1 GiB (R407). -/
abbrev granBytes : Nat := 2 ^ 30

/-- Granule index of a physical address: granule *g* lies on stack *g* ÷ 24 (R407). -/
def addrGran (a : Nat) : Nat := a / granBytes

/-- The stack of an address. -/
def addrStack (a : Nat) : Nat := addrGran a / 24

/-- The channel of an address (R441): pair *p* holds stack granules 3*p* to 3*p* + 2; the lower half of a granule lies on the
even channel (log entry 24). -/
def addrChan (a : Nat) : Nat := 2 * (addrGran a % 24 / 3) + a % granBytes / 2 ^ 29

/-- The physical address of a channel's 64-byte unit, in ascending order over its three half granules. -/
def chanAddr (stack ch unit : Nat) : Nat :=
  let off := 64 * unit
  (24 * stack + 3 * (ch / 2) + off / 2 ^ 29) * granBytes + (ch % 2) * 2 ^ 29 + off % 2 ^ 29

/-- 64-byte units of a channel. -/
abbrev chanUnits : Nat := 3 * 2 ^ 23

/-- The granules of a partition, in record order. -/
def granulesOf (s : State) (p : Nat) : List Granule := ((s.part p).cfg.map PartCfg.granules).getD []

/-- The physical address of a byte of the partition's DRAM space: its granules in record order (log entry 24). -/
def partAddr (s : State) (p off : Nat) : Option Nat :=
  ((granulesOf s p)[off / granBytes]?).map fun g => g.g * granBytes + off % granBytes

/-- A stack channel. -/
def chanOf (s : State) (stack ch : Nat) : Chan := tget {} (s.stack stack).chans ch

/-- Change a stack channel. -/
def modChan (s : State) (stack ch : Nat) (f : Chan → Chan) : State :=
  s.modStack stack fun k => { k with chans := tmod {} k.chans ch f }

/-- The granule of an address is out of service (R441). -/
def granRetired (s : State) (a : Nat) : Bool :=
  (s.stack (addrStack a)).lost || (s.stack (addrStack a)).retired.contains (addrGran a % 24 / 3)

/-- Some word of `n` bytes from `a` holds poison (R449), or its granule is retired (R441). -/
def dramBad (s : State) (a n : Nat) : Bool :=
  granRetired s a ||
  ((chanOf s (addrStack a) (addrChan a)).poison.any fun w => decide (w * 8 < a + n) && decide (a < w * 8 + 8)) ||
  ((chanOf s (addrStack (a + n - 1)) (addrChan (a + n - 1))).poison.any fun w =>
    decide (w * 8 < a + n) && decide (a < w * 8 + 8))

/-- The 8-byte words that `n` bytes from `a` on touch. -/
def wordsOf (a n : Nat) : List Nat := (List.range ((a + n + 7) / 8 - a / 8)).map (a / 8 + ·)

/-- The channel of an address holds poison in the named words, or no longer does. -/
def markPoison (s : State) (a : Nat) (ws : List Nat) (poison : Bool) : State :=
  modChan s (addrStack a) (addrChan a) fun c =>
    let rest := c.poison.filter fun w => !ws.contains w
    { c with poison := if poison then rest ++ ws.filter fun w => addrStack (8 * w) == addrStack a && addrChan (8 * w) == addrChan a else rest }

/-- Write bytes of DRAM: unpoisoned data clears the poison of the words it fills, poisoned data poisons the words it touches (R449); a word
that is poisoned and only filled in part stays so. A write to a retired granule is lost (R441). -/
def dramWrite (s : State) (a : Nat) (bs : List Byte) (poison : Bool) : State :=
  if granRetired s a || bs.isEmpty then s
  else
    let last := a + bs.length - 1
    let ws := (wordsOf a bs.length).filter fun w => poison || (decide (a ≤ 8 * w) && decide (8 * w + 8 ≤ a + bs.length))
    let s := markPoison s a ws poison
    let s := if addrStack last = addrStack a ∧ addrChan last = addrChan a then s else markPoison s last ws poison
    { s with dram := memWrite s.dram a bs }

/-- The hour of module time. -/
def hourOf (now : Nat) : Nat := now / 3600000000000

/-- Events of the last 24 hourly buckets (R456, R465). -/
def last24 (hour : Nat) (b : Tab Nat) : Nat := ((b.filter fun q => decide (hour < q.1 + 24)).map Prod.snd).sum

/-- One corrected word on a channel (R459). -/
def chanCorrected (s : State) (a : Nat) : State :=
  modChan s (addrStack a) (addrChan a) fun c => { c with ce := satAdd c.ce 1, ce24 := tmod 0 c.ce24 (hourOf s.now) (· + 1) }

/-- Granules are written with zeros: their bytes, and the poison of their words, go. -/
def zeroGranules (s : State) (gs : List Nat) : State :=
  let s := gs.foldl (fun s g => [2 * (g % 24 / 3), 2 * (g % 24 / 3) + 1].foldl (fun s ch =>
    modChan s (g / 24) ch fun c => { c with poison := c.poison.filter fun w => addrGran (8 * w) != g }) s) s
  { s with dram := s.dram.filter fun q => !gs.contains (addrGran q.1) }

/-! ### Frames -/

/-- KV parameters of an image slot. -/
def kvOf (s : State) (p k : Nat) : Option KvParams := (planOf s p k).bind Plain.kv

/-- Element bytes per position and head (R215). -/
def kvElem (f d : Nat) : Nat := d * fmtBits f / 8

/-- Scale bytes per position and head (R215). -/
def kvScale (f d : Nat) : Nat := if fmtBlock f then d / 32 else 0

/-- Per-position bytes *b* (R215). -/
def kvB (v : KvParams) : Nat := kvElem v.fmt v.d + kvScale v.fmt v.d

/-- The KV die of a pair: that of its tile in the partition's section (R214). -/
def pairDie (s : State) (p : Nat) (a : Pair) : Nat :=
  tileDie ((((s.part p).cfg.map PartCfg.tiles).getD []).getD a.tile 0)

/-- Pairs on a KV die, by index in image order. -/
def pairsOn (s : State) (p : Nat) (v : KvParams) (d : Nat) : List Nat :=
  (List.range v.pairs.length).filter fun i => match v.pairs[i]? with | some a => pairDie s p a == d | none => false

/-- The KV dies of a model (R214). -/
def kvDies (s : State) (p : Nat) (v : KvParams) : List Nat := (v.pairs.map (pairDie s p)).eraseDups

/-- Frame size of a KV die (R216). -/
def frameSize (s : State) (p : Nat) (v : KvParams) (d : Nat) : Nat :=
  (128 * kvB v * (pairsOn s p v d).length + 4095) / 4096 * 4096

/-- Frames per granule (R217). -/
def framesPerGran (fs : Nat) : Nat := if fs = 0 then 0 else granBytes / fs

/-- The address of a frame of a KV die (R217): frames of a granule lie one after another from its start. -/
def frameAddr (s : State) (p k : Nat) (v : KvParams) (d stripe : Nat) : Option Nat :=
  let fs := frameSize s p v d
  let per := framesPerGran fs
  if per = 0 then none
  else
    let gs := (granulesOf s p).filter fun g => g.role == 1 && g.ad == d && g.slot == k
    (gs[stripe / per]?).map fun g => g.g * granBytes + stripe % per * fs

/-- The address of a pair's region in the frame of a stripe (R216). -/
def regionAddr (s : State) (p k : Nat) (v : KvParams) (pair stripe : Nat) : Option Nat :=
  (v.pairs[pair]?).bind fun a =>
    let d := pairDie s p a
    let i := ((pairsOn s p v d).findIdx? (· == pair)).getD 0
    (frameAddr s p k v d stripe).map fun f => f + 128 * kvB v * i

/-- Addresses of the elements and scales of a K or V entry (R216). -/
def kvAddrs (s : State) (p k : Nat) (v : KvParams) (pair stripe slot : Nat) (isV : Bool) : Option (Nat × Nat) :=
  (regionAddr s p k v pair stripe).map fun r =>
    let base := r + (if isV then 64 * kvB v else 0)
    (base + slot * kvElem v.fmt v.d, base + 64 * kvElem v.fmt v.d + slot * kvScale v.fmt v.d)

/-- The stored bytes of a K or V entry: elements, then scales (R290), with poison. -/
def kvBytes (s : State) (p k : Nat) (v : KvParams) (pair stripe slot : Nat) (isV : Bool) : List Byte × Bool :=
  match kvAddrs s p k v pair stripe slot isV with
  | some (e, c) =>
    (memRead s.dram e (kvElem v.fmt v.d) ++ memRead s.dram c (kvScale v.fmt v.d),
     dramBad s e (kvElem v.fmt v.d) || (kvScale v.fmt v.d != 0 && dramBad s c (kvScale v.fmt v.d)))
  | none => ([], true)

/-- Values of stored KV bytes. -/
def kvVals (v : KvParams) (bs : List Byte) : List Val :=
  let es := unpackNat (fmtBits v.fmt) v.d (leAt bs 0 (kvElem v.fmt v.d))
  if fmtBlock v.fmt then
    ((List.range v.d).zip es).map fun q => blockVal v.fmt (byteAt bs (kvElem v.fmt v.d + q.1 / 32)) q.2
  else es.map (decElem v.fmt)

/-- Elements and scales of a vector converted to the KV format (R227). -/
def kvConvert (v : KvParams) (zs : List Val) : List Byte × List Byte :=
  if fmtBlock v.fmt then
    let bl := (blocks32 zs).map (convMeasured v.fmt)
    (packBytes v.fmt (bl.map Prod.snd).flatten, bl.map fun b => BitVec.ofNat 8 b.1)
  else (packBytes v.fmt (zs.map (encScalar v.fmt)), [])

/-! ### The stripe pool (R223 to R226) -/

/-- Stripes on the free stack. -/
def freeCount (k : KvPool) : Nat := k.returned.length + (k.total - k.fresh)

/-- Stripes on the free stack that are not owed to waiting sequences (R224). -/
def unowed (k : KvPool) : Nat := freeCount k - k.waiters.length

/-- Pop the top of the free stack. The initial order is ascending stripe index (log entry 25). -/
def popStripe (k : KvPool) : Option (Nat × KvPool) :=
  match k.returned with
  | x :: xs => some (x, { k with returned := xs })
  | [] => if k.fresh < k.total then some (k.fresh, { k with fresh := k.fresh + 1 }) else none

/-- Change the pool of an image slot. -/
def modPool (s : State) (p k : Nat) (f : KvPool → KvPool) : State := s.modSlot p k fun x => { x with pool := f x.pool }

/-- The low mark after a change of the free count (R225): reported once, re-armed at the mark or above. -/
def checkLow (s : State) (p k : Nat) : State :=
  let q := (s.slot p k).pool
  if q.lowMark = 0 ∨ q.lowMark ≤ freeCount q then modPool s p k fun q => { q with lowReported := false }
  else if q.lowReported then s
  else reportLead (modPool s p k fun q => { q with lowReported := true }) p evKvFramesLow [(1, p), (1, k), (4, freeCount q)]

/-- Take a stripe from the pool. -/
def takeStripe (s : State) (p k : Nat) : Option (Nat × State) :=
  (popStripe (s.slot p k).pool).map fun r => (r.1, checkLow (modPool s p k fun _ => r.2) p k)

/-- A stripe returns to the free stack (R226); a withdrawn one does not (R239). -/
def returnStripe (s : State) (p k stripe : Nat) : State :=
  if (s.slot p k).pool.withdrawn.contains stripe then s
  else checkLow (modPool s p k fun q => { q with returned := stripe :: q.returned, exhaustedReported := false }) p k

/-- A sequence begins FRAME_WAIT (R224, R225). -/
def beginFrameWait (s : State) (p k e : Nat) : State :=
  if (s.entry e).frameWait then s
  else
    let s := s.modEntry e fun x => { x with frameWait := true }
    let s := modPool s p k fun q => { q with waiters := q.waiters ++ [e], allocWait := satAdd q.allocWait 1 }
    let q := (s.slot p k).pool
    if freeCount q = 0 ∧ !q.exhaustedReported then
      reportLead (modPool s p k fun q => { q with exhaustedReported := true }) p evKvFramesExhausted
        [(1, p), (1, k), (4, q.waiters.length)]
    else s

/-- A waiting sequence stops waiting. -/
def endFrameWait (s : State) (p k e : Nat) : State :=
  modPool (s.modEntry e fun x => { x with frameWait := false }) p k fun q => { q with waiters := q.waiters.filter (· != e) }

/-! ### The control area (R219, R220, R222, R228): root tables from its start, then leaves, then carry areas (log entry 26) -/

/-- The granules of an image slot's control area, each with its place in the partition's record order. -/
def ctrlGrans (s : State) (p k : Nat) : List (Nat × Granule) :=
  ((List.range (granulesOf s p).length).zip (granulesOf s p)).filter fun q => q.2.role == 2 && q.2.slot == k

/-- The 4 KiB unit of the partition's DRAM space at which a unit of the control area lies. -/
def ctrlUnit (s : State) (p k u : Nat) : Option Nat := ((ctrlGrans s p k)[u / 2 ^ 18]?).map fun q => q.1 * 2 ^ 18 + u % 2 ^ 18

/-- Write bytes at an offset of the control area. -/
def ctrlWrite (s : State) (p k off : Nat) (bs : List Byte) : State :=
  match (ctrlUnit s p k (off / 4096)).bind fun u => partAddr s p (4096 * u + off % 4096) with
  | some a => dramWrite s a bs false
  | none => s

/-- The control-area unit of leaf `n`: after the root tables. -/
def leafUnit (s : State) (p k n : Nat) : Nat := 2 * (s.slot p k).entries + n

/-- Bytes of a carry area (R228). -/
def carryBytes (v : KvParams) : Nat := 9 * v.pairs.length * 4 * v.d

/-- The offset of a sequence's carry area, after the leaf pool. -/
def carryBase (s : State) (p k : Nat) (v : KvParams) (x : Entry) : Nat :=
  4096 * leafUnit s p k ((s.slot p k).pool.total + 2 * (s.slot p k).entries) + x.root / 2 * carryBytes v

/-- A page descriptor's word (R220). -/
def descWord (d : PageDesc) : Nat :=
  d.stripe % 2 ^ 24 + 2 ^ 24 * b2n d.valid + 2 ^ 25 * b2n d.spec + 2 ^ 26 * b2n d.summary + 2 ^ 27 * b2n d.poison

/-- The leaf of a sequence's root entry. -/
def leafOf (x : Entry) (r : Nat) : Option Nat := (x.leaves.find? fun q => q.1 == r).map fun q => q.2 - 1

/-- The lowest leaf of an image slot's pool that no sequence holds (log entry 26); the pool cannot run out (R222). -/
def freeLeaf (s : State) (k : Nat) (p : Nat) : Nat :=
  let used := (s.entries.map fun q =>
    if q.2.slot == k && ((s.part p).cfg.map fun c => c.blocks.contains (q.1 / 1024)).getD false then q.2.leaves.map fun l => l.2 - 1 else []).flatten
  ((List.range (used.length + 1)).find? fun n => !used.contains n).getD 0

/-- A root entry names a leaf, or none (R219). -/
def setRoot (s : State) (p e r : Nat) (leaf : Option Nat) : State :=
  let x := s.entry e
  let w := match leaf.bind fun n => ctrlUnit s p x.slot (leafUnit s p x.slot n) with | some u => u + 2 ^ 31 | none => 0
  ctrlWrite (s.modEntry e fun y => { y with leaves := tset 0 y.leaves r (match leaf with | some n => n + 1 | none => 0) }) p x.slot
    (4096 * x.root + 4 * r) (toLe 4 w)

/-- Write a descriptor of a sequence (R219, R220, R222, R223): page `j`, or with `ix` index stripe `j`. A leaf is allocated where a valid one
needs it, and returned with its last valid descriptor. -/
def setDesc (s : State) (p e : Nat) (ix : Bool) (j : Nat) (d : PageDesc) : State :=
  let r := (if ix then 1024 else 0) + j / 1024
  let s := s.modEntry e fun x => if ix then { x with index := tset {} x.index j d } else { x with pages := tset {} x.pages j d }
  let s := if d.valid && (leafOf (s.entry e) r).isNone then setRoot s p e r (some (freeLeaf s (s.entry e).slot p)) else s
  match leafOf (s.entry e) r with
  | none => s
  | some n =>
    let x := s.entry e
    let s := ctrlWrite s p x.slot (4096 * leafUnit s p x.slot n + 4 * (j % 1024)) (toLe 4 (descWord d))
    if (if ix then x.index else x.pages).any fun q => q.1 / 1024 == j / 1024 && q.2.valid then s else setRoot s p e r none

/-- Write descriptors one by one. -/
def setDescs (s : State) (p e : Nat) (ix : Bool) (ds : List (Nat × PageDesc)) : State :=
  ds.foldl (fun s q => setDesc s p e ix q.1 q.2) s

/-- The key of a carry vector (R228): slot × 2²¹ + pair × 2 + (V). -/
def carryKey (slot pair : Nat) (isV : Bool) : Nat := slot * 2 ^ 21 + pair * 2 + b2n isV

/-- Write a carry vector of a sequence (R227, R228), also in its carry area. -/
def setCarry (s : State) (p e : Nat) (v : KvParams) (slot pair : Nat) (isV : Bool) (c : List Nat) : State :=
  let x := s.entry e
  ctrlWrite (s.modEntry e fun y => { y with carry := tset [] y.carry (carryKey slot pair isV) c }) p x.slot
    (carryBase s p x.slot v x + slot * (4 * v.d * v.pairs.length) + 4 * v.d * pair + 2 * v.d * b2n isV) (packBytes 1 c)

/-- Byte ranges of the control area that a sequence holds: root table, leaves, carry area. -/
def ctrlRanges (s : State) (p : Nat) (x : Entry) : List (Nat × Nat) :=
  (4096 * x.root, 8192) :: x.leaves.map (fun q => (4096 * leafUnit s p x.slot (q.2 - 1), 4096)) ++
    (match kvOf s p x.slot with | some v => if v.feedback then [(carryBase s p x.slot v x, carryBytes v)] else [] | none => [])

/-- A sequence holds some byte of a stretch of the control area. -/
def ctrlHolds (s : State) (p : Nat) (x : Entry) (off n : Nat) : Bool :=
  (ctrlRanges s p x).any fun r => decide (r.1 < off + n) && decide (off < r.1 + r.2)

/-- Empty a page of a sequence and return its stripe. -/
def emptyPage (s : State) (p k e page : Nat) : State :=
  let d := tget {} (s.entry e).pages page
  if !d.valid then s else returnStripe (setDesc s p e false page {}) p k d.stripe

/-! ### Summaries (R233, R234) -/

/-- Pages per index stripe *K*ᵢ (R234). -/
def pagesPerIndex (s : State) (p : Nat) (v : KvParams) : Nat :=
  ((kvDies s p v).map fun d => frameSize s p v d / ((pairsOn s p v d).length * 2 * v.d)).foldl Nat.min 64

/-- Return index stripes whose pages are all holes (R234). -/
def trimIndex (s : State) (p k e : Nat) : State :=
  match kvOf s p k with
  | none => s
  | some v =>
    let ki := Nat.max 1 (pagesPerIndex s p v)
    ((s.entry e).index.filter fun q => q.2.valid &&
      (List.range ki).all fun i => !(tget {} (s.entry e).pages (ki * q.1 + i)).valid).foldl
      (fun s q => returnStripe (setDesc s p e true q.1 {}) p k q.2.stripe) s

/-- The summary key of a page for a pair, as BF16 codes (R233): 64 keys summed in slot order, times 1/64, rounded. -/
def summaryKey (s : State) (p k : Nat) (v : KvParams) (pair stripe : Nat) : List Nat × Bool :=
  let keys := (List.range 64).map fun i => kvBytes s p k v pair stripe i false
  let vs := keys.map fun q => kvVals v q.1
  ((List.range v.d).map fun i =>
      let sum := vs.foldl (fun acc x => encFP32 ((decFP32 acc).add (x.getD i (.fin false 0 1)))) 0
      encBF16 ((decFP32 sum).mul (.fin false 1 64)),
   keys.any Prod.snd)

/-- The address of a page's stored summary for a pair (R234). -/
def summaryAddr (s : State) (p k : Nat) (v : KvParams) (pair page stripe : Nat) : Option Nat :=
  (v.pairs[pair]?).bind fun a =>
    let d := pairDie s p a
    let i := ((pairsOn s p v d).findIdx? (· == pair)).getD 0
    let ki := Nat.max 1 (pagesPerIndex s p v)
    (frameAddr s p k v d stripe).map fun f => f + i * ki * 2 * v.d + page % ki * 2 * v.d

/-- An engine of a die. -/
def modAe (s : State) (d e : Nat) (f : Ae → Ae) : State := s.modDie d fun x => { x with ae := tmod {} x.ae e f }

/-- The stripe of index `m` of a sequence: the one it holds, or a fresh one (R233). -/
def indexStripe (s : State) (p k e m : Nat) : Option (Nat × State) :=
  let x := tget {} (s.entry e).index m
  if x.valid then some (x.stripe, s)
  else if unowed (s.slot p k).pool = 0 then none
  else (takeStripe s p k).map fun r =>
    (r.1, setDesc r.2 p e true m { stripe := r.1, valid := true })

/-- Write the summaries of a page whose last position has committed (R233, R234). With no index stripe to be had the summary
is not stored; a poisoned page gets none. -/
def writeSummary (s : State) (p k e page : Nat) : State :=
  match kvOf s p k with
  | none => s
  | some v =>
    let d := tget {} (s.entry e).pages page
    if !d.valid || d.poison || d.summary then s
    else
      let m := page / Nat.max 1 (pagesPerIndex s p v)
      match indexStripe s p k e m with
      | none => s
      | some (ist, s) =>
        let s := (List.range v.pairs.length).foldl (fun s i =>
          match summaryAddr s p k v i page ist, v.pairs[i]? with
          | some a, some q =>
            let key := summaryKey s p k v i d.stripe
            let s := dramWrite s a (packBytes 1 key.1) key.2
            modAe s (pairDie s p q) q.engine fun y => { y with sumStored := wrapAdd y.sumStored 1 }
          | _, _ => s) s
        setDesc s p e false page { d with summary := true }

/-! ### Uncorrectable words (R453, R459) -/

/-- The partition and granule that hold an address. -/
def granOwner (s : State) (a : Nat) : Option (Nat × Granule) :=
  (s.parts.findSome? fun q => (((q.2.cfg.map PartCfg.granules).getD []).find? fun g => g.g == addrGran a).map fun g => (q.1, g))

/-- The descriptors of a partition's sequences that name a stripe: entry, whether of an index leaf, and index. -/
def pagesOnStripe (s : State) (p k stripe : Nat) : List (Nat × Bool × Nat) :=
  (s.entries.map fun q =>
    if q.2.slot == k && ((s.part p).cfg.map fun c => c.blocks.contains (q.1 / 1024)).getD false then
      let on := fun (t : Tab PageDesc) (ix : Bool) => (t.filter fun d => d.2.valid && d.2.stripe == stripe).map fun d => (q.1, ix, d.1)
      on q.2.pages false ++ on q.2.index true
    else []).flatten

/-- A descriptor of a sequence. -/
def descOf (x : Entry) (ix : Bool) (j : Nat) : PageDesc := tget {} (if ix then x.index else x.pages) j

/-- POISON in every descriptor that names a stripe, and KV_PAGE_POISON (R239, R453). -/
def poisonStripe (s : State) (p k stripe : Nat) : State :=
  let ps := pagesOnStripe s p k stripe
  let fresh := ps.filter fun q => !(descOf (s.entry q.1) q.2.1 q.2.2).poison
  let s := fresh.foldl (fun s q => setDesc s p q.1 q.2.1 q.2.2 { descOf (s.entry q.1) q.2.1 q.2.2 with poison := true }) s
  let s := modPool s p k fun q => { q with poisonPages := satAdd q.poisonPages fresh.length }
  if fresh.isEmpty then s
  else reportLead s p evKvPagePoison [(1, p), (4, stripe), (4, (ps.map Prod.fst).eraseDups.length)]

/-- Bytes of a shadow chunk (R326). -/
abbrev chunkBytes : Nat := 2 ^ 20

/-- Withdraw stripes from the free stack (R239, R441). -/
def withdraw (q : KvPool) (ss : List Nat) : KvPool :=
  let fresh := (List.range (q.total - q.fresh)).map (q.fresh + ·)
  { q with
    returned := (q.returned ++ fresh).filter fun n => !ss.contains n, fresh := q.total
    withdrawn := q.withdrawn ++ ss.filter fun n => !q.withdrawn.contains n }

/-- A shadow chunk of an image slot is poisoned: its repair queues at the engine of the slot's Reservoir stack (R452, R337, R341). -/
def poisonChunk (s : State) (p k c : Nat) : State :=
  let q := s.slot p k
  if q.state == .empty || q.shadowBad.contains c then s
  else
    let (s, id) := newOp (s.modSlot p k fun x => { x with shadowBad := x.shadowBad ++ [c] })
    pushJob s q.res.1 { id := id, kind := .shadowRepair, part := p, slot := k, stack := q.res.1, model := q.res.2.1, resB := q.res.2.2 == 1,
                        header := q.header, chunk := c, chunks := c + 1 }

/-- What an uncorrectable word does to the content it belongs to (R452, R453): a frame's stripe is poisoned, the entry of a
control-area page turns STALE, a shadow chunk waits for its repair. -/
def poisonOwner (s : State) (a : Nat) : State :=
  match granOwner s a with
  | none => s
  | some (p, g) =>
    let off := a % granBytes
    match g.role with
    | 1 =>
      (match kvOf s p g.slot with
      | none => s
      | some v =>
        let fs := frameSize s p v g.ad
        let gs := (granulesOf s p).filter fun x => x.role == 1 && x.ad == g.ad && x.slot == g.slot
        let i := (gs.findIdx? fun x => x.g == g.g).getD 0
        if fs = 0 then s else poisonStripe s p g.slot (i * framesPerGran fs + off / fs))
    | 2 =>
      let i := ((ctrlGrans s p g.slot).findIdx? fun x => x.2.g == g.g).getD 0
      (s.entries.filter fun q => q.2.open_ && q.2.slot == g.slot &&
        ((s.part p).cfg.map fun c => c.blocks.contains (q.1 / 1024)).getD false && ctrlHolds s p q.2 (i * granBytes + off) 1).foldl
        (fun s q => s.modEntry q.1 fun x => { x with stale := true }) s
    | 0 =>
      let i := (((granulesOf s p).filter fun x => x.role == 0 && x.slot == g.slot && !granRetired s (x.g * granBytes)).findIdx?
        fun x => x.g == g.g).getD 0
      let c := i * (granBytes / chunkBytes) + off / chunkBytes
      poisonChunk s p g.slot c
    | _ => s

/-- One uncorrectable word (R459): counted, poisoned, reported, and its owner contained. -/
def chanUncorrectable (s : State) (a : Nat) (part : Option Nat) : State :=
  let w := a / 8
  let s := modChan s (addrStack a) (addrChan a) fun c => { c with
    ue := satAdd c.ue 1, ue24 := tmod 0 c.ue24 (hourOf s.now) (· + 1)
    poison := if c.poison.contains w then c.poison else c.poison ++ [w] }
  let s := report s (stackDie (addrStack a)) 0x05 evMemUncorrectable part
    [(1, addrStack a), (1, addrChan a), (1, part.getD 0), (8, a)]
  poisonOwner s a

end Sys2Proof.Machine
end

