-- ==== Sys2Proof/Machine/OpsWalk.lean ====
section
/-! DEFINITION. What a walk computes (R231 to R239, R288, R290): the attended set, retrieval, rotation, scores, softmax, value
sums, panels and the read-stream digest. -/

namespace Sys2Proof.Machine

/-- Score format of a query and key format (R57). -/
def scoreFmt (q k : Nat) : Nat := if q = 2 ∧ k = 2 then 2 else if q = 3 ∧ k = 3 then 3 else 1

/-- Rotate a vector at a position (R236). -/
def rotate (v : KvParams) (sf pos : Nat) (x : List Val) : List Val :=
  let h := v.dRot / 2
  let cs := v.freq.map fun f =>
    let a := toFix ((Val.fin false pos 1).mul (decFP32 f))
    (decFP32 (encFP32 (cosFix a)), decFP32 (encFP32 (sinFix a)))
  let zero := Val.fin false 0 1
  (List.range x.length).map fun i =>
    if v.dRot ≤ i then x.getD i zero
    else
      let j := if v.interleaved then i / 2 else i % h
      let second := if v.interleaved then i % 2 == 1 else decide (h ≤ i)
      let a := x.getD (if v.interleaved then 2 * j else j) zero
      let b := x.getD (if v.interleaved then 2 * j + 1 else j + h) zero
      let (c, s) := cs.getD j (.fin false 1 1, zero)
      let r := if second then (a.mul s).add (b.mul c) else (a.mul c).add (b.mul s).neg
      decElem sf (encScalar sf r)

/-- A score (R237): σ times the dot product in shape A64S, rounded to FP32. -/
def scoreOf (order sigma : Nat) (q k : List Val) : Nat := f32Mul sigma (reduce order 64 (List.zipWith Val.mul q k))

/-- Maximum over FP32 codes, NaN wins (R182, R237). -/
def maxCode (xs : List Nat) : Nat :=
  xs.foldl (fun a x => encFP32 (vmax (decFP32 a) (decFP32 x))) 0xFF800000
where
  /-- Larger of two values; NaN where either is. -/
  vmax (a b : Val) : Val := if a.isNan || b.isNan then .nan else if Val.lt a b then b else a

/-- Softmax of FP32 scores (R237): BF16 probabilities. -/
def softmax (order : Nat) (ss : List Nat) : List Nat :=
  let m := maxCode ss
  let es := ss.map fun x => encBF16 (valExp (decFP32 (f32Sub x m)))
  let z := reduce order 64 (es.map decBF16)
  let r := encFP32 (vecFnVal 2 (decFP32 z))
  es.map fun e => encBF16 ((decBF16 e).mul (decFP32 r))

/-- One head's output (R237): BF16 codes. -/
def valueSums (order d : Nat) (ps : List Nat) (vs : List (List Val)) : List Nat :=
  (List.range d).map fun j =>
    encBF16 (decFP32 (reduce order 64 (List.zipWith (fun p v => (decBF16 p).mul (v.getD j (.fin false 0 1))) ps vs)))

/-- Valid pages of a sequence up to page `g`, ascending. -/
def validPages (e : Entry) (g : Nat) : List Nat :=
  ((e.pages.filter fun q => q.2.valid && decide (q.1 ≤ g)).map Prod.fst)

/-- Candidates of retrieval (R232). -/
def candidates (v : KvParams) (e : Entry) (g : Nat) : List Nat :=
  (validPages e g).filter fun j => decide (j + v.w < g) && (!v.sink || j != 0)

/-- What a walk found: retrieved pages in rank order, attended pages, candidates scored, summaries computed from frames,
poison, and whether the attended pages exceed the limit of R231. -/
structure Attended where
  retrieved : List Nat := []
  pages : List Nat := []
  cands : List (Nat × List Nat) := []
  fly : Nat := 0
  poison : Bool := false
  limit : Bool := false
  deriving DecidableEq, Repr

/-- The summary a walk uses for a candidate (R233): stored, or the same value from the frame. -/
def summaryOf (s : State) (p k : Nat) (v : KvParams) (e : Entry) (pair page : Nat) : List Nat × Bool × Bool :=
  let d := tget {} e.pages page
  if d.summary then
    let x := tget {} e.index (page / Nat.max 1 (pagesPerIndex s p v))
    match summaryAddr s p k v pair page x.stripe with
    | some a => (unpackNat 16 v.d (leAt (memRead s.dram a (2 * v.d)) 0 (2 * v.d)), x.poison || dramBad s a (2 * v.d), false)
    | none => ([], true, false)
  else
    let r := summaryKey s p k v pair d.stripe
    (r.1, r.2, true)

/-- The attended set of a walk (R231 to R233). -/
def attendedSet (s : State) (p k : Nat) (v : KvParams) (e : Entry) (pair t order qf : Nat) (queries : List (List Val)) :
    Attended :=
  let g := t / 64
  let valid := validPages e g
  let bad := fun ps : List Nat => ps.any fun j => (tget {} e.pages j).poison
  if !v.retrieve then { pages := valid, poison := bad valid, limit := decide (2048 < valid.length) }
  else
    let cs := candidates v e g
    let sums := cs.map fun j => (j, summaryOf s p k v e pair j)
    let sf := scoreFmt qf 1
    let qr := queries.map (rotate v sf t)
    let scored := sums.map fun q =>
      let key := rotate v sf (64 * q.1 + 32) (q.2.1.map decBF16)
      (maxCode (qr.map fun x => scoreOf order v.sigma x key), q.1)
    let top := ((rankSort 0 false scored).take v.p).map Prod.snd
    let keep := valid.filter fun j => (v.sink && j == 0) || decide (g ≤ j + v.w) || top.contains j
    { retrieved := top, pages := keep, cands := sums.map fun q => (q.1, q.2.1)
      fly := (sums.filter fun q => q.2.2.2).length
      poison := bad cs || bad keep || sums.any fun q => q.2.2.1 }

/-- Attended positions of pages, ascending, up to `t` (R231). -/
def attendedPos (pages : List Nat) (t : Nat) : List Nat :=
  (pages.map fun j => ((List.range 64).map fun i => 64 * j + i).filter fun q => decide (q ≤ t)).flatten

/-- What a walk computes: outputs per head, probabilities per head, positions, and its read stream (R290). -/
structure WalkOut where
  att : Attended := {}
  pos : List Nat := []
  probs : List (List Nat) := []
  outs : List (List Nat) := []
  stream : List Byte := []
  poison : Bool := false
  bytes : Nat := 0
  deriving DecidableEq, Repr

/-- The K or V entry that a walk of a pass reads at a position (R230): the stored one, or at the position of a recomputation its own. -/
def entryRead (s : State) (p k : Nat) (v : KvParams) (e : Entry) (x : Pass) (pair pos : Nat) (isV : Bool) : List Byte × Bool :=
  if x.confirm.isSome && pos == x.pos then
    match x.ownKv.find? fun o => o.pair == pair && o.isV == isV with
    | some o => (o.elems ++ o.scales, false)
    | none => ([], false)
  else kvBytes s p k v pair (tget {} e.pages (pos / 64)).stripe (pos % 64) isV

/-- The carry slots that a pass applies (R227, R230): those of its sequence, or the copy of a recomputation. -/
def passCarry (e : Entry) (x : Pass) : Tab (List Nat) := if x.confirm.isSome then x.carryIn else e.carry

/-- Run a walk of a pass (R231, R236 to R239, R290). -/
def runWalk (s : State) (p k : Nat) (v : KvParams) (e : Entry) (x : Pass) (pair order qf : Nat) (queries : List (List Val)) : WalkOut :=
  let t := x.pos
  let att := attendedSet s p k v e pair t order qf queries
  let pos := attendedPos att.pages t
  let sf := scoreFmt qf v.fmt
  let ks := pos.map fun q => entryRead s p k v e x pair q false
  let vs := pos.map fun q => entryRead s p k v e x pair q true
  let keys := (pos.zip ks).map fun q => rotate v sf q.1 (kvVals v q.2.1)
  let vals := vs.map fun q => kvVals v q.1
  let qr := queries.map (rotate v sf t)
  let probs := qr.map fun y => softmax order (keys.map (scoreOf order v.sigma y))
  let older := (pos.zip (ks.zip vs)).filter fun q => decide (q.1 < t)
  let c := fun isV => (List.range v.d).map fun i => (tget [] (passCarry e x) (carryKey ((t + 8) % 9) pair isV)).getD i 0
  { att := att, pos := pos, probs := probs, outs := probs.map fun y => valueSums order v.d y vals
    stream := toLe 2 pair ++ (att.cands.map fun q => packBytes 1 q.2).flatten ++ (older.map fun q => q.2.1.1 ++ q.2.2.1).flatten ++
      (if v.feedback then packBytes 1 (c false) ++ packBytes 1 (c true) else [])
    poison := att.poison || ks.any Prod.snd || vs.any Prod.snd
    bytes := 2 * kvB v * pos.length + 2 * v.d * att.cands.length }

/-- The rank unit's top 16 of a head's probabilities in MAX mode (R288). -/
def panelTop (pos ps : List Nat) : List (Nat × Nat) :=
  ((rankSort 1 false (ps.zip pos)).take 16).map fun q => (q.2, q.1)

end Sys2Proof.Machine
end

