-- ==== Sys2Proof/Machine/Attention.lean ====
section
/-! DEFINITION. DMA, landing transfers and attention walks (R181, R189, R199, R202, R213, R227, R231 to R243, R429, R459). -/

namespace Sys2Proof.Machine

/-! ### DMA -/

/-- The embedding row of a token converted to the residual format under R51, as rows (R184 EMBED). -/
def embedRows (s : State) (p k l token : Nat) : List (List Byte) :=
  match layerOf s p k l, planOf s p k with
  | some x, some pl =>
    let cs := x.embed.getD token []
    let scs := x.embedScales.getD token []
    if fmtBlock x.embedFmt then
      toRows (convBlocks x.embedFmt pl.residual (((List.range (blocks32 cs).length).zip (blocks32 cs)).map fun q => (scs.getD q.1 0, q.2)))
    else toRows (writeVec pl.residual (cs.map (decElem x.embedFmt)))
  | _, _ => []

/-- A DRAM transfer of a context: it travels to or from the die that holds the stack's port (R201). -/
def launchDram (s : State) (t c : Nat) (k : Ctx) (ctr addr : Nat) (kind : XferKind) (read : Bool) (bytes : Nat) : State :=
  let d := stackDie (addrStack addr)
  match (if read then linksOf s d (tileDie t) else linksOf s (tileDie t) d) with
  | none => poisonPass s (ctxPart k) k.pass reasonPassFailed
  | some ls =>
    let x : Xfer := { id := s.nextXfer, part := ctxPart k, tag := (s.part (ctxPart k)).tag, pass := k.pass.getD 0, gen := k.gen
                      tile := t, ctx := c, ctr := ctrOf ctr, kind := kind, src := t, dramAddr := some addr, links := ls, bytes := bytes }
    countFirst { s with xfers := s.xfers ++ [x], nextXfer := s.nextXfer + 1 } ls bytes

/-- The partition's poisoned DRAM delivers poison to its readers (R449). -/
def readBad (s : State) (addr n : Nat) : Bool := dramBad s addr n

/-- The read of a token's embedding row from the shadow meets poison (R452): the table of layer `l` counts as matrix 16 there, past the last of
a layer (R184; log entry 193). -/
def embedBad (s : State) (p k l token : Nat) : Bool :=
  shadowColBad s p k l 16 token 0 (((layerOf s p k l).map fun x => (x.embed.getD token []).length).getD 0)

/-- DMA_GET (R181, R329): rows of the partition's DRAM space, or the embedding row of the pass's token where `embed` names the
EMBED layer, on their way into a slot. A slot that cannot take them all is an access outside its rows (R185): nothing is delivered. -/
def execDmaGet (t c slot off rows ctr epoch : Nat) (embed : Option Nat) (s : State) : Out :=
  guarded (instrWellFormed (.dmaGet t c slot off rows ctr epoch embed))
    (issue s t c { op := 0x10, e1 := epoch, a := slot, b := off, c := rows, d := ctr } [slotRes (ctxOf s t c) slot] fun k =>
      let p := ctxPart k
      let data : Nat → List (List Byte × Bool) := fun a => match embed with
        | some l =>
          let token := ((k.pass.bind (findPass s p)).map Pass.token).getD 0
          (embedRows s p k.slot l token).map fun b => (b, embedBad s p k.slot l token)
        | none => (List.range rows).map fun i => (memRead s.dram (a + 64 * i) 64, readBad s (a + 64 * i) 64)
      match partAddr s p (64 * off), slotFor k slot (data 0).length with
      | some a, some d =>
        launchDram (engineBusy s t c .transfer []) t c k ctr a (.rows (data a) d.base true d.readers epoch) true (64 * (data a).length)
      | _, _ => accessFault s t c slot 0 1)

/-- The K or V entry of R227: FP32 vector `y`, carry added, converted, and the new carry. -/
def kvEntry (v : KvParams) (cs : Tab (List Nat)) (pos pair : Nat) (isV : Bool) (ys : List Nat) : List Byte × List Byte × List Nat :=
  let carry := if pos = 0 then [] else tget [] cs (carryKey ((pos + 8) % 9) pair isV)
  let zs := if v.feedback then (List.range ys.length).map fun i => f32Add (ys.getD i 0) (carry.getD i 0 * 65536) else ys
  let q := kvConvert v (zs.map decFP32)
  let vals := kvVals v (q.1 ++ q.2)
  let nc := if v.feedback then (List.range zs.length).map fun i =>
    encBF16 ((decFP32 (zs.getD i 0)).add (vals.getD i (.fin false 0 1)).neg) else []
  (q.1, q.2, nc)

/-- DMA_PUT (R181, R227): the slot's rows go to DRAM, or, for a KV write of the context's pass, the FP32 vector of a pair is converted and
goes to the frame of the pass's position. -/
def execDmaPut (t c slot off rows ctr epoch : Nat) (kv : Option KvDest) (s : State) : Out :=
  guarded (instrWellFormed (.dmaPut t c slot off rows ctr epoch kv))
    (if kv.any fun w => (ctxOf s t c).pass != some w.pass then s
    else issue s t c { op := 0x11, e1 := epoch, a := slot, b := off, c := rows, d := ctr } [slotRes (ctxOf s t c) slot] fun k =>
      let p := ctxPart k
      match slotRead s t c slot 0 rows epoch with
      | (s, none) => s
      | (s, some (bs, bad)) =>
        let s := engineBusy s t c .transfer []
        match kv with
        | none =>
          (match partAddr s p (64 * off) with
          | some a => launchDram s t c k ctr a (.dram a bs bad) false bs.length
          | none => accessFault s t c slot 0 0)
        | some w =>
          match kvOf s p k.slot, findPass s p w.pass with
          | some v, some x =>
            let e := s.entry x.entry
            let d := tget {} e.pages (x.pos / 64)
            let r := kvEntry v (passCarry e x) x.pos w.pair w.isV (unpackNat 32 v.d (leAt bs 0 (4 * v.d)))
            let a := ((kvAddrs s p k.slot v w.pair d.stripe (x.pos % 64) w.isV).map Prod.fst).getD 0
            launchDram s t c k ctr a (.kv x.entry x.pos w.pair w.isV r.1 r.2.1 r.2.2 bad) false (r.1.length + r.2.1.length)
          | _, _ => s)

/-! ### Landing (R189, R192, R199, R202, R429) -/

/-- A transfer with an earlier tag is dropped at the edge station of the die it reaches (R202, R429). -/
def dropStale (s : State) (x : Xfer) : State :=
  match x.links.getLast? with
  | some (d, port) =>
    (match twNeighbour s.variant d port with
    | some e => (match facingPort s.variant e d with
      | some r => s.modDie e fun q => { q with tw := tmod {} q.tw r fun w => { w with stale := satAdd w.stale 1 } }
      | none => s)
    | none => s)
  | none => s

/-- Rows land in a slot or as plain rows. A row the partition does not own is discarded and counted (R199). -/
def landRows (s : State) (x : Xfer) (base : Nat) (slot : Bool) (readers epoch : Nat) : Nat → List (List Byte × Bool) → State
  | _, [] => s
  | i, (b, bad) :: rs =>
    let k := ctxOf s x.tile x.ctx
    let r := base + i
    let s :=
      if k.part != some x.part || !ownsRow k r then
        reportTile (s.modTile x.tile fun y => { y with meshXpartCnt := satAdd y.meshXpartCnt 1 }) x.tile evXpartAccess none []
      else if slot then
        (if (rowOf (s.tile x.tile) r).full then schedFault s x.tile x.part k.slot (some x.pass) (slotIdx k r) r 1
         else s.modTile x.tile fun y => { y with rows := tset {} y.rows r (rowWrite b epoch readers bad) })
      else s.modTile x.tile fun y => { y with rows := tmod {} y.rows r fun o => { o with data := mkData b, poison := bad } }
    landRows s x base slot readers epoch (i + 1) rs

/-- Partial words land in their receive words, one write each (R156). -/
def landPartials (s : State) (t recv : Nat) : Nat → List LaWord → State
  | _, [] => s
  | i, w :: ws => landPartials (s.modTile t fun x => putWord x false (recv + i) w) t recv (i + 1) ws

/-- The outcome of a DRAM read's error check on the rows it brings (R459). -/
def eccRows (s : State) (x : Xfer) (ecc : Ecc) (rows : List (List Byte × Bool)) : State × List (List Byte × Bool) :=
  match x.dramAddr, ecc with
  | some a, .corrected => (chanCorrected s a, rows)
  | some a, .uncorrectable => (chanUncorrectable s a (some x.part), match rows with | (b, _) :: rs => (b, true) :: rs | [] => [])
  | _, _ => (s, rows)

/-- The arrival counter that a landed transfer raises (R189). -/
def landRaise (s : State) (x : Xfer) : State :=
  match x.ctr with
  | some c => raiseArr s x.tile x.ctx c
  | none => s

/-- The class of a transfer, within which transfers keep their order (R198, log entry 201): rows, signals, partials, DRAM. -/
def xferClass : XferKind → Nat
  | .rows .. => 0
  | .signal => 1
  | .partial_ .. => 2
  | .dram .. => 3
  | .kv .. => 3

/-- Between one source tile and one destination tile, transfers of one class arrive in the order in which they were issued (R198). -/
def inOrder (s : State) (x : Xfer) : Bool :=
  x.dramAddr.isSome || !s.xfers.any fun y => decide (y.id < x.id) && y.dramAddr.isNone && y.src == x.src && y.tile == x.tile &&
    xferClass y.kind == xferClass x.kind

/-- A KV write lands (R227, R230): in its frame and the carry slot while its pass is in flight under a generation that stands (R128) and its
page is the pass's; a recomputation keeps it. Any other is discarded. -/
def landKv (s : State) (x : Xfer) (entry pos pair : Nat) (isV : Bool) (elems scales : List Byte) (carry : List Nat) (poison : Bool) :
    State :=
  match findPass s x.part x.pass with
  | none => s
  | some y =>
    match kvOf s x.part y.slot with
    | none => s
    | some v =>
      let d := tget {} (s.entry entry).pages (pos / 64)
      let layer := ((v.pairs[pair]?).map Pair.layer).getD 0
      if stale y layer x.gen then s
      else if y.confirm.isSome then
        let o : OwnKv := { pair := pair, isV := isV, elems := elems, scales := scales }
        let s := if poison then poisonPass s x.part (some x.pass) reasonPassFailed else s
        landRaise (modPass s x.part x.pass fun y => { y with ownKv := (y.ownKv.filter fun q => !(q.pair == pair && q.isV == isV)) ++ [o] }) x
      else if !d.valid then s
      else
        let s := match kvAddrs s x.part y.slot v pair d.stripe (pos % 64) isV with
          | some (a, b) => dramWrite (dramWrite s a elems poison) b scales poison
          | none => s
        let s := if v.feedback then setCarry s x.part entry v (pos % 9) pair isV carry else s
        landRaise (modPass s x.part x.pass fun y => { y with
          kvPairs := if y.kvPairs.contains (pair, isV) then y.kvPairs else y.kvPairs ++ [(pair, isV)] }) x

/-- Where a transfer that has arrived goes (R156, R158, R189, R192, R196, R227). -/
def landKind (s : State) (x : Xfer) (ecc : Ecc) : State :=
  match x.kind with
  | .signal => landRaise s x
  | .rows rows base slot readers epoch =>
    let (s, rows) := eccRows s x ecc rows
    let s := landRaise (landRows s x base slot readers epoch 0 rows) x
    (match x.pull with
    | some r => { s with releases := s.releases ++ [r] }
    | none => s)
  | .dram addr bytes poison => landRaise (dramWrite s addr bytes poison) x
  | .kv entry pos pair isV elems scales carry poison => landKv s x entry pos pair isV elems scales carry poison
  | .partial_ recv words _ _ =>
    if ((findPass s x.part x.pass).map fun y => decide (x.gen < y.gen)).getD false then
      s.modTile x.tile fun y => { y with accStaleCnt := satAdd y.accStaleCnt 1 }
    else landRaise (landPartials s x.tile recv 0 words) x

/-- TRANSFER_LANDED (R189): the last row of the transfer, or the signal, lands, in its order. One with an earlier tag is dropped at the die
edge (R202, R429). A contributor's partials raise the counter once for all its words, since COMBINE waits for as many raises as there are
contributors (R156, log entry 46). `coll` accesses coincided (R194). -/
def execTransferLanded (xfer : Nat) (ecc : Ecc) (coll now : Nat) (s : State) : Out :=
  guarded (instrWellFormed (.transferLanded xfer ecc coll now))
    (let s := s.setNow now
     match s.xfers.find? fun x => x.id == xfer with
     | none => s
     | some x =>
      if !inOrder s x then s
      else
        let s := countCrossed { s with xfers := s.xfers.filter fun y => y.id != xfer } x.links x.bytes
        if x.tag ≠ (s.part x.part).tag then dropStale s x
        else landKind (s.modTile x.tile fun y => { y with arbCollideCnt := wrapAdd y.arbCollideCnt coll }) x ecc)

/-! ### Walks -/

/-- The engine that serves a pair's walks: the one named, or the lowest unfenced one of the die where it is fenced (R455). -/
def aeFor (s : State) (d e : Nat) : Nat :=
  if (tget {} (s.die d).ae e).fenced then
    ((List.range 4).find? fun i => !(tget {} (s.die d).ae i).fenced).getD e
  else e

/-- Query heads per KV head of a layer (R184). -/
def groupHeads (l : Layer) : Nat := if l.kvHeads = 0 then 1 else l.heads / l.kvHeads

/-- The die whose engines serve the walks that a tile hands out: its own, or the one that a relocation names for the die of its place
in the section (R439 step 3). -/
def aeDie (s : State) (p rel t : Nat) : Nat :=
  let home := tileDie ((((s.part p).cfg.map PartCfg.tiles).getD []).getD rel t)
  (((s.part p).aeMap.find? fun q => q.1 == home).map Prod.snd).getD (tileDie t)

/-- AE_ISSUE (R213): the walk is handed to an engine of the tile's die, and the context waits in program order until an engine
accepts it. -/
def execAeIssue (t c walk engine e1 e2 : Nat) (s : State) : Out :=
  guarded (instrWellFormed (.aeIssue t c walk engine e1 e2))
    (if issues s t c { op := 0x38, e1 := e1, e2 := e2, a := walk, b := engine } [] then
      let k := ctxOf s t c
      match (((k.sched.map Sched.walks).getD [])[walk]?), k.pass.bind (findPass s (ctxPart k)) with
      | some w, some x =>
        let d := aeDie s (ctxPart k) k.relTile t
        let wk : Walk := { part := ctxPart k, slot := k.slot, pass := x.id, entry := x.entry, gen := k.gen, pair := w.pair
                           tile := t, ctx := c, queries := w.queries, outs := w.outs, e1 := e1, e2 := e2 }
        modAe s d (aeFor s d engine) fun a => { a with waiting := a.waiting ++ [wk] }
      | _, _ => goTo s t c (k.pc + 1)
    else s)

/-- WALK_ACCEPT (R213, R243): an engine that holds fewer than four walks accepts the oldest that waits; the sequence's table is
held, and the issuing context goes on. -/
def execWalkAccept (die engine now : Nat) (s : State) : Out :=
  guarded (instrWellFormed (.walkAccept die engine now))
    (let s := s.setNow now
     let a := tget {} (s.die die).ae engine
     match a.waiting with
     | [] => s
     | w :: ws =>
      if 4 ≤ a.walks.length || a.fenced || (s.part w.part).state != .running then s
      else
        let s := modAe s die engine fun a => { a with walks := a.walks ++ [w], waiting := ws }
        let s := s.modEntry w.entry fun e => { e with held := true }
        let l := ((kvOf s w.part w.slot).bind fun v => v.pairs[w.pair]?).map Pair.layer
        let s := modPass s w.part w.pass fun x => { x with
          walking := x.walking + 1
          walked := match l with | some l => if x.walked.contains l then x.walked else x.walked ++ [l] | none => x.walked }
        engineBusy (goTo s w.tile w.ctx ((ctxOf s w.tile w.ctx).pc + 1)) w.tile w.ctx .attention [])

/-- Some walk of a sequence is in progress on the module (R243). -/
def entryWalking (s : State) (e : Nat) : Bool :=
  s.dies.any fun d => d.2.ae.any fun a => a.2.walks.any fun w => w.entry == e

/-- Panels of a walk (R288): one per query head of its group. -/
def walkPanels (l : Pair) (g : Nat) (o : WalkOut) : List PanelData :=
  ((List.range o.probs.length).zip o.probs).map fun q =>
    { layer := l.layer, qhead := l.kvHead * g + q.1, probs := panelTop o.pos q.2, pages := o.att.retrieved }

/-- A context as a walk sends for it: the walk's pass and generation. -/
def walkCtx (s : State) (w : Walk) : Ctx := { ctxOf s w.tile w.ctx with part := some w.part, slot := w.slot, pass := some w.pass, gen := w.gen }

/-- The tile and context of a head port of a walk. -/
def portAt (s : State) (w : Walk) (h : HeadPort) : Option (Nat × Nat) :=
  (absTile s w.part h.tile).bind fun t => (destCtx s w.part w.slot t w.ctx).map fun c => (t, c)

/-- A port that names no slot of the image, or one without the rows that it needs, is an access fault of the walk's pass (R185). -/
def portFault (s : State) (w : Walk) (h : HeadPort) (kind : Nat) : State :=
  let s := s.modTile w.tile fun x => { x with accessFaultCnt := satAdd x.accessFaultCnt 1 }
  schedFault s w.tile w.part w.slot (some w.pass) h.slot 0 kind

/-- Pull `n` query elements of format `f` from a head port (R192, R195 to R197, R214): the rows that hold them are read under the walk's epoch
and released; nothing is delivered where a row is suppressed. -/
def pullHead (s : State) (w : Walk) (f n : Nat) (h : HeadPort) : State × Option (List Val × Bool) :=
  match portAt s w h with
  | none => (portFault s w h 0, none)
  | some (t, c) =>
    let lo := h.off * fmtBits f / 8
    let rows := (lo % 64 + vecLen f n + 63) / 64
    match slotFor (ctxOf s t c) h.slot (lo / 64 + rows) with
    | none => (portFault s w h 0, none)
    | some d =>
      let s := s.modTile t fun x => { x with pullCnt := wrapAdd x.pullCnt 1 }
      let idx := (List.range rows).map fun i => d.base + lo / 64 + i
      match idx.find? fun r => !rowReads (rowOf (s.tile t) r) w.e1 with
      | some r => (schedFault s t w.part w.slot (some w.pass) h.slot r 0, none)
      | none =>
        let rs := idx.map (rowOf (s.tile t))
        let bs := (rs.map rowBytes).flatten.drop (lo % 64)
        (s.modTile t fun x => { x with rows := idx.foldl (fun y r => tmod {} y r rowRelease) x.rows },
         some (readVec f n bs, rs.any Row.poison))

/-- Pull the query vectors of a walk, head by head. -/
def pullHeads (s : State) (w : Walk) (f n : Nat) : List HeadPort → State × Option (List (List Val) × Bool)
  | [] => (s, some ([], false))
  | h :: hs =>
    match pullHead s w f n h with
    | (s, none) => (s, none)
    | (s, some (q, bad)) =>
      match pullHeads s w f n hs with
      | (s, none) => (s, none)
      | (s, some (qs, bad2)) => (s, some (q :: qs, bad || bad2))

/-- The station of an engine, for the order of its transfers (R198). -/
def aeStation (die engine t : Nat) : Nat := 2048 + 128 * die + 32 * engine + t % 32

/-- Put one head's output, BF16, to the tile that holds its rows of the O projection (R214). -/
def putHead (s : State) (die engine : Nat) (w : Walk) (bad : Bool) (out : List Nat) (h : HeadPort) : State :=
  let rs := toRows (packBytes 1 out)
  let lo := 2 * h.off / 64
  match portAt s w h with
  | none => portFault s w h 1
  | some (t, c) =>
    match slotFor (ctxOf s t c) h.slot (lo + rs.length) with
    | none => portFault s w h 1
    | some d => launchFrom s die (aeStation die engine w.tile) (walkCtx s w) t c (ctrOf h.ctr)
        (.rows (rs.map fun b => (b, bad)) (d.base + lo) true d.readers w.e2) (64 * rs.length) none

/-- Put every head's output. -/
def putHeads (s : State) (die engine : Nat) (w : Walk) (bad : Bool) (outs : List (List Nat)) : State :=
  (outs.zip w.outs).foldl (fun s q => putHead s die engine w bad q.1 q.2) s

/-- The work of a walk, done as it ends (log entry 202): its queries are pulled, its outputs put, the counters of the engine, the digest and
the panels of the pass follow. What a superseded generation asked for is discarded (R128). -/
def endWalk (s : State) (die engine : Nat) (w : Walk) (poison : Bool) : State :=
  match kvOf s w.part w.slot, findPass s w.part w.pass with
  | some v, some x =>
    (match v.pairs[w.pair]? with
    | none => s
    | some pr =>
      match layerOf s w.part w.slot pr.layer with
      | none => s
      | some l =>
        if stale x pr.layer w.gen then s
        else
          let g := groupHeads l
          let e := s.entry w.entry
          let order := ((planOf s w.part w.slot).map Plain.order).getD 0
          match pullHeads s w l.qFmt v.d (w.queries.take g) with
          | (s, none) => s
          | (s, some (qs, bad)) =>
            let o := runWalk s w.part w.slot v e x w.pair order l.qFmt qs
            let bad := bad || o.poison || poison
            let s := modAe s die engine fun a => { a with
              posCnt := wrapAdd a.posCnt o.pos.length, candCnt := wrapAdd a.candCnt o.att.cands.length
              sumFly := wrapAdd a.sumFly o.att.fly, readBytes := wrapAdd a.readBytes o.bytes
              poisonCnt := if bad then satAdd a.poisonCnt 1 else a.poisonCnt
              limitCnt := if o.att.limit then satAdd a.limitCnt 1 else a.limitCnt }
            if o.att.limit then poisonPass s w.part (some w.pass) 0x0344
            else
              let s := if bad then poisonPass s w.part (some w.pass) reasonPassFailed else s
              let s := modPass s w.part w.pass fun x => { x with
                digests := tset 0 x.digests w.pair (crc64 o.stream).toNat
                streams := if x.confirm.isSome then tset [] x.streams w.pair o.stream else x.streams
                panels := (x.panels.filter fun q => !(q.layer == pr.layer && q.qhead / g == pr.kvHead)) ++ walkPanels pr g o }
              putHeads s die engine w bad o.outs)
  | _, _ => s

/-- WALK_END (R243): the outputs have been put and the last frame read has landed. The hold ends with the sequence's last walk. -/
def execWalkEnd (die engine idx : Nat) (poison : Bool) (now : Nat) (s : State) : Out :=
  guarded (instrWellFormed (.walkEnd die engine idx poison now))
    (let s := s.setNow now
     match (tget {} (s.die die).ae engine).walks[idx]? with
     | none => s
     | some w =>
      let s := endWalk s die engine w poison
      let s := modAe s die engine fun a => { a with walks := a.walks.eraseIdx idx, walkCnt := wrapAdd a.walkCnt 1 }
      let s := modPass s w.part w.pass fun x => { x with walking := x.walking - 1 }
      if entryWalking s w.entry then s else s.modEntry w.entry fun e => { e with held := false })

end Sys2Proof.Machine
end

