-- ==== Sys2Proof/Machine/Engines.lean ====
section
/-! DEFINITION. The digital engines of a tile: vector, moments and rank units and the correction engine (R46 to R57, R107 to
R113, R147 to R168, R182, R183, R271). -/

namespace Sys2Proof.Machine

/-! ### Vector unit -/

/-- Elements that an engine instruction of `strips` strips of 64 covers (R329). -/
def stripElems (strips : Nat) : Nat := 64 * strips

/-- Rows that `n` elements of format `f` take. -/
def rowsFor (f n : Nat) : Nat := (vecLen f n + 63) / 64

/-- Read `n` values of format `f` from a slot (R51 converts on read). -/
def readVals (s : State) (t c slot f n epoch : Nat) : State × Option (List Val × Bool) :=
  match slotRead s t c slot 0 (rowsFor f n) epoch with
  | (s, some (bs, bad)) => (s, some (readVec f n bs, bad))
  | (s, none) => (s, none)

/-- Run a one-source engine operation: read, compute the result bytes, write them to the destination slot. -/
def unary (s : State) (t c src dst f n e1 e2 : Nat) (e : Engine) (g : List Val → List Byte) : State :=
  match readVals s t c src f n e1 with
  | (s, none) => s
  | (s, some (xs, bad)) => slotWrite (engineBusy s t c e [slotRes (ctxOf s t c) dst]) t c dst e2 (g xs) bad

/-- What a unit of the tile holds, from a word of the save area on (R169). -/
def setUnits (s : State) (t base : Nat) (ws : List Nat) : State :=
  s.modTile t fun x => { x with units := ((List.range ws.length).zip ws).foldl (fun u q => tset 0 u (base + q.1) q.2) x.units }

/-- Four 32-bit values as a word of the save area. -/
def unitWord (vs : List Nat) : Nat := leAt (vs.map fun v => toLe 4 v).flatten 0 16

/-- The values that an operation read. -/
def readOnly (s : State) (t c src f n e1 : Nat) : List Val := ((readVals s t c src f n e1).2.map Prod.fst).getD []

/-- Minimum or maximum under R182: NaN where either operand is, and −0 below +0. -/
def vecExt (mx : Bool) (a b : Val) : Val :=
  if a.isNan || b.isNan then .nan
  else
    let less := Val.lt a b || (a.isZero && b.isZero && a.isNeg && !b.isNeg)
    if less == mx then b else a

/-- Element operations of VEC, in the order of R182 (log entry 22): 0 add, 1 subtract, 2 multiply, 3 fused multiply-add,
4 minimum, 5 maximum, 6 compare, 7 select; 8, convert, follows R51 instead (`convVec`). The answer is exact and is rounded once where it is written. -/
def vecElem (op : Nat) (a b c : Val) : Val :=
  match op with
  | 0 => a.add b
  | 1 => a.add b.neg
  | 2 => a.mul b
  | 3 => (a.mul b).add c
  | 4 => vecExt false a b
  | 5 => vecExt true a b
  | 6 => if a.isNan || b.isNan then .nan else if Val.lt a b then .fin false 1 1 else .fin false 0 1
  | 7 => if a.isZero then c else b
  | _ => a

/-- Element-wise combination of three lists, the last two padded with +0. -/
def vecZip (op : Nat) : List Val → List Val → List Val → List Val
  | [], _, _ => []
  | a :: as, bs, cs =>
    vecElem op a (bs.headD (.fin false 0 1)) (cs.headD (.fin false 0 1)) :: vecZip op as bs.tail cs.tail

/-- The operation takes a third source, the second half of the first slot (log entry 22). -/
def vecTernary (op : Nat) : Bool := op == 3 || op == 7

/-- VEC (R182). Bits [3:0] of `fmt` are the sources' format and [7:4] the destination's (log entry 22). A convert that R51 does not
allow is in no loaded schedule (R52) and does nothing. -/
def execVec (t c src src2 dst op fmt strips e1 e2 : Nat) (s : State) : Out :=
  guarded (instrWellFormed (.vec t c src src2 dst op fmt strips e1 e2))
    (let f := fmt % 16
     let g := fmt / 16 % 16
     let n := stripElems strips
     if 8 < op || fmtReserved f || fmtReserved g || g == 7 || (op == 8 && convNone f g) then s
     else issue s t c { op := 0x30, e1 := e1, e2 := e2, a := src, b := src2, c := dst, d := vecD op fmt strips 0 }
        (let k := ctxOf s t c; slotRes k src :: slotRes k dst :: (if op = 8 then [] else [slotRes k src2])) fun k =>
      if op = 8 then
        (match slotRead s t c src 0 (rowsFor f n) e1 with
        | (s, none) => s
        | (s, some (bs, bad)) => slotWrite (engineBusy s t c .vector [slotRes k dst]) t c dst e2 (convVec f g n bs) bad)
      else
      let n1 := if vecTernary op then 2 * n else n
      match readVals s t c src f n1 e1 with
      | (s, none) => s
      | (s, some (xs, bad)) =>
        match readVals s t c src2 f n e1 with
        | (s, none) => s
        | (s, some (ys, bad2)) =>
          slotWrite (engineBusy s t c .vector [slotRes k dst]) t c dst e2 (writeVec g (vecZip op (xs.take n) ys (xs.drop n))) (bad || bad2))

/-- VEC_FN (R183): each result is rounded once into FP32; codes 8 to 15 are reserved and no legal schedule holds them. -/
def execVecFn (t c src dst fn fmt strips e1 e2 : Nat) (s : State) : Out :=
  guarded (instrWellFormed (.vecFn t c src dst fn fmt strips e1 e2))
    (if 8 ≤ fn || fmtReserved fmt then s
    else issue s t c { op := 0x31, e1 := e1, e2 := e2, a := src, c := dst, d := vecD fn fmt strips 0 }
        [slotRes (ctxOf s t c) src, slotRes (ctxOf s t c) dst] fun _ =>
      unary s t c src dst fmt (stripElems strips) e1 e2 .vector fun xs => packBytes 0 (xs.map fun x => encFP32 (vecFnVal fn x)))

/-- The lane accumulators of a V64 sum in native order, four to a word (R160, R169): they stay in the vector unit. -/
def laneWords (order : Nat) (xs : List Val) : List Nat :=
  if order = 0 then
    (chunksOf 4 16 (((chunksOf 64 xs.length xs).foldl laneStep (List.replicate 64 none)).map fun v => v.getD 0)).map unitWord
  else List.replicate 16 0

/-- The lanes of the moments unit: n, sum, sumsq and mean in a word, m2 in the next (R167, R169). -/
def momWords (xs : List Nat) : List Nat :=
  (((chunksOf 64 xs.length xs).foldl momStrip (List.replicate 64 {})).map fun l => [unitWord [l.n, l.sum, l.sumsq, l.mean], l.m2]).flatten

/-- What the rank unit holds: count, mode and k in a word, then two entries to a word (R164, R169). -/
def rankWords (k : Nat) (minMode : Bool) (r : Nat × List (Nat × Nat)) : List Nat :=
  unitWord [r.1, b2n minMode, k] :: (chunksOf 2 32 r.2).map fun es => unitWord (es.map fun e => [e.1, e.2]).flatten

/-- VEC_RED (R160 to R162): the sum in shape V64 under the image's order code, one FP32 element. -/
def execVecRed (t c src dst fmt strips e1 e2 : Nat) (s : State) : Out :=
  guarded (instrWellFormed (.vecRed t c src dst fmt strips e1 e2))
    (if fmtReserved fmt then s
    else issue s t c { op := 0x32, e1 := e1, e2 := e2, a := src, c := dst, d := vecD 0 fmt strips 0 }
        [slotRes (ctxOf s t c) src, slotRes (ctxOf s t c) dst] fun k =>
      let order := ((planOf s (ctxPart k) k.slot).map Plain.order).getD 0
      let s := setUnits s t 1024 (laneWords order (readOnly s t c src fmt (stripElems strips) e1))
      unary s t c src dst fmt (stripElems strips) e1 e2 .vector fun xs => toLe 4 (reduce order 64 xs))

/-- Elements of an engine instruction that are not padding (R184): a layer's width bounds them. -/
def trueElems (s : State) (k : Ctx) (strips : Nat) : Nat :=
  match layerOf s (ctxPart k) k.slot (ctxLayer k) with
  | some l => if l.width = 0 then stripElems strips else Nat.min (stripElems strips) l.width
  | none => stripElems strips

/-- MOMENTS (R56, R167, R168, R184) over the elements that are not padding: *n* as an integer, sum, sumsq, mean, var and rms as FP32, 4
bytes each in this order (log entry 23). -/
def execMoments (t c src dst fmt strips e1 e2 : Nat) (s : State) : Out :=
  guarded (instrWellFormed (.moments t c src dst fmt strips e1 e2))
    (if 2 ≤ fmt then s
    else issue s t c { op := 0x33, e1 := e1, e2 := e2, a := src, c := dst, d := vecD 0 fmt strips 0 }
        [slotRes (ctxOf s t c) src, slotRes (ctxOf s t c) dst] fun k =>
      let s := setUnits s t 1280 (momWords ((readOnly s t c src fmt (trueElems s k strips) e1).map encFP32))
      unary s t c src dst fmt (trueElems s k strips) e1 e2 .moments fun xs =>
        let o := momentsOut (momentsOf (xs.map encFP32))
        toLe 4 o.1 ++ toLe 4 o.2.1 ++ toLe 4 o.2.2.1 ++ toLe 4 o.2.2.2.1 ++ toLe 4 o.2.2.2.2.1 ++ toLe 4 o.2.2.2.2.2)

/-- RANK (R164, R166): candidates are the values of `src` with the positions of `posSlot`; the count in 4 bytes, then per
entry the value code and the position, 4 bytes each (log entry 23). -/
def execRank (t c src posSlot dst fmt k : Nat) (minMode : Bool) (e1 e2 : Nat) (s : State) : Out :=
  guarded (instrWellFormed (.rank t c src posSlot dst fmt k minMode e1 e2))
    (if k = 0 || decide (64 < k) || decide (2 ≤ fmt) then s
    else issue s t c { op := 0x34, e1 := e1, e2 := e2, a := src, b := posSlot, c := dst, d := vecD 0 fmt k (b2n minMode) }
        [slotRes (ctxOf s t c) src, slotRes (ctxOf s t c) posSlot, slotRes (ctxOf s t c) dst] fun x =>
      let rv := slotRows s t c src
      let rp := slotRows s t c posSlot
      let n := Nat.min (rv * (512 / fmtBits fmt)) (rp * 16)
      match slotRead s t c src 0 rv e1 with
      | (s, none) => s
      | (s, some (vb, bad)) =>
        match slotRead s t c posSlot 0 rp e1 with
        | (s, none) => s
        | (s, some (pb, bad2)) =>
          let vals := unpackNat (fmtBits fmt) n (leAt vb 0 (n * fmtBits fmt / 8))
          let poss := unpackNat 32 n (leAt pb 0 (n * 4))
          let r := rankUnit fmt k minMode (vals.zip poss)
          let bytes := toLe 4 r.1 ++ (r.2.map fun q => toLe 4 q.1 ++ toLe 4 q.2).flatten
          let s := setUnits s t 1408 (rankWords k minMode r)
          slotWrite (engineBusy s t c .rank [slotRes x dst]) t c dst e2 bytes (bad || bad2))

/-! ### Quantisation and dynamic outliers -/

/-- Positions and BF16 codes selected in an input vector (R110), and how many elements were out of range. -/
def selectOutliers (tau : Nat) : Nat → List (List Nat) → List (Nat × Nat) × Nat
  | _, [] => ([], 0)
  | base, b :: bs =>
    let rms := blockRms (b.map (· * 65536))
    let marks := b.map (outlSelect tau rms)
    let sel := ((List.range b.length).zip (b.zip marks)).filterMap fun q =>
      if q.2.2 = 1 then some (base + q.1, q.2.1) else none
    let r := selectOutliers tau (base + 32) bs
    (sel ++ r.1, (marks.filter (· == 2)).length + r.2)

/-- Quantise blocks in order (R47 to R49): each at its supplied scale where one is given, else measured. -/
def quantBlocks (fmt : Nat) (supplied : Option (List Nat)) : Nat → List (List Val) → List (Nat × List Nat)
  | _, [] => []
  | i, b :: bs =>
    (match supplied with
     | some tbl => if suppliedScaleOk (tbl.getD i 0) then convSupplied fmt (tbl.getD i 0) b else convMeasured fmt b
     | none => convMeasured fmt b) :: quantBlocks fmt supplied (i + 1) bs

/-- QUANT (R47 to R50, R109 to R112): the source is a BF16 vector; the dynamic outliers of a Tarn input are taken out first
and kept with the destination slot; a supplied scale is replaced by the measured one in the replayed layer (R129). -/
def execQuant (t c src dst fmt scaleIdx : Nat) (supplied : Bool) (e1 e2 : Nat) (s : State) : Out :=
  guarded (instrWellFormed (.quant t c src dst fmt scaleIdx supplied e1 e2))
    (if !fmtBlock fmt || fmt == 7 then s
    else issue s t c { op := 0x20, e1 := e1, e2 := e2, a := src, b := dst, c := fmt, d := modeD scaleIdx (b2n supplied) }
        [slotRes (ctxOf s t c) src, slotRes (ctxOf s t c) dst] fun k =>
      let p := ctxPart k
      let l := ctxLayer k
      let rows := slotRows s t c src
      let mat := matrixOf s p k.slot l scaleIdx
      let n := match mat with | some m => Nat.min m.k (32 * rows) | none => 32 * rows
      match slotRead s t c src 0 rows e1 with
      | (s, none) => s
      | (s, some (bs, bad)) =>
        let codes := unpackNat 16 n (leAt bs 0 (2 * n))
        let lay := layerOf s p k.slot l
        let ca := (lay.map Layer.ca).getD 0
        let pass := k.pass.bind (findPass s p)
        let ref := (pass.map Pass.ref).getD false
        let forTarn := (tarnLayers s p k.slot).contains l && (fmt == 4 || fmt == 5) && ca != 0
        let sel := if forTarn then selectOutliers ((lay.map Layer.tau).getD 0x4C) 0 (blocks32 codes) else ([], 0)
        let cnt := sel.1.length
        let vals := ((List.range n).zip codes).map fun q =>
          if sel.1.any fun o => o.1 == q.1 then Val.fin false 0 1 else decBF16 q.2
        let measured := match pass with | some x => x.measured.contains l | none => false
        let tbl := if supplied && !measured then some ((mat.map Matrix.supplied).getD []) else none
        let out := vecBytes fmt (quantBlocks fmt tbl 0 (blocks32 vals))
        let isOver := decide (4 * ca < cnt)
        let s := s.modTile t fun x => { x with
          dynOutlCnt := if isOver && !ref then x.dynOutlCnt else wrapAdd x.dynOutlCnt cnt
          dynOvfCnt := if !isOver && decide (ca < cnt) then satAdd x.dynOvfCnt 1 else x.dynOvfCnt
          dynFbCnt := if isOver then satAdd x.dynFbCnt 1 else x.dynFbCnt
          dynRangeCnt := satAdd x.dynRangeCnt sel.2 }
        let s := modCtx s t c fun k => { k with outl := tset [] k.outl dst sel.1 }
        slotWrite (engineBusy s t c .vector [slotRes k dst]) t c dst e2 out bad)

/-! ### Correction engine -/

/-- Open the words of a CE step where it overwrites, and note what they carry. -/
def openStep (s : State) (t c : Nat) (k : Ctx) (cell add : Bool) (w : Nat) (o : OperandSet) : State :=
  let s := if add then s else openWords s t (ctxTag k) cell w o.cols
  modCtx (noteRegion s t c w o.cols o.layer o.matrix o.col) t c fun k => { k with place := if cell then 0 else 1 }

/-- Read the quantised input of an operand set from its slot. -/
def ceInput (s : State) (t c slot epoch : Nat) (m : Matrix) : State × Option (List Val × Bool) :=
  let rows := Nat.min (rowsFor m.inFmt m.k) (Nat.max 1 (slotRows s t c slot))
  match slotRead s t c slot 0 rows epoch with
  | (s, none) => (s, none)
  | (s, some (bs, bad)) => (s, some (inputVals m.inFmt m.k bs, bad))

/-- The variant of the pass a context serves (R271). -/
def ctxVariant (s : State) (k : Ctx) : Nat := ((k.pass.bind (findPass s (ctxPart k))).map Pass.variant).getD 0

/-- An operand set of the running schedule, with its matrix. -/
def opSetOf (s : State) (k : Ctx) (n : Nat) : Option (OperandSet × Matrix) :=
  ((k.sched.map Sched.opSets).getD [])[n]?.bind fun o =>
    (matrixOf s (ctxPart k) k.slot o.layer o.matrix).map fun m => (o, m)

/-- The inputs that an operand set covers: its part of the reduction dimension. -/
def setRows (o : OperandSet) (m : Matrix) : List Nat := (List.range (Nat.min o.rows (m.k - o.row))).map (o.row + ·)

/-- The deltas that a pass's variant has on one output column of an operand set, and their format (R271). -/
def setDeltas (s : State) (k : Ctx) (o : OperandSet) (col : Nat) : Nat × List DeltaBlock :=
  let v := ctxVariant s k
  ((tget {} (s.slot (ctxPart k) k.slot).variants v).fmt, deltasOf s (ctxPart k) k.slot v o.layer o.matrix col)

/-- The weight that CE_EXACT multiplies with input `r`: the whole weight where the layer runs on the CE, and the variant's delta in every
case (R271); none where there is neither. -/
def ceWeight (m : Matrix) (onTarn : Bool) (ds : Nat × List DeltaBlock) (col r : Nat) : Option Val :=
  match deltaVal ds.1 ds.2 r with
  | some d => some (if onTarn then d else (weightVal m col r).add d)
  | none => if onTarn then none else some (weightVal m col r)

/-- The products of an operand set on one output column (R147): each enters on its own, poisoned where its input is or its read of the
shadow met poison (R452). -/
def exactTerms (s : State) (k : Ctx) (o : OperandSet) (m : Matrix) (xs : List Val) (bad : Bool) (col : Nat) : List LaWord :=
  let onTarn := (tarnLayers s (ctxPart k) k.slot).contains o.layer
  let ds := setDeltas s k o col
  (setRows o m).filterMap fun r => (ceWeight m onTarn ds col r).map fun w =>
    { la := laOf ((xs.getD r (.fin false 0 1)).mul w)
      poison := bad || (!onTarn && shadowBlockBad s (ctxPart k) k.slot o.layer o.matrix col (r / 32)) }

/-- The outlier products of one output column (R108, R113) within an operand set: the static entries with the quantised inputs, and each
removed input at its source value with the whole weight. -/
def outlTerms (s : State) (k : Ctx) (o : OperandSet) (m : Matrix) (xs : List Val) (dyn : List (Nat × Nat)) (bad fb : Bool) (col : Nat) :
    List LaWord :=
  let ds := setDeltas s k o col
  let mine := fun r => decide (o.row ≤ r) && decide (r < o.row + o.rows)
  ((m.outliers.filter fun e => e.col == col && mine e.row).map fun e =>
    ({ la := laOf ((xs.getD e.row (.fin false 0 1)).mul ((staticVal m col e.row).getD (.fin false 0 1)))
       poison := bad, outl := true, fallback := fb } : LaWord)) ++
  ((dyn.filter fun d => mine d.1).map fun d =>
    let w := weightVal m col d.1
    let w := match staticVal m col d.1 with | some e => w.add e | none => w
    { la := laOf ((decBF16 d.2).mul (match deltaVal ds.1 ds.2 d.1 with | some e => w.add e | none => w))
      poison := bad || shadowBlockBad s (ctxPart k) k.slot o.layer o.matrix col (d.1 / 32), outl := true, fallback := fb })

/-- Enter the products of a CE step, column by column; a pass consumes the poison of a word that they poison (R451). -/
def enterSet (s : State) (t c : Nat) (k : Ctx) (o : OperandSet) (cell : Bool) (laBase : Nat) (f : Nat → List LaWord) : State :=
  let p := ctxPart k
  (List.range o.cols).foldl (fun s j =>
    let vs := f (o.col + j)
    let s := if vs.any LaWord.poison then poisonPass s p k.pass reasonPassFailed else s
    enterTerms s t c p k.pass cell o.layer (laBase + j) vs) s

/-- The results that a CE step names: its input slot, and the words that it overwrites. -/
def ceUses (s : State) (t c opSet slot laBase : Nat) (add : Bool) : List Res :=
  let k := ctxOf s t c
  slotRes k slot :: match opSetOf s k opSet with
    | some (o, _) => if add then [] else [.words laBase o.cols]
    | none => []

/-- A CE instruction word (R329). -/
def ceCode (op opSet slot laBase terms : Nat) (add : Bool) (epoch : Nat) : Code :=
  { op := op, e1 := epoch, a := opSet, b := slot, c := laBase, d := modeD terms (b2n add) }

/-- CE_EXACT (R53, R147, R151, R271): exact-path products into LAs. -/
def execCeExact (t c opSet slot laBase terms : Nat) (add : Bool) (epoch : Nat) (s : State) : Out :=
  guarded (instrWellFormed (.ceExact t c opSet slot laBase terms add epoch))
    (issue s t c (ceCode 0x28 opSet slot laBase terms add epoch) (ceUses s t c opSet slot laBase add) fun k =>
      match opSetOf s k opSet with
      | none => s
      | some (o, m) =>
        match ceInput s t c slot epoch m with
        | (s, none) => s
        | (s, some (xs, bad)) =>
          let cell := cellPlaced s (ctxPart k) k.slot o.layer
          enterSet (openStep (engineBusy s t c .ce [.words laBase o.cols]) t c k cell add laBase o) t c k o cell laBase
            (exactTerms s k o m xs bad))

/-- CE_FP32 (R46, R161, R163): FP32 dot products in the image's order over the chunk that the operand set covers; ADD combines with the
partial held (R163). -/
def execCeFp32 (t c opSet slot laBase terms : Nat) (add : Bool) (epoch : Nat) (s : State) : Out :=
  guarded (instrWellFormed (.ceFp32 t c opSet slot laBase terms add epoch))
    (issue s t c (ceCode 0x29 opSet slot laBase terms add epoch) (ceUses s t c opSet slot laBase add) fun k =>
      match opSetOf s k opSet with
      | none => s
      | some (o, m) =>
        match ceInput s t c slot epoch m with
        | (s, none) => s
        | (s, some (xs, bad)) =>
          let p := ctxPart k
          let cell := cellPlaced s p k.slot o.layer
          let order := ((planOf s p k.slot).map Plain.order).getD 0
          (List.range o.cols).foldl (fun s j =>
            let r := reduce order 32 ((setRows o m).map fun r => (xs.getD r (.fin false 0 1)).mul (weightVal m (o.col + j) r))
            let old := ctxWord s t c cell (laBase + j)
            let prev := match old.la with | .num a => a.toNat | .nanMark => 0x7FC00000
            let v := if add then f32Add prev r else r
            let shadow := shadowColBad s p k.slot o.layer o.matrix (o.col + j) o.row o.rows
            let s := if shadow then poisonPass s p k.pass reasonPassFailed else s
            putCtxWord s t c cell (laBase + j) { old with la := .num v, poison := old.poison || bad || shadow })
            (openStep (engineBusy s t c .ce [.words laBase o.cols]) t c k cell add laBase o))

/-- CE_OUTL (R108, R112, R113): static and dynamic outlier products, with the overflow pass where more than *C*a were
selected. A vector past 4 × *C*a sends the step to fallback, where every product enters all the same (R130). -/
def execCeOutl (t c opSet slot laBase terms : Nat) (add : Bool) (epoch : Nat) (s : State) : Out :=
  guarded (instrWellFormed (.ceOutl t c opSet slot laBase terms add epoch))
    (issue s t c (ceCode 0x2A opSet slot laBase terms add epoch) (ceUses s t c opSet slot laBase add) fun k =>
      match opSetOf s k opSet with
      | none => s
      | some (o, m) =>
        match ceInput s t c slot epoch m with
        | (s, none) => s
        | (s, some (xs, bad)) =>
          let cell := cellPlaced s (ctxPart k) k.slot o.layer
          let fb := match k.pass.bind (findPass s (ctxPart k)) with | some x => inFallback x o.layer o.matrix | none => false
          enterSet (openStep (engineBusy s t c .ce [.words laBase o.cols]) t c k cell add laBase o) t c k o cell laBase
            (outlTerms s k o m xs (tget [] k.outl slot) bad fb))

/-- The word carries an output of a matrix on the FP32 path (R56): it holds an FP32 partial (R149). -/
def fp32Word (s : State) (k : Ctx) (w : Nat) : Bool :=
  match regionOf k w with
  | some (l, m, _) => (match matrixOf s (ctxPart k) k.slot l m with
    | some x => x.fmt == 1 || x.fmt == 2
    | none => false)
  | none => false

/-- The value of a word: its LA, or its FP32 partial. -/
def wordVal (s : State) (k : Ctx) (w : Nat) (v : LaWord) : Val :=
  match v.la with
  | .num a => if fp32Word s k w then decFP32 a.toNat else laVal a
  | .nanMark => .nan

/-- FP32 partials in ascending chunk index (R163), with the OR of every entered status (R157). -/
def combineFp32 : List LaWord → LaWord
  | [] => {}
  | w :: ws =>
    let code := fun v : LaWord => match v.la with | .num a => a.toNat | .nanMark => 0x7FC00000
    ws.foldl (fun a v => { a with
      la := .num (f32Add (code a) (code v)), poison := a.poison || v.poison, sat := a.sat || v.sat, outl := a.outl || v.outl
      fallback := a.fallback || v.fallback }) { w with confirm := false }

/-- What a COMBINE combines (R156): layer, matrix and first column of the split accumulation, the words that each contributor sends, and
the chunks in ascending contributor index: the first receive word of each, or `none` for the home's own partial. An accumulation that the
image's splits do not list has its contributors one after the other, and the home contributes where its words carry outputs of the layer. -/
def combinePlan (s : State) (k : Ctx) (recv contributors laBase : Nat) : (Nat × Nat × Nat) × Nat × List (Option Nat) :=
  let qs := ((planOf s (ctxPart k) k.slot).map Plain.splits).getD []
  match qs.find? fun q => q.home == k.relTile && q.recv == recv with
  | some q =>
    let es := qs.filter fun e => e.layer == q.layer && e.matrix == q.matrix && e.col == q.col && e.home == q.home
    ((q.layer, q.matrix, q.col), q.words, ((List.range 64).map fun i => (es.filter fun e => e.index == i).map fun e =>
      if e.tile == k.relTile then none else some (e.recv + e.index * e.words)).flatten)
  | none =>
    match k.regions.find? fun q => q.1 == laBase with
    | some q => (q.2.2, q.2.1, none :: (List.range contributors).map fun i => some (recv + i * q.2.1))
    | none => ((ctxLayer k, 0, 0), 1, (List.range contributors).map fun i => some (recv + i))

/-- The combine runs (R157): nothing else does on the tile until it completes. -/
def combineRuns (s : State) (t c laBase n : Nat) : State :=
  s.modTile t fun x => { x with
    inFlight := x.inFlight ++ [{ id := x.issued, engine := .ce, ctx := c, res := [.words laBase n], combine := true }]
    issued := x.issued + 1, combining := true, accCombineCnt := wrapAdd x.accCombineCnt 1 }

/-- COMBINE (R156, R157): runs once the counter has reached the contributor count, enters the receive words in ascending
contributor index, and is atomic. A home tile that does not contribute is cleared first. -/
def execCombine (t c recvBase contributors laBase ctr : Nat) (s : State) : Out :=
  guarded (instrWellFormed (.combine t c recvBase contributors laBase ctr))
    (let (_, n, _) := combinePlan s (ctxOf s t c) recvBase contributors laBase
     if tget 0 (ctxOf s t c).arr ctr < contributors || contributors = 0 || decide (64 < contributors) then s
     else issue s t c { op := 0x2B, a := recvBase, b := contributors, c := laBase, d := ctr } [.words laBase n] fun k =>
      let p := ctxPart k
      let ((l, m, col), n, src) := combinePlan s k recvBase contributors laBase
      let cell := cellPlaced s p k.slot l
      let s := noteRegion (takeArr s t c ctr contributors) t c laBase n l m col
      let own := (List.range n).map fun j => ctxWord s t c cell (laBase + j)
      let s := if src.contains none then s else openWords s t (ctxTag k) cell laBase n
      let parts := fun j => src.map fun q => match q with
        | some w => wordOf (s.tile t) false (w + j)
        | none => own.getD j {}
      let s :=
        if fp32Word s (ctxOf s t c) laBase then
          (List.range n).foldl (fun s j => putCtxWord s t c cell (laBase + j) (combineFp32 (parts j))) s
        else
          (src.filterMap id).foldl (fun s w =>
            enterWords s t c p k.pass cell l laBase ((List.range n).map fun j => wordOf (s.tile t) false (w + j))) s
      combineRuns s t c laBase n)

/-- The bias of an LA word's output, where its matrix has one (R184 LINEAR). -/
def biasOf (s : State) (k : Ctx) (w : Nat) : Option Val :=
  match regionOf k w with
  | some (l, m, col) => (matrixOf s (ctxPart k) k.slot l m).bind fun x => x.bias[col]?.map decFP32
  | none => none

/-- The value of an output before its one rounding (R45, R55): the word's, with the bias added exactly. A zero LA is +0; an FP32 partial
keeps its sign. -/
def outVal (s : State) (k : Ctx) (w : Nat) (v : LaWord) : Val :=
  match biasOf s k w with
  | some b => (wordVal s k w v).add b
  | none => wordVal s k w v

/-- ROUND (R55, R54): each LA is rounded once, directly into the destination format; the NaN marker gives the produced NaN,
and a poisoned word poisons the result. It waits for whatever still adds to its words (R108, R113, R120, R179). -/
def execRound (t c laBase dst fmt count epoch : Nat) (s : State) : Out :=
  guarded (instrWellFormed (.round t c laBase dst fmt count epoch))
    (if fmtReserved fmt || fmt == 7 then s
    else issue s t c { op := 0x2C, e1 := epoch, a := laBase, b := dst, c := fmt, d := count }
        [.words laBase count, slotRes (ctxOf s t c) dst] fun k =>
      let p := ctxPart k
      let cell := match regionOf k laBase with | some (l, _, _) => cellPlaced s p k.slot l | none => false
      let ws := (List.range count).map fun i => (laBase + i, ctxWord s t c cell (laBase + i))
      let vals := ws.map fun q => outVal s k q.1 q.2
      let bad := ws.any fun q => q.2.poison
      let s := if bad then poisonPass s p k.pass reasonPassFailed else s
      slotWrite (engineBusy s t c .vector [slotRes k dst]) t c dst epoch (writeVec fmt vals) bad)

end Sys2Proof.Machine
end

