-- ==== Sys2Proof/Machine/OpsNet.lean ====
section
/-! DEFINITION. Building Ethernet frames and UDP datagrams (R12, R300, R315 to R318). Header fields that the spec leaves open
(VLAN priority, IPv4 identification and flags, IPv6 flow label) are free values (log entry 30). -/

namespace Sys2Proof.Machine

/-- Big-endian bytes of a field of an Ethernet, IP or UDP header (R12). -/
def be (k n : Nat) : List Byte := (toLe k n).reverse

/-- Take a free value (log entry 1). -/
def freeWord (s : State) : State × Nat := ({ s with free := s.free + 1 }, (Config.freeValue s.free).toNat)

/-- A frame with its FCS: CRC-32, sent least significant byte first. -/
def withFcs (bs : List Byte) : List Byte := bs ++ toLe 4 (crc32 bs).toNat

/-- The Ethernet header: destination and source MAC, an 802.1Q tag where there is one, and the EtherType. -/
def etherHead (free dst src : Nat) (vlan : Option Nat) (etype : Nat) : List Byte :=
  be 6 dst ++ be 6 src ++
  (match vlan with | some v => be 2 0x8100 ++ be 2 (v % 4096 + 4096 * fld free 28 4) | none => []) ++ be 2 etype

/-- An IPv4 header with its checksum. -/
def ip4Head (free proto dscp ttl src dst len : Nat) : List Byte :=
  let head := fun sum => [0x45, BitVec.ofNat 8 (4 * dscp)] ++ be 2 (20 + len) ++ be 2 (fld free 0 16) ++
    be 2 (b2n (bitOf free 16) * 16384) ++ [BitVec.ofNat 8 ttl, BitVec.ofNat 8 proto] ++ be 2 sum ++ be 4 src ++ be 4 dst
  head (inetChecksum (head 0))

/-- An IPv6 header. -/
def ip6Head (free next dscp hop src dst len : Nat) : List Byte :=
  be 4 (6 * 2 ^ 28 + dscp * 2 ^ 22 + fld free 0 20) ++ be 2 len ++ [BitVec.ofNat 8 next, BitVec.ofNat 8 hop] ++
  be 16 src ++ be 16 dst

/-- The pseudo header of a checksum. -/
def pseudoHead (ip6 : Bool) (proto src dst len : Nat) : List Byte :=
  if ip6 then be 16 src ++ be 16 dst ++ be 4 len ++ be 4 proto
  else be 4 src ++ be 4 dst ++ be 2 proto ++ be 2 len

/-- A UDP datagram with its checksum; a sum of 0 is sent as all ones. -/
def udpBytes (ip6 : Bool) (src dst sport dport : Nat) (payload : List Byte) : List Byte :=
  let len := 8 + payload.length
  let head := fun sum => be 2 sport ++ be 2 dport ++ be 2 len ++ be 2 sum
  let c := inetChecksum (pseudoHead ip6 17 src dst len ++ head 0 ++ payload)
  head (if c = 0 then 0xFFFF else c) ++ payload

/-- The frame of a UDP datagram. -/
def udpFrame (free dmac smac : Nat) (vlan : Option Nat) (ip6 : Bool) (src dst sport dport dscp ttl : Nat)
    (payload : List Byte) : List Byte :=
  let u := udpBytes ip6 src dst sport dport payload
  withFcs (etherHead free dmac smac vlan (if ip6 then 0x86DD else 0x0800) ++
    (if ip6 then ip6Head free 17 dscp ttl src dst u.length else ip4Head free 17 dscp ttl src dst u.length) ++ u)

/-! ### Alarm and narrative messages (R315 to R318) -/

/-- Leave panels out of an alarm record from the last one backward until it fits (R316); answers the record and whether any
panel was left out. -/
def fitRecord (limit : Nat) : Nat → List Byte → List Byte × Bool
  | 0, r => (r, false)
  | fuel + 1, r =>
    let np := fld (byteAt r 3) 4 3
    if r.length ≤ limit ∨ byteAt r 2 ≠ 1 ∨ np = 0 then (r, false)
    else
      let len := r.length - 384
      let r' := toLe 2 len ++ [1, BitVec.ofNat 8 (byteAt r 3 % 16 + 16 * (np - 1))] ++ (r.drop 4).take (len - 4)
      ((fitRecord limit fuel r').1, true)

/-- The alarm destination that a partition's section names for a port (R318). -/
def destFor (s : State) (p port : Nat) : Option AlarmDest :=
  (((s.part p).cfg.map PartCfg.dests).getD []).find? fun d => d.port == port

/-- One message dropped for a partition (R294). -/
def txLost (s : State) (p : Nat) : State := s.modPart p fun q => { q with cnt := { q.cnt with txDrop := satAdd q.cnt.txDrop 1 } }

/-- A record enters a port's transmit queue as a datagram (R315 to R318), or is dropped and counted. -/
def sendRecord (s : State) (p port : Nat) (rec : List Byte) : State :=
  match destFor s p port with
  | none => txLost s p
  | some d =>
    let q := s.fport port
    if !q.up || decide (256 ≤ q.txq.length) || decide (64 ≤ (q.txq.filter fun m => m.part == p).length) then
      txLost (s.modFport port fun q => { q with txDrop := satAdd q.txDrop 1 }) p
    else
      let limit := q.cfg.mtu - (if d.ip6 then 48 else 28) - 24
      let (r, cut) := fitRecord limit 4 rec
      let seq := tget 0 (s.part p).msgSeq port
      let payload := [0x59, 0x4E, 0x41, 0x4D, 1, BitVec.ofNat 8 (b2n cut), BitVec.ofNat 8 p, 0] ++ toLe 4 seq ++
        toLe 4 s.serial ++ toLe 8 s.now ++ r
      let (s, free) := freeWord s
      let src := (q.cfg.addrs.getD d.srcIdx (true, 0)).2
      let frame := udpFrame free d.mac q.cfg.mac d.vlan d.ip6 src d.dst d.udpSrc d.udpDst d.dscp d.ttl payload
      let s := s.modPart p fun x => { x with msgSeq := tset 0 x.msgSeq port ((seq + 1) % 2 ^ 32) }
      s.modFport port fun q => { q with
        txq := q.txq ++ [{ part := p, bytes := frame }], txTrunc := if cut then satAdd q.txTrunc 1 else q.txTrunc }

end Sys2Proof.Machine
end

