-- ==== Sys2Proof/Machine/OpsServe.lean ====
section
/-! DEFINITION. Shared operations on the request table (R255 to R276): entries and their states, roots and keys, work items and
their completions, narratives, closing and freeing. -/

namespace Sys2Proof.Machine

/-! ### Entries (R256 to R258) -/

/-- The request-table blocks of a partition, ascending (R256). -/
def blocksOf (s : State) (p : Nat) : List Nat := ((s.part p).cfg.map PartCfg.blocks).getD []

/-- Entry `e` lies in a block of the partition. -/
def ownsEntry (s : State) (p e : Nat) : Bool := (blocksOf s p).contains (e / 1024)

/-- The open entries of a partition. -/
def partEntries (s : State) (p : Nat) : List (Nat × Entry) := s.entries.filter fun q => q.2.open_ && ownsEntry s p q.1

/-- The partition that owns an entry. -/
def entryPart (s : State) (e : Nat) : Option Nat := (s.parts.find? fun q => ownsEntry s q.1 e).map Prod.fst

/-- Open passes of a sequence, oldest first. -/
def passesOf (s : State) (p e : Nat) : List Pass := (s.part p).passes.filter fun x => x.entry == e

/-- PINNED (R283): a candidate of the sequence is in the backlog. -/
def pinned (s : State) (p e : Nat) : Bool := (s.part p).backlog.any fun b => b.pass.entry == e

/-- Tokens of an item in the work queue. -/
def itemTokens (i : Item) : Nat := i.left.length + (match i.prompt with | some (_, n) => n | none => 0)

/-- PENDING (R257). -/
def pendingOf (e : Entry) : Nat := (e.queue.map itemTokens).sum

/-- An item still has passes to open: a SCORE item with tokens left, a DECODE item until it ends. -/
def itemActive (i : Item) : Bool := i.kind == .decode || !i.left.isEmpty

/-- A budget of 0 means no deadline (R267). -/
def budget (start b : Nat) : Option Nat := if b = 0 then none else some (start + b)

/-- When the next token of an item is due (R267). -/
def itemDue (v : ServCfg) (i : Item) : Option Nat :=
  match i.kind with
  | .score => i.deadline
  | .decode => match i.lastCommit with
    | none => budget i.arrival v.dlTtft
    | some c => budget c v.dlTbt

/-- The smaller of two deadlines. -/
def minDl : Option Nat → Option Nat → Option Nat
  | none, b => b
  | a, none => a
  | some a, some b => some (Nat.min a b)

/-- DEADLINE (R257): the earliest among pending work and open passes. -/
def entryDeadline (s : State) (p e : Nat) : Option Nat :=
  let x := s.entry e
  let a := ((x.queue.filter itemActive).map (itemDue (s.part p).serv)).foldl minDl none
  ((passesOf s p e).map Pass.deadline).foldl minDl a

/-- The image slot is held by a Weir or a relocation (R25, R258, R433, R440). -/
def slotHeld (s : State) (p k : Nat) : Bool :=
  (s.slot p k).state == .weirClosed || (s.slot p k).state == .partial_ || (s.part p).heldReloc.contains k ||
    (s.part p).blocked.contains k

/-- STATE (R258): the highest condition that holds. -/
def entryState (s : State) (p e : Nat) : Nat :=
  let x := s.entry e
  if !x.open_ then 0
  else if x.stale then 7
  else if slotHeld s p x.slot then 6
  else if x.edit.isSome then 5
  else if x.frameWait then 4
  else if !(passesOf s p e).isEmpty then 3
  else if x.queue.any itemActive then 2
  else 1

/-- The lowest-numbered FREE entry of a partition. -/
def lowestFree (s : State) (p : Nat) : Option Nat :=
  (blocksOf s p).findSome? fun b => ((List.range 1024).map (1024 * b + ·)).find? fun e => !(s.entry e).open_

/-- FREE entries of a partition (R296). -/
def freeEntries (s : State) (p : Nat) : Nat := 1024 * (blocksOf s p).length - (partEntries s p).length

/-- Bytes 0 to 63 of an entry (R257) with ROOT as given. Items run in queue order, so T_SUBMIT is that of the first item with work left
(log entry 222). -/
def entryBytes (s : State) (p e root : Nat) : List Byte :=
  let x := s.entry e
  let dl := (entryDeadline s p e).getD (2 ^ 64 - 1)
  let sub := ((x.queue.find? fun i => i.kind == .decode || !i.left.isEmpty).map Item.arrival).getD 0
  toLe 4 (entryState s p e + 8 * b2n x.edit.isSome + 16 * b2n (pinned s p e) + 32 * b2n x.draft + 64 * b2n x.narrative +
      2 ^ 8 * x.specDepth + 2 ^ 12 * x.zeroRun + 2 ^ 16 * x.probe) ++
  toLe 4 (x.cls + 4 * x.variant + 2 ^ 6 * x.slot + 2 ^ 10 * b2n x.dropOnMiss + 2 ^ 11 * b2n x.refMode + 2 ^ 12 * b2n x.specEn +
      2 ^ 17 * x.misses) ++
  toLe 4 x.length ++ toLe 4 x.committed ++ toLe 4 root ++
  toLe 4 (x.partner + 2 ^ 17 * b2n x.partnerValid + 2 ^ 18 * pendingOf x) ++
  toLe 8 x.seqId ++ toLe 8 dl ++ toLe 8 sub ++ toLe 8 x.tFirst ++ toLe 8 x.tLast

/-- Change the serving counters of a partition. -/
def modCnt (s : State) (p : Nat) (f : ServCnt → ServCnt) : State := s.modPart p fun q => { q with cnt := f q.cnt }

/-- Progress of a partition, as the watchdog counts it (R427). -/
def progress (s : State) (p : Nat) : State := s.modPart p fun q => { q with progress := q.progress + 1 }

/-! ### Keys (R309, R310) -/

/-- The home bucket of a key. -/
def homeBucket (n keyspace : Nat) (key : List Byte) : Nat := (crc32c (BitVec.ofNat 8 keyspace :: key)).toNat % 2 ^ n

/-- log2 of the key table's buckets. -/
def keyLog2 (s : State) (p : Nat) : Nat := ((s.part p).cfg.map PartCfg.keyLog2).getD 10

/-- The four buckets that a lookup searches, in order. -/
def keyBuckets (s : State) (p keyspace : Nat) (key : List Byte) : List Nat :=
  let n := keyLog2 s p
  (List.range 4).map fun i => (homeBucket n keyspace key + i) % 2 ^ n

/-- The entry of a key (R309). -/
def keyFind (s : State) (p keyspace : Nat) (key : List Byte) : Option Nat :=
  (keyBuckets s p keyspace key).findSome? fun b =>
    ((tget [] (s.part p).keys b).find? fun k => k.keyspace == keyspace && k.key == key).map KeySlot.entry

/-- The first of a key's buckets with a free slot. -/
def keyRoom (s : State) (p keyspace : Nat) (key : List Byte) : Option Nat :=
  (keyBuckets s p keyspace key).find? fun b => decide ((tget [] (s.part p).keys b).length < 4)

/-- Insert a key into a bucket with room. -/
def keyInsert (s : State) (p b keyspace : Nat) (key : List Byte) (entry : Nat) : State :=
  s.modPart p fun q => { q with keys := tmod [] q.keys b fun l => l ++ [{ key := key, keyspace := keyspace, entry := entry }] }

/-- Remove an entry's keys (R310). A period in which insertions fail ends when a slot is free again (R548). -/
def keyRemove (s : State) (p e : Nat) : State :=
  if (s.part p).keys.any fun b => b.2.any fun k => k.entry == e then
    s.modPart p fun q => { q with
      keyFullPeriod := false
      keys := (q.keys.map fun b => (b.1, b.2.filter fun k => k.entry != e)).filter fun b => !b.2.isEmpty }
  else s

/-! ### Opening entries (R222, R261, R276) -/

/-- What an opening sets. -/
structure OpenArgs where
  seqId : Nat := 0
  cls : Nat := 0
  variant : Nat := 0
  slot : Nat := 0
  drop : Bool := false
  ref : Bool := false
  spec : Bool := false
  narrative : Bool := false
  draft : Bool := false
  deriving DecidableEq, Repr

/-- A free root table of an image slot's control area (R222): the pool without it, and its index. -/
def popRoot (k : KvPool) : Option (Nat × KvPool) :=
  match k.rootsReturned with
  | x :: xs => some (x, { k with rootsReturned := xs })
  | [] => if k.rootsFresh < k.rootsTotal then some (k.rootsFresh, { k with rootsFresh := k.rootsFresh + 1 }) else none

/-- A variant slot is loaded. -/
def variantLoaded (s : State) (p k v : Nat) : Bool :=
  match (s.slot p k).variants.find? fun q => q.1 == v with
  | some q => !q.2.loading
  | none => false

/-- Open an entry (R261); an error reason, and nothing changed, otherwise. The root of entry index `i` of the control area lies
at 4 KiB unit 2 × `i` (log entry 26). -/
def openEntry (s : State) (p e : Nat) (a : OpenArgs) : Except Nat State :=
  if (s.entry e).open_ then .error 0x0303
  else if a.variant != 0 && !variantLoaded s p a.slot a.variant then .error 0x0305
  else match popRoot (s.slot p a.slot).pool with
    | none => .error 0x030A
    | some (r, pool) =>
      let s := modPool s p a.slot fun _ => pool
      let n : Entry := { open_ := true, cls := a.cls, variant := a.variant, slot := a.slot, dropOnMiss := a.drop
                         refMode := a.ref, specEn := a.spec, root := 2 * r, seqId := a.seqId, draft := a.draft, narrative := a.narrative }
      .ok (s.modEntry e fun _ => n)

/-- Bind a draft entry to a main entry opened with SPEC_EN = 1 (R276, R279); with none to be had the depth stays 0. -/
def bindDraft (s : State) (p e : Nat) : State :=
  let x := s.entry e
  let v := (s.part p).serv
  let none' := modCnt s p fun c => { c with noEntry := satAdd c.noEntry 1 }
  match lowestFree s p with
  | none => none'
  | some d =>
    match openEntry s p d { seqId := x.seqId, cls := x.cls, slot := v.draftSlot, draft := true } with
    | .error _ => none'
    | .ok s =>
      let s := s.modEntry d fun y => { y with partner := e, partnerValid := true }
      s.modEntry e fun y => { y with partner := d, partnerValid := true, specDepth := v.depthMax, zeroRun := 0, probe := 0 }

/-- Open an entry with its draft entry (R261, R276). -/
def openMain (s : State) (p e : Nat) (a : OpenArgs) : Except Nat State :=
  match openEntry s p e a with
  | .error r => .error r
  | .ok s => .ok (if a.spec then bindDraft s p e else s)

/-- An opening refused for want of an entry or a root table (R261, R298): counted; the first of a period with no FREE entry is
reported (R548). -/
def tableFull (s : State) (p : Nat) (noEntry : Bool) : State :=
  let s := modCnt s p fun c => { c with tableFull := satAdd c.tableFull 1 }
  if noEntry && !(s.part p).tableFullPeriod then
    reportLead (s.modPart p fun q => { q with tableFullPeriod := true }) p evReqTableFull [(1, p), (4, 1)]
  else s

/-! ### Records that leave (R293, R294) -/

/-- A narrative record (R293). -/
def narrRecord (serial p chunk : Nat) (toks : List Nat) (final limit failed : Bool) : List Byte :=
  toLe 2 (16 + 4 * toks.length) ++ [0x02, 0x01] ++ toLe 4 serial ++
    [BitVec.ofNat 8 p, BitVec.ofNat 8 chunk, BitVec.ofNat 8 toks.length,
     BitVec.ofNat 8 (b2n final + 2 * b2n limit + 4 * b2n failed)] ++ toLe 4 0 ++ (toks.map (toLe 4)).flatten

/-- A narrative record follows RING and NARR_FEED (R294). -/
def egressNarr (s : State) (p : Nat) (rec : List Byte) : State :=
  let v := (s.part p).serv
  let s := if v.ring then spoolAdd s p rec else s
  if v.narrFeed then sendRecord s p v.port rec else s

/-! ### Items (R259, R383) -/

/-- Change an item of an entry, queued or removed. -/
def modItem (s : State) (e id : Nat) (f : Item → Item) : State :=
  s.modEntry e fun x => { x with
    queue := x.queue.map fun i => if i.id == id then f i else i
    gone := x.gone.map fun i => if i.id == id then f i else i }

/-- An item of an entry, queued or removed. -/
def findItem (s : State) (e id : Nat) : Option Item := ((s.entry e).queue ++ (s.entry e).gone).find? fun i => i.id == id

/-- Close an entry to new passes (R262): its key goes, and so does that of its draft entry's work. -/
def markClosing (s : State) (p e : Nat) : State := keyRemove (s.modEntry e fun x => { x with closing := true }) p e

/-- The completion of an item (R383). -/
def itemCompl (s : State) (e : Nat) (i : Item) (h : HostRef) (reason : Nat) (progress limit stop : Bool) : Compl :=
  { sq := h.sq, item := some i.id, tag := h.tag, reason := reason, quiet := h.quiet, entry := e
    progress := progress, miss := i.missed, limit := limit, stop := stop, position := (s.entry e).committed, score := i.score
    count := if i.kind == .score then i.done else i.generated, tCommit := i.tCommit, data := i.writes }

/-- An item ends: it leaves the entry, its completion is produced, and a narrative sends its last record and closes its entry
(R259, R292, R293). -/
def finishItem (s : State) (p e id reason : Nat) (limit stop : Bool) : State :=
  match findItem s e id with
  | none => s
  | some i =>
    let s := s.modEntry e fun x => { x with
      queue := x.queue.filter fun j => j.id != id, gone := x.gone.filter fun j => j.id != id }
    let s := match i.host with
      | some h => if h.live then produce s h.fn (itemCompl s e i h reason false limit stop) else s
      | none => s
    match i.narr with
    | none => s
    | some n => markClosing (egressNarr s p (narrRecord n p i.narrChunk i.narrTokens true limit (reason != 0))) p e

/-- The verify step of an item that is removed opens no further pass (R259): it ends with the main passes it has, and one that has opened no
pass ends at once (log entry 223). -/
def cutVerify (v : Verify) : Option Verify :=
  if v.mainPasses.isEmpty && v.draftPasses.isEmpty then none else some { v with depth := v.mainPasses.length }

/-- Remove an item before all its tokens have run (R259): it completes at once, or with the last pass it has opened. -/
def removeItem (s : State) (p e id reason : Nat) : State :=
  match findItem s e id with
  | none => s
  | some i =>
    let s := if i.kind == .decode then s.modEntry e fun x => { x with verify := x.verify.bind cutVerify } else s
    if i.open_ = 0 then finishItem s p e id reason false false
    else s.modEntry e fun x => { x with
      queue := x.queue.filter fun j => j.id != id
      gone := x.gone ++ [{ i with removal := some reason, left := [], prompt := none }] }

/-- Remove every queued item of an entry. -/
def removeAll (s : State) (p e reason : Nat) : State :=
  ((s.entry e).queue.map Item.id).foldl (fun s i => removeItem s p e i reason) s

/-- CLOSE (R262): new passes stop, the key goes, pending items and a waiting batch complete with 0x0315, and the draft entry
closes with its main entry. -/
def closeEntry (s : State) (p e : Nat) (h : Option HostRef) : State :=
  let s := markClosing s p e
  let s := match h with
    | some r => s.modEntry e fun x => { x with closers := x.closers ++ [r] }
    | none => s
  let s := removeAll s p e 0x0315
  let s := match (s.entry e).edit with
    | some b => completeWith (s.modEntry e fun x => { x with edit := none }) b.host 0x0315 e 0
    | none => s
  let x := s.entry e
  let s := if x.frameWait then endFrameWait s p x.slot e else s
  if x.partnerValid && !x.draft then
    let d := s.entry x.partner
    let s := s.modEntry x.partner fun y => { y with closing := true }
    if d.frameWait then endFrameWait s p d.slot x.partner else s
  else s

/-- Return everything an entry holds: stripes of pages and index, root and carry; the entry becomes FREE (R226, R262). -/
def releaseEntry (s : State) (p e : Nat) : State :=
  let x := s.entry e
  let s := x.pages.foldl (fun s d => if d.2.valid then returnStripe (setDesc s p e false d.1 {}) p x.slot d.2.stripe else s) s
  let s := x.index.foldl (fun s d => if d.2.valid then returnStripe (setDesc s p e true d.1 {}) p x.slot d.2.stripe else s) s
  let s := modPool s p x.slot fun k => { k with
    rootsReturned := (x.root / 2) :: k.rootsReturned, waiters := k.waiters.filter (· != e) }
  let s := s.modPart p fun q => { q with tableFullPeriod := false }
  s.modEntry e fun _ => {}

/-- The entry may become FREE (R262): closing, with no open pass and no pin; its draft entry likewise. -/
def freeable (s : State) (p e : Nat) : Bool :=
  let x := s.entry e
  x.open_ && x.closing && (passesOf s p e).isEmpty && !pinned s p e &&
    (!(x.partnerValid && !x.draft) || (passesOf s p x.partner).isEmpty)

/-- Free a closing entry (R262): the CLOSE items complete once it is FREE. -/
def freeEntry (s : State) (p e : Nat) : State :=
  let x := s.entry e
  let s := releaseEntry (keyRemove s p e) p e
  let s := if x.partnerValid then
      (if x.draft then s.modEntry x.partner fun y => { y with partnerValid := false, specDepth := 0, probe := 0 }
       else releaseEntry s p x.partner)
    else s
  x.closers.foldl (fun s h => completeWith s h 0 e 0) s

end Sys2Proof.Machine
end

