-- ==== Sys2Proof/Machine/OpsOpen.lean ====
section
/-! DEFINITION. Shared operations on opening passes (R221 to R224, R229, R263, R264, R267, R269, R276, R277): what may open, stripes,
drops, and the pass itself. -/

namespace Sys2Proof.Machine

/-! ### The next pass of a sequence -/

/-- The item that an entry's next pass would serve: the first of the queue with passes still to open (R259). -/
def headItem (x : Entry) : Option Item := x.queue.find? itemActive

/-- A pass that an entry could open: its input token, item, whether it is a prompt token, whether it belongs to a verify step,
and the main entry whose work it is. -/
structure Ready where
  entry : Nat
  token : Nat
  item : Nat
  prompt : Bool
  verify : Bool
  main : Nat
  deriving DecidableEq, Repr

/-- The tiles whose schedules send the step-resolved notice of a matrix step: those with its STEP_END (R181). -/
def enders (s : State) (p k l m : Nat) : List Nat :=
  (((imageCtxs s p k).filter fun q => (ctxInstrs (ctxOf s q.1 q.2)).any fun w =>
    instrFld w 0 8 == 0x03 && instrFld w 16 16 == l && instrFld w 32 32 == m).map Prod.fst).eraseDups

/-- Every layer step of a pass has sent its step-resolved notices (R134), each tile's that takes part in it; a layer with no matrix sends
them for matrix 0. -/
def allResolved (s : State) (p : Nat) (x : Pass) : Bool :=
  match planOf s p x.slot with
  | none => true
  | some pl => ((List.range pl.layers.length).zip pl.layers).all fun q =>
      (List.range (Nat.max 1 q.2.matrices.length)).all fun m =>
        (x.resolved.any fun r => r.1 == q.1 && r.2.1 == m) && (enders s p x.slot q.1 m).all fun t => x.resolved.contains (q.1, m, t)

/-- A taken check of the pass is still queued on a tile of the partition, under its current generation. -/
def checkPending (s : State) (p : Nat) (x : Pass) : Bool :=
  (s.part p).tiles.any fun t => (s.tile t).checks.any fun c =>
    c.part == p && c.pass == x.id && !stale x c.layer c.gen

/-- The outputs of a pass are settled: every notice is in, no check is queued and no trouble outstanding (R134). -/
def settled (s : State) (p : Nat) (x : Pass) : Bool :=
  allResolved s p x && x.troubles.isEmpty && !checkPending s p x

/-- The proposals that a verify step's draft passes have produced so far (R277): the top-1 of each settled draft pass, in order
(log entry 27). -/
def proposals (s : State) (p : Nat) (v : Verify) : List Nat :=
  (v.draftPasses.map (findPass s p)).foldr (fun x acc =>
    match x with
    | some y => if settled s p y then (match y.top with | some t => t.1 :: acc | none => []) else []
    | none => []) []

/-- The inputs of a verify step: the first, then the proposals. -/
def verifyInputs (s : State) (p : Nat) (v : Verify) : List Nat := v.input :: proposals s p v

/-- The depth of the next step of a main entry (R277, R279): 0 while a cut is due, never more than the tokens left. -/
def stepDepth (s : State) (p : Nat) (x : Entry) (i : Item) : Nat :=
  if !x.partnerValid || x.draft || decide (4 ≤ x.zeroRun) then 0
  else Nat.min (Nat.min x.specDepth (s.part p).serv.depthMax) (i.limit - i.generated)

/-- A SPEC_CUT or SPEC_PROBE is due before the next step (R279). -/
def governorDue (x : Entry) : Bool :=
  x.partnerValid && !x.draft && ((decide (4 ≤ x.zeroRun) && x.specDepth != 0) || (x.specDepth == 0 && decide (64 ≤ x.probe)))

/-- The next pass of entry `e`, where its input token is known (R263). -/
def readyOf (s : State) (p e : Nat) : Option Ready :=
  let x := s.entry e
  if x.draft then
    let m := s.entry x.partner
    match m.verify, headItem m with
    | some v, some i =>
      if v.draftPasses.length < v.depth then
        ((verifyInputs s p v)[v.draftPasses.length]?).map fun t =>
          { entry := e, token := t, item := i.id, prompt := false, verify := true, main := x.partner }
      else none
    | _, _ => none
  else match x.verify, headItem x with
    | some v, some i =>
      if v.mainPasses.length < v.depth then
        ((verifyInputs s p v)[v.mainPasses.length]?).map fun t =>
          { entry := e, token := t, item := i.id, prompt := false, verify := true, main := e }
      else none
    | none, some i =>
      (match i.prompt, i.left with
      | some _, _ => none
      | none, t :: _ => some { entry := e, token := t, item := i.id, prompt := true, verify := false, main := e }
      | none, [] => match i.nextTok with
        | some t => if i.open_ = 0 && !governorDue x then
            some { entry := e, token := t, item := i.id, prompt := false, verify := false, main := e } else none
        | none => none)
    | _, none => none

/-- The image slot serves a pass that is about to open: READY, or a verify step that had opened a pass before the Weir closed
(R347). -/
def slotServes (s : State) (p k : Nat) (started : Bool) : Bool :=
  let q := s.slot p k
  (q.state == .ready || (q.state == .weirClosed && started)) && q.plain.isSome &&
    !(s.part p).heldReloc.contains k && !(s.part p).blocked.contains k

/-- A verify step has opened a pass. -/
def verifyStarted (x : Entry) : Bool :=
  match x.verify with
  | some v => !(v.draftPasses.isEmpty && v.mainPasses.isEmpty)
  | none => false

/-- A waiting sequence has an owed stripe, or does not wait (R224). -/
def owedOrFree (s : State) (p e : Nat) : Bool :=
  let x := s.entry e
  let k := (s.slot p x.slot).pool
  !x.frameWait || (match k.waiters.findIdx? (· == e) with | some i => decide (i < freeCount k) | none => true)

/-- The conditions of R263 on an entry itself. -/
def entryServes (s : State) (p e : Nat) (started : Bool) : Bool :=
  let x := s.entry e
  x.open_ && !x.closing && !x.stale && x.edit.isNone && decide (x.length < x.committed + 8) && decide (x.length < 2 ^ 26) &&
    slotServes s p x.slot started && owedOrFree s p e

/-- The entry may open its next pass now (R263). A verify step begins only while neither slot's Weir is closed (R347); a pair
needs its draft entry as well (R276). -/
def mayOpen (s : State) (p e : Nat) : Option Ready :=
  match readyOf s p e with
  | none => none
  | some r =>
    let m := s.entry r.main
    let st := verifyStarted m
    let both := !m.partnerValid || entryServes s p m.partner st
    if entryServes s p e st && m.edit.isNone && both then some r else none

/-- Keys of R264: class, deadline (none last) and index, under the main entry for a draft pass. -/
def openKey (s : State) (p : Nat) (r : Ready) : Nat × Nat × Nat :=
  ((s.entry r.main).cls, (entryDeadline s p r.main).getD (2 ^ 64), r.entry)

/-- Lexicographic order of opening keys. -/
def keyLt (a b : Nat × Nat × Nat) : Bool :=
  decide (a.1 < b.1) || (a.1 == b.1 && (decide (a.2.1 < b.2.1) || (a.2.1 == b.2.1 && decide (a.2.2 < b.2.2))))

/-- The pass that opens next (R264). -/
def chooseOpen (s : State) (p : Nat) : Option Ready :=
  ((partEntries s p).filterMap fun q => mayOpen s p q.1).foldl (fun b r =>
    match b with
    | none => some r
    | some x => if keyLt (openKey s p r) (openKey s p x) then some r else some x) none

/-! ### Drops (R221, R269) -/

/-- One LOST_EVENTS token at the head of a queue for a run of drops (R269), where the image declares one. -/
def placeLost (s : State) (p e : Nat) : State :=
  let x := s.entry e
  if x.lostRun then s
  else match (planOf s p x.slot).bind Plain.lostToken with
    | none => s
    | some t =>
      let id := (s.part p).nextItem
      let s := s.modPart p fun q => { q with nextItem := id + 1 }
      s.modEntry e fun x => { x with
        lostRun := true
        queue := x.queue.takeWhile (fun i => !itemActive i) ++
          [{ id := id, kind := .score, left := [t], lost := true, arrival := s.now }] ++
          x.queue.dropWhile (fun i => !itemActive i) }

/-- The item that a late drop looks at: the head, past the LOST_EVENTS token that a running drop has placed. -/
def lateItem (x : Entry) : Option Item := x.queue.find? fun i => itemActive i && !(i.lost && x.lostRun)

/-- Drop what is late at the head of a queue, with fuel (R269). -/
def dropLate (p e : Nat) : Nat → State → State
  | 0, s => s
  | n + 1, s =>
    match lateItem (s.entry e) with
    | none => s
    | some i =>
      match itemDue (s.part p).serv i with
      | none => s
      | some d =>
        if s.now ≤ d then s
        else
          let s := modCnt s p fun c => { c with drop := satAdd c.drop 1 }
          if i.kind == .decode then removeItem s p e i.id 0x0310
          else dropLate p e n (placeLost (removeItem s p e i.id 0x0310) p e)

/-- A sequence at its position limit (R221): the host item at the head completes with 0x0343, a feed event is dropped and
counted. -/
def dropFull (s : State) (p e : Nat) : State :=
  let x := s.entry e
  if x.length < 2 ^ 26 then s
  else match headItem x with
    | none => s
    | some i =>
      let s := if i.host.isSome then s else modPool s p x.slot fun k => { k with seqFull := satAdd k.seqFull 1 }
      removeItem s p e i.id 0x0343

/-- What the lead tile does to the head of a queue each time the entry could open a pass (R221, R269). -/
def pruneHead (s : State) (p e : Nat) : State :=
  let x := s.entry e
  let s := if x.dropOnMiss && x.verify.isNone && (x.frameWait || (mayOpen s p e).isSome) then dropLate p e 4097 s else s
  if x.closing || x.stale || x.edit.isSome || !slotServes s p x.slot false || x.draft then s else dropFull s p e

/-! ### Stripes (R223, R224) -/

/-- The page that a reclaim takes (R224). -/
def reclaimPage (s : State) (p e pos : Nat) : Option Nat :=
  let x := s.entry e
  match kvOf s p x.slot with
  | none => none
  | some v =>
    if !v.reclaim || pinned s p e then none
    else (x.pages.find? fun d => d.2.valid && decide (64 * (d.1 + 1) ≤ x.committed) && !(v.sink && d.1 == 0) &&
      decide (d.1 + v.w < pos / 64)).map Prod.fst

/-- Write the descriptor of a new page (R223). -/
def attachPage (s : State) (p e page stripe : Nat) : State :=
  setDesc s p e false page { stripe := stripe, valid := true, spec := decide ((s.entry e).committed ≤ 64 * page) }

/-- A stripe for the page of a position, where one is needed and to be had (R223, R224). -/
def stripeFor (s : State) (p e pos : Nat) : Option State :=
  let x := s.entry e
  let page := pos / 64
  if (kvOf s p x.slot).isNone || (tget {} x.pages page).valid then
    some (if x.frameWait then endFrameWait s p x.slot e else s)
  else if x.frameWait || unowed (s.slot p x.slot).pool != 0 then
    (takeStripe (if x.frameWait then endFrameWait s p x.slot e else s) p x.slot).map fun r => attachPage r.2 p e page r.1
  else (reclaimPage s p e pos).map fun old =>
    let st := (tget {} x.pages old).stripe
    let s := modPool s p x.slot fun k => { k with reclaim := satAdd k.reclaim 1 }
    trimIndex (attachPage (setDesc s p e false old {}) p e page st) p x.slot e

/-! ### The pass -/

/-- Contexts of an image that serve no pass take up the next one, and take their tile where no context runs there. A Weir or
a preemption moves contexts otherwise (log entry 20). -/
def assignCtxs (s : State) (p k : Nat) : State :=
  ((imageCtxs s p k).filter fun q => (ctxOf s q.1 q.2).pass.isNone).foldl (fun s q =>
    (nextUp s q.1 q.2).modTile q.1 fun x => if x.running.isNone && !x.fenced then { x with running := some q.2 } else x) s

/-- Dies that hold work of an image: its contexts and placed Tarns. -/
def workDies (s : State) (p k : Nat) : List Nat :=
  ((s.part p).tiles.filter fun t => (s.tile t).ctxs.any fun q => q.2.part == some p && q.2.slot == k).map tileDie ++
    (s.slot p k).placed.map fun q => tileDie q.tile

/-- A die is throttled, or its sensor SUSPECT (R287, R501). -/
def dieThermal (s : State) (d : Nat) : Bool := (s.die d).hk.throttled || (s.die d).hk.suspect

/-- Open a pass of entry `e` at its next position (R123, R223, R263): the check seed is drawn in array mode, and the pass keeps
what is in force now. -/
def openPass (s : State) (p e token item : Nat) (prompt verify : Bool) (cls arrival : Nat) (dl : Option Nat) : State × Nat :=
  let x := s.entry e
  let q := s.part p
  let k := s.slot p x.slot
  let ref := x.refMode && !x.draft
  let seed := if ref then q.lfsr else lfsrDraw q.lfsr
  let id := q.nextPass
  let np : Pass := { id := id, slot := x.slot, entry := e, item := item, pos := x.length, token := token, cls := cls, deadline := dl
                     arrival := arrival, opened := s.now, ref := ref, seed := if ref then 0 else seed
                     sLog2 := q.serv.chkS, chkT := q.serv.chkT, chkM := q.serv.chkM, variant := x.variant
                     imageId := k.imageId, epoch := k.epoch, verify := verify, promptTok := prompt
                     thermal := (workDies s p x.slot).any (dieThermal s) }
  let s := s.modPart p fun q => { q with lfsr := seed, nextPass := id + 1, passes := q.passes ++ [np] }
  let s := s.modEntry e fun x => { x with length := x.length + 1 }
  let reps := (((k.plain.bind fun pl => pl.levels[k.level]?).map Level.replicas).getD 1)
  let s := s.modSlot p x.slot fun k => { k with nextReplica := if reps = 0 then 0 else (k.nextReplica + 1) % reps }
  (assignCtxs s p x.slot, id)

/-- The item gives its token to a pass that opens. -/
def takeToken (s : State) (e item : Nat) (prompt : Bool) : State :=
  let lost := match findItem s e item with | some i => i.lost | none => false
  let s := modItem s e item fun i => { i with open_ := i.open_ + 1, started := true, left := if prompt then i.left.drop 1 else i.left }
  if lost then s else s.modEntry e fun x => { x with lostRun := false }

/-- Begin a verify step of depth `d` at the committed length (R277). -/
def beginVerify (s : State) (e d token : Nat) (probe : Bool) : State :=
  s.modEntry e fun x => { x with verify := some { start := x.committed, depth := d, probe := probe, input := token } }

/-- The passes of a pair open together (R277): the main one draws its seed first. -/
def openPair (s : State) (p : Nat) (r : Ready) (i : Item) (dl : Option Nat) : State :=
  let m := s.entry r.main
  let a := openPass (takeToken s r.main r.item r.prompt) p r.entry r.token r.item r.prompt false m.cls i.arrival dl
  let b := openPass a.1 p m.partner r.token r.item r.prompt false m.cls i.arrival dl
  modPass (modPass b.1 p a.2 fun x => { x with paired := some b.2 }) p b.2 fun x => { x with paired := some a.2 }

/-- A pass opens alone: of an ordinary item, or of a verify step of depth `d` that begins or runs (R277, R280). -/
def openSingle (s : State) (p : Nat) (r : Ready) (i : Item) (d : Nat) (dl : Option Nat) : State :=
  let s := if d = 0 then s else beginVerify s r.main d r.token false
  let s := if r.entry = r.main then takeToken s r.main r.item r.prompt else s
  let o := openPass s p r.entry r.token r.item r.prompt (r.verify || d != 0) (s.entry r.main).cls i.arrival dl
  if r.verify || d != 0 then
    o.1.modEntry r.main fun x => { x with verify := x.verify.map fun v =>
      if r.entry = r.main then { v with mainPasses := v.mainPasses ++ [o.2] } else { v with draftPasses := v.draftPasses ++ [o.2] } }
  else o.1

/-- Open the pass that was chosen, with its stripes; where a stripe is not to be had the sequence waits (R224, R263, R276,
R277). -/
def doOpen (s : State) (p : Nat) (r : Ready) : State :=
  let m := s.entry r.main
  let i := (findItem s r.main r.item).getD { id := 0, kind := .score }
  let dl := itemDue (s.part p).serv i
  let d := if r.verify || r.prompt then 0 else stepDepth s p m i
  match stripeFor s p r.entry (s.entry r.entry).length with
  | none => beginFrameWait s p (s.entry r.entry).slot r.entry
  | some s1 =>
    if m.partnerValid && !r.verify && d == 0 then
      match stripeFor s1 p m.partner (s1.entry m.partner).length with
      | none => beginFrameWait s p (s.entry m.partner).slot m.partner
      | some s2 => openPair s2 p r i dl
    else openSingle s1 p r i d dl

/-- Forget the fine counts that a Tarn keeps for some checks. -/
def forgetKept (f : Kept → Bool) (T : Tarn) : Tarn := { T with kept := T.kept.filter fun k => !f k }

/-- Forget the fine counts that a tile's Tarns keep for some checks. -/
def forgetTile (f : Kept → Bool) (x : Tile) : Tile :=
  { x with tarns := x.tarns.foldl (fun ts q => tmod {} ts q.1 (forgetKept f)) x.tarns }

end Sys2Proof.Machine
end

