-- ==== Sys2Proof/Machine/OpsCommit.lean ====
section
/-! DEFINITION. Shared operations on the commit and the failure of passes (R23, R133 to R139, R240 to R242, R266 to R270, R275 to
R282, R380). -/

namespace Sys2Proof.Machine

/-! ### Groups (R23, R276, R278) -/

/-- The passes that commit together with `x`: those of its verify step in both entries, its pair, else `x` alone. -/
def commitGroup (s : State) (p : Nat) (x : Pass) : List Pass :=
  let ids : List Nat :=
    if x.verify then
      let e := s.entry x.entry
      let m := if e.draft then s.entry e.partner else e
      match m.verify with
      | some v => v.mainPasses ++ v.draftPasses
      | none => [x.id]
    else x.id :: x.paired.toList
  ids.filterMap (findPass s p)

/-- Every pass of the verify step has opened (R278). -/
def verifyOpen (s : State) (x : Pass) : Bool :=
  if !x.verify then true
  else
    let e := s.entry x.entry
    let m := if e.draft then s.entry e.partner else e
    match m.verify with
    | some v => decide (v.depth ≤ v.mainPasses.length) && (decide (v.depth ≤ v.draftPasses.length) || (headItem m).isNone)
    | none => true

/-- No earlier pass of the sequence outside the group is open (R23). -/
def firstInOrder (s : State) (p : Nat) (g : List Pass) : Bool :=
  g.all fun x => (s.part p).passes.all fun y => y.entry != x.entry || decide (x.pos ≤ y.pos) || g.any fun z => z.id == y.id

/-- A pass has reached its commit point (R134): its walks have ended, its steps are resolved and its checks done. A trouble outstanding holds
it back, save that a pass that consumed poison abandons its replay. -/
def atCommitPoint (s : State) (p : Nat) (x : Pass) : Bool :=
  x.walking == 0 && (if x.poison.isSome then allResolved s p x && !checkPending s p x else settled s p x)

/-! ### Deadlines (R268, R270) -/

/-- Histogram bucket of a latency in ns (R270). -/
def histBucket (ns : Nat) : Nat :=
  let us := ns / 1000
  if us < 16 then 0 else Nat.min 15 (Nat.log2 us - 3)

/-- A latency enters a histogram: kind 0 event-to-score, 1 first token, 2 between tokens (R270, R297). -/
def addHist (s : State) (p kind cls ns : Nat) : State :=
  let key := 64 * kind + 16 * cls + histBucket ns
  let bump := fun h : Tab Nat => tmod 0 h key fun n => Nat.min (n + 1) (2 ^ 32 - 1)
  let s := modCnt s p fun c => { c with hist := bump c.hist }
  match (s.part p).fn with
  | some f => s.modFn f fun x => { x with win := { x.win with hist := bump x.win.hist } }
  | none => s

/-- A miss (R268, R298): the entry's MISSES, the class counter of its kind, and DEADLINE_MISS. -/
def recordMiss (s : State) (p e kind cls late : Nat) : State :=
  let s := s.modEntry e fun x => { x with misses := Nat.min (x.misses + 1) 32767 }
  let s := modCnt s p fun c => { c with miss := tmod 0 c.miss (4 * kind + cls) fun n => Nat.min (n + 1) (2 ^ 32 - 1) }
  reportLead s p evDeadlineMiss [(1, p), (4, e), (2, cls), (1, kind), (4, Nat.min late (2 ^ 32 - 1))]

/-! ### Decoding (R275, R277, R380) -/

/-- Write a committed token to the host, or keep it with the item until the function can issue. -/
def tokenWrite (s : State) (e : Nat) (i : Item) (tok : Nat) : State :=
  match i.host with
  | none => s
  | some h =>
    if !h.live then s else
    let a := i.outAddr + 4 * i.generated
    if fnIssues s h.fn then s.emit (.hostWrite h.fn a (toLe 4 tok))
    else modItem s e i.id fun i => { i with writes := i.writes ++ [(a, toLe 4 tok)] }

/-- A narrative's tokens leave in records of 64 (R293). -/
def narrFlush (s : State) (p e : Nat) (i : Item) : State :=
  match i.narr with
  | none => s
  | some n =>
    if i.narrTokens.length < 64 then s
    else
      let s := egressNarr s p (narrRecord n p i.narrChunk i.narrTokens false false false)
      modItem s e i.id fun i => { i with narrTokens := [], narrChunk := i.narrChunk + 1 }

/-- The deadline of an item has passed. -/
def itemLate (s : State) (p : Nat) (i : Item) : Bool :=
  match itemDue (s.part p).serv i with | some d => decide (d < s.now) | none => false

/-- A generated token enters the histogram of its kind, and its miss is recorded (R267, R268). -/
def tokenTimes (s : State) (p e : Nat) (i : Item) : State :=
  let kind := if i.generated == 0 then 1 else 2
  let cls := (s.entry e).cls
  let t := addHist s p kind cls (s.now - i.lastCommit.getD i.arrival)
  if itemLate s p i then recordMiss t p e kind cls (s.now - (itemDue (s.part p).serv i).getD 0) else t

/-- A generated token is written out and kept by its item (R275, R380). -/
def tokenKeep (s : State) (e id : Nat) (i : Item) (tok : Nat) (miss : Bool) : State :=
  let s := tokenWrite s e i tok
  let s := if i.generated == 0 then s.modEntry e fun x => { x with tFirst := s.now } else s
  modItem s e id fun i => { i with
    generated := i.generated + 1, nextTok := some tok, lastCommit := some s.now, missed := i.missed || miss
    narrTokens := if i.narr.isSome then i.narrTokens ++ [tok] else [] }

/-- PROGRESS after every NOTIFY tokens (R275, R380). -/
def tokenNotify (s : State) (e id : Nat) (i : Item) : State :=
  match i.host with
  | some h =>
    if i.generated % Nat.max 1 i.notify = 0 && !h.quiet && h.live then
      modItem (produce s h.fn (itemCompl s e i h 0 true false false)) e id fun i => { i with writes := [], missed := false }
    else s
  | none => s

/-- Yield one token of a DECODE item (R268, R275, R380); true when the item has ended. -/
def yieldToken (s : State) (p e id tok : Nat) : State × Bool :=
  match findItem s e id with
  | none => (s, true)
  | some i0 =>
    let s := tokenKeep (tokenTimes s p e i0) e id i0 tok (itemLate s p i0)
    let i := (findItem s e id).getD i0
    if i.removal.isSome then (s, i.stop == some tok)
    else if i.stop == some tok then (finishItem s p e id 0 false true, true)
    else if i.limit ≤ i.generated then (finishItem s p e id 0 true false, true)
    else (tokenNotify (narrFlush s p e i) e id i, false)

/-- Yield tokens in order until the item ends. -/
def yieldTokens (p e id : Nat) : List Nat → State → State
  | [], s => s
  | t :: ts, s =>
    let r := yieldToken s p e id t
    if r.2 then r.1 else yieldTokens p e id ts r.1

/-- A pass's top logit is NaN (R275). -/
def topNan (x : Pass) : Bool := match x.top with | some t => f32IsNan t.2 | none => true

/-- The token a pass yields. -/
def topTok (x : Pass) : Nat := (x.top.map Prod.fst).getD 0

/-! ### Candidates (R280 to R282) -/

/-- Backlog room (R282). -/
abbrev backlogMax : Nat := 1024

/-- The classes of a pass that cross (R280): class, score and threshold; a threshold of +∞ disables its class. -/
def crossings (v : ServCfg) (scores : List Nat) : List (Nat × Nat × Nat) :=
  ((List.range scores.length).zip scores).filterMap fun q =>
    let thr := tget 0x7F800000 v.thresh q.1
    if thr != 0x7F800000 && f32Ge q.2 thr then some (q.1, q.2, thr) else none

/-- The carry vectors that a backlog entry copies (R282): slot (t − 1) mod 9 of every pair. -/
def carryCopy (x : Entry) (pos : Nat) : Tab (List Nat) := x.carry.filter fun q => q.1 / 2 ^ 21 == (pos + 8) % 9

/-- Make the candidates of a committed SCORE pass (R280 to R282). -/
def makeCandidates (s : State) (p : Nat) (x : Pass) (missed : Bool) : State :=
  let v := (s.part p).serv
  let s := modCnt s p fun c => { c with nan := satAdd c.nan (x.scores.filter f32IsNan).length }
  let cr := crossings v x.scores
  if cr.isEmpty then s
  else
    let e := s.entry x.entry
    let full := decide (backlogMax ≤ (s.part p).backlog.length)
    let status : Option Nat := if x.ref then some 1 else if !v.confirm then some 0 else if full then some 3 else none
    let first := (s.part p).alarmSeq
    let dig := (x.digests.map Prod.snd).foldl (· ^^^ ·) 0
    let cs : List Cand := ((List.range cr.length).zip cr).map fun q =>
      { serial := (first + q.1) % 2 ^ 32, entry := x.entry, seqId := e.seqId, cls := q.2.1, score := q.2.2.1, thresh := q.2.2.2
        scoreRef := if x.ref then q.2.2.1 else 0x7FC00000, status := status, resolve := s.now, pass := x
        tCommit := s.now, missed := missed, panels := x.panels, digest := dig }
    let s := s.modPart p fun q => { q with cands := q.cands ++ cs, alarmSeq := (first + cs.length) % 2 ^ 32 }
    let s := modCnt s p fun c => { c with cand := wrapAdd c.cand cs.length }
    match status with
    | none =>
      let feedback := ((kvOf s p x.slot).map KvParams.feedback).getD false
      s.modPart p fun q => { q with backlog := q.backlog ++
        [{ pass := x, cands := cs.map Cand.serial, carry := if feedback then carryCopy e x.pos else [] }] }
    | some 3 =>
      let s := modCnt s p fun c => { c with unresolved := satAdd c.unresolved cs.length }
      if (s.part p).backlogPeriod then s
      else reportLead (s.modPart p fun q => { q with backlogPeriod := true }) p evAlarmBacklogFull [(1, p), (4, 1)]
    | _ => s

/-! ### Commit of one pass (R133, R135, R139) -/

/-- Confirm bits of the words that still hold the pass's outputs (R133, R150). -/
def confirmWords (s : State) (p : Nat) (x : Pass) : State :=
  (s.part p).tiles.foldl (fun s t =>
    let bs := ((s.tile t).tags.filter fun q => match q.2 with
      | some g => g.part == p && g.pass == x.id && g.gen == x.gen
      | none => false).map Prod.fst
    if bs.isEmpty then s
    else s.modTile t fun y => { y with basin := y.basin.foldl (fun b q =>
      if bs.contains (q.1 / 16) then tset {} b q.1 { q.2 with confirm := true } else b) y.basin }) s

/-- The governor counts a committed pass (R139, R143). FBG_PASSES counts those of a model with no Tarn-placed layer as well, of which nothing
else here takes note (R137, log entry 198). -/
def governor (s : State) (p : Nat) (x : Pass) : State :=
  let nt := (tarnLayers s p x.slot).length
  let nf := ((x.fellBack.map Prod.fst).eraseDups).length
  let s := s.modPart p fun q => { q with fbgPasses := wrapAdd q.fbgPasses 1 }
  if nt = 0 then s
  else
    let bad := decide (nt < 2 * nf)
    let all := decide (nt ≤ nf)
    s.modPart p fun q => { q with
      run := if bad then Nat.min (q.run + 1) 256 else 0
      okRun := if bad then 0 else q.okRun + 1
      allFbLast := all
      fbgAllFb := if all then satAdd q.fbgAllFb 1 else q.fbgAllFb
      fbHist := (q.fbHist ++ [(nf, nt)]).drop ((q.fbHist.length + 1) - 256) }

/-- The committed length of a sequence advances to `len` (R135 step 4): SPEC flags clear and completed pages get their
summaries (R223, R233). -/
def advance (s : State) (p k e len : Nat) : State :=
  let old := (s.entry e).committed
  let s := setDescs s p e false (((s.entry e).pages.filter fun d => d.2.spec && decide (64 * d.1 < len)).map fun d => (d.1, { d.2 with spec := false }))
  let s := s.modEntry e fun x => { x with committed := len, tLast := s.now }
  ((List.range (len / 64 - old / 64)).map (old / 64 + ·)).foldl (fun s g => writeSummary s p k e g) s

/-- Empty every page whose first position lies at or above the committed length (R241, R242). -/
def rejectPages (s : State) (p e : Nat) : State :=
  let x := s.entry e
  let ps := (x.pages.filter fun d => d.2.valid && decide (x.committed ≤ 64 * d.1)).map Prod.fst
  let s := trimIndex (ps.foldl (fun s g => emptyPage s p x.slot e g) s) p x.slot e
  let s := modPool s p x.slot fun k => { k with specReturn := satAdd k.specReturn ps.length }
  s.modEntry e fun y => { y with length := y.committed }

/-- A check of a pass is queued on some tile of its partition. -/
def checkQueued (s : State) (p pass : Nat) : Bool := (s.part p).tiles.any fun t => (s.tile t).checks.any fun c => c.part == p && c.pass == pass

/-- Drop passes from the partition, with the fine counts kept for them that no queued check compares. -/
def dropPasses (s : State) (p : Nat) (ids : List Nat) : State :=
  let f := fun k : Kept => k.part == p && ids.contains k.pass && !checkQueued s p k.pass
  let s := (s.part p).tiles.foldl (fun s t => s.modTile t (forgetTile f)) s
  s.modPart p fun q => { q with passes := q.passes.filter fun x => !ids.contains x.id }

/-- One of an item's opened passes ends. -/
def passDone (s : State) (e id : Nat) : State := modItem s e id fun i => { i with open_ := i.open_ - 1 }

/-- Complete a removed item with its last opened pass (R259). -/
def settleRemoved (s : State) (p e id : Nat) : State :=
  match findItem s e id with
  | none => s
  | some i => match i.removal with
    | some r => if i.open_ = 0 then finishItem s p e id r false false else s
    | none => s

/-- The item of a committed SCORE pass (R268, R379, R383). -/
def scoreItem (s : State) (p : Nat) (x : Pass) : State × Bool :=
  match findItem s x.entry x.item with
  | none => (s, false)
  | some i =>
    let miss := match i.deadline with | some d => decide (d < s.now) | none => false
    let s := if i.lost then s else addHist s p 0 x.cls (s.now - i.arrival)
    let s := if miss then recordMiss s p x.entry 0 x.cls (s.now - i.deadline.getD 0) else s
    let n := x.scores.length
    let ws := if i.result = 0 then []
      else ((List.range n).zip x.scores).map fun q => (i.result + 4 * (i.done * n + q.1), toLe 4 q.2)
    let s := modItem s x.entry x.item fun i => { i with
      done := i.done + 1, open_ := i.open_ - 1, missed := i.missed || miss, tCommit := s.now
      score := x.scores.getD 0 0x7FC00000, writes := i.writes ++ ws }
    let i := (findItem s x.entry x.item).getD i
    let s := settleRemoved s p x.entry x.item
    (if i.removal.isNone && i.left.isEmpty && i.open_ = 0 then finishItem s p x.entry x.item 0 false false else s, miss)

/-- The item of a committed DECODE pass outside a verify step (R275, R279): a NaN top ends it, the last prompt token and each
generated token yield one. -/
def decodeItem (s : State) (p : Nat) (x : Pass) : State :=
  match findItem s x.entry x.item with
  | none => s
  | some _ =>
    let s := modItem (passDone s x.entry x.item) x.entry x.item fun i => { i with tCommit := s.now }
    match findItem s x.entry x.item with
    | none => s
    | some i =>
      if i.removal.isSome then
        settleRemoved (if x.promptTok || topNan x then s else yieldTokens p x.entry x.item [topTok x] s) p x.entry x.item
      else if topNan x then removeItem s p x.entry x.item 0x0316
      else if x.promptTok && !(i.left.isEmpty && i.open_ = 0) then s
      else
        let e := s.entry x.entry
        let s := if !x.promptTok && e.partnerValid && !e.draft then
            s.modEntry x.entry fun y => { y with probe := Nat.min (y.probe + 1) 64 }
          else s
        yieldTokens p x.entry x.item [topTok x] s

/-- How many proposals a verify step accepts (R277). -/
def accepted : List Nat → List Nat → Nat
  | y :: ys, m :: ms => if y = m then 1 + accepted ys ms else 0
  | _, _ => 0

/-- The governor of speculation after a step (R279). -/
def specGovern (x : Entry) (depthMax a : Nat) (probe : Bool) : Entry :=
  if probe then
    (if 1 ≤ a then { x with specDepth := depthMax, zeroRun := 0, probe := 0 } else { x with specDepth := 0, probe := 0 })
  else if 1 ≤ a then { x with zeroRun := 0 }
  else { x with zeroRun := Nat.min (x.zeroRun + 1) 4 }

/-- A verify step whose item was removed before a main pass opened ends with its draft passes (R259, R277): it yields nothing, and their
positions are rejected (log entry 223). -/
def dropVerify (s : State) (p e : Nat) : State :=
  let x := s.entry e
  let s := (e :: (if x.partnerValid then [x.partner] else [])).foldl (fun s n => rejectPages s p n) s
  s.modEntry e fun x => { x with verify := none }

/-- VERIFY_STEP_END (R277, R278): the passes of the step have committed at length `L`′ in both entries, and its tokens are
yielded. -/
def endVerify (s : State) (p e : Nat) (v : Verify) (mains drafts : List Pass) : State :=
  let x := s.entry e
  let ys := drafts.map topTok
  let ms := mains.map topTok
  let d := mains.length
  let a := Nat.min d (accepted ys ms)
  let toks := ys.take a ++ (if a < d then [ms.getD a 0] else [])
  let len := v.start + (if a < d then a + 1 else d)
  let id := ((mains.head?).map Pass.item).getD 0
  let s := (e :: (if x.partnerValid then [x.partner] else [])).foldl (fun s n =>
    rejectPages (advance s p (s.entry n).slot n len) p n) s
  let s := modCnt s p fun c => { c with
    verify := wrapAdd c.verify 1, proposed := wrapAdd c.proposed d, accept := wrapAdd c.accept a }
  let s := s.modEntry e fun x => specGovern { x with verify := none } (s.part p).serv.depthMax a v.probe
  let s := modItem s e id fun i => { i with open_ := i.open_ - d, tCommit := s.now }
  let nan := a < d && (match mains[a]? with | some m => topNan m | none => false)
  let s := yieldTokens p e id (if nan then ys.take a else toks) s
  let s := if nan then (match findItem s e id with
      | some i => if i.removal.isNone then removeItem s p e id 0x0316 else s
      | none => s)
    else s
  settleRemoved s p e id

/-! ### Failure (R23, R134, R242, R451) -/

/-- Items of failed passes end (R23): the first with its pass's reason, the later with PASS_FAILED; a removed item keeps its
removal reason (R259). -/
def failItems (s : State) (p e : Nat) (xs : List Pass) : State :=
  let ids := (xs.map Pass.item).eraseDups
  let first := ((xs.head?).map Pass.item).getD 0
  let why := ((xs.head?).bind Pass.poison).getD reasonPassFailed
  ids.foldl (fun s id =>
    match findItem s e id with
    | none => s
    | some i => finishItem s p e id (i.removal.getD (if id = first then why else reasonPassFailed)) false false) s

/-- Fail passes of a sequence from position `pos` on: they leave, provisional pages return, items end. -/
def failFrom (s : State) (p e pos : Nat) (poison : Option Nat) : State :=
  let xs := (passesOf s p e).filter fun x => decide (pos ≤ x.pos)
  let xs' := match xs with | x :: r => { x with poison := (x.poison.orElse fun _ => poison) } :: r | [] => []
  let s := dropPasses s p (xs.map Pass.id)
  let s := rejectPages (s.modEntry e fun x => { x with verify := none }) p e
  if (s.entry e).draft then s else failItems s p e xs'

/-- A group fails with every later pass of its sequences (R23, R276, R278). -/
def failGroup (s : State) (p : Nat) (g : List Pass) : State :=
  let why := g.findSome? Pass.poison
  let es := (g.map Pass.entry).eraseDups
  let es := es ++ (es.filterMap fun e => let x := s.entry e; if x.partnerValid then some x.partner else none).filter fun e => !es.contains e
  let n := ((s.part p).passes.filter fun x => es.contains x.entry).length
  let s := es.foldl (fun s e =>
    let pos := ((g.filter fun x => x.entry == e).map Pass.pos).min?.getD (((g.map Pass.pos).min?).getD 0)
    failFrom s p e pos why) s
  if n = 0 then s else progress s p

end Sys2Proof.Machine
end

