-- ==== Sys2Proof/Machine/Alarms.lean ====
section
/-! DEFINITION. Alarms and evidence (R280 to R294): CONFIRM_START, CONFIRM_END and ALARM_RELEASE. -/

namespace Sys2Proof.Machine

/-! ### Confirmation (R281, R282, R285, R291) -/

/-- Recomputations running (R296 CONFIRM_RUN). -/
def confirmRunning (q : Part) : Nat := (q.backlog.filter Backlog.running).length

/-- Start the first entry that does not run, in commit order. -/
def startFirst : List Backlog → List Backlog
  | [] => []
  | b :: bs => if b.running then b :: startFirst bs else { b with running := true } :: bs

/-- The first entry that does not run. -/
def nextBacklog (q : Part) : Option Backlog := q.backlog.find? fun b => !b.running

/-- The recomputation of a committed pass (R230, R281, R282, R285): a pass in reference mode of the same token, position and variant, with the
carry vectors that its backlog entry copied. It draws no seed and writes no KV. -/
def recompute (s : State) (p id : Nat) (b : Backlog) : Pass :=
  { id := id, slot := b.pass.slot, entry := b.pass.entry, item := b.pass.item, pos := b.pass.pos, token := b.pass.token, cls := b.pass.cls
    opened := s.now, ref := true, sLog2 := (s.part p).serv.chkS, chkT := (s.part p).serv.chkT, chkM := (s.part p).serv.chkM
    variant := b.pass.variant, imageId := b.pass.imageId, epoch := b.pass.epoch, confirm := some b.pass.id, carryIn := b.carry }

/-- CONFIRM_START (R282): the next backlog entry in commit order starts while fewer than CONFIRM_SLOTS + 1 run; the tiles of its image
recompute the pass. -/
def execConfirmStart (p now : Nat) (s : State) : Out :=
  guarded (instrWellFormed (.confirmStart p now))
    (let s := s.setNow now
     let q := s.part p
     match nextBacklog q with
     | none => s
     | some b =>
      if q.state != .running || decide (q.serv.confirmSlots < confirmRunning q) || (planOf s p b.pass.slot).isNone then s
      else
        let x := recompute s p q.nextPass b
        assignCtxs (s.modPart p fun q => { q with
          backlog := startFirst q.backlog, recomps := q.recomps ++ [x], nextPass := q.nextPass + 1 }) p b.pass.slot)

/-- The address of a byte of the BAR2 window (R371): host-visible granules in record order. -/
def bar2Addr (s : State) (p off : Nat) : Option Nat :=
  (((granulesOf s p).filter fun g => g.role == 4)[off / granBytes]?).map fun g => g.g * granBytes + off % granBytes

/-- Write bytes through the BAR2 window, in pieces that stay inside a granule. -/
def bar2Write (s : State) (p off : Nat) (bs : List Byte) : State :=
  let n := granBytes - off % granBytes
  let s := match bar2Addr s p off with | some a => dramWrite s a (bs.take n) false | none => s
  if bs.length ≤ n then s
  else match bar2Addr s p (off + n) with | some a => dramWrite s a (bs.drop n) false | none => s

/-- A capture (R291): every stream preceded by its length. -/
def captureBytes (streams : List (List Byte)) : List Byte := (streams.map fun b => toLe 4 b.length ++ b).flatten

/-- Write a capture into the next slot of the area, or skip it (R291). The area starts at offset 0 of the window (log
entry 28). -/
def writeCapture (s : State) (p serial : Nat) (streams : List (List Byte)) : State × Option (Nat × Nat) :=
  let v := (s.part p).serv
  if !v.capture || v.captSlots == 0 then (s, none)
  else
    let bs := captureBytes streams
    if v.captMib * 2 ^ 20 < bs.length then
      let s := modCnt s p fun c => { c with captSkip := satAdd c.captSkip 1 }
      (reportLead s p evCaptureSkip [(1, p), (8, serial), (4, bs.length)], none)
    else
      let n := (s.part p).captNext % v.captSlots
      let s := bar2Write s p (n * v.captMib * 2 ^ 20) bs
      (s.modPart p fun q => { q with captNext := (n + 1) % v.captSlots }, some (n, bs.length))

/-- The status of a candidate from the recomputation's score of its class (R280, R281). -/
def refStatus (y : Pass) (c : Cand) : Nat × Nat :=
  if y.poison.isSome then (3, 0x7FC00000)
  else
    let r := y.scores.getD c.cls 0x7FC00000
    if f32IsNan r then (2, 0x7FC00000) else (if f32Ge r c.thresh then 1 else 2, r)

/-- Resolve a candidate of a pass that has been recomputed: score, panels and digest become the recomputation's (R281, R288, R290). -/
def resolveCand (s : State) (y : Pass) (capt : Option (Nat × Nat)) (c : Cand) : Cand :=
  let r := refStatus y c
  if r.1 = 3 then { c with status := some 3, resolve := s.now, capture := capt }
  else { c with status := some r.1, resolve := s.now, scoreRef := r.2, panels := y.panels, capture := capt
                digest := (y.digests.map Prod.snd).foldl (· ^^^ ·) 0 }

/-- The read streams of a recomputation in pair order (R290). -/
def pairStreams (s : State) (p : Nat) (y : Pass) : List (List Byte) :=
  match kvOf s p y.slot with
  | some v => (List.range v.pairs.length).map fun i => tget [] y.streams i
  | none => []

/-- The recomputation that runs for a backlog entry. -/
def recompOf (q : Part) (b : Backlog) : Option Pass := q.recomps.find? fun y => y.confirm == some b.pass.id

/-- CONFIRM_END (R281, R291): the recomputation of backlog entry `idx` has resolved its last step; every crossing class is compared, the
capture is written, the pin clears. -/
def execConfirmEnd (p idx now : Nat) (s : State) : Out :=
  guarded (instrWellFormed (.confirmEnd p idx now))
    (let s := s.setNow now
     let q := s.part p
     match q.backlog[idx]?, q.backlog[idx]?.bind (recompOf q) with
     | some b, some y =>
      if !b.running || q.state != .running || y.walking != 0 || !allResolved s p y then s
      else
        let mine := fun c : Cand => b.cands.contains c.serial && c.entry == b.pass.entry && c.status.isNone
        let (s, capt) := writeCapture s p (b.cands.headD 0) (pairStreams s p y)
        let cs := (q.cands.filter mine).map fun c => (refStatus y c, c)
        let s := s.modPart p fun q => { q with
          backlog := q.backlog.eraseIdx idx, backlogPeriod := false, recomps := q.recomps.filter fun z => z.id != y.id
          cands := q.cands.map fun c => if mine c then resolveCand s y capt c else c }
        let s := modCnt s p fun c => { c with
          suppress := satAdd c.suppress (cs.filter fun q => q.1.1 == 2).length
          unresolved := satAdd c.unresolved (cs.filter fun q => q.1.1 == 3).length
          nan := satAdd c.nan (cs.filter fun q => q.1.1 == 2 && f32IsNan q.1.2).length }
        progress s p
     | _, _ => s)

/-! ### The evidence record (R286 to R290) -/

/-- A panel of a record (R288). -/
def panelBytes (s : State) (p : Nat) (c : Cand) (cfg : Nat × Nat × Nat) : List Byte :=
  let (layer, qh, k) := cfg
  let g := ((layerOf s p c.pass.slot layer).map groupHeads).getD 1
  let d := c.panels.find? fun x => x.layer == layer && x.qhead == qh
  let top := ((d.map PanelData.probs).getD []).take k
  let pages := ((d.map PanelData.pages).getD []).take 64
  [BitVec.ofNat 8 layer, BitVec.ofNat 8 qh, BitVec.ofNat 8 (qh / Nat.max 1 g), BitVec.ofNat 8 top.length,
   BitVec.ofNat 8 pages.length, 0, 0, 0] ++
  ((List.range 16).map fun i => toLe 4 ((top[i]?.map Prod.fst).getD 0xFFFFFFFF)).flatten ++
  ((List.range 16).map fun i => toLe 2 ((top[i]?.map Prod.snd).getD 0x7FC0)).flatten ++
  ((List.range 64).map fun i => toLe 4 (pages.getD i 0xFFFFFFFF)).flatten ++ List.replicate 24 0

/-- The record describes the reference recomputation (R288, R289): status 1 or 2. -/
def descRef (st : Nat) : Bool := st == 1 || st == 2

/-- The replay token (R289). -/
def replayToken (s : State) (p : Nat) (c : Cand) (st : Nat) (taint : Bool) : List Byte :=
  let x := c.pass
  let order := ((planOf s p x.slot).map Plain.order).getD 0
  let v := kvOf s p x.slot
  let fb := (v.map KvParams.feedback).getD false
  let rt := (v.map KvParams.retrieve).getD false
  let sk := (v.map KvParams.sink).getD false
  let w := (v.map KvParams.w).getD 0
  let pp := (v.map KvParams.p).getD 0
  toLe 4 x.imageId ++ toLe 2 x.epoch ++
  [BitVec.ofNat 8 (1 + 8 * order + 16 * b2n (descRef st || x.ref) + 32 * b2n fb + 64 * b2n rt + 128 * b2n sk),
   BitVec.ofNat 8 (x.variant + 16 * b2n taint + 32 * b2n c.capture.isSome)] ++
  toLe 4 (x.pos + 2 ^ 26 * (w % 32)) ++ toLe 4 (x.token + 2 ^ 18 * (pp % 128)) ++ toLe 8 c.seqId ++ toLe 8 c.digest

/-- The layers of a pass that replayed, for trouble of its own (R129) or with an earlier pass (R23). -/
def replays (x : Pass) : List Nat := (x.replayed ++ x.later).eraseDups

/-- FLAGS of a record (R136, R287). -/
def recordFlags (c : Cand) (st : Nat) (taint narr : Bool) : Nat :=
  b2n (!(replays c.pass).isEmpty) + 2 * b2n (!c.pass.fellBack.isEmpty) + 4 * b2n c.pass.thermal + 8 * b2n taint + 16 * st +
    64 * b2n c.missed + 128 * b2n c.capture.isSome + 256 * b2n narr

/-- An evidence record (R286). -/
def alarmRecord (s : State) (p : Nat) (c : Cand) (st : Nat) (narr : Bool) : List Byte :=
  let v := (s.part p).serv
  let x := c.pass
  let taint := s.lantern.taint
  let n := v.nPanel
  toLe 2 (128 + 384 * n) ++ [0x01, BitVec.ofNat 8 (1 + 16 * n)] ++ toLe 4 c.entry ++
  [BitVec.ofNat 8 p, BitVec.ofNat 8 c.cls] ++ toLe 2 (recordFlags c st taint narr) ++ toLe 4 c.serial ++ toLe 8 c.seqId ++
  toLe 4 x.pos ++ toLe 4 c.score ++ toLe 4 (if descRef st then c.scoreRef else 0x7FC00000) ++ toLe 4 c.thresh ++
  toLe 4 x.imageId ++ toLe 2 x.epoch ++ [BitVec.ofNat 8 x.variant, 0] ++ toLe 8 x.arrival ++ toLe 8 c.tCommit ++
  toLe 8 c.resolve ++ replayToken s p c st taint ++ toLe 2 (replays x).length ++
  toLe 2 ((x.fellBack.map Prod.fst).eraseDups).length ++ toLe 4 ((c.capture.map Prod.fst).getD 0) ++
  toLe 4 ((c.capture.map Prod.snd).getD 0) ++ List.replicate 12 0 ++
  ((List.range n).map fun i => panelBytes s p c (tget (0, 0, 0) v.panels i)).flatten

/-! ### Narratives (R292) -/

/-- ⌊score × 16⌋ clamped to 0–15. -/
def scoreBin (code : Nat) : Nat :=
  match decFP32 code with
  | .fin false a b => Nat.min 15 (16 * a / b)
  | .inf false => 15
  | _ => 0

/-- Start the narrative of a released alarm (R292), or count it as skipped. -/
def startNarrative (s : State) (p : Nat) (c : Cand) (st : Nat) : State × Bool :=
  let v := (s.part p).serv
  let skip := (modCnt s p fun c => { c with narrSkip := satAdd c.narrSkip 1 }, false)
  match lowestFree s p, planOf s p v.narrSlot with
  | some e, some pl =>
    (match openEntry s p e { seqId := c.seqId, cls := v.narrCls, slot := v.narrSlot, ref := v.narrRef, narrative := true } with
    | .error _ => skip
    | .ok s =>
      let sc := if st = 1 then c.scoreRef else c.score
      let prompt := pl.narrPrefix.getD [] ++
        [pl.classTokens.getD c.cls 0, pl.binTokens.getD (scoreBin sc) 0, c.pass.token]
      let id := (s.part p).nextItem
      let item : Item := { id := id, kind := .decode, left := prompt, arrival := s.now, limit := v.narrMax, stop := pl.stop
                           narr := some c.serial }
      let s := s.modPart p fun q => { q with nextItem := id + 1 }
      let s := s.modEntry e fun x => { x with queue := x.queue ++ [item] }
      (modCnt s p fun c => { c with narr := wrapAdd c.narr 1 }, true))
  | _, _ => skip

/-! ### Release (R284, R294) -/

/-- Take a candidate off the list of those waiting for release. -/
def dropCand (s : State) (p serial : Nat) : State :=
  s.modPart p fun q => { q with cands := q.cands.filter fun c => c.serial != serial }

/-- ALARM_RELEASE (R284, R286, R292, R294): the resolved candidate with serial `cand`, once no earlier one of its sequence waits,
writes its evidence record, queues its egress and may start a narrative. -/
def execAlarmRelease (p cand now : Nat) (s : State) : Out :=
  guarded (instrWellFormed (.alarmRelease p cand now))
    (let s := s.setNow now
     match (s.part p).cands.find? fun c => c.serial == cand with
     | none => s
     | some c =>
      match c.status with
      | none => s
      | some st =>
        let earlier := ((s.part p).cands.takeWhile fun d => d.serial != cand).any fun d => d.entry == c.entry && d.seqId == c.seqId
        if earlier then s
        else
          let v := (s.part p).serv
          let s := dropCand s p cand
          let released := st == 0 || st == 1
          let (s, narr) := if released && v.narrEnable then startNarrative s p c st else (s, false)
          let r := alarmRecord s p c st narr
          if released then
            let s := modCnt s p fun c => { c with release := wrapAdd c.release 1 }
            let s := if v.ring then spoolAdd s p r else s
            if v.feed then sendRecord s p v.port r else s
          else spoolAdd s p r)

end Sys2Proof.Machine
end

