-- ==== Sys2Proof/Machine/Commit.lean ====
section
/-! DEFINITION. Committing and failing passes (R133 to R139, R240 to R242, R268, R275 to R282): PASS_COMMIT, SPEC_CUT, SPEC_PROBE,
ARRAY_DEGRADED and ARRAY_RECOVERED. -/

namespace Sys2Proof.Machine

/-- Commit one pass outside a verify step (R135): its length, its item and its candidates. A draft pass has no item of its
own. -/
def commitOne (s : State) (p : Nat) (x : Pass) : State :=
  let s := advance s p x.slot x.entry (x.pos + 1)
  let s := governor (confirmWords s p x) p x
  if (s.entry x.entry).draft then s
  else match (findItem s x.entry x.item).map Item.kind with
    | some .decode => decodeItem s p x
    | some .score =>
      let r := scoreItem s p x
      makeCandidates r.1 p x r.2
    | none => s

/-- Commit a group (R135, R276, R278). -/
def commitPasses (s : State) (p : Nat) (g : List Pass) : State :=
  let s := progress (dropPasses s p (g.map Pass.id)) p
  match g.find? fun x => x.verify with
  | some x =>
    let e := s.entry x.entry
    let m := if e.draft then e.partner else x.entry
    (match (s.entry m).verify with
    | none => s
    | some v =>
      let mains := g.filter fun y => y.entry == m
      let drafts := g.filter fun y => y.entry != m
      let s := g.foldl (fun s y => governor (confirmWords s p y) p y) s
      if mains.isEmpty then dropVerify s p m else endVerify s p m v mains drafts)
  | none =>
    -- the draft pass of a pair first: its committed length equals the main entry's when the main item ends (R276)
    ((g.filter fun x => (s.entry x.entry).draft) ++ g.filter fun x => !(s.entry x.entry).draft).foldl
      (fun s x => commitOne s p x) s

/-- PASS_COMMIT (R134, R135): the pass, with the passes that commit together with it, commits once every condition holds; a
group with a pass that consumed poison fails at its commit point. -/
def execPassCommit (p pass now : Nat) (s : State) : Out :=
  guarded (instrWellFormed (.passCommit p pass now))
    (let s := s.setNow now
     match findPass s p pass with
     | none => s
     | some x =>
      let g := commitGroup s p x
      if !firstInOrder s p g || (s.part p).resetting then s
      else if g.any fun y => y.poison.isSome && atCommitPoint s p y then failGroup s p g
      else if verifyOpen s x && g.all fun y => y.poison.isNone && atCommitPoint s p y then commitPasses s p g
      else s)

/-- SPEC_CUT (R279): four verify steps in a row with nothing accepted. -/
def execSpecCut (p entry : Nat) (s : State) : Out :=
  guarded (instrWellFormed (.specCut p entry))
    (let x := s.entry entry
     if ownsEntry s p entry && x.open_ && x.partnerValid && !x.draft && decide (4 ≤ x.zeroRun) && x.specDepth != 0 then
      modCnt (s.modEntry entry fun x => { x with specDepth := 0, probe := 0 }) p fun c => { c with cut := satAdd c.cut 1 }
     else s)

/-- SPEC_PROBE (R279): 64 tokens at depth 0 make the next step a probe at DEPTH_MAX, no deeper than the tokens left (R277). -/
def execSpecProbe (p entry : Nat) (s : State) : Out :=
  guarded (instrWellFormed (.specProbe p entry))
    (let x := s.entry entry
     match headItem x with
     | none => s
     | some i =>
      match i.nextTok with
      | none => s
      | some t =>
        if ownsEntry s p entry && x.open_ && x.partnerValid && !x.draft && x.specDepth == 0 && decide (64 ≤ x.probe) &&
          x.verify.isNone && i.kind == .decode && i.left.isEmpty && i.open_ == 0 && entryServes s p entry false &&
          entryServes s p x.partner false then
          beginVerify s entry (Nat.min (s.part p).serv.depthMax (i.limit - i.generated)) t true
        else s)

/-- The fallback fraction of the last 256 committed passes (R144): layer steps in fallback over Tarn-placed layer steps, in
units of 2⁻¹⁶, rounded under R44, where 1 shows as 0xFFFF. -/
def fbFraction (h : List (Nat × Nat)) : Nat :=
  let n := (h.map Prod.fst).sum
  let d := (h.map Prod.snd).sum
  if d = 0 then 0 else Nat.min (rneDiv (n * 65536) d) 0xFFFF

/-- ARRAY_DEGRADED (R139): RUN has reached 256. The trouble counts of the dies are kept from here on for the trouble test
(R436). -/
def execArrayDegraded (p now : Nat) (s : State) : Out :=
  guarded (instrWellFormed (.arrayDegraded p now))
    (let s := s.setNow now
     let q := s.part p
     if q.degraded || decide (q.run < 256) then s
     else
      let s := s.modPart p fun q => { q with
        degraded := true, fbgDegraded := satAdd q.fbgDegraded 1, okRun := 0
        troubleBase := s.dies.foldl (fun b d => tset 0 b d.1 d.2.trouble.toNat) [] }
      reportLead s p evArrayDegraded [(1, p), (2, fbFraction q.fbHist)])

/-- ARRAY_RECOVERED (R139): 4,096 consecutive committed passes with at most half of their layers in fallback. -/
def execArrayRecovered (p now : Nat) (s : State) : Out :=
  guarded (instrWellFormed (.arrayRecovered p now))
    (let s := s.setNow now
     let q := s.part p
     if !q.degraded || decide (q.okRun < 4096) then s
     else reportLead (s.modPart p fun q => { q with degraded := false }) p evArrayRecovered [(1, p)])

end Sys2Proof.Machine
end

