-- ==== Sys2Proof/Machine/Edits.lean ====
section
/-! DEFINITION. Freeing entries and applying edit batches (R226, R234, R244 to R249, R262, R351): ENTRY_FREED and EDIT_APPLY. -/

namespace Sys2Proof.Machine

/-- ENTRY_FREED (R262, R351): a closing entry with no open pass and no pin returns its pages, root and carry and becomes FREE. -/
def execEntryFreed (p entry now : Nat) (s : State) : Out :=
  guarded (instrWellFormed (.entryFreed p entry now))
    (let s := s.setNow now
     if ownsEntry s p entry && freeable s p entry then freeEntry s p entry else s)

/-! ### Edit operations (R245) -/

/-- Parse an operation (R244). -/
def parseOp (w : Nat) : EditOp := { op := fld w 0 8, n := fld w 8 8, first := fld w 16 20, dest := fld w 36 20, rsv := fld w 56 8 }

/-- Parse the operations of a batch; as many as COUNT, at most seven. -/
def parseOps (bs : List Byte) : List EditOp :=
  (List.range (Nat.min 7 (byteAt bs 4))).map fun k => parseOp (leAt bs (8 + 8 * k) 8)

/-- The header fields of a batch are in range: COUNT 1–7 and reserved bits 0. -/
def batchHeadOk (bs : List Byte) : Bool :=
  decide (1 ≤ byteAt bs 4) && decide (byteAt bs 4 ≤ 7) && byteAt bs 5 == 0 && fld (leAt bs 0 4) 17 15 == 0

/-- A closed page (R245): valid and wholly below the committed length, or a hole below the page that holds committed
length − 1. -/
def closedPage (x : Entry) (j : Nat) : Bool :=
  if (tget {} x.pages j).valid then decide (64 * (j + 1) ≤ x.committed)
  else x.committed != 0 && decide (j < (x.committed - 1) / 64)

/-- Every page of a range lies in the table and meets `f`. -/
def rangeAll (first n : Nat) (f : Nat → Bool) : Bool :=
  decide (first + n ≤ 2 ^ 20) && (List.range n).all fun i => f (first + i)

/-- Build index stripes anew after pages have moved (R245): the summaries of the pages that had one are written at their new
places. -/
def rebuildIndex (s : State) (p k e : Nat) : State :=
  let x := s.entry e
  let had := (x.pages.filter fun d => d.2.valid && d.2.summary).map Prod.fst
  if had.isEmpty && x.index.isEmpty then s
  else
    let s := x.index.foldl (fun s d => if d.2.valid then returnStripe (setDesc s p e true d.1 {}) p k d.2.stripe else s) s
    let s := setDescs s p e false ((x.pages.filter fun d => d.2.summary).map fun d => (d.1, { d.2 with summary := false }))
    had.foldl (fun s g => writeSummary s p k e g) s

/-- EDIT_FREE (R245). -/
def editFree (s : State) (p e : Nat) (o : EditOp) : State :=
  let k := (s.entry e).slot
  trimIndex ((List.range o.n).foldl (fun s i => emptyPage s p k e (o.first + i)) s) p k e

/-- The page descriptors of a sequence become those of `new`: the valid ones are written first. -/
def retable (s : State) (p e : Nat) (new : Tab PageDesc) : State :=
  setDescs (setDescs s p e false new) p e false (((s.entry e).pages.filter fun d => !new.any fun q => q.1 == d.1).map fun d => (d.1, {}))

/-- EDIT_REORDER (R245): two ranges of descriptors swap. -/
def editReorder (s : State) (p e : Nat) (o : EditOp) : State :=
  let x := s.entry e
  let s := retable s p e ((List.range o.n).foldl (fun t i =>
      let a := tget {} x.pages (o.first + i)
      let b := tget {} x.pages (o.dest + i)
      tset {} (tset {} t (o.first + i) b) (o.dest + i) a) x.pages)
  rebuildIndex s p x.slot e

/-- The carry of the last committed position moves to its new slot (R245). -/
def shiftCarry (s : State) (p e old new : Nat) : State :=
  let x := s.entry e
  let a := (old + 8) % 9
  let b := (new + 8) % 9
  match kvOf s p x.slot with
  | none => s
  | some v =>
    if a = b then s
    else (x.carry.filter fun q => q.1 / 2 ^ 21 == a).foldl (fun s q => setCarry s p e v b (q.1 % 2 ^ 21 / 2) (q.1 % 2 == 1) q.2) s

/-- EDIT_SHIFT (R245): pages are freed, later descriptors move down, lengths fall by 64 N. -/
def editShift (s : State) (p e : Nat) (o : EditOp) : State :=
  let k := (s.entry e).slot
  let s := (List.range o.n).foldl (fun s i => emptyPage s p k e (o.first + i)) s
  let x := s.entry e
  let s := retable s p e (x.pages.foldl (fun t d => tset {} t (if o.first + o.n ≤ d.1 then d.1 - o.n else d.1) d.2) [])
  let s := s.modEntry e fun x => { x with length := x.length - 64 * o.n, committed := x.committed - 64 * o.n }
  rebuildIndex (shiftCarry s p e x.committed (x.committed - 64 * o.n)) p k e

/-- The last valid page, plus one. -/
def afterLast (x : Entry) : Nat := (((x.pages.filter fun d => d.2.valid).map Prod.fst).foldl (fun a j => Nat.max a (j + 1)) 0)

/-- EDIT_APPEND (R245): stripes for the pages after the last valid one. -/
def editAppend (p e : Nat) : Nat → Nat → State → State
  | 0, _, s => s
  | n + 1, page, s =>
    match takeStripe s p (s.entry e).slot with
    | some (st, s) => editAppend p e n (page + 1) (setDesc s p e false page { stripe := st, valid := true, spec := true })
    | none => editAppend p e n (page + 1) s

/-- Validate and apply one operation (R245, R246): a reason where it fails. -/
def editOne (s : State) (p e : Nat) (o : EditOp) : Except Nat State :=
  let x := s.entry e
  let sink := ((kvOf s p x.slot).map KvParams.sink).getD false
  if o.rsv ≠ 0 ∨ o.n = 0 ∨ 64 < o.n ∨ (x.stale = true ∧ o.op ≠ 1) then .error 0x0341
  else match o.op with
    | 1 => if rangeAll o.first o.n fun j => x.stale || closedPage x j then .ok (editFree s p e o) else .error 0x0341
    | 2 =>
      if rangeAll o.first o.n (closedPage x) && rangeAll o.dest o.n (closedPage x) &&
          (decide (o.first + o.n ≤ o.dest) || decide (o.dest + o.n ≤ o.first)) then .ok (editReorder s p e o)
      else .error 0x0341
    | 3 =>
      if rangeAll o.first o.n (closedPage x) && !(sink && o.first == 0) then
        let s := editShift s p e o
        -- the draft entry's lengths follow its main entry's (R276, log entry 29)
        .ok (if x.partnerValid && !x.draft then editShift s p x.partner o else s)
      else .error 0x0341
    | 4 =>
      let a := afterLast x
      if 2 ^ 20 < a + o.n then .error 0x0341
      else if unowed (s.slot p x.slot).pool < o.n then .error 0x0342
      else .ok (editAppend p e o.n a s)
    | _ => .error 0x0341

/-- Apply operations in order; the index of the one that fails, and its reason. -/
def editOps (p e : Nat) : Nat → List EditOp → State → Except (Nat × Nat) State
  | _, [], s => .ok s
  | i, o :: os, s =>
    match editOne s p e o with
    | .ok s => editOps p e (i + 1) os s
    | .error r => .error (r, i)

/-- Apply the waiting batch of an entry as a whole (R246, R247) and post its completion. -/
def applyEdit (s : State) (p e : Nat) : State :=
  match (s.entry e).edit with
  | none => s
  | some b =>
    let s := s.modEntry e fun x => { x with edit := none }
    if !batchHeadOk b.bytes then completeWith s b.host 0x0341 e 0
    else match editOps p e 0 b.ops s with
      | .error (r, i) => completeWith s b.host r e (if r = 0x0341 then i else 0)
      | .ok s => completeWith (modPool s p (s.entry e).slot fun k => { k with editCnt := wrapAdd k.editCnt 1 }) b.host 0 e 0

/-- EDIT_APPLY (R247, R283): the waiting batch of a sequence with no open pass and no pin. -/
def execEditApply (p entry now : Nat) (s : State) : Out :=
  guarded (instrWellFormed (.editApply p entry now))
    (let s := s.setNow now
     let x := s.entry entry
     let busy := !(passesOf s p entry).isEmpty || (x.partnerValid && !(passesOf s p x.partner).isEmpty)
     if !ownsEntry s p entry || !x.open_ || busy || pinned s p entry then s else applyEdit s p entry)

end Sys2Proof.Machine
end

