-- ==== Sys2Proof/Machine/OpsFeed.lean ====
section
/-! DEFINITION. Shared operations of feed ingest (R300 to R314): what a port checks and answers, the line arbiter, the field
extractor, the event encoder and the ingest shares. -/

namespace Sys2Proof.Machine

/-! ### The port (R300, R320) -/

/-- Why a port drops a frame: the counter of R320 that it adds to. -/
inductive RxDrop where
  | fcs | len | pause | l2 | ip | frag | udp | l4 | addr
  deriving DecidableEq, Repr

/-- Count a dropped frame (R300, R320). -/
def countDrop (q : FeedPort) : RxDrop → FeedPort
  | .fcs => { q with fcsErr := satAdd q.fcsErr 1 }
  | .len => { q with lenErr := satAdd q.lenErr 1 }
  | .pause => { q with pauseDrop := satAdd q.pauseDrop 1 }
  | .l2 => { q with l2Drop := satAdd q.l2Drop 1 }
  | .ip => { q with ipErr := satAdd q.ipErr 1 }
  | .frag => { q with fragDrop := satAdd q.fragDrop 1 }
  | .udp => { q with udpErr := satAdd q.udpErr 1 }
  | .l4 => { q with l4Drop := satAdd q.l4Drop 1 }
  | .addr => { q with addrDrop := satAdd q.addrDrop 1 }

/-- What a frame that passes R300 brings: a UDP datagram, a resolution request for an own address, or a multicast query. -/
inductive RxFrame where
  | dgram (d : Dgram)
  | arp (vlan : Nat) (mac sender target : Nat)
  | neigh (vlan : Nat) (mac src target : Nat)
  | igmp (vlan : Nat) (body : List Byte)
  | mld (vlan : Nat) (body : List Byte)
  | ignored
  deriving DecidableEq, Repr

/-- An address of the port: one of its unicast addresses, or a configured group (R300). -/
def ownAddr (c : PortCfg) (ip6 : Bool) (a : Nat) : Bool := a != 0 && c.addrs.contains (ip6, a)
/-- A joined group of the port. -/
def joined (c : PortCfg) (ip6 : Bool) (a : Nat) : Bool := c.groups.any fun g => g.1 == ip6 && g.2.1 == a

/-- The UDP part of a received packet (R300). -/
def rxUdp (port vlan now : Nat) (ip6 : Bool) (src dst : Nat) (l4 : List Byte) : Except RxDrop RxFrame :=
  let len := beAt l4 4 2
  if l4.length < 8 ∨ len < 8 ∨ l4.length < len then .error .udp
  else
    let u := l4.take len
    let sum := beAt u 6 2
    let bad := inetSum (pseudoHead ip6 17 src dst len ++ u) != 0xFFFF
    if (ip6 && (sum == 0 || bad)) || (!ip6 && sum != 0 && bad) then .error .udp
    else .ok (.dgram { port := port, vlan := vlan, dst6 := ip6, dst := dst, udp := beAt u 2 2, payload := u.drop 8, arrival := now })

/-- An IPv4 packet (R300): version, header length, checksum and total length, then fragments, then the address. A multicast
query is addressed to the all-systems group or to a group, and needs no joined one. -/
def rxIp4 (c : PortCfg) (port vlan now : Nat) (ip : List Byte) : Except RxDrop RxFrame :=
  let ihl := 4 * (byteAt ip 0 % 16)
  let tot := beAt ip 2 2
  if ip.length < 20 ∨ byteAt ip 0 / 16 ≠ 4 ∨ ihl < 20 ∨ ip.length < ihl ∨ inetSum (ip.take ihl) ≠ 0xFFFF ∨ tot < ihl ∨
      ip.length < tot then .error .ip
  else if beAt ip 6 2 % 16384 ≠ 0 then .error .frag
  else
    let src := beAt ip 12 4
    let dst := beAt ip 16 4
    let l4 := (ip.take tot).drop ihl
    let igmp := byteAt ip 9 == 2 && byteAt l4 0 == 0x11 && decide (8 ≤ l4.length) && inetSum l4 == 0xFFFF
    if igmp && (dst == 0xE0000001 || joined c false dst) then .ok (.igmp vlan l4)
    else if !ownAddr c false dst && !joined c false dst then .error .addr
    else if byteAt ip 9 = 17 then rxUdp port vlan now false src dst l4
    else .error .l4

/-- IPv6 extension headers. -/
def ip6Exts : List Nat := [0, 43, 50, 51, 60, 135, 139, 140, 253, 254]

/-- An IPv6 packet (R300). Neighbour solicitations go to the solicited-node group of an own address. -/
def rxIp6 (c : PortCfg) (port vlan now mac : Nat) (ip : List Byte) : Except RxDrop RxFrame :=
  let len := beAt ip 4 2
  let next := byteAt ip 6
  if ip.length < 40 ∨ byteAt ip 0 / 16 ≠ 6 ∨ ip.length < 40 + len then .error .ip
  else if next = 44 then .error .frag
  else if ip6Exts.contains next then .error .ip
  else
    let src := beAt ip 8 16
    let dst := beAt ip 24 16
    let l4 := (ip.drop 40).take len
    let icmp := next == 58 && inetSum (pseudoHead true 58 src dst len ++ l4) == 0xFFFF
    let target := beAt l4 8 16
    let solicited := 0xFF020000000000000000000100000000 + 0xFF000000 + target % 2 ^ 24
    if icmp && byteAt l4 0 == 135 && decide (24 ≤ len) && ownAddr c true target && (dst == solicited || dst == target) then
      .ok (.neigh vlan mac src target)
    else if icmp && byteAt l4 0 == 130 && decide (24 ≤ len) &&
        (dst == 0xFF020000000000000000000000000001 || joined c true dst || ownAddr c true dst) then .ok (.mld vlan l4)
    else if !ownAddr c true dst && !joined c true dst then .error .addr
    else if next = 17 then rxUdp port vlan now true src dst l4
    else if icmp && decide (130 ≤ byteAt l4 0) && decide (byteAt l4 0 ≤ 137) then .ok .ignored
    else .error .l4

/-- The tag stack of a frame (R300): its VLAN, the EtherType, the offset of the client data and the number of tags. -/
def rxTags (f : List Byte) : Option (Nat × Nat × Nat × Nat) :=
  let et := beAt f 12 2
  let bad := fun t => t == 0x8100 || t == 0x88A8
  if et = 0x88A8 then
    (if beAt f 16 2 ≠ 0x8100 ∨ bad (beAt f 20 2) then none else some (beAt f 18 2 % 4096, beAt f 20 2, 22, 2))
  else if et = 0x8100 then (if bad (beAt f 16 2) then none else some (beAt f 14 2 % 4096, beAt f 16 2, 18, 1))
  else some (0, et, 14, 0)

/-- Check a frame, FCS included (R300). A runt has no FCS to speak of and counts in LEN_ERR; a frame above the limit of its
tags counts there too. -/
def rxCheck (c : PortCfg) (port now : Nat) (frame : List Byte) : Except RxDrop RxFrame :=
  if frame.length < 64 then .error .len
  else
    let f := frame.take (frame.length - 4)
    if (crc32 f).toNat ≠ leNat (frame.drop (frame.length - 4)) then .error .fcs
    else match rxTags f with
      | none => .error (if c.mtu + 26 < frame.length then .len else .l2)
      | some (vlan, et, off, tags) =>
        if c.mtu + 18 + 4 * tags < frame.length then .error .len
        else if et = 0x8808 then .error .pause
        else if !c.vlans.contains vlan then .error .l2
        else
          let body := f.drop off
          if et = 0x0806 then
            let target := beAt body 24 4
            .ok (if beAt body 0 2 = 1 ∧ beAt body 2 2 = 0x0800 ∧ beAt body 4 2 = 0x0604 ∧ beAt body 6 2 = 1 ∧
                ownAddr c false target then .arp vlan (beAt body 8 6) (beAt body 14 4) target else .ignored)
          else if et = 0x0800 then rxIp4 c port vlan now body
          else if et = 0x86DD then rxIp6 c port vlan now (beAt f 6 6) body
          else .error .l2

/-- The VLAN as a tag: 0 is untagged. -/
def vlanTag (v : Nat) : Option Nat := if v = 0 then none else some v

/-- Send a frame from a port: padded to the minimum, with its FCS, counted in TX_FRAMES. -/
def sendFrame (s : State) (port : Nat) (f : List Byte) : State :=
  let s := s.modFport port fun q => { q with txFrames := wrapAdd q.txFrames 1 }
  s.emit (.feedTx port (withFcs (f ++ List.replicate (60 - f.length) 0)))

/-- Answer an ARP request (R300). -/
def sendArp (s : State) (port vlan mac sender target : Nat) : State :=
  let me := (s.fport port).cfg.mac
  let (s, free) := freeWord s
  sendFrame s port (etherHead free mac me (vlanTag vlan) 0x0806 ++
    be 2 1 ++ be 2 0x0800 ++ be 2 0x0604 ++ be 2 2 ++ be 6 me ++ be 4 target ++ be 6 mac ++ be 4 sender)

/-- An ICMPv6 message with its checksum. -/
def icmp6 (src dst typ : Nat) (body : List Byte) : List Byte :=
  let head := fun c => be 1 typ ++ [0] ++ be 2 c
  let len := 4 + body.length
  head (inetChecksum (pseudoHead true 58 src dst len ++ head 0 ++ body)) ++ body

/-- Answer a neighbour solicitation (R300): solicited to its sender, or to all nodes where the sender has no address. -/
def sendNeigh (s : State) (port vlan mac src target : Nat) : State :=
  let me := (s.fport port).cfg.mac
  let (s, free) := freeWord s
  let dst := if src = 0 then 0xFF020000000000000000000000000001 else src
  let dmac := if src = 0 then 0x333300000001 else mac
  let flags := if src = 0 then 0x20000000 else 0x60000000
  let m := icmp6 target dst 136 (be 4 flags ++ be 16 target ++ [2, 1] ++ be 6 me)
  sendFrame s port (etherHead free dmac me (vlanTag vlan) 0x86DD ++ ip6Head free 58 0 255 target dst m.length ++ m)

/-! ### Multicast reports (R300) -/

/-- How long an older querier counts as present: 2 × 125 s + 10 s, the defaults of RFC 3376 and RFC 3810 (log entry 31). -/
def olderQuerier : Nat := 260000000000

/-- A group record of an IGMPv3 or MLDv2 report: type, sources, group. -/
def groupRecord (ip6 : Bool) (typ group : Nat) (srcs : List Nat) : List Byte :=
  let k := if ip6 then 16 else 4
  be 1 typ ++ [0] ++ be 2 srcs.length ++ be k group ++ (srcs.map (be k)).flatten

/-- Fill reports with records so that none exceeds `limit` bytes of records. -/
def packRecords (limit : Nat) : List (List Byte) → List (List (List Byte))
  | [] => []
  | r :: rs => match packRecords limit rs with
    | [] => [[r]]
    | g :: gs => if r.length + (g.map List.length).sum ≤ limit then (r :: g) :: gs else [r] :: g :: gs

/-- The MAC of an IPv4 or IPv6 multicast group. -/
def groupMac (ip6 : Bool) (a : Nat) : Nat := if ip6 then 0x333300000000 + a % 2 ^ 32 else 0x01005E000000 + a % 2 ^ 23

/-- Send an IGMP message: TTL 1, precedence of internetwork control, Router Alert option (RFC 3376). -/
def sendIgmp (s : State) (port vlan dst : Nat) (msg : List Byte) : State :=
  let c := (s.fport port).cfg
  let (s, free) := freeWord s
  let src := ((c.addrs.find? fun a => !a.1).map Prod.snd).getD 0
  let head := fun sum => [0x46, 0xC0] ++ be 2 (24 + msg.length) ++ be 2 (fld free 0 16) ++ be 2 0 ++ [1, 2] ++ be 2 sum ++
    be 4 src ++ be 4 dst ++ be 4 0x94040000
  let s := s.modFport port fun q => { q with mcastTx := wrapAdd q.mcastTx 1 }
  sendFrame s port (etherHead free (groupMac false dst) c.mac (vlanTag vlan) 0x0800 ++ head (inetChecksum (head 0)) ++ msg)

/-- Send an MLD message: hop limit 1, Router Alert in a hop-by-hop header, from a link-local address of the port or from the
unspecified address (RFC 3810). -/
def sendMld (s : State) (port vlan dst typ : Nat) (body : List Byte) : State :=
  let c := (s.fport port).cfg
  let (s, free) := freeWord s
  let src := ((c.addrs.find? fun a => a.1 && a.2 / 2 ^ 118 == 0x3FA).map Prod.snd).getD 0
  let m := icmp6 src dst typ body
  let s := s.modFport port fun q => { q with mcastTx := wrapAdd q.mcastTx 1 }
  sendFrame s port (etherHead free (groupMac true dst) c.mac (vlanTag vlan) 0x86DD ++
    ip6Head free 0 0 1 src dst (8 + m.length) ++ [58, 0, 5, 2, 0, 0, 1, 0] ++ m)

/-- An IGMP message with its checksum. -/
def igmpMsg (typ : Nat) (rest : List Byte) : List Byte :=
  let m := fun c => be 1 typ ++ [0] ++ be 2 c ++ rest
  m (inetChecksum (m 0))

/-- Send reports for groups: `change` at link up (the group's filter mode is new), else current-state records. In a
compatibility mode each group is reported in the older version's message. -/
def sendReports (s : State) (port vlan : Nat) (ip6 change : Bool) (groups : List (Nat × List Nat)) : State :=
  let q := s.fport port
  let typ := fun (srcs : List Nat) => if change then (if srcs.isEmpty then 4 else 5) else (if srcs.isEmpty then 2 else 1)
  let recs := groups.map fun g => groupRecord ip6 (typ g.2) g.1 g.2
  if groups.isEmpty then s
  else if ip6 && decide (s.now < q.mld1) then
    groups.foldl (fun s g => sendMld s port vlan g.1 131 (be 4 0 ++ be 16 g.1)) s
  else if !ip6 && (decide (s.now < q.igmp1) || decide (s.now < q.igmp2)) then
    let t := if s.now < q.igmp1 then 0x12 else 0x16
    groups.foldl (fun s g => sendIgmp s port vlan g.1 (igmpMsg t (be 4 g.1))) s
  else if ip6 then
    (packRecords (q.cfg.mtu - 56) recs).foldl (fun s r =>
      sendMld s port vlan 0xFF020000000000000000000000000016 143 (be 2 0 ++ be 2 r.length ++ r.flatten)) s
  else
    (packRecords (q.cfg.mtu - 32) recs).foldl (fun s r =>
      sendIgmp s port vlan 0xE0000016 (igmpMsg 0x22 (be 2 0 ++ be 2 r.length ++ r.flatten))) s

/-- The groups of a port in one address family. -/
def groupsOf (c : PortCfg) (ip6 : Bool) : List (Nat × List Nat) :=
  (c.groups.filter fun g => g.1 == ip6).map fun g => g.2

/-- The groups that a query asks for: all, one, or one with sources. -/
def queried (gs : List (Nat × List Nat)) (group : Nat) (srcs : List Nat) : List (Nat × List Nat) :=
  if group = 0 then gs
  else (gs.filter fun g => g.1 == group).filterMap fun g =>
    if srcs.isEmpty then some g
    else if g.2.isEmpty then some (g.1, srcs)
    else
      let i := g.2.filter srcs.contains
      if i.isEmpty then none else some (g.1, i)

/-- Answer an IGMP query (R300): 8 bytes with a zero response code are of version 1, 8 bytes of version 2. -/
def answerIgmp (s : State) (port vlan : Nat) (m : List Byte) : State :=
  let s := if m.length = 8 then
      (if byteAt m 1 = 0 then s.modFport port fun q => { q with igmp1 := s.now + olderQuerier }
       else s.modFport port fun q => { q with igmp2 := s.now + olderQuerier }) else s
  let srcs := if 12 ≤ m.length then (List.range (beAt m 10 2)).map fun i => beAt m (12 + 4 * i) 4 else []
  sendReports s port vlan false false (queried (groupsOf (s.fport port).cfg false) (beAt m 4 4) srcs)

/-- Answer an MLD query (R300): 24 bytes are of version 1. -/
def answerMld (s : State) (port vlan : Nat) (m : List Byte) : State :=
  let s := if m.length = 24 then s.modFport port fun q => { q with mld1 := s.now + olderQuerier } else s
  let srcs := if 28 ≤ m.length then (List.range (beAt m 26 2)).map fun i => beAt m (28 + 16 * i) 16 else []
  sendReports s port vlan true false (queried (groupsOf (s.fport port).cfg true) (beAt m 8 16) srcs)

/-! ### The field extractor and the encoder (R306, R307, R311) -/

/-- Bytes of a payload that the extractor sees. -/
def visible (d : Dgram) : Nat := Nat.min d.payload.length 256

/-- A field of a message that starts at payload byte `start`. -/
def msgField (d : Dgram) (start off w : Nat) (big : Bool) : Nat :=
  if big then beAt d.payload (start + off) w else leAt d.payload (start + off) w

/-- PORTS, VLAN, DST and UDP_DST of a rule against a datagram (R306). -/
def ruleHead (c : PortCfg) (r : Rule) (d : Dgram) : Bool :=
  let dst := fun i => if i < 4 then c.addrs[i]? else (c.groups[i - 4]?).map fun g => (g.1, g.2.1)
  bitOf r.ports (d.port % 2) && (match r.vlan with | some v => v == d.vlan | none => true) &&
    (match r.dst with | some i => dst i == some (d.dst6, d.dst) | none => true) &&
    (match r.udp with | some u => u == d.udp | none => true)

/-- The rule's fields lie within the visible payload (R306). -/
def ruleFits (r : Rule) (d : Dgram) (start : Nat) : Bool :=
  let fits := fun off w => decide (start + off + w ≤ visible d)
  decide (start < visible d) && (r.terms.all fun t => t.width == 0 || fits t.off t.width) &&
    (r.keys.all fun k => k.2 == 0 || fits k.1 k.2) && (r.vals.all fun v => v.radix ≤ 1 || fits v.off v.width)

/-- The terms of a rule (R307). -/
def ruleTerms (r : Rule) (d : Dgram) (start : Nat) : Bool :=
  r.terms.all fun t => t.width == 0 || (msgField d start t.off t.width t.big &&& t.mask) == t.value

/-- The code of a value field (R311). Keys of a TABLE are the raw bytes read big-endian. -/
def valCode (tables : List EncTable) (p : Nat) (d : Dgram) (start : Nat) (v : ValField) : Nat :=
  if v.radix ≤ 1 then 0
  else match tables.find? fun t => t.part == p && t.index == v.table with
    | none => 0
    | some t =>
      if v.bin then
        let n := msgField d start v.off v.width v.big
        let x : Int := if v.signed && decide (2 ^ (8 * v.width) ≤ 2 * n) then (n : Int) - (2 ^ (8 * v.width) : Nat) else n
        (t.thresholds.filter fun y => decide (y ≤ x)).length
      else ((t.keys.find? fun k => k.1 == msgField d start v.off v.width true).map Prod.snd).getD t.dflt

/-- The token of a message (R311). -/
def tokenOf (tables : List EncTable) (r : Rule) (d : Dgram) (start : Nat) : Nat :=
  r.tokenBase + r.vals.foldr (fun v acc => valCode tables r.part d start v + v.radix * acc) 0

/-- The outcome of a partition's rules for one message: the rule that matches, and how many were skipped as truncated. -/
def ruleFor (c : PortCfg) (d : Dgram) (start : Nat) : List Rule → Option Rule × Nat
  | [] => (none, 0)
  | r :: rs =>
    if !ruleHead c r d then ruleFor c d start rs
    else if !ruleFits r d start then
      let q := ruleFor c d start rs
      (q.1, q.2 + 1)
    else if ruleTerms r d start then (some r, 0)
    else ruleFor c d start rs

/-- Offer a message to a partition (R306): it becomes a lookup, is discarded, or matches nothing. -/
def offerTo (s : State) (d : Dgram) (start : Nat) (rules : List Rule) : State × Bool :=
  match rules with
  | [] => (s, false)
  | r0 :: _ =>
    let p := r0.part
    let iod := d.port / 2
    let (hit, cut) := ruleFor (s.fport d.port).cfg d start rules
    let s := if cut = 0 then s else s.modPart p fun q => { q with ing := { q.ing with trunc := satAdd q.ing.trunc cut } }
    match hit with
    | none => (s, false)
    | some r =>
      if r.discard then (s, true)
      else
        let key := (r.keys.map fun k => slice d.payload (start + k.1) k.2).flatten
        let token := tokenOf (s.fiod iod).tables r d start
        let dl := budget d.arrival (tget 0 (s.part p).serv.dlEvent r.cls)
        let x : Lookup := { part := p, port := d.port, keyspace := r.keyspace, key := key, token := token, cls := r.cls
                            autoOpen := r.autoOpen, slot := r.slot, drop := r.drop, arrival := d.arrival, deadline := dl }
        (s.modFiod iod fun f => { f with lookups := f.lookups ++ [x] }, true)

/-- One message meets the rules of every partition on the IOD whose rules are in force (R306, R308, R412). -/
def extract (s : State) (d : Dgram) (start : Nat) : State :=
  let rules := (s.fiod (d.port / 2)).rules.filter fun r => (s.part r.part).rulesOk
  let parts := (rules.map Rule.part).eraseDups
  let r := parts.foldl (fun (a : State × Bool) p =>
    let b := offerTo a.1 d start (rules.filter fun r => r.part == p)
    (b.1, a.2 || b.2)) (s, false)
  if r.2 then r.1 else r.1.modFport d.port fun q => { q with noMatch := satAdd q.noMatch 1 }

/-- Where the messages of a datagram start (R302): `n` of them under a line's framing. A length field that is not visible
puts the next start out of sight (R306). -/
def msgStarts (l : LineCfg) (d : Dgram) : Nat → Nat → List Nat
  | 0, _ => []
  | n + 1, o =>
    let next := if l.lenWidth = 0 then o + l.stride
      else if o + l.lenOff + l.lenWidth ≤ visible d then o + msgField d o l.lenOff l.lenWidth l.lenBig + l.lenAdd
      else Nat.max o 256
    o :: msgStarts l d n next

/-- Hand a datagram's messages to the extractor in order (R302, R303). -/
def deliver (s : State) (d : Dgram) : State :=
  match d.line with
  | none => extract s d 0
  | some l => ((msgStarts l d d.count l.first).drop d.skip).foldl (fun s o => extract s d o) s

/-! ### The line arbiter (R302 to R305) -/

/-- A channel of an IOD's arbiter. -/
def channel (s : State) (iod ch : Nat) : Channel := tget {} (s.fiod iod).channels ch
/-- Change a channel. -/
def modChannel (s : State) (iod ch : Nat) (f : Channel → Channel) : State :=
  s.modFiod iod fun x => { x with channels := tmod {} x.channels ch f }

/-- A difference of sequence numbers in serial arithmetic (R303). -/
def serial (w : Nat) (a b : Nat) : Int :=
  let m := (a + 2 ^ w - b % 2 ^ w) % 2 ^ w
  if 2 ^ w ≤ 2 * m then (m : Int) - (2 ^ w : Nat) else m

/-- Messages that the ranges [a, a + n) and [b, b + k) share. -/
def overlap (w a n b k : Nat) : Nat :=
  let d := serial w b a
  (Nat.min n (d + k).toNat) - d.toNat

/-- The width in bits of a datagram's sequence numbers. -/
def seqBits (d : Dgram) : Nat := 8 * ((d.line.map LineCfg.seqWidth).getD 8)

/-- `n` messages below E from `first` on (R303, R304): late where their range was given up, duplicates otherwise. -/
def behind (s : State) (iod ch w first n : Nat) : State :=
  modChannel s iod ch fun c =>
    let l := Nat.min n (c.gone.map fun g => overlap w first n g.1 g.2).sum
    { c with late := satAdd c.late l, dup := wrapAdd c.dup (n - l) }

/-- Accept a datagram from its message `skip` on (R303). -/
def takeDgram (s : State) (iod ch : Nat) (d : Dgram) (skip : Nat) : State :=
  let s := modChannel s iod ch fun c => { c with synced := true, expect := (d.seq + d.count) % 2 ^ seqBits d }
  deliver s { d with skip := skip }

/-- Discard a channel's held datagrams as late (R303, R305). -/
def discardHeld (s : State) (iod ch : Nat) : State :=
  modChannel s iod ch fun c => { c with held := [], gone := [], late := satAdd c.late (c.held.map fun h => h.2.count).sum }

/-- The held datagram with the lowest sequence number. -/
def lowestHeld (c : Channel) : Option (Nat × Dgram) :=
  c.held.foldl (fun best h => match best with
    | none => some h
    | some b => if serial (seqBits h.2) h.2.seq c.expect < serial (seqBits b.2) b.2.seq c.expect then some h else some b) none

/-- Release held datagrams that are in order, with fuel (R304). -/
def releaseHeld (iod ch : Nat) : Nat → State → State
  | 0, s => s
  | n + 1, s =>
    let c := channel s iod ch
    match lowestHeld c with
    | none => s
    | some h =>
      let d := h.2
      let w := seqBits d
      let delta := serial w d.seq c.expect
      if 0 < delta then s
      else
        let s := modChannel s iod ch fun c => { c with held := c.held.erase h }
        if delta + d.count ≤ 0 then releaseHeld iod ch n (behind s iod ch w d.seq d.count)
        else
          let k := (-delta).toNat
          let s := if k = 0 then s else behind s iod ch w d.seq k
          releaseHeld iod ch n (takeDgram s iod ch d k)

/-- FEED_GAP for a subscribed partition (R304, R322, R389): counted, and recorded in its evidence ring. -/
def gapTo (s : State) (ch first count p : Nat) : State :=
  let s := s.modPart p fun q => { q with ing := { q.ing with gaps := satAdd q.ing.gaps 1 } }
  spoolAdd s p (eventRecord evFeedGap p s.now (pay [(1, ch), (8, first), (4, count)]))

/-- Declare a gap (R304): the range from E to the lowest held number is given up, reported, and held datagrams are released. -/
def declareGap (s : State) (iod ch : Nat) (forced : Bool) : State :=
  let c := channel s iod ch
  match lowestHeld c with
  | none => s
  | some h =>
    let first := c.expect
    let count := (serial (seqBits h.2) h.2.seq first).toNat
    let s := modChannel s iod ch fun c => { c with
      gone := c.gone ++ [(first, count)], expect := h.2.seq, gaps := satAdd c.gaps 1, gapMsgs := satAdd c.gapMsgs count
      holdOvf := if forced then satAdd c.holdOvf 1 else c.holdOvf }
    let s := report s (0x40 + iod) 0x1D evFeedGap none [(1, ch), (8, first), (4, count)]
    let s := ((List.range 64).filter (bitOf c.subs)).foldl (fun s p => gapTo s ch first count p) s
    releaseHeld iod ch 33 s

/-- Datagrams held on an IOD. -/
def heldOn (s : State) (iod : Nat) : Nat := ((s.fiod iod).channels.map fun c => c.2.held.length).sum

/-- Hold a datagram that is ahead of E, and declare the gaps that this forces (R304). -/
def holdDgram (s : State) (iod ch : Nat) (d : Dgram) : State :=
  let s := modChannel s iod ch fun c => { c with held := c.held ++ [(s.now, d)] }
  let c := channel s iod ch
  if c.hold = 0 then declareGap s iod ch false
  else if 32 < c.held.length ∨ 512 < heldOn s iod then declareGap s iod ch true
  else s

/-- Arbitrate a datagram of a channel (R303). The rule lists no field for FEED_RESYNC, so its payload is empty (R467). -/
def arbitrate (s : State) (iod ch : Nat) (d : Dgram) : State :=
  let c := channel s iod ch
  let w := seqBits d
  if !c.synced then takeDgram (discardHeld s iod ch) iod ch d 0
  else
    let delta := serial w d.seq c.expect
    if delta + d.count ≤ 0 then behind s iod ch w d.seq d.count
    else if delta < 0 then
      releaseHeld iod ch 33 (takeDgram (behind s iod ch w d.seq (-delta).toNat) iod ch d (-delta).toNat)
    else if delta = 0 then releaseHeld iod ch 33 (takeDgram s iod ch d 0)
    else if delta < 2 ^ 20 then holdDgram s iod ch d
    else
      let s := modChannel (discardHeld s iod ch) iod ch fun c => { c with resync := satAdd c.resync 1 }
      takeDgram (report s (0x40 + iod) 0x1D evFeedResync none []) iod ch d 0

/-- A datagram leaves its port for the arbiter (R302). -/
def lineMatch (s : State) (d : Dgram) : State :=
  let iod := d.port / 2
  match (s.fiod iod).lines.find? fun l => l.port == d.port % 2 && l.dstIp6 == d.dst6 && l.dst == d.dst && l.udp == d.udp with
  | none => deliver s d
  | some l =>
    if d.payload.length < l.seqOff + l.seqWidth ∨ (l.cntWidth ≠ 0 ∧ d.payload.length < l.cntOff + l.cntWidth) then
      modChannel s iod l.channel fun c => { c with short := satAdd c.short 1 }
    else
      let seq := msgField d 0 l.seqOff l.seqWidth l.seqBig
      let count := if l.cntWidth = 0 then 1 else msgField d 0 l.cntOff l.cntWidth l.cntBig
      arbitrate s iod l.channel { d with line := some l, seq := seq, count := count }

/-! ### Shares (R312 to R314) -/

/-- A partition's share on an IOD. -/
def share (s : State) (iod p : Nat) : Share := tget {} (s.fiod iod).shares p
/-- Change a share. -/
def modShare (s : State) (iod p : Nat) (f : Share → Share) : State :=
  s.modFiod iod fun x => { x with shares := tmod {} x.shares p f }

/-- Room in a share: 1,024 entries a unit (R314). -/
def shareRoom (x : Share) : Bool := decide (x.fifo.length < 1024 * x.units)

/-- ING_BUF (R322): entries in the partition's shares, summed over the IODs. -/
def ingLevel (s : State) (p : Nat) : Nat := (s.feedIods.map fun f => (tget {} f.2.shares p).fifo.length).sum

/-- The highest level is kept for the lead tile's register and for each window copy (R322, R392). -/
def notePeak (s : State) (p : Nat) : State :=
  let n := ingLevel s p
  let s := s.modPart p fun q => { q with ing := { q.ing with peak := Nat.max q.ing.peak n } }
  match (s.part p).fn with
  | none => s
  | some fn => s.modFn fn fun f => { f with win := { f.win with peak := Nat.max f.win.peak n } }

/-- Mark an entry in the lost map. -/
def markLost (s : State) (iod p e : Nat) : State := modShare s iod p fun x => { x with lost := x.lost.filter (· != e) ++ [e] }

/-- Place LOST_EVENTS tokens for the lowest-numbered marked entries while the share has room, with fuel (R313). An entry
that is no longer open, or whose image declares no such token, loses its mark only. -/
def placeMarked (iod p : Nat) : Nat → State → State
  | 0, s => s
  | n + 1, s =>
    let x := share s iod p
    match x.lost.min? with
    | none => s
    | some e =>
      if !shareRoom x then s
      else
        let s := modShare s iod p fun x => { x with lost := x.lost.filter (· != e) }
        let y := s.entry e
        match if y.open_ && ownsEntry s p e then (planOf s p y.slot).bind Plain.lostToken else none with
        | none => placeMarked iod p n s
        | some t =>
          placeMarked iod p n (modShare s iod p fun x => { x with
            fifo := x.fifo ++ [{ entry := e, token := t, cls := y.cls, arrival := s.now, lost := true }] })

/-- LOST_EVENTS tokens first (R313). -/
def placeAllMarked (s : State) (iod p : Nat) : State := placeMarked iod p (share s iod p).lost.length s

/-- An event lost by overload (R313). -/
def loseEvent (s : State) (iod p e : Nat) : State :=
  markLost (s.modPart p fun q => { q with ing := { q.ing with overload := satAdd q.ing.overload 1 } }) iod p e

/-- Place an event in the share (R312, R313), after the LOST_EVENTS tokens; the first loss of a period reports (R548). -/
def placeEvent (s : State) (iod p e : Nat) (k : Lookup) : State :=
  let s := placeAllMarked s iod p
  let x := share s iod p
  if shareRoom x then
    let s := modShare s iod p fun x => { x with
      overload := false
      fifo := x.fifo ++ [{ entry := e, token := k.token, cls := k.cls, arrival := k.arrival, lost := false, deadline := k.deadline }] }
    notePeak (s.modPart p fun q => { q with ing := { q.ing with events := wrapAdd q.ing.events 1 } }) p
  else
    let s := loseEvent s iod p e
    let s := notePeak s p
    if x.overload then s
    else report (modShare s iod p fun x => { x with overload := true }) (0x40 + iod) 0x1C evIngestOverload (some p)
      [(1, p), (4, 1)]

end Sys2Proof.Machine
end

