-- ==== Sys2Proof/Machine/OpsConf.lean ====
section
/-! DEFINITION. Reading the configuration image (R399 to R409): the checks of a copy, and the MODULE, OWNERS and PARTITION
sections as records. Reserved bytes inside records are not examined (log entry 32). -/

namespace Sys2Proof.Machine

/-! ### A copy (R401 to R403) -/

/-- A section table entry (R402): type, partition, offset, length and CRC. -/
structure Sect where
  typ : Nat
  part : Nat
  off : Nat
  len : Nat
  crc : Nat
  deriving DecidableEq, Repr

/-- The section table of an image. -/
def sectTable (img : List Byte) : List Sect :=
  (List.range (leAt img 6 2)).map fun i =>
    let a := 32 + 16 * i
    { typ := byteAt img a, part := byteAt img (a + 1), off := leAt img (a + 4) 4, len := leAt img (a + 8) 4, crc := leAt img (a + 12) 4 }

/-- The bytes of a section. -/
def sectBytes (img : List Byte) (x : Sect) : List Byte := slice img x.off x.len

/-- Two sections do not overlap. -/
def sectsApart (a b : Sect) : Bool := decide (a.off + a.len ≤ b.off) || decide (b.off + b.len ≤ a.off)

/-- No two elements of a list meet `bad`. -/
def pairwiseAll {α : Type} (ok : α → α → Bool) : List α → Bool
  | [] => true
  | x :: xs => xs.all (ok x) && pairwiseAll ok xs

/-- Header and section table within R401 and R402. -/
def headOk (img : List Byte) : Bool :=
  let n := leAt img 6 2
  let len := leAt img 8 4
  let ss := sectTable img
  slice img 0 4 == [0x59, 0x4E, 0x43, 0x46] && byteAt img 4 == 1 && decide (byteAt img 5 ≤ 3) && decide (2 ≤ n) && decide (n ≤ 66) &&
  decide (512 ≤ len) && decide (len ≤ 67108864) && decide (1 ≤ leAt img 12 4) && decide (leAt img 12 4 ≤ 0xFFFFFFFE) &&
  leAt img 24 4 == 0 && (crc32c (slice img 0 28)).toNat == leAt img 28 4 &&
  (ss.all fun x => x.off % 64 == 0 && decide (32 + 16 * n ≤ x.off) && decide (x.off + x.len + 48 ≤ len) &&
    (x.typ == 1 || x.typ == 2 || x.typ == 16 || bitOf x.typ 7) && (if x.typ = 16 then decide (x.part < 64) else x.part == 0)) &&
  pairwiseAll sectsApart ss && (ss.filter fun x => x.typ == 1).length == 1 && (ss.filter fun x => x.typ == 2).length == 1 &&
  pairwiseAll (fun a b => !(a.typ == 16 && b.typ == 16 && a.part == b.part)) ss

/-- GENERATION of a copy, 0 where the header fails (R421). -/
def imageGen (img : List Byte) : Nat := if headOk img then leAt img 12 4 else 0

/-! ### Records (R404) -/

/-- Split a section into records of type and body, with fuel; `none` where it does not end exactly. -/
def records : Nat → List Byte → Option (List (Nat × List Byte))
  | 0, bs => if bs.isEmpty then some [] else none
  | n + 1, bs =>
    let len := leAt bs 2 2
    if bs.isEmpty then some []
    else if len < 4 ∨ len % 4 ≠ 0 ∨ bs.length < len then none
    else (records n (bs.drop len)).map ((leAt bs 0 2, (bs.take len).drop 4) :: ·)

/-- Bodies of one type. -/
def bodies (rs : List (Nat × List Byte)) (t : Nat) : List (List Byte) := (rs.filter fun r => r.1 == t).map Prod.snd

/-- A body of `n` bytes takes this many in a record. -/
def padded (n : Nat) : Nat := (n + 3) / 4 * 4

/-- An address of 16 bytes (R405): IPv4 written as IPv4-mapped IPv6, `::` unused. -/
def addr16 (bs : List Byte) (off : Nat) : Bool × Nat :=
  let n := beAt bs off 16
  if n / 2 ^ 32 = 0xFFFF then (false, n % 2 ^ 32) else (true, n)

/-- A tile id of 2 bytes (R405): AD number and tile number. -/
def tileId (bs : List Byte) (off : Nat) : Nat := byteAt bs (off + 1) * 32 + byteAt bs off % 32

/-- The tiles of a RESERVE or TILES body. -/
def tileList (bs : List Byte) : List Nat := (List.range (bs.length / 2)).map fun i => tileId bs (2 * i)

/-! ### The module section (R405) -/

/-- A FEED_PORT body. -/
def parsePort (baseMac : Nat) (b : List Byte) : Nat × PortCfg :=
  let mac := beAt b 4 6
  let vl := (List.range 16).map fun i => leAt b (76 + 2 * i) 2
  (byteAt b 0, { mac := if mac = 0 then baseMac + byteAt b 0 else mac, enable := bitOf (byteAt b 1) 0, mtu := leAt b 2 2
                 addrs := (List.range 4).map fun i => addr16 b (12 + 16 * i), vlans := vl.filter (· != 0xFFFF) })

/-- A FEED_GROUP body: port, and the group with its sources. -/
def parseGroup (b : List Byte) : Nat × Bool × Nat × List Nat :=
  let g := addr16 b 4
  (byteAt b 0, g.1, g.2, if bitOf (byteAt b 1) 0 then (List.range (byteAt b 2)).map fun i => (addr16 b (20 + 16 * i)).2 else [])

/-- A LINE body: the IOD, and the line. A stride of 0 is 256. -/
def parseLine (b : List Byte) : Nat × LineCfg :=
  let d := addr16 b 8
  let byLen := bitOf (byteAt b 29) 0
  let st := byteAt b 30
  (byteAt b 0, { port := byteAt b 4, dstIp6 := d.1, dst := d.2, udp := leAt b 6 2, channel := byteAt b 5
                 seqOff := byteAt b 24, seqWidth := byteAt b 25 % 16, seqBig := !bitOf (byteAt b 25) 4
                 cntOff := byteAt b 26, cntWidth := byteAt b 27 % 4, cntBig := !bitOf (byteAt b 27) 4
                 first := byteAt b 28, stride := if byLen then 0 else if st = 0 then 256 else st
                 lenOff := if byLen then st else 0, lenWidth := if byLen then byteAt b 31 % 4 else 0
                 lenBig := !bitOf (byteAt b 31) 4, lenAdd := byteAt b 32 })

/-- A line names ports, widths and framing within R302. -/
def lineOk (b : List Byte) : Bool :=
  let l := (parseLine b).2
  decide (leAt b 2 2 < 512) && decide (l.port < 2) && (l.seqWidth == 4 || l.seqWidth == 8) && decide (l.cntWidth ≤ 2) &&
  (!bitOf (byteAt b 29) 0 || (decide (1 ≤ l.lenWidth) && decide (l.lenWidth ≤ 2)))

/-- Record sizes of the MODULE section; RESERVE varies. -/
def modSize (t : Nat) (b : List Byte) : Bool :=
  match t with
  | 1 => b.length == 4 | 2 => b.length == 8 | 3 => b.length == 108 | 4 => b.length == 84 | 5 => b.length == 36
  | 6 => b.length == 16 | 7 => b.length == padded 74 | 8 => b.length == 4 | 9 => true | _ => false

/-- No more than `n` bodies share a first byte. -/
def atMostPer (n : Nat) (bs : List (List Byte)) : Bool :=
  bs.all fun b => decide ((bs.filter fun c => byteAt c 0 == byteAt b 0).length ≤ n)

/-- Structure and fitted sites of the MODULE section. -/
def moduleOk (v : Variant) (rs : List (Nat × List Byte)) : Bool :=
  let one := fun t => (bodies rs t).length == 1
  let ports := bodies rs 3
  let iodOk := fun (b : List Byte) => iodFitted v (byteAt b 0)
  (rs.all fun r => modSize r.1 r.2) && one 1 && one 2 && one 7 && one 8 && decide ((bodies rs 9).length ≤ 1) &&
  (((bodies rs 2).flatten.take 8).all fun b => decide (1 ≤ b.toNat) && decide (b.toNat ≤ 8)) &&
  ports.length == ((List.range 12).filter (feedPortFitted v)).length && atMostPer 1 ports &&
  (ports.all fun b => feedPortFitted v (byteAt b 0) && decide (1500 ≤ leAt b 2 2) && decide (leAt b 2 2 ≤ 9216) &&
    ((List.range 16).all fun i => decide (leAt b (76 + 2 * i) 2 < 4096) || leAt b (76 + 2 * i) 2 == 0xFFFF)) &&
  atMostPer 64 (bodies rs 4) && ((bodies rs 4).all fun b => feedPortFitted v (byteAt b 0) && decide (byteAt b 2 ≤ 4)) &&
  atMostPer 512 (bodies rs 5) && (bodies rs 5).all iodOk && atMostPer 256 (bodies rs 6) && (bodies rs 6).all iodOk &&
  ((bodies rs 7).all fun b => decide (byteAt b 16 ≤ 128) && decide (byteAt b 52 ≤ 128)) &&
  ((bodies rs 8).all fun b => decide (1500 ≤ leAt b 0 2) && decide (leAt b 0 2 ≤ 3000)) &&
  ((bodies rs 9).all fun b => (tileList b).all fun t => adFitted v (t / 32))

/-- Lines and channels of the MODULE section within R302. -/
def linesOk (rs : List (Nat × List Byte)) : Bool :=
  (bodies rs 5).all lineOk && (bodies rs 6).all fun b => decide (leAt b 4 4 ≤ 100000)

/-- The MODULE section (R405), with the reason where its content fails. -/
def parseModule (v : Variant) (baseMac : Nat) (bs : List Byte) : Except Nat ModCfg :=
  match records bs.length bs with
  | none => .error 0x0135
  | some rs =>
    if !moduleOk v rs then .error 0x0135
    else if !linesOk rs then .error 0x0175
    else
      let f := fun t => (bodies rs t).headD []
      let groups := (bodies rs 4).map parseGroup
      let ports := (bodies rs 3).map fun b =>
        let q := parsePort baseMac b
        (q.1, { q.2 with groups := (groups.filter fun g => g.1 == q.1).map Prod.snd })
      .ok { ssVendor := leAt (f 1) 0 2, ssId := leAt (f 1) 2 2, fns := (List.range 8).map fun i => byteAt (f 2) i
            mpAddr := [beAt (f 7) 0 16, beAt (f 7) 36 16], mpPrefix := [byteAt (f 7) 16, byteAt (f 7) 52]
            mpGateway := [beAt (f 7) 20 16, beAt (f 7) 56 16], udp := leAt (f 7) 72 2, power := leAt (f 8) 0 2
            reserve := tileList (f 9), ports := ports, lines := (bodies rs 5).map parseLine
            channels := (bodies rs 6).map fun b => (byteAt b 0, byteAt b 1, leAt b 4 4, leAt b 8 8) }

/-! ### Owners (R406) -/

/-- The OWNERS section: records of 56 bytes, whose TYPE the spec does not give and the model does not examine (log entry 33). -/
def parseOwners (bs : List Byte) : Option (List Owner) :=
  match records bs.length bs with
  | none => none
  | some rs =>
    let os := rs.map fun r => ({ id := byteAt r.2 0, operator := bitOf (byteAt r.2 1) 0, key := slice r.2 8 48 } : Owner)
    if (rs.all fun r => r.2.length == 56) && decide (1 ≤ rs.length) && decide (rs.length ≤ 64) &&
        (os.all fun o => decide (o.id < 64) && o.key.any (· != 0)) && pairwiseAll (fun a b => a.id != b.id) os && os.any Owner.operator
    then some os else none

/-! ### A partition's section (R407, R408) -/

/-- SERVING words into fields (R143, R296, R407). Classes from N on take the threshold +∞. -/
def servOf (ws : List Nat) : ServCfg :=
  let w := fun i => ws.getD i 0
  { chkS := fld (w 0) 0 4, chkT := fld (w 0) 8 8, chkM := fld (w 0) 16 5
    passLimit := fld (w 1) 0 11, preempt := bitOf (w 1) 12, confirm := bitOf (w 1) 13, capture := bitOf (w 1) 14, confirmSlots := fld (w 1) 16 3
    dlEvent := (List.range 4).foldl (fun t i => tset 0 t i (w (2 + i))) [], dlTtft := w 6, dlTbt := w 7
    depthMax := fld (w 8) 0 4, draftSlot := fld (w 8) 4 4
    ring := bitOf (w 9) 0, feed := bitOf (w 9) 1, narrFeed := bitOf (w 9) 2, port := fld (w 9) 8 4
    narrEnable := bitOf (w 10) 0, narrRef := bitOf (w 10) 1, narrCls := fld (w 10) 2 2, narrSlot := fld (w 10) 4 4, narrMax := fld (w 10) 8 11
    nPanel := fld (w 11) 0 3
    panels := (List.range 4).foldl (fun t i => tset (0, 0, 0) t i (fld (w (12 + i)) 0 8, fld (w (12 + i)) 8 7, fld (w (12 + i)) 16 5)) []
    captSlots := fld (w 16) 0 8, captMib := fld (w 16) 8 8
    thresh := (List.range 16).foldl (fun t i => tset 0 t i (if 17 + i < ws.length then w (17 + i) else 0x7F800000)) [] }

/-- The fields of a SERVING record are in range. -/
def servOk (v : Variant) (c : ServCfg) : Bool :=
  decide (4 ≤ c.chkS) && decide (c.chkS ≤ 10) && decide (1 ≤ c.chkT) && decide (1 ≤ c.passLimit) && decide (c.passLimit ≤ 1024) &&
  decide (1 ≤ c.depthMax) && decide (c.depthMax ≤ 8) && feedPortFitted v c.port && decide (1 ≤ c.narrMax) && decide (c.narrMax ≤ 1024) &&
  decide (c.nPanel ≤ 4) && ((List.range 4).all fun i =>
    let k := (tget (0, 0, 0) c.panels i).2.2
    decide (1 ≤ k) && decide (k ≤ 16)) &&
  decide (1 ≤ c.captMib) && c.thresh.all fun t => !f32IsNan t.2

/-- A RULE body (R408). -/
def parseRule (p : Nat) (b : List Byte) : Rule :=
  let terms := (List.range 4).map fun t =>
    let a := 16 + 20 * t
    ({ off := byteAt b a, width := byteAt b (a + 1), big := !bitOf (byteAt b (a + 2)) 0, mask := leAt b (a + 4) 8, value := leAt b (a + 12) 8 } : Term)
  let vals := (List.range 4).map fun v =>
    let a := 104 + 6 * v
    let m := byteAt b (a + 2)
    ({ off := byteAt b a, width := byteAt b (a + 1), big := !bitOf m 0, signed := bitOf m 1, bin := bitOf m 2
       table := byteAt b (a + 3), radix := byteAt b (a + 4) } : ValField)
  let f := byteAt b 2
  let vl := leAt b 4 2
  { number := byteAt b 1, part := p, ports := f % 4, vlan := if bitOf vl 15 then none else some (vl % 4096)
    dst := if bitOf (byteAt b 6) 7 then none else some (byteAt b 6 % 128), udp := if bitOf (byteAt b 10) 0 then none else some (leAt b 8 2)
    terms := terms, discard := bitOf f 4, keyspace := byteAt b 7
    keys := (List.range 3).map fun k => (byteAt b (96 + 2 * k), byteAt b (97 + 2 * k)), vals := vals
    tokenBase := leAt b 12 4 % 2 ^ 18, cls := byteAt b 3 % 4, autoOpen := bitOf f 5, slot := byteAt b 3 / 16, drop := bitOf f 6 }

/-- An ENC_TABLE body (R407): its IOD and the table. -/
def parseTable (p : Nat) (b : List Byte) : Nat × EncTable :=
  let w := byteAt b 4
  let n := leAt b 6 2
  let bin := byteAt b 1 == 1
  let st := padded (w + 1)
  (byteAt b 0, { part := p, index := leAt b 2 2, bin := bin, width := w, dflt := byteAt b 5
                 keys := if bin then [] else (List.range n).map fun i => (beAt b (8 + st * i) w, byteAt b (8 + st * i + w))
                 thresholds := if bin then (List.range n).map fun i =>
                     let x := leAt b (8 + 8 * i) 8
                     if 2 ^ 63 ≤ x then (x : Int) - (2 ^ 64 : Nat) else x
                   else [] })

/-- Ascending thresholds. -/
def ascending : List Int → Bool
  | a :: b :: r => decide (a < b) && ascending (b :: r)
  | _ => true

/-- An ENC_TABLE body is within R407 and R311. -/
def tableOk (v : Variant) (b : List Byte) : Bool :=
  let t := (parseTable 0 b).2
  let n := leAt b 6 2
  iodFitted v (byteAt b 0) && decide (byteAt b 1 ≤ 1) && decide (1 ≤ t.width) && decide (t.width ≤ 8) &&
  (if t.bin then decide (n ≤ 63) && b.length == 8 + 8 * n && ascending t.thresholds
   else decide (n ≤ 4096) && b.length == 8 + padded (t.width + 1) * n)

/-- Record sizes of a PARTITION section; TILES, ENC_TABLE and SERVING vary. -/
def partSize (t : Nat) (b : List Byte) : Bool :=
  match t with
  | 0x101 => b.length == 12 | 0x102 => true | 0x103 => b.length == 8 | 0x104 => b.length == 16 | 0x105 => b.length == 8
  | 0x106 => b.length == 128 | 0x107 => decide (8 ≤ b.length) | 0x108 => b.length == 24
  | 0x109 => decide (68 ≤ b.length) && decide (b.length ≤ 132) | 0x10A => b.length == 36 | _ => false

/-- A RULE body's fields outside the list of R308 are in range. -/
def ruleOk (b : List Byte) : Bool :=
  (bitOf (byteAt b 6) 7 || decide (byteAt b 6 % 128 ≤ 67)) &&
  (List.range 4).all fun v => decide (1 ≤ byteAt b (108 + 6 * v)) && decide (byteAt b (108 + 6 * v) ≤ 64)

/-- Records of a PARTITION section within R404, R407 and R408 (check 1 of R409). -/
def partOk (v : Variant) (p : Nat) (rs : List (Nat × List Byte)) (serv : ServCfg) : Bool :=
  let count := fun t => (bodies rs t).length
  let a := (bodies rs 0x101).headD []
  (rs.all fun r => partSize r.1 r.2) && (rs.head?.map Prod.fst) == some 0x101 &&
  count 0x101 == 1 && count 0x102 == 1 && count 0x104 == 1 && count 0x109 == 1 && decide (count 0x105 ≤ 1) &&
  decide (1 ≤ count 0x103) && decide (count 0x103 ≤ 480) && decide (count 0x106 ≤ 256) && decide (count 0x107 ≤ 64) &&
  decide (count 0x108 ≤ 16) && decide (count 0x10A ≤ 12) &&
  byteAt a 0 == p && decide (byteAt a 1 < 64) && decide (10 ≤ byteAt a 8) && decide (byteAt a 8 ≤ 20) &&
  (decide (byteAt a 9 ≤ 8) || byteAt a 9 == 0xFF) &&
  ((bodies rs 0x102).all fun b => decide (4 ≤ b.length / 2) && decide (b.length / 2 ≤ 1280) && pairwiseAll (· != ·) (tileList b)) &&
  ((bodies rs 0x103).all fun b => decide (byteAt b 0 ≤ 4) && (decide (2 < byteAt b 0) || decide (byteAt b 2 < 16))) &&
  ((bodies rs 0x105).all fun b => (List.range 6).all fun i => decide (byteAt b i ≤ 128)) &&
  (bodies rs 0x106).all ruleOk && (bodies rs 0x107).all (tableOk v) &&
  ((bodies rs 0x108).all fun b => decide (byteAt b 0 < 16) && decide (leAt b 12 4 ≤ 2 ^ 24) && decide (leAt b 20 4 % 2 ^ 18 ≤ 131072)) &&
  pairwiseAll (fun x y => byteAt x 0 != byteAt y 0) (bodies rs 0x108) && servOk v serv &&
  ((bodies rs 0x10A).all fun b => feedPortFitted v (byteAt b 0) && decide (leAt b 2 2 < 4096) && decide (byteAt b 10 < 4) && decide (byteAt b 11 < 64))

/-- An ALARM_DEST body (R407). -/
def parseDest (b : List Byte) : AlarmDest :=
  { port := byteAt b 0, ip6 := bitOf (byteAt b 1) 0, vlan := if bitOf (byteAt b 1) 1 then some (leAt b 2 2) else none
    mac := beAt b 4 6, srcIdx := byteAt b 10, dscp := byteAt b 11, ttl := byteAt b 12, dst := (addr16 b 16).2
    udpSrc := leAt b 32 2, udpDst := leAt b 34 2 }

/-- A GRANULE body. -/
def parseGranule (b : List Byte) : Granule := { role := byteAt b 0, ad := byteAt b 1, slot := byteAt b 2, g := leAt b 4 2 }

/-- An IMAGE_SLOT body. -/
def parseSlot (b : List Byte) : SlotCfg :=
  { slot := byteAt b 0, loadAtStart := bitOf (byteAt b 1) 0, imageId := leAt b 4 4, epoch := leAt b 8 2
    stripes := leAt b 12 4 % 2 ^ 25, lowMark := leAt b 16 4 % 2 ^ 25, entries := leAt b 20 4 % 2 ^ 18 }

/-- A partition's section (R407), or `none` where check 1 of R409 fails. -/
def parsePart (v : Variant) (p : Nat) (bs : List Byte) : Option PartCfg :=
  match records bs.length bs with
  | none => none
  | some rs =>
    let f := fun t => (bodies rs t).headD []
    let sv := f 0x109
    let serv := servOf ((List.range (sv.length / 4)).map fun i => leAt sv (4 * i) 4)
    if !partOk v p rs serv then none
    else
      let a := f 0x101
      let bind := byteAt a 10
      let mask := leAt (f 0x104) 0 16
      let seed := BitVec.ofNat 32 (leAt a 4 4)
      some { part := p, owner := byteAt a 1, enable := bitOf (byteAt a 2) 0, hostReset := bitOf (byteAt a 2) 1, flrPart := bitOf (byteAt a 2) 2
             seed := seed, keyLog2 := byteAt a 8, bar2 := if byteAt a 9 = 0xFF then none else some (byteAt a 9)
             bind := if bitOf bind 7 then some (fld bind 4 3 * 8 + bind % 8) else none
             tiles := tileList (f 0x102), granules := (bodies rs 0x103).map parseGranule
             blocks := (List.range 128).filter (bitOf mask), shares := (List.range 6).map fun i => byteAt (f 0x105) i
             rules := (bodies rs 0x106).map (parseRule p), ruleIods := (bodies rs 0x106).map fun b => byteAt b 0
             tables := (bodies rs 0x107).map (parseTable p), slots := (bodies rs 0x108).map parseSlot
             serv := { serv with seed := lfsrSeed seed }, dests := (bodies rs 0x10A).map parseDest }

/-! ### Checking a copy (R403) -/

/-- The bytes of the first section of a type. -/
def sectOf (img : List Byte) (typ : Nat) : List Byte :=
  match (sectTable img).find? fun x => x.typ == typ with | some x => sectBytes img x | none => []

/-- The reason of a copy, 0 when it is valid (R403). An empty device is absent (R399, log entry 3). -/
def copyReason (v : Variant) (serial baseMac : Nat) (img : List Byte) : Nat :=
  let len := leAt img 8 4
  if img.isEmpty then 0x0130
  else if !headOk img then 0x0131
  else if sha384 (slice img 0 (len - 48)) != slice img (len - 48) 48 then 0x0133
  else if (sectTable img).any fun x => (crc32c (sectBytes img x)).toNat != x.crc then 0x0132
  else
    let target := byteAt img 5
    let mine := match v with | .s => 1 | .m => 2 | .n => 3
    if (target != 0 && target != mine) || (leAt img 16 8 != 0 && leAt img 16 8 != serial) then 0x0134
    else match parseModule v baseMac (sectOf img 1) with
      | .error r => r
      | .ok _ => if (parseOwners (sectOf img 2)).isNone then 0x0136 else 0

/-- The partition sections of an image. -/
def partSections (img : List Byte) : List (Nat × List Byte) :=
  ((sectTable img).filter fun x => x.typ == 16).map fun x => (x.part, sectBytes img x)

/-- The copy that R410 chooses: the valid one with the higher GENERATION, copy 0 when they are equal. -/
def chooseCopy (s : State) : Option Nat :=
  let r := fun img => copyReason s.variant s.serial s.baseMac img
  match r s.cfg.flash0, r s.cfg.flash1 with
  | 0, 0 => if imageGen s.cfg.flash0 < imageGen s.cfg.flash1 then some 1 else some 0
  | 0, _ => some 0
  | _, 0 => some 1
  | _, _ => none

/-- The image of a copy. -/
def copyImage (s : State) (n : Nat) : List Byte := if n = 0 then s.cfg.flash0 else s.cfg.flash1

end Sys2Proof.Machine
end

