-- ==== Sys2Proof/Machine/OpsFlesha.lean ====
section
/-! DEFINITION. Flesha messages (R472 to R477): their header, the tests of an accepted COMMAND, and messages of the module's
own. -/

namespace Sys2Proof.Machine

/-- A COMMAND message that was accepted: its owner, opcode, tag and body. -/
structure FlCmd where
  owner : Nat
  opcode : Nat
  tag : Nat
  body : List Byte
  deriving DecidableEq, Repr

/-- An owner, by id (R406). -/
def ownerOf (s : State) (o : Nat) : Option Owner := s.cfg.owners.find? fun x => x.id == o

/-- Change an owner. -/
def modOwner (s : State) (o : Nat) (f : Owner → Owner) : State :=
  { s with cfg := { s.cfg with owners := s.cfg.owners.map fun x => if x.id == o then f x else x } }

/-- An owner is flagged OPERATOR (R406). -/
def isOperator (s : State) (o : Nat) : Bool := ((ownerOf s o).map Owner.operator).getD false

/-- The magic bytes of a Flesha message. -/
def fleshaMagic : List Byte := [0x59, 0x4E, 0x46, 0x4C]

/-- The datagram is a Flesha COMMAND as R472 lays it out: magic, version, type, and a length that its header gives. -/
def fleshaShape (msg : List Byte) : Bool :=
  let auth := bitOf (byteAt msg 6) 7
  slice msg 0 4 == fleshaMagic && byteAt msg 4 == 1 && byteAt msg 5 == 3 && decide (leAt msg 28 2 ≤ 1372) &&
  msg.length == 32 + leAt msg 28 2 + (if auth then 48 else 0)

/-- The tests of R473. -/
def fleshaTests (s : State) (msg : List Byte) : Bool :=
  let n := 32 + leAt msg 28 2
  match ownerOf s (byteAt msg 6 % 64) with
  | none => false
  | some o =>
    bitOf (byteAt msg 6) 7 && leAt msg 8 8 == s.serial && decide (o.lastSeq < leAt msg 16 8) &&
    hmac384 o.key (msg.take n) == slice msg n 48

/-- A message with its header, SEQ and trailer (R472, R473). -/
def fleshaMsg (serial : Nat) (key : Option (List Byte)) (typ owner seq opcode tag status : Nat) (body : List Byte) : List Byte :=
  let auth := key.isSome
  let m := fleshaMagic ++ [1, BitVec.ofNat 8 typ, BitVec.ofNat 8 (owner + 128 * b2n auth), 0] ++ toLe 8 serial ++ toLe 8 seq ++
    toLe 2 opcode ++ toLe 2 tag ++ toLe 2 body.length ++ toLe 2 status ++ body
  match key with
  | some k => m ++ hmac384 k m
  | none => m

/-- Send a message to an owner's address: its SEQ rises by 1 per message and it is signed under the owner's key (R473). -/
def fleshaSend (s : State) (port addr udp owner typ opcode tag status : Nat) (body : List Byte) : State :=
  match ownerOf s owner with
  | none => s
  | some o =>
    let seq := o.outSeq + 1
    (modOwner s owner fun x => { x with outSeq := seq }).emit
      (.flesha port addr udp (fleshaMsg s.serial (some o.key) typ owner seq opcode tag status body))

/-- The RESPONSE to a COMMAND (R474). -/
def fleshaReply (s : State) (r : Reply) (status : Nat) (body : List Byte) : State :=
  fleshaSend s r.port r.addr r.udp r.owner 4 r.opcode r.tag status body

/-- Receive a datagram on a management port (R473): an accepted COMMAND raises the owner's last SEQ; one that fails a test is
dropped, counted and reported; what is no COMMAND of R472 is dropped. -/
def fleshaAccept (s : State) (port addr : Nat) (msg : List Byte) : State × Option FlCmd :=
  if !fleshaShape msg then (s, none)
  else if fleshaTests s msg then
    let o := byteAt msg 6 % 64
    (modOwner s o fun x => { x with lastSeq := leAt msg 16 8 },
     some { owner := o, opcode := leAt msg 24 2, tag := leAt msg 26 2, body := slice msg 32 (leAt msg 28 2) })
  else
    let s := { s with log := { s.log with authFail := satAdd s.log.authFail 1 } }
    (report s 0xF0 0x03 evFleshaAuthFail none [(1, port), (1, byteAt msg 6 % 64), (8, addr % 2 ^ 64)], none)

/-- The reply address of an accepted command. -/
def replyOf (c : FlCmd) (port addr udp : Nat) : Reply :=
  { port := port, addr := addr, udp := udp, owner := c.owner, opcode := c.opcode, tag := c.tag }

/-- The active MC's management port (R442: Flesha is served on its own port only; R412: on both before a failover). -/
def fleshaServed (s : State) (port : Nat) : Bool :=
  s.cfg.started && (s.fm.failovers == 0 || port == b2n s.cfg.active3)

end Sys2Proof.Machine
end

