-- ==== Sys2Proof/Machine/OpsImage.lean ====
section
/-! DEFINITION. Shared operations on images (R324 to R361): the image command, the checks of R339, the level choice of R340, what a
load takes and an unload frees, and the writing of Tarns (R344). -/

namespace Sys2Proof.Machine

/-! ### The image command (R338) -/

/-- An image command's fields. -/
structure ImgCmd where
  op : Nat
  part : Nat
  slot : Nat
  vslot : Nat
  stack : Nat
  resB : Bool
  staleClose : Bool
  imageId : Nat
  epoch : Nat
  tag : Nat
  stripes : Nat
  length : Nat
  addr : Nat
  entries : Nat
  deriving DecidableEq, Repr

/-- The fields of a command's 64 bytes. -/
def imgFields (b : List Byte) : ImgCmd :=
  { op := byteAt b 0, part := byteAt b 1 % 64, slot := byteAt b 2 % 16, vslot := byteAt b 2 / 16, stack := byteAt b 3 % 4
    resB := bitOf (byteAt b 3) 2, staleClose := bitOf (byteAt b 3) 3, imageId := leAt b 4 4, epoch := leAt b 8 2, tag := leAt b 10 2
    stripes := leAt b 12 4, length := leAt b 16 8, addr := leAt b 24 8, entries := leAt b 32 4 }

/-- A command whose reserved fields are 0 and whose OP, ENTRIES and variant slot are in range. -/
def imgCmdOk (b : List Byte) : Bool :=
  let c := imgFields b
  b.length == 64 && decide (1 ≤ c.op) && decide (c.op ≤ 9) && decide (byteAt b 1 < 64) && decide (byteAt b 3 < 16) &&
  decide (c.stripes < 2 ^ 25) && (if c.op = 4 then decide (c.entries ≤ 131072) else c.entries == 0) &&
  ((b.drop 36).all (· == 0)) && (!(c.op == 7 || c.op == 8) || decide (1 ≤ c.vslot))

/-! ### Headers and manifests (R324, R328) -/

/-- IMAGE_ID of a header. -/
def hdrId (h : List Byte) : Nat := leAt h 8 4
/-- EPOCH of a header. -/
def hdrEpoch (h : List Byte) : Nat := leAt h 12 2
/-- CHUNKS of a header. -/
def hdrChunks (h : List Byte) : Nat := leAt h 20 4
/-- PLAIN_BYTES of a header. -/
def hdrPlain (h : List Byte) : Nat := leAt h 24 8
/-- LAYOUT_DIGEST of a header. -/
def hdrLayout (h : List Byte) : List Byte := slice h 288 48
/-- Bytes of the stored image: header, ciphertext, tags. -/
def hdrStored (h : List Byte) : Nat := 512 + hdrPlain h + 16 * hdrChunks h
/-- Extents that the stored image takes (R332). -/
def hdrExtents (h : List Byte) : Nat := (hdrStored h + 2 ^ 28 - 1) / 2 ^ 28
/-- Plaintext bytes of chunk `i`. -/
def chunkLen (h : List Byte) (i : Nat) : Nat := Nat.min (2 ^ 20) (hdrPlain h - i * 2 ^ 20)

/-- The image is wrapped for this module's installation key (R325 step 1). The key cannot change once an image is stored (R6), so the other
steps, which succeeded at its INSTALL, succeed again. -/
def headerKeyed (s : State) (h : List Byte) : Bool := slice h 240 48 == s.keyId

/-- The header is as R324 lays it out. -/
def headerOk (h : List Byte) : Bool :=
  let n := hdrChunks h
  let variant := byteAt h 5 == 2
  h.length == 512 && slice h 0 4 == [0x59, 0x4E, 0x49, 0x4D] && byteAt h 4 == 1 && (byteAt h 5 == 1 || variant) && leAt h 6 2 == 512 &&
  hdrId h != 0 && hdrEpoch h != 0 && decide (1 ≤ n) && decide (n ≤ 262144) && decide ((n - 1) * 2 ^ 20 + 1 ≤ hdrPlain h) &&
  decide (hdrPlain h ≤ n * 2 ^ 20) && (variant || (leAt h 36 4 == 0 && leAt h 40 2 == 0)) && byteAt h 48 == 4 &&
  (h.drop 336).all (· == 0)

/-- Two sections overlap. -/
def sectOverlap (a b : Nat × Nat × Nat) : Bool :=
  decide (a.2.1 < b.2.1 + b.2.2) && decide (b.2.1 < a.2.1 + a.2.2) && a.2.2 != 0 && b.2.2 != 0

/-- No two members of a list are related by `r`. -/
def noPair {α : Type} (r : α → α → Bool) : List α → Bool
  | [] => true
  | x :: xs => (xs.all fun y => !r x y) && noPair r xs

/-- Some level places a matrix on Tarns. -/
def anyPlaced (x : Plain) : Bool := x.levels.any fun l => !l.layers.isEmpty

/-- Section types that the image needs (R328). -/
def sectNeeds (x : Plain) (kind : Nat) : List Nat :=
  if kind = 2 then [0x0B]
  else [1, 2, 3, 6, 7, 9] ++ (if anyPlaced x then [4] else []) ++
    (if x.layers.any fun l => l.fsPpm != 0 then [5] else []) ++ (if x.layers.any fun l => l.typ == 5 then [8] else [])

/-- The PLACEMENT and DELTA_CAP sections are as R331 and R273 lay them out: 1 to 8 levels, each of 1 to 4 replicas and each placing more
layers than the one before, and caps within their ranges. One that is not is a malformed manifest (log entry 210). -/
def placementOk (x : Plain) : Bool :=
  decide (1 ≤ x.levels.length) && decide (x.levels.length ≤ 8) && (x.levels.all fun v => decide (1 ≤ v.replicas) && decide (v.replicas ≤ 4)) &&
  ((x.levels.zip (x.levels.drop 1)).all fun q => (q.1.layers.all q.2.layers.contains) && q.2.layers.any fun l => !q.1.layers.contains l) &&
  (x.deltaCap.all fun c => decide (c.2.2.2 ≤ 16384)) && decide (x.deltaColMax ≤ 2048)

/-- The manifest holds (R328). -/
def manifestOk (x : Plain) (kind plainBytes : Nat) : Bool :=
  (kind == 2 || placementOk x) && noPair sectOverlap x.sections && (x.sections.all fun q => decide (q.2.1 + q.2.2 ≤ plainBytes) &&
    (decide (1 ≤ q.1) && decide (q.1 ≤ 0x0B) || decide (0x80 ≤ q.1))) &&
  (sectNeeds x kind).all fun t => x.sections.any fun q => q.1 == t

/-! ### Check 4 of R339 -/

/-- Layers that some level places on Tarns. -/
def everPlaced (x : Plain) (l : Nat) : Bool := x.levels.any fun v => v.layers.contains l

/-- Types whose matrices run on Tarns or CEs (R184). -/
def matrixType (t : Nat) : Bool := t == 4 || t == 9 || t == 10

/-- The formats of a matrix suit the engines of R56. -/
def matrixFmtOk (placed : Bool) (m : Matrix) : Bool :=
  let exact := decide (3 ≤ m.fmt) && decide (m.fmt ≤ 7) && decide (3 ≤ m.inFmt) && decide (m.inFmt ≤ 6)
  let fp := (m.fmt == 1 || m.fmt == 2) && (m.inFmt == 1 || m.inFmt == 2)
  !fmtReserved m.outFmt && m.outFmt != 7 &&
  (if placed then (m.fmt == 7 || m.fmt == 6 || m.fmt == 5) && (m.inFmt == 5 || m.inFmt == 4) else exact || fp)

/-- An engine instruction of a schedule names a reserved format, one outside the engine's role, or a conversion that is not performed
(R32, R34, R52, R56). -/
def instrFmtBad (w : Nat) : Bool :=
  let out := fun g => fmtReserved g || g == 7
  let f := instrFld w 104 8
  match instrFld w 0 8 with
  | 0x20 => out (instrFld w 64 4)
  | 0x2C => out (instrFld w 64 4)
  | 0x30 => fmtReserved (f % 16) || out (f / 16) || (instrFld w 96 8 == 8 && convNone (f % 16) (f / 16))
  | 0x31 => fmtReserved f
  | 0x32 => fmtReserved f
  | 0x33 => decide (2 ≤ f)
  | 0x34 => decide (2 ≤ f)
  | _ => false

/-- A list with the index of each member. -/
def indexed {α : Type} (xs : List α) : List (Nat × α) := (List.range xs.length).zip xs

/-- The first layer, or accumulation of it, that fails, in image order (R339). -/
def firstIn (x : Plain) (lb : Nat → Layer → Bool) (mb : Nat → Layer → Nat → Matrix → Bool) : Option ImgPlace :=
  (indexed x.layers).findSome? fun q =>
    if lb q.1 q.2 then some (.layer q.1)
    else ((indexed q.2.matrices).find? fun m => mb q.1 q.2 m.1 m.2).map fun m => .accum q.1 m.1

/-- The first schedule instruction that fails. -/
def firstInstr (x : Plain) (bad : Sched → Nat → Nat → Bool) : Option ImgPlace :=
  (indexed x.scheds).findSome? fun q => ((indexed q.2.instrs).find? fun w => bad q.2 w.1 w.2).map fun w => .instr q.1 w.1

/-- The image as a whole fails. -/
def wholeIf (b : Bool) : Option ImgPlace := if b then some .image else none

/-- No matrix fails. -/
def noMatrix : Nat → Layer → Nat → Matrix → Bool := fun _ _ _ _ => false

/-- 0x0210: a format outside its role (R32, R34, R52, R56, R215). -/
def fmtBad (x : Plain) : Option ImgPlace :=
  (firstIn x (fun _ l => fmtReserved l.outFmt || l.outFmt == 7 || (l.typ == 5 && !(l.qFmt == 1 || l.qFmt == 2 || l.qFmt == 3)) ||
      (l.typ == 1 && (fmtReserved l.embedFmt || convNone l.embedFmt x.residual)))
    fun i _ _ m => !matrixFmtOk (everPlaced x i) m).or
  ((firstInstr x fun _ _ w => instrFmtBad w).or
  (wholeIf (fmtReserved x.residual || x.residual == 7 || (match x.kv with
  | some v => !(v.fmt == 1 || v.fmt == 2 || v.fmt == 3 || v.fmt == 5 || v.fmt == 6)
  | none => false))))

/-- 0x0211: a scale code that no weight block or supplied scale may hold (R42, R48). -/
def scaleBad (x : Plain) : Option ImgPlace :=
  firstIn x (fun _ l => l.embedScales.any fun r => r.any fun c => !scaleOk c) fun _ _ _ m =>
    (m.scales.any fun r => r.any fun c => !scaleOk c) || (m.outliers.any fun o => !scaleOk o.scale) || m.supplied.any fun c => !suppliedScaleOk c

/-- The Tarn that a use of a schedule's set names, in the level of the schedule. -/
def useChunk (x : Plain) (d : Sched) (u : TarnUse) : Option TarnPlace :=
  ((x.levels[d.level]?).map Level.tarns).bind fun ts => ts.find? fun q => q.tile == d.tile && q.idx == u.tarn

/-- The operand sets and Tarn chunks of a matrix step that an instruction works on, as output columns (first, count), with its LA base. -/
def stepCols (x : Plain) (d : Sched) (l m w : Nat) : List (Nat × Nat) :=
  if instrFld w 0 8 = 0x21 then
    ((d.tarnSets[instrFld w 32 32]?).getD []).filterMap fun u =>
      match useChunk x d u, (x.layers[l]?).bind fun y => y.matrices[m]? with
      | some q, some mx => if q.layer = l ∧ q.matrix = m then some (q.n * weightCols mx.fmt, weightCols mx.fmt) else none
      | _, _ => none
  else if instrFld w 0 8 = 0x28 ∨ instrFld w 0 8 = 0x29 ∨ instrFld w 0 8 = 0x2A then
    ((d.opSets[instrFld w 16 16]?).toList.filter fun o => o.layer == l && o.matrix == m).map fun o => (o.col, o.cols)
  else []

/-- Output columns of a matrix step that a schedule forms on its tile. -/
def stepOutputs (x : Plain) (d : Sched) (l m : Nat) : Nat :=
  (((d.instrs.map (stepCols x d l m)).flatten.eraseDups.map fun q => (List.range q.2).map (q.1 + ·)).flatten.eraseDups).length

/-- Where the output region of a matrix step starts on a schedule's tile (R150). -/
def stepBase (x : Plain) (d : Sched) (l m : Nat) : Option Nat :=
  ((d.instrs.filter fun w => !(stepCols x d l m w).isEmpty).map fun w => instrFld w 64 32).min?

/-- Contributors of the split accumulations of a matrix (R156): the most that one home tile receives. -/
def splitMost (x : Plain) (l m : Nat) : Nat :=
  let qs := x.splits.filter fun q => q.layer == l && q.matrix == m
  (qs.map fun q => (qs.filter fun r => r.home == q.home && r.recv == q.recv).length).foldl Nat.max 0

/-- 0x0213: accumulations that do not fit by themselves (R150, R155): more than 1,024 outputs of a step of a CELL layer on a tile, an output
region of a BASIN layer that is not aligned, more than 64 contributors. -/
def accBad (x : Plain) : Option ImgPlace :=
  firstIn x (fun _ l => (l.accPlace == 0 && decide (1024 < l.outputsPerTile)) || !l.regionAligned)
    fun i l j m => decide (64 < m.contributors) || decide (64 < splitMost x i j) ||
      (if l.accPlace = 0 then x.scheds.any fun d => decide (1024 < stepOutputs x d i j)
       else x.scheds.any fun d => match stepBase x d i j with | some b => b % 16 != 0 | none => false)

/-- 0x0216: compatibility order with a split FP32 reduction (R163). -/
def orderSplit (x : Plain) : Option ImgPlace :=
  if x.order = 1 then firstIn x (fun _ _ => false) fun i _ j m =>
    m.splitFp32 || ((m.fmt == 1 || m.fmt == 2) && x.splits.any fun q => q.layer == i && q.matrix == j)
  else none

/-- Static entries that the Tarns of a level put on a tile (R107). -/
def outliersOn (x : Plain) (v : Level) (tile : Nat) : Nat :=
  ((v.tarns.filter fun q => q.tile == tile).map fun q =>
    match (x.layers[q.layer]?).bind fun l => l.matrices[q.matrix]? with
    | some m =>
      let w := weightCols m.fmt
      (m.outliers.filter fun o => o.row / 512 == q.k && o.col / w == q.n).length
    | none => 0).sum

/-- 0x0220: a tile's outlier store is full (R107). -/
def outlBad (x : Plain) : Bool :=
  x.levels.any fun v => ((v.tarns.map TarnPlace.tile).eraseDups).any fun t => decide (65536 < outliersOn x v t)

/-- 0x0231: a layer is beyond a limit of R184, R106 or R112. -/
def layerBad (x : Plain) (i : Nat) (l : Layer) : Bool :=
  let w := fun n => decide (n < l.width)
  decide (5000 < l.fsPpm) || l.fsPpm % 100 != 0 || decide (255 < l.ca) || (everPlaced x i && decide (16 < l.matrices.length)) ||
  (l.matrices.any fun m => decide (65536 < m.k) || decide (262144 < m.n)) ||
  (match l.typ with
  | 1 => w 16384 || decide (262144 < x.vocab)
  | 2 => w 16384
  | 3 => w 16384
  | 5 => !(l.headDim == 64 || l.headDim == 128) || decide (128 < l.heads) || l.kvHeads == 0 || l.heads % Nat.max 1 l.kvHeads != 0 ||
      decide (16 < l.heads / Nat.max 1 l.kvHeads)
  | 6 => w 65536 || decide (l.act < 4) || decide (7 < l.act)
  | 7 => decide (7 < l.act)
  | 8 => !(x.residual == 0 || x.residual == 1)
  | 9 => (l.matrices.any fun m => m.n == 0 || decide (16 < m.n)) || decide (16 < x.classes)
  | _ => false)

/-- Depth of the loops around each instruction; a body that runs past the end counts as too deep (R181). -/
def loopsOk (is : List Nat) : Bool :=
  let ls := ((List.range is.length).zip is).filterMap fun q =>
    if instrFld q.2 0 8 = 1 then some (q.1, q.1 + instrFld q.2 32 32) else none
  (ls.all fun l => decide (l.1 < l.2) && decide (l.2 < is.length)) &&
  (List.range is.length).all fun i => decide ((ls.filter fun l => decide (l.1 < i) && decide (i ≤ l.2)).length ≤ 4)

/-- The bits of an instruction that its opcode gives a meaning, by field: which epochs, and the widths of A, B, C and the bits of D (R329). -/
def instrUses (op : Nat) : Nat × Nat × Nat × Nat × Nat :=
  let all := 2 ^ 32 - 1
  match op with
  | 0x01 => (0, 65535, all, 0, 0)
  | 0x02 => (0, 0, all, 0, 0)
  | 0x03 => (0, 65535, all, 0, 0)
  | 0x08 => (0, 65535, all, 0, 0)
  | 0x09 => (0, 65535, all, 0, 0)
  | 0x10 => (15, 65535, all, all, 65535)
  | 0x11 => (15, 65535, all, all, 65535)
  | 0x12 => (255, 65535, all, all, 65535)
  | 0x13 => (255, 65535, all, all, 65535 + 2 ^ 24)
  | 0x18 => (15, 65535, all, all, all)
  | 0x19 => (255, 65535, all, all, 0)
  | 0x20 => (255, 65535, all, 15, 65535 + 2 ^ 24)
  | 0x21 => (15, 65535, all, all, 2 ^ 24 + 2 ^ 25)
  | 0x28 => (15, 65535, all, all, 2 ^ 25 - 1)
  | 0x29 => (15, 65535, all, all, 2 ^ 25 - 1)
  | 0x2A => (15, 65535, all, all, 2 ^ 25 - 1)
  | 0x2B => (0, 65535, all, all, 65535)
  | 0x2C => (15, 65535, all, 15, 65535)
  | 0x30 => (255, 65535, all, all, 2 ^ 24 - 1)
  | 0x31 => (255, 65535, 0, all, 2 ^ 24 - 1)
  | 0x32 => (255, 65535, 0, all, 2 ^ 24 - 1)
  | 0x33 => (255, 65535, 0, all, 2 ^ 24 - 1)
  | 0x34 => (255, 65535, all, all, 2 ^ 25 - 1)
  | 0x38 => (255, 65535, all, 0, 0)
  | _ => (0, 0, 0, 0, 0)

/-- Every other bit of the instruction is written 0 (R329; log entry 40). -/
def strayFree (w : Nat) : Bool :=
  let u := instrUses (instrFld w 0 8)
  let fits := fun v m : Nat => Nat.land v m == v
  fits (instrFld w 8 8) u.1 && fits (instrFld w 16 16) u.2.1 && fits (instrFld w 32 32) u.2.2.1 && fits (instrFld w 64 32) u.2.2.2.1 &&
    fits (instrFld w 96 32) u.2.2.2.2

/-- An operand of an instruction is in its stated range (R181, R186, R187, R190, R211, R329). RANK's *k* has a code of its own. -/
def instrOk (d : Sched) (pc w : Nat) : Bool :=
  let a := instrFld w 16 16
  let b := instrFld w 32 32
  let c := instrFld w 64 32
  let dd := instrFld w 96 32
  let slot := fun n => decide (n < d.slots.length)
  let ctr := fun n => decide (n < 48) || n == 0xFFFF
  match instrFld w 0 8 with
  | 0x00 => true
  | 0x01 => decide (1 ≤ b)
  | 0x02 =>
    let o := twosComp 32 b
    decide (0 ≤ (pc : Int) + o) && decide ((pc : Int) + o ≤ d.instrs.length)
  | 0x03 => true
  | 0x08 => decide (a < 48) && decide (1 ≤ b) && decide (b ≤ 65535)
  | 0x09 => decide (a < 48) && decide (b < 1280)
  | 0x10 => slot a && ctr (dd % 65536) && decide (1 ≤ c) && decide (c ≤ 4096)
  | 0x11 => slot a && ctr (dd % 65536) && decide (1 ≤ c) && decide (c ≤ 4096)
  | 0x12 => slot a && decide (b < 1280) && ctr (dd % 65536)
  | 0x13 => slot a && decide (b < 1280) && ctr (dd % 65536)
  | 0x18 => decide (1 ≤ a) && decide (a ≤ 4096) && decide (b < 65536)
  | 0x19 => decide (1 ≤ a) && decide (a ≤ 4096) && decide (b < 65536) && decide (c < 65536)
  | 0x20 => slot a && slot b && decide (4 ≤ c % 16)
  | 0x21 => slot a && decide (b < d.tarnSets.length) && decide (c < 16384)
  | 0x28 => decide (a < d.opSets.length) && slot b && decide (c < 16384)
  | 0x29 => decide (a < d.opSets.length) && slot b && decide (c < 16384)
  | 0x2A => decide (a < d.opSets.length) && slot b && decide (c < 16384)
  | 0x2B => decide (a < 16384) && decide (1 ≤ b) && decide (b ≤ 64) && decide (c < 16384) && decide (dd % 65536 < 48)
  | 0x2C => decide (a < 16384) && slot b
  | 0x30 => slot a && slot c && decide (dd % 256 ≤ 8) && (dd % 256 == 8 || slot b)
  | 0x31 => slot a && slot c && decide (dd % 256 < 8)
  | 0x32 => slot a && slot c
  | 0x33 => slot a && slot c
  | 0x34 => slot a && slot b && slot c
  | 0x38 => decide (a < d.walks.length) && decide (b < 4)
  | _ => false

/-- The slot table and the loops of a schedule are within R181, R189 and R211. -/
def schedOk (d : Sched) : Bool :=
  (d.slots.all fun q => decide (1 ≤ q.rows) && decide (q.rows ≤ 4096) && decide (1 ≤ q.readers) && decide (q.readers ≤ 64)) && loopsOk d.instrs

/-- 0x0232: a schedule is not valid, or a tile has more than 15 contexts of a level. -/
def schedBad (x : Plain) : Option ImgPlace :=
  (firstInstr x fun d pc w => !instrOk d pc w || !strayFree w || (pc == 0 && !schedOk d)).or
  (wholeIf (x.scheds.any fun d => (d.instrs.isEmpty && !schedOk d) ||
    decide (15 < (x.scheds.filter fun e => e.level == d.level && e.tile == d.tile).length)))

/-- 0x0214: a rank of no or more than 64 entries (R164). -/
def rankBad (x : Plain) : Option ImgPlace :=
  (firstIn x (fun _ l => l.typ == 10 && (l.topK == 0 || decide (64 < l.topK))) noMatrix).or
  (firstInstr x fun _ _ w => instrFld w 0 8 == 0x34 && (fld w 112 8 == 0 || decide (64 < fld w 112 8)))

/-- A finite FP32 code. -/
def f32Finite (c : Nat) : Bool := let v := decFP32 c; !v.isNan && !v.isInf

/-- 0x0241: a KV parameter is out of range (R254). -/
def kvBad (x : Plain) (stripes : Nat) : Bool :=
  match x.kv with
  | none => false
  | some v => v.p == 0 || decide (64 < v.p) || decide (16 < v.w) || v.dRot % 2 != 0 || decide (v.dRot < 2) || decide (v.d < v.dRot) ||
      !f32Finite v.sigma || (v.freq.any fun f => !f32Finite f) || decide (2 ^ 24 < stripes)

/-- Rules of a partition that name an image slot and stand (R308). -/
def slotRules (s : State) (p k : Nat) : List Rule :=
  if (s.part p).rulesOk then (((s.part p).cfg.map PartCfg.rules).getD []).filter fun r => !r.discard && r.slot == k else []

/-- 0x0172: a rule's tokens would leave the vocabulary (R308). -/
def ruleRangeBad (x : Plain) (r : Rule) : Bool :=
  decide (x.vocab ≤ r.tokenBase + ((r.vals.filter fun v => v.width != 0).map ValField.radix).foldl (· * ·) 1 - 1)

/-- The reason codes for which an image fails check 4 of R339, in ascending order, each with what it names. -/
def check4 (s : State) (p k : Nat) (x : Plain) (stripes : Nat) : List (Nat × ImgPlace) :=
  let rs := slotRules s p k
  [(0x0172, wholeIf (rs.any (ruleRangeBad x))), (0x0174, wholeIf (!rs.isEmpty && x.lostToken.isNone)), (0x0210, fmtBad x),
    (0x0211, scaleBad x), (0x0212, firstIn x (fun _ _ => false) fun _ _ _ m => decide (2 ^ 24 < m.termBound)), (0x0213, accBad x),
    (0x0214, rankBad x), (0x0215, wholeIf (decide (1 < x.order))), (0x0216, orderSplit x), (0x0220, wholeIf (outlBad x)),
    (0x0230, firstIn x (fun _ l => l.typ == 0 || decide (10 < l.typ)) noMatrix),
    (0x0231, (firstIn x (layerBad x) noMatrix).or (wholeIf (decide (256 < x.layers.length)))),
    (0x0232, schedBad x), (0x0241, wholeIf (kvBad x stripes))].filterMap fun q => q.2.map fun w => (q.1, w)

/-! ### The Reservoir directory (R332, R333) -/

/-- Slot A or B of a model. -/
def resSlotOf (m : ResModel) (b : Bool) : ResSlot := if b then m.b else m.a

/-- Change a slot of a model. -/
def setResSlot (m : ResModel) (b : Bool) (f : ResSlot → ResSlot) : ResModel := if b then { m with b := f m.b } else { m with a := f m.a }

/-- The models of a stack. -/
def modelAt (s : State) (stack i : Nat) : Option ResModel := tget none (s.res stack).models i

/-- Change a directory entry. -/
def modModel (s : State) (stack i : Nat) (f : ResModel → ResModel) : State :=
  s.modRes stack fun r => { r with models := tmod none r.models i fun m => m.map f }

/-- The stack and directory entry of an owner's model (R332). -/
def findModel (s : State) (owner id : Nat) : Option (Nat × Nat × ResModel) :=
  (List.range 4).findSome? fun st => (s.res st).models.findSome? fun q => match q.2 with
    | some m => if m.owner == owner && m.imageId == id then some (st, q.1, m) else none
    | none => none

/-- The slot state holds a complete image. -/
def resReady (r : ResSlot) : Bool := r.state == .valid || r.state == .active

/-- The Reservoir slot that an image id and epoch name; epoch 0 names the ACTIVE slot (R338). -/
def pickRes (s : State) (owner id epoch : Nat) : Option (Nat × Nat × Bool × ResSlot) :=
  match findModel s owner id with
  | none => none
  | some (st, i, m) =>
    ([false, true].find? fun b =>
      let r := resSlotOf m b
      if epoch = 0 then r.state == .active else resReady r && hdrEpoch r.header == epoch).map fun b => (st, i, b, resSlotOf m b)

/-- An image slot is loaded from a Reservoir slot, or an operation reads it (R336). -/
def resInUse (s : State) (stack model : Nat) (b : Bool) : Bool :=
  (s.parts.any fun p => p.2.slots.any fun k =>
    (k.2.state != .empty && k.2.res == (stack, model, b2n b)) ||
    (match k.2.weir with | some w => w.res == (stack, model, b2n b) | none => false) ||
    (match k.2.job with | some j => j.stack == stack && j.model == model && j.resB == b | none => false)) ||
  (s.engine stack).jobs.any fun j => j.kind != .install && j.model == model && j.resB == b

/-- Extents held on a stack. -/
def extentsUsed (s : State) (stack : Nat) : List Nat :=
  ((s.res stack).models.map fun q => match q.2 with | some m => m.a.extents ++ m.b.extents | none => []).flatten

/-! ### The write-temperature window (R353) -/

/-- The last two readings lie between 10 °C and 85 °C, and neither is SUSPECT or invalid. -/
def windowOk (rs : List (Int × Bool)) : Bool :=
  let l := rs.reverse.take 2
  l.length == 2 && l.all fun q => q.2 && decide (160 ≤ q.1) && decide (q.1 ≤ 1360)

/-- A Tarn write may begin on a die. -/
def dieWritable (s : State) (d : Nat) : Bool := windowOk (s.die d).hk.window

/-- Programming of a Reservoir stack may begin. -/
def resWritable (s : State) (stack : Nat) : Bool := windowOk (s.die (0x40 + stack)).hk.window && windowOk (s.res stack).tempReads

/-! ### Fitting a placement level (R340) -/

/-- The tile of a partition-relative index, 1280 where there is none. -/
def relTile (s : State) (p rel : Nat) : Nat := ((s.part p).tiles[rel]?).getD 1280

/-- Addressable Tarns that a tile offers, ascending (R340). -/
def offered (s : State) (t : Nat) : List Nat :=
  let x := s.tile t
  if x.short || x.spadShort || (s.die (tileDie t)).state != .inService then []
  else (List.range 384).filter fun n => (tarnOf x n).holder.isNone

/-- A level's Tarn needs on one relative tile. -/
def needsOn (v : Level) (rel : Nat) : List TarnPlace := v.tarns.filter fun q => q.tile == rel

/-- Relative tiles that a level's Tarns and schedules name. -/
def levelTiles (x : Plain) (n : Nat) : List Nat :=
  ((((x.levels[n]?).map fun v => v.tarns.map TarnPlace.tile).getD []) ++
    (x.scheds.filter fun d => d.level == n).map Sched.tile).eraseDups

/-- Free schedule contexts of a tile, ascending. -/
def freeCtxs (s : State) (t : Nat) : List Nat := (List.range 15).filter fun c => (ctxOf s t c).part.isNone

/-- A level fits: its tiles exist on dies in service, and every tile offers the Tarns it needs. -/
def levelFits (s : State) (p : Nat) (x : Plain) (n : Nat) : Bool :=
  match x.levels[n]? with
  | none => false
  | some v => (levelTiles x n).all fun r =>
      let t := relTile s p r
      decide (t < 1280) && (s.die (tileDie t)).state == .inService && decide ((needsOn v r).length ≤ (offered s t).length)

/-- The highest level that fits (R340). -/
def chooseLevel (s : State) (p : Nat) (x : Plain) : Option Nat := ((List.range x.levels.length).reverse).find? (levelFits s p x)

/-! ### Fitting DRAM, Basin words and rows (check 6 of R339) -/

/-- Granules of a role for an image slot. -/
def slotGrans (s : State) (p k role : Nat) : List Granule := (granulesOf s p).filter fun g => g.role == role && g.slot == k

/-- Granules not lost to a channel retirement. -/
def liveGrans (s : State) (gs : List Granule) : List Granule := gs.filter fun g => !granRetired s (g.g * granBytes)

/-- Frames that the named granules of every KV die hold: the least over them (R217). -/
def stripeRoom (s : State) (p k : Nat) (v : KvParams) : Nat :=
  ((kvDies s p v).map fun d =>
    ((slotGrans s p k 1).filter fun g => g.ad == d).length * framesPerGran (frameSize s p v d)).min?.getD 0

/-- Stripes of the room with a frame in a granule that is already lost to a channel retirement (R441): no pool can hold them. -/
def lostStripes (s : State) (p k : Nat) (v : KvParams) : List Nat :=
  (((kvDies s p v).map fun d =>
    let per := framesPerGran (frameSize s p v d)
    ((indexed ((slotGrans s p k 1).filter fun g => g.ad == d)).filter fun g => granRetired s (g.2.g * granBytes)).map fun g =>
      (List.range per).map (g.1 * per + ·)).flatten.flatten.filter fun i => decide (i < stripeRoom s p k v)).eraseDups

/-- Stripes of a load: those named, or as many as the granules hold (R338). -/
def loadStripes (s : State) (p k : Nat) (v : KvParams) (n : Nat) : Nat :=
  if n = 0 then Nat.min (stripeRoom s p k v - (lostStripes s p k v).length) (2 ^ 24) else n

/-- The stripe pool of a load (R217, R223): the first stripes that no lost granule takes, all of them free. -/
def loadPool (s : State) (p k : Nat) (x : Plain) (n : Nat) : KvPool :=
  match x.kv with
  | none => {}
  | some v =>
    let lost := lostStripes s p k v
    let want := loadStripes s p k v n
    if lost.isEmpty then { total := want }
    else
      let total := ((((List.range (stripeRoom s p k v)).filter fun i => !lost.contains i).take want).getLast?.map (· + 1)).getD 0
      withdraw { total := total } (lost.filter fun i => decide (i < total))

/-- Entries that a control area serves (R222). -/
def loadEntries (s : State) (p n : Nat) : Nat := if n = 0 then 1024 * (blocksOf s p).length else n

/-- Bytes of a control area (R222): roots, carry areas where FEEDBACK = 1 (nine vectors of every pair in FP32), leaves. -/
def controlBytes (v : KvParams) (stripes entries : Nat) : Nat :=
  8192 * entries + (if v.feedback then entries * 9 * v.pairs.length * v.d * 4 else 0) + 4096 * (stripes + 2 * entries)

/-- The frame pools and the control area fit (R217). -/
def kvFits (s : State) (p k : Nat) (x : Plain) (stripes entries : Nat) : Bool :=
  let e := loadEntries s p entries
  match x.kv with
  | none => decide (8192 * e + 8192 * e ≤ (liveGrans s (slotGrans s p k 2)).length * granBytes)
  | some v =>
    let n := loadStripes s p k v stripes
    decide (1 ≤ n) && decide (n ≤ stripeRoom s p k v - (lostStripes s p k v).length) &&
      decide (controlBytes v n e ≤ (liveGrans s (slotGrans s p k 2)).length * granBytes)

/-- Ranges overlap. -/
def rangeMeets (a b : Nat × Nat) : Bool := decide (a.1 < b.1 + b.2) && decide (b.1 < a.1 + a.2)

/-- Ranges that the schedules of other images hold on a tile. -/
def heldRanges (s : State) (p k t : Nat) (f : Sched → List (Nat × Nat)) : List (Nat × Nat) :=
  ((s.tile t).ctxs.map fun q =>
    if q.2.part.isSome && !(q.2.part == some p && q.2.slot == k) then (q.2.sched.map f).getD [] else []).flatten

/-- The ranges that a level of the image names on a relative tile meet none of another image. -/
def rangesFree (s : State) (p k n : Nat) (x : Plain) (f : Sched → List (Nat × Nat)) : Bool :=
  (x.scheds.filter fun d => d.level == n).all fun d =>
    let held := heldRanges s p k (relTile s p d.tile) f
    (f d).all fun r => held.all fun h => !rangeMeets r h

/-- What a per-tile list of needs asks of a tile. -/
def needAt (l : List (Nat × Nat)) (rel : Nat) : Nat := ((l.filter fun q => q.1 == rel).map Prod.snd).sum

/-- Check 6 of R339, as a reason; 0 where it passes. Contexts of other images on a tile count towards the 15 of R211. -/
def check6 (s : State) (p k n : Nat) (x : Plain) (stripes entries : Nat) : Nat :=
  let tiles := (levelTiles x n ++ x.basinWords.map Prod.fst ++ x.rowsNeeded.map Prod.fst).eraseDups
  if (liveGrans s (slotGrans s p k 0)).length * granBytes < x.shadowBytes then 0x0261
  else if !kvFits s p k x stripes entries then 0x0240
  else if (tiles.any fun r => let t := s.tile (relTile s p r)
      decide (16384 < needAt x.basinWords r + t.basinWords + t.basinLost)) || !rangesFree s p k n x Sched.basin then 0x0213
  else if (tiles.any fun r => decide (65536 < needAt x.rowsNeeded r + (s.tile (relTile s p r)).rowsUsed)) ||
      !rangesFree s p k n x schedRanges || (x.scheds.any fun d => (schedRanges d).any fun r => decide (65536 < r.1 + r.2)) then 0x0265
  else if tiles.any fun r => decide ((freeCtxs s (relTile s p r)).length <
      (x.scheds.filter fun d => d.level == n && d.tile == r).length) then 0x0232
  else 0

/-- Dies that receive Tarn writes of a level. -/
def writeDies (s : State) (p : Nat) (v : Level) : List Nat := (v.tarns.map fun q => tileDie (relTile s p q.tile)).eraseDups

/-! ### Placing an image -/

/-- Where a placement of the image holds a chunk on tile `t`. -/
def placedAt (old : List Placed) (t : Nat) (q : TarnPlace) : Option Placed :=
  old.find? fun o => o.tile == t && o.layer == q.layer && o.matrix == q.matrix && o.k == q.k && o.n == q.n && o.replica == q.replica

/-- The Tarn of tile `t` that holds a chunk under an earlier placement of the image. -/
def heldAt (old : List Placed) (t : Nat) (q : TarnPlace) : Option Nat := (placedAt old t q).map Placed.tarn

/-- Assign the Tarns that a level needs on a tile: a chunk that the tile held before keeps its Tarn (R104), the others take the
lowest-numbered ones it offers, in the order of the level's list (log entry 34). -/
def placeOn (old : List Placed) (offer : List Nat) (t : Nat) (need : List TarnPlace) : List (TarnPlace × Nat) :=
  let kept := need.filterMap fun q => (heldAt old t q).bind fun n => if offer.contains n then some (q, n) else none
  kept ++ (need.filter fun q => !kept.any fun z => z.1 == q).zip (offer.filter fun n => !kept.any fun z => z.2 == n)

/-- Assign the Tarns that a level needs. -/
def placeTarns (s : State) (p : Nat) (v : Level) (old : List Placed) : List (TarnPlace × Placed) :=
  (((v.tarns.map TarnPlace.tile).eraseDups).map fun r =>
    let t := relTile s p r
    (placeOn old (offered s t) t (needsOn v r)).map fun q =>
      (q.1, { layer := q.1.layer, matrix := q.1.matrix, k := q.1.k, n := q.1.n, replica := q.1.replica, tile := t, tarn := q.2 })).flatten

/-- The matrix of a placed chunk. -/
def placedMatrix (x : Plain) (q : Placed) : Option Matrix := (x.layers[q.layer]?).bind fun l => l.matrices[q.matrix]?

/-- A Tarn is held by an image and carries a chunk. -/
def holdTarn (s : State) (p k : Nat) (x : Plain) (q : Placed) : State :=
  match placedMatrix x q with
  | none => s
  | some m =>
    let w := weightCols m.fmt
    modTarn (lanternClear s q.tile q.tarn) q.tile q.tarn fun T => { T with
      holder := some (p, k, q.replica), layer := q.layer, matrix := q.matrix, kChunk := q.k, nBase := q.n * w
      cols := Nat.min w (m.n - q.n * w), fmt := m.fmt, kept := [], mvm := none, rewrite := [], ranSince := [] }

/-- A schedule with the Tarns of its sets named as they were placed on its tile. -/
def bindSched (d : Sched) (map : List (TarnPlace × Placed)) : Sched :=
  { d with tarnSets := d.tarnSets.map fun us => us.map fun u =>
      match map.find? fun q => q.1.tile == d.tile && q.1.idx == u.tarn with
      | some q => { u with tarn := q.2.tarn }
      | none => u }

/-- The code rows of a schedule (R180): four instructions to a row. -/
def codeRows (d : Sched) : List (List Byte) := (chunksOf 4 d.instrs.length d.instrs).map fun is => (is.map (toLe 16)).flatten

/-- Write a schedule's instructions into its code rows. -/
def writeCode (x : Tile) (d : Sched) : Tile :=
  { x with rows := (indexed (codeRows d)).foldl (fun rs q => tmod {} rs (d.codeRow + q.1) fun r => { r with data := mkData q.2 }) x.rows }

/-- A schedule takes the lowest free context of its tile (log entry 34), and its code rows are written (R180). -/
def installSched (s : State) (p k : Nat) (d : Sched) (map : List (TarnPlace × Placed)) : State :=
  let t := relTile s p d.tile
  match (freeCtxs s t).head? with
  | none => s
  | some c =>
    let s := modCtx s t c fun _ => { part := some p, slot := k, relTile := d.tile, sched := some (bindSched d map) }
    s.modTile t fun x => writeCode x d

/-- Row and Basin word indices of ranges. -/
def rangeKeys (rs : List (Nat × Nat)) : List Nat := (rs.map fun r => (List.range r.2).map (r.1 + ·)).flatten

/-- Zeroise the rows and words of a schedule on a tile. -/
def zeroSched (x : Tile) (d : Sched) : Tile :=
  let rows := schedRanges d
  let words := d.basin
  let hit := fun (rs : List (Nat × Nat)) (n : Nat) => rs.any fun r => decide (r.1 ≤ n) && decide (n < r.1 + r.2)
  { x with
    rows := (x.rows.map fun q => (q.1, if hit rows q.1 then { suspect := q.2.suspect } else q.2)).filter fun q => q.2 != {}
    basin := x.basin.filter fun q => !hit words q.1
    tags := x.tags.filter fun q => !(words.any fun r => decide (r.1 < 16 * q.1 + 16) && decide (16 * q.1 < r.1 + r.2)) }

/-- The tiles on which an image needs words or rows, with how many. -/
def reserveTiles (s : State) (p : Nat) (x : Plain) (add : Bool) : State :=
  let step := fun (a b : Nat) => if add then a + b else a - b
  let s := x.basinWords.foldl (fun s q => s.modTile (relTile s p q.1) fun t => { t with basinWords := step t.basinWords q.2 }) s
  x.rowsNeeded.foldl (fun s q => s.modTile (relTile s p q.1) fun t => { t with rowsUsed := step t.rowsUsed q.2 }) s

/-- Take everything that a level of an image needs (R339, R340): Tarns, contexts, words and rows. `old` is the placement that a relocation
finds. -/
def takeLevel (s : State) (p k n : Nat) (x : Plain) (old : List Placed) : State :=
  match x.levels[n]? with
  | none => s
  | some v =>
    let map := placeTarns s p v old
    let s := map.foldl (fun s q => holdTarn s p k x q.2) s
    let s := (x.scheds.filter fun d => d.level == n).foldl (fun s d => installSched s p k d map) s
    (reserveTiles s p x true).modSlot p k fun q => { q with placed := map.map Prod.snd, level := n }

/-- The contexts of an image on the partition's tiles: tile and context. -/
def imgCtxs (s : State) (p k : Nat) : List (Nat × Nat) :=
  (s.tiles.map fun t => (t.2.ctxs.filter fun c => c.2.part == some p && c.2.slot == k).map fun c => (t.1, c.1)).flatten

/-- A context leaves its tile: what runs or waits for it goes, its rows and words are zeroised. -/
def dropCtx (s : State) (t c : Nat) : State :=
  s.modTile t fun x =>
    let k := tget {} x.ctxs c
    let x := match k.sched with | some d => zeroSched x d | none => x
    { x with
      ctxs := tdel x.ctxs c, inFlight := x.inFlight.filter fun q => q.ctx != c
      residuePending := x.residuePending.filter fun q => x.inFlight.any fun f => f.id == q.2.2 && f.ctx != c
      cells := if x.running == some c then [] else x.cells
      units := if x.running == some c then [] else x.units
      combining := x.combining && x.running != some c
      switchPending := x.switchPending && x.running != some c && x.switchTarget != some c
      switching := x.switching && x.running != some c && x.switchTarget != some c
      switchTarget := if x.running == some c || x.switchTarget == some c then none else x.switchTarget
      running := if x.running == some c then none else x.running }

/-- A Tarn is given back. -/
def dropTarn (s : State) (p k : Nat) (q : Placed) : State :=
  match (tarnOf (s.tile q.tile) q.tarn).holder with
  | some h => if h.1 = p ∧ h.2.1 = k then
      modTarn s q.tile q.tarn fun T => { T with holder := none, mvm := none, kept := [], rewrite := [], ranSince := [] } else s
  | none => s

/-- Give back what a level took. -/
def freeLevel (s : State) (p k : Nat) : State :=
  let q := s.slot p k
  let s := (imgCtxs s p k).foldl (fun s c => dropCtx s c.1 c.2) s
  let s := q.placed.foldl (fun s h => dropTarn s p k h) s
  let s := match q.plain with | some x => reserveTiles s p x false | none => s
  s.modSlot p k fun q => { q with placed := [], resident := [], notResident := [], level := 0 }

/-- Repairs that wait for an image slot leave their engines: the chunk they would rewrite is no longer the slot's. -/
def dropRepairs (s : State) (p k : Nat) : State :=
  (s.engines.map Prod.fst).foldl (fun s st => s.modEngine st fun e => { e with
    jobs := e.jobs.filter fun j => !(j.kind == .shadowRepair && j.part == p && j.slot == k) }) s

/-- Reserve capacity may have changed: the fabric manager retries blocked relocations (R440). -/
def reserveChanged (s : State) : State := { s with fm := { s.fm with retry := true } }

/-- The slot becomes EMPTY (R343): what it took is given back, its pools and variants go; registers that R357 keeps stay. -/
def freeSlot (s : State) (p k : Nat) : State :=
  (freeLevel (dropRepairs (reserveChanged s) p k) p k).modSlot p k fun q => { q with
    state := .empty, res := (0, 0, 0), imageId := 0, epoch := 0, header := [], plain := none, entries := 0
    pool := { q.pool with total := 0, returned := [], fresh := 0, withdrawn := [], rootsTotal := 0, rootsReturned := [], rootsFresh := 0
                          waiters := [] }
    variants := [], weir := none, job := none, shadowBad := [], nextReplica := 0, layerFb := [], layerReplay := [] }

/-! ### Writing Tarns (R344) -/

/-- The stored bits of a row of a chunk: slice `b` of column `j` lies in bit-column `S·j + b`; a last weight block is padded with elements of
value 0 (R43), and rows and columns that the matrix has not are written 0 (R58, R64). -/
def rowImage (m : Matrix) (k nBase cols r : Nat) : Nat :=
  let S := slices m.fmt
  if 32 * ((m.k + 31) / 32) ≤ 512 * k + r then 0
  else ((List.range cols).map fun j => shadowU m (nBase + j) (512 * k + r) * 2 ^ (S * j)).sum

/-- The rows and scales of a chunk. -/
def writeChunk (T : Tarn) (m : Matrix) : Tarn :=
  let rows := (List.range 512).foldl (fun t r => tset 0 t r (rowImage m T.kChunk T.nBase T.cols r)) []
  { T with
    rows := rows, check := rows.foldl (fun t q => tset 0 t q.1 (rowCheck q.2)) []
    scales := ((List.range T.cols).map fun j => (List.range 16).map fun g => (grpKey j g, weightScale m (T.nBase + j) (16 * T.kChunk + g))).flatten.foldl
      (fun t q => tset 0 t q.1 q.2) []
    rewrite := [], kept := [], mvm := none }

/-- A coefficient lies at a limit of its range (R118). -/
def atRail (v : Int) : Bool := decide (v ≤ -2048) || decide (2047 ≤ v)

/-- Seeds of a Tarn (R117, R344 step 4): its coefficients start anew, clamped to their range, and its comparison sums empty. -/
def seedTarn (T : Tarn) (seeds : List (Nat × Int × Int)) : Tarn :=
  { T with
    seeded := true, cmps := [], pend := []
    coefs := seeds.foldl (fun t q => tset {} t q.1
      { g := clampI (-2048) 2047 q.2.1, o := clampI (-2048) 2047 q.2.2, atLimit := atRail q.2.1 || atRail q.2.2 }) [] }

/-- The logical bit-column that a physical one carries, where it carries one. -/
def logicalCol (T : Tarn) (col : Nat) : Option Nat :=
  if 256 ≤ col then (T.colMap.find? fun e => e.1 == col - 256 && !e.2.dead).map fun e => e.2.col
  else if physCol T col = col then some col else none

/-- Bit-columns of a Tarn that reached a drift limit since its last seeding; the next program-and-verify maps them (R118). -/
def limitCols (T : Tarn) : List Nat :=
  ((T.coefs.filter fun q => q.2.reached).filterMap fun q => logicalCol T (q.1 % 264)).eraseDups

/-- Bit-columns whose seeded coefficient lies at its limit: they fail the probes (R344 step 5). -/
def seedLimits (seeds : List (Nat × Int × Int)) : List Nat :=
  ((seeds.filter fun q => atRail q.2.1 || atRail q.2.2).map fun q => q.1 % 264).eraseDups.filter fun c => decide (c < 256)

/-- Map the failing bit-columns of a Tarn one by one (R344 step 5), counted for the image slot. Column 256 and up stands for a row that fails
its readback twice, which replaces the Tarn (step 2). Once the Tarn has been replaced, or none is left to replace it, the other columns
concern a Tarn that is out of use. -/
def pvMap (p k t tarn : Nat) : List Nat → State → State
  | [], s => s
  | lc :: cs, s =>
    if 256 ≤ lc ∨ (tarnOf (s.tile t) tarn).colMap.length = 8 then
      let before := (s.tile t).spMap.length
      let s := replaceTarn s t tarn
      if before < (s.tile t).spMap.length then s.modSlot p k fun q => { q with pvTarnCnt := satAdd q.pvTarnCnt 1 } else s
    else pvMap p k t tarn cs ((mapColumn s t tarn lc).modSlot p k fun q => { q with pvMapCnt := satAdd q.pvMapCnt 1 })

/-- The failing columns of one run, rows first. -/
def pvOrder (cols : List Nat) : List Nat := (cols.filter fun c => decide (256 ≤ c)).take 1 ++ (cols.filter fun c => decide (c < 256)).eraseDups

/-- Rounds of the probes of a Tarn (R344 step 3): 16,384 for each active quad. -/
def probeRounds (m : Matrix) (q : Placed) : Nat :=
  16384 * ((List.range 4).filter fun i => decide (128 * i < Nat.min 512 (m.k - 512 * q.k))).length

/-- One run of R344 steps 1 to 5 on a Tarn: the probes are rounds of the tile (R97), and what fails is mapped. -/
def pvRun (s : State) (p k : Nat) (m : Matrix) (q : Placed) (cols : List Nat) : State :=
  pvMap p k q.tile q.tarn (pvOrder cols) (s.modTile q.tile fun x => { x with rounds := wrapAdd x.rounds (probeRounds m q) })

/-- The columns that a finding names for a Tarn. -/
def foundCols (f : List (Nat × Nat × Nat)) (q : Placed) : List Nat := (f.filter fun f => f.1 == q.tile && f.2.1 == q.tarn).map fun f => f.2.2

/-- Program and verify one Tarn (R344 steps 1 to 5): what fails is mapped, the Tarn repeats the steps once, and what fails again is mapped
again. -/
def pvTarn (s : State) (p k : Nat) (x : Plain) (q : Placed) (failing again : List (Nat × Nat × Nat))
    (seeds : List (Nat × Nat × Nat × Int × Int)) : State :=
  match placedMatrix x q with
  | none => s
  | some m =>
    let sd := (seeds.filter fun f => f.1 == q.tile && f.2.1 == q.tarn).map fun f => f.2.2
    let first := limitCols (tarnOf (s.tile q.tile) q.tarn) ++ seedLimits sd ++ foundCols failing q
    let s := pvRun s p k m q first
    let s := if first.isEmpty then s else pvRun s p k m q (foundCols again q)
    modTarn s q.tile q.tarn fun T => seedTarn (writeChunk T m) sd

/-- Program and verify a layer in all its replicas (R344). -/
def pvLayer (s : State) (p k layer : Nat) (x : Plain) (failing again : List (Nat × Nat × Nat))
    (seeds : List (Nat × Nat × Nat × Int × Int)) : State :=
  ((s.slot p k).placed.filter fun q => q.layer == layer).foldl (fun s q => pvTarn s p k x q failing again seeds) s

/-- Dies on which a layer's Tarns lie. -/
def layerDies (s : State) (p k layer : Nat) : List Nat :=
  (((s.slot p k).placed.filter fun q => q.layer == layer).map fun q => tileDie q.tile).eraseDups

/-! ### Ends of image commands (R338, R357, R360) -/

/-- LOAD_REFUSED (R360): a command completes with a nonzero reason. -/
def loadRefused (s : State) (p k reason : Nat) : State := reportLead s p evLoadRefused [(1, p), (1, k), (2, reason)]

/-- The completion of an image command, with its TAG (R338, R381, R474). -/
def imgAnswer (s : State) (h : Option HostRef) (r : Option Reply) (reason : Nat) : State :=
  let s := match h with | some h => completeWith s h reason 0 0 | none => s
  match r with | some r => fleshaReply s r reason [] | none => s

/-- IMG_LAST of an image slot (R357). -/
def imgLast (s : State) (p k reason tag : Nat) : State :=
  if reason = 0 then s else s.modSlot p k fun q => { q with lastReason := reason, lastTag := tag, refusedAt := none }

/-- A refusal under check 4 names where the image fails (R339). The spec gives no register and no payload field that carries the name; the
slot keeps it (log entry 197). -/
def nameRefusal (s : State) (p k : Nat) (w : ImgPlace) : State := s.modSlot p k fun q => { q with refusedAt := some w }

/-- An operation on an image slot ends with a reason. -/
def endOp (s : State) (j : ImgOp) (reason : Nat) : State :=
  let s := imgLast s j.part j.slot reason j.tag
  let s := if reason = 0 then s else loadRefused s j.part j.slot reason
  imgAnswer s j.href j.reply reason

/-- An operation leaves its engine. -/
def dropJob (s : State) (stack id : Nat) : State := s.modEngine stack fun e => { e with jobs := e.jobs.filter fun j => j.id != id }

end Sys2Proof.Machine
end

