-- ==== Sys2Proof/Machine/OpsPart.lean ====
section
/-! DEFINITION. Shared operations on partitions: the checks of a section and what it puts in force (R308, R365, R409, R412,
R414), disabling, fences (R426), resets (R429 to R434) and notices (R435). -/

namespace Sys2Proof.Machine

/-! ### The checks of a section (R409) -/

/-- Sections that hold resources. -/
def otherCfgs (s : State) (p : Nat) : List PartCfg := s.parts.filterMap fun q => if q.1 == p then none else q.2.cfg

/-- A section's granules lie on fitted stacks and belong to no other partition (check 4). -/
def granulesOk (s : State) (p : Nat) (c : PartCfg) : Bool :=
  c.granules.all fun g => decide (g.g < 480) && stackFitted s.variant (g.g / 24) && (g.role != 1 || adFitted s.variant g.ad) &&
    (otherCfgs s p).all fun o => o.granules.all fun h => h.g != g.g

/-- Checks 1 to 5 of R409: the section, or the reason. -/
def sectionCheck (s : State) (p : Nat) (bytes : List Byte) : Except Nat PartCfg :=
  match parsePart s.variant p bytes with
  | none => .error 0x0144
  | some c =>
    if !(s.cfg.owners.any fun o => o.id == c.owner) then .error 0x0143
    else if c.tiles.any fun t => !adFitted s.variant (tileDie t) then .error 0x0140
    else if !granulesOk s p c then .error 0x0141
    else if c.blocks.any fun b => (otherCfgs s p).any fun o => o.blocks.contains b then .error 0x0142
    else .ok c

/-- PART_CFG_REFUSED (R422). -/
def partCfgRefused (s : State) (p reason : Nat) : State := report s 0xF0 0x00 evPartCfgRefused (some p) [(1, p), (2, reason)]

/-! ### Binding (check 6, R365) -/

/-- Bind a partition to the function its section names; where that is refused the partition runs unbound. -/
def bindPart (s : State) (p : Nat) (c : PartCfg) : State :=
  match c.bind with
  | none => s.modPart p fun q => { q with fn := none }
  | some fn =>
    let s := s.modPart p fun q => { q with fn := none }
    if !(s.fnOf fn).presented then partCfgRefused s p 0x0120
    else match (s.fnOf fn).part with
      | some o => if o = p then s.modPart p fun q => { q with fn := some fn } else partCfgRefused s p 0x0121
      | none => (s.modFn fn fun f => { f with part := some p }).modPart p fun q => { q with fn := some fn }

/-- Release a binding. -/
def unbindPart (s : State) (p : Nat) : State :=
  match (s.part p).fn with
  | some fn => (s.modFn fn fun f => { f with part := none }).modPart p fun q => { q with fn := none }
  | none => s

/-! ### Feed rules (check 7, R308) -/

/-- The IODs and rules of a section. -/
def rulesAt (c : PartCfg) (iod : Nat) : List Rule := ((c.ruleIods.zip c.rules).filter fun q => q.1 == iod).map Prod.snd

/-- The encoder tables of a section on an IOD. -/
def tablesAt (c : PartCfg) (iod : Nat) : List EncTable := (c.tables.filter fun q => q.1 == iod).map Prod.snd

/-- A width that R307 and R311 allow. -/
def widthOk (w : Nat) : Bool := w == 1 || w == 2 || w == 4 || w == 8

/-- A value field is within R311: its table is there, in its mode and width, with every code below the radix. -/
def valOk (ts : List EncTable) (v : ValField) : Bool :=
  v.width == 0 && v.radix == 1 || (widthOk v.width && match ts.find? fun t => t.index == v.table with
    | none => false
    | some t => t.bin == v.bin && (if t.bin then decide (t.thresholds.length < v.radix)
        else t.width == v.width && decide (t.dflt < v.radix) && t.keys.all fun k => decide (k.2 < v.radix)))

/-- 0x0171: a rule is not within R307, R311 and R314. -/
def ruleBad (c : PartCfg) (iod : Nat) (r : Rule) : Bool :=
  (r.terms.any fun t => !(t.width == 0 || widthOk t.width)) ||
  (!r.discard && ((r.keys.any fun k => decide (8 < k.2)) || (r.keys.all fun k => k.2 == 0) ||
    r.vals.any fun v => !valOk (tablesAt c iod) v)) || c.shares.getD iod 0 == 0

/-- Bytes of an encoder table (R407). -/
def tableBytes (t : EncTable) : Nat := if t.bin then 8 * t.thresholds.length else padded (t.width + 1) * t.keys.length

/-- The first reason of check 7 but for 0x0172 and 0x0174, 0 where it passes. -/
def feedCheck (s : State) (p : Nat) (c : PartCfg) : Nat :=
  let iods := List.range 6
  let others := fun i => (s.fiod i).rules.filter fun r => r.part != p
  let tabs := fun i => (s.fiod i).tables.filter fun t => t.part != p
  let units := fun i => (((s.fiod i).shares.filter fun q => q.1 != p).map fun q => q.2.units).sum
  if iods.any fun i => decide (256 < (others i).length + (rulesAt c i).length) then 0x0170
  else if iods.any fun i => (rulesAt c i).any (ruleBad c i) then 0x0171
  else if iods.any fun i => decide (2 ^ 20 < ((tabs i ++ tablesAt c i).map tableBytes).sum) then 0x0173
  else if iods.any fun i => decide (128 < units i + c.shares.getD i 0) then 0x0176
  else if iods.any fun i => (rulesAt c i).any fun r => (others i).any fun o => o.number == r.number then 0x0177
  else 0

/-- Put a rule at its number. -/
def insertRule (r : Rule) : List Rule → List Rule
  | [] => [r]
  | x :: xs => if r.number < x.number then r :: x :: xs else x :: insertRule r xs

/-- Take a partition's rules and tables off the IODs. -/
def dropRules (s : State) (p : Nat) : State :=
  let s := (List.range 6).foldl (fun s i => s.modFiod i fun f => { f with
    rules := f.rules.filter fun r => r.part != p, tables := f.tables.filter fun t => t.part != p }) s
  s.modPart p fun q => { q with rulesOk := false }

/-- Hold rule slots, tables and shares for a section, or refuse its rules (check 7). They are in force once `rulesOn` says
so. -/
def holdRules (s : State) (p : Nat) (c : PartCfg) : State :=
  let s := dropRules s p
  let r := feedCheck s p c
  if r != 0 then partCfgRefused ((List.range 6).foldl (fun s i => modShare s i p fun x => { x with units := 0 }) s) p r
  else (List.range 6).foldl (fun s i =>
    let s := modShare s i p fun x => { x with units := c.shares.getD i 0 }
    s.modFiod i fun f => { f with rules := (rulesAt c i).foldl (fun l r => insertRule r l) f.rules, tables := f.tables ++ tablesAt c i }) s

/-- The rules come into force, against the images then in their slots (R308: 0x0172, 0x0174). -/
def rulesOn (s : State) (p : Nat) : State :=
  let held := ((List.range 6).map fun i => (s.fiod i).rules.filter fun r => r.part == p).flatten
  let img := fun r : Rule => if r.discard then none else (s.slot p r.slot).plain
  let bad := fun f : Plain → Rule → Bool => held.any fun r => match img r with | some x => f x r | none => false
  if bad ruleRangeBad then partCfgRefused (dropRules s p) p 0x0172
  else if bad fun x _ => x.lostToken.isNone then partCfgRefused (dropRules s p) p 0x0174
  else if held.isEmpty then s
  else s.modPart p fun q => { q with rulesOk := true }

/-! ### Check 9 (R276, R292) -/

/-- The image has a HEAD_LM layer. -/
def headLm (x : Plain) : Bool := x.layers.any fun l => l.typ == 0x0A

/-- Check 9 of R409, where the draft or narrative slot holds an image (log entry 35): 0x0253, 0x0254, or 0. -/
def draftCheck (s : State) (p : Nat) : Nat :=
  let v := (s.part p).serv
  let mains := ((s.part p).slots.filter fun q => q.1 != v.draftSlot).filterMap fun q => q.2.plain.filter headLm
  let draftBad := match (s.slot p v.draftSlot).plain with
    | some x => mains.any fun m => !headLm x || x.vocab != m.vocab
    | none => false
  let narrBad := v.narrEnable && (match (s.slot p v.narrSlot).plain with
    | some x => !headLm x || x.narrPrefix.isNone || x.classTokens.isEmpty || x.binTokens.isEmpty
    | none => false)
  if draftBad then 0x0253 else if narrBad then 0x0254 else 0

/-! ### Disabling -/

/-- Remove everything of a partition's request table. -/
def dropEntries (s : State) (p : Nat) : State := { s with entries := s.entries.filter fun q => !ownsEntry s p q.1 }

/-- Slots of a partition that are not EMPTY. -/
def usedSlots (s : State) (p : Nat) : List Nat := ((s.part p).slots.filter fun q => q.2.state != .empty).map Prod.fst

/-- The partition is DISABLED with a reason and holds no resources (R409, R417). -/
def disablePart (s : State) (p reason : Nat) : State :=
  let s := (usedSlots s p).foldl (fun s k => freeSlot s p k) s
  let s := unbindPart (dropRules (dropEntries s p) p) p
  let s := (List.range 6).foldl (fun s i => s.modFiod i fun f => { f with shares := tdel f.shares p }) s
  s.modPart p fun q => { ({} : Part) with
    state := .disabled, reason := reason, present := q.present, gen := q.gen, cause := q.cause, tag := q.tag, resets := q.resets
    lastUs := q.lastUs, wdgMs := q.wdgMs, wdgReset := q.wdgReset, fires := q.fires }

/-! ### Putting a section in force (R409, R412, R417) -/

/-- LOAD_AT_START records, in ascending slot order. -/
def startSlots (c : PartCfg) : List SlotCfg := (List.range 16).filterMap fun k => c.slots.find? fun r => r.slot == k && r.loadAtStart

/-- A section's registers and LFSR are loaded (R122, R143, R296, R431). -/
def loadRegs (s : State) (p : Nat) (c : PartCfg) : State :=
  let s := s.modPart p fun q => { q with serv := c.serv, lfsr := c.serv.seed }
  c.slots.foldl (fun s r => modPool s p r.slot fun k => { k with lowMark := r.lowMark }) s

/-- The section is in force: resources, registers, binding (check 6) and feed rules (check 7). -/
def putSection (s : State) (p : Nat) (c : PartCfg) (gen : Nat) : State :=
  let moved := ((s.part p).cfg.map PartCfg.tiles) != some c.tiles
  let s := s.modPart p fun q => { q with
    cfg := some c, present := true, gen := gen, reason := 0
    tiles := if moved then c.tiles else q.tiles, relocated := if moved then [] else q.relocated
    keys := if (q.cfg.map PartCfg.keyLog2) == some c.keyLog2 then q.keys else [] }
  holdRules (bindPart (loadRegs s p c) p c) p c

/-- The partition runs (R412 step 10): PART_READY on its function. -/
def partRuns (s : State) (p : Nat) : State :=
  let s := s.modPart p fun q => { q with state := .running, idleBase := s.now, progressSeen := q.progress, idleMs := 0 }
  match (s.part p).fn with
  | some fn => setEvt s fn 3
  | none => s

/-- The start-time loads of a partition have ended: check 9, and the partition runs with its rules (R409, R412, R414). A partition that
already runs gets its rules only. -/
def loadsEnded (s : State) (p : Nat) : State :=
  if (s.part p).state == .starting && !(s.part p).resetting then
    let r := draftCheck s p
    if r != 0 then partCfgRefused (disablePart s p r) p r else rulesOn (partRuns s p) p
  else if (s.part p).state == .disabled then s
  else rulesOn s p

/-- Queue the next start-time load, with those behind it (R340: ascending slot order); one whose image is not there is refused with 0x0204 at once (R339 check 2, R409 check 8). -/
def startLoads (p : Nat) : List SlotCfg → State → State
  | [], s => loadsEnded s p
  | r :: rs, s =>
    let owner := ((s.part p).cfg.map PartCfg.owner).getD 0
    let (s, id) := newOp s
    let s := s.modPart p fun q => { q with starts := rs }
    let j : ImgOp := { id := id, kind := .load, part := p, slot := r.slot, atStart := true, stripes := r.stripes, entries := r.entries }
    if (s.slot p r.slot).state != .empty then startLoads p rs s
    else match pickRes s owner r.imageId r.epoch with
      | none => startLoads p rs (endOp s j 0x0204)
      | some (st, m, b, x) =>
        pushJob s st { j with stack := st, model := m, resB := b, header := x.header, chunks := hdrChunks x.header }

/-- A start-time load has ended: the next one follows (R340). -/
def nextStart (s : State) (p : Nat) : State := startLoads p (s.part p).starts s

/-- Apply a section at a module start, checks 1 to 7 (R409, R412 step 8). -/
def applySection (s : State) (p : Nat) (bytes : List Byte) (gen : Nat) : State :=
  match sectionCheck s p bytes with
  | .error r => partCfgRefused (s.modPart p fun q => { q with present := true, reason := r, gen := gen }) p r
  | .ok c =>
    if !c.enable then s.modPart p fun q => { q with present := true, gen := gen }
    else (putSection s p c gen).modPart p fun q => { q with state := .starting }

/-- The start-time loads of an applied partition begin; with none it runs (R414). -/
def beginLoads (s : State) (p : Nat) : State :=
  match (s.part p).cfg with
  | some c => if (s.part p).state == .starting then startLoads p (startSlots c) s else s
  | none => s

/-! ### Fences and notices (R426, R435) -/

/-- Dies that host anything of a partition (R430 step 3, R435). -/
def hostDies (s : State) (p : Nat) : List Nat :=
  let gs := granulesOf s p
  let ds := (s.part p).tiles.map tileDie ++ (gs.filter fun g => g.role == 1).map Granule.ad ++ gs.map (fun g => stackDie (g.g / 24)) ++
    ((List.range 6).filter fun i => (share s i p).units != 0).map (0x40 + ·) ++
    (match (s.part p).fn with | some fn => [0x40 + fnPort fn / 2] | none => [])
  ds.eraseDups.filter fun d => dieFitted s.variant d && (s.die d).state != .dark

/-- Send a notice to dies; with no die to ask it is finished. -/
def sendNotice (s : State) (kind : NoticeKind) (p : Option Nat) (arg : Nat) (ds : List Nat) : State :=
  if ds.isEmpty then s
  else
    let n : Notice := { id := s.fm.nextNotice, kind := kind, part := p, arg := arg, wait := ds, sent := s.now }
    { s with fm := { s.fm with notices := s.fm.notices ++ [n], nextNotice := s.fm.nextNotice + 1 } }

/-- A notice of a kind for a partition is unfinished. -/
def noticePending (s : State) (kind : NoticeKind) (p : Nat) : Bool := s.fm.notices.any fun n => n.kind == kind && n.part == some p

/-- Fence a running partition (R426): a FENCE notice goes to its dies; a partition in a reset is fenced anyway. -/
def fencePart (s : State) (p : Nat) : State :=
  if (s.part p).state != .running then s
  else sendNotice (s.modPart p fun q => { q with state := .fenced }) .fence (some p) 0 (hostDies s p)

/-! ### Resets (R25, R260, R429 to R434) -/

/-- Give back to an item the tokens of discarded passes (R260): in position order, at the head of what is left. An item already
removed completes with its removal reason (R259). -/
def requeueItem (s : State) (p e : Nat) (xs : List Pass) (id : Nat) : State :=
  let toks := (xs.filter fun x => x.item == id && x.promptTok).map Pass.token
  match findItem s e id with
  | none => s
  | some i => match i.removal with
    | some r => finishItem s p e id r false false
    | none => modItem s e id fun i => { i with open_ := 0, left := toks ++ i.left }

/-- Discard every uncommitted pass of a sequence (R25, R242): its provisional pages return and its items run again. -/
def discardSeq (s : State) (p e : Nat) : State :=
  let xs := passesOf s p e
  let s := dropPasses s p (xs.map Pass.id)
  let s := rejectPages (s.modEntry e fun x => { x with verify := none, held := false }) p e
  if (s.entry e).draft then s else ((xs.map Pass.item).eraseDups).foldl (fun s id => requeueItem s p e xs id) s

/-- Discard the uncommitted passes of a partition. -/
def discardPasses (s : State) (p : Nat) : State :=
  (((partEntries s p).filter fun q => q.2.draft).map Prod.fst ++ ((partEntries s p).filter fun q => !q.2.draft).map Prod.fst).foldl
    (fun s e => discardSeq s p e) s

/-- A LOAD of the partition is abandoned with 0x0267 (R356, R434). -/
def abandonLoad (s : State) (p k : Nat) (j : ImgOp) : State := endOp (freeSlot (dropJob s j.stack j.id) p k) j 0x0267

/-- Loads in progress or queued of a partition, with their slots. -/
def loadsOf (s : State) (p : Nat) : List ImgOp :=
  let running := (s.part p).slots.filterMap fun q => q.2.job.filter fun j => j.kind == .load
  let queued := (s.engines.map fun e => e.2.jobs.filter fun j => j.kind == .load && j.part == p && j.atStart &&
    !(running.any fun r => r.id == j.id)).flatten
  running ++ queued

/-- A swap with its Weir closed meets a reset (R354): the slot is PARTIAL, and every Tarn-placed layer that is not resident under the
new epoch is NOT_RESIDENT. While it stages, nothing changes. -/
def resetSwap (s : State) (p k : Nat) : State :=
  let q := s.slot p k
  match q.weir with
  | some w => if w.step == .staging then s
    else s.modSlot p k fun q => { q with
      state := .partial_, notResident := (tarnLayers s p k).filter fun l => !w.done.contains l }
  | none => s

/-- Begin a reset of a partition (R430 steps 1 to 3), or join the one that runs (R432). A DISABLED partition has none. -/
def resetStart (s : State) (p cause : Nat) : State :=
  let q := s.part p
  if q.state == .disabled then s
  else if q.resetting then s.modPart p fun q => { q with cause := cause }
  else
    let s := s.modPart p fun q => { q with
      state := .starting, resetting := true, cause := cause, tag := (q.tag + 1) % 65536
      backlog := q.backlog.map fun b => { b with running := false }, recomps := [] }
    let s := match q.fn with
      | some fn => setEvt (s.modFn fn fun f => { f with qEn := false }) fn 2
      | none => s
    let s := discardPasses s p
    let s := (loadsOf s p).foldl (fun s j => abandonLoad s p j.slot j) s
    let s := (usedSlots s p).foldl (fun s k => resetSwap s p k) s
    sendNotice s .reset (some p) 0 (hostDies s p)

/-- A context abandons its schedule (R430 steps 3 and 4): counters and save area are cleared. -/
def abandonCtx (k : Ctx) : Ctx :=
  { part := k.part, slot := k.slot, relTile := k.relTile, sched := k.sched }

/-- The round in progress of an MVM ends, and its codes are discarded; no other round follows (R71). -/
def discardRound (v : Mvm) : Option Mvm :=
  if v.quads.isEmpty then none else some { v with quads := v.quads.take 1, plane := v.planes - 1, discard := true }

/-- A tile abandons what a partition runs on it: a switch from or to a context of the partition as well (R172). -/
def abandonTile (p : Nat) (x : Tile) : Tile :=
  let mine := fun c => (tget {} x.ctxs c).part == some p
  let run := match x.running with | some c => mine c | none => false
  let stop := run || (match x.switchTarget with | some c => mine c | none => false)
  { x with
    ctxs := x.ctxs.map fun q => if q.2.part == some p then (q.1, abandonCtx q.2) else q
    running := if run then none else x.running, cells := if run then [] else x.cells, units := if run then [] else x.units
    combining := x.combining && !run, switchPending := x.switchPending && !stop, switching := x.switching && !stop
    switchTarget := if stop then none else x.switchTarget
    inFlight := x.inFlight.filter fun q => !mine q.ctx
    residuePending := x.residuePending.filter fun q => x.inFlight.any fun f => f.id == q.2.2 && !mine f.ctx
    checks := x.checks.filter fun c => c.part != p, pulls := x.pulls.filter fun r => r.part != p
    tarns := x.tarns.map fun q => match q.2.holder with
      | some h => if h.1 = p then (q.1, { q.2 with mvm := q.2.mvm.bind discardRound, kept := [] }) else q
      | none => q }

/-- A die abandons what a partition runs on it (R430 step 3): schedules, walks, and its transfers with the old tag, which are
counted where they are dropped (R429). -/
def abandonDie (s : State) (p d : Nat) : State :=
  let s := (s.tiles.filter fun q => tileDie q.1 == d).foldl (fun s q => s.modTile q.1 (abandonTile p)) s
  let s := s.modDie d fun x => { x with ae := x.ae.map fun a => (a.1, { a.2 with
    walks := a.2.walks.filter fun w => w.part != p, waiting := a.2.waiting.filter fun w => w.part != p }) }
  let old := fun x : Xfer => x.part == p && x.tag != (s.part p).tag && tileDie x.tile == d
  let gone := s.xfers.filter old
  let s := { s with xfers := s.xfers.filter fun x => !old x, releases := s.releases.filter fun r => !(r.part == p && tileDie r.tile == d) }
  gone.foldl (fun s x => dropStale (countCrossed s x.links x.bytes) x) s

/-- Zeroise a partition's rows and words on its tiles (R430 step 4). The schedules, which the partition goes on to run, are written into
their rows again (log entry 214). -/
def zeroisePart (s : State) (p : Nat) : State :=
  (s.part p).tiles.foldl (fun s t => s.modTile t fun x =>
    let ds := x.ctxs.filterMap fun q => if q.2.part == some p then q.2.sched else none
    ds.foldl writeCode (ds.foldl zeroSched x)) s

/-- The checksum scan fails on a Tarn (R433): the layer that it carries is NOT_RESIDENT and its slot PARTIAL. -/
def scanFail (s : State) (p t tarn : Nat) : State :=
  let T := tarnOf (s.tile t) tarn
  match T.holder with
  | some h => if h.1 = p then
      s.modSlot p h.2.1 fun q => { q with
        state := if q.state == .ready || q.state == .partial_ then .partial_ else q.state
        notResident := if q.notResident.contains T.layer then q.notResident else q.notResident ++ [T.layer]
        resident := q.resident.filter (· != T.layer)
        weir := q.weir.map fun w => { w with done := w.done.filter (· != T.layer) } }
    else s
  | none => s

/-- NOT_RESIDENT layers of a slot with no swap get a reload operation (R433), which waits where the window is not met (R353). -/
def reloadOp (s : State) (p k : Nat) : State :=
  let q := s.slot p k
  if q.state == .partial_ && q.weir.isNone && q.job.isNone && !q.notResident.isEmpty then
    let (s, id) := newOp s
    s.modSlot p k fun q => { q with job := some { id := id, kind := .tarnReload, part := p, slot := k } }
  else s

/-- A swap that a reset has met runs again from step 2 of R349 (R354). -/
def rerunSwap (s : State) (p k : Nat) : State :=
  let q := s.slot p k
  match q.weir with
  | some w => if q.state == .partial_ && w.step != .staging then
      s.modSlot p k fun q => { q with weir := q.weir.map fun w => { w with step := .draining } } else s
  | none => s

/-- Close STALE entries (R351), with whatever a closing completes. -/
def closeStale (s : State) (p : Nat) : State :=
  ((partEntries s p).filter fun q => q.2.stale && !q.2.closing).foldl (fun s q => closeEntry s p q.1 none) s

/-- Partition-domain counters are cleared, and the selectors that no section holds go to their reset value 0 (R143, R209, R297, R431; log entry
203); the image-slot registers and IMG_SCHED_FAULT stay. -/
def clearCounters (s : State) (p : Nat) : State :=
  s.modPart p fun q => { q with
    cnt := {}, imgSel := 0, layerSel := 0
    ing := {}, run := 0, okRun := 0, degraded := false, allFbLast := false, fbgPasses := 0, fbgReplay := 0, fbgStepFb := 0
    fbgAllFb := 0, fbgDegraded := 0, fbHist := []
    slots := q.slots.map fun k => (k.1, { k.2 with layerFb := [], layerReplay := [], pool := { k.2.pool with
      allocWait := 0, reclaim := 0, specReturn := 0, editCnt := 0, editBusy := 0, seqFull := 0, poisonPages := 0 } }) }

/-- Steps 6 and 7 of a reset (R430, R431, R351): waiting batches are applied, STALE entries closed, counters cleared, registers
reloaded, and the fence is lifted. -/
def resetEnd (s : State) (p us : Nat) : State :=
  let s := ((partEntries s p).filter fun q => q.2.edit.isSome && !pinned s p q.1).foldl (fun s q => applyEdit s p q.1) s
  let s := clearCounters (closeStale s p) p
  let s := match (s.part p).cfg with | some c => loadRegs s p c | none => s
  let s := s.modPart p fun q => { q with resetting := false, resets := wrapAdd q.resets 1, lastUs := us % 2 ^ 32 }
  let s := (usedSlots s p).foldl (fun s k => rerunSwap (reloadOp s p k) p k) s
  let s := report s 0xF0 0x01 evPartitionReset (some p) [(1, p), (1, (s.part p).cause), (4, us)]
  s.modPart p fun q => { q with state := .starting }

end Sys2Proof.Machine
end

