-- ==== Sys2Proof/Machine/OpsHk.lean ====
section
/-! DEFINITION. Shared operations of housekeeping, temperature and power (R484 to R508): sequence, sweeps, temperatures, setpoints. -/

namespace Sys2Proof.Machine

/-- Change the housekeeping block of a die. -/
def modHk (s : State) (d : Nat) (f : Hk → Hk) : State := s.modDie d fun x => { x with hk := f x.hk }

/-- The housekeeping block of a die. -/
def hkOf (s : State) (d : Nat) : Hk := (s.die d).hk

/-- Change thermal control. -/
def modTherm (s : State) (f : Therm → Therm) : State := { s with therm := f s.therm }

/-- Logic dies that take part in Spring rounds: fitted and not dark (R490, R493). -/
def springDies (s : State) : List Nat := (allDies s.variant).filter fun d => (s.die d).state != .dark

/-! ### The sequence table (R485, R486) -/

/-- IOD0 or IOD3, which carry the 48 V inputs. -/
def mcDie (d : Nat) : Bool := d == 0x40 || d == 0x43

/-- The die carries an input. -/
def inputCarried (d input : Nat) : Bool :=
  if input = 3 ∨ input = 4 then decide (d < 40)
  else if input = 7 ∨ input = 8 then mcDie d
  else decide (input ≤ 0x0A)

/-- The Spring programme: entries 0 to 5. -/
def springEntry (d n : Nat) : HkSeq :=
  match n with
  | 0 => { input := 0, conv := 0, step := true, enable := true }
  | 1 => { input := 2, conv := 1, enable := true }
  | 2 => { input := 5, conv := 2, enable := true }
  | 3 => if d < 40 then { input := 3, conv := 3, enable := true }
         else if mcDie d then { input := 8, conv := 3, enable := true } else { conv := 3 }
  | 4 => { input := 1, conv := 0, step := true, enable := true }
  | _ => if d < 40 then { input := 4, conv := 3, enable := true }
         else if mcDie d then { input := 7, conv := 3, enable := true } else { conv := 3 }

/-- An entry of a die's sequence table. -/
def seqEntry (s : State) (d n : Nat) : HkSeq := if n < 6 then springEntry d n else tget {} (hkOf s d).seq n

/-- A RW entry accepts an input on a converter (R485): no reserved input, and diode inputs on HKC0 only. -/
def seqFieldOk (input conv : Nat) : Bool := decide (input ≤ 0x0A) && (decide (2 ≤ input) || conv == 0)

/-- Put an entry into the steps formed so far, the last step first (R486). -/
def addStep (s : State) (d : Nat) (acc : List (List Nat)) (n : Nat) : List (List Nat) :=
  let e := seqEntry s d n
  match acc with
  | [] => [[n]]
  | st :: rest =>
    if e.step || st.any fun m => (seqEntry s d m).conv == e.conv then [n] :: st :: rest else (st ++ [n]) :: rest

/-- The steps of a sweep over entries `ns` (R486). -/
def formSteps (s : State) (d : Nat) (ns : List Nat) : List (List Nat) :=
  ((ns.filter fun n => (seqEntry s d n).enable).foldl (addStep s d) []).reverse

/-- User entries. -/
def userEntries : List Nat := (List.range 10).map (6 + ·)

/-! ### Temperatures (R492) -/

/-- Round a quotient of integers to the nearest, ties to even (R44). -/
def rneInt (num : Int) (den : Nat) : Int :=
  let q := rneDiv num.natAbs den
  if num < 0 then -(q : Int) else q

/-- Raw temperature in sixteenths of a degree: `c` × (1.2 / 65,536) / (η × k/q × ln 8) − 273.15. -/
def rawTemp (ideal c : Nat) : Int :=
  let num : Nat := c * 192 * 16384 * 10 ^ 11 * 2 ^ prec
  let den : Nat := 655360 * (16384 + ideal) * 8617333 * 3 * ln2Fix
  rneInt (10 * (num : Int) - 43704 * (den : Int)) (10 * den)

/-- A DIODE_HI result is a valid reading. -/
def tempValid (ideal : Nat) (r : HkRes) : Bool :=
  r.valid && r.code != 0 && r.code != 4095 && decide (-640 ≤ rawTemp ideal r.code) && decide (rawTemp ideal r.code ≤ 2400)

/-- A signed figure as a 4-byte payload field. -/
def s32 (i : Int) : Nat := (i % (2 ^ 32 : Int)).toNat

/-! ### Setpoints (R497, R501) -/

/-- Put a setpoint in force: THERMAL_THROTTLE when the die becomes throttled, THERMAL_CLEAR when it stops. -/
def setVset (s : State) (d v : Nat) : State :=
  let thr := decide (v < s.therm.vTarget)
  let was := (hkOf s d).throttled
  let s := modHk s d fun h => { h with vset := v, throttled := thr }
  if thr == was then s
  else if thr then report s 0xF0 0x04 evThermalThrottle none [(1, d), (4, s32 (hkOf s d).ctl), (1, v)]
  else report s 0xF0 0x04 evThermalClear none [(1, d)]

/-! ### Sweeps (R486 to R489, R503) -/

/-- A user sweep begins, or waits for the running one (R487). -/
def startUser (s : State) (d : Nat) : State :=
  let h := hkOf s d
  if h.sweep.isSome then modHk s d fun h => { h with heldTrig := true }
  else
    let st := formSteps s d userEntries
    if st.isEmpty then s else modHk s d fun h => { h with sweep := some { kind := .user, steps := st }, refOn := true }

/-- The die-local trip (R503): raw temperature at 105 °C or above in two consecutive sweeps. -/
def tripCheck (s : State) (d : Nat) : State :=
  let h := hkOf s d
  let r := tget {} h.res 4
  let raw := rawTemp h.ideal r.code
  let run := if tempValid h.ideal r && decide (1680 ≤ raw) then Nat.min 2 (h.hotSweeps + 1) else 0
  let s := modHk s d fun h => { h with raw := raw, hotSweeps := run }
  if run < 2 ∨ h.trip then s
  else
    let s := setVset (modHk s d fun h => { h with trip := true, tripCnt := satAdd h.tripCnt 1 }) d 0
    report s d 0x01 evThermalTrip none [(1, d), (4, s32 raw)]

/-- A sweep of a die has ended (R487, R488): the next one follows. -/
def endSweep (s : State) (d : Nat) (k : Sweep) : State :=
  let s := modHk s d fun h => { h with
    sweep := none, sweepSeq := (h.sweepSeq + 1) % 256, refOn := !h.lowPower, reported := h.reported || k == .spring }
  let s := if k == .user then s else tripCheck s d
  let h := hkOf s d
  match h.parked with
  | some w => modHk s d fun h => { h with sweep := some w, parked := none, refOn := true }
  | none => if h.heldTrig then startUser (modHk s d fun h => { h with heldTrig := false }) d else s

/-- Results of a step's entries (R485, R489). -/
def stepResults (s : State) (d : Nat) (w : HkSweep) (st : List Nat) (codes : List (Nat × Nat)) : State :=
  st.foldl (fun s n =>
    let e := seqEntry s d n
    let carried := inputCarried d e.input
    let code := if carried then tget 0 codes n % 4096 else 0
    let r : HkRes := { code := code, valid := carried && (e.input != 1 || w.sawLo), sweep := ((hkOf s d).sweepSeq + 1) % 256
                       spring := w.kind == .spring }
    modHk s d fun h => { h with res := tset {} h.res n r }) s

/-- A step has sampled the diode at the low current. -/
def stepLo (s : State) (d : Nat) (st : List Nat) : Bool := st.any fun n => (seqEntry s d n).input == 0

/-- Begin a sweep that takes precedence over a user sweep, which is resumed after it. -/
def beginSweep (s : State) (d : Nat) (k : Sweep) (ns : List Nat) : State :=
  let st := formSteps s d ns
  modHk s d fun h => { h with
    parked := match h.sweep with | some w => if w.kind == .user then some w else h.parked | none => h.parked
    sweep := some { kind := k, steps := st }, refOn := true }

/-! ### What the MC reads from Spring reports (R493 to R495) -/

/-- The last reported raw temperature of a die. -/
def repRaw (s : State) (d : Nat) : Int := rawTemp (hkOf s d).ideal (tget {} (hkOf s d).rep 4).code

/-- The last report holds a valid reading. -/
def repValid (s : State) (d : Nat) : Bool := tempValid (hkOf s d).ideal (tget {} (hkOf s d).rep 4)

/-- The report of this round has reached the MC. -/
def gotReport (s : State) (d : Nat) : Bool := (hkOf s d).reported

/-- Raw temperatures that a die's prediction rests on (R493): neighbours with a valid report this round that are not SUSPECT. -/
def predictFrom (s : State) (ds : List Nat) (d : Nat) : List Int :=
  ((dieNeighbours s.variant d).filter fun n => ds.contains n && gotReport s n && !(hkOf s n).suspect && repValid s n).map (repRaw s)

/-- The prediction as a quotient: sum over count, with ADJ_OFFSET in quarter degrees (R493). -/
def predictSum (s : State) (d : Nat) (l : List Int) : Int := l.sum + 4 * (hkOf s d).adjOffset * l.length

/-- The reading lies more than 8 °C from the prediction; never without one. -/
def deviates (s : State) (d : Nat) (l : List Int) : Bool :=
  !l.isEmpty && decide (128 * l.length < (repRaw s d * l.length - predictSum s d l).natAbs)

/-- The cross-check of one die (R494): its new SUSPECT state and run counts, with the event of a change. `l` is what its prediction
rests on; where there is none the event's prediction is a free value (log entry 1). -/
def crossCheck (s : State) (d : Nat) (l : List Int) : State :=
  let h := hkOf s d
  let valid := repValid s d
  let far := deviates s d l
  let got := h.reported
  let dev := if got then (if valid && far then Nat.min 3 (h.devRun + 1) else 0) else h.devRun
  let ok := if h.suspect && got && valid && !far then h.okRun + 1 else 0
  let bad := if got then !valid || decide (3 ≤ dev) else decide (3 ≤ h.missRun)
  let sus := if h.suspect then decide (ok < 300) else bad
  let s := modHk s d fun h => { h with
    suspect := sus, noNeighbour := l.isEmpty, devRun := if h.suspect && !sus then 0 else dev
    okRun := if sus && h.suspect then ok else 0 }
  if sus == h.suspect then s
  else if sus then
    let (s, any) := if l.isEmpty then freeWord s else (s, s32 (rneInt (predictSum s d l) l.length))
    report s 0xF0 0x04 evSensorSuspect none [(1, d), (4, s32 (repRaw s d)), (4, any)]
  else report s 0xF0 0x04 evSensorOk none [(1, d)]

/-- The highest of a list of temperatures. -/
def highest : List Int → Option Int
  | [] => none
  | t :: ts => some (match highest ts with | some u => max t u | none => t)

/-- The control temperature of a die (R495). -/
def controlTemp (s : State) (ds : List Nat) (d : Nat) : Int :=
  let good := fun n => ds.contains n && !(hkOf s n).suspect && repValid s n
  if !(hkOf s d).suspect then repRaw s d
  else match highest (((dieNeighbours s.variant d).filter good).map (repRaw s)) with
    | some t => t + 80
    | none => match highest ((ds.filter good).map (repRaw s)) with
      | some t => t + 80
      | none => 1520

/-! ### Stacks (R496) -/

/-- Numbers of fitted stacks: DRAM 0 to 19, Reservoir 24 to 27. -/
def stackIds (s : State) : List Nat := (List.range 20).filter (stackFitted s.variant) ++ [24, 25, 26, 27]

/-- Read one stack: its readout, whether it is hot, and STACK_HOT where it becomes so. A missing readout, before the third in sequence, leaves
the stack as it was (log entry 207). -/
def readStack (reads : List (Nat × Option Int)) (s : State) (k : Nat) : State :=
  let r := (reads.find? fun q => q.1 == k).bind Prod.snd
  let was := if k < 20 then (s.stack k).hot else (s.res (k - 24)).hot
  let run := match r with | some _ => 0 | none => (if k < 20 then (s.stack k).invalidRun else (s.res (k - 24)).invalidRun) + 1
  let isOver := match r with | some t => if k < 20 then decide (95 ≤ t) else decide (85 < t) | none => was
  let hot := isOver || decide (3 ≤ run)
  let s := if k < 20 then s.modStack k fun x => { x with
        temp := r.getD x.temp, tempValid := r.isSome, invalidRun := run, hot := hot }
    else s.modRes (k - 24) fun x => { x with
      tempReads := (x.tempReads ++ [(16 * r.getD 0, r.isSome)]).reverse.take 2 |>.reverse, invalidRun := run, hot := hot }
  if hot && !was then report s 0xF0 0x04 evStackHot none [(1, k), (4, s32 (r.getD 95))] else s

/-- Dies throttled as if at 95 °C because of their stack. -/
def hotDies (s : State) : List Nat := ((List.range 20).filter fun k => stackFitted s.variant k && (s.stack k).hot).map stackDie

/-! ### Power (R500) -/

/-- The module input power in units of 1/40,960 W: VIN48 × IIN48 of the last report, codes of 18.75 mV and 80/4,096 A. -/
def inputPower (t : Therm) : Nat := 15 * t.vinCode * t.iinCode

/-- The VIN48 × 63 A term of the effective limit in the same units. -/
def currentTerm (t : Therm) : Nat := 48384 * t.vinCode

/-- The effective limit in the same units. -/
def effLimit (t : Therm) : Nat := Nat.min (40960 * t.limitRound) (currentTerm t)

/-- Whole watts, to the nearest. -/
def watts (n : Nat) : Nat := rneDiv n 40960

/-- dp (R499): −1 above the limit, 0 from 0.97 of it, else +1. -/
def dpStep (t : Therm) : Int :=
  if effLimit t < inputPower t then -1 else if 97 * effLimit t ≤ 100 * inputPower t then 0 else 1

/-- dt (R499). -/
def dtStep (t : Int) : Int := if 1600 ≤ t then -4 else if 1520 ≤ t then -1 else if 1488 ≤ t then 0 else 1

/-- The setpoint after a round (R499), clamped to 0 and VTARGET. -/
def nextSet (v vtarget : Nat) (dt dp : Int) : Nat := Nat.min ((v : Int) + min dt dp).toNat vtarget

/-- Every VCORE channel goes to code 0 (R502, R504). -/
def allZero (s : State) : State :=
  (springDies s).foldl (fun s d => setVset (modHk s d fun h => { h with mcSet := 0 }) d 0) s

/-! ### Passes on a die (R287, R501) -/

/-- THERMAL on the open passes that hold work on a throttled or SUSPECT die. -/
def markThermal (s : State) : State :=
  let bad := (springDies s).filter (dieThermal s)
  if bad.isEmpty then s
  else s.parts.foldl (fun s q => s.modPart q.1 fun x => { x with
    passes := x.passes.map fun y => if (workDies s q.1 y.slot).any bad.contains then { y with thermal := true } else y }) s

end Sys2Proof.Machine
end

