-- ==== Sys2Proof/Machine/OpsPower.lean ====
section
/-! DEFINITION. Shared operations of power entry and module start (R410 to R414, R504, R527 to R529): what survives a loss of power,
power-down, and the start of the module. -/

namespace Sys2Proof.Machine

/-! ### What survives (R88, R91, R335, R529) -/

/-- A die keeps what is fused in it. -/
def bareDie (x : Die) : Die :=
  { stepping := x.stepping, calCount := x.calCount, calTime := x.calTime, hk := { ideal := x.hk.ideal } }

/-- A Tarn keeps its column map (R87, R91). -/
def bareTarn (x : Tarn) : Tarn := { colMap := x.colMap }

/-- A tile keeps the maps of its Tarns. -/
def bareTile (x : Tile) : Tile :=
  { tarns := (x.tarns.map fun q => (q.1, bareTarn q.2)).filter fun q => q.2 != {}, spMap := x.spMap }

/-- A commit record agrees with the stored header (R335). -/
def recordFits (x : ResSlot) : Bool :=
  match x.record with
  | some r => r.imageId == hdrId x.header && r.epoch == hdrEpoch x.header && r.chunks == hdrChunks x.header && r.extents == x.extents
  | none => false

/-- What the MC finds of a slot at a module start: one whose commit record is missing or disagrees reads INVALID (R335), as one that an
INSTALL was writing does (R355). -/
def bareResSlot (x : ResSlot) : ResSlot :=
  if x.state == .empty || recordFits x then x else { x with state := .invalid, record := none }

/-- A Reservoir stack keeps its directory and images. -/
def bareReservoir (x : Reservoir) : Reservoir :=
  { models := x.models.map fun q => (q.1, q.2.map fun m => { m with a := bareResSlot m.a, b := bareResSlot m.b }) }

/-- Everything outside the Reservoir, the flash devices and what is fused is lost (R529). What the block has sent and the commands that
wait are not its state to lose. -/
def bareState (s : State) : State :=
  { variant := s.variant, serial := s.serial, baseMac := s.baseMac, keyId := s.keyId, keyPublic := s.keyPublic
    coupling := s.coupling, provisioning := s.provisioning, power := s.power
    cfg := { flash0 := s.cfg.flash0, flash1 := s.cfg.flash1 }
    dies := (s.dies.map fun q => (q.1, bareDie q.2)).filter fun q => q.2 != {}
    tiles := (s.tiles.map fun q => (q.1, bareTile q.2)).filter fun q => q.2 != {}
    reservoirs := (s.reservoirs.map fun q => (q.1, bareReservoir q.2)).filter fun q => q.2 != {}
    out := s.out, free := s.free, pending := s.pending }

/-- A flash copy that was being written when power was lost holds bytes that the spec does not give (R400, R420): free values (log
entry 1). -/
def tornCopy (s : State) : State :=
  match s.cfg.write with
  | none => s
  | some w =>
    let n := w.image.length
    let any := (List.range n).map fun i => BitVec.ofNat 8 (Config.freeValue (s.free + i)).toNat
    let s := { s with free := s.free + n }
    if w.first then { s with cfg := { s.cfg with flash0 := any } } else { s with cfg := { s.cfg with flash1 := any } }

/-- The main rails ramp down (R529). -/
def powerDown (s : State) : State :=
  if !s.power.pwrgd then s
  else
    let s := bareState (tornCopy s)
    { s with power := { s.power with
        rails := false, pwrgd := false, testMode := false, thermAlert := false, iinOver := false, tapState := .reset, taps := [], shift := []
        tdo := false } }

/-- The 120 °C shutdown (R504, R529, R532): the alert stays asserted. -/
def shutdown120 (s : State) : State :=
  let s := powerDown s
  { s with power := { s.power with lock120 := true, vinRemoved := false, thermAlert := true } }

/-! ### Module time (R255, R415) -/

/-- A time of day arrives (R415): the first that is greater than the count is adopted; later ones set the slew target. -/
def adoptTime (s : State) (utc : Nat) : State :=
  if s.time.utc then { s with time := { s.time with slew := (utc : Int) - s.time.now } }
  else if utc ≤ s.time.now then s
  else
    let d := utc - s.time.now
    let s := { s with time := { s.time with now := utc, utc := true, adopt := utc, step := d } }
    report s 0xF0 0x00 evTimeSet none [(8, utc), (8, d)]

/-! ### Module start (R89, R403, R410 to R414) -/

/-- The link-local IPv6 address of a MAC address: fe80::/64 with the modified EUI-64 identifier. -/
def linkLocal (mac : Nat) : Nat :=
  let hi := mac / 2 ^ 24
  0xFE80 * 2 ^ 112 + (hi ^^^ 0x020000) * 2 ^ 40 + 0xFFFE * 2 ^ 24 + mac % 2 ^ 24

/-- The factory defaults of the MODULE section (R411). -/
def defaultModule (s : State) : ModCfg :=
  { mpAddr := [linkLocal (s.baseMac + 12), linkLocal (s.baseMac + 13)] }

/-- Functions HPn.Ff are presented (R365, R413). -/
def presentFns (s : State) (fns : List Nat) : State :=
  (List.range 8).foldl (fun s p =>
    let n := fns.getD p 1
    let s := s.modHport p fun h => { h with fns := n }
    (List.range n).foldl (fun s f => s.modFn (p * 8 + f) fun x => { x with presented := true }) s) s

/-- The MODULE section takes effect (R405, R412 step 4). -/
def applyModule (s : State) (m : ModCfg) : State :=
  let s := presentFns { s with cfg := { s.cfg with module := m } } m.fns
  let s := m.ports.foldl (fun s q => s.modFport q.1 fun f => { f with cfg := q.2 }) s
  let s := m.lines.foldl (fun s q => s.modFiod q.1 fun f => { f with lines := f.lines ++ [q.2] }) s
  let s := m.channels.foldl (fun s q => s.modFiod q.1 fun f => { f with
    channels := tmod {} f.channels q.2.1 fun c => { c with hold := q.2.2.1, subs := q.2.2.2 } }) s
  { s with therm := { s.therm with limit := m.power, limitRound := m.power, effLimit := m.power } }

/-- Steps 3 and 4 of R412: both copies are checked, one is chosen, or the defaults are taken (R410, R411). -/
def chooseConfig (s : State) : State :=
  let r := fun n => copyReason s.variant s.serial s.baseMac (copyImage s n)
  let c := chooseCopy s
  let s := { s with cfg := { s.cfg with
    reason0 := r 0, reason1 := r 1, gen0 := imageGen (copyImage s 0), gen1 := imageGen (copyImage s 1) } }
  let bad := fun (s : State) n => if c == some n then s else report s 0xF0 0x00 evCfgCopyBad none [(1, n), (2, r n)]
  let s := bad (bad s 0) 1
  match c with
  | none =>
    let s := applyModule { s with cfg := { s.cfg with defaulted := true } } (defaultModule s)
    report s 0xF0 0x00 evCfgDefaulted none [(2, r 0), (2, r 1)]
  | some n =>
    let img := copyImage s n
    let m := match parseModule s.variant s.baseMac (sectOf img 1) with | .ok m => m | .error _ => defaultModule s
    let s := applyModule { s with cfg := { s.cfg with
      copyUse := n == 1, genUse := imageGen img, owners := (parseOwners (sectOf img 2)).getD [] } } m
    report s 0xF0 0x00 evCfgApplied none [(1, n), (8, imageGen img)]

/-- Step 6: dies without a calibration are excluded (R89). -/
def excludeDies (s : State) : State :=
  ((List.range 40).filter fun d => adFitted s.variant d && (s.die d).calCount == 0).foldl (fun s d =>
    report (s.modDie d fun x => { x with state := .excluded }) 0xF0 0x06 evDieUncalibrated none [(1, d)]) s

/-- Steps 8 to 10: sections are applied in ascending partition order, then their start-time loads begin (R414). -/
def startParts (s : State) : State :=
  match chooseCopy s with
  | none => s
  | some n =>
    let img := copyImage s n
    let secs := (List.range 64).filterMap fun p => (partSections img).find? fun q => q.1 == p
    let s := secs.foldl (fun s q => applySection s q.1 q.2 (imageGen img)) s
    secs.foldl (fun s q => beginLoads s q.1) s

/-- Steps 2 to 10 of R412 from a bare state. A time of day that was held is adopted at step 4 (R420). -/
def startFrom (s : State) (test0 test3 : Bool) (tod : Option Nat) : State :=
  let s := { s with cfg := { s.cfg with
    test0 := test0, test3 := test3, active3 := !test0, standbyReady := test0 && test3, started := true, phase := 5 } }
  let s := chooseConfig s
  let s := match tod with | some t => adoptTime s t | none => s
  let s := excludeDies s
  startParts ([0, 1, 2, 3].foldl (fun s k => s.modRes k fun x => { x with ready := true }) s)

end Sys2Proof.Machine
end

