-- ==== Sys2Proof/Machine/Electrical.lean ====
section
/-! DEFINITION. Power entry and the boundary-scan port (R504, R527 to R532, R541, R542). -/

namespace Sys2Proof.Machine

/-! ### Power entry (R527 to R529) -/

/-- POWER_UP (R528): MOD_EN is high and VIN48 reads `vin48mV`; with 3V3_AUX in range the rails ramp and PWRGD is released, when
JTAG_EN is sampled (R542). After a 120 °C shutdown the 48 V input must have been removed (R504). -/
def execPowerUp (vin48mV : Nat) (jtagEn : Bool) (s : State) : Out :=
  guarded (instrWellFormed (.powerUp vin48mV jtagEn))
    (if s.power.pwrgd then s
     else
       let ok := s.power.aux && decide (40000 ≤ vin48mV) && (!s.power.lock120 || s.power.vinRemoved)
       let s := { s with power := { s.power with modEn := true, vin48 := vin48mV } }
       if !ok then s
       else { s with power := { s.power with
         rails := true, pwrgd := true, testMode := jtagEn, lock120 := false, vinRemoved := false, thermAlert := false } })

/-- MOD_EN_FALL (R529). -/
def execModEnFall (s : State) : Out :=
  guarded (instrWellFormed .modEnFall)
    (powerDown { s with power := { s.power with modEn := false } })

/-- VIN48_UNDERVOLTAGE (R504, R529): VIN48 has stayed below 38 V for 1 ms. -/
def execVin48Undervoltage (vin48mV : Nat) (s : State) : Out :=
  guarded (instrWellFormed (.vin48Undervoltage vin48mV))
    (if 38000 ≤ vin48mV then s
     else powerDown { s with power := { s.power with vin48 := vin48mV, vinRemoved := s.power.lock120 || s.power.vinRemoved } })

/-- AUX_OUT_OF_RANGE (R529, R532): 3V3_AUX has been out of its range for 1 ms; the alert is no longer driven. -/
def execAuxOutOfRange (s : State) : Out :=
  guarded (instrWellFormed .auxOutOfRange)
    (let s := powerDown { s with power := { s.power with aux := false } }
     { s with power := { s.power with thermAlert := false } })

/-- AUX_IN_RANGE (R527, R532): the auxiliary domain starts; after a 120 °C shutdown it drives the alert again. -/
def execAuxInRange (s : State) : Out :=
  guarded (instrWellFormed .auxInRange)
    { s with power := { s.power with aux := true, thermAlert := s.power.thermAlert || s.power.lock120 } }

/-! ### Boundary scan (R541, R542) -/

/-- The state transition of a TAP controller (IEEE 1149.1) at a TCK edge with TMS. -/
def tapNext (t : TapState) (tms : Bool) : TapState :=
  match t, tms with
  | .reset, true => .reset
  | .reset, false => .idle
  | .idle, true => .selDr
  | .idle, false => .idle
  | .selDr, true => .selIr
  | .selDr, false => .capDr
  | .capDr, true => .ex1Dr
  | .capDr, false => .shDr
  | .shDr, true => .ex1Dr
  | .shDr, false => .shDr
  | .ex1Dr, true => .updDr
  | .ex1Dr, false => .pauDr
  | .pauDr, true => .ex2Dr
  | .pauDr, false => .pauDr
  | .ex2Dr, true => .updDr
  | .ex2Dr, false => .shDr
  | .updDr, true => .selDr
  | .updDr, false => .idle
  | .selIr, true => .reset
  | .selIr, false => .capIr
  | .capIr, true => .ex1Ir
  | .capIr, false => .shIr
  | .shIr, true => .ex1Ir
  | .shIr, false => .shIr
  | .ex1Ir, true => .updIr
  | .ex1Ir, false => .pauIr
  | .pauIr, true => .ex2Ir
  | .pauIr, false => .pauIr
  | .ex2Ir, true => .updIr
  | .ex2Ir, false => .shIr
  | .updIr, true => .selDr
  | .updIr, false => .idle

/-- Fitted IODs of the chain, in the order of R541. -/
def tapChain (s : State) : List Nat := (List.range 6).filter (iodFitted s.variant)

/-- The instruction of an IOD's port; IDCODE after reset, as IEEE 1149.1 sets a port that has one. -/
def tapInstr (s : State) (i : Nat) : TapInstr := tget .idcode s.power.taps i

/-- IDCODE (R541) without the manufacturer code of [11:1], which the spec does not give: a free value, the same for every port (log
entry 1). -/
def idcode : Nat := 2 ^ 28 + 0x6420 * 2 ^ 12 + 2 * ((Config.freeValue 0).toNat % 2 ^ 11) + 1

/-- Length of the shift register that a port's instruction selects: the device identification register, or the single bypass bit. The
boundary register of SAMPLE and EXTEST, whose length and cells the BSDL file holds and the spec does not, is not shifted by
this model; those ports pass TDI on through one bit of free value. -/
def tapLen (i : TapInstr) : Nat := match i with | .idcode => 32 | _ => 1

/-- What a port's selected register loads at Capture. -/
def tapLoad (s : State) (i : Nat) : State × Nat :=
  match tapInstr s i with
  | .idcode => (s, idcode)
  | .sample => ((freeWord s).1, (freeWord s).2 % 2)
  | .extest => ((freeWord s).1, (freeWord s).2 % 2)
  | _ => (s, 0)

/-- Set a port's shift register. -/
def tapSet (s : State) (i v : Nat) : State := { s with power := { s.power with shift := tset 0 s.power.shift i v } }

/-- Capture, port by port. -/
def tapCapture (s : State) : State := (tapChain s).foldl (fun s i => tapSet (tapLoad s i).1 i (tapLoad s i).2) s

/-- Shift the chain by one bit from TDI to TDO. -/
def tapShift (s : State) (tdi : Bool) : State :=
  let r := (tapChain s).foldl (fun (q : State × Bool) i =>
    let v := tget 0 q.1.power.shift i
    let n := tapLen (tapInstr q.1 i)
    let s := q.1
    (tapSet s i (v / 2 + b2n q.2 * 2 ^ (n - 1)), v % 2 == 1)) (s, tdi)
  let s := r.1
  { s with power := { s.power with tdo := r.2 } }

/-- BOUNDARY_SCAN_CYCLE (R541, R542): a TCK cycle with TMS and TDI, or TRST# asserted. `irs` are the instructions that a pass
through Update-IR loads into the ports, in chain order. With JTAG_EN low every port stays in Test-Logic-Reset. -/
def execBoundaryScanCycle (trst tms tdi : Bool) (irs : List TapInstr) (s : State) : Out :=
  guarded (instrWellFormed (.boundaryScanCycle trst tms tdi irs))
    (let held := { s with power := { s.power with tapState := .reset, taps := [], shift := [], tdo := false } }
     if !s.power.pwrgd || !s.power.testMode || trst then held
     else
       let s := match s.power.tapState with
         | .capDr => tapCapture s
         | .shDr => tapShift s tdi
         | _ => s
       let n := tapNext s.power.tapState tms
       let s := { s with power := { s.power with tapState := n } }
       match n with
       | .reset => { s with power := { s.power with taps := [], shift := [] } }
       | .updIr => { s with power := { s.power with
           taps := ((tapChain s).zip irs).foldl (fun t q => tset .idcode t q.1 q.2) s.power.taps } }
       | _ => s)

end Sys2Proof.Machine
end

