-- ==== Sys2Proof/Machine/Faults.lean ====
section
/-! DEFINITION. Silent errors (R447 to R464): engine completions and their findings, residue repeats, link parity, stripes and
links going down, DRAM patrol, and the rolling fault windows. -/

namespace Sys2Proof.Machine

/-- Unit kinds in event payloads (R467). -/
def unitCode : UnitKind → Nat
  | .ceRow => 0
  | .aeRow => 1
  | .adderTree => 2
  | .spadRow => 3
  | .basinWord => 4

/-- The payload of FAULT_TRANSIENT, FAULT_PERMANENT and ROW_MAPPED_OUT (R467). -/
def unitPay (t : Nat) (u : UnitKind) (i : Nat) : List (Nat × Nat) := [(1, tileDie t), (1, t % 32), (1, unitCode u), (2, i)]

/-- Change the die of a tile. -/
def modTileDie (s : State) (t : Nat) (f : Die → Die) : State := s.modDie (tileDie t) f

/-- The pass that a context serves consumes poison. -/
def poisonCtx (s : State) (t c : Nat) : State :=
  let k := ctxOf s t c
  poisonPass s (ctxPart k) k.pass reasonPassFailed

/-- A scratchpad parity error (R457): the data delivered is poisoned; the row turns suspect, or a suspect one is mapped out to a
spare row, or is lost and the tile is SHORT. -/
def spadParity (s : State) (t c row : Nat) : State :=
  let s := poisonCtx s t c
  let s := modTileDie s t fun d => { d with spadPar := satAdd d.spadPar 1 }
  if !(rowOf (s.tile t) row).suspect then
    s.modTile t fun x => { x with rows := tmod {} x.rows row fun r => { r with suspect := true } }
  else if (s.tile t).spareRows < 256 then
    let s := s.modTile t fun x => { x with
      rows := tmod {} x.rows row fun r => { r with suspect := false }, spareRows := x.spareRows + 1 }
    let s := modTileDie s t fun d => { d with spadMapout := satAdd d.spadMapout 1 }
    reportTile s t evRowMappedOut none (unitPay t .spadRow row)
  else (shortTile s t).modTile t fun x => { x with
    spadShort := true, rowsLost := if x.rowsLost.contains row then x.rowsLost else x.rowsLost ++ [row] }

/-- A Basin word read with a corrected error (R458); one whose error reappears is mapped out to a spare word, or lost. -/
def basinFix (s : State) (t word : Nat) (reappeared : Bool) : State :=
  let s := modTileDie s t fun d => { d with basinCe := satAdd d.basinCe 1 }
  if !reappeared then s
  else if (s.tile t).basinSpares < 256 then
    let s := s.modTile t fun x => { x with basinSpares := x.basinSpares + 1 }
    let s := modTileDie s t fun d => { d with basinMapout := satAdd d.basinMapout 1 }
    reportTile s t evRowMappedOut none (unitPay t .basinWord word)
  else
    let s := s.modTile t fun x => { x with basinLost := x.basinLost + 1 }
    let x := s.tile t
    if 16384 < x.basinWords + x.basinLost then (shortTile s t).modTile t fun x => { x with short := true } else s

/-- The work of an instruction in flight is done: of a TARN_MVM, the rounds of its MVMs (R71, R179); none that is being repeated
(R454). -/
def workDone (x : Tile) (f : InFlight) : Bool :=
  (x.residuePending.all fun q => q.2.2 != f.id) && f.tarns.all fun n => match (tarnOf x n).mvm with
    | some v => v.op != f.id || v.quads.isEmpty
    | none => true

/-- An instruction in flight ends: the end of a COMBINE frees its tile (R157). -/
def endFlight (q : InFlight) (x : Tile) : Tile :=
  { x with inFlight := x.inFlight.erase q, combining := x.combining && !q.combine }

/-- ENGINE_COMPLETION (R179) with what the completion finds (R454, R457, R458): that of the oldest instruction of the engine whose work is
done. One with a residue mismatch goes on until its repeat is done. `coll` accesses coincided (R194). -/
def execEngineCompletion (t : Nat) (engine : Engine) (finding : EngineFinding) (coll now : Nat) (s : State) : Out :=
  guarded (instrWellFormed (.engineCompletion t engine finding coll now))
    (let s := s.setNow now
     match (s.tile t).inFlight.find? fun q => q.engine == engine && workDone (s.tile t) q with
     | none => s
     | some q =>
      let c := q.ctx
      let s := s.modTile t fun x => { x with arbCollideCnt := wrapAdd x.arbCollideCnt coll }
      let done := s.modTile t (endFlight q)
      match finding with
      | .ok => done
      | .residueMismatch u i => s.modTile t fun x => { x with residuePending := x.residuePending ++ [(u, i, q.id)] }
      | .spadParity row => spadParity done t c row
      | .basinCorrected w r => basinFix done t w r
      | .basinUncorrectable w =>
        let s := done.modTile t fun x => putWord x false w { wordOf x false w with poison := true }
        poisonCtx (modTileDie s t fun d => { d with basinUe := satAdd d.basinUe 1 }) t c)

/-- Key of a unit's fault window on its tile, or on its engine for an AE row (index = engine × 64 + row). -/
def unitKey (u : UnitKind) (i : Nat) : Nat := unitCode u * 1024 + i

/-- Transient faults of a unit in the rolling 24 hours (R456). -/
def unitCount (s : State) (t : Nat) (u : UnitKind) (i : Nat) : Nat :=
  let h := hourOf s.now
  if u == .aeRow then last24 h (tget [] (tget {} (s.die (tileDie t)).ae (i / 64)).faults (i % 64))
  else last24 h (tget [] (s.tile t).unitFaults (unitKey u i))

/-- Record a transient fault of a unit. -/
def unitRecord (s : State) (t : Nat) (u : UnitKind) (i : Nat) : State :=
  let h := hourOf s.now
  if u == .aeRow then modAe s (tileDie t) (i / 64) fun a => { a with faults := tmod [] a.faults (i % 64) fun b => tmod 0 b h (· + 1) }
  else s.modTile t fun x => { x with unitFaults := tmod [] x.unitFaults (unitKey u i) fun b => tmod 0 b h (· + 1) }

/-- A unit leaves service: the window of the spare that takes its number starts empty (R456). -/
def unitForget (s : State) (t : Nat) (u : UnitKind) (i : Nat) : State :=
  if u == .aeRow then modAe s (tileDie t) (i / 64) fun a => { a with faults := tdel a.faults (i % 64) }
  else s.modTile t fun x => { x with unitFaults := tdel x.unitFaults (unitKey u i) }

/-- Map a faulty unit to its spare, or take what R455 names where none is left. -/
def mapUnit (s : State) (t : Nat) (u : UnitKind) (i : Nat) : State :=
  match u with
  | .ceRow =>
    if (s.tile t).ceSpareUsed then (shortTile s t).modTile t fun x => { x with short := true }
    else s.modTile t fun x => { x with ceSpareUsed := true }
  | .adderTree => replaceTarn s t i
  | .aeRow =>
    let d := tileDie t
    let e := i / 64
    if (tget {} (s.die d).ae e).sparesUsed < 2 then modAe s d e fun a => { a with sparesUsed := a.sparesUsed + 1 }
    else
      let ws := (tget {} (s.die d).ae e).waiting
      let s := modAe s d e fun a => { a with fenced := true, waiting := [] }
      match (List.range 4).find? fun k => !(tget {} (s.die d).ae k).fenced with
      | some k => modAe s d k fun a => { a with waiting := a.waiting ++ ws }
      | none => s
  | _ => s

/-- A permanent fault (R454): counted, reported, mapped to its spare. -/
def permanentFault (s : State) (t : Nat) (u : UnitKind) (i : Nat) : State :=
  let s := modTileDie s t fun d => { d with residPerm := satAdd d.residPerm 1, permFaults := d.permFaults + 1 }
  mapUnit (unitForget (reportTile s t evFaultPermanent none (unitPay t u i)) t u i) t u i

/-- The repeat of an instruction is done (R454): it ends, and a poisoned output fails the pass of its context. -/
def endRepeat (s : State) (t id : Nat) (poison : Bool) : State :=
  match (s.tile t).inFlight.find? fun f => f.id == id with
  | none => s
  | some f =>
    let s := s.modTile t (endFlight f)
    if poison then poisonCtx s t f.ctx else s

/-- RESIDUE_REPEAT_DONE (R454, R456): a matching repeat is a transient fault, the next one after THR_TRANS in 24 hours counts as
permanent; a mismatching one is permanent, and a third result that mismatches poisons the output. -/
def execResidueRepeatDone (t : Nat) (unit : UnitKind) (index : Nat) (repeatOk thirdOk : Bool) (now : Nat) (s : State) : Out :=
  guarded (instrWellFormed (.residueRepeatDone t unit index repeatOk thirdOk now))
    (let s := s.setNow now
     match (s.tile t).residuePending.find? fun q => q.1 == unit && q.2.1 == index with
     | none => s
     | some q =>
      let s := s.modTile t fun x => { x with residuePending := x.residuePending.erase q }
      let thr := s.log.thrTrans
      let limit := thr != 0 && decide (thr ≤ unitCount s t unit index)
      if repeatOk && !limit then
        let s := modTileDie s t fun d => { d with residTrans := satAdd d.residTrans 1 }
        endRepeat (reportTile (unitRecord s t unit index) t evFaultTransient none (unitPay t unit index)) t q.2.2 false
      else endRepeat (permanentFault s t unit index) t q.2.2 (!repeatOk && !thirdOk))

/-- TRANSIENT_LIMIT (R456): a unit with THR_TRANS transient faults in the rolling 24 hours is declared permanent. The unit index
is tile number × 1024 + index within the tile, or engine × 64 + row for an AE row. -/
def execTransientLimit (die : Nat) (unit : UnitKind) (index now : Nat) (s : State) : Out :=
  guarded (instrWellFormed (.transientLimit die unit index now))
    (let s := s.setNow now
     let t := if unit == .aeRow then die * 32 else die * 32 + index / 1024 % 32
     let i := if unit == .aeRow then index else index % 1024
     if s.log.thrTrans != 0 && decide (s.log.thrTrans ≤ unitCount s t unit i) then permanentFault s t unit i else s)

/-! ### Links -/

/-- The stripe a transfer uses on a port (R200): the row or the clamped column of its sending tile, or the lowest stripe up
where that one is down (R464). -/
def xferStripe (w : TwPort) (port src : Nat) : Nat :=
  let n := src % 32
  let pref := if port % 2 = 1 then n / 8 else (Nat.min 5 (Nat.max 2 (n % 8))) - 2
  if bitOf w.stripes pref then pref else ((List.range 4).find? fun i => bitOf w.stripes i).getD pref

/-- The bytes that a transfer lost on port `q` had moved: over every link before it, and out of that port (R210). -/
def countLost (s : State) (q : Nat × Nat) (x : Xfer) : State :=
  let pre := x.links.takeWhile (· != q)
  if pre.isEmpty then s else countTx (countCrossed s pre x.bytes) q x.bytes

/-- Lose transfers in flight on a port (R202): counted, their passes poisoned, no counter raised. -/
def loseXfers (s : State) (die port : Nat) (lost : Xfer → Bool) : State :=
  let gone := s.xfers.filter fun x => x.links.contains (die, port) && lost x
  let s := { s with xfers := s.xfers.filter fun x => !(x.links.contains (die, port) && lost x) }
  let s := s.modDie die fun d => { d with tw := tmod {} d.tw port fun w => { w with lost := satAdd w.lost gone.length } }
  gone.foldl (fun s x => poisonPass (countLost s (die, port) x) x.part (some x.pass) reasonPassFailed) s

/-- Take a port down (R202): both ends of the link read LINK_DOWN with no stripe up (R464), and what was in flight on it is lost. -/
def linkDown (s : State) (die port : Nat) : State :=
  let s := loseXfers (s.modDie die fun d => { d with tw := tmod {} d.tw port fun w => { w with up := false, stripes := 0 } }) die port fun _ => true
  match twNeighbour s.variant die port with
  | some e =>
    (match facingPort s.variant e die with
    | some r => loseXfers (s.modDie e fun d => { d with tw := tmod {} d.tw r fun w => { w with up := false, stripes := 0 } }) e r fun _ => true
    | none => s)
  | none => s

/-- FLIT_PARITY_ERROR (R464): the flit is refused and sent again once; counted and reported. On a Twimer port the errors of the
100 ms interval and the stripes on which a resend failed are kept, and a port that connects to no die has no link events (R20); on an on-die channel (of tile `onDie`) a failed
resend is a permanent fault of the tile. -/
def execFlitParityError (die port stripe : Nat) (onDie : Option Nat) (resendOk : Bool) (now : Nat) (s : State) : Out :=
  guarded (instrWellFormed (.flitParityError die port stripe onDie resendOk now))
    (let s := s.setNow now
     let iv := s.now / 100000000
     let seen := fun s : State => report s die 0x04 evLinkParity none [(1, die), (1, port), (1, stripe)]
     match onDie with
     | some t =>
       let s := seen (s.modDie die fun d => { d with chanPar := satAdd d.chanPar 1 })
       if resendOk then s
       else (shortTile (modTileDie s t fun d => { d with permFaults := d.permFaults + 1 }) t).modTile t fun x => { x with short := true }
     | none =>
       if (twNeighbour s.variant die port).isNone then s
       else seen (s.modDie die fun d => { d with tw := tmod {} d.tw port fun w =>
         let e := if w.ivl = iv then w.ivlErr else []
         { w with parity := satAdd w.parity 1, ivl := iv, ivlErr := tmod 0 e stripe (· + 1),
                   failed := if resendOk || w.failed.contains stripe then w.failed else w.failed ++ [stripe] } }))

/-- A stripe is to be taken down (R464): a resend on it failed, or 8,192 parity errors fell within one interval. -/
def stripeBad (w : TwPort) (stripe : Nat) : Bool := w.failed.contains stripe || decide (8192 ≤ tget 0 w.ivlErr stripe)

/-- STRIPE_DOWN (R464): the stripe leaves the port, what was in flight on it is lost, and a port with no stripe up is
LINK_DOWN. -/
def execStripeDown (die port stripe now : Nat) (s : State) : Out :=
  guarded (instrWellFormed (.stripeDown die port stripe now))
    (let s := s.setNow now
     let w := tget {} (s.die die).tw port
     if !bitOf w.stripes stripe || !stripeBad w stripe || (twNeighbour s.variant die port).isNone then s
     else
      let s := loseXfers s die port fun x => xferStripe w port x.src == stripe
      let s := s.modDie die fun d => { d with tw := tmod {} d.tw port fun w => { w with stripes := w.stripes - 2 ^ stripe } }
      let s := report s die 0x04 evStripeDown none [(1, die), (1, port), (1, stripe)]
      if (tget {} (s.die die).tw port).stripes = 0 then linkDown s die port else s)

/-- TWIMER_LINK_DOWN (R202): a port goes from LINK_UP to LINK_DOWN. -/
def execTwimerLinkDown (die port now : Nat) (s : State) : Out :=
  guarded (instrWellFormed (.twimerLinkDown die port now))
    (let s := s.setNow now
     if (tget {} (s.die die).tw port).up && (twNeighbour s.variant die port).isSome then linkDown s die port else s)

/-! ### Patrol and windows -/

/-- DRAM_PATROL_READ (R460): the channel's next word, under R459; at the end of the channel a pass is complete. -/
def execDramPatrolRead (stack ch : Nat) (ecc : Ecc) (now : Nat) (s : State) : Out :=
  guarded (instrWellFormed (.dramPatrolRead stack ch ecc now))
    (let s := s.setNow now
     if !stackFitted s.variant stack || (s.stack stack).lost || (s.stack stack).retired.contains (ch / 2) then s
     else
      let a := chanAddr stack ch (chanOf s stack ch).pos
      let s := match ecc with
        | .clean => s
        | .corrected => chanCorrected s a
        | .uncorrectable => chanUncorrectable s a ((granOwner s a).map Prod.fst)
      modChan s stack ch fun c =>
        if c.pos + 1 < chanUnits then { c with pos := c.pos + 1 } else { c with pos := 0, pass := wrapAdd c.pass 1 })

/-- Keep the buckets of the last 24 hours. -/
def rollTab (h : Nat) (b : Tab Nat) : Tab Nat := b.filter fun q => decide (h < q.1 + 24)

/-- Keep the buckets of a table of units, dropping units with none. -/
def rollUnits (h : Nat) (u : Tab (Tab Nat)) : Tab (Tab Nat) :=
  (u.map fun q => (q.1, rollTab h q.2)).filter fun q => !q.2.isEmpty

/-- FAULT_WINDOW_ROLL (R456, R465): each hour of module time, buckets older than 24 hours leave the windows. -/
def execFaultWindowRoll (now : Nat) (s : State) : Out :=
  guarded (instrWellFormed (.faultWindowRoll now))
    (let s := s.setNow now
     let h := hourOf s.now
     let s := s.tiles.foldl (fun s q => s.modTile q.1 fun x => { x with unitFaults := rollUnits h x.unitFaults }) s
     let s := s.dies.foldl (fun s q => q.2.ae.foldl (fun s a => modAe s q.1 a.1 fun x => { x with faults := rollUnits h x.faults }) s) s
     s.stackTab.foldl (fun s q => q.2.chans.foldl (fun s c => modChan s q.1 c.1 fun x =>
       { x with ce24 := rollTab h x.ce24, ue24 := rollTab h x.ue24 }) s) s)

end Sys2Proof.Machine
end

