-- ==== Sys2Proof/Machine/Feed.lean ====
section
/-! DEFINITION. Feed ingest and alarm egress (R300 to R323): frames, lookups, the drain, link changes and messages. -/

namespace Sys2Proof.Machine

/-- Act on a frame that passed R300. -/
def rxAct (s : State) (port : Nat) : RxFrame → State
  | .dgram d => lineMatch s d
  | .arp vlan mac sender target => sendArp s port vlan mac sender target
  | .neigh vlan mac src target => sendNeigh s port vlan mac src target
  | .igmp vlan body => answerIgmp s port vlan body
  | .mld vlan body => answerMld s port vlan body
  | .ignored => s

/-- FEED_FRAME_RX (R300 to R307): the port checks the frame, answers it or hands its datagram to the line arbiter, whose
accepted messages go through the field extractor. A port that is down receives nothing (R320). -/
def execFeedFrameRx (port : Nat) (frame : List Byte) (now : Nat) (s : State) : Out :=
  guarded (instrWellFormed (.feedFrameRx port frame now))
    (let s := s.setNow now
     let q := s.fport port
     if !q.up then s
     else match rxCheck q.cfg port s.now frame with
       | .error e => s.modFport port fun q => countDrop q e
       | .ok f =>
         let s := s.modFport port fun q => { q with
           rxFrames := wrapAdd q.rxFrames 1, rxBytes := wrapAdd q.rxBytes (frame.length - 4) }
         rxAct s port f)

/-- AUTO_OPEN (R309): the lowest FREE entry opens and takes the key; the entry, or none where nothing opens. -/
def autoOpen (s : State) (iod : Nat) (k : Lookup) : State × Option Nat :=
  let p := k.part
  match keyRoom s p k.keyspace k.key with
  | none =>
    let s := s.modPart p fun q => { q with ing := { q.ing with keyFull := satAdd q.ing.keyFull 1 } }
    if (s.part p).keyFullPeriod then (s, none)
    else (report (s.modPart p fun q => { q with keyFullPeriod := true }) (0x40 + iod) 0x1C evKeyTableFull (some p)
      [(1, p), (4, 1)], none)
  | some b =>
    match lowestFree s p with
    | none => (tableFull s p true, none)
    | some e =>
      let seqId := (crc64 (BitVec.ofNat 8 k.keyspace :: k.key)).toNat
      match openEntry s p e { seqId := seqId, cls := k.cls, slot := k.slot, drop := k.drop } with
      | .error _ => (tableFull s p false, none)
      | .ok s =>
        let s := keyInsert s p b k.keyspace k.key e
        (s.modPart p fun q => { q with ing := { q.ing with autoOpen := wrapAdd q.ing.autoOpen 1 } }, some e)

/-- The entry of a lookup (R309, R414). -/
def lookupEntry (s : State) (iod : Nat) (k : Lookup) : State × Option Nat :=
  match keyFind s k.part k.keyspace k.key with
  | some e => (s, some e)
  | none =>
    if k.autoOpen && (s.slot k.part k.slot).state == .ready then autoOpen s iod k
    else (s.modPart k.part fun q => { q with ing := { q.ing with keyMiss := satAdd q.ing.keyMiss 1 } }, none)

/-- KEY_LOOKUP_DONE (R309 to R313): the oldest lookup of the IOD ends; a hit or an opened entry makes an ingest entry. -/
def execKeyLookupDone (iod now : Nat) (s : State) : Out :=
  guarded (instrWellFormed (.keyLookupDone iod now))
    (let s := s.setNow now
     match (s.fiod iod).lookups with
     | [] => s
     | k :: ks =>
       let s := s.modFiod iod fun f => { f with lookups := ks }
       match lookupEntry s iod k with
       | (s, none) => s
       | (s, some e) => placeEvent s iod k.part e k)

/-- An event that the drain hands to an entry which cannot take it (R221, R258, R262): dropped; `none` where it can. -/
def drainRefused (s : State) (p : Nat) (k : IngestEntry) : Option State :=
  let x := s.entry k.entry
  if !x.open_ || x.closing || !ownsEntry s p k.entry then some s
  else if x.stale then some (modCnt s p fun c => { c with staleDrop := satAdd c.staleDrop 1 })
  else if 2 ^ 26 ≤ x.length then some (modPool s p x.slot fun q => { q with seqFull := satAdd q.seqFull 1 })
  else none

/-- Drain one ingest entry into its work queue (R259, R260, R312, R313). -/
def drainOne (p iod : Nat) (s : State) (k : IngestEntry) : State :=
  match drainRefused s p k with
  | some s => s
  | none =>
    if 4096 ≤ pendingOf (s.entry k.entry) then (if k.lost then markLost s iod p k.entry else loseEvent s iod p k.entry)
    else
      let id := (s.part p).nextItem
      let i : Item := { id := id, kind := .score, left := [k.token], lost := k.lost, arrival := k.arrival
                        deadline := if k.lost then none else k.deadline }
      let s := s.modPart p fun q => { q with
        nextItem := id + 1, ing := { q.ing with lostTokens := if k.lost then satAdd q.ing.lostTokens 1 else q.ing.lostTokens } }
      s.modEntry k.entry fun x => { x with queue := x.queue ++ [i] }

/-- INGEST_DRAIN (R312 to R314): the lead tile of a running partition drains the share of an IOD into the work queues; the
room that this makes goes to LOST_EVENTS tokens first. -/
def execIngestDrain (p iod now : Nat) (s : State) : Out :=
  guarded (instrWellFormed (.ingestDrain p iod now))
    (let s := s.setNow now
     if (s.part p).state != .running then s
     else
       let fifo := (share s iod p).fifo
       let s := modShare s iod p fun x => { x with fifo := [], overload := false }
       notePeak (placeAllMarked (fifo.foldl (drainOne p iod) s) iod p) p)

/-- ARB_HOLD_EXPIRY (R304): the oldest held datagram of a channel has reached its hold limit. -/
def execArbHoldExpiry (iod ch now : Nat) (s : State) : Out :=
  guarded (instrWellFormed (.arbHoldExpiry iod ch now))
    (let s := s.setNow now
     let c := channel s iod ch
     match (c.held.map Prod.fst).min? with
     | none => s
     | some t => if s.now < t + c.hold then s else declareGap s iod ch false)

/-- FEED_LINK (R323). -/
def reportFeedLink (s : State) (port : Nat) (up : Bool) : State :=
  report s (0x40 + port / 2) (0x18 + port % 2) evFeedLink none [(1, port), (1, b2n up)]

/-- FEED_LINK_UP (R300, R320, R323): an enabled port comes up and reports its groups, on every VLAN of its list (log entry
31). -/
def execFeedLinkUp (port now : Nat) (s : State) : Out :=
  guarded (instrWellFormed (.feedLinkUp port now))
    (let s := s.setNow now
     let q := s.fport port
     if q.up || !q.cfg.enable || !feedPortFitted s.variant port then s
     else
       let s := reportFeedLink (s.modFport port fun q => { q with up := true }) port true
       q.cfg.vlans.foldl (fun s v =>
         sendReports (sendReports s port v false true (groupsOf q.cfg false)) port v true true (groupsOf q.cfg true)) s)

/-- A port goes down (R317, R323): its waiting messages are dropped. -/
def portDown (s : State) (port : Nat) : State :=
  let q := s.fport port
  if !q.up then s
  else
    let s := s.modFport port fun q => { q with up := false, txq := [], txDrop := satAdd q.txDrop q.txq.length }
    reportFeedLink (q.txq.foldl (fun s m => txLost s m.part) s) port false

/-- FEED_LINK_DOWN (R317, R319, R323): holds run on, waiting messages are dropped. -/
def execFeedLinkDown (port now : Nat) (s : State) : Out :=
  guarded (instrWellFormed (.feedLinkDown port now)) (portDown (s.setNow now) port)

/-- ALARM_MSG_TX (R315): the oldest message of a port's transmit queue is sent. -/
def execAlarmMsgTx (port : Nat) (s : State) : Out :=
  guarded (instrWellFormed (.alarmMsgTx port))
    (let q := s.fport port
     match q.txq with
     | [] => s
     | m :: ms =>
       if !q.up then s
       else (s.modFport port fun q => { q with txq := ms, txFrames := wrapAdd q.txFrames 1 }).emit (.feedTx port m.bytes))

/-- Return a channel to UNSYNCED (R305). -/
def resyncChannel (s : State) (iod ch : Nat) : State :=
  modChannel (discardHeld s iod ch) iod ch fun c => { c with synced := false }

/-- ARB_RESYNC_CMD (R305, R321): a write of 1 to ARB_CMD.RESYNC resyncs the selected channel. -/
def execArbResyncCmd (iod value : Nat) (s : State) : Out :=
  guarded (instrWellFormed (.arbResyncCmd iod value))
    (if bitOf value 0 then resyncChannel s iod (s.fiod iod).arbSel else s)

end Sys2Proof.Machine
end

