-- ==== Sys2Proof/Machine/Images.lean ====
section
/-! DEFINITION. The image commands (R334 to R344, R352, R353, R355): INSTALL, ACTIVATE, ERASE, LOAD, UNLOAD, VARIANT_LOAD,
VARIANT_UNLOAD, ABORT, and the steps that carry them on. -/

namespace Sys2Proof.Machine

/-! ### How a command arrives (R338, R381, R474) -/

/-- An image command as it begins to run: its fields, where its answer goes, and its owner. -/
structure ImgReq where
  cmd : ImgCmd
  href : Option HostRef
  reply : Option Reply
  owner : Nat
  deriving DecidableEq, Repr

/-- End an image command that has no operation behind it. -/
def endCmd (s : State) (r : ImgReq) (reason : Nat) : State :=
  let c := r.cmd
  let s := if 4 ≤ c.op ∧ c.op ≤ 9 then imgLast s c.part c.slot reason c.tag else s
  let s := if reason = 0 then s else loadRefused s c.part c.slot reason
  imgAnswer s r.href r.reply reason

/-- The owner of a partition. -/
def partOwner (s : State) (p : Nat) : Option Nat := (s.part p).cfg.map PartCfg.owner

/-- A command that is malformed, or whose partition is not the issuer's (R338): it changes nothing but its own end. It is reported
with no partition. -/
def badCmd (s : State) (c : ImgCmd) (h : Option HostRef) (r : Option Reply) (reason : Nat) : State :=
  imgAnswer (report s 0xF0 0x00 evLoadRefused none [(1, c.part), (1, c.slot), (2, reason)]) h r reason

/-- Take the first command with these bytes from a queue's commands. -/
def takeFirst (sq : Nat) (cmd : List Byte) : List (HostRef × List Byte) → Option (HostRef × List (HostRef × List Byte))
  | [] => none
  | q :: qs => if q.1.sq = sq ∧ q.2 = cmd then some (q.1, qs) else (takeFirst sq cmd qs).map fun x => (x.1, q :: x.2)

/-- The bytes may be a command of this row: its OP, or malformed. -/
def opFits (op : Nat) (cmd : List Byte) : Bool := (imgFields cmd).op == op || !imgCmdOk cmd

/-- A command read by a function runs (R338, R381). -/
def hostCmd (s : State) (fn sq op : Nat) (cmd : List Byte) : State × Option ImgReq :=
  match (s.fnOf fn).part, takeFirst sq cmd (s.fnOf fn).cmds with
  | some p, some (h, rest) =>
    if !opFits op cmd then (s, none)
    else
      let s := s.modFn fn fun f => { f with cmds := rest }
      let c := imgFields cmd
      if !imgCmdOk cmd || c.part != p then (badCmd s c (some h) none 0x0200, none)
      else (s, some { cmd := c, href := some h, reply := none, owner := (partOwner s p).getD 0 })
  | _, _ => (s, none)

/-- An IMAGE command arrives over Flesha (R474): of the partition's owner, else 0x0207 OWNER (R425). -/
def fleshaCmd (s : State) (port addr udp op : Nat) (msg cmd : List Byte) : State × Option ImgReq :=
  if !fleshaServed s port || leAt msg 24 2 != 0x0010 || slice msg 32 (leAt msg 28 2) != cmd || !opFits op cmd then (s, none)
  else match fleshaAccept s port addr msg with
    | (s, none) => (s, none)
    | (s, some f) =>
      let r := replyOf f port addr udp
      let c := imgFields cmd
      if cmd.length ≠ 64 then (fleshaReply s r 0x0160 [], none)
      else if !imgCmdOk cmd then (badCmd s c none (some r) 0x0200, none)
      else if partOwner s c.part != some f.owner then (badCmd s c none (some r) 0x0207, none)
      else (s, some { cmd := c, href := none, reply := some r, owner := f.owner })

/-- Run a command, where it arrives. -/
def runCmd (s : State) (iss : Issuer) (op : Nat) (cmd : List Byte) (f : State → ImgReq → State) : State :=
  let r := match iss with
    | .host fn sq => hostCmd s fn sq op cmd
    | .flesha port addr udp msg => fleshaCmd s port addr udp op msg cmd
  match r.2 with
  | some q => f r.1 q
  | none => r.1

/-- An INSTALL of a model runs (R338). -/
def installing (s : State) (stack model : Nat) : Bool := (s.engine stack).jobs.any fun j => j.kind == .install && j.model == model

/-- An INSTALL runs on the model that a command names (R338). A LOAD of another slot of the model proceeds beside it (R356; log entry
212). -/
def modelBusy (s : State) (owner id : Nat) : Bool :=
  match findModel s owner id with
  | some q => installing s q.1 q.2.1
  | none => false

/-- A command names, by its epoch, the Reservoir slot that an INSTALL is writing (R338). -/
def slotWriting (s : State) (owner id epoch : Nat) : Bool :=
  match findModel s owner id with
  | some q => epoch != 0 && [q.2.2.a, q.2.2.b].any fun r => r.state == .writing && hdrEpoch r.header == epoch
  | none => false

/-- Another command runs on the image slot (R338). -/
def slotBusy (s : State) (p k : Nat) : Bool :=
  match (s.slot p k).job with
  | some j => j.kind == .load || j.kind == .swap || j.kind == .variantLoad
  | none => false

/-! ### INSTALL (R334 to R336) -/

/-- The target slot of an INSTALL (R334 step 2): the one that is not ACTIVE, A for a new model; of two such, the one with no complete
image, else the older epoch (log entry 36). -/
def targetB (m : Option ResModel) : Bool :=
  match m with
  | none => false
  | some m =>
    if m.a.state == .active then true
    else if m.b.state == .active then false
    else if !resReady m.a then false
    else if !resReady m.b then true
    else decide (hdrEpoch m.b.header < hdrEpoch m.a.header)

/-- Epochs of a model's complete images. -/
def heldEpochs (m : Option ResModel) : List Nat :=
  match m with
  | some m => ([m.a, m.b].filter resReady).map fun r => hdrEpoch r.header
  | none => []

/-- The INSTALL checks (R336, R353), as a reason; 0 where they pass. -/
def installCheck (s : State) (r : ImgReq) (header : List Byte) (plain : Plain) (keyOk : Bool) (stack model : Nat)
    (m : Option ResModel) : Nat :=
  let c := r.cmd
  let b := targetB m
  let held := match m with | some x => (resSlotOf x b).extents.length | none => 0
  if !headerOk header || !manifestOk plain (byteAt header 5) (hdrPlain header) || hdrId header != c.imageId ||
      (c.epoch != 0 && hdrEpoch header != c.epoch) || (r.href.isSome && c.length != hdrStored header) then 0x0200
  else if byteAt header 16 % 64 != r.owner then 0x0207
  else if !keyOk || !headerKeyed s header then 0x0201
  else if m.isSome && installing s stack model then 0x0208
  else if (heldEpochs m).any fun e => decide (hdrEpoch header ≤ e) then 0x0206
  else if m.isSome && resInUse s stack model b then 0x020A
  else if m.isNone && decide (64 ≤ ((s.res stack).models.filter fun q => q.2.isSome).length) then 0x0209
  else if 2048 < (extentsUsed s stack).length - held + hdrExtents header then 0x0205
  else if !resWritable s stack then 0x0203
  else 0

/-- The lowest unused directory entry of a stack. -/
def freeModel (s : State) (stack : Nat) : Nat := ((List.range 64).find? fun i => (modelAt s stack i).isNone).getD 0

/-- The lowest free extents of a stack. -/
def pickExtents (s : State) (stack n : Nat) : List Nat :=
  let used := extentsUsed s stack
  ((List.range 2048).filter fun e => !used.contains e).take n

/-- INSTALL (R334 steps 1 to 3): the checks, then the target slot's extents are erased and it becomes WRITING. -/
def execInstall (iss : Issuer) (cmd header : List Byte) (plain : Plain) (keyOk : Bool) (now : Nat) (s : State) : Out :=
  guarded (instrWellFormed (.install iss cmd header plain keyOk now))
    (runCmd (s.setNow now) iss 1 cmd fun s r =>
      let c := r.cmd
      let found := findModel s r.owner c.imageId
      let stack := (found.map Prod.fst).getD c.stack
      let m := found.map fun q => q.2.2
      let model := (found.map fun q => q.2.1).getD (freeModel s stack)
      let why := installCheck s r header plain keyOk stack model m
      let s := if why = 0x0201 then s.modEngine stack fun e => { e with keyFail := satAdd e.keyFail 1 } else s
      if why != 0 then endCmd s r why
      else
        let b := targetB m
        let s := s.modRes stack fun x => { x with
          models := tset none x.models model (some (setResSlot (m.getD { imageId := c.imageId, owner := r.owner }) b fun _ => {})) }
        let ext := pickExtents s stack (hdrExtents header)
        let s := modModel s stack model fun x => setResSlot x b fun _ =>
          { state := .writing, extents := ext, header := header, plain := some plain }
        let (s, id) := newOp s
        let s := match r.reply with
          | some f => { s with log := { s.log with installRx := s.log.installRx ++ [(f.owner, c.tag, 0, s.now)] } }
          | none => s
        pushJob s stack { id := id, kind := .install, part := c.part, tag := c.tag, href := r.href, reply := r.reply, stack := stack
                          model := model, resB := b, header := header, plain := some plain, chunks := hdrChunks header, addr := c.addr })

/-- The session record of an INSTALL over Flesha ends. -/
def dropRx (s : State) (j : ImgOp) : State :=
  match j.reply with
  | some f => { s with log := { s.log with installRx := s.log.installRx.filter fun q => !(q.1 == f.owner && q.2.1 == j.tag) } }
  | none => s

/-- An INSTALL ends without a commit record (R355): its slot reads INVALID. -/
def failInstall (s : State) (j : ImgOp) (reason : Nat) : State :=
  let s := dropRx (dropJob s j.stack j.id) j
  let s := modModel s j.stack j.model fun m => setResSlot m j.resB fun x => { x with state := .invalid, record := none }
  let s := s.modRes j.stack fun x => { x with installFail := satAdd x.installFail 1 }
  let s := report s (0x40 + j.stack) 0x21 evInstallFailed none [(1, j.stack), (4, hdrId j.header), (2, hdrEpoch j.header), (2, reason)]
  imgAnswer (loadRefused s j.part j.slot reason) j.href j.reply reason

/-- The reason of an INSTALL whose transfer stopped in a way for which the spec names none: a free value from 1 to 65,535 (log entry
37). -/
def openReason (s : State) : State × Nat :=
  let (s, w) := freeWord s
  (s, 1 + w % 65535)

/-- The commit record of an INSTALL (R335). The digest over the stored bytes is a free value: the model holds no ciphertext (log entry 6). -/
def commitRec (s : State) (j : ImgOp) (extents : List Nat) : State × CommitRec :=
  ({ s with free := s.free + 12 }, { imageId := hdrId j.header, epoch := hdrEpoch j.header, chunks := hdrChunks j.header
                                     digest := (List.range 12).map fun i => Config.freeValue (s.free + i), extents := extents })

/-- Steps 5 and 6 of R334: the commit record is written and the slot becomes VALID, ACTIVE where the model has no ACTIVE slot. -/
def commitInstall (s : State) (j : ImgOp) : State :=
  let s := dropRx (dropJob s j.stack j.id) j
  let (s, r) := commitRec s j (((modelAt s j.stack j.model).map fun m => (resSlotOf m j.resB).extents).getD [])
  let s := modModel s j.stack j.model fun m =>
    let act := m.a.state == .active || m.b.state == .active
    setResSlot m j.resB fun x => { x with state := if act then .valid else .active, record := some r }
  let s := report s (0x40 + j.stack) 0x21 evImageInstalled none
    [(1, j.stack), (4, hdrId j.header), (2, hdrEpoch j.header), (1, b2n j.resB)]
  imgAnswer s j.href j.reply 0

/-- WEIR_TEMP_WAIT (R353, R360). -/
def tempWait (s : State) (p die : Nat) : State :=
  let r := ((s.die die).hk.window.getLast?.map Prod.fst).getD 0
  report s (if adFitted s.variant die then die else 0xF0) 0x02 evWeirTempWait (some p)
    [(1, p), (1, die), (4, (r % (2 ^ 32 : Int)).toNat)]

/-- An INSTALL takes its next chunk: verified, programmed and counted; a chunk meets the window first (R334 step 4, R353). -/
def installNext (s : State) (j : ImgOp) (tagOk : Bool) : State :=
  let upd := fun (s : State) (f : ImgOp → ImgOp) =>
    s.modEngine j.stack fun e => { e with jobs := e.jobs.map fun x => if x.id == j.id then f x else x }
  if !resWritable s j.stack then
    if j.waiting then s
    else tempWait (upd s fun x => { x with waiting := true, waitSince := s.now }) j.part (0x40 + j.stack)
  else if j.waiting then s
  else
    let n := chunkLen j.header j.chunk
    if !tagOk then failInstall (s.modEngine j.stack fun e => { e with authFail := satAdd e.authFail 1 }) j 0x0202
    else
      let s := s.modEngine j.stack fun e => { e with bytes := wrapAdd e.bytes n }
      let s := s.modRes j.stack fun x => { x with progBytes := wrapAdd x.progBytes (n + 16 + (if j.chunk = 0 then 512 else 0)) }
      if j.chunk + 1 < j.chunks then upd s fun x => { x with chunk := x.chunk + 1 }
      else commitInstall s { j with chunk := j.chunk + 1 }

/-- The operation that an engine serves: the one at its head (R337). -/
def engineHead (s : State) (stack : Nat) : Option ImgOp := (s.engine stack).jobs.head?

/-- Bytes of the stored image that an INSTALL over Flesha has received (R474). -/
def rxBytes (s : State) (j : ImgOp) : Nat :=
  match j.reply with
  | some f => ((s.log.installRx.find? fun q => q.1 == f.owner && q.2.1 == j.tag).map fun q => q.2.2.1).getD 0
  | none => 0

/-- An INSTALL over Flesha at the head of its engine has received its next chunk whole: it lies with its tag after the header and the
chunks before it. -/
def rxChunk (s : State) (j : ImgOp) : Bool :=
  decide (512 + j.chunk * (2 ^ 20 + 16) + chunkLen j.header j.chunk + 16 ≤ rxBytes s j)

/-- INSTALL_CHUNK (R334 steps 4 to 6): the INSTALL at the head of the engine reads its next chunk from host memory, or takes one
that Flesha has delivered; `bytes` = 0 stands for a host read that fails (R381, 0x0323). -/
def execInstallChunk (stack : Nat) (tagOk : Bool) (bytes now : Nat) (s : State) : Out :=
  guarded (instrWellFormed (.installChunk stack tagOk bytes now))
    (let s := s.setNow now
     match engineHead s stack with
     | none => s
     | some j =>
      match j.href with
      | some h =>
        if j.kind != .install || !fnIssues s h.fn then s
        else
          let off := 512 + j.chunk * (2 ^ 20 + 16)
          let s := s.emit (.hostRead h.fn (j.addr + off) (chunkLen j.header j.chunk + 16))
          if bytes = 0 then failInstall s j 0x0323 else installNext s j tagOk
      | none => if j.kind == .install && j.reply.isSome && rxChunk s j then installNext s j tagOk else s)

/-- INSTALL_TEMP_TIMEOUT (R353): an INSTALL that has waited 60 s for the window is abandoned. -/
def execInstallTempTimeout (stack now : Nat) (s : State) : Out :=
  guarded (instrWellFormed (.installTempTimeout stack now))
    (let s := s.setNow now
     match (s.engine stack).jobs.find? fun j => j.kind == .install && j.waiting with
     | some j => if j.waitSince + 60000000000 ≤ s.now then failInstall s j 0x0203 else s
     | none => s)

/-- INSTALL_SESSION_TIMEOUT (R474, R355): an INSTALL over Flesha with no IMAGE_DATA for 10 s loses its session. -/
def execInstallSessionTimeout (stack now : Nat) (s : State) : Out :=
  guarded (instrWellFormed (.installSessionTimeout stack now))
    (let s := s.setNow now
     let lost := fun j : ImgOp => j.kind == .install && (match j.reply with
       | some f => s.log.installRx.any fun q => q.1 == f.owner && q.2.1 == j.tag && decide (q.2.2.2 + 10000000000 ≤ s.now)
       | none => false)
     match (s.engine stack).jobs.find? lost with
     | some j =>
       let (s, r) := openReason s
       failInstall s j r
     | none => s)

/-! ### ACTIVATE and ERASE (R336) -/

/-- The checks that ACTIVATE and ERASE share: the model exists for the owner, and no INSTALL runs on it (R338, R356; log entry 212). -/
def resTarget (s : State) (r : ImgReq) : Except Nat (Nat × Nat × ResModel) :=
  match findModel s r.owner r.cmd.imageId with
  | none => .error 0x0204
  | some (st, i, m) => if installing s st i then .error 0x0208 else .ok (st, i, m)

/-- ACTIVATE (R336): a VALID slot becomes ACTIVE, and the other, if ACTIVE, VALID. -/
def execActivate (iss : Issuer) (cmd : List Byte) (now : Nat) (s : State) : Out :=
  guarded (instrWellFormed (.activate iss cmd now))
    (runCmd (s.setNow now) iss 2 cmd fun s r =>
      match resTarget s r with
      | .error e => endCmd s r e
      | .ok (st, i, m) =>
        if !resReady (resSlotOf m r.cmd.resB) then endCmd s r 0x0204
        else
          let low := fun x : ResSlot => if x.state == .active then { x with state := .valid } else x
          let m := setResSlot { m with a := low m.a, b := low m.b } r.cmd.resB fun x => { x with state := .active }
          endCmd (modModel s st i fun _ => m) r 0)

/-- ERASE (R336): the slot becomes EMPTY; erasing the last one frees the directory entry. -/
def execErase (iss : Issuer) (cmd : List Byte) (now : Nat) (s : State) : Out :=
  guarded (instrWellFormed (.erase iss cmd now))
    (runCmd (s.setNow now) iss 3 cmd fun s r =>
      match resTarget s r with
      | .error e => endCmd s r e
      | .ok (st, i, m) =>
        if resInUse s st i r.cmd.resB then endCmd s r 0x020A
        else
          let m := setResSlot m r.cmd.resB fun _ => {}
          let gone := m.a.state == .empty && m.b.state == .empty
          endCmd (s.modRes st fun x => { x with models := tset none x.models i (if gone then none else some m) }) r 0)

/-! ### LOAD (R339, R340) -/

/-- Checks 2 to 7 of R339 after check 1: the plaintext and the level, or the reason. -/
def loadCheck (s : State) (p k : Nat) (x : ResSlot) (stripes entries : Nat) : Except Nat (Plain × Nat) :=
  match x.plain with
  | none => .error 0x0204
  | some pl =>
    if !resReady x then .error 0x0204
    else if !headerOk x.header || byteAt x.header 5 != 1 || !manifestOk pl 1 (hdrPlain x.header) then .error 0x0200
    else if !headerKeyed s x.header then .error 0x0201
    else match (check4 s p k pl stripes).head? with
      | some r => .error r.1
      | none =>
        match chooseLevel s p pl with
        | none => .error 0x0260
        | some n =>
          let r := check6 s p k n pl stripes entries
          if r != 0 then .error r
          else if (pl.levels[n]?.map fun v => (writeDies s p v).any fun d => !dieWritable s d).getD false then .error 0x0203
          else .ok (pl, n)

/-- A refusal under check 4 names where the image fails; one of another check names nothing (R339). -/
def refusalName (s : State) (p k : Nat) (x : Option Plain) (stripes e : Nat) : State :=
  match x.bind fun pl => (check4 s p k pl stripes).head? with
  | some r => if r.1 = e then nameRefusal s p k r.2 else s
  | none => s

/-- The checks have passed: the slot takes its level and becomes LOADING (R339, R217, R252, R357). The frames of its pool are zeroised
(R226), and with them the control area, whose words then say VALID of nothing (R219, R220). -/
def loadBegin (s : State) (p k : Nat) (j : ImgOp) (pl : Plain) (n : Nat) : State :=
  let s := zeroGranules s ((slotGrans s p k 1 ++ slotGrans s p k 2).map Granule.g)
  let old := (s.slot p k).pool
  let ents := loadEntries s p j.entries
  let s := s.modSlot p k fun q => { q with
    state := .loading, res := (j.stack, j.model, b2n j.resB), imageId := hdrId j.header, epoch := hdrEpoch j.header
    header := j.header, plain := some pl, entries := ents, pool := { loadPool s p k pl j.stripes with rootsTotal := ents, lowMark := old.lowMark }
    resident := [], notResident := [], variants := [], weir := none, job := some j, shadowBad := [], nextReplica := 0
    swapCnt := 0, staleCnt := 0, pvMapCnt := 0, pvTarnCnt := 0, schedFault := 0, layerFb := [], layerReplay := [] }
  takeLevel s p k n pl []

/-- A start-time load that has ended hands on to the next (R409). -/
def startNext (s : State) (j : ImgOp) : State := if j.atStart then nextStart s j.part else s

/-- A load is refused or fails: a start-time load hands on to the next. -/
def loadFailed (s : State) (j : ImgOp) (reason : Nat) : State :=
  startNext (endOp s j reason) j

/-- LOAD (R339): the checks, in order, then the image streams through its engine. -/
def execLoad (iss : Issuer) (cmd : List Byte) (now : Nat) (s : State) : Out :=
  guarded (instrWellFormed (.load iss cmd now))
    (runCmd (s.setNow now) iss 4 cmd fun s r =>
      let c := r.cmd
      if slotBusy s c.part c.slot || slotWriting s r.owner c.imageId c.epoch then endCmd s r 0x0208
      else if (s.slot c.part c.slot).state != .empty then endCmd s r 0x0264
      else match pickRes s r.owner c.imageId c.epoch with
        | none => endCmd s r 0x0204
        | some (st, m, b, x) =>
          match loadCheck s c.part c.slot x c.stripes c.entries with
          | .error e => refusalName (endCmd s r e) c.part c.slot x.plain c.stripes e
          | .ok (pl, n) =>
            let (s, id) := newOp s
            let j : ImgOp := { id := id, kind := .load, part := c.part, slot := c.slot, tag := c.tag, href := r.href, reply := r.reply
                               stack := st, model := m, resB := b, header := x.header, chunks := hdrChunks x.header
                               stripes := c.stripes, entries := c.entries }
            pushJob (loadBegin s c.part c.slot j pl n) st j)

/-! ### Chunks and layers (R339, R344, R348, R353, R439) -/

/-- Layers that the level of an image places on Tarns. -/
def placedLayers (x : Plain) (n : Nat) : List Nat := ((x.levels[n]?).map Level.layers).getD []

/-- A slot's engine reads are all done. -/
def jobRead (q : ImgSlot) : Bool := match q.job with | some j => decide (j.chunks ≤ j.chunk) | none => true

/-- A load whose last layer is resident ends READY (R339, R360). -/
def loadDone (s : State) (p k : Nat) : State :=
  let q := s.slot p k
  match q.job, q.plain with
  | some j, some x =>
    if j.kind == .load && q.state == .loading && jobRead q && (placedLayers x q.level).all fun l => q.resident.contains l then
      let s := s.modSlot p k fun q => { q with state := .ready, job := none }
      let s := reportLead s p evImageLoaded [(1, p), (1, k), (2, q.epoch), (1, q.level)]
      let s := endOp s j 0
      startNext s j
    else s
  | _, _ => s

/-- A swap that a relocation has taken over ends with it (R354). -/
def swapReleased (s : State) (p k : Nat) (w : Weir) : State :=
  let s := s.modSlot p k fun q => { q with weir := none, swapCnt := wrapAdd q.swapCnt 1 }
  let us := Nat.min ((s.now - w.closedAt) / 1000) (2 ^ 32 - 1)
  reportLead s p evWeirDone [(1, p), (1, k), (2, w.oldEpoch), (2, w.epoch), (4, us), (4, w.staleCnt)]

/-- A reload or a relocation whose last layer is resident ends: the slot is READY and its entries are released (R433, R439). -/
def reloadDone (s : State) (p k : Nat) : State :=
  let q := s.slot p k
  match q.job with
  | some j =>
    let free := match q.weir with | some w => w.step == WeirStep.releasing | none => true
    if q.state == .partial_ && free && q.notResident.isEmpty && jobRead q && (j.kind == .tarnReload || j.kind == .relocation) then
      let s := s.modSlot p k fun q => { q with state := .ready, job := none }
      let s := s.modPart p fun x => { x with heldReloc := x.heldReloc.filter (· != k) }
      let s := match q.weir with | some w => swapReleased s p k w | none => s
      endOp s j 0
    else s
  | none => s

/-- Change an operation, at its engine and on its slot. -/
def modOp (s : State) (j : ImgOp) (f : ImgOp → ImgOp) : State :=
  let g := fun x : ImgOp => if x.id == j.id then f x else x
  let s := s.modEngine j.stack fun e => { e with jobs := e.jobs.map g }
  if j.kind == .install then s else s.modSlot j.part j.slot fun q => { q with job := q.job.map g }

/-- The stored image can no longer supply an operation (R452, R461), or its chunk fails its tag (R326): what follows for each kind. -/
def readFailed (s : State) (j : ImgOp) (reason : Nat) : State :=
  let s := dropJob s j.stack j.id
  let p := j.part
  let k := j.slot
  match j.kind with
  | .load => loadFailed (freeSlot s p k) j reason
  | .swap => endOp (s.modSlot p k fun q => { q with weir := none, job := none }) j reason
  | .variantLoad => endOp (s.modSlot p k fun q => { q with variants := tset {} q.variants j.vslot {}, job := none }) j reason
  | .relocation =>
    let s := s.modSlot p k fun q => { q with state := .partial_, job := none }
    s.modPart p fun x => { x with blocked := if x.blocked.contains k then x.blocked else x.blocked ++ [k] }
  | _ => s

/-- The last chunk of an operation is in the shadow, staging or delta area. -/
def readDone (s : State) (j : ImgOp) : State :=
  let p := j.part
  let k := j.slot
  match j.kind with
  | .load => loadDone s p k
  | .swap => s.modSlot p k fun q => { q with weir := q.weir.map fun w => { w with staged := true } }
  | .variantLoad =>
    endOp (s.modSlot p k fun q => { q with job := none, variants := tmod {} q.variants j.vslot fun v => { v with loading := false } }) j 0
  | .relocation => reloadDone ((dropRepairs s p k).modSlot p k fun q => { q with shadowBad := [] }) p k
  | _ => s

/-- A start-time load reaches the head of its engine: its checks are made now (R409 check 8). -/
def startCheck (s : State) (j : ImgOp) : State × Bool :=
  let x := match modelAt s j.stack j.model with | some m => resSlotOf m j.resB | none => {}
  if (s.slot j.part j.slot).state != .empty then (loadFailed (dropJob s j.stack j.id) j 0x0264, false)
  else match loadCheck s j.part j.slot x j.stripes j.entries with
    | .error e => (startNext (refusalName (endOp (dropJob s j.stack j.id) j e) j.part j.slot x.plain j.stripes e) j, false)
    | .ok (pl, n) => (loadBegin s j.part j.slot j pl n, true)

/-- The stored image of an operation. -/
def opSlot (s : State) (j : ImgOp) : ResSlot := match modelAt s j.stack j.model with | some m => resSlotOf m j.resB | none => {}

/-- The array die that a chunk's plaintext goes to: that of the shadow granule it lies in; staging and delta areas follow the shadow
(log entry 205). -/
def chunkDie (s : State) (j : ImgOp) : Option Nat :=
  let q := s.slot j.part j.slot
  let base := match j.kind with
    | .swap => (q.plain.map Plain.shadowBytes).getD 0
    | .variantLoad => (q.plain.map Plain.shadowBytes).getD 0
    | _ => 0
  ((liveGrans s (slotGrans s j.part j.slot 0))[(base + j.chunk * 2 ^ 20) / granBytes]?).map fun g => stackDie (g.g / 24)

/-- A chunk's plaintext crosses from the engine's I/O die to the stack that takes it (R201, R210). -/
def chunkCross (s : State) (j : ImgOp) : State :=
  match (chunkDie s j).bind fun d => routeIn s j.stack d with
  | some ls => countPath s ls (chunkLen j.header j.chunk)
  | none => s

/-- The operation at the head takes its next chunk. -/
def chunkStep (s : State) (j : ImgOp) (tagOk : Bool) : State :=
  if !resReady (opSlot s j) then readFailed s j 0x020B
  else if !tagOk then readFailed (s.modEngine j.stack fun e => { e with authFail := satAdd e.authFail 1 }) j 0x0202
  else
    let s := chunkCross (s.modEngine j.stack fun e => { e with bytes := wrapAdd e.bytes (chunkLen j.header j.chunk) }) j
    let s := modOp s j fun x => { x with chunk := x.chunk + 1 }
    if j.chunk + 1 < j.chunks then s else readDone (dropJob s j.stack j.id) { j with chunk := j.chunk + 1 }

/-- IMAGE_CHUNK_DECRYPTED (R326, R337, R339, R348, R352): the operation at the head of an engine finishes a chunk, or fails on its
tag. -/
def execImageChunkDecrypted (stack : Nat) (tagOk : Bool) (now : Nat) (s : State) : Out :=
  guarded (instrWellFormed (.imageChunkDecrypted stack tagOk now))
    (let s := s.setNow now
     match engineHead s stack with
     | none => s
     | some j =>
       if j.kind == .install || j.kind == .shadowRepair then s
       else if j.atStart && ((s.slot j.part j.slot).job.map ImgOp.id) != some j.id then
         let (s, ok) := startCheck s j
         if ok then chunkStep s j tagOk else s
       else chunkStep s j tagOk)

/-- A tile of a layer has run out of spares. -/
def layerShort (s : State) (p k layer : Nat) : Bool :=
  ((s.slot p k).placed.filter fun q => q.layer == layer).any fun q => (s.tile q.tile).short || (s.tile q.tile).spadShort

/-- Layers that an operation on a slot has still to program. -/
def layersDue (s : State) (p k : Nat) : List Nat :=
  let q := s.slot p k
  match q.state, q.weir with
  | .loading, _ => match q.plain with
    | some x => (placedLayers x q.level).filter fun l => !q.resident.contains l
    | none => []
  | .empty, _ => []
  | .ready, _ => []
  | _, some w =>
    if w.step == WeirStep.programming then (placedLayers w.plain q.level).filter fun l => !w.done.contains l
    else if w.step == WeirStep.releasing && jobRead q && q.job.isSome then q.notResident
    else []
  | _, none => if jobRead q && q.job.isSome then q.notResident else []

/-- A layer is resident (R344 step 6). -/
def layerDone (s : State) (p k layer : Nat) : State :=
  let s := s.modSlot p k fun q => { q with
    resident := q.resident.filter (· != layer) ++ [layer], notResident := q.notResident.filter (· != layer)
    weir := q.weir.map fun w => if w.step == WeirStep.programming then { w with done := w.done ++ [layer] } else w }
  reloadDone (loadDone s p k) p k

/-- The plaintext that a slot's Tarns are programmed from: the staged image under a closed Weir, else the shadow. -/
def shadowOf (q : ImgSlot) : Option Plain :=
  match q.weir with
  | some w => if q.state == SlotState.loading then q.plain else some w.plain
  | none => q.plain

/-- PV_DONE (R344, R353): a layer due is programmed and verified in all its replicas. Outside the window the operation waits, with
WEIR_TEMP_WAIT once per wait; a load whose spares run out ends with 0x0260 (log entry 39). -/
def execPvDone (p slot layer : Nat) (failing again : List (Nat × Nat × Nat)) (seeds : List (Nat × Nat × Nat × Int × Int)) (now : Nat)
    (s : State) : Out :=
  guarded (instrWellFormed (.pvDone p slot layer failing again seeds now))
    (let s := s.setNow now
     let q := s.slot p slot
     match q.job, shadowOf q with
     | some j, some x =>
       if ((s.part p).resetting && j.kind != .relocation) || !(layersDue s p slot).contains layer || j.waiting then s
       else match (layerDies s p slot layer).find? fun d => !dieWritable s d with
         | some d => tempWait (modOp s j fun o => { o with waiting := true, waitSince := s.now, arg := layer }) p d
         | none =>
           let was := layerShort s p slot layer
           let s := pvLayer s p slot layer x failing again seeds
           if layerShort s p slot layer && !was && q.state == SlotState.loading then
             loadFailed (freeSlot (dropJob s j.stack j.id) p slot) j 0x0260
           else layerDone s p slot layer
     | _, _ => s)

/-- TEMP_WINDOW_RESUME (R353): an operation that waits goes on once its dies are in the window again. -/
def execTempWindowResume (op now : Nat) (s : State) : Out :=
  guarded (instrWellFormed (.tempWindowResume op now))
    (let s := s.setNow now
     let engineOps := (s.engines.map fun e => e.2.jobs).flatten
     let slotOps := (s.parts.map fun q => q.2.slots.filterMap fun k => k.2.job).flatten
     match (engineOps ++ slotOps).find? fun j => j.id == op && j.waiting with
     | none => s
     | some j =>
       let ok := if j.kind == .install then resWritable s j.stack else (layerDies s j.part j.slot j.arg).all (dieWritable s)
       if ok then modOp s j fun x => { x with waiting := false } else s)

/-! ### UNLOAD (R343) -/

/-- The slot is in use (R343): an entry bound to it is not FREE, or it serves another slot's entries as draft or narrative image
(log entry 38). -/
def slotInUse (s : State) (p k : Nat) : Bool :=
  let v := (s.part p).serv
  (partEntries s p).any fun q => q.2.slot == k || (v.draftSlot == k && q.2.specEn) || (v.narrEnable && v.narrSlot == k)

/-- UNLOAD (R343): frees everything that the slot holds. -/
def execUnload (iss : Issuer) (cmd : List Byte) (now : Nat) (s : State) : Out :=
  guarded (instrWellFormed (.unload iss cmd now))
    (runCmd (s.setNow now) iss 5 cmd fun s r =>
      let p := r.cmd.part
      let k := r.cmd.slot
      if slotBusy s p k then endCmd s r 0x0208
      else if (s.slot p k).state == .empty then endCmd s r 0
      else if slotInUse s p k then endCmd s r 0x0266
      else
        let s := match (s.slot p k).job with | some j => dropJob s j.stack j.id | none => s
        let s := (freeSlot s p k).modSlot p k fun q => { q with schedFault := 0 }
        let s := s.modPart p fun q => { q with
          heldReloc := q.heldReloc.filter (· != k), blocked := q.blocked.filter (· != k) }
        endCmd s r 0)

/-! ### Variants (R271 to R273, R352) -/

/-- The checks of a variant image against its base slot (R273, R352), as a reason. -/
def variantCheck (s : State) (p k vslot : Nat) (x : ResSlot) (v : Plain) : Nat :=
  let q := s.slot p k
  let base := q.plain
  let cap := fun (b : DeltaBlock) => match base with
    | some m => ((m.deltaCap.find? fun c => c.1 == b.layer && c.2.1 == b.matrix && c.2.2.1 == b.tile).map fun c => c.2.2.2).getD 0
    | none => 0
  if !headerOk x.header || byteAt x.header 5 != 2 || !manifestOk v 2 (hdrPlain x.header) then 0x0200
  else if !headerKeyed s x.header then 0x0201
  else if v.deltaFmt != 4 && v.deltaFmt != 5 then 0x0210
  else if v.deltas.any fun b => !scaleOk b.scale then 0x0211
  else if (v.deltas.any fun b => decide (cap b < (v.deltas.filter fun c => c.layer == b.layer && c.matrix == b.matrix && c.tile == b.tile).length)) ||
      v.deltas.any fun b => decide (((base.map Plain.deltaColMax).getD 0) <
        (v.deltas.filter fun c => c.layer == b.layer && c.matrix == b.matrix && c.col == b.col).length) then 0x0250
  else if q.variants.any fun w => w.1 == vslot then 0x0251
  else if leAt x.header 36 4 != q.imageId || leAt x.header 40 2 != q.epoch then 0x0252
  else 0

/-- VARIANT_LOAD (R352, R273): into a variant slot of a READY image slot whose Weir is open. -/
def execVariantLoad (iss : Issuer) (cmd : List Byte) (now : Nat) (s : State) : Out :=
  guarded (instrWellFormed (.variantLoad iss cmd now))
    (runCmd (s.setNow now) iss 7 cmd fun s r =>
      let c := r.cmd
      if slotBusy s c.part c.slot || modelBusy s r.owner c.imageId || (s.slot c.part c.slot).state != .ready then endCmd s r 0x0208
      else match pickRes s r.owner c.imageId c.epoch with
        | none => endCmd s r 0x0204
        | some (st, m, b, x) =>
          match x.plain with
          | none => endCmd s r 0x0204
          | some v =>
            let e := variantCheck s c.part c.slot c.vslot x v
            if e != 0 then endCmd s r e
            else
              let (s, id) := newOp s
              let j : ImgOp := { id := id, kind := .variantLoad, part := c.part, slot := c.slot, vslot := c.vslot, tag := c.tag
                                 href := r.href, reply := r.reply, stack := st, model := m, resB := b, header := x.header
                                 chunks := hdrChunks x.header }
              let n : VarSlot := { imageId := hdrId x.header, epoch := hdrEpoch x.header, fmt := v.deltaFmt, blocks := v.deltas, loading := true }
              pushJob (s.modSlot c.part c.slot fun q => { q with variants := tset {} q.variants c.vslot n, job := some j }) st j)

/-- VARIANT_UNLOAD (R273): unless an open entry names the variant. -/
def execVariantUnload (iss : Issuer) (cmd : List Byte) (now : Nat) (s : State) : Out :=
  guarded (instrWellFormed (.variantUnload iss cmd now))
    (runCmd (s.setNow now) iss 8 cmd fun s r =>
      let c := r.cmd
      if slotBusy s c.part c.slot then endCmd s r 0x0208
      else if (partEntries s c.part).any fun q => q.2.slot == c.slot && q.2.variant == c.vslot then endCmd s r 0x0255
      else endCmd (s.modSlot c.part c.slot fun q => { q with variants := tset {} q.variants c.vslot {} }) r 0)

/-! ### ABORT (R338, R348) -/

/-- ABORT (R338): stops the INSTALL of its IMAGE_ID, or the SWAP of its slot before the Weir has closed; any other ABORT completes with
0x0208. -/
def execAbort (iss : Issuer) (cmd : List Byte) (now : Nat) (s : State) : Out :=
  guarded (instrWellFormed (.abort iss cmd now))
    (runCmd (s.setNow now) iss 9 cmd fun s r =>
      let c := r.cmd
      let inst : Option ImgOp := match findModel s r.owner c.imageId with
        | some (st, i, _) => (s.engine st).jobs.find? fun j => j.kind == .install && j.model == i
        | none => none
      match inst, (s.slot c.part c.slot).job, (s.slot c.part c.slot).weir with
      | some j, _, _ => endCmd (failInstall s j 0x0267) r 0
      | none, some j, some w =>
        if j.kind == OpKind.swap && w.step == WeirStep.staging then
          endCmd (endOp ((dropJob s j.stack j.id).modSlot c.part c.slot fun q => { q with weir := none, job := none }) j 0x0267) r 0
        else endCmd s r 0x0208
      | none, _, _ => endCmd s r 0x0208)

/-! ### Repair of the shadow (R452) -/

/-- SHADOW_REPAIR (R452): the repair at the head of its engine (R337, R341) rereads a poisoned chunk and rewrites its bytes. Where the
Reservoir slot can no longer supply it, the image slot reads PARTIAL and is held (R440, R461). -/
def execShadowRepair (p slot chunk now : Nat) (s : State) : Out :=
  guarded (instrWellFormed (.shadowRepair p slot chunk now))
    (let s := s.setNow now
     let q := s.slot p slot
     match engineHead s q.res.1 with
     | none => s
     | some j =>
       if j.kind != .shadowRepair || j.part != p || j.slot != slot || j.chunk != chunk then s
       else if resReady (opSlot s j) then
         let s := chunkCross (s.modEngine j.stack fun e => { e with bytes := wrapAdd e.bytes (chunkLen j.header chunk) }) j
         let s := dropJob s j.stack j.id
         reportLead (s.modSlot p slot fun q => { q with shadowBad := q.shadowBad.filter (· != chunk) }) p evShadowRepair
           [(1, p), (1, slot), (4, chunk)]
       else
         let s := dropJob s j.stack j.id
         let s := s.modSlot p slot fun q => { q with state := if q.state == .ready then .partial_ else q.state }
         s.modPart p fun x => { x with blocked := if x.blocked.contains slot then x.blocked else x.blocked ++ [slot] })

end Sys2Proof.Machine
end

