-- ==== Sys2Proof/Machine/OpsHost.lean ====
section
/-! DEFINITION. Shared operations of the host interface (R362 to R398): consistency checks, queue faults, descriptors, the
evidence ring, function resets and the BAR2 window. -/

namespace Sys2Proof.Machine

/-! ### Function state (R363, R372) -/

/-- What a function shows of itself when it is enumerated (R364): Device ID, class code, Revision ID (the stepping of its I/O die), Subsystem
Vendor ID and Subsystem ID. Aitripol's PCI-SIG vendor ID is a number that the spec does not give (log entry 213). -/
structure PciIdentity where
  device : Nat
  classCode : Nat
  revision : Nat
  ssVendor : Nat
  ssId : Nat
  deriving DecidableEq, Repr

/-- The identity of a function, where its port presents it (R364, R365). -/
def pciIdentity (s : State) (fn : Nat) : Option PciIdentity :=
  if (s.fnOf fn).presented then
    some { device := 0x6420, classCode := 0x120000, revision := (s.die (0x40 + fnPort fn / 2)).stepping
           ssVendor := s.cfg.module.ssVendor, ssId := s.cfg.module.ssId }
  else none

/-- PART_STATE (R372): 0 disabled or unbound, 1 running, 2 starting or resetting, 3 fenced. -/
def partStateCode (s : State) (fn : Nat) : Nat :=
  match (s.fnOf fn).part with
  | none => 0
  | some p => match (s.part p).state with
    | .disabled => 0
    | .running => 1
    | .starting => 2
    | .fenced => 3

/-- SPEED_LOW (R363): below 16 GT/s or narrower than x4. -/
def speedLow (s : State) (port : Nat) : Bool := decide ((s.hport port).rate < 16) || decide ((s.hport port).width < 4)

/-- Change the evidence ring of a function. -/
def modEr (s : State) (fn : Nat) (f : EvRing → EvRing) : State := s.modFn fn fun g => { g with er := f g.er }

/-! ### Consistency checks (R374, R375) -/

/-- A ring of a function: SQ `n` is `n`, CQ `n` is 4 + `n`, ER is 8 (R398). -/
def ringSpan (f : Fn) (k : Nat) : Nat × Nat :=
  if k < 4 then let r := tget {} f.rings k; (r.sqBase, 64 * 2 ^ r.sqSize)
  else if k < 8 then let r := tget {} f.rings (k - 4); (r.cqBase, 32 * 2 ^ r.cqSize)
  else (f.er.base, 64 * 2 ^ f.er.size)

/-- A ring's own enable. -/
def ringOn (f : Fn) (k : Nat) : Bool :=
  if k < 4 then (tget {} f.rings k).sqEn else if k < 8 then (tget {} f.rings (k - 4)).cqEn else f.er.en

/-- The ring overlaps another enabled ring of the function, or the evidence writeback address. -/
def ringOverlap (f : Fn) (k : Nat) : Bool :=
  let a := ringSpan f k
  ((List.range 9).any fun j => j != k && ringOn f j && rangeMeets a (ringSpan f j)) || (f.er.wb != 0 && rangeMeets a (f.er.wb, 4))

/-- The reasons that all enables share (R375). -/
def linkReason (s : State) (fn : Nat) (master : Bool) : Nat :=
  let f := s.fnOf fn
  if f.part.isNone then 0x0101
  else if master && partStateCode s fn != 1 then 0x0102
  else if !f.bme then 0x0103
  else if speedLow s (fnPort fn) then 0x0104
  else 0

/-- The check of the master enable; 0 where it passes. -/
def masterCheck (s : State) (fn : Nat) : Nat :=
  let r := linkReason s fn true
  if r != 0 then r else if !(s.fnOf fn).msixEn then 0x0108 else 0

/-- The check of a ring's enable; 0 where it passes. -/
def ringCheck (s : State) (fn k : Nat) : Nat :=
  let f := s.fnOf fn
  let r := linkReason s fn false
  let size := if k < 4 then (tget {} f.rings k).sqSize else if k < 8 then (tget {} f.rings (k - 4)).cqSize else f.er.size
  if r != 0 then r
  else if (ringSpan f k).1 = 0 then 0x0105
  else if size < (if k < 8 then 4 else 6) ∨ 16 < size then 0x0106
  else if ringOverlap f k then 0x0107
  else if 4 ≤ k ∧ !f.msixEn then 0x0108
  else if k < 4 ∧ !(tget {} f.rings k).cqEn then 0x0109
  else if k = 8 ∧ f.er.wb = 0 then 0x010A
  else 0

/-- The size field of a control register after a write: a reserved size leaves it unchanged (R14, R373). -/
def sizeField (lo value old : Nat) : Nat :=
  let v := fld value 8 5
  if lo ≤ v ∧ v ≤ 16 then v else old

/-- Clear a ring's own enable; clearing a CQ clears its SQ (R374). -/
def ringOff (s : State) (fn k : Nat) : State :=
  if k < 4 then s.modRing fn k fun r => { r with sqEn := false }
  else if k < 8 then s.modRing fn (k - 4) fun r => { r with cqEn := false, sqEn := false }
  else modEr s fn fun e => { e with en := false }

/-- Set a ring's own enable: its indexes are reset, and records not passed by the host's head are written again (R374). -/
def ringStart (s : State) (fn k : Nat) : State :=
  if k < 4 then s.modRing fn k fun r => { r with sqEn := true, head := 0, tail := 0, marks := [], sqFault := false }
  else if k < 8 then s.modRing fn (k - 4) fun r => { r with
    cqEn := true, cqTail := 0, phase := true, cqHead := 0, unsignalled := 0, oldest := 0 }
  else modEr s fn fun e => { e with en := true, tail := 0, head := 0, written := [] }

/-- The enable bit of a ring's control register is written (R374). -/
def ringEnable (s : State) (fn k off : Nat) (on : Bool) : State :=
  if !on then ringOff s fn k
  else if ringOn (s.fnOf fn) k then s
  else
    let r := ringCheck s fn k
    if r = 0 then ringStart s fn k else refuse s fn r off

/-- A queue fault (R390, R398): the ring stops. -/
def queueFault (s : State) (fn k reason off : Nat) : State :=
  let s := ringOff s fn k
  let s := if k < 4 then s.modRing fn k fun r => { r with sqFault := true } else s
  let s := setEvt (s.modFn fn fun f => { f with reason := reason, reasonReg := off }) fn 1
  let port := fnPort fn
  report s (0x40 + port / 2) (0x10 + port % 2) evHostQueueFault none [(1, port), (1, fn % 8), (1, k), (2, reason)]

/-! ### Descriptors (R376 to R382) -/

/-- A function fetches: its enables are set, it can issue requests and no fence stands (R374, R395, R426). -/
def sqRuns (s : State) (fn n : Nat) : Bool :=
  (s.ring fn n).sqEn && (s.fnOf fn).qEn && fnIssues s fn && !fnFenced s fn

/-- An SQ holds descriptors. -/
def sqHas (s : State) (fn n : Nat) : Bool := sqRuns s fn n && (s.ring fn n).head != (s.ring fn n).tail

/-- The SQ that is fetched next, round-robin (R376). -/
def nextFetch (s : State) (fn : Nat) : Option Nat :=
  ((List.range 4).map fun i => ((s.fnOf fn).nextSq + i) % 4).find? (sqHas s fn)

/-- Bytes `a` to `b` − 1 are 0. -/
def zeroBytes (d : List Byte) (a b : Nat) : Bool := (slice d a (b - a)).all (· == 0)

/-- Tokens of a SCORE descriptor. -/
def scoreTokens (d : List Byte) : List Nat := (List.range (Nat.min 16 (byteAt d 24))).map fun i => fld (leAt d 28 36) (18 * i) 18

/-- 0x0321: a reserved field is nonzero (R377 to R381). -/
def descReserved (d : List Byte) : Bool :=
  let op := byteAt d 0
  decide (2 ≤ byteAt d 1) || fld (leAt d 4 4) 17 14 != 0 || (bitOf (leAt d 4 4) 31 && op != 1) ||
  (match op with
  | 0 => !zeroBytes d 8 64
  | 1 => decide (2 ^ 13 ≤ leAt d 16 4) || !zeroBytes d 22 24 || !zeroBytes d (24 + Nat.min 24 (byteAt d 21)) 64
  | 2 => !zeroBytes d 25 28 || leAt d 28 36 / 2 ^ (18 * Nat.min 16 (byteAt d 24)) != 0
  | 3 => fld (leAt d 24 2) 12 4 != 0 || fld (leAt d 28 4) 18 13 != 0 || !zeroBytes d 33 64
  | 4 => !zeroBytes d 8 64
  | 6 => !zeroBytes d 16 64
  | _ => leAt d 2 2 != 0 || fld (leAt d 4 4) 0 17 != 0 || !zeroBytes d 16 64)

/-- 0x0322: a count or token is out of range; tokens are held against the image in the entry's slot where there is one. -/
def descRange (s : State) (p : Nat) (d : List Byte) : Bool :=
  let e := leAt d 4 4 % 2 ^ 17
  let known := ownsEntry s p e && (s.entry e).open_
  let isOver := fun t : Nat => known && (match planOf s p (s.entry e).slot with | some x => decide (x.vocab ≤ t) | none => false)
  match byteAt d 0 with
  | 1 => decide (24 < byteAt d 21)
  | 2 => decide (byteAt d 24 = 0) || decide (16 < byteAt d 24) || (scoreTokens d).any isOver
  | 3 => decide (byteAt d 32 = 0) || decide (64 < byteAt d 32) || (bitOf (leAt d 28 4) 31 && isOver (leAt d 28 4 % 2 ^ 18))
  | _ => false

/-- 0x0324: an address breaks its alignment. -/
def descAlign (d : List Byte) : Bool :=
  match byteAt d 0 with
  | 2 => leAt d 16 8 % 4 != 0
  | 3 => leAt d 8 8 % 4 != 0 || leAt d 16 8 % 4 != 0
  | 5 | 6 | 7 => leAt d 8 8 % 64 != 0
  | _ => false

/-- 0x0325: the descriptor names a draft or narrative entry of the partition. -/
def descEntry (s : State) (p : Nat) (d : List Byte) : Bool :=
  let e := leAt d 4 4 % 2 ^ 17
  let op := byteAt d 0
  (op == 1 || op == 2 || op == 3 || op == 4 || op == 6) && !bitOf (leAt d 4 4) 31 && ownsEntry s p e &&
    ((s.entry e).draft || (s.entry e).narrative)

/-- The reason of a malformed descriptor (R382) in the order of its table, but for 0x0323; 0 where it is well formed. -/
def descReason (s : State) (p : Nat) (d : List Byte) : Nat :=
  if 8 ≤ byteAt d 0 then 0x0320
  else if descReserved d then 0x0321
  else if descRange s p d then 0x0322
  else if descAlign d then 0x0324
  else if descEntry s p d then 0x0325
  else 0

/-- Why an entry takes no work of `n` tokens (R256, R258, R260, R262); 0 where it does. -/
def workReason (s : State) (p e n : Nat) : Nat :=
  let x := s.entry e
  if !ownsEntry s p e then 0x0302
  else if !x.open_ then 0x0309
  else if x.stale then 0x0304
  else if x.closing then 0x0315
  else if 4096 < pendingOf x + n then 0x0314
  else 0

/-- An item joins an entry's work queue (R259). -/
def addItem (s : State) (p e : Nat) (i : Item) : State :=
  let id := (s.part p).nextItem
  let s := s.modPart p fun q => { q with nextItem := id + 1 }
  s.modEntry e fun x => { x with queue := x.queue ++ [{ i with id := id }] }

/-- OPEN (R261, R310, R378). -/
def descOpen (s : State) (p : Nat) (h : HostRef) (d : List Byte) : State :=
  let named := leAt d 4 4 % 2 ^ 17
  let any := bitOf (leAt d 4 4) 31
  let w := leAt d 16 4
  let ks := byteAt d 20
  let key := slice d 24 (byteAt d 21)
  let a : OpenArgs := { seqId := leAt d 8 8, cls := fld w 0 2, variant := fld w 2 4, slot := fld w 6 4
                        drop := bitOf w 10, ref := bitOf w 11, spec := bitOf w 12 }
  let target := if any then lowestFree s p else some named
  match target with
  | none => completeWith (tableFull s p true) h 0x0301 0 0
  | some e =>
    if !ownsEntry s p e then completeWith s h 0x0302 e 0
    else match openEntry s p e a with
      | .error r => completeWith (if r = 0x030A then tableFull s p false else s) h r e 0
      | .ok _ =>
        if key != [] && (keyFind s p ks key).isSome then completeWith s h 0x0308 e 0
        else if key != [] && (keyRoom s p ks key).isNone then completeWith s h 0x0307 e 0
        else match openMain s p e a with
          | .error r => completeWith s h r e 0
          | .ok s =>
            let s := match keyRoom s p ks key with
              | some b => if key == [] then s else keyInsert s p b ks key e
              | none => s
            completeWith s h 0 e 0

/-- SCORE (R259, R266, R267, R379). -/
def descScore (s : State) (p : Nat) (h : HostRef) (arr : Nat) (d : List Byte) : State :=
  let e := leAt d 4 4 % 2 ^ 17
  let ts := scoreTokens d
  let why := workReason s p e ts.length
  if why != 0 then completeWith s h why e 0
  else
    let dl := leAt d 8 8
    let cls := (s.entry e).cls
    addItem s p e { id := 0, kind := .score, host := some h, left := ts, arrival := arr, result := leAt d 16 8
                    deadline := if dl = 0 then budget arr (tget 0 (s.part p).serv.dlEvent cls) else some dl }

/-- DECODE (R259, R275, R380). -/
def descDecode (s : State) (p : Nat) (h : HostRef) (arr : Nat) (d : List Byte) : State :=
  let e := leAt d 4 4 % 2 ^ 17
  let n := leAt d 24 2 % 2 ^ 12 + 1
  let why := workReason s p e n
  if why != 0 then completeWith s h why e 0
  else if !(((planOf s p (s.entry e).slot).map headLm).getD false) then completeWith s h 0x0306 e 0
  else
    let st := leAt d 28 4
    addItem s p e { id := 0, kind := .decode, host := some h, arrival := arr, prompt := some (leAt d 8 8, n)
                    outAddr := leAt d 16 8, limit := leAt d 26 2 + 1, stop := if bitOf st 31 then some (st % 2 ^ 18) else none
                    notify := byteAt d 32 }

/-- CLOSE (R258, R262). -/
def descClose (s : State) (p : Nat) (h : HostRef) (d : List Byte) : State :=
  let e := leAt d 4 4 % 2 ^ 17
  if !ownsEntry s p e then completeWith s h 0x0302 e 0
  else if !(s.entry e).open_ then completeWith s h 0x0309 e 0
  else closeEntry s p e (some h)

/-- QUERY (R258, R381): a snapshot of bytes 0 to 63 with ROOT as 0. -/
def descQuery (s : State) (p : Nat) (h : HostRef) (d : List Byte) : State :=
  let e := leAt d 4 4 % 2 ^ 17
  if !ownsEntry s p e then completeWith s h 0x0302 e 0
  else produce s h.fn
    { sq := h.sq, item := none, tag := h.tag, quiet := h.quiet, entry := e, position := (s.entry e).committed
      data := [(leAt d 8 8, entryBytes s p e 0)] }

/-- A fetched descriptor takes its effect (R377, R382). EDIT and IMAGE read 64 bytes of host memory (R381). -/
def runDesc (s : State) (p fn n arr : Nat) (d : List Byte) : State :=
  let h : HostRef := { fn := fn, sq := n, tag := leAt d 2 2, quiet := bitOf (byteAt d 1) 0 }
  let e := leAt d 4 4 % 2 ^ 17
  let why := descReason s p d
  if why != 0 then completeWith s h why e 0
  else match byteAt d 0 with
    | 0 => completeWith s h 0 e 0
    | 1 => descOpen s p h d
    | 2 => descScore s p h arr d
    | 3 => descDecode s p h arr d
    | 4 => descClose s p h d
    | 6 => descQuery s p h d
    | op =>
      let r : HostRead := { edit := op == 5, sq := n, addr := leAt d 8 8, quiet := h.quiet }
      (s.modFn fn fun f => { f with reads := f.reads ++ [r] }).emit (.hostRead fn r.addr 64)

/-- An edit batch arrives in host bytes (R244, R247, R248, R258). -/
def placeBatch (s : State) (p : Nat) (h : HostRef) (bs : List Byte) : State :=
  let e := leAt bs 0 4 % 2 ^ 17
  let x := s.entry e
  if !ownsEntry s p e then completeWith s h 0x0302 e 0
  else if x.draft || x.narrative then completeWith s h 0x0325 e 0
  else if !x.open_ then completeWith s h 0x0309 e 0
  else if x.closing then completeWith s h 0x0315 e 0
  else if x.edit.isSome then
    completeWith (modPool s p x.slot fun k => { k with editBusy := satAdd k.editBusy 1 }) h 0x0340 e 0
  else s.modEntry e fun x => { x with edit := some { bytes := bs, ops := parseOps bs, host := h } }

/-! ### Completion entries (R383, R384, R391) -/

/-- The 32 bytes of a completion entry. -/
def complBytes (s : State) (fn : Nat) (c : Compl) : List Byte :=
  let r := s.ring fn c.sq
  toLe 2 c.tag ++ toLe 2 c.reason ++ toLe 4 (c.entry % 2 ^ 17 + 2 ^ 20 * c.sq) ++ toLe 2 r.head ++
  [BitVec.ofNat 8 (b2n c.progress),
   BitVec.ofNat 8 (b2n c.miss + 2 * b2n c.limit + 4 * b2n c.stop + 128 * b2n r.phase)] ++
  toLe 4 (c.position % 2 ^ 27) ++ toLe 4 c.score ++ toLe 4 c.count ++ toLe 8 (if c.tCommit = 0 then s.now else c.tCommit)

/-- The data writes of a completion. -/
def complData (s : State) (fn : Nat) (c : Compl) : State := c.data.foldl (fun s w => s.emit (.hostWrite fn w.1 w.2)) s

/-- Raise a CQ's vector and count its entries as signalled. -/
def cqSignal (s : State) (fn n : Nat) : State :=
  raiseVec (s.modRing fn n fun r => { r with unsignalled := 0 }) fn (s.ring fn n).vector

/-- The vector is raised once COAL_COUNT entries are unsignalled (R391), also where a write lowers COAL_COUNT to what already waits. -/
def cqCount (s : State) (fn n : Nat) : State :=
  let r := s.ring fn n
  if r.cqEn && decide (1 ≤ r.unsignalled) && decide (Nat.max 1 r.coalCount ≤ r.unsignalled) then cqSignal s fn n else s

/-- An entry has been written at TAIL: the ring advances and the interrupt follows COAL_COUNT. -/
def cqAdvance (s : State) (fn n : Nat) : State :=
  let s := s.modRing fn n fun r =>
    let t := (r.cqTail + 1) % 2 ^ r.cqSize
    { r with cqTail := t, phase := if t = 0 then !r.phase else r.phase, unsignalled := r.unsignalled + 1
             oldest := if r.unsignalled = 0 then s.now else r.oldest }
  cqCount s fn n

/-- A quiet success: its data is written and no entry follows (R377). -/
def complSilent (c : Compl) : Bool := c.quiet && c.reason == 0

/-- A buffered completion can be posted now. -/
def complReady (s : State) (fn : Nat) (c : Compl) : Bool := cqRuns s fn c.sq && (complSilent c || !cqFull (s.ring fn c.sq))

/-- Remove the first element that meets `f`. -/
def removeFirst {α : Type} (f : α → Bool) : List α → List α
  | [] => []
  | x :: xs => if f x then xs else x :: removeFirst f xs

/-- Post the oldest completion that can be posted (R384 to R386). -/
def postCompl (s : State) (fn : Nat) : State :=
  match (s.fnOf fn).buffer.find? (complReady s fn) with
  | none => s
  | some c =>
    let s := s.modFn fn fun f => { f with
      buffer := removeFirst (complReady s fn) f.buffer
      outstanding := if c.progress then f.outstanding else f.outstanding - 1 }
    let s := complData s fn c
    if complSilent c then s
    else
      let r := s.ring fn c.sq
      cqAdvance (s.emit (.hostWrite fn (r.cqBase + 32 * r.cqTail) (complBytes s fn c))) fn c.sq

/-! ### The evidence ring (R387, R388) -/

/-- `n` bytes whose values the spec leaves undefined (log entry 1). -/
def freeBytes (s : State) (n : Nat) : State × List Byte :=
  ({ s with free := s.free + n }, (List.range n).map fun i => BitVec.ofNat 8 (Config.freeValue (s.free + i)).toNat)

/-- Slots free in the evidence ring: one stays free. -/
def erFree (e : EvRing) : Nat := 2 ^ e.size - 1 - (e.tail + 2 ^ e.size - e.head) % 2 ^ e.size

/-- Slots of a record. -/
def recSlots (b : List Byte) : Nat := (b.length + 63) / 64

/-- Write records of the spool at TAIL while there is room, each after a pad record where it would run past the end. -/
def erWrite (fn : Nat) : List SpoolRec → State → State
  | [], s => s
  | r :: rs, s =>
    let e := (s.fnOf fn).er
    let n := recSlots r.bytes
    let left := 2 ^ e.size - e.tail
    let pad := if left < n then left else 0
    if erFree e < n + pad then s
    else
      let s := if pad = 0 then s
        else
          let (s, any) := freeBytes s (64 * pad - 3)
          s.emit (.hostWrite fn (e.base + 64 * e.tail) (toLe 2 (64 * pad) ++ [0] ++ any))
      let at_ := if pad = 0 then e.tail else 0
      let s := s.emit (.hostWrite fn (e.base + 64 * at_) r.bytes)
      erWrite fn rs (modEr s fn fun e => { e with tail := (at_ + n) % 2 ^ e.size, written := e.written ++ [n + pad] })

/-- How many of the written records a head that moves by `n` slots passes, and the rest of the list. -/
def passRecords : Nat → List Nat → Nat × List Nat
  | _, [] => (0, [])
  | n, k :: ks => if k ≤ n then let r := passRecords (n - k) ks; (r.1 + 1, r.2) else (0, (k - n) :: ks)

/-! ### Interrupts (R391, R395) -/

/-- Send the pending interrupts that are unmasked, where the function can send. -/
def flushMsix (s : State) (fn : Nat) : State :=
  let f := s.fnOf fn
  if !f.msixEn || !fnIssues s fn then s
  else
    let vs := (List.range 64).filter fun v => bitOf f.pba v && !(tget (0, 0, true) f.msix v).2.2
    vs.foldl (fun s v => (s.modFn fn fun f => { f with pba := f.pba - 2 ^ v }).emit (.msix fn v)) s

/-! ### Function resets (R393, R394) -/

/-- An item outlives the FLR of its function: it has opened a pass, or another function or none waits for it. -/
def itemStays (fn : Nat) (i : Item) : Bool :=
  match i.host with
  | some h => h.fn != fn || i.started
  | none => true

/-- A host reference of the function is dead from here on. -/
def deadRef (fn : Nat) (h : HostRef) : HostRef := if h.fn = fn then { h with live := false } else h

/-- Step 3 of R393 on one entry. -/
def flrEntry (fn : Nat) (x : Entry) : Entry :=
  let dead := fun i : Item => { i with host := i.host.map (deadRef fn) }
  { x with
    queue := (x.queue.filter (itemStays fn)).map dead, gone := x.gone.map dead
    edit := x.edit.map fun b => { b with host := deadRef fn b.host }
    closers := x.closers.filter fun h => h.fn != fn }

/-- An operation of the function loses its completion. -/
def flrOp (fn : Nat) (j : ImgOp) : ImgOp :=
  match j.href with
  | some h => if h.fn = fn then { j with href := none } else j
  | none => j

/-- INSTALLs that read the host memory of a function. -/
def fnInstalls (s : State) (fn : Nat) : List ImgOp :=
  (s.engines.map fun e => e.2.jobs.filter fun j => j.kind == .install && (j.href.map HostRef.fn) == some fn).flatten

/-- BAR0 and the configuration bits at their reset values; the binding stays (R372, R393 step 4). -/
def fnReset (f : Fn) : Fn := { presented := f.presented, part := f.part }

/-- INSTALLs that read the host memory of the function fail (R393 step 3). -/
def flrInstalls (s : State) (fn : Nat) : State :=
  (fnInstalls s fn).foldl (fun s j => failInstall (openReason s).1 { j with href := none } (openReason s).2) s

/-- Step 3 of R393 on the entries and image slots of the bound partition. -/
def flrPart (s : State) (fn : Nat) : State :=
  match (s.fnOf fn).part with
  | some p =>
    let s := (partEntries s p).foldl (fun s e => s.modEntry e.1 (flrEntry fn)) s
    s.modPart p fun q => { q with slots := q.slots.map fun k => (k.1, { k.2 with job := k.2.job.map (flrOp fn) }) }
  | none => s

/-- Operations of the image engines lose the completions of the function. -/
def flrEngines (s : State) (fn : Nat) : State :=
  [0, 1, 2, 3].foldl (fun s k => s.modEngine k fun e => { e with jobs := e.jobs.map (flrOp fn) }) s

/-- Reads of wide registers that the function has half done are gone. -/
def dropLatches (s : State) (r : Requester) : State := { s with latches := s.latches.filter fun l => l.1 != r }

/-- HOST_FLR (R398). -/
def flrReport (s : State) (fn : Nat) : State :=
  let port := fnPort fn
  report s (0x40 + port / 2) (0x10 + port % 2) evHostFlr none [(1, port), (1, fn % 8)]

/-- FLR of a function (R393): HOST_FLR, and a partition reset where the section asks for one. -/
def flrFn (s : State) (fn : Nat) : State :=
  let p := (s.fnOf fn).part
  let s := flrEngines (flrPart (flrInstalls s fn) fn) fn
  let s := flrReport (dropLatches (s.modFn fn fnReset) (.host fn)) fn
  match p with
  | some p => if ((s.part p).cfg.map PartCfg.flrPart).getD false then resetStart s p 2 else s
  | none => s

/-- HOST_LINK (R394, R398). -/
def hostLinkEvent (s : State) (port : Nat) : State :=
  let h := s.hport port
  report s (0x40 + port / 2) (0x10 + port % 2) evHostLink none [(1, port), (1, b2n h.up), (1, h.rate), (1, h.width)]

/-- The data link of a port is lost: an FLR of every function of the port (R394). -/
def linkLoss (s : State) (port : Nat) : State :=
  if !(s.hport port).up then s
  else
    let s := hostLinkEvent (s.modHport port fun h => { h with up := false }) port
    ((List.range 8).filter fun f => (s.fnOf (port * 8 + f)).presented).foldl (fun s f => flrFn s (port * 8 + f)) s

/-! ### BAR2 (R371) -/

/-- Size of BAR2 in bytes; 0 where it is absent. -/
def bar2Size (s : State) (fn : Nat) : Nat :=
  match (s.fnOf fn).part with
  | some p => match ((s.part p).cfg).bind PartCfg.bar2 with
    | some k => 2 ^ (30 + k)
    | none => 0
  | none => 0

/-- Bytes of the window that are mapped from an offset on. -/
def bar2Mapped (s : State) (p off n : Nat) : Nat :=
  let room := granBytes * ((granulesOf s p).filter fun g => g.role == 4).length
  Nat.min n (room - off)

/-- Bytes read through BAR2 and whether any is uncorrectable; `n` bytes from `off` on, all mapped. -/
def bar2Read (s : State) (p off n : Nat) : List Byte × Bool :=
  let n1 := Nat.min n (granBytes - off % granBytes)
  let one := fun o k => match bar2Addr s p o with
    | some a => (memRead s.dram a k, k != 0 && dramBad s a k)
    | none => (List.replicate k (0 : Byte), false)
  let a := one off n1
  let b := one (off + n1) (n - n1)
  (a.1 ++ b.1, a.2 || b.2)

/-- What an access moves over the grid between the function's I/O die (R19) and the dies of the stacks it reaches (R201, R210). -/
def bar2Cross (s : State) (fn p off n : Nat) (write : Bool) : State :=
  let iod := fnPort fn / 2
  let one := fun (s : State) (o k : Nat) =>
    if k = 0 then s
    else match (bar2Addr s p o).bind fun a =>
        let d := stackDie (addrStack a)
        if write then routeIn s iod d else routeOut s d iod with
      | some ls => countPath s ls k
      | none => s
  let n1 := Nat.min n (granBytes - off % granBytes)
  one (one s off n1) (off + n1) (n - n1)

/-! ### Doorbells (R390) -/

/-- Doorbell acceptances that stand when the tail moves to `v`: those of tails between the head and it. -/
def keepMarks (r : Ring) (v : Nat) : List (Nat × Nat) :=
  let d := fun x => (x + 2 ^ r.sqSize - r.head) % 2 ^ r.sqSize
  r.marks.filter fun m => decide (d m.1 < d v)

/-- A write of an SQ tail doorbell (R376, R390): the tail moves, and the descriptors it adds carry the acceptance as their arrival stamp. -/
def sqTailWrite (s : State) (fn n value : Nat) : State :=
  let r := s.ring fn n
  let v := value % 65536
  if !r.sqEn then s
  else if 2 ^ r.sqSize ≤ v then queueFault s fn n 0x0110 (0x2000 + 0x10 * n)
  else if v = r.tail then s
  else s.modRing fn n fun r => { r with tail := v, marks := keepMarks r v ++ [(v, s.now)] }

/-- A write of a CQ head doorbell (R390). -/
def cqHeadWrite (s : State) (fn n value : Nat) : State :=
  let r := s.ring fn n
  let v := value % 65536
  let size := 2 ^ r.cqSize
  if !r.cqEn then s
  else if size ≤ v ∨ cqUsed r < (v + size - r.cqHead) % size then queueFault s fn (4 + n) 0x0110 (0x2004 + 0x10 * n)
  else s.modRing fn n fun r => { r with cqHead := v }

/-- A write of the ER head doorbell (R388, R390): records whose last slot the head passes leave the spool. -/
def erHeadWrite (s : State) (fn value : Nat) : State :=
  let e := (s.fnOf fn).er
  let v := value % 65536
  let size := 2 ^ e.size
  let moved := (v + size - e.head) % size
  if !e.en then s
  else if size ≤ v ∨ (e.tail + size - e.head) % size < moved then queueFault s fn 8 0x0110 0x2040
  else
    let r := passRecords moved e.written
    let s := modEr s fn fun e => { e with head := v, written := r.2 }
    match (s.fnOf fn).part with
    | none => s
    | some p => s.modPart p fun q => { q with spool := q.spool.drop r.1, spoolPeriod := q.spoolPeriod && r.1 == 0 }

/-! ### Writes of function and queue registers (R372 to R375) -/

/-- A write of FN_Q_CTRL (R374). -/
def qCtrlWrite (s : State) (fn value : Nat) : State :=
  if !bitOf value 0 then s.modFn fn fun f => { f with qEn := false }
  else if (s.fnOf fn).qEn then s
  else
    let r := masterCheck s fn
    if r = 0 then s.modFn fn fun f => { f with qEn := true } else refuse s fn r 0x1000

/-- A write of SQ_CTRL (R374, R375): SIZE_LOG2 keeps its value while the ring is enabled, then ENABLE applies. -/
def sqCtrlWrite (s : State) (fn n value : Nat) : State :=
  let off := 0x1048 + 0x40 * n
  let r := s.ring fn n
  let size := sizeField 4 value r.sqSize
  let s := if !r.sqEn then s.modRing fn n fun r => { r with sqSize := size }
    else if size = r.sqSize then s else refuse s fn 0x010C off
  ringEnable s fn n off (bitOf value 0)

/-- A write of CQ_CTRL (R374, R375): SIZE_LOG2 and VECTOR keep their values while the ring is enabled; COAL_COUNT and ENABLE apply. -/
def cqCtrlWrite (s : State) (fn n value : Nat) : State :=
  let off := 0x1058 + 0x40 * n
  let r := s.ring fn n
  let size := sizeField 4 value r.cqSize
  let vec := fld value 16 6
  let s := s.modRing fn n fun r => { r with coalCount := fld value 24 8 }
  let s := if !r.cqEn then s.modRing fn n fun r => { r with cqSize := size, vector := vec }
    else if size = r.cqSize ∧ vec = r.vector then s else refuse s fn 0x010C off
  cqCount (ringEnable s fn (4 + n) off (bitOf value 0)) fn n

/-- A write of ER_CTRL (R374, R375). -/
def erCtrlWrite (s : State) (fn value : Nat) : State :=
  let e := (s.fnOf fn).er
  let size := sizeField 6 value e.size
  let vec := fld value 16 6
  let s := if !e.en then modEr s fn fun e => { e with size := size, vector := vec }
    else if size = e.size ∧ vec = e.vector then s else refuse s fn 0x010C 0x1208
  ringEnable s fn 8 0x1208 (bitOf value 0)

/-- Replace the low word of a 64-bit value. -/
def setLo (old v : Nat) : Nat := old / 2 ^ 32 * 2 ^ 32 + v % 2 ^ 32

/-- Replace the high word of a 64-bit value. -/
def setHi (old v : Nat) : Nat := old % 2 ^ 32 + v % 2 ^ 32 * 2 ^ 32

/-- A BASE word or ER_WB word by its BAR0 offset: the ring it belongs to, whether it is the high word, and whether it is the
writeback address (R373). -/
def baseOffset (off : Nat) : Option (Nat × Bool × Bool) :=
  if 0x1040 ≤ off ∧ off < 0x1140 then
    let n := (off - 0x1040) / 0x40
    match (off - 0x1040) % 0x40 with
    | 0x00 => some (n, false, false)
    | 0x04 => some (n, true, false)
    | 0x10 => some (4 + n, false, false)
    | 0x14 => some (4 + n, true, false)
    | _ => none
  else match off with
    | 0x1200 => some (8, false, false)
    | 0x1204 => some (8, true, false)
    | 0x120C => some (8, false, true)
    | 0x1210 => some (8, true, true)
    | _ => none

/-- A base after a write of one of its words; bits [11:0] stay 0 (R14). -/
def newBase (old v : Nat) (hi : Bool) : Nat := if hi then setHi old v else setLo old (v / 2 ^ 12 * 2 ^ 12)

/-- A write of a BASE or ER_WB word (R373, R375): refused while the queue is enabled. -/
def baseWrite (s : State) (fn off value : Nat) : State :=
  match baseOffset off with
  | none => s
  | some (k, hi, wb) =>
    if ringOn (s.fnOf fn) k then refuse s fn 0x010C off
    else if wb then modEr s fn fun e => { e with wb := if hi then setHi e.wb value else setLo e.wb (value / 8 * 8) }
    else if k < 4 then s.modRing fn k fun r => { r with sqBase := newBase r.sqBase value hi }
    else if k < 8 then s.modRing fn (k - 4) fun r => { r with cqBase := newBase r.cqBase value hi }
    else modEr s fn fun e => { e with base := newBase e.base value hi }

/-- A write of FN_CTRL (R396): PART_RESET asks for a reset of the bound partition. -/
def fnCtrlWrite (s : State) (fn value : Nat) : State :=
  if !bitOf value 0 then s
  else match (s.fnOf fn).part with
    | some p => if ((s.part p).cfg.map PartCfg.hostReset).getD false then resetStart s p 1 else refuse s fn 0x010B 0x0004
    | none => refuse s fn 0x010B 0x0004

/-- A write of FN_EVT (R13, R372): a 1 clears the bit. -/
def evtClear (s : State) (fn value : Nat) : State := s.modFn fn fun f => { f with evt := f.evt - (f.evt &&& (value % 128)) }

end Sys2Proof.Machine
end

