-- ==== Sys2Proof/Machine/Host.lean ====
section
/-! DEFINITION. Commands of the host ports, functions and rings (R362 to R398). -/

namespace Sys2Proof.Machine

/-! ### Links and resets (R363, R393 to R395, R532) -/

/-- FLR (R393). -/
def execFlr (fn now : Nat) (s : State) : Out :=
  guarded (instrWellFormed (.flr fn now))
    (let s := s.setNow now
     if (s.fnOf fn).presented then flrFn s fn else s)

/-- D3HOT_TO_D0 (R394): an FLR of the function. -/
def execD3hotToD0 (fn now : Nat) (s : State) : Out :=
  guarded (instrWellFormed (.d3hotToD0 fn now))
    (let s := s.setNow now
     if (s.fnOf fn).presented then flrFn s fn else s)

/-- BUS_MASTER_ENABLE_WRITE (R395): Bus Master Enable and MSI-X Enable of the function's configuration space; interrupts that
waited are sent. -/
def execBusMasterEnableWrite (fn : Nat) (on msix : Bool) (s : State) : Out :=
  guarded (instrWellFormed (.busMasterEnableWrite fn on msix))
    (if (s.fnOf fn).presented && (s.hport (fnPort fn)).up then
       flushMsix (s.modFn fn fun f => { f with bme := on, msixEn := msix }) fn
     else s)

/-- MSIX_UNMASK (R391): the mask bit of a vector clears, and a pending interrupt is sent. -/
def execMsixUnmask (fn vec : Nat) (s : State) : Out :=
  guarded (instrWellFormed (.msixUnmask fn vec))
    (flushMsix (s.modFn fn fun f => { f with msix := tmod (0, 0, true) f.msix vec fun e => (e.1, e.2.1, false) }) fn)

/-- PERST_ASSERT (R532): a loss of the port's data link. -/
def execPerstAssert (port : Nat) (s : State) : Out := guarded (instrWellFormed (.perstAssert port)) (linkLoss s port)

/-- HOST_LINK_LOSS (R394). -/
def execHostLinkLoss (port : Nat) (s : State) : Out := guarded (instrWellFormed (.hostLinkLoss port)) (linkLoss s port)

/-- HOST_LINK_TRAINED (R362, R363): the link settles or retrains at a rate in GT/s and a width. -/
def execHostLinkTrained (port rate width : Nat) (s : State) : Out :=
  guarded (instrWellFormed (.hostLinkTrained port rate width))
    (if s.power.pwrgd then
       hostLinkEvent (s.modHport port fun h => { h with up := true, rate := rate, width := width }) port
     else s)

/-! ### Doorbells and registers with a row of their own (R372 to R376, R390, R396) -/

/-- SQ_DOORBELL (R376, R390). -/
def execSqDoorbell (fn n value now : Nat) (s : State) : Out :=
  guarded (instrWellFormed (.sqDoorbell fn n value now)) (sqTailWrite (s.setNow now) fn n value)

/-- CQ_HEAD_DOORBELL (R390). -/
def execCqHeadDoorbell (fn n value now : Nat) (s : State) : Out :=
  guarded (instrWellFormed (.cqHeadDoorbell fn n value now)) (cqHeadWrite (s.setNow now) fn n value)

/-- ER_HEAD_DOORBELL (R388, R390). -/
def execErHeadDoorbell (fn value now : Nat) (s : State) : Out :=
  guarded (instrWellFormed (.erHeadDoorbell fn value now)) (erHeadWrite (s.setNow now) fn value)

/-- FN_Q_CTRL_WRITE (R374). -/
def execFnQCtrlWrite (fn value : Nat) (s : State) : Out :=
  guarded (instrWellFormed (.fnQCtrlWrite fn value)) (qCtrlWrite s fn value)

/-- SQ_CTRL_WRITE (R374, R375). -/
def execSqCtrlWrite (fn n value : Nat) (s : State) : Out :=
  guarded (instrWellFormed (.sqCtrlWrite fn n value)) (sqCtrlWrite s fn n value)

/-- CQ_CTRL_WRITE (R374, R375). -/
def execCqCtrlWrite (fn n value : Nat) (s : State) : Out :=
  guarded (instrWellFormed (.cqCtrlWrite fn n value)) (cqCtrlWrite s fn n value)

/-- ER_CTRL_WRITE (R374, R375). -/
def execErCtrlWrite (fn value : Nat) (s : State) : Out :=
  guarded (instrWellFormed (.erCtrlWrite fn value)) (erCtrlWrite s fn value)

/-- QUEUE_BASE_WRITE (R373, R375). Sizes and vectors lie in the CTRL registers. -/
def execQueueBaseWrite (fn off value : Nat) (s : State) : Out :=
  guarded (instrWellFormed (.queueBaseWrite fn off value)) (baseWrite s fn off value)

/-- FN_CTRL_PART_RESET (R396). -/
def execFnCtrlPartReset (fn value now : Nat) (s : State) : Out :=
  guarded (instrWellFormed (.fnCtrlPartReset fn value now)) (fnCtrlWrite (s.setNow now) fn value)

/-- FN_EVT_CLEAR (R13, R372). -/
def execFnEvtClear (fn value : Nat) (s : State) : Out :=
  guarded (instrWellFormed (.fnEvtClear fn value)) (evtClear s fn value)

/-! ### Fetching and posting (R376 to R388) -/

/-- SQ_FETCH (R376, R386, R390): the next descriptor of SQ `n`, which is next in turn, has been read, or its read failed. -/
def execSqFetch (fn n : Nat) (desc : Option (List Byte)) (now : Nat) (s : State) : Out :=
  guarded (instrWellFormed (.sqFetch fn n desc now))
    (let s := s.setNow now
     let f := s.fnOf fn
     let r := s.ring fn n
     match f.part with
     | none => s
     | some p =>
       if nextFetch s fn != some n || decide (1024 ≤ f.outstanding) then s
       else
         let s := s.emit (.hostRead fn (r.sqBase + 64 * r.head) 64)
         match desc with
         | none =>
           let (s, any) := freeWord s
           queueFault s fn n 0x0111 (any % 65536)
         | some d =>
           let head := (r.head + 1) % 2 ^ r.sqSize
           let arr := ((r.marks.head?).map Prod.snd).getD s.now
           let s := s.modRing fn n fun r => { r with head := head, marks := r.marks.dropWhile fun m => m.1 == head }
           let s := s.modFn fn fun f => { f with
             nextSq := (n + 1) % 4, descCnt := wrapAdd f.descCnt 1, outstanding := f.outstanding + 1 }
           runDesc s p fn n arr (slice d 0 64))

/-- HOST_BATCH_COMMAND_READ (R381): the oldest read of a batch or command returns, or fails with TAG 0. -/
def execHostBatchCommandRead (fn : Nat) (bytes : Option (List Byte)) (now : Nat) (s : State) : Out :=
  guarded (instrWellFormed (.hostBatchCommandRead fn bytes now))
    (let s := s.setNow now
     let f := s.fnOf fn
     match f.part, f.reads with
     | some p, r :: rs =>
       let s := s.modFn fn fun f => { f with reads := rs }
       let ref := fun tag => ({ fn := fn, sq := r.sq, tag := tag, quiet := r.quiet } : HostRef)
       (match bytes with
       | none => completeWith s (ref 0) 0x0323 0 0
       | some b =>
         let b := slice b 0 64
         if r.edit then placeBatch s p (ref (leAt b 6 2)) b
         else
           let h := ref (leAt b 10 2)
           if imgCmdOk b then s.modFn fn fun f => { f with cmds := f.cmds ++ [(h, b)] }
           else badCmd s (imgFields b) (some h) none 0x0200)
     | _, _ => s)

/-- CQ_COMPLETION_WRITE (R384 to R386, R391): the oldest completion that its ring can take is posted. -/
def execCqCompletionWrite (fn now : Nat) (s : State) : Out :=
  guarded (instrWellFormed (.cqCompletionWrite fn now)) (postCompl (s.setNow now) fn)

/-- CQ_COAL_TIMEOUT (R391): COAL_US have passed since the oldest unsignalled entry. -/
def execCqCoalTimeout (fn cq now : Nat) (s : State) : Out :=
  guarded (instrWellFormed (.cqCoalTimeout fn cq now))
    (let s := s.setNow now
     let r := s.ring fn cq
     if r.unsignalled = 0 ∨ r.coalUs = 0 ∨ s.now < r.oldest + 1000 * r.coalUs then s else cqSignal s fn cq)

/-- EVIDENCE_RING_WRITE (R387, R388): records of the spool that are not yet in the ring are written while there is room, then TAIL
at ER_WB, then the vector. -/
def execEvidenceRingWrite (fn : Nat) (s : State) : Out :=
  guarded (instrWellFormed (.evidenceRingWrite fn))
    (let f := s.fnOf fn
     match f.part with
     | none => s
     | some p =>
       if !f.er.en || !f.qEn || !fnIssues s fn || fnFenced s fn then s
       else
         let s' := erWrite fn ((s.part p).spool.drop f.er.written.length) s
         let e := (s'.fnOf fn).er
         if e.written.length = f.er.written.length then s
         else raiseVec (s'.emit (.hostWrite fn e.wb (toLe 4 e.tail))) fn e.vector)

/-- BAR2_ACCESS (R371): a read (`data` none) of `len` bytes or a write of `data`; what lies beyond the mapped granules reads as
zeros and is discarded, and counts. -/
def execBar2Access (fn off : Nat) (data : Option (List Byte)) (len : Nat) (s : State) : Out :=
  guarded (instrWellFormed (.bar2Access fn off data len))
    (match (s.fnOf fn).part with
     | none =>
       let s := s.modFn fn fun f => { f with bar2Miss := satAdd f.bar2Miss 1 }
       (match data with
       | none => s.emit (.barRead fn off (List.replicate len 0) false)
       | some _ => s)
     | some p =>
       if bar2Size s fn ≤ off then s
       else
       let n := match data with | some d => d.length | none => len
       let ok := bar2Mapped s p off n
       let s := if ok < n then s.modFn fn fun f => { f with bar2Miss := satAdd f.bar2Miss 1 } else s
       (match data with
       | some d => bar2Write (bar2Cross s fn p off ok true) p off (d.take ok)
       | none =>
         let r := bar2Read s p off ok
         (bar2Cross s fn p off ok false).emit (.barRead fn off (r.1 ++ List.replicate (len - ok) 0) r.2)))

end Sys2Proof.Machine
end

