-- ==== Sys2Proof/Machine/Housekeeping.lean ====
section
/-! DEFINITION. Commands of housekeeping, temperature and power (R484 to R508). -/

namespace Sys2Proof.Machine

/-! ### Triggers and sweeps (R486 to R491, R503) -/

/-- A logic die that runs sweeps: powered, fitted and not dark. -/
def hkRuns (s : State) (d : Nat) : Bool := s.power.pwrgd && (springDies s).contains d

/-- SPRING_TRIGGER (R490): at a multiple of 10 ms of module time every die runs its Spring programme, with its user entries where
USER_ON_SPRING is set. -/
def execSpringTrigger (now : Nat) (s : State) : Out :=
  guarded (instrWellFormed (.springTrigger now))
    (let s := s.setNow now
     if !s.cfg.started || s.now % 10000000 != 0 then s
     else
       let s := (springDies s).foldl (fun s d =>
         let h := hkOf s d
         let s := beginSweep s d .spring ([0, 1, 2, 3, 4, 5] ++ if h.userOnSpring then userEntries else [])
         modHk s d fun h => { h with selfTimed := false, reported := false, missed := false }) s
       modTherm s fun t => { t with seq := wrapAdd t.seq 1, roundOpen := true, limitRound := t.limit })

/-- REF_BUFFER_ON (R488). -/
def execRefBufferOn (die : Nat) (s : State) : Out :=
  guarded (instrWellFormed (.refBufferOn die))
    (if hkRuns s die && (hkOf s die).lowPower then modHk s die fun h => { h with refOn := true } else s)

/-- HK_SWEEP_STEP_DONE (R485 to R489): the conversions of the running sweep's next step end; `codes` are the converted codes by
entry. -/
def execHkSweepStepDone (die : Nat) (sweep : Sweep) (codes : List (Nat × Nat)) (last : Bool) (s : State) : Out :=
  guarded (instrWellFormed (.hkSweepStepDone die sweep codes last))
    (match (hkOf s die).sweep with
     | none => s
     | some w =>
       if w.kind != sweep || !hkRuns s die then s
       else match w.steps with
         | [] => endSweep s die w.kind
         | st :: rest =>
           let s := stepResults s die w st codes
           if rest.isEmpty then endSweep s die w.kind
           else modHk s die fun h => { h with
             sweep := some { kind := w.kind, steps := rest, sawLo := w.sawLo || stepLo s die st } })

/-- SPRING_REPORT_MISSED (R491, R495): the die's report has not reached the MC; its previous values stay in force. -/
def execSpringReportMissed (die : Nat) (s : State) : Out :=
  guarded (instrWellFormed (.springReportMissed die))
    (if !s.therm.roundOpen || !hkRuns s die || (hkOf s die).missed then s
     else
       let s := modHk s die fun h => { h with reported := false, missed := true, missRun := h.missRun + 1 }
       let s := modTherm s fun t => { t with miss := satAdd t.miss 1 }
       report s 0xF0 0x04 evSpringMissed none [(1, die), (4, (hkOf s die).missRun)])

/-- SPRING_TRIGGER_TIMEOUT (R503): no module-wide trigger for 30 ms. -/
def execSpringTriggerTimeout (die : Nat) (s : State) : Out :=
  guarded (instrWellFormed (.springTriggerTimeout die))
    (if hkRuns s die then modHk s die fun h => { h with selfTimed := true } else s)

/-- SELF_TIMED_SWEEP (R503): a self-timed die runs the Spring programme on its own; `codes` are the converted codes by entry. -/
def execSelfTimedSweep (die : Nat) (codes : List (Nat × Nat)) (s : State) : Out :=
  guarded (instrWellFormed (.selfTimedSweep die codes))
    (if !hkRuns s die || !(hkOf s die).selfTimed then s
     else
       let s := beginSweep s die .selfTimed [0, 1, 2, 3, 4, 5]
       let w : HkSweep := { kind := .selfTimed, steps := [], sawLo := true }
       endSweep (stepResults s die w [0, 1, 2, 3, 4, 5] codes) die .selfTimed)

/-- A write of HK_CTRL (R487, R507): LOWPOWER and USER_ON_SPRING, and a user sweep where SW_TRIG is 1: held in the 25 µs before a
module-wide trigger, and while a sweep runs. -/
def hkCtrlWrite (s : State) (d value : Nat) : State :=
  let s := modHk s d fun h => { h with lowPower := bitOf value 0, userOnSpring := bitOf value 1 }
  if !bitOf value 2 then s
  else if s.cfg.started && decide (9975000 < s.now % 10000000) then modHk s d fun h => { h with heldTrig := true }
  else startUser s d

/-- HK_SW_TRIG (R487). -/
def execHkSwTrig (die value now : Nat) (s : State) : Out :=
  guarded (instrWellFormed (.hkSwTrig die value now))
    (let s := s.setNow now
     if hkRuns s die then hkCtrlWrite s die value else s)

/-! ### The input current brake (R502) -/

/-- IIN48_CROSSING (R502): the input current crosses 65 A upwards, or falls back. -/
def execIin48Crossing (mA : Nat) (s : State) : Out :=
  guarded (instrWellFormed (.iin48Crossing mA))
    (if !s.power.pwrgd then s
     else if mA ≤ 65000 then { s with power := { s.power with iinOver := false } }
     else if s.power.iinOver then s
     else
       let s := { s with power := { s.power with iinOver := true } }
       markThermal (allZero (modTherm s fun t => { t with
         brake := true, brakeRound := t.roundOpen, brakeCnt := satAdd t.brakeCnt 1 })))

/-! ### The round's control (R493 to R505) -/

/-- Reports that have reached the MC are taken over (R490, R495). -/
def takeReports (s : State) (ds : List Nat) : State :=
  (ds.filter (gotReport s)).foldl (fun s d => modHk s d fun h => { h with
    missRun := 0, rep := h.res.filter fun q => decide (q.1 < 6) }) s

/-- VCORE power of a die in sixteenths of a watt, to the nearest (R485, R490). -/
def diePower (s : State) (d : Nat) : Nat :=
  let r := (hkOf s d).rep
  let n := 9 * (tget {} r 1).code * (tget {} r 2).code
  rneDiv n (if d < 40 then 65536 else 131072)

/-- The readings that the round leaves in force for a die: temperatures, power and the write window (R353, R495). -/
def settleDie (ds : List Nat) (s : State) (d : Nat) : State :=
  let t := controlTemp s ds d
  modHk s d fun h => { h with
    ctl := t, power := diePower s d
    window := if h.reported then (h.window ++ [(repRaw s d, repValid s d && !h.suspect)]).reverse.take 2 |>.reverse else h.window
    emergRun := if !h.reported then h.emergRun else if repValid s d && !h.suspect && decide (1760 ≤ repRaw s d) then h.emergRun + 1 else 0 }

/-- The supply window of an array die (R100, R495): VARR and VREF within 3 %, in codes of 1.2/4,096 V. A missed report, before the third in
sequence, neither counts toward the two good rounds nor breaks them (log entry 207). -/
def supplyCheck (s : State) (d : Nat) : State :=
  let h := hkOf s d
  let lost := !h.reported && decide (3 ≤ h.missRun)
  let va := (tget {} h.rep 3).code
  let vr := (tget {} h.rep 5).code
  let off := fun c mv => decide (4096 * 3 * mv < 100 * ((1200 * c : Int) - 4096 * mv).natAbs)
  if 40 ≤ d ∨ (!h.reported ∧ !lost) then s
  else if lost || off va 800 || off vr 600 then
    let s := modHk s d fun h => { h with railOut := true, railGood := 0 }
    if h.railOut then s
    else report (supplyFallback s d) 0xF0 0x04 evArraySupply none [(1, d), (4, rneDiv (1200 * va) 4096), (4, rneDiv (1200 * vr) 4096)]
  else modHk s d fun h => { h with
    railGood := Nat.min 2 (h.railGood + 1), railOut := h.railOut && decide (h.railGood + 1 < 2) }

/-- VCORE_RANGE (R505): VCORE more than 3 % away from the setpoint in force, in two consecutive rounds. -/
def vcoreCheck (s : State) (d : Nat) : State :=
  let h := hkOf s d
  let c := (tget {} h.rep 1).code
  let mv := 600 + 5 * h.vset
  let off := decide (4096 * 3 * mv < 100 * ((1200 * c : Int) - 4096 * (mv : Int)).natAbs)
  if !h.reported then s
  else
    let s := modHk s d fun h => { h with vcoreRun := if off then Nat.min 3 (h.vcoreRun + 1) else 0 }
    if off && h.vcoreRun == 1 then report s 0xF0 0x04 evVcoreRange none [(1, d), (1, h.vset), (4, rneDiv (1200 * c) 4096)] else s

/-- Input power of the round (R500, R501, R505): POWER_LIMIT, POWER_CLEAR and INPUT_RANGE. -/
def powerCheck (s : State) : State :=
  let d := 0x40 + 3 * b2n s.cfg.active3
  let r := (hkOf s d).rep
  let s := modTherm s fun t => if gotReport s d then { t with vinCode := (tget {} r 5).code, iinCode := (tget {} r 3).code } else t
  let t := s.therm
  let p := inputPower t
  let lim := dpStep t == -1
  let low := decide (100 * p < 97 * effLimit t)
  let range := decide (t.vinCode * 75 < 160000) || decide (240000 < t.vinCode * 75)
  let s := modTherm s fun t => { t with
    limiting := lim, limitOn := (t.limitOn || lim) && !low, currentLimiting := decide (currentTerm t < 40960 * t.limitRound)
    input := watts p, effLimit := watts (effLimit t), vinRun := if range then Nat.min 3 (t.vinRun + 1) else 0 }
  let s := if lim && !t.limitOn then report s 0xF0 0x04 evPowerLimit none [(4, watts p), (4, watts (effLimit t))] else s
  let s := if low && t.limitOn then report s 0xF0 0x04 evPowerClear none [(4, watts p)] else s
  if range && t.vinRun == 1 then report s 0xF0 0x04 evInputRange none [(4, rneDiv (75 * t.vinCode) 4)] else s

/-- The brake at the end of a round (R502, R506): it ends with the first reading at or below 65 A of a round that began after the
crossing. -/
def brakeCheck (s : State) : State :=
  if s.therm.brake && !s.therm.brakeRound && decide (s.therm.iinCode ≤ 3328) then
    let s := modTherm s fun t => { t with brake := false }
    { s with power := { s.power with iinOver := false } }
  else modTherm s fun t => { t with brakeRound := false }

/-- The setpoint of a die after the round (R499, R502, R503). -/
def controlDie (ds hot : List Nat) (s : State) (d : Nat) : State :=
  let h := hkOf s d
  let t := if hot.contains d then max h.ctl 1520 else h.ctl
  let v := if s.therm.brake then 0 else nextSet h.mcSet s.therm.vTarget (dtStep t) (dpStep s.therm)
  let trip := h.trip && !(h.suspect || (h.reported && decide (repRaw s d < 1600)))
  let s := modHk s d fun h => { h with mcSet := v, trip := trip }
  let s := setVset s d (if trip then 0 else v)
  let s := if (hkOf s d).throttled then modHk s d fun h => { h with throttleCnt := satAdd h.throttleCnt 1 } else s
  if ds.head? == some d || s.therm.max < h.ctl then modTherm s fun x => { x with max := h.ctl, maxDie := d } else s

/-- Fence the partitions that run, and remember them (R504, R506). -/
def emergencyFence (s : State) : State :=
  let ps := (s.parts.filter fun q => q.2.state == .running).map Prod.fst
  let s := ps.foldl fencePart s
  modTherm s fun t => { t with emergFenced := (t.emergFenced ++ ps).eraseDups }

/-- Thermal emergency (R504): begin, hold, or end after 100 cool rounds with a reset of each fenced partition. -/
def emergencyCheck (s : State) (ds : List Nat) : State :=
  let vals := (ds.filter fun d => gotReport s d && repValid s d).map (repRaw s)
  let cool := vals.all fun r => decide (r < 1520)
  match s.therm.emergency, ds.find? fun d => decide (3 ≤ (hkOf s d).emergRun) with
  | false, some d =>
    let s := emergencyFence (allZero s)
    let s := modTherm s fun t => { t with emergency := true, coolRun := 0 }
    let s := { s with power := { s.power with thermAlert := true } }
    report s 0xF0 0x04 evThermalEmergency none [(1, d), (4, s32 (repRaw s d))]
  | false, none => s
  | true, _ =>
    let n := if cool then s.therm.coolRun + 1 else 0
    if n < 100 then emergencyFence (modTherm s fun t => { t with coolRun := n })
    else
      let ps := s.therm.emergFenced
      let s := modTherm s fun t => { t with emergency := false, coolRun := 0, emergFenced := [] }
      let s := { s with power := { s.power with thermAlert := false } }
      ps.foldl (fun s p => resetStart s p 5) s

/-- The readings of a round: reports, the cross-check of the sensors, the stacks and what stands for each die (R493 to R496). -/
def controlReadings (hotStacks : List (Nat × Option Int)) (s : State) (ds : List Nat) : State :=
  let s := takeReports s ds
  let bases := ds.map fun d => (d, predictFrom s ds d)
  let s := bases.foldl (fun s q => crossCheck s q.1 q.2) s
  let s := (stackIds s).foldl (readStack hotStacks) s
  ds.foldl (settleDie ds) s

/-- The control law of a round: power, brake, rails, setpoints and the emergency (R499 to R506). -/
def controlLaw (s : State) (ds : List Nat) : State :=
  let s := brakeCheck (powerCheck s)
  let s := ds.foldl (fun s d => vcoreCheck (supplyCheck s d) d) s
  let s := ds.foldl (controlDie ds (hotDies s)) s
  modTherm (markThermal (emergencyCheck s ds)) fun t => { t with roundOpen := false }

/-- A die reports a valid 120 °C or more (R504). -/
def shutdownDue (s : State) (ds : List Nat) : Bool :=
  ds.any fun d => gotReport s d && repValid s d && decide (1920 ≤ repRaw s d)

/-- SPRING_CONTROL (R491 step 6, R493 to R505): the MC takes the reports, cross-checks the sensors, reads the stacks and applies the
control law. A valid reading of 120 °C shuts the module down. -/
def execSpringControl (hotStacks : List (Nat × Option Int)) (now : Nat) (s : State) : Out :=
  guarded (instrWellFormed (.springControl hotStacks now))
    (let s := s.setNow now
     if !s.therm.roundOpen || !s.power.pwrgd then s
     else
       let ds := springDies s
       let s := controlReadings hotStacks s ds
       if shutdownDue s ds then shutdown120 s else controlLaw s ds)

end Sys2Proof.Machine
end

