-- ==== Sys2Proof/Machine/Weir.lean ====
section
/-! DEFINITION. The Weir swap (R346 to R351): SWAP, WEIR_CLOSE, WEIR_DRAIN_DONE and WEIR_RELEASE. -/

namespace Sys2Proof.Machine

/-- The refusals of R346 after 0x0208, in their order, as a reason. -/
def swapCheck (s : State) (r : ImgReq) (found : Option (Nat × Nat × Bool × ResSlot)) : Except Nat (Plain × Nat × Nat × Bool × ResSlot) :=
  let p := r.cmd.part
  let k := r.cmd.slot
  let q := s.slot p k
  if q.state == .empty || q.state == .partial_ then .error 0x0268
  else match found, q.plain with
    | some (st, m, b, x), some old =>
      (match x.plain with
      | none => .error 0x0204
      | some new =>
        if !resReady x then .error 0x0204
        else if !headerOk x.header || byteAt x.header 5 != 1 || !manifestOk new 1 (hdrPlain x.header) then .error 0x0200
        else if !headerKeyed s x.header then .error 0x0201
        else match (check4 s p k new 0).head? with
          | some e => .error e.1
          | none =>
            if hdrLayout x.header != hdrLayout q.header || hdrId x.header != q.imageId || decide (new.levels.length ≤ q.level) then .error 0x0263
            else if (liveGrans s (slotGrans s p k 0)).length * granBytes < old.shadowBytes + new.shadowBytes then .error 0x0262
            else if (q.placed.map fun h => tileDie h.tile).any fun d => !dieWritable s d then .error 0x0203
            else .ok (new, st, m, b, x))
    | _, _ => .error 0x0204

/-- SWAP (R346, R348): the incoming image is staged with the Weir open. -/
def execSwap (iss : Issuer) (cmd : List Byte) (now : Nat) (s : State) : Out :=
  guarded (instrWellFormed (.swap iss cmd now))
    (runCmd (s.setNow now) iss 6 cmd fun s r =>
      let c := r.cmd
      if slotBusy s c.part c.slot || modelBusy s r.owner c.imageId || (s.slot c.part c.slot).state == .loading then endCmd s r 0x0208
      else match swapCheck s r (pickRes s r.owner c.imageId c.epoch) with
        | .error e => refusalName (endCmd s r e) c.part c.slot ((pickRes s r.owner c.imageId c.epoch).bind fun q => q.2.2.2.plain) 0 e
        | .ok (new, st, m, b, x) =>
          let (s, id) := newOp s
          let j : ImgOp := { id := id, kind := .swap, part := c.part, slot := c.slot, tag := c.tag, href := r.href, reply := r.reply
                             stack := st, model := m, resB := b, header := x.header, chunks := hdrChunks x.header, staleClose := c.staleClose }
          let w : Weir := { res := (st, m, b2n b), epoch := hdrEpoch x.header, header := x.header, plain := new, staleClose := c.staleClose,
                            oldEpoch := (s.slot c.part c.slot).epoch }
          pushJob (s.modSlot c.part c.slot fun q => { q with weir := some w, job := some j }) st j)

/-- WEIR_CLOSE (R348, R349 step 1): staging is complete and the partition runs; the slot's entries are HELD (R347). -/
def execWeirClose (p slot now : Nat) (s : State) : Out :=
  guarded (instrWellFormed (.weirClose p slot now))
    (let s := s.setNow now
     let q := s.slot p slot
     match q.weir with
     | some w =>
       if w.staged && w.step == .staging && q.state == .ready && (s.part p).state == .running then
         s.modSlot p slot fun q => { q with
           state := .weirClosed, weir := some { w with step := .draining, closedAt := s.now } }
       else s
     | none => s)

/-- Nothing of the slot's old epoch runs (R349 step 2): no pass, no verify step that has opened one, no recomputation. -/
def slotDrained (s : State) (p k : Nat) : Bool :=
  let q := s.part p
  let mine := fun (x : Entry) => x.slot == k || (x.partnerValid && (s.entry x.partner).slot == k)
  (q.passes.all fun x => x.slot != k) && (q.recomps.all fun x => x.slot != k) && (q.backlog.all fun b => b.pass.slot != k) &&
    (partEntries s p).all fun e => !(mine e.2 && verifyStarted e.2)

/-- A draft entry that becomes STALE is released, and its main entry runs at depth 0 (R350). -/
def releaseDraft (s : State) (p e : Nat) : State :=
  let m := (s.entry e).partner
  releaseEntry (s.modEntry m fun y => { y with partnerValid := false, specDepth := 0, probe := 0 }) p e

/-- An entry becomes STALE (R350): its pending items complete with 0x0304, and under STALE_CLOSE it is closed (R351). -/
def makeStale (p : Nat) (close : Bool) (s : State) (e : Nat) : State :=
  if (s.entry e).draft then releaseDraft s p e
  else
    let s := removeAll (s.modEntry e fun x => { x with stale := true }) p e 0x0304
    let x := s.entry e
    let s := if x.frameWait then endFrameWait s p x.slot e else s
    if close then closeEntry s p e none else s

/-- The outgoing epoch is compatible with the incoming image (R350). -/
def kvCompatible (w : Weir) (old : Nat) : Bool :=
  let c := leAt w.header 14 2
  decide (1 ≤ c) && decide (c ≤ old)

/-- Step 3 of R349: old-epoch variants are unloaded and the entries that name them turn STALE (R273); without KV compatibility all the
slot's entries do (R350). -/
def weirStep3 (s : State) (p k : Nat) (w : Weir) : State :=
  let q := s.slot p k
  let ok := kvCompatible w q.epoch
  let es := ((partEntries s p).filter fun e => e.2.slot == k && !e.2.stale && !(ok && e.2.variant == 0)).map Prod.fst
  let n := es.length
  let s := s.modSlot p k fun q => { q with variants := [], staleCnt := satAdd q.staleCnt n }
  let s := es.foldl (makeStale p w.staleClose) s
  let s := if ok && n == 0 then s else reportLead s p evSeqStale [(1, p), (1, k), (4, n)]
  s.modSlot p k fun q => { q with weir := some { w with step := .programming, staleCnt := w.staleCnt + n } }

/-- WEIR_DRAIN_DONE (R349 steps 2 and 3, R354): nothing of the old epoch runs any more. -/
def execWeirDrainDone (p slot now : Nat) (s : State) : Out :=
  guarded (instrWellFormed (.weirDrainDone p slot now))
    (let s := s.setNow now
     let q := s.slot p slot
     match q.weir with
     | some w =>
       if w.step == .draining && (q.state == .weirClosed || q.state == .partial_) && !(s.part p).resetting && slotDrained s p slot then
         weirStep3 s p slot w
       else s
     | none => s)

/-- The contexts of an image take the schedules of the image in force, on each tile in order. -/
def rebindScheds (s : State) (p k : Nat) (x : Plain) : State :=
  let q := s.slot p k
  match x.levels[q.level]? with
  | none => s
  | some v =>
    let ctxs := imgCtxs s p k
    (levelTiles x q.level).foldl (fun s rel =>
      let t := relTile s p rel
      let map := (needsOn v rel).filterMap fun n => (placedAt q.placed t n).map fun h => (n, h)
      let ds := x.scheds.filter fun d => d.level == q.level && d.tile == rel
      ((ctxs.filter fun c => c.1 == t).zip ds).foldl (fun s c =>
        (modCtx s t c.1.2 fun o => { o with sched := some (bindSched c.2 map), pc := 0, loops := [], wait := none }).modTile t fun y =>
          writeCode y c.2) s) s

/-- WEIR_RELEASE (R349 steps 5 and 6): every layer is resident under the new epoch; the staging area becomes the shadow, HELD entries
resume and WEIR_DONE is reported. -/
def execWeirRelease (p slot now : Nat) (s : State) : Out :=
  guarded (instrWellFormed (.weirRelease p slot now))
    (let s := s.setNow now
     let q := s.slot p slot
     match q.weir, q.job with
     | some w, some j =>
       if w.step != .programming || (s.part p).resetting || !(placedLayers w.plain q.level).all (fun l => w.done.contains l) then s
       else
         let s := (dropRepairs s p slot).modSlot p slot fun q => { q with
           state := .ready, res := w.res, epoch := w.epoch, header := w.header, plain := some w.plain, weir := none, job := none
           notResident := [], shadowBad := [], swapCnt := wrapAdd q.swapCnt 1 }
         let s := rebindScheds s p slot w.plain
         let us := Nat.min ((s.now - w.closedAt) / 1000) (2 ^ 32 - 1)
         let s := reportLead s p evWeirDone [(1, p), (1, slot), (2, q.epoch), (2, w.epoch), (4, us), (4, w.staleCnt)]
         endOp s j 0
     | _, _ => s)

end Sys2Proof.Machine
end

