-- ==== Sys2Proof/Machine/OpsReloc.lean ====
section
/-! DEFINITION. Shared operations on retirement and relocation (R436 to R441): what a retired die or channel pair takes with it, and
the steps of a relocation. -/

namespace Sys2Proof.Machine

/-! ### What a slot needs (R439, R440) -/

/-- The image slot needs a partition-relative tile at its level. -/
def slotNeeds (s : State) (p k rel : Nat) : Bool :=
  match (s.slot p k).plain with
  | some x => (levelTiles x (s.slot p k).level).contains rel || (x.basinWords.map Prod.fst).contains rel ||
      (x.rowsNeeded.map Prod.fst).contains rel || (match x.kv with | some v => v.pairs.any fun a => a.tile == rel | none => false)
  | none => false

/-- The die has been retired (R437). An excluded die (R89) has not: its tiles were never to be had. -/
def retired (s : State) (d : Nat) : Bool := (s.die d).state == .compute || (s.die d).state == .dark

/-- A tile is lost to its partitions: on a retired die, or SHORT (R92, R437). -/
def tileLost (s : State) (t : Nat) : Bool := retired s (tileDie t) || (s.tile t).short || (s.tile t).spadShort

/-- Relative indices of a partition's lost tiles. -/
def lostTiles (s : State) (p : Nat) : List Nat :=
  let ts := (s.part p).tiles
  ((List.range ts.length).zip ts).filterMap fun q => if tileLost s q.2 then some q.1 else none

/-- Image slots that need a lost tile, or that wait for a reload. -/
def affectedSlots (s : State) (p : Nat) : List Nat :=
  let ls := lostTiles s p
  (usedSlots s p).filter fun k => (s.part p).heldReloc.contains k || (s.part p).blocked.contains k || ls.any (slotNeeds s p k)

/-- The share of a relative tile that slots need fits a tile. -/
def shareFits (s : State) (p rel t : Nat) (ks : List Nat) : Bool :=
  let xs := ks.filterMap fun k => (s.slot p k).plain.map fun x => (x, (s.slot p k).level)
  let tarns := (xs.map fun x => ((x.1.levels[x.2]?).map fun v => (needsOn v rel).length).getD 0).sum
  let words := (xs.map fun x => needAt x.1.basinWords rel).sum
  let rows := (xs.map fun x => needAt x.1.rowsNeeded rel).sum
  let ctxs := (xs.map fun x => (x.1.scheds.filter fun d => d.level == x.2 && d.tile == rel).length).sum
  let y := s.tile t
  decide (tarns ≤ (offered s t).length) && decide (words + y.basinWords + y.basinLost ≤ 16384) && decide (rows + y.rowsUsed ≤ 65536) &&
    decide (ctxs ≤ (freeCtxs s t).length)

/-- The first RESERVE tile with room for a lost tile (R439 step 2). -/
def reserveFor (s : State) (p rel : Nat) (ks : List Nat) : Option Nat :=
  s.cfg.module.reserve.find? fun t => !tileLost s t && adFitted s.variant (tileDie t) && (s.die (tileDie t)).state == .inService && !(s.part p).tiles.contains t && shareFits s p rel t ks

/-- Set an element of a list. -/
def setNth {α : Type} (l : List α) (i : Nat) (v : α) : List α := ((List.range l.length).zip l).map fun q => if q.1 = i then v else q.2

/-- Map lost tiles, in partition-relative order; what is left over has no room anywhere. -/
def mapTiles (p : Nat) (ks : List Nat) : List Nat → State → State × List Nat
  | [], s => (s, [])
  | rel :: rels, s =>
    match reserveFor s p rel ks with
    | some t =>
      mapTiles p ks rels (s.modPart p fun q => { q with
        tiles := setNth q.tiles rel t, relocated := q.relocated ++ [(rel, t)], moved := q.moved + 1 })
    | none => let r := mapTiles p ks rels s; (r.1, rel :: r.2)

/-! ### Relocating a partition (R439) -/

/-- A die retirement during a swap supersedes it (R354): the slot goes on with the new image, the compatibility decided as in step 3
of R349. -/
def supersedeSwap (s : State) (p k : Nat) : State :=
  match (s.slot p k).weir with
  | none => s
  | some w =>
    let s := match (s.slot p k).job with | some j => dropJob s j.stack j.id | none => s
    let s := if w.step == .staging || w.step == .draining then weirStep3 s p k w else s
    let w := ((s.slot p k).weir).getD w
    let w := if w.closedAt = 0 then { w with closedAt := s.now } else w
    s.modSlot p k fun q => { q with
      res := w.res, epoch := w.epoch, header := w.header, plain := some w.plain, weir := some { w with step := .releasing } }

/-- Layers whose Tarns are where they were and which are resident keep them (R439 step 5). -/
def keptLayers (q : ImgSlot) (new : List Placed) (x : Plain) (n : Nat) : List Nat :=
  if q.weir.isSome then []
  else (placedLayers x n).filter fun l => q.resident.contains l && q.placed.filter (fun h => h.layer == l) == new.filter fun h => h.layer == l

/-- The slot has no place (R440): it reads PARTIAL, holds nothing, and waits for reserve capacity. -/
def blockSlot (s : State) (p k : Nat) : State :=
  let s := s.modSlot p k fun q => { q with
    state := .partial_, notResident := match q.plain with | some x => placedLayers x q.level | none => [] }
  s.modPart p fun x => { x with
    blocked := if x.blocked.contains k then x.blocked else x.blocked ++ [k], heldReloc := x.heldReloc.filter (· != k) }

/-- The shadow of an image fits the granules that are left (R441). -/
def shadowFits (s : State) (p k : Nat) (x : Plain) : Bool := decide (x.shadowBytes ≤ (liveGrans s (slotGrans s p k 0)).length * granBytes)

/-- A slot is placed anew (R439 steps 4 and 5): the level is chosen again, and its image is read by the engine of its stack. `old` is
the slot as it was; a read that a second die's retirement meets before its end goes on (R443). -/
def placeAnew (s : State) (p k : Nat) (old : ImgSlot) : State :=
  match old.plain with
  | none => s
  | some x =>
    if !shadowFits s p k x then blockSlot s p k
    else match chooseLevel s p x with
      | none => blockSlot s p k
      | some n =>
        let s := takeLevel s p k n x old.placed
        let q := s.slot p k
        let keep := keptLayers old q.placed x n
        let (s, id) := newOp s
        let at_ := match old.job with
          | some j => if j.kind == .relocation && decide (j.chunk < j.chunks) then j.chunk else 0
          | none => 0
        let j0 : ImgOp := match old.weir, old.job with | some _, some j => j | _, _ => { id := 0, kind := .relocation }
        let j : ImgOp := { j0 with
          id := id, kind := .relocation, part := p, slot := k, stack := old.res.1, model := old.res.2.1, resB := old.res.2.2 == 1
          header := old.header, chunk := at_, chunks := hdrChunks old.header, waiting := false, started := s.now }
        let s := s.modSlot p k fun q => { q with
          state := .partial_, resident := keep, notResident := (placedLayers x n).filter fun l => !keep.contains l, job := some j }
        let s := s.modPart p fun x => { x with
          blocked := x.blocked.filter (· != k), heldReloc := if x.heldReloc.contains k then x.heldReloc else x.heldReloc ++ [k] }
        pushJob s old.res.1 j

/-- The result of the last FM_CMD (R445). -/
def fmResult (s : State) (reason : Nat) : State := { s with fm := { s.fm with cmdReason := reason } }

/-- Steps 2 to 5 of a relocation (R439), with the slots that find no place (R440). -/
def relocatePart (s : State) (p : Nat) : State :=
  let ks := affectedSlots s p
  let s := ks.foldl (fun s k => supersedeSwap s p k) s
  let olds := ks.map fun k => (k, s.slot p k)
  let s := ks.foldl (fun s k =>
    let q := s.slot p k
    let s := match q.job, q.weir with | some j, none => dropJob s j.stack j.id | _, _ => s
    (freeLevel s p k).modSlot p k fun x => { x with level := q.level, job := none }) s
  let dead := (((s.part p).tiles.map tileDie).filter (retired s)).eraseDups
  let lost := lostTiles s p
  let (s, left) := mapTiles p ks lost (s.modPart p fun q => { q with moved := 0 })
  let first := ((s.part p).relocated.drop ((s.part p).relocated.length - (s.part p).moved)).head?
  let s := match first with
    | some f => s.modPart p fun q => { q with aeMap := q.aeMap.filter (fun a => !dead.contains a.1) ++ dead.map fun d => (d, tileDie f.2) }
    | none => s
  let stuck := ks.filter fun k => left.any (slotNeeds s p k)
  let s := stuck.foldl (fun s k => blockSlot s p k) s
  let s := (olds.filter fun q => !stuck.contains q.1).foldl (fun s q => placeAnew s p q.1 q.2) s
  let s := { s with fm := { s.fm with
    relocQueue := s.fm.relocQueue.filter (· != p), relocActive := some p } }
  let s := if !(s.part p).blocked.isEmpty && dead.any fun d => (s.die d).reason == 5 then fmResult s 0x0403 else s
  let s := sendNotice s .relocate (some p) 0 (hostDies s p)
  if (s.part p).blocked.isEmpty then s else report s 0xF0 0x06 evRelocationBlocked (some p) [(1, p)]

/-- A relocation of the partition waits for its steps, or its slots are being reread. -/
def relocRuns (s : State) (p : Nat) : Bool :=
  s.fm.relocQueue.contains p || (s.part p).slots.any fun k => match k.2.job with | some j => j.kind == .relocation | none => false

/-- A partition is to be relocated: its affected slots are held, and its reset begins with cause 6 (R439 step 1). -/
def startReloc (s : State) (p : Nat) : State :=
  if (s.part p).state == .disabled then s
  else
    let ks := affectedSlots s p
    let s := queueReloc s p
    resetStart (s.modPart p fun q => { q with heldReloc := q.heldReloc ++ ks.filter fun k => !q.heldReloc.contains k }) p 6

/-! ### Channels (R441) -/

/-- Stripes with a frame in granule number `i` of a KV die's list, below the pool's size. -/
def stripesIn (s : State) (p k : Nat) (v : KvParams) (d i : Nat) : List Nat :=
  let per := framesPerGran (frameSize s p v d)
  (List.range per).map (i * per + ·) |>.filter fun n => decide (n < (s.slot p k).pool.total)

/-- Reset a partition that is then left DISABLED with a reason (R441). -/
def resetDisable (s : State) (p cause reason : Nat) : State := (resetStart s p cause).modPart p fun q => { q with disableAs := some reason }

/-- What the loss of a granule does to its partition, by role (R441). -/
def loseGranule (s : State) (p : Nat) (g : Granule) : State :=
  let k := g.slot
  match g.role with
  | 1 =>
    (match kvOf s p k with
    | none => s
    | some v =>
      let gs := (granulesOf s p).filter fun x => x.role == 1 && x.ad == g.ad && x.slot == k
      let ss := stripesIn s p k v g.ad ((gs.findIdx? fun x => x.g == g.g).getD 0)
      checkLow (modPool (ss.foldl (fun s n => poisonStripe s p k n) s) p k fun q => withdraw q ss) p k)
  | 2 =>
    let gs := (granulesOf s p).filter fun x => x.role == 2 && x.slot == k
    let i := (gs.findIdx? fun x => x.g == g.g).getD 0
    let es := (partEntries s p).filter fun q => q.2.slot == k && ctrlHolds s p q.2 (i * granBytes) granBytes
    es.foldl (fun s q => makeStale p false (failFrom s p q.1 0 (some reasonPassFailed)) q.1) s
  | 0 =>
    if (s.slot p k).state == .empty then s
    else
      let s := match (s.slot p k).weir, (s.slot p k).job with
        | some w, some j => if w.step == WeirStep.staging then
            endOp ((dropJob s j.stack j.id).modSlot p k fun q => { q with weir := none, job := none }) j 0x0267 else s
        | _, _ => s
      startReloc (s.modPart p fun q => { q with heldReloc := if q.heldReloc.contains k then q.heldReloc else q.heldReloc ++ [k] }) p
  | 3 => resetDisable s p 7 0x0141
  | _ => s

/-- Granules of a channel pair. -/
def granOfPair (g : Granule) (stack pair : Nat) : Bool := g.g / 24 == stack && g.g % 24 / 3 == pair

/-- Retire a channel pair (R441). -/
def retirePair (s : State) (stack pair : Nat) : State :=
  if (s.stack stack).retired.contains pair then s
  else
    let hit := (s.parts.map fun q => ((granulesOf s q.1).filter fun g => granOfPair g stack pair).map fun g => (q.1, g)).flatten
    let s := s.modStack stack fun x => { x with retired := x.retired ++ [pair] }
    let s := hit.foldl (fun s q => loseGranule s q.1 q.2) s
    let ps := (hit.map Prod.fst).eraseDups
    let s := sendNotice s .retireChannel none (stack * 8 + pair) ((ps.map (hostDies s)).flatten.eraseDups)
    report s 0xF0 0x06 evChannelRetired none [(1, stack), (1, pair), (8, maskOf ps)]

/-! ### Dies (R436 to R438) -/

/-- Partitions that hold a tile, a Tarn or a KV pair on a die, ascending (R439). -/
def partsOnDie (s : State) (d : Nat) : List Nat :=
  (s.parts.filter fun q => q.2.state != .disabled && (q.2.tiles.any (fun t => tileDie t == d) || q.2.aeMap.any fun a => a.2 == d)).map Prod.fst

/-- A partition depends on a route that no die path serves (R438). -/
def cutOff (s : State) (p : Nat) : Bool :=
  let all := hostDies s p
  let ds := all.filter fun d => decide (d < 40)
  let iods := (all.filter fun d => decide (0x40 ≤ d)).map (· - 0x40)
  ds.any fun a => (ds.any fun b => a != b && (route s a b).isNone) || iods.any fun i => (routeIn s i a).isNone || (routeOut s a i).isNone

/-- A partition is left DISABLED with 0x0402, its state kept in DRAM and the Reservoir (R438). -/
def unreachable (s : State) (p : Nat) : State :=
  let q := s.part p
  if q.state == .disabled then s
  else
    let s := discardPasses s p
    let s := match q.fn with
      | some fn => setEvt (s.modFn fn fun f => { f with qEn := false }) fn 2
      | none => s
    s.modPart p fun q => { q with state := .disabled, reason := 0x0402, resetting := false, tag := (q.tag + 1) % 65536 }

/-- Fence the tiles and engines of a die for good (R437). -/
def fenceDie (s : State) (d : Nat) : State :=
  let s := (List.range 32).foldl (fun s t => s.modTile (32 * d + t) fun x => { x with fenced := true }) s
  (List.range 4).foldl (fun s e => modAe s d e fun a => { a with fenced := true }) s

/-- Retire an array die (R436, R437, R438): compute, or dark with its ports down and its stack lost. -/
def retireDie (s : State) (d : Nat) (dark : Bool) (reason : Nat) : State :=
  let was := (s.die d).state
  if was == .dark || !adFitted s.variant d || (was == .compute && !dark) then s
  else
    let ps := partsOnDie s d
    let s := fenceDie (s.modDie d fun x => { x with state := if dark then .dark else .compute, reason := reason }) d
    let s := if dark then (List.range 4).foldl (fun s q => if (twNeighbour s.variant d q).isSome then linkDown s d q else s) s else s
    let s := if dark then (match dieStack s.variant d with
        | some k => (List.range 8).foldl (fun s q => retirePair s k q) (s.modStack k fun x => { x with lost := true })
        | none => s) else s
    let s := sendNotice s .retireDie none d ((ps.map (hostDies s)).flatten.eraseDups.filter (· != d))
    let s := if dark then sendNotice s .route none d ((allDies s.variant).filter fun e => e != d && (s.die e).state != .dark) else s
    let s := report s 0xF0 0x06 evDieRetired none [(1, d), (1, if dark then 2 else 1), (2, reason), (8, maskOf ps)]
    let s := ps.foldl startReloc s
    if dark then (s.parts.map Prod.fst).foldl (fun s p => if cutOff s p then unreachable s p else s) s else s

end Sys2Proof.Machine
end

