-- ==== Sys2Proof/Machine/OpsCfg.lean ====
section
/-! DEFINITION. Shared operations on configuration commands (R400, R416 to R420, R425): who may issue them, PART_RESTART,
OWNERS_RELOAD and CFG_WRITE. -/

namespace Sys2Proof.Machine

/-! ### Reach (R425, R533) -/

/-- The requester may act for the operator: the sideband, or a Flesha command of an OPERATOR owner. -/
def operatorReach (s : State) (r : Requester) : Bool :=
  match r with
  | .sideband _ => true
  | .flesha o => isOperator s o
  | .host _ => false

/-- The requester may act on a partition. -/
def partReach (s : State) (r : Requester) (p : Nat) : Bool :=
  match r with
  | .flesha o => isOperator s o || partOwner s p == some o
  | _ => operatorReach s r

/-! ### The end of a command (R416) -/

/-- A command that does not begin (R416): its reason is shown, and answered. -/
def cfgRefuse (s : State) (r : Option Reply) (action reason : Nat) : State :=
  let s := { s with cfg := { s.cfg with cmdReason := reason, cmdAction := action } }
  match r with | some q => fleshaReply s q reason [] | none => s

/-- The running command ends with a reason. -/
def cfgEnd (s : State) (reason : Nat) : State :=
  match s.cfg.cmdBusy with
  | none => s
  | some c => cfgRefuse { s with cfg := { s.cfg with cmdBusy := none } } c.reply c.action reason

/-- A command begins. -/
def cfgBegin (s : State) (c : CfgCmd) : State := { s with cfg := { s.cfg with cmdBusy := some c, cmdAction := c.action, cmdReason := 0 } }

/-- A module start, another command or a CFG_WRITE is in progress (R416). -/
def cfgBusy (s : State) : Bool := !s.cfg.started || decide (s.cfg.phase < 5) || s.cfg.cmdBusy.isSome || s.cfg.write.isSome

/-! ### PART_RESTART (R417) -/

/-- An image command of the partition runs (R416). -/
def imageCmdRuns (s : State) (p : Nat) : Bool :=
  ((s.part p).slots.any fun q => slotBusy s p q.1) || s.engines.any fun e => e.2.jobs.any fun j => j.part == p && (j.kind == .install || j.kind == .load)

/-- A retirement or relocation that affects the partition runs (R416, R439). -/
def retireRuns (s : State) (p : Nat) : Bool :=
  relocRuns s p || s.fm.notices.any fun n => (n.kind == .retireDie && (partsOnDie s n.arg).contains p) || (n.kind == .relocate && n.part == some p)

/-- Every entry of the partition is FREE. -/
def allFree (s : State) (p : Nat) : Bool := (partEntries s p).isEmpty

/-- A new section needs the partition idle, and it is not (R417 step 2). -/
def restartInUse (s : State) (p : Nat) (new : Option PartCfg) : Bool :=
  match (s.part p).cfg with
  | none => false
  | some o =>
    let idle := allFree s p && (usedSlots s p).isEmpty
    match new with
    | none => !idle
    | some c =>
      let resources := c.tiles != o.tiles || c.granules != o.granules || c.blocks != o.blocks || c.keyLog2 != o.keyLog2 || c.owner != o.owner
      let named := fun (x : PartCfg) (k : Nat) => (x.slots.find? fun r => r.slot == k).map fun r => (r.imageId, r.epoch)
      (resources && !idle) || (usedSlots s p).any fun k => (named o k).isSome && named c k != named o k

/-- FN_EVT.CFG_CHANGED of a function, where there is one (R372, R417). -/
def bindingEvt (s : State) (f : Option Nat) : State := match f with | some fn => setEvt s fn 6 | none => s

/-- A PART_RESTART has ended well: it is counted, reported and answered (R417). -/
def restartDone (s : State) (p gen : Nat) : State :=
  let s := { s with cfg := { s.cfg with restartCnt := wrapAdd s.cfg.restartCnt 1 } }
  cfgEnd (report s 0xF0 0x00 evPartRestarted (some p) [(1, p), (8, gen)]) 0

/-- The new section is in force, and the functions whose binding changed are told. -/
def restartPut (s : State) (p : Nat) (c : PartCfg) (gen : Nat) : State :=
  let old := (s.part p).fn
  let s := putSection (unbindPart s p) p c gen
  let new := (s.part p).fn
  let s := bindingEvt (if old == new then s else bindingEvt s old) new
  s.modPart p fun q => { q with state := .starting }

/-- Slots that a new section names with LOAD_AT_START and the section before it did not (R417 step 5). -/
def newStarts (old : Option PartCfg) (c : PartCfg) : List SlotCfg :=
  (startSlots c).filter fun r => !((old.map startSlots).getD []).any fun o => o.slot == r.slot

/-- Step 4 of R417: the new section is in force, with checks 6, 7 and 9; a section without ENABLE, or one that is gone, leaves the
partition DISABLED with its resources released. -/
def restartApply (s : State) (p : Nat) (new : Option PartCfg) (gen : Nat) : State :=
  match new with
  | none => restartDone (bindingEvt ((disablePart s p 0).modPart p fun q => { q with gen := gen }) (s.part p).fn) p gen
  | some c =>
    let starts := newStarts (s.part p).cfg c
    let s := restartPut s p c gen
    let r := draftCheck s p
    if r != 0 then cfgEnd (partCfgRefused (disablePart s p r) p r) r
    else startLoads p starts (restartDone (partRuns s p) p gen)

/-- A PART_RESTART fails in steps 1 or 2: the partition is left unchanged (R417). -/
def restartFail (s : State) (p reason : Nat) : State := cfgEnd (s.modPart p fun q => { q with reason := reason }) reason

/-- PART_RESTART up to its reset (R416, R417 steps 1 to 3). -/
def restartBegin (s : State) (p : Nat) (r : Option Reply) : State :=
  if cfgBusy s || imageCmdRuns s p || retireRuns s p then cfgRefuse s r 1 0x0150
  else
    let s := cfgBegin s { action := 1, part := p, reply := r }
    match chooseCopy s with
    | none => restartFail s p (copyReason s.variant s.serial s.baseMac s.cfg.flash0)
    | some n =>
      let img := copyImage s n
      let sect := (partSections img).find? fun q => q.1 == p
      let s := s.modPart p fun q => { q with present := sect.isSome }
      let checked := match sect with
        | none => Except.ok none
        | some q => match sectionCheck s p q.2 with
          | .error e => Except.error e
          | .ok c => Except.ok (if c.enable then some c else none)
      match checked with
      | .error e => restartFail s p e
      | .ok new =>
        if restartInUse s p new then restartFail s p 0x0145
        else if (s.part p).state == .disabled then restartApply s p new (imageGen img)
        else (resetStart s p 3).modPart p fun q => { q with newCfg := new, newGen := imageGen img, restarting := true }

/-! ### OWNERS_RELOAD (R418) -/

/-- An owner that a partition or a Reservoir model names. -/
def ownerNamed (s : State) (o : Nat) : Bool :=
  (s.parts.any fun q => (q.2.cfg.map PartCfg.owner) == some o) ||
    s.reservoirs.any fun r => r.2.models.any fun m => (m.2.map ResModel.owner) == some o

/-- Owners carry their last SEQ on, unless their key has changed (R473). -/
def carryOwner (old : List Owner) (o : Owner) : Owner :=
  match old.find? fun x => x.id == o.id with
  | some x => if x.key = o.key then { o with lastSeq := x.lastSeq, outSeq := x.outSeq } else { o with outSeq := x.outSeq }
  | none => o

/-- OWNERS_RELOAD (R418). -/
def ownersBegin (s : State) (r : Option Reply) : State :=
  if cfgBusy s then cfgRefuse s r 2 0x0150
  else match chooseCopy s with
    | none => cfgRefuse s r 2 (copyReason s.variant s.serial s.baseMac s.cfg.flash0)
    | some n =>
      match parseOwners (sectOf (copyImage s n) 2) with
      | none => cfgRefuse s r 2 0x0136
      | some os =>
        if s.cfg.owners.any fun o => !(os.any fun x => x.id == o.id) && ownerNamed s o.id then cfgRefuse s r 2 0x0136
        else
          let answer := cfgRefuse s r 2 0
          { answer with cfg := { answer.cfg with owners := os.map (carryOwner answer.cfg.owners) } }

/-! ### CFG_WRITE (R400) -/

/-- A CFG_WRITE begins, or the reason why it does not: the image is checked under R403 before anything is erased; copy 1 is written
first. -/
def writeBegin (s : State) (image : List Byte) : State × Nat :=
  let e := copyReason s.variant s.serial s.baseMac image
  if cfgBusy s then (s, 0x0150)
  else if e != 0 then (s, e)
  else ({ s with cfg := { s.cfg with write := some { image := image } } }, 0)

/-- A copy has been written and read back (R400): copy 1 first, then copy 0. A copy that reads back wrong ends the write. -/
def writeStep (s : State) (readback : List Byte) : State :=
  match s.cfg.write with
  | none => s
  | some w =>
    let ok := copyReason s.variant s.serial s.baseMac readback == 0
    if !w.first then
      { s with cfg := { s.cfg with flash1 := readback, write := if ok then some { w with first := true } else none } }
    else { s with cfg := { s.cfg with flash0 := readback, write := none } }

/-- Data of a CFG_WRITE arrives in offset order (R474, R533): the received length, or 0x0163 where the offset lies above it. Data
of another source starts anew at offset 0. -/
def writeData (s : State) (src : Requester) (off : Nat) (bytes : List Byte) : State × Option Nat :=
  let mine := s.cfg.writeSrc == some src
  let buf := if mine then s.cfg.writeBuf else []
  if buf.length < off then (s, none)
  else if off < buf.length then (s, some buf.length)
  else
    let buf := buf ++ bytes
    ({ s with cfg := { s.cfg with writeBuf := buf, writeSrc := some src } }, some buf.length)

/-- FINAL: the received image is taken and the CFG_WRITE begins. -/
def writeFinal (s : State) : State × Nat :=
  let img := s.cfg.writeBuf
  writeBegin { s with cfg := { s.cfg with writeBuf := [], writeSrc := none } } img

/-! ### Where a command comes from (R416, R474, R533) -/

/-- IOD0 or IOD3 is the active MC. -/
def mcActive (s : State) (iod : Nat) : Bool := iod == 3 * b2n s.cfg.active3

/-- A register write of this requester reaches the MC: Flesha, or the sideband of the active MC (R425, R533). -/
def mcReach (s : State) (r : Requester) : Bool :=
  s.cfg.started && (match r with
    | .sideband iod => mcActive s iod
    | .flesha _ => true
    | .host _ => false)

/-- Opcodes of R474. -/
def knownOpcode (o : Nat) : Bool :=
  [0x0001, 0x0002, 0x0003, 0x0010, 0x0011, 0x0020, 0x0021, 0x0030, 0x0031, 0x0040, 0x0041, 0x0050].contains o

/-- A Flesha COMMAND datagram of an opcode, as it arrives: accepted, with where its RESPONSE goes. An unknown opcode receives 0x0160; a
command of another opcode is not for this row. -/
def fleshaIn (s : State) (port addr udp op : Nat) (msg : List Byte) : State × Option (FlCmd × Reply) :=
  let o := leAt msg 24 2
  if !fleshaServed s port || (o != op && knownOpcode o) then (s, none)
  else match fleshaAccept s port addr msg with
    | (s, none) => (s, none)
    | (s, some c) =>
      let r := replyOf c port addr udp
      if o = op then (s, some (c, r)) else (fleshaReply s r 0x0160 [], none)

/-- A configuration command (R416) over a register or over Flesha (opcode 0x0020, whose body is a CFG_CMD word): `f` runs it where
the source has the authority that `reach` asks of it. -/
def cfgSource (s : State) (src : CmdSrc) (action : Nat) (p : Option Nat) (reach : State → Requester → Bool)
    (f : State → Option Reply → State) : State :=
  match src with
  | .reg r => if mcReach s r && reach s r then f s none else s
  | .flesha port addr udp msg =>
    let body := slice msg 32 (leAt msg 28 2)
    let w := leNat body
    let bad := body.length != 4 || fld w 0 4 == 0 || decide (3 < fld w 0 4) || w != fld w 0 4 + 256 * fld w 8 6
    let mine := fld w 0 4 == action && (match p with | some q => fld w 8 6 == q | none => true)
    if leAt msg 24 2 == 0x0020 && !bad && !mine then s
    else match fleshaIn s port addr udp 0x0020 msg with
      | (s, none) => s
      | (s, some (c, r)) =>
        if bad then fleshaReply s r 0x0160 []
        else if reach s (.flesha c.owner) then f s (some r) else fleshaReply s r 0x0207 []

end Sys2Proof.Machine
end

