-- ==== Sys2Proof/Machine/Recovery.lean ====
section
/-! DEFINITION. Partition resets and fences, retirement, relocation, notices, the watchdog, the trouble test and MC failover (R427 to
R446, R461, R465). -/

namespace Sys2Proof.Machine

/-! ### Resets and fences -/

/-- PART_RESET_START (R430): a reset begins from one of the causes 1 to 7, or joins the one that runs (R432). -/
def execPartResetStart (p cause now : Nat) (s : State) : Out :=
  guarded (instrWellFormed (.partResetStart p cause now))
    (let s := s.setNow now
     if 1 ≤ cause ∧ cause ≤ 7 then resetStart s p cause else s)

/-- Where a reset leads (R417, R430 step 7, R441): a new section, a DISABLED partition, or a running one. -/
def afterReset (s : State) (p us : Nat) : State :=
  let q := s.part p
  let s := s.modPart p fun q => { q with disableAs := none, restarting := false, newCfg := none, newGen := 0, moved := 0 }
  match q.disableAs with
  | some r => disablePart s p r
  | none =>
    if q.restarting then restartApply s p q.newCfg q.newGen
    else
      let s := rulesOn (partRuns s p) p
      if q.moved = 0 then s else report s 0xF0 0x06 evRelocated (some p) [(1, p), (4, q.moved), (4, us)]

/-- PART_RESET_FINISH (R430 steps 4 to 7): every RESET notice is acknowledged and no relocation of the partition runs. -/
def execPartResetFinish (p : Nat) (failedTarns : List (Nat × Nat)) (us now : Nat) (s : State) : Out :=
  guarded (instrWellFormed (.partResetFinish p failedTarns us now))
    (let s := s.setNow now
     if !(s.part p).resetting || noticePending s .reset p || relocRuns s p then s
     else
       let s := failedTarns.foldl (fun s q => scanFail s p q.1 q.2) (zeroisePart s p)
       afterReset (resetEnd s p us) p us)

/-- PT_RESET (R444): PT_CMD action 1 on the selected partition, cause 5. -/
def execPtReset (req : Requester) (now : Nat) (s : State) : Out :=
  guarded (instrWellFormed (.ptReset req now))
    (let s := s.setNow now
     if partReach s req s.ptSel then resetStart s s.ptSel 5 else s)

/-- PT_FENCE (R426, R444): PT_CMD action 2. -/
def execPtFence (req : Requester) (now : Nat) (s : State) : Out :=
  guarded (instrWellFormed (.ptFence req now))
    (let s := s.setNow now
     if partReach s req s.ptSel then fencePart s s.ptSel else s)

/-! ### Notices (R435) -/

/-- A die's part in a notice is done. -/
def ackNotice (s : State) (n : Notice) (die : Nat) : State :=
  let s := match n.kind, n.part with
    | .reset, some p => abandonDie s p die
    | _, _ => s
  let w := n.wait.filter (· != die)
  let rest := s.fm.notices.filter fun m => m.id != n.id
  let shorter := s.fm.notices.map fun m => if m.id == n.id then { m with wait := w } else m
  { s with fm := { s.fm with notices := if w.isEmpty then rest else shorter } }

/-- NOTICE_ACK (R435): a die acknowledges; for a RESET notice it has abandoned what the partition ran on it (R430 step 3). -/
def execNoticeAck (notice die now : Nat) (s : State) : Out :=
  guarded (instrWellFormed (.noticeAck notice die now))
    (let s := s.setNow now
     match s.fm.notices.find? fun n => n.id == notice && n.wait.contains die with
     | some n => ackNotice s n die
     | none => s)

/-- NOTICE_ACK_TIMEOUT (R435): a die that has not acknowledged within 2 ms is retired dark with reason 4, and the notice is finished
for it. -/
def execNoticeAckTimeout (notice die now : Nat) (s : State) : Out :=
  guarded (instrWellFormed (.noticeAckTimeout notice die now))
    (let s := s.setNow now
     match s.fm.notices.find? fun n => n.id == notice && n.wait.contains die with
     | some n => if s.now < n.sent + 2000000 then s else retireDie (ackNotice s n die) die true 4
     | none => s)

/-! ### Retirement (R436, R437, R441, R465) -/

/-- A die may be retired: fitted and not retired already (R446: 0x0401 otherwise). -/
def retirable (s : State) (die : Nat) : Bool := adFitted s.variant die && !retired s die

/-- Some partition is DISABLED with 0x0402 (R438) and was not before. -/
def newlyCut (s t : State) : Bool := t.parts.any fun q => (t.part q.1).reason == 0x0402 && (t.part q.1).state == .disabled && (s.part q.1).state != .disabled

/-- FM_CMD on a die (R437, R445); where it cuts a partition off, the result says so (R438, R446; log entry 215). -/
def fmDie (s : State) (die : Nat) (dark : Bool) : State :=
  if !retirable s die then fmResult s 0x0401
  else
    let t := retireDie (fmResult s 0) die dark 5
    if newlyCut s t then fmResult t 0x0402 else t

/-- FM_CMD on a channel (R441, R445). -/
def fmChannel (s : State) (stack ch : Nat) : State :=
  if stackFitted s.variant stack && !(s.stack stack).retired.contains (ch / 2) && decide (ch < 16) then retirePair (fmResult s 0) stack (ch / 2)
  else fmResult s 0x0401

/-- FM_COMPUTE_RETIRE (R437): compute retirement when the transit path passes its checks, dark otherwise. -/
def execFmComputeRetire (req : Requester) (die : Nat) (transitOk : Bool) (now : Nat) (s : State) : Out :=
  guarded (instrWellFormed (.fmComputeRetire req die transitOk now))
    (let s := s.setNow now
     if operatorReach s req then fmDie s die !transitOk else s)

/-- FM_DARK_RETIRE (R437). -/
def execFmDarkRetire (req : Requester) (die now : Nat) (s : State) : Out :=
  guarded (instrWellFormed (.fmDarkRetire req die now))
    (let s := s.setNow now
     if operatorReach s req then fmDie s die true else s)

/-- FM_RETIRE_CHANNEL (R441). -/
def execFmRetireChannel (req : Requester) (stack ch now : Nat) (s : State) : Out :=
  guarded (instrWellFormed (.fmRetireChannel req stack ch now))
    (let s := s.setNow now
     if operatorReach s req then fmChannel s stack ch else s)

/-- The threshold of a retirement reason has been reached (R436, R455, R465): permanent faults or four fenced engines, SHORT tiles, or every link of the die down. -/
def retireDue (s : State) (die reason : Nat) : Bool :=
  let d := s.die die
  match reason with
  | 1 => (s.log.thrDiePerm != 0 && decide (s.log.thrDiePerm ≤ d.permFaults)) || (List.range 4).all fun e => (tget {} d.ae e).fenced
  | 2 => s.log.thrDieShort != 0 && decide (s.log.thrDieShort ≤ d.shortTiles)
  | 4 => (List.range 4).all fun q => (twNeighbour s.variant die q).isNone || !(tget {} d.tw q).up
  | _ => false

/-- DIE_RETIRE (R436, R437): a die passes a threshold, or its links have failed. -/
def execDieRetire (die reason : Nat) (transitOk : Bool) (now : Nat) (s : State) : Out :=
  guarded (instrWellFormed (.dieRetire die reason transitOk now))
    (let s := s.setNow now
     if retirable s die && retireDue s die reason then retireDie s die (reason == 4 || !transitOk) reason else s)

/-- CHANNEL_RETIRE (R441, R465): a channel has reached THR_CH_UE or THR_CH_CE in the rolling 24 hours. -/
def execChannelRetire (stack ch now : Nat) (s : State) : Out :=
  guarded (instrWellFormed (.channelRetire stack ch now))
    (let s := s.setNow now
     let c := chanOf s stack ch
     let h := hourOf s.now
     let isOver := fun thr n => thr != 0 && decide (thr ≤ n)
     if stackFitted s.variant stack && (isOver s.log.thrChUe (last24 h c.ue24) || isOver s.log.thrChCe (last24 h c.ce24)) then
       retirePair s stack (ch / 2)
     else s)

/-! ### Relocation (R439, R440) -/

/-- RELOCATION (R439 steps 2 to 5): the lowest-numbered partition of the queue, once its reset has passed step 3. A partition that is not
in a reset begins one, and one with nothing to move leaves the queue. -/
def execRelocation (p now : Nat) (s : State) : Out :=
  guarded (instrWellFormed (.relocation p now))
    (let s := s.setNow now
     if s.fm.relocQueue.min? != some p then s
     else if (s.part p).state == .disabled then { s with fm := { s.fm with relocQueue := s.fm.relocQueue.filter (· != p) } }
     else if !(s.part p).resetting then startReloc s p
     else if noticePending s .reset p then s
     else relocatePart s p)

/-- RELOCATION_RETRY (R440): reserve capacity has changed since the last try, and some lost tile of a blocked partition now has room. -/
def execRelocationRetry (p now : Nat) (s : State) : Out :=
  guarded (instrWellFormed (.relocationRetry p now))
    (let s := s.setNow now
     if !s.fm.retry || (s.part p).blocked.isEmpty || (s.part p).resetting then s
     else
       let s := { s with fm := { s.fm with retry := false } }
       let ks := affectedSlots s p
       let lost := (lostTiles s p).filter fun t => (s.part p).blocked.any fun k => slotNeeds s p k t
       let fits := if lost.isEmpty then
           (s.part p).blocked.any fun k => match (s.slot p k).plain with
             | some x => shadowFits s p k x && (chooseLevel s p x).isSome
             | none => false
         else lost.any fun t => (reserveFor s p t ks).isSome
       if fits then startReloc s p else s)

/-! ### The watchdog (R427, R428) -/

/-- One partition's watchdog: a pass has been open, with no progress, for IDLE_MS; at TIMEOUT_MS it fires. -/
def watchPart (s : State) (p : Nat) : State :=
  let q := s.part p
  if q.state != .running then s
  else if q.progress != q.progressSeen then s.modPart p fun q => { q with progressSeen := q.progress, idleBase := s.now, idleMs := 0 }
  else match (q.passes.map Pass.opened).min? with
    | none => s.modPart p fun q => { q with idleBase := s.now, idleMs := 0 }
    | some o =>
      let ms := (s.now - Nat.max q.idleBase o) / 1000000
      let s := s.modPart p fun q => { q with idleMs := Nat.min ms 65535 }
      if q.wdgMs = 0 ∨ ms < q.wdgMs then s
      else
        let s := s.modPart p fun q => { q with fires := Nat.min (q.fires + 1) 65535, idleBase := s.now }
        let s := report s 0xF0 0x01 evPartitionHang (some p) [(1, p), (4, q.passes.length), (4, seqStatus (s.tile (leadTile s p)))]
        if q.wdgReset then resetStart s p 4 else fencePart s p

/-- WATCHDOG_TICK (R427): every 1 ms. -/
def execWatchdogTick (now : Nat) (s : State) : Out :=
  guarded (instrWellFormed (.watchdogTick now))
    (let s := s.setNow now
     if s.cfg.started then (s.parts.map Prod.fst).foldl watchPart s else s)

/-! ### The trouble test (R436) -/

/-- Array dies that hold Tarn work of a partition. -/
def tarnDies (s : State) (p : Nat) : List Nat :=
  (((s.part p).slots.map fun k => k.2.placed.map fun h => tileDie h.tile).flatten).eraseDups

/-- Gain in FM_DIE_TROUBLE since DEGRADED was set. -/
def troubleGain (s : State) (p d : Nat) : Nat := (s.die d).trouble.toNat - tget 0 (s.part p).troubleBase d

/-- The die with the largest gain, the lowest-numbered of equals; a die that is retired already is skipped (R443, log entry 225). -/
def worstDie (s : State) (p : Nat) (ds : List Nat) : Option Nat :=
  (ds.filter (retirable s)).foldl (fun b d => match b with
    | none => some d
    | some x => if troubleGain s p x < troubleGain s p d || (troubleGain s p x == troubleGain s p d && decide (d < x)) then some d else b) none

/-- TROUBLE_TEST (R436): retires the die with the largest gain, when that is at least TROUBLE and RATIO times the mean. Whether its transit
path passes its checks (R437) is not in the command: a free value decides it (log entry 165). -/
def execTroubleTest (p now : Nat) (s : State) : Out :=
  guarded (instrWellFormed (.troubleTest p now))
    (let s := s.setNow now
     let ds := tarnDies s p
     let total := (ds.map (troubleGain s p)).sum
     match worstDie s p ds with
     | some d =>
       let g := troubleGain s p d
       if (s.part p).degraded && s.fm.troubleThr != 0 && decide (s.fm.troubleThr ≤ g) && decide (s.fm.ratio * total ≤ g * ds.length) &&
           retirable s d then
         let w := freeWord s
         retireDie w.1 d (!bitOf w.2 0) 3
       else s
     | none => s)

/-! ### Heartbeat and failover (R442, R471) -/

/-- MC_HEARTBEAT (R442, R471): the standby has the module time, the tables and the log up to now. -/
def execMcHeartbeat (now : Nat) (s : State) : Out :=
  guarded (instrWellFormed (.mcHeartbeat now))
    (let s := s.setNow now
     if s.cfg.started && s.cfg.standbyReady then
       { s with fm := { s.fm with lastHeart := s.now, heartMiss := 0, standbyLogAt := s.log.head } }
     else s)

/-- A closed Weir is handled as at a reset (R354): the swap runs again from step 2. -/
def failoverSwap (s : State) (p k : Nat) : State :=
  match (s.slot p k).weir with
  | some w => if w.step == WeirStep.programming then
      (s.modSlot p k fun q => { q with weir := some { w with step := .draining } }) else s
  | none => s

/-- The standby takes over (R442): INSTALLs end (R355), swaps rerun (R354), the log has a gap (R471), and a second failover is not possible. -/
def failover (s : State) : State :=
  if !s.cfg.standbyReady then s
  else
    let s := { s with
      cfg := { s.cfg with active3 := !s.cfg.active3, standbyReady := false }
      fm := { s.fm with failovers := satAdd s.fm.failovers 1, heartMiss := 0 } }
    let jobs := (s.engines.map fun e => e.2.jobs.filter fun j => j.kind == .install).flatten
    let s := jobs.foldl (fun s j => let r := openReason s; failInstall r.1 j r.2) s
    let s := s.parts.foldl (fun s q => (usedSlots s q.1).foldl (fun s k => failoverSwap s q.1 k) s) s
    let gap : EvRec := { cls := evLogOverflow, kind := 2, die := 0xF0, block := 0x03, count := 0, first := s.fm.lastHeart, last := s.now,
                         payload := pay [(8, s.fm.lastHeart), (4, 0), (4, 0)] }
    let at_ := s.fm.standbyLogAt
    let s := { s with log := { s.log with
      recs := (s.log.recs.filter fun q => decide (q.1 < at_)) ++ [(at_, gap)], head := at_ + 1, ovf := satAdd s.log.ovf 1
      subs := s.log.subs.map fun b => { b with nextSeq := Nat.min b.nextSeq at_ }, anonNext := Nat.min s.log.anonNext at_ } }
    report s 0xF0 0x06 evMcFailover none [(1, if s.cfg.active3 then 1 else 0), (4, (s.now - s.fm.lastHeart) / 1000000)]

/-- HEARTBEAT_MISS (R442): the second missed heartbeat in a row. -/
def execHeartbeatMiss (now : Nat) (s : State) : Out :=
  guarded (instrWellFormed (.heartbeatMiss now))
    (let s := s.setNow now
     if !s.cfg.started || !s.cfg.standbyReady then s
     else if s.fm.heartMiss = 0 then { s with fm := { s.fm with heartMiss := 1 } }
     else failover s)

/-- MC_SELF_FAIL_REPORT (R442). -/
def execMcSelfFailReport (now : Nat) (s : State) : Out :=
  guarded (instrWellFormed (.mcSelfFailReport now))
    (let s := s.setNow now
     if s.cfg.started then failover s else s)

/-! ### Reservoir patrol (R461) -/

/-- RES_PATROL_READ (R461): a codeword with more than 24 corrected bits has its block rewritten; an uncorrectable one makes its slot
INVALID. -/
def execResPatrolRead (stack model slot corrected : Nat) (uncorrectable : Bool) (now : Nat) (s : State) : Out :=
  guarded (instrWellFormed (.resPatrolRead stack model slot corrected uncorrectable now))
    (let s := s.setNow now
     match modelAt s stack model with
     | none => s
     | some m =>
       let b := slot == 1
       let pay := [(1, stack), (4, m.imageId), (1, slot)]
       if (resSlotOf m b).extents.isEmpty then s
       else if uncorrectable then
         let s := modModel s stack model fun m => setResSlot m b fun x => { x with state := .invalid, record := none }
         report (s.modRes stack fun r => { r with uncorr := satAdd r.uncorr 1 }) (0x40 + stack) 0x21 evResDataLost none pay
       else
         let s := s.modRes stack fun r => { r with corrected := wrapAdd r.corrected corrected }
         if corrected ≤ 24 then s
         else report (s.modRes stack fun r => { r with refreshed := satAdd r.refreshed 1 }) (0x40 + stack) 0x21 evResRefresh none pay)

end Sys2Proof.Machine
end

