-- ==== Sys2Proof/Machine/Start.lean ====
section
/-! DEFINITION. Module start and configuration commands (R400, R410 to R420). -/

namespace Sys2Proof.Machine

/-- MODULE_START (R412): after power-good, unless the module is in test mode (R542). -/
def execModuleStart (iod0SelfTest iod3SelfTest : Bool) (s : State) : Out :=
  guarded (instrWellFormed (.moduleStart iod0SelfTest iod3SelfTest))
    (if !s.power.pwrgd || s.power.testMode || s.cfg.started then s
     else startFrom { s with time := {} } iod0SelfTest iod3SelfTest s.time.heldTod)

/-- The alert pin is released (R532). -/
def alertOff (s : State) : State := { s with power := { s.power with thermAlert := false } }

/-- MODULE_RESTART (R416): it answers, then everything outside the Reservoir and the flash is lost, and the start runs again. -/
def restartModule (s : State) (r : Option Reply) : State :=
  if cfgBusy s then cfgRefuse s r 3 0x0150
  else
    let s := match r with | some q => fleshaReply s q 0 [] | none => s
    startFrom (alertOff (bareState s)) s.cfg.test0 s.cfg.test3 none

/-- MODULE_RESTART (R416): steps 2 to 11 of R412; host links are lost with everything else outside the Reservoir. -/
def execModuleRestart (src : CmdSrc) (now : Nat) (s : State) : Out :=
  guarded (instrWellFormed (.moduleRestart src now))
    (cfgSource (s.setNow now) src 3 none operatorReach restartModule)

/-- PART_RESTART (R416, R417): steps 1 and 2, and the reset of step 3. -/
def execPartRestart (src : CmdSrc) (p now : Nat) (s : State) : Out :=
  guarded (instrWellFormed (.partRestart src p now))
    (cfgSource (s.setNow now) src 1 (some p) (fun s r => partReach s r p) fun s r => restartBegin s p r)

/-- OWNERS_RELOAD (R416, R418). -/
def execOwnersReload (src : CmdSrc) (now : Nat) (s : State) : Out :=
  guarded (instrWellFormed (.ownersReload src now))
    (cfgSource (s.setNow now) src 2 none operatorReach fun s r => ownersBegin s r)

/-- CFG_WRITE (R400): a whole image that has been received is checked, and its writing begins. -/
def execCfgWrite (req : Requester) (image : List Byte) (now : Nat) (s : State) : Out :=
  guarded (instrWellFormed (.cfgWrite req image now))
    (let s := s.setNow now
     if mcReach s req && operatorReach s req then (writeBegin s image).1 else s)

/-- CFG_FLASH_WRITE_DONE (R400): a copy has been written and read back. -/
def execCfgFlashWriteDone (readback : List Byte) (now : Nat) (s : State) : Out :=
  guarded (instrWellFormed (.cfgFlashWriteDone readback now)) (writeStep (s.setNow now) readback)

end Sys2Proof.Machine
end

