-- ==== Sys2Proof/Machine/OpsRegs.lean ====
section
/-! DEFINITION. Register values (R13 to R16, R26 to R28 and the register tables of the chapters): what a read of a register in
management space, in a partition's status window or in BAR0 shows. -/

namespace Sys2Proof.Machine

/-! ### Words and fields -/

/-- A register of fields (lowest bit, width, value); each value is cut to its field. -/
def pack (fs : List (Nat × Nat × Nat)) : Nat := (fs.map fun f => f.2.2 % 2 ^ f.2.1 * 2 ^ f.1).sum

/-- The low or high word of a 64-bit value. -/
def word (hi : Bool) (n : Nat) : Nat := if hi then n / 2 ^ 32 % 2 ^ 32 else n % 2 ^ 32

/-- A signed value in `w` bits. -/
def twos (w : Nat) (i : Int) : Nat := (i % (2 ^ w : Int)).toNat

/-- A count in a field of `w` bits that saturates (R15). -/
def cap (w n : Nat) : Nat := Nat.min n (2 ^ w - 1)

/-! ### Registers of a die -/

/-- Block 0x00 (R7, R26, R90): the calibration record, which reads 0 on an I/O die, and the stepping. -/
def identRead (x : Die) (d off : Nat) : Nat :=
  let cal := fun n => if d < 0x40 then n else 0
  match off with
  | 0x0020 => cal (x.calCount % 256)
  | 0x0024 => cal (word false x.calTime)
  | 0x0028 => cal (word true x.calTime)
  | _ => if off = Config.steppingOffset then x.stepping % 2 ^ 32 else 0

/-- Block 0x2C of IOD0 and IOD3 (R27): the public part of the installation key, and nothing of the private one (R7). -/
def fuseRead (s : State) (off : Nat) : Nat :=
  if off < Config.keyOffset then 0 else leAt s.keyPublic (off - Config.keyOffset) 4

/-- Block 0x01 (R507). -/
def hkRead (s : State) (d off : Nat) : Nat :=
  let h := hkOf s d
  if 0x10 ≤ off ∧ off < 0x50 then
    let e := seqEntry s d ((off - 0x10) / 4)
    pack [(0, 5, e.input), (8, 2, e.conv), (12, 1, b2n e.step), (13, 1, b2n e.enable)]
  else if 0x80 ≤ off ∧ off < 0xC0 then
    let r := tget {} h.res ((off - 0x80) / 4)
    pack [(0, 12, r.code), (15, 1, b2n r.valid), (16, 8, r.sweep), (24, 1, b2n r.spring)]
  else match off with
    | 0x0000 => pack [(0, 1, b2n h.lowPower), (1, 1, b2n h.userOnSpring)]
    | 0x0004 => pack [(0, 1, b2n h.sweep.isSome), (1, 1, b2n h.refOn), (2, 1, b2n h.trip), (3, 1, b2n h.selfTimed), (8, 8, h.sweepSeq)]
    | 0x00C0 => pack [(0, 16, twos 16 h.raw), (16, 16, twos 16 h.ctl)]
    | 0x00C4 => pack [(0, 1, b2n h.suspect), (1, 1, b2n h.noNeighbour), (2, 2, h.devRun), (16, 9, h.okRun)]
    | 0x00C8 => pack [(0, 6, h.vset)]
    | 0x00CC => pack [(0, 16, cap 16 h.power)]
    | 0x00D0 => pack [(0, 10, h.ideal)]
    | 0x00D4 => h.throttleCnt.toNat
    | 0x00D8 => h.tripCnt.toNat
    | _ => 0

/-- Block 0x02 (R540): LN_SEL and LN_IDX of ten lines. -/
def lnRead (x : Die) (off : Nat) : Nat :=
  if 80 ≤ off then 0
  else
    let l := tget {} x.ln (off / 8)
    if off % 8 = 0 then pack [(0, 3, l.kind), (8, 5, l.tile)]
    else pack [(0, 9, l.tarn), (9, 2, l.bank), (11, 9, l.column), (20, 4, l.rg)]

/-- Block 0x03 (R479). On an I/O die the tile, Tarn, Basin and scratchpad fields never count. -/
def evRead (s : State) (d off : Nat) : Nat :=
  let x := s.die d
  match off with
  | 0x0000 => pack [(0, 7, x.ev.fifo.length), (8, 1, b2n x.ev.coalescing), (16, 6, x.ev.table.length)]
  | 0x0004 => x.ev.lostIvl.toNat
  | 0x0008 => pack [(0, 16, x.ev.classSel)]
  | 0x000C => tget 0 x.ev.classCnt x.ev.classSel % 2 ^ 32
  | 0x0010 => x.residTrans.toNat
  | 0x0014 => x.residPerm.toNat
  | 0x0018 => pack [(0, 16, cap 16 x.permFaults)]
  | 0x001C =>
    let ces := if d < 40 then ((List.range 32).filter fun t => (s.tile (32 * d + t)).ceSpareUsed).length else 0
    pack [(0, 6, ces), (8, 8, (x.ae.map fun a => a.2.sparesUsed).sum),
      (16, 4, (x.ae.map fun a => if a.2.fenced then 2 ^ a.1 else 0).sum), (24, 6, cap 6 x.shortTiles)]
  | 0x0020 => x.spadPar.toNat
  | 0x0024 => x.spadMapout.toNat
  | 0x0028 => x.basinCe.toNat
  | 0x002C => x.basinUe.toNat
  | 0x0030 => x.basinMapout.toNat
  | 0x0034 => word false x.scrubRows.toNat
  | 0x0038 => word true x.scrubRows.toNat
  | 0x003C => x.rowFix.toNat
  | 0x0040 => x.chanPar.toNat
  | _ => 0

/-- Block 0x04 (R210): four ports on an array die, two on an I/O die with IOD_STALE_CNT at 0x0020 (R446). -/
def twRead (s : State) (d off : Nat) : Nat :=
  let port := off / 0x40
  if 0x40 ≤ d ∧ off = 0x0020 then (s.die d).iodStale.toNat
  else if (if d < 40 then 4 else 2) ≤ port then 0
  else
    let x := tget {} (s.die d).tw port
    let here := (twNeighbour s.variant d port).isSome
    match off % 0x40 with
    | 0x00 => if here then pack [(0, 2, if x.up then 1 else 2), (4, 4, x.stripes)] else 0
    | 0x04 => word false x.tx.toNat
    | 0x08 => word true x.tx.toNat
    | 0x0C => word false x.rx.toNat
    | 0x10 => word true x.rx.toNat
    | 0x14 => x.parity.toNat
    | 0x18 => x.stale.toNat
    | 0x1C => x.lost.toNat
    | _ => 0

/-- Block 0x05 (R480) of the die that holds the DRAM port of stack `k`. -/
def dramRead (s : State) (k off : Nat) : Nat :=
  let x := s.stack k
  let c := tget {} x.chans x.chSel
  match off with
  | 0x0000 => pack [(0, 4, x.chSel)]
  | 0x0004 => c.ce.toNat
  | 0x0008 => c.ue.toNat
  | 0x000C => cap 32 (last24 (hourOf s.now) c.ce24)
  | 0x0010 => pack [(0, 16, cap 16 (last24 (hourOf s.now) c.ue24))]
  | 0x0014 => c.pass.toNat
  | 0x0018 => pack [(0, 25, c.pos)]
  | 0x001C => cap 32 c.poison.length
  | _ => 0

/-- Blocks 0x08 to 0x0B (R251). -/
def aeRead (a : Ae) (off : Nat) : Nat :=
  match off with
  | 0x0000 => pack [(0, 3, a.walks.length), (8, 1, b2n !a.waiting.isEmpty)]
  | 0x0004 => a.walkCnt.toNat
  | 0x0008 => word false a.posCnt.toNat
  | 0x000C => word true a.posCnt.toNat
  | 0x0010 => a.candCnt.toNat
  | 0x0014 => a.sumStored.toNat
  | 0x0018 => a.sumFly.toNat
  | 0x001C => word false a.readBytes.toNat
  | 0x0020 => word true a.readBytes.toNat
  | 0x0024 => a.poisonCnt.toNat
  | 0x0028 => a.limitCnt.toNat
  | _ => 0

/-! ### Registers of a tile that belong to the module domain (R96, R97, R142, R176, R208) -/

/-- A column map or spare map entry in the low or high half of its word: number, VALID, FACTORY. -/
def mapEntry (w : Nat) (e : Option (Nat × Bool)) : Nat :=
  match e with
  | some (n, fac) => pack [(0, w, n), (w, 1, 1), (w + 1, 1, b2n fac)]
  | none => 0

/-- The statistics and Tarn registers (R96, R97). An entry whose spare failed in its turn stays filled and goes on counting (log entry 190). -/
def tarnRead (x : Tile) (off : Nat) : Nat :=
  let colEnt := fun (m : Tab ColEntry) k => (m.find? fun q => q.1 == k).map fun q => (q.2.col, q.2.factory)
  let spEnt := fun k => (x.spMap.find? fun q => q.1 == k).map fun q => (q.2.tarn, q.2.factory)
  if 0x0458 ≤ off ∧ off ≤ 0x0464 then
    let e := (off - 0x0458) / 2
    let m := (tarnOf x (shownTarn x x.mapSel)).colMap
    mapEntry 8 (colEnt m e) + mapEntry 8 (colEnt m (e + 1)) * 65536
  else if 0x0470 ≤ off ∧ off ≤ 0x048C then
    let k := (off - 0x0470) / 2
    mapEntry 9 (spEnt k) + mapEntry 9 (spEnt (k + 1)) * 65536
  else
    let w := x.view.win
    match off with
    | 0x0400 => pack [(0, 9, x.tstatTarn), (16, 9, x.tstatCol)]
    | 0x0404 => pack [(0, 5, x.windowLog2), (8, 1, b2n x.freeze)]
    | 0x0408 => pack [(0, 8, x.view.seq), (8, 1, b2n x.view.valid), (9, 1, b2n x.view.mapped), (10, 1, b2n x.view.frozen)]
    | 0x040C => pack [(0, 25, w.n)]
    | 0x0410 => pack [(0, 31, w.sum)]
    | 0x0414 => word false w.sumsq
    | 0x0418 => word true w.sumsq % 16
    | 0x041C => pack [(0, 6, w.min), (8, 6, w.max)]
    | 0x0420 => pack [(0, 16, cap 16 w.sat), (16, 16, cap 16 w.excess)]
    | 0x0440 => word false x.rounds.toNat
    | 0x0444 => word true x.rounds.toNat
    | 0x0448 => x.satCnt.toNat
    | 0x044C => x.excessCnt.toNat
    | 0x0450 =>
      let cols := ((x.tarns.filter fun q => decide (q.1 < 384)).map fun q => q.2.colMap.length).sum
      pack [(0, 5, x.spMap.length), (8, 1, b2n x.short), (16, 12, cols)]
    | 0x0454 => pack [(0, 9, x.mapSel)]
    | _ => 0

/-- The correction-path registers (R142). -/
def corrRead (x : Tile) (off : Nat) : Nat :=
  match off with
  | 0x0500 => pack [(0, 1, b2n x.driftFreeze)]
  | 0x0504 => pack [(0, 9, x.driftTarn), (10, 2, x.driftBank), (16, 9, x.driftCol)]
  | 0x0508 =>
    let T := tarnOf x (shownTarn x x.driftTarn)
    let c := tget {} T.coefs (convKey x.driftBank x.driftCol)
    pack [(0, 12, twos 12 c.g), (16, 12, twos 12 c.o), (28, 1, b2n c.atLimit), (29, 1, b2n T.seeded)]
  | 0x050C => x.driftUpdCnt.toNat
  | 0x0510 => x.driftLimitCnt.toNat
  | 0x0514 => word false x.dynOutlCnt.toNat
  | 0x0518 => word true x.dynOutlCnt.toNat
  | 0x051C => x.dynOvfCnt.toNat
  | 0x0520 => x.dynFbCnt.toNat
  | 0x0524 => x.dynRangeCnt.toNat
  | 0x0528 => x.satFbCnt.toNat
  | 0x052C => x.chkTakenCnt.toNat
  | 0x0530 => x.chkSkipCnt.toNat
  | 0x0534 => x.chkTroubleCnt.toNat
  | 0x0538 => pack [(0, 6, x.chkNdiff), (8, 8, cap 8 x.chkMaxdiff), (16, 8, x.chkLayer), (24, 4, x.chkMatrix)]
  | 0x053C => pack [(0, 3, x.checks.length), (8, 3, x.chkPeak)]
  | _ => 0

/-- The order code of the schedule that runs on a tile: that of its image (R163, R176); 0 while none runs. -/
def runningOrder (s : State) (x : Tile) : Nat :=
  match runningCtx x with
  | some k => ((k.part.bind fun p => planOf s p k.slot).map Plain.order).getD 0
  | none => 0

/-- The accumulation registers (R176). -/
def accRead (s : State) (x : Tile) (off : Nat) : Nat :=
  match off with
  | 0x0700 => pack [(0, 1, runningOrder s x), (1, 1, ((runningCtx x).map Ctx.place).getD 0), (2, 1, b2n x.combining), (3, 1, b2n x.switching),
      (8, 4, (x.ctxs.filter fun q => q.2.part.isSome).length)]
  | 0x0704 => pack [(0, 15, x.basinWords), (16, 15, 16384 - x.basinLost)]
  | 0x0708 => x.accRangeCnt.toNat
  | 0x070C => x.accStaleCnt.toNat
  | 0x0710 => x.accCombineCnt.toNat
  | 0x0714 => x.ctxSaveCnt.toNat
  | 0x0718 => x.ctxRestoreCnt.toNat
  | 0x071C => x.ctxFixCnt.toNat
  | 0x0720 => x.ctxPoisonCnt.toNat
  | _ => 0

/-- The sequencer, scratchpad and mesh registers (R208). Rows in service are those that no map-out has lost. -/
def seqRead (x : Tile) (off : Nat) : Nat :=
  let c := (runningCtx x).getD {}
  match off with
  | 0x0800 => seqStatus x
  | 0x0804 => pack [(0, 24, c.pc)]
  | 0x0808 => pack [(0, 6, x.arrSel)]
  | 0x080C => pack [(0, 16, tget 0 c.arr x.arrSel),
      (16, 16, match c.wait with | some w => if w.1 = x.arrSel then w.2 else 0 | none => 0)]
  | 0x0810 => pack [(0, 9, x.spareRows), (16, 1, b2n x.spadShort)]
  | 0x0814 => pack [(0, 17, 65536 - x.rowsLost.length)]
  | 0x0818 => x.schedFaultCnt.toNat
  | 0x081C => x.accessFaultCnt.toNat
  | 0x0820 => x.pullCnt.toNat
  | 0x0824 => x.pullMergeCnt.toNat
  | 0x0828 => x.arbCollideCnt.toNat
  | 0x082C => x.meshXpartCnt.toNat
  | _ => 0

/-! ### Registers of a partition in its lead tile (R143, R209, R252, R296, R297, R322, R357) -/

/-- Selectors and read-clear fields as management space sees them; a status window has its own (R392). -/
def ownView (q : Part) : WinCopy :=
  { layerSel := q.layerSel, imgSel := q.imgSel, missSel := q.cnt.missSel, almSel := q.serv.almSel, histKind := q.cnt.histKind
    histCls := q.cnt.histCls, hist := q.cnt.hist, peak := q.ing.peak }

/-- The image in a slot has a layer. -/
def hasLayer (x : ImgSlot) (l : Nat) : Bool := match x.plain with | some y => decide (l < y.layers.length) | none => false

/-- Check configuration and governor (R143), and per-image fault counts (R209). The layer counts are those of the image that IMG_SEL
selects: the spec names no slot (log entry 206); a layer that the image lacks reads 0. -/
def governRead (q : Part) (x : ImgSlot) (v : WinCopy) (off : Nat) : Nat :=
  match off with
  | 0x0600 => pack [(0, 4, q.serv.chkS), (8, 8, q.serv.chkT), (16, 5, q.serv.chkM)]
  | 0x0604 => q.lfsr.toNat
  | 0x0608 => pack [(0, 9, Nat.min q.run 256), (16, 1, b2n q.degraded), (17, 1, b2n q.allFbLast)]
  | 0x060C => word false q.fbgPasses.toNat
  | 0x0610 => word true q.fbgPasses.toNat
  | 0x0614 => q.fbgReplay.toNat
  | 0x0618 => q.fbgStepFb.toNat
  | 0x061C => q.fbgAllFb.toNat
  | 0x0620 => q.fbgDegraded.toNat
  | 0x0624 => pack [(0, 8, v.layerSel)]
  | 0x0628 => if hasLayer x v.layerSel then cap 32 (tget 0 x.layerFb v.layerSel) else 0
  | 0x062C => if hasLayer x v.layerSel then cap 32 (tget 0 x.layerReplay v.layerSel) else 0
  | 0x0630 => pack [(0, 4, v.imgSel)]
  | 0x0634 => if x.state == .empty then 0 else x.schedFault.toNat
  | _ => 0

/-- KV registers of the selected image slot (R252). -/
def kvRead (x : ImgSlot) (off : Nat) : Nat :=
  let k := x.pool
  match off with
  | 0x0640 => match x.plain.bind Plain.kv with
    | some v => pack [(0, 4, v.fmt), (4, 1, b2n (v.d == 128)), (5, 1, b2n v.sink), (6, 1, b2n v.feedback), (7, 1, b2n v.reclaim),
        (8, 1, b2n v.retrieve), (9, 7, v.p), (16, 5, v.w), (21, 1, b2n v.interleaved)]
    | none => 0
  | 0x0644 => pack [(0, 25, k.total - k.withdrawn.length)]
  | 0x0648 => pack [(0, 25, freeCount k)]
  | 0x064C => pack [(0, 25, k.lowMark)]
  | 0x0650 => k.allocWait.toNat
  | 0x0654 => k.reclaim.toNat
  | 0x0658 => k.specReturn.toNat
  | 0x065C => k.editCnt.toNat
  | 0x0660 => k.editBusy.toNat
  | 0x0664 => k.seqFull.toNat
  | 0x0668 => k.poisonPages.toNat
  | _ => 0

/-- Serving configuration (R296). -/
def servRead (s : State) (p : Nat) (v : WinCopy) (off : Nat) : Nat :=
  let q := s.part p
  let c := q.serv
  if 0x0690 ≤ off ∧ off ≤ 0x069C then tget 0 c.dlEvent ((off - 0x0690) / 4) % 2 ^ 32
  else if 0x06C0 ≤ off ∧ off ≤ 0x06CC then
    let e := tget (0, 0, 0) c.panels ((off - 0x06C0) / 4)
    pack [(0, 8, e.1), (8, 7, e.2.1), (16, 5, e.2.2)]
  else match off with
    | 0x0680 => pack [(0, 11, c.passLimit), (12, 1, b2n c.preempt), (13, 1, b2n c.confirm), (14, 1, b2n c.capture), (16, 3, c.confirmSlots)]
    | 0x0684 => pack [(0, 11, q.passes.length), (16, 4, confirmRunning q), (20, 11, q.backlog.length)]
    | 0x0688 => pack [(0, 18, 1024 * (blocksOf s p).length)]
    | 0x068C => pack [(0, 18, freeEntries s p)]
    | 0x06A0 => c.dlTtft % 2 ^ 32
    | 0x06A4 => c.dlTbt % 2 ^ 32
    | 0x06A8 => pack [(0, 4, c.depthMax), (4, 4, c.draftSlot)]
    | 0x06AC => pack [(0, 4, v.almSel)]
    | 0x06B0 => tget 0 c.thresh v.almSel % 2 ^ 32
    | 0x06B4 => pack [(0, 1, b2n c.ring), (1, 1, b2n c.feed), (2, 1, b2n c.narrFeed), (8, 4, c.port)]
    | 0x06B8 => pack [(0, 1, b2n c.narrEnable), (1, 1, b2n c.narrRef), (2, 2, c.narrCls), (4, 4, c.narrSlot), (8, 11, c.narrMax)]
    | 0x06BC => pack [(0, 3, c.nPanel)]
    | 0x06D0 => pack [(0, 8, c.captSlots), (8, 8, c.captMib)]
    | _ => 0

/-- Serving counters (R297) and ingest counters (R322). -/
def countRead (s : State) (p : Nat) (v : WinCopy) (off : Nat) : Nat :=
  let c := (s.part p).cnt
  let g := (s.part p).ing
  if 0x0954 ≤ off ∧ off ≤ 0x0990 then tget 0 v.hist (64 * v.histKind + 16 * v.histCls + (off - 0x0954) / 4) % 2 ^ 32
  else match off with
    | 0x0900 => pack [(0, 2, v.missSel)]
    | 0x0904 => tget 0 c.miss v.missSel % 2 ^ 32
    | 0x0908 => tget 0 c.miss (4 + v.missSel) % 2 ^ 32
    | 0x090C => tget 0 c.miss (8 + v.missSel) % 2 ^ 32
    | 0x0910 => c.drop.toNat
    | 0x0914 => c.tableFull.toNat
    | 0x0918 => c.cand.toNat
    | 0x091C => c.release.toNat
    | 0x0920 => c.suppress.toNat
    | 0x0924 => c.unresolved.toNat
    | 0x0928 => c.nan.toNat
    | 0x092C => c.txDrop.toNat
    | 0x0930 => c.verify.toNat
    | 0x0934 => c.proposed.toNat
    | 0x0938 => c.accept.toNat
    | 0x093C => c.cut.toNat
    | 0x0940 => c.noEntry.toNat
    | 0x0944 => c.narr.toNat
    | 0x0948 => c.narrSkip.toNat
    | 0x094C => c.captSkip.toNat
    | 0x0950 => pack [(0, 2, v.histKind), (4, 2, v.histCls)]
    | 0x0994 => c.staleDrop.toNat
    | 0x0A00 => g.events.toNat
    | 0x0A04 => g.overload.toNat
    | 0x0A08 => g.lostTokens.toNat
    | 0x0A0C => g.keyMiss.toNat
    | 0x0A10 => g.autoOpen.toNat
    | 0x0A14 => g.keyFull.toNat
    | 0x0A18 => g.trunc.toNat
    | 0x0A1C => g.gaps.toNat
    | 0x0A20 => pack [(0, 20, ingLevel s p)]
    | 0x0A24 => pack [(0, 20, v.peak)]
    | _ => 0

/-- IMG_STATUS.STATE (R357). -/
def slotCode : SlotState → Nat
  | .empty => 0
  | .loading => 1
  | .ready => 2
  | .weirClosed => 3
  | .partial_ => 4

/-- LINEAR layers that the level in force leaves on the slower tier (R331). -/
def tierLayers (s : State) (p k : Nat) : Nat :=
  match planOf s p k with
  | none => 0
  | some x =>
    let on := tarnLayers s p k
    ((List.range x.layers.length).filter fun l => ((x.layers[l]?).map Layer.typ) == some 0x04 && !on.contains l).length

/-- Image-slot registers (R357). -/
def imgRead (s : State) (p k : Nat) (x : ImgSlot) (off : Nat) : Nat :=
  match off with
  | 0x0B00 => pack [(0, 3, slotCode x.state), (3, 1, b2n ((x.weir.map Weir.staged).getD false)), (4, 3, x.level), (8, 9, tierLayers s p k),
      (17, 9, x.notResident.length)]
  | 0x0B04 => if x.state == .empty then 0 else x.imageId % 2 ^ 32
  | 0x0B08 => pack [(0, 16, if x.state == .empty then 0 else x.epoch), (16, 16, (x.weir.map Weir.epoch).getD 0)]
  | 0x0B0C => pack [(0, 16, x.lastReason), (16, 16, x.lastTag)]
  | 0x0B10 => x.swapCnt.toNat
  | 0x0B14 => x.staleCnt.toNat
  | 0x0B18 => x.pvMapCnt.toNat
  | 0x0B1C => x.pvTarnCnt.toNat
  | _ => 0

/-- A partition's registers at a lead-tile offset, under a set of selectors. -/
def leadRead (s : State) (p : Nat) (v : WinCopy) (off : Nat) : Nat :=
  let x := s.slot p v.imgSel
  if off < 0x0640 then governRead (s.part p) x v off
  else if off < 0x0680 then kvRead x off
  else if off < 0x0700 then servRead s p v off
  else if off < 0x0B00 then countRead s p v off
  else imgRead s p v.imgSel x off

/-- Offsets of a tile's block that belong to its partition's registers. -/
def leadOffset (off : Nat) : Bool :=
  (decide (0x0600 ≤ off) && decide (off < 0x0700)) || (decide (0x0900 ≤ off) && decide (off < 0x0C00))

/-- The partition whose lead tile a tile is (R143). -/
def leadOf (s : State) (t : Nat) : Option Nat := (s.parts.find? fun q => !q.2.tiles.isEmpty && leadTile s q.1 == t).map Prod.fst

/-- Block 0x20 + tile number of an array die. -/
def tileRead (s : State) (t off : Nat) : Nat :=
  let x := s.tile t
  if leadOffset off then
    (match leadOf s t with
    | some p => leadRead s p (ownView (s.part p)) off
    | none => 0)
  else if off < 0x0500 then tarnRead x off
  else if off < 0x0600 then corrRead x off
  else if off < 0x0800 then accRead s x off
  else seqRead x off

/-! ### Registers of an I/O die -/

/-- Blocks 0x18 and 0x19 (R320). -/
def portRead (q : FeedPort) (off : Nat) : Nat :=
  match off with
  | 0x0000 => pack [(0, 2, b2n q.up), (2, 1, b2n q.up), (3, 1, b2n q.up)]
  | 0x0004 => pack [(0, 14, q.cfg.mtu), (16, 1, b2n q.cfg.enable)]
  | 0x0008 => word false q.rxFrames.toNat
  | 0x000C => word true q.rxFrames.toNat
  | 0x0010 => word false q.rxBytes.toNat
  | 0x0014 => word true q.rxBytes.toNat
  | 0x0018 => q.fcsErr.toNat
  | 0x001C => q.lenErr.toNat
  | 0x0020 => q.pauseDrop.toNat
  | 0x0024 => q.l2Drop.toNat
  | 0x0028 => q.ipErr.toNat
  | 0x002C => q.fragDrop.toNat
  | 0x0030 => q.udpErr.toNat
  | 0x0034 => q.l4Drop.toNat
  | 0x0038 => q.addrDrop.toNat
  | 0x003C => q.noMatch.toNat
  | 0x0040 => q.fecCorr.toNat
  | 0x0044 => q.fecUncorr.toNat
  | 0x0048 => word false q.txFrames.toNat
  | 0x004C => word true q.txFrames.toNat
  | 0x0050 => q.txDrop.toNat
  | 0x0054 => q.txTrunc.toNat
  | 0x0058 => q.mcastTx.toNat
  | _ => 0

/-- Block 0x1D (R321). -/
def arbRead (x : FeedIod) (off : Nat) : Nat :=
  let c := tget {} x.channels x.arbSel
  match off with
  | 0x0000 => pack [(0, 8, x.arbSel)]
  | 0x0004 => pack [(0, 2, if !c.synced then 0 else if c.held.isEmpty then 1 else 2), (8, 6, c.held.length)]
  | 0x0008 => word false c.expect
  | 0x000C => word true c.expect
  | 0x0010 => c.dup.toNat
  | 0x0014 => c.gaps.toNat
  | 0x0018 => c.gapMsgs.toNat
  | 0x001C => c.late.toNat
  | 0x0020 => c.resync.toNat
  | 0x0024 => c.holdOvf.toNat
  | 0x002C => c.short.toNat
  | _ => 0

/-- ENG_STATUS.JOB (R358). -/
def jobCode : Option ImgOp → Nat
  | none => 0
  | some j => match j.kind with
    | .install => 1
    | .load | .swap => 2
    | .variantLoad | .relocation | .shadowRepair | .tarnReload => 3

/-- Block 0x20 of an I/O die (R358). -/
def engRead (e : ImgEngine) (off : Nat) : Nat :=
  match off with
  | 0x0000 => pack [(0, 2, jobCode e.jobs.head?), (8, 8, cap 8 (e.jobs.length - 1))]
  | 0x0004 => word false e.bytes.toNat
  | 0x0008 => word true e.bytes.toNat
  | 0x000C => e.authFail.toNat
  | 0x0010 => e.keyFail.toNat
  | _ => 0

/-- RES_SLOT.STATE (R333). -/
def resCode : ResState → Nat
  | .empty => 0
  | .writing => 1
  | .invalid => 2
  | .valid => 3
  | .active => 4

/-- Block 0x21 (R359, R482); `owner` is the owner whose key authenticated the access, none for the sideband. RES_SWEEP_AGE is read
apart. -/
def resRead (s : State) (n : Nat) (owner : Option Nat) (off : Nat) : Nat :=
  let r := s.res n
  let m := match (tget none r.models r.sel) with
    | some m => if owner.isNone || owner == some m.owner then some m else none
    | none => none
  match off with
  | 0x0000 => pack [(0, 1, b2n r.ready), (1, 1, b2n (resWritable s n)), (12, 12, 2048 - (extentsUsed s n).length)]
  | 0x0004 => pack [(0, 6, r.sel), (8, 1, b2n r.slotB)]
  | 0x0008 => ((m.map ResModel.imageId).getD 0) % 2 ^ 32
  | 0x000C => match m with
    | some m => let x := resSlotOf m r.slotB; pack [(0, 3, resCode x.state), (4, 12, x.extents.length), (16, 16, hdrEpoch x.header)]
    | none => 0
  | 0x0010 => pack [(0, 6, (m.map ResModel.owner).getD 0)]
  | 0x0014 => word false r.progBytes.toNat
  | 0x0018 => word true r.progBytes.toNat
  | 0x001C => r.installFail.toNat
  | 0x0020 => r.corrected.toNat
  | 0x0024 => r.refreshed.toNat
  | 0x0028 => r.uncorr.toNat
  | _ => 0

end Sys2Proof.Machine
end

