-- ==== Sys2Proof/Machine/OpsMgmt.lean ====
section
/-! DEFINITION. Reads of registers: the module's blocks, address decoding (R5, R26 to R28), owners' reach (R425, R359), BAR0 (R369 to
R373, R392), the latch of R16 and read-clear fields (R13). -/

namespace Sys2Proof.Machine

/-! ### The module's blocks, die id 0xF0 -/

/-- The module identity in block 0x00, below MC_STATUS (R6, R27). -/
def identityRead (s : State) (off : Nat) : Nat :=
  let v := match s.variant with
    | .s => 0
    | .m => 1
    | .n => 2
  Config.identityWord [v, b2n (s.coupling == .f), b2n (s.provisioning == .p), (s.die 0x40).stepping, s.serial] off % 2 ^ 32

/-- Block 0x00 (R421). -/
def cfgRead (s : State) (off : Nat) : Nat :=
  let c := s.cfg
  let q := s.part c.partSel
  match off with
  | 0x0010 => pack [(0, 1, b2n c.active3), (1, 1, b2n c.standbyReady), (2, 1, b2n c.defaulted), (3, 1, b2n c.copyUse), (4, 1, b2n s.time.utc),
      (8, 3, c.phase)]
  | 0x0014 => pack [(0, 16, c.reason0)]
  | 0x0018 => pack [(0, 16, c.reason1)]
  | 0x001C => c.gen0 % 2 ^ 32
  | 0x0020 => c.gen1 % 2 ^ 32
  | 0x0024 => c.genUse % 2 ^ 32
  | 0x002C => pack [(0, 16, c.cmdReason), (16, 1, b2n c.cmdBusy.isSome), (24, 4, c.cmdAction)]
  | 0x0030 => pack [(0, 6, c.partSel)]
  | 0x0034 => pack [(0, 16, q.reason), (16, 1, b2n q.present), (17, 1, b2n (q.state != .disabled))]
  | 0x0038 => q.gen % 2 ^ 32
  | 0x0040 => word false s.time.adopt
  | 0x0044 => word true s.time.adopt
  | 0x0048 => word false s.time.step
  | 0x004C => word true s.time.step
  | 0x0050 => c.restartCnt.toNat
  | _ => 0

/-- PT_STATUS.STATE (R444). -/
def ptCode : PtState → Nat
  | .disabled => 0
  | .running => 1
  | .starting => 2
  | .fenced => 3

/-- Block 0x01 (R444). -/
def ptRead (s : State) (off : Nat) : Nat :=
  let p := s.ptSel
  let q := s.part p
  match off with
  | 0x0000 => pack [(0, 6, p)]
  | 0x0004 => pack [(0, 2, ptCode q.state), (4, 3, q.cause), (8, 6, (partOwner s p).getD 0), (16, 16, q.tag)]
  | 0x0008 => pack [(0, 5, leadTile s p), (8, 8, tileDie (leadTile s p))]
  | 0x000C => q.resets.toNat
  | 0x0014 => pack [(0, 16, q.wdgMs), (16, 1, b2n q.wdgReset)]
  | 0x0018 => pack [(0, 16, cap 16 q.idleMs), (16, 16, cap 16 q.fires)]
  | 0x001C => q.lastUs % 2 ^ 32
  | _ => 0

/-- A module log record in the layout of R470. -/
def logBytes (seq : Nat) (r : EvRec) : List Byte :=
  toLe 4 seq ++ toLe 2 r.cls ++ [BitVec.ofNat 8 r.kind, BitVec.ofNat 8 r.die, BitVec.ofNat 8 r.block,
    match r.part with | some p => BitVec.ofNat 8 (p % 64 + 128) | none => 0] ++ toLe 2 r.payload.length ++ toLe 4 r.count ++
  toLe 8 r.first ++ toLe 8 r.last ++ slice r.payload 0 32

/-- The record of the log with a serial number. -/
def logRecord (s : State) (seq : Nat) : Option (List Byte) := (s.log.recs.find? fun q => q.1 == seq).map fun q => logBytes q.1 q.2

/-- LOG_RATE (R481): records of the last whole second of module time. -/
def logRate (s : State) : Nat :=
  let sec := s.now / 1000000000
  if sec = s.log.second then s.log.rate else if sec = s.log.second + 1 then s.log.secCount else 0

/-- Block 0x03 (R481). -/
def logRead (s : State) (off : Nat) : Nat :=
  let l := s.log
  if 0x0040 ≤ off ∧ off ≤ 0x007C then (((logRecord s l.sel).map fun b => leAt b (off - 0x0040) 4)).getD 0
  else match off with
    | 0x0000 => l.head % 2 ^ 32
    | 0x0004 => ((l.recs.head?.map Prod.fst).getD l.head) % 2 ^ 32
    | 0x0008 => l.sel
    | 0x000C => pack [(0, 16, cap 16 (logRate s))]
    | 0x0010 => l.ovf.toNat
    | 0x0020 => pack [(0, 16, l.thrDiePerm)]
    | 0x0024 => pack [(0, 6, l.thrDieShort)]
    | 0x0028 => pack [(0, 16, l.thrChUe)]
    | 0x002C => l.thrChCe % 2 ^ 32
    | 0x0030 => pack [(0, 16, l.thrTrans)]
    | 0x0034 => l.authFail.toNat
    | 0x0038 => pack [(0, 5, l.subs.length)]
    | _ => 0

/-- ADJ_ENTRY (R508): the neighbours of a die, 0xFF where there is none. -/
def adjEntry (s : State) (d : Nat) : Nat :=
  let l := if dieFitted s.variant d then dieNeighbours s.variant d else []
  pack ((List.range 4).map fun i => (8 * i, 8, l.getD i 0xFF))

/-- STACK_TEMP (R508): a DRAM stack, or a Reservoir stack from 24 on. -/
def stackTemp (s : State) (k : Nat) : Nat :=
  if !(stackIds s).contains k then 0
  else if k < 20 then
    let x := s.stack k
    pack [(0, 8, twos 8 x.temp), (8, 1, b2n x.tempValid), (9, 1, b2n x.hot)]
  else
    let x := s.res (k - 24)
    let r := (x.tempReads.getLast?).getD (0, false)
    pack [(0, 8, twos 8 (r.1 / 16)), (8, 1, b2n r.2), (9, 1, b2n x.hot)]

/-- Block 0x04 (R508). -/
def pwrRead (s : State) (off : Nat) : Nat :=
  let t := s.therm
  let ds := allDies s.variant
  match off with
  | 0x0000 => pack [(0, 12, t.limit)]
  | 0x0004 => pack [(0, 1, b2n t.limiting), (1, 1, b2n t.currentLimiting), (2, 1, b2n t.brake), (3, 1, b2n t.emergency),
      (8, 6, (ds.filter fun d => (hkOf s d).throttled).length), (16, 6, (ds.filter fun d => (hkOf s d).suspect).length)]
  | 0x0008 => pack [(0, 16, cap 16 t.input), (16, 16, cap 16 t.effLimit)]
  | 0x000C => pack [(0, 16, cap 16 (rneDiv (75 * t.vinCode) 4))]
  | 0x0010 => pack [(0, 17, cap 17 (rneDiv (80000 * t.iinCode) 4096))]
  | 0x0014 => pack [(0, 6, t.vTarget)]
  | 0x0018 => pack [(0, 16, twos 16 t.max), (16, 8, t.maxDie)]
  | 0x001C => t.seq.toNat
  | 0x0020 => t.miss.toNat
  | 0x0024 => t.brakeCnt.toNat
  | 0x0028 => pack [(0, 8, t.adjSel)]
  | 0x002C => adjEntry s t.adjSel
  | 0x0030 => pack [(0, 8, twos 8 (hkOf s t.adjSel).adjOffset)]
  | 0x0034 => pack [(0, 5, t.stackSel)]
  | 0x0038 => stackTemp s t.stackSel
  | _ => 0

/-- RESERVE tiles that hold no relocated work (R445). -/
def reserveFree (s : State) : Nat :=
  (s.cfg.module.reserve.filter fun t => !(s.parts.any fun q => q.2.tiles.contains t)).length

/-- A retirement or relocation runs (R445). -/
def fmBusy (s : State) : Bool :=
  (s.fm.notices.any fun n => n.kind == .retireDie || n.kind == .retireChannel || n.kind == .route) || s.parts.any fun q => relocRuns s q.1

/-- FM_DIE_STATUS (R445). -/
def fmDieStatus (s : State) (d : Nat) : Nat :=
  let x := s.die d
  let st := if !adFitted s.variant d then 3 else match x.state with
    | .inService => 0
    | .compute => 1
    | .dark => 2
    | .excluded => 3
  pack [(0, 2, st), (8, 4, x.reason), (16, 7, (partsOnDie s d).length)]

/-- Block 0x06 (R445); BLOCKED shows whether any partition has a blocked slot (log entry 224). -/
def fmRead (s : State) (off : Nat) : Nat :=
  let f := s.fm
  let k := s.stack f.chanStack
  match off with
  | 0x0000 => pack [(0, 8, f.dieSel)]
  | 0x0004 => fmDieStatus s f.dieSel
  | 0x0008 => if adFitted s.variant f.dieSel then (s.die f.dieSel).trouble.toNat else 0
  | 0x000C => pack [(0, 16, f.troubleThr), (16, 4, f.ratio)]
  | 0x0014 => pack [(0, 16, f.cmdReason), (16, 1, b2n (fmBusy s))]
  | 0x0018 => pack [(0, 5, f.chanStack), (8, 4, f.chanPair)]
  | 0x001C => pack [(0, 1, b2n (k.retired.contains f.chanPair)), (1, 1, b2n k.lost)]
  | 0x0020 => pack [(0, 11, reserveFree s)]
  | 0x0024 => pack [(0, 6, f.relocActive.getD 0), (8, 1, b2n (s.parts.any fun q => relocRuns s q.1)), 
      (9, 1, b2n (s.parts.any fun q => !q.2.blocked.isEmpty))]
  | 0x0028 => f.failovers.toNat
  | _ => 0

/-- Block 0x07 (R539). -/
def ltnRead (s : State) (off : Nat) : Nat :=
  let l := s.lantern
  if 0x0010 ≤ off ∧ off < 0x0038 then
    let r := tget (0, false) l.routes ((off - 0x0010) / 4)
    pack [(0, 8, r.1), (8, 1, b2n r.2)]
  else match off with
    | 0x0000 => pack [(0, 1, b2n l.unlocked), (1, 1, b2n l.taint), (2, 1, b2n l.indefinite), (16, 16, l.reason)]
    | 0x0004 => if l.unlocked && !l.indefinite then pack [(0, 20, (l.until_ - s.now) / 1000000000)] else 0
    | _ => 0

/-- A register of the module's blocks. -/
def moduleRead (s : State) (block off : Nat) : Nat :=
  match block with
  | 0 => if off < 0x0010 then identityRead s off else cfgRead s off
  | 1 => ptRead s off
  | 3 => logRead s off
  | 4 => pwrRead s off
  | 6 => fmRead s off
  | 7 => ltnRead s off
  | _ => 0

/-! ### Addresses (R5, R26 to R28) -/

/-- The die id, block and offset of an address. -/
def addrDie (a : Nat) : Nat := fld a 24 8
/-- The block of an address. -/
def addrBlock (a : Nat) : Nat := fld a 16 8
/-- The offset of an address. -/
def addrOff (a : Nat) : Nat := fld a 0 16

/-- The die carries a block (R26, R27). -/
def blockOn (v : Variant) (d b : Nat) : Bool :=
  if d = 0xF0 then decide (b < 8)
  else if d < 40 then
    decide (b < 5) || (b == 5 && (dieStack v d).isSome) || (decide (8 ≤ b) && decide (b < 12)) || (decide (0x20 ≤ b) && decide (b < 0x40))
  else
    let n := d - 0x40
    decide (b < 5) || [0x18, 0x19, 0x1C, 0x1D].contains b || (decide (n < 4) && [0x10, 0x11, 0x20, 0x21].contains b) ||
      ((n == 0 || n == 3) && [0x28, 0x2C, 0x30, 0x31, 0x32].contains b)

/-- How an access is answered: 0 OK, 1 NO_DIE, 2 NO_BLOCK (R5, R28). -/
def addrStatus (s : State) (a : Nat) : Nat :=
  let d := addrDie a
  if d != 0xF0 && !dieFitted s.variant d then 1 else if blockOn s.variant d (addrBlock a) then 0 else 2

/-- The first status other than OK among `n` registers from an address on (log entry 188). -/
def accessStatus (s : State) (a n : Nat) : Nat :=
  (((List.range n).map fun i => addrStatus s (a + 4 * i)).find? (· != 0)).getD 0

/-- The status that a reply over Flesha or the sideband carries for an access (R5, R28): 0 OK, else the code of NO_DIE or NO_BLOCK. -/
def replyStatus (s : State) (a n : Nat) : Nat :=
  match accessStatus s a n with
  | 0 => 0
  | 1 => Config.noDieCode
  | _ => Config.noBlockCode

/-- The register at an address of management space, as the requester may see it (R359). An offset that no table assigns reads 0
(R14). -/
def mgmtValue (s : State) (owner : Option Nat) (a : Nat) : Nat :=
  let d := addrDie a
  let b := addrBlock a
  let off := addrOff a
  if addrStatus s a != 0 || off % 4 != 0 then 0
  else if d = 0xF0 then moduleRead s b off
  else if b = 0 then identRead (s.die d) d off
  else if b = 1 then hkRead s d off
  else if b = 2 then lnRead (s.die d) off
  else if b = 3 then evRead s d off
  else if b = 4 then twRead s d off
  else if d < 40 then
    (if b = 5 then (match dieStack s.variant d with | some k => dramRead s k off | none => 0)
     else if b < 12 then aeRead (tget {} (s.die d).ae (b - 8)) off
     else tileRead s (32 * d + (b - 0x20)) off)
  else
    let n := d - 0x40
    if b = 0x18 ∨ b = 0x19 then portRead (s.fport (2 * n + (b - 0x18))) off
    else if b = 0x1D then arbRead (s.fiod n) off
    else if b = 0x20 then engRead (s.engine n) off
    else if b = 0x21 then resRead s n owner off
    else if b = 0x2C then fuseRead s off
    else 0

/-! ### 64-bit values (R16) -/

/-- Low-word offsets of a tile's block. -/
def tileWide : List Nat := [0x0414, 0x0440, 0x0514, 0x060C]

/-- The low word of a 64-bit value in management space. -/
def mgmtWide (a : Nat) : Bool :=
  let d := addrDie a
  let b := addrBlock a
  let off := addrOff a
  if d = 0xF0 then b == 0 && (off == 0x0040 || off == 0x0048)
  else if b = 0 then off == 0x0024
  else if b = 3 then off == 0x0034
  else if b = 4 then decide (off < 0x100) && (off % 0x40 == 0x04 || off % 0x40 == 0x0C)
  else if d < 40 then
    (if b < 12 then decide (8 ≤ b) && (off == 0x0008 || off == 0x001C) else tileWide.contains off)
  else if b = 0x18 ∨ b = 0x19 then [0x0008, 0x0010, 0x0048].contains off
  else if b = 0x1D then off == 0x0008
  else if b = 0x20 then off == 0x0004
  else b == 0x21 && off == 0x0014

/-! ### Read-clear fields (R13) -/

/-- Clear what a read of a partition's register has read; the peak restarts from the level that still holds. -/
def clearView (v : WinCopy) (level off : Nat) : WinCopy :=
  if 0x0954 ≤ off ∧ off ≤ 0x0990 then { v with hist := tset 0 v.hist (64 * v.histKind + 16 * v.histCls + (off - 0x0954) / 4) 0 }
  else if off = 0x0A24 then { v with peak := level }
  else v

/-- The read-clear fields of a register in management space are cleared. -/
def mgmtClear (s : State) (a : Nat) : State :=
  let d := addrDie a
  let b := addrBlock a
  let off := addrOff a
  if 40 ≤ d ∨ b < 0x20 ∨ addrStatus s a != 0 then s
  else
    let t := 32 * d + (b - 0x20)
    if off = 0x053C then s.modTile t fun x => { x with chkPeak := x.checks.length }
    else match leadOf s t with
      | none => s
      | some p =>
        let v := clearView (ownView (s.part p)) (ingLevel s p) off
        s.modPart p fun q => { q with cnt := { q.cnt with hist := v.hist }, ing := { q.ing with peak := v.peak } }

/-! ### BAR0 (R369 to R373, R390, R392) -/

/-- The function registers (R372). -/
def fnRead (s : State) (fn off : Nat) : Nat :=
  let f := s.fnOf fn
  match off with
  | 0x0000 => pack [(0, 3, fn % 8), (4, 3, fnPort fn), (7, 1, b2n f.part.isSome), (8, 6, f.part.getD 0)]
  | 0x0008 =>
    let h := s.hport (fnPort fn)
    pack [(0, 2, partStateCode s fn), (2, 1, b2n (f.qEn && !f.bme)), (3, 1, b2n (speedLow s (fnPort fn))), (4, 1, b2n (h.width == 8 || h.width == 4)),
      (5, 1, b2n (decide (1024 ≤ f.outstanding)))]
  | 0x000C => pack [(0, 16, f.reason), (16, 16, f.reasonReg)]
  | 0x0010 => pack [(0, 7, f.evt)]
  | 0x0014 => pack [(0, 7, f.evtMask)]
  | 0x0018 => pack [(0, 6, f.evtVec)]
  | 0x001C => pack [(0, 11, f.outstanding)]
  | 0x0020 => f.descCnt.toNat
  | 0x0024 => f.descErr.toNat
  | 0x0028 => f.cqStall.toNat
  | 0x002C => f.bar2Miss.toNat
  | 0x0030 => f.evDrop.toNat
  | _ => 0

/-- The queue registers (R373). -/
def queueRead (s : State) (fn off : Nat) : Nat :=
  let f := s.fnOf fn
  if 0x1040 ≤ off ∧ off < 0x1140 then
    let n := (off - 0x1040) / 0x40
    let r := s.ring fn n
    match (off - 0x1040) % 0x40 with
    | 0x00 => word false r.sqBase
    | 0x04 => word true r.sqBase
    | 0x08 => pack [(0, 1, b2n r.sqEn), (8, 5, r.sqSize)]
    | 0x0C => pack [(0, 16, r.head), (16, 1, b2n r.sqFault)]
    | 0x10 => word false r.cqBase
    | 0x14 => word true r.cqBase
    | 0x18 => pack [(0, 1, b2n r.cqEn), (8, 5, r.cqSize), (16, 6, r.vector), (24, 8, r.coalCount)]
    | 0x1C => pack [(0, 10, r.coalUs)]
    | 0x20 => pack [(0, 16, r.cqTail), (16, 1, b2n r.phase), (17, 1, b2n (cqFull r && f.buffer.any fun c => c.sq == n))]
    | _ => 0
  else
    let e := f.er
    match off with
    | 0x1000 => b2n f.qEn
    | 0x1200 => word false e.base
    | 0x1204 => word true e.base
    | 0x1208 => pack [(0, 1, b2n e.en), (8, 5, e.size), (16, 6, e.vector)]
    | 0x120C => word false e.wb
    | 0x1210 => word true e.wb
    | 0x1214 => pack [(0, 16, e.tail), (16, 16, e.head)]
    | 0x1218 => pack [(0, 13, (f.part.map fun p => (s.part p).spool.length).getD 0)]
    | _ => 0

/-- The partition status window (R392), for a bound function. -/
def windowRead (s : State) (fn p off : Nat) : Nat :=
  let q := s.part p
  if 0x4600 ≤ off ∧ off < 0x4C00 then (if leadOffset (off - 0x4000) then leadRead s p (s.fnOf fn).win (off - 0x4000) else 0)
  else match off with
    | 0x4000 => pack [(0, 6, p), (8, 6, (partOwner s p).getD 0), (16, 2, ptCode q.state), (18, 1, b2n ((q.cfg.map PartCfg.hostReset).getD false)),
        (19, 1, b2n ((q.cfg.map PartCfg.flrPart).getD false))]
    | 0x4004 =>
      let v := match s.variant with
        | .s => 0
        | .m => 1
        | .n => 2
      pack [(0, 2, v), (2, 1, b2n s.cfg.defaulted), (3, 1, b2n s.time.utc), (4, 1, b2n s.lantern.taint)]
    | 0x4008 => word false s.now
    | 0x400C => word true s.now
    | 0x4010 => q.resets.toNat
    | 0x4014 => pack [(0, 11, q.tiles.length)]
    | 0x4018 => pack [(0, 9, (granulesOf s p).length), (16, 9, ((granulesOf s p).filter fun g => g.role == 4).length)]
    | _ => 0

/-- The MSI-X table and its pending bits (R369). -/
def msixRead (f : Fn) (off : Nat) : Nat :=
  if off < 0x9000 then
    let e := tget (0, 0, true) f.msix ((off - 0x8000) / 16)
    match off % 16 with
    | 0 => word false e.1
    | 4 => word true e.1
    | 8 => e.2.1 % 2 ^ 32
    | _ => b2n e.2.2
  else word (off == 0x9004) f.pba

/-- A register of BAR0 (R369). Doorbells and FN_CTRL read 0. -/
def barValue (s : State) (fn off : Nat) : Nat :=
  if off % 4 != 0 then 0
  else if off < 0x1000 then fnRead s fn off
  else if off < 0x2000 then queueRead s fn off
  else if off < 0x4000 then 0
  else if off < 0x8000 then
    (match (s.fnOf fn).part with
    | some p => windowRead s fn p off
    | none => 0)
  else if off < 0x8400 ∨ off = 0x9000 ∨ off = 0x9004 then msixRead (s.fnOf fn) off
  else 0

/-- The low word of a 64-bit value in BAR0: ring bases and the tail writeback (R373), the status window's (R392), and the message
addresses and pending bits of MSI-X (R369). -/
def barWide (off : Nat) : Bool :=
  off == 0x4008 || off == 0x460C || off == 0x1200 || off == 0x120C || off == 0x9000 ||
  (decide (0x1040 ≤ off) && decide (off < 0x1140) && (off % 0x40 == 0x00 || off % 0x40 == 0x10)) ||
  (decide (0x8000 ≤ off) && decide (off < 0x8400) && off % 16 == 0)

/-- The read-clear fields of a status window register are cleared; each function has its own (R392). -/
def barClear (s : State) (fn off : Nat) : State :=
  match (s.fnOf fn).part with
  | some p => if 0x4600 ≤ off ∧ off < 0x4C00 then
      (let lvl := ingLevel s p
       s.modFn fn fun f => { f with win := clearView f.win lvl (off - 0x4000) }) else s
  | none => s

/-! ### Reach (R425) -/

/-- A function answers accesses to its BAR0: it is presented and its port's link is up. -/
def fnAnswers (s : State) (fn : Nat) : Bool := (s.fnOf fn).presented && (s.hport (fnPort fn)).up

/-- The tile at an address is the lead tile of a partition of the owner. -/
def ownLead (s : State) (o a : Nat) : Bool :=
  match leadOf s (32 * addrDie a + (addrBlock a - 0x20)) with
  | some p => partOwner s p == some o
  | none => false

/-- The address lies among the lead-tile registers of an array die. -/
def isLead (a : Nat) : Bool := decide (addrDie a < 40) && decide (0x20 ≤ addrBlock a) && leadOffset (addrOff a)

/-- A Flesha owner may read an address: everything for an OPERATOR; else its own partitions' lead-tile registers, and the telemetry of
housekeeping, dies and links. -/
def readReach (s : State) (o a : Nat) : Bool :=
  isOperator s o || (if isLead a then ownLead s o a else if addrDie a = 0xF0 then addrBlock a == 4 else true)

/-- A Flesha owner may write a value to an address: everything for an OPERATOR; else the lead-tile registers of its own partitions,
PT_SEL and PT_CMD for one of them, and CFG_CMD for a PART_RESTART of one. -/
def writeReach (s : State) (o a value : Nat) : Bool :=
  let own := fun p => partOwner s p == some o
  isOperator s o ||
    (if isLead a then ownLead s o a
     else if addrDie a != 0xF0 then false
     else if addrBlock a = 1 then (addrOff a == 0x0000 && own (fld value 0 6)) || (addrOff a == 0x0010 && own s.ptSel)
     else addrBlock a == 0 && addrOff a == 0x0028 && fld value 0 4 == 1 && own (fld value 8 6))

/-- The owner whose key authenticated an access. -/
def accessOwner : Requester → Option Nat
  | .flesha o => some o
  | _ => none

/-! ### Reads -/

/-- The latched high word of a requester (R16). -/
def latchOf (s : State) (r : Requester) (a : Nat) : Option Nat := (s.latches.find? fun l => l.1 == r && l.2.1 == a).map fun l => l.2.2

/-- Forget a latched word. -/
def dropLatch (s : State) (r : Requester) (a : Nat) : State := { s with latches := s.latches.filter fun l => !(l.1 == r && l.2.1 == a) }

/-- Read a register that holds `lo`, with `hi` in the next one where it is the low word of a 64-bit value (R16). -/
def latchRead (s : State) (r : Requester) (a lo hi : Nat) (wide : Bool) : State × Nat :=
  if wide then ({ dropLatch s r (a + 4) with latches := (dropLatch s r (a + 4)).latches ++ [(r, a + 4, hi)] }, lo)
  else match latchOf s r a with
    | some v => (dropLatch s r a, v)
    | none => (s, lo)

/-- RES_SWEEP_AGE (R482): the patrol's pages are not the model's, so its age is a free value (log entry 1). -/
def isSweepAge (s : State) (a : Nat) : Bool := addrStatus s a == 0 && addrDie a != 0xF0 && decide (0x40 ≤ addrDie a) && addrBlock a == 0x21 && addrOff a == 0x002C

/-- Read an address of management space: the value, with its latch set or taken and its read-clear fields cleared. -/
def mgmtRead (s : State) (r : Requester) (a : Nat) : State × Nat :=
  let o := accessOwner r
  if isSweepAge s a then (let w := freeWord s; (w.1, w.2 % 65536))
  else
    let x := latchRead s r a (mgmtValue s o a) (mgmtValue s o (a + 4)) (mgmtWide a && addrStatus s a == 0)
    (mgmtClear x.1 a, x.2)

/-- Read `n` registers from an address on. -/
def mgmtReads (s : State) (r : Requester) (a : Nat) : Nat → State × List Nat
  | 0 => (s, [])
  | n + 1 =>
    let x := mgmtRead s r a
    let y := mgmtReads x.1 r (a + 4) n
    (y.1, x.2 :: y.2)

/-- Read a word of a function's BAR0. -/
def barRead32 (s : State) (fn off : Nat) : State × Nat :=
  let x := latchRead s (.host fn) off (barValue s fn off) (barValue s fn (off + 4)) (barWide off)
  (barClear x.1 fn off, x.2)

/-- A read by any requester: the host in its BAR0, the sideband of the active MC and Flesha in management space. A Flesha read out of
reach, and an access that reaches nothing, changes nothing. -/
def regRead (s : State) (r : Requester) (a : Nat) : State :=
  match r with
  | .host fn =>
    if !fnAnswers s fn || decide (65536 ≤ a) then s
    else (let x := barRead32 s fn a; x.1.emit (.regRead r a x.2 0))
  | .sideband _ => if mcReach s r then (let x := mgmtRead s r a; x.1.emit (.regRead r a x.2 (addrStatus s a))) else s
  | .flesha o =>
    if mcReach s r && readReach s o a then (let x := mgmtRead s r a; x.1.emit (.regRead r a x.2 (addrStatus s a))) else s

end Sys2Proof.Machine
end

