-- ==== Sys2Proof/Machine/OpsWrite.lean ====
section
/-! DEFINITION. Writes of registers (R13, R14, R370, R419, R425, R474): byte enables, Lantern selectors, management space and BAR0. -/

namespace Sys2Proof.Machine

/-! ### Words -/

/-- A word with its enabled bytes replaced (R370). -/
def merge (cur value be : Nat) : Nat :=
  leNat ((List.range 4).map fun i => BitVec.ofNat 8 ((if bitOf be i then value else cur) / 2 ^ (8 * i)))

/-- A field keeps its value where the write holds a reserved encoding (R14). -/
def keep (ok : Bool) (new old : Nat) : Nat := if ok then new else old

/-- A value lies in a range. -/
def inRange (lo hi v : Nat) : Bool := decide (lo ≤ v) && decide (v ≤ hi)

/-- A signed field. -/
def signedField (w v : Nat) : Int := if v < 2 ^ (w - 1) then v else (v : Int) - 2 ^ w

/-! ### Lantern (R534 to R540) -/

/-- Change Lantern control. -/
def modLantern (s : State) (f : Lantern → Lantern) : State := { s with lantern := f s.lantern }

/-- Every Lantern node's selectors return to 0 (R535). -/
def lnClear (s : State) : State :=
  { s with dies := (s.dies.map fun q => (q.1, { q.2 with ln := ([] : Tab LnLine) })).filter fun q => q.2 != {} }

/-- Lock Lantern (R535): every selector returns to 0, and LANTERN_LOCKED is raised with the cause (0 command, 1 expiry, R545)
where it was unlocked. The taint stays (R536). -/
def lanternLock (s : State) (cause : Nat) : State :=
  if !s.lantern.unlocked then s
  else
    let s := modLantern (lnClear s) fun l => { l with unlocked := false, indefinite := false, until_ := 0, routes := [] }
    report s 0xF0 0x07 evLanternLocked none [(1, cause)]

/-- The first unlock since the start sets the taint, and FN_EVT.TAINT of every presented function (R372, R536). -/
def lanternTaint (s : State) : State :=
  if s.lantern.taint then s
  else
    let s := modLantern s fun l => { l with taint := true }
    (s.fns.filter fun q => q.2.presented).foldl (fun s q => setEvt s q.1 5) s

/-- Unlock Lantern for `secs` seconds, or until the next module start for 0 (R535). -/
def lanternUnlock (s : State) (owner secs : Nat) : State :=
  let s := modLantern (lanternTaint s) fun l => { l with
    unlocked := true, taint := true, indefinite := secs == 0, until_ := if secs = 0 then 0 else s.now + secs * 1000000000 }
  report s 0xF0 0x07 evLanternUnlocked none [(1, owner), (4, secs)]

/-- KIND values of a line (R537, R538): 0 to 4 on a digital line, 0, 5 and 6 on an analogue one; 3 and 5 are reserved on an I/O die. -/
def lnKindOk (d n kind : Nat) : Bool :=
  (if n < 8 then decide (kind ≤ 4) else kind == 0 || kind == 5 || kind == 6) && (decide (d < 40) || (kind != 3 && kind != 5))

/-- No image slot holds a Tarn: an addressable one without a holder, or a spare that is not mapped in (R538). -/
def tarnUnheld (s : State) (t tarn : Nat) : Bool :=
  if tarn < 384 then (tarnOf (s.tile t) tarn).holder.isNone else !((s.tile t).spMap.any fun q => q.1 == tarn - 384)

/-- A selector write is refused (R534, R538). -/
def lanternRefuse (s : State) (reason : Nat) : State := modLantern s fun l => { l with reason := reason }

/-- A line after a write of its LN_SEL or LN_IDX word (R540): reserved encodings leave their field unchanged. -/
def lnNew (l : LnLine) (d n : Nat) (idx : Bool) (v : Nat) : LnLine :=
  if idx then
    { l with tarn := keep (decide (fld v 0 9 < 400)) (fld v 0 9) l.tarn, bank := fld v 9 2
             column := keep (decide (fld v 11 9 < 264)) (fld v 11 9) l.column, rg := fld v 20 4 }
  else { l with kind := keep (lnKindOk d n (fld v 0 3)) (fld v 0 3) l.kind, tile := fld v 8 5 }

/-- A write of a line's selector on a die (R534, R538). -/
def lnWrite (s : State) (d off v : Nat) : State :=
  if !s.lantern.unlocked then lanternRefuse s 0x0180
  else
    let n := off / 8
    let l := lnNew (tget {} (s.die d).ln n) d n (off % 8 == 4) v
    if l.kind == 5 && !tarnUnheld s (32 * d + l.tile) l.tarn then lanternRefuse s 0x0181
    else s.modDie d fun x => { x with ln := tset {} x.ln n l }

/-- A write of LTN_ROUTE (R539). -/
def routeWrite (s : State) (n v : Nat) : State :=
  if !s.lantern.unlocked then lanternRefuse s 0x0180
  else modLantern s fun l => { l with routes := tset (0, false) l.routes n (fld v 0 8, bitOf v 8) }

/-! ### Dies and tiles -/

/-- A write of HK_SEQ6 to HK_SEQ15 (R14, R485, R507): INPUT and CONV name an entry's input together; a reserved pair leaves both
unchanged (log entry 162), so that no entry ever holds one. -/
def seqWrite (s : State) (d n v : Nat) : State :=
  modHk s d fun h =>
    let e := tget {} h.seq n
    let inp := fld v 0 5
    let conv := fld v 8 2
    let ok := seqFieldOk inp conv
    let new : HkSeq :=
      { e with input := keep ok inp e.input, conv := keep ok conv e.conv, step := bitOf v 12, enable := bitOf v 13 }
    { h with seq := tset {} h.seq n new }

/-- Writes of blocks 0x01 to 0x05 of a die. -/
def dieWrite (s : State) (d b off v : Nat) : State :=
  if b = 1 then
    (if off = 0 then (if hkRuns s d then hkCtrlWrite s d v else s)
     else if 0x28 ≤ off ∧ off < 0x50 then seqWrite s d ((off - 0x10) / 4) v
     else s)
  else if b = 2 then (if off < 80 then lnWrite s d off v else s)
  else if b = 3 then (if off = 0x0008 then s.modDie d fun x => { x with ev := { x.ev with classSel := fld v 0 16 } } else s)
  else if b = 5 then
    (match dieStack s.variant d with
     | some k => if off = 0 then s.modStack k fun x => { x with chSel := fld v 0 4 } else s
     | none => s)
  else s

/-- Writes of a tile's own registers (R96, R97, R142, R208). -/
def tileWrite (x : Tile) (off v : Nat) : Tile :=
  let tn := fld v 0 9
  match off with
  | 0x0400 => tstatSel x v
  | 0x0404 => tstatCtrl x v
  | 0x0454 => { x with mapSel := keep (decide (tn < 400)) tn x.mapSel }
  | 0x0500 => { x with driftFreeze := bitOf v 0 }
  | 0x0504 => { x with
      driftTarn := keep (decide (tn < 400)) tn x.driftTarn, driftBank := fld v 10 2
      driftCol := keep (decide (fld v 16 9 < 264)) (fld v 16 9) x.driftCol }
  | 0x0808 => { x with arrSel := keep (decide (fld v 0 6 < 48)) (fld v 0 6) x.arrSel }
  | _ => x

/-! ### Partitions -/

/-- Writes of the serving configuration (R143, R296): reserved values leave their field unchanged. -/
def servWrite (variant : Variant) (c : ServCfg) (off v : Nat) : ServCfg :=
  if 0x0690 ≤ off ∧ off ≤ 0x069C then { c with dlEvent := tset 0 c.dlEvent ((off - 0x0690) / 4) v }
  else if 0x06C0 ≤ off ∧ off ≤ 0x06CC then
    let n := (off - 0x06C0) / 4
    let k := fld v 16 5
    { c with panels := tset (0, 0, 0) c.panels n (fld v 0 8, fld v 8 7, keep (inRange 1 16 k) k (tget (0, 0, 0) c.panels n).2.2) }
  else match off with
    | 0x0600 => { c with
        chkS := keep (inRange 4 10 (fld v 0 4)) (fld v 0 4) c.chkS, chkT := keep (inRange 1 255 (fld v 8 8)) (fld v 8 8) c.chkT
        chkM := fld v 16 5 }
    | 0x0680 => { c with
        passLimit := keep (inRange 1 1024 (fld v 0 11)) (fld v 0 11) c.passLimit, preempt := bitOf v 12, confirm := bitOf v 13
        capture := bitOf v 14, confirmSlots := fld v 16 3 }
    | 0x06A0 => { c with dlTtft := v }
    | 0x06A4 => { c with dlTbt := v }
    | 0x06A8 => { c with depthMax := keep (inRange 1 8 (fld v 0 4)) (fld v 0 4) c.depthMax, draftSlot := fld v 4 4 }
    | 0x06AC => { c with almSel := fld v 0 4 }
    | 0x06B0 => { c with thresh := if f32IsNan v then c.thresh else tset 0 c.thresh c.almSel v }
    | 0x06B4 => { c with
        ring := bitOf v 0, feed := bitOf v 1, narrFeed := bitOf v 2
        port := keep (feedPortFitted variant (fld v 8 4)) (fld v 8 4) c.port }
    | 0x06B8 => { c with
        narrEnable := bitOf v 0, narrRef := bitOf v 1, narrCls := fld v 2 2, narrSlot := fld v 4 4
        narrMax := keep (inRange 1 1024 (fld v 8 11)) (fld v 8 11) c.narrMax }
    | 0x06BC => { c with nPanel := keep (decide (fld v 0 3 ≤ 4)) (fld v 0 3) c.nPanel }
    | _ => c

/-- Writes of a partition's registers at its lead tile (R143, R209, R252, R296, R297). -/
def leadWrite (s : State) (p off v : Nat) : State :=
  match off with
  | 0x0624 => s.modPart p fun q => { q with layerSel := fld v 0 8 }
  | 0x0630 => s.modPart p fun q => { q with imgSel := fld v 0 4 }
  | 0x064C =>
    let k := (s.part p).imgSel
    let mark := fld v 0 25
    modPool s p k fun q => if mark ≤ q.total - q.withdrawn.length then { q with lowMark := mark } else q
  | 0x0900 => s.modPart p fun q => { q with cnt := { q.cnt with missSel := fld v 0 2 } }
  | 0x0950 => s.modPart p fun q =>
    let c := q.cnt
    { q with cnt := { c with histKind := keep (fld v 0 2 != 3) (fld v 0 2) c.histKind, histCls := fld v 4 2 } }
  | _ => s.modPart p fun q => { q with serv := servWrite s.variant q.serv off v }

/-! ### I/O dies -/

/-- A write of FP_CFG (R320, R419): MTU and ENABLE apply at once; a port that is switched off is held down. -/
def fpCfgWrite (s : State) (port v : Nat) : State :=
  let s := s.modFport port fun q =>
    let c := q.cfg
    { q with cfg := { c with mtu := keep (inRange 1500 9216 (fld v 0 14)) (fld v 0 14) c.mtu, enable := bitOf v 16 } }
  if bitOf v 16 then s else portDown s port

/-- Writes of an I/O die's blocks 0x18 to 0x21 (R305, R320, R321, R359). -/
def iodWrite (s : State) (n b off v : Nat) : State :=
  if b = 0x18 ∨ b = 0x19 then (if off = 0x0004 then fpCfgWrite s (2 * n + (b - 0x18)) v else s)
  else if b = 0x1D then
    (if off = 0x0000 then s.modFiod n fun x => { x with arbSel := fld v 0 8 }
     else if off = 0x0028 ∧ bitOf v 0 then resyncChannel s n (s.fiod n).arbSel
     else s)
  else if b = 0x21 ∧ off = 0x0004 then s.modRes n fun r => { r with sel := fld v 0 6, slotB := bitOf v 8 }
  else s

/-! ### The module's blocks -/

/-- A write of CFG_CMD (R416); ACTION values that the table does not list are reserved. -/
def cfgCmdWrite (s : State) (v : Nat) : State :=
  match fld v 0 4 with
  | 1 => restartBegin s (fld v 8 6) none
  | 2 => ownersBegin s none
  | 3 => restartModule s none
  | _ => s

/-- A write of PT_CMD (R444). -/
def ptCmdWrite (s : State) (v : Nat) : State :=
  match fld v 0 2 with
  | 1 => resetStart s s.ptSel 5
  | 2 => fencePart s s.ptSel
  | _ => s

/-- A write of FM_CMD (R445). Whether the transit path of a compute retirement passes its checks is not in the write: a free value
decides it (log entry 1). -/
def fmCmdWrite (s : State) (v : Nat) : State :=
  match fld v 0 2 with
  | 1 => let w := freeWord s; fmDie w.1 (fld v 8 8) (!bitOf w.2 0)
  | 2 => fmDie s (fld v 8 8) true
  | 3 => fmChannel s (fld v 8 8) (fld v 16 4)
  | _ => s

/-- Block 0x01 (R428, R444). -/
def ptWrite (s : State) (off v : Nat) : State :=
  match off with
  | 0x0000 => { s with ptSel := fld v 0 6 }
  | 0x0010 => ptCmdWrite s v
  | 0x0014 => s.modPart s.ptSel fun q => { q with
      wdgMs := keep (fld v 0 16 == 0 || decide (10 ≤ fld v 0 16)) (fld v 0 16) q.wdgMs, wdgReset := bitOf v 16 }
  | _ => s

/-- Block 0x03 (R465, R481). -/
def logWrite (s : State) (off v : Nat) : State :=
  let l := s.log
  match off with
  | 0x0008 => { s with log := { l with sel := v } }
  | 0x0020 => { s with log := { l with thrDiePerm := fld v 0 16 } }
  | 0x0024 => { s with log := { l with thrDieShort := fld v 0 6 } }
  | 0x0028 => { s with log := { l with thrChUe := fld v 0 16 } }
  | 0x002C => { s with log := { l with thrChCe := v } }
  | 0x0030 => { s with log := { l with thrTrans := fld v 0 16 } }
  | _ => s

/-- Block 0x04 (R493, R497, R500, R508). -/
def pwrWrite (s : State) (off v : Nat) : State :=
  match off with
  | 0x0000 => modTherm s fun t => { t with limit := keep (inRange 1500 3000 (fld v 0 12)) (fld v 0 12) t.limit }
  | 0x0014 => modTherm s fun t => { t with vTarget := keep (decide (fld v 0 6 ≤ 50)) (fld v 0 6) t.vTarget }
  | 0x0028 => modTherm s fun t => { t with adjSel := fld v 0 8 }
  | 0x0030 =>
    if dieFitted s.variant s.therm.adjSel then modHk s s.therm.adjSel fun h => { h with adjOffset := signedField 8 (fld v 0 8) } else s
  | 0x0034 =>
    let k := fld v 0 5
    modTherm s fun t => { t with stackSel := keep (decide (k < 20) || inRange 24 27 k) k t.stackSel }
  | _ => s

/-- Block 0x06 (R445). -/
def fmWrite (s : State) (off v : Nat) : State :=
  let f := s.fm
  match off with
  | 0x0000 => { s with fm := { f with dieSel := fld v 0 8 } }
  | 0x000C => { s with fm := { f with troubleThr := fld v 0 16, ratio := keep (fld v 16 4 != 0) (fld v 16 4) f.ratio } }
  | 0x0010 => fmCmdWrite s v
  | 0x0018 => { s with fm := { f with
      chanStack := keep (decide (fld v 0 5 < 20)) (fld v 0 5) f.chanStack, chanPair := keep (decide (fld v 8 4 < 8)) (fld v 8 4) f.chanPair } }
  | _ => s

/-- Writes of the module's blocks. -/
def moduleWrite (s : State) (b off v : Nat) : State :=
  if b = 0 then
    (if off = 0x0028 then cfgCmdWrite s v else if off = 0x0030 then { s with cfg := { s.cfg with partSel := fld v 0 6 } } else s)
  else if b = 1 then ptWrite s off v
  else if b = 3 then logWrite s off v
  else if b = 4 then pwrWrite s off v
  else if b = 6 then fmWrite s off v
  else if b = 7 then
    (if off = 0x0008 then (if bitOf v 0 then lanternLock s 0 else s)
     else if 0x0010 ≤ off ∧ off < 0x0038 then routeWrite s ((off - 0x0010) / 4) v
     else s)
  else s

/-! ### Writes by address -/

/-- Write a word of management space (R5, R13, R14, R28): an absent die or block, and what no table assigns, discard it. -/
def mgmtWrite (s : State) (a v : Nat) : State :=
  let d := addrDie a
  let b := addrBlock a
  let off := addrOff a
  if addrStatus s a != 0 || off % 4 != 0 then s
  else if d = 0xF0 then moduleWrite s b off v
  else if b < 8 then dieWrite s d b off v
  else if 0x40 ≤ d then iodWrite s (d - 0x40) b off v
  else if b < 0x20 then s
  else
    let t := 32 * d + (b - 0x20)
    if leadOffset off then (match leadOf s t with | some p => leadWrite s p off v | none => s)
    else s.modTile t fun x => tileWrite x off v

/-- Write registers from an address on. -/
def mgmtWrites (s : State) (a : Nat) : List Nat → State
  | [] => s
  | v :: vs => mgmtWrites (mgmtWrite s a (v % 2 ^ 32)) (a + 4) vs

/-- The reason for which a command register refuses a write (R446): PT_CMD that names a DISABLED partition, and the result of FM_CMD. -/
def cmdRefusal (s : State) (a v : Nat) : Nat :=
  if addrStatus s a != 0 || addrDie a != 0xF0 || addrOff a != 0x0010 then 0
  else if addrBlock a = 1 then (if inRange 1 2 (fld v 0 2) && (s.part s.ptSel).state == .disabled then 0x0404 else 0)
  else if addrBlock a = 6 ∧ fld v 0 2 ≠ 0 then (mgmtWrite s a v).fm.cmdReason
  else 0

/-- The status of a WRITE (R472, R474): that of its addresses, else the first reason for which one of its registers refuses its value. -/
def writesStatus (s : State) (a : Nat) : List Nat → Nat
  | [] => 0
  | v :: vs =>
    let r := cmdRefusal s a (v % 2 ^ 32)
    if r != 0 then r else writesStatus (mgmtWrite s a (v % 2 ^ 32)) (a + 4) vs

/-- Writes of the status window: the selectors of the function's own copy (R392). -/
def windowWrite (s : State) (fn off v : Nat) : State :=
  s.modFn fn fun f =>
    let w := f.win
    { f with win := match off with
      | 0x4624 => { w with layerSel := fld v 0 8 }
      | 0x4630 => { w with imgSel := fld v 0 4 }
      | 0x46AC => { w with almSel := fld v 0 4 }
      | 0x4900 => { w with missSel := fld v 0 2 }
      | 0x4950 => { w with histKind := keep (fld v 0 2 != 3) (fld v 0 2) w.histKind, histCls := fld v 4 2 }
      | _ => w }

/-- Writes of the MSI-X table (R369, R391): a vector that is unmasked sends its pending interrupt. -/
def msixWrite (s : State) (fn off v : Nat) : State :=
  let n := (off - 0x8000) / 16
  let e := tget (0, 0, true) (s.fnOf fn).msix n
  let new := match off % 16 with
    | 0 => (setLo e.1 v, e.2)
    | 4 => (setHi e.1 v, e.2)
    | 8 => (e.1, v, e.2.2)
    | _ => (e.1, e.2.1, bitOf v 0)
  flushMsix (s.modFn fn fun f => { f with msix := tset (0, 0, true) f.msix n new }) fn

/-- Doorbells (R390). -/
def doorbellWrite (s : State) (fn off v : Nat) : State :=
  if off = 0x2040 then erHeadWrite s fn v
  else if 0x2040 < off then s
  else
    let n := (off - 0x2000) / 16
    match off % 16 with
    | 0 => sqTailWrite s fn n v
    | 4 => cqHeadWrite s fn n v
    | _ => s

/-- Writes of the queue registers (R373). -/
def queueWrite (s : State) (fn off v : Nat) : State :=
  if off = 0x1000 then qCtrlWrite s fn v
  else if off = 0x1208 then erCtrlWrite s fn v
  else if 0x1040 ≤ off ∧ off < 0x1140 ∧ (off - 0x1040) % 0x40 ∈ [0x08, 0x18, 0x1C] then
    let n := (off - 0x1040) / 0x40
    match (off - 0x1040) % 0x40 with
    | 0x08 => sqCtrlWrite s fn n v
    | 0x18 => cqCtrlWrite s fn n v
    | _ => s.modRing fn n fun r => { r with coalUs := fld v 0 10 }
  else baseWrite s fn off v

/-- Write a word of a function's BAR0 under its byte enables (R370). Registers whose bits act on a write take 0 in the bytes that are
not enabled. -/
def barWrite32 (s : State) (fn off v be : Nat) : State :=
  let rw := merge (barValue s fn off) v be
  let act := merge 0 v be
  if be % 16 = 0 ∨ off % 4 ≠ 0 then s
  else if off = 0x0004 then fnCtrlWrite s fn act
  else if off = 0x0010 then evtClear s fn act
  else if off = 0x0014 then s.modFn fn fun f => { f with evtMask := fld rw 0 7 }
  else if off = 0x0018 then s.modFn fn fun f => { f with evtVec := fld rw 0 6 }
  else if off < 0x1000 then s
  else if off < 0x2000 then queueWrite s fn off rw
  else if off < 0x4000 then doorbellWrite s fn off act
  else if off < 0x8000 then windowWrite s fn off rw
  else if off < 0x8400 then msixWrite s fn off rw
  else s

/-- A write by any requester. The host's reaches its own BAR0; the sideband of the active MC and Flesha write management space. A Flesha
write out of reach changes nothing (R425). -/
def regWrite (s : State) (r : Requester) (a v be : Nat) : State :=
  match r with
  | .host fn => if !fnAnswers s fn || decide (65536 ≤ a) then s else (barWrite32 s fn a v be).emit (.regWrite r a 0)
  | .sideband _ => if mcReach s r then (mgmtWrite s a (merge (mgmtValue s none a) v be)).emit (.regWrite r a (addrStatus s a)) else s
  | .flesha o =>
    if mcReach s r && writeReach s o a v then
      (mgmtWrite s a (merge (mgmtValue s (some o) a) v be)).emit (.regWrite r a (addrStatus s a)) else s

end Sys2Proof.Machine
end

