-- ==== Sys2Proof/Machine/OpsLog.lean ====
section
/-! DEFINITION. Shared operations of the module log, Flesha and the sideband (R468 to R477, R533). -/

namespace Sys2Proof.Machine

/-! ### The module log (R468 to R470, R389) -/

/-- The event queues that the MC drains: logic dies, and its own. -/
def evSources (s : State) : List Nat := allDies s.variant ++ [0xF0]

/-- An event queue. -/
def evQueue (s : State) (d : Nat) : EvQueue := if d = 0xF0 then s.mcEv else (s.die d).ev

/-- Change an event queue. -/
def modEvQueue (s : State) (d : Nat) (f : EvQueue → EvQueue) : State :=
  if d = 0xF0 then { s with mcEv := f s.mcEv } else s.modDie d fun x => { x with ev := f x.ev }

/-- The first source from index `rr` on, round-robin, for which `f` holds: its index. -/
def nextSource (l : List Nat) (rr : Nat) (f : Nat → Bool) : Option Nat :=
  ((List.range l.length).map fun i => (rr + i) % l.length).find? fun i => f (l.getD i 0)

/-- The partitions whose evidence rings an event reaches (R389, R446, R545): the one it names, those that its payload lists, or every
bound one for the Lantern classes. -/
def evParts (s : State) (r : EvRec) : List Nat :=
  let listed := fun off => let m := leAt r.payload off 8; (List.range 64).filter (bitOf m)
  match r.part with
  | some p => [p]
  | none =>
    if r.cls = evDieRetired then listed 4
    else if r.cls = evChannelRetired then listed 2
    else if r.cls = evLanternUnlocked ∨ r.cls = evLanternLocked then (s.parts.filter fun q => q.2.fn.isSome).map Prod.fst
    else []

/-- The event record of a log record (R389, R470): a SUMMARY or OVERFLOW has bit 15 of its class set and carries its count. -/
def evRingRecord (p : Nat) (r : EvRec) : List Byte :=
  if r.kind = 0 then eventRecord r.cls p r.first r.payload
  else eventRecord (r.cls + 0x8000) p r.first (toLe 4 r.count ++ toLe 8 r.last ++ slice r.payload 0 4)

/-- A record enters the log (R468, R481): the next LOG_SEQ, the oldest of 4,096 overwritten, LOG_OVERFLOW records and the rate counted. -/
def logAppend (s : State) (r : EvRec) : State :=
  let l := s.log
  let sec := s.now / 1000000000
  let recs := l.recs ++ [(l.head, r)]
  let ovf := if r.cls = evLogOverflow then satAdd l.ovf 1 else l.ovf
  let rate := if sec = l.second then l.rate else if sec = l.second + 1 then l.secCount else 0
  { s with log := { l with
    recs := recs.drop (recs.length - 4096), head := (l.head + 1) % 2 ^ 32, ovf := ovf, second := sec, rate := rate
    secCount := if sec = l.second then l.secCount + 1 else 1 } }

/-- A record is taken: it enters the log and the evidence spools it reaches. -/
def logTake (s : State) (r : EvRec) : State := (evParts s r).foldl (fun s p => spoolAdd s p (evRingRecord p r)) (logAppend s r)

/-- The MC takes one record: from the summary areas first, then from the FIFOs, round-robin in each case (R468). -/
def logDrain (s : State) : State :=
  let l := evSources s
  match nextSource l s.log.rrSum fun d => !(evQueue s d).summary.isEmpty with
  | some i =>
    let d := l.getD i 0
    (match (evQueue s d).summary with
    | r :: rs =>
      let s := modEvQueue s d fun q => { q with summary := rs }
      logTake { s with log := { s.log with rrSum := (i + 1) % l.length } } r
    | [] => s)
  | none =>
    match nextSource l s.log.rrFifo fun d => !(evQueue s d).fifo.isEmpty with
    | some i =>
      let d := l.getD i 0
      (match (evQueue s d).fifo with
      | r :: rs =>
        let s := modEvQueue s d fun q => { q with fifo := rs }
        logTake { s with log := { s.log with rrFifo := (i + 1) % l.length } } r
      | [] => s)
    | none => s

/-- The records of an interval that ends at `now` (R469, R470): one LOG_OVERFLOW, and one SUMMARY per table entry. -/
def ivlRecords (d now : Nat) (q : EvQueue) : List EvRec :=
  let o : EvRec := { cls := evLogOverflow, kind := 2, die := d, block := 0x03, count := q.unattr, first := ((q.table.map EvRec.first).min?).getD now
                     last := q.lastAt, payload := pay [(8, now - 100000000), (4, q.table.length), (4, q.coalesced)] }
  o :: q.table

/-- The end of an interval of 100 ms (R469). -/
def endInterval (d now : Nat) (q : EvQueue) : EvQueue :=
  let stay := decide (1000 ≤ q.arrived) || q.high
  let level := decide (48 ≤ q.fifo.length)
  if !q.coalescing then { q with arrived := 0, high := level }
  else
    let q := if q.coalesced = 0 then q
      else { q with summary := q.summary ++ ivlRecords d now q, lostIvl := satAdd q.lostIvl 1 }
    { q with table := [], coalesced := 0, unattr := 0, arrived := 0, high := level, coalescing := stay }

/-! ### Messages of the module's own (R475 to R477) -/

/-- An owner may see a record (R425): an OPERATOR all, another those that name its partitions. -/
def seesRecord (s : State) (o : Nat) (r : EvRec) : Bool :=
  isOperator s o || (match r.part with | some p => partOwner s p == some o | none => false)

/-- Records from a serial number on; all that are held where it has been overwritten. -/
def recsFrom (s : State) (n : Nat) : List (Nat × EvRec) :=
  let l := s.log.recs
  let k := (n + 2 ^ 32 - (l.head?.map Prod.fst).getD n) % 2 ^ 32
  if k ≤ l.length then l.drop k else l

/-- The body of an EVENT message. -/
def eventBody (rs : List (Nat × EvRec)) : List Byte := (rs.map fun q => logBytes q.1 q.2).flatten

/-- The serial number after the records of a message. -/
def nextAfter (s : State) (rs : List (Nat × EvRec)) : Nat :=
  match rs.getLast? with
  | some q => (q.1 + 1) % 2 ^ 32
  | none => s.log.head

/-- Without an owner, records leave unsigned to ff02::1 on both management ports (R477). -/
def anonSend (s : State) : State :=
  let rs := (recsFrom s s.log.anonNext).take 21
  if rs.isEmpty then s
  else
    let l := s.log
    let msg := fun n => fleshaMsg s.serial none 1 0 n rs.length 0 0 (eventBody rs)
    let all := 0xFF02 * 2 ^ 112 + 1
    let s := (s.emit (.flesha 0 all s.cfg.module.udp (msg (l.anonSeq + 1)))).emit (.flesha 1 all s.cfg.module.udp (msg (l.anonSeq + 2)))
    { s with log := { l with anonSeq := l.anonSeq + 2, anonNext := nextAfter s rs } }

/-- The next EVENT message of a subscriber, of at most 21 records that its owner may see (R475). -/
def subSend (s : State) (i : Nat) (b : Sub) : State :=
  let rs := ((recsFrom s b.nextSeq).filter fun q => seesRecord s b.owner q.2).take 21
  let next := if rs.length < 21 then s.log.head else nextAfter s rs
  let s := { s with log := { s.log with subs := s.log.subs.modify i fun b => { b with nextSeq := next } } }
  if rs.isEmpty then s else fleshaSend s b.port b.addr b.udp b.owner 1 rs.length 0 0 (eventBody rs)

/-- The values of a telemetry message, read in list order (R476). -/
def telemetryValues (s : State) (o : Nat) : List Nat → State × List Byte
  | [] => (s, [])
  | a :: as =>
    let x := if readReach s o a then mgmtRead s (.flesha o) a else (s, 0)
    let y := telemetryValues x.1 o as
    (y.1, toLe 4 x.2 ++ y.2)

/-! ### Subscriptions (R475) -/

/-- A SUBSCRIBE body is well formed: a period from 10 to 6,000 where telemetry is asked for, and 0 to 64 addresses. -/
def subBodyOk (b : List Byte) : Bool :=
  let n := leAt b 4 4
  decide (8 ≤ b.length) && decide (n ≤ 64) && b.length == 8 + 4 * n && (byteAt b 1 == 0 || inRange 10 6000 (leAt b 2 2))

/-- Register or renew the subscriber at an address and UDP port; a seventeenth is refused. -/
def subscribe (s : State) (c : FlCmd) (r : Reply) : State :=
  let b := c.body
  let same := fun x : Sub => x.addr == r.addr && x.udp == r.udp
  let old := s.log.subs.find? same
  if !subBodyOk b then fleshaReply s r 0x0160 []
  else if old.isNone && decide (16 ≤ s.log.subs.length) then fleshaReply s r 0x0162 []
  else
    let x : Sub := { port := r.port, addr := r.addr, udp := r.udp, owner := c.owner, events := byteAt b 0 != 0, telemetry := byteAt b 1 != 0
                     period := leAt b 2 2, addrs := (List.range (leAt b 4 4)).map fun i => leAt b (8 + 4 * i) 4
                     expires := s.now + 60000000000, nextSeq := (old.map Sub.nextSeq).getD s.log.head }
    let subs := if old.isSome then s.log.subs.map fun y => if same y then x else y else s.log.subs ++ [x]
    fleshaReply { s with log := { s.log with subs := subs } } r 0 []

/-! ### Register access over Flesha (R474): address 4 B, count 2 B -/

/-- READ: an absent die or block reads 0, and the reply carries its status (R5, R28). -/
def fleshaReadRegs (s : State) (c : FlCmd) (r : Reply) : State :=
  let a := leAt c.body 0 4
  let n := leAt c.body 4 2
  if c.body.length != 6 || !inRange 1 256 n then fleshaReply s r 0x0160 []
  else if (List.range n).any fun i => !readReach s c.owner (a + 4 * i) then fleshaReply s r 0x0207 []
  else
    let x := mgmtReads s (.flesha c.owner) a n
    fleshaReply x.1 r (replyStatus s a n) (x.2.map (toLe 4)).flatten

/-- WRITE: refused whole where one of its registers is out of reach (R425); the reply names what a command register refuses. -/
def fleshaWriteRegs (s : State) (c : FlCmd) (r : Reply) : State :=
  let a := leAt c.body 0 4
  let n := leAt c.body 4 2
  let vs := (List.range n).map fun i => leAt c.body (6 + 4 * i) 4
  if !inRange 1 256 n || c.body.length != 6 + 4 * n then fleshaReply s r 0x0160 []
  else if (List.range n).any fun i => !writeReach s c.owner (a + 4 * i) (vs.getD i 0) then fleshaReply s r 0x0207 []
  else
    let st := replyStatus s a n
    fleshaReply (mgmtWrites s a vs) r (if st != 0 then st else writesStatus s a vs) []

/-! ### Data over Flesha (R474) -/

/-- Take as many received chunks as are whole, with fuel. -/
def takeChunks (stack : Nat) (tagOk : Bool) : Nat → State → State
  | 0, s => s
  | n + 1, s =>
    match engineHead s stack with
    | some j => if j.kind == .install && j.reply.isSome && !j.waiting && rxChunk s j then takeChunks stack tagOk n (installNext s j tagOk) else s
    | none => s

/-- IMAGE_DATA: bytes of a stored image in offset order. Without such an INSTALL the spec names no reason: a free one. -/
def imageData (s : State) (c : FlCmd) (r : Reply) (tagOk : Bool) : State :=
  let b := c.body
  let tag := leAt b 0 2
  let off := leAt b 8 8
  let mine := fun q : Nat × Nat × Nat × Nat => q.1 == c.owner && q.2.1 == tag
  if !inRange 17 1296 b.length then fleshaReply s r 0x0160 []
  else match s.log.installRx.find? mine with
    | none => let x := openReason s; fleshaReply x.1 r x.2 []
    | some q =>
      let got := q.2.2.1
      let n := if off = got then got + (b.length - 16) else got
      let s := { s with log := { s.log with installRx := s.log.installRx.map fun x => if mine x then (x.1, x.2.1, n, s.now) else x } }
      if got < off then fleshaReply s r 0x0163 []
      else
        let s := fleshaReply s r 0 (toLe 8 n)
        let job := fun e : ImgEngine => e.jobs.any fun j => j.kind == .install && j.tag == tag && (j.reply.map Reply.owner) == some c.owner
        match s.engines.find? fun e => job e.2 with
        | some e => takeChunks e.1 tagOk 2 s
        | none => s

/-- CFG_DATA (R400, R474): offset 8 B, FINAL 1 B, reserved 7 B, data. -/
def cfgData (s : State) (c : FlCmd) (r : Reply) : State :=
  let b := c.body
  if !inRange 17 1296 b.length then fleshaReply s r 0x0160 []
  else if !isOperator s c.owner then fleshaReply s r 0x0207 []
  else match writeData s (.flesha c.owner) (leAt b 0 8) (b.drop 16) with
    | (s, none) => fleshaReply s r 0x0163 []
    | (s, some n) =>
      if bitOf (byteAt b 8) 0 then (let w := writeFinal s; fleshaReply w.1 r w.2 (toLe 8 n)) else fleshaReply s r 0 (toLe 8 n)

/-! ### The sideband (R533) -/

/-- A sideband reply: the status byte and what follows it. -/
def sbReply (s : State) (iod status : Nat) (bs : List Byte) : State := s.emit (.sideband iod (BitVec.ofNat 8 status :: bs))

/-- A sideband is served by IOD0 and IOD3 in the 3V3_AUX domain. -/
def sbAlive (s : State) (iod : Nat) : Bool := (iod == 0 || iod == 3) && s.power.aux

/-- Serve a command on the active MC, else answer NOT_READY before the start and NOT_ACTIVE after it. -/
def sbServe (s : State) (iod : Nat) (f : State → State) : State :=
  if !sbAlive s iod then s
  else if !s.cfg.started then sbReply s iod 2 []
  else if mcActive s iod then f s
  else sbReply s iod 1 []

/-- SB_READ: address 4 B, count 1 B from 1 to 8. -/
def sbReadRegs (s : State) (iod : Nat) (b : List Byte) : State :=
  let n := byteAt b 4
  if b.length != 5 || !inRange 1 8 n then sbReply s iod 3 []
  else
    let x := mgmtReads s (.sideband iod) (leAt b 0 4) n
    sbReply x.1 iod (replyStatus s (leAt b 0 4) n) (x.2.map (toLe 4)).flatten

/-- SB_WRITE: address 4 B, count 1 B from 1 to 8, values. -/
def sbWriteRegs (s : State) (iod : Nat) (b : List Byte) : State :=
  let n := byteAt b 4
  if !inRange 1 8 n || b.length != 5 + 4 * n then sbReply s iod 3 []
  else sbReply (mgmtWrites s (leAt b 0 4) ((List.range n).map fun i => leAt b (5 + 4 * i) 4)) iod (replyStatus s (leAt b 0 4) n) []

/-- SB_CFG_DATA: offset 4 B, FINAL 1 B, 1 to 240 bytes. -/
def sbConfig (s : State) (iod : Nat) (b : List Byte) : State :=
  if !inRange 6 245 b.length then sbReply s iod 3 []
  else match writeData s (.sideband iod) (leAt b 0 4) (b.drop 5) with
    | (s, none) => sbReply s iod 3 []
    | (s, some n) =>
      if !bitOf (byteAt b 4) 0 then sbReply s iod 0 (toLe 4 n)
      else
        let w := writeFinal s
        sbReply w.1 iod (if w.2 = 0 then 0 else if w.2 = 0x0150 then 4 else 3) (toLe 4 n)

/-- SB_TIME: a time at or below the count is refused before the adoption (R415). -/
def sbTimeSet (s : State) (iod : Nat) (b : List Byte) : State :=
  let utc := leAt b 0 8
  if b.length != 8 || (!s.time.utc && decide (utc ≤ s.now)) then sbReply s iod 3 []
  else sbReply (adoptTime s utc) iod 0 []

end Sys2Proof.Machine
end

