-- ==== Sys2Proof/Machine/Flesha.lean ====
section
/-! DEFINITION. Flesha commands (R305, R415, R442, R473 to R475). -/

namespace Sys2Proof.Machine

/-- A Flesha COMMAND of opcode `op` arrives; accepted, `f` runs it. -/
def fleshaRun (s : State) (port addr udp op : Nat) (msg : List Byte) (f : State → FlCmd → Reply → State) : State :=
  match fleshaIn s port addr udp op msg with
  | (s, none) => s
  | (s, some (c, r)) => f s c r

/-- FLESHA_SUBSCRIBE (R473, R475). -/
def execFleshaSubscribe (port addr udp : Nat) (msg : List Byte) (now : Nat) (s : State) : Out :=
  guarded (instrWellFormed (.fleshaSubscribe port addr udp msg now)) (fleshaRun (s.setNow now) port addr udp 0x0001 msg subscribe)

/-- FLESHA_READ (R425, R474). -/
def execFleshaRead (port addr udp : Nat) (msg : List Byte) (now : Nat) (s : State) : Out :=
  guarded (instrWellFormed (.fleshaRead port addr udp msg now)) (fleshaRun (s.setNow now) port addr udp 0x0002 msg fleshaReadRegs)

/-- FLESHA_WRITE (R425, R474). -/
def execFleshaWrite (port addr udp : Nat) (msg : List Byte) (now : Nat) (s : State) : Out :=
  guarded (instrWellFormed (.fleshaWrite port addr udp msg now)) (fleshaRun (s.setNow now) port addr udp 0x0003 msg fleshaWriteRegs)

/-- FLESHA_IMAGE_DATA (R334, R474): `tagOk` says whether the authentication tag of a chunk that this data completes verifies. -/
def execFleshaImageData (port addr udp : Nat) (msg : List Byte) (tagOk : Bool) (now : Nat) (s : State) : Out :=
  guarded (instrWellFormed (.fleshaImageData port addr udp msg tagOk now))
    (fleshaRun (s.setNow now) port addr udp 0x0011 msg fun s c r => imageData s c r tagOk)

/-- FLESHA_CFG_DATA (R400, R474). -/
def execFleshaCfgData (port addr udp : Nat) (msg : List Byte) (now : Nat) (s : State) : Out :=
  guarded (instrWellFormed (.fleshaCfgData port addr udp msg now)) (fleshaRun (s.setNow now) port addr udp 0x0021 msg cfgData)

/-- TIME from an OPERATOR owner; a first time of day that is not above the count is refused, with a free reason (R415). -/
def fleshaTimeSet (s : State) (c : FlCmd) (r : Reply) : State :=
  let utc := leAt c.body 0 8
  if c.body.length != 8 then fleshaReply s r 0x0160 []
  else if !isOperator s c.owner then fleshaReply s r 0x0207 []
  else if !s.time.utc && decide (utc ≤ s.now) then (let x := openReason s; fleshaReply x.1 r x.2 [])
  else fleshaReply (adoptTime s utc) r 0 []

/-- FLESHA_TIME (R415). -/
def execFleshaTime (port addr udp : Nat) (msg : List Byte) (now : Nat) (s : State) : Out :=
  guarded (instrWellFormed (.fleshaTime port addr udp msg now)) (fleshaRun (s.setNow now) port addr udp 0x0030 msg fleshaTimeSet)

/-- RESYNC from an OPERATOR owner: IOD 1 B, channel 1 B. -/
def fleshaResyncRun (s : State) (c : FlCmd) (r : Reply) : State :=
  let iod := byteAt c.body 0
  if c.body.length != 2 || !iodFitted s.variant iod then fleshaReply s r 0x0160 []
  else if !isOperator s c.owner then fleshaReply s r 0x0207 []
  else fleshaReply (resyncChannel s iod (byteAt c.body 1)) r 0 []

/-- FLESHA_RESYNC (R305). -/
def execFleshaResync (port addr udp : Nat) (msg : List Byte) (now : Nat) (s : State) : Out :=
  guarded (instrWellFormed (.fleshaResync port addr udp msg now)) (fleshaRun (s.setNow now) port addr udp 0x0031 msg fleshaResyncRun)

/-- FAILOVER from an OPERATOR owner: the new active MC answers, through its own port. With no standby ready there is none to take over,
and the reason is free. -/
def fleshaFailoverRun (s : State) (c : FlCmd) (r : Reply) : State :=
  if !c.body.isEmpty then fleshaReply s r 0x0160 []
  else if !isOperator s c.owner then fleshaReply s r 0x0207 []
  else if !s.cfg.standbyReady then (let x := openReason s; fleshaReply x.1 r x.2 [])
  else
    let s := failover s
    fleshaReply s { r with port := b2n s.cfg.active3 } 0 []

/-- FLESHA_FAILOVER (R442, R474). -/
def execFleshaFailover (port addr udp : Nat) (msg : List Byte) (now : Nat) (s : State) : Out :=
  guarded (instrWellFormed (.fleshaFailover port addr udp msg now)) (fleshaRun (s.setNow now) port addr udp 0x0041 msg fleshaFailoverRun)

/-- LOG_READ: first LOG_SEQ 4 B, count 2 B from 1 to 21; the records held that the owner may see. -/
def fleshaLog (s : State) (c : FlCmd) (r : Reply) : State :=
  let first := leAt c.body 0 4
  let n := leAt c.body 4 2
  if c.body.length != 6 || !inRange 1 21 n then fleshaReply s r 0x0160 []
  else
    let seqs := (List.range n).map fun i => (first + i) % 2 ^ 32
    fleshaReply s r 0 (eventBody (s.log.recs.filter fun q => seqs.contains q.1 && seesRecord s c.owner q.2))

/-- FLESHA_LOG_READ (R425, R474). -/
def execFleshaLogRead (port addr udp : Nat) (msg : List Byte) (now : Nat) (s : State) : Out :=
  guarded (instrWellFormed (.fleshaLogRead port addr udp msg now)) (fleshaRun (s.setNow now) port addr udp 0x0050 msg fleshaLog)

end Sys2Proof.Machine
end

