-- ==== Sys2Proof/Machine/Lantern.lean ====
section
/-! DEFINITION. Lantern commands (R534 to R540). -/

namespace Sys2Proof.Machine

/-- The body of a DEBUG_UNLOCK (R535): ACTION 1 or 2, reserved bytes 0, and a DURATION of its action. -/
def unlockBodyOk (b : List Byte) : Bool :=
  b.length == 8 && zeroBytes b 1 4 &&
    ((byteAt b 0 == 1 && decide (leAt b 4 4 ≤ 604800)) || (byteAt b 0 == 2 && leAt b 4 4 == 0))

/-- A DEBUG_UNLOCK with action `act` (R535), from an OPERATOR owner; a well-formed message of the other action is not for this row. -/
def debugUnlock (s : State) (port addr udp act : Nat) (msg : List Byte) : State :=
  let body := slice msg 32 (leAt msg 28 2)
  if leAt msg 24 2 == 0x0040 && unlockBodyOk body && byteAt body 0 != act then s
  else fleshaRun s port addr udp 0x0040 msg fun s c r =>
    if !unlockBodyOk c.body then fleshaReply s r 0x0160 []
    else if !isOperator s c.owner then fleshaReply s r 0x0207 []
    else if act = 1 then fleshaReply (lanternUnlock s c.owner (leAt c.body 4 4)) r 0 []
    else fleshaReply (lanternLock s 0) r 0 []

/-- FLESHA_DEBUG_UNLOCK (R535, R536). -/
def execFleshaDebugUnlock (port addr udp : Nat) (msg : List Byte) (now : Nat) (s : State) : Out :=
  guarded (instrWellFormed (.fleshaDebugUnlock port addr udp msg now)) (debugUnlock (s.setNow now) port addr udp 1 msg)

/-- FLESHA_DEBUG_LOCK (R535). -/
def execFleshaDebugLock (port addr udp : Nat) (msg : List Byte) (now : Nat) (s : State) : Out :=
  guarded (instrWellFormed (.fleshaDebugLock port addr udp msg now)) (debugUnlock (s.setNow now) port addr udp 2 msg)

/-- LANTERN_EXPIRY (R535): DURATION has ended. -/
def execLanternExpiry (now : Nat) (s : State) : Out :=
  guarded (instrWellFormed (.lanternExpiry now))
    (let s := s.setNow now
     if s.lantern.unlocked && !s.lantern.indefinite && decide (s.lantern.until_ ≤ s.now) then lanternLock s 1 else s)

/-- LTN_LOCK (R535, R539): a write of 1 locks now. -/
def execLtnLock (req : Requester) (value now : Nat) (s : State) : Out :=
  guarded (instrWellFormed (.ltnLock req value now))
    (let s := s.setNow now
     if mcReach s req && operatorReach s req && bitOf value 0 then lanternLock s 0 else s)

/-- The address is a Lantern selector: LN_SEL or LN_IDX of a die, or LTN_ROUTE. -/
def isLanternSel (s : State) (a : Nat) : Bool :=
  addrStatus s a == 0 && (if addrDie a = 0xF0 then addrBlock a == 7 && inRange 0x0010 0x0034 (addrOff a) else addrBlock a == 2 && decide (addrOff a < 80))

/-- LANTERN_SEL_WRITE (R534, R538, R539, R540). -/
def execLanternSelWrite (req : Requester) (addr value : Nat) (s : State) : Out :=
  guarded (instrWellFormed (.lanternSelWrite req addr value)) (if isLanternSel s addr then regWrite s req addr value 15 else s)

end Sys2Proof.Machine
end

