-- ==== Sys2Proof/Machine/Log.lean ====
section
/-! DEFINITION. Commands of the module log and of Flesha messages that the module sends (R468 to R477). -/

namespace Sys2Proof.Machine

/-- LOG_DRAIN (R468): the MC takes one record. -/
def execLogDrain (s : State) : Out :=
  guarded (instrWellFormed .logDrain) (if s.cfg.started then logDrain s else s)

/-- COALESCE_INTERVAL_END (R469): at a multiple of 100 ms of module time. -/
def execCoalesceIntervalEnd (die now : Nat) (s : State) : Out :=
  guarded (instrWellFormed (.coalesceIntervalEnd die now))
    (let s := s.setNow now
     if s.now % 100000000 != 0 then s else modEvQueue s die (endInterval die s.now))

/-- FLESHA_EVENT_SEND (R475, R477): the next EVENT message to subscriber `sub`, or to everyone while no owner exists. -/
def execFleshaEventSend (sub : Nat) (s : State) : Out :=
  guarded (instrWellFormed (.fleshaEventSend sub))
    (if !s.cfg.started then s
     else if s.cfg.owners.isEmpty then anonSend s
     else match s.log.subs[sub]? with
       | some b => if b.events && fleshaServed s b.port then subSend s sub b else s
       | none => s)

/-- TELEMETRY_SEND (R476): a period of subscriber `sub` ends; the body holds the module time and the values of its list. -/
def execTelemetrySend (sub now : Nat) (s : State) : Out :=
  guarded (instrWellFormed (.telemetrySend sub now))
    (let s := s.setNow now
     match s.log.subs[sub]? with
     | some b =>
       if !b.telemetry || !fleshaServed s b.port then s
       else
         let x := telemetryValues s b.owner b.addrs
         fleshaSend x.1 b.port b.addr b.udp b.owner 2 0 0 0 (toLe 8 s.now ++ x.2)
     | none => s)

/-- SUBSCRIPTION_LAPSE (R475): 60 s after the last SUBSCRIBE. -/
def execSubscriptionLapse (sub now : Nat) (s : State) : Out :=
  guarded (instrWellFormed (.subscriptionLapse sub now))
    (let s := s.setNow now
     match s.log.subs[sub]? with
     | some b => if b.expires ≤ s.now then { s with log := { s.log with subs := s.log.subs.eraseIdx sub } } else s
     | none => s)

end Sys2Proof.Machine
end

