-- ==== Sys2Proof/Machine/Regs.lean ====
section
/-! DEFINITION. Register accesses (R5, R13 to R16, R28, R370): reads of read-clear fields, reads of low words, and writes. -/

namespace Sys2Proof.Machine

/-- RC_READ (R13): the value is returned, then the field is cleared. -/
def execRcRead (req : Requester) (addr : Nat) (s : State) : Out :=
  guarded (instrWellFormed (.rcRead req addr)) (regRead s req addr)

/-- LOW_WORD_READ (R16): the high word is latched for the requester. -/
def execLowWordRead (req : Requester) (addr : Nat) (s : State) : Out :=
  guarded (instrWellFormed (.lowWordRead req addr)) (regRead s req addr)

/-- REG_WRITE (R13, R14, R370). -/
def execRegWrite (req : Requester) (addr value be : Nat) (s : State) : Out :=
  guarded (instrWellFormed (.regWrite req addr value be)) (regWrite s req addr value be)

end Sys2Proof.Machine
end

