-- ==== Sys2Proof/Machine/Sequencer.lean ====
section
/-! DEFINITION. The tile sequencer's own instructions, scratchpad moves, pulls and context switches (R179 to R199, R169 to
R172, R265, R424). -/

namespace Sys2Proof.Machine

/-- NOP (R181). -/
def execNop (t c : Nat) (s : State) : Out :=
  guarded (instrWellFormed (.nop t c)) (issue s t c { op := 0x00 } [] fun _ => s)

/-- LOOP (R181): the body of `body` instructions that follows runs `count` times, nested up to 4 deep; a deeper nest is no
legal schedule (SCHEDULE_INVALID) and starts no loop. -/
def execLoop (t c count body : Nat) (s : State) : Out :=
  guarded (instrWellFormed (.loop t c count body)) (issue s t c { op := 0x01, a := count - 1, b := body } [] fun k =>
    if body = 0 ∨ count = 0 ∨ 65536 < count ∨ 4 ≤ k.loops.length then s
    else modCtx s t c fun k => { k with loops := (k.pc + 1, k.pc + 1 + body, count - 1) :: k.loops })

/-- JUMP (R181, R329): the signed offset counts from the JUMP itself (log entry 21). Loops that the target leaves end. -/
def execJump (t c : Nat) (offset : Int) (s : State) : Out :=
  guarded (instrWellFormed (.jump t c offset))
    (if issues s t c { op := 0x02, b := if -2 ^ 31 ≤ offset ∧ offset < 2 ^ 31 then (offset % 2 ^ 32).toNat else 2 ^ 32 } [] then
      let k := ctxOf s t c
      let pc := ((k.pc : Int) + offset).toNat
      goTo (modCtx s t c fun k => { k with loops := k.loops.filter fun l => decide (l.1 ≤ pc) && decide (pc < l.2.1) }) t c pc
    else s)

/-- STEP_END (R181): the step-resolved notice leaves for the lead tile, where STEP_RESOLVED takes it; the context has reached
the end of a layer step. -/
def execStepEnd (t c layer matrix : Nat) (s : State) : Out :=
  guarded (instrWellFormed (.stepEnd t c layer matrix))
    (issue s t c { op := 0x03, a := layer, b := matrix } [] fun k =>
      let s := match k.pass with
        | some id => modPass s (ctxPart k) id fun x => { x with notices := x.notices ++ [(layer, matrix, k.gen, t)] }
        | none => s
      modCtx s t c fun k => { k with layer := layer, place := 0 })

/-- WAIT_ARR (R190): complete at once where the counter has reached `k`, else wait. -/
def execWaitArr (t c ctr k : Nat) (s : State) : Out :=
  guarded (instrWellFormed (.waitArr t c ctr k))
    (if !issues s t c { op := 0x08, a := ctr, b := k } [] || k = 0 || decide (65535 < k) then s
    else if k ≤ tget 0 (ctxOf s t c).arr ctr then goTo (takeArr s t c ctr k) t c ((ctxOf s t c).pc + 1)
    else modCtx s t c fun x => { x with wait := some (ctr, k) })

/-- A waiting WAIT_ARR finds its counter at or above `k` and resumes (R190), unless a switch takes the boundary (R170). -/
def execWaitArrResume (t c : Nat) (s : State) : Out :=
  guarded (instrWellFormed (.waitArrResume t c))
    (match (ctxOf s t c).wait with
    | some (ctr, k) =>
      if (s.tile t).running == some c && !(s.tile t).fenced && !(s.tile t).switchPending && decide (k ≤ tget 0 (ctxOf s t c).arr ctr) then
        goTo (takeArr s t c ctr k) t c ((ctxOf s t c).pc + 1)
      else s
    | none => s)

/-- Resolve a partition-relative tile of a context and the context of its image there. -/
def remote (s : State) (k : Ctx) (c rel : Nat) : Option (Nat × Nat) :=
  (absTile s (ctxPart k) rel).bind fun dt => (destCtx s (ctxPart k) k.slot dt c).map fun dc => (dt, dc)

/-- SIGNAL (R181): raise a counter on another tile of the partition, with no data. -/
def execSignal (t c ctr target : Nat) (s : State) : Out :=
  guarded (instrWellFormed (.signal t c ctr target)) (issue s t c { op := 0x09, a := ctr, b := target } [] fun k =>
    match remote s k c target with
    | some (dt, dc) => launch s t k dt dc (some ctr) .signal 8 none
    | none => accessFault s t c target 0 1)

/-- PUT (R181, R192, R195): read the local slot and send its rows to a slot of another tile. A remote slot that cannot take them all is an
access outside the rows that its schedule has for them (R185): nothing is sent. -/
def execPut (t c slot tile rslot ctr e1 e2 : Nat) (s : State) : Out :=
  guarded (instrWellFormed (.put t c slot tile rslot ctr e1 e2))
    (issue s t c { op := 0x12, e1 := e1, e2 := e2, a := slot, b := tile, c := rslot, d := ctr } [slotRes (ctxOf s t c) slot] fun k =>
      match remote s k c tile with
      | none => accessFault s t c slot 0 1
      | some (dt, dc) =>
        let n := slotRows s t c slot
        match slotFor (ctxOf s dt dc) rslot n with
        | none => accessFault s t c rslot 0 1
        | some d =>
          match slotRead s t c slot 0 n e1 with
          | (s, none) => s
          | (s, some (bs, bad)) =>
            let s := engineBusy s t c .transfer []
            launch s t k dt dc (ctrOf ctr) (.rows ((toRows bs).map fun b => (b, bad)) d.base true d.readers e2) (64 * n) none)

/-- PULL (R195, R196): ask the source tile for a registered slot. A reader with no free destination slot does not issue. -/
def execPull (t c slot tile rslot ctr e1 e2 : Nat) (release : Bool) (s : State) : Out :=
  guarded (instrWellFormed (.pull t c slot tile rslot ctr e1 e2 release))
    (let k := ctxOf s t c
     let busy := match slotDecl k slot with
       | some d => (List.range d.rows).any fun i => (rowOf (s.tile t) (d.base + i)).full
       | none => false
     if busy then s
     else issue s t c { op := 0x13, e1 := e1, e2 := e2, a := slot, b := tile, c := rslot, d := modeD ctr (b2n release) }
        [slotRes k slot] fun k =>
      match remote s k c tile, slotDecl k slot with
      | some (st, _), some _ =>
        let r : PullReq := { id := s.nextXfer, part := ctxPart k, tag := (s.part (ctxPart k)).tag, srcSlot := rslot, epoch := e2
                             release := release, dstTile := t, dstCtx := c, dstSlot := slot, dstEpoch := e1, ctr := ctr
                             pass := k.pass.getD 0, gen := k.gen }
        let s := engineBusy s t c .transfer []
        ({ s with nextXfer := s.nextXfer + 1 }).modTile st fun x => { x with pulls := x.pulls ++ [r] }
      | _, _ => accessFault s t c slot 0 0)

/-- The PULL request `req` is served at its source station (R196, R197): the rows are read under R192 without release, and
travel to the reader with the release to send back. `coll` accesses coincided (R194). -/
def execPullServe (t req : Nat) (merged : Bool) (coll : Nat) (s : State) : Out :=
  guarded (instrWellFormed (.pullServe t req merged coll))
    (match (s.tile t).pulls.find? fun r => r.id == req with
    | none => s
    | some r =>
      let s := s.modTile t fun x => { x with
        pulls := x.pulls.filter fun q => q.id != req
        pullCnt := wrapAdd x.pullCnt 1
        pullMergeCnt := if merged then wrapAdd x.pullMergeCnt 1 else x.pullMergeCnt
        arbCollideCnt := wrapAdd x.arbCollideCnt coll }
      if r.tag ≠ (s.part r.part).tag then s
      else
        let k := ctxOf s r.dstTile r.dstCtx
        match (destCtx s r.part k.slot t r.dstCtx).bind fun sc => slotDecl (ctxOf s t sc) r.srcSlot with
        | none => schedFault s t r.part k.slot (some r.pass) r.srcSlot 0 0
        | some d =>
          match slotFor k r.dstSlot d.rows with
          | none =>
            let s := s.modTile r.dstTile fun x => { x with accessFaultCnt := satAdd x.accessFaultCnt 1 }
            schedFault s r.dstTile r.part k.slot (some r.pass) r.dstSlot 0 1
          | some dd =>
            let idx := (List.range d.rows).map (d.base + ·)
            match idx.find? fun q => !rowReads (rowOf (s.tile t) q) r.epoch with
            | some q => schedFault s t r.part k.slot (some r.pass) r.srcSlot q 0
            | none =>
              let rs := idx.map fun q => let x := rowOf (s.tile t) q; (rowBytes x, x.poison)
              launch s t { k with pass := some r.pass, gen := r.gen } r.dstTile r.dstCtx (ctrOf r.ctr)
                (.rows rs dd.base true dd.readers r.dstEpoch) (64 * rs.length)
                (if r.release then some { part := r.part, tile := t, base := d.base, rows := d.rows, epoch := r.epoch } else none))

/-- A reader's release reaches the source (R192, R196): each row that is FULL under the epoch loses one reader, and is free at
0. A release that no reader has sent does not arrive. -/
def execReleaseArrive (t slotBase rows epoch : Nat) (s : State) : Out :=
  guarded (instrWellFormed (.releaseArrive t slotBase rows epoch))
    (match s.releases.find? fun r => r.tile == t && r.base == slotBase && r.rows == rows && r.epoch == epoch with
    | none => s
    | some r =>
      ({ s with releases := s.releases.erase r }).modTile t fun x => { x with rows := (List.range rows).foldl (fun rs i =>
        let r : Row := tget {} rs (slotBase + i)
        if rowReads r epoch then tset {} rs (slotBase + i) (rowRelease r) else rs) x.rows })

/-- The constant of a FILL as its instruction holds it (R329): the width code lies in bits [25:24] of the high word (log entry 199). -/
def fillConst (value width : Nat) : Nat := value % 2 ^ 56 + 2 ^ 56 * (width % 4) + 2 ^ 58 * fld value 58 6

/-- The constant replicated little-endian across a row (R186). Width codes 0 to 3: 8, 16, 32, 64 bits. -/
def fillRow (value width : Nat) : List Byte :=
  let n := 2 ^ (width % 4)
  ((List.replicate (64 / n) (toLe n (fillConst value width))).flatten)

/-- A plain row write of the context: outside its ranges it is suppressed and faults (R185). -/
def plainWrite (s : State) (t c r : Nat) (bs : List Byte) (poison : Bool) : State :=
  if ownsRow (ctxOf s t c) r then
    s.modTile t fun x =>
      let row := { rowOf x r with data := mkData bs, poison := poison, suspect := false }
      { x with rows := tset {} x.rows r row }
  else accessFault s t c (slotIdx (ctxOf s t c) r) r 1

/-- One row of a FILL (R186): under the slot rules where a slot holds the row. -/
def fillOne (s : State) (t c r epoch : Nat) (bs : List Byte) : State :=
  match slotAt (ctxOf s t c) r with
  | some (n, d) => slotWriteRow s t c n r epoch d.readers bs false
  | none => plainWrite s t c r bs false

/-- FILL of rows from `r` on. -/
def fillRows (s : State) (t c epoch : Nat) (bs : List Byte) : Nat → Nat → State
  | _, 0 => s
  | r, n + 1 => fillRows (fillOne s t c r epoch bs) t c epoch bs (r + 1) n

/-- FILL (R186). More than 4,096 rows is no legal instruction (R181) and is not run. -/
def execFill (t c rows first value width epoch : Nat) (s : State) : Out :=
  guarded (instrWellFormed (.fill t c rows first value width epoch))
    (let v := fillConst value width
     if rows = 0 ∨ 4096 < rows then s
     else issue s t c { op := 0x18, e1 := epoch, a := rows, b := first, c := v % 2 ^ 32, d := v / 2 ^ 32 } [.rows first rows] fun _ =>
      fillRows s t c epoch (fillRow value width) first rows)

/-- One row of a COPY, from the rows of `x` as they were before it (R187). -/
def copyRow (k : Ctx) (x : Tile) (src dst e2 : Nat) (rs : Tab Row) (i : Nat) : Tab Row :=
  let r := rowOf x (src + i)
  match slotAt k (dst + i) with
  | some (_, d) => tset {} rs (dst + i) (rowWrite (rowBytes r) e2 d.readers r.poison)
  | none =>
    let old := rowOf x (dst + i)
    tset {} rs (dst + i) { old with data := r.data, poison := r.poison, suspect := false }

/-- COPY (R187): moves `rows` rows; any row that a check suppresses suppresses the whole COPY. -/
def execCopy (t c rows src dst e1 e2 : Nat) (s : State) : Out :=
  guarded (instrWellFormed (.copy t c rows src dst e1 e2))
    (if rows = 0 ∨ 4096 < rows then s
    else issue s t c { op := 0x19, e1 := e1, e2 := e2, a := rows, b := src, c := dst } [.rows src rows, .rows dst rows] fun k =>
      let x := s.tile t
      let idx := List.range rows
      let badSrc := fun r => !ownsRow k r || ((slotAt k r).isSome && !rowReads (rowOf x r) e1)
      let badDst := fun r => !ownsRow k r || ((slotAt k r).isSome && (rowOf x r).full)
      match idx.find? fun i => badSrc (src + i) with
      | some i => slotFault s t c (slotIdx k (src + i)) (src + i) 0
      | none =>
        match idx.find? fun i => badDst (dst + i) with
        | some i => slotFault s t c (slotIdx k (dst + i)) (dst + i) 1
        | none =>
          let bad := idx.any fun i => (rowOf x (src + i)).poison
          let s := if bad then poisonPass s (ctxPart k) k.pass reasonPassFailed else s
          s.modTile t fun y => { y with rows := idx.foldl (copyRow k x src dst e2) y.rows })

/-- A word of the save area as a switch writes it (R169): the CE cells in Basin format, what the vector, moments and rank units hold, and the
context words. -/
def saveWord (x : Tile) (k : Ctx) (w : Nat) : Nat :=
  if w < 1024 then basinBits (tget {} x.cells w)
  else if w < 1441 then tget 0 x.units w
  else if w < 1449 then ctxSaved k w
  else 0

/-- The rows of the save area as a switch writes them: four words to a row. -/
def saveArea (x : Tile) (k : Ctx) (rs : Tab Row) : Tab Row :=
  match k.sched with
  | none => rs
  | some d => (List.range 363).foldl (fun rs i =>
      let o := tget {} rs (d.saveRow + i)
      let row : Row := { o with data := mkData ((List.range 4).map fun j => toLe 16 (saveWord x k (4 * i + j))).flatten }
      tset {} rs (d.saveRow + i) row) rs

/-- Save the outgoing context (R169). The save area is written; what a cell's contributions differ by from the reference (R124) stays in
`Ctx.cells`, since no word has a place for it. -/
def saveCtx (x : Tile) : Tile :=
  match x.running with
  | some o =>
    { x with
      rows := saveArea x (tget {} x.ctxs o) x.rows
      ctxs := tmod {} x.ctxs o fun k => { k with cells := x.cells }
      cells := [], units := [], ctxSaveCnt := wrapAdd x.ctxSaveCnt 1 }
  | none => x

/-- The CE cells that a save area holds (R149, R169). -/
def savedCells (x : Tile) (k : Ctx) : Tab LaWord :=
  (List.range 1024).foldl (fun cs w => tset {} cs w (basinWord (savedBits x k w) (tget {} k.cells w).err)) []

/-- What a save area holds of the vector, moments and rank units. -/
def savedUnits (x : Tile) (k : Ctx) : Tab Nat :=
  (List.range 417).foldl (fun us i => tset 0 us (1024 + i) (savedBits x k (1024 + i))) []

/-- Restore the incoming context (R169, R171) from its save area: words listed in `poisoned` come back with POISON set, those of the CE cells
in the word. -/
def restoreCtx (x : Tile) (c corrected : Nat) (poisoned : List Nat) : Tile :=
  let k := tget {} x.ctxs c
  { x with
    cells := (poisoned.filter fun w => decide (w < 1024)).foldl (fun cs w => tmod {} cs w fun v => { v with poison := true }) (savedCells x k)
    units := savedUnits x k
    ctxs := tset {} x.ctxs c { k with cells := [] }
    running := some c, switchPending := false, switching := false, switchTarget := none
    ctxRestoreCnt := wrapAdd x.ctxRestoreCnt 1
    ctxFixCnt := satAdd x.ctxFixCnt corrected
    ctxPoisonCnt := satAdd x.ctxPoisonCnt poisoned.length }

/-- Checks already taken for the running schedule are queued (R170). -/
def checksQueued (x : Tile) : Bool :=
  match x.running.map fun o => tget {} x.ctxs o with
  | some o => x.checks.any fun q => o.part == some q.part && o.slot == q.slot
  | none => false

/-- An instruction of the running schedule is being repeated after a residue mismatch (R454, R478). -/
def repeatRuns (x : Tile) : Bool := x.residuePending.any fun q => x.inFlight.any fun f => f.id == q.2.2 && x.running == some f.ctx

/-- The switch of a tile to context `c` (R170): it waits while a combine or a residue repeat runs or a check taken for the outgoing schedule
is queued, and the outgoing schedule then issues nothing more and takes no new sample. -/
def switchTo (s : State) (t c corrected : Nat) (poisoned : List Nat) : State :=
  let x := s.tile t
  let k := ctxOf s t c
  if x.fenced || (s.part (ctxPart k)).state != .running || k.part.isNone || x.running == some c then s
  else if x.combining || checksQueued x || repeatRuns x then
    s.modTile t fun x => { x with switchPending := true, switching := true, switchTarget := some c }
  else
    let s := s.modTile t fun x => restoreCtx (saveCtx x) c corrected poisoned
    if poisoned.isEmpty then s
    else
      let s := poisonPass s (ctxPart k) k.pass reasonPassFailed
      reportTile s t evCtxRestorePoison k.part [(1, ctxPart k), (1, t % 32), (4, poisoned.length)]

/-- CONTEXT_SWITCH (R170, R424). -/
def execContextSwitch (t c corrected : Nat) (poisoned : List Nat) (now : Nat) (s : State) : Out :=
  guarded (instrWellFormed (.contextSwitch t c corrected poisoned now)) (switchTo (s.setNow now) t c corrected poisoned)

/-- The class of the pass a context serves. -/
def ctxClass (s : State) (k : Ctx) : Option Nat :=
  k.pass.bind fun id => (findPass s (ctxPart k) id).map Pass.cls

/-- PREEMPT (R265): with PREEMPT = 1, a class-0 pass takes the tile from a context that serves a class-2 or class-3 pass. -/
def execPreempt (t c corrected : Nat) (poisoned : List Nat) (now : Nat) (s : State) : Out :=
  guarded (instrWellFormed (.preempt t c corrected poisoned now))
    (let s := s.setNow now
     let k := ctxOf s t c
     let out := (s.tile t).running.map (ctxOf s t)
     let low := match out.bind (ctxClass s) with | some q => decide (2 ≤ q) | none => false
     if (s.part (ctxPart k)).serv.preempt && ctxClass s k == some 0 && low then switchTo s t c corrected poisoned else s)

end Sys2Proof.Machine
end

