-- ==== Sys2Proof/Machine/Serving.lean ====
section
/-! DEFINITION. Opening passes and following their steps (R123 to R132, R156, R263, R275, R380): PASS_OPEN, PROMPT_READ,
MATRIX_OUTPUT_COMPLETE, CHECK_DONE, TROUBLE_NOTICE and STEP_RESOLVED. -/

namespace Sys2Proof.Machine

/-- PASS_OPEN (R263, R264): late heads are dropped, then the pass that R264 chooses opens, below PASS_LIMIT and while the
partition runs. -/
def execPassOpen (p now : Nat) (s : State) : Out :=
  guarded (instrWellFormed (.passOpen p now))
    (let s := s.setNow now
     let q := s.part p
     if q.state != .running || decide (q.serv.passLimit ≤ q.passes.length) then s
     else
      let s := (partEntries s p).foldl (fun s e => pruneHead s p e.1) s
      match chooseOpen s p with
      | none => s
      | some r => doOpen s p r)

/-- PROMPT_READ (R380): the prompt of the DECODE item at the head is read once. A failed read ends the item with 0x0323, a token
outside the vocabulary with 0x0322. -/
def execPromptRead (p entry : Nat) (words : Option (List Nat)) (now : Nat) (s : State) : Out :=
  guarded (instrWellFormed (.promptRead p entry words now))
    (let s := s.setNow now
     let x := s.entry entry
     match headItem x with
     | none => s
     | some i =>
      match i.prompt, i.host with
      | some (addr, n), some h =>
        if !ownsEntry s p entry || !fnIssues s h.fn then s
        else
          let s := s.emit (.hostRead h.fn addr (4 * n))
          let vocab := ((planOf s p x.slot).map Plain.vocab).getD 0
          (match words with
          | none => removeItem s p entry i.id 0x0323
          | some ws =>
            let ts := (ws.take n).map fun w => w % 2 ^ 18
            if ts.any fun t => decide (vocab ≤ t) then removeItem s p entry i.id 0x0322
            else modItem s entry i.id fun i => { i with prompt := none, left := ts })
      | _, _ => s)

/-! ### Outputs (R126, R127, R156) -/

/-- The context of a tile that serves a pass. -/
def servingCtx (s : State) (p pass t : Nat) : Option Nat :=
  ((s.tile t).ctxs.find? fun q => q.2.part == some p && q.2.pass == some pass).map Prod.fst

/-- Put `v` at index `i` of a list of scores, filling with the produced NaN. -/
def putScore : Nat → Nat → List Nat → List Nat
  | 0, v, [] => [v]
  | 0, v, _ :: xs => v :: xs
  | i + 1, v, [] => 0x7FC00000 :: putScore i v []
  | i + 1, v, x :: xs => x :: putScore i v xs

/-- The better of a held top-1 and a candidate (R275): ties go to the lower token. -/
def betterTop (a : Option (Nat × Nat)) (tok code : Nat) : Option (Nat × Nat) :=
  match a with
  | none => some (tok, code)
  | some (t, c) => if rankBefore 0 false (code, tok) (c, t) then some (tok, code) else a

/-- What a head layer's outputs give the pass (R184): scores of HEAD_SCORE, the running top-1 of HEAD_LM. -/
def headOutputs (l : Layer) (outTile : Nat) (vs : List Nat) (x : Pass) : Pass :=
  let q := (List.range vs.length).zip vs
  if l.typ = 0x09 then
    q.foldl (fun x v =>
      let c := if l.sigmoid then encFP32 (valSigmoid (decFP32 v.2)) else v.2
      { x with scores := putScore (32 * outTile + v.1) c x.scores }) x
  else if l.typ = 0x0A then
    q.foldl (fun x v => { x with top := betterTop x.top (32 * outTile + v.1) v.2 }) x
  else x

/-- Drop the fine counts kept for an output tile of a step (R115). -/
def dropKept (s : State) (p pass layer matrix outTile gen : Nat) : State :=
  let f := fun k : Kept => k.part == p && k.pass == pass && k.layer == layer && k.matrix == matrix && k.outTile == outTile &&
    k.gen == gen
  (s.part p).tiles.foldl (fun s t => s.modTile t (forgetTile f)) s

/-- A tile takes no sample now: its check queue of four is full (R126), or a switch away from the schedule that runs is pending (R170). -/
def noSample (x : Tile) : Bool := decide (4 ≤ x.checks.length) || x.switchPending

/-- Take or skip the sample of a complete output tile (R126); a forced check waits for room, which the caller has made sure of. -/
def takeSample (s : State) (t : Nat) (k : Check) : State :=
  if noSample (s.tile t) then
    dropKept (s.modTile t fun x => { x with chkSkipCnt := satAdd x.chkSkipCnt 1 }) k.part k.pass k.layer k.matrix k.outTile k.gen
  else s.modTile t fun x => { x with checks := x.checks ++ [k], chkPeak := Nat.max x.chkPeak (x.checks.length + 1) }

/-- The split contribution that a tile sends from `laBase` for a matrix (R156). -/
def splitAt (s : State) (p k l m rel laBase : Nat) : Option Split :=
  (((planOf s p k).map Plain.splits).getD []).find? fun q =>
    q.layer == l && q.matrix == m && q.tile == rel && q.laBase == laBase && q.home != rel

/-- A contributor sends its finished words to the home tile (R156). -/
def sendPartials (s : State) (t c : Nat) (k : Ctx) (q : Split) (cell : Bool) : State :=
  match absTile s (ctxPart k) q.home with
  | none => s
  | some ht =>
    match destCtx s (ctxPart k) k.slot ht q.ctx with
    | none => s
    | some hc =>
      let ws := (List.range q.words).map fun i => ctxWord s t c cell (q.laBase + i)
      launch s t k ht hc (some q.ctr) (.partial_ (q.recv + q.index * q.words) ws q.layer q.matrix) (16 * ws.length) none

/-- Dies whose Tarns have worked for an output tile under a generation (R132). -/
def contribDies (x : Pass) (gen l m o : Nat) : List Nat :=
  ((x.worked.filter fun w => w.gen == gen && w.layer == l && w.matrix == m && decide (w.nBase < 32 * o + 32) &&
    decide (32 * o < w.nBase + w.cols)).map StepWork.die).eraseDups

/-- At the home tile: heads hand their outputs on, and a sampled output tile in array mode is taken or skipped. -/
def homeOutput (s : State) (p t c : Nat) (k : Ctx) (x : Pass) (l m o laBase : Nat) (cell : Bool) (mx : Matrix) (ly : Layer) : State :=
  let n := Nat.min 32 (mx.n - 32 * o)
  let ws := (List.range n).map fun i => (laBase + i, ctxWord s t c cell (laBase + i))
  let vs := ws.map fun q => encFP32 (outVal s k q.1 q.2)
  let s := modPass s p x.id (headOutputs ly o vs)
  let onTarn := (tarnLayers s p x.slot).contains l
  if x.ref || !onTarn || inFallback x l m || !tileSampled s p x l m o then s
  else takeSample s t
    { part := p, slot := x.slot, pass := x.id, gen := k.gen, layer := l, matrix := m, outTile := o
      forced := x.forced.contains (l, m, o), dies := contribDies x k.gen l m o, vals := ws.map fun q => q.2.la
      refs := ws.map fun q => match q.2.la with | .num a => .num (a - q.2.err) | .nanMark => .nanMark }

/-- MATRIX_OUTPUT_COMPLETE (R127 step 9): the array LA of an output tile is complete at tile `t`, in the words from `laBase` on, once every
instruction that gives one of them has completed (R113, R120). A forced check that finds the queue full waits (R129). What a superseded
generation produced is discarded (R128). -/
def execMatrixOutputComplete (p pass layer matrix outTile t laBase now : Nat) (s : State) : Out :=
  guarded (instrWellFormed (.matrixOutputComplete p pass layer matrix outTile t laBase now))
    (let s := s.setNow now
     match findPass s p pass, servingCtx s p pass t with
     | some x, some c =>
      let k := ctxOf s t c
      (match matrixOf s p x.slot layer matrix, layerOf s p x.slot layer with
      | some mx, some ly =>
        let cell := cellPlaced s p x.slot layer
        if stale x layer k.gen || awaits (s.tile t) c [.words laBase (Nat.min 32 (mx.n - 32 * outTile))] then s
        else match splitAt s p x.slot layer matrix k.relTile laBase with
          | some q => sendPartials s t c k q cell
          | none =>
            if x.forced.contains (layer, matrix, outTile) && noSample (s.tile t) then s
            else homeOutput s p t c k x layer matrix outTile laBase cell mx ly
      | _, _ => s)
     | _, _ => s)

/-! ### Checks and trouble (R124 to R132) -/

/-- The comparisons of a check enter the drift sums (R115). -/
def enterDrift (s : State) (c : Check) : State :=
  (s.part c.part).tiles.foldl (fun s t =>
    (s.tile t).tarns.foldl (fun s q =>
      (q.2.kept.filter fun k => k.part == c.part && k.pass == c.pass && k.gen == c.gen && k.layer == c.layer &&
        k.matrix == c.matrix && k.outTile == c.outTile).foldl (fun s k => driftCompare s t q.1 k.key k.fine k.ideal) s) s) s

/-- Trouble is outstanding for a pass until the lead tile has it (R129). -/
def noteTrouble (s : State) (c : Check) : State :=
  modPass s c.part c.pass fun x =>
    if stale x c.layer c.gen && !samePlay x c.layer c.gen then x
    else { x with troubles := x.troubles ++ [(c.layer, c.gen, c.outTile, c.matrix)] }

/-- A shadow read of a check meets poison (R126): some block of its output columns lies in a chunk that waits for its repair. -/
def checkBad (s : State) (c : Check) : Bool :=
  match matrixOf s c.part c.slot c.layer c.matrix with
  | some m => !(s.slot c.part c.slot).shadowBad.isEmpty &&
      (List.range (Nat.min 32 (m.n - 32 * c.outTile))).any fun j => shadowColBad s c.part c.slot c.layer c.matrix (32 * c.outTile + j) 0 m.k
  | none => false

/-- CHECK_DONE (R124, R126, R132): the oldest check of a tile's queue ends. A poisoned shadow read abandons it; an abandoned
forced check counts as trouble again. -/
def execCheckDone (t : Nat) (shadowPoison : Bool) (now : Nat) (s : State) : Out :=
  guarded (instrWellFormed (.checkDone t shadowPoison now))
    (let s := s.setNow now
     match (s.tile t).checks with
     | [] => s
     | c :: cs =>
      let s := s.modTile t fun x => { x with checks := cs }
      if shadowPoison || checkBad s c then
        let s := s.modTile t fun x => { x with chkSkipCnt := satAdd x.chkSkipCnt 1 }
        let s := dropKept s c.part c.pass c.layer c.matrix c.outTile c.gen
        if c.forced then noteTrouble s c else s
      else
        let s := dropKept (enterDrift s c) c.part c.pass c.layer c.matrix c.outTile c.gen
        let s := s.modTile t fun x => { x with chkTakenCnt := satAdd x.chkTakenCnt 1 }
        let v := (s.part c.part).serv
        let tm := match findPass s c.part c.pass with | some x => (x.chkT, x.chkM) | none => (v.chkT, v.chkM)
        let d := checkDiffs tm.1 c.vals c.refs
        if !troubleDeclared tm.2 d.1 then s
        else
          let s := s.modTile t fun x => { x with
            chkTroubleCnt := satAdd x.chkTroubleCnt 1, chkNdiff := d.1, chkMaxdiff := d.2
            chkLayer := c.layer, chkMatrix := c.matrix }
          let s := c.dies.foldl (fun s d => s.modDie d fun x => { x with trouble := satAdd x.trouble 1 }) s
          let s := reportTile s t evCheckTrouble (some c.part)
            [(1, c.part), (1, c.layer), (1, c.matrix), (2, c.outTile), (1, d.1), (1, d.2), (8, maskOf c.dies)]
          noteTrouble s c)

/-- TROUBLE_NOTICE (R127 step 11, R129 to R131): the notice of a declared trouble reaches the lead tile. -/
def execTroubleNotice (p pass layer gen outTile matrix now : Nat) (s : State) : Out :=
  guarded (instrWellFormed (.troubleNotice p pass layer gen outTile matrix now))
    (let s := s.setNow now
     match findPass s p pass with
     | none => s
     | some x =>
      let q := (layer, gen, outTile, matrix)
      if !x.troubles.contains q then s
      else
        let s := modPass s p pass fun x => { x with troubles := x.troubles.erase q }
        troubleResponse s p pass layer gen (some (matrix, outTile)))

/-- A check of a matrix step is queued on a tile. -/
def stepChecked (x : Tile) (p pass l m gen : Nat) : Bool :=
  x.checks.any fun c => c.part == p && c.pass == pass && c.layer == l && c.matrix == m && c.gen == gen

/-- STEP_RESOLVED (R127 step 11, R134): the notice that a STEP_END of tile `t` has sent reaches the lead tile, after the step's checks on the
tile. One of the current generation counts toward the pass's commit; a superseded one is discarded (R128). -/
def execStepResolved (p pass layer matrix gen t now : Nat) (s : State) : Out :=
  guarded (instrWellFormed (.stepResolved p pass layer matrix gen t now))
    (let s := s.setNow now
     match findPass s p pass with
     | none => s
     | some x =>
      let q := (layer, matrix, gen, t)
      if !x.notices.contains q || stepChecked (s.tile t) p pass layer matrix gen then s
      else modPass (progress s p) p pass fun x => { x with
        notices := x.notices.erase q
        resolved := if stale x layer gen || x.resolved.contains (layer, matrix, t) then x.resolved else x.resolved ++ [(layer, matrix, t)] })

end Sys2Proof.Machine
end

