-- ==== Sys2Proof/Machine/Sideband.lean ====
section
/-! DEFINITION. Sideband commands (R533). -/

namespace Sys2Proof.Machine

/-- SB_STATUS: MC_STATUS, 0 before power-good, and the serial number. -/
def execSbStatus (iod : Nat) (s : State) : Out :=
  guarded (instrWellFormed (.sbStatus iod))
    (if sbAlive s iod then sbReply s iod 0 (toLe 4 (if s.power.pwrgd then cfgRead s 0x0010 else 0) ++ toLe 8 s.serial) else s)

/-- SB_READ. -/
def execSbRead (iod : Nat) (body : List Byte) (s : State) : Out :=
  guarded (instrWellFormed (.sbRead iod body)) (sbServe s iod fun s => sbReadRegs s iod body)

/-- SB_WRITE. -/
def execSbWrite (iod : Nat) (body : List Byte) (now : Nat) (s : State) : Out :=
  guarded (instrWellFormed (.sbWrite iod body now)) (sbServe (s.setNow now) iod fun s => sbWriteRegs s iod body)

/-- SB_CFG_DATA (R400, R533). -/
def execSbCfgData (iod : Nat) (body : List Byte) (now : Nat) (s : State) : Out :=
  guarded (instrWellFormed (.sbCfgData iod body now)) (sbServe (s.setNow now) iod fun s => sbConfig s iod body)

/-- SB_TIME (R415, R533); a time of day that arrives after power-good and before step 4 of the start is held for it (R420). -/
def execSbTime (iod : Nat) (body : List Byte) (now : Nat) (s : State) : Out :=
  guarded (instrWellFormed (.sbTime iod body now))
    (let s := s.setNow now
     let s := if sbAlive s iod && s.power.pwrgd && !s.cfg.started && body.length == 8 then
       { s with time := { s.time with heldTod := some (leAt body 0 8) } } else s
     sbServe s iod fun s => sbTimeSet s iod body)

end Sys2Proof.Machine
end

