-- ==== Sys2Proof/Machine/Tarns.lean ====
section
/-! DEFINITION. The Tarn commands: MVMs and their rounds, statistics windows, drift updates, scrub reads and row rewrites
(R69 to R83, R93 to R102, R115 to R121, R462, R463). -/

namespace Sys2Proof.Machine

/-- The MVM of one Tarn of a set (R72, R103): its K-chunk of the input, its active quads, its planes. -/
def mvmFor (k : Ctx) (c : Nat) (T : Tarn) (m : Matrix) (u : TarnUse) (laBase : Nat) (int8 cell bad : Bool)
    (xs : List Int) (sc : List Nat) (sampled : List Nat) (op : Nat) : Mvm :=
  let used := Nat.min 512 (m.k - 512 * u.kChunk)
  { part := ctxPart k, slot := k.slot, ctx := c, layer := T.layer, matrix := T.matrix, nBase := T.nBase, cols := T.cols
    pass := k.pass.getD 0, gen := k.gen, planes := if int8 then 8 else 4
    x := slicePad 512 ((xs.drop (512 * u.kChunk)).take used), xScale := (sc.drop (16 * u.kChunk)).take 16
    quads := (List.range 4).filter fun q => decide (128 * q < used)
    laBase := laBase + u.laOff, cell := cell, poison := bad, sampled := sampled, op := op }
where
  /-- Complete to `n` rows; unused rows are driven with 0 (R72). -/
  slicePad (n : Nat) (xs : List Int) : List Int := xs ++ List.replicate (n - xs.length) 0

/-- A matrix step of a pass whose products all enter exactly, on the CE: reference arithmetic or fallback (R130, R173). -/
def exactStep (x : Pass) (l m : Nat) : Bool := x.ref || inFallback x l m

/-- An array rail of a die that holds Tarns of a layer, in the replica that serves, is out of its window (R100). -/
def supplyOut (s : State) (p k layer replica : Nat) : Bool :=
  (s.slot p k).placed.any fun q => q.layer == layer && q.replica == replica && (s.die (tileDie q.tile)).hk.railOut

/-- Why a step goes to fallback as its MVM is issued: 1, too many dynamic outliers in the input slot (R112); 3, an array rail out of range
before the layer step is past its first round (R100). -/
def fallbackCause (s : State) (p : Nat) (k : Ctx) (x : Pass) (slot : Nat) (T : Tarn) : Option Nat :=
  let ca := ((layerOf s p k.slot T.layer).map Layer.ca).getD 0
  if exactStep x T.layer T.matrix then none
  else if 4 * ca < (tget [] k.outl slot).length then some 1
  else if !x.begun.contains T.layer && supplyOut s p k.slot T.layer ((T.holder.map fun h => h.2.2).getD 0) then some 3
  else none

/-- The Tarn of a use works for the step, which goes neither exactly nor to fallback. -/
def needsTarn (s : State) (t : Nat) (k : Ctx) (slot : Nat) (u : TarnUse) : Bool :=
  let T := tarnOf (s.tile t) u.tarn
  match k.pass.bind (findPass s (ctxPart k)) with
  | some x => !exactStep x T.layer T.matrix && (fallbackCause s (ctxPart k) k x slot T).isNone
  | none => false

/-- The step of a use goes to fallback where it has cause to: the matrix step, or under R100 the layer step. -/
def decideUse (s : State) (t : Nat) (k : Ctx) (slot : Nat) (u : TarnUse) : State :=
  let p := ctxPart k
  let T := tarnOf (s.tile t) u.tarn
  match k.pass.bind (findPass s p) with
  | some x => (match fallbackCause s p k x slot T with
    | some 3 => layerToFallback s p x.id T.layer 3
    | some n => markFallback s p x.id T.layer T.matrix n
    | none => s)
  | none => s

/-- The words, the placement and the saturation flags of a use (R80, R150): all of a set are opened before any of its MVMs starts. -/
def openUse (s : State) (t c laBase : Nat) (add : Bool) (u : TarnUse) : State :=
  let k := ctxOf s t c
  let T := tarnOf (s.tile t) u.tarn
  let cell := cellPlaced s (ctxPart k) k.slot T.layer
  let s := if add then s else openWords s t (ctxTag k) cell (laBase + u.laOff) T.cols
  let s := modCtx (noteRegion s t c (laBase + u.laOff) T.cols T.layer T.matrix T.nBase) t c fun k => { k with place := if cell then 0 else 1 }
  s.modTile t fun y => { y with
    satFlags := if add then y.satFlags
      else y.satFlags.filter fun q => !(q.1 == k.pass.getD 0 * 64 + ctxPart k && q.2.1 == T.layer * 16 + T.matrix) }

/-- The MVM occupies its Tarn and starts with the coefficients that wait (R116); its die has done work for the pass (R132). -/
def mvmBegin (s : State) (t tarn p : Nat) (v : Mvm) : State :=
  let w : StepWork := { gen := v.gen, layer := v.layer, matrix := v.matrix, nBase := v.nBase, cols := v.cols, die := tileDie t }
  let s := modPass s p v.pass fun x => { x with worked := if x.worked.contains w then x.worked else x.worked ++ [w] }
  modTarn s t tarn fun T => { T with
    mvm := some v
    coefs := T.pend.foldl (fun cs q => tset {} cs q.1 q.2) T.coefs, pend := []
    ranSince := if T.ranSince.contains (p, v.pass) then T.ranSince else T.ranSince ++ [(p, v.pass)] }

/-- Start the MVM of one Tarn of a set, or, in fallback or reference mode, enter its exact contributions on the CE (R130,
R173). -/
def startUse (s : State) (t c laBase : Nat) (int8 bad : Bool) (xs : List Int) (sc : List Nat) (op : Nat) (u : TarnUse) : State :=
  let k := ctxOf s t c
  let p := ctxPart k
  let T := tarnOf (s.tile t) u.tarn
  match matrixOf s p k.slot T.layer T.matrix, k.pass.bind (findPass s p) with
  | some m, some x =>
    let cell := cellPlaced s p k.slot T.layer
    if exactStep x T.layer T.matrix then
      let v := mvmFor k c T m u laBase int8 cell bad xs sc [] op
      enterIdeal s t u.kChunk v m (quadGroups v.quads) (inFallback x T.layer T.matrix)
    else
      let sampled := (List.range T.cols).filter fun j => tileSampled s p x T.layer T.matrix ((T.nBase + j) / 32)
      mvmBegin s t u.tarn p (mvmFor k c T m u laBase int8 cell bad xs sc sampled op)
  | _, _ => s

/-- The words that the MVMs of a set accumulate into. -/
def useWords (x : Tile) (us : List TarnUse) (laBase : Nat) : List Res := us.map fun u => .words (laBase + u.laOff) (tarnOf x u.tarn).cols

/-- An MVM is issued (R179) on the Tarns that it needs. -/
def mvmIssued (s : State) (t c : Nat) (rs : List Res) (tarns : List Nat) : State :=
  s.modTile t fun x => { x with
    inFlight := x.inFlight ++ [{ id := x.issued, engine := .tarn, ctx := c, res := rs, tarns := tarns }], issued := x.issued + 1 }

/-- TARN_MVM (R72): an MVM on every Tarn of the set. It waits while one that it needs still runs or has a row write pending, and a SHORT
tile does no array work (R92). A step in fallback or reference mode needs none of them (R174). -/
def execTarnMvm (t c slot set laBase : Nat) (add int8 : Bool) (epoch : Nat) (s : State) : Out :=
  guarded (instrWellFormed (.tarnMvm t c slot set laBase add int8 epoch))
    (let us := (((ctxOf s t c).sched.map Sched.tarnSets).getD []).getD set []
     let ks := us.filter (needsTarn s t (ctxOf s t c) slot)
     let busy := ks.any fun u => mvmBusy (tarnOf (s.tile t) u.tarn) || !(tarnOf (s.tile t) u.tarn).rewrite.isEmpty
     let rs := useWords (s.tile t) us laBase
     if busy || ((s.tile t).short && !ks.isEmpty) then s
     else issue s t c { op := 0x21, e1 := epoch, a := slot, b := set, c := laBase, d := 2 ^ 24 * b2n add + 2 ^ 25 * b2n int8 }
        (slotRes (ctxOf s t c) slot :: (if add then [] else rs)) fun k =>
      let kmax := (us.map fun u =>
        let T := tarnOf (s.tile t) u.tarn
        ((matrixOf s (ctxPart k) k.slot T.layer T.matrix).map Matrix.k).getD 0).foldl Nat.max 0
      let f := if int8 then 4 else 5
      match slotRead s t c slot 0 (Nat.min (slotRows s t c slot) (rowsOf f kmax)) epoch with
      | (s, none) => s
      | (s, some (bs, bad)) =>
        let (xs, sc) := inputInts int8 kmax bs
        let op := (s.tile t).issued
        let s := us.foldl (fun s u => decideUse s t k slot u) s
        let s := us.foldl (fun s u => openUse s t c laBase add u) (mvmIssued s t c rs (ks.map TarnUse.tarn))
        us.foldl (fun s u => startUse s t c laBase int8 bad xs sc op u) s)
where
  /-- Rows that a vector takes. -/
  rowsOf (f n : Nat) : Nat := (vecLen f n + 63) / 64

/-- The next round of an MVM (R72): the next plane, or the next quad from plane 0 on. -/
def nextRound (v : Mvm) : Mvm :=
  if v.plane + 1 = v.planes then { v with quads := v.quads.tail, plane := 0, usum := [], flagged := [] } else { v with plane := v.plane + 1 }

/-- What a round does to a step whose results stand (R71, R76 to R83): sums, kept fine counts, and at the sign plane the results of the
quad. At the 257th flagged group of the step on the tile, the step goes to fallback (R121). -/
def roundResults (s : State) (t tarn : Nat) (v : Mvm) (m : Matrix) (q : Nat) (cs : List Conv) (flags : Nat) : State :=
  let v1 := { v with usum := cs.foldl (fun u c =>
    tmod 0 u (grpKey c.j c.g) (· + planeWeight v.planes v.plane * ((2 ^ c.b * c.count : Nat) : Int))) v.usum }
  let s := modPass (s.modTile t fun x => addFlags x v flags) v.part v.pass fun x => { x with
    begun := if x.begun.contains v.layer then x.begun else x.begun ++ [v.layer] }
  let s := modTarn s t tarn fun T => { T with kept := T.kept ++ roundKept T v m cs, mvm := some v1 }
  if 256 < flagCount (s.tile t) v then
    let s := s.modTile t fun x => { x with satFbCnt := satAdd x.satFbCnt 1 }
    stepToFallback (markFallback s v.part v.pass v.layer v.matrix 2) v.part v.pass v.layer v.matrix
  else if v.plane + 1 = v.planes then enterQuad s t (tarnOf (s.tile t) tarn) v1 m q
  else s

/-- The codes of a round (R81, R83, R93): statistics, flags and their counters, whatever has become of the step; and the results where the
step stands under its pass's generation and has not gone to fallback (R71, R121, R128). -/
def roundCodes (s : State) (t tarn : Nat) (v : Mvm) (m : Matrix) (q : Nat) (codes : List (Nat × Nat)) : State :=
  let cs := roundConvs (tarnOf (s.tile t) tarn) v q codes
  let nf := newFlags v cs
  let v1 := { v with flagged := v.flagged ++ nf.map Prod.fst }
  let s := modTarn s t tarn fun T => { roundStats (s.tile t).windowLog2 (s.tile t).freeze T cs with mvm := some v1 }
  let s := s.modTile t fun x => { x with
    satCnt := satAdd x.satCnt (nf.filter Prod.snd).length
    excessCnt := satAdd x.excessCnt (nf.filter fun n => !n.2).length }
  if v.dead || !genCurrent s v.part v.pass v.layer v.gen then s else roundResults s t tarn v1 m q cs nf.length

/-- TARN_ROUND_DONE (R69, R71): the round that runs on the Tarn ends. After a partition reset its codes are discarded. -/
def execTarnRoundDone (t tarn : Nat) (codes : List (Nat × Nat)) (s : State) : Out :=
  guarded (instrWellFormed (.tarnRoundDone t tarn codes))
    (match (tarnOf (s.tile t) tarn).mvm with
     | none => s
     | some v =>
      match v.quads with
      | [] => s
      | q :: _ =>
        let s := s.modTile t fun x => { x with rounds := wrapAdd x.rounds 1 }
        let s := match matrixOf s v.part v.slot v.layer v.matrix with
          | some m => if v.discard then s else roundCodes s t tarn v m q codes
          | none => s
        modTarn s t tarn fun T => { T with mvm := T.mvm.map nextRound })

/-- TSTAT_WINDOW_CLOSE (R93): a window of 2ⁿ conversions closes. -/
def execTstatWindowClose (t tarn col : Nat) (s : State) : Out :=
  guarded (instrWellFormed (.tstatWindowClose t tarn col))
    (if 2 ^ (s.tile t).windowLog2 ≤ (tget {} (tarnOf (s.tile t) tarn).win col).n then
      modTarn s t tarn fun T => closeWindow (s.tile t).freeze T col
    else s)

/-- TSTAT_SELECT (R94, R96): a write of TSTAT_SEL (offset 0x0400) copies the newly selected column, a write of TSTAT_CTRL
(0x0404) with REFRESH the selected one. -/
def execTstatSelect (t off value : Nat) (s : State) : Out :=
  guarded (instrWellFormed (.tstatSelect t off value)) (s.modTile t fun x =>
    if off = 0x0400 then tstatSel x value else if off = 0x0404 then tstatCtrl x value else x)

/-- TSTAT_CLEAR (R96): a write of TSTAT_CTRL. -/
def execTstatClear (t value : Nat) (s : State) : Out :=
  guarded (instrWellFormed (.tstatClear t value)) (s.modTile t fun x => tstatCtrl x value)

/-- DRIFT_UPDATE (R115, R116, R118): after 256 comparisons, unless frozen (R119). -/
def execDriftUpdate (t tarn bank col now : Nat) (s : State) : Out :=
  guarded (instrWellFormed (.driftUpdate t tarn bank col now))
    (let s := s.setNow now
     if (s.tile t).driftFreeze || decide ((tget {} (tarnOf (s.tile t) tarn).cmps (convKey bank col)).n < 256) then s
     else driftNow s t tarn (convKey bank col))

/-- Nanoseconds of 24 hours. -/
abbrev dayNs : Nat := 86400000000000

/-- TARN_SCRUB_READ (R462, R463): the row reads back as `bits`. A mismatch with the check word is counted and reported, the
rewrite waits for an MVM boundary, the affected uncommitted passes are treated as troubled in the layer of the Tarn, and a
second mismatch of the row within 24 hours replaces the Tarn. -/
def execTarnScrubRead (t tarn row bits now : Nat) (s : State) : Out :=
  guarded (instrWellFormed (.tarnScrubRead t tarn row bits now))
    (let s := s.setNow now
     let s := s.modDie (tileDie t) fun d => { d with scrubRows := wrapAdd d.scrubRows 1 }
     let T := tarnOf (s.tile t) tarn
     if rowCheck bits = tget 0 T.check row then
      if row = 511 then modTarn s t tarn fun T => { T with ranSince := [] } else s
     else
      let good := tget 0 T.rows row
      let last := tget 0 T.rowFixAt row
      let again := last != 0 && decide (s.now < last - 1 + dayNs)
      let ps := T.ranSince.filter fun q => (findPass s q.1 q.2).isSome
      let s := modTarn s t tarn fun T => { T with
        rows := tset 0 T.rows row bits
        rewrite := if T.rewrite.any fun q => q.1 == row then T.rewrite else tput T.rewrite row good
        rowFixAt := tset 0 T.rowFixAt row (s.now + 1) }
      let s := s.modDie (tileDie t) fun d => { d with rowFix := satAdd d.rowFix 1 }
      let s := reportTile s t evTarnRowRepair none
        [(1, tileDie t), (1, t % 32), (2, tarn), (2, row), (4, ps.length)]
      let s := ps.foldl (fun s q =>
        troubleResponse s q.1 q.2 T.layer (((findPass s q.1 q.2).map Pass.gen).getD 0) none) s
      if again then replaceTarn s t tarn else s)

/-- TARN_ROW_REWRITE (R102): a pending row write is applied between MVMs. -/
def execTarnRowRewrite (t tarn row : Nat) (s : State) : Out :=
  guarded (instrWellFormed (.tarnRowRewrite t tarn row))
    (let T := tarnOf (s.tile t) tarn
     match T.rewrite.find? fun q => q.1 == row with
     | some (_, v) =>
      if mvmBusy T then s
      else modTarn s t tarn fun T => { T with
        rows := tset 0 T.rows row v, check := tset 0 T.check row (rowCheck v), rewrite := tdel T.rewrite row }
     | none => s)

end Sys2Proof.Machine
end

