-- ==== Sys2Proof/Machine/Dispatch.lean ====
section
/-! DEFINITION. What each command does: one arm per constructor, one direct call of a meaning per arm. -/

namespace Sys2Proof.Machine

/-- The effect of a command on everything but the queue. -/
def exec (i : Instr) (s : State) : Host.Outcome State Fault Refusal :=
  match i with
  | .powerUp vin48mV jtagEn => Sys2Proof.Machine.execPowerUp vin48mV jtagEn s
  | .modEnFall => Sys2Proof.Machine.execModEnFall s
  | .vin48Undervoltage vin48mV => Sys2Proof.Machine.execVin48Undervoltage vin48mV s
  | .auxOutOfRange => Sys2Proof.Machine.execAuxOutOfRange s
  | .iin48Crossing mA => Sys2Proof.Machine.execIin48Crossing mA s
  | .moduleStart iod0SelfTest iod3SelfTest => Sys2Proof.Machine.execModuleStart iod0SelfTest iod3SelfTest s
  | .perstAssert port => Sys2Proof.Machine.execPerstAssert port s
  | .hostLinkLoss port => Sys2Proof.Machine.execHostLinkLoss port s
  | .hostLinkTrained port rate width => Sys2Proof.Machine.execHostLinkTrained port rate width s
  | .flr fn now => Sys2Proof.Machine.execFlr fn now s
  | .d3hotToD0 fn now => Sys2Proof.Machine.execD3hotToD0 fn now s
  | .busMasterEnableWrite fn on msix => Sys2Proof.Machine.execBusMasterEnableWrite fn on msix s
  | .msixUnmask fn vec => Sys2Proof.Machine.execMsixUnmask fn vec s
  | .springTrigger now => Sys2Proof.Machine.execSpringTrigger now s
  | .refBufferOn die => Sys2Proof.Machine.execRefBufferOn die s
  | .hkSweepStepDone die sweep codes last => Sys2Proof.Machine.execHkSweepStepDone die sweep codes last s
  | .springReportMissed die => Sys2Proof.Machine.execSpringReportMissed die s
  | .springControl hotStacks now => Sys2Proof.Machine.execSpringControl hotStacks now s
  | .springTriggerTimeout die => Sys2Proof.Machine.execSpringTriggerTimeout die s
  | .selfTimedSweep die codes => Sys2Proof.Machine.execSelfTimedSweep die codes s
  | .mcHeartbeat now => Sys2Proof.Machine.execMcHeartbeat now s
  | .heartbeatMiss now => Sys2Proof.Machine.execHeartbeatMiss now s
  | .mcSelfFailReport now => Sys2Proof.Machine.execMcSelfFailReport now s
  | .watchdogTick now => Sys2Proof.Machine.execWatchdogTick now s
  | .troubleTest p now => Sys2Proof.Machine.execTroubleTest p now s
  | .noticeAck notice die now => Sys2Proof.Machine.execNoticeAck notice die now s
  | .noticeAckTimeout notice die now => Sys2Proof.Machine.execNoticeAckTimeout notice die now s
  | .logDrain => Sys2Proof.Machine.execLogDrain s
  | .coalesceIntervalEnd die now => Sys2Proof.Machine.execCoalesceIntervalEnd die now s
  | .fleshaEventSend sub => Sys2Proof.Machine.execFleshaEventSend sub s
  | .telemetrySend sub now => Sys2Proof.Machine.execTelemetrySend sub now s
  | .subscriptionLapse sub now => Sys2Proof.Machine.execSubscriptionLapse sub now s
  | .lanternExpiry now => Sys2Proof.Machine.execLanternExpiry now s
  | .faultWindowRoll now => Sys2Proof.Machine.execFaultWindowRoll now s
  | .cqCoalTimeout fn cq now => Sys2Proof.Machine.execCqCoalTimeout fn cq now s
  | .arbHoldExpiry iod ch now => Sys2Proof.Machine.execArbHoldExpiry iod ch now s
  | .tarnScrubRead t tarn row bits now => Sys2Proof.Machine.execTarnScrubRead t tarn row bits now s
  | .tarnRowRewrite t tarn row => Sys2Proof.Machine.execTarnRowRewrite t tarn row s
  | .dramPatrolRead stack ch ecc now => Sys2Proof.Machine.execDramPatrolRead stack ch ecc now s
  | .resPatrolRead stack model slot corrected uncorrectable now => Sys2Proof.Machine.execResPatrolRead stack model slot corrected uncorrectable now s
  | .tstatWindowClose t tarn col => Sys2Proof.Machine.execTstatWindowClose t tarn col s
  | .driftUpdate t tarn bank col now => Sys2Proof.Machine.execDriftUpdate t tarn bank col now s
  | .arrayDegraded p now => Sys2Proof.Machine.execArrayDegraded p now s
  | .arrayRecovered p now => Sys2Proof.Machine.execArrayRecovered p now s
  | .feedFrameRx port frame now => Sys2Proof.Machine.execFeedFrameRx port frame now s
  | .keyLookupDone iod now => Sys2Proof.Machine.execKeyLookupDone iod now s
  | .ingestDrain p iod now => Sys2Proof.Machine.execIngestDrain p iod now s
  | .feedLinkUp port now => Sys2Proof.Machine.execFeedLinkUp port now s
  | .feedLinkDown port now => Sys2Proof.Machine.execFeedLinkDown port now s
  | .alarmMsgTx port => Sys2Proof.Machine.execAlarmMsgTx port s
  | .arbResyncCmd iod value => Sys2Proof.Machine.execArbResyncCmd iod value s
  | .sqDoorbell fn n value now => Sys2Proof.Machine.execSqDoorbell fn n value now s
  | .cqHeadDoorbell fn n value now => Sys2Proof.Machine.execCqHeadDoorbell fn n value now s
  | .erHeadDoorbell fn value now => Sys2Proof.Machine.execErHeadDoorbell fn value now s
  | .fnQCtrlWrite fn value => Sys2Proof.Machine.execFnQCtrlWrite fn value s
  | .sqCtrlWrite fn n value => Sys2Proof.Machine.execSqCtrlWrite fn n value s
  | .cqCtrlWrite fn n value => Sys2Proof.Machine.execCqCtrlWrite fn n value s
  | .erCtrlWrite fn value => Sys2Proof.Machine.execErCtrlWrite fn value s
  | .queueBaseWrite fn off value => Sys2Proof.Machine.execQueueBaseWrite fn off value s
  | .fnCtrlPartReset fn value now => Sys2Proof.Machine.execFnCtrlPartReset fn value now s
  | .fnEvtClear fn value => Sys2Proof.Machine.execFnEvtClear fn value s
  | .sqFetch fn n desc now => Sys2Proof.Machine.execSqFetch fn n desc now s
  | .promptRead p entry words now => Sys2Proof.Machine.execPromptRead p entry words now s
  | .cqCompletionWrite fn now => Sys2Proof.Machine.execCqCompletionWrite fn now s
  | .evidenceRingWrite fn => Sys2Proof.Machine.execEvidenceRingWrite fn s
  | .nop t c => Sys2Proof.Machine.execNop t c s
  | .loop t c count body => Sys2Proof.Machine.execLoop t c count body s
  | .jump t c offset => Sys2Proof.Machine.execJump t c offset s
  | .stepEnd t c layer matrix => Sys2Proof.Machine.execStepEnd t c layer matrix s
  | .waitArr t c ctr k => Sys2Proof.Machine.execWaitArr t c ctr k s
  | .waitArrResume t c => Sys2Proof.Machine.execWaitArrResume t c s
  | .signal t c ctr target => Sys2Proof.Machine.execSignal t c ctr target s
  | .dmaGet t c slot off rows ctr epoch embed => Sys2Proof.Machine.execDmaGet t c slot off rows ctr epoch embed s
  | .dmaPut t c slot off rows ctr epoch kv => Sys2Proof.Machine.execDmaPut t c slot off rows ctr epoch kv s
  | .put t c slot tile rslot ctr e1 e2 => Sys2Proof.Machine.execPut t c slot tile rslot ctr e1 e2 s
  | .pull t c slot tile rslot ctr e1 e2 release => Sys2Proof.Machine.execPull t c slot tile rslot ctr e1 e2 release s
  | .pullServe t req merged coll => Sys2Proof.Machine.execPullServe t req merged coll s
  | .releaseArrive t slotBase rows epoch => Sys2Proof.Machine.execReleaseArrive t slotBase rows epoch s
  | .transferLanded xfer ecc coll now => Sys2Proof.Machine.execTransferLanded xfer ecc coll now s
  | .fill t c rows first value width epoch => Sys2Proof.Machine.execFill t c rows first value width epoch s
  | .copy t c rows src dst e1 e2 => Sys2Proof.Machine.execCopy t c rows src dst e1 e2 s
  | .quant t c src dst fmt scaleIdx supplied e1 e2 => Sys2Proof.Machine.execQuant t c src dst fmt scaleIdx supplied e1 e2 s
  | .tarnMvm t c slot set laBase add int8 epoch => Sys2Proof.Machine.execTarnMvm t c slot set laBase add int8 epoch s
  | .tarnRoundDone t tarn codes => Sys2Proof.Machine.execTarnRoundDone t tarn codes s
  | .ceExact t c opSet slot laBase terms add epoch => Sys2Proof.Machine.execCeExact t c opSet slot laBase terms add epoch s
  | .ceFp32 t c opSet slot laBase terms add epoch => Sys2Proof.Machine.execCeFp32 t c opSet slot laBase terms add epoch s
  | .ceOutl t c opSet slot laBase terms add epoch => Sys2Proof.Machine.execCeOutl t c opSet slot laBase terms add epoch s
  | .combine t c recvBase contributors laBase ctr => Sys2Proof.Machine.execCombine t c recvBase contributors laBase ctr s
  | .round t c laBase dst fmt count epoch => Sys2Proof.Machine.execRound t c laBase dst fmt count epoch s
  | .vec t c src src2 dst op fmt strips e1 e2 => Sys2Proof.Machine.execVec t c src src2 dst op fmt strips e1 e2 s
  | .vecFn t c src dst fn fmt strips e1 e2 => Sys2Proof.Machine.execVecFn t c src dst fn fmt strips e1 e2 s
  | .vecRed t c src dst fmt strips e1 e2 => Sys2Proof.Machine.execVecRed t c src dst fmt strips e1 e2 s
  | .moments t c src dst fmt strips e1 e2 => Sys2Proof.Machine.execMoments t c src dst fmt strips e1 e2 s
  | .rank t c src posSlot dst fmt k minMode e1 e2 => Sys2Proof.Machine.execRank t c src posSlot dst fmt k minMode e1 e2 s
  | .aeIssue t c walk engine e1 e2 => Sys2Proof.Machine.execAeIssue t c walk engine e1 e2 s
  | .engineCompletion t engine finding coll now => Sys2Proof.Machine.execEngineCompletion t engine finding coll now s
  | .residueRepeatDone t unit index repeatOk thirdOk now => Sys2Proof.Machine.execResidueRepeatDone t unit index repeatOk thirdOk now s
  | .transientLimit die unit index now => Sys2Proof.Machine.execTransientLimit die unit index now s
  | .flitParityError die port stripe onDie resendOk now => Sys2Proof.Machine.execFlitParityError die port stripe onDie resendOk now s
  | .stripeDown die port stripe now => Sys2Proof.Machine.execStripeDown die port stripe now s
  | .twimerLinkDown die port now => Sys2Proof.Machine.execTwimerLinkDown die port now s
  | .contextSwitch t c corrected poisoned now => Sys2Proof.Machine.execContextSwitch t c corrected poisoned now s
  | .preempt t c corrected poisoned now => Sys2Proof.Machine.execPreempt t c corrected poisoned now s
  | .passOpen p now => Sys2Proof.Machine.execPassOpen p now s
  | .matrixOutputComplete p pass layer matrix outTile t laBase now => Sys2Proof.Machine.execMatrixOutputComplete p pass layer matrix outTile t laBase now s
  | .checkDone t shadowPoison now => Sys2Proof.Machine.execCheckDone t shadowPoison now s
  | .troubleNotice p pass layer gen outTile matrix now => Sys2Proof.Machine.execTroubleNotice p pass layer gen outTile matrix now s
  | .stepResolved p pass layer matrix gen t now => Sys2Proof.Machine.execStepResolved p pass layer matrix gen t now s
  | .walkAccept die engine now => Sys2Proof.Machine.execWalkAccept die engine now s
  | .walkEnd die engine idx poison now => Sys2Proof.Machine.execWalkEnd die engine idx poison now s
  | .passCommit p pass now => Sys2Proof.Machine.execPassCommit p pass now s
  | .specCut p entry => Sys2Proof.Machine.execSpecCut p entry s
  | .specProbe p entry => Sys2Proof.Machine.execSpecProbe p entry s
  | .confirmStart p now => Sys2Proof.Machine.execConfirmStart p now s
  | .confirmEnd p idx now => Sys2Proof.Machine.execConfirmEnd p idx now s
  | .alarmRelease p cand now => Sys2Proof.Machine.execAlarmRelease p cand now s
  | .entryFreed p entry now => Sys2Proof.Machine.execEntryFreed p entry now s
  | .editApply p entry now => Sys2Proof.Machine.execEditApply p entry now s
  | .install iss cmd header plain keyOk now => Sys2Proof.Machine.execInstall iss cmd header plain keyOk now s
  | .installChunk stack tagOk bytes now => Sys2Proof.Machine.execInstallChunk stack tagOk bytes now s
  | .activate iss cmd now => Sys2Proof.Machine.execActivate iss cmd now s
  | .erase iss cmd now => Sys2Proof.Machine.execErase iss cmd now s
  | .load iss cmd now => Sys2Proof.Machine.execLoad iss cmd now s
  | .imageChunkDecrypted stack tagOk now => Sys2Proof.Machine.execImageChunkDecrypted stack tagOk now s
  | .pvDone p slot layer failing again seeds now => Sys2Proof.Machine.execPvDone p slot layer failing again seeds now s
  | .unload iss cmd now => Sys2Proof.Machine.execUnload iss cmd now s
  | .swap iss cmd now => Sys2Proof.Machine.execSwap iss cmd now s
  | .weirClose p slot now => Sys2Proof.Machine.execWeirClose p slot now s
  | .weirDrainDone p slot now => Sys2Proof.Machine.execWeirDrainDone p slot now s
  | .weirRelease p slot now => Sys2Proof.Machine.execWeirRelease p slot now s
  | .variantLoad iss cmd now => Sys2Proof.Machine.execVariantLoad iss cmd now s
  | .variantUnload iss cmd now => Sys2Proof.Machine.execVariantUnload iss cmd now s
  | .abort iss cmd now => Sys2Proof.Machine.execAbort iss cmd now s
  | .tempWindowResume op now => Sys2Proof.Machine.execTempWindowResume op now s
  | .installTempTimeout stack now => Sys2Proof.Machine.execInstallTempTimeout stack now s
  | .installSessionTimeout stack now => Sys2Proof.Machine.execInstallSessionTimeout stack now s
  | .shadowRepair p slot chunk now => Sys2Proof.Machine.execShadowRepair p slot chunk now s
  | .partResetStart p cause now => Sys2Proof.Machine.execPartResetStart p cause now s
  | .partResetFinish p failedTarns us now => Sys2Proof.Machine.execPartResetFinish p failedTarns us now s
  | .ptReset req now => Sys2Proof.Machine.execPtReset req now s
  | .ptFence req now => Sys2Proof.Machine.execPtFence req now s
  | .fmComputeRetire req die transitOk now => Sys2Proof.Machine.execFmComputeRetire req die transitOk now s
  | .fmDarkRetire req die now => Sys2Proof.Machine.execFmDarkRetire req die now s
  | .fmRetireChannel req stack ch now => Sys2Proof.Machine.execFmRetireChannel req stack ch now s
  | .dieRetire die reason transitOk now => Sys2Proof.Machine.execDieRetire die reason transitOk now s
  | .channelRetire stack ch now => Sys2Proof.Machine.execChannelRetire stack ch now s
  | .relocation p now => Sys2Proof.Machine.execRelocation p now s
  | .relocationRetry p now => Sys2Proof.Machine.execRelocationRetry p now s
  | .partRestart src p now => Sys2Proof.Machine.execPartRestart src p now s
  | .ownersReload src now => Sys2Proof.Machine.execOwnersReload src now s
  | .moduleRestart src now => Sys2Proof.Machine.execModuleRestart src now s
  | .cfgWrite req image now => Sys2Proof.Machine.execCfgWrite req image now s
  | .cfgFlashWriteDone readback now => Sys2Proof.Machine.execCfgFlashWriteDone readback now s
  | .fleshaSubscribe port addr udp msg now => Sys2Proof.Machine.execFleshaSubscribe port addr udp msg now s
  | .fleshaRead port addr udp msg now => Sys2Proof.Machine.execFleshaRead port addr udp msg now s
  | .fleshaWrite port addr udp msg now => Sys2Proof.Machine.execFleshaWrite port addr udp msg now s
  | .fleshaImageData port addr udp msg tagOk now => Sys2Proof.Machine.execFleshaImageData port addr udp msg tagOk now s
  | .fleshaCfgData port addr udp msg now => Sys2Proof.Machine.execFleshaCfgData port addr udp msg now s
  | .fleshaTime port addr udp msg now => Sys2Proof.Machine.execFleshaTime port addr udp msg now s
  | .fleshaResync port addr udp msg now => Sys2Proof.Machine.execFleshaResync port addr udp msg now s
  | .fleshaDebugUnlock port addr udp msg now => Sys2Proof.Machine.execFleshaDebugUnlock port addr udp msg now s
  | .fleshaDebugLock port addr udp msg now => Sys2Proof.Machine.execFleshaDebugLock port addr udp msg now s
  | .fleshaFailover port addr udp msg now => Sys2Proof.Machine.execFleshaFailover port addr udp msg now s
  | .fleshaLogRead port addr udp msg now => Sys2Proof.Machine.execFleshaLogRead port addr udp msg now s
  | .sbStatus iod => Sys2Proof.Machine.execSbStatus iod s
  | .sbRead iod body => Sys2Proof.Machine.execSbRead iod body s
  | .sbWrite iod body now => Sys2Proof.Machine.execSbWrite iod body now s
  | .sbCfgData iod body now => Sys2Proof.Machine.execSbCfgData iod body now s
  | .sbTime iod body now => Sys2Proof.Machine.execSbTime iod body now s
  | .ltnLock req value now => Sys2Proof.Machine.execLtnLock req value now s
  | .lanternSelWrite req addr value => Sys2Proof.Machine.execLanternSelWrite req addr value s
  | .hkSwTrig die value now => Sys2Proof.Machine.execHkSwTrig die value now s
  | .tstatSelect t off value => Sys2Proof.Machine.execTstatSelect t off value s
  | .tstatClear t value => Sys2Proof.Machine.execTstatClear t value s
  | .rcRead req addr => Sys2Proof.Machine.execRcRead req addr s
  | .lowWordRead req addr => Sys2Proof.Machine.execLowWordRead req addr s
  | .regWrite req addr value be => Sys2Proof.Machine.execRegWrite req addr value be s
  | .bar2Access fn off data len => Sys2Proof.Machine.execBar2Access fn off data len s
  | .hostBatchCommandRead fn bytes now => Sys2Proof.Machine.execHostBatchCommandRead fn bytes now s
  | .auxInRange => Sys2Proof.Machine.execAuxInRange s
  | .boundaryScanCycle trst tms tdi irs => Sys2Proof.Machine.execBoundaryScanCycle trst tms tdi irs s

end Sys2Proof.Machine
end

