-- ==== Sys2Proof/Safety.lean ====
section
/-! DEFINITION. What counts as a safe step, in the terms the statements use. -/

namespace Sys2Proof.Machine

/-- The step from `s` answers a next state. -/
def Runs (s : State) : Prop := ∃ t, step s = .next t

/-- The command `c` completes on `s`: its meaning answers a next state. -/
def Completes (c : Instr) (s : State) : Prop := ∃ t, exec c s = .next t

/-- Every table of the state is in its canonical form, DRAM among them: equal contents are equal data. -/
structure TablesOk (s : State) : Prop where
  dies : tabWf {} s.dies = true
  tiles : tabWf {} s.tiles = true
  stackTab : tabWf {} s.stackTab = true
  feedPorts : tabWf {} s.feedPorts = true
  feedIods : tabWf {} s.feedIods = true
  hostPorts : tabWf {} s.hostPorts = true
  fns : tabWf {} s.fns = true
  reservoirs : tabWf {} s.reservoirs = true
  engines : tabWf {} s.engines = true
  parts : tabWf {} s.parts = true
  entries : tabWf {} s.entries = true
  dram : s.dram.wf

/-- The module has started only with its rails good (PWRGD) and outside test mode (R412, R528, R542). -/
def StartOk (s : State) : Prop := s.cfg.started = true → s.power.pwrgd = true ∧ s.power.testMode = false

/-- The module time is never before the value it has adopted (R255, R415). -/
def TimeOk (s : State) : Prop := s.time.utc = true → s.time.adopt ≤ s.time.now

/-- An unlocked Lantern has left its taint (R536). -/
def LanternOk (s : State) : Prop := s.lantern.unlocked = true → s.lantern.taint = true

/-- The invariant of the block. -/
structure Inv (s : State) : Prop where
  tables : TablesOk s
  start : StartOk s
  time : TimeOk s
  lantern : LanternOk s

/-- The slot `slot` of a context holds `n` rows that a read with `epoch` is served from (R185, R192): their bytes, and whether one of
them is poisoned (R451). -/
def SlotHolds (s : State) (t c slot n epoch : Nat) (bs : List Byte) (bad : Bool) : Prop :=
  ∃ d, slotDecl (ctxOf s t c) slot = some d ∧ n ≤ d.rows ∧
    (∀ i, i < n → rowReads (rowOf (s.tile t) (d.base + i)) epoch = true ∧ ownsRow (ctxOf s t c) (d.base + i) = true) ∧
    bs = ((List.range n).map fun i => rowBytes (rowOf (s.tile t) (d.base + i))).flatten ∧
    bad = (List.range n).any fun i => (rowOf (s.tile t) (d.base + i)).poison

/-- The slot `slot` of a context, declared as `d`, takes a write of every one of its rows (R185, R192). -/
def SlotTakes (s : State) (t c slot : Nat) (d : SlotDecl) : Prop :=
  slotDecl (ctxOf s t c) slot = some d ∧
    ∀ i, i < d.rows → (rowOf (s.tile t) (d.base + i)).full = false ∧ ownsRow (ctxOf s t c) (d.base + i) = true

/-- Scratchpad rows after writes of `bs` from row `r` on (R192). -/
def filledRows (rows : Tab Row) (r epoch readers : Nat) (poison : Bool) : List (List Byte) → Tab Row
  | [] => rows
  | b :: bs => filledRows (tset {} rows r (rowWrite b epoch readers poison)) (r + 1) epoch readers poison bs

/-- What a slot's rows hold after a result of bytes `bs` has been written into it. -/
def slotResult (x : Tile) (d : SlotDecl) (epoch : Nat) (poison : Bool) (bs : List Byte) : Tab Row :=
  filledRows x.rows d.base epoch d.readers poison ((toRows bs).take d.rows)

/-- Function `fn`, bound to partition `p`, has read the well-formed image command `cmd` of operation `op` for its own partition, and it waits to
run; its completion goes to `h` (R338, R381). -/
structure HostCmd (s : State) (fn sq op : Nat) (cmd : List Byte) (h : HostRef) (p : Nat) : Prop where
  site : fn < 64
  bound : (s.fnOf fn).part = some p
  waits : ∃ rest, takeFirst sq cmd (s.fnOf fn).cmds = some (h, rest)
  formed : imgCmdOk cmd = true
  isOp : (imgFields cmd).op = op
  own : (imgFields cmd).part = p

/-- The item or command of `h` has completed with a reason: its completion stands in the completion buffer (R383). -/
def Answered (u : State) (h : HostRef) (reason : Nat) : Prop :=
  ∃ c ∈ (u.fnOf h.fn).buffer, c.tag = h.tag ∧ c.sq = h.sq ∧ c.reason = reason

/-- A COMMAND of opcode `op` that R473 accepts: it passes the tests on a served port, and `c` is its owner, opcode, tag and body. -/
structure FleshaCmd (s : State) (port op : Nat) (msg : List Byte) (c : FlCmd) : Prop where
  site : port < 2
  served : fleshaServed s port = true
  shape : fleshaShape msg = true
  tests : fleshaTests s msg = true
  isOp : leAt msg 24 2 = op
  read : c = FlCmd.mk (byteAt msg 6 % 64) op (leAt msg 26 2) (slice msg 32 (leAt msg 28 2))

/-- The state once a COMMAND has been accepted: the SEQ of its owner is the message's (R473). -/
def acceptedSeq (s : State) (msg : List Byte) : State := modOwner s (byteAt msg 6 % 64) fun x => { x with lastSeq := leAt msg 16 8 }

/-- The tile and context of an instruction of a schedule (R181). -/
def ctxSite : Instr → Option (Nat × Nat)
  | .nop t c | .loop t c _ _ | .jump t c _ | .stepEnd t c _ _ | .waitArr t c _ _ | .waitArrResume t c | .signal t c _ _
  | .dmaGet t c _ _ _ _ _ _ | .dmaPut t c _ _ _ _ _ _ | .put t c _ _ _ _ _ _ | .pull t c _ _ _ _ _ _ _ | .fill t c _ _ _ _ _
  | .copy t c _ _ _ _ _ | .quant t c _ _ _ _ _ _ _ | .tarnMvm t c _ _ _ _ _ _ | .ceExact t c _ _ _ _ _ _ | .ceFp32 t c _ _ _ _ _ _
  | .ceOutl t c _ _ _ _ _ _ | .combine t c _ _ _ _ | .round t c _ _ _ _ _ | .vec t c _ _ _ _ _ _ _ _ | .vecFn t c _ _ _ _ _ _ _
  | .vecRed t c _ _ _ _ _ _ | .moments t c _ _ _ _ _ _ | .rank t c _ _ _ _ _ _ _ _ | .aeIssue t c _ _ _ _ => some (t, c)
  | _ => none

/-- The one tile whose state a command may change: an instruction's but for PULL, which leaves its request at the source tile, and the commands of a
tile's Tarns, rows and statistics. -/
def tileSite : Instr → Option Nat
  | .pull _ _ _ _ _ _ _ _ _ => none
  | .releaseArrive t _ _ _ | .tarnRoundDone t _ _ | .tarnScrubRead t _ _ _ _ | .tarnRowRewrite t _ _ | .tstatWindowClose t _ _
  | .driftUpdate t _ _ _ _ | .tstatSelect t _ _ | .tstatClear t _ => some t
  | c => (ctxSite c).map Prod.fst

/-- What is fused in the module: the fields of its part number, serial number, MAC addresses, key identity and the public part of its key
(R3, R6, R325, R544). -/
def SameModule (s t : State) : Prop :=
  t.variant = s.variant ∧ t.coupling = s.coupling ∧ t.provisioning = s.provisioning ∧ t.serial = s.serial ∧ t.baseMac = s.baseMac ∧
    t.keyId = s.keyId ∧ t.keyPublic = s.keyPublic

/-- Which parts of the state a command may change: one flag per part. -/
structure Footprint where
  power : Bool := false
  cfg : Bool := false
  time : Bool := false
  log : Bool := false
  therm : Bool := false
  fm : Bool := false
  lantern : Bool := false
  mcEv : Bool := false
  dies : Bool := false
  tiles : Bool := false
  stackTab : Bool := false
  feedPorts : Bool := false
  feedIods : Bool := false
  hostPorts : Bool := false
  fns : Bool := false
  reservoirs : Bool := false
  engines : Bool := false
  parts : Bool := false
  ptSel : Bool := false
  entries : Bool := false
  dram : Bool := false
  xfers : Bool := false
  releases : Bool := false
  nextXfer : Bool := false
  nextOp : Bool := false
  latches : Bool := false
  out : Bool := false
  free : Bool := false
  deriving DecidableEq, Repr

/-- Every part of the state outside the footprint `F` is the same in `t` as in `s`. -/
structure SameOutside (F : Footprint) (s t : State) : Prop where
  power : F.power = false → t.power = s.power
  cfg : F.cfg = false → t.cfg = s.cfg
  time : F.time = false → t.time = s.time
  log : F.log = false → t.log = s.log
  therm : F.therm = false → t.therm = s.therm
  fm : F.fm = false → t.fm = s.fm
  lantern : F.lantern = false → t.lantern = s.lantern
  mcEv : F.mcEv = false → t.mcEv = s.mcEv
  dies : F.dies = false → t.dies = s.dies
  tiles : F.tiles = false → t.tiles = s.tiles
  stackTab : F.stackTab = false → t.stackTab = s.stackTab
  feedPorts : F.feedPorts = false → t.feedPorts = s.feedPorts
  feedIods : F.feedIods = false → t.feedIods = s.feedIods
  hostPorts : F.hostPorts = false → t.hostPorts = s.hostPorts
  fns : F.fns = false → t.fns = s.fns
  reservoirs : F.reservoirs = false → t.reservoirs = s.reservoirs
  engines : F.engines = false → t.engines = s.engines
  parts : F.parts = false → t.parts = s.parts
  ptSel : F.ptSel = false → t.ptSel = s.ptSel
  entries : F.entries = false → t.entries = s.entries
  dram : F.dram = false → t.dram = s.dram
  xfers : F.xfers = false → t.xfers = s.xfers
  releases : F.releases = false → t.releases = s.releases
  nextXfer : F.nextXfer = false → t.nextXfer = s.nextXfer
  nextOp : F.nextOp = false → t.nextOp = s.nextOp
  latches : F.latches = false → t.latches = s.latches
  out : F.out = false → t.out = s.out
  free : F.free = false → t.free = s.free

/-- What no operation does to the state: it keeps what is fused and the queue, takes back nothing that was sent, takes free values
only in order, keeps each part of the invariant, and changes nothing outside its footprint. -/
structure Keeps (F : Footprint) (s t : State) : Prop where
  module : SameModule s t
  pending : t.pending = s.pending
  sent : s.out <+: t.out
  taken : s.free ≤ t.free
  tables : TablesOk s → TablesOk t
  start : StartOk s → StartOk t
  clock : TimeOk s → TimeOk t
  taint : LanternOk s → LanternOk t
  outside : SameOutside F s t

/-- The parts of the state that each command may change. -/
def footprint : Instr → Footprint
  | .powerUp _ _ | .auxInRange =>
    { power := true }
  | .refBufferOn _ | .springTriggerTimeout _ =>
    { dies := true }
  | .tarnRowRewrite _ _ _ | .tstatWindowClose _ _ _ | .tstatSelect _ _ _ | .tstatClear _ _ =>
    { tiles := true }
  | .arbResyncCmd _ _ =>
    { feedIods := true }
  | .fnEvtClear _ _ =>
    { fns := true }
  | .specProbe _ _ =>
    { entries := true }
  | .sbStatus _ =>
    { out := true }
  | .boundaryScanCycle _ _ _ _ =>
    { power := true, free := true }
  | .cfgWrite _ _ _ | .cfgFlashWriteDone _ _ =>
    { cfg := true, time := true }
  | .subscriptionLapse _ _ =>
    { time := true, log := true }
  | .mcHeartbeat _ =>
    { time := true, fm := true }
  | .hkSwTrig _ _ _ =>
    { time := true, dies := true }
  | .stepResolved _ _ _ _ _ _ _ | .weirClose _ _ _ =>
    { time := true, parts := true }
  | .hkSweepStepDone _ _ _ _ | .selfTimedSweep _ _ =>
    { mcEv := true, dies := true }
  | .nop _ _ | .loop _ _ _ _ | .jump _ _ _ | .stepEnd _ _ _ _ | .waitArr _ _ _ _ | .waitArrResume _ _ =>
    { tiles := true, parts := true }
  | .releaseArrive _ _ _ _ =>
    { tiles := true, releases := true }
  | .alarmMsgTx _ =>
    { feedPorts := true, out := true }
  | .busMasterEnableWrite _ _ _ | .msixUnmask _ _ | .fnQCtrlWrite _ _ | .sqCtrlWrite _ _ _ | .cqCtrlWrite _ _ _
  | .erCtrlWrite _ _ | .queueBaseWrite _ _ _ =>
    { fns := true, out := true }
  | .specCut _ _ =>
    { parts := true, entries := true }
  | .sbCfgData _ _ _ =>
    { cfg := true, time := true, out := true }
  | .fleshaEventSend _ =>
    { cfg := true, log := true, out := true }
  | .springTrigger _ =>
    { time := true, therm := true, dies := true }
  | .ptFence _ _ =>
    { time := true, fm := true, parts := true }
  | .coalesceIntervalEnd _ _ =>
    { time := true, mcEv := true, dies := true }
  | .confirmStart _ _ =>
    { time := true, tiles := true, parts := true }
  | .cqCoalTimeout _ _ _ =>
    { time := true, fns := true, out := true }
  | .tempWindowResume _ _ =>
    { time := true, engines := true, parts := true }
  | .springReportMissed _ =>
    { therm := true, mcEv := true, dies := true }
  | .hostLinkTrained _ _ _ =>
    { mcEv := true, dies := true, hostPorts := true }
  | .aeIssue _ _ _ _ _ _ =>
    { dies := true, tiles := true, parts := true }
  | .evidenceRingWrite _ =>
    { fns := true, out := true, free := true }
  | .lanternExpiry _ | .ltnLock _ _ _ =>
    { time := true, lantern := true, mcEv := true, dies := true }
  | .driftUpdate _ _ _ _ _ =>
    { time := true, mcEv := true, dies := true, tiles := true }
  | .resPatrolRead _ _ _ _ _ _ =>
    { time := true, mcEv := true, dies := true, reservoirs := true }
  | .arrayDegraded _ _ | .arrayRecovered _ _ =>
    { time := true, mcEv := true, dies := true, parts := true }
  | .sbTime _ _ _ =>
    { time := true, mcEv := true, dies := true, out := true }
  | .faultWindowRoll _ =>
    { time := true, dies := true, tiles := true, stackTab := true }
  | .twimerLinkDown _ _ _ =>
    { time := true, dies := true, parts := true, xfers := true }
  | .cqCompletionWrite _ _ =>
    { time := true, fns := true, parts := true, out := true }
  | .fill _ _ _ _ _ _ _ | .copy _ _ _ _ _ _ _ | .quant _ _ _ _ _ _ _ _ _ | .tarnMvm _ _ _ _ _ _ _ _
  | .ceExact _ _ _ _ _ _ _ _ | .ceFp32 _ _ _ _ _ _ _ _ | .ceOutl _ _ _ _ _ _ _ _ | .combine _ _ _ _ _ _
  | .round _ _ _ _ _ _ _ | .vec _ _ _ _ _ _ _ _ _ _ | .vecFn _ _ _ _ _ _ _ _ _ | .vecRed _ _ _ _ _ _ _ _
  | .moments _ _ _ _ _ _ _ _ | .rank _ _ _ _ _ _ _ _ _ _ =>
    { mcEv := true, dies := true, tiles := true, parts := true }
  | .iin48Crossing _ =>
    { power := true, therm := true, mcEv := true, dies := true, parts := true }
  | .transientLimit _ _ _ _ | .flitParityError _ _ _ _ _ _ =>
    { time := true, fm := true, mcEv := true, dies := true, tiles := true }
  | .contextSwitch _ _ _ _ _ | .preempt _ _ _ _ _ | .checkDone _ _ _ | .troubleNotice _ _ _ _ _ _ _ =>
    { time := true, mcEv := true, dies := true, tiles := true, parts := true }
  | .feedLinkDown _ _ =>
    { time := true, mcEv := true, dies := true, feedPorts := true, parts := true }
  | .sqDoorbell _ _ _ _ | .cqHeadDoorbell _ _ _ _ =>
    { time := true, mcEv := true, dies := true, fns := true, out := true }
  | .shadowRepair _ _ _ _ =>
    { time := true, mcEv := true, dies := true, engines := true, parts := true }
  | .stripeDown _ _ _ _ =>
    { time := true, mcEv := true, dies := true, parts := true, xfers := true }
  | .walkAccept _ _ _ =>
    { time := true, dies := true, tiles := true, parts := true, entries := true }
  | .ingestDrain _ _ _ =>
    { time := true, feedIods := true, fns := true, parts := true, entries := true }
  | .tarnRoundDone _ _ _ =>
    { mcEv := true, dies := true, tiles := true, parts := true, xfers := true }
  | .pull _ _ _ _ _ _ _ _ _ =>
    { mcEv := true, dies := true, tiles := true, parts := true, nextXfer := true }
  | .bar2Access _ _ _ _ =>
    { dies := true, stackTab := true, fns := true, dram := true, out := true }
  | .sbRead _ _ =>
    { tiles := true, parts := true, latches := true, out := true, free := true }
  | .ownersReload _ _ | .fleshaSubscribe _ _ _ _ _ | .fleshaCfgData _ _ _ _ _ | .fleshaLogRead _ _ _ _ _ =>
    { cfg := true, time := true, log := true, mcEv := true, dies := true, out := true }
  | .tarnScrubRead _ _ _ _ _ | .engineCompletion _ _ _ _ _ | .residueRepeatDone _ _ _ _ _ _ =>
    { time := true, fm := true, mcEv := true, dies := true, tiles := true, parts := true }
  | .noticeAck _ _ _ =>
    { time := true, fm := true, dies := true, tiles := true, xfers := true, releases := true }
  | .confirmEnd _ _ _ =>
    { time := true, mcEv := true, dies := true, stackTab := true, parts := true, dram := true }
  | .feedLinkUp _ _ =>
    { time := true, mcEv := true, dies := true, feedPorts := true, out := true, free := true }
  | .erHeadDoorbell _ _ _ =>
    { time := true, mcEv := true, dies := true, fns := true, parts := true, out := true }
  | .matrixOutputComplete _ _ _ _ _ _ _ _ =>
    { time := true, dies := true, tiles := true, parts := true, xfers := true, nextXfer := true }
  | .logDrain =>
    { log := true, mcEv := true, dies := true, fns := true, parts := true, out := true }
  | .signal _ _ _ _ | .dmaGet _ _ _ _ _ _ _ _ | .dmaPut _ _ _ _ _ _ _ _ | .put _ _ _ _ _ _ _ _ | .pullServe _ _ _ _ =>
    { mcEv := true, dies := true, tiles := true, parts := true, xfers := true, nextXfer := true }
  | .rcRead _ _ | .lowWordRead _ _ =>
    { tiles := true, fns := true, parts := true, latches := true, out := true, free := true }
  | .fleshaResync _ _ _ _ _ =>
    { cfg := true, time := true, log := true, mcEv := true, dies := true, feedIods := true, out := true }
  | .fleshaTime _ _ _ _ _ =>
    { cfg := true, time := true, log := true, mcEv := true, dies := true, out := true, free := true }
  | .telemetrySend _ _ =>
    { cfg := true, time := true, tiles := true, parts := true, latches := true, out := true, free := true }
  | .keyLookupDone _ _ =>
    { time := true, mcEv := true, dies := true, feedIods := true, fns := true, parts := true, entries := true }
  | .fleshaDebugUnlock _ _ _ _ _ | .fleshaDebugLock _ _ _ _ _ =>
    { cfg := true, time := true, log := true, lantern := true, mcEv := true, dies := true, fns := true, out := true }
  | .variantUnload _ _ _ =>
    { cfg := true, time := true, log := true, mcEv := true, dies := true, fns := true, parts := true, out := true }
  | .hostBatchCommandRead _ _ _ =>
    { cfg := true, time := true, mcEv := true, dies := true, fns := true, parts := true, entries := true, out := true }
  | .walkEnd _ _ _ _ _ =>
    { time := true, mcEv := true, dies := true, tiles := true, parts := true, entries := true, xfers := true,
      nextXfer := true }
  | .entryFreed _ _ _ | .editApply _ _ _ =>
    { time := true, mcEv := true, dies := true, stackTab := true, fns := true, parts := true, entries := true, dram := true }
  | .activate _ _ _ | .erase _ _ _ =>
    { cfg := true, time := true, log := true, mcEv := true, dies := true, fns := true, reservoirs := true, parts := true,
      out := true }
  | .weirRelease _ _ _ =>
    { cfg := true, time := true, mcEv := true, dies := true, tiles := true, fns := true, engines := true, parts := true,
      out := true }
  | .dramPatrolRead _ _ _ _ =>
    { time := true, mcEv := true, dies := true, stackTab := true, engines := true, parts := true, entries := true,
      dram := true, nextOp := true }
  | .arbHoldExpiry _ _ _ =>
    { time := true, mcEv := true, dies := true, feedPorts := true, feedIods := true, fns := true, parts := true,
      entries := true, out := true }
  | .sqFetch _ _ _ _ | .promptRead _ _ _ _ | .alarmRelease _ _ _ =>
    { time := true, mcEv := true, dies := true, feedPorts := true, fns := true, parts := true, entries := true, out := true,
      free := true }
  | .fleshaRead _ _ _ _ _ =>
    { cfg := true, time := true, log := true, mcEv := true, dies := true, tiles := true, parts := true, latches := true,
      out := true, free := true }
  | .abort _ _ _ | .installTempTimeout _ _ =>
    { cfg := true, time := true, log := true, mcEv := true, dies := true, fns := true, reservoirs := true, engines := true,
      parts := true, out := true }
  | .swap _ _ _ | .variantLoad _ _ _ =>
    { cfg := true, time := true, log := true, mcEv := true, dies := true, fns := true, engines := true, parts := true,
      nextOp := true, out := true }
  | .feedFrameRx _ _ _ =>
    { time := true, mcEv := true, dies := true, feedPorts := true, feedIods := true, fns := true, parts := true,
      entries := true, out := true, free := true }
  | .unload _ _ _ =>
    { cfg := true, time := true, log := true, fm := true, mcEv := true, dies := true, tiles := true, fns := true,
      engines := true, parts := true, out := true }
  | .install _ _ _ _ _ _ =>
    { cfg := true, time := true, log := true, mcEv := true, dies := true, fns := true, reservoirs := true, engines := true,
      parts := true, nextOp := true, out := true }
  | .installChunk _ _ _ _ | .installSessionTimeout _ _ | .fleshaImageData _ _ _ _ _ _ =>
    { cfg := true, time := true, log := true, mcEv := true, dies := true, fns := true, reservoirs := true, engines := true,
      parts := true, out := true, free := true }
  | .weirDrainDone _ _ _ =>
    { time := true, mcEv := true, dies := true, stackTab := true, feedPorts := true, fns := true, parts := true,
      entries := true, dram := true, out := true, free := true }
  | .heartbeatMiss _ | .mcSelfFailReport _ | .fleshaFailover _ _ _ _ _ =>
    { cfg := true, time := true, log := true, fm := true, mcEv := true, dies := true, fns := true, reservoirs := true,
      engines := true, parts := true, out := true, free := true }
  | .passOpen _ _ | .passCommit _ _ _ =>
    { time := true, mcEv := true, dies := true, tiles := true, stackTab := true, feedPorts := true, fns := true,
      parts := true, entries := true, dram := true, out := true, free := true }
  | .transferLanded _ _ _ _ =>
    { time := true, mcEv := true, dies := true, tiles := true, stackTab := true, engines := true, parts := true,
      entries := true, dram := true, xfers := true, releases := true, nextOp := true }
  | .load _ _ _ =>
    { cfg := true, time := true, log := true, mcEv := true, dies := true, tiles := true, stackTab := true, fns := true,
      engines := true, parts := true, dram := true, nextOp := true, out := true }
  | .pvDone _ _ _ _ _ _ _ =>
    { cfg := true, time := true, fm := true, mcEv := true, dies := true, tiles := true, feedIods := true, fns := true,
      engines := true, parts := true, entries := true, nextOp := true, out := true }
  | .watchdogTick _ | .fnCtrlPartReset _ _ _ | .partResetStart _ _ _ | .ptReset _ _ | .fmRetireChannel _ _ _ _
  | .channelRetire _ _ _ | .relocationRetry _ _ =>
    { cfg := true, time := true, fm := true, mcEv := true, dies := true, tiles := true, stackTab := true, feedPorts := true,
      fns := true, engines := true, parts := true, entries := true, dram := true, out := true, free := true }
  | .imageChunkDecrypted _ _ _ =>
    { cfg := true, time := true, fm := true, mcEv := true, dies := true, tiles := true, stackTab := true, feedIods := true,
      fns := true, engines := true, parts := true, entries := true, dram := true, nextOp := true, out := true }
  | .troubleTest _ _ | .fmComputeRetire _ _ _ _ | .fmDarkRetire _ _ _ | .dieRetire _ _ _ _ =>
    { cfg := true, time := true, fm := true, mcEv := true, dies := true, tiles := true, stackTab := true, feedPorts := true,
      fns := true, engines := true, parts := true, entries := true, dram := true, xfers := true, out := true, free := true }
  | .relocation _ _ =>
    { cfg := true, time := true, fm := true, mcEv := true, dies := true, tiles := true, stackTab := true, feedPorts := true,
      fns := true, engines := true, parts := true, entries := true, dram := true, nextOp := true, out := true, free := true }
  | .moduleStart _ _ =>
    { cfg := true, time := true, therm := true, fm := true, mcEv := true, dies := true, tiles := true, feedPorts := true,
      feedIods := true, hostPorts := true, fns := true, reservoirs := true, engines := true, parts := true, entries := true,
      nextOp := true, out := true }
  | .partResetFinish _ _ _ _ =>
    { cfg := true, time := true, fm := true, mcEv := true, dies := true, tiles := true, stackTab := true, feedPorts := true,
      feedIods := true, fns := true, engines := true, parts := true, entries := true, dram := true, nextOp := true,
      out := true, free := true }
  | .noticeAckTimeout _ _ _ =>
    { cfg := true, time := true, fm := true, mcEv := true, dies := true, tiles := true, stackTab := true, feedPorts := true,
      fns := true, engines := true, parts := true, entries := true, dram := true, xfers := true, releases := true,
      out := true, free := true }
  | .partRestart _ _ _ =>
    { cfg := true, time := true, log := true, fm := true, mcEv := true, dies := true, tiles := true, stackTab := true,
      feedPorts := true, feedIods := true, fns := true, engines := true, parts := true, entries := true, dram := true,
      nextOp := true, out := true, free := true }
  | .flr _ _ | .d3hotToD0 _ _ =>
    { cfg := true, time := true, log := true, fm := true, mcEv := true, dies := true, tiles := true, stackTab := true,
      feedPorts := true, fns := true, reservoirs := true, engines := true, parts := true, entries := true, dram := true,
      latches := true, out := true, free := true }
  | .perstAssert _ | .hostLinkLoss _ =>
    { cfg := true, log := true, fm := true, mcEv := true, dies := true, tiles := true, stackTab := true, feedPorts := true,
      hostPorts := true, fns := true, reservoirs := true, engines := true, parts := true, entries := true, dram := true,
      latches := true, out := true, free := true }
  | .moduleRestart _ _ =>
    { power := true, cfg := true, time := true, log := true, therm := true, fm := true, lantern := true, mcEv := true,
      dies := true, tiles := true, stackTab := true, feedPorts := true, feedIods := true, hostPorts := true, fns := true,
      reservoirs := true, engines := true, parts := true, ptSel := true, entries := true, dram := true, xfers := true,
      releases := true, nextXfer := true, nextOp := true, latches := true, out := true }
  | .modEnFall | .vin48Undervoltage _ | .auxOutOfRange =>
    { power := true, cfg := true, time := true, log := true, therm := true, fm := true, lantern := true, mcEv := true,
      dies := true, tiles := true, stackTab := true, feedPorts := true, feedIods := true, hostPorts := true, fns := true,
      reservoirs := true, engines := true, parts := true, ptSel := true, entries := true, dram := true, xfers := true,
      releases := true, nextXfer := true, nextOp := true, latches := true, free := true }
  | .springControl _ _ | .fleshaWrite _ _ _ _ _ | .sbWrite _ _ _ | .lanternSelWrite _ _ _ | .regWrite _ _ _ _ =>
    { power := true, cfg := true, time := true, log := true, therm := true, fm := true, lantern := true, mcEv := true,
      dies := true, tiles := true, stackTab := true, feedPorts := true, feedIods := true, hostPorts := true, fns := true,
      reservoirs := true, engines := true, parts := true, ptSel := true, entries := true, dram := true, xfers := true,
      releases := true, nextXfer := true, nextOp := true, latches := true, out := true, free := true }

end Sys2Proof.Machine
end

