-- ==== Sys2Proof/Certificates/Slice0/Obligations.lean ====
section
/-! DEFINITION. The statements for the provers. Each cites the rules of spec/ that it formalises. -/

open Sys2Proof Sys2Proof.Machine

/-- A step takes the command at the front of the queue and runs it on the state with the queue's rest. On an empty queue the block idles:
this clause is the model's choice (log entry 13). -/
def Obligations.StepRunsFrontCommand : Prop :=
  (∀ (s : State) (c : Instr) (rest : List Instr), step { s with pending := c :: rest } = exec c { s with pending := rest }) ∧
  (∀ s : State, s.pending = [] → step s = .next s)

/-- Reset is the module before power-up: no command waits, nothing has been sent, nothing runs, DRAM and every table list nothing; the
registers read the reset values of their tables (R96, R421, R445, R481, R508, R539), and the invariant of the block holds. -/
def Obligations.ResetLeavesTheSpecsValues : Prop :=
  let s := State.reset
  Inv s ∧ s.pending = [] ∧ s.out = [] ∧ s.cfg.started = false ∧ s.power.pwrgd = false ∧ s.lantern.unlocked = false ∧
  s.time.utc = false ∧ s.parts = [] ∧ s.entries = [] ∧ s.xfers = [] ∧ s.dram = [] ∧
  mgmtValue s none 0xF0000010 = 0 ∧ mgmtValue s none 0xF0030020 = 32 ∧ mgmtValue s none 0xF0030024 = 4 ∧ mgmtValue s none 0xF003002C = 1000000 ∧
  mgmtValue s none 0xF0040000 = 1500 ∧ mgmtValue s none 0xF0040014 = 30 ∧ mgmtValue s none 0xF006000C = 256 + 4 * 65536 ∧
  mgmtValue s none 0xF0070000 = 0 ∧ mgmtValue s none 0x08200404 = 16

/-- Every command answers a next state where its operands name sites of the series, and the fault `illFormed` on every state where they do
not. No command is refused. -/
def Obligations.WellFormedCommandsComplete : Prop :=
  ∀ (c : Instr) (s : State), (instrWellFormed c = true → Completes c s) ∧ (instrWellFormed c = false → exec c s = .fault .illFormed)

/-- The frame of every command: it keeps what is fused in the module and the waiting commands, takes back nothing that was sent, and changes
no part of the state outside the footprint named for it. -/
def Obligations.CommandsKeepTheirFootprint : Prop :=
  ∀ (c : Instr) (s t : State), exec c s = .next t →
    SameModule s t ∧ t.pending = s.pending ∧ s.out <+: t.out ∧ s.free ≤ t.free ∧ SameOutside (footprint c) s t

/-- R179, R185: an instruction of a schedule, and a command of a tile's Tarns, rows or statistics, changes no other tile; an instruction
changes no partition but its context's, no sequence and no byte of DRAM. -/
def Obligations.InstructionsStayOnTheirTile : Prop :=
  ∀ (c : Instr) (s u : State), exec c s = .next u →
    (∀ t, tileSite c = some t → ∀ t', t' ≠ t → u.tile t' = s.tile t') ∧
    (∀ t k, ctxSite c = some (t, k) → (∀ p, p ≠ ctxPart (ctxOf s t k) → u.part p = s.part p) ∧ u.entries = s.entries ∧ u.dram = s.dram)

/-- Every step keeps the invariant: the tables and DRAM stay in their canonical form, the module has started only with power good, the
module time is never before an adopted one, and an unlocked Lantern has left its taint. -/
def Obligations.StepKeepsInv : Prop := ∀ s t : State, Inv s → step s = .next t → Inv t

/-- R535: Lantern is unlocked only by an accepted DEBUG_UNLOCK from an OPERATOR owner: no other command unlocks it. -/
def Obligations.OnlyDebugUnlockUnlocks : Prop :=
  ∀ (c : Instr) (s t : State), exec c s = .next t → s.lantern.unlocked = false → t.lantern.unlocked = true →
    ∃ port addr udp msg now m, c = .fleshaDebugUnlock port addr udp msg now ∧ FleshaCmd s port 0x0040 msg m ∧
      isOperator s m.owner = true ∧ byteAt m.body 0 = 1

/-- R165: the rank unit's result depends only on the set of candidates and never on their order of arrival, and ranking the union of two
top-k lists gives the result of ranking every candidate together. -/
def Obligations.RankDependsOnTheSetOnly : Prop :=
  ∀ (f k : Nat) (m : Bool) (cs ds : List (Nat × Nat)), f < 2 →
    (cs.Perm ds → (cs.map Prod.snd).Nodup → rankUnit f k m cs = rankUnit f k m ds) ∧
    (((cs ++ ds).map Prod.snd).Nodup →
      rankUnit f k m ((rankSort f m cs).take k ++ (rankSort f m ds).take k) = rankUnit f k m (cs ++ ds))

/-- R181: NOP does nothing, STEP_END ends a layer step and its notice leaves with the layer, the matrix and the generation, LOOP begins a
loop of `body` instructions, JUMP moves the program counter by its signed offset; each completes where the context issues it (R179) and
touches nothing but its context and the notices of its pass. R181: where a context's program counter goes. Inside a schedule with no loop
ending at `pc` it becomes `pc`; at the end of a loop body with repeats left the body starts again with one repeat fewer; with none left the
loop ends. -/
def Obligations.SequencerControlFollowsLoops : Prop :=
  (∀ (s : State) (t c : Nat), t < 1280 → c < 15 →
     let k := ctxOf s t c
     (issues s t c { op := 0x00 } [] = true → exec (.nop t c) s = .next (goTo s t c (k.pc + 1))) ∧
     (∀ l m id, issues s t c { op := 0x03, a := l, b := m } [] = true → k.pass = some id →
       exec (.stepEnd t c l m) s = .next (goTo (modCtx (modPass s (ctxPart k) id fun x => { x with notices := x.notices ++ [(l, m, k.gen, t)] }) t c
         fun k => { k with layer := l, place := 0 }) t c (k.pc + 1))) ∧
     (∀ count body, issues s t c { op := 0x01, a := count - 1, b := body } [] = true → 1 ≤ count → count ≤ 65536 → 1 ≤ body → k.loops.length < 4 →
       exec (.loop t c count body) s =
         .next (goTo (modCtx s t c fun k => { k with loops := (k.pc + 1, k.pc + 1 + body, count - 1) :: k.loops }) t c (k.pc + 1))) ∧
     (∀ (off : Int) (n : Nat), issues s t c { op := 0x02, b := (off % 2 ^ 32).toNat } [] = true → -2 ^ 31 ≤ off → off < 2 ^ 31 → (k.pc : Int) + off = n →
       exec (.jump t c off) s =
         .next (goTo (modCtx s t c fun k => { k with loops := k.loops.filter fun l => decide (l.1 ≤ n) && decide (n < l.2.1) }) t c n))) ∧
  (∀ (s : State) (t c pc : Nat) (sc : Sched), (ctxOf s t c).sched = some sc → pc < sc.instrs.length →
     ((ctxOf s t c).loops = [] → goTo s t c pc = modCtx s t c fun k => { k with pc := pc, loops := [] }) ∧
     (∀ st en left ls, (ctxOf s t c).loops = (st, en, left) :: ls → st < sc.instrs.length →
       (pc ≠ en → goTo s t c pc = modCtx s t c fun k => { k with pc := pc, loops := (st, en, left) :: ls }) ∧
       (pc = en → left ≠ 0 → goTo s t c pc = modCtx s t c fun k => { k with pc := st, loops := (st, en, left - 1) :: ls }) ∧
       (pc = en → left = 0 → ls = [] → goTo s t c pc = modCtx s t c fun k => { k with pc := pc, loops := [] })))

/-- R190: WAIT_ARR of count `k` completes at once where its counter has reached `k`, and takes `k` from it in one step; otherwise the
context waits, and WAIT_ARR_RESUME does the same once the counter has reached `k`. R189, R190: a raise of a counter adds 1 to it, and a
context that does not run finds it in its save area; at 0xFFFF the counter stays, and the pass fails with SCHED_FAULT. -/
def Obligations.WaitArrTakesItsCount : Prop :=
  (∀ (s : State) (t c ctr k : Nat), t < 1280 → c < 15 → ctr < 48 → 1 ≤ k → k ≤ 65535 →
     let n := tget 0 (ctxOf s t c).arr ctr
     let taken := goTo (modCtx s t c fun x => { x with arr := tset 0 x.arr ctr (tget 0 x.arr ctr - k), wait := none }) t c
       ((ctxOf s t c).pc + 1)
     (issues s t c { op := 0x08, a := ctr, b := k } [] = true → k ≤ n → exec (.waitArr t c ctr k) s = .next taken) ∧
     (issues s t c { op := 0x08, a := ctr, b := k } [] = true → n < k →
       exec (.waitArr t c ctr k) s = .next (modCtx s t c fun x => { x with wait := some (ctr, k) })) ∧
     ((ctxOf s t c).wait = some (ctr, k) → (s.tile t).running = some c → (s.tile t).fenced = false → (s.tile t).switchPending = false → k ≤ n →
       exec (.waitArrResume t c) s = .next taken)) ∧
  (∀ (s : State) (t c ctr : Nat), ctr < 48 →
     let n := tget 0 (ctxOf s t c).arr ctr
     let raised := modCtx s t c fun k => { k with arr := tset 0 k.arr ctr (n + 1) }
     (n ≠ 0xFFFF → (s.tile t).running = some c → raiseArr s t c ctr = raised) ∧
     (n ≠ 0xFFFF → raiseArr s t c ctr = mirrorCtx raised t c) ∧
     (n = 0xFFFF → (raiseArr s t c ctr).tile t = { s.tile t with schedFaultCnt := satAdd (s.tile t).schedFaultCnt 1 }) ∧
     (n = 0xFFFF → ∀ p id x, (ctxOf s t c).part = some p → (ctxOf s t c).pass = some id → findPass s p id = some x →
       x.poison = none → ∃ y, findPass (raiseArr s t c ctr) p id = some y ∧ y.poison = some 0x0312))

/-- R181, R199: SIGNAL sends the bare raise of a counter to the named tile of the partition. R192, R195: PUT reads the rows of its local
slot under the epoch and sends them to the slot of the other tile; its row data, the declared readers and the counter to raise travel with
it. A slot that cannot take them all is outside what its schedule has for them (R185): nothing leaves, and the tile counts an access fault.
R195, R196: PULL leaves a request at the source tile's station, when its own destination slot is free; PULL_SERVE with the request's epoch
standing in every row sends the rows to the reader, and the release where one is asked for. -/
def Obligations.TransfersBetweenTiles : Prop :=
  (∀ (s : State) (t c ctr target dt dc : Nat) (ls : List (Nat × Nat)), t < 1280 → c < 15 → ctr < 48 →
     issues s t c { op := 0x09, a := ctr, b := target } [] = true →
     remote s (ctxOf s t c) c target = some (dt, dc) → linksOf s (tileDie t) (tileDie dt) = some ls →
     ∃ u, exec (.signal t c ctr target) s = .next (goTo u t c ((ctxOf s t c).pc + 1)) ∧
       u.xfers = s.xfers ++ [{ id := s.nextXfer, part := ctxPart (ctxOf s t c), tag := (s.part (ctxPart (ctxOf s t c))).tag,
                               pass := (ctxOf s t c).pass.getD 0, gen := (ctxOf s t c).gen, tile := dt, ctx := dc,
                               ctr := some ctr, kind := .signal, src := t, links := ls, bytes := 8 }] ∧
       u.nextXfer = s.nextXfer + 1 ∧ u.tiles = s.tiles ∧ u.parts = s.parts) ∧
  (∀ (s : State) (t c slot tile rslot ctr e1 e2 dt dc : Nat) (ls : List (Nat × Nat)) (d dd : SlotDecl),
     t < 1280 → c < 15 → issues s t c { op := 0x12, e1 := e1, e2 := e2, a := slot, b := tile, c := rslot, d := ctr } [slotRes (ctxOf s t c) slot] = true →
     remote s (ctxOf s t c) c tile = some (dt, dc) →
     linksOf s (tileDie t) (tileDie dt) = some ls → slotDecl (ctxOf s t c) slot = some d → slotDecl (ctxOf s dt dc) rslot = some dd →
     (d.rows ≤ dd.rows → (∀ i, i < d.rows → rowReads (rowOf (s.tile t) (d.base + i)) e1 = true ∧ ownsRow (ctxOf s t c) (d.base + i) = true ∧
         (rowOf (s.tile t) (d.base + i)).poison = false) →
       ∃ u x, exec (.put t c slot tile rslot ctr e1 e2) s = .next (goTo u t c ((ctxOf s t c).pc + 1)) ∧
         u.xfers = s.xfers ++ [x] ∧ x.tile = dt ∧ x.ctx = dc ∧ x.ctr = (if ctr = 0xFFFF then none else some ctr) ∧
         x.kind = .rows ((toRows (((List.range d.rows).map fun i => rowBytes (rowOf (s.tile t) (d.base + i))).flatten)).map
           fun b => (b, false)) dd.base true dd.readers e2 ∧
         (u.tile t).rows = (s.tile t).rows) ∧
     (dd.rows < d.rows → ∃ u, exec (.put t c slot tile rslot ctr e1 e2) s = .next (goTo u t c ((ctxOf s t c).pc + 1)) ∧
       u.xfers = s.xfers ∧ (u.tile t).accessFaultCnt = satAdd (s.tile t).accessFaultCnt 1)) ∧
  ((∀ (s : State) (t c slot tile rslot ctr e1 e2 st sc : Nat) (release : Bool) (d : SlotDecl), t < 1280 → c < 15 →
     issues s t c { op := 0x13, e1 := e1, e2 := e2, a := slot, b := tile, c := rslot, d := modeD ctr (b2n release) } [slotRes (ctxOf s t c) slot] = true →
     slotDecl (ctxOf s t c) slot = some d → (∀ i, i < d.rows → (rowOf (s.tile t) (d.base + i)).full = false) →
     remote s (ctxOf s t c) c tile = some (st, sc) →
     ∃ u r, exec (.pull t c slot tile rslot ctr e1 e2 release) s = .next (goTo u t c ((ctxOf s t c).pc + 1)) ∧
       (u.tile st).pulls = (s.tile st).pulls ++ [r] ∧ r.id = s.nextXfer ∧ u.nextXfer = s.nextXfer + 1 ∧ r.srcSlot = rslot ∧
       r.epoch = e2 ∧ r.dstTile = t ∧ r.dstCtx = c ∧ r.dstSlot = slot ∧ r.dstEpoch = e1 ∧ r.ctr = ctr ∧ r.release = release) ∧
   (∀ (s : State) (t req sc coll : Nat) (merged : Bool) (r : PullReq) (d dd : SlotDecl) (ls : List (Nat × Nat)), t < 1280 →
     (s.tile t).pulls.find? (fun q => q.id == req) = some r → r.tag = (s.part r.part).tag →
     destCtx s r.part (ctxOf s r.dstTile r.dstCtx).slot t r.dstCtx = some sc → slotDecl (ctxOf s t sc) r.srcSlot = some d →
     slotDecl (ctxOf s r.dstTile r.dstCtx) r.dstSlot = some dd → d.rows ≤ dd.rows →
     (∀ i, i < d.rows → rowReads (rowOf (s.tile t) (d.base + i)) r.epoch = true) → linksOf s (tileDie t) (tileDie r.dstTile) = some ls →
     ∃ u x, exec (.pullServe t req merged coll) s = .next u ∧ u.xfers = s.xfers ++ [x] ∧ x.tile = r.dstTile ∧ x.ctx = r.dstCtx ∧
       x.kind = .rows ((List.range d.rows).map fun i =>
         (rowBytes (rowOf (s.tile t) (d.base + i)), (rowOf (s.tile t) (d.base + i)).poison)) dd.base true dd.readers r.dstEpoch ∧
       x.pull = (if r.release then some { part := r.part, tile := t, base := d.base, rows := d.rows, epoch := r.epoch } else none) ∧
       (u.tile t).pulls = (s.tile t).pulls.filter (fun q => q.id != req) ∧ (u.tile t).pullCnt = wrapAdd (s.tile t).pullCnt 1 ∧
       (u.tile t).arbCollideCnt = wrapAdd (s.tile t).arbCollideCnt coll ∧ (u.tile t).rows = (s.tile t).rows))

/-- FILL and COPY (R186, R187): FILL writes its constant to every row named, under the slot rules where a declared slot holds the row (the
constant's 64-bit form overlaps the width code: log entry 199); COPY moves rows, all or none: with one source row not readable no row
changes. R192, R196: a release that a reader has sent takes one reader from each row that is FULL under the epoch, and the row is free at 0;
RELEASE_ARRIVE of one row changes that row alone. A release that no reader has sent does not arrive. -/
def Obligations.RowsAreFilledCopiedAndFreed : Prop :=
  (∀ (s : State) (t c rows : Nat), t < 1280 → c < 15 → 1 ≤ rows → rows ≤ 4096 →
     let k := ctxOf s t c
     (∀ first value width e, let v := fillConst value width
       issues s t c { op := 0x18, e1 := e, a := rows, b := first, c := v % 2 ^ 32, d := v / 2 ^ 32 } [.rows first rows] = true →
       (∀ i, i < rows → ownsRow k (first + i) = true ∧ ((slotAt k (first + i)).isSome = true → (rowOf (s.tile t) (first + i)).full = false)) →
       ∃ u, exec (.fill t c rows first value width e) s = .next (goTo u t c (k.pc + 1)) ∧
         (∀ i, i < rows → rowOf (u.tile t) (first + i) = match slotAt k (first + i) with
           | some (_, d) => rowWrite (fillRow value width) e d.readers false
           | none => { rowOf (s.tile t) (first + i) with data := mkData (fillRow value width), poison := false, suspect := false }) ∧
         (∀ r, r < first ∨ first + rows ≤ r → rowOf (u.tile t) r = rowOf (s.tile t) r)) ∧
     (∀ src dst e1 e2,
       issues s t c { op := 0x19, e1 := e1, e2 := e2, a := rows, b := src, c := dst } [.rows src rows, .rows dst rows] = true →
       ((∀ i, i < rows → ownsRow k (src + i) = true ∧ ownsRow k (dst + i) = true ∧
           ((slotAt k (src + i)).isSome = true → rowReads (rowOf (s.tile t) (src + i)) e1 = true) ∧
           ((slotAt k (dst + i)).isSome = true → (rowOf (s.tile t) (dst + i)).full = false)) →
         ∃ u, exec (.copy t c rows src dst e1 e2) s = .next (goTo u t c (k.pc + 1)) ∧
           (∀ i, i < rows → rowBytes (rowOf (u.tile t) (dst + i)) = rowBytes (rowOf (s.tile t) (src + i)) ∧
             (rowOf (u.tile t) (dst + i)).poison = (rowOf (s.tile t) (src + i)).poison ∧
             (rowOf (u.tile t) (dst + i)).full = ((slotAt k (dst + i)).isSome || (rowOf (s.tile t) (dst + i)).full)) ∧
           (∀ r, r < dst ∨ dst + rows ≤ r → rowOf (u.tile t) r = rowOf (s.tile t) r)) ∧
       (∀ i, i < rows → ownsRow k (src + i) = false →
         ∃ u, exec (.copy t c rows src dst e1 e2) s = .next (goTo u t c (k.pc + 1)) ∧ (u.tile t).rows = (s.tile t).rows))) ∧
  (∀ (s : State) (t r epoch : Nat), t < 1280 →
     let sent := s.releases.find? fun q => q.tile == t && q.base == r && q.rows == 1 && q.epoch == epoch
     (∀ q, sent = some q → rowReads (rowOf (s.tile t) r) epoch = true →
       exec (.releaseArrive t r 1 epoch) s = .next (({ s with releases := s.releases.erase q }).modTile t fun x => { x with
         rows := tset {} x.rows r ({ rowOf x r with readers := (rowOf x r).readers - 1, full := decide (1 < (rowOf x r).readers) }) })) ∧
     (∀ q, sent = some q → rowReads (rowOf (s.tile t) r) epoch = false →
       exec (.releaseArrive t r 1 epoch) s = .next (({ s with releases := s.releases.erase q }).modTile t fun x => x)) ∧
     (sent = none → exec (.releaseArrive t r 1 epoch) s = .next s))

/-- The vector unit (R182, R183, R160 to R162) and the moments and rank units (R164 to R168): where the source slots hold their rows under
the epoch and the destination slot is free, each instruction completes: the destination's rows hold the unit's result of the values read,
FULL under the second epoch with the declared readers; a poisoned source row poisons them (R451). VEC converts under R51 or combines two or
three sources; what R51 does not allow does nothing (R52). VEC_FN, VEC_RED, MOMENTS over the elements that are not padding (R184), RANK.
Operation order, layouts and format nibbles are the model's choice (log entries 22 and 23). -/
def Obligations.VectorUnitsWriteTheirResults : Prop :=
  ∀ (s : State) (t c src dst f e1 e2 : Nat) (d : SlotDecl) (bs : List Byte) (bad : Bool), t < 1280 → c < 15 → SlotTakes s t c dst d → f < 8 →
    let k := ctxOf s t c
    let code := fun op b x : Nat => ({ op := op, e1 := e1, e2 := e2, a := src, b := b, c := dst, d := x } : Code)
    let two := [slotRes k src, slotRes k dst]
    (∀ strips g src2, g < 7 → convNone f g = false → issues s t c (code 0x30 src2 (vecD 8 (f + 16 * g) strips 0)) two = true →
      SlotHolds s t c src (rowsFor f (64 * strips)) e1 bs bad →
      ∃ u, exec (.vec t c src src2 dst 8 (f + 16 * g) strips e1 e2) s = .next (goTo u t c (k.pc + 1)) ∧
        (u.tile t).rows = slotResult (s.tile t) d e2 bad (convVec f g (64 * strips) bs)) ∧
    (∀ strips op g src2, 8 < op ∨ g = 7 ∨ 8 ≤ g ∨ (op = 8 ∧ convNone f g = true) → g < 16 →
      exec (.vec t c src src2 dst op (f + 16 * g) strips e1 e2) s = .next s) ∧
    (∀ strips g op src2 bs2 bad2, g < 7 → op < 8 → issues s t c (code 0x30 src2 (vecD op (f + 16 * g) strips 0)) (two ++ [slotRes k src2]) = true →
      SlotHolds s t c src2 (rowsFor f (64 * strips)) e1 bs2 bad2 →
      SlotHolds s t c src (rowsFor f (if vecTernary op then 2 * (64 * strips) else 64 * strips)) e1 bs bad →
      ∃ u, exec (.vec t c src src2 dst op (f + 16 * g) strips e1 e2) s = .next (goTo u t c (k.pc + 1)) ∧
        (u.tile t).rows = slotResult (s.tile t) d e2 (bad || bad2)
          (let xs := readVec f (if vecTernary op then 2 * (64 * strips) else 64 * strips) bs
           writeVec g (vecZip op (xs.take (64 * strips)) (readVec f (64 * strips) bs2) (xs.drop (64 * strips))))) ∧
    (∀ strips fn, fn < 8 → issues s t c (code 0x31 0 (vecD fn f strips 0)) two = true → SlotHolds s t c src (rowsFor f (64 * strips)) e1 bs bad →
      ∃ u, exec (.vecFn t c src dst fn f strips e1 e2) s = .next (goTo u t c (k.pc + 1)) ∧
        (u.tile t).rows = slotResult (s.tile t) d e2 bad
          (packBytes 0 ((readVec f (64 * strips) bs).map fun x => encFP32 (vecFnVal fn x)))) ∧
    (∀ strips p, planOf s (ctxPart k) k.slot = some p → issues s t c (code 0x32 0 (vecD 0 f strips 0)) two = true →
      SlotHolds s t c src (rowsFor f (64 * strips)) e1 bs bad →
      ∃ u, exec (.vecRed t c src dst f strips e1 e2) s = .next (goTo u t c (k.pc + 1)) ∧
        (u.tile t).rows = slotResult (s.tile t) d e2 bad (toLe 4 (reduce p.order 64 (readVec f (64 * strips) bs)))) ∧
    (∀ strips, f < 2 → issues s t c (code 0x33 0 (vecD 0 f strips 0)) two = true →
      SlotHolds s t c src (rowsFor f (trueElems s k strips)) e1 bs bad →
      ∃ u, exec (.moments t c src dst f strips e1 e2) s = .next (goTo u t c (k.pc + 1)) ∧
        (u.tile t).rows = slotResult (s.tile t) d e2 bad
          (let o := momentsOut (momentsOf ((readVec f (trueElems s k strips) bs).map encFP32))
           toLe 4 o.1 ++ toLe 4 o.2.1 ++ toLe 4 o.2.2.1 ++ toLe 4 o.2.2.2.1 ++ toLe 4 o.2.2.2.2.1 ++ toLe 4 o.2.2.2.2.2)) ∧
    (∀ n posSlot mode pb bad2, f < 2 → 1 ≤ n → n ≤ 64 →
      issues s t c (code 0x34 posSlot (vecD 0 f n (b2n mode))) [slotRes k src, slotRes k posSlot, slotRes k dst] = true →
      SlotHolds s t c src (slotRows s t c src) e1 bs bad → SlotHolds s t c posSlot (slotRows s t c posSlot) e1 pb bad2 →
      ∃ u, exec (.rank t c src posSlot dst f n mode e1 e2) s = .next (goTo u t c (k.pc + 1)) ∧
        (u.tile t).rows = slotResult (s.tile t) d e2 (bad || bad2)
          (let len := Nat.min (slotRows s t c src * (512 / fmtBits f)) (slotRows s t c posSlot * 16)
           let r := rankUnit f n mode ((unpackNat (fmtBits f) len (leAt bs 0 (len * fmtBits f / 8))).zip (unpackNat 32 len (leAt pb 0 (len * 4))))
           toLe 4 r.1 ++ (r.2.map fun q => toLe 4 q.1 ++ toLe 4 q.2).flatten))

/-- QUANT (R47 to R50, R109 to R112): a BF16 source becomes blocks with scales in the destination slot. In a layer the CE runs, nothing is
taken out; a scale is measured unless the instruction supplies the matrix's scales and the pass does not measure the layer anew. In a Tarn
layer the selected outliers leave the vector, are kept with the destination slot and counted; past 4 × *C*a of them the step is counted as a
fallback, and outside a reference pass its outliers are not. -/
def Obligations.QuantTakesOutliersOut : Prop :=
  ∀ (s : State) (t c src dst fmt idx e1 e2 : Nat) (supplied : Bool) (d : SlotDecl) (bs : List Byte) (bad : Bool) (m : Matrix) (lay : Layer) (x : Pass),
    let k := ctxOf s t c
    let p := ctxPart k
    t < 1280 → c < 15 → issues s t c { op := 0x20, e1 := e1, e2 := e2, a := src, b := dst, c := fmt, d := modeD idx (b2n supplied) }
      [slotRes k src, slotRes k dst] = true →
    4 ≤ fmt → fmt ≤ 6 → SlotTakes s t c dst d → SlotHolds s t c src (slotRows s t c src) e1 bs bad →
    layerOf s p k.slot (ctxLayer k) = some lay → lay.matrices[idx]? = some m → k.pass = some x.id → findPass s p x.id = some x →
    let codes := unpackNat 16 (Nat.min m.k (32 * slotRows s t c src)) (leAt bs 0 (2 * Nat.min m.k (32 * slotRows s t c src)))
    let tarn := (tarnLayers s p k.slot).contains (ctxLayer k) && (fmt == 4 || fmt == 5) && lay.ca != 0
    let sel := if tarn then selectOutliers lay.tau 0 (blocks32 codes) else ([], 0)
    let vals := ((List.range codes.length).zip codes).map fun q =>
      if sel.1.any fun o => o.1 == q.1 then Val.fin false 0 1 else decBF16 q.2
    let scales := if supplied && !x.measured.contains (ctxLayer k) then some m.supplied else none
    ∃ u, exec (.quant t c src dst fmt idx supplied e1 e2) s = .next (goTo u t c (k.pc + 1)) ∧
      (u.tile t).rows = slotResult (s.tile t) d e2 bad (vecBytes fmt (quantBlocks fmt scales 0 (blocks32 vals))) ∧
      tget [] (ctxOf u t c).outl dst = sel.1 ∧
      (sel.1.length ≤ 4 * lay.ca → (u.tile t).dynOutlCnt = wrapAdd (s.tile t).dynOutlCnt sel.1.length ∧ (u.tile t).dynFbCnt = (s.tile t).dynFbCnt) ∧
      (4 * lay.ca < sel.1.length → (u.tile t).dynFbCnt = satAdd (s.tile t).dynFbCnt 1 ∧
        (x.ref = false → (u.tile t).dynOutlCnt = (s.tile t).dynOutlCnt)) ∧
      (lay.ca < sel.1.length → sel.1.length ≤ 4 * lay.ca → (u.tile t).dynOvfCnt = satAdd (s.tile t).dynOvfCnt 1)

/-- The correction engine's exact path (R53, R147, R149, R151, R163, R452): CE_EXACT and CE_OUTL enter the products of each output column
one by one into the word of that column, overwriting or adding as the instruction says, and CE_FP32 rounds its dot product over the operand
set's inputs into the word as an FP32 partial; each completes with its input slot readable and the operand set of the schedule. R148, R151:
an addition that would leave the legal range of a long accumulator keeps the value held and sets POISON; the tile counts it and reports it
with the output's index (its width: log entry 191), and the pass fails. One inside the range adds exactly, and status bits accumulate. -/
def Obligations.CorrectionEngineEntersProducts : Prop :=
  (∀ (s : State) (t c opSet slot la terms epoch : Nat) (add : Bool) (o : OperandSet) (m : Matrix) (bs : List Byte) (bad : Bool),
     let k := ctxOf s t c
     let p := ctxPart k
     t < 1280 → c < 15 → opSetOf s k opSet = some (o, m) →
     SlotHolds s t c slot (Nat.min (rowsFor m.inFmt m.k) (Nat.max 1 (slotRows s t c slot))) epoch bs bad →
     let cell := cellPlaced s p k.slot o.layer
     let xs := inputVals m.inFmt m.k bs
     let old := fun j => if add then wordOf (s.tile t) cell (la + j) else {}
     let sum := fun (j : Nat) (vs : List LaWord) => vs.foldl (fun w v => (laEnter w v).1) (old j)
     (issues s t c (ceCode 0x28 opSet slot la terms add epoch) (ceUses s t c opSet slot la add) = true →
       ∃ u, exec (.ceExact t c opSet slot la terms add epoch) s = .next (goTo u t c (k.pc + 1)) ∧ ∀ j, j < o.cols →
         (wordOf (u.tile t) cell (la + j)).la = (sum j (exactTerms s k o m xs bad (o.col + j))).la ∧
         (wordOf (u.tile t) cell (la + j)).poison = (sum j (exactTerms s k o m xs bad (o.col + j))).poison) ∧
     (issues s t c (ceCode 0x2A opSet slot la terms add epoch) (ceUses s t c opSet slot la add) = true →
       let fb := match k.pass.bind (findPass s p) with | some x => inFallback x o.layer o.matrix | none => false
       ∃ u, exec (.ceOutl t c opSet slot la terms add epoch) s = .next (goTo u t c (k.pc + 1)) ∧ ∀ j, j < o.cols →
         (wordOf (u.tile t) cell (la + j)).la = (sum j (outlTerms s k o m xs (tget [] k.outl slot) bad fb (o.col + j))).la ∧
         (wordOf (u.tile t) cell (la + j)).poison = (sum j (outlTerms s k o m xs (tget [] k.outl slot) bad fb (o.col + j))).poison) ∧
     (issues s t c (ceCode 0x29 opSet slot la terms add epoch) (ceUses s t c opSet slot la add) = true →
       ∃ u, exec (.ceFp32 t c opSet slot la terms add epoch) s = .next (goTo u t c (k.pc + 1)) ∧ ∀ j, j < o.cols →
         let r := reduce (((planOf s p k.slot).map Plain.order).getD 0) 32
           ((setRows o m).map fun r => (xs.getD r (.fin false 0 1)).mul (weightVal m (o.col + j) r))
         ((add = false → (wordOf (u.tile t) cell (la + j)).la = .num r) ∧
          (∀ v : Nat, add = true → (old j).la = .num v → (wordOf (u.tile t) cell (la + j)).la = .num (f32Add v r)) ∧
          (wordOf (u.tile t) cell (la + j)).poison =
            ((old j).poison || bad || shadowColBad s p k.slot o.layer o.matrix (o.col + j) o.row o.rows)))) ∧
  (∀ (s : State) (t c p id layer w : Nat) (cell : Bool) (v : LaWord) (x : Pass) (a b : Int), t < 1280 → (s.tile t).running = some c →
     (wordOf (s.tile t) cell w).la = .num a → v.la = .num b → findPass s p id = some x →
     let u := enterWord s t c p (some id) cell layer w v
     let out := ((regionOf (ctxOf s t c) w).map fun q => q.2.2).getD w
     let r : EvRec := { cls := evAccRange, die := tileDie t, block := tileBlock t, part := some p, first := s.now, last := s.now
                        payload := pay [(1, p), (1, layer), (1, t % 32), (4, out)] }
     ((a + b).natAbs < 2 ^ 103 →
       (wordOf (u.tile t) cell w).la = .num (a + b) ∧
       (wordOf (u.tile t) cell w).poison = ((wordOf (s.tile t) cell w).poison || v.poison) ∧
       (wordOf (u.tile t) cell w).sat = ((wordOf (s.tile t) cell w).sat || v.sat) ∧ findPass u p id = some x) ∧
     (∀ nm : LaWord, nm.la = .nanMark →
       (wordOf ((enterWord s t c p (some id) cell layer w nm).tile t) cell w).la = .nanMark) ∧
     (2 ^ 103 ≤ (a + b).natAbs →
       (wordOf (u.tile t) cell w).la = .num a ∧ (wordOf (u.tile t) cell w).poison = true ∧
       (u.tile t).accRangeCnt = satAdd (s.tile t).accRangeCnt 1 ∧
       (u.die (tileDie t)).ev = evPush (s.die (tileDie t)).ev r ∧
       ∃ y, findPass u p id = some y ∧ y.poison = some (x.poison.getD 0x0311)))

/-- COMBINE (R156, R157, R163): once its arrival counter has reached the number of contributors it takes that count and, on the home tile's
words, enters every contributor's receive words in ascending index, exactly for long accumulators and as FP32 sums for FP32 partials; a home
that does not contribute is cleared first. Below the count nothing happens. ROUND (R54, R55): each accumulator, with its bias, is rounded
once into the destination format and written to the slot; a poisoned word poisons the rows. -/
def Obligations.PartialsAreCombinedAndRounded : Prop :=
  (∀ (s : State) (t c recv n la ctr words l mt col : Nat) (src : List (Option Nat)), t < 1280 → c < 15 → ctr < 48 → 1 ≤ n → n ≤ 64 →
     let k := ctxOf s t c
     let cell := cellPlaced s (ctxPart k) k.slot l
     (tget 0 k.arr ctr < n → exec (.combine t c recv n la ctr) s = .next s) ∧
     (issues s t c { op := 0x2B, a := recv, b := n, c := la, d := ctr } [.words la words] = true →
       n ≤ tget 0 k.arr ctr → combinePlan s k recv n la = ((l, mt, col), words, src) → 1 ≤ words →
       (∀ w, some w ∈ src → w + words ≤ la ∨ la + words ≤ w) →
       ∃ u, exec (.combine t c recv n la ctr) s = .next (goTo u t c (k.pc + 1)) ∧
         (∀ j, j < words →
           let own := wordOf (s.tile t) cell (la + j)
           let parts := src.map fun q => match q with | some w => wordOf (s.tile t) false (w + j) | none => own
           (wordOf (u.tile t) cell (la + j)).la =
             if (matrixOf s (ctxPart k) k.slot l mt).any fun x => x.fmt == 1 || x.fmt == 2 then (combineFp32 parts).la
             else (((src.filterMap id).map fun w => wordOf (s.tile t) false (w + j)).foldl (fun a v => (laEnter a v).1)
               (if src.contains none then own else {})).la) ∧
         (u.tile t).accCombineCnt = wrapAdd (s.tile t).accCombineCnt 1 ∧ (u.tile t).combining = true ∧
         tget 0 (ctxOf u t c).arr ctr = tget 0 k.arr ctr - n)) ∧
  (∀ (s : State) (t c la dst fmt count epoch : Nat) (d : SlotDecl), t < 1280 → c < 15 → fmt < 7 → SlotTakes s t c dst d →
     let k := ctxOf s t c
     let cell := match regionOf k la with | some (l, _, _) => cellPlaced s (ctxPart k) k.slot l | none => false
     let ws := (List.range count).map fun i => (la + i, wordOf (s.tile t) cell (la + i))
     issues s t c { op := 0x2C, e1 := epoch, a := la, b := dst, c := fmt, d := count } [.words la count, slotRes k dst] = true →
     ∃ u, exec (.round t c la dst fmt count epoch) s = .next (goTo u t c (k.pc + 1)) ∧
       (u.tile t).rows = slotResult (s.tile t) d epoch (ws.any fun q => q.2.poison) (writeVec fmt (ws.map fun q => outVal s k q.1 q.2)))

/-- R72, R103, R116: TARN_MVM starts an MVM on every Tarn of the set, with its K-chunk of the input, in the quads that its rows use, from
the codes of its slot; each starts with the coefficients that wait, and the context goes on. No Tarn of the set runs or has a row write
pending, the step is in normal mode, the vector holds no more outliers than it may (R112), and the array rails are in their windows (R100).
R69, R71, R76 to R83: a round that completes is counted, whether or not its codes stand. Where the pass and its generation stand and no
conversion saturates or exceeds, its counts enter the group sums with the weight of their slice and plane, and the next plane is due; at the
sign plane the quad is finished and the next is due. Where they do not stand, or the step has gone to fallback, its flags are counted all
the same and its results enter nothing (R83, R121, R128); after a partition reset the codes are discarded. -/
def Obligations.MvmRunsInRounds : Prop :=
  (∀ (s : State) (t c slot set la epoch : Nat) (add int8 : Bool) (us : List TarnUse) (x : Pass) (bs : List Byte) (bad : Bool),
     let k := ctxOf s t c
     let p := ctxPart k
     let T := fun u : TarnUse => tarnOf (s.tile t) u.tarn
     let kOf := fun u => ((matrixOf s p k.slot (T u).layer (T u).matrix).map Matrix.k).getD 0
     let kmax := (us.map kOf).foldl Nat.max 0
     t < 1280 → c < 15 → issues s t c { op := 0x21, e1 := epoch, a := slot, b := set, c := la, d := 2 ^ 24 * b2n add + 2 ^ 25 * b2n int8 }
       (slotRes k slot :: (if add then [] else useWords (s.tile t) us la)) = true → (s.tile t).short = false →
     ((k.sched.map Sched.tarnSets).getD []).getD set [] = us → (us.map TarnUse.tarn).Nodup →
     (∀ u ∈ us, mvmBusy (T u) = false ∧ (T u).rewrite = [] ∧ (matrixOf s p k.slot (T u).layer (T u).matrix).isSome = true ∧
       inFallback x (T u).layer (T u).matrix = false ∧
       (tget [] k.outl slot).length ≤ 4 * ((layerOf s p k.slot (T u).layer).map Layer.ca).getD 0 ∧
       (x.begun.contains (T u).layer = true ∨ supplyOut s p k.slot (T u).layer (((T u).holder.map fun h => h.2.2).getD 0) = false)) →
     k.pass = some x.id → findPass s p x.id = some x → x.ref = false →
     SlotHolds s t c slot (Nat.min (slotRows s t c slot) ((vecLen (if int8 then 4 else 5) kmax + 63) / 64)) epoch bs bad →
     ∃ v, exec (.tarnMvm t c slot set la add int8 epoch) s = .next (goTo v t c (k.pc + 1)) ∧ ∀ u ∈ us, ∃ y,
       (tarnOf (v.tile t) u.tarn).mvm = some y ∧ y.pass = x.id ∧ y.gen = k.gen ∧ y.layer = (T u).layer ∧ y.matrix = (T u).matrix ∧
       y.planes = (if int8 then 8 else 4) ∧ y.plane = 0 ∧ y.laBase = la + u.laOff ∧ y.poison = bad ∧
       y.quads = (List.range 4).filter (fun q => decide (128 * q < Nat.min 512 (kOf u - 512 * u.kChunk))) ∧
       (tarnOf (v.tile t) u.tarn).pend = [] ∧
       (tarnOf (v.tile t) u.tarn).coefs = (T u).pend.foldl (fun cs q => tset {} cs q.1 q.2) (T u).coefs) ∧
  (∀ (s : State) (t tarn q : Nat) (rest : List Nat) (codes : List (Nat × Nat)) (v : Mvm), t < 1280 → tarn < 400 →
     let T := tarnOf (s.tile t) tarn
     T.mvm = some v → v.quads = q :: rest →
     ∃ u, exec (.tarnRoundDone t tarn codes) s = .next u ∧ (u.tile t).rounds = wrapAdd (s.tile t).rounds 1 ∧
       (∀ m, matrixOf s v.part v.slot v.layer v.matrix = some m → genCurrent s v.part v.pass v.layer v.gen = true → v.discard = false → v.dead = false →
         newFlags v (roundConvs T v q codes) = [] → flagCount (s.tile t) v ≤ 256 →
         (v.plane + 1 ≠ v.planes → ∃ w, (tarnOf (u.tile t) tarn).mvm = some w ∧ w.plane = v.plane + 1 ∧ w.quads = v.quads ∧
           w.flagged = v.flagged ∧ w.usum = (roundConvs T v q codes).foldl (fun us cv => tmod 0 us (grpKey cv.j cv.g)
             (· + planeWeight v.planes v.plane * ((2 ^ cv.b * cv.count : Nat) : Int))) v.usum) ∧
         (v.plane + 1 = v.planes → ∃ w, (tarnOf (u.tile t) tarn).mvm = some w ∧ w.plane = 0 ∧ w.quads = rest ∧ w.flagged = [])) ∧
       (∀ m, matrixOf s v.part v.slot v.layer v.matrix = some m → v.discard = false →
         (v.dead = true ∨ genCurrent s v.part v.pass v.layer v.gen = false) →
         (u.tile t).basin = (s.tile t).basin ∧ (u.tile t).cells = (s.tile t).cells ∧
         (u.tile t).satCnt = satAdd (s.tile t).satCnt ((newFlags v (roundConvs T v q codes)).filter Prod.snd).length) ∧
       (v.discard = true → (u.tile t).basin = (s.tile t).basin ∧ (u.tile t).cells = (s.tile t).cells ∧
         ∃ w, (tarnOf (u.tile t) tarn).mvm = some w ∧ w.quads = (if v.plane + 1 = v.planes then rest else v.quads)))

/-- R93, R94, R96: a window of 2ⁿ conversions becomes the column's snapshot with the next sequence number, and the next window starts empty;
a write of TSTAT_SEL copies the selected column's snapshot (a mapped-in spare shows the Tarn it serves as: log entry 194) into the read
window in one step; a write of TSTAT_CTRL with REFRESH copies it again, and one with CLEAR discards every running window. -/
def Obligations.StatisticsWindows : Prop :=
  ∀ (s : State) (t tarn col : Nat), t < 1280 → tarn < 400 → col < 264 →
    let T := tarnOf (s.tile t) tarn
    let W := tarnOf (s.tile t) (shownTarn (s.tile t) tarn)
    ((s.tile t).freeze = false → 2 ^ (s.tile t).windowLog2 ≤ (tget {} T.win col).n →
      ∃ u, exec (.tstatWindowClose t tarn col) s = .next u ∧ tget {} (tarnOf (u.tile t) tarn).win col = {} ∧
        tget {} (tarnOf (u.tile t) tarn).snap col = tget {} T.win col ∧
        tget 0 (tarnOf (u.tile t) tarn).snapSeq col = (tget 0 T.snapSeq col + 1) % 256) ∧
    (∃ u, exec (.tstatSelect t 0x0400 (tarn + 65536 * col)) s = .next u ∧ (u.tile t).tstatTarn = tarn ∧ (u.tile t).tstatCol = col ∧
      (u.tile t).view.win = tget {} W.snap col ∧ (u.tile t).view.seq = tget 0 W.snapSeq col ∧
      (u.tile t).view.mapped = shownMapped (s.tile t) tarn col) ∧
    (∀ wl, 10 ≤ wl → wl ≤ 24 → wl = (s.tile t).windowLog2 → (s.tile t).tstatTarn = tarn → (s.tile t).tstatCol = col →
      ∃ u, exec (.tstatSelect t 0x0404 (wl + 512)) s = .next u ∧ (u.tile t).view.win = tget {} W.snap col ∧
        (u.tile t).freeze = false ∧ (u.tile t).windowLog2 = wl) ∧
    (∀ wl, 10 ≤ wl → wl ≤ 24 →
      ∃ u, exec (.tstatClear t (wl + 1024)) s = .next u ∧ (u.tile t).windowLog2 = wl ∧ (u.tile t).view = (s.tile t).view ∧
        (tarnOf (u.tile t) tarn).win = [])

/-- R115, R116, R118, R119: after 256 comparisons a converter column's coefficients move as the update rule says: at once on an idle Tarn,
at its next MVM on a busy one; the sums start anew and the update is counted. DRIFT_FREEZE stops every update. R102, R462, R463: a scrub
read that agrees with the row's check word changes no Tarn content; one that disagrees is counted and the row's content before it is written
back later. TARN_ROW_REWRITE applies the pending row between MVMs, with the check word of what it writes. -/
def Obligations.CoefficientsAndRowsAreMended : Prop :=
  (∀ (s : State) (t tarn bank col now : Nat), t < 1280 → tarn < 400 → bank < 4 → col < 264 →
     let T := tarnOf (s.tile t) tarn
     let key := convKey bank col
     let r := driftApply (tget {} T.cmps key) (coefNow T key)
     ((s.tile t).driftFreeze = false → 256 ≤ (tget {} T.cmps key).n →
       ∃ u, exec (.driftUpdate t tarn bank col now) s = .next u ∧ tget {} (tarnOf (u.tile t) tarn).cmps key = {} ∧
         (u.tile t).driftUpdCnt = wrapAdd (s.tile t).driftUpdCnt 1 ∧
         (mvmBusy T = false → tget {} (tarnOf (u.tile t) tarn).coefs key = r.1) ∧
         (mvmBusy T = true → (tarnOf (u.tile t) tarn).coefs = T.coefs ∧ (tarnOf (u.tile t) tarn).pend = tput T.pend key r.1)) ∧
     ((s.tile t).driftFreeze = true → exec (.driftUpdate t tarn bank col now) s = .next (s.setNow now))) ∧
  (∀ (s : State) (t tarn row bits now : Nat), t < 1280 → tarn < 400 → row < 512 →
     let T := tarnOf (s.tile t) tarn
     (rowCheck bits = tget 0 T.check row → row ≠ 511 → ∃ u, exec (.tarnScrubRead t tarn row bits now) s = .next u ∧ u.tiles = s.tiles ∧
       (u.die (tileDie t)).scrubRows = wrapAdd (s.die (tileDie t)).scrubRows 1 ∧
       (u.die (tileDie t)).rowFix = (s.die (tileDie t)).rowFix) ∧
     (rowCheck bits = tget 0 T.check row → row = 511 → ∃ u, exec (.tarnScrubRead t tarn row bits now) s = .next u ∧
       (tarnOf (u.tile t) tarn).ranSince = [] ∧ (tarnOf (u.tile t) tarn).rows = T.rows) ∧
     (rowCheck bits ≠ tget 0 T.check row → T.rewrite = [] → T.ranSince = [] → tget 0 T.rowFixAt row = 0 →
       ∃ u, exec (.tarnScrubRead t tarn row bits now) s = .next u ∧ tget 0 (tarnOf (u.tile t) tarn).rows row = bits ∧
         (tarnOf (u.tile t) tarn).rewrite = [(row, tget 0 T.rows row)] ∧
         (u.die (tileDie t)).rowFix = satAdd (s.die (tileDie t)).rowFix 1) ∧
     (∀ v, T.rewrite.find? (fun q => q.1 == row) = some (row, v) → mvmBusy T = false →
       ∃ u, exec (.tarnRowRewrite t tarn row) s = .next u ∧ tget 0 (tarnOf (u.tile t) tarn).rows row = v ∧
         tget 0 (tarnOf (u.tile t) tarn).check row = rowCheck v ∧ (tarnOf (u.tile t) tarn).rewrite = tdel T.rewrite row))

/-- DMA_GET (R181, R184): the rows of the partition's DRAM space leave for the slot, with the poison that their words hold (R449), or the
embedding row of the pass's token where an EMBED layer is named; the counter and the declared readers travel with them. Nothing leaves for a
slot that cannot take them all (R185). DMA_PUT (R181): the slot's rows leave for DRAM. DMA_PUT of a K or V vector of the context's pass
(R227, R230): the FP32 vector of the slot, with the carry of the position before it where feedback is on, is converted to the KV format and
leaves for the frame of the pass's position, with the residue as its new carry. -/
def Obligations.DmaAndKvTransfersLeave : Prop :=
  (∀ (s : State) (t c slot off rows ctr epoch a : Nat) (d : SlotDecl) (ls : List (Nat × Nat)), t < 1280 → c < 15 →
     let k := ctxOf s t c
     let p := ctxPart k
     let code := fun op : Nat => ({ op := op, e1 := epoch, a := slot, b := off, c := rows, d := ctr } : Code)
     partAddr s p (64 * off) = some a → slotDecl k slot = some d →
     (issues s t c (code 0x10) [slotRes k slot] = true → linksOf s (stackDie (addrStack a)) (tileDie t) = some ls →
       (rows ≤ d.rows →
         ∃ u x, exec (.dmaGet t c slot off rows ctr epoch none) s = .next (goTo u t c (k.pc + 1)) ∧ u.xfers = s.xfers ++ [x] ∧
           x.id = s.nextXfer ∧ x.tile = t ∧ x.ctx = c ∧ x.ctr = (if ctr = 0xFFFF then none else some ctr) ∧
           x.tag = (s.part p).tag ∧ x.kind = .rows ((List.range rows).map fun i =>
             (memRead s.dram (a + 64 * i) 64, dramBad s (a + 64 * i) 64)) d.base true d.readers epoch ∧ u.dram = s.dram) ∧
       (d.rows < rows → ∃ u, exec (.dmaGet t c slot off rows ctr epoch none) s = .next (goTo u t c (k.pc + 1)) ∧ u.xfers = s.xfers ∧
         (u.tile t).accessFaultCnt = satAdd (s.tile t).accessFaultCnt 1) ∧
       (∀ l y, k.pass = some y.id → findPass s p y.id = some y → (embedRows s p k.slot l y.token).length ≤ d.rows →
         ∃ u x, exec (.dmaGet t c slot off rows ctr epoch (some l)) s = .next (goTo u t c (k.pc + 1)) ∧ u.xfers = s.xfers ++ [x] ∧
           x.kind = .rows ((embedRows s p k.slot l y.token).map fun b => (b, embedBad s p k.slot l y.token)) d.base true
             d.readers epoch)) ∧
     (∀ bs bad, issues s t c (code 0x11) [slotRes k slot] = true → SlotHolds s t c slot rows epoch bs bad →
       linksOf s (tileDie t) (stackDie (addrStack a)) = some ls →
       ∃ u x, exec (.dmaPut t c slot off rows ctr epoch none) s = .next (goTo u t c (k.pc + 1)) ∧ u.xfers = s.xfers ++ [x] ∧
         x.kind = .dram a bs bad ∧ x.tag = (s.part p).tag ∧ u.dram = s.dram)) ∧
  (∀ (s : State) (t c slot off rows ctr epoch : Nat) (w : KvDest) (v : KvParams) (x : Pass) (bs : List Byte) (bad : Bool)
     (ls : List (Nat × Nat)), t < 1280 → c < 15 →
     let k := ctxOf s t c
     let p := ctxPart k
     issues s t c { op := 0x11, e1 := epoch, a := slot, b := off, c := rows, d := ctr } [slotRes k slot] = true →
     SlotHolds s t c slot rows epoch bs bad → kvOf s p k.slot = some v → k.pass = some w.pass → findPass s p w.pass = some x →
     let e := s.entry x.entry
     let stripe := (tget {} e.pages (x.pos / 64)).stripe
     let a := ((kvAddrs s p k.slot v w.pair stripe (x.pos % 64) w.isV).map Prod.fst).getD 0
     linksOf s (tileDie t) (stackDie (addrStack a)) = some ls →
     let ys := unpackNat 32 v.d (leAt bs 0 (4 * v.d))
     let old := if x.pos = 0 then [] else tget [] (passCarry e x) (carryKey ((x.pos + 8) % 9) w.pair w.isV)
     let zs := if v.feedback then (List.range ys.length).map fun i => f32Add (ys.getD i 0) (old.getD i 0 * 65536) else ys
     let stored := kvVals v ((kvConvert v (zs.map decFP32)).1 ++ (kvConvert v (zs.map decFP32)).2)
     let residue := (List.range zs.length).map fun i => encBF16 ((decFP32 (zs.getD i 0)).add (stored.getD i (.fin false 0 1)).neg)
     ∃ u y, exec (.dmaPut t c slot off rows ctr epoch (some w)) s = .next (goTo u t c (k.pc + 1)) ∧ u.xfers = s.xfers ++ [y] ∧
       y.kind = .kv x.entry x.pos w.pair w.isV (kvConvert v (zs.map decFP32)).1 (kvConvert v (zs.map decFP32)).2
         (if v.feedback then residue else []) bad)

/-- R189, R196, R198, R227, R429: TRANSFER_LANDED of a transfer in flight that no earlier one of its class and way precedes takes it out of
flight, whatever its read's error check found. Where its tag is the partition's it does what it carries and raises its counter: a signal
raises it alone, a DRAM write stores its bytes, rows fill the free rows of the slot, FULL under the epoch, and a pull's release is owed to
its source; a K or V entry is stored in its page's frame while its pass is in flight. With an earlier tag it is discarded: nothing but the
stale count and the time changes. One that must wait for an earlier one does not land (classes: log entry 201). R128, R158: finished partial
words of a generation below their pass's are discarded on arrival, counted on the tile; those of its generation land in their receive words
and raise the counter, once for all the words of a contributor (log entry 46). -/
def Obligations.LandingDeliversOrDiscards : Prop :=
  (∀ (s : State) (id coll now : Nat) (ecc : Ecc) (x : Xfer), s.xfers.find? (fun y => y.id == id) = some x →
     let left := s.xfers.filter fun y => y.id != id
     let w := countCrossed { s.setNow now with xfers := left } x.links x.bytes
     let v := w.modTile x.tile fun y => { y with arbCollideCnt := wrapAdd y.arbCollideCnt coll }
     (inOrder s x = false → exec (.transferLanded id ecc coll now) s = .next (s.setNow now)) ∧
     (inOrder s x = true →
       (∃ u, exec (.transferLanded id ecc coll now) s = .next u ∧ u.xfers = left) ∧
       (x.tag ≠ (s.part x.part).tag → ∃ u, exec (.transferLanded id ecc coll now) s = .next u ∧ u.xfers = left ∧ u.tiles = s.tiles ∧
         u.parts = s.parts ∧ u.dram = s.dram ∧ u.entries = s.entries) ∧
       (x.tag = (s.part x.part).tag →
         (∀ ctr, x.kind = .signal → x.ctr = some ctr → exec (.transferLanded id ecc coll now) s = .next (raiseArr v x.tile x.ctx ctr)) ∧
         (∀ addr bytes, x.kind = .dram addr bytes false → granRetired s addr = false →
           ∃ u, exec (.transferLanded id ecc coll now) s = .next u ∧ u.dram = memWrite s.dram addr bytes ∧
             (∀ b, b < addr ∨ addr + bytes.length ≤ b → memGet u.dram b = memGet s.dram b) ∧ memRead u.dram addr bytes.length = bytes) ∧
         (∀ rows base readers epoch, x.kind = .rows rows base true readers epoch →
           (ctxOf s x.tile x.ctx).part = some x.part →
           (∀ i, i < rows.length → ownsRow (ctxOf s x.tile x.ctx) (base + i) = true ∧
             (rowOf (s.tile x.tile) (base + i)).full = false) →
           ∃ u, exec (.transferLanded id .clean coll now) s = .next u ∧ u.releases = s.releases ++ x.pull.toList ∧
             (x.ctr = none → ∀ i (h : i < rows.length), rowOf (u.tile x.tile) (base + i) = rowWrite rows[i].1 epoch readers rows[i].2)) ∧
         (∀ entry pos pair isV elems scales carry y p a b, x.kind = .kv entry pos pair isV elems scales carry false →
           findPass s x.part x.pass = some y → kvOf s x.part y.slot = some p → p.feedback = false → y.confirm = none →
           stale y (((p.pairs[pair]?).map Pair.layer).getD 0) x.gen = false → (tget {} (s.entry entry).pages (pos / 64)).valid = true →
           kvAddrs s x.part y.slot p pair (tget {} (s.entry entry).pages (pos / 64)).stripe (pos % 64) isV = some (a, b) →
           granRetired s a = false → granRetired s b = false →
           ∃ u, exec (.transferLanded id ecc coll now) s = .next u ∧ u.dram = memWrite (memWrite s.dram a elems) b scales ∧
             ∃ z, findPass u x.part x.pass = some z ∧ (pair, isV) ∈ z.kvPairs) ∧
         (∀ entry pos pair isV elems scales carry bad, x.kind = .kv entry pos pair isV elems scales carry bad →
           findPass s x.part x.pass = none → ∃ u, exec (.transferLanded id ecc coll now) s = .next u ∧ u.dram = s.dram)))) ∧
  (∀ (s : State) (id coll now : Nat) (ecc : Ecc) (x : Xfer) (y : Pass) (recv layer matrix : Nat) (ws : List LaWord),
     s.xfers.find? (fun y => y.id == id) = some x → inOrder s x = true → x.tag = (s.part x.part).tag → x.kind = .partial_ recv ws layer matrix →
     findPass s x.part x.pass = some y →
     (x.gen < y.gen → ∃ u, exec (.transferLanded id ecc coll now) s = .next u ∧
       (u.tile x.tile).accStaleCnt = satAdd (s.tile x.tile).accStaleCnt 1 ∧ (u.tile x.tile).basin = (s.tile x.tile).basin) ∧
     (y.gen ≤ x.gen → ∃ u, exec (.transferLanded id ecc coll now) s = .next u ∧
       (u.tile x.tile).accStaleCnt = (s.tile x.tile).accStaleCnt ∧
       (∀ i (h : i < ws.length), wordOf (u.tile x.tile) false (recv + i) = ws[i]) ∧
       (∀ ctr, x.ctr = some ctr → ctr < 48 → tget 0 (ctxOf s x.tile x.ctx).arr ctr ≠ 0xFFFF →
         tget 0 (ctxOf u x.tile x.ctx).arr ctr = tget 0 (ctxOf s x.tile x.ctx).arr ctr + 1)))

/-- R213, R243: AE_ISSUE leaves a walk waiting at the engine named and its context issues nothing until an engine accepts it; an engine with
fewer than four walks accepts the oldest one, holds the sequence's table, and the context goes on. R195 to R197, R214: an engine pulls a
query vector from the tile that holds it, under the walk's first epoch, and releases the rows. R214, R243: when a walk ends, its engine
holds it no longer and has counted it, and the hold of its sequence ends with the sequence's last walk on the module; the output of each
head (R231 to R239) has left, in BF16 under the second epoch, for the tile that takes it. -/
def Obligations.WalksRunOnTheEngines : Prop :=
  ((∀ (s : State) (t c walk e e1 e2 : Nat) (w : WalkDecl) (x : Pass), t < 1280 → c < 15 → e < 4 →
     issues s t c { op := 0x38, e1 := e1, e2 := e2, a := walk, b := e } [] = true →
     let k := ctxOf s t c
     ((k.sched.map Sched.walks).getD [])[walk]? = some w → k.pass = some x.id → findPass s (ctxPart k) x.id = some x →
     ∃ u wk, exec (.aeIssue t c walk e e1 e2) s = .next u ∧ wk.pass = x.id ∧ wk.entry = x.entry ∧ wk.gen = k.gen ∧ wk.pair = w.pair ∧ wk.tile = t ∧
       wk.ctx = c ∧ wk.queries = w.queries ∧ wk.outs = w.outs ∧ wk.e1 = e1 ∧ wk.e2 = e2 ∧
       (let d := aeDie s (ctxPart k) k.relTile t
        (tget {} (u.die d).ae (aeFor s d e)).waiting = (tget {} (s.die d).ae (aeFor s d e)).waiting ++ [wk]) ∧
       u.tiles = s.tiles ∧ ∀ cd us, issues u t c cd us = false) ∧
   (∀ (s : State) (die e now : Nat) (w : Walk) (ws : List Walk), die < 40 → e < 4 →
     let a := tget {} (s.die die).ae e
     a.waiting = w :: ws → a.walks.length < 4 → a.fenced = false → (s.part w.part).state = .running →
     ∃ u, exec (.walkAccept die e now) s = .next u ∧ (tget {} (u.die die).ae e).walks = a.walks ++ [w] ∧
       (tget {} (u.die die).ae e).waiting = ws ∧ (u.entry w.entry).held = true) ∧
   (∀ (s : State) (die e now : Nat), die < 40 → e < 4 → 4 ≤ (tget {} (s.die die).ae e).walks.length →
     exec (.walkAccept die e now) s = .next (s.setNow now))) ∧
  ((∀ (s : State) (w : Walk) (f n t c : Nat) (h : HeadPort) (d : SlotDecl), portAt s w h = some (t, c) →
     let first := h.off * fmtBits f / 8 / 64
     let skip := h.off * fmtBits f / 8 % 64
     let rows := (skip + vecLen f n + 63) / 64
     slotFor (ctxOf s t c) h.slot (first + rows) = some d →
     (∀ i, i < rows → rowReads (rowOf (s.tile t) (d.base + first + i)) w.e1 = true) →
     let rs := (List.range rows).map fun i => rowOf (s.tile t) (d.base + first + i)
     ∃ u, pullHead s w f n h = (u, some (readVec f n ((rs.map rowBytes).flatten.drop skip), rs.any Row.poison)) ∧
       (∀ i, i < rows → rowOf (u.tile t) (d.base + first + i) = rowRelease (rowOf (s.tile t) (d.base + first + i))) ∧
       (u.tile t).pullCnt = wrapAdd (s.tile t).pullCnt 1) ∧
   (∀ (s : State) (die e idx now : Nat) (poison : Bool) (w : Walk), die < 40 → e < 4 →
     let a := tget {} (s.die die).ae e
     a.walks[idx]? = some w →
     ∃ u, exec (.walkEnd die e idx poison now) s = .next u ∧ (tget {} (u.die die).ae e).walks = a.walks.eraseIdx idx ∧
       (tget {} (u.die die).ae e).walkCnt = wrapAdd a.walkCnt 1 ∧
       (entryWalking u w.entry = false → (u.entry w.entry).held = false) ∧
       (∀ v x pr l q qs bad, kvOf s w.part w.slot = some v → findPass s w.part w.pass = some x → v.pairs[w.pair]? = some pr →
         layerOf s w.part w.slot pr.layer = some l → stale x pr.layer w.gen = false →
         pullHeads (s.setNow now) w l.qFmt v.d (w.queries.take (groupHeads l)) = (q, some (qs, bad)) →
         let o := runWalk s w.part w.slot v (s.entry w.entry) x w.pair (((planOf s w.part w.slot).map Plain.order).getD 0) l.qFmt qs
         o.att.limit = false → ∀ (i : Nat) out h t c d ls, o.outs[i]? = some out → w.outs[i]? = some h → portAt s w h = some (t, c) →
         slotFor (ctxOf s t c) h.slot (2 * h.off / 64 + (toRows (packBytes 1 out)).length) = some d → linksOf s die (tileDie t) = some ls →
         ∃ y ∈ u.xfers, y.tile = t ∧ y.ctx = c ∧ y.pass = w.pass ∧ y.gen = w.gen ∧ y.ctr = ctrOf h.ctr ∧
           y.kind = .rows ((toRows (packBytes 1 out)).map fun b => (b, bad || o.poison || poison)) (d.base + 2 * h.off / 64) true d.readers w.e2)))

/-- R169, R170, R171, R265: a switch writes the CE cells of the outgoing context into its save area, restores those of the incoming one from
its save area with POISON in the cells that came back uncorrectable, and the incoming context runs; while a combine or a repeat runs, or a
check of the outgoing schedule is queued, nothing is switched and the outgoing context issues nothing more. PREEMPT makes that switch where
a class-0 pass takes a tile from a class-2 or class-3 one. The layout of the save area is the model's choice (log entry 78). R179, R454,
R457, R458: what an engine's completion finds. A clean one leaves the list of instructions in flight, and the end of a combine frees its
tile (R157); a residue mismatch keeps its instruction in flight for its repeat; an uncorrectable Basin word turns poison and fails the pass;
a corrected one is counted, and one that reappears takes a spare word; a scratchpad parity error marks its row suspect, and a second one
maps it to a spare row, or loses it. -/
def Obligations.ContextSwitchesAndCompletions : Prop :=
  (∀ (s : State) (t c o now fixed : Nat) (bad : List Nat) (x : Tile) (d : Sched), t < 1280 → c < 15 → x = s.tile t → x.running = some o → o ≠ c →
     x.fenced = false → (ctxOf s t c).part.isSome = true → (s.part (ctxPart (ctxOf s t c))).state = .running → (ctxOf s t o).sched = some d →
     let waits := x.combining || checksQueued x || repeatRuns x
     (waits = false →
       ∃ u, exec (.contextSwitch t c fixed bad now) s = .next u ∧ (u.tile t).running = some c ∧ (u.tile t).switchPending = false ∧
         (∀ w, w < 1024 → savedBits (u.tile t) (ctxOf u t o) w = basinBits (tget {} x.cells w)) ∧
         (u.tile t).cells = (bad.filter fun w => decide (w < 1024)).foldl (fun cs w => tmod {} cs w fun v => { v with poison := true })
           (savedCells (saveCtx x) (ctxOf s t c)) ∧
         (u.tile t).ctxSaveCnt = wrapAdd x.ctxSaveCnt 1 ∧ (u.tile t).ctxRestoreCnt = wrapAdd x.ctxRestoreCnt 1 ∧
         (u.tile t).ctxFixCnt = satAdd x.ctxFixCnt fixed ∧ (u.tile t).ctxPoisonCnt = satAdd x.ctxPoisonCnt bad.length) ∧
     (waits = true →
       ∃ u, exec (.contextSwitch t c fixed bad now) s = .next u ∧ (u.tile t).running = some o ∧ ∀ cd us, issues u t o cd us = false) ∧
     (waits = false → (s.part (ctxPart (ctxOf s t c))).serv.preempt = true → ctxClass s (ctxOf s t c) = some 0 →
       (∃ cl, ctxClass s (ctxOf s t o) = some cl ∧ 2 ≤ cl) →
       ∃ u, exec (.preempt t c fixed bad now) s = .next u ∧ (u.tile t).running = some c ∧
         ∀ w, w < 1024 → savedBits (u.tile t) (ctxOf u t o) w = basinBits (tget {} x.cells w))) ∧
  (∀ (s : State) (t now coll : Nat) (e : Engine) (q : InFlight), t < 1280 →
     (s.tile t).inFlight.find? (fun q => q.engine == e && workDone (s.tile t) q) = some q →
     let d := s.die (tileDie t)
     let x := s.tile t
     let y := { x with arbCollideCnt := wrapAdd x.arbCollideCnt coll }
     let p := ctxPart (ctxOf s t q.ctx)
     (∃ v, exec (.engineCompletion t e .ok coll now) s = .next v ∧ v.dies = s.dies ∧ v.parts = s.parts ∧
       v.tile t = { y with inFlight := x.inFlight.erase q, combining := x.combining && !q.combine }) ∧
     (∀ u i, ∃ v, exec (.engineCompletion t e (.residueMismatch u i) coll now) s = .next v ∧
       v.tile t = { y with residuePending := x.residuePending ++ [(u, i, q.id)] }) ∧
     (∀ w, ∃ v, exec (.engineCompletion t e (.basinUncorrectable w) coll now) s = .next v ∧ (v.tile t).inFlight = x.inFlight.erase q ∧
       (wordOf (v.tile t) false w).poison = true ∧ (wordOf (v.tile t) false w).la = (wordOf x false w).la ∧
       (v.die (tileDie t)).basinUe = satAdd d.basinUe 1 ∧
       (∀ id y, (ctxOf s t q.ctx).pass = some id → findPass s p id = some y →
         ∃ z, findPass v p id = some z ∧ z.poison = some (y.poison.getD 0x0311))) ∧
     (∀ w r, ∃ v, exec (.engineCompletion t e (.basinCorrected w r) coll now) s = .next v ∧
       (v.die (tileDie t)).basinCe = satAdd d.basinCe 1 ∧
       (r = false → (v.tile t).basinSpares = x.basinSpares) ∧
       (r = true → x.basinSpares < 256 → (v.tile t).basinSpares = x.basinSpares + 1 ∧
         (v.die (tileDie t)).basinMapout = satAdd d.basinMapout 1) ∧
       (r = true → 256 ≤ x.basinSpares → (v.tile t).basinLost = x.basinLost + 1 ∧
         (16384 < x.basinWords + x.basinLost + 1 → (v.tile t).short = true))) ∧
     (∀ row, ∃ v, exec (.engineCompletion t e (.spadParity row) coll now) s = .next v ∧
       (v.die (tileDie t)).spadPar = satAdd d.spadPar 1 ∧
       ((rowOf x row).suspect = false → (rowOf (v.tile t) row).suspect = true ∧ (v.tile t).spareRows = x.spareRows) ∧
       ((rowOf x row).suspect = true → x.spareRows < 256 → (rowOf (v.tile t) row).suspect = false ∧
         (v.tile t).spareRows = x.spareRows + 1 ∧ (v.die (tileDie t)).spadMapout = satAdd d.spadMapout 1) ∧
       ((rowOf x row).suspect = true → 256 ≤ x.spareRows → (v.tile t).spadShort = true ∧ row ∈ (v.tile t).rowsLost)))

/-- R454, R455, R456: at the end of a repeat its instruction ends. A repeat that matches is a transient fault of its unit; one that
mismatches is permanent and counted, and a third result that mismatches poisons the pass; THR_TRANS transient faults of a unit within 24
hours make it permanent, and a CE row's spare is taken. -/
def Obligations.ResidueRepeatsDecideTheFault : Prop :=
  (∀ (s : State) (t i now : Nat) (u : UnitKind) (f : InFlight), t < 1280 →
    (s.tile t).residuePending.find? (fun q => q.1 == u && q.2.1 == i) = some (u, i, f.id) →
    (s.tile t).inFlight.find? (fun g => g.id == f.id) = some f →
    let d := s.die (tileDie t)
    let p := ctxPart (ctxOf s t f.ctx)
    (s.log.thrTrans = 0 → ∀ third, ∃ v, exec (.residueRepeatDone t u i true third now) s = .next v ∧
      (v.die (tileDie t)).residTrans = satAdd d.residTrans 1 ∧ (v.die (tileDie t)).residPerm = d.residPerm ∧
      (v.tile t).residuePending = (s.tile t).residuePending.erase (u, i, f.id) ∧ (v.tile t).inFlight = (s.tile t).inFlight.erase f) ∧
    (∀ third, ∃ v, exec (.residueRepeatDone t u i false third now) s = .next v ∧
      (v.die (tileDie t)).residPerm = satAdd d.residPerm 1 ∧ (v.die (tileDie t)).residTrans = d.residTrans ∧
      (v.tile t).inFlight = (s.tile t).inFlight.erase f ∧
      (third = false → ∀ id y, (ctxOf s t f.ctx).pass = some id → findPass s p id = some y →
        ∃ z, findPass v p id = some z ∧ z.poison = some (y.poison.getD 0x0311)))) ∧
  (∀ (s : State) (die tl i now : Nat), die < 40 → tl < 32 → i < 1024 → s.log.thrTrans ≠ 0 →
    s.log.thrTrans ≤ unitCount (s.setNow now) (die * 32 + tl) .ceRow i →
    ∃ v, exec (.transientLimit die .ceRow (tl * 1024 + i) now) s = .next v ∧
      (v.die die).residPerm = satAdd (s.die die).residPerm 1 ∧ (v.die die).permFaults = (s.die die).permFaults + 1 ∧
      ((s.tile (die * 32 + tl)).ceSpareUsed = false → (v.tile (die * 32 + tl)).ceSpareUsed = true ∧
        (v.tile (die * 32 + tl)).short = (s.tile (die * 32 + tl)).short) ∧
      ((s.tile (die * 32 + tl)).ceSpareUsed = true → (v.tile (die * 32 + tl)).short = true))

/-- R202, R464: link errors. A flit with a parity error is counted on its port; on an on-die channel a failed resend makes the tile SHORT. A
stripe on which a resend failed or 8,192 errors fell in an interval goes down and leaves its port, no other does; with no stripe left the
link is down at both its ends. A port that connects to no die has no link events (R20). A link that goes down loses every transfer in flight
on it, and their passes are poisoned. R459, R460: the patrol reads the channel's words in turn and counts a pass at their end; a corrected
word and an uncorrectable one are counted on the channel, and an uncorrectable one holds poison from then on. R456, R465: at each hour of
module time the buckets older than 24 hours leave every fault window of the tiles and of the DRAM channels. -/
def Obligations.LinksAndDramReportErrors : Prop :=
  ((∀ (s : State) (die port stripe now : Nat) (ok : Bool), die < 40 → port < 4 → stripe < 4 →
     let w := tget {} (s.die die).tw port
     ((twNeighbour s.variant die port).isSome = true →
       ∃ v, exec (.flitParityError die port stripe none ok now) s = .next v ∧
         (tget {} (v.die die).tw port).parity = satAdd w.parity 1 ∧
         (ok = false → stripe ∈ (tget {} (v.die die).tw port).failed) ∧
         tget 0 (tget {} (v.die die).tw port).ivlErr stripe =
           (if w.ivl = (s.setNow now).now / 100000000 then tget 0 w.ivlErr stripe else 0) + 1) ∧
     ((twNeighbour s.variant die port).isNone = true → exec (.flitParityError die port stripe none ok now) s = .next (s.setNow now))) ∧
   (∀ (s : State) (die tl port stripe now : Nat), die < 40 → tl < 32 → port < 4 → stripe < 4 →
     ∃ v, exec (.flitParityError die port stripe (some (die * 32 + tl)) false now) s = .next v ∧
       (v.tile (die * 32 + tl)).short = true ∧ (v.die die).chanPar = satAdd (s.die die).chanPar 1 ∧
       (v.die die).permFaults = (s.die die).permFaults + 1) ∧
   (∀ (s : State) (die port stripe now : Nat), die < 40 → port < 4 → stripe < 4 →
     let w := tget {} (s.die die).tw port
     bitOf w.stripes stripe = true → (twNeighbour s.variant die port).isSome = true →
     ((w.failed.contains stripe = true ∨ 8192 ≤ tget 0 w.ivlErr stripe) →
       ∃ v, exec (.stripeDown die port stripe now) s = .next v ∧
         (tget {} (v.die die).tw port).stripes = w.stripes - 2 ^ stripe ∧
         (w.stripes = 2 ^ stripe → (tget {} (v.die die).tw port).up = false)) ∧
     (w.failed.contains stripe = false → tget 0 w.ivlErr stripe < 8192 → exec (.stripeDown die port stripe now) s = .next (s.setNow now))) ∧
   (∀ (s : State) (die port e r now : Nat), die < 40 → port < 4 → (tget {} (s.die die).tw port).up = true →
     twNeighbour s.variant die port = some e → facingPort s.variant e die = some r →
     ∃ v, exec (.twimerLinkDown die port now) s = .next v ∧ (tget {} (v.die die).tw port).up = false ∧
       (tget {} (v.die e).tw r).up = false ∧
       v.xfers = (s.xfers.filter fun x => !x.links.contains (die, port)).filter (fun x => !x.links.contains (e, r)) ∧
       (∀ x ∈ s.xfers, x.links.contains (die, port) = true → ∀ y, findPass s x.part x.pass = some y →
         ∃ z, findPass v x.part x.pass = some z ∧ z.poison.isSome = true))) ∧
  (∀ (s : State) (k ch now : Nat), k < 20 → ch < 16 → stackFitted s.variant k = true → (s.stack k).lost = false →
     (s.stack k).retired.contains (ch / 2) = false → (chanOf s k ch).pos < chanUnits →
     let c := chanOf s k ch
     (c.pos + 1 < chanUnits → ∃ v, exec (.dramPatrolRead k ch .clean now) s = .next v ∧ chanOf v k ch = { c with pos := c.pos + 1 }) ∧
     (c.pos + 1 = chanUnits → ∃ v, exec (.dramPatrolRead k ch .clean now) s = .next v ∧
       chanOf v k ch = { c with pos := 0, pass := wrapAdd c.pass 1 }) ∧
     (∃ v, exec (.dramPatrolRead k ch .corrected now) s = .next v ∧ (chanOf v k ch).ce = satAdd c.ce 1 ∧ (chanOf v k ch).ue = c.ue) ∧
     (∃ v, exec (.dramPatrolRead k ch .uncorrectable now) s = .next v ∧ (chanOf v k ch).ue = satAdd c.ue 1 ∧
       (chanOf v k ch).poison.contains (chanAddr k ch c.pos / 8) = true)) ∧
  (∀ (s : State) (now : Nat), ∃ v, exec (.faultWindowRoll now) s = .next v ∧
       (∀ t h n, h + 24 ≤ hourOf v.now → ∀ u, (h, n) ∉ tget [] (v.tile t).unitFaults u) ∧
       (∀ t, (v.tile t).rows = (s.tile t).rows ∧ (v.tile t).basin = (s.tile t).basin) ∧
       (∀ k ch h n, h + 24 ≤ hourOf v.now → (h, n) ∉ (chanOf v k ch).ce24))

/-- R127 step 9, R126, R156, R184: an output tile completes, once every instruction that gives its words has. Where the tile is a
contributor, its finished words leave for the home tile's receive words with the pass's generation; at the home tile a sampled output tile
joins the queue of checks, or is skipped and counted when four wait or a switch is pending (R170), and a forced one waits; the outputs of a
head reach the pass. R124, R126, R132: the oldest check of a tile ends. Taken, it is counted; with more differing outputs than M it declares
trouble, which is counted on the tile and on every die that did work for it, and is outstanding for its pass; a poisoned shadow read
abandons it, and an abandoned forced check is trouble again. -/
def Obligations.OutputsAreCheckedOnTheirTile : Prop :=
  (∀ (s : State) (p pass layer m o t la now c : Nat) (x : Pass) (mx : Matrix) (ly : Layer), p < 64 → t < 1280 →
     findPass s p pass = some x → servingCtx s p pass t = some c → matrixOf s p x.slot layer m = some mx →
     layerOf s p x.slot layer = some ly →
     let k := ctxOf s t c
     let cell := cellPlaced s p x.slot layer
     let busy := awaits (s.tile t) c [.words la (Nat.min 32 (mx.n - 32 * o))]
     let forced := x.forced.contains (layer, m, o)
     stale x layer k.gen = false →
     (busy = true → exec (.matrixOutputComplete p pass layer m o t la now) s = .next (s.setNow now)) ∧
     (∀ q ht hc ls, busy = false → splitAt s p x.slot layer m k.relTile la = some q → absTile s (ctxPart k) q.home = some ht →
       destCtx s (ctxPart k) k.slot ht q.ctx = some hc → linksOf s (tileDie t) (tileDie ht) = some ls →
       ∃ u y, exec (.matrixOutputComplete p pass layer m o t la now) s = .next u ∧ u.xfers = s.xfers ++ [y] ∧ y.tile = ht ∧ y.ctx = hc ∧
         y.ctr = some q.ctr ∧ y.gen = k.gen ∧ y.kind = .partial_ (q.recv + q.index * q.words)
           ((List.range q.words).map fun i => ctxWord s t c cell (q.laBase + i)) q.layer q.matrix) ∧
     (busy = false → splitAt s p x.slot layer m k.relTile la = none →
       let ws := (List.range (Nat.min 32 (mx.n - 32 * o))).map fun i => (la + i, ctxWord s t c cell (la + i))
       (forced = true → noSample (s.tile t) = true → exec (.matrixOutputComplete p pass layer m o t la now) s = .next (s.setNow now)) ∧
       (forced = false ∨ noSample (s.tile t) = false → ∃ u, exec (.matrixOutputComplete p pass layer m o t la now) s = .next u ∧
         (∃ y, findPass u p pass = some y ∧ y = headOutputs ly o (ws.map fun q => encFP32 (outVal s k q.1 q.2)) x) ∧
         (x.ref = false → (tarnLayers s p x.slot).contains layer = true → inFallback x layer m = false →
           tileSampled s p x layer m o = true →
           (noSample (s.tile t) = false → ∃ ck, (u.tile t).checks = (s.tile t).checks ++ [ck] ∧ ck.part = p ∧ ck.pass = x.id ∧
             ck.gen = k.gen ∧ ck.layer = layer ∧ ck.matrix = m ∧ ck.outTile = o ∧ ck.forced = forced ∧ ck.vals = ws.map (fun q => q.2.la) ∧
             ck.dies = contribDies x k.gen layer m o) ∧
           (noSample (s.tile t) = true → (u.tile t).checks = (s.tile t).checks ∧
             (u.tile t).chkSkipCnt = satAdd (s.tile t).chkSkipCnt 1))))) ∧
  (∀ (s : State) (t now : Nat) (c : Check) (cs : List Check) (x : Pass), t < 1280 → (s.tile t).checks = c :: cs →
     findPass s c.part c.pass = some x → stale x c.layer c.gen = false →
     let d := checkDiffs x.chkT c.vals c.refs
     (checkBad s c = false → troubleDeclared x.chkM d.1 = false → ∃ u, exec (.checkDone t false now) s = .next u ∧ (u.tile t).checks = cs ∧
       (u.tile t).chkTakenCnt = satAdd (s.tile t).chkTakenCnt 1 ∧ (u.tile t).chkTroubleCnt = (s.tile t).chkTroubleCnt ∧
       findPass u c.part c.pass = some x) ∧
     (checkBad s c = false → troubleDeclared x.chkM d.1 = true → ∃ u, exec (.checkDone t false now) s = .next u ∧ (u.tile t).checks = cs ∧
       (u.tile t).chkTroubleCnt = satAdd (s.tile t).chkTroubleCnt 1 ∧ (u.tile t).chkNdiff = d.1 ∧ (u.tile t).chkMaxdiff = d.2 ∧
       (u.tile t).chkLayer = c.layer ∧ (u.tile t).chkMatrix = c.matrix ∧
       (c.dies.Nodup → ∀ i ∈ c.dies, (u.die i).trouble = satAdd (s.die i).trouble 1) ∧
       findPass u c.part c.pass = some { x with troubles := x.troubles ++ [(c.layer, c.gen, c.outTile, c.matrix)] }) ∧
     (∀ bad, bad = true ∨ checkBad s c = true → ∃ u, exec (.checkDone t bad now) s = .next u ∧ (u.tile t).checks = cs ∧
       (u.tile t).chkSkipCnt = satAdd (s.tile t).chkSkipCnt 1 ∧ (u.tile t).chkTakenCnt = (s.tile t).chkTakenCnt ∧
       findPass u c.part c.pass = some (if c.forced then { x with
         troubles := x.troubles ++ [(c.layer, c.gen, c.outTile, c.matrix)] } else x)))

/-- R129, R130, R131, R134, R141: the notice of a trouble reaches the lead tile. The first of a layer replays the pass from that layer under
a later generation, with measured scales and the check of the output tile forced, and drops what was resolved from there on; a trouble in
the replay sends every matrix step of the layer to fallback. A second declaration in the same replay forces its output tile too; any other
superseded one, and any in a pass that has consumed poison, has no effect. R127 step 11, R134: a step-resolved notice that a STEP_END has
sent, with no check of its step queued on its tile, is progress of the partition (R427); one of the current generation counts toward the
pass's commit, one of a superseded generation does not. No other notice arrives. R139, R144: 256 committed passes in a row with more than
half of their layers in fallback make the array degraded, counted; 4,096 in a row with at most half recover it; below either count nothing
changes. -/
def Obligations.TroubleReplaysAndDegrades : Prop :=
  (∀ (s : State) (p pass layer gen o m now : Nat) (x : Pass), p < 64 → findPass s p pass = some x →
     x.troubles.contains (layer, gen, o, m) = true →
     let noted := { x with troubles := x.troubles.erase (layer, gen, o, m) }
     (x.poison = none → stale x layer gen = false → x.replayed.contains layer = false →
       ∃ u y, exec (.troubleNotice p pass layer gen o m now) s = .next u ∧ findPass u p pass = some y ∧ x.gen < y.gen ∧
         y.replayed.contains layer = true ∧ y.forced.contains (layer, m, o) = true ∧
         (∀ q ∈ y.resolved, q.1 < layer) ∧ (∀ q ∈ y.troubles, q.1 < layer ∨ (q.1 = layer ∧ q.2.1 = x.gen)) ∧
         ((∀ z ∈ (s.part p).passes, z.id = pass → z.pos ≤ x.pos) → y.gen = x.gen + 1 ∧ y.measured.contains layer = true)) ∧
     (x.poison = none → stale x layer gen = false → x.replayed.contains layer = true → layerFellBack s p x layer = false →
       ∀ ly, layerOf s p x.slot layer = some ly →
       ∃ u y, exec (.troubleNotice p pass layer gen o m now) s = .next u ∧ findPass u p pass = some y ∧ x.gen < y.gen ∧
         ∀ i, i < ly.matrices.length → inFallback y layer i = true) ∧
     (x.poison = none → stale x layer gen = true → samePlay x layer gen = true → ∃ u y, exec (.troubleNotice p pass layer gen o m now) s = .next u ∧
       findPass u p pass = some y ∧ y.gen = x.gen ∧ y.forced.contains (layer, m, o) = true) ∧
     (x.poison.isSome = true ∨ (stale x layer gen = true ∧ samePlay x layer gen = false) →
       ∃ u, exec (.troubleNotice p pass layer gen o m now) s = .next u ∧ findPass u p pass = some noted ∧ u.tiles = s.tiles)) ∧
  (∀ (s : State) (p pass layer m gen t now : Nat) (x : Pass), p < 64 → t < 1280 → findPass s p pass = some x →
     let sent := x.notices.contains (layer, m, gen, t)
     let checked := stepChecked (s.tile t) p pass layer m gen
     (sent = true → checked = false →
       ∃ u y, exec (.stepResolved p pass layer m gen t now) s = .next u ∧ findPass u p pass = some y ∧
         (u.part p).progress = (s.part p).progress + 1 ∧ y.notices = x.notices.erase (layer, m, gen, t) ∧
         (stale x layer gen = false → y.resolved.contains (layer, m, t) = true ∧ ∀ q ∈ x.resolved, q ∈ y.resolved) ∧
         (stale x layer gen = true → y.resolved = x.resolved)) ∧
     (sent = false ∨ checked = true → exec (.stepResolved p pass layer m gen t now) s = .next (s.setNow now))) ∧
  (∀ (s : State) (p now : Nat), p < 64 →
     let q := s.part p
     (q.degraded = false → 256 ≤ q.run → ∃ u, exec (.arrayDegraded p now) s = .next u ∧ (u.part p).degraded = true ∧
       (u.part p).fbgDegraded = satAdd q.fbgDegraded 1 ∧ (u.part p).okRun = 0) ∧
     (q.degraded = true → 4096 ≤ q.okRun → ∃ u, exec (.arrayRecovered p now) s = .next u ∧ (u.part p).degraded = false ∧
       (u.part p).run = q.run) ∧
     (q.run < 256 → exec (.arrayDegraded p now) s = .next (s.setNow now)) ∧
     (q.okRun < 4096 → exec (.arrayRecovered p now) s = .next (s.setNow now)))

/-- R123, R263, R264, R276: PASS_OPEN opens the pass that R264 chooses, at the sequence's next position, with the check seed drawn in array
mode and none in reference mode. A main entry alone, and a pair, whose two passes take the same token, the main one drawing first. `v` is
the state once late heads have been dropped (R269). R224, R263: with no stripe to be had for its next page, the sequence that would open
waits, and no pass opens. -/
def Obligations.PassesOpenInOrder : Prop :=
  (∀ (s : State) (p now : Nat) (r : Ready), p < 64 → (s.part p).state = .running →
     (s.part p).passes.length < (s.part p).serv.passLimit →
     let v := (partEntries (s.setNow now) p).foldl (fun s e => pruneHead s p e.1) (s.setNow now)
     let m := v.entry r.main
     let e := v.entry r.entry
     chooseOpen v p = some r →
     (∀ v1, m.partnerValid = false → r.verify = false → r.entry = r.main → stripeFor v p r.entry e.length = some v1 →
       ∃ u l np, exec (.passOpen p now) s = .next u ∧ (u.part p).passes = l ++ [np] ∧
         l.map Pass.id = (v.part p).passes.map Pass.id ∧ np.id = (v.part p).nextPass ∧
         np.entry = r.entry ∧ np.pos = e.length ∧ np.token = r.token ∧ np.item = r.item ∧ np.gen = 0 ∧ np.verify = false ∧
         (u.entry r.entry).length = e.length + 1 ∧
         ((e.refMode && !e.draft) = false → np.seed = lfsrDraw (v.part p).lfsr ∧ (u.part p).lfsr = np.seed) ∧
         ((e.refMode && !e.draft) = true → np.seed = 0 ∧ (u.part p).lfsr = (v.part p).lfsr)) ∧
     (∀ v1 v2, m.partnerValid = true → r.verify = false → r.prompt = true → r.entry = r.main → m.partner ≠ r.main →
       m.refMode = false → stripeFor v p r.entry e.length = some v1 → stripeFor v1 p m.partner (v1.entry m.partner).length = some v2 →
       ∃ u l a b, exec (.passOpen p now) s = .next u ∧ (u.part p).passes = l ++ [a, b] ∧
         l.map Pass.id = (v.part p).passes.map Pass.id ∧ a.entry = r.main ∧
         b.entry = m.partner ∧ a.token = r.token ∧ b.token = r.token ∧ a.paired = some b.id ∧ b.paired = some a.id ∧
         a.seed = lfsrDraw (v.part p).lfsr)) ∧
  (∀ (s : State) (p now : Nat) (r : Ready), p < 64 → (s.part p).state = .running →
     (s.part p).passes.length < (s.part p).serv.passLimit →
     let v := (partEntries (s.setNow now) p).foldl (fun s e => pruneHead s p e.1) (s.setNow now)
     let e := v.entry r.entry
     chooseOpen v p = some r → stripeFor v p r.entry e.length = none →
     ∃ u, exec (.passOpen p now) s = .next u ∧ (u.part p).passes = (v.part p).passes ∧ (u.entry r.entry).frameWait = true ∧
       (e.frameWait = false → (u.slot p e.slot).pool.waiters = (v.slot p e.slot).pool.waiters ++ [r.entry] ∧
         (u.slot p e.slot).pool.allocWait = satAdd (v.slot p e.slot).pool.allocWait 1))

/-- R380: the prompt of the DECODE item at the head is read once; its tokens are the words' bits [17:0]. A failed read completes the item
with 0x0323, a token outside the vocabulary with 0x0322. -/
def Obligations.PromptIsReadOnce : Prop :=
  ∀ (s : State) (p entry now addr n : Nat) (i : Item) (h : HostRef), p < 64 → headItem (s.entry entry) = some i →
    findItem s entry i.id = some i → i.prompt = some (addr, n) → i.host = some h → ownsEntry s p entry = true →
    fnIssues s h.fn = true →
    let vocab := ((planOf s p (s.entry entry).slot).map Plain.vocab).getD 0
    let v := (s.setNow now).emit (.hostRead h.fn addr (4 * n))
    (∀ ws : List Nat, (∀ w ∈ ws.take n, w % 2 ^ 18 < vocab) → exec (.promptRead p entry (some ws) now) s =
      .next (modItem v entry i.id fun i => { i with prompt := none, left := (ws.take n).map fun w => w % 2 ^ 18 })) ∧
    (i.open_ = 0 → i.narr = none → h.live = true → h.quiet = false →
      (∃ u, exec (.promptRead p entry none now) s = .next u ∧ ∃ c ∈ (u.fnOf h.fn).buffer, c.reason = 0x0323 ∧ c.tag = h.tag) ∧
      (∀ ws : List Nat, (∃ w ∈ ws.take n, vocab ≤ w % 2 ^ 18) → ∃ u, exec (.promptRead p entry (some ws) now) s = .next u ∧
        ∃ c ∈ (u.fnOf h.fn).buffer, c.reason = 0x0322 ∧ c.tag = h.tag))

/-- R134, R135, R23: a pass at its commit point, first in its sequence's order, commits: it leaves, the sequence's committed length is its
position plus one, and that is progress. One that has consumed poison fails there: it leaves, and the sequence's length falls back to what
is committed. R268, R379, R383: the commit of the last pass of a SCORE item completes it: its completion carries the item's tag, reason 0,
the score of output 0, the number of tokens scored and the committed length; where a result address is given, the scores of every class are
written there before it. -/
def Obligations.PassesCommitOrFail : Prop :=
  (∀ (s : State) (p pass now : Nat) (x : Pass), p < 64 → findPass s p pass = some x → commitGroup s p x = [x] → x.verify = false →
     firstInOrder s p [x] = true → (s.part p).resetting = false → atCommitPoint s p x = true →
     (x.poison = none → ∃ u, exec (.passCommit p pass now) s = .next u ∧
       (u.part p).passes = (s.part p).passes.filter (fun y => y.id != x.id) ∧ (u.entry x.entry).committed = x.pos + 1 ∧
       (u.part p).progress = (s.part p).progress + 1 ∧ (u.part p).fbgPasses = wrapAdd (s.part p).fbgPasses 1) ∧
     (x.poison.isSome = true → (s.entry x.entry).partnerValid = false → ∃ u, exec (.passCommit p pass now) s = .next u ∧
       (∀ y ∈ (u.part p).passes, y.entry = x.entry → y.pos < x.pos) ∧
       (u.entry x.entry).length = (s.entry x.entry).committed ∧ (u.entry x.entry).committed = (s.entry x.entry).committed)) ∧
  (∀ (s : State) (p pass now : Nat) (x : Pass) (i : Item) (h : HostRef), p < 64 → findPass s p pass = some x →
     commitGroup s p x = [x] → x.verify = false → firstInOrder s p [x] = true → (s.part p).resetting = false →
     atCommitPoint s p x = true → x.poison = none → (s.entry x.entry).draft = false → findItem s x.entry x.item = some i →
     i.id = x.item → i.kind = .score → i.left = [] → i.open_ = 1 → i.removal = none → i.narr = none → i.host = some h →
     h.live = true → h.quiet = false →
     ∃ u c, exec (.passCommit p pass now) s = .next u ∧ c ∈ (u.fnOf h.fn).buffer ∧ c.tag = h.tag ∧ c.sq = h.sq ∧ c.reason = 0 ∧
       c.score = x.scores.getD 0 0x7FC00000 ∧ c.count = i.done + 1 ∧ c.position = x.pos + 1 ∧ c.progress = false ∧
       (i.result ≠ 0 → ∀ j, j < x.scores.length →
         (i.result + 4 * (i.done * x.scores.length + j), toLe 4 (x.scores.getD j 0)) ∈ c.data))

/-- R277, R278: a verify step commits as one. Its accepted proposals are the longest prefix that its main passes produced as well; with `a`
of `d` accepted both sequences are committed at the step's start plus `a` + 1, or plus `d` when all were, and what lies above is returned.
R279: four verify steps in a row with nothing accepted cut the depth to 0 and are counted; 64 tokens at depth 0 make the next step a probe
at DEPTH_MAX. Without these conditions neither changes anything. -/
def Obligations.SpeculationAcceptsAPrefix : Prop :=
  (∀ (s : State) (p pass now m : Nat) (x : Pass) (v : Verify), p < 64 → findPass s p pass = some x → x.verify = true →
     (s.entry x.entry).draft = false → m = x.entry → (s.entry m).verify = some v → (s.entry m).partnerValid = true →
     (s.entry m).partner ≠ m →
     let g := commitGroup s p x
     let mains := g.filter fun y => y.entry == m
     let drafts := g.filter fun y => y.entry != m
     g.head?.map Pass.verify = some true → g.head?.map Pass.entry = some m →
     firstInOrder s p g = true → (s.part p).resetting = false → verifyOpen s x = true →
     (∀ y ∈ g, y.poison = none ∧ atCommitPoint s p y = true) →
     let d := mains.length
     let a := Nat.min d (accepted (drafts.map topTok) (mains.map topTok))
     let len := v.start + (if a < d then a + 1 else d)
     ∃ u, exec (.passCommit p pass now) s = .next u ∧ (u.entry m).committed = len ∧ (u.entry (s.entry m).partner).committed = len ∧
       (u.entry m).length = len ∧ (u.entry m).verify = none ∧
       (u.part p).cnt.verify = wrapAdd (s.part p).cnt.verify 1 ∧ (u.part p).cnt.proposed = wrapAdd (s.part p).cnt.proposed d ∧
       (u.part p).cnt.accept = wrapAdd (s.part p).cnt.accept a) ∧
  (∀ (s : State) (p e : Nat), p < 64 → ownsEntry s p e = true → (s.entry e).open_ = true → (s.entry e).partnerValid = true →
     (s.entry e).draft = false →
     (4 ≤ (s.entry e).zeroRun → (s.entry e).specDepth ≠ 0 → ∃ u, exec (.specCut p e) s = .next u ∧
       u.entry e = { s.entry e with specDepth := 0, probe := 0 } ∧ (u.part p).cnt.cut = satAdd (s.part p).cnt.cut 1) ∧
     ((s.entry e).zeroRun < 4 → exec (.specCut p e) s = .next s) ∧
     (∀ i t, headItem (s.entry e) = some i → i.nextTok = some t → (s.entry e).specDepth = 0 → 64 ≤ (s.entry e).probe →
       (s.entry e).verify = none → i.kind = .decode → i.left = [] → i.open_ = 0 → entryServes s p e false = true →
       entryServes s p (s.entry e).partner false = true → ∃ u, exec (.specProbe p e) s = .next u ∧
         u.entry e = { s.entry e with verify := some { start := (s.entry e).committed, depth := Nat.min (s.part p).serv.depthMax (i.limit - i.generated), probe := true, input := t } }) ∧
     ((s.entry e).probe < 64 → exec (.specProbe p e) s = .next s))

/-- R230, R281, R282, R285: the first backlog entry in commit order that does not run starts while fewer than CONFIRM_SLOTS + 1 run: the
tiles of its image recompute its pass in reference mode, from the same token and position and the carry that was copied. Once the
recomputation has resolved its steps, its entry leaves the backlog and each of its candidates is resolved: confirmed where the class's
reference score reaches its threshold, suppressed where it does not or is NaN, unresolved where the recomputation consumed poison. -/
def Obligations.ConfirmationResolvesCandidates : Prop :=
  ∀ (s : State) (p now : Nat), p < 64 → (s.part p).state = .running →
    let q := s.part p
    (∀ b, nextBacklog q = some b → (planOf s p b.pass.slot).isSome = true → confirmRunning q ≤ q.serv.confirmSlots →
      ∃ u, exec (.confirmStart p now) s = .next u ∧ (u.part p).backlog = startFirst q.backlog ∧
        ∃ y ∈ (u.part p).recomps, y.id = q.nextPass ∧ y.confirm = some b.pass.id ∧ y.ref = true ∧ y.token = b.pass.token ∧
          y.pos = b.pass.pos ∧ y.entry = b.pass.entry ∧ y.variant = b.pass.variant ∧ y.carryIn = b.carry) ∧
    (nextBacklog q = none ∨ q.serv.confirmSlots < confirmRunning q → exec (.confirmStart p now) s = .next (s.setNow now)) ∧
    (∀ idx b y, q.backlog[idx]? = some b → b.running = true → recompOf q b = some y →
      (y.walking = 0 → allResolved s p y = true →
        ∃ u, exec (.confirmEnd p idx now) s = .next u ∧ (u.part p).backlog = q.backlog.eraseIdx idx ∧
          (u.part p).progress = q.progress + 1 ∧ (u.part p).recomps = q.recomps.filter (fun z => z.id != y.id) ∧
          ∀ c ∈ q.cands, b.cands.contains c.serial = true → c.entry = b.pass.entry → c.status = none →
            ∃ d ∈ (u.part p).cands, d.serial = c.serial ∧ d.entry = c.entry ∧ d.cls = c.cls ∧ d.status =
              some (if y.poison.isSome then 3
                else if f32IsNan (y.scores.getD c.cls 0x7FC00000) then 2
                else if f32Ge (y.scores.getD c.cls 0x7FC00000) c.thresh then 1 else 2)) ∧
      (y.walking ≠ 0 ∨ allResolved s p y = false → exec (.confirmEnd p idx now) s = .next (s.setNow now)))

/-- R284, R294: the release of the oldest resolved candidate of its sequence. A released one is counted and its evidence record goes where
the partition's settings send it; one suppressed or unresolved is not counted as released, and its record goes to the ring alone. One that
is not resolved, or not the oldest of its sequence, is not released. R286, R287, R288: an evidence record is 128 bytes and 384 for each
panel configured, and begins with that length, its kind 1, its version and panel count, and the request entry. -/
def Obligations.AlarmsAreReleasedWithTheirRecord : Prop :=
  (∀ (s : State) (p serial now st : Nat) (c : Cand) (fn : Nat), p < 64 →
     (s.part p).cands.find? (fun d => d.serial == serial) = some c →
     let older := ((s.part p).cands.takeWhile fun d => d.serial != serial).any fun d => d.entry == c.entry && d.seqId == c.seqId
     let rec_ := alarmRecord (s.setNow now) p c st false
     (c.status = some st → older = false → st < 2 → (s.part p).serv.narrEnable = false → (s.part p).serv.ring = true →
       (s.part p).serv.feed = false → (s.part p).fn = some fn → (s.part p).spool.length < 4096 →
       ∃ u, exec (.alarmRelease p serial now) s = .next u ∧ (u.part p).cnt.release = wrapAdd (s.part p).cnt.release 1 ∧
         (u.part p).spool = (s.part p).spool ++ [{ bytes := rec_ }] ∧ (∀ d ∈ (u.part p).cands, d.serial ≠ serial)) ∧
     (c.status = some st → older = false → 2 ≤ st → (s.part p).fn = some fn → (s.part p).spool.length < 4096 →
       ∃ u, exec (.alarmRelease p serial now) s = .next u ∧ (u.part p).cnt.release = (s.part p).cnt.release ∧
         (u.part p).spool = (s.part p).spool ++ [{ bytes := rec_ }] ∧ u.feedPorts = s.feedPorts) ∧
     (c.status = none ∨ older = true → exec (.alarmRelease p serial now) s = .next (s.setNow now))) ∧
  (∀ (s : State) (p : Nat) (c : Cand) (st : Nat) (narr : Bool), (s.part p).serv.nPanel ≤ 4 →
     let n := (s.part p).serv.nPanel
     let r := alarmRecord s p c st narr
     r.length = 128 + 384 * n ∧ leAt r 0 2 = 128 + 384 * n ∧ byteAt r 2 = 1 ∧ byteAt r 3 = 1 + 16 * n ∧
       (c.entry < 2 ^ 32 → leAt r 4 4 = c.entry) ∧ (c.serial < 2 ^ 32 → leAt r 12 4 = c.serial) ∧
       (c.score < 2 ^ 32 → leAt r 28 4 = c.score))

/-- R226, R262: an entry that is closing, with no open pass and no pin, becomes FREE: its contents are gone, its root and the stripes of its
valid pages are back in the pool of its image slot. With a pass open it stays. R244 to R247: a waiting batch applies between passes, as a
whole. FREE empties its pages; REORDER swaps two ranges of descriptors; SHIFT lowers the lengths by 64 positions a page; APPEND adds pages
after the last valid one where the pool has stripes that no waiting sequence is owed (R224; else 0x0342); each completes with reason 0. A
batch whose operation is not legal changes no page and completes with 0x0341. -/
def Obligations.EntriesAreFreedAndEdited : Prop :=
  (∀ (s : State) (p e now : Nat), p < 64 → ownsEntry s p e = true →
     let x := s.entry e
     (freeable s p e = true → ∃ u, exec (.entryFreed p e now) s = .next u ∧ u.entry e = {} ∧
       (x.partnerValid = true → x.draft = false → u.entry x.partner = {}) ∧
       (u.slot p x.slot).pool.rootsReturned.contains (x.root / 2) = true ∧
       ∀ d ∈ x.pages, d.2.valid = true → (s.slot p x.slot).pool.withdrawn.contains d.2.stripe = false →
         (u.slot p x.slot).pool.returned.contains d.2.stripe = true) ∧
     ((passesOf s p e).isEmpty = false → exec (.entryFreed p e now) s = .next (s.setNow now))) ∧
  (∀ (s : State) (p e now : Nat) (b : EditBatch) (o : EditOp), p < 64 → ownsEntry s p e = true → (s.entry e).open_ = true →
     passesOf s p e = [] → (s.entry e).partnerValid = false → pinned s p e = false → (s.entry e).edit = some b →
     b.host.live = true → b.host.quiet = false → batchHeadOk b.bytes = true → b.ops = [o] →
     let x := s.entry e
     let done := fun (u : State) (r : Nat) => ∃ c ∈ (u.fnOf b.host.fn).buffer, c.tag = b.host.tag ∧ c.reason = r
     (o.rsv = 0 → 1 ≤ o.n → o.n ≤ 64 → o.op = 1 → rangeAll o.first o.n (fun j => x.stale || closedPage x j) = true →
       ∃ u, exec (.editApply p e now) s = .next u ∧ done u 0 ∧ (u.entry e).edit = none ∧
         ∀ i, i < o.n → (tget {} (u.entry e).pages (o.first + i)).valid = false) ∧
     (o.rsv = 0 → 1 ≤ o.n → o.n ≤ 64 → o.op = 2 → x.stale = false → rangeAll o.first o.n (closedPage x) = true →
       rangeAll o.dest o.n (closedPage x) = true → o.first + o.n ≤ o.dest → ∃ u, exec (.editApply p e now) s = .next u ∧ done u 0 ∧
         ∀ i, i < o.n →
           (tget {} (u.entry e).pages (o.first + i)).stripe = (tget {} x.pages (o.dest + i)).stripe ∧
           (tget {} (u.entry e).pages (o.dest + i)).stripe = (tget {} x.pages (o.first + i)).stripe) ∧
     (o.rsv = 0 → 1 ≤ o.n → o.n ≤ 64 → o.op = 3 → x.stale = false → rangeAll o.first o.n (closedPage x) = true →
       (((kvOf s p x.slot).map KvParams.sink).getD false && o.first == 0) = false →
       ∃ u, exec (.editApply p e now) s = .next u ∧ done u 0 ∧ (u.entry e).length = x.length - 64 * o.n ∧
         (u.entry e).committed = x.committed - 64 * o.n) ∧
     (o.rsv = 0 → 1 ≤ o.n → o.n ≤ 64 → o.op = 4 → x.stale = false → afterLast x + o.n ≤ 2 ^ 20 →
       (o.n ≤ unowed (s.slot p x.slot).pool → ∃ u, exec (.editApply p e now) s = .next u ∧ done u 0 ∧
         ∀ i, i < o.n → (tget {} (u.entry e).pages (afterLast x + i)).valid = true) ∧
       (unowed (s.slot p x.slot).pool < o.n → ∃ u, exec (.editApply p e now) s = .next u ∧ done u 0x0342 ∧
         (u.entry e).pages = x.pages)) ∧
     (o.rsv ≠ 0 ∨ o.n = 0 ∨ 64 < o.n ∨ o.op = 0 ∨ 4 < o.op → ∃ u, exec (.editApply p e now) s = .next u ∧ done u 0x0341 ∧
       (u.entry e).edit = none ∧ (u.entry e).pages = x.pages ∧ (u.entry e).length = x.length))

/-- R300, R306, R307, R311, R320: a frame that fails a check of R300 is dropped and counted under its reason, and nothing else happens. A
datagram of no line meets the feed rules: where none applies it counts in NO_MATCH; where its one rule applies it is discarded or becomes a
lookup with the rule's key and token; received bytes leave the FCS out. R302, R303, R304: a datagram of a line goes to its channel. In
order, it is accepted and E moves past its messages; wholly behind, its messages are duplicates; ahead by less than 2²⁰, it is held; an
UNSYNCED channel takes its number as it comes. -/
def Obligations.FramesReachTheirChannel : Prop :=
  (∀ (s : State) (port now : Nat) (frame : List Byte), port < 12 → (s.fport port).up = true →
     let c := (s.fport port).cfg
     let iod := port / 2
     (∀ e, rxCheck c port (s.setNow now).now frame = .error e →
       exec (.feedFrameRx port frame now) s = .next ((s.setNow now).modFport port fun q => countDrop q e)) ∧
     (∀ d, rxCheck c port (s.setNow now).now frame = .ok (.dgram d) → d.port = port → d.line = none →
       (∀ l ∈ (s.fiod iod).lines, ¬ (l.port = port % 2 ∧ l.dstIp6 = d.dst6 ∧ l.dst = d.dst ∧ l.udp = d.udp)) →
       ((∀ r ∈ (s.fiod iod).rules, (s.part r.part).rulesOk = true → ruleHead c r d = false) →
         ∃ u, exec (.feedFrameRx port frame now) s = .next u ∧ (u.fport port).noMatch = satAdd (s.fport port).noMatch 1 ∧
           (u.fport port).rxFrames = wrapAdd (s.fport port).rxFrames 1 ∧
           (u.fport port).rxBytes = wrapAdd (s.fport port).rxBytes (frame.length - 4) ∧ u.feedIods = s.feedIods) ∧
       (∀ r, (s.fiod iod).rules.filter (fun r => (s.part r.part).rulesOk) = [r] → ruleHead c r d = true → ruleFits r d 0 = true →
         ruleTerms r d 0 = true →
         (r.discard = true → ∃ u, exec (.feedFrameRx port frame now) s = .next u ∧ u.feedIods = s.feedIods ∧
           (u.fport port).noMatch = (s.fport port).noMatch) ∧
         (r.discard = false → ∃ u x, exec (.feedFrameRx port frame now) s = .next u ∧
           (u.fiod iod).lookups = (s.fiod iod).lookups ++ [x] ∧ x.part = r.part ∧ x.keyspace = r.keyspace ∧
           x.key = (r.keys.map fun k => slice d.payload k.1 k.2).flatten ∧ x.token = tokenOf (s.fiod iod).tables r d 0 ∧
           x.cls = r.cls ∧ x.arrival = d.arrival ∧ x.deadline = budget d.arrival (tget 0 (s.part r.part).serv.dlEvent r.cls) ∧
           (u.fport port).noMatch = (s.fport port).noMatch)))) ∧
  (∀ (s : State) (port now : Nat) (frame : List Byte) (d : Dgram) (l : LineCfg), port < 12 → (s.fport port).up = true →
     rxCheck (s.fport port).cfg port (s.setNow now).now frame = .ok (.dgram d) → d.port = port →
     let iod := port / 2
     (s.fiod iod).lines.find? (fun l => l.port == port % 2 && l.dstIp6 == d.dst6 && l.dst == d.dst && l.udp == d.udp) = some l →
     l.seqOff + l.seqWidth ≤ d.payload.length → (l.cntWidth ≠ 0 → l.cntOff + l.cntWidth ≤ d.payload.length) →
     let seq := msgField d 0 l.seqOff l.seqWidth l.seqBig
     let n := if l.cntWidth = 0 then 1 else msgField d 0 l.cntOff l.cntWidth l.cntBig
     let w := 8 * l.seqWidth
     let c := channel s iod l.channel
     let delta := serial w seq c.expect
     let held := ((s.setNow now).now, { d with line := some l, seq := seq, count := n })
     (c.synced = true → delta = 0 → 0 < n → c.held = [] → ∃ u, exec (.feedFrameRx port frame now) s = .next u ∧
       channel u iod l.channel = { c with expect := (seq + n) % 2 ^ w }) ∧
     (c.synced = true → delta + n ≤ 0 → c.gone = [] → ∃ u, exec (.feedFrameRx port frame now) s = .next u ∧
       channel u iod l.channel = { c with dup := wrapAdd c.dup n } ∧ (u.fiod iod).lookups = (s.fiod iod).lookups) ∧
     (c.synced = true → 0 < delta → delta < 2 ^ 20 → c.hold ≠ 0 → c.held.length < 32 →
       heldOn (modChannel s iod l.channel fun c => { c with held := c.held ++ [held] }) iod ≤ 512 →
       ∃ u, exec (.feedFrameRx port frame now) s = .next u ∧
         channel u iod l.channel = { c with held := c.held ++ [held] } ∧ (u.fiod iod).lookups = (s.fiod iod).lookups) ∧
     (c.synced = false → c.held = [] → ∃ u, exec (.feedFrameRx port frame now) s = .next u ∧
       channel u iod l.channel = { c with synced := true, gone := [], expect := (seq + n) % 2 ^ w }))

/-- R304, R305, R322: when the oldest held datagram has been held for the limit, the gap up to it is declared: it and its messages are
counted, for every subscribed partition too, and the datagram is accepted. Before the limit nothing happens. ARB_CMD.RESYNC takes the
selected channel to UNSYNCED and discards what it holds as late. -/
def Obligations.GapsAndResync : Prop :=
  (∀ (s : State) (iod ch now t : Nat) (h : Dgram), iod < 6 → ch < 256 →
    let c := channel s iod ch
    let w := seqBits h
    c.held = [(t, h)] → c.synced = true → 0 < serial w h.seq c.expect → 0 < h.count →
    ((s.setNow now).now < t + c.hold → exec (.arbHoldExpiry iod ch now) s = .next (s.setNow now)) ∧
    (t + c.hold ≤ (s.setNow now).now → ∃ u, exec (.arbHoldExpiry iod ch now) s = .next u ∧
      (channel u iod ch).held = [] ∧ (channel u iod ch).expect = (h.seq + h.count) % 2 ^ w ∧
      (channel u iod ch).gaps = satAdd c.gaps 1 ∧
      (channel u iod ch).gapMsgs = satAdd c.gapMsgs (serial w h.seq c.expect).toNat ∧
      ∀ p, p < 64 → (u.part p).ing.gaps = if bitOf c.subs p then satAdd (s.part p).ing.gaps 1 else (s.part p).ing.gaps)) ∧
  (∀ (s : State) (iod value : Nat), iod < 6 →
    let ch := (s.fiod iod).arbSel
    let c := channel s iod ch
    (bitOf value 0 = true → ∃ u, exec (.arbResyncCmd iod value) s = .next u ∧ channel u iod ch =
      { c with synced := false, held := [], gone := [], late := satAdd c.late (c.held.map fun h => h.2.count).sum }) ∧
    (bitOf value 0 = false → exec (.arbResyncCmd iod value) s = .next s))

/-- R309 to R313: the oldest lookup of an IOD ends. A hit makes an ingest entry for its request index; a miss is counted, or, where the rule
says AUTO_OPEN and the slot is READY, opens the lowest FREE entry, which takes the key. R260, R312: while the partition runs, INGEST_DRAIN
empties its share on the IOD, oldest first, into the work queues of the entries: one SCORE item of one token for each event. No event names
an entry that cannot take it, no queue reaches 4,096 tokens, and nothing is marked lost. A partition that does not run drains nothing. -/
def Obligations.LookupsFeedTheSequences : Prop :=
  (∀ (s : State) (iod now : Nat) (k : Lookup) (ks : List Lookup), iod < 6 → (s.fiod iod).lookups = k :: ks →
     let x := share s iod k.part
     let item := fun e => ({ entry := e, token := k.token, cls := k.cls, arrival := k.arrival, lost := false, deadline := k.deadline } : IngestEntry)
     (∀ e, keyFind s k.part k.keyspace k.key = some e → x.lost = [] → shareRoom x = true →
       ∃ u, exec (.keyLookupDone iod now) s = .next u ∧ (u.fiod iod).lookups = ks ∧
         (share u iod k.part).fifo = x.fifo ++ [item e] ∧
         (u.part k.part).ing.events = wrapAdd (s.part k.part).ing.events 1 ∧ u.entries = s.entries) ∧
     (keyFind s k.part k.keyspace k.key = none → k.autoOpen = false →
       ∃ u, exec (.keyLookupDone iod now) s = .next u ∧ (u.fiod iod).lookups = ks ∧ (share u iod k.part).fifo = x.fifo ∧
         (u.part k.part).ing.keyMiss = satAdd (s.part k.part).ing.keyMiss 1 ∧ u.entries = s.entries) ∧
     (∀ b e r pool, keyFind s k.part k.keyspace k.key = none → k.autoOpen = true → (s.slot k.part k.slot).state = .ready →
       keyRoom s k.part k.keyspace k.key = some b → lowestFree s k.part = some e →
       popRoot (s.slot k.part k.slot).pool = some (r, pool) → x.lost = [] → shareRoom x = true →
       ∃ u, exec (.keyLookupDone iod now) s = .next u ∧ (u.entry e).open_ = true ∧ (u.entry e).cls = k.cls ∧
         (u.entry e).slot = k.slot ∧ (u.entry e).seqId = (crc64 (BitVec.ofNat 8 k.keyspace :: k.key)).toNat ∧
         keyFind u k.part k.keyspace k.key = some e ∧ (share u iod k.part).fifo = x.fifo ++ [item e] ∧
         (u.part k.part).ing.autoOpen = wrapAdd (s.part k.part).ing.autoOpen 1)) ∧
  (∀ (s : State) (p iod now : Nat), p < 64 → iod < 6 →
     let x := share s iod p
     ((s.part p).state ≠ .running → exec (.ingestDrain p iod now) s = .next (s.setNow now)) ∧
     ((s.part p).state = .running → x.lost = [] →
       (∀ k ∈ x.fifo, k.lost = false ∧ (s.entry k.entry).open_ = true ∧ (s.entry k.entry).closing = false ∧
         ownsEntry s p k.entry = true ∧ (s.entry k.entry).stale = false ∧ (s.entry k.entry).length < 2 ^ 26 ∧
         pendingOf (s.entry k.entry) + x.fifo.length ≤ 4096) →
       ∃ u, exec (.ingestDrain p iod now) s = .next u ∧ (share u iod p).fifo = [] ∧ ∀ e, ∃ items,
         (u.entry e).queue = (s.entry e).queue ++ items ∧ (∀ i ∈ items, i.kind = .score) ∧
         items.map (fun i => (i.left, i.arrival, i.deadline)) =
           (x.fifo.filter fun k => k.entry == e).map fun k => ([k.token], k.arrival, k.deadline)))

/-- R315, R317, R320, R323: an enabled port comes up and reports FEED_LINK; one that goes down drops every waiting message, counted on the
port and for its partition, and reports. A port that is up sends the oldest message of its queue and counts it. -/
def Obligations.FeedLinksAndMessages : Prop :=
  ∀ (s : State) (port now : Nat), port < 12 →
    let q := s.fport port
    let die := 0x40 + port / 2
    let n := (s.setNow now).now
    let ev := fun up : Nat =>
      EvRec.mk evFeedLink 0 die (0x18 + port % 2) none 1 n n (pay [(1, port), (1, up)])
    (q.up = false → q.cfg.enable = true → feedPortFitted s.variant port = true →
      ∃ u, exec (.feedLinkUp port now) s = .next u ∧ (u.fport port).up = true ∧ (u.die die).ev = evPush (s.die die).ev (ev 1)) ∧
    (q.up = false → q.cfg.enable = false → exec (.feedLinkUp port now) s = .next (s.setNow now)) ∧
    (q.up = true → ∃ u, exec (.feedLinkDown port now) s = .next u ∧
      u.fport port = { q with up := false, txq := [], txDrop := satAdd q.txDrop q.txq.length } ∧
      (u.die die).ev = evPush (s.die die).ev (ev 0) ∧
      ∀ p, (u.part p).cnt.txDrop = satAdd (s.part p).cnt.txDrop (q.txq.filter fun m => m.part == p).length) ∧
    (∀ m ms, q.up = true → q.txq = m :: ms → exec (.alarmMsgTx port) s =
      .next ((s.modFport port fun q => { q with txq := ms, txFrames := wrapAdd q.txFrames 1 }).emit (.feedTx port m.bytes)))

/-- R373, R374, R375: the enables of FN_Q_CTRL, SQ_CTRL, CQ_CTRL and ER_CTRL. An enable whose check passes takes effect, and the ring starts
empty; one whose check fails is refused with its reason, the register's offset and FN_EVT.REFUSED. A cleared enable stops the ring, and a
cleared CQ its SQ too. A base is written while its ring is off, 4 KiB aligned, and refused while it is on. R376, R388, R390: a doorbell
within its ring moves the tail or head; one outside it is a queue fault: the ring stops and FN_EVT says so. Descriptors added by a tail
carry the time of its acceptance; records that the evidence head passes leave the spool. -/
def Obligations.QueueEnablesAndDoorbells : Prop :=
  (∀ (s : State) (fn n value : Nat), fn < 64 → n < 4 →
     let f := s.fnOf fn
     let r := s.ring fn n
     let size := fld value 8 5
     let v := s.modRing fn n fun r => { r with sqSize := size }
     let w := s.modRing fn n fun r => { r with coalCount := fld value 24 8, cqSize := size, vector := fld value 16 6 }
     let e := modEr s fn fun e => { e with size := size, vector := fld value 16 6 }
     (bitOf value 0 = false → exec (.fnQCtrlWrite fn value) s = .next (s.modFn fn fun f => { f with qEn := false })) ∧
     (bitOf value 0 = true → f.qEn = false → masterCheck s fn = 0 →
       exec (.fnQCtrlWrite fn value) s = .next (s.modFn fn fun f => { f with qEn := true })) ∧
     (bitOf value 0 = true → f.qEn = false → masterCheck s fn ≠ 0 → ∃ u, exec (.fnQCtrlWrite fn value) s = .next u ∧
       (u.fnOf fn).qEn = false ∧ (u.fnOf fn).reason = masterCheck s fn ∧ (u.fnOf fn).reasonReg = 0x1000 ∧ bitOf (u.fnOf fn).evt 0 = true) ∧
     (bitOf value 0 = true → r.sqEn = false → 4 ≤ size → size ≤ 16 → ringCheck v fn n = 0 →
       ∃ u, exec (.sqCtrlWrite fn n value) s = .next u ∧
         u.ring fn n = { r with sqSize := size, sqEn := true, head := 0, tail := 0, marks := [], sqFault := false }) ∧
     (bitOf value 0 = true → r.sqEn = false → 4 ≤ size → size ≤ 16 → ringCheck v fn n ≠ 0 →
       ∃ u, exec (.sqCtrlWrite fn n value) s = .next u ∧ u.ring fn n = { r with sqSize := size } ∧
         (u.fnOf fn).reason = ringCheck v fn n ∧ (u.fnOf fn).reasonReg = 0x1048 + 0x40 * n ∧ bitOf (u.fnOf fn).evt 0 = true) ∧
     (bitOf value 0 = false → r.sqEn = true → size = r.sqSize →
       ∃ u, exec (.sqCtrlWrite fn n value) s = .next u ∧ u.ring fn n = { r with sqEn := false }) ∧
     (bitOf value 0 = true → r.cqEn = false → 4 ≤ size → size ≤ 16 → ringCheck w fn (4 + n) = 0 →
       ∃ u, exec (.cqCtrlWrite fn n value) s = .next u ∧ (u.ring fn n).cqEn = true ∧ (u.ring fn n).cqTail = 0 ∧
         (u.ring fn n).phase = true ∧ (u.ring fn n).cqSize = size ∧ (u.ring fn n).vector = fld value 16 6 ∧
         (u.ring fn n).coalCount = fld value 24 8) ∧
     (bitOf value 0 = false → r.cqEn = true → size = r.cqSize → fld value 16 6 = r.vector →
       ∃ u, exec (.cqCtrlWrite fn n value) s = .next u ∧
         u.ring fn n = { r with coalCount := fld value 24 8, cqEn := false, sqEn := false }) ∧
     (bitOf value 0 = true → f.er.en = false → 6 ≤ size → size ≤ 16 → ringCheck e fn 8 = 0 →
       ∃ u, exec (.erCtrlWrite fn value) s = .next u ∧ (u.fnOf fn).er =
         { f.er with size := size, vector := fld value 16 6, en := true, tail := 0, head := 0, written := [] }) ∧
     (bitOf value 0 = false → f.er.en = true → size = f.er.size → fld value 16 6 = f.er.vector →
       ∃ u, exec (.erCtrlWrite fn value) s = .next u ∧ (u.fnOf fn).er = { f.er with en := false }) ∧
     (r.sqEn = false → ∃ u, exec (.queueBaseWrite fn (0x1040 + 0x40 * n) value) s = .next u ∧
       u.ring fn n = { r with sqBase := r.sqBase / 2 ^ 32 * 2 ^ 32 + value / 2 ^ 12 * 2 ^ 12 % 2 ^ 32 }) ∧
     (r.sqEn = true → ∃ u, exec (.queueBaseWrite fn (0x1040 + 0x40 * n) value) s = .next u ∧ u.ring fn n = r ∧
       (u.fnOf fn).reason = 0x010C ∧ (u.fnOf fn).reasonReg = 0x1040 + 0x40 * n ∧ bitOf (u.fnOf fn).evt 0 = true)) ∧
  (∀ (s : State) (fn n value now : Nat), fn < 64 → n < 4 →
     let r := s.ring fn n
     let e := (s.fnOf fn).er
     let v := value % 65536
     (r.sqEn = true → v < 2 ^ r.sqSize → v ≠ r.tail → r.marks = [] → ∃ u, exec (.sqDoorbell fn n value now) s = .next u ∧
       u.ring fn n = { r with tail := v, marks := [(v, (s.setNow now).now)] }) ∧
     (r.sqEn = true → 2 ^ r.sqSize ≤ v → ∃ u, exec (.sqDoorbell fn n value now) s = .next u ∧ (u.ring fn n).sqEn = false ∧
       (u.ring fn n).sqFault = true ∧ (u.fnOf fn).reason = 0x0110 ∧ bitOf (u.fnOf fn).evt 1 = true) ∧
     (r.sqEn = false → exec (.sqDoorbell fn n value now) s = .next (s.setNow now)) ∧
     (r.cqEn = true → v < 2 ^ r.cqSize → (v + 2 ^ r.cqSize - r.cqHead) % 2 ^ r.cqSize ≤ cqUsed r →
       ∃ u, exec (.cqHeadDoorbell fn n value now) s = .next u ∧ u.ring fn n = { r with cqHead := v }) ∧
     (r.cqEn = true → cqUsed r < (v + 2 ^ r.cqSize - r.cqHead) % 2 ^ r.cqSize →
       ∃ u, exec (.cqHeadDoorbell fn n value now) s = .next u ∧ (u.ring fn n).cqEn = false ∧ (u.ring fn n).sqEn = false ∧
         (u.fnOf fn).reason = 0x0110 ∧ bitOf (u.fnOf fn).evt 1 = true) ∧
     (∀ p, e.en = true → v < 2 ^ e.size → (s.fnOf fn).part = some p →
       let moved := (v + 2 ^ e.size - e.head) % 2 ^ e.size
       moved ≤ (e.tail + 2 ^ e.size - e.head) % 2 ^ e.size →
       ∃ u, exec (.erHeadDoorbell fn value now) s = .next u ∧ (u.fnOf fn).er.head = v ∧
         (u.fnOf fn).er.written = (passRecords moved e.written).2 ∧
         (u.part p).spool = (s.part p).spool.drop (passRecords moved e.written).1))

/-- R376 to R382: SQ_FETCH takes the descriptor at the head of the SQ whose turn it is. A failed read is a queue fault; a malformed
descriptor completes with its reason; NOP completes; OPEN opens the entry it names; SCORE and DECODE put an item into the entry's work
queue; CLOSE closes the entry; QUERY completes with the entry's bytes; EDIT and IMAGE read 64 bytes of host memory. R247, R381: the oldest
read of a batch or command returns. A failed read completes with 0x0323 and TAG 0; a batch for an open entry of the partition that holds
none waits at its entry; a well-formed command waits to run. -/
def Obligations.DescriptorsTakeEffect : Prop :=
  (∀ (s : State) (fn n now p : Nat), fn < 64 → n < 4 → (s.fnOf fn).part = some p → nextFetch s fn = some n →
     (s.fnOf fn).outstanding < 1024 →
     let r := s.ring fn n
     (∃ u, exec (.sqFetch fn n none now) s = .next u ∧ (u.ring fn n).sqEn = false ∧ (u.ring fn n).sqFault = true ∧
       (u.fnOf fn).reason = 0x0111 ∧ bitOf (u.fnOf fn).evt 1 = true) ∧
     ∀ d : List Byte, d.length = 64 →
       let e := leAt d 4 4 % 2 ^ 17
       let tag := leAt d 2 2
       let quiet := bitOf (byteAt d 1) 0
       let op := byteAt d 0
       let arr := ((r.marks.head?).map Prod.snd).getD (s.setNow now).now
       let x := s.entry e
       ∃ u, exec (.sqFetch fn n (some d) now) s = .next u ∧ (u.ring fn n).head = (r.head + 1) % 2 ^ r.sqSize ∧
         (u.fnOf fn).nextSq = (n + 1) % 4 ∧ (u.fnOf fn).descCnt = wrapAdd (s.fnOf fn).descCnt 1 ∧
         .hostRead fn (r.sqBase + 64 * r.head) 64 ∈ u.out ∧
         (descReason s p d ≠ 0 → ∃ c ∈ (u.fnOf fn).buffer, c.tag = tag ∧ c.sq = n ∧ c.reason = descReason s p d) ∧
         (descReason s p d = 0 → op = 0 → quiet = false → ∃ c ∈ (u.fnOf fn).buffer, c.tag = tag ∧ c.sq = n ∧ c.reason = 0) ∧
         (descReason s p d = 0 → op = 1 → bitOf (leAt d 4 4) 31 = false → ownsEntry s p e = true → x.open_ = false →
           byteAt d 21 = 0 → fld (leAt d 16 4) 2 4 = 0 → (popRoot (s.slot p (fld (leAt d 16 4) 6 4)).pool).isSome = true →
           bitOf (leAt d 16 4) 12 = false → quiet = false →
           (u.entry e).open_ = true ∧ (u.entry e).seqId = leAt d 8 8 ∧ (u.entry e).cls = fld (leAt d 16 4) 0 2 ∧
           (u.entry e).slot = fld (leAt d 16 4) 6 4 ∧ (u.entry e).length = 0 ∧
           ∃ c ∈ (u.fnOf fn).buffer, c.tag = tag ∧ c.reason = 0 ∧ c.entry = e) ∧
         (descReason s p d = 0 → op = 2 → workReason s p e (scoreTokens d).length = 0 → ∃ i,
           (u.entry e).queue = x.queue ++ [i] ∧ i.kind = .score ∧ i.left = scoreTokens d ∧ i.arrival = arr ∧ i.result = leAt d 16 8 ∧
           i.host = some { fn := fn, sq := n, tag := tag, quiet := quiet } ∧
           i.deadline = (if leAt d 8 8 = 0 then budget arr (tget 0 (s.part p).serv.dlEvent x.cls) else some (leAt d 8 8))) ∧
         (descReason s p d = 0 → op = 3 → workReason s p e (leAt d 24 2 % 2 ^ 12 + 1) = 0 →
           ((planOf s p x.slot).map headLm).getD false = true → ∃ i, (u.entry e).queue = x.queue ++ [i] ∧ i.kind = .decode ∧
           i.prompt = some (leAt d 8 8, leAt d 24 2 % 2 ^ 12 + 1) ∧ i.outAddr = leAt d 16 8 ∧ i.limit = leAt d 26 2 + 1 ∧
           i.notify = byteAt d 32 ∧ i.arrival = arr) ∧
         (descReason s p d = 0 → op = 4 → ownsEntry s p e = true → x.open_ = true → (u.entry e).closing = true) ∧
         (descReason s p d = 0 → op = 6 → ownsEntry s p e = true → ∃ c ∈ (u.fnOf fn).buffer, c.tag = tag ∧ c.reason = 0 ∧
           c.data = [(leAt d 8 8, entryBytes (s.setNow now) p e 0)] ∧ c.position = x.committed) ∧
         (descReason s p d = 0 → (op = 5 ∨ op = 7) → (u.fnOf fn).reads =
           (s.fnOf fn).reads ++ [{ edit := op == 5, sq := n, addr := leAt d 8 8, quiet := quiet }] ∧
           .hostRead fn (leAt d 8 8) 64 ∈ u.out)) ∧
  (∀ (s : State) (fn now p : Nat) (r : HostRead) (rs : List HostRead), fn < 64 → (s.fnOf fn).part = some p →
     (s.fnOf fn).reads = r :: rs →
     (∃ u, exec (.hostBatchCommandRead fn none now) s = .next u ∧ (u.fnOf fn).reads = rs ∧
       ∃ c ∈ (u.fnOf fn).buffer, c.tag = 0 ∧ c.sq = r.sq ∧ c.reason = 0x0323) ∧
     (∀ b : List Byte, b.length = 64 → r.edit = true →
       let e := leAt b 0 4 % 2 ^ 17
       let x := s.entry e
       ownsEntry s p e = true → x.draft = false → x.narrative = false → x.open_ = true → x.closing = false → x.edit = none →
       ∃ u, exec (.hostBatchCommandRead fn (some b) now) s = .next u ∧ (u.fnOf fn).reads = rs ∧ u.entry e = { x with
         edit := some { bytes := b, ops := parseOps b, host := { fn := fn, sq := r.sq, tag := leAt b 6 2, quiet := r.quiet } } }) ∧
     (∀ b : List Byte, b.length = 64 → r.edit = false → imgCmdOk b = true →
       ∃ u, exec (.hostBatchCommandRead fn (some b) now) s = .next u ∧ (u.fnOf fn).reads = rs ∧
         (u.fnOf fn).cmds = (s.fnOf fn).cmds ++ [({ fn := fn, sq := r.sq, tag := leAt b 10 2, quiet := r.quiet }, b)]))

/-- R383, R384, R385, R391: CQ_COMPLETION_WRITE posts the oldest completion whose ring can take it: its data, then its entry at TAIL, which
advances; PHASE inverts at the wrap. A ring that coalesces interrupts when COAL_US have passed since its oldest unsignalled entry. R391,
R395: BUS_MASTER_ENABLE_WRITE sets the function's enables and MSIX_UNMASK clears a mask bit; each then sends the pending interrupts that are
unmasked, in ascending order, where the function may send. FN_EVT bits clear where a 1 is written (R13, R372). -/
def Obligations.CompletionsAndInterrupts : Prop :=
  (∀ (s : State) (fn now : Nat), fn < 64 →
     (∀ c, (s.fnOf fn).buffer.find? (complReady s fn) = some c → complSilent c = false →
       let r := s.ring fn c.sq
       ∃ u rest, exec (.cqCompletionWrite fn now) s = .next u ∧ (u.fnOf fn).buffer = removeFirst (complReady s fn) (s.fnOf fn).buffer ∧
         u.out = s.out ++ c.data.map (fun w => .hostWrite fn w.1 w.2) ++
           [.hostWrite fn (r.cqBase + 32 * r.cqTail) (complBytes (s.setNow now) fn c)] ++ rest ∧
         (∀ m ∈ rest, m = .msix fn r.vector) ∧ (u.ring fn c.sq).cqTail = (r.cqTail + 1) % 2 ^ r.cqSize ∧
         (u.ring fn c.sq).phase = (if (r.cqTail + 1) % 2 ^ r.cqSize = 0 then !r.phase else r.phase) ∧
         (u.ring fn c.sq).unsignalled = (if Nat.max 1 r.coalCount ≤ r.unsignalled + 1 then 0 else r.unsignalled + 1)) ∧
     ((∀ c ∈ (s.fnOf fn).buffer, complReady s fn c = false) → exec (.cqCompletionWrite fn now) s = .next (s.setNow now)) ∧
     (∀ n, n < 4 →
       let r := s.ring fn n
       (r.unsignalled ≠ 0 → r.coalUs ≠ 0 → r.oldest + 1000 * r.coalUs ≤ (s.setNow now).now → (s.fnOf fn).msixEn = true →
         ∃ u, exec (.cqCoalTimeout fn n now) s = .next u ∧ u.ring fn n = { r with unsignalled := 0 } ∧
           ((tget (0, 0, true) (s.fnOf fn).msix r.vector).2.2 = false → fnIssues s fn = true → u.out = s.out ++ [.msix fn r.vector]) ∧
           ((tget (0, 0, true) (s.fnOf fn).msix r.vector).2.2 = true → u.out = s.out ∧
             (u.fnOf fn).pba = (s.fnOf fn).pba ||| 2 ^ r.vector)) ∧
       ((s.setNow now).now < r.oldest + 1000 * r.coalUs → exec (.cqCoalTimeout fn n now) s = .next (s.setNow now)))) ∧
  (∀ (s : State) (fn : Nat), fn < 64 →
     let f := s.fnOf fn
     let waiting := fun (f : Fn) k => bitOf f.pba k && !(tget (0, 0, true) f.msix k).2.2
     (∀ on msix, f.presented = true → (s.hport (fnPort fn)).up = true → ∃ u, exec (.busMasterEnableWrite fn on msix) s = .next u ∧
       (u.fnOf fn).bme = on ∧ (u.fnOf fn).msixEn = msix ∧
       ((on && msix) = true → u.out = s.out ++ ((List.range 64).filter (waiting f)).map (fun k => .msix fn k) ∧
         ∀ k, k < 64 → bitOf (u.fnOf fn).pba k = (bitOf f.pba k && !waiting f k)) ∧
       ((on && msix) = false → u.out = s.out ∧ (u.fnOf fn).pba = f.pba)) ∧
     (∀ vec, vec < 64 → ∃ u, exec (.msixUnmask fn vec) s = .next u ∧ (tget (0, 0, true) (u.fnOf fn).msix vec).2.2 = false ∧
       (f.msixEn = true → fnIssues s fn = true → (bitOf f.pba vec = true → .msix fn vec ∈ u.out) ∧ bitOf (u.fnOf fn).pba vec = false) ∧
       (fnIssues s fn = false → u.out = s.out ∧ (u.fnOf fn).pba = f.pba)) ∧
     (∀ value, ∃ u, exec (.fnEvtClear fn value) s = .next u ∧ u.fnOf fn = { f with evt := (u.fnOf fn).evt } ∧
       ∀ b, bitOf (u.fnOf fn).evt b = (bitOf f.evt b && !(decide (b < 7) && bitOf value b))))

/-- R387, R388: a record of the spool that is not yet in the ring and fits is written at TAIL, then TAIL itself at ER_WB, then the
interrupt; a record with no room waits, and nothing is written. R371: BAR2 reaches the mapped granules of the bound partition: a write
inside one granule lands at its DRAM address, a read returns the bytes there, and what they move over the grid counts on its links (R210).
Beyond the mapped part, and on an unbound function, reads return zeros and BAR2_MISS counts. -/
def Obligations.EvidenceRingAndWindow : Prop :=
  (∀ (s : State) (fn p : Nat) (r : SpoolRec) (rs : List SpoolRec), fn < 64 → (s.fnOf fn).part = some p →
     let e := (s.fnOf fn).er
     e.en = true → (s.fnOf fn).qEn = true → fnIssues s fn = true → (s.part p).state ≠ .fenced →
     (s.part p).spool.drop e.written.length = r :: rs →
     let n := recSlots r.bytes
     (rs = [] → n ≤ 2 ^ e.size - e.tail → n ≤ erFree e →
       ∃ u rest, exec (.evidenceRingWrite fn) s = .next u ∧
         u.out = s.out ++ [.hostWrite fn (e.base + 64 * e.tail) r.bytes,
           .hostWrite fn e.wb (toLe 4 ((e.tail + n) % 2 ^ e.size))] ++ rest ∧ (∀ m ∈ rest, m = .msix fn e.vector) ∧
         (u.fnOf fn).er = { e with tail := (e.tail + n) % 2 ^ e.size, written := e.written ++ [n] }) ∧
     (erFree e < n → exec (.evidenceRingWrite fn) s = .next s)) ∧
  (∀ (s : State) (fn off p a : Nat), fn < 64 → (s.fnOf fn).part = some p → off < bar2Size s fn → bar2Addr s p off = some a →
     (∀ (d : List Byte) len, d.length ≤ granBytes - off % granBytes → bar2Mapped s p off d.length = d.length →
       exec (.bar2Access fn off (some d) len) s = .next (dramWrite (bar2Cross s fn p off d.length true) a d false)) ∧
     (∀ len, len ≤ granBytes - off % granBytes → bar2Mapped s p off len = len → 0 < len →
       exec (.bar2Access fn off none len) s = .next ((bar2Cross s fn p off len false).emit (.barRead fn off (memRead s.dram a len) (dramBad s a len)))) ∧
     (∀ fn2 off2 len, fn2 < 64 → ((s.fnOf fn2).part = none ∨ ∃ q, (s.fnOf fn2).part = some q ∧ off2 < bar2Size s fn2 ∧
         bar2Mapped s q off2 len = 0 ∧ 0 < len) →
       ∃ u, exec (.bar2Access fn2 off2 none len) s = .next u ∧ u.out = s.out ++ [.barRead fn2 off2 (List.replicate len 0) false] ∧
         (u.fnOf fn2).bar2Miss = satAdd (s.fnOf fn2).bar2Miss 1 ∧ u.dram = s.dram))

/-- R393, R394, R532: FLR, a return from D3hot, and for every function of a port its link loss and PERST#, put a function's registers at
reset values and keep its binding; its items that opened no pass leave the queues of its partition, and no completion follows. A port that
trains is up at its rate and width and reports HOST_LINK. -/
def Obligations.FunctionsResetAndLinksChange : Prop :=
  (∀ (s : State) (fn now p : Nat) (c : Instr), fn < 64 → (c = .flr fn now ∨ c = .d3hotToD0 fn now) → (s.fnOf fn).presented = true →
    (s.fnOf fn).part = some p → ((s.part p).cfg.map PartCfg.flrPart).getD false = false →
    ∃ u, exec c s = .next u ∧ u.fnOf fn = { presented := true, part := some p } ∧
      ∀ e, (s.entry e).open_ = true → ownsEntry s p e = true →
        (u.entry e).queue = (((s.entry e).queue.filter (itemStays fn)).map fun i => { i with host := i.host.map (deadRef fn) })) ∧
  (∀ (s : State) (port : Nat) (c : Instr), port < 8 → (c = .perstAssert port ∨ c = .hostLinkLoss port) →
    ((s.hport port).up = false → exec c s = .next s) ∧
    ((s.hport port).up = true → ∃ u, exec c s = .next u ∧ (u.hport port).up = false ∧
      ∀ f, f < 8 → (s.fnOf (port * 8 + f)).presented = true → (u.fnOf (port * 8 + f)).bme = false ∧
        (u.fnOf (port * 8 + f)).qEn = false ∧ (u.fnOf (port * 8 + f)).part = (s.fnOf (port * 8 + f)).part)) ∧
  (∀ (s : State) (port rate width : Nat), port < 8 → s.power.pwrgd = true →
    ∃ u, exec (.hostLinkTrained port rate width) s = .next u ∧ (u.hport port).up = true ∧ (u.hport port).rate = rate ∧
      (u.hport port).width = width ∧ (u.die (0x40 + port / 2)).ev = evPush (s.die (0x40 + port / 2)).ev
        (EvRec.mk evHostLink 0 (0x40 + port / 2) (0x10 + port % 2) none 1 s.now s.now
          (pay [(1, port), (1, 1), (1, rate), (1, width)]))) ∧
  (∀ (s : State) (fn value now p : Nat), fn < 64 → bitOf value 0 = true → (s.fnOf fn).part = some p →
    (((s.part p).cfg.map PartCfg.hostReset).getD false = false → ∃ u, exec (.fnCtrlPartReset fn value now) s = .next u ∧
      (u.fnOf fn).reason = 0x010B ∧ bitOf (u.fnOf fn).evt 0 = true ∧ u.parts = s.parts) ∧
    (((s.part p).cfg.map PartCfg.hostReset).getD false = true → (s.part p).state = .running → (s.part p).resetting = false →
      ∃ u, exec (.fnCtrlPartReset fn value now) s = .next u ∧ (u.part p).state = .starting ∧ (u.part p).resetting = true ∧
        (u.part p).cause = 1 ∧ (u.part p).tag = ((s.part p).tag + 1) % 65536))

/-- R334, R336, R338: INSTALL of a new model whose checks pass makes the target slot WRITING, with the header's extents, and queues at the
engine of its stack; one whose check fails answers the reason and leaves the Reservoir as it was. ABORT stops it. R334, R353, R355: the
INSTALL at the head of an engine takes its chunks in turn; with the last its commit record is written and its slot is complete: ACTIVE where
the model has none, else VALID. A chunk that fails its tag, a host read that fails, 60 s outside the temperature window, and 10 s without
IMAGE_DATA leave the slot INVALID. R336: ACTIVATE makes a complete slot ACTIVE and the other one, if ACTIVE, VALID; ERASE empties a slot
that is not in use, and one in use is refused. R338: neither runs on a model that an INSTALL writes. -/
def Obligations.ImagesAreInstalled : Prop :=
  (∀ (s : State) (fn sq now p : Nat) (cmd header : List Byte) (plain : Plain) (keyOk : Bool) (h : HostRef),
     h.live = true → h.quiet = false →
     let c := imgFields cmd
     let owner := (partOwner s p).getD 0
     let r : ImgReq := { cmd := c, href := some h, reply := none, owner := owner }
     (HostCmd s fn sq 1 cmd h p → findModel s owner c.imageId = none →
       let model := freeModel s c.stack
       let why := installCheck s r header plain keyOk c.stack model none
       (why = 0 → ∃ u m j, exec (.install (.host fn sq) cmd header plain keyOk now) s = .next u ∧ modelAt u c.stack model = some m ∧
         m.imageId = c.imageId ∧ m.owner = owner ∧ m.a.state = .writing ∧ m.a.header = header ∧ m.a.plain = some plain ∧
         m.a.record = none ∧ m.a.extents = pickExtents s c.stack (hdrExtents header) ∧ m.b = {} ∧
         (u.engine c.stack).jobs = (s.engine c.stack).jobs ++ [j] ∧ j.kind = .install ∧ j.id = s.nextOp ∧ j.chunk = 0 ∧
         j.chunks = hdrChunks header ∧ j.href = some h ∧ j.model = model ∧ j.resB = false) ∧
       (why ≠ 0 → ∃ u, exec (.install (.host fn sq) cmd header plain keyOk now) s = .next u ∧ u.reservoirs = s.reservoirs ∧
         Answered u h why)) ∧
     (∀ st i m j, HostCmd s fn sq 9 cmd h p → findModel s owner c.imageId = some (st, i, m) →
       (s.engine st).jobs.find? (fun j => j.kind == .install && j.model == i) = some j → j.stack = st → modelAt s st i = some m →
       ∃ u m', exec (.abort (.host fn sq) cmd now) s = .next u ∧ modelAt u st i = some m' ∧
         (resSlotOf m' j.resB).state = .invalid ∧ (resSlotOf m' j.resB).record = none ∧
         (∀ x ∈ (u.engine st).jobs, x.id ≠ j.id) ∧ (u.res st).installFail = satAdd (s.res st).installFail 1 ∧ Answered u h 0)) ∧
  (∀ (s : State) (stack now : Nat) (j : ImgOp) (m : ResModel), stack < 4 → j.stack = stack → modelAt s stack j.model = some m →
     j.kind = .install →
     let gone := fun (u : State) => (∃ m', modelAt u stack j.model = some m' ∧ (resSlotOf m' j.resB).state = .invalid ∧
       (resSlotOf m' j.resB).record = none) ∧ (∀ x ∈ (u.engine stack).jobs, x.id ≠ j.id) ∧
       (u.res stack).installFail = satAdd (s.res stack).installFail 1
     (∀ h bytes, engineHead s stack = some j → j.href = some h → j.reply = none → fnIssues s h.fn = true → bytes ≠ 0 → j.waiting = false →
       resWritable s stack = true →
       (j.chunk + 1 < j.chunks → ∃ u, exec (.installChunk stack true bytes now) s = .next u ∧
         engineHead u stack = some { j with chunk := j.chunk + 1 } ∧
         (u.engine stack).bytes = wrapAdd (s.engine stack).bytes (chunkLen j.header j.chunk)) ∧
       (j.chunks ≤ j.chunk + 1 → ∃ u m', exec (.installChunk stack true bytes now) s = .next u ∧ modelAt u stack j.model = some m' ∧
         (∃ r, (resSlotOf m' j.resB).record = some r ∧ r.imageId = hdrId j.header ∧ r.epoch = hdrEpoch j.header ∧
           r.chunks = hdrChunks j.header ∧ r.extents = (resSlotOf m j.resB).extents) ∧
         (resSlotOf m' j.resB).state = (if m.a.state = .active ∨ m.b.state = .active then .valid else .active) ∧
         (∀ x ∈ (u.engine stack).jobs, x.id ≠ j.id) ∧ (h.live = true → h.quiet = false → Answered u h 0)) ∧
       (∃ u, exec (.installChunk stack false bytes now) s = .next u ∧ gone u ∧
         (u.engine stack).authFail = satAdd (s.engine stack).authFail 1 ∧ (h.live = true → Answered u h 0x0202)) ∧
       (∃ u, exec (.installChunk stack true 0 now) s = .next u ∧ gone u ∧ (h.live = true → Answered u h 0x0323))) ∧
     ((s.engine stack).jobs.find? (fun j => j.kind == .install && j.waiting) = some j →
       j.waitSince + 60000000000 ≤ (s.setNow now).now → ∃ u, exec (.installTempTimeout stack now) s = .next u ∧ gone u) ∧
     (∀ f rx t, (s.engine stack).jobs = [j] → j.reply = some f → s.log.installRx = [(f.owner, j.tag, rx, t)] →
       t + 10000000000 ≤ (s.setNow now).now → ∃ u, exec (.installSessionTimeout stack now) s = .next u ∧ gone u ∧ u.log.installRx = [])) ∧
  (∀ (s : State) (fn sq now p st i : Nat) (cmd : List Byte) (h : HostRef) (m : ResModel), h.live = true → h.quiet = false →
     let c := imgFields cmd
     let owner := (partOwner s p).getD 0
     findModel s owner c.imageId = some (st, i, m) → modelAt s st i = some m →
     (HostCmd s fn sq 2 cmd h p → installing s st i = false → resReady (resSlotOf m c.resB) = true →
       ∃ u m', exec (.activate (.host fn sq) cmd now) s = .next u ∧
         modelAt u st i = some m' ∧ (resSlotOf m' c.resB).state = .active ∧ (resSlotOf m' !c.resB).state ≠ .active ∧
         (resSlotOf m' c.resB).header = (resSlotOf m c.resB).header ∧ (resSlotOf m' !c.resB).header = (resSlotOf m !c.resB).header ∧
         Answered u h 0) ∧
     (HostCmd s fn sq 2 cmd h p → installing s st i = false → resReady (resSlotOf m c.resB) = false →
       ∃ u, exec (.activate (.host fn sq) cmd now) s = .next u ∧ u.reservoirs = s.reservoirs ∧ Answered u h 0x0204) ∧
     (HostCmd s fn sq 2 cmd h p → installing s st i = true →
       ∃ u, exec (.activate (.host fn sq) cmd now) s = .next u ∧ u.reservoirs = s.reservoirs ∧ Answered u h 0x0208) ∧
     (HostCmd s fn sq 3 cmd h p → installing s st i = true →
       ∃ u, exec (.erase (.host fn sq) cmd now) s = .next u ∧ u.reservoirs = s.reservoirs ∧ Answered u h 0x0208) ∧
     (HostCmd s fn sq 3 cmd h p → installing s st i = false → resInUse s st i c.resB = false →
       ∃ u, exec (.erase (.host fn sq) cmd now) s = .next u ∧ Answered u h 0 ∧
         ((resSlotOf m !c.resB).state = .empty → modelAt u st i = none) ∧
         ((resSlotOf m !c.resB).state ≠ .empty → modelAt u st i = some (setResSlot m c.resB fun _ => {}))) ∧
     (HostCmd s fn sq 3 cmd h p → installing s st i = false → resInUse s st i c.resB = true →
       ∃ u, exec (.erase (.host fn sq) cmd now) s = .next u ∧ u.reservoirs = s.reservoirs ∧ Answered u h 0x020A))

/-- R339, R340, R343: LOAD into an EMPTY slot whose checks pass makes it LOADING at the highest level that fits, and its image streams
through the engine; a failed check answers the first reason that applies, names where check 4 fails, and the slot stays as it was but for
IMG_LAST (the name: log entry 197). UNLOAD empties a slot that is not in use. R326, R337, R339, R344: the operation at the head of an engine
takes a chunk whose tag holds; a bad tag fails a LOAD with 0x0202. PV_DONE writes every Tarn of a layer with the slices of the image's
weights, and the layer is resident; with the last layer and the last chunk a LOAD is READY. An operation that waits for the temperature
window goes on inside it. -/
def Obligations.ImagesAreLoaded : Prop :=
  (∀ (s : State) (fn sq now p : Nat) (cmd : List Byte) (h : HostRef), h.live = true → h.quiet = false →
     let c := imgFields cmd
     let k := c.slot
     let owner := (partOwner s p).getD 0
     let q := s.slot p k
     (∀ st m b x pl n, HostCmd s fn sq 4 cmd h p → slotBusy s p k = false → slotWriting s owner c.imageId c.epoch = false →
       q.state = .empty → pickRes s owner c.imageId c.epoch = some (st, m, b, x) → loadCheck s p k x c.stripes c.entries = .ok (pl, n) →
       ∃ u j, exec (.load (.host fn sq) cmd now) s = .next u ∧ (u.slot p k).state = .loading ∧ (u.slot p k).level = n ∧
         (u.slot p k).plain = some pl ∧ (u.slot p k).imageId = hdrId x.header ∧ (u.slot p k).epoch = hdrEpoch x.header ∧
         (∃ v, pl.levels[n]? = some v ∧ (u.slot p k).placed = (placeTarns s p v []).map Prod.snd) ∧
         (u.slot p k).job = some j ∧ j.kind = .load ∧ j.chunk = 0 ∧ j.chunks = hdrChunks x.header ∧
         (u.engine st).jobs = (s.engine st).jobs ++ [j]) ∧
     (∀ st m b x e, HostCmd s fn sq 4 cmd h p → slotBusy s p k = false → slotWriting s owner c.imageId c.epoch = false →
       q.state = .empty → pickRes s owner c.imageId c.epoch = some (st, m, b, x) → loadCheck s p k x c.stripes c.entries = .error e → e ≠ 0 →
       ∃ u w, exec (.load (.host fn sq) cmd now) s = .next u ∧ u.slot p k = { q with lastReason := e, lastTag := c.tag, refusedAt := w } ∧
         (∀ pl r, x.plain = some pl → (check4 s p k pl c.stripes).head? = some r → r.1 = e → w = some r.2) ∧
         u.tiles = s.tiles ∧ Answered u h e) ∧
     (HostCmd s fn sq 5 cmd h p → slotBusy s p k = false → q.state ≠ .empty → slotInUse s p k = false →
       ∃ u, exec (.unload (.host fn sq) cmd now) s = .next u ∧ (u.slot p k).state = .empty ∧ (u.slot p k).plain = none ∧
         (u.slot p k).placed = [] ∧ (u.slot p k).variants = [] ∧ (u.slot p k).job = none ∧ Answered u h 0) ∧
     (HostCmd s fn sq 5 cmd h p → slotBusy s p k = false → q.state ≠ .empty → slotInUse s p k = true →
       ∃ u, exec (.unload (.host fn sq) cmd now) s = .next u ∧ (u.slot p k).state = q.state ∧ (u.slot p k).plain = q.plain ∧
         Answered u h 0x0266)) ∧
  ((∀ (s : State) (stack now : Nat) (j : ImgOp), stack < 4 → engineHead s stack = some j → j.stack = stack → j.kind = .load →
     j.atStart = false → (s.slot j.part j.slot).job = some j → resReady (opSlot s j) = true →
     (j.chunk + 1 < j.chunks → ∃ u, exec (.imageChunkDecrypted stack true now) s = .next u ∧
       engineHead u stack = some { j with chunk := j.chunk + 1 } ∧ (u.slot j.part j.slot).job = some { j with chunk := j.chunk + 1 } ∧
       (u.engine stack).bytes = wrapAdd (s.engine stack).bytes (chunkLen j.header j.chunk)) ∧
     (∃ u, exec (.imageChunkDecrypted stack false now) s = .next u ∧ (u.slot j.part j.slot).state = .empty ∧
       (u.engine stack).authFail = satAdd (s.engine stack).authFail 1 ∧ (∀ x ∈ (u.engine stack).jobs, x.id ≠ j.id) ∧
       ∀ h, j.href = some h → h.live = true → Answered u h 0x0202)) ∧
   (∀ (s : State) (p k layer now : Nat) (j : ImgOp) (x : Plain) (again : List (Nat × Nat × Nat)) (seeds : List (Nat × Nat × Nat × Int × Int)), p < 64 → (s.slot p k).job = some j → j.kind = .load →
     j.atStart = false → j.waiting = false → (s.slot p k).state = .loading → (s.slot p k).plain = some x → (s.part p).resetting = false →
     layer ∈ layersDue s p k → (∀ d ∈ layerDies s p k layer, dieWritable s d = true) →
     ((s.slot p k).placed.map fun q => (q.tile, q.tarn)).Nodup →
     (∀ q ∈ (s.slot p k).placed, q.layer = layer → limitCols (tarnOf (s.tile q.tile) q.tarn) = []) →
     (∀ f ∈ seeds, atRail f.2.2.2.1 = false ∧ atRail f.2.2.2.2 = false) →
     ∃ u, exec (.pvDone p k layer [] again seeds now) s = .next u ∧ layer ∈ (u.slot p k).resident ∧
       (∀ q ∈ (s.slot p k).placed, q.layer = layer → ∀ m, placedMatrix x q = some m →
         let T := tarnOf (s.tile q.tile) q.tarn
         (tarnOf (u.tile q.tile) q.tarn).seeded = true ∧ ∀ r, r < 512 →
           tget 0 (tarnOf (u.tile q.tile) q.tarn).rows r = rowImage m T.kChunk T.nBase T.cols r ∧
           tget 0 (tarnOf (u.tile q.tile) q.tarn).check r = (if rowImage m T.kChunk T.nBase T.cols r = 0 then 0
             else rowCheck (rowImage m T.kChunk T.nBase T.cols r))) ∧
       (j.chunks ≤ j.chunk → (∀ l ∈ placedLayers x (s.slot p k).level, l = layer ∨ l ∈ (s.slot p k).resident) →
         (u.slot p k).state = .ready ∧ (u.slot p k).job = none)) ∧
   (∀ (s : State) (op now : Nat) (j : ImgOp), ((s.engines.map fun e => e.2.jobs).flatten).find? (fun j => j.id == op && j.waiting) = some j →
     (j.kind = .install → resWritable s j.stack = true) →
     (j.kind ≠ .install → (layerDies s j.part j.slot j.arg).all (dieWritable s) = true) →
     ∃ u, exec (.tempWindowResume op now) s = .next u ∧ (u.engine j.stack).jobs =
       (s.engine j.stack).jobs.map fun x => if x.id = j.id then { x with waiting := false } else x))

/-- R346, R348: SWAP stages the incoming image with the Weir open; WEIR_CLOSE closes the Weir once the staging is complete; ABORT ends a
SWAP that stages. R349, R350, R273: with nothing of the old epoch running a closed Weir goes on to programming: every variant is unloaded;
where the incoming image is KV-compatible and no entry names a variant every entry keeps its context; where it is not, every main entry of
the slot is STALE. With every layer resident under the new epoch the slot is READY with the incoming image and its command completes. -/
def Obligations.SwapsRunToTheirRelease : Prop :=
  ((∀ (s : State) (fn sq now p : Nat) (cmd : List Byte) (h : HostRef), h.live = true → h.quiet = false →
     let c := imgFields cmd
     let k := c.slot
     let q := s.slot p k
     let r : ImgReq := { cmd := c, href := some h, reply := none, owner := (partOwner s p).getD 0 }
     (∀ new st m b x, HostCmd s fn sq 6 cmd h p → slotBusy s p k = false → modelBusy s r.owner c.imageId = false →
       q.state ≠ .loading → swapCheck s r (pickRes s r.owner c.imageId c.epoch) = .ok (new, st, m, b, x) →
       ∃ u w j, exec (.swap (.host fn sq) cmd now) s = .next u ∧ u.slot p k = { q with weir := some w, job := some j } ∧
         w.plain = new ∧ w.epoch = hdrEpoch x.header ∧ w.oldEpoch = q.epoch ∧ w.step = .staging ∧ w.staged = false ∧
         w.staleClose = c.staleClose ∧ j.kind = .swap ∧ (u.engine st).jobs = (s.engine st).jobs ++ [j]) ∧
     (∀ e, HostCmd s fn sq 6 cmd h p → slotBusy s p k = false → modelBusy s r.owner c.imageId = false → q.state ≠ .loading → e ≠ 0 →
       swapCheck s r (pickRes s r.owner c.imageId c.epoch) = .error e →
       ∃ u w, exec (.swap (.host fn sq) cmd now) s = .next u ∧ u.slot p k = { q with lastReason := e, lastTag := c.tag, refusedAt := w } ∧
         Answered u h e) ∧
     (HostCmd s fn sq 6 cmd h p → slotBusy s p k = true ∨ modelBusy s r.owner c.imageId = true →
       ∃ u, exec (.swap (.host fn sq) cmd now) s = .next u ∧ (u.slot p k).job = q.job ∧ Answered u h 0x0208) ∧
     (∀ j w, HostCmd s fn sq 9 cmd h p → findModel s r.owner c.imageId = none → q.job = some j → j.kind = .swap → j.part = p →
       j.slot = k → q.weir = some w → w.step = .staging →
       ∃ u, exec (.abort (.host fn sq) cmd now) s = .next u ∧ (u.slot p k).weir = none ∧ (u.slot p k).job = none ∧
         (u.slot p k).state = q.state ∧ Answered u h 0)) ∧
   (∀ (s : State) (p k now : Nat) (w : Weir), p < 64 → (s.slot p k).weir = some w → w.step = .staging → (s.slot p k).state = .ready →
     (s.part p).state = .running →
     (w.staged = true → exec (.weirClose p k now) s = .next ((s.setNow now).modSlot p k fun q => { q with
       state := .weirClosed, weir := some { w with step := .draining, closedAt := (s.setNow now).now } })) ∧
     (w.staged = false → exec (.weirClose p k now) s = .next (s.setNow now)))) ∧
  ((∀ (s : State) (p k now : Nat) (w : Weir), p < 64 → (s.slot p k).weir = some w → w.step = .draining →
     (s.slot p k).state = .weirClosed → (s.part p).resetting = false → slotDrained s p k = true →
     let old := (s.slot p k).epoch
     let es := (partEntries s p).filter fun e => e.2.slot == k && !e.2.stale
     ∃ u w', exec (.weirDrainDone p k now) s = .next u ∧ (u.slot p k).weir = some w' ∧ w'.step = .programming ∧ w'.plain = w.plain ∧
       (u.slot p k).variants = [] ∧ (u.slot p k).state = .weirClosed ∧
       (kvCompatible w old = true → (∀ e ∈ es, e.2.variant = 0) → u.entries = s.entries ∧ w'.staleCnt = w.staleCnt) ∧
       (kvCompatible w old = false → w'.staleCnt = w.staleCnt + es.length ∧ ∀ e, (s.entry e).open_ = true → ownsEntry s p e = true →
         (s.entry e).slot = k → (s.entry e).draft = false → (u.entry e).stale = true)) ∧
   (∀ (s : State) (p k now : Nat) (w : Weir) (j : ImgOp), p < 64 → (s.slot p k).weir = some w → (s.slot p k).job = some j →
     w.step = .programming → (s.part p).resetting = false → (∀ l ∈ placedLayers w.plain (s.slot p k).level, l ∈ w.done) →
     ∃ u, exec (.weirRelease p k now) s = .next u ∧ (u.slot p k).state = .ready ∧ (u.slot p k).epoch = w.epoch ∧
       (u.slot p k).header = w.header ∧ (u.slot p k).plain = some w.plain ∧ (u.slot p k).weir = none ∧ (u.slot p k).job = none ∧
       (u.slot p k).swapCnt = wrapAdd (s.slot p k).swapCnt 1 ∧
       ∀ h, j.href = some h → h.live = true → h.quiet = false → Answered u h 0))

/-- R271 to R273, R352: VARIANT_LOAD into a free variant slot of a READY slot reads the variant through an engine, and the last chunk
completes it; VARIANT_UNLOAD frees one that no open entry names, and is refused else. -/
def Obligations.VariantsLoadAndUnload : Prop :=
  (∀ (s : State) (fn sq now p : Nat) (cmd : List Byte) (h : HostRef), h.live = true → h.quiet = false →
    let c := imgFields cmd
    let k := c.slot
    let q := s.slot p k
    (∀ st m b x v, HostCmd s fn sq 7 cmd h p → slotBusy s p k = false → modelBusy s ((partOwner s p).getD 0) c.imageId = false →
      q.state = .ready → pickRes s ((partOwner s p).getD 0) c.imageId c.epoch = some (st, m, b, x) → x.plain = some v →
      (variantCheck s p k c.vslot x v = 0 → ∃ u j n, exec (.variantLoad (.host fn sq) cmd now) s = .next u ∧
        u.slot p k = { q with variants := tset {} q.variants c.vslot n, job := some j } ∧ n.loading = true ∧ n.blocks = v.deltas ∧
        n.imageId = hdrId x.header ∧ j.kind = .variantLoad ∧ j.chunks = hdrChunks x.header ∧
        (u.engine st).jobs = (s.engine st).jobs ++ [j]) ∧
      (variantCheck s p k c.vslot x v ≠ 0 → ∃ u, exec (.variantLoad (.host fn sq) cmd now) s = .next u ∧
        (u.slot p k).variants = q.variants ∧ Answered u h (variantCheck s p k c.vslot x v))) ∧
    (HostCmd s fn sq 8 cmd h p → slotBusy s p k = false →
      (∀ e ∈ partEntries s p, ¬ (e.2.slot = k ∧ e.2.variant = c.vslot)) →
      ∃ u, exec (.variantUnload (.host fn sq) cmd now) s = .next u ∧ (u.slot p k).variants = tset {} q.variants c.vslot {} ∧ Answered u h 0) ∧
    (∀ e ∈ partEntries s p, HostCmd s fn sq 8 cmd h p → slotBusy s p k = false → e.2.slot = k → e.2.variant = c.vslot →
      ∃ u, exec (.variantUnload (.host fn sq) cmd now) s = .next u ∧ (u.slot p k).variants = q.variants ∧ Answered u h 0x0255)) ∧
  (∀ (s : State) (stack now : Nat) (j : ImgOp), stack < 4 → engineHead s stack = some j → j.stack = stack → j.kind = .variantLoad →
    j.atStart = false → resReady (opSlot s j) = true → j.chunk + 1 = j.chunks →
    ∃ u, exec (.imageChunkDecrypted stack true now) s = .next u ∧ (u.slot j.part j.slot).job = none ∧
      (tget {} (u.slot j.part j.slot).variants j.vslot).loading = false)

/-- R452, R461: the SHADOW_REPAIR at the head of its engine rewrites a poisoned chunk from the Reservoir; where the stored image is gone the
slot is PARTIAL and held. A patrol read of a Reservoir slot counts corrected bits, has a codeword with more than 24 rewritten, and makes a
slot with an uncorrectable one INVALID. -/
def Obligations.StoredImagesArePatrolled : Prop :=
  (∀ (s : State) (p k chunk now : Nat) (j : ImgOp), p < 64 → engineHead s (s.slot p k).res.1 = some j → j.stack = (s.slot p k).res.1 →
    let mine := j.kind == .shadowRepair && j.part == p && j.slot == k && j.chunk == chunk
    (mine = true → resReady (opSlot s j) = true → ∃ u, exec (.shadowRepair p k chunk now) s = .next u ∧
      u.slot p k = { s.slot p k with shadowBad := (s.slot p k).shadowBad.filter (· != chunk) } ∧ ∀ x ∈ (u.engine j.stack).jobs, x.id ≠ j.id) ∧
    (mine = true → resReady (opSlot s j) = false → (s.slot p k).state = .ready → ∃ u, exec (.shadowRepair p k chunk now) s = .next u ∧
      (u.slot p k).state = .partial_ ∧ k ∈ (u.part p).blocked ∧ (u.slot p k).shadowBad = (s.slot p k).shadowBad) ∧
    (mine = false → exec (.shadowRepair p k chunk now) s = .next (s.setNow now))) ∧
  (∀ (s : State) (stack model slot corrected now : Nat) (m : ResModel), stack < 4 → slot < 2 → modelAt s stack model = some m →
    (resSlotOf m (slot == 1)).extents ≠ [] →
    (∃ u, exec (.resPatrolRead stack model slot corrected true now) s = .next u ∧
      modelAt u stack model = some (setResSlot m (slot == 1) fun x => { x with state := .invalid, record := none }) ∧
      (u.res stack).uncorr = satAdd (s.res stack).uncorr 1) ∧
    (∃ u, exec (.resPatrolRead stack model slot corrected false now) s = .next u ∧ modelAt u stack model = some m ∧
      (u.res stack).corrected = wrapAdd (s.res stack).corrected corrected ∧
      (u.res stack).refreshed = (if 24 < corrected then satAdd (s.res stack).refreshed 1 else (s.res stack).refreshed)))

/-- R426, R430 to R432, R444: a reset of a partition raises its tag, disables its function's queues and sends RESET notices to its dies; one
that meets a running reset joins it. Once every notice is acknowledged and no relocation runs, its registers are reloaded, its counters are
cleared and it runs again. PT_CMD does the same for the selected partition, and fences it. R435, R430: a die's acknowledgement takes it out
of its notice, which ends with its last die; for a RESET notice the die has abandoned what the partition ran on it, and transfers of an
older tag to it are gone. A die that has not acknowledged for 2 ms is retired dark with reason 4. -/
def Obligations.ResetsRunTheirNotices : Prop :=
  ((∀ (s : State) (p cause now : Nat) (req : Requester) (c : Instr), p < 64 →
     (c = .partResetStart p cause now ∧ 1 ≤ cause ∧ cause ≤ 7 ∨ c = .ptReset req now ∧ s.ptSel = p ∧ partReach s req p = true ∧ cause = 5) →
     (s.part p).state ≠ .disabled →
     ((s.part p).resetting = true → exec c s = .next ((s.setNow now).modPart p fun q => { q with cause := cause })) ∧
     ((s.part p).resetting = false → ∃ u, exec c s = .next u ∧ (u.part p).state = .starting ∧ (u.part p).resetting = true ∧
       (u.part p).cause = cause ∧ (u.part p).tag = ((s.part p).tag + 1) % 65536 ∧
       (∀ fn, (s.part p).fn = some fn → (u.fnOf fn).qEn = false ∧ bitOf (u.fnOf fn).evt 2 = true) ∧
       (hostDies s p ≠ [] → ∃ n ∈ u.fm.notices, n.kind = .reset ∧ n.part = some p ∧ n.wait = hostDies s p))) ∧
   (∀ (s : State) (p us now : Nat) (cfg : PartCfg), p < 64 → (s.part p).resetting = true →
     (noticePending s .reset p = true → exec (.partResetFinish p [] us now) s = .next (s.setNow now)) ∧
     (noticePending s .reset p = false → relocRuns s p = false → (s.part p).disableAs = none → (s.part p).restarting = false →
       (s.part p).cfg = some cfg → ∃ u, exec (.partResetFinish p [] us now) s = .next u ∧ (u.part p).state = .running ∧
       (u.part p).resetting = false ∧ (u.part p).resets = wrapAdd (s.part p).resets 1 ∧ (u.part p).lastUs = us % 2 ^ 32 ∧
       (u.part p).lfsr = cfg.serv.seed ∧ (u.part p).cnt.cand = 0 ∧ (u.part p).run = 0 ∧
       ∀ fn, (s.part p).fn = some fn → bitOf (u.fnOf fn).evt 3 = true)) ∧
   (∀ (s : State) (now : Nat) (req : Requester), s.ptSel < 64 → partReach s req s.ptSel = true → (s.part s.ptSel).state = .running →
     ∃ u, exec (.ptFence req now) s = .next u ∧ (u.part s.ptSel).state = .fenced ∧ (u.part s.ptSel).passes = (s.part s.ptSel).passes)) ∧
  (∀ (s : State) (notice die now : Nat) (n : Notice), die < 40 →
     s.fm.notices.find? (fun n => n.id == notice && n.wait.contains die) = some n →
     (∃ u, exec (.noticeAck notice die now) s = .next u ∧
       (∀ m ∈ u.fm.notices, m.id = n.id → m.wait = n.wait.filter (· != die) ∧ m.wait ≠ []) ∧
       (∀ m, m.id ≠ n.id → (m ∈ u.fm.notices ↔ m ∈ s.fm.notices)) ∧
       (∀ p, n.kind = .reset → n.part = some p →
         (∀ t c, tileDie t = die → (ctxOf s t c).part = some p → ctxOf u t c = abandonCtx (ctxOf s t c)) ∧
         ∀ x ∈ u.xfers, ¬ (x.part = p ∧ x.tag ≠ (s.part p).tag ∧ tileDie x.tile = die))) ∧
     ((s.setNow now).now < n.sent + 2000000 → exec (.noticeAckTimeout notice die now) s = .next (s.setNow now)) ∧
     (n.sent + 2000000 ≤ (s.setNow now).now → retirable s die = true → ∃ u, exec (.noticeAckTimeout notice die now) s = .next u ∧
       (u.die die).state = .dark ∧ (u.die die).reason = 4))

/-- R436 to R438, R441, R445, R446, R465: FM_CMD retires a die that is not retired already, compute or dark, with reason 5, and refuses
another with 0x0401; its result is 0x0402 where it cuts a partition off (log entry 215), else 0; a die that reaches a threshold retires with
the threshold's reason. Its tiles are fenced for good and every partition on it is queued for relocation. A channel's retirement takes its
pair, and leaves a partition whose AD spool lies there DISABLED with 0x0141 after its reset. R439, R440: the lowest-numbered partition of
the relocation queue is relocated: outside a reset one begins, with cause 6; in one whose notices are acknowledged each lost tile moves to
the first RESERVE tile with room, and the partition leaves the queue. A blocked partition tries again when reserve capacity has changed and
some of it fits. -/
def Obligations.RetirementAndRelocation : Prop :=
  ((∀ (s : State) (die now reason : Nat) (dark : Bool) (req : Requester) (c : Instr), die < 40 →
     (c = .fmComputeRetire req die (!dark) now ∧ operatorReach s req = true ∧ reason = 5 ∨
      c = .fmDarkRetire req die now ∧ dark = true ∧ operatorReach s req = true ∧ reason = 5 ∨
      c = .dieRetire die reason (!dark) now ∧ reason ≠ 4 ∧ retireDue s die reason = true) → retirable s die = true →
     ∃ u, exec c s = .next u ∧ (u.die die).state = (if dark then .dark else .compute) ∧ (u.die die).reason = reason ∧
       (∀ t, t < 32 → (u.tile (32 * die + t)).fenced = true) ∧ (∀ p ∈ partsOnDie s die, p ∈ u.fm.relocQueue) ∧
       (reason = 5 → u.fm.cmdReason = if newlyCut s u then 0x0402 else 0)) ∧
   (∀ (s : State) (die now : Nat) (req : Requester), operatorReach s req = true → retirable s die = false →
     (∃ u, exec (.fmDarkRetire req die now) s = .next u ∧ u.dies = s.dies ∧ u.fm.cmdReason = 0x0401) ∧
     ∀ ok, ∃ u, exec (.fmComputeRetire req die ok now) s = .next u ∧ u.dies = s.dies ∧ u.fm.cmdReason = 0x0401) ∧
   (∀ (s : State) (stack ch now : Nat) (req : Requester) (c : Instr), stack < 20 → ch < 16 → stackFitted s.variant stack = true →
     (s.stack stack).retired.contains (ch / 2) = false →
     (c = .fmRetireChannel req stack ch now ∧ operatorReach s req = true ∨
      c = .channelRetire stack ch now ∧ s.log.thrChUe ≠ 0 ∧ s.log.thrChUe ≤ last24 (hourOf (s.setNow now).now) (chanOf s stack ch).ue24) →
     ∃ u, exec c s = .next u ∧ (u.stack stack).retired = (s.stack stack).retired ++ [ch / 2] ∧
       ∀ p g, g ∈ granulesOf s p → g.role = 3 → granOfPair g stack (ch / 2) = true → (s.part p).state ≠ .disabled →
         (u.part p).disableAs = some 0x0141)) ∧
  ((∀ (s : State) (p now : Nat), p < 64 → s.fm.relocQueue.min? = some p → (s.part p).state ≠ .disabled →
     ((s.part p).resetting = false → ∃ u, exec (.relocation p now) s = .next u ∧ (u.part p).resetting = true ∧ (u.part p).cause = 6 ∧
       p ∈ u.fm.relocQueue) ∧
     ((s.part p).resetting = true → noticePending s .reset p = true → exec (.relocation p now) s = .next (s.setNow now)) ∧
     ((s.part p).resetting = true → noticePending s .reset p = false → ∃ u, exec (.relocation p now) s = .next u ∧
       p ∉ u.fm.relocQueue ∧ u.fm.relocActive = some p ∧
       ∀ rel t, affectedSlots s p = [] → lostTiles s p = [rel] → reserveFor s p rel [] = some t →
         (u.part p).tiles = setNth (s.part p).tiles rel t ∧ (u.part p).relocated = (s.part p).relocated ++ [(rel, t)] ∧
         (u.part p).moved = 1)) ∧
   (∀ (s : State) (p q now : Nat), p < 64 → s.fm.relocQueue.min? = some q → q ≠ p → exec (.relocation p now) s = .next (s.setNow now)) ∧
   (∀ (s : State) (p now : Nat), p < 64 →
     (s.fm.retry = false → exec (.relocationRetry p now) s = .next (s.setNow now)) ∧
     (∀ k x, s.fm.retry = true → k ∈ (s.part p).blocked → (s.slot p k).plain = some x → shadowFits s p k x = true →
       (chooseLevel s p x).isSome = true → lostTiles s p = [] → (s.part p).resetting = false → (s.part p).state ≠ .disabled →
       ∃ u, exec (.relocationRetry p now) s = .next u ∧ u.fm.retry = false ∧ p ∈ u.fm.relocQueue ∧ (u.part p).resetting = true ∧
         (u.part p).cause = 6)))

/-- R427, R428, R436, R437: a running partition whose oldest pass has seen no progress for TIMEOUT_MS fires its watchdog: it is reset with
cause 4 where RESET is set, fenced otherwise; progress starts the interval anew. The trouble test retires the die with the largest gain,
with reason 3, when a degraded partition's gains pass both thresholds; whether compute or dark, a free value decides (log entry 165). R442,
R471, R354: a heartbeat brings the standby up to date. At the second missed heartbeat in a row, or on a self-test failure, the standby takes
over: the other die is the MC, no standby is left, the log is cut at the last heartbeat with a gap record, and a closed Weir that was
programming goes back to step 2. -/
def Obligations.WatchdogAndStandby : Prop :=
  ((∀ (s : State) (p now o : Nat), s.cfg.started = true → (s.part p).state = .running → (s.part p).resetting = false →
     ((s.part p).progress ≠ (s.part p).progressSeen → ∃ u, exec (.watchdogTick now) s = .next u ∧ (u.part p).state = .running ∧
       (u.part p).progressSeen = (s.part p).progress ∧ (u.part p).idleMs = 0 ∧ (u.part p).idleBase = (s.setNow now).now) ∧
     ((s.part p).progress = (s.part p).progressSeen → ((s.part p).passes.map Pass.opened).min? = some o → (s.part p).wdgMs ≠ 0 →
       let ms := ((s.setNow now).now - Nat.max (s.part p).idleBase o) / 1000000
       ((s.part p).wdgMs ≤ ms → ∃ u, exec (.watchdogTick now) s = .next u ∧ (u.part p).fires = Nat.min ((s.part p).fires + 1) 65535 ∧
         ((s.part p).wdgReset = true → (u.part p).resetting = true ∧ (u.part p).cause = 4) ∧
         ((s.part p).wdgReset = false → (u.part p).state = .fenced)))) ∧
   (∀ (s : State) (now : Nat), s.cfg.started = false → exec (.watchdogTick now) s = .next (s.setNow now)) ∧
   (∀ (s : State) (p now d : Nat), p < 64 → worstDie s p (tarnDies s p) = some d → d < 40 →
     let g := troubleGain s p d
     let total := ((tarnDies s p).map (troubleGain s p)).sum
     ((s.part p).degraded = true → s.fm.troubleThr ≠ 0 → s.fm.troubleThr ≤ g → s.fm.ratio * total ≤ g * (tarnDies s p).length →
       retirable s d = true → ∃ u, exec (.troubleTest p now) s = .next u ∧ (u.die d).state = (if bitOf (freeWord (s.setNow now)).2 0 then .compute else .dark) ∧ (u.die d).reason = 3) ∧
     (g < s.fm.troubleThr ∨ (s.part p).degraded = false → exec (.troubleTest p now) s = .next (s.setNow now)))) ∧
  (∀ (s : State) (now : Nat), s.cfg.started = true → s.cfg.standbyReady = true →
     (∃ u, exec (.mcHeartbeat now) s = .next u ∧ u.fm.lastHeart = (s.setNow now).now ∧ u.fm.heartMiss = 0 ∧
       u.fm.standbyLogAt = s.log.head ∧ u.cfg = s.cfg) ∧
     (s.fm.heartMiss = 0 → ∃ u, exec (.heartbeatMiss now) s = .next u ∧ u.fm.heartMiss = 1 ∧ u.cfg = s.cfg) ∧
     (∀ c, (c = .heartbeatMiss now ∧ s.fm.heartMiss ≠ 0 ∨ c = .mcSelfFailReport now) → ∃ u, exec c s = .next u ∧
       u.cfg.active3 = (!s.cfg.active3) ∧ u.cfg.standbyReady = false ∧ u.fm.failovers = satAdd s.fm.failovers 1 ∧
       u.fm.heartMiss = 0 ∧ u.log.head = s.fm.standbyLogAt + 1 ∧ u.log.ovf = satAdd s.log.ovf 1 ∧
       (∀ q ∈ u.log.recs, q.1 ≤ s.fm.standbyLogAt) ∧
       (∀ p k w, p < 64 → (s.slot p k).state ≠ .empty → (s.slot p k).weir = some w → w.step = .programming →
         (u.slot p k).weir = some { w with step := .draining })))

/-- R504, R527 to R529, R532: with MOD_EN high, VIN48 at 40 V or more, the auxiliary supply in range and, after a 120 °C shutdown, the input
removed once, the rails come up and PWRGD is released. MOD_EN low, VIN48 below 38 V for 1 ms, or 3V3_AUX out of range take them down: all is
lost but the Reservoir, the flash and what is fused. A slot being written reads INVALID, and a flash copy being written is undefined. R541,
R542: outside test mode, or while TRST# is asserted, every TAP stays in Test-Logic-Reset. In test mode a TCK edge moves the controllers by
TMS as IEEE 1149.1 has it; Capture-DR loads IDCODE into a port that has selected it; Update-IR takes the instructions shifted in. -/
def Obligations.PowerAndTestMode : Prop :=
  ((∀ (s : State) (mV : Nat) (jtag : Bool), s.power.pwrgd = false →
     (s.power.aux = true → 40000 ≤ mV → (s.power.lock120 = true → s.power.vinRemoved = true) →
       ∃ u, exec (.powerUp mV jtag) s = .next u ∧ u.power.pwrgd = true ∧ u.power.rails = true ∧ u.power.modEn = true ∧
         u.power.testMode = jtag ∧ u.power.lock120 = false ∧ u.power.thermAlert = false ∧ u.cfg = s.cfg) ∧
     (s.power.aux = false ∨ mV < 40000 ∨ s.power.lock120 = true ∧ s.power.vinRemoved = false →
       ∃ u, exec (.powerUp mV jtag) s = .next u ∧ u.power.pwrgd = false)) ∧
   (∀ (s : State) (mV : Nat) (c : Instr), (c = .modEnFall ∨ c = .vin48Undervoltage mV ∧ mV < 38000 ∨ c = .auxOutOfRange) →
     s.power.pwrgd = true → ∃ u, exec c s = .next u ∧ u.power.pwrgd = false ∧ u.power.rails = false ∧ u.cfg.started = false ∧
       u.dram = [] ∧ u.entries = [] ∧ u.parts = [] ∧ u.fns = [] ∧ u.xfers = [] ∧ u.time = {} ∧
       (s.cfg.write = none → u.cfg.flash0 = s.cfg.flash0 ∧ u.cfg.flash1 = s.cfg.flash1) ∧
       (∀ w, s.cfg.write = some w → if w.first then u.cfg.flash1 = s.cfg.flash1 else u.cfg.flash0 = s.cfg.flash0) ∧
       (∀ st i m, modelAt s st i = some m → modelAt u st i = some { m with a := bareResSlot m.a, b := bareResSlot m.b }) ∧
       (∀ t n, (tarnOf (s.tile t) n).colMap ≠ [] → (tarnOf (u.tile t) n).colMap = (tarnOf (s.tile t) n).colMap) ∧
       (c = .auxOutOfRange → u.power.aux = false ∧ u.power.thermAlert = false)) ∧
   (∀ s : State, ∃ u, exec .auxInRange s = .next u ∧ u.power = { s.power with
     aux := true, thermAlert := s.power.thermAlert || s.power.lock120 }) ∧
   (∀ (s : State) (mV : Nat), 38000 ≤ mV → exec (.vin48Undervoltage mV) s = .next s)) ∧
  (∀ (s : State) (trst tms tdi : Bool) (irs : List TapInstr),
     (s.power.pwrgd = false ∨ s.power.testMode = false ∨ trst = true → ∃ u, exec (.boundaryScanCycle trst tms tdi irs) s = .next u ∧
       u.power.tapState = .reset ∧ u.power.taps = []) ∧
     (s.power.pwrgd = true → s.power.testMode = true → ∃ u, exec (.boundaryScanCycle false tms tdi irs) s = .next u ∧
       u.power.tapState = tapNext s.power.tapState tms ∧
       (s.power.tapState = .capDr → ∀ i, i < 6 → iodFitted s.variant i = true → tapInstr s i = .idcode →
         tget 0 u.power.shift i = idcode) ∧
       (s.power.tapState = .ex1Ir → tms = true → irs.length = (tapChain s).length → ∀ q ∈ (tapChain s).zip irs, tapInstr u q.1 = q.2) ∧
       (s.power.tapState = .shDr → ∀ i, (tapChain s).getLast? = some i → u.power.tdo = (tget 0 s.power.shift i % 2 == 1)) ∧
       u.cfg = s.cfg ∧ u.dies = s.dies))

/-- R412, R410, R411, R415: the module starts after power-good outside test mode: IOD0 is the MC where its self-test passes, else IOD3; the
valid copy of the higher generation is taken, or the factory defaults; a time of day that was held is adopted; dies without a calibration
are excluded. MODULE_RESTART does the same from what survives, and is refused while a command runs. R400, R416 to R418: PART_RESTART is
refused with 0x0150 while another command runs; a section that fails its checks leaves the partition as it was, with the reason; one in use
is refused with 0x0145; a good one waits for the reset of the running partition. OWNERS_RELOAD takes the owners of the chosen copy.
CFG_WRITE checks the image first; copy 1 is written, then copy 0, and a bad readback ends it. -/
def Obligations.ModuleStartsAndIsConfigured : Prop :=
  ((∀ (s : State) (t0 t3 : Bool), s.power.pwrgd = true → s.power.testMode = false → s.cfg.started = false →
     ∃ u, exec (.moduleStart t0 t3) s = .next u ∧ u.cfg.started = true ∧ u.cfg.phase = 5 ∧ u.cfg.active3 = (!t0) ∧
       u.cfg.standbyReady = (t0 && t3) ∧ u.cfg.reason0 = copyReason s.variant s.serial s.baseMac s.cfg.flash0 ∧
       u.cfg.reason1 = copyReason s.variant s.serial s.baseMac s.cfg.flash1 ∧
       (chooseCopy s = none → u.cfg.defaulted = true) ∧
       (∀ n, chooseCopy s = some n → u.cfg.copyUse = (n == 1) ∧ u.cfg.genUse = imageGen (copyImage s n) ∧
         u.cfg.owners = (parseOwners (sectOf (copyImage s n) 2)).getD []) ∧
       (∀ t, s.time.heldTod = some t → 0 < t → u.time.now = t ∧ u.time.utc = true) ∧
       (∀ d, d < 40 → adFitted s.variant d = true → (s.die d).calCount = 0 → (u.die d).state = .excluded) ∧
       ∀ k, k < 4 → (u.res k).ready = true) ∧
   (∀ (s : State) (t0 t3 : Bool), s.power.pwrgd = false ∨ s.power.testMode = true ∨ s.cfg.started = true →
     exec (.moduleStart t0 t3) s = .next s) ∧
   (∀ (s : State) (r : Requester) (now : Nat), mcReach s r = true → operatorReach s r = true →
     (cfgBusy s = true → ∃ u, exec (.moduleRestart (.reg r) now) s = .next u ∧ u.cfg.cmdReason = 0x0150 ∧ u.cfg.cmdAction = 3 ∧
       u.parts = s.parts ∧ u.tiles = s.tiles) ∧
     (cfgBusy s = false → ∃ u, exec (.moduleRestart (.reg r) now) s = .next u ∧ u.cfg.started = true ∧ u.cfg.flash0 = s.cfg.flash0 ∧
       u.cfg.flash1 = s.cfg.flash1 ∧ u.xfers = [] ∧ u.dram = [] ∧ u.cfg.cmdBusy = none ∧ u.time.utc = false ∧
       ∀ st i m, modelAt s st i = some m → modelAt u st i = some { m with a := bareResSlot m.a, b := bareResSlot m.b }))) ∧
  (∀ (s : State) (r : Requester) (now : Nat), mcReach s r = true → operatorReach s r = true →
     (∀ p, p < 64 → cfgBusy s = true → ∃ u, exec (.partRestart (.reg r) p now) s = .next u ∧ u.cfg.cmdReason = 0x0150 ∧
       u.cfg.cmdAction = 1 ∧ u.parts = s.parts) ∧
     (∀ p n bytes, p < 64 → cfgBusy s = false → imageCmdRuns s p = false → retireRuns s p = false → chooseCopy s = some n →
       (partSections (copyImage s n)).find? (fun q => q.1 == p) = some (p, bytes) →
       let v := (cfgBegin (s.setNow now) { action := 1, part := p, reply := none }).modPart p fun q => { q with present := true }
       (∀ e, sectionCheck v p bytes = .error e → ∃ u, exec (.partRestart (.reg r) p now) s = .next u ∧ u.cfg.cmdReason = e ∧
         u.cfg.cmdBusy = none ∧ u.part p = { s.part p with present := true, reason := e }) ∧
       (∀ c, sectionCheck v p bytes = .ok c → c.enable = true → restartInUse v p (some c) = true →
         ∃ u, exec (.partRestart (.reg r) p now) s = .next u ∧ u.cfg.cmdReason = 0x0145 ∧ u.cfg.cmdBusy = none ∧
           u.part p = { s.part p with present := true, reason := 0x0145 }) ∧
       (∀ c, sectionCheck v p bytes = .ok c → c.enable = true → restartInUse v p (some c) = false → (s.part p).state = .running →
         (s.part p).resetting = false → ∃ u, exec (.partRestart (.reg r) p now) s = .next u ∧ (u.part p).resetting = true ∧
           (u.part p).cause = 3 ∧ (u.part p).restarting = true ∧ (u.part p).newCfg = some c ∧
           (u.part p).newGen = imageGen (copyImage s n) ∧ u.cfg.cmdBusy = some { action := 1, part := p, reply := none })) ∧
     (cfgBusy s = true → ∃ u, exec (.ownersReload (.reg r) now) s = .next u ∧ u.cfg.cmdReason = 0x0150 ∧ u.cfg.owners = s.cfg.owners) ∧
     (∀ n os, cfgBusy s = false → chooseCopy s = some n → parseOwners (sectOf (copyImage s n) 2) = some os →
       ((∀ o ∈ s.cfg.owners, (∃ x ∈ os, x.id = o.id) ∨ ownerNamed s o.id = false) →
         ∃ u, exec (.ownersReload (.reg r) now) s = .next u ∧ u.cfg.cmdReason = 0 ∧ u.cfg.owners = os.map (carryOwner s.cfg.owners)) ∧
       (∀ o ∈ s.cfg.owners, (∀ x ∈ os, x.id ≠ o.id) → ownerNamed s o.id = true →
         ∃ u, exec (.ownersReload (.reg r) now) s = .next u ∧ u.cfg.cmdReason = 0x0136 ∧ u.cfg.owners = s.cfg.owners)) ∧
     (∀ image, cfgBusy s = false →
       (copyReason s.variant s.serial s.baseMac image = 0 → ∃ u, exec (.cfgWrite r image now) s = .next u ∧
         u.cfg = { s.cfg with write := some { image := image } }) ∧
       (copyReason s.variant s.serial s.baseMac image ≠ 0 → exec (.cfgWrite r image now) s = .next (s.setNow now))) ∧
     (∀ w back, s.cfg.write = some w → ∃ u, exec (.cfgFlashWriteDone back now) s = .next u ∧
       (w.first = false → u.cfg.flash1 = back ∧ u.cfg.flash0 = s.cfg.flash0 ∧
         u.cfg.write = (if copyReason s.variant s.serial s.baseMac back = 0 then some { w with first := true } else none)) ∧
       (w.first = true → u.cfg.flash0 = back ∧ u.cfg.flash1 = s.cfg.flash1 ∧ u.cfg.write = none)))

/-- R485 to R492, R503: a Spring trigger at a multiple of 10 ms begins the Spring programme on every fitted die that is not dark; a user
sweep that runs is parked. Each step's results replace the entries'; the last step ends the sweep. A report that does not arrive is counted.
A die without triggers for 30 ms times its own sweeps, and two sweeps at 105 °C or more trip it. -/
def Obligations.SweepsRunTheirProgrammes : Prop :=
  (∀ (s : State) (now : Nat), s.cfg.started = true → (s.setNow now).now % 10000000 = 0 →
    ∃ u, exec (.springTrigger now) s = .next u ∧ u.therm.seq = wrapAdd s.therm.seq 1 ∧ u.therm.roundOpen = true ∧
      u.therm.limitRound = s.therm.limit ∧ ∀ d ∈ springDies s, (hkOf u d).sweep = some (HkSweep.mk .spring
        (formSteps s d ([0, 1, 2, 3, 4, 5] ++ if (hkOf s d).userOnSpring then userEntries else [])) false) ∧ (hkOf u d).reported = false ∧
        (hkOf u d).selfTimed = false ∧ (hkOf u d).refOn = true ∧
        (∀ w, (hkOf s d).sweep = some w → w.kind = .user → (hkOf u d).parked = some w)) ∧
  (∀ (s : State) (now : Nat), (s.setNow now).now % 10000000 ≠ 0 → exec (.springTrigger now) s = .next (s.setNow now)) ∧
  (∀ (s : State) (d : Nat) (w : HkSweep) (st : List Nat) (rest : List (List Nat)) (codes : List (Nat × Nat)) (last : Bool),
    okDie d = true → hkRuns s d = true → (hkOf s d).sweep = some w → w.steps = st :: rest →
    ∃ u, exec (.hkSweepStepDone d w.kind codes last) s = .next u ∧
      (∀ n ∈ st, (tget {} (hkOf u d).res n).code = (if inputCarried d (seqEntry s d n).input then tget 0 codes n % 4096 else 0) ∧
        (tget {} (hkOf u d).res n).sweep = ((hkOf s d).sweepSeq + 1) % 256) ∧
      (rest ≠ [] → (hkOf u d).sweep = some { kind := w.kind, steps := rest, sawLo := w.sawLo || stepLo s d st }) ∧
      (rest = [] → (hkOf u d).sweepSeq = ((hkOf s d).sweepSeq + 1) % 256 ∧ (w.kind = .spring → (hkOf u d).reported = true) ∧
        (∀ v, (hkOf s d).parked = some v → (hkOf u d).sweep = some v) ∧
        ((hkOf s d).parked = none → (hkOf s d).heldTrig = false → (hkOf u d).sweep = none))) ∧
  (∀ (s : State) (d : Nat), okDie d = true → hkRuns s d = true →
    ((hkOf s d).lowPower = true → exec (.refBufferOn d) s = .next (modHk s d fun h => { h with refOn := true })) ∧
    (exec (.springTriggerTimeout d) s = .next (modHk s d fun h => { h with selfTimed := true })) ∧
    (s.therm.roundOpen = true → (hkOf s d).missed = false → ∃ u, exec (.springReportMissed d) s = .next u ∧
      hkOf u d = { hkOf s d with reported := false, missed := true, missRun := (hkOf s d).missRun + 1 } ∧
      u.therm.miss = satAdd s.therm.miss 1) ∧
    (∀ codes, (hkOf s d).selfTimed = true →
      let raw := rawTemp (hkOf s d).ideal (tget 0 codes 4 % 4096)
      let ok := tempValid (hkOf s d).ideal { code := tget 0 codes 4 % 4096, valid := true }
      ∃ u, exec (.selfTimedSweep d codes) s = .next u ∧ (hkOf u d).raw = raw ∧
        (hkOf u d).sweepSeq = ((hkOf s d).sweepSeq + 1) % 256 ∧
        (ok = true → 1680 ≤ raw → (hkOf s d).hotSweeps = 1 → (hkOf s d).trip = false → (hkOf u d).trip = true ∧ (hkOf u d).vset = 0 ∧
          (hkOf u d).tripCnt = satAdd (hkOf s d).tripCnt 1) ∧
        (raw < 1680 → (hkOf u d).trip = (hkOf s d).trip ∧ (hkOf u d).hotSweeps = 0)) ∧
    (∀ value now, bitOf value 2 = true → s.cfg.started = true → ∃ u, exec (.hkSwTrig d value now) s = .next u ∧
      (hkOf u d).lowPower = bitOf value 0 ∧ (hkOf u d).userOnSpring = bitOf value 1 ∧
      (9975000 < (s.setNow now).now % 10000000 → (hkOf u d).heldTrig = true ∧ (hkOf u d).sweep = (hkOf s d).sweep) ∧
      ((s.setNow now).now % 10000000 ≤ 9975000 → (hkOf s d).sweep = none → formSteps s d userEntries ≠ [] →
        (hkOf u d).sweep = some { kind := .user, steps := formSteps s d userEntries })))

/-- R493 to R504: at the end of a round a valid report of 120 °C or more shuts the module down until the input has been removed. Otherwise
each die's setpoint moves by the lower of its temperature's and the module power's step, held to 0 under the brake and by a trip; three
rounds at 110 °C or more begin the emergency, which fences the running partitions and takes every channel to code 0. R502: an input current
above 65 A takes every VCORE channel to code 0 at once and brakes; falling back, it arms the brake again. -/
def Obligations.RoundsControlSetpoints : Prop :=
  (∀ (s : State) (now : Nat) (hot : List (Nat × Option Int)), s.therm.roundOpen = true → s.power.pwrgd = true →
     let ds := springDies s
     let w := controlReadings hot (s.setNow now) ds
     let v := brakeCheck (powerCheck w)
     (∀ d ∈ ds, (hkOf s d).reported = true → tempValid (hkOf s d).ideal (tget {} (hkOf s d).res 4) = true →
       1920 ≤ rawTemp (hkOf s d).ideal (tget {} (hkOf s d).res 4).code →
       ∃ u, exec (.springControl hot now) s = .next u ∧ u.power.pwrgd = false ∧ u.power.lock120 = true ∧ u.power.thermAlert = true ∧
         u.parts = [] ∧ u.dram = []) ∧
     (shutdownDue w ds = false → w.therm.emergency = false → (∀ d ∈ ds, (hkOf w d).emergRun < 3) →
       ∃ u, exec (.springControl hot now) s = .next u ∧ u.therm.roundOpen = false ∧ u.therm.emergency = false ∧ ∀ d ∈ ds,
         let t := if d ∈ hotDies w then max (hkOf w d).ctl 1520 else (hkOf w d).ctl
         let set := if v.therm.brake then 0 else nextSet (hkOf w d).mcSet v.therm.vTarget (dtStep t) (dpStep v.therm)
         let trip := (hkOf w d).trip && !((hkOf w d).suspect || ((hkOf w d).reported && decide (repRaw w d < 1600)))
         (hkOf u d).mcSet = set ∧ (hkOf u d).trip = trip ∧ (hkOf u d).vset = (if trip then 0 else set) ∧
         (hkOf u d).throttled = decide ((hkOf u d).vset < v.therm.vTarget)) ∧
     (∀ d ∈ ds, shutdownDue w ds = false → w.therm.emergency = false → 3 ≤ (hkOf w d).emergRun →
       ∃ u, exec (.springControl hot now) s = .next u ∧ u.therm.emergency = true ∧ u.power.thermAlert = true ∧
         (∀ e ∈ ds, (hkOf u e).vset = 0) ∧ ∀ p, (s.part p).state = .running → (u.part p).state = .fenced ∧ p ∈ u.therm.emergFenced)) ∧
  (∀ (s : State) (mA : Nat), s.power.pwrgd = true →
     (65000 < mA → s.power.iinOver = false → ∃ u, exec (.iin48Crossing mA) s = .next u ∧ u.power.iinOver = true ∧ u.therm.brake = true ∧
       u.therm.brakeCnt = satAdd s.therm.brakeCnt 1 ∧ ∀ d ∈ springDies s, (hkOf u d).vset = 0 ∧ (hkOf u d).mcSet = 0) ∧
     (65000 < mA → s.power.iinOver = true → exec (.iin48Crossing mA) s = .next s) ∧
     (mA ≤ 65000 → ∃ u, exec (.iin48Crossing mA) s = .next u ∧ u.power.iinOver = false ∧ u.therm = s.therm ∧ u.dies = s.dies))

/-- R468, R469: LOG_DRAIN takes the first record of a summary area ahead of every FIFO, round-robin in each case, under the next LOG_SEQ. At
the end of an interval a coalescing die places one LOG_OVERFLOW and one SUMMARY per table entry, and leaves coalescing when fewer than 1,000
reports arrived and its FIFO stayed below 48. R475 to R477: an EVENT message carries up to 21 records that the subscriber's owner may see;
without an owner it goes unsigned to ff02::1 on both management ports. A TELEMETRY message holds the module time and the values of the
listed addresses, 0 for one out of reach. A subscription lapses at its time. -/
def Obligations.LogRecordsReachSubscribers : Prop :=
  ((∀ (s : State) (i : Nat) (r : EvRec) (rs : List EvRec), s.cfg.started = true →
     let l := evSources s
     let d := l.getD i 0
     ((nextSource l s.log.rrSum (fun d => !(evQueue s d).summary.isEmpty) = some i ∧ (evQueue s d).summary = r :: rs) ∨
       ((∀ d ∈ l, (evQueue s d).summary = []) ∧ nextSource l s.log.rrFifo (fun d => !(evQueue s d).fifo.isEmpty) = some i ∧
         (evQueue s d).fifo = r :: rs)) →
     ∃ u, exec .logDrain s = .next u ∧ u.log.recs.getLast? = some (s.log.head, r) ∧ u.log.recs.length ≤ 4096 ∧
       u.log.head = (s.log.head + 1) % 2 ^ 32 ∧
       (evParts s r = [] ∨ (∃ p, evParts s r = [p] ∧ (s.part p).spool.length < 4096) →
         ((evQueue s d).summary = r :: rs → (evQueue u d).summary = rs ∧ (evQueue u d).fifo = (evQueue s d).fifo) ∧
         ((evQueue s d).summary = [] → (evQueue u d).fifo = rs ∧ (evQueue u d).summary = [])) ∧
       (∀ p fn, evParts s r = [p] → (s.part p).fn = some fn → (s.part p).spool.length < 4096 →
         (u.part p).spool = (s.part p).spool ++ [{ bytes := evRingRecord p r }])) ∧
   (∀ (s : State) (die now : Nat), okDie die = true → (s.setNow now).now % 100000000 = 0 →
     let q := evQueue s die
     ∃ u, exec (.coalesceIntervalEnd die now) s = .next u ∧
       (q.coalescing = false → (evQueue u die).fifo = q.fifo ∧ (evQueue u die).summary = q.summary ∧ (evQueue u die).coalescing = false) ∧
       (q.coalescing = true → (evQueue u die).table = [] ∧ (evQueue u die).fifo = q.fifo ∧
         (evQueue u die).coalescing = (decide (1000 ≤ q.arrived) || q.high) ∧
         (0 < q.coalesced → ∃ o : EvRec, o.cls = evLogOverflow ∧ o.kind = 2 ∧ o.die = die ∧ o.count = q.unattr ∧
           (evQueue u die).summary = q.summary ++ o :: q.table ∧ (evQueue u die).lostIvl = satAdd q.lostIvl 1) ∧
         (q.coalesced = 0 → (evQueue u die).summary = q.summary)))) ∧
  ((∀ (s : State) (sub : Nat) (b : Sub) (o : Owner), s.cfg.started = true → s.log.subs[sub]? = some b → b.events = true →
     fleshaServed s b.port = true → ownerOf s b.owner = some o →
     let rs := ((recsFrom s b.nextSeq).filter fun q => seesRecord s b.owner q.2).take 21
     ∃ u, exec (.fleshaEventSend sub) s = .next u ∧
       (rs ≠ [] → u.out = s.out ++ [.flesha b.port b.addr b.udp
         (fleshaMsg s.serial (some o.key) 1 b.owner (o.outSeq + 1) rs.length 0 0 (eventBody rs))]) ∧
       (rs = [] → u.out = s.out)) ∧
   (∀ (s : State) (sub : Nat), s.cfg.started = true → s.cfg.owners = [] →
     let rs := (recsFrom s s.log.anonNext).take 21
     let msg := fun n => fleshaMsg s.serial none 1 0 n rs.length 0 0 (eventBody rs)
     rs ≠ [] → ∃ u, exec (.fleshaEventSend sub) s = .next u ∧ u.log.anonSeq = s.log.anonSeq + 2 ∧
       u.out = s.out ++ [.flesha 0 (0xFF02 * 2 ^ 112 + 1) s.cfg.module.udp (msg (s.log.anonSeq + 1)),
         .flesha 1 (0xFF02 * 2 ^ 112 + 1) s.cfg.module.udp (msg (s.log.anonSeq + 2))]) ∧
   (∀ (s : State) (sub now : Nat) (b : Sub) (o : Owner), s.log.subs[sub]? = some b → b.telemetry = true → fleshaServed s b.port = true →
     ownerOf s b.owner = some o → (∀ a ∈ b.addrs, readReach s b.owner a = false) →
     ∃ u, exec (.telemetrySend sub now) s = .next u ∧ u.out = s.out ++ [.flesha b.port b.addr b.udp
       (fleshaMsg s.serial (some o.key) 2 b.owner (o.outSeq + 1) 0 0 0
         (toLe 8 (s.setNow now).now ++ (b.addrs.map fun _ => toLe 4 0).flatten))]) ∧
   (∀ (s : State) (sub now a : Nat) (b : Sub) (o : Owner), s.log.subs[sub]? = some b → b.telemetry = true → fleshaServed s b.port = true →
     ownerOf s b.owner = some o → b.addrs = [a] → readReach s b.owner a = true →
     ∃ u, exec (.telemetrySend sub now) s = .next u ∧ u.out = s.out ++ [.flesha b.port b.addr b.udp
       (fleshaMsg s.serial (some o.key) 2 b.owner (o.outSeq + 1) 0 0 0
         (toLe 8 (s.setNow now).now ++ toLe 4 (mgmtRead (s.setNow now) (.flesha b.owner) a).2))]) ∧
   (∀ (s : State) (sub now : Nat) (b : Sub), s.log.subs[sub]? = some b → b.expires ≤ (s.setNow now).now →
     ∃ u, exec (.subscriptionLapse sub now) s = .next u ∧ u.log.subs = s.log.subs.eraseIdx sub))

/-- R473, R474: a COMMAND that fails a test of R473 is dropped without a response, counted and reported, and an unknown opcode receives
0x0160 FLESHA_MALFORMED. A response is one message signed under its owner's key, whose SEQ rises by 1. R425, R474, R475: SUBSCRIBE registers
its source for 60 s, a seventeenth receives 0x0162; READ and WRITE act on registers within the owner's reach and are refused whole with
0x0207 otherwise; where a die or a block is absent (R5, R28), or a command register refuses its value (R446), the response says so; LOG_READ
answers the records that the owner may see. Malformed bodies receive 0x0160. -/
def Obligations.FleshaReachesRegisters : Prop :=
  ((∀ (s : State) (port addr udp now op : Nat) (msg : List Byte), port < 2 → fleshaServed s port = true → fleshaShape msg = true →
     leAt msg 24 2 = op → fleshaTests s msg = false →
     let drops := fun r : Host.Outcome State Fault Refusal => ∃ u, r = .next u ∧ u.cfg = s.cfg ∧ u.out = s.out ∧
       u.log.authFail = satAdd s.log.authFail 1 ∧ u.parts = s.parts ∧ u.lantern = s.lantern
     (op = 0x0001 → drops (exec (.fleshaSubscribe port addr udp msg now) s)) ∧ (op = 0x0002 → drops (exec (.fleshaRead port addr udp msg now) s)) ∧
     (op = 0x0003 → drops (exec (.fleshaWrite port addr udp msg now) s)) ∧
     (op = 0x0011 → drops (exec (.fleshaImageData port addr udp msg true now) s)) ∧
     (op = 0x0021 → drops (exec (.fleshaCfgData port addr udp msg now) s)) ∧ (op = 0x0030 → drops (exec (.fleshaTime port addr udp msg now) s)) ∧
     (op = 0x0031 → drops (exec (.fleshaResync port addr udp msg now) s)) ∧
     (op = 0x0041 → drops (exec (.fleshaFailover port addr udp msg now) s)) ∧
     (op = 0x0050 → drops (exec (.fleshaLogRead port addr udp msg now) s))) ∧
   (∀ (s : State) (port addr udp now op : Nat) (msg : List Byte) (c : FlCmd), FleshaCmd s port op msg c → knownOpcode op = false →
     exec (.fleshaRead port addr udp msg now) s =
       .next (fleshaReply (acceptedSeq (s.setNow now) msg) (replyOf c port addr udp) 0x0160 [])) ∧
   (∀ (s : State) (r : Reply) (status : Nat) (body : List Byte) (o : Owner), ownerOf s r.owner = some o →
     (fleshaReply s r status body).out = s.out ++ [.flesha r.port r.addr r.udp (fleshaMsg s.serial (some o.key) 4 r.owner (o.outSeq + 1) r.opcode r.tag status body)] ∧
     ownerOf (fleshaReply s r status body) r.owner = some { o with outSeq := o.outSeq + 1 })) ∧
  (∀ (s : State) (port addr udp now op : Nat) (msg : List Byte) (c : FlCmd), FleshaCmd s port op msg c →
     let v := acceptedSeq (s.setNow now) msg
     let r := replyOf c port addr udp
     let a := leAt c.body 0 4
     let n := leAt c.body 4 2
     (op = 0x0001 →
       (subBodyOk c.body = false → exec (.fleshaSubscribe port addr udp msg now) s = .next (fleshaReply v r 0x0160 [])) ∧
       (subBodyOk c.body = true → s.log.subs.length = 16 → (∀ x ∈ s.log.subs, ¬ (x.addr = addr ∧ x.udp = udp)) →
         exec (.fleshaSubscribe port addr udp msg now) s = .next (fleshaReply v r 0x0162 [])) ∧
       (subBodyOk c.body = true → s.log.subs.length < 16 → (∀ x ∈ s.log.subs, ¬ (x.addr = addr ∧ x.udp = udp)) →
         ∃ u b, exec (.fleshaSubscribe port addr udp msg now) s = .next u ∧ u.log.subs = s.log.subs ++ [b] ∧ b.port = port ∧ b.addr = addr ∧
           b.udp = udp ∧ b.owner = c.owner ∧ b.expires = (s.setNow now).now + 60000000000 ∧ b.events = (byteAt c.body 0 != 0) ∧
           b.telemetry = (byteAt c.body 1 != 0) ∧ b.addrs.length = leAt c.body 4 4)) ∧
     (op = 0x0002 → c.body.length = 6 → 1 ≤ n → n ≤ 256 →
       ((∀ i < n, readReach v c.owner (a + 4 * i) = true) → exec (.fleshaRead port addr udp msg now) s =
         .next (fleshaReply (mgmtReads v (.flesha c.owner) a n).1 r (replyStatus v a n) ((mgmtReads v (.flesha c.owner) a n).2.map (toLe 4)).flatten)) ∧
       ((∃ i < n, readReach v c.owner (a + 4 * i) = false) →
         exec (.fleshaRead port addr udp msg now) s = .next (fleshaReply v r 0x0207 []))) ∧
     (op = 0x0003 → 1 ≤ n → n ≤ 256 → c.body.length = 6 + 4 * n →
       let vs := (List.range n).map fun i => leAt c.body (6 + 4 * i) 4
       ((∀ i < n, writeReach v c.owner (a + 4 * i) (vs.getD i 0) = true) →
         exec (.fleshaWrite port addr udp msg now) s =
         .next (fleshaReply (mgmtWrites v a vs) r (if replyStatus v a n ≠ 0 then replyStatus v a n else writesStatus v a vs) [])) ∧
       ((∃ i < n, writeReach v c.owner (a + 4 * i) (vs.getD i 0) = false) →
         exec (.fleshaWrite port addr udp msg now) s = .next (fleshaReply v r 0x0207 []))) ∧
     (op = 0x0050 → c.body.length = 6 → 1 ≤ n → n ≤ 21 → exec (.fleshaLogRead port addr udp msg now) s = .next (fleshaReply v r 0
       (eventBody (s.log.recs.filter fun q => (decide (∃ i < n, q.1 = (a + i) % 2 ^ 32)) && seesRecord v c.owner q.2)))) ∧
     (op = 0x0050 → c.body.length ≠ 6 ∨ n = 0 ∨ 21 < n → exec (.fleshaLogRead port addr udp msg now) s = .next (fleshaReply v r 0x0160 [])))

/-- R305, R400, R415, R425, R442, R474: the commands that need an OPERATOR owner. TIME above the count is adopted once; RESYNC
resynchronises a channel; CFG_DATA is taken in offset order, one below acknowledged and one above refused with 0x0163; FAILOVER is answered
by the new active MC. Another owner receives 0x0207 and nothing changes. IMAGE_DATA is taken in offset order under its INSTALL's tag. -/
def Obligations.FleshaCommandsTheModule : Prop :=
  ∀ (s : State) (port addr udp now op : Nat) (msg : List Byte) (c : FlCmd), FleshaCmd s port op msg c →
    let v := acceptedSeq (s.setNow now) msg
    let r := replyOf c port addr udp
    let utc := leAt c.body 0 8
    (isOperator s c.owner = true →
      (op = 0x0030 → c.body.length = 8 → s.time.utc = false → (s.setNow now).now < utc → ∃ u,
        exec (.fleshaTime port addr udp msg now) s = .next u ∧ u.time.now = utc ∧ u.time.utc = true ∧ u.time.adopt = utc ∧
        u.time.step = utc - (s.setNow now).now) ∧
      (op = 0x0030 → c.body.length = 8 → s.time.utc = false → utc ≤ (s.setNow now).now → ∃ u,
        exec (.fleshaTime port addr udp msg now) s = .next u ∧ u.time = (s.setNow now).time) ∧
      (op = 0x0031 → c.body.length = 2 → iodFitted s.variant (byteAt c.body 0) = true → exec (.fleshaResync port addr udp msg now) s =
        .next (fleshaReply (resyncChannel v (byteAt c.body 0) (byteAt c.body 1)) r 0 [])) ∧
      (op = 0x0021 → 17 ≤ c.body.length → c.body.length ≤ 1296 →
        let buf := if s.cfg.writeSrc = some (.flesha c.owner) then s.cfg.writeBuf else []
        let off := leAt c.body 0 8
        (buf.length < off → exec (.fleshaCfgData port addr udp msg now) s = .next (fleshaReply v r 0x0163 [])) ∧
        (off < buf.length → bitOf (byteAt c.body 8) 0 = false →
          exec (.fleshaCfgData port addr udp msg now) s = .next (fleshaReply v r 0 (toLe 8 buf.length))) ∧
        (off = buf.length → bitOf (byteAt c.body 8) 0 = false → ∃ u, exec (.fleshaCfgData port addr udp msg now) s = .next u ∧
          u.cfg.writeBuf = buf ++ c.body.drop 16 ∧ u.cfg.writeSrc = some (.flesha c.owner)) ∧
        (off = buf.length → bitOf (byteAt c.body 8) 0 = true → ∃ u w, exec (.fleshaCfgData port addr udp msg now) s = .next u ∧
          u.cfg.writeBuf = [] ∧ u.cfg.writeSrc = none ∧
          w = writeBegin { v with cfg := { v.cfg with writeBuf := [], writeSrc := none } } (buf ++ c.body.drop 16) ∧
          u = fleshaReply w.1 r w.2 (toLe 8 (buf.length + (c.body.length - 16))))) ∧
      (op = 0x0041 → c.body = [] → s.cfg.standbyReady = true → exec (.fleshaFailover port addr udp msg now) s =
        .next (fleshaReply (failover v) { r with port := b2n (failover v).cfg.active3 } 0 []))) ∧
    (isOperator s c.owner = false →
      (op = 0x0030 → c.body.length = 8 → exec (.fleshaTime port addr udp msg now) s = .next (fleshaReply v r 0x0207 [])) ∧
      (op = 0x0031 → c.body.length = 2 → iodFitted s.variant (byteAt c.body 0) = true →
        exec (.fleshaResync port addr udp msg now) s = .next (fleshaReply v r 0x0207 [])) ∧
      (op = 0x0021 → 17 ≤ c.body.length → c.body.length ≤ 1296 →
        exec (.fleshaCfgData port addr udp msg now) s = .next (fleshaReply v r 0x0207 [])) ∧
      (op = 0x0041 → c.body = [] → exec (.fleshaFailover port addr udp msg now) s = .next (fleshaReply v r 0x0207 []))) ∧
    (op = 0x0011 → 17 ≤ c.body.length → c.body.length ≤ 1296 → ∀ tagOk got t, s.log.installRx = [(c.owner, leAt c.body 0 2, got, t)] →
      (∀ st j, j ∈ (s.engine st).jobs → j.waiting = true) →
      let off := leAt c.body 8 8
      ∃ u, exec (.fleshaImageData port addr udp msg tagOk now) s = .next u ∧ u.engines = s.engines ∧
        u.log.installRx = [(c.owner, leAt c.body 0 2, if off = got then got + (c.body.length - 16) else got, (s.setNow now).now)] ∧
        (off ≤ got → ∃ w, u = fleshaReply w r 0 (toLe 8 (if off = got then got + (c.body.length - 16) else got)) ∧ w.cfg = v.cfg) ∧
        (got < off → ∃ w, u = fleshaReply w r 0x0163 [] ∧ w.cfg = v.cfg))

/-- R534 to R536, R538, R539: only an OPERATOR's DEBUG_UNLOCK unlocks Lantern, and it sets the debug taint. ACTION 2, a write of 1 to
LTN_LOCK and the end of DURATION lock it: every selector returns to 0 and the taint stays. A selector written while Lantern is locked is
refused with 0x0180, and KIND 5 of a Tarn that an image slot holds with 0x0181. -/
def Obligations.LanternUnlocksAndLocks : Prop :=
  let locked := fun (s u : State) => u.lantern.unlocked = false ∧ u.lantern.taint = s.lantern.taint ∧ u.lantern.routes = [] ∧
    ∀ d, (u.die d).ln = []
  (∀ (s : State) (port addr udp now : Nat) (msg : List Byte) (c : FlCmd), FleshaCmd s port 0x0040 msg c → unlockBodyOk c.body = true →
    let secs := leAt c.body 4 4
    (isOperator s c.owner = true →
      (byteAt c.body 0 = 1 → ∃ u, exec (.fleshaDebugUnlock port addr udp msg now) s = .next u ∧ u.lantern.unlocked = true ∧
        u.lantern.taint = true ∧ u.lantern.indefinite = decide (secs = 0) ∧
        (secs ≠ 0 → u.lantern.until_ = (s.setNow now).now + secs * 1000000000)) ∧
      (byteAt c.body 0 = 2 → s.lantern.unlocked = true →
        ∃ u, exec (.fleshaDebugLock port addr udp msg now) s = .next u ∧ locked s u)) ∧
    (isOperator s c.owner = false →
      (byteAt c.body 0 = 1 → ∃ u, exec (.fleshaDebugUnlock port addr udp msg now) s = .next u ∧ u.lantern = s.lantern) ∧
      (byteAt c.body 0 = 2 → ∃ u, exec (.fleshaDebugLock port addr udp msg now) s = .next u ∧ u.lantern = s.lantern))) ∧
  (∀ (s : State) (now : Nat), s.lantern.unlocked = true → s.lantern.indefinite = false → s.lantern.until_ ≤ (s.setNow now).now →
    ∃ u, exec (.lanternExpiry now) s = .next u ∧ locked s u) ∧
  (∀ (s : State) (iod value now : Nat), s.cfg.started = true → mcActive s iod = true → s.lantern.unlocked = true → bitOf value 0 = true →
    ∃ u, exec (.ltnLock (.sideband iod) value now) s = .next u ∧ locked s u) ∧
  (∀ (s : State) (iod addr value : Nat), s.cfg.started = true → mcActive s iod = true → isLanternSel s addr = true → addr % 4 = 0 →
    s.lantern.unlocked = false → ∃ u, exec (.lanternSelWrite (.sideband iod) addr value) s = .next u ∧
      u.lantern = { s.lantern with reason := 0x0180 } ∧ u.dies = s.dies) ∧
  (∀ (s : State) (iod d n value tarn : Nat), s.cfg.started = true → mcActive s iod = true → s.lantern.unlocked = true → d < 40 →
    dieFitted s.variant d = true → 8 ≤ n → n < 10 → (tget {} (s.die d).ln n).tarn = tarn → tarn < 384 → fld value 0 3 = 5 → value < 2 ^ 32 →
    let addr := d * 2 ^ 24 + 2 * 2 ^ 16 + 8 * n
    let t := 32 * d + fld value 8 5
    ((tarnOf (s.tile t) tarn).holder ≠ none → ∃ u, exec (.lanternSelWrite (.sideband iod) addr value) s = .next u ∧
      u.lantern = { s.lantern with reason := 0x0181 } ∧ u.dies = s.dies) ∧
    ((tarnOf (s.tile t) tarn).holder = none → ∃ u, exec (.lanternSelWrite (.sideband iod) addr value) s = .next u ∧ u.lantern = s.lantern ∧
      (tget {} (u.die d).ln n).kind = 5 ∧ (tget {} (u.die d).ln n).tile = fld value 8 5 ∧ (tget {} (u.die d).ln n).tarn = tarn))

/-- R400, R415, R533: SB_STATUS is served on both sideband dies, before power-good with MC_STATUS 0. Every other command is served by the
active MC alone: before the start it answers NOT_READY, on the other die NOT_ACTIVE, and bad arguments BAD_ARG. An absent die or block shows
in the reply (R5, R28). A time of day that arrives before the start is held. R13, R16, R392: a read of a read-clear field answers its value
and clears it, in the status window only in the function's own copy. A read of a low word latches the high word, which the same requester's
next read of it returns; in BAR0 so do the ring bases and the tail writeback (R373). R5, R14, R28, R370, R425: a write to an absent die, an
absent block or an offset that no register has changes nothing. A reserved value leaves its field unchanged while the write's other fields
take effect. A write under partial byte enables changes only the enabled bytes. -/
def Obligations.RegistersOverEverySide : Prop :=
  (∀ (s : State) (iod now : Nat) (b : List Byte), iod = 0 ∨ iod = 3 → s.power.aux = true →
     let v := s.setNow now
     let all := fun (out : State → State) => exec (.sbRead iod b) s = .next (out s) ∧ exec (.sbWrite iod b now) s = .next (out v) ∧
       exec (.sbCfgData iod b now) s = .next (out v)
     (∃ u, exec (.sbStatus iod) s = .next u ∧
       u.out = s.out ++ [.sideband iod (0 :: toLe 4 (if s.power.pwrgd then cfgRead s 0x0010 else 0) ++ toLe 8 s.serial)]) ∧
     (s.cfg.started = false → all (fun w => w.emit (.sideband iod [2])) ∧
       (b.length = 8 → s.power.pwrgd = true → ∃ u, exec (.sbTime iod b now) s = .next u ∧ u.time.heldTod = some (leAt b 0 8) ∧
         u.out = s.out ++ [.sideband iod [2]])) ∧
     (s.cfg.started = true → mcActive s iod = false → all (fun w => w.emit (.sideband iod [1])) ∧
       exec (.sbTime iod b now) s = .next (v.emit (.sideband iod [1]))) ∧
     (s.cfg.started = true → mcActive s iod = true →
       let n := byteAt b 4
       let a := leAt b 0 4
       (b.length = 5 → 1 ≤ n → n ≤ 8 → exec (.sbRead iod b) s =
         .next ((mgmtReads s (.sideband iod) a n).1.emit (.sideband iod (BitVec.ofNat 8 (replyStatus s a n) :: ((mgmtReads s (.sideband iod) a n).2.map (toLe 4)).flatten)))) ∧
       (b.length = 5 → n = 0 ∨ 8 < n → exec (.sbRead iod b) s = .next (s.emit (.sideband iod [3]))) ∧
       (1 ≤ n → n ≤ 8 → b.length = 5 + 4 * n → exec (.sbWrite iod b now) s =
         .next ((mgmtWrites v a ((List.range n).map fun i => leAt b (5 + 4 * i) 4)).emit (.sideband iod [BitVec.ofNat 8 (replyStatus v a n)]))) ∧
       (b.length ≠ 5 + 4 * n → exec (.sbWrite iod b now) s = .next (v.emit (.sideband iod [3]))) ∧
       (6 ≤ b.length → b.length ≤ 245 → bitOf n 0 = false →
         let buf := if s.cfg.writeSrc = some (.sideband iod) then s.cfg.writeBuf else []
         (a = buf.length → ∃ u, exec (.sbCfgData iod b now) s = .next u ∧ u.cfg.writeBuf = buf ++ b.drop 5 ∧
           u.out = s.out ++ [.sideband iod (0 :: toLe 4 (buf.length + (b.length - 5)))]) ∧
         (buf.length < a → exec (.sbCfgData iod b now) s = .next (v.emit (.sideband iod [3]))) ∧
         (a < buf.length → exec (.sbCfgData iod b now) s = .next (v.emit (.sideband iod (0 :: toLe 4 buf.length))))) ∧
       (b.length = 8 → s.time.utc = false →
         (v.now < leAt b 0 8 → ∃ u, exec (.sbTime iod b now) s = .next u ∧ u.time.now = leAt b 0 8 ∧ u.time.utc = true ∧
           u.time.adopt = leAt b 0 8 ∧ u.time.step = leAt b 0 8 - v.now ∧ u.out = s.out ++ [.sideband iod [0]]) ∧
         (leAt b 0 8 ≤ v.now → exec (.sbTime iod b now) s = .next (v.emit (.sideband iod [3])))))) ∧
  ((∀ (s : State) (fn p off : Nat), fnAnswers s fn = true → (s.fnOf fn).part = some p → fn < 64 → 0x4954 ≤ off → off ≤ 0x4990 → off % 4 = 0 →
     latchOf s (.host fn) off = none →
     let w := (s.fnOf fn).win
     let k := 64 * w.histKind + 16 * w.histCls + (off - 0x4954) / 4
     ∃ u, exec (.rcRead (.host fn) off) s = .next u ∧ u.out = s.out ++ [.regRead (.host fn) off (barValue s fn off) 0] ∧
       tget 0 (u.fnOf fn).win.hist k = 0 ∧ (∀ j, j ≠ k → tget 0 (u.fnOf fn).win.hist j = tget 0 w.hist j) ∧ u.parts = s.parts ∧
       ∀ g, g ≠ fn → u.fnOf g = s.fnOf g) ∧
   (∀ (s : State) (iod t p off : Nat), s.cfg.started = true → mcActive s iod = true → t < 1280 → dieFitted s.variant (t / 32) = true →
     leadOf s t = some p → 0x0954 ≤ off → off ≤ 0x0990 → off % 4 = 0 →
     let a := (t / 32) * 2 ^ 24 + (0x20 + t % 32) * 2 ^ 16 + off
     latchOf s (.sideband iod) a = none →
     let c := (s.part p).cnt
     let k := 64 * c.histKind + 16 * c.histCls + (off - 0x0954) / 4
     ∃ u, exec (.rcRead (.sideband iod) a) s = .next u ∧ u.out = s.out ++ [.regRead (.sideband iod) a (mgmtValue s none a) 0] ∧
       tget 0 (u.part p).cnt.hist k = 0 ∧ u.fns = s.fns) ∧
   (∀ (s : State) (iod a : Nat), s.cfg.started = true → mcActive s iod = true → addrStatus s a = 0 → mgmtWide a = true →
     isSweepAge s a = false → ∃ u, exec (.lowWordRead (.sideband iod) a) s = .next u ∧
       u.out = s.out ++ [.regRead (.sideband iod) a (mgmtValue s none a) 0] ∧
       latchOf u (.sideband iod) (a + 4) = some (mgmtValue s none (a + 4))) ∧
   (∀ (s : State) (iod a hi : Nat), s.cfg.started = true → mcActive s iod = true → addrStatus s a = 0 → mgmtWide a = false →
     isSweepAge s a = false → latchOf s (.sideband iod) a = some hi → ∃ u, exec (.lowWordRead (.sideband iod) a) s = .next u ∧
       u.out = s.out ++ [.regRead (.sideband iod) a hi 0] ∧ latchOf u (.sideband iod) a = none) ∧
   (∀ (s : State) (fn off : Nat), fnAnswers s fn = true → fn < 64 → barWide off = true → ∃ u, exec (.lowWordRead (.host fn) off) s = .next u ∧
     u.out = s.out ++ [.regRead (.host fn) off (barValue s fn off) 0] ∧ latchOf u (.host fn) (off + 4) = some (barValue s fn (off + 4)))) ∧
  ((∀ (s : State) (iod addr value be : Nat), s.cfg.started = true → mcActive s iod = true → addrStatus s addr ≠ 0 ∨ addrOff addr % 4 ≠ 0 →
     exec (.regWrite (.sideband iod) addr value be) s = .next (s.emit (.regWrite (.sideband iod) addr (addrStatus s addr)))) ∧
   (∀ (s : State) (iod value : Nat), s.cfg.started = true → mcActive s iod = true → value < 2 ^ 32 →
     (∃ u, exec (.regWrite (.sideband iod) 0xF0040000 value 15) s = .next u ∧
       u.therm = { s.therm with limit := if 1500 ≤ value % 4096 ∧ value % 4096 ≤ 3000 then value % 4096 else s.therm.limit } ∧
       u.parts = s.parts ∧ u.dies = s.dies) ∧
     (∃ u, exec (.regWrite (.sideband iod) 0xF0010000 value 15) s = .next u ∧ u.ptSel = value % 64 ∧ u.parts = s.parts) ∧
     (∃ u, exec (.regWrite (.sideband iod) 0xF0010014 value 15) s = .next u ∧ (u.part s.ptSel).wdgReset = bitOf value 16 ∧
       (u.part s.ptSel).wdgMs = (if value % 2 ^ 16 = 0 ∨ 10 ≤ value % 2 ^ 16 then value % 2 ^ 16 else (s.part s.ptSel).wdgMs)) ∧
     (∃ u, exec (.regWrite (.sideband iod) 0xF003002C value 15) s = .next u ∧ u.log = { s.log with thrChCe := value }) ∧
     (∃ u, exec (.regWrite (.sideband iod) 0xF003002C value 1) s = .next u ∧
       u.log = { s.log with thrChCe := s.log.thrChCe % 2 ^ 32 / 2 ^ 8 * 2 ^ 8 + value % 2 ^ 8 }) ∧
     (∃ u, exec (.regWrite (.sideband iod) 0xF0060018 value 15) s = .next u ∧
       u.fm.chanStack = (if value % 32 < 20 then value % 32 else s.fm.chanStack) ∧
       u.fm.chanPair = (if value / 256 % 16 < 8 then value / 256 % 16 else s.fm.chanPair))) ∧
   (∀ (s : State) (fn value : Nat), fnAnswers s fn = true →
     (exec (.regWrite (.host fn) 0x0014 value 15) s =
       .next ((s.modFn fn fun f => { f with evtMask := value % 2 ^ 32 % 128 }).emit (.regWrite (.host fn) 0x0014 0))) ∧
     (exec (.regWrite (.host fn) 0x0014 value 0) s = .next (s.emit (.regWrite (.host fn) 0x0014 0)))))
end

