-- ==== Sys2Proof/Laws/Flags.lean ====
section
/-! SUPPORT. The evaluation helpers of the check words are the plain applications they stand for, and a CRC is a fold over its bytes. -/

namespace Sys2Proof.Machine

@[simp] theorem evalThen_eq {w : Nat} {α : Type} (x : BitVec w) (f : BitVec w → α) : evalThen x f = f x := by
  unfold evalThen
  split
  · next h => rw [show x = 0#w from BitVec.eq_of_toNat_eq (by simpa using h)]
  · next n h => rw [show n + 1 = x.toNat from h.symm]; simp

@[simp] theorem evalAll_eq {w : Nat} {α : Type} (xs : List (BitVec w)) (f : List (BitVec w) → α) : evalAll xs f = f xs := by
  induction xs generalizing f with
  | nil => rfl
  | cons x xs ih => simp [evalAll, ih]

theorem crcRun_eq_foldl {w : Nat} (poly : BitVec w) (bs : List Byte) (c : BitVec w) : crcRun poly bs c = bs.foldl (crcByteR poly) c := by
  induction bs generalizing c with
  | nil => rfl
  | cons b bs ih => simp [crcRun, ih]

/-- A CRC over two parts goes on from the register the first part leaves. -/
theorem crcRun_append {w : Nat} (poly : BitVec w) (as bs : List Byte) (c : BitVec w) :
    crcRun poly (as ++ bs) c = crcRun poly bs (crcRun poly as c) := by simp [crcRun_eq_foldl]

/-- The next word of the message schedule. -/
theorem shaSchedule_succ (n : Nat) (w : List (BitVec 64)) :
    shaSchedule (n + 1) w = shaSchedule n ((w.getD 15 0 + w.getD 6 0 + mix2 (w.getD 14 0) 1 8 (w.getD 14 0 >>> 7) +
      mix2 (w.getD 1 0) 19 61 (w.getD 1 0 >>> 6)) :: w) := by simp [shaSchedule]

/-- Without fuel nothing is hashed; otherwise the first block goes into the state. -/
theorem shaBlocks_succ (n : Nat) (h : List (BitVec 64)) (bs : List Byte) :
    shaBlocks (n + 1) h bs = shaBlocks n (shaBlock h (bs.take 128)) (bs.drop 128) := by simp [shaBlocks]

end Sys2Proof.Machine
end

