-- ==== Sys2Proof/Laws/Store.lean ====
section
/-! SUPPORT. Laws of the sparse tables and of byte memory: a read after a write, what a write leaves alone, and that every
operation keeps the canonical form. -/

namespace Sys2Proof.Machine

variable {α : Type}

/-! ### Reads after writes -/

theorem tget_tput (d : α) (t : Tab α) (k j : Nat) (v : α) :
    tget d (tput t k v) j = if j = k then v else tget d t j := by
  induction t with
  | nil => simp [tput, tget]
  | cons p t ih =>
    obtain ⟨i, w⟩ := p
    by_cases h1 : k = i
    · subst h1; by_cases h : j = k <;> simp [tput, tget, h]
    · by_cases h2 : k < i
      · by_cases h : j = k <;> simp [tput, tget, h1, h2, h]
      · by_cases h : j = k
        · subst h; simp [tput, tget, h1, h2, ih]
        · simp [tput, tget, h1, h2, h, ih]

theorem tget_tdel (d : α) (t : Tab α) (k j : Nat) : tget d (tdel t k) j = if j = k then d else tget d t j := by
  induction t with
  | nil => simp [tdel, tget]
  | cons p t ih =>
    obtain ⟨i, w⟩ := p
    by_cases h1 : k = i
    · subst h1
      by_cases h : j = k
      · subst h; simp [tdel, ih]
      · simp [tdel, tget, ih, h]
    · by_cases h : j = k
      · subst h; simp [tdel, tget, h1, ih]
      · simp [tdel, tget, h1, h, ih]

/-- A read after a write, of any table: the written key gives the value, every other key what it gave. -/
theorem tget_tset [DecidableEq α] {d : α} (t : Tab α) (k j : Nat) (v : α) :
    tget d (tset d t k v) j = if j = k then v else tget d t j := by
  unfold tset
  split_ifs with hv hj hj
  · rw [tget_tdel, if_pos hj, hv]
  · rw [tget_tdel, if_neg hj]
  · rw [tget_tput, if_pos hj]
  · rw [tget_tput, if_neg hj]

@[simp] theorem tget_tset_self [DecidableEq α] {d : α} (t : Tab α) (k : Nat) (v : α) :
    tget d (tset d t k v) k = v := by rw [tget_tset, if_pos rfl]

theorem tget_tset_other [DecidableEq α] {d : α} (t : Tab α) {k j : Nat} (hj : j ≠ k) (v : α) :
    tget d (tset d t k v) j = tget d t j := by rw [tget_tset, if_neg hj]

@[simp] theorem tget_tmod_self [DecidableEq α] {d : α} (t : Tab α) (k : Nat) (f : α → α) :
    tget d (tmod d t k f) k = f (tget d t k) := tget_tset_self t k _

theorem tget_tmod_other [DecidableEq α] {d : α} (t : Tab α) {k j : Nat} (hj : j ≠ k) (f : α → α) :
    tget d (tmod d t k f) j = tget d t j := tget_tset_other t hj _

/-! ### The canonical form -/

theorem tabWfFrom_mono [DecidableEq α] {d : α} {lo lo' : Nat} {t : Tab α} (hle : lo' ≤ lo) (h : tabWfFrom d lo t = true) :
    tabWfFrom d lo' t = true := by
  cases t with
  | nil => rfl
  | cons p t => simp [tabWfFrom] at h ⊢; exact ⟨⟨by omega, h.1.2⟩, h.2⟩

/-- A key below every key of a canonical table reads the default. -/
theorem tget_below [DecidableEq α] {d : α} {lo k : Nat} {t : Tab α} (h : tabWfFrom d lo t = true) (hk : k < lo) :
    tget d t k = d := by
  induction t generalizing lo with
  | nil => rfl
  | cons p t ih =>
    obtain ⟨j, w⟩ := p
    simp [tabWfFrom] at h
    have h1 : k ≠ j := by omega
    simp [tget, h1, ih h.2 (by omega)]

theorem tput_wfFrom [DecidableEq α] {d v : α} {lo k : Nat} {t : Tab α} (h : tabWfFrom d lo t = true) (hk : lo ≤ k)
    (hv : v ≠ d) : tabWfFrom d lo (tput t k v) = true := by
  induction t generalizing lo with
  | nil => simp [tput, tabWfFrom, hk, hv]
  | cons p t ih =>
    obtain ⟨j, w⟩ := p
    simp [tabWfFrom] at h
    simp only [tput]
    split_ifs with h1 h2
    · subst h1; simp [tabWfFrom, hk, hv, h.2]
    · have : k + 1 ≤ j := h2
      simp [tabWfFrom, hk, hv, h.1.2, h.2, this]
    · have h3 : j + 1 ≤ k := by omega
      simp [tabWfFrom, h.1.1, h.1.2, ih h.2 h3]

theorem tdel_wfFrom [DecidableEq α] {d : α} {lo : Nat} {t : Tab α} (h : tabWfFrom d lo t = true) (k : Nat) :
    tabWfFrom d lo (tdel t k) = true := by
  induction t generalizing lo with
  | nil => rfl
  | cons p t ih =>
    obtain ⟨j, w⟩ := p
    simp [tabWfFrom] at h
    simp only [tdel]
    split_ifs with h1
    · exact ih (tabWfFrom_mono (by omega) h.2)
    · simp [tabWfFrom, h.1.1, h.1.2, ih h.2]

theorem tabWf_nil [DecidableEq α] (d : α) : tabWf d ([] : Tab α) = true := rfl

theorem tset_wf [DecidableEq α] {d : α} {t : Tab α} (k : Nat) (v : α) (h : tabWf d t = true) :
    tabWf d (tset d t k v) = true := by
  unfold tset
  split_ifs with hv
  · exact tdel_wfFrom h k
  · exact tput_wfFrom h (Nat.zero_le k) hv

theorem tmod_wf [DecidableEq α] {d : α} {t : Tab α} (k : Nat) (f : α → α) (h : tabWf d t = true) :
    tabWf d (tmod d t k f) = true := tset_wf k _ h

theorem filter_wfFrom [DecidableEq α] {d : α} (q : Nat × α → Bool) {lo : Nat} {t : Tab α} (h : tabWfFrom d lo t = true) :
    tabWfFrom d lo (t.filter q) = true := by
  induction t generalizing lo with
  | nil => rfl
  | cons p t ih =>
    obtain ⟨j, w⟩ := p
    simp [tabWfFrom] at h
    by_cases hq : q (j, w)
    · simp [hq, tabWfFrom, h.1.1, h.1.2, ih h.2]
    · simp only [List.filter_cons, hq]
      exact tabWfFrom_mono (show lo ≤ j + 1 by omega) (ih h.2)

/-- Dropping entries keeps the canonical form. -/
theorem filter_wf [DecidableEq α] {d : α} (q : Nat × α → Bool) {t : Tab α} (h : tabWf d t = true) :
    tabWf d (t.filter q) = true := filter_wfFrom q h

theorem mapFilter_wfFrom {β : Type} [DecidableEq α] [DecidableEq β] {d : α} (e : β) (f : α → β) {lo : Nat} {t : Tab α}
    (h : tabWfFrom d lo t = true) :
    tabWfFrom e lo ((t.map fun q => (q.1, f q.2)).filter fun q => q.2 != e) = true := by
  induction t generalizing lo with
  | nil => rfl
  | cons p t ih =>
    obtain ⟨j, w⟩ := p
    simp [tabWfFrom] at h
    by_cases hq : f w = e
    · simp only [List.map_cons, hq, List.filter_cons, bne_self_eq_false]
      exact tabWfFrom_mono (show lo ≤ j + 1 by omega) (ih h.2)
    · have : (f w != e) = true := by simp [hq]
      simp only [List.map_cons, List.filter_cons, this, if_true]
      simp [tabWfFrom, h.1.1, hq, ih h.2]

/-- Changing every value and dropping what becomes the default keeps the canonical form. -/
theorem mapFilter_wf {β : Type} [DecidableEq α] [DecidableEq β] {d : α} (e : β) (f : α → β) {t : Tab α}
    (h : tabWf d t = true) : tabWf e ((t.map fun q => (q.1, f q.2)).filter fun q => q.2 != e) = true :=
  mapFilter_wfFrom e f h

/-- Equal reads mean equal canonical tables. -/
theorem tab_ext [DecidableEq α] {d : α} {lo : Nat} {t u : Tab α} (ht : tabWfFrom d lo t = true) (hu : tabWfFrom d lo u = true)
    (h : ∀ k, tget d t k = tget d u k) : t = u := by
  induction t generalizing u lo with
  | nil =>
    cases u with
    | nil => rfl
    | cons p u =>
      obtain ⟨j, w⟩ := p
      have := h j
      simp [tabWfFrom] at hu
      simp [tget] at this
      exact absurd this.symm hu.1.2
  | cons p t ih =>
    obtain ⟨i, v⟩ := p
    cases u with
    | nil =>
      have := h i
      simp [tabWfFrom] at ht
      simp [tget] at this
      exact absurd this ht.1.2
    | cons q u =>
      obtain ⟨j, w⟩ := q
      simp [tabWfFrom] at ht hu
      have hij : i = j := by
        rcases lt_trichotomy i j with hl | he | hl
        · have := h i
          have hne : i ≠ j := by omega
          simp [tget, hne, tget_below hu.2 (show i < j + 1 by omega)] at this
          exact absurd this ht.1.2
        · exact he
        · have := h j
          have hne : j ≠ i := by omega
          simp [tget, hne, tget_below ht.2 (show j < i + 1 by omega)] at this
          exact absurd this.symm hu.1.2
      subst hij
      have hvw : v = w := by simpa [tget] using h i
      subst hvw
      have : t = u := ih ht.2 hu.2 fun k => by
        by_cases hk : k = i
        · subst hk; rw [tget_below ht.2 (by omega), tget_below hu.2 (by omega)]
        · simpa [tget, hk] using h k
      rw [this]

/-! ### Byte memory -/

theorem memSet_wf {m : Memory} (a : Nat) (b : Byte) (h : m.wf) : (memSet m a b).wf := tset_wf a b h

theorem memWrite_wf {m : Memory} (a : Nat) (bs : List Byte) (h : m.wf) : (memWrite m a bs).wf := by
  induction bs generalizing m a with
  | nil => exact h
  | cons b bs ih => exact ih (a + 1) (memSet_wf a b h)

theorem memGet_memSet (m : Memory) (a c : Nat) (b : Byte) :
    memGet (memSet m a b) c = if c = a then b else memGet m c := tget_tset m a c b

/-- A write of bytes leaves every address outside them alone. -/
theorem memGet_memWrite_outside (m : Memory) (a c : Nat) (bs : List Byte) (hc : c < a ∨ a + bs.length ≤ c) :
    memGet (memWrite m a bs) c = memGet m c := by
  induction bs generalizing m a with
  | nil => rfl
  | cons b bs ih =>
    simp only [memWrite]
    rw [ih (memSet m a b) (a + 1) (by simp at hc; omega), memGet_memSet]
    simp at hc
    rw [if_neg (by omega)]

/-- A read after a write of bytes gives them back. -/
theorem memGet_memWrite_inside (m : Memory) (a i : Nat) (bs : List Byte) (hi : i < bs.length) :
    memGet (memWrite m a bs) (a + i) = bs[i] := by
  induction bs generalizing m a i with
  | nil => simp at hi
  | cons b bs ih =>
    simp only [memWrite]
    cases i with
    | zero => rw [memGet_memWrite_outside _ _ _ _ (by simp)]; simp [memGet_memSet]
    | succ i =>
      have := ih (memSet m a b) (a + 1) i (by simpa using hi)
      simpa [Nat.add_assoc, Nat.add_comm 1 i] using this

theorem memRead_memWrite (m : Memory) (a : Nat) (bs : List Byte) :
    memRead (memWrite m a bs) a bs.length = bs := by
  induction bs generalizing m a with
  | nil => rfl
  | cons b bs ih =>
    simp only [memWrite, List.length_cons, memRead]
    rw [ih (memSet m a b) (a + 1), memGet_memWrite_outside _ _ _ _ (by simp)]
    simp [memGet_memSet]

end Sys2Proof.Machine
end

