-- ==== Sys2Proof/Laws/State.lean ====
section
/-! SUPPORT. What each update of the state leaves: one lemma per field, true by unfolding, so that no proof unfolds a record
update; and what a read by site gives after it. -/

namespace Sys2Proof.Machine

/-! ### modDie -/

@[simp] theorem State.modDie_variant (s : State) (k : Nat) (f : Die → Die) : (s.modDie k f).variant = s.variant := rfl
@[simp] theorem State.modDie_coupling (s : State) (k : Nat) (f : Die → Die) : (s.modDie k f).coupling = s.coupling := rfl
@[simp] theorem State.modDie_provisioning (s : State) (k : Nat) (f : Die → Die) : (s.modDie k f).provisioning = s.provisioning := rfl
@[simp] theorem State.modDie_serial (s : State) (k : Nat) (f : Die → Die) : (s.modDie k f).serial = s.serial := rfl
@[simp] theorem State.modDie_baseMac (s : State) (k : Nat) (f : Die → Die) : (s.modDie k f).baseMac = s.baseMac := rfl
@[simp] theorem State.modDie_keyId (s : State) (k : Nat) (f : Die → Die) : (s.modDie k f).keyId = s.keyId := rfl
@[simp] theorem State.modDie_keyPublic (s : State) (k : Nat) (f : Die → Die) : (s.modDie k f).keyPublic = s.keyPublic := rfl
@[simp] theorem State.modDie_power (s : State) (k : Nat) (f : Die → Die) : (s.modDie k f).power = s.power := rfl
@[simp] theorem State.modDie_cfg (s : State) (k : Nat) (f : Die → Die) : (s.modDie k f).cfg = s.cfg := rfl
@[simp] theorem State.modDie_time (s : State) (k : Nat) (f : Die → Die) : (s.modDie k f).time = s.time := rfl
@[simp] theorem State.modDie_log (s : State) (k : Nat) (f : Die → Die) : (s.modDie k f).log = s.log := rfl
@[simp] theorem State.modDie_therm (s : State) (k : Nat) (f : Die → Die) : (s.modDie k f).therm = s.therm := rfl
@[simp] theorem State.modDie_fm (s : State) (k : Nat) (f : Die → Die) : (s.modDie k f).fm = s.fm := rfl
@[simp] theorem State.modDie_lantern (s : State) (k : Nat) (f : Die → Die) : (s.modDie k f).lantern = s.lantern := rfl
@[simp] theorem State.modDie_mcEv (s : State) (k : Nat) (f : Die → Die) : (s.modDie k f).mcEv = s.mcEv := rfl
theorem State.modDie_dies (s : State) (k : Nat) (f : Die → Die) : (s.modDie k f).dies = tmod {} s.dies k f := rfl
@[simp] theorem State.modDie_tiles (s : State) (k : Nat) (f : Die → Die) : (s.modDie k f).tiles = s.tiles := rfl
@[simp] theorem State.modDie_stackTab (s : State) (k : Nat) (f : Die → Die) : (s.modDie k f).stackTab = s.stackTab := rfl
@[simp] theorem State.modDie_feedPorts (s : State) (k : Nat) (f : Die → Die) : (s.modDie k f).feedPorts = s.feedPorts := rfl
@[simp] theorem State.modDie_feedIods (s : State) (k : Nat) (f : Die → Die) : (s.modDie k f).feedIods = s.feedIods := rfl
@[simp] theorem State.modDie_hostPorts (s : State) (k : Nat) (f : Die → Die) : (s.modDie k f).hostPorts = s.hostPorts := rfl
@[simp] theorem State.modDie_fns (s : State) (k : Nat) (f : Die → Die) : (s.modDie k f).fns = s.fns := rfl
@[simp] theorem State.modDie_reservoirs (s : State) (k : Nat) (f : Die → Die) : (s.modDie k f).reservoirs = s.reservoirs := rfl
@[simp] theorem State.modDie_engines (s : State) (k : Nat) (f : Die → Die) : (s.modDie k f).engines = s.engines := rfl
@[simp] theorem State.modDie_parts (s : State) (k : Nat) (f : Die → Die) : (s.modDie k f).parts = s.parts := rfl
@[simp] theorem State.modDie_ptSel (s : State) (k : Nat) (f : Die → Die) : (s.modDie k f).ptSel = s.ptSel := rfl
@[simp] theorem State.modDie_entries (s : State) (k : Nat) (f : Die → Die) : (s.modDie k f).entries = s.entries := rfl
@[simp] theorem State.modDie_dram (s : State) (k : Nat) (f : Die → Die) : (s.modDie k f).dram = s.dram := rfl
@[simp] theorem State.modDie_xfers (s : State) (k : Nat) (f : Die → Die) : (s.modDie k f).xfers = s.xfers := rfl
@[simp] theorem State.modDie_releases (s : State) (k : Nat) (f : Die → Die) : (s.modDie k f).releases = s.releases := rfl
@[simp] theorem State.modDie_nextXfer (s : State) (k : Nat) (f : Die → Die) : (s.modDie k f).nextXfer = s.nextXfer := rfl
@[simp] theorem State.modDie_nextOp (s : State) (k : Nat) (f : Die → Die) : (s.modDie k f).nextOp = s.nextOp := rfl
@[simp] theorem State.modDie_latches (s : State) (k : Nat) (f : Die → Die) : (s.modDie k f).latches = s.latches := rfl
@[simp] theorem State.modDie_out (s : State) (k : Nat) (f : Die → Die) : (s.modDie k f).out = s.out := rfl
@[simp] theorem State.modDie_free (s : State) (k : Nat) (f : Die → Die) : (s.modDie k f).free = s.free := rfl
@[simp] theorem State.modDie_pending (s : State) (k : Nat) (f : Die → Die) : (s.modDie k f).pending = s.pending := rfl
@[simp] theorem State.modDie_tile' (s : State) (k j : Nat) (f : Die → Die) : (s.modDie k f).tile j = s.tile j := rfl
@[simp] theorem State.modDie_stack' (s : State) (k j : Nat) (f : Die → Die) : (s.modDie k f).stack j = s.stack j := rfl
@[simp] theorem State.modDie_part' (s : State) (k j : Nat) (f : Die → Die) : (s.modDie k f).part j = s.part j := rfl
@[simp] theorem State.modDie_entry' (s : State) (k j : Nat) (f : Die → Die) : (s.modDie k f).entry j = s.entry j := rfl
@[simp] theorem State.modDie_fnOf' (s : State) (k j : Nat) (f : Die → Die) : (s.modDie k f).fnOf j = s.fnOf j := rfl
@[simp] theorem State.modDie_hport' (s : State) (k j : Nat) (f : Die → Die) : (s.modDie k f).hport j = s.hport j := rfl
@[simp] theorem State.modDie_fport' (s : State) (k j : Nat) (f : Die → Die) : (s.modDie k f).fport j = s.fport j := rfl
@[simp] theorem State.modDie_fiod' (s : State) (k j : Nat) (f : Die → Die) : (s.modDie k f).fiod j = s.fiod j := rfl
@[simp] theorem State.modDie_res' (s : State) (k j : Nat) (f : Die → Die) : (s.modDie k f).res j = s.res j := rfl
@[simp] theorem State.modDie_engine' (s : State) (k j : Nat) (f : Die → Die) : (s.modDie k f).engine j = s.engine j := rfl
@[simp] theorem State.modDie_die_self (s : State) (k : Nat) (f : Die → Die) :
    (s.modDie k f).die k = f (s.die k) := tget_tmod_self _ k f
theorem State.modDie_die_other (s : State) {k j : Nat} (hj : j ≠ k) (f : Die → Die) :
    (s.modDie k f).die j = s.die j := tget_tmod_other _ hj f

/-! ### modTile -/

@[simp] theorem State.modTile_variant (s : State) (k : Nat) (f : Tile → Tile) : (s.modTile k f).variant = s.variant := rfl
@[simp] theorem State.modTile_coupling (s : State) (k : Nat) (f : Tile → Tile) : (s.modTile k f).coupling = s.coupling := rfl
@[simp] theorem State.modTile_provisioning (s : State) (k : Nat) (f : Tile → Tile) : (s.modTile k f).provisioning = s.provisioning := rfl
@[simp] theorem State.modTile_serial (s : State) (k : Nat) (f : Tile → Tile) : (s.modTile k f).serial = s.serial := rfl
@[simp] theorem State.modTile_baseMac (s : State) (k : Nat) (f : Tile → Tile) : (s.modTile k f).baseMac = s.baseMac := rfl
@[simp] theorem State.modTile_keyId (s : State) (k : Nat) (f : Tile → Tile) : (s.modTile k f).keyId = s.keyId := rfl
@[simp] theorem State.modTile_keyPublic (s : State) (k : Nat) (f : Tile → Tile) : (s.modTile k f).keyPublic = s.keyPublic := rfl
@[simp] theorem State.modTile_power (s : State) (k : Nat) (f : Tile → Tile) : (s.modTile k f).power = s.power := rfl
@[simp] theorem State.modTile_cfg (s : State) (k : Nat) (f : Tile → Tile) : (s.modTile k f).cfg = s.cfg := rfl
@[simp] theorem State.modTile_time (s : State) (k : Nat) (f : Tile → Tile) : (s.modTile k f).time = s.time := rfl
@[simp] theorem State.modTile_log (s : State) (k : Nat) (f : Tile → Tile) : (s.modTile k f).log = s.log := rfl
@[simp] theorem State.modTile_therm (s : State) (k : Nat) (f : Tile → Tile) : (s.modTile k f).therm = s.therm := rfl
@[simp] theorem State.modTile_fm (s : State) (k : Nat) (f : Tile → Tile) : (s.modTile k f).fm = s.fm := rfl
@[simp] theorem State.modTile_lantern (s : State) (k : Nat) (f : Tile → Tile) : (s.modTile k f).lantern = s.lantern := rfl
@[simp] theorem State.modTile_mcEv (s : State) (k : Nat) (f : Tile → Tile) : (s.modTile k f).mcEv = s.mcEv := rfl
@[simp] theorem State.modTile_dies (s : State) (k : Nat) (f : Tile → Tile) : (s.modTile k f).dies = s.dies := rfl
theorem State.modTile_tiles (s : State) (k : Nat) (f : Tile → Tile) : (s.modTile k f).tiles = tmod {} s.tiles k f := rfl
@[simp] theorem State.modTile_stackTab (s : State) (k : Nat) (f : Tile → Tile) : (s.modTile k f).stackTab = s.stackTab := rfl
@[simp] theorem State.modTile_feedPorts (s : State) (k : Nat) (f : Tile → Tile) : (s.modTile k f).feedPorts = s.feedPorts := rfl
@[simp] theorem State.modTile_feedIods (s : State) (k : Nat) (f : Tile → Tile) : (s.modTile k f).feedIods = s.feedIods := rfl
@[simp] theorem State.modTile_hostPorts (s : State) (k : Nat) (f : Tile → Tile) : (s.modTile k f).hostPorts = s.hostPorts := rfl
@[simp] theorem State.modTile_fns (s : State) (k : Nat) (f : Tile → Tile) : (s.modTile k f).fns = s.fns := rfl
@[simp] theorem State.modTile_reservoirs (s : State) (k : Nat) (f : Tile → Tile) : (s.modTile k f).reservoirs = s.reservoirs := rfl
@[simp] theorem State.modTile_engines (s : State) (k : Nat) (f : Tile → Tile) : (s.modTile k f).engines = s.engines := rfl
@[simp] theorem State.modTile_parts (s : State) (k : Nat) (f : Tile → Tile) : (s.modTile k f).parts = s.parts := rfl
@[simp] theorem State.modTile_ptSel (s : State) (k : Nat) (f : Tile → Tile) : (s.modTile k f).ptSel = s.ptSel := rfl
@[simp] theorem State.modTile_entries (s : State) (k : Nat) (f : Tile → Tile) : (s.modTile k f).entries = s.entries := rfl
@[simp] theorem State.modTile_dram (s : State) (k : Nat) (f : Tile → Tile) : (s.modTile k f).dram = s.dram := rfl
@[simp] theorem State.modTile_xfers (s : State) (k : Nat) (f : Tile → Tile) : (s.modTile k f).xfers = s.xfers := rfl
@[simp] theorem State.modTile_releases (s : State) (k : Nat) (f : Tile → Tile) : (s.modTile k f).releases = s.releases := rfl
@[simp] theorem State.modTile_nextXfer (s : State) (k : Nat) (f : Tile → Tile) : (s.modTile k f).nextXfer = s.nextXfer := rfl
@[simp] theorem State.modTile_nextOp (s : State) (k : Nat) (f : Tile → Tile) : (s.modTile k f).nextOp = s.nextOp := rfl
@[simp] theorem State.modTile_latches (s : State) (k : Nat) (f : Tile → Tile) : (s.modTile k f).latches = s.latches := rfl
@[simp] theorem State.modTile_out (s : State) (k : Nat) (f : Tile → Tile) : (s.modTile k f).out = s.out := rfl
@[simp] theorem State.modTile_free (s : State) (k : Nat) (f : Tile → Tile) : (s.modTile k f).free = s.free := rfl
@[simp] theorem State.modTile_pending (s : State) (k : Nat) (f : Tile → Tile) : (s.modTile k f).pending = s.pending := rfl
@[simp] theorem State.modTile_die' (s : State) (k j : Nat) (f : Tile → Tile) : (s.modTile k f).die j = s.die j := rfl
@[simp] theorem State.modTile_stack' (s : State) (k j : Nat) (f : Tile → Tile) : (s.modTile k f).stack j = s.stack j := rfl
@[simp] theorem State.modTile_part' (s : State) (k j : Nat) (f : Tile → Tile) : (s.modTile k f).part j = s.part j := rfl
@[simp] theorem State.modTile_entry' (s : State) (k j : Nat) (f : Tile → Tile) : (s.modTile k f).entry j = s.entry j := rfl
@[simp] theorem State.modTile_fnOf' (s : State) (k j : Nat) (f : Tile → Tile) : (s.modTile k f).fnOf j = s.fnOf j := rfl
@[simp] theorem State.modTile_hport' (s : State) (k j : Nat) (f : Tile → Tile) : (s.modTile k f).hport j = s.hport j := rfl
@[simp] theorem State.modTile_fport' (s : State) (k j : Nat) (f : Tile → Tile) : (s.modTile k f).fport j = s.fport j := rfl
@[simp] theorem State.modTile_fiod' (s : State) (k j : Nat) (f : Tile → Tile) : (s.modTile k f).fiod j = s.fiod j := rfl
@[simp] theorem State.modTile_res' (s : State) (k j : Nat) (f : Tile → Tile) : (s.modTile k f).res j = s.res j := rfl
@[simp] theorem State.modTile_engine' (s : State) (k j : Nat) (f : Tile → Tile) : (s.modTile k f).engine j = s.engine j := rfl
@[simp] theorem State.modTile_tile_self (s : State) (k : Nat) (f : Tile → Tile) :
    (s.modTile k f).tile k = f (s.tile k) := tget_tmod_self _ k f
theorem State.modTile_tile_other (s : State) {k j : Nat} (hj : j ≠ k) (f : Tile → Tile) :
    (s.modTile k f).tile j = s.tile j := tget_tmod_other _ hj f

/-! ### modStack -/

@[simp] theorem State.modStack_variant (s : State) (k : Nat) (f : Stack → Stack) : (s.modStack k f).variant = s.variant := rfl
@[simp] theorem State.modStack_coupling (s : State) (k : Nat) (f : Stack → Stack) : (s.modStack k f).coupling = s.coupling := rfl
@[simp] theorem State.modStack_provisioning (s : State) (k : Nat) (f : Stack → Stack) : (s.modStack k f).provisioning = s.provisioning := rfl
@[simp] theorem State.modStack_serial (s : State) (k : Nat) (f : Stack → Stack) : (s.modStack k f).serial = s.serial := rfl
@[simp] theorem State.modStack_baseMac (s : State) (k : Nat) (f : Stack → Stack) : (s.modStack k f).baseMac = s.baseMac := rfl
@[simp] theorem State.modStack_keyId (s : State) (k : Nat) (f : Stack → Stack) : (s.modStack k f).keyId = s.keyId := rfl
@[simp] theorem State.modStack_keyPublic (s : State) (k : Nat) (f : Stack → Stack) : (s.modStack k f).keyPublic = s.keyPublic := rfl
@[simp] theorem State.modStack_power (s : State) (k : Nat) (f : Stack → Stack) : (s.modStack k f).power = s.power := rfl
@[simp] theorem State.modStack_cfg (s : State) (k : Nat) (f : Stack → Stack) : (s.modStack k f).cfg = s.cfg := rfl
@[simp] theorem State.modStack_time (s : State) (k : Nat) (f : Stack → Stack) : (s.modStack k f).time = s.time := rfl
@[simp] theorem State.modStack_log (s : State) (k : Nat) (f : Stack → Stack) : (s.modStack k f).log = s.log := rfl
@[simp] theorem State.modStack_therm (s : State) (k : Nat) (f : Stack → Stack) : (s.modStack k f).therm = s.therm := rfl
@[simp] theorem State.modStack_fm (s : State) (k : Nat) (f : Stack → Stack) : (s.modStack k f).fm = s.fm := rfl
@[simp] theorem State.modStack_lantern (s : State) (k : Nat) (f : Stack → Stack) : (s.modStack k f).lantern = s.lantern := rfl
@[simp] theorem State.modStack_mcEv (s : State) (k : Nat) (f : Stack → Stack) : (s.modStack k f).mcEv = s.mcEv := rfl
@[simp] theorem State.modStack_dies (s : State) (k : Nat) (f : Stack → Stack) : (s.modStack k f).dies = s.dies := rfl
@[simp] theorem State.modStack_tiles (s : State) (k : Nat) (f : Stack → Stack) : (s.modStack k f).tiles = s.tiles := rfl
theorem State.modStack_stackTab (s : State) (k : Nat) (f : Stack → Stack) : (s.modStack k f).stackTab = tmod {} s.stackTab k f := rfl
@[simp] theorem State.modStack_feedPorts (s : State) (k : Nat) (f : Stack → Stack) : (s.modStack k f).feedPorts = s.feedPorts := rfl
@[simp] theorem State.modStack_feedIods (s : State) (k : Nat) (f : Stack → Stack) : (s.modStack k f).feedIods = s.feedIods := rfl
@[simp] theorem State.modStack_hostPorts (s : State) (k : Nat) (f : Stack → Stack) : (s.modStack k f).hostPorts = s.hostPorts := rfl
@[simp] theorem State.modStack_fns (s : State) (k : Nat) (f : Stack → Stack) : (s.modStack k f).fns = s.fns := rfl
@[simp] theorem State.modStack_reservoirs (s : State) (k : Nat) (f : Stack → Stack) : (s.modStack k f).reservoirs = s.reservoirs := rfl
@[simp] theorem State.modStack_engines (s : State) (k : Nat) (f : Stack → Stack) : (s.modStack k f).engines = s.engines := rfl
@[simp] theorem State.modStack_parts (s : State) (k : Nat) (f : Stack → Stack) : (s.modStack k f).parts = s.parts := rfl
@[simp] theorem State.modStack_ptSel (s : State) (k : Nat) (f : Stack → Stack) : (s.modStack k f).ptSel = s.ptSel := rfl
@[simp] theorem State.modStack_entries (s : State) (k : Nat) (f : Stack → Stack) : (s.modStack k f).entries = s.entries := rfl
@[simp] theorem State.modStack_dram (s : State) (k : Nat) (f : Stack → Stack) : (s.modStack k f).dram = s.dram := rfl
@[simp] theorem State.modStack_xfers (s : State) (k : Nat) (f : Stack → Stack) : (s.modStack k f).xfers = s.xfers := rfl
@[simp] theorem State.modStack_releases (s : State) (k : Nat) (f : Stack → Stack) : (s.modStack k f).releases = s.releases := rfl
@[simp] theorem State.modStack_nextXfer (s : State) (k : Nat) (f : Stack → Stack) : (s.modStack k f).nextXfer = s.nextXfer := rfl
@[simp] theorem State.modStack_nextOp (s : State) (k : Nat) (f : Stack → Stack) : (s.modStack k f).nextOp = s.nextOp := rfl
@[simp] theorem State.modStack_latches (s : State) (k : Nat) (f : Stack → Stack) : (s.modStack k f).latches = s.latches := rfl
@[simp] theorem State.modStack_out (s : State) (k : Nat) (f : Stack → Stack) : (s.modStack k f).out = s.out := rfl
@[simp] theorem State.modStack_free (s : State) (k : Nat) (f : Stack → Stack) : (s.modStack k f).free = s.free := rfl
@[simp] theorem State.modStack_pending (s : State) (k : Nat) (f : Stack → Stack) : (s.modStack k f).pending = s.pending := rfl
@[simp] theorem State.modStack_die' (s : State) (k j : Nat) (f : Stack → Stack) : (s.modStack k f).die j = s.die j := rfl
@[simp] theorem State.modStack_tile' (s : State) (k j : Nat) (f : Stack → Stack) : (s.modStack k f).tile j = s.tile j := rfl
@[simp] theorem State.modStack_part' (s : State) (k j : Nat) (f : Stack → Stack) : (s.modStack k f).part j = s.part j := rfl
@[simp] theorem State.modStack_entry' (s : State) (k j : Nat) (f : Stack → Stack) : (s.modStack k f).entry j = s.entry j := rfl
@[simp] theorem State.modStack_fnOf' (s : State) (k j : Nat) (f : Stack → Stack) : (s.modStack k f).fnOf j = s.fnOf j := rfl
@[simp] theorem State.modStack_hport' (s : State) (k j : Nat) (f : Stack → Stack) : (s.modStack k f).hport j = s.hport j := rfl
@[simp] theorem State.modStack_fport' (s : State) (k j : Nat) (f : Stack → Stack) : (s.modStack k f).fport j = s.fport j := rfl
@[simp] theorem State.modStack_fiod' (s : State) (k j : Nat) (f : Stack → Stack) : (s.modStack k f).fiod j = s.fiod j := rfl
@[simp] theorem State.modStack_res' (s : State) (k j : Nat) (f : Stack → Stack) : (s.modStack k f).res j = s.res j := rfl
@[simp] theorem State.modStack_engine' (s : State) (k j : Nat) (f : Stack → Stack) : (s.modStack k f).engine j = s.engine j := rfl
@[simp] theorem State.modStack_stack_self (s : State) (k : Nat) (f : Stack → Stack) :
    (s.modStack k f).stack k = f (s.stack k) := tget_tmod_self _ k f
theorem State.modStack_stack_other (s : State) {k j : Nat} (hj : j ≠ k) (f : Stack → Stack) :
    (s.modStack k f).stack j = s.stack j := tget_tmod_other _ hj f

/-! ### modPart -/

@[simp] theorem State.modPart_variant (s : State) (k : Nat) (f : Part → Part) : (s.modPart k f).variant = s.variant := rfl
@[simp] theorem State.modPart_coupling (s : State) (k : Nat) (f : Part → Part) : (s.modPart k f).coupling = s.coupling := rfl
@[simp] theorem State.modPart_provisioning (s : State) (k : Nat) (f : Part → Part) : (s.modPart k f).provisioning = s.provisioning := rfl
@[simp] theorem State.modPart_serial (s : State) (k : Nat) (f : Part → Part) : (s.modPart k f).serial = s.serial := rfl
@[simp] theorem State.modPart_baseMac (s : State) (k : Nat) (f : Part → Part) : (s.modPart k f).baseMac = s.baseMac := rfl
@[simp] theorem State.modPart_keyId (s : State) (k : Nat) (f : Part → Part) : (s.modPart k f).keyId = s.keyId := rfl
@[simp] theorem State.modPart_keyPublic (s : State) (k : Nat) (f : Part → Part) : (s.modPart k f).keyPublic = s.keyPublic := rfl
@[simp] theorem State.modPart_power (s : State) (k : Nat) (f : Part → Part) : (s.modPart k f).power = s.power := rfl
@[simp] theorem State.modPart_cfg (s : State) (k : Nat) (f : Part → Part) : (s.modPart k f).cfg = s.cfg := rfl
@[simp] theorem State.modPart_time (s : State) (k : Nat) (f : Part → Part) : (s.modPart k f).time = s.time := rfl
@[simp] theorem State.modPart_log (s : State) (k : Nat) (f : Part → Part) : (s.modPart k f).log = s.log := rfl
@[simp] theorem State.modPart_therm (s : State) (k : Nat) (f : Part → Part) : (s.modPart k f).therm = s.therm := rfl
@[simp] theorem State.modPart_fm (s : State) (k : Nat) (f : Part → Part) : (s.modPart k f).fm = s.fm := rfl
@[simp] theorem State.modPart_lantern (s : State) (k : Nat) (f : Part → Part) : (s.modPart k f).lantern = s.lantern := rfl
@[simp] theorem State.modPart_mcEv (s : State) (k : Nat) (f : Part → Part) : (s.modPart k f).mcEv = s.mcEv := rfl
@[simp] theorem State.modPart_dies (s : State) (k : Nat) (f : Part → Part) : (s.modPart k f).dies = s.dies := rfl
@[simp] theorem State.modPart_tiles (s : State) (k : Nat) (f : Part → Part) : (s.modPart k f).tiles = s.tiles := rfl
@[simp] theorem State.modPart_stackTab (s : State) (k : Nat) (f : Part → Part) : (s.modPart k f).stackTab = s.stackTab := rfl
@[simp] theorem State.modPart_feedPorts (s : State) (k : Nat) (f : Part → Part) : (s.modPart k f).feedPorts = s.feedPorts := rfl
@[simp] theorem State.modPart_feedIods (s : State) (k : Nat) (f : Part → Part) : (s.modPart k f).feedIods = s.feedIods := rfl
@[simp] theorem State.modPart_hostPorts (s : State) (k : Nat) (f : Part → Part) : (s.modPart k f).hostPorts = s.hostPorts := rfl
@[simp] theorem State.modPart_fns (s : State) (k : Nat) (f : Part → Part) : (s.modPart k f).fns = s.fns := rfl
@[simp] theorem State.modPart_reservoirs (s : State) (k : Nat) (f : Part → Part) : (s.modPart k f).reservoirs = s.reservoirs := rfl
@[simp] theorem State.modPart_engines (s : State) (k : Nat) (f : Part → Part) : (s.modPart k f).engines = s.engines := rfl
theorem State.modPart_parts (s : State) (k : Nat) (f : Part → Part) : (s.modPart k f).parts = tmod {} s.parts k f := rfl
@[simp] theorem State.modPart_ptSel (s : State) (k : Nat) (f : Part → Part) : (s.modPart k f).ptSel = s.ptSel := rfl
@[simp] theorem State.modPart_entries (s : State) (k : Nat) (f : Part → Part) : (s.modPart k f).entries = s.entries := rfl
@[simp] theorem State.modPart_dram (s : State) (k : Nat) (f : Part → Part) : (s.modPart k f).dram = s.dram := rfl
@[simp] theorem State.modPart_xfers (s : State) (k : Nat) (f : Part → Part) : (s.modPart k f).xfers = s.xfers := rfl
@[simp] theorem State.modPart_releases (s : State) (k : Nat) (f : Part → Part) : (s.modPart k f).releases = s.releases := rfl
@[simp] theorem State.modPart_nextXfer (s : State) (k : Nat) (f : Part → Part) : (s.modPart k f).nextXfer = s.nextXfer := rfl
@[simp] theorem State.modPart_nextOp (s : State) (k : Nat) (f : Part → Part) : (s.modPart k f).nextOp = s.nextOp := rfl
@[simp] theorem State.modPart_latches (s : State) (k : Nat) (f : Part → Part) : (s.modPart k f).latches = s.latches := rfl
@[simp] theorem State.modPart_out (s : State) (k : Nat) (f : Part → Part) : (s.modPart k f).out = s.out := rfl
@[simp] theorem State.modPart_free (s : State) (k : Nat) (f : Part → Part) : (s.modPart k f).free = s.free := rfl
@[simp] theorem State.modPart_pending (s : State) (k : Nat) (f : Part → Part) : (s.modPart k f).pending = s.pending := rfl
@[simp] theorem State.modPart_die' (s : State) (k j : Nat) (f : Part → Part) : (s.modPart k f).die j = s.die j := rfl
@[simp] theorem State.modPart_tile' (s : State) (k j : Nat) (f : Part → Part) : (s.modPart k f).tile j = s.tile j := rfl
@[simp] theorem State.modPart_stack' (s : State) (k j : Nat) (f : Part → Part) : (s.modPart k f).stack j = s.stack j := rfl
@[simp] theorem State.modPart_entry' (s : State) (k j : Nat) (f : Part → Part) : (s.modPart k f).entry j = s.entry j := rfl
@[simp] theorem State.modPart_fnOf' (s : State) (k j : Nat) (f : Part → Part) : (s.modPart k f).fnOf j = s.fnOf j := rfl
@[simp] theorem State.modPart_hport' (s : State) (k j : Nat) (f : Part → Part) : (s.modPart k f).hport j = s.hport j := rfl
@[simp] theorem State.modPart_fport' (s : State) (k j : Nat) (f : Part → Part) : (s.modPart k f).fport j = s.fport j := rfl
@[simp] theorem State.modPart_fiod' (s : State) (k j : Nat) (f : Part → Part) : (s.modPart k f).fiod j = s.fiod j := rfl
@[simp] theorem State.modPart_res' (s : State) (k j : Nat) (f : Part → Part) : (s.modPart k f).res j = s.res j := rfl
@[simp] theorem State.modPart_engine' (s : State) (k j : Nat) (f : Part → Part) : (s.modPart k f).engine j = s.engine j := rfl
@[simp] theorem State.modPart_part_self (s : State) (k : Nat) (f : Part → Part) :
    (s.modPart k f).part k = f (s.part k) := tget_tmod_self _ k f
theorem State.modPart_part_other (s : State) {k j : Nat} (hj : j ≠ k) (f : Part → Part) :
    (s.modPart k f).part j = s.part j := tget_tmod_other _ hj f

/-! ### modEntry -/

@[simp] theorem State.modEntry_variant (s : State) (k : Nat) (f : Entry → Entry) : (s.modEntry k f).variant = s.variant := rfl
@[simp] theorem State.modEntry_coupling (s : State) (k : Nat) (f : Entry → Entry) : (s.modEntry k f).coupling = s.coupling := rfl
@[simp] theorem State.modEntry_provisioning (s : State) (k : Nat) (f : Entry → Entry) : (s.modEntry k f).provisioning = s.provisioning := rfl
@[simp] theorem State.modEntry_serial (s : State) (k : Nat) (f : Entry → Entry) : (s.modEntry k f).serial = s.serial := rfl
@[simp] theorem State.modEntry_baseMac (s : State) (k : Nat) (f : Entry → Entry) : (s.modEntry k f).baseMac = s.baseMac := rfl
@[simp] theorem State.modEntry_keyId (s : State) (k : Nat) (f : Entry → Entry) : (s.modEntry k f).keyId = s.keyId := rfl
@[simp] theorem State.modEntry_keyPublic (s : State) (k : Nat) (f : Entry → Entry) : (s.modEntry k f).keyPublic = s.keyPublic := rfl
@[simp] theorem State.modEntry_power (s : State) (k : Nat) (f : Entry → Entry) : (s.modEntry k f).power = s.power := rfl
@[simp] theorem State.modEntry_cfg (s : State) (k : Nat) (f : Entry → Entry) : (s.modEntry k f).cfg = s.cfg := rfl
@[simp] theorem State.modEntry_time (s : State) (k : Nat) (f : Entry → Entry) : (s.modEntry k f).time = s.time := rfl
@[simp] theorem State.modEntry_log (s : State) (k : Nat) (f : Entry → Entry) : (s.modEntry k f).log = s.log := rfl
@[simp] theorem State.modEntry_therm (s : State) (k : Nat) (f : Entry → Entry) : (s.modEntry k f).therm = s.therm := rfl
@[simp] theorem State.modEntry_fm (s : State) (k : Nat) (f : Entry → Entry) : (s.modEntry k f).fm = s.fm := rfl
@[simp] theorem State.modEntry_lantern (s : State) (k : Nat) (f : Entry → Entry) : (s.modEntry k f).lantern = s.lantern := rfl
@[simp] theorem State.modEntry_mcEv (s : State) (k : Nat) (f : Entry → Entry) : (s.modEntry k f).mcEv = s.mcEv := rfl
@[simp] theorem State.modEntry_dies (s : State) (k : Nat) (f : Entry → Entry) : (s.modEntry k f).dies = s.dies := rfl
@[simp] theorem State.modEntry_tiles (s : State) (k : Nat) (f : Entry → Entry) : (s.modEntry k f).tiles = s.tiles := rfl
@[simp] theorem State.modEntry_stackTab (s : State) (k : Nat) (f : Entry → Entry) : (s.modEntry k f).stackTab = s.stackTab := rfl
@[simp] theorem State.modEntry_feedPorts (s : State) (k : Nat) (f : Entry → Entry) : (s.modEntry k f).feedPorts = s.feedPorts := rfl
@[simp] theorem State.modEntry_feedIods (s : State) (k : Nat) (f : Entry → Entry) : (s.modEntry k f).feedIods = s.feedIods := rfl
@[simp] theorem State.modEntry_hostPorts (s : State) (k : Nat) (f : Entry → Entry) : (s.modEntry k f).hostPorts = s.hostPorts := rfl
@[simp] theorem State.modEntry_fns (s : State) (k : Nat) (f : Entry → Entry) : (s.modEntry k f).fns = s.fns := rfl
@[simp] theorem State.modEntry_reservoirs (s : State) (k : Nat) (f : Entry → Entry) : (s.modEntry k f).reservoirs = s.reservoirs := rfl
@[simp] theorem State.modEntry_engines (s : State) (k : Nat) (f : Entry → Entry) : (s.modEntry k f).engines = s.engines := rfl
@[simp] theorem State.modEntry_parts (s : State) (k : Nat) (f : Entry → Entry) : (s.modEntry k f).parts = s.parts := rfl
@[simp] theorem State.modEntry_ptSel (s : State) (k : Nat) (f : Entry → Entry) : (s.modEntry k f).ptSel = s.ptSel := rfl
theorem State.modEntry_entries (s : State) (k : Nat) (f : Entry → Entry) : (s.modEntry k f).entries = tmod {} s.entries k f := rfl
@[simp] theorem State.modEntry_dram (s : State) (k : Nat) (f : Entry → Entry) : (s.modEntry k f).dram = s.dram := rfl
@[simp] theorem State.modEntry_xfers (s : State) (k : Nat) (f : Entry → Entry) : (s.modEntry k f).xfers = s.xfers := rfl
@[simp] theorem State.modEntry_releases (s : State) (k : Nat) (f : Entry → Entry) : (s.modEntry k f).releases = s.releases := rfl
@[simp] theorem State.modEntry_nextXfer (s : State) (k : Nat) (f : Entry → Entry) : (s.modEntry k f).nextXfer = s.nextXfer := rfl
@[simp] theorem State.modEntry_nextOp (s : State) (k : Nat) (f : Entry → Entry) : (s.modEntry k f).nextOp = s.nextOp := rfl
@[simp] theorem State.modEntry_latches (s : State) (k : Nat) (f : Entry → Entry) : (s.modEntry k f).latches = s.latches := rfl
@[simp] theorem State.modEntry_out (s : State) (k : Nat) (f : Entry → Entry) : (s.modEntry k f).out = s.out := rfl
@[simp] theorem State.modEntry_free (s : State) (k : Nat) (f : Entry → Entry) : (s.modEntry k f).free = s.free := rfl
@[simp] theorem State.modEntry_pending (s : State) (k : Nat) (f : Entry → Entry) : (s.modEntry k f).pending = s.pending := rfl
@[simp] theorem State.modEntry_die' (s : State) (k j : Nat) (f : Entry → Entry) : (s.modEntry k f).die j = s.die j := rfl
@[simp] theorem State.modEntry_tile' (s : State) (k j : Nat) (f : Entry → Entry) : (s.modEntry k f).tile j = s.tile j := rfl
@[simp] theorem State.modEntry_stack' (s : State) (k j : Nat) (f : Entry → Entry) : (s.modEntry k f).stack j = s.stack j := rfl
@[simp] theorem State.modEntry_part' (s : State) (k j : Nat) (f : Entry → Entry) : (s.modEntry k f).part j = s.part j := rfl
@[simp] theorem State.modEntry_fnOf' (s : State) (k j : Nat) (f : Entry → Entry) : (s.modEntry k f).fnOf j = s.fnOf j := rfl
@[simp] theorem State.modEntry_hport' (s : State) (k j : Nat) (f : Entry → Entry) : (s.modEntry k f).hport j = s.hport j := rfl
@[simp] theorem State.modEntry_fport' (s : State) (k j : Nat) (f : Entry → Entry) : (s.modEntry k f).fport j = s.fport j := rfl
@[simp] theorem State.modEntry_fiod' (s : State) (k j : Nat) (f : Entry → Entry) : (s.modEntry k f).fiod j = s.fiod j := rfl
@[simp] theorem State.modEntry_res' (s : State) (k j : Nat) (f : Entry → Entry) : (s.modEntry k f).res j = s.res j := rfl
@[simp] theorem State.modEntry_engine' (s : State) (k j : Nat) (f : Entry → Entry) : (s.modEntry k f).engine j = s.engine j := rfl
@[simp] theorem State.modEntry_entry_self (s : State) (k : Nat) (f : Entry → Entry) :
    (s.modEntry k f).entry k = f (s.entry k) := tget_tmod_self _ k f
theorem State.modEntry_entry_other (s : State) {k j : Nat} (hj : j ≠ k) (f : Entry → Entry) :
    (s.modEntry k f).entry j = s.entry j := tget_tmod_other _ hj f

/-! ### modFn -/

@[simp] theorem State.modFn_variant (s : State) (k : Nat) (f : Fn → Fn) : (s.modFn k f).variant = s.variant := rfl
@[simp] theorem State.modFn_coupling (s : State) (k : Nat) (f : Fn → Fn) : (s.modFn k f).coupling = s.coupling := rfl
@[simp] theorem State.modFn_provisioning (s : State) (k : Nat) (f : Fn → Fn) : (s.modFn k f).provisioning = s.provisioning := rfl
@[simp] theorem State.modFn_serial (s : State) (k : Nat) (f : Fn → Fn) : (s.modFn k f).serial = s.serial := rfl
@[simp] theorem State.modFn_baseMac (s : State) (k : Nat) (f : Fn → Fn) : (s.modFn k f).baseMac = s.baseMac := rfl
@[simp] theorem State.modFn_keyId (s : State) (k : Nat) (f : Fn → Fn) : (s.modFn k f).keyId = s.keyId := rfl
@[simp] theorem State.modFn_keyPublic (s : State) (k : Nat) (f : Fn → Fn) : (s.modFn k f).keyPublic = s.keyPublic := rfl
@[simp] theorem State.modFn_power (s : State) (k : Nat) (f : Fn → Fn) : (s.modFn k f).power = s.power := rfl
@[simp] theorem State.modFn_cfg (s : State) (k : Nat) (f : Fn → Fn) : (s.modFn k f).cfg = s.cfg := rfl
@[simp] theorem State.modFn_time (s : State) (k : Nat) (f : Fn → Fn) : (s.modFn k f).time = s.time := rfl
@[simp] theorem State.modFn_log (s : State) (k : Nat) (f : Fn → Fn) : (s.modFn k f).log = s.log := rfl
@[simp] theorem State.modFn_therm (s : State) (k : Nat) (f : Fn → Fn) : (s.modFn k f).therm = s.therm := rfl
@[simp] theorem State.modFn_fm (s : State) (k : Nat) (f : Fn → Fn) : (s.modFn k f).fm = s.fm := rfl
@[simp] theorem State.modFn_lantern (s : State) (k : Nat) (f : Fn → Fn) : (s.modFn k f).lantern = s.lantern := rfl
@[simp] theorem State.modFn_mcEv (s : State) (k : Nat) (f : Fn → Fn) : (s.modFn k f).mcEv = s.mcEv := rfl
@[simp] theorem State.modFn_dies (s : State) (k : Nat) (f : Fn → Fn) : (s.modFn k f).dies = s.dies := rfl
@[simp] theorem State.modFn_tiles (s : State) (k : Nat) (f : Fn → Fn) : (s.modFn k f).tiles = s.tiles := rfl
@[simp] theorem State.modFn_stackTab (s : State) (k : Nat) (f : Fn → Fn) : (s.modFn k f).stackTab = s.stackTab := rfl
@[simp] theorem State.modFn_feedPorts (s : State) (k : Nat) (f : Fn → Fn) : (s.modFn k f).feedPorts = s.feedPorts := rfl
@[simp] theorem State.modFn_feedIods (s : State) (k : Nat) (f : Fn → Fn) : (s.modFn k f).feedIods = s.feedIods := rfl
@[simp] theorem State.modFn_hostPorts (s : State) (k : Nat) (f : Fn → Fn) : (s.modFn k f).hostPorts = s.hostPorts := rfl
theorem State.modFn_fns (s : State) (k : Nat) (f : Fn → Fn) : (s.modFn k f).fns = tmod {} s.fns k f := rfl
@[simp] theorem State.modFn_reservoirs (s : State) (k : Nat) (f : Fn → Fn) : (s.modFn k f).reservoirs = s.reservoirs := rfl
@[simp] theorem State.modFn_engines (s : State) (k : Nat) (f : Fn → Fn) : (s.modFn k f).engines = s.engines := rfl
@[simp] theorem State.modFn_parts (s : State) (k : Nat) (f : Fn → Fn) : (s.modFn k f).parts = s.parts := rfl
@[simp] theorem State.modFn_ptSel (s : State) (k : Nat) (f : Fn → Fn) : (s.modFn k f).ptSel = s.ptSel := rfl
@[simp] theorem State.modFn_entries (s : State) (k : Nat) (f : Fn → Fn) : (s.modFn k f).entries = s.entries := rfl
@[simp] theorem State.modFn_dram (s : State) (k : Nat) (f : Fn → Fn) : (s.modFn k f).dram = s.dram := rfl
@[simp] theorem State.modFn_xfers (s : State) (k : Nat) (f : Fn → Fn) : (s.modFn k f).xfers = s.xfers := rfl
@[simp] theorem State.modFn_releases (s : State) (k : Nat) (f : Fn → Fn) : (s.modFn k f).releases = s.releases := rfl
@[simp] theorem State.modFn_nextXfer (s : State) (k : Nat) (f : Fn → Fn) : (s.modFn k f).nextXfer = s.nextXfer := rfl
@[simp] theorem State.modFn_nextOp (s : State) (k : Nat) (f : Fn → Fn) : (s.modFn k f).nextOp = s.nextOp := rfl
@[simp] theorem State.modFn_latches (s : State) (k : Nat) (f : Fn → Fn) : (s.modFn k f).latches = s.latches := rfl
@[simp] theorem State.modFn_out (s : State) (k : Nat) (f : Fn → Fn) : (s.modFn k f).out = s.out := rfl
@[simp] theorem State.modFn_free (s : State) (k : Nat) (f : Fn → Fn) : (s.modFn k f).free = s.free := rfl
@[simp] theorem State.modFn_pending (s : State) (k : Nat) (f : Fn → Fn) : (s.modFn k f).pending = s.pending := rfl
@[simp] theorem State.modFn_die' (s : State) (k j : Nat) (f : Fn → Fn) : (s.modFn k f).die j = s.die j := rfl
@[simp] theorem State.modFn_tile' (s : State) (k j : Nat) (f : Fn → Fn) : (s.modFn k f).tile j = s.tile j := rfl
@[simp] theorem State.modFn_stack' (s : State) (k j : Nat) (f : Fn → Fn) : (s.modFn k f).stack j = s.stack j := rfl
@[simp] theorem State.modFn_part' (s : State) (k j : Nat) (f : Fn → Fn) : (s.modFn k f).part j = s.part j := rfl
@[simp] theorem State.modFn_entry' (s : State) (k j : Nat) (f : Fn → Fn) : (s.modFn k f).entry j = s.entry j := rfl
@[simp] theorem State.modFn_hport' (s : State) (k j : Nat) (f : Fn → Fn) : (s.modFn k f).hport j = s.hport j := rfl
@[simp] theorem State.modFn_fport' (s : State) (k j : Nat) (f : Fn → Fn) : (s.modFn k f).fport j = s.fport j := rfl
@[simp] theorem State.modFn_fiod' (s : State) (k j : Nat) (f : Fn → Fn) : (s.modFn k f).fiod j = s.fiod j := rfl
@[simp] theorem State.modFn_res' (s : State) (k j : Nat) (f : Fn → Fn) : (s.modFn k f).res j = s.res j := rfl
@[simp] theorem State.modFn_engine' (s : State) (k j : Nat) (f : Fn → Fn) : (s.modFn k f).engine j = s.engine j := rfl
@[simp] theorem State.modFn_fnOf_self (s : State) (k : Nat) (f : Fn → Fn) :
    (s.modFn k f).fnOf k = f (s.fnOf k) := tget_tmod_self _ k f
theorem State.modFn_fnOf_other (s : State) {k j : Nat} (hj : j ≠ k) (f : Fn → Fn) :
    (s.modFn k f).fnOf j = s.fnOf j := tget_tmod_other _ hj f

/-! ### modHport -/

@[simp] theorem State.modHport_variant (s : State) (k : Nat) (f : HostPort → HostPort) : (s.modHport k f).variant = s.variant := rfl
@[simp] theorem State.modHport_coupling (s : State) (k : Nat) (f : HostPort → HostPort) : (s.modHport k f).coupling = s.coupling := rfl
@[simp] theorem State.modHport_provisioning (s : State) (k : Nat) (f : HostPort → HostPort) : (s.modHport k f).provisioning = s.provisioning := rfl
@[simp] theorem State.modHport_serial (s : State) (k : Nat) (f : HostPort → HostPort) : (s.modHport k f).serial = s.serial := rfl
@[simp] theorem State.modHport_baseMac (s : State) (k : Nat) (f : HostPort → HostPort) : (s.modHport k f).baseMac = s.baseMac := rfl
@[simp] theorem State.modHport_keyId (s : State) (k : Nat) (f : HostPort → HostPort) : (s.modHport k f).keyId = s.keyId := rfl
@[simp] theorem State.modHport_keyPublic (s : State) (k : Nat) (f : HostPort → HostPort) : (s.modHport k f).keyPublic = s.keyPublic := rfl
@[simp] theorem State.modHport_power (s : State) (k : Nat) (f : HostPort → HostPort) : (s.modHport k f).power = s.power := rfl
@[simp] theorem State.modHport_cfg (s : State) (k : Nat) (f : HostPort → HostPort) : (s.modHport k f).cfg = s.cfg := rfl
@[simp] theorem State.modHport_time (s : State) (k : Nat) (f : HostPort → HostPort) : (s.modHport k f).time = s.time := rfl
@[simp] theorem State.modHport_log (s : State) (k : Nat) (f : HostPort → HostPort) : (s.modHport k f).log = s.log := rfl
@[simp] theorem State.modHport_therm (s : State) (k : Nat) (f : HostPort → HostPort) : (s.modHport k f).therm = s.therm := rfl
@[simp] theorem State.modHport_fm (s : State) (k : Nat) (f : HostPort → HostPort) : (s.modHport k f).fm = s.fm := rfl
@[simp] theorem State.modHport_lantern (s : State) (k : Nat) (f : HostPort → HostPort) : (s.modHport k f).lantern = s.lantern := rfl
@[simp] theorem State.modHport_mcEv (s : State) (k : Nat) (f : HostPort → HostPort) : (s.modHport k f).mcEv = s.mcEv := rfl
@[simp] theorem State.modHport_dies (s : State) (k : Nat) (f : HostPort → HostPort) : (s.modHport k f).dies = s.dies := rfl
@[simp] theorem State.modHport_tiles (s : State) (k : Nat) (f : HostPort → HostPort) : (s.modHport k f).tiles = s.tiles := rfl
@[simp] theorem State.modHport_stackTab (s : State) (k : Nat) (f : HostPort → HostPort) : (s.modHport k f).stackTab = s.stackTab := rfl
@[simp] theorem State.modHport_feedPorts (s : State) (k : Nat) (f : HostPort → HostPort) : (s.modHport k f).feedPorts = s.feedPorts := rfl
@[simp] theorem State.modHport_feedIods (s : State) (k : Nat) (f : HostPort → HostPort) : (s.modHport k f).feedIods = s.feedIods := rfl
theorem State.modHport_hostPorts (s : State) (k : Nat) (f : HostPort → HostPort) : (s.modHport k f).hostPorts = tmod {} s.hostPorts k f := rfl
@[simp] theorem State.modHport_fns (s : State) (k : Nat) (f : HostPort → HostPort) : (s.modHport k f).fns = s.fns := rfl
@[simp] theorem State.modHport_reservoirs (s : State) (k : Nat) (f : HostPort → HostPort) : (s.modHport k f).reservoirs = s.reservoirs := rfl
@[simp] theorem State.modHport_engines (s : State) (k : Nat) (f : HostPort → HostPort) : (s.modHport k f).engines = s.engines := rfl
@[simp] theorem State.modHport_parts (s : State) (k : Nat) (f : HostPort → HostPort) : (s.modHport k f).parts = s.parts := rfl
@[simp] theorem State.modHport_ptSel (s : State) (k : Nat) (f : HostPort → HostPort) : (s.modHport k f).ptSel = s.ptSel := rfl
@[simp] theorem State.modHport_entries (s : State) (k : Nat) (f : HostPort → HostPort) : (s.modHport k f).entries = s.entries := rfl
@[simp] theorem State.modHport_dram (s : State) (k : Nat) (f : HostPort → HostPort) : (s.modHport k f).dram = s.dram := rfl
@[simp] theorem State.modHport_xfers (s : State) (k : Nat) (f : HostPort → HostPort) : (s.modHport k f).xfers = s.xfers := rfl
@[simp] theorem State.modHport_releases (s : State) (k : Nat) (f : HostPort → HostPort) : (s.modHport k f).releases = s.releases := rfl
@[simp] theorem State.modHport_nextXfer (s : State) (k : Nat) (f : HostPort → HostPort) : (s.modHport k f).nextXfer = s.nextXfer := rfl
@[simp] theorem State.modHport_nextOp (s : State) (k : Nat) (f : HostPort → HostPort) : (s.modHport k f).nextOp = s.nextOp := rfl
@[simp] theorem State.modHport_latches (s : State) (k : Nat) (f : HostPort → HostPort) : (s.modHport k f).latches = s.latches := rfl
@[simp] theorem State.modHport_out (s : State) (k : Nat) (f : HostPort → HostPort) : (s.modHport k f).out = s.out := rfl
@[simp] theorem State.modHport_free (s : State) (k : Nat) (f : HostPort → HostPort) : (s.modHport k f).free = s.free := rfl
@[simp] theorem State.modHport_pending (s : State) (k : Nat) (f : HostPort → HostPort) : (s.modHport k f).pending = s.pending := rfl
@[simp] theorem State.modHport_die' (s : State) (k j : Nat) (f : HostPort → HostPort) : (s.modHport k f).die j = s.die j := rfl
@[simp] theorem State.modHport_tile' (s : State) (k j : Nat) (f : HostPort → HostPort) : (s.modHport k f).tile j = s.tile j := rfl
@[simp] theorem State.modHport_stack' (s : State) (k j : Nat) (f : HostPort → HostPort) : (s.modHport k f).stack j = s.stack j := rfl
@[simp] theorem State.modHport_part' (s : State) (k j : Nat) (f : HostPort → HostPort) : (s.modHport k f).part j = s.part j := rfl
@[simp] theorem State.modHport_entry' (s : State) (k j : Nat) (f : HostPort → HostPort) : (s.modHport k f).entry j = s.entry j := rfl
@[simp] theorem State.modHport_fnOf' (s : State) (k j : Nat) (f : HostPort → HostPort) : (s.modHport k f).fnOf j = s.fnOf j := rfl
@[simp] theorem State.modHport_fport' (s : State) (k j : Nat) (f : HostPort → HostPort) : (s.modHport k f).fport j = s.fport j := rfl
@[simp] theorem State.modHport_fiod' (s : State) (k j : Nat) (f : HostPort → HostPort) : (s.modHport k f).fiod j = s.fiod j := rfl
@[simp] theorem State.modHport_res' (s : State) (k j : Nat) (f : HostPort → HostPort) : (s.modHport k f).res j = s.res j := rfl
@[simp] theorem State.modHport_engine' (s : State) (k j : Nat) (f : HostPort → HostPort) : (s.modHport k f).engine j = s.engine j := rfl
@[simp] theorem State.modHport_hport_self (s : State) (k : Nat) (f : HostPort → HostPort) :
    (s.modHport k f).hport k = f (s.hport k) := tget_tmod_self _ k f
theorem State.modHport_hport_other (s : State) {k j : Nat} (hj : j ≠ k) (f : HostPort → HostPort) :
    (s.modHport k f).hport j = s.hport j := tget_tmod_other _ hj f

/-! ### modFport -/

@[simp] theorem State.modFport_variant (s : State) (k : Nat) (f : FeedPort → FeedPort) : (s.modFport k f).variant = s.variant := rfl
@[simp] theorem State.modFport_coupling (s : State) (k : Nat) (f : FeedPort → FeedPort) : (s.modFport k f).coupling = s.coupling := rfl
@[simp] theorem State.modFport_provisioning (s : State) (k : Nat) (f : FeedPort → FeedPort) : (s.modFport k f).provisioning = s.provisioning := rfl
@[simp] theorem State.modFport_serial (s : State) (k : Nat) (f : FeedPort → FeedPort) : (s.modFport k f).serial = s.serial := rfl
@[simp] theorem State.modFport_baseMac (s : State) (k : Nat) (f : FeedPort → FeedPort) : (s.modFport k f).baseMac = s.baseMac := rfl
@[simp] theorem State.modFport_keyId (s : State) (k : Nat) (f : FeedPort → FeedPort) : (s.modFport k f).keyId = s.keyId := rfl
@[simp] theorem State.modFport_keyPublic (s : State) (k : Nat) (f : FeedPort → FeedPort) : (s.modFport k f).keyPublic = s.keyPublic := rfl
@[simp] theorem State.modFport_power (s : State) (k : Nat) (f : FeedPort → FeedPort) : (s.modFport k f).power = s.power := rfl
@[simp] theorem State.modFport_cfg (s : State) (k : Nat) (f : FeedPort → FeedPort) : (s.modFport k f).cfg = s.cfg := rfl
@[simp] theorem State.modFport_time (s : State) (k : Nat) (f : FeedPort → FeedPort) : (s.modFport k f).time = s.time := rfl
@[simp] theorem State.modFport_log (s : State) (k : Nat) (f : FeedPort → FeedPort) : (s.modFport k f).log = s.log := rfl
@[simp] theorem State.modFport_therm (s : State) (k : Nat) (f : FeedPort → FeedPort) : (s.modFport k f).therm = s.therm := rfl
@[simp] theorem State.modFport_fm (s : State) (k : Nat) (f : FeedPort → FeedPort) : (s.modFport k f).fm = s.fm := rfl
@[simp] theorem State.modFport_lantern (s : State) (k : Nat) (f : FeedPort → FeedPort) : (s.modFport k f).lantern = s.lantern := rfl
@[simp] theorem State.modFport_mcEv (s : State) (k : Nat) (f : FeedPort → FeedPort) : (s.modFport k f).mcEv = s.mcEv := rfl
@[simp] theorem State.modFport_dies (s : State) (k : Nat) (f : FeedPort → FeedPort) : (s.modFport k f).dies = s.dies := rfl
@[simp] theorem State.modFport_tiles (s : State) (k : Nat) (f : FeedPort → FeedPort) : (s.modFport k f).tiles = s.tiles := rfl
@[simp] theorem State.modFport_stackTab (s : State) (k : Nat) (f : FeedPort → FeedPort) : (s.modFport k f).stackTab = s.stackTab := rfl
theorem State.modFport_feedPorts (s : State) (k : Nat) (f : FeedPort → FeedPort) : (s.modFport k f).feedPorts = tmod {} s.feedPorts k f := rfl
@[simp] theorem State.modFport_feedIods (s : State) (k : Nat) (f : FeedPort → FeedPort) : (s.modFport k f).feedIods = s.feedIods := rfl
@[simp] theorem State.modFport_hostPorts (s : State) (k : Nat) (f : FeedPort → FeedPort) : (s.modFport k f).hostPorts = s.hostPorts := rfl
@[simp] theorem State.modFport_fns (s : State) (k : Nat) (f : FeedPort → FeedPort) : (s.modFport k f).fns = s.fns := rfl
@[simp] theorem State.modFport_reservoirs (s : State) (k : Nat) (f : FeedPort → FeedPort) : (s.modFport k f).reservoirs = s.reservoirs := rfl
@[simp] theorem State.modFport_engines (s : State) (k : Nat) (f : FeedPort → FeedPort) : (s.modFport k f).engines = s.engines := rfl
@[simp] theorem State.modFport_parts (s : State) (k : Nat) (f : FeedPort → FeedPort) : (s.modFport k f).parts = s.parts := rfl
@[simp] theorem State.modFport_ptSel (s : State) (k : Nat) (f : FeedPort → FeedPort) : (s.modFport k f).ptSel = s.ptSel := rfl
@[simp] theorem State.modFport_entries (s : State) (k : Nat) (f : FeedPort → FeedPort) : (s.modFport k f).entries = s.entries := rfl
@[simp] theorem State.modFport_dram (s : State) (k : Nat) (f : FeedPort → FeedPort) : (s.modFport k f).dram = s.dram := rfl
@[simp] theorem State.modFport_xfers (s : State) (k : Nat) (f : FeedPort → FeedPort) : (s.modFport k f).xfers = s.xfers := rfl
@[simp] theorem State.modFport_releases (s : State) (k : Nat) (f : FeedPort → FeedPort) : (s.modFport k f).releases = s.releases := rfl
@[simp] theorem State.modFport_nextXfer (s : State) (k : Nat) (f : FeedPort → FeedPort) : (s.modFport k f).nextXfer = s.nextXfer := rfl
@[simp] theorem State.modFport_nextOp (s : State) (k : Nat) (f : FeedPort → FeedPort) : (s.modFport k f).nextOp = s.nextOp := rfl
@[simp] theorem State.modFport_latches (s : State) (k : Nat) (f : FeedPort → FeedPort) : (s.modFport k f).latches = s.latches := rfl
@[simp] theorem State.modFport_out (s : State) (k : Nat) (f : FeedPort → FeedPort) : (s.modFport k f).out = s.out := rfl
@[simp] theorem State.modFport_free (s : State) (k : Nat) (f : FeedPort → FeedPort) : (s.modFport k f).free = s.free := rfl
@[simp] theorem State.modFport_pending (s : State) (k : Nat) (f : FeedPort → FeedPort) : (s.modFport k f).pending = s.pending := rfl
@[simp] theorem State.modFport_die' (s : State) (k j : Nat) (f : FeedPort → FeedPort) : (s.modFport k f).die j = s.die j := rfl
@[simp] theorem State.modFport_tile' (s : State) (k j : Nat) (f : FeedPort → FeedPort) : (s.modFport k f).tile j = s.tile j := rfl
@[simp] theorem State.modFport_stack' (s : State) (k j : Nat) (f : FeedPort → FeedPort) : (s.modFport k f).stack j = s.stack j := rfl
@[simp] theorem State.modFport_part' (s : State) (k j : Nat) (f : FeedPort → FeedPort) : (s.modFport k f).part j = s.part j := rfl
@[simp] theorem State.modFport_entry' (s : State) (k j : Nat) (f : FeedPort → FeedPort) : (s.modFport k f).entry j = s.entry j := rfl
@[simp] theorem State.modFport_fnOf' (s : State) (k j : Nat) (f : FeedPort → FeedPort) : (s.modFport k f).fnOf j = s.fnOf j := rfl
@[simp] theorem State.modFport_hport' (s : State) (k j : Nat) (f : FeedPort → FeedPort) : (s.modFport k f).hport j = s.hport j := rfl
@[simp] theorem State.modFport_fiod' (s : State) (k j : Nat) (f : FeedPort → FeedPort) : (s.modFport k f).fiod j = s.fiod j := rfl
@[simp] theorem State.modFport_res' (s : State) (k j : Nat) (f : FeedPort → FeedPort) : (s.modFport k f).res j = s.res j := rfl
@[simp] theorem State.modFport_engine' (s : State) (k j : Nat) (f : FeedPort → FeedPort) : (s.modFport k f).engine j = s.engine j := rfl
@[simp] theorem State.modFport_fport_self (s : State) (k : Nat) (f : FeedPort → FeedPort) :
    (s.modFport k f).fport k = f (s.fport k) := tget_tmod_self _ k f
theorem State.modFport_fport_other (s : State) {k j : Nat} (hj : j ≠ k) (f : FeedPort → FeedPort) :
    (s.modFport k f).fport j = s.fport j := tget_tmod_other _ hj f

/-! ### modFiod -/

@[simp] theorem State.modFiod_variant (s : State) (k : Nat) (f : FeedIod → FeedIod) : (s.modFiod k f).variant = s.variant := rfl
@[simp] theorem State.modFiod_coupling (s : State) (k : Nat) (f : FeedIod → FeedIod) : (s.modFiod k f).coupling = s.coupling := rfl
@[simp] theorem State.modFiod_provisioning (s : State) (k : Nat) (f : FeedIod → FeedIod) : (s.modFiod k f).provisioning = s.provisioning := rfl
@[simp] theorem State.modFiod_serial (s : State) (k : Nat) (f : FeedIod → FeedIod) : (s.modFiod k f).serial = s.serial := rfl
@[simp] theorem State.modFiod_baseMac (s : State) (k : Nat) (f : FeedIod → FeedIod) : (s.modFiod k f).baseMac = s.baseMac := rfl
@[simp] theorem State.modFiod_keyId (s : State) (k : Nat) (f : FeedIod → FeedIod) : (s.modFiod k f).keyId = s.keyId := rfl
@[simp] theorem State.modFiod_keyPublic (s : State) (k : Nat) (f : FeedIod → FeedIod) : (s.modFiod k f).keyPublic = s.keyPublic := rfl
@[simp] theorem State.modFiod_power (s : State) (k : Nat) (f : FeedIod → FeedIod) : (s.modFiod k f).power = s.power := rfl
@[simp] theorem State.modFiod_cfg (s : State) (k : Nat) (f : FeedIod → FeedIod) : (s.modFiod k f).cfg = s.cfg := rfl
@[simp] theorem State.modFiod_time (s : State) (k : Nat) (f : FeedIod → FeedIod) : (s.modFiod k f).time = s.time := rfl
@[simp] theorem State.modFiod_log (s : State) (k : Nat) (f : FeedIod → FeedIod) : (s.modFiod k f).log = s.log := rfl
@[simp] theorem State.modFiod_therm (s : State) (k : Nat) (f : FeedIod → FeedIod) : (s.modFiod k f).therm = s.therm := rfl
@[simp] theorem State.modFiod_fm (s : State) (k : Nat) (f : FeedIod → FeedIod) : (s.modFiod k f).fm = s.fm := rfl
@[simp] theorem State.modFiod_lantern (s : State) (k : Nat) (f : FeedIod → FeedIod) : (s.modFiod k f).lantern = s.lantern := rfl
@[simp] theorem State.modFiod_mcEv (s : State) (k : Nat) (f : FeedIod → FeedIod) : (s.modFiod k f).mcEv = s.mcEv := rfl
@[simp] theorem State.modFiod_dies (s : State) (k : Nat) (f : FeedIod → FeedIod) : (s.modFiod k f).dies = s.dies := rfl
@[simp] theorem State.modFiod_tiles (s : State) (k : Nat) (f : FeedIod → FeedIod) : (s.modFiod k f).tiles = s.tiles := rfl
@[simp] theorem State.modFiod_stackTab (s : State) (k : Nat) (f : FeedIod → FeedIod) : (s.modFiod k f).stackTab = s.stackTab := rfl
@[simp] theorem State.modFiod_feedPorts (s : State) (k : Nat) (f : FeedIod → FeedIod) : (s.modFiod k f).feedPorts = s.feedPorts := rfl
theorem State.modFiod_feedIods (s : State) (k : Nat) (f : FeedIod → FeedIod) : (s.modFiod k f).feedIods = tmod {} s.feedIods k f := rfl
@[simp] theorem State.modFiod_hostPorts (s : State) (k : Nat) (f : FeedIod → FeedIod) : (s.modFiod k f).hostPorts = s.hostPorts := rfl
@[simp] theorem State.modFiod_fns (s : State) (k : Nat) (f : FeedIod → FeedIod) : (s.modFiod k f).fns = s.fns := rfl
@[simp] theorem State.modFiod_reservoirs (s : State) (k : Nat) (f : FeedIod → FeedIod) : (s.modFiod k f).reservoirs = s.reservoirs := rfl
@[simp] theorem State.modFiod_engines (s : State) (k : Nat) (f : FeedIod → FeedIod) : (s.modFiod k f).engines = s.engines := rfl
@[simp] theorem State.modFiod_parts (s : State) (k : Nat) (f : FeedIod → FeedIod) : (s.modFiod k f).parts = s.parts := rfl
@[simp] theorem State.modFiod_ptSel (s : State) (k : Nat) (f : FeedIod → FeedIod) : (s.modFiod k f).ptSel = s.ptSel := rfl
@[simp] theorem State.modFiod_entries (s : State) (k : Nat) (f : FeedIod → FeedIod) : (s.modFiod k f).entries = s.entries := rfl
@[simp] theorem State.modFiod_dram (s : State) (k : Nat) (f : FeedIod → FeedIod) : (s.modFiod k f).dram = s.dram := rfl
@[simp] theorem State.modFiod_xfers (s : State) (k : Nat) (f : FeedIod → FeedIod) : (s.modFiod k f).xfers = s.xfers := rfl
@[simp] theorem State.modFiod_releases (s : State) (k : Nat) (f : FeedIod → FeedIod) : (s.modFiod k f).releases = s.releases := rfl
@[simp] theorem State.modFiod_nextXfer (s : State) (k : Nat) (f : FeedIod → FeedIod) : (s.modFiod k f).nextXfer = s.nextXfer := rfl
@[simp] theorem State.modFiod_nextOp (s : State) (k : Nat) (f : FeedIod → FeedIod) : (s.modFiod k f).nextOp = s.nextOp := rfl
@[simp] theorem State.modFiod_latches (s : State) (k : Nat) (f : FeedIod → FeedIod) : (s.modFiod k f).latches = s.latches := rfl
@[simp] theorem State.modFiod_out (s : State) (k : Nat) (f : FeedIod → FeedIod) : (s.modFiod k f).out = s.out := rfl
@[simp] theorem State.modFiod_free (s : State) (k : Nat) (f : FeedIod → FeedIod) : (s.modFiod k f).free = s.free := rfl
@[simp] theorem State.modFiod_pending (s : State) (k : Nat) (f : FeedIod → FeedIod) : (s.modFiod k f).pending = s.pending := rfl
@[simp] theorem State.modFiod_die' (s : State) (k j : Nat) (f : FeedIod → FeedIod) : (s.modFiod k f).die j = s.die j := rfl
@[simp] theorem State.modFiod_tile' (s : State) (k j : Nat) (f : FeedIod → FeedIod) : (s.modFiod k f).tile j = s.tile j := rfl
@[simp] theorem State.modFiod_stack' (s : State) (k j : Nat) (f : FeedIod → FeedIod) : (s.modFiod k f).stack j = s.stack j := rfl
@[simp] theorem State.modFiod_part' (s : State) (k j : Nat) (f : FeedIod → FeedIod) : (s.modFiod k f).part j = s.part j := rfl
@[simp] theorem State.modFiod_entry' (s : State) (k j : Nat) (f : FeedIod → FeedIod) : (s.modFiod k f).entry j = s.entry j := rfl
@[simp] theorem State.modFiod_fnOf' (s : State) (k j : Nat) (f : FeedIod → FeedIod) : (s.modFiod k f).fnOf j = s.fnOf j := rfl
@[simp] theorem State.modFiod_hport' (s : State) (k j : Nat) (f : FeedIod → FeedIod) : (s.modFiod k f).hport j = s.hport j := rfl
@[simp] theorem State.modFiod_fport' (s : State) (k j : Nat) (f : FeedIod → FeedIod) : (s.modFiod k f).fport j = s.fport j := rfl
@[simp] theorem State.modFiod_res' (s : State) (k j : Nat) (f : FeedIod → FeedIod) : (s.modFiod k f).res j = s.res j := rfl
@[simp] theorem State.modFiod_engine' (s : State) (k j : Nat) (f : FeedIod → FeedIod) : (s.modFiod k f).engine j = s.engine j := rfl
@[simp] theorem State.modFiod_fiod_self (s : State) (k : Nat) (f : FeedIod → FeedIod) :
    (s.modFiod k f).fiod k = f (s.fiod k) := tget_tmod_self _ k f
theorem State.modFiod_fiod_other (s : State) {k j : Nat} (hj : j ≠ k) (f : FeedIod → FeedIod) :
    (s.modFiod k f).fiod j = s.fiod j := tget_tmod_other _ hj f

/-! ### modRes -/

@[simp] theorem State.modRes_variant (s : State) (k : Nat) (f : Reservoir → Reservoir) : (s.modRes k f).variant = s.variant := rfl
@[simp] theorem State.modRes_coupling (s : State) (k : Nat) (f : Reservoir → Reservoir) : (s.modRes k f).coupling = s.coupling := rfl
@[simp] theorem State.modRes_provisioning (s : State) (k : Nat) (f : Reservoir → Reservoir) : (s.modRes k f).provisioning = s.provisioning := rfl
@[simp] theorem State.modRes_serial (s : State) (k : Nat) (f : Reservoir → Reservoir) : (s.modRes k f).serial = s.serial := rfl
@[simp] theorem State.modRes_baseMac (s : State) (k : Nat) (f : Reservoir → Reservoir) : (s.modRes k f).baseMac = s.baseMac := rfl
@[simp] theorem State.modRes_keyId (s : State) (k : Nat) (f : Reservoir → Reservoir) : (s.modRes k f).keyId = s.keyId := rfl
@[simp] theorem State.modRes_keyPublic (s : State) (k : Nat) (f : Reservoir → Reservoir) : (s.modRes k f).keyPublic = s.keyPublic := rfl
@[simp] theorem State.modRes_power (s : State) (k : Nat) (f : Reservoir → Reservoir) : (s.modRes k f).power = s.power := rfl
@[simp] theorem State.modRes_cfg (s : State) (k : Nat) (f : Reservoir → Reservoir) : (s.modRes k f).cfg = s.cfg := rfl
@[simp] theorem State.modRes_time (s : State) (k : Nat) (f : Reservoir → Reservoir) : (s.modRes k f).time = s.time := rfl
@[simp] theorem State.modRes_log (s : State) (k : Nat) (f : Reservoir → Reservoir) : (s.modRes k f).log = s.log := rfl
@[simp] theorem State.modRes_therm (s : State) (k : Nat) (f : Reservoir → Reservoir) : (s.modRes k f).therm = s.therm := rfl
@[simp] theorem State.modRes_fm (s : State) (k : Nat) (f : Reservoir → Reservoir) : (s.modRes k f).fm = s.fm := rfl
@[simp] theorem State.modRes_lantern (s : State) (k : Nat) (f : Reservoir → Reservoir) : (s.modRes k f).lantern = s.lantern := rfl
@[simp] theorem State.modRes_mcEv (s : State) (k : Nat) (f : Reservoir → Reservoir) : (s.modRes k f).mcEv = s.mcEv := rfl
@[simp] theorem State.modRes_dies (s : State) (k : Nat) (f : Reservoir → Reservoir) : (s.modRes k f).dies = s.dies := rfl
@[simp] theorem State.modRes_tiles (s : State) (k : Nat) (f : Reservoir → Reservoir) : (s.modRes k f).tiles = s.tiles := rfl
@[simp] theorem State.modRes_stackTab (s : State) (k : Nat) (f : Reservoir → Reservoir) : (s.modRes k f).stackTab = s.stackTab := rfl
@[simp] theorem State.modRes_feedPorts (s : State) (k : Nat) (f : Reservoir → Reservoir) : (s.modRes k f).feedPorts = s.feedPorts := rfl
@[simp] theorem State.modRes_feedIods (s : State) (k : Nat) (f : Reservoir → Reservoir) : (s.modRes k f).feedIods = s.feedIods := rfl
@[simp] theorem State.modRes_hostPorts (s : State) (k : Nat) (f : Reservoir → Reservoir) : (s.modRes k f).hostPorts = s.hostPorts := rfl
@[simp] theorem State.modRes_fns (s : State) (k : Nat) (f : Reservoir → Reservoir) : (s.modRes k f).fns = s.fns := rfl
theorem State.modRes_reservoirs (s : State) (k : Nat) (f : Reservoir → Reservoir) : (s.modRes k f).reservoirs = tmod {} s.reservoirs k f := rfl
@[simp] theorem State.modRes_engines (s : State) (k : Nat) (f : Reservoir → Reservoir) : (s.modRes k f).engines = s.engines := rfl
@[simp] theorem State.modRes_parts (s : State) (k : Nat) (f : Reservoir → Reservoir) : (s.modRes k f).parts = s.parts := rfl
@[simp] theorem State.modRes_ptSel (s : State) (k : Nat) (f : Reservoir → Reservoir) : (s.modRes k f).ptSel = s.ptSel := rfl
@[simp] theorem State.modRes_entries (s : State) (k : Nat) (f : Reservoir → Reservoir) : (s.modRes k f).entries = s.entries := rfl
@[simp] theorem State.modRes_dram (s : State) (k : Nat) (f : Reservoir → Reservoir) : (s.modRes k f).dram = s.dram := rfl
@[simp] theorem State.modRes_xfers (s : State) (k : Nat) (f : Reservoir → Reservoir) : (s.modRes k f).xfers = s.xfers := rfl
@[simp] theorem State.modRes_releases (s : State) (k : Nat) (f : Reservoir → Reservoir) : (s.modRes k f).releases = s.releases := rfl
@[simp] theorem State.modRes_nextXfer (s : State) (k : Nat) (f : Reservoir → Reservoir) : (s.modRes k f).nextXfer = s.nextXfer := rfl
@[simp] theorem State.modRes_nextOp (s : State) (k : Nat) (f : Reservoir → Reservoir) : (s.modRes k f).nextOp = s.nextOp := rfl
@[simp] theorem State.modRes_latches (s : State) (k : Nat) (f : Reservoir → Reservoir) : (s.modRes k f).latches = s.latches := rfl
@[simp] theorem State.modRes_out (s : State) (k : Nat) (f : Reservoir → Reservoir) : (s.modRes k f).out = s.out := rfl
@[simp] theorem State.modRes_free (s : State) (k : Nat) (f : Reservoir → Reservoir) : (s.modRes k f).free = s.free := rfl
@[simp] theorem State.modRes_pending (s : State) (k : Nat) (f : Reservoir → Reservoir) : (s.modRes k f).pending = s.pending := rfl
@[simp] theorem State.modRes_die' (s : State) (k j : Nat) (f : Reservoir → Reservoir) : (s.modRes k f).die j = s.die j := rfl
@[simp] theorem State.modRes_tile' (s : State) (k j : Nat) (f : Reservoir → Reservoir) : (s.modRes k f).tile j = s.tile j := rfl
@[simp] theorem State.modRes_stack' (s : State) (k j : Nat) (f : Reservoir → Reservoir) : (s.modRes k f).stack j = s.stack j := rfl
@[simp] theorem State.modRes_part' (s : State) (k j : Nat) (f : Reservoir → Reservoir) : (s.modRes k f).part j = s.part j := rfl
@[simp] theorem State.modRes_entry' (s : State) (k j : Nat) (f : Reservoir → Reservoir) : (s.modRes k f).entry j = s.entry j := rfl
@[simp] theorem State.modRes_fnOf' (s : State) (k j : Nat) (f : Reservoir → Reservoir) : (s.modRes k f).fnOf j = s.fnOf j := rfl
@[simp] theorem State.modRes_hport' (s : State) (k j : Nat) (f : Reservoir → Reservoir) : (s.modRes k f).hport j = s.hport j := rfl
@[simp] theorem State.modRes_fport' (s : State) (k j : Nat) (f : Reservoir → Reservoir) : (s.modRes k f).fport j = s.fport j := rfl
@[simp] theorem State.modRes_fiod' (s : State) (k j : Nat) (f : Reservoir → Reservoir) : (s.modRes k f).fiod j = s.fiod j := rfl
@[simp] theorem State.modRes_engine' (s : State) (k j : Nat) (f : Reservoir → Reservoir) : (s.modRes k f).engine j = s.engine j := rfl
@[simp] theorem State.modRes_res_self (s : State) (k : Nat) (f : Reservoir → Reservoir) :
    (s.modRes k f).res k = f (s.res k) := tget_tmod_self _ k f
theorem State.modRes_res_other (s : State) {k j : Nat} (hj : j ≠ k) (f : Reservoir → Reservoir) :
    (s.modRes k f).res j = s.res j := tget_tmod_other _ hj f

/-! ### modEngine -/

@[simp] theorem State.modEngine_variant (s : State) (k : Nat) (f : ImgEngine → ImgEngine) : (s.modEngine k f).variant = s.variant := rfl
@[simp] theorem State.modEngine_coupling (s : State) (k : Nat) (f : ImgEngine → ImgEngine) : (s.modEngine k f).coupling = s.coupling := rfl
@[simp] theorem State.modEngine_provisioning (s : State) (k : Nat) (f : ImgEngine → ImgEngine) : (s.modEngine k f).provisioning = s.provisioning := rfl
@[simp] theorem State.modEngine_serial (s : State) (k : Nat) (f : ImgEngine → ImgEngine) : (s.modEngine k f).serial = s.serial := rfl
@[simp] theorem State.modEngine_baseMac (s : State) (k : Nat) (f : ImgEngine → ImgEngine) : (s.modEngine k f).baseMac = s.baseMac := rfl
@[simp] theorem State.modEngine_keyId (s : State) (k : Nat) (f : ImgEngine → ImgEngine) : (s.modEngine k f).keyId = s.keyId := rfl
@[simp] theorem State.modEngine_keyPublic (s : State) (k : Nat) (f : ImgEngine → ImgEngine) : (s.modEngine k f).keyPublic = s.keyPublic := rfl
@[simp] theorem State.modEngine_power (s : State) (k : Nat) (f : ImgEngine → ImgEngine) : (s.modEngine k f).power = s.power := rfl
@[simp] theorem State.modEngine_cfg (s : State) (k : Nat) (f : ImgEngine → ImgEngine) : (s.modEngine k f).cfg = s.cfg := rfl
@[simp] theorem State.modEngine_time (s : State) (k : Nat) (f : ImgEngine → ImgEngine) : (s.modEngine k f).time = s.time := rfl
@[simp] theorem State.modEngine_log (s : State) (k : Nat) (f : ImgEngine → ImgEngine) : (s.modEngine k f).log = s.log := rfl
@[simp] theorem State.modEngine_therm (s : State) (k : Nat) (f : ImgEngine → ImgEngine) : (s.modEngine k f).therm = s.therm := rfl
@[simp] theorem State.modEngine_fm (s : State) (k : Nat) (f : ImgEngine → ImgEngine) : (s.modEngine k f).fm = s.fm := rfl
@[simp] theorem State.modEngine_lantern (s : State) (k : Nat) (f : ImgEngine → ImgEngine) : (s.modEngine k f).lantern = s.lantern := rfl
@[simp] theorem State.modEngine_mcEv (s : State) (k : Nat) (f : ImgEngine → ImgEngine) : (s.modEngine k f).mcEv = s.mcEv := rfl
@[simp] theorem State.modEngine_dies (s : State) (k : Nat) (f : ImgEngine → ImgEngine) : (s.modEngine k f).dies = s.dies := rfl
@[simp] theorem State.modEngine_tiles (s : State) (k : Nat) (f : ImgEngine → ImgEngine) : (s.modEngine k f).tiles = s.tiles := rfl
@[simp] theorem State.modEngine_stackTab (s : State) (k : Nat) (f : ImgEngine → ImgEngine) : (s.modEngine k f).stackTab = s.stackTab := rfl
@[simp] theorem State.modEngine_feedPorts (s : State) (k : Nat) (f : ImgEngine → ImgEngine) : (s.modEngine k f).feedPorts = s.feedPorts := rfl
@[simp] theorem State.modEngine_feedIods (s : State) (k : Nat) (f : ImgEngine → ImgEngine) : (s.modEngine k f).feedIods = s.feedIods := rfl
@[simp] theorem State.modEngine_hostPorts (s : State) (k : Nat) (f : ImgEngine → ImgEngine) : (s.modEngine k f).hostPorts = s.hostPorts := rfl
@[simp] theorem State.modEngine_fns (s : State) (k : Nat) (f : ImgEngine → ImgEngine) : (s.modEngine k f).fns = s.fns := rfl
@[simp] theorem State.modEngine_reservoirs (s : State) (k : Nat) (f : ImgEngine → ImgEngine) : (s.modEngine k f).reservoirs = s.reservoirs := rfl
theorem State.modEngine_engines (s : State) (k : Nat) (f : ImgEngine → ImgEngine) : (s.modEngine k f).engines = tmod {} s.engines k f := rfl
@[simp] theorem State.modEngine_parts (s : State) (k : Nat) (f : ImgEngine → ImgEngine) : (s.modEngine k f).parts = s.parts := rfl
@[simp] theorem State.modEngine_ptSel (s : State) (k : Nat) (f : ImgEngine → ImgEngine) : (s.modEngine k f).ptSel = s.ptSel := rfl
@[simp] theorem State.modEngine_entries (s : State) (k : Nat) (f : ImgEngine → ImgEngine) : (s.modEngine k f).entries = s.entries := rfl
@[simp] theorem State.modEngine_dram (s : State) (k : Nat) (f : ImgEngine → ImgEngine) : (s.modEngine k f).dram = s.dram := rfl
@[simp] theorem State.modEngine_xfers (s : State) (k : Nat) (f : ImgEngine → ImgEngine) : (s.modEngine k f).xfers = s.xfers := rfl
@[simp] theorem State.modEngine_releases (s : State) (k : Nat) (f : ImgEngine → ImgEngine) : (s.modEngine k f).releases = s.releases := rfl
@[simp] theorem State.modEngine_nextXfer (s : State) (k : Nat) (f : ImgEngine → ImgEngine) : (s.modEngine k f).nextXfer = s.nextXfer := rfl
@[simp] theorem State.modEngine_nextOp (s : State) (k : Nat) (f : ImgEngine → ImgEngine) : (s.modEngine k f).nextOp = s.nextOp := rfl
@[simp] theorem State.modEngine_latches (s : State) (k : Nat) (f : ImgEngine → ImgEngine) : (s.modEngine k f).latches = s.latches := rfl
@[simp] theorem State.modEngine_out (s : State) (k : Nat) (f : ImgEngine → ImgEngine) : (s.modEngine k f).out = s.out := rfl
@[simp] theorem State.modEngine_free (s : State) (k : Nat) (f : ImgEngine → ImgEngine) : (s.modEngine k f).free = s.free := rfl
@[simp] theorem State.modEngine_pending (s : State) (k : Nat) (f : ImgEngine → ImgEngine) : (s.modEngine k f).pending = s.pending := rfl
@[simp] theorem State.modEngine_die' (s : State) (k j : Nat) (f : ImgEngine → ImgEngine) : (s.modEngine k f).die j = s.die j := rfl
@[simp] theorem State.modEngine_tile' (s : State) (k j : Nat) (f : ImgEngine → ImgEngine) : (s.modEngine k f).tile j = s.tile j := rfl
@[simp] theorem State.modEngine_stack' (s : State) (k j : Nat) (f : ImgEngine → ImgEngine) : (s.modEngine k f).stack j = s.stack j := rfl
@[simp] theorem State.modEngine_part' (s : State) (k j : Nat) (f : ImgEngine → ImgEngine) : (s.modEngine k f).part j = s.part j := rfl
@[simp] theorem State.modEngine_entry' (s : State) (k j : Nat) (f : ImgEngine → ImgEngine) : (s.modEngine k f).entry j = s.entry j := rfl
@[simp] theorem State.modEngine_fnOf' (s : State) (k j : Nat) (f : ImgEngine → ImgEngine) : (s.modEngine k f).fnOf j = s.fnOf j := rfl
@[simp] theorem State.modEngine_hport' (s : State) (k j : Nat) (f : ImgEngine → ImgEngine) : (s.modEngine k f).hport j = s.hport j := rfl
@[simp] theorem State.modEngine_fport' (s : State) (k j : Nat) (f : ImgEngine → ImgEngine) : (s.modEngine k f).fport j = s.fport j := rfl
@[simp] theorem State.modEngine_fiod' (s : State) (k j : Nat) (f : ImgEngine → ImgEngine) : (s.modEngine k f).fiod j = s.fiod j := rfl
@[simp] theorem State.modEngine_res' (s : State) (k j : Nat) (f : ImgEngine → ImgEngine) : (s.modEngine k f).res j = s.res j := rfl
@[simp] theorem State.modEngine_engine_self (s : State) (k : Nat) (f : ImgEngine → ImgEngine) :
    (s.modEngine k f).engine k = f (s.engine k) := tget_tmod_self _ k f
theorem State.modEngine_engine_other (s : State) {k j : Nat} (hj : j ≠ k) (f : ImgEngine → ImgEngine) :
    (s.modEngine k f).engine j = s.engine j := tget_tmod_other _ hj f

/-! ### emit -/

@[simp] theorem State.emit_variant (s : State) (m : OutMsg) : (s.emit m).variant = s.variant := rfl
@[simp] theorem State.emit_coupling (s : State) (m : OutMsg) : (s.emit m).coupling = s.coupling := rfl
@[simp] theorem State.emit_provisioning (s : State) (m : OutMsg) : (s.emit m).provisioning = s.provisioning := rfl
@[simp] theorem State.emit_serial (s : State) (m : OutMsg) : (s.emit m).serial = s.serial := rfl
@[simp] theorem State.emit_baseMac (s : State) (m : OutMsg) : (s.emit m).baseMac = s.baseMac := rfl
@[simp] theorem State.emit_keyId (s : State) (m : OutMsg) : (s.emit m).keyId = s.keyId := rfl
@[simp] theorem State.emit_keyPublic (s : State) (m : OutMsg) : (s.emit m).keyPublic = s.keyPublic := rfl
@[simp] theorem State.emit_power (s : State) (m : OutMsg) : (s.emit m).power = s.power := rfl
@[simp] theorem State.emit_cfg (s : State) (m : OutMsg) : (s.emit m).cfg = s.cfg := rfl
@[simp] theorem State.emit_time (s : State) (m : OutMsg) : (s.emit m).time = s.time := rfl
@[simp] theorem State.emit_log (s : State) (m : OutMsg) : (s.emit m).log = s.log := rfl
@[simp] theorem State.emit_therm (s : State) (m : OutMsg) : (s.emit m).therm = s.therm := rfl
@[simp] theorem State.emit_fm (s : State) (m : OutMsg) : (s.emit m).fm = s.fm := rfl
@[simp] theorem State.emit_lantern (s : State) (m : OutMsg) : (s.emit m).lantern = s.lantern := rfl
@[simp] theorem State.emit_mcEv (s : State) (m : OutMsg) : (s.emit m).mcEv = s.mcEv := rfl
@[simp] theorem State.emit_dies (s : State) (m : OutMsg) : (s.emit m).dies = s.dies := rfl
@[simp] theorem State.emit_tiles (s : State) (m : OutMsg) : (s.emit m).tiles = s.tiles := rfl
@[simp] theorem State.emit_stackTab (s : State) (m : OutMsg) : (s.emit m).stackTab = s.stackTab := rfl
@[simp] theorem State.emit_feedPorts (s : State) (m : OutMsg) : (s.emit m).feedPorts = s.feedPorts := rfl
@[simp] theorem State.emit_feedIods (s : State) (m : OutMsg) : (s.emit m).feedIods = s.feedIods := rfl
@[simp] theorem State.emit_hostPorts (s : State) (m : OutMsg) : (s.emit m).hostPorts = s.hostPorts := rfl
@[simp] theorem State.emit_fns (s : State) (m : OutMsg) : (s.emit m).fns = s.fns := rfl
@[simp] theorem State.emit_reservoirs (s : State) (m : OutMsg) : (s.emit m).reservoirs = s.reservoirs := rfl
@[simp] theorem State.emit_engines (s : State) (m : OutMsg) : (s.emit m).engines = s.engines := rfl
@[simp] theorem State.emit_parts (s : State) (m : OutMsg) : (s.emit m).parts = s.parts := rfl
@[simp] theorem State.emit_ptSel (s : State) (m : OutMsg) : (s.emit m).ptSel = s.ptSel := rfl
@[simp] theorem State.emit_entries (s : State) (m : OutMsg) : (s.emit m).entries = s.entries := rfl
@[simp] theorem State.emit_dram (s : State) (m : OutMsg) : (s.emit m).dram = s.dram := rfl
@[simp] theorem State.emit_xfers (s : State) (m : OutMsg) : (s.emit m).xfers = s.xfers := rfl
@[simp] theorem State.emit_releases (s : State) (m : OutMsg) : (s.emit m).releases = s.releases := rfl
@[simp] theorem State.emit_nextXfer (s : State) (m : OutMsg) : (s.emit m).nextXfer = s.nextXfer := rfl
@[simp] theorem State.emit_nextOp (s : State) (m : OutMsg) : (s.emit m).nextOp = s.nextOp := rfl
@[simp] theorem State.emit_latches (s : State) (m : OutMsg) : (s.emit m).latches = s.latches := rfl
@[simp] theorem State.emit_out (s : State) (m : OutMsg) : (s.emit m).out = s.out ++ [m] := rfl
@[simp] theorem State.emit_free (s : State) (m : OutMsg) : (s.emit m).free = s.free := rfl
@[simp] theorem State.emit_pending (s : State) (m : OutMsg) : (s.emit m).pending = s.pending := rfl
@[simp] theorem State.emit_die' (s : State) (m : OutMsg) (j : Nat) : (s.emit m).die j = s.die j := rfl
@[simp] theorem State.emit_tile' (s : State) (m : OutMsg) (j : Nat) : (s.emit m).tile j = s.tile j := rfl
@[simp] theorem State.emit_stack' (s : State) (m : OutMsg) (j : Nat) : (s.emit m).stack j = s.stack j := rfl
@[simp] theorem State.emit_part' (s : State) (m : OutMsg) (j : Nat) : (s.emit m).part j = s.part j := rfl
@[simp] theorem State.emit_entry' (s : State) (m : OutMsg) (j : Nat) : (s.emit m).entry j = s.entry j := rfl
@[simp] theorem State.emit_fnOf' (s : State) (m : OutMsg) (j : Nat) : (s.emit m).fnOf j = s.fnOf j := rfl
@[simp] theorem State.emit_hport' (s : State) (m : OutMsg) (j : Nat) : (s.emit m).hport j = s.hport j := rfl
@[simp] theorem State.emit_fport' (s : State) (m : OutMsg) (j : Nat) : (s.emit m).fport j = s.fport j := rfl
@[simp] theorem State.emit_fiod' (s : State) (m : OutMsg) (j : Nat) : (s.emit m).fiod j = s.fiod j := rfl
@[simp] theorem State.emit_res' (s : State) (m : OutMsg) (j : Nat) : (s.emit m).res j = s.res j := rfl
@[simp] theorem State.emit_engine' (s : State) (m : OutMsg) (j : Nat) : (s.emit m).engine j = s.engine j := rfl

/-! ### setNow -/

@[simp] theorem State.setNow_variant (s : State) (n : Nat) : (s.setNow n).variant = s.variant := rfl
@[simp] theorem State.setNow_coupling (s : State) (n : Nat) : (s.setNow n).coupling = s.coupling := rfl
@[simp] theorem State.setNow_provisioning (s : State) (n : Nat) : (s.setNow n).provisioning = s.provisioning := rfl
@[simp] theorem State.setNow_serial (s : State) (n : Nat) : (s.setNow n).serial = s.serial := rfl
@[simp] theorem State.setNow_baseMac (s : State) (n : Nat) : (s.setNow n).baseMac = s.baseMac := rfl
@[simp] theorem State.setNow_keyId (s : State) (n : Nat) : (s.setNow n).keyId = s.keyId := rfl
@[simp] theorem State.setNow_keyPublic (s : State) (n : Nat) : (s.setNow n).keyPublic = s.keyPublic := rfl
@[simp] theorem State.setNow_power (s : State) (n : Nat) : (s.setNow n).power = s.power := rfl
@[simp] theorem State.setNow_cfg (s : State) (n : Nat) : (s.setNow n).cfg = s.cfg := rfl
@[simp] theorem State.setNow_log (s : State) (n : Nat) : (s.setNow n).log = s.log := rfl
@[simp] theorem State.setNow_therm (s : State) (n : Nat) : (s.setNow n).therm = s.therm := rfl
@[simp] theorem State.setNow_fm (s : State) (n : Nat) : (s.setNow n).fm = s.fm := rfl
@[simp] theorem State.setNow_lantern (s : State) (n : Nat) : (s.setNow n).lantern = s.lantern := rfl
@[simp] theorem State.setNow_mcEv (s : State) (n : Nat) : (s.setNow n).mcEv = s.mcEv := rfl
@[simp] theorem State.setNow_dies (s : State) (n : Nat) : (s.setNow n).dies = s.dies := rfl
@[simp] theorem State.setNow_tiles (s : State) (n : Nat) : (s.setNow n).tiles = s.tiles := rfl
@[simp] theorem State.setNow_stackTab (s : State) (n : Nat) : (s.setNow n).stackTab = s.stackTab := rfl
@[simp] theorem State.setNow_feedPorts (s : State) (n : Nat) : (s.setNow n).feedPorts = s.feedPorts := rfl
@[simp] theorem State.setNow_feedIods (s : State) (n : Nat) : (s.setNow n).feedIods = s.feedIods := rfl
@[simp] theorem State.setNow_hostPorts (s : State) (n : Nat) : (s.setNow n).hostPorts = s.hostPorts := rfl
@[simp] theorem State.setNow_fns (s : State) (n : Nat) : (s.setNow n).fns = s.fns := rfl
@[simp] theorem State.setNow_reservoirs (s : State) (n : Nat) : (s.setNow n).reservoirs = s.reservoirs := rfl
@[simp] theorem State.setNow_engines (s : State) (n : Nat) : (s.setNow n).engines = s.engines := rfl
@[simp] theorem State.setNow_parts (s : State) (n : Nat) : (s.setNow n).parts = s.parts := rfl
@[simp] theorem State.setNow_ptSel (s : State) (n : Nat) : (s.setNow n).ptSel = s.ptSel := rfl
@[simp] theorem State.setNow_entries (s : State) (n : Nat) : (s.setNow n).entries = s.entries := rfl
@[simp] theorem State.setNow_dram (s : State) (n : Nat) : (s.setNow n).dram = s.dram := rfl
@[simp] theorem State.setNow_xfers (s : State) (n : Nat) : (s.setNow n).xfers = s.xfers := rfl
@[simp] theorem State.setNow_releases (s : State) (n : Nat) : (s.setNow n).releases = s.releases := rfl
@[simp] theorem State.setNow_nextXfer (s : State) (n : Nat) : (s.setNow n).nextXfer = s.nextXfer := rfl
@[simp] theorem State.setNow_nextOp (s : State) (n : Nat) : (s.setNow n).nextOp = s.nextOp := rfl
@[simp] theorem State.setNow_latches (s : State) (n : Nat) : (s.setNow n).latches = s.latches := rfl
@[simp] theorem State.setNow_out (s : State) (n : Nat) : (s.setNow n).out = s.out := rfl
@[simp] theorem State.setNow_free (s : State) (n : Nat) : (s.setNow n).free = s.free := rfl
@[simp] theorem State.setNow_pending (s : State) (n : Nat) : (s.setNow n).pending = s.pending := rfl
@[simp] theorem State.setNow_die' (s : State) (n : Nat) (j : Nat) : (s.setNow n).die j = s.die j := rfl
@[simp] theorem State.setNow_tile' (s : State) (n : Nat) (j : Nat) : (s.setNow n).tile j = s.tile j := rfl
@[simp] theorem State.setNow_stack' (s : State) (n : Nat) (j : Nat) : (s.setNow n).stack j = s.stack j := rfl
@[simp] theorem State.setNow_part' (s : State) (n : Nat) (j : Nat) : (s.setNow n).part j = s.part j := rfl
@[simp] theorem State.setNow_entry' (s : State) (n : Nat) (j : Nat) : (s.setNow n).entry j = s.entry j := rfl
@[simp] theorem State.setNow_fnOf' (s : State) (n : Nat) (j : Nat) : (s.setNow n).fnOf j = s.fnOf j := rfl
@[simp] theorem State.setNow_hport' (s : State) (n : Nat) (j : Nat) : (s.setNow n).hport j = s.hport j := rfl
@[simp] theorem State.setNow_fport' (s : State) (n : Nat) (j : Nat) : (s.setNow n).fport j = s.fport j := rfl
@[simp] theorem State.setNow_fiod' (s : State) (n : Nat) (j : Nat) : (s.setNow n).fiod j = s.fiod j := rfl
@[simp] theorem State.setNow_res' (s : State) (n : Nat) (j : Nat) : (s.setNow n).res j = s.res j := rfl
@[simp] theorem State.setNow_engine' (s : State) (n : Nat) (j : Nat) : (s.setNow n).engine j = s.engine j := rfl

theorem State.setNow_now (s : State) (n : Nat) : (s.setNow n).now = Nat.max s.now n := rfl

end Sys2Proof.Machine
end

