-- ==== Sys2Proof/Laws/Keeps.lean ====
section
/-! SUPPORT. The relation `Keeps F` between a state and what an operation of footprint `F` makes of it: it is a preorder, an
update by site has it, and a fold of operations that have it has it. -/

namespace Sys2Proof.Machine

set_option Elab.async false

variable {F : Footprint} {s m t : State}

theorem SameModule.trans (h : SameModule s m) (k : SameModule m t) : SameModule s t := by
  unfold SameModule at *
  simp_all

theorem SameOutside.refl (F : Footprint) (s : State) : SameOutside F s s :=
  ⟨fun _ => rfl, fun _ => rfl, fun _ => rfl, fun _ => rfl, fun _ => rfl, fun _ => rfl, fun _ => rfl, fun _ => rfl, fun _ => rfl, fun _ => rfl, fun _ => rfl, fun _ => rfl, fun _ => rfl, fun _ => rfl, fun _ => rfl, fun _ => rfl, fun _ => rfl, fun _ => rfl, fun _ => rfl, fun _ => rfl, fun _ => rfl, fun _ => rfl, fun _ => rfl, fun _ => rfl, fun _ => rfl, fun _ => rfl, fun _ => rfl, fun _ => rfl⟩

theorem SameOutside.trans (h : SameOutside F s m) (k : SameOutside F m t) : SameOutside F s t :=
  ⟨fun e => (k.power e).trans (h.power e), fun e => (k.cfg e).trans (h.cfg e), fun e => (k.time e).trans (h.time e), fun e => (k.log e).trans (h.log e), fun e => (k.therm e).trans (h.therm e), fun e => (k.fm e).trans (h.fm e), fun e => (k.lantern e).trans (h.lantern e), fun e => (k.mcEv e).trans (h.mcEv e), fun e => (k.dies e).trans (h.dies e), fun e => (k.tiles e).trans (h.tiles e), fun e => (k.stackTab e).trans (h.stackTab e), fun e => (k.feedPorts e).trans (h.feedPorts e), fun e => (k.feedIods e).trans (h.feedIods e), fun e => (k.hostPorts e).trans (h.hostPorts e), fun e => (k.fns e).trans (h.fns e), fun e => (k.reservoirs e).trans (h.reservoirs e), fun e => (k.engines e).trans (h.engines e), fun e => (k.parts e).trans (h.parts e), fun e => (k.ptSel e).trans (h.ptSel e), fun e => (k.entries e).trans (h.entries e), fun e => (k.dram e).trans (h.dram e), fun e => (k.xfers e).trans (h.xfers e), fun e => (k.releases e).trans (h.releases e), fun e => (k.nextXfer e).trans (h.nextXfer e), fun e => (k.nextOp e).trans (h.nextOp e), fun e => (k.latches e).trans (h.latches e), fun e => (k.out e).trans (h.out e), fun e => (k.free e).trans (h.free e)⟩

theorem Keeps.refl (F : Footprint) (s : State) : Keeps F s s :=
  ⟨⟨rfl, rfl, rfl, rfl, rfl, rfl, rfl⟩, rfl, List.prefix_refl _, Nat.le_refl _, id, id, id, id, SameOutside.refl F s⟩

theorem Keeps.trans (h : Keeps F s m) (k : Keeps F m t) : Keeps F s t :=
  ⟨h.module.trans k.module, k.pending.trans h.pending, h.sent.trans k.sent, h.taken.trans k.taken,
    k.tables ∘ h.tables, k.start ∘ h.start, k.clock ∘ h.clock, k.taint ∘ h.taint, h.outside.trans k.outside⟩

theorem Keeps.inv (h : Keeps F s t) (i : Inv s) : Inv t := ⟨h.tables i.tables, h.start i.start, h.clock i.time, h.taint i.lantern⟩

/-- A part of the state is in the footprint, or keeps its value. -/
theorem same_or {α : Type} {b : Bool} {x y : α} (h : b = true ∨ y = x) (e : b = false) : y = x :=
  h.elim (fun c => absurd (c.symm.trans e) (by decide)) id

/-- A record update outside the tables. -/
theorem Keeps.upd (h : Keeps F s m) {power : Power} {cfg : Cfg} {time : Time} {log : Log} {therm : Therm} {fm : Fm} {lantern : Lantern} {mcEv : EvQueue} {ptSel : Nat} {xfers : List Xfer} {releases : List Release} {nextXfer : Nat} {nextOp : Nat} {latches : List (Requester × Nat × Nat)}
    (hs : (m.cfg.started = true → m.power.pwrgd = true ∧ m.power.testMode = false) →
      cfg.started = true → power.pwrgd = true ∧ power.testMode = false := by exact fun q => q)
    (ht : (m.time.utc = true → m.time.adopt ≤ m.time.now) → time.utc = true → time.adopt ≤ time.now := by exact fun q => q)
    (hl : (m.lantern.unlocked = true → m.lantern.taint = true) → lantern.unlocked = true → lantern.taint = true := by exact fun q => q)
    (f_power : F.power = true ∨ power = m.power := by first | exact .inr rfl | exact .inl (by assumption))
    (f_cfg : F.cfg = true ∨ cfg = m.cfg := by first | exact .inr rfl | exact .inl (by assumption))
    (f_time : F.time = true ∨ time = m.time := by first | exact .inr rfl | exact .inl (by assumption))
    (f_log : F.log = true ∨ log = m.log := by first | exact .inr rfl | exact .inl (by assumption))
    (f_therm : F.therm = true ∨ therm = m.therm := by first | exact .inr rfl | exact .inl (by assumption))
    (f_fm : F.fm = true ∨ fm = m.fm := by first | exact .inr rfl | exact .inl (by assumption))
    (f_lantern : F.lantern = true ∨ lantern = m.lantern := by first | exact .inr rfl | exact .inl (by assumption))
    (f_mcEv : F.mcEv = true ∨ mcEv = m.mcEv := by first | exact .inr rfl | exact .inl (by assumption))
    (f_ptSel : F.ptSel = true ∨ ptSel = m.ptSel := by first | exact .inr rfl | exact .inl (by assumption))
    (f_xfers : F.xfers = true ∨ xfers = m.xfers := by first | exact .inr rfl | exact .inl (by assumption))
    (f_releases : F.releases = true ∨ releases = m.releases := by first | exact .inr rfl | exact .inl (by assumption))
    (f_nextXfer : F.nextXfer = true ∨ nextXfer = m.nextXfer := by first | exact .inr rfl | exact .inl (by assumption))
    (f_nextOp : F.nextOp = true ∨ nextOp = m.nextOp := by first | exact .inr rfl | exact .inl (by assumption))
    (f_latches : F.latches = true ∨ latches = m.latches := by first | exact .inr rfl | exact .inl (by assumption))
    : Keeps F s (State.mk m.variant m.coupling m.provisioning m.serial m.baseMac m.keyId m.keyPublic power cfg time log therm fm lantern mcEv m.dies m.tiles m.stackTab m.feedPorts m.feedIods m.hostPorts m.fns m.reservoirs m.engines m.parts ptSel m.entries m.dram xfers releases nextXfer nextOp latches m.out m.free m.pending) :=
  h.trans ⟨⟨rfl, rfl, rfl, rfl, rfl, rfl, rfl⟩, rfl, List.prefix_refl _, Nat.le_refl _,
    fun i => ⟨i.dies, i.tiles, i.stackTab, i.feedPorts, i.feedIods, i.hostPorts, i.fns, i.reservoirs, i.engines, i.parts, i.entries, i.dram⟩, hs, ht, hl,
    ⟨same_or f_power, same_or f_cfg, same_or f_time, same_or f_log, same_or f_therm, same_or f_fm, same_or f_lantern, same_or f_mcEv, fun _ => rfl, fun _ => rfl, fun _ => rfl, fun _ => rfl, fun _ => rfl, fun _ => rfl, fun _ => rfl, fun _ => rfl, fun _ => rfl, fun _ => rfl, same_or f_ptSel, fun _ => rfl, fun _ => rfl, same_or f_xfers, same_or f_releases, same_or f_nextXfer, same_or f_nextOp, same_or f_latches, fun _ => rfl, fun _ => rfl⟩⟩

/-- A record update that takes free values. -/
theorem Keeps.take (h : Keeps F s m) (n : Nat) (hf : F.free = true := by assumption) : Keeps F s { m with free := m.free + n } :=
  h.trans ⟨⟨rfl, rfl, rfl, rfl, rfl, rfl, rfl⟩, rfl, List.prefix_refl _, Nat.le_add_right _ _,
    fun i => ⟨i.dies, i.tiles, i.stackTab, i.feedPorts, i.feedIods, i.hostPorts, i.fns, i.reservoirs, i.engines, i.parts, i.entries, i.dram⟩, id, id, id,
    ⟨fun _ => rfl, fun _ => rfl, fun _ => rfl, fun _ => rfl, fun _ => rfl, fun _ => rfl, fun _ => rfl, fun _ => rfl, fun _ => rfl, fun _ => rfl, fun _ => rfl, fun _ => rfl, fun _ => rfl, fun _ => rfl, fun _ => rfl, fun _ => rfl, fun _ => rfl, fun _ => rfl, fun _ => rfl, fun _ => rfl, fun _ => rfl, fun _ => rfl, fun _ => rfl, fun _ => rfl, fun _ => rfl, fun _ => rfl, fun _ => rfl, same_or (.inl hf)⟩⟩

/-- A record update of tables that keeps each of them canonical. -/
theorem Keeps.tabs (h : Keeps F s m) {dies : Tab Die} {tiles : Tab Tile} {stackTab : Tab Stack} {feedPorts : Tab FeedPort}
    {feedIods : Tab FeedIod} {hostPorts : Tab HostPort} {fns : Tab Fn} {reservoirs : Tab Reservoir} {engines : Tab ImgEngine}
    {parts : Tab Part} {entries : Tab Entry} {dram : Memory}
    (k : TablesOk m → tabWf {} dies = true ∧ tabWf {} tiles = true ∧ tabWf {} stackTab = true ∧ tabWf {} feedPorts = true ∧
      tabWf {} feedIods = true ∧ tabWf {} hostPorts = true ∧ tabWf {} fns = true ∧ tabWf {} reservoirs = true ∧
      tabWf {} engines = true ∧ tabWf {} parts = true ∧ tabWf {} entries = true ∧ dram.wf)
    (f_dies : F.dies = true ∨ dies = m.dies := by first | exact .inr rfl | exact .inl (by assumption))
    (f_tiles : F.tiles = true ∨ tiles = m.tiles := by first | exact .inr rfl | exact .inl (by assumption))
    (f_stackTab : F.stackTab = true ∨ stackTab = m.stackTab := by first | exact .inr rfl | exact .inl (by assumption))
    (f_feedPorts : F.feedPorts = true ∨ feedPorts = m.feedPorts := by first | exact .inr rfl | exact .inl (by assumption))
    (f_feedIods : F.feedIods = true ∨ feedIods = m.feedIods := by first | exact .inr rfl | exact .inl (by assumption))
    (f_hostPorts : F.hostPorts = true ∨ hostPorts = m.hostPorts := by first | exact .inr rfl | exact .inl (by assumption))
    (f_fns : F.fns = true ∨ fns = m.fns := by first | exact .inr rfl | exact .inl (by assumption))
    (f_reservoirs : F.reservoirs = true ∨ reservoirs = m.reservoirs := by first | exact .inr rfl | exact .inl (by assumption))
    (f_engines : F.engines = true ∨ engines = m.engines := by first | exact .inr rfl | exact .inl (by assumption))
    (f_parts : F.parts = true ∨ parts = m.parts := by first | exact .inr rfl | exact .inl (by assumption))
    (f_entries : F.entries = true ∨ entries = m.entries := by first | exact .inr rfl | exact .inl (by assumption))
    (f_dram : F.dram = true ∨ dram = m.dram := by first | exact .inr rfl | exact .inl (by assumption))
    : Keeps F s (State.mk m.variant m.coupling m.provisioning m.serial m.baseMac m.keyId m.keyPublic m.power m.cfg m.time m.log m.therm m.fm m.lantern m.mcEv dies tiles stackTab feedPorts feedIods hostPorts fns reservoirs engines parts m.ptSel entries dram m.xfers m.releases m.nextXfer m.nextOp m.latches m.out m.free m.pending) :=
  h.trans ⟨⟨rfl, rfl, rfl, rfl, rfl, rfl, rfl⟩, rfl, List.prefix_refl _, Nat.le_refl _,
    fun i => let ⟨a, b, c, d, e, f, g, h, j, k, l, n⟩ := k i; ⟨a, b, c, d, e, f, g, h, j, k, l, n⟩, id, id, id,
    ⟨fun _ => rfl, fun _ => rfl, fun _ => rfl, fun _ => rfl, fun _ => rfl, fun _ => rfl, fun _ => rfl, fun _ => rfl, same_or f_dies, same_or f_tiles, same_or f_stackTab, same_or f_feedPorts, same_or f_feedIods, same_or f_hostPorts, same_or f_fns, same_or f_reservoirs, same_or f_engines, same_or f_parts, fun _ => rfl, same_or f_entries, same_or f_dram, fun _ => rfl, fun _ => rfl, fun _ => rfl, fun _ => rfl, fun _ => rfl, fun _ => rfl, fun _ => rfl⟩⟩

theorem Keeps.foldl {β : Type} {f : State → β → State} (hf : ∀ m x, Keeps F s m → Keeps F s (f m x)) (l : List β)
    (h : Keeps F s m) : Keeps F s (l.foldl f m) := by
  induction l generalizing m with
  | nil => exact h
  | cons x l ih => exact ih (hf m x h)

theorem Keeps.foldl_fst {β γ : Type} {f : State × γ → β → State × γ}
    (hf : ∀ q x, Keeps F s q.1 → Keeps F s (f q x).1) (l : List β) (q : State × γ) (h : Keeps F s q.1) :
    Keeps F s (l.foldl f q).1 := by
  induction l generalizing q with
  | nil => exact h
  | cons x l ih => exact ih _ (hf q x h)

theorem Keeps.fst {γ : Type} {q : State × γ} {a : State} {b : γ} (h : Keeps F s q.1) (e : q = (a, b)) : Keeps F s a := by
  subst e; exact h

theorem Keeps.modDie (h : Keeps F s m) (k : Nat) (f : Die → Die) (hf : F.dies = true := by assumption) : Keeps F s (m.modDie k f) :=
  h.tabs (fun i => ⟨tmod_wf k f i.dies, i.tiles, i.stackTab, i.feedPorts, i.feedIods, i.hostPorts, i.fns, i.reservoirs, i.engines, i.parts, i.entries, i.dram⟩) (.inl hf) (.inr rfl) (.inr rfl) (.inr rfl) (.inr rfl) (.inr rfl) (.inr rfl) (.inr rfl) (.inr rfl) (.inr rfl) (.inr rfl) (.inr rfl)

theorem Keeps.modTile (h : Keeps F s m) (k : Nat) (f : Tile → Tile) (hf : F.tiles = true := by assumption) : Keeps F s (m.modTile k f) :=
  h.tabs (fun i => ⟨i.dies, tmod_wf k f i.tiles, i.stackTab, i.feedPorts, i.feedIods, i.hostPorts, i.fns, i.reservoirs, i.engines, i.parts, i.entries, i.dram⟩) (.inr rfl) (.inl hf) (.inr rfl) (.inr rfl) (.inr rfl) (.inr rfl) (.inr rfl) (.inr rfl) (.inr rfl) (.inr rfl) (.inr rfl) (.inr rfl)

theorem Keeps.modStack (h : Keeps F s m) (k : Nat) (f : Stack → Stack) (hf : F.stackTab = true := by assumption) : Keeps F s (m.modStack k f) :=
  h.tabs (fun i => ⟨i.dies, i.tiles, tmod_wf k f i.stackTab, i.feedPorts, i.feedIods, i.hostPorts, i.fns, i.reservoirs, i.engines, i.parts, i.entries, i.dram⟩) (.inr rfl) (.inr rfl) (.inl hf) (.inr rfl) (.inr rfl) (.inr rfl) (.inr rfl) (.inr rfl) (.inr rfl) (.inr rfl) (.inr rfl) (.inr rfl)

theorem Keeps.modFport (h : Keeps F s m) (k : Nat) (f : FeedPort → FeedPort) (hf : F.feedPorts = true := by assumption) : Keeps F s (m.modFport k f) :=
  h.tabs (fun i => ⟨i.dies, i.tiles, i.stackTab, tmod_wf k f i.feedPorts, i.feedIods, i.hostPorts, i.fns, i.reservoirs, i.engines, i.parts, i.entries, i.dram⟩) (.inr rfl) (.inr rfl) (.inr rfl) (.inl hf) (.inr rfl) (.inr rfl) (.inr rfl) (.inr rfl) (.inr rfl) (.inr rfl) (.inr rfl) (.inr rfl)

theorem Keeps.modFiod (h : Keeps F s m) (k : Nat) (f : FeedIod → FeedIod) (hf : F.feedIods = true := by assumption) : Keeps F s (m.modFiod k f) :=
  h.tabs (fun i => ⟨i.dies, i.tiles, i.stackTab, i.feedPorts, tmod_wf k f i.feedIods, i.hostPorts, i.fns, i.reservoirs, i.engines, i.parts, i.entries, i.dram⟩) (.inr rfl) (.inr rfl) (.inr rfl) (.inr rfl) (.inl hf) (.inr rfl) (.inr rfl) (.inr rfl) (.inr rfl) (.inr rfl) (.inr rfl) (.inr rfl)

theorem Keeps.modHport (h : Keeps F s m) (k : Nat) (f : HostPort → HostPort) (hf : F.hostPorts = true := by assumption) : Keeps F s (m.modHport k f) :=
  h.tabs (fun i => ⟨i.dies, i.tiles, i.stackTab, i.feedPorts, i.feedIods, tmod_wf k f i.hostPorts, i.fns, i.reservoirs, i.engines, i.parts, i.entries, i.dram⟩) (.inr rfl) (.inr rfl) (.inr rfl) (.inr rfl) (.inr rfl) (.inl hf) (.inr rfl) (.inr rfl) (.inr rfl) (.inr rfl) (.inr rfl) (.inr rfl)

theorem Keeps.modFn (h : Keeps F s m) (k : Nat) (f : Fn → Fn) (hf : F.fns = true := by assumption) : Keeps F s (m.modFn k f) :=
  h.tabs (fun i => ⟨i.dies, i.tiles, i.stackTab, i.feedPorts, i.feedIods, i.hostPorts, tmod_wf k f i.fns, i.reservoirs, i.engines, i.parts, i.entries, i.dram⟩) (.inr rfl) (.inr rfl) (.inr rfl) (.inr rfl) (.inr rfl) (.inr rfl) (.inl hf) (.inr rfl) (.inr rfl) (.inr rfl) (.inr rfl) (.inr rfl)

theorem Keeps.modRes (h : Keeps F s m) (k : Nat) (f : Reservoir → Reservoir) (hf : F.reservoirs = true := by assumption) : Keeps F s (m.modRes k f) :=
  h.tabs (fun i => ⟨i.dies, i.tiles, i.stackTab, i.feedPorts, i.feedIods, i.hostPorts, i.fns, tmod_wf k f i.reservoirs, i.engines, i.parts, i.entries, i.dram⟩) (.inr rfl) (.inr rfl) (.inr rfl) (.inr rfl) (.inr rfl) (.inr rfl) (.inr rfl) (.inl hf) (.inr rfl) (.inr rfl) (.inr rfl) (.inr rfl)

theorem Keeps.modEngine (h : Keeps F s m) (k : Nat) (f : ImgEngine → ImgEngine) (hf : F.engines = true := by assumption) : Keeps F s (m.modEngine k f) :=
  h.tabs (fun i => ⟨i.dies, i.tiles, i.stackTab, i.feedPorts, i.feedIods, i.hostPorts, i.fns, i.reservoirs, tmod_wf k f i.engines, i.parts, i.entries, i.dram⟩) (.inr rfl) (.inr rfl) (.inr rfl) (.inr rfl) (.inr rfl) (.inr rfl) (.inr rfl) (.inr rfl) (.inl hf) (.inr rfl) (.inr rfl) (.inr rfl)

theorem Keeps.modPart (h : Keeps F s m) (k : Nat) (f : Part → Part) (hf : F.parts = true := by assumption) : Keeps F s (m.modPart k f) :=
  h.tabs (fun i => ⟨i.dies, i.tiles, i.stackTab, i.feedPorts, i.feedIods, i.hostPorts, i.fns, i.reservoirs, i.engines, tmod_wf k f i.parts, i.entries, i.dram⟩) (.inr rfl) (.inr rfl) (.inr rfl) (.inr rfl) (.inr rfl) (.inr rfl) (.inr rfl) (.inr rfl) (.inr rfl) (.inl hf) (.inr rfl) (.inr rfl)

theorem Keeps.modEntry (h : Keeps F s m) (k : Nat) (f : Entry → Entry) (hf : F.entries = true := by assumption) : Keeps F s (m.modEntry k f) :=
  h.tabs (fun i => ⟨i.dies, i.tiles, i.stackTab, i.feedPorts, i.feedIods, i.hostPorts, i.fns, i.reservoirs, i.engines, i.parts, tmod_wf k f i.entries, i.dram⟩) (.inr rfl) (.inr rfl) (.inr rfl) (.inr rfl) (.inr rfl) (.inr rfl) (.inr rfl) (.inr rfl) (.inr rfl) (.inr rfl) (.inl hf) (.inr rfl)

theorem Keeps.modSlot (h : Keeps F s m) (p k : Nat) (f : ImgSlot → ImgSlot) (hf : F.parts = true := by assumption) : Keeps F s (m.modSlot p k f) :=
  h.modPart p _ hf

theorem Keeps.emit (h : Keeps F s m) (x : OutMsg) (hf : F.out = true := by assumption) : Keeps F s (m.emit x) :=
  h.trans ⟨⟨rfl, rfl, rfl, rfl, rfl, rfl, rfl⟩, rfl, List.prefix_append _ _, Nat.le_refl _,
    fun i => ⟨i.dies, i.tiles, i.stackTab, i.feedPorts, i.feedIods, i.hostPorts, i.fns, i.reservoirs, i.engines, i.parts, i.entries, i.dram⟩, id, id, id,
    ⟨fun _ => rfl, fun _ => rfl, fun _ => rfl, fun _ => rfl, fun _ => rfl, fun _ => rfl, fun _ => rfl, fun _ => rfl, fun _ => rfl, fun _ => rfl, fun _ => rfl, fun _ => rfl, fun _ => rfl, fun _ => rfl, fun _ => rfl, fun _ => rfl, fun _ => rfl, fun _ => rfl, fun _ => rfl, fun _ => rfl, fun _ => rfl, fun _ => rfl, fun _ => rfl, fun _ => rfl, fun _ => rfl, fun _ => rfl, same_or (.inl hf), fun _ => rfl⟩⟩

theorem Keeps.setNow (h : Keeps F s m) (n : Nat) (hf : F.time = true := by assumption) : Keeps F s (m.setNow n) :=
  h.trans ⟨⟨rfl, rfl, rfl, rfl, rfl, rfl, rfl⟩, rfl, List.prefix_refl _, Nat.le_refl _,
    fun i => ⟨i.dies, i.tiles, i.stackTab, i.feedPorts, i.feedIods, i.hostPorts, i.fns, i.reservoirs, i.engines, i.parts, i.entries, i.dram⟩, id, fun i u => Nat.le_trans (i u) (Nat.le_max_left _ _), id,
    ⟨fun _ => rfl, fun _ => rfl, same_or (.inl hf), fun _ => rfl, fun _ => rfl, fun _ => rfl, fun _ => rfl, fun _ => rfl, fun _ => rfl, fun _ => rfl, fun _ => rfl, fun _ => rfl, fun _ => rfl, fun _ => rfl, fun _ => rfl, fun _ => rfl, fun _ => rfl, fun _ => rfl, fun _ => rfl, fun _ => rfl, fun _ => rfl, fun _ => rfl, fun _ => rfl, fun _ => rfl, fun _ => rfl, fun _ => rfl, fun _ => rfl, fun _ => rfl⟩⟩

/-- A change of DRAM that keeps its canonical form. -/
theorem Keeps.dramOf (h : Keeps F s m) (d : Memory) (hd : m.dram.wf → d.wf) (hf : F.dram = true := by assumption) :
    Keeps F s { m with dram := d } :=
  Keeps.tabs (m := m) h (fun i => ⟨i.dies, i.tiles, i.stackTab, i.feedPorts, i.feedIods, i.hostPorts, i.fns, i.reservoirs, i.engines, i.parts, i.entries, hd i.dram⟩) (.inr rfl) (.inr rfl) (.inr rfl) (.inr rfl) (.inr rfl) (.inr rfl) (.inr rfl) (.inr rfl) (.inr rfl) (.inr rfl) (.inr rfl) (.inl hf)

theorem Keeps.dram (h : Keeps F s m) (a : Nat) (bs : List Byte) (hf : F.dram = true := by assumption) : Keeps F s { m with dram := memWrite m.dram a bs } :=
  h.dramOf _ (memWrite_wf a bs) hf

/-- What a meaning answers is what its guard lets through. -/
theorem guarded_keeps {ok : Bool} (h : Keeps F s m) (e : guarded ok m = .next t) : Keeps F s t := by
  unfold guarded at e
  split at e
  · cases e; exact h
  · cases e

end Sys2Proof.Machine
end

