-- ==== Sys2Proof/Laws/KeepsOps.lean ====
section
/-! SUPPORT. The operations of Machine/Ops.lean have `Keeps`: one lemma each. -/

namespace Sys2Proof.Machine

set_option Elab.async false

theorem report_keeps {F : Footprint} {s0 s : State} (hK : Keeps F s0 s) (die block cls : Nat) (part : Option Nat) (fields : List (Nat × Nat)) (f_mcEv : F.mcEv = true := by assumption) (f_dies : F.dies = true := by assumption) :
    Keeps F s0 (report s die block cls part fields) := by
  unfold report
  try dsimp only
  repeat' first
    | with_reducible assumption
    | with_reducible apply Keeps.modDie
    | split
    | dsimp only
    | with_reducible refine Keeps.upd ?_

theorem reportTile_keeps {F : Footprint} {s0 s : State} (hK : Keeps F s0 s) (t cls : Nat) (part : Option Nat) (fields : List (Nat × Nat)) (f_mcEv : F.mcEv = true := by assumption) (f_dies : F.dies = true := by assumption) :
    Keeps F s0 (reportTile s t cls part fields) := by
  unfold reportTile
  try dsimp only
  repeat' first
    | with_reducible assumption
    | with_reducible apply report_keeps

theorem reportLead_keeps {F : Footprint} {s0 s : State} (hK : Keeps F s0 s) (p cls : Nat) (fields : List (Nat × Nat)) (f_mcEv : F.mcEv = true := by assumption) (f_dies : F.dies = true := by assumption) :
    Keeps F s0 (reportLead s p cls fields) := by
  unfold reportLead
  try dsimp only
  repeat' first
    | with_reducible assumption
    | with_reducible apply reportTile_keeps

theorem raiseVec_keeps {F : Footprint} {s0 s : State} (hK : Keeps F s0 s) (fn vec : Nat) (f_fns : F.fns = true := by assumption) (f_out : F.out = true := by assumption) :
    Keeps F s0 (raiseVec s fn vec) := by
  unfold raiseVec
  try dsimp only
  repeat' first
    | with_reducible assumption
    | with_reducible apply Keeps.modFn
    | with_reducible apply Keeps.emit
    | split

theorem setEvt_keeps {F : Footprint} {s0 s : State} (hK : Keeps F s0 s) (fn bit : Nat) (f_fns : F.fns = true := by assumption) (f_out : F.out = true := by assumption) :
    Keeps F s0 (setEvt s fn bit) := by
  unfold setEvt
  try dsimp only
  repeat' first
    | with_reducible assumption
    | with_reducible apply Keeps.modFn
    | with_reducible apply raiseVec_keeps
    | split

theorem refuse_keeps {F : Footprint} {s0 s : State} (hK : Keeps F s0 s) (fn reason off : Nat) (f_fns : F.fns = true := by assumption) (f_out : F.out = true := by assumption) :
    Keeps F s0 (refuse s fn reason off) := by
  unfold refuse
  try dsimp only
  repeat' first
    | with_reducible assumption
    | with_reducible apply Keeps.modFn
    | with_reducible apply setEvt_keeps

theorem spoolAdd_keeps {F : Footprint} {s0 s : State} (hK : Keeps F s0 s) (p : Nat) (bytes : List Byte) (f_mcEv : F.mcEv = true := by assumption) (f_dies : F.dies = true := by assumption) (f_fns : F.fns = true := by assumption) (f_parts : F.parts = true := by assumption) (f_out : F.out = true := by assumption) :
    Keeps F s0 (spoolAdd s p bytes) := by
  unfold spoolAdd
  try dsimp only
  repeat' first
    | with_reducible assumption
    | with_reducible apply Keeps.modPart
    | with_reducible apply Keeps.modFn
    | with_reducible apply report_keeps
    | with_reducible apply setEvt_keeps
    | with_reducible refine Keeps.fst ?_ ‹_ = (_, _)›
    | split

theorem State.modRing_keeps {F : Footprint} {s0 s : State} (hK : Keeps F s0 s) (fn n : Nat) (f : Ring → Ring) (f_fns : F.fns = true := by assumption) :
    Keeps F s0 (State.modRing s fn n f) := by
  unfold State.modRing
  try dsimp only
  repeat' first
    | with_reducible assumption
    | with_reducible apply Keeps.modFn

theorem produce_keeps {F : Footprint} {s0 s : State} (hK : Keeps F s0 s) (fn : Nat) (c : Compl) (f_fns : F.fns = true := by assumption) (f_parts : F.parts = true := by assumption) :
    Keeps F s0 (produce s fn c) := by
  unfold produce
  try dsimp only
  repeat' first
    | with_reducible assumption
    | with_reducible apply Keeps.modFn
    | with_reducible apply progress_keeps
    | with_reducible refine Keeps.fst ?_ ‹_ = (_, _)›
    | split

theorem newOp_keeps {F : Footprint} {s0 s : State} (hK : Keeps F s0 s) (f_nextOp : F.nextOp = true := by assumption) :
    Keeps F s0 (newOp s).1 := by
  unfold newOp
  try dsimp only
  repeat' first
    | with_reducible assumption
    | split
    | dsimp only
    | with_reducible refine Keeps.upd ?_

theorem pushJob_keeps {F : Footprint} {s0 s : State} (hK : Keeps F s0 s) (stack : Nat) (j : ImgOp) (f_engines : F.engines = true := by assumption) :
    Keeps F s0 (pushJob s stack j) := by
  unfold pushJob
  try dsimp only
  repeat' first
    | with_reducible assumption
    | with_reducible apply Keeps.modEngine

theorem completeWith_keeps {F : Footprint} {s0 s : State} (hK : Keeps F s0 s) (h : HostRef) (reason entry count : Nat) (f_fns : F.fns = true := by assumption) (f_parts : F.parts = true := by assumption) :
    Keeps F s0 (completeWith s h reason entry count) := by
  unfold completeWith
  try dsimp only
  repeat' first
    | with_reducible assumption
    | with_reducible apply produce_keeps
    | split

end Sys2Proof.Machine
end

