-- ==== Sys2Proof/Laws/KeepsOpsNet.lean ====
section
/-! SUPPORT. The operations of Machine/OpsNet.lean have `Keeps`: one lemma each. -/

namespace Sys2Proof.Machine

set_option Elab.async false

theorem freeWord_keeps {F : Footprint} {s0 s : State} (hK : Keeps F s0 s) (f_free : F.free = true := by assumption) :
    Keeps F s0 (freeWord s).1 := by
  unfold freeWord
  try dsimp only
  repeat' first
    | with_reducible assumption
    | with_reducible apply Keeps.take

theorem txLost_keeps {F : Footprint} {s0 s : State} (hK : Keeps F s0 s) (p : Nat) (f_parts : F.parts = true := by assumption) :
    Keeps F s0 (txLost s p) := by
  unfold txLost
  try dsimp only
  repeat' first
    | with_reducible assumption
    | with_reducible apply Keeps.modPart

theorem sendRecord_keeps {F : Footprint} {s0 s : State} (hK : Keeps F s0 s) (p port : Nat) (rec : List Byte) (f_feedPorts : F.feedPorts = true := by assumption) (f_parts : F.parts = true := by assumption) (f_free : F.free = true := by assumption) :
    Keeps F s0 (sendRecord s p port rec) := by
  unfold sendRecord
  try dsimp only
  repeat' first
    | with_reducible assumption
    | with_reducible apply Keeps.modPart
    | with_reducible apply Keeps.modFport
    | with_reducible apply freeWord_keeps
    | with_reducible apply txLost_keeps
    | with_reducible refine Keeps.fst ?_ ‹_ = (_, _)›
    | split

end Sys2Proof.Machine
end

