-- ==== Sys2Proof/Laws/KeepsOpsTile.lean ====
section
/-! SUPPORT. The operations of Machine/OpsTile.lean have `Keeps`: one lemma each. -/

namespace Sys2Proof.Machine

set_option Elab.async false

theorem modPass_keeps {F : Footprint} {s0 s : State} (hK : Keeps F s0 s) (p id : Nat) (f : Pass → Pass) (f_parts : F.parts = true := by assumption) :
    Keeps F s0 (modPass s p id f) := by
  unfold modPass
  try dsimp only
  repeat' first
    | with_reducible assumption
    | with_reducible apply Keeps.modPart

theorem poisonPass_keeps {F : Footprint} {s0 s : State} (hK : Keeps F s0 s) (p : Nat) (pass : Option Nat) (reason : Nat) (f_parts : F.parts = true := by assumption) :
    Keeps F s0 (poisonPass s p pass reason) := by
  unfold poisonPass
  try dsimp only
  repeat' first
    | with_reducible assumption
    | with_reducible apply modPass_keeps
    | with_reducible refine Keeps.fst ?_ ‹_ = (_, _)›
    | split

theorem markFallback_keeps {F : Footprint} {s0 s : State} (hK : Keeps F s0 s) (p pass l m cause : Nat) (f_mcEv : F.mcEv = true := by assumption) (f_dies : F.dies = true := by assumption) (f_parts : F.parts = true := by assumption) :
    Keeps F s0 (markFallback s p pass l m cause) := by
  unfold markFallback
  try dsimp only
  repeat' first
    | with_reducible assumption
    | with_reducible apply Keeps.modPart
    | with_reducible apply Keeps.modSlot
    | with_reducible apply reportLead_keeps
    | with_reducible apply modPass_keeps
    | with_reducible refine Keeps.fst ?_ ‹_ = (_, _)›
    | split

theorem modCtx_keeps {F : Footprint} {s0 s : State} (hK : Keeps F s0 s) (t c : Nat) (f : Ctx → Ctx) (f_tiles : F.tiles = true := by assumption) :
    Keeps F s0 (modCtx s t c f) := by
  unfold modCtx
  try dsimp only
  repeat' first
    | with_reducible assumption
    | with_reducible apply Keeps.modTile

theorem giveTurn_keeps {F : Footprint} {s0 s : State} (hK : Keeps F s0 s) (p : Nat) (x : Pass) (f_parts : F.parts = true := by assumption) :
    Keeps F s0 (giveTurn s p x).1 := by
  unfold giveTurn
  try dsimp only
  repeat' first
    | with_reducible assumption
    | with_reducible apply Keeps.modPart
    | with_reducible apply modPass_keeps
    | with_reducible refine Keeps.fst ?_ ‹_ = (_, _)›
    | split

theorem mirrorCtx_keeps {F : Footprint} {s0 s : State} (hK : Keeps F s0 s) (t c : Nat) (f_tiles : F.tiles = true := by assumption) :
    Keeps F s0 (mirrorCtx s t c) := by
  unfold mirrorCtx
  try dsimp only
  repeat' first
    | with_reducible assumption
    | with_reducible apply Keeps.modTile
    | split

theorem nextUp_keeps {F : Footprint} {s0 s : State} (hK : Keeps F s0 s) (t c : Nat) (f_tiles : F.tiles = true := by assumption) (f_parts : F.parts = true := by assumption) :
    Keeps F s0 (nextUp s t c) := by
  unfold nextUp
  try dsimp only
  repeat' first
    | with_reducible assumption
    | with_reducible apply modCtx_keeps
    | with_reducible apply giveTurn_keeps
    | with_reducible apply mirrorCtx_keeps
    | with_reducible refine Keeps.fst ?_ ‹_ = (_, _)›
    | split

theorem goTo_keeps {F : Footprint} {s0 s : State} (hK : Keeps F s0 s) (t c pc : Nat) (f_tiles : F.tiles = true := by assumption) (f_parts : F.parts = true := by assumption) :
    Keeps F s0 (goTo s t c pc) := by
  unfold goTo
  try dsimp only
  repeat' first
    | with_reducible assumption
    | with_reducible apply modCtx_keeps
    | with_reducible apply nextUp_keeps
    | with_reducible refine Keeps.fst ?_ ‹_ = (_, _)›
    | split

theorem issue_keeps {F : Footprint} {s0 s : State} (hK : Keeps F s0 s) (t c : Nat) (w : Code) (us : List Res) (f : Ctx → State) (hf : ∀ a0, Keeps F s0 (f a0)) (f_tiles : F.tiles = true := by assumption) (f_parts : F.parts = true := by assumption) :
    Keeps F s0 (issue s t c w us f) := by
  unfold issue
  try dsimp only
  repeat' first
    | with_reducible assumption
    | with_reducible apply goTo_keeps
    | with_reducible apply hf
    | split

theorem engineBusy_keeps {F : Footprint} {s0 s : State} (hK : Keeps F s0 s) (t c : Nat) (e : Engine) (rs : List Res) (f_tiles : F.tiles = true := by assumption) :
    Keeps F s0 (engineBusy s t c e rs) := by
  unfold engineBusy
  try dsimp only
  repeat' first
    | with_reducible assumption
    | with_reducible apply Keeps.modTile

theorem schedFault_keeps {F : Footprint} {s0 s : State} (hK : Keeps F s0 s) (t p k : Nat) (pass : Option Nat) (slot row kind : Nat) (f_mcEv : F.mcEv = true := by assumption) (f_dies : F.dies = true := by assumption) (f_tiles : F.tiles = true := by assumption) (f_parts : F.parts = true := by assumption) :
    Keeps F s0 (schedFault s t p k pass slot row kind) := by
  unfold schedFault
  try dsimp only
  repeat' first
    | with_reducible assumption
    | with_reducible apply Keeps.modTile
    | with_reducible apply Keeps.modSlot
    | with_reducible apply reportTile_keeps
    | with_reducible apply poisonPass_keeps

theorem accessFault_keeps {F : Footprint} {s0 s : State} (hK : Keeps F s0 s) (t c slot row kind : Nat) (f_mcEv : F.mcEv = true := by assumption) (f_dies : F.dies = true := by assumption) (f_tiles : F.tiles = true := by assumption) (f_parts : F.parts = true := by assumption) :
    Keeps F s0 (accessFault s t c slot row kind) := by
  unfold accessFault
  try dsimp only
  repeat' first
    | with_reducible assumption
    | with_reducible apply Keeps.modTile
    | with_reducible apply schedFault_keeps

theorem slotFault_keeps {F : Footprint} {s0 s : State} (hK : Keeps F s0 s) (t c slot r kind : Nat) (f_mcEv : F.mcEv = true := by assumption) (f_dies : F.dies = true := by assumption) (f_tiles : F.tiles = true := by assumption) (f_parts : F.parts = true := by assumption) :
    Keeps F s0 (slotFault s t c slot r kind) := by
  unfold slotFault
  try dsimp only
  repeat' first
    | with_reducible assumption
    | with_reducible apply schedFault_keeps
    | with_reducible apply accessFault_keeps
    | split

theorem slotRead_keeps {F : Footprint} {s0 s : State} (hK : Keeps F s0 s) (t c slot off rows epoch : Nat) (f_mcEv : F.mcEv = true := by assumption) (f_dies : F.dies = true := by assumption) (f_tiles : F.tiles = true := by assumption) (f_parts : F.parts = true := by assumption) :
    Keeps F s0 (slotRead s t c slot off rows epoch).1 := by
  unfold slotRead
  try dsimp only
  repeat' first
    | with_reducible assumption
    | with_reducible apply poisonPass_keeps
    | with_reducible apply accessFault_keeps
    | with_reducible apply slotFault_keeps
    | with_reducible refine Keeps.fst ?_ ‹_ = (_, _)›
    | split

theorem slotWriteRow_keeps {F : Footprint} {s0 s : State} (hK : Keeps F s0 s) (t c slot r epoch readers : Nat) (bs : List Byte) (poison : Bool) (f_mcEv : F.mcEv = true := by assumption) (f_dies : F.dies = true := by assumption) (f_tiles : F.tiles = true := by assumption) (f_parts : F.parts = true := by assumption) :
    Keeps F s0 (slotWriteRow s t c slot r epoch readers bs poison) := by
  unfold slotWriteRow
  try dsimp only
  repeat' first
    | with_reducible assumption
    | with_reducible apply Keeps.modTile
    | with_reducible apply slotFault_keeps
    | split

theorem slotWriteRows_keeps {F : Footprint} {s0 s : State} (hK : Keeps F s0 s) (t c slot r epoch readers : Nat) (poison : Bool) (x0 : List (List Byte)) (f_mcEv : F.mcEv = true := by assumption) (f_dies : F.dies = true := by assumption) (f_tiles : F.tiles = true := by assumption) (f_parts : F.parts = true := by assumption) :
    Keeps F s0 (slotWriteRows s t c slot r epoch readers poison x0) := by
  induction x0 generalizing t c slot r epoch readers poison s with
  | nil => unfold slotWriteRows; exact hK
  | cons _ _ ih =>
    unfold slotWriteRows
    try dsimp only
    repeat' first
      | with_reducible assumption
      | with_reducible apply ih
      | with_reducible apply slotWriteRow_keeps

theorem slotWrite_keeps {F : Footprint} {s0 s : State} (hK : Keeps F s0 s) (t c slot epoch : Nat) (bs : List Byte) (poison : Bool) (f_mcEv : F.mcEv = true := by assumption) (f_dies : F.dies = true := by assumption) (f_tiles : F.tiles = true := by assumption) (f_parts : F.parts = true := by assumption) :
    Keeps F s0 (slotWrite s t c slot epoch bs poison) := by
  unfold slotWrite
  try dsimp only
  repeat' first
    | with_reducible assumption
    | with_reducible apply accessFault_keeps
    | with_reducible apply slotWriteRows_keeps
    | with_reducible refine Keeps.fst ?_ ‹_ = (_, _)›
    | split

theorem raiseArr_keeps {F : Footprint} {s0 s : State} (hK : Keeps F s0 s) (t c ctr : Nat) (f_mcEv : F.mcEv = true := by assumption) (f_dies : F.dies = true := by assumption) (f_tiles : F.tiles = true := by assumption) (f_parts : F.parts = true := by assumption) :
    Keeps F s0 (raiseArr s t c ctr) := by
  unfold raiseArr
  try dsimp only
  repeat' first
    | with_reducible assumption
    | with_reducible apply modCtx_keeps
    | with_reducible apply mirrorCtx_keeps
    | with_reducible apply schedFault_keeps
    | split

theorem takeArr_keeps {F : Footprint} {s0 s : State} (hK : Keeps F s0 s) (t c ctr k : Nat) (f_tiles : F.tiles = true := by assumption) :
    Keeps F s0 (takeArr s t c ctr k) := by
  unfold takeArr
  try dsimp only
  repeat' first
    | with_reducible assumption
    | with_reducible apply modCtx_keeps

theorem putCtxWord_keeps {F : Footprint} {s0 s : State} (hK : Keeps F s0 s) (t c : Nat) (cell : Bool) (w : Nat) (v : LaWord) (f_tiles : F.tiles = true := by assumption) :
    Keeps F s0 (putCtxWord s t c cell w v) := by
  unfold putCtxWord
  try dsimp only
  repeat' first
    | with_reducible assumption
    | with_reducible apply Keeps.modTile
    | with_reducible apply modCtx_keeps
    | split

theorem accRange_keeps {F : Footprint} {s0 s : State} (hK : Keeps F s0 s) (t c p : Nat) (pass : Option Nat) (layer w : Nat) (f_mcEv : F.mcEv = true := by assumption) (f_dies : F.dies = true := by assumption) (f_tiles : F.tiles = true := by assumption) (f_parts : F.parts = true := by assumption) :
    Keeps F s0 (accRange s t c p pass layer w) := by
  unfold accRange
  try dsimp only
  repeat' first
    | with_reducible assumption
    | with_reducible apply Keeps.modTile
    | with_reducible apply reportTile_keeps
    | with_reducible apply poisonPass_keeps

theorem enterWord_keeps {F : Footprint} {s0 s : State} (hK : Keeps F s0 s) (t c p : Nat) (pass : Option Nat) (cell : Bool) (layer w : Nat) (v : LaWord) (f_mcEv : F.mcEv = true := by assumption) (f_dies : F.dies = true := by assumption) (f_tiles : F.tiles = true := by assumption) (f_parts : F.parts = true := by assumption) :
    Keeps F s0 (enterWord s t c p pass cell layer w v) := by
  unfold enterWord
  try dsimp only
  repeat' first
    | with_reducible assumption
    | with_reducible apply putCtxWord_keeps
    | with_reducible apply accRange_keeps
    | with_reducible refine Keeps.fst ?_ ‹_ = (_, _)›
    | split

theorem enterWords_keeps {F : Footprint} {s0 s : State} (hK : Keeps F s0 s) (t c p : Nat) (pass : Option Nat) (cell : Bool) (layer w : Nat) (x0 : List LaWord) (f_mcEv : F.mcEv = true := by assumption) (f_dies : F.dies = true := by assumption) (f_tiles : F.tiles = true := by assumption) (f_parts : F.parts = true := by assumption) :
    Keeps F s0 (enterWords s t c p pass cell layer w x0) := by
  induction x0 generalizing t c p pass cell layer w s with
  | nil => unfold enterWords; exact hK
  | cons _ _ ih =>
    unfold enterWords
    try dsimp only
    repeat' first
      | with_reducible assumption
      | with_reducible apply ih
      | with_reducible apply enterWord_keeps

theorem enterTerms_keeps {F : Footprint} {s0 s : State} (hK : Keeps F s0 s) (t c p : Nat) (pass : Option Nat) (cell : Bool) (layer w : Nat) (vs : List LaWord) (f_mcEv : F.mcEv = true := by assumption) (f_dies : F.dies = true := by assumption) (f_tiles : F.tiles = true := by assumption) (f_parts : F.parts = true := by assumption) :
    Keeps F s0 (enterTerms s t c p pass cell layer w vs) := by
  unfold enterTerms
  try dsimp only
  repeat' first
    | with_reducible assumption
    | with_reducible apply enterWord_keeps
    | (with_reducible apply Keeps.foldl; intro _ _ _)

theorem openWords_keeps {F : Footprint} {s0 s : State} (hK : Keeps F s0 s) (t : Nat) (tag : Option PassTag) (cell : Bool) (w n : Nat) (f_tiles : F.tiles = true := by assumption) :
    Keeps F s0 (openWords s t tag cell w n) := by
  unfold openWords
  try dsimp only
  repeat' first
    | with_reducible assumption
    | with_reducible apply Keeps.modTile

theorem noteRegion_keeps {F : Footprint} {s0 s : State} (hK : Keeps F s0 s) (t c w n l m col : Nat) (f_tiles : F.tiles = true := by assumption) :
    Keeps F s0 (noteRegion s t c w n l m col) := by
  unfold noteRegion
  try dsimp only
  repeat' first
    | with_reducible assumption
    | with_reducible apply modCtx_keeps

theorem countTx_keeps {F : Footprint} {s0 s : State} (hK : Keeps F s0 s) (q : Nat × Nat) (bytes : Nat) (f_dies : F.dies = true := by assumption) :
    Keeps F s0 (countTx s q bytes) := by
  unfold countTx
  try dsimp only
  repeat' first
    | with_reducible assumption
    | with_reducible apply Keeps.modDie

theorem countRx_keeps {F : Footprint} {s0 s : State} (hK : Keeps F s0 s) (q : Nat × Nat) (bytes : Nat) (f_dies : F.dies = true := by assumption) :
    Keeps F s0 (countRx s q bytes) := by
  unfold countRx
  try dsimp only
  repeat' first
    | with_reducible assumption
    | with_reducible apply Keeps.modDie
    | with_reducible refine Keeps.fst ?_ ‹_ = (_, _)›
    | split

theorem countFirst_keeps {F : Footprint} {s0 s : State} (hK : Keeps F s0 s) (links : List (Nat × Nat)) (bytes : Nat) (f_dies : F.dies = true := by assumption) :
    Keeps F s0 (countFirst s links bytes) := by
  unfold countFirst
  try dsimp only
  repeat' first
    | with_reducible assumption
    | with_reducible apply countTx_keeps
    | with_reducible refine Keeps.fst ?_ ‹_ = (_, _)›
    | split

theorem countCrossed_keeps {F : Footprint} {s0 s : State} (hK : Keeps F s0 s) (links : List (Nat × Nat)) (bytes : Nat) (f_dies : F.dies = true := by assumption) :
    Keeps F s0 (countCrossed s links bytes) := by
  unfold countCrossed
  try dsimp only
  repeat' first
    | with_reducible assumption
    | with_reducible apply countTx_keeps
    | with_reducible apply countRx_keeps
    | (with_reducible apply Keeps.foldl; intro _ _ _)

theorem countPath_keeps {F : Footprint} {s0 s : State} (hK : Keeps F s0 s) (links : List (Nat × Nat)) (bytes : Nat) (f_dies : F.dies = true := by assumption) :
    Keeps F s0 (countPath s links bytes) := by
  unfold countPath
  try dsimp only
  repeat' first
    | with_reducible assumption
    | with_reducible apply countFirst_keeps
    | with_reducible apply countCrossed_keeps

theorem launchFrom_keeps {F : Footprint} {s0 s : State} (hK : Keeps F s0 s) (die src : Nat) (k : Ctx) (dt dc : Nat) (ctr : Option Nat) (kind : XferKind) (bytes : Nat) (pull : Option Release) (f_dies : F.dies = true := by assumption) (f_parts : F.parts = true := by assumption) (f_xfers : F.xfers = true := by assumption) (f_nextXfer : F.nextXfer = true := by assumption) :
    Keeps F s0 (launchFrom s die src k dt dc ctr kind bytes pull) := by
  unfold launchFrom
  try dsimp only
  repeat' first
    | with_reducible assumption
    | with_reducible apply poisonPass_keeps
    | with_reducible apply countFirst_keeps
    | with_reducible refine Keeps.fst ?_ ‹_ = (_, _)›
    | split
    | dsimp only
    | with_reducible refine Keeps.upd ?_

theorem launch_keeps {F : Footprint} {s0 s : State} (hK : Keeps F s0 s) (t : Nat) (k : Ctx) (dt dc : Nat) (ctr : Option Nat) (kind : XferKind) (bytes : Nat) (pull : Option Release) (f_dies : F.dies = true := by assumption) (f_parts : F.parts = true := by assumption) (f_xfers : F.xfers = true := by assumption) (f_nextXfer : F.nextXfer = true := by assumption) :
    Keeps F s0 (launch s t k dt dc ctr kind bytes pull) := by
  unfold launch
  try dsimp only
  repeat' first
    | with_reducible assumption
    | with_reducible apply launchFrom_keeps

end Sys2Proof.Machine
end

