-- ==== Sys2Proof/Laws/KeepsOpsTarn.lean ====
section
/-! SUPPORT. The operations of Machine/OpsTarn.lean have `Keeps`: one lemma each. -/

namespace Sys2Proof.Machine

set_option Elab.async false

theorem modTarn_keeps {F : Footprint} {s0 s : State} (hK : Keeps F s0 s) (t n : Nat) (f : Tarn → Tarn) (f_tiles : F.tiles = true := by assumption) :
    Keeps F s0 (modTarn s t n f) := by
  unfold modTarn
  try dsimp only
  repeat' first
    | with_reducible assumption
    | with_reducible apply Keeps.modTile

theorem driftNow_keeps {F : Footprint} {s0 s : State} (hK : Keeps F s0 s) (t tarn key : Nat) (f_mcEv : F.mcEv = true := by assumption) (f_dies : F.dies = true := by assumption) (f_tiles : F.tiles = true := by assumption) :
    Keeps F s0 (driftNow s t tarn key) := by
  unfold driftNow
  try dsimp only
  repeat' first
    | with_reducible assumption
    | with_reducible apply Keeps.modTile
    | with_reducible apply reportTile_keeps
    | with_reducible apply modTarn_keeps
    | with_reducible refine Keeps.fst ?_ ‹_ = (_, _)›
    | split

theorem driftCompare_keeps {F : Footprint} {s0 s : State} (hK : Keeps F s0 s) (t tarn key : Nat) (fine : Int) (ideal : Nat) (f_mcEv : F.mcEv = true := by assumption) (f_dies : F.dies = true := by assumption) (f_tiles : F.tiles = true := by assumption) :
    Keeps F s0 (driftCompare s t tarn key fine ideal) := by
  unfold driftCompare
  try dsimp only
  repeat' first
    | with_reducible assumption
    | with_reducible apply modTarn_keeps
    | with_reducible apply driftNow_keeps
    | split

theorem queueReloc_keeps {F : Footprint} {s0 s : State} (hK : Keeps F s0 s) (p : Nat) (f_fm : F.fm = true := by assumption) :
    Keeps F s0 (queueReloc s p) := by
  unfold queueReloc
  try dsimp only
  repeat' first
    | with_reducible assumption
    | split
    | dsimp only
    | with_reducible refine Keeps.upd ?_

theorem shortTile_keeps {F : Footprint} {s0 s : State} (hK : Keeps F s0 s) (t : Nat) (f_fm : F.fm = true := by assumption) (f_dies : F.dies = true := by assumption) :
    Keeps F s0 (shortTile s t) := by
  unfold shortTile
  try dsimp only
  repeat' first
    | with_reducible assumption
    | with_reducible apply Keeps.modDie
    | with_reducible apply queueReloc_keeps
    | (with_reducible apply Keeps.foldl; intro _ _ _)
    | split

theorem lanternClear_keeps {F : Footprint} {s0 s : State} (hK : Keeps F s0 s) (t tarn : Nat) (f_dies : F.dies = true := by assumption) :
    Keeps F s0 (lanternClear s t tarn) := by
  unfold lanternClear
  try dsimp only
  repeat' first
    | with_reducible assumption
    | with_reducible apply Keeps.modDie
    | split

theorem replaceTarn_keeps {F : Footprint} {s0 s : State} (hK : Keeps F s0 s) (t tarn : Nat) (f_fm : F.fm = true := by assumption) (f_dies : F.dies = true := by assumption) (f_tiles : F.tiles = true := by assumption) :
    Keeps F s0 (replaceTarn s t tarn) := by
  unfold replaceTarn
  try dsimp only
  repeat' first
    | with_reducible assumption
    | with_reducible apply Keeps.modTile
    | with_reducible apply modTarn_keeps
    | with_reducible apply shortTile_keeps
    | with_reducible apply lanternClear_keeps
    | with_reducible refine Keeps.fst ?_ ‹_ = (_, _)›
    | split

theorem mapColumn_keeps {F : Footprint} {s0 s : State} (hK : Keeps F s0 s) (t tarn lc : Nat) (f_fm : F.fm = true := by assumption) (f_dies : F.dies = true := by assumption) (f_tiles : F.tiles = true := by assumption) :
    Keeps F s0 (mapColumn s t tarn lc) := by
  unfold mapColumn
  try dsimp only
  repeat' first
    | with_reducible assumption
    | with_reducible apply modTarn_keeps
    | with_reducible apply replaceTarn_keeps
    | with_reducible refine Keeps.fst ?_ ‹_ = (_, _)›
    | split

theorem enterGroup_keeps {F : Footprint} {s0 s : State} (hK : Keeps F s0 s) (t : Nat) (v : Mvm) (j : Nat) (bad : Bool) (w : LaWord) (f_mcEv : F.mcEv = true := by assumption) (f_dies : F.dies = true := by assumption) (f_tiles : F.tiles = true := by assumption) (f_parts : F.parts = true := by assumption) :
    Keeps F s0 (enterGroup s t v j bad w) := by
  unfold enterGroup
  try dsimp only
  repeat' first
    | with_reducible assumption
    | with_reducible apply poisonPass_keeps
    | with_reducible apply enterWord_keeps
    | split

theorem enterIdeal_keeps {F : Footprint} {s0 s : State} (hK : Keeps F s0 s) (t kChunk : Nat) (v : Mvm) (m : Matrix) (gs : List Nat) (fb : Bool) (f_mcEv : F.mcEv = true := by assumption) (f_dies : F.dies = true := by assumption) (f_tiles : F.tiles = true := by assumption) (f_parts : F.parts = true := by assumption) :
    Keeps F s0 (enterIdeal s t kChunk v m gs fb) := by
  unfold enterIdeal
  try dsimp only
  repeat' first
    | with_reducible assumption
    | with_reducible apply enterGroup_keeps
    | (with_reducible apply Keeps.foldl; intro _ _ _)

theorem finishExact_keeps {F : Footprint} {s0 s : State} (hK : Keeps F s0 s) (t p pass l m : Nat) (mx : Matrix) (n : Nat) (f_mcEv : F.mcEv = true := by assumption) (f_dies : F.dies = true := by assumption) (f_tiles : F.tiles = true := by assumption) (f_parts : F.parts = true := by assumption) :
    Keeps F s0 (finishExact s t p pass l m mx n) := by
  unfold finishExact
  try dsimp only
  repeat' first
    | with_reducible assumption
    | with_reducible apply modTarn_keeps
    | with_reducible apply enterIdeal_keeps
    | with_reducible refine Keeps.fst ?_ ‹_ = (_, _)›
    | split

theorem stepToFallback_keeps {F : Footprint} {s0 s : State} (hK : Keeps F s0 s) (p pass l m : Nat) (f_mcEv : F.mcEv = true := by assumption) (f_dies : F.dies = true := by assumption) (f_tiles : F.tiles = true := by assumption) (f_parts : F.parts = true := by assumption) (f_xfers : F.xfers = true := by assumption) :
    Keeps F s0 (stepToFallback s p pass l m) := by
  unfold stepToFallback
  try dsimp only
  repeat' first
    | with_reducible assumption
    | with_reducible apply Keeps.modTile
    | with_reducible apply putCtxWord_keeps
    | with_reducible apply finishExact_keeps
    | (with_reducible apply Keeps.foldl; intro _ _ _)
    | with_reducible refine Keeps.fst ?_ ‹_ = (_, _)›
    | split
    | dsimp only
    | with_reducible refine Keeps.upd ?_

theorem enterQuad_keeps {F : Footprint} {s0 s : State} (hK : Keeps F s0 s) (t : Nat) (T : Tarn) (v : Mvm) (m : Matrix) (q : Nat) (f_mcEv : F.mcEv = true := by assumption) (f_dies : F.dies = true := by assumption) (f_tiles : F.tiles = true := by assumption) (f_parts : F.parts = true := by assumption) :
    Keeps F s0 (enterQuad s t T v m q) := by
  unfold enterQuad
  try dsimp only
  repeat' first
    | with_reducible assumption
    | with_reducible apply enterGroup_keeps
    | (with_reducible apply Keeps.foldl; intro _ _ _)

end Sys2Proof.Machine
end

