-- ==== Sys2Proof/Laws/KeepsOpsPass.lean ====
section
/-! SUPPORT. The operations of Machine/OpsPass.lean have `Keeps`: one lemma each. -/

namespace Sys2Proof.Machine

set_option Elab.async false

theorem dropWaiting_keeps {F : Footprint} {s0 s : State} (hK : Keeps F s0 s) (t c : Nat) (f_dies : F.dies = true := by assumption) :
    Keeps F s0 (dropWaiting s t c) := by
  unfold dropWaiting
  try dsimp only
  repeat' first
    | with_reducible assumption
    | with_reducible apply Keeps.modDie
    | (with_reducible apply Keeps.foldl; intro _ _ _)
    | split

theorem restartCtx_keeps {F : Footprint} {s0 s : State} (hK : Keeps F s0 s) (pass layer g t c : Nat) (f_dies : F.dies = true := by assumption) (f_tiles : F.tiles = true := by assumption) (f_parts : F.parts = true := by assumption) :
    Keeps F s0 (restartCtx s pass layer g t c) := by
  unfold restartCtx
  try dsimp only
  repeat' first
    | with_reducible assumption
    | with_reducible apply modCtx_keeps
    | with_reducible apply mirrorCtx_keeps
    | with_reducible apply nextUp_keeps
    | with_reducible apply dropWaiting_keeps
    | with_reducible refine Keeps.fst ?_ ‹_ = (_, _)›
    | split

theorem restartPass_keeps {F : Footprint} {s0 s : State} (hK : Keeps F s0 s) (p pass layer : Nat) (f_dies : F.dies = true := by assumption) (f_tiles : F.tiles = true := by assumption) (f_parts : F.parts = true := by assumption) :
    Keeps F s0 (restartPass s p pass layer) := by
  unfold restartPass
  try dsimp only
  repeat' first
    | with_reducible assumption
    | with_reducible apply modPass_keeps
    | with_reducible apply restartCtx_keeps
    | (with_reducible apply Keeps.foldl; intro _ _ _)
    | with_reducible refine Keeps.fst ?_ ‹_ = (_, _)›
    | split

theorem replayLater_keeps {F : Footprint} {s0 s : State} (hK : Keeps F s0 s) (p entry pos layer : Nat) (f_dies : F.dies = true := by assumption) (f_tiles : F.tiles = true := by assumption) (f_parts : F.parts = true := by assumption) :
    Keeps F s0 (replayLater s p entry pos layer) := by
  unfold replayLater
  try dsimp only
  repeat' first
    | with_reducible assumption
    | with_reducible apply modPass_keeps
    | with_reducible apply restartPass_keeps
    | (with_reducible apply Keeps.foldl; intro _ _ _)
    | with_reducible refine Keeps.fst ?_ ‹_ = (_, _)›
    | split

theorem layerToFallback_keeps {F : Footprint} {s0 s : State} (hK : Keeps F s0 s) (p pass layer cause : Nat) (f_mcEv : F.mcEv = true := by assumption) (f_dies : F.dies = true := by assumption) (f_parts : F.parts = true := by assumption) :
    Keeps F s0 (layerToFallback s p pass layer cause) := by
  unfold layerToFallback
  try dsimp only
  repeat' first
    | with_reducible assumption
    | with_reducible apply markFallback_keeps
    | (with_reducible apply Keeps.foldl; intro _ _ _)
    | with_reducible refine Keeps.fst ?_ ‹_ = (_, _)›
    | split

theorem supplyFallback_keeps {F : Footprint} {s0 s : State} (hK : Keeps F s0 s) (d : Nat) (f_mcEv : F.mcEv = true := by assumption) (f_dies : F.dies = true := by assumption) (f_tiles : F.tiles = true := by assumption) (f_parts : F.parts = true := by assumption) (f_xfers : F.xfers = true := by assumption) :
    Keeps F s0 (supplyFallback s d) := by
  unfold supplyFallback
  try dsimp only
  repeat' first
    | with_reducible assumption
    | with_reducible apply stepToFallback_keeps
    | with_reducible apply layerToFallback_keeps
    | (with_reducible apply Keeps.foldl; intro _ _ _)

theorem troubleResponse_keeps {F : Footprint} {s0 s : State} (hK : Keeps F s0 s) (p pass layer gen : Nat) (forced : Option (Nat × Nat)) (f_mcEv : F.mcEv = true := by assumption) (f_dies : F.dies = true := by assumption) (f_tiles : F.tiles = true := by assumption) (f_parts : F.parts = true := by assumption) :
    Keeps F s0 (troubleResponse s p pass layer gen forced) := by
  unfold troubleResponse
  try dsimp only
  repeat' first
    | with_reducible assumption
    | with_reducible apply Keeps.modPart
    | with_reducible apply Keeps.modSlot
    | with_reducible apply modPass_keeps
    | with_reducible apply restartPass_keeps
    | with_reducible apply replayLater_keeps
    | with_reducible apply layerToFallback_keeps
    | with_reducible refine Keeps.fst ?_ ‹_ = (_, _)›
    | split

end Sys2Proof.Machine
end

