-- ==== Sys2Proof/Laws/KeepsOpsKv.lean ====
section
/-! SUPPORT. The operations of Machine/OpsKv.lean have `Keeps`: one lemma each. -/

namespace Sys2Proof.Machine

set_option Elab.async false

theorem modChan_keeps {F : Footprint} {s0 s : State} (hK : Keeps F s0 s) (stack ch : Nat) (f : Chan → Chan) (f_stackTab : F.stackTab = true := by assumption) :
    Keeps F s0 (modChan s stack ch f) := by
  unfold modChan
  try dsimp only
  repeat' first
    | with_reducible assumption
    | with_reducible apply Keeps.modStack

theorem markPoison_keeps {F : Footprint} {s0 s : State} (hK : Keeps F s0 s) (a : Nat) (ws : List Nat) (poison : Bool) (f_stackTab : F.stackTab = true := by assumption) :
    Keeps F s0 (markPoison s a ws poison) := by
  unfold markPoison
  try dsimp only
  repeat' first
    | with_reducible assumption
    | with_reducible apply modChan_keeps

theorem dramWrite_keeps {F : Footprint} {s0 s : State} (hK : Keeps F s0 s) (a : Nat) (bs : List Byte) (poison : Bool) (f_stackTab : F.stackTab = true := by assumption) (f_dram : F.dram = true := by assumption) :
    Keeps F s0 (dramWrite s a bs poison) := by
  unfold dramWrite
  try dsimp only
  repeat' first
    | with_reducible assumption
    | with_reducible apply markPoison_keeps
    | with_reducible apply Keeps.dram
    | split

theorem chanCorrected_keeps {F : Footprint} {s0 s : State} (hK : Keeps F s0 s) (a : Nat) (f_stackTab : F.stackTab = true := by assumption) :
    Keeps F s0 (chanCorrected s a) := by
  unfold chanCorrected
  try dsimp only
  repeat' first
    | with_reducible assumption
    | with_reducible apply modChan_keeps

theorem zeroGranules_keeps {F : Footprint} {s0 s : State} (h : Keeps F s0 s) (gs : List Nat) (f_stackTab : F.stackTab = true := by assumption) (f_dram : F.dram = true := by assumption) : Keeps F s0 (zeroGranules s gs) := by
  unfold zeroGranules
  refine Keeps.dramOf (Keeps.foldl ?_ _ h) _ (filter_wf _)
  intro m g hm
  exact Keeps.foldl (fun n c hn => modChan_keeps hn _ _ _) _ hm

theorem modPool_keeps {F : Footprint} {s0 s : State} (hK : Keeps F s0 s) (p k : Nat) (f : KvPool → KvPool) (f_parts : F.parts = true := by assumption) :
    Keeps F s0 (modPool s p k f) := by
  unfold modPool
  try dsimp only
  repeat' first
    | with_reducible assumption
    | with_reducible apply Keeps.modSlot

theorem checkLow_keeps {F : Footprint} {s0 s : State} (hK : Keeps F s0 s) (p k : Nat) (f_mcEv : F.mcEv = true := by assumption) (f_dies : F.dies = true := by assumption) (f_parts : F.parts = true := by assumption) :
    Keeps F s0 (checkLow s p k) := by
  unfold checkLow
  try dsimp only
  repeat' first
    | with_reducible assumption
    | with_reducible apply reportLead_keeps
    | with_reducible apply modPool_keeps
    | split

theorem takeStripe_keeps {F : Footprint} {s0 s : State} (h : Keeps F s0 s) {p k n : Nat} {t : State} (e : takeStripe s p k = some (n, t)) (f_mcEv : F.mcEv = true := by assumption) (f_dies : F.dies = true := by assumption) (f_parts : F.parts = true := by assumption) :
    Keeps F s0 t := by
  simp only [takeStripe, Option.map_eq_some_iff, Prod.mk.injEq] at e
  obtain ⟨r, -, -, rfl⟩ := e
  exact checkLow_keeps (modPool_keeps h _ _ _) _ _

theorem returnStripe_keeps {F : Footprint} {s0 s : State} (hK : Keeps F s0 s) (p k stripe : Nat) (f_mcEv : F.mcEv = true := by assumption) (f_dies : F.dies = true := by assumption) (f_parts : F.parts = true := by assumption) :
    Keeps F s0 (returnStripe s p k stripe) := by
  unfold returnStripe
  try dsimp only
  repeat' first
    | with_reducible assumption
    | with_reducible apply modPool_keeps
    | with_reducible apply checkLow_keeps
    | split

theorem beginFrameWait_keeps {F : Footprint} {s0 s : State} (hK : Keeps F s0 s) (p k e : Nat) (f_mcEv : F.mcEv = true := by assumption) (f_dies : F.dies = true := by assumption) (f_parts : F.parts = true := by assumption) (f_entries : F.entries = true := by assumption) :
    Keeps F s0 (beginFrameWait s p k e) := by
  unfold beginFrameWait
  try dsimp only
  repeat' first
    | with_reducible assumption
    | with_reducible apply Keeps.modEntry
    | with_reducible apply reportLead_keeps
    | with_reducible apply modPool_keeps
    | split

theorem endFrameWait_keeps {F : Footprint} {s0 s : State} (hK : Keeps F s0 s) (p k e : Nat) (f_parts : F.parts = true := by assumption) (f_entries : F.entries = true := by assumption) :
    Keeps F s0 (endFrameWait s p k e) := by
  unfold endFrameWait
  try dsimp only
  repeat' first
    | with_reducible assumption
    | with_reducible apply Keeps.modEntry
    | with_reducible apply modPool_keeps

theorem ctrlWrite_keeps {F : Footprint} {s0 s : State} (hK : Keeps F s0 s) (p k off : Nat) (bs : List Byte) (f_stackTab : F.stackTab = true := by assumption) (f_dram : F.dram = true := by assumption) :
    Keeps F s0 (ctrlWrite s p k off bs) := by
  unfold ctrlWrite
  try dsimp only
  repeat' first
    | with_reducible assumption
    | with_reducible apply dramWrite_keeps
    | with_reducible refine Keeps.fst ?_ ‹_ = (_, _)›
    | split

theorem setRoot_keeps {F : Footprint} {s0 s : State} (hK : Keeps F s0 s) (p e r : Nat) (leaf : Option Nat) (f_stackTab : F.stackTab = true := by assumption) (f_entries : F.entries = true := by assumption) (f_dram : F.dram = true := by assumption) :
    Keeps F s0 (setRoot s p e r leaf) := by
  unfold setRoot
  try dsimp only
  repeat' first
    | with_reducible assumption
    | with_reducible apply Keeps.modEntry
    | with_reducible apply ctrlWrite_keeps

theorem setDesc_keeps {F : Footprint} {s0 s : State} (hK : Keeps F s0 s) (p e : Nat) (ix : Bool) (j : Nat) (d : PageDesc) (f_stackTab : F.stackTab = true := by assumption) (f_entries : F.entries = true := by assumption) (f_dram : F.dram = true := by assumption) :
    Keeps F s0 (setDesc s p e ix j d) := by
  unfold setDesc
  try dsimp only
  repeat' first
    | with_reducible assumption
    | with_reducible apply Keeps.modEntry
    | with_reducible apply ctrlWrite_keeps
    | with_reducible apply setRoot_keeps
    | with_reducible refine Keeps.fst ?_ ‹_ = (_, _)›
    | split

theorem setDescs_keeps {F : Footprint} {s0 s : State} (hK : Keeps F s0 s) (p e : Nat) (ix : Bool) (ds : List (Nat × PageDesc)) (f_stackTab : F.stackTab = true := by assumption) (f_entries : F.entries = true := by assumption) (f_dram : F.dram = true := by assumption) :
    Keeps F s0 (setDescs s p e ix ds) := by
  unfold setDescs
  try dsimp only
  repeat' first
    | with_reducible assumption
    | with_reducible apply setDesc_keeps
    | (with_reducible apply Keeps.foldl; intro _ _ _)

theorem setCarry_keeps {F : Footprint} {s0 s : State} (hK : Keeps F s0 s) (p e : Nat) (v : KvParams) (slot pair : Nat) (isV : Bool) (c : List Nat) (f_stackTab : F.stackTab = true := by assumption) (f_entries : F.entries = true := by assumption) (f_dram : F.dram = true := by assumption) :
    Keeps F s0 (setCarry s p e v slot pair isV c) := by
  unfold setCarry
  try dsimp only
  repeat' first
    | with_reducible assumption
    | with_reducible apply Keeps.modEntry
    | with_reducible apply ctrlWrite_keeps

theorem emptyPage_keeps {F : Footprint} {s0 s : State} (hK : Keeps F s0 s) (p k e page : Nat) (f_mcEv : F.mcEv = true := by assumption) (f_dies : F.dies = true := by assumption) (f_stackTab : F.stackTab = true := by assumption) (f_parts : F.parts = true := by assumption) (f_entries : F.entries = true := by assumption) (f_dram : F.dram = true := by assumption) :
    Keeps F s0 (emptyPage s p k e page) := by
  unfold emptyPage
  try dsimp only
  repeat' first
    | with_reducible assumption
    | with_reducible apply returnStripe_keeps
    | with_reducible apply setDesc_keeps
    | split

theorem trimIndex_keeps {F : Footprint} {s0 s : State} (hK : Keeps F s0 s) (p k e : Nat) (f_mcEv : F.mcEv = true := by assumption) (f_dies : F.dies = true := by assumption) (f_stackTab : F.stackTab = true := by assumption) (f_parts : F.parts = true := by assumption) (f_entries : F.entries = true := by assumption) (f_dram : F.dram = true := by assumption) :
    Keeps F s0 (trimIndex s p k e) := by
  unfold trimIndex
  try dsimp only
  repeat' first
    | with_reducible assumption
    | with_reducible apply returnStripe_keeps
    | with_reducible apply setDesc_keeps
    | (with_reducible apply Keeps.foldl; intro _ _ _)
    | with_reducible refine Keeps.fst ?_ ‹_ = (_, _)›
    | split

theorem modAe_keeps {F : Footprint} {s0 s : State} (hK : Keeps F s0 s) (d e : Nat) (f : Ae → Ae) (f_dies : F.dies = true := by assumption) :
    Keeps F s0 (modAe s d e f) := by
  unfold modAe
  try dsimp only
  repeat' first
    | with_reducible assumption
    | with_reducible apply Keeps.modDie

theorem indexStripe_keeps {F : Footprint} {s0 s : State} (h : Keeps F s0 s) {p k e m n : Nat} {t : State}
    (q : indexStripe s p k e m = some (n, t)) (f_mcEv : F.mcEv = true := by assumption) (f_dies : F.dies = true := by assumption) (f_stackTab : F.stackTab = true := by assumption) (f_parts : F.parts = true := by assumption) (f_entries : F.entries = true := by assumption) (f_dram : F.dram = true := by assumption) : Keeps F s0 t := by
  unfold indexStripe at q
  dsimp only at q
  split at q
  · cases q; exact h
  · split at q
    · cases q
    · simp only [Option.map_eq_some_iff, Prod.mk.injEq] at q
      obtain ⟨r, hr, -, rfl⟩ := q
      exact setDesc_keeps (takeStripe_keeps h hr) _ _ _ _ _

theorem writeSummary_keeps {F : Footprint} {s0 s : State} (h : Keeps F s0 s) (p k e page : Nat) (f_mcEv : F.mcEv = true := by assumption) (f_dies : F.dies = true := by assumption) (f_stackTab : F.stackTab = true := by assumption) (f_parts : F.parts = true := by assumption) (f_entries : F.entries = true := by assumption) (f_dram : F.dram = true := by assumption) : Keeps F s0 (writeSummary s p k e page) := by
  unfold writeSummary
  split
  · exact h
  · dsimp only
    split
    · exact h
    · split
      · exact h
      · rename_i heq
        refine setDesc_keeps (Keeps.foldl ?_ _ (indexStripe_keeps h heq)) _ _ _ _ _
        intro m x hm
        split
        · exact modAe_keeps (dramWrite_keeps hm _ _ _) _ _ _
        · exact hm

theorem poisonStripe_keeps {F : Footprint} {s0 s : State} (hK : Keeps F s0 s) (p k stripe : Nat) (f_mcEv : F.mcEv = true := by assumption) (f_dies : F.dies = true := by assumption) (f_stackTab : F.stackTab = true := by assumption) (f_parts : F.parts = true := by assumption) (f_entries : F.entries = true := by assumption) (f_dram : F.dram = true := by assumption) :
    Keeps F s0 (poisonStripe s p k stripe) := by
  unfold poisonStripe
  try dsimp only
  repeat' first
    | with_reducible assumption
    | with_reducible apply reportLead_keeps
    | with_reducible apply modPool_keeps
    | with_reducible apply setDesc_keeps
    | (with_reducible apply Keeps.foldl; intro _ _ _)
    | split

theorem poisonChunk_keeps {F : Footprint} {s0 s : State} (hK : Keeps F s0 s) (p k c : Nat) (f_engines : F.engines = true := by assumption) (f_parts : F.parts = true := by assumption) (f_nextOp : F.nextOp = true := by assumption) :
    Keeps F s0 (poisonChunk s p k c) := by
  unfold poisonChunk
  try dsimp only
  repeat' first
    | with_reducible assumption
    | with_reducible apply Keeps.modSlot
    | with_reducible apply newOp_keeps
    | with_reducible apply pushJob_keeps
    | with_reducible refine Keeps.fst ?_ ‹_ = (_, _)›
    | split

theorem poisonOwner_keeps {F : Footprint} {s0 s : State} (hK : Keeps F s0 s) (a : Nat) (f_mcEv : F.mcEv = true := by assumption) (f_dies : F.dies = true := by assumption) (f_stackTab : F.stackTab = true := by assumption) (f_engines : F.engines = true := by assumption) (f_parts : F.parts = true := by assumption) (f_entries : F.entries = true := by assumption) (f_dram : F.dram = true := by assumption) (f_nextOp : F.nextOp = true := by assumption) :
    Keeps F s0 (poisonOwner s a) := by
  unfold poisonOwner
  try dsimp only
  repeat' first
    | with_reducible assumption
    | with_reducible apply Keeps.modEntry
    | with_reducible apply poisonStripe_keeps
    | with_reducible apply poisonChunk_keeps
    | (with_reducible apply Keeps.foldl; intro _ _ _)
    | with_reducible refine Keeps.fst ?_ ‹_ = (_, _)›
    | split

theorem chanUncorrectable_keeps {F : Footprint} {s0 s : State} (hK : Keeps F s0 s) (a : Nat) (part : Option Nat) (f_mcEv : F.mcEv = true := by assumption) (f_dies : F.dies = true := by assumption) (f_stackTab : F.stackTab = true := by assumption) (f_engines : F.engines = true := by assumption) (f_parts : F.parts = true := by assumption) (f_entries : F.entries = true := by assumption) (f_dram : F.dram = true := by assumption) (f_nextOp : F.nextOp = true := by assumption) :
    Keeps F s0 (chanUncorrectable s a part) := by
  unfold chanUncorrectable
  try dsimp only
  repeat' first
    | with_reducible assumption
    | with_reducible apply report_keeps
    | with_reducible apply modChan_keeps
    | with_reducible apply poisonOwner_keeps

end Sys2Proof.Machine
end

