-- ==== Sys2Proof/Laws/KeepsSequencer.lean ====
section
/-! SUPPORT. The operations of Machine/Sequencer.lean have `Keeps`: one lemma each. -/

namespace Sys2Proof.Machine

set_option Elab.async false

theorem plainWrite_keeps {F : Footprint} {s0 s : State} (hK : Keeps F s0 s) (t c r : Nat) (bs : List Byte) (poison : Bool) (f_mcEv : F.mcEv = true := by assumption) (f_dies : F.dies = true := by assumption) (f_tiles : F.tiles = true := by assumption) (f_parts : F.parts = true := by assumption) :
    Keeps F s0 (plainWrite s t c r bs poison) := by
  unfold plainWrite
  try dsimp only
  repeat' first
    | with_reducible assumption
    | with_reducible apply Keeps.modTile
    | with_reducible apply accessFault_keeps
    | split

theorem fillOne_keeps {F : Footprint} {s0 s : State} (hK : Keeps F s0 s) (t c r epoch : Nat) (bs : List Byte) (f_mcEv : F.mcEv = true := by assumption) (f_dies : F.dies = true := by assumption) (f_tiles : F.tiles = true := by assumption) (f_parts : F.parts = true := by assumption) :
    Keeps F s0 (fillOne s t c r epoch bs) := by
  unfold fillOne
  try dsimp only
  repeat' first
    | with_reducible assumption
    | with_reducible apply slotWriteRow_keeps
    | with_reducible apply plainWrite_keeps
    | with_reducible refine Keeps.fst ?_ ‹_ = (_, _)›
    | split

theorem fillRows_keeps {F : Footprint} {s0 s : State} (hK : Keeps F s0 s) (t c epoch : Nat) (bs : List Byte) (x0 : Nat) (x1 : Nat) (f_mcEv : F.mcEv = true := by assumption) (f_dies : F.dies = true := by assumption) (f_tiles : F.tiles = true := by assumption) (f_parts : F.parts = true := by assumption) :
    Keeps F s0 (fillRows s t c epoch bs x0 x1) := by
  induction x1 generalizing t c epoch bs x0 s with
  | zero => unfold fillRows; exact hK
  | succ _ ih =>
    unfold fillRows
    try dsimp only
    repeat' first
      | with_reducible assumption
      | with_reducible apply ih
      | with_reducible apply fillOne_keeps

theorem switchTo_keeps {F : Footprint} {s0 s : State} (hK : Keeps F s0 s) (t c corrected : Nat) (poisoned : List Nat) (f_mcEv : F.mcEv = true := by assumption) (f_dies : F.dies = true := by assumption) (f_tiles : F.tiles = true := by assumption) (f_parts : F.parts = true := by assumption) :
    Keeps F s0 (switchTo s t c corrected poisoned) := by
  unfold switchTo
  try dsimp only
  repeat' first
    | with_reducible assumption
    | with_reducible apply Keeps.modTile
    | with_reducible apply reportTile_keeps
    | with_reducible apply poisonPass_keeps
    | split

theorem execNop_keeps {F : Footprint} {s s' : State} (t c : Nat) (e : execNop t c s = .next s') (f_tiles : F.tiles = true := by assumption) (f_parts : F.parts = true := by assumption) :
    Keeps F s s' := by
  unfold execNop at e
  refine guarded_keeps ?_ e
  have hK := Keeps.refl F s
  try dsimp only
  repeat' first
    | with_reducible assumption
    | with_reducible apply issue_keeps
    | intro _

theorem execLoop_keeps {F : Footprint} {s s' : State} (t c count body : Nat) (e : execLoop t c count body s = .next s') (f_tiles : F.tiles = true := by assumption) (f_parts : F.parts = true := by assumption) :
    Keeps F s s' := by
  unfold execLoop at e
  refine guarded_keeps ?_ e
  have hK := Keeps.refl F s
  try dsimp only
  repeat' first
    | with_reducible assumption
    | with_reducible apply modCtx_keeps
    | with_reducible apply issue_keeps
    | intro _
    | split

theorem execJump_keeps {F : Footprint} {s s' : State} (t c : Nat) (offset : Int) (e : execJump t c offset s = .next s') (f_tiles : F.tiles = true := by assumption) (f_parts : F.parts = true := by assumption) :
    Keeps F s s' := by
  unfold execJump at e
  refine guarded_keeps ?_ e
  have hK := Keeps.refl F s
  try dsimp only
  repeat' first
    | with_reducible assumption
    | with_reducible apply modCtx_keeps
    | with_reducible apply goTo_keeps
    | split

theorem execStepEnd_keeps {F : Footprint} {s s' : State} (t c layer matrix : Nat) (e : execStepEnd t c layer matrix s = .next s') (f_tiles : F.tiles = true := by assumption) (f_parts : F.parts = true := by assumption) :
    Keeps F s s' := by
  unfold execStepEnd at e
  refine guarded_keeps ?_ e
  have hK := Keeps.refl F s
  try dsimp only
  repeat' first
    | with_reducible assumption
    | with_reducible apply modPass_keeps
    | with_reducible apply modCtx_keeps
    | with_reducible apply issue_keeps
    | with_reducible refine Keeps.fst ?_ ‹_ = (_, _)›
    | intro _
    | split

theorem execWaitArr_keeps {F : Footprint} {s s' : State} (t c ctr k : Nat) (e : execWaitArr t c ctr k s = .next s') (f_tiles : F.tiles = true := by assumption) (f_parts : F.parts = true := by assumption) :
    Keeps F s s' := by
  unfold execWaitArr at e
  refine guarded_keeps ?_ e
  have hK := Keeps.refl F s
  try dsimp only
  repeat' first
    | with_reducible assumption
    | with_reducible apply modCtx_keeps
    | with_reducible apply goTo_keeps
    | with_reducible apply takeArr_keeps
    | split

theorem execWaitArrResume_keeps {F : Footprint} {s s' : State} (t c : Nat) (e : execWaitArrResume t c s = .next s') (f_tiles : F.tiles = true := by assumption) (f_parts : F.parts = true := by assumption) :
    Keeps F s s' := by
  unfold execWaitArrResume at e
  refine guarded_keeps ?_ e
  have hK := Keeps.refl F s
  try dsimp only
  repeat' first
    | with_reducible assumption
    | with_reducible apply goTo_keeps
    | with_reducible apply takeArr_keeps
    | with_reducible refine Keeps.fst ?_ ‹_ = (_, _)›
    | split

theorem execSignal_keeps {F : Footprint} {s s' : State} (t c ctr target : Nat) (e : execSignal t c ctr target s = .next s') (f_mcEv : F.mcEv = true := by assumption) (f_dies : F.dies = true := by assumption) (f_tiles : F.tiles = true := by assumption) (f_parts : F.parts = true := by assumption) (f_xfers : F.xfers = true := by assumption) (f_nextXfer : F.nextXfer = true := by assumption) :
    Keeps F s s' := by
  unfold execSignal at e
  refine guarded_keeps ?_ e
  have hK := Keeps.refl F s
  try dsimp only
  repeat' first
    | with_reducible assumption
    | with_reducible apply issue_keeps
    | with_reducible apply accessFault_keeps
    | with_reducible apply launch_keeps
    | with_reducible refine Keeps.fst ?_ ‹_ = (_, _)›
    | intro _
    | split

theorem execPut_keeps {F : Footprint} {s s' : State} (t c slot tile rslot ctr e1 e2 : Nat) (e : execPut t c slot tile rslot ctr e1 e2 s = .next s') (f_mcEv : F.mcEv = true := by assumption) (f_dies : F.dies = true := by assumption) (f_tiles : F.tiles = true := by assumption) (f_parts : F.parts = true := by assumption) (f_xfers : F.xfers = true := by assumption) (f_nextXfer : F.nextXfer = true := by assumption) :
    Keeps F s s' := by
  unfold execPut at e
  refine guarded_keeps ?_ e
  have hK := Keeps.refl F s
  try dsimp only
  repeat' first
    | with_reducible assumption
    | with_reducible apply issue_keeps
    | with_reducible apply engineBusy_keeps
    | with_reducible apply accessFault_keeps
    | with_reducible apply slotRead_keeps
    | with_reducible apply launch_keeps
    | with_reducible refine Keeps.fst ?_ ‹_ = (_, _)›
    | intro _
    | split

theorem execPull_keeps {F : Footprint} {s s' : State} (t c slot tile rslot ctr e1 e2 : Nat) (release : Bool) (e : execPull t c slot tile rslot ctr e1 e2 release s = .next s') (f_mcEv : F.mcEv = true := by assumption) (f_dies : F.dies = true := by assumption) (f_tiles : F.tiles = true := by assumption) (f_parts : F.parts = true := by assumption) (f_nextXfer : F.nextXfer = true := by assumption) :
    Keeps F s s' := by
  unfold execPull at e
  refine guarded_keeps ?_ e
  have hK := Keeps.refl F s
  try dsimp only
  repeat' first
    | with_reducible assumption
    | with_reducible apply Keeps.modTile
    | with_reducible apply issue_keeps
    | with_reducible apply engineBusy_keeps
    | with_reducible apply accessFault_keeps
    | with_reducible refine Keeps.fst ?_ ‹_ = (_, _)›
    | intro _
    | split
    | dsimp only
    | with_reducible refine Keeps.upd ?_

theorem execPullServe_keeps {F : Footprint} {s s' : State} (t req : Nat) (merged : Bool) (coll : Nat) (e : execPullServe t req merged coll s = .next s') (f_mcEv : F.mcEv = true := by assumption) (f_dies : F.dies = true := by assumption) (f_tiles : F.tiles = true := by assumption) (f_parts : F.parts = true := by assumption) (f_xfers : F.xfers = true := by assumption) (f_nextXfer : F.nextXfer = true := by assumption) :
    Keeps F s s' := by
  unfold execPullServe at e
  refine guarded_keeps ?_ e
  have hK := Keeps.refl F s
  try dsimp only
  repeat' first
    | with_reducible assumption
    | with_reducible apply Keeps.modTile
    | with_reducible apply schedFault_keeps
    | with_reducible apply launch_keeps
    | with_reducible refine Keeps.fst ?_ ‹_ = (_, _)›
    | split

theorem execReleaseArrive_keeps {F : Footprint} {s s' : State} (t slotBase rows epoch : Nat) (e : execReleaseArrive t slotBase rows epoch s = .next s') (f_tiles : F.tiles = true := by assumption) (f_releases : F.releases = true := by assumption) :
    Keeps F s s' := by
  unfold execReleaseArrive at e
  refine guarded_keeps ?_ e
  have hK := Keeps.refl F s
  try dsimp only
  repeat' first
    | with_reducible assumption
    | with_reducible apply Keeps.modTile
    | with_reducible refine Keeps.fst ?_ ‹_ = (_, _)›
    | split
    | dsimp only
    | with_reducible refine Keeps.upd ?_

theorem execFill_keeps {F : Footprint} {s s' : State} (t c rows first value width epoch : Nat) (e : execFill t c rows first value width epoch s = .next s') (f_mcEv : F.mcEv = true := by assumption) (f_dies : F.dies = true := by assumption) (f_tiles : F.tiles = true := by assumption) (f_parts : F.parts = true := by assumption) :
    Keeps F s s' := by
  unfold execFill at e
  refine guarded_keeps ?_ e
  have hK := Keeps.refl F s
  try dsimp only
  repeat' first
    | with_reducible assumption
    | with_reducible apply issue_keeps
    | with_reducible apply fillRows_keeps
    | intro _
    | split

theorem execCopy_keeps {F : Footprint} {s s' : State} (t c rows src dst e1 e2 : Nat) (e : execCopy t c rows src dst e1 e2 s = .next s') (f_mcEv : F.mcEv = true := by assumption) (f_dies : F.dies = true := by assumption) (f_tiles : F.tiles = true := by assumption) (f_parts : F.parts = true := by assumption) :
    Keeps F s s' := by
  unfold execCopy at e
  refine guarded_keeps ?_ e
  have hK := Keeps.refl F s
  try dsimp only
  repeat' first
    | with_reducible assumption
    | with_reducible apply Keeps.modTile
    | with_reducible apply poisonPass_keeps
    | with_reducible apply issue_keeps
    | with_reducible apply slotFault_keeps
    | with_reducible refine Keeps.fst ?_ ‹_ = (_, _)›
    | intro _
    | split

theorem execContextSwitch_keeps {F : Footprint} {s s' : State} (t c corrected : Nat) (poisoned : List Nat) (now : Nat) (e : execContextSwitch t c corrected poisoned now s = .next s') (f_time : F.time = true := by assumption) (f_mcEv : F.mcEv = true := by assumption) (f_dies : F.dies = true := by assumption) (f_tiles : F.tiles = true := by assumption) (f_parts : F.parts = true := by assumption) :
    Keeps F s s' := by
  unfold execContextSwitch at e
  refine guarded_keeps ?_ e
  have hK := Keeps.refl F s
  try dsimp only
  repeat' first
    | with_reducible assumption
    | with_reducible apply Keeps.setNow
    | with_reducible apply switchTo_keeps

theorem execPreempt_keeps {F : Footprint} {s s' : State} (t c corrected : Nat) (poisoned : List Nat) (now : Nat) (e : execPreempt t c corrected poisoned now s = .next s') (f_time : F.time = true := by assumption) (f_mcEv : F.mcEv = true := by assumption) (f_dies : F.dies = true := by assumption) (f_tiles : F.tiles = true := by assumption) (f_parts : F.parts = true := by assumption) :
    Keeps F s s' := by
  unfold execPreempt at e
  refine guarded_keeps ?_ e
  have hK := Keeps.refl F s
  try dsimp only
  repeat' first
    | with_reducible assumption
    | with_reducible apply Keeps.setNow
    | with_reducible apply switchTo_keeps
    | with_reducible refine Keeps.fst ?_ ‹_ = (_, _)›
    | split

end Sys2Proof.Machine
end

