-- ==== Sys2Proof/Laws/KeepsEngines.lean ====
section
/-! SUPPORT. The operations of Machine/Engines.lean have `Keeps`: one lemma each. -/

namespace Sys2Proof.Machine

set_option Elab.async false

theorem readVals_keeps {F : Footprint} {s0 s : State} (hK : Keeps F s0 s) (t c slot f n epoch : Nat) (f_mcEv : F.mcEv = true := by assumption) (f_dies : F.dies = true := by assumption) (f_tiles : F.tiles = true := by assumption) (f_parts : F.parts = true := by assumption) :
    Keeps F s0 (readVals s t c slot f n epoch).1 := by
  unfold readVals
  try dsimp only
  repeat' first
    | with_reducible assumption
    | with_reducible apply slotRead_keeps
    | with_reducible refine Keeps.fst ?_ ‹_ = (_, _)›
    | split

theorem unary_keeps {F : Footprint} {s0 s : State} (hK : Keeps F s0 s) (t c src dst f n e1 e2 : Nat) (e : Engine) (g : List Val → List Byte) (f_mcEv : F.mcEv = true := by assumption) (f_dies : F.dies = true := by assumption) (f_tiles : F.tiles = true := by assumption) (f_parts : F.parts = true := by assumption) :
    Keeps F s0 (unary s t c src dst f n e1 e2 e g) := by
  unfold unary
  try dsimp only
  repeat' first
    | with_reducible assumption
    | with_reducible apply engineBusy_keeps
    | with_reducible apply slotWrite_keeps
    | with_reducible apply readVals_keeps
    | with_reducible refine Keeps.fst ?_ ‹_ = (_, _)›
    | split

theorem setUnits_keeps {F : Footprint} {s0 s : State} (hK : Keeps F s0 s) (t base : Nat) (ws : List Nat) (f_tiles : F.tiles = true := by assumption) :
    Keeps F s0 (setUnits s t base ws) := by
  unfold setUnits
  try dsimp only
  repeat' first
    | with_reducible assumption
    | with_reducible apply Keeps.modTile

theorem openStep_keeps {F : Footprint} {s0 s : State} (hK : Keeps F s0 s) (t c : Nat) (k : Ctx) (cell add : Bool) (w : Nat) (o : OperandSet) (f_tiles : F.tiles = true := by assumption) :
    Keeps F s0 (openStep s t c k cell add w o) := by
  unfold openStep
  try dsimp only
  repeat' first
    | with_reducible assumption
    | with_reducible apply modCtx_keeps
    | with_reducible apply openWords_keeps
    | with_reducible apply noteRegion_keeps
    | split

theorem ceInput_keeps {F : Footprint} {s0 s : State} (hK : Keeps F s0 s) (t c slot epoch : Nat) (m : Matrix) (f_mcEv : F.mcEv = true := by assumption) (f_dies : F.dies = true := by assumption) (f_tiles : F.tiles = true := by assumption) (f_parts : F.parts = true := by assumption) :
    Keeps F s0 (ceInput s t c slot epoch m).1 := by
  unfold ceInput
  try dsimp only
  repeat' first
    | with_reducible assumption
    | with_reducible apply slotRead_keeps
    | with_reducible refine Keeps.fst ?_ ‹_ = (_, _)›
    | split

theorem enterSet_keeps {F : Footprint} {s0 s : State} (hK : Keeps F s0 s) (t c : Nat) (k : Ctx) (o : OperandSet) (cell : Bool) (laBase : Nat) (f : Nat → List LaWord) (f_mcEv : F.mcEv = true := by assumption) (f_dies : F.dies = true := by assumption) (f_tiles : F.tiles = true := by assumption) (f_parts : F.parts = true := by assumption) :
    Keeps F s0 (enterSet s t c k o cell laBase f) := by
  unfold enterSet
  try dsimp only
  repeat' first
    | with_reducible assumption
    | with_reducible apply poisonPass_keeps
    | with_reducible apply enterTerms_keeps
    | (with_reducible apply Keeps.foldl; intro _ _ _)
    | split

theorem combineRuns_keeps {F : Footprint} {s0 s : State} (hK : Keeps F s0 s) (t c laBase n : Nat) (f_tiles : F.tiles = true := by assumption) :
    Keeps F s0 (combineRuns s t c laBase n) := by
  unfold combineRuns
  try dsimp only
  repeat' first
    | with_reducible assumption
    | with_reducible apply Keeps.modTile

theorem execVec_keeps {F : Footprint} {s s' : State} (t c src src2 dst op fmt strips e1 e2 : Nat) (e : execVec t c src src2 dst op fmt strips e1 e2 s = .next s') (f_mcEv : F.mcEv = true := by assumption) (f_dies : F.dies = true := by assumption) (f_tiles : F.tiles = true := by assumption) (f_parts : F.parts = true := by assumption) :
    Keeps F s s' := by
  unfold execVec at e
  refine guarded_keeps ?_ e
  have hK := Keeps.refl F s
  try dsimp only
  repeat' first
    | with_reducible assumption
    | with_reducible apply issue_keeps
    | with_reducible apply engineBusy_keeps
    | with_reducible apply slotRead_keeps
    | with_reducible apply slotWrite_keeps
    | with_reducible apply readVals_keeps
    | with_reducible refine Keeps.fst ?_ ‹_ = (_, _)›
    | intro _
    | split

theorem execVecFn_keeps {F : Footprint} {s s' : State} (t c src dst fn fmt strips e1 e2 : Nat) (e : execVecFn t c src dst fn fmt strips e1 e2 s = .next s') (f_mcEv : F.mcEv = true := by assumption) (f_dies : F.dies = true := by assumption) (f_tiles : F.tiles = true := by assumption) (f_parts : F.parts = true := by assumption) :
    Keeps F s s' := by
  unfold execVecFn at e
  refine guarded_keeps ?_ e
  have hK := Keeps.refl F s
  try dsimp only
  repeat' first
    | with_reducible assumption
    | with_reducible apply issue_keeps
    | with_reducible apply unary_keeps
    | intro _
    | split

theorem execVecRed_keeps {F : Footprint} {s s' : State} (t c src dst fmt strips e1 e2 : Nat) (e : execVecRed t c src dst fmt strips e1 e2 s = .next s') (f_mcEv : F.mcEv = true := by assumption) (f_dies : F.dies = true := by assumption) (f_tiles : F.tiles = true := by assumption) (f_parts : F.parts = true := by assumption) :
    Keeps F s s' := by
  unfold execVecRed at e
  refine guarded_keeps ?_ e
  have hK := Keeps.refl F s
  try dsimp only
  repeat' first
    | with_reducible assumption
    | with_reducible apply issue_keeps
    | with_reducible apply unary_keeps
    | with_reducible apply setUnits_keeps
    | intro _
    | split

theorem execMoments_keeps {F : Footprint} {s s' : State} (t c src dst fmt strips e1 e2 : Nat) (e : execMoments t c src dst fmt strips e1 e2 s = .next s') (f_mcEv : F.mcEv = true := by assumption) (f_dies : F.dies = true := by assumption) (f_tiles : F.tiles = true := by assumption) (f_parts : F.parts = true := by assumption) :
    Keeps F s s' := by
  unfold execMoments at e
  refine guarded_keeps ?_ e
  have hK := Keeps.refl F s
  try dsimp only
  repeat' first
    | with_reducible assumption
    | with_reducible apply issue_keeps
    | with_reducible apply unary_keeps
    | with_reducible apply setUnits_keeps
    | intro _
    | split

theorem execRank_keeps {F : Footprint} {s s' : State} (t c src posSlot dst fmt k : Nat) (minMode : Bool) (e1 e2 : Nat) (e : execRank t c src posSlot dst fmt k minMode e1 e2 s = .next s') (f_mcEv : F.mcEv = true := by assumption) (f_dies : F.dies = true := by assumption) (f_tiles : F.tiles = true := by assumption) (f_parts : F.parts = true := by assumption) :
    Keeps F s s' := by
  unfold execRank at e
  refine guarded_keeps ?_ e
  have hK := Keeps.refl F s
  try dsimp only
  repeat' first
    | with_reducible assumption
    | with_reducible apply issue_keeps
    | with_reducible apply engineBusy_keeps
    | with_reducible apply slotRead_keeps
    | with_reducible apply slotWrite_keeps
    | with_reducible apply setUnits_keeps
    | with_reducible refine Keeps.fst ?_ ‹_ = (_, _)›
    | intro _
    | split

theorem execQuant_keeps {F : Footprint} {s s' : State} (t c src dst fmt scaleIdx : Nat) (supplied : Bool) (e1 e2 : Nat) (e : execQuant t c src dst fmt scaleIdx supplied e1 e2 s = .next s') (f_mcEv : F.mcEv = true := by assumption) (f_dies : F.dies = true := by assumption) (f_tiles : F.tiles = true := by assumption) (f_parts : F.parts = true := by assumption) :
    Keeps F s s' := by
  unfold execQuant at e
  refine guarded_keeps ?_ e
  have hK := Keeps.refl F s
  try dsimp only
  repeat' first
    | with_reducible assumption
    | with_reducible apply Keeps.modTile
    | with_reducible apply modCtx_keeps
    | with_reducible apply issue_keeps
    | with_reducible apply engineBusy_keeps
    | with_reducible apply slotRead_keeps
    | with_reducible apply slotWrite_keeps
    | with_reducible refine Keeps.fst ?_ ‹_ = (_, _)›
    | intro _
    | split

theorem execCeExact_keeps {F : Footprint} {s s' : State} (t c opSet slot laBase terms : Nat) (add : Bool) (epoch : Nat) (e : execCeExact t c opSet slot laBase terms add epoch s = .next s') (f_mcEv : F.mcEv = true := by assumption) (f_dies : F.dies = true := by assumption) (f_tiles : F.tiles = true := by assumption) (f_parts : F.parts = true := by assumption) :
    Keeps F s s' := by
  unfold execCeExact at e
  refine guarded_keeps ?_ e
  have hK := Keeps.refl F s
  try dsimp only
  repeat' first
    | with_reducible assumption
    | with_reducible apply issue_keeps
    | with_reducible apply engineBusy_keeps
    | with_reducible apply openStep_keeps
    | with_reducible apply ceInput_keeps
    | with_reducible apply enterSet_keeps
    | with_reducible refine Keeps.fst ?_ ‹_ = (_, _)›
    | intro _
    | split

theorem execCeFp32_keeps {F : Footprint} {s s' : State} (t c opSet slot laBase terms : Nat) (add : Bool) (epoch : Nat) (e : execCeFp32 t c opSet slot laBase terms add epoch s = .next s') (f_mcEv : F.mcEv = true := by assumption) (f_dies : F.dies = true := by assumption) (f_tiles : F.tiles = true := by assumption) (f_parts : F.parts = true := by assumption) :
    Keeps F s s' := by
  unfold execCeFp32 at e
  refine guarded_keeps ?_ e
  have hK := Keeps.refl F s
  try dsimp only
  repeat' first
    | with_reducible assumption
    | with_reducible apply poisonPass_keeps
    | with_reducible apply issue_keeps
    | with_reducible apply engineBusy_keeps
    | with_reducible apply putCtxWord_keeps
    | with_reducible apply openStep_keeps
    | with_reducible apply ceInput_keeps
    | (with_reducible apply Keeps.foldl; intro _ _ _)
    | with_reducible refine Keeps.fst ?_ ‹_ = (_, _)›
    | intro _
    | split

theorem execCeOutl_keeps {F : Footprint} {s s' : State} (t c opSet slot laBase terms : Nat) (add : Bool) (epoch : Nat) (e : execCeOutl t c opSet slot laBase terms add epoch s = .next s') (f_mcEv : F.mcEv = true := by assumption) (f_dies : F.dies = true := by assumption) (f_tiles : F.tiles = true := by assumption) (f_parts : F.parts = true := by assumption) :
    Keeps F s s' := by
  unfold execCeOutl at e
  refine guarded_keeps ?_ e
  have hK := Keeps.refl F s
  try dsimp only
  repeat' first
    | with_reducible assumption
    | with_reducible apply issue_keeps
    | with_reducible apply engineBusy_keeps
    | with_reducible apply openStep_keeps
    | with_reducible apply ceInput_keeps
    | with_reducible apply enterSet_keeps
    | with_reducible refine Keeps.fst ?_ ‹_ = (_, _)›
    | intro _
    | split

theorem execCombine_keeps {F : Footprint} {s s' : State} (t c recvBase contributors laBase ctr : Nat) (e : execCombine t c recvBase contributors laBase ctr s = .next s') (f_mcEv : F.mcEv = true := by assumption) (f_dies : F.dies = true := by assumption) (f_tiles : F.tiles = true := by assumption) (f_parts : F.parts = true := by assumption) :
    Keeps F s s' := by
  unfold execCombine at e
  refine guarded_keeps ?_ e
  have hK := Keeps.refl F s
  try dsimp only
  repeat' first
    | with_reducible assumption
    | with_reducible apply issue_keeps
    | with_reducible apply takeArr_keeps
    | with_reducible apply putCtxWord_keeps
    | with_reducible apply enterWords_keeps
    | with_reducible apply openWords_keeps
    | with_reducible apply noteRegion_keeps
    | with_reducible apply combineRuns_keeps
    | (with_reducible apply Keeps.foldl; intro _ _ _)
    | with_reducible refine Keeps.fst ?_ ‹_ = (_, _)›
    | intro _
    | split

theorem execRound_keeps {F : Footprint} {s s' : State} (t c laBase dst fmt count epoch : Nat) (e : execRound t c laBase dst fmt count epoch s = .next s') (f_mcEv : F.mcEv = true := by assumption) (f_dies : F.dies = true := by assumption) (f_tiles : F.tiles = true := by assumption) (f_parts : F.parts = true := by assumption) :
    Keeps F s s' := by
  unfold execRound at e
  refine guarded_keeps ?_ e
  have hK := Keeps.refl F s
  try dsimp only
  repeat' first
    | with_reducible assumption
    | with_reducible apply poisonPass_keeps
    | with_reducible apply issue_keeps
    | with_reducible apply engineBusy_keeps
    | with_reducible apply slotWrite_keeps
    | with_reducible refine Keeps.fst ?_ ‹_ = (_, _)›
    | intro _
    | split

end Sys2Proof.Machine
end

