-- ==== Sys2Proof/Laws/KeepsTarns.lean ====
section
/-! SUPPORT. The operations of Machine/Tarns.lean have `Keeps`: one lemma each. -/

namespace Sys2Proof.Machine

set_option Elab.async false

theorem decideUse_keeps {F : Footprint} {s0 s : State} (hK : Keeps F s0 s) (t : Nat) (k : Ctx) (slot : Nat) (u : TarnUse) (f_mcEv : F.mcEv = true := by assumption) (f_dies : F.dies = true := by assumption) (f_parts : F.parts = true := by assumption) :
    Keeps F s0 (decideUse s t k slot u) := by
  unfold decideUse
  try dsimp only
  repeat' first
    | with_reducible assumption
    | with_reducible apply markFallback_keeps
    | with_reducible apply layerToFallback_keeps
    | with_reducible refine Keeps.fst ?_ ‹_ = (_, _)›
    | split

theorem openUse_keeps {F : Footprint} {s0 s : State} (hK : Keeps F s0 s) (t c laBase : Nat) (add : Bool) (u : TarnUse) (f_tiles : F.tiles = true := by assumption) :
    Keeps F s0 (openUse s t c laBase add u) := by
  unfold openUse
  try dsimp only
  repeat' first
    | with_reducible assumption
    | with_reducible apply Keeps.modTile
    | with_reducible apply modCtx_keeps
    | with_reducible apply openWords_keeps
    | with_reducible apply noteRegion_keeps
    | split

theorem mvmBegin_keeps {F : Footprint} {s0 s : State} (hK : Keeps F s0 s) (t tarn p : Nat) (v : Mvm) (f_tiles : F.tiles = true := by assumption) (f_parts : F.parts = true := by assumption) :
    Keeps F s0 (mvmBegin s t tarn p v) := by
  unfold mvmBegin
  try dsimp only
  repeat' first
    | with_reducible assumption
    | with_reducible apply modPass_keeps
    | with_reducible apply modTarn_keeps

theorem startUse_keeps {F : Footprint} {s0 s : State} (hK : Keeps F s0 s) (t c laBase : Nat) (int8 bad : Bool) (xs : List Int) (sc : List Nat) (op : Nat) (u : TarnUse) (f_mcEv : F.mcEv = true := by assumption) (f_dies : F.dies = true := by assumption) (f_tiles : F.tiles = true := by assumption) (f_parts : F.parts = true := by assumption) :
    Keeps F s0 (startUse s t c laBase int8 bad xs sc op u) := by
  unfold startUse
  try dsimp only
  repeat' first
    | with_reducible assumption
    | with_reducible apply enterIdeal_keeps
    | with_reducible apply mvmBegin_keeps
    | with_reducible refine Keeps.fst ?_ ‹_ = (_, _)›
    | split

theorem mvmIssued_keeps {F : Footprint} {s0 s : State} (hK : Keeps F s0 s) (t c : Nat) (rs : List Res) (tarns : List Nat) (f_tiles : F.tiles = true := by assumption) :
    Keeps F s0 (mvmIssued s t c rs tarns) := by
  unfold mvmIssued
  try dsimp only
  repeat' first
    | with_reducible assumption
    | with_reducible apply Keeps.modTile

theorem roundResults_keeps {F : Footprint} {s0 s : State} (hK : Keeps F s0 s) (t tarn : Nat) (v : Mvm) (m : Matrix) (q : Nat) (cs : List Conv) (flags : Nat) (f_mcEv : F.mcEv = true := by assumption) (f_dies : F.dies = true := by assumption) (f_tiles : F.tiles = true := by assumption) (f_parts : F.parts = true := by assumption) (f_xfers : F.xfers = true := by assumption) :
    Keeps F s0 (roundResults s t tarn v m q cs flags) := by
  unfold roundResults
  try dsimp only
  repeat' first
    | with_reducible assumption
    | with_reducible apply Keeps.modTile
    | with_reducible apply modPass_keeps
    | with_reducible apply markFallback_keeps
    | with_reducible apply modTarn_keeps
    | with_reducible apply stepToFallback_keeps
    | with_reducible apply enterQuad_keeps
    | split

theorem roundCodes_keeps {F : Footprint} {s0 s : State} (hK : Keeps F s0 s) (t tarn : Nat) (v : Mvm) (m : Matrix) (q : Nat) (codes : List (Nat × Nat)) (f_mcEv : F.mcEv = true := by assumption) (f_dies : F.dies = true := by assumption) (f_tiles : F.tiles = true := by assumption) (f_parts : F.parts = true := by assumption) (f_xfers : F.xfers = true := by assumption) :
    Keeps F s0 (roundCodes s t tarn v m q codes) := by
  unfold roundCodes
  try dsimp only
  repeat' first
    | with_reducible assumption
    | with_reducible apply Keeps.modTile
    | with_reducible apply modTarn_keeps
    | with_reducible apply roundResults_keeps
    | split

theorem execTarnMvm_keeps {F : Footprint} {s s' : State} (t c slot set laBase : Nat) (add int8 : Bool) (epoch : Nat) (e : execTarnMvm t c slot set laBase add int8 epoch s = .next s') (f_mcEv : F.mcEv = true := by assumption) (f_dies : F.dies = true := by assumption) (f_tiles : F.tiles = true := by assumption) (f_parts : F.parts = true := by assumption) :
    Keeps F s s' := by
  unfold execTarnMvm at e
  refine guarded_keeps ?_ e
  have hK := Keeps.refl F s
  try dsimp only
  repeat' first
    | with_reducible assumption
    | with_reducible apply issue_keeps
    | with_reducible apply slotRead_keeps
    | with_reducible apply decideUse_keeps
    | with_reducible apply openUse_keeps
    | with_reducible apply startUse_keeps
    | with_reducible apply mvmIssued_keeps
    | (with_reducible apply Keeps.foldl; intro _ _ _)
    | with_reducible refine Keeps.fst ?_ ‹_ = (_, _)›
    | intro _
    | split

theorem execTarnRoundDone_keeps {F : Footprint} {s s' : State} (t tarn : Nat) (codes : List (Nat × Nat)) (e : execTarnRoundDone t tarn codes s = .next s') (f_mcEv : F.mcEv = true := by assumption) (f_dies : F.dies = true := by assumption) (f_tiles : F.tiles = true := by assumption) (f_parts : F.parts = true := by assumption) (f_xfers : F.xfers = true := by assumption) :
    Keeps F s s' := by
  unfold execTarnRoundDone at e
  refine guarded_keeps ?_ e
  have hK := Keeps.refl F s
  try dsimp only
  repeat' first
    | with_reducible assumption
    | with_reducible apply Keeps.modTile
    | with_reducible apply modTarn_keeps
    | with_reducible apply roundCodes_keeps
    | with_reducible refine Keeps.fst ?_ ‹_ = (_, _)›
    | split

theorem execTstatWindowClose_keeps {F : Footprint} {s s' : State} (t tarn col : Nat) (e : execTstatWindowClose t tarn col s = .next s') (f_tiles : F.tiles = true := by assumption) :
    Keeps F s s' := by
  unfold execTstatWindowClose at e
  refine guarded_keeps ?_ e
  have hK := Keeps.refl F s
  try dsimp only
  repeat' first
    | with_reducible assumption
    | with_reducible apply modTarn_keeps
    | split

theorem execTstatSelect_keeps {F : Footprint} {s s' : State} (t off value : Nat) (e : execTstatSelect t off value s = .next s') (f_tiles : F.tiles = true := by assumption) :
    Keeps F s s' := by
  unfold execTstatSelect at e
  refine guarded_keeps ?_ e
  have hK := Keeps.refl F s
  try dsimp only
  repeat' first
    | with_reducible assumption
    | with_reducible apply Keeps.modTile

theorem execTstatClear_keeps {F : Footprint} {s s' : State} (t value : Nat) (e : execTstatClear t value s = .next s') (f_tiles : F.tiles = true := by assumption) :
    Keeps F s s' := by
  unfold execTstatClear at e
  refine guarded_keeps ?_ e
  have hK := Keeps.refl F s
  try dsimp only
  repeat' first
    | with_reducible assumption
    | with_reducible apply Keeps.modTile

theorem execDriftUpdate_keeps {F : Footprint} {s s' : State} (t tarn bank col now : Nat) (e : execDriftUpdate t tarn bank col now s = .next s') (f_time : F.time = true := by assumption) (f_mcEv : F.mcEv = true := by assumption) (f_dies : F.dies = true := by assumption) (f_tiles : F.tiles = true := by assumption) :
    Keeps F s s' := by
  unfold execDriftUpdate at e
  refine guarded_keeps ?_ e
  have hK := Keeps.refl F s
  try dsimp only
  repeat' first
    | with_reducible assumption
    | with_reducible apply Keeps.setNow
    | with_reducible apply driftNow_keeps
    | split

theorem execTarnScrubRead_keeps {F : Footprint} {s s' : State} (t tarn row bits now : Nat) (e : execTarnScrubRead t tarn row bits now s = .next s') (f_time : F.time = true := by assumption) (f_fm : F.fm = true := by assumption) (f_mcEv : F.mcEv = true := by assumption) (f_dies : F.dies = true := by assumption) (f_tiles : F.tiles = true := by assumption) (f_parts : F.parts = true := by assumption) :
    Keeps F s s' := by
  unfold execTarnScrubRead at e
  refine guarded_keeps ?_ e
  have hK := Keeps.refl F s
  try dsimp only
  repeat' first
    | with_reducible assumption
    | with_reducible apply Keeps.modDie
    | with_reducible apply Keeps.setNow
    | with_reducible apply reportTile_keeps
    | with_reducible apply modTarn_keeps
    | with_reducible apply replaceTarn_keeps
    | with_reducible apply troubleResponse_keeps
    | (with_reducible apply Keeps.foldl; intro _ _ _)
    | split

theorem execTarnRowRewrite_keeps {F : Footprint} {s s' : State} (t tarn row : Nat) (e : execTarnRowRewrite t tarn row s = .next s') (f_tiles : F.tiles = true := by assumption) :
    Keeps F s s' := by
  unfold execTarnRowRewrite at e
  refine guarded_keeps ?_ e
  have hK := Keeps.refl F s
  try dsimp only
  repeat' first
    | with_reducible assumption
    | with_reducible apply modTarn_keeps
    | with_reducible refine Keeps.fst ?_ ‹_ = (_, _)›
    | split

end Sys2Proof.Machine
end

