-- ==== Sys2Proof/Laws/KeepsAttention.lean ====
section
/-! SUPPORT. The operations of Machine/Attention.lean have `Keeps`: one lemma each. -/

namespace Sys2Proof.Machine

set_option Elab.async false

theorem launchDram_keeps {F : Footprint} {s0 s : State} (hK : Keeps F s0 s) (t c : Nat) (k : Ctx) (ctr addr : Nat) (kind : XferKind) (read : Bool) (bytes : Nat) (f_dies : F.dies = true := by assumption) (f_parts : F.parts = true := by assumption) (f_xfers : F.xfers = true := by assumption) (f_nextXfer : F.nextXfer = true := by assumption) :
    Keeps F s0 (launchDram s t c k ctr addr kind read bytes) := by
  unfold launchDram
  try dsimp only
  repeat' first
    | with_reducible assumption
    | with_reducible apply poisonPass_keeps
    | with_reducible apply countFirst_keeps
    | with_reducible refine Keeps.fst ?_ ‹_ = (_, _)›
    | split
    | dsimp only
    | with_reducible refine Keeps.upd ?_

theorem dropStale_keeps {F : Footprint} {s0 s : State} (hK : Keeps F s0 s) (x : Xfer) (f_dies : F.dies = true := by assumption) :
    Keeps F s0 (dropStale s x) := by
  unfold dropStale
  try dsimp only
  repeat' first
    | with_reducible assumption
    | with_reducible apply Keeps.modDie
    | with_reducible refine Keeps.fst ?_ ‹_ = (_, _)›
    | split

theorem landRows_keeps {F : Footprint} {s0 s : State} (hK : Keeps F s0 s) (x : Xfer) (base : Nat) (slot : Bool) (readers epoch : Nat) (x0 : Nat) (x1 : List (List Byte × Bool)) (f_mcEv : F.mcEv = true := by assumption) (f_dies : F.dies = true := by assumption) (f_tiles : F.tiles = true := by assumption) (f_parts : F.parts = true := by assumption) :
    Keeps F s0 (landRows s x base slot readers epoch x0 x1) := by
  induction x1 generalizing x base slot readers epoch x0 s with
  | nil => unfold landRows; exact hK
  | cons _ _ ih =>
    unfold landRows
    try dsimp only
    repeat' first
      | with_reducible assumption
      | with_reducible apply ih
      | with_reducible apply Keeps.modTile
      | with_reducible apply reportTile_keeps
      | with_reducible apply schedFault_keeps
      | split

theorem landPartials_keeps {F : Footprint} {s0 s : State} (hK : Keeps F s0 s) (t recv : Nat) (x0 : Nat) (x1 : List LaWord) (f_tiles : F.tiles = true := by assumption) :
    Keeps F s0 (landPartials s t recv x0 x1) := by
  induction x1 generalizing t recv x0 s with
  | nil => unfold landPartials; exact hK
  | cons _ _ ih =>
    unfold landPartials
    try dsimp only
    repeat' first
      | with_reducible assumption
      | with_reducible apply ih
      | with_reducible apply Keeps.modTile

theorem eccRows_keeps {F : Footprint} {s0 s : State} (hK : Keeps F s0 s) (x : Xfer) (ecc : Ecc) (rows : List (List Byte × Bool)) (f_mcEv : F.mcEv = true := by assumption) (f_dies : F.dies = true := by assumption) (f_stackTab : F.stackTab = true := by assumption) (f_engines : F.engines = true := by assumption) (f_parts : F.parts = true := by assumption) (f_entries : F.entries = true := by assumption) (f_dram : F.dram = true := by assumption) (f_nextOp : F.nextOp = true := by assumption) :
    Keeps F s0 (eccRows s x ecc rows).1 := by
  unfold eccRows
  try dsimp only
  repeat' first
    | with_reducible assumption
    | with_reducible apply chanCorrected_keeps
    | with_reducible apply chanUncorrectable_keeps
    | with_reducible refine Keeps.fst ?_ ‹_ = (_, _)›
    | split

theorem landRaise_keeps {F : Footprint} {s0 s : State} (hK : Keeps F s0 s) (x : Xfer) (f_mcEv : F.mcEv = true := by assumption) (f_dies : F.dies = true := by assumption) (f_tiles : F.tiles = true := by assumption) (f_parts : F.parts = true := by assumption) :
    Keeps F s0 (landRaise s x) := by
  unfold landRaise
  try dsimp only
  repeat' first
    | with_reducible assumption
    | with_reducible apply raiseArr_keeps
    | with_reducible refine Keeps.fst ?_ ‹_ = (_, _)›
    | split

theorem landKv_keeps {F : Footprint} {s0 s : State} (hK : Keeps F s0 s) (x : Xfer) (entry pos pair : Nat) (isV : Bool) (elems scales : List Byte) (carry : List Nat) (poison : Bool) (f_mcEv : F.mcEv = true := by assumption) (f_dies : F.dies = true := by assumption) (f_tiles : F.tiles = true := by assumption) (f_stackTab : F.stackTab = true := by assumption) (f_parts : F.parts = true := by assumption) (f_entries : F.entries = true := by assumption) (f_dram : F.dram = true := by assumption) :
    Keeps F s0 (landKv s x entry pos pair isV elems scales carry poison) := by
  unfold landKv
  try dsimp only
  repeat' first
    | with_reducible assumption
    | with_reducible apply modPass_keeps
    | with_reducible apply poisonPass_keeps
    | with_reducible apply dramWrite_keeps
    | with_reducible apply setCarry_keeps
    | with_reducible apply landRaise_keeps
    | with_reducible refine Keeps.fst ?_ ‹_ = (_, _)›
    | split

theorem landKind_keeps {F : Footprint} {s0 s : State} (hK : Keeps F s0 s) (x : Xfer) (ecc : Ecc) (f_mcEv : F.mcEv = true := by assumption) (f_dies : F.dies = true := by assumption) (f_tiles : F.tiles = true := by assumption) (f_stackTab : F.stackTab = true := by assumption) (f_engines : F.engines = true := by assumption) (f_parts : F.parts = true := by assumption) (f_entries : F.entries = true := by assumption) (f_dram : F.dram = true := by assumption) (f_releases : F.releases = true := by assumption) (f_nextOp : F.nextOp = true := by assumption) :
    Keeps F s0 (landKind s x ecc) := by
  unfold landKind
  try dsimp only
  repeat' first
    | with_reducible assumption
    | with_reducible apply Keeps.modTile
    | with_reducible apply dramWrite_keeps
    | with_reducible apply landRows_keeps
    | with_reducible apply landPartials_keeps
    | with_reducible apply eccRows_keeps
    | with_reducible apply landRaise_keeps
    | with_reducible apply landKv_keeps
    | with_reducible refine Keeps.fst ?_ ‹_ = (_, _)›
    | split
    | dsimp only
    | with_reducible refine Keeps.upd ?_

theorem portFault_keeps {F : Footprint} {s0 s : State} (hK : Keeps F s0 s) (w : Walk) (h : HeadPort) (kind : Nat) (f_mcEv : F.mcEv = true := by assumption) (f_dies : F.dies = true := by assumption) (f_tiles : F.tiles = true := by assumption) (f_parts : F.parts = true := by assumption) :
    Keeps F s0 (portFault s w h kind) := by
  unfold portFault
  try dsimp only
  repeat' first
    | with_reducible assumption
    | with_reducible apply Keeps.modTile
    | with_reducible apply schedFault_keeps

theorem pullHead_keeps {F : Footprint} {s0 s : State} (hK : Keeps F s0 s) (w : Walk) (f n : Nat) (h : HeadPort) (f_mcEv : F.mcEv = true := by assumption) (f_dies : F.dies = true := by assumption) (f_tiles : F.tiles = true := by assumption) (f_parts : F.parts = true := by assumption) :
    Keeps F s0 (pullHead s w f n h).1 := by
  unfold pullHead
  try dsimp only
  repeat' first
    | with_reducible assumption
    | with_reducible apply Keeps.modTile
    | with_reducible apply schedFault_keeps
    | with_reducible apply portFault_keeps
    | with_reducible refine Keeps.fst ?_ ‹_ = (_, _)›
    | split

theorem pullHeads_keeps {F : Footprint} {s0 s : State} (hK : Keeps F s0 s) (w : Walk) (f n : Nat) (x0 : List HeadPort) (f_mcEv : F.mcEv = true := by assumption) (f_dies : F.dies = true := by assumption) (f_tiles : F.tiles = true := by assumption) (f_parts : F.parts = true := by assumption) :
    Keeps F s0 (pullHeads s w f n x0).1 := by
  induction x0 generalizing w f n s with
  | nil => unfold pullHeads; exact hK
  | cons _ _ ih =>
    unfold pullHeads
    try dsimp only
    repeat' first
      | with_reducible assumption
      | with_reducible apply ih
      | with_reducible apply pullHead_keeps
      | with_reducible refine Keeps.fst ?_ ‹_ = (_, _)›
      | split

theorem putHead_keeps {F : Footprint} {s0 s : State} (hK : Keeps F s0 s) (die engine : Nat) (w : Walk) (bad : Bool) (out : List Nat) (h : HeadPort) (f_mcEv : F.mcEv = true := by assumption) (f_dies : F.dies = true := by assumption) (f_tiles : F.tiles = true := by assumption) (f_parts : F.parts = true := by assumption) (f_xfers : F.xfers = true := by assumption) (f_nextXfer : F.nextXfer = true := by assumption) :
    Keeps F s0 (putHead s die engine w bad out h) := by
  unfold putHead
  try dsimp only
  repeat' first
    | with_reducible assumption
    | with_reducible apply launchFrom_keeps
    | with_reducible apply portFault_keeps
    | with_reducible refine Keeps.fst ?_ ‹_ = (_, _)›
    | split

theorem putHeads_keeps {F : Footprint} {s0 s : State} (hK : Keeps F s0 s) (die engine : Nat) (w : Walk) (bad : Bool) (outs : List (List Nat)) (f_mcEv : F.mcEv = true := by assumption) (f_dies : F.dies = true := by assumption) (f_tiles : F.tiles = true := by assumption) (f_parts : F.parts = true := by assumption) (f_xfers : F.xfers = true := by assumption) (f_nextXfer : F.nextXfer = true := by assumption) :
    Keeps F s0 (putHeads s die engine w bad outs) := by
  unfold putHeads
  try dsimp only
  repeat' first
    | with_reducible assumption
    | with_reducible apply putHead_keeps
    | (with_reducible apply Keeps.foldl; intro _ _ _)

theorem endWalk_keeps {F : Footprint} {s0 s : State} (hK : Keeps F s0 s) (die engine : Nat) (w : Walk) (poison : Bool) (f_mcEv : F.mcEv = true := by assumption) (f_dies : F.dies = true := by assumption) (f_tiles : F.tiles = true := by assumption) (f_parts : F.parts = true := by assumption) (f_xfers : F.xfers = true := by assumption) (f_nextXfer : F.nextXfer = true := by assumption) :
    Keeps F s0 (endWalk s die engine w poison) := by
  unfold endWalk
  try dsimp only
  repeat' first
    | with_reducible assumption
    | with_reducible apply modPass_keeps
    | with_reducible apply poisonPass_keeps
    | with_reducible apply modAe_keeps
    | with_reducible apply pullHeads_keeps
    | with_reducible apply putHeads_keeps
    | with_reducible refine Keeps.fst ?_ ‹_ = (_, _)›
    | split

theorem execDmaGet_keeps {F : Footprint} {s s' : State} (t c slot off rows ctr epoch : Nat) (embed : Option Nat) (e : execDmaGet t c slot off rows ctr epoch embed s = .next s') (f_mcEv : F.mcEv = true := by assumption) (f_dies : F.dies = true := by assumption) (f_tiles : F.tiles = true := by assumption) (f_parts : F.parts = true := by assumption) (f_xfers : F.xfers = true := by assumption) (f_nextXfer : F.nextXfer = true := by assumption) :
    Keeps F s s' := by
  unfold execDmaGet at e
  refine guarded_keeps ?_ e
  have hK := Keeps.refl F s
  try dsimp only
  repeat' first
    | with_reducible assumption
    | with_reducible apply issue_keeps
    | with_reducible apply engineBusy_keeps
    | with_reducible apply accessFault_keeps
    | with_reducible apply launchDram_keeps
    | with_reducible refine Keeps.fst ?_ ‹_ = (_, _)›
    | intro _
    | split

theorem execDmaPut_keeps {F : Footprint} {s s' : State} (t c slot off rows ctr epoch : Nat) (kv : Option KvDest) (e : execDmaPut t c slot off rows ctr epoch kv s = .next s') (f_mcEv : F.mcEv = true := by assumption) (f_dies : F.dies = true := by assumption) (f_tiles : F.tiles = true := by assumption) (f_parts : F.parts = true := by assumption) (f_xfers : F.xfers = true := by assumption) (f_nextXfer : F.nextXfer = true := by assumption) :
    Keeps F s s' := by
  unfold execDmaPut at e
  refine guarded_keeps ?_ e
  have hK := Keeps.refl F s
  try dsimp only
  repeat' first
    | with_reducible assumption
    | with_reducible apply issue_keeps
    | with_reducible apply engineBusy_keeps
    | with_reducible apply accessFault_keeps
    | with_reducible apply slotRead_keeps
    | with_reducible apply launchDram_keeps
    | with_reducible refine Keeps.fst ?_ ‹_ = (_, _)›
    | intro _
    | split

theorem execTransferLanded_keeps {F : Footprint} {s s' : State} (xfer : Nat) (ecc : Ecc) (coll now : Nat) (e : execTransferLanded xfer ecc coll now s = .next s') (f_time : F.time = true := by assumption) (f_mcEv : F.mcEv = true := by assumption) (f_dies : F.dies = true := by assumption) (f_tiles : F.tiles = true := by assumption) (f_stackTab : F.stackTab = true := by assumption) (f_engines : F.engines = true := by assumption) (f_parts : F.parts = true := by assumption) (f_entries : F.entries = true := by assumption) (f_dram : F.dram = true := by assumption) (f_xfers : F.xfers = true := by assumption) (f_releases : F.releases = true := by assumption) (f_nextOp : F.nextOp = true := by assumption) :
    Keeps F s s' := by
  unfold execTransferLanded at e
  refine guarded_keeps ?_ e
  have hK := Keeps.refl F s
  try dsimp only
  repeat' first
    | with_reducible assumption
    | with_reducible apply Keeps.modTile
    | with_reducible apply Keeps.setNow
    | with_reducible apply countCrossed_keeps
    | with_reducible apply dropStale_keeps
    | with_reducible apply landKind_keeps
    | with_reducible refine Keeps.fst ?_ ‹_ = (_, _)›
    | split
    | dsimp only
    | with_reducible refine Keeps.upd ?_

theorem execAeIssue_keeps {F : Footprint} {s s' : State} (t c walk engine e1 e2 : Nat) (e : execAeIssue t c walk engine e1 e2 s = .next s') (f_dies : F.dies = true := by assumption) (f_tiles : F.tiles = true := by assumption) (f_parts : F.parts = true := by assumption) :
    Keeps F s s' := by
  unfold execAeIssue at e
  refine guarded_keeps ?_ e
  have hK := Keeps.refl F s
  try dsimp only
  repeat' first
    | with_reducible assumption
    | with_reducible apply goTo_keeps
    | with_reducible apply modAe_keeps
    | with_reducible refine Keeps.fst ?_ ‹_ = (_, _)›
    | split

theorem execWalkAccept_keeps {F : Footprint} {s s' : State} (die engine now : Nat) (e : execWalkAccept die engine now s = .next s') (f_time : F.time = true := by assumption) (f_dies : F.dies = true := by assumption) (f_tiles : F.tiles = true := by assumption) (f_parts : F.parts = true := by assumption) (f_entries : F.entries = true := by assumption) :
    Keeps F s s' := by
  unfold execWalkAccept at e
  refine guarded_keeps ?_ e
  have hK := Keeps.refl F s
  try dsimp only
  repeat' first
    | with_reducible assumption
    | with_reducible apply Keeps.modEntry
    | with_reducible apply Keeps.setNow
    | with_reducible apply modPass_keeps
    | with_reducible apply goTo_keeps
    | with_reducible apply engineBusy_keeps
    | with_reducible apply modAe_keeps
    | with_reducible refine Keeps.fst ?_ ‹_ = (_, _)›
    | split

theorem execWalkEnd_keeps {F : Footprint} {s s' : State} (die engine idx : Nat) (poison : Bool) (now : Nat) (e : execWalkEnd die engine idx poison now s = .next s') (f_time : F.time = true := by assumption) (f_mcEv : F.mcEv = true := by assumption) (f_dies : F.dies = true := by assumption) (f_tiles : F.tiles = true := by assumption) (f_parts : F.parts = true := by assumption) (f_entries : F.entries = true := by assumption) (f_xfers : F.xfers = true := by assumption) (f_nextXfer : F.nextXfer = true := by assumption) :
    Keeps F s s' := by
  unfold execWalkEnd at e
  refine guarded_keeps ?_ e
  have hK := Keeps.refl F s
  try dsimp only
  repeat' first
    | with_reducible assumption
    | with_reducible apply Keeps.modEntry
    | with_reducible apply Keeps.setNow
    | with_reducible apply modPass_keeps
    | with_reducible apply modAe_keeps
    | with_reducible apply endWalk_keeps
    | with_reducible refine Keeps.fst ?_ ‹_ = (_, _)›
    | split

end Sys2Proof.Machine
end

