-- ==== Sys2Proof/Laws/KeepsFaults.lean ====
section
/-! SUPPORT. The operations of Machine/Faults.lean have `Keeps`: one lemma each. -/

namespace Sys2Proof.Machine

set_option Elab.async false

theorem modTileDie_keeps {F : Footprint} {s0 s : State} (hK : Keeps F s0 s) (t : Nat) (f : Die → Die) (f_dies : F.dies = true := by assumption) :
    Keeps F s0 (modTileDie s t f) := by
  unfold modTileDie
  try dsimp only
  repeat' first
    | with_reducible assumption
    | with_reducible apply Keeps.modDie

theorem poisonCtx_keeps {F : Footprint} {s0 s : State} (hK : Keeps F s0 s) (t c : Nat) (f_parts : F.parts = true := by assumption) :
    Keeps F s0 (poisonCtx s t c) := by
  unfold poisonCtx
  try dsimp only
  repeat' first
    | with_reducible assumption
    | with_reducible apply poisonPass_keeps

theorem spadParity_keeps {F : Footprint} {s0 s : State} (hK : Keeps F s0 s) (t c row : Nat) (f_fm : F.fm = true := by assumption) (f_mcEv : F.mcEv = true := by assumption) (f_dies : F.dies = true := by assumption) (f_tiles : F.tiles = true := by assumption) (f_parts : F.parts = true := by assumption) :
    Keeps F s0 (spadParity s t c row) := by
  unfold spadParity
  try dsimp only
  repeat' first
    | with_reducible assumption
    | with_reducible apply Keeps.modTile
    | with_reducible apply reportTile_keeps
    | with_reducible apply shortTile_keeps
    | with_reducible apply modTileDie_keeps
    | with_reducible apply poisonCtx_keeps
    | split

theorem basinFix_keeps {F : Footprint} {s0 s : State} (hK : Keeps F s0 s) (t word : Nat) (reappeared : Bool) (f_fm : F.fm = true := by assumption) (f_mcEv : F.mcEv = true := by assumption) (f_dies : F.dies = true := by assumption) (f_tiles : F.tiles = true := by assumption) :
    Keeps F s0 (basinFix s t word reappeared) := by
  unfold basinFix
  try dsimp only
  repeat' first
    | with_reducible assumption
    | with_reducible apply Keeps.modTile
    | with_reducible apply reportTile_keeps
    | with_reducible apply shortTile_keeps
    | with_reducible apply modTileDie_keeps
    | split

theorem unitRecord_keeps {F : Footprint} {s0 s : State} (hK : Keeps F s0 s) (t : Nat) (u : UnitKind) (i : Nat) (f_dies : F.dies = true := by assumption) (f_tiles : F.tiles = true := by assumption) :
    Keeps F s0 (unitRecord s t u i) := by
  unfold unitRecord
  try dsimp only
  repeat' first
    | with_reducible assumption
    | with_reducible apply Keeps.modTile
    | with_reducible apply modAe_keeps
    | split

theorem unitForget_keeps {F : Footprint} {s0 s : State} (hK : Keeps F s0 s) (t : Nat) (u : UnitKind) (i : Nat) (f_dies : F.dies = true := by assumption) (f_tiles : F.tiles = true := by assumption) :
    Keeps F s0 (unitForget s t u i) := by
  unfold unitForget
  try dsimp only
  repeat' first
    | with_reducible assumption
    | with_reducible apply Keeps.modTile
    | with_reducible apply modAe_keeps
    | split

theorem mapUnit_keeps {F : Footprint} {s0 s : State} (hK : Keeps F s0 s) (t : Nat) (u : UnitKind) (i : Nat) (f_fm : F.fm = true := by assumption) (f_dies : F.dies = true := by assumption) (f_tiles : F.tiles = true := by assumption) :
    Keeps F s0 (mapUnit s t u i) := by
  unfold mapUnit
  try dsimp only
  repeat' first
    | with_reducible assumption
    | with_reducible apply Keeps.modTile
    | with_reducible apply shortTile_keeps
    | with_reducible apply replaceTarn_keeps
    | with_reducible apply modAe_keeps
    | with_reducible refine Keeps.fst ?_ ‹_ = (_, _)›
    | split

theorem permanentFault_keeps {F : Footprint} {s0 s : State} (hK : Keeps F s0 s) (t : Nat) (u : UnitKind) (i : Nat) (f_fm : F.fm = true := by assumption) (f_mcEv : F.mcEv = true := by assumption) (f_dies : F.dies = true := by assumption) (f_tiles : F.tiles = true := by assumption) :
    Keeps F s0 (permanentFault s t u i) := by
  unfold permanentFault
  try dsimp only
  repeat' first
    | with_reducible assumption
    | with_reducible apply reportTile_keeps
    | with_reducible apply modTileDie_keeps
    | with_reducible apply unitForget_keeps
    | with_reducible apply mapUnit_keeps

theorem endRepeat_keeps {F : Footprint} {s0 s : State} (hK : Keeps F s0 s) (t id : Nat) (poison : Bool) (f_tiles : F.tiles = true := by assumption) (f_parts : F.parts = true := by assumption) :
    Keeps F s0 (endRepeat s t id poison) := by
  unfold endRepeat
  try dsimp only
  repeat' first
    | with_reducible assumption
    | with_reducible apply Keeps.modTile
    | with_reducible apply poisonCtx_keeps
    | with_reducible refine Keeps.fst ?_ ‹_ = (_, _)›
    | split

theorem countLost_keeps {F : Footprint} {s0 s : State} (hK : Keeps F s0 s) (q : Nat × Nat) (x : Xfer) (f_dies : F.dies = true := by assumption) :
    Keeps F s0 (countLost s q x) := by
  unfold countLost
  try dsimp only
  repeat' first
    | with_reducible assumption
    | with_reducible apply countTx_keeps
    | with_reducible apply countCrossed_keeps
    | split

theorem loseXfers_keeps {F : Footprint} {s0 s : State} (hK : Keeps F s0 s) (die port : Nat) (lost : Xfer → Bool) (f_dies : F.dies = true := by assumption) (f_parts : F.parts = true := by assumption) (f_xfers : F.xfers = true := by assumption) :
    Keeps F s0 (loseXfers s die port lost) := by
  unfold loseXfers
  try dsimp only
  repeat' first
    | with_reducible assumption
    | with_reducible apply Keeps.modDie
    | with_reducible apply poisonPass_keeps
    | with_reducible apply countLost_keeps
    | (with_reducible apply Keeps.foldl; intro _ _ _)
    | split
    | dsimp only
    | with_reducible refine Keeps.upd ?_

theorem linkDown_keeps {F : Footprint} {s0 s : State} (hK : Keeps F s0 s) (die port : Nat) (f_dies : F.dies = true := by assumption) (f_parts : F.parts = true := by assumption) (f_xfers : F.xfers = true := by assumption) :
    Keeps F s0 (linkDown s die port) := by
  unfold linkDown
  try dsimp only
  repeat' first
    | with_reducible assumption
    | with_reducible apply Keeps.modDie
    | with_reducible apply loseXfers_keeps
    | with_reducible refine Keeps.fst ?_ ‹_ = (_, _)›
    | split

theorem execEngineCompletion_keeps {F : Footprint} {s s' : State} (t : Nat) (engine : Engine) (finding : EngineFinding) (coll now : Nat) (e : execEngineCompletion t engine finding coll now s = .next s') (f_time : F.time = true := by assumption) (f_fm : F.fm = true := by assumption) (f_mcEv : F.mcEv = true := by assumption) (f_dies : F.dies = true := by assumption) (f_tiles : F.tiles = true := by assumption) (f_parts : F.parts = true := by assumption) :
    Keeps F s s' := by
  unfold execEngineCompletion at e
  refine guarded_keeps ?_ e
  have hK := Keeps.refl F s
  try dsimp only
  repeat' first
    | with_reducible assumption
    | with_reducible apply Keeps.modTile
    | with_reducible apply Keeps.setNow
    | with_reducible apply modTileDie_keeps
    | with_reducible apply poisonCtx_keeps
    | with_reducible apply spadParity_keeps
    | with_reducible apply basinFix_keeps
    | with_reducible refine Keeps.fst ?_ ‹_ = (_, _)›
    | split

theorem execResidueRepeatDone_keeps {F : Footprint} {s s' : State} (t : Nat) (unit : UnitKind) (index : Nat) (repeatOk thirdOk : Bool) (now : Nat) (e : execResidueRepeatDone t unit index repeatOk thirdOk now s = .next s') (f_time : F.time = true := by assumption) (f_fm : F.fm = true := by assumption) (f_mcEv : F.mcEv = true := by assumption) (f_dies : F.dies = true := by assumption) (f_tiles : F.tiles = true := by assumption) (f_parts : F.parts = true := by assumption) :
    Keeps F s s' := by
  unfold execResidueRepeatDone at e
  refine guarded_keeps ?_ e
  have hK := Keeps.refl F s
  try dsimp only
  repeat' first
    | with_reducible assumption
    | with_reducible apply Keeps.modTile
    | with_reducible apply Keeps.setNow
    | with_reducible apply reportTile_keeps
    | with_reducible apply modTileDie_keeps
    | with_reducible apply unitRecord_keeps
    | with_reducible apply permanentFault_keeps
    | with_reducible apply endRepeat_keeps
    | with_reducible refine Keeps.fst ?_ ‹_ = (_, _)›
    | split

theorem execTransientLimit_keeps {F : Footprint} {s s' : State} (die : Nat) (unit : UnitKind) (index now : Nat) (e : execTransientLimit die unit index now s = .next s') (f_time : F.time = true := by assumption) (f_fm : F.fm = true := by assumption) (f_mcEv : F.mcEv = true := by assumption) (f_dies : F.dies = true := by assumption) (f_tiles : F.tiles = true := by assumption) :
    Keeps F s s' := by
  unfold execTransientLimit at e
  refine guarded_keeps ?_ e
  have hK := Keeps.refl F s
  try dsimp only
  repeat' first
    | with_reducible assumption
    | with_reducible apply Keeps.setNow
    | with_reducible apply permanentFault_keeps
    | split

theorem execFlitParityError_keeps {F : Footprint} {s s' : State} (die port stripe : Nat) (onDie : Option Nat) (resendOk : Bool) (now : Nat) (e : execFlitParityError die port stripe onDie resendOk now s = .next s') (f_time : F.time = true := by assumption) (f_fm : F.fm = true := by assumption) (f_mcEv : F.mcEv = true := by assumption) (f_dies : F.dies = true := by assumption) (f_tiles : F.tiles = true := by assumption) :
    Keeps F s s' := by
  unfold execFlitParityError at e
  refine guarded_keeps ?_ e
  have hK := Keeps.refl F s
  try dsimp only
  repeat' first
    | with_reducible assumption
    | with_reducible apply Keeps.modDie
    | with_reducible apply Keeps.modTile
    | with_reducible apply Keeps.setNow
    | with_reducible apply report_keeps
    | with_reducible apply shortTile_keeps
    | with_reducible apply modTileDie_keeps
    | with_reducible refine Keeps.fst ?_ ‹_ = (_, _)›
    | split

theorem execStripeDown_keeps {F : Footprint} {s s' : State} (die port stripe now : Nat) (e : execStripeDown die port stripe now s = .next s') (f_time : F.time = true := by assumption) (f_mcEv : F.mcEv = true := by assumption) (f_dies : F.dies = true := by assumption) (f_parts : F.parts = true := by assumption) (f_xfers : F.xfers = true := by assumption) :
    Keeps F s s' := by
  unfold execStripeDown at e
  refine guarded_keeps ?_ e
  have hK := Keeps.refl F s
  try dsimp only
  repeat' first
    | with_reducible assumption
    | with_reducible apply Keeps.modDie
    | with_reducible apply Keeps.setNow
    | with_reducible apply report_keeps
    | with_reducible apply loseXfers_keeps
    | with_reducible apply linkDown_keeps
    | split

theorem execTwimerLinkDown_keeps {F : Footprint} {s s' : State} (die port now : Nat) (e : execTwimerLinkDown die port now s = .next s') (f_time : F.time = true := by assumption) (f_dies : F.dies = true := by assumption) (f_parts : F.parts = true := by assumption) (f_xfers : F.xfers = true := by assumption) :
    Keeps F s s' := by
  unfold execTwimerLinkDown at e
  refine guarded_keeps ?_ e
  have hK := Keeps.refl F s
  try dsimp only
  repeat' first
    | with_reducible assumption
    | with_reducible apply Keeps.setNow
    | with_reducible apply linkDown_keeps
    | split

theorem execDramPatrolRead_keeps {F : Footprint} {s s' : State} (stack ch : Nat) (ecc : Ecc) (now : Nat) (e : execDramPatrolRead stack ch ecc now s = .next s') (f_time : F.time = true := by assumption) (f_mcEv : F.mcEv = true := by assumption) (f_dies : F.dies = true := by assumption) (f_stackTab : F.stackTab = true := by assumption) (f_engines : F.engines = true := by assumption) (f_parts : F.parts = true := by assumption) (f_entries : F.entries = true := by assumption) (f_dram : F.dram = true := by assumption) (f_nextOp : F.nextOp = true := by assumption) :
    Keeps F s s' := by
  unfold execDramPatrolRead at e
  refine guarded_keeps ?_ e
  have hK := Keeps.refl F s
  try dsimp only
  repeat' first
    | with_reducible assumption
    | with_reducible apply Keeps.setNow
    | with_reducible apply modChan_keeps
    | with_reducible apply chanCorrected_keeps
    | with_reducible apply chanUncorrectable_keeps
    | with_reducible refine Keeps.fst ?_ ‹_ = (_, _)›
    | split

theorem execFaultWindowRoll_keeps {F : Footprint} {s s' : State} (now : Nat) (e : execFaultWindowRoll now s = .next s') (f_time : F.time = true := by assumption) (f_dies : F.dies = true := by assumption) (f_tiles : F.tiles = true := by assumption) (f_stackTab : F.stackTab = true := by assumption) :
    Keeps F s s' := by
  unfold execFaultWindowRoll at e
  refine guarded_keeps ?_ e
  have hK := Keeps.refl F s
  try dsimp only
  repeat' first
    | with_reducible assumption
    | with_reducible apply Keeps.modTile
    | with_reducible apply Keeps.setNow
    | with_reducible apply modChan_keeps
    | with_reducible apply modAe_keeps
    | (with_reducible apply Keeps.foldl; intro _ _ _)

end Sys2Proof.Machine
end

