-- ==== Sys2Proof/Laws/KeepsOpsServe.lean ====
section
/-! SUPPORT. The operations of Machine/OpsServe.lean have `Keeps`: one lemma each. -/

namespace Sys2Proof.Machine

set_option Elab.async false

theorem modCnt_keeps {F : Footprint} {s0 s : State} (hK : Keeps F s0 s) (p : Nat) (f : ServCnt → ServCnt) (f_parts : F.parts = true := by assumption) :
    Keeps F s0 (modCnt s p f) := by
  unfold modCnt
  try dsimp only
  repeat' first
    | with_reducible assumption
    | with_reducible apply Keeps.modPart

theorem progress_keeps {F : Footprint} {s0 s : State} (hK : Keeps F s0 s) (p : Nat) (f_parts : F.parts = true := by assumption) :
    Keeps F s0 (progress s p) := by
  unfold progress
  try dsimp only
  repeat' first
    | with_reducible assumption
    | with_reducible apply Keeps.modPart

theorem keyInsert_keeps {F : Footprint} {s0 s : State} (hK : Keeps F s0 s) (p b keyspace : Nat) (key : List Byte) (entry : Nat) (f_parts : F.parts = true := by assumption) :
    Keeps F s0 (keyInsert s p b keyspace key entry) := by
  unfold keyInsert
  try dsimp only
  repeat' first
    | with_reducible assumption
    | with_reducible apply Keeps.modPart

theorem keyRemove_keeps {F : Footprint} {s0 s : State} (hK : Keeps F s0 s) (p e : Nat) (f_parts : F.parts = true := by assumption) :
    Keeps F s0 (keyRemove s p e) := by
  unfold keyRemove
  try dsimp only
  repeat' first
    | with_reducible assumption
    | with_reducible apply Keeps.modPart
    | split

theorem openEntry_keeps {F : Footprint} {s0 s t : State} (h : Keeps F s0 s) {p e : Nat} {a : OpenArgs} (k : openEntry s p e a = .ok t) (f_parts : F.parts = true := by assumption) (f_entries : F.entries = true := by assumption) :
    Keeps F s0 t := by
  unfold openEntry at k
  split at k
  · cases k
  · split at k
    · cases k
    · split at k
      · cases k
      · cases k; exact Keeps.modEntry (modPool_keeps h _ _ _) _ _

theorem bindDraft_keeps {F : Footprint} {s0 s : State} (hK : Keeps F s0 s) (p e : Nat) (f_parts : F.parts = true := by assumption) (f_entries : F.entries = true := by assumption) :
    Keeps F s0 (bindDraft s p e) := by
  unfold bindDraft
  try dsimp only
  repeat' first
    | with_reducible assumption
    | with_reducible apply Keeps.modEntry
    | with_reducible apply modCnt_keeps
    | with_reducible refine openEntry_keeps ?_ ‹_›
    | with_reducible refine Keeps.fst ?_ ‹_ = (_, _)›
    | split

theorem openMain_keeps {F : Footprint} {s0 s t : State} (h : Keeps F s0 s) {p e : Nat} {a : OpenArgs} (k : openMain s p e a = .ok t) (f_parts : F.parts = true := by assumption) (f_entries : F.entries = true := by assumption) :
    Keeps F s0 t := by
  unfold openMain at k
  split at k
  · cases k
  · rename_i u hu
    have hu := openEntry_keeps h hu
    cases k
    split
    · exact bindDraft_keeps hu _ _
    · exact hu

theorem tableFull_keeps {F : Footprint} {s0 s : State} (hK : Keeps F s0 s) (p : Nat) (noEntry : Bool) (f_mcEv : F.mcEv = true := by assumption) (f_dies : F.dies = true := by assumption) (f_parts : F.parts = true := by assumption) :
    Keeps F s0 (tableFull s p noEntry) := by
  unfold tableFull
  try dsimp only
  repeat' first
    | with_reducible assumption
    | with_reducible apply Keeps.modPart
    | with_reducible apply reportLead_keeps
    | with_reducible apply modCnt_keeps
    | split

theorem egressNarr_keeps {F : Footprint} {s0 s : State} (hK : Keeps F s0 s) (p : Nat) (rec : List Byte) (f_mcEv : F.mcEv = true := by assumption) (f_dies : F.dies = true := by assumption) (f_feedPorts : F.feedPorts = true := by assumption) (f_fns : F.fns = true := by assumption) (f_parts : F.parts = true := by assumption) (f_out : F.out = true := by assumption) (f_free : F.free = true := by assumption) :
    Keeps F s0 (egressNarr s p rec) := by
  unfold egressNarr
  try dsimp only
  repeat' first
    | with_reducible assumption
    | with_reducible apply spoolAdd_keeps
    | with_reducible apply sendRecord_keeps
    | split

theorem modItem_keeps {F : Footprint} {s0 s : State} (hK : Keeps F s0 s) (e id : Nat) (f : Item → Item) (f_entries : F.entries = true := by assumption) :
    Keeps F s0 (modItem s e id f) := by
  unfold modItem
  try dsimp only
  repeat' first
    | with_reducible assumption
    | with_reducible apply Keeps.modEntry

theorem markClosing_keeps {F : Footprint} {s0 s : State} (hK : Keeps F s0 s) (p e : Nat) (f_parts : F.parts = true := by assumption) (f_entries : F.entries = true := by assumption) :
    Keeps F s0 (markClosing s p e) := by
  unfold markClosing
  try dsimp only
  repeat' first
    | with_reducible assumption
    | with_reducible apply Keeps.modEntry
    | with_reducible apply keyRemove_keeps

theorem finishItem_keeps {F : Footprint} {s0 s : State} (hK : Keeps F s0 s) (p e id reason : Nat) (limit stop : Bool) (f_mcEv : F.mcEv = true := by assumption) (f_dies : F.dies = true := by assumption) (f_feedPorts : F.feedPorts = true := by assumption) (f_fns : F.fns = true := by assumption) (f_parts : F.parts = true := by assumption) (f_entries : F.entries = true := by assumption) (f_out : F.out = true := by assumption) (f_free : F.free = true := by assumption) :
    Keeps F s0 (finishItem s p e id reason limit stop) := by
  unfold finishItem
  try dsimp only
  repeat' first
    | with_reducible assumption
    | with_reducible apply Keeps.modEntry
    | with_reducible apply produce_keeps
    | with_reducible apply egressNarr_keeps
    | with_reducible apply markClosing_keeps
    | with_reducible refine Keeps.fst ?_ ‹_ = (_, _)›
    | split

theorem removeItem_keeps {F : Footprint} {s0 s : State} (hK : Keeps F s0 s) (p e id reason : Nat) (f_mcEv : F.mcEv = true := by assumption) (f_dies : F.dies = true := by assumption) (f_feedPorts : F.feedPorts = true := by assumption) (f_fns : F.fns = true := by assumption) (f_parts : F.parts = true := by assumption) (f_entries : F.entries = true := by assumption) (f_out : F.out = true := by assumption) (f_free : F.free = true := by assumption) :
    Keeps F s0 (removeItem s p e id reason) := by
  unfold removeItem
  try dsimp only
  repeat' first
    | with_reducible assumption
    | with_reducible apply Keeps.modEntry
    | with_reducible apply finishItem_keeps
    | with_reducible refine Keeps.fst ?_ ‹_ = (_, _)›
    | split

theorem removeAll_keeps {F : Footprint} {s0 s : State} (hK : Keeps F s0 s) (p e reason : Nat) (f_mcEv : F.mcEv = true := by assumption) (f_dies : F.dies = true := by assumption) (f_feedPorts : F.feedPorts = true := by assumption) (f_fns : F.fns = true := by assumption) (f_parts : F.parts = true := by assumption) (f_entries : F.entries = true := by assumption) (f_out : F.out = true := by assumption) (f_free : F.free = true := by assumption) :
    Keeps F s0 (removeAll s p e reason) := by
  unfold removeAll
  try dsimp only
  repeat' first
    | with_reducible assumption
    | with_reducible apply removeItem_keeps
    | (with_reducible apply Keeps.foldl; intro _ _ _)

theorem closeEntry_keeps {F : Footprint} {s0 s : State} (hK : Keeps F s0 s) (p e : Nat) (h : Option HostRef) (f_mcEv : F.mcEv = true := by assumption) (f_dies : F.dies = true := by assumption) (f_feedPorts : F.feedPorts = true := by assumption) (f_fns : F.fns = true := by assumption) (f_parts : F.parts = true := by assumption) (f_entries : F.entries = true := by assumption) (f_out : F.out = true := by assumption) (f_free : F.free = true := by assumption) :
    Keeps F s0 (closeEntry s p e h) := by
  unfold closeEntry
  try dsimp only
  repeat' first
    | with_reducible assumption
    | with_reducible apply Keeps.modEntry
    | with_reducible apply completeWith_keeps
    | with_reducible apply endFrameWait_keeps
    | with_reducible apply markClosing_keeps
    | with_reducible apply removeAll_keeps
    | with_reducible refine Keeps.fst ?_ ‹_ = (_, _)›
    | split

theorem releaseEntry_keeps {F : Footprint} {s0 s : State} (hK : Keeps F s0 s) (p e : Nat) (f_mcEv : F.mcEv = true := by assumption) (f_dies : F.dies = true := by assumption) (f_stackTab : F.stackTab = true := by assumption) (f_parts : F.parts = true := by assumption) (f_entries : F.entries = true := by assumption) (f_dram : F.dram = true := by assumption) :
    Keeps F s0 (releaseEntry s p e) := by
  unfold releaseEntry
  try dsimp only
  repeat' first
    | with_reducible assumption
    | with_reducible apply Keeps.modPart
    | with_reducible apply Keeps.modEntry
    | with_reducible apply modPool_keeps
    | with_reducible apply returnStripe_keeps
    | with_reducible apply setDesc_keeps
    | (with_reducible apply Keeps.foldl; intro _ _ _)
    | split

theorem freeEntry_keeps {F : Footprint} {s0 s : State} (hK : Keeps F s0 s) (p e : Nat) (f_mcEv : F.mcEv = true := by assumption) (f_dies : F.dies = true := by assumption) (f_stackTab : F.stackTab = true := by assumption) (f_fns : F.fns = true := by assumption) (f_parts : F.parts = true := by assumption) (f_entries : F.entries = true := by assumption) (f_dram : F.dram = true := by assumption) :
    Keeps F s0 (freeEntry s p e) := by
  unfold freeEntry
  try dsimp only
  repeat' first
    | with_reducible assumption
    | with_reducible apply Keeps.modEntry
    | with_reducible apply completeWith_keeps
    | with_reducible apply keyRemove_keeps
    | with_reducible apply releaseEntry_keeps
    | (with_reducible apply Keeps.foldl; intro _ _ _)
    | split

end Sys2Proof.Machine
end

