-- ==== Sys2Proof/Laws/KeepsOpsOpen.lean ====
section
/-! SUPPORT. The operations of Machine/OpsOpen.lean have `Keeps`: one lemma each. -/

namespace Sys2Proof.Machine

set_option Elab.async false

theorem placeLost_keeps {F : Footprint} {s0 s : State} (hK : Keeps F s0 s) (p e : Nat) (f_parts : F.parts = true := by assumption) (f_entries : F.entries = true := by assumption) :
    Keeps F s0 (placeLost s p e) := by
  unfold placeLost
  try dsimp only
  repeat' first
    | with_reducible assumption
    | with_reducible apply Keeps.modPart
    | with_reducible apply Keeps.modEntry
    | with_reducible refine Keeps.fst ?_ ‹_ = (_, _)›
    | split

theorem dropLate_keeps {F : Footprint} {s0 s : State} (hK : Keeps F s0 s) (p e : Nat) (x0 : Nat) (f_mcEv : F.mcEv = true := by assumption) (f_dies : F.dies = true := by assumption) (f_feedPorts : F.feedPorts = true := by assumption) (f_fns : F.fns = true := by assumption) (f_parts : F.parts = true := by assumption) (f_entries : F.entries = true := by assumption) (f_out : F.out = true := by assumption) (f_free : F.free = true := by assumption) :
    Keeps F s0 (dropLate p e x0 s) := by
  induction x0 generalizing p e s with
  | zero => unfold dropLate; exact hK
  | succ _ ih =>
    unfold dropLate
    try dsimp only
    repeat' first
      | with_reducible assumption
      | with_reducible apply ih
      | with_reducible apply modCnt_keeps
      | with_reducible apply removeItem_keeps
      | with_reducible apply placeLost_keeps
      | with_reducible refine Keeps.fst ?_ ‹_ = (_, _)›
      | split

theorem dropFull_keeps {F : Footprint} {s0 s : State} (hK : Keeps F s0 s) (p e : Nat) (f_mcEv : F.mcEv = true := by assumption) (f_dies : F.dies = true := by assumption) (f_feedPorts : F.feedPorts = true := by assumption) (f_fns : F.fns = true := by assumption) (f_parts : F.parts = true := by assumption) (f_entries : F.entries = true := by assumption) (f_out : F.out = true := by assumption) (f_free : F.free = true := by assumption) :
    Keeps F s0 (dropFull s p e) := by
  unfold dropFull
  try dsimp only
  repeat' first
    | with_reducible assumption
    | with_reducible apply modPool_keeps
    | with_reducible apply removeItem_keeps
    | with_reducible refine Keeps.fst ?_ ‹_ = (_, _)›
    | split

theorem pruneHead_keeps {F : Footprint} {s0 s : State} (hK : Keeps F s0 s) (p e : Nat) (f_mcEv : F.mcEv = true := by assumption) (f_dies : F.dies = true := by assumption) (f_feedPorts : F.feedPorts = true := by assumption) (f_fns : F.fns = true := by assumption) (f_parts : F.parts = true := by assumption) (f_entries : F.entries = true := by assumption) (f_out : F.out = true := by assumption) (f_free : F.free = true := by assumption) :
    Keeps F s0 (pruneHead s p e) := by
  unfold pruneHead
  try dsimp only
  repeat' first
    | with_reducible assumption
    | with_reducible apply dropLate_keeps
    | with_reducible apply dropFull_keeps
    | split

theorem attachPage_keeps {F : Footprint} {s0 s : State} (hK : Keeps F s0 s) (p e page stripe : Nat) (f_stackTab : F.stackTab = true := by assumption) (f_entries : F.entries = true := by assumption) (f_dram : F.dram = true := by assumption) :
    Keeps F s0 (attachPage s p e page stripe) := by
  unfold attachPage
  try dsimp only
  repeat' first
    | with_reducible assumption
    | with_reducible apply setDesc_keeps

theorem stripeFor_keeps {F : Footprint} {s0 s t : State} (h : Keeps F s0 s) {p e pos : Nat} (q : stripeFor s p e pos = some t) (f_mcEv : F.mcEv = true := by assumption) (f_dies : F.dies = true := by assumption) (f_stackTab : F.stackTab = true := by assumption) (f_parts : F.parts = true := by assumption) (f_entries : F.entries = true := by assumption) (f_dram : F.dram = true := by assumption) :
    Keeps F s0 t := by
  have hw : Keeps F s0 (if (s.entry e).frameWait then endFrameWait s p (s.entry e).slot e else s) := by
    split
    · exact endFrameWait_keeps h _ _ _
    · exact h
  unfold stripeFor at q
  dsimp only at q
  split at q
  · cases q; exact hw
  · split at q
    · simp only [Option.map_eq_some_iff] at q
      obtain ⟨r, hr, rfl⟩ := q
      exact attachPage_keeps (takeStripe_keeps hw hr) _ _ _ _
    · simp only [Option.map_eq_some_iff] at q
      obtain ⟨r, hr, rfl⟩ := q
      exact trimIndex_keeps (attachPage_keeps (setDesc_keeps (modPool_keeps h _ _ _) _ _ _ _ _) _ _ _ _) _ _ _

theorem assignCtxs_keeps {F : Footprint} {s0 s : State} (hK : Keeps F s0 s) (p k : Nat) (f_tiles : F.tiles = true := by assumption) (f_parts : F.parts = true := by assumption) :
    Keeps F s0 (assignCtxs s p k) := by
  unfold assignCtxs
  try dsimp only
  repeat' first
    | with_reducible assumption
    | with_reducible apply Keeps.modTile
    | with_reducible apply nextUp_keeps
    | (with_reducible apply Keeps.foldl; intro _ _ _)

theorem openPass_keeps {F : Footprint} {s0 s : State} (hK : Keeps F s0 s) (p e token item : Nat) (prompt verify : Bool) (cls arrival : Nat) (dl : Option Nat) (f_tiles : F.tiles = true := by assumption) (f_parts : F.parts = true := by assumption) (f_entries : F.entries = true := by assumption) :
    Keeps F s0 (openPass s p e token item prompt verify cls arrival dl).1 := by
  unfold openPass
  try dsimp only
  repeat' first
    | with_reducible assumption
    | with_reducible apply Keeps.modPart
    | with_reducible apply Keeps.modEntry
    | with_reducible apply Keeps.modSlot
    | with_reducible apply assignCtxs_keeps

theorem takeToken_keeps {F : Footprint} {s0 s : State} (hK : Keeps F s0 s) (e item : Nat) (prompt : Bool) (f_entries : F.entries = true := by assumption) :
    Keeps F s0 (takeToken s e item prompt) := by
  unfold takeToken
  try dsimp only
  repeat' first
    | with_reducible assumption
    | with_reducible apply Keeps.modEntry
    | with_reducible apply modItem_keeps
    | with_reducible refine Keeps.fst ?_ ‹_ = (_, _)›
    | split

theorem beginVerify_keeps {F : Footprint} {s0 s : State} (hK : Keeps F s0 s) (e d token : Nat) (probe : Bool) (f_entries : F.entries = true := by assumption) :
    Keeps F s0 (beginVerify s e d token probe) := by
  unfold beginVerify
  try dsimp only
  repeat' first
    | with_reducible assumption
    | with_reducible apply Keeps.modEntry

theorem openPair_keeps {F : Footprint} {s0 s : State} (hK : Keeps F s0 s) (p : Nat) (r : Ready) (i : Item) (dl : Option Nat) (f_tiles : F.tiles = true := by assumption) (f_parts : F.parts = true := by assumption) (f_entries : F.entries = true := by assumption) :
    Keeps F s0 (openPair s p r i dl) := by
  unfold openPair
  try dsimp only
  repeat' first
    | with_reducible assumption
    | with_reducible apply modPass_keeps
    | with_reducible apply openPass_keeps
    | with_reducible apply takeToken_keeps

theorem openSingle_keeps {F : Footprint} {s0 s : State} (hK : Keeps F s0 s) (p : Nat) (r : Ready) (i : Item) (d : Nat) (dl : Option Nat) (f_tiles : F.tiles = true := by assumption) (f_parts : F.parts = true := by assumption) (f_entries : F.entries = true := by assumption) :
    Keeps F s0 (openSingle s p r i d dl) := by
  unfold openSingle
  try dsimp only
  repeat' first
    | with_reducible assumption
    | with_reducible apply Keeps.modEntry
    | with_reducible apply openPass_keeps
    | with_reducible apply takeToken_keeps
    | with_reducible apply beginVerify_keeps
    | split

theorem doOpen_keeps {F : Footprint} {s0 s : State} (hK : Keeps F s0 s) (p : Nat) (r : Ready) (f_mcEv : F.mcEv = true := by assumption) (f_dies : F.dies = true := by assumption) (f_tiles : F.tiles = true := by assumption) (f_stackTab : F.stackTab = true := by assumption) (f_parts : F.parts = true := by assumption) (f_entries : F.entries = true := by assumption) (f_dram : F.dram = true := by assumption) :
    Keeps F s0 (doOpen s p r) := by
  unfold doOpen
  try dsimp only
  repeat' first
    | with_reducible assumption
    | with_reducible apply beginFrameWait_keeps
    | with_reducible refine stripeFor_keeps ?_ ‹_›
    | with_reducible apply openPair_keeps
    | with_reducible apply openSingle_keeps
    | with_reducible refine Keeps.fst ?_ ‹_ = (_, _)›
    | split

end Sys2Proof.Machine
end

