-- ==== Sys2Proof/Laws/KeepsOpsCommit.lean ====
section
/-! SUPPORT. The operations of Machine/OpsCommit.lean have `Keeps`: one lemma each. -/

namespace Sys2Proof.Machine

set_option Elab.async false

theorem addHist_keeps {F : Footprint} {s0 s : State} (hK : Keeps F s0 s) (p kind cls ns : Nat) (f_fns : F.fns = true := by assumption) (f_parts : F.parts = true := by assumption) :
    Keeps F s0 (addHist s p kind cls ns) := by
  unfold addHist
  try dsimp only
  repeat' first
    | with_reducible assumption
    | with_reducible apply Keeps.modFn
    | with_reducible apply modCnt_keeps
    | with_reducible refine Keeps.fst ?_ ‹_ = (_, _)›
    | split

theorem recordMiss_keeps {F : Footprint} {s0 s : State} (hK : Keeps F s0 s) (p e kind cls late : Nat) (f_mcEv : F.mcEv = true := by assumption) (f_dies : F.dies = true := by assumption) (f_parts : F.parts = true := by assumption) (f_entries : F.entries = true := by assumption) :
    Keeps F s0 (recordMiss s p e kind cls late) := by
  unfold recordMiss
  try dsimp only
  repeat' first
    | with_reducible assumption
    | with_reducible apply Keeps.modEntry
    | with_reducible apply reportLead_keeps
    | with_reducible apply modCnt_keeps

theorem tokenWrite_keeps {F : Footprint} {s0 s : State} (hK : Keeps F s0 s) (e : Nat) (i : Item) (tok : Nat) (f_entries : F.entries = true := by assumption) (f_out : F.out = true := by assumption) :
    Keeps F s0 (tokenWrite s e i tok) := by
  unfold tokenWrite
  try dsimp only
  repeat' first
    | with_reducible assumption
    | with_reducible apply Keeps.emit
    | with_reducible apply modItem_keeps
    | with_reducible refine Keeps.fst ?_ ‹_ = (_, _)›
    | split

theorem narrFlush_keeps {F : Footprint} {s0 s : State} (hK : Keeps F s0 s) (p e : Nat) (i : Item) (f_mcEv : F.mcEv = true := by assumption) (f_dies : F.dies = true := by assumption) (f_feedPorts : F.feedPorts = true := by assumption) (f_fns : F.fns = true := by assumption) (f_parts : F.parts = true := by assumption) (f_entries : F.entries = true := by assumption) (f_out : F.out = true := by assumption) (f_free : F.free = true := by assumption) :
    Keeps F s0 (narrFlush s p e i) := by
  unfold narrFlush
  try dsimp only
  repeat' first
    | with_reducible assumption
    | with_reducible apply egressNarr_keeps
    | with_reducible apply modItem_keeps
    | with_reducible refine Keeps.fst ?_ ‹_ = (_, _)›
    | split

theorem tokenTimes_keeps {F : Footprint} {s0 s : State} (hK : Keeps F s0 s) (p e : Nat) (i : Item) (f_mcEv : F.mcEv = true := by assumption) (f_dies : F.dies = true := by assumption) (f_fns : F.fns = true := by assumption) (f_parts : F.parts = true := by assumption) (f_entries : F.entries = true := by assumption) :
    Keeps F s0 (tokenTimes s p e i) := by
  unfold tokenTimes
  try dsimp only
  repeat' first
    | with_reducible assumption
    | with_reducible apply addHist_keeps
    | with_reducible apply recordMiss_keeps
    | split

theorem tokenKeep_keeps {F : Footprint} {s0 s : State} (hK : Keeps F s0 s) (e id : Nat) (i : Item) (tok : Nat) (miss : Bool) (f_entries : F.entries = true := by assumption) (f_out : F.out = true := by assumption) :
    Keeps F s0 (tokenKeep s e id i tok miss) := by
  unfold tokenKeep
  try dsimp only
  repeat' first
    | with_reducible assumption
    | with_reducible apply Keeps.modEntry
    | with_reducible apply modItem_keeps
    | with_reducible apply tokenWrite_keeps
    | split

theorem tokenNotify_keeps {F : Footprint} {s0 s : State} (hK : Keeps F s0 s) (e id : Nat) (i : Item) (f_fns : F.fns = true := by assumption) (f_parts : F.parts = true := by assumption) (f_entries : F.entries = true := by assumption) :
    Keeps F s0 (tokenNotify s e id i) := by
  unfold tokenNotify
  try dsimp only
  repeat' first
    | with_reducible assumption
    | with_reducible apply produce_keeps
    | with_reducible apply modItem_keeps
    | with_reducible refine Keeps.fst ?_ ‹_ = (_, _)›
    | split

theorem yieldToken_keeps {F : Footprint} {s0 s : State} (hK : Keeps F s0 s) (p e id tok : Nat) (f_mcEv : F.mcEv = true := by assumption) (f_dies : F.dies = true := by assumption) (f_feedPorts : F.feedPorts = true := by assumption) (f_fns : F.fns = true := by assumption) (f_parts : F.parts = true := by assumption) (f_entries : F.entries = true := by assumption) (f_out : F.out = true := by assumption) (f_free : F.free = true := by assumption) :
    Keeps F s0 (yieldToken s p e id tok).1 := by
  unfold yieldToken
  try dsimp only
  repeat' first
    | with_reducible assumption
    | with_reducible apply finishItem_keeps
    | with_reducible apply narrFlush_keeps
    | with_reducible apply tokenTimes_keeps
    | with_reducible apply tokenKeep_keeps
    | with_reducible apply tokenNotify_keeps
    | with_reducible refine Keeps.fst ?_ ‹_ = (_, _)›
    | split

theorem yieldTokens_keeps {F : Footprint} {s0 s : State} (hK : Keeps F s0 s) (p e id : Nat) (x0 : List Nat) (f_mcEv : F.mcEv = true := by assumption) (f_dies : F.dies = true := by assumption) (f_feedPorts : F.feedPorts = true := by assumption) (f_fns : F.fns = true := by assumption) (f_parts : F.parts = true := by assumption) (f_entries : F.entries = true := by assumption) (f_out : F.out = true := by assumption) (f_free : F.free = true := by assumption) :
    Keeps F s0 (yieldTokens p e id x0 s) := by
  induction x0 generalizing p e id s with
  | nil => unfold yieldTokens; exact hK
  | cons _ _ ih =>
    unfold yieldTokens
    try dsimp only
    repeat' first
      | with_reducible assumption
      | with_reducible apply ih
      | with_reducible apply yieldToken_keeps
      | split

theorem makeCandidates_keeps {F : Footprint} {s0 s : State} (hK : Keeps F s0 s) (p : Nat) (x : Pass) (missed : Bool) (f_mcEv : F.mcEv = true := by assumption) (f_dies : F.dies = true := by assumption) (f_parts : F.parts = true := by assumption) :
    Keeps F s0 (makeCandidates s p x missed) := by
  unfold makeCandidates
  try dsimp only
  repeat' first
    | with_reducible assumption
    | with_reducible apply Keeps.modPart
    | with_reducible apply reportLead_keeps
    | with_reducible apply modCnt_keeps
    | with_reducible refine Keeps.fst ?_ ‹_ = (_, _)›
    | split

theorem confirmWords_keeps {F : Footprint} {s0 s : State} (hK : Keeps F s0 s) (p : Nat) (x : Pass) (f_tiles : F.tiles = true := by assumption) :
    Keeps F s0 (confirmWords s p x) := by
  unfold confirmWords
  try dsimp only
  repeat' first
    | with_reducible assumption
    | with_reducible apply Keeps.modTile
    | (with_reducible apply Keeps.foldl; intro _ _ _)
    | with_reducible refine Keeps.fst ?_ ‹_ = (_, _)›
    | split

theorem governor_keeps {F : Footprint} {s0 s : State} (hK : Keeps F s0 s) (p : Nat) (x : Pass) (f_parts : F.parts = true := by assumption) :
    Keeps F s0 (governor s p x) := by
  unfold governor
  try dsimp only
  repeat' first
    | with_reducible assumption
    | with_reducible apply Keeps.modPart
    | split

theorem advance_keeps {F : Footprint} {s0 s : State} (hK : Keeps F s0 s) (p k e len : Nat) (f_mcEv : F.mcEv = true := by assumption) (f_dies : F.dies = true := by assumption) (f_stackTab : F.stackTab = true := by assumption) (f_parts : F.parts = true := by assumption) (f_entries : F.entries = true := by assumption) (f_dram : F.dram = true := by assumption) :
    Keeps F s0 (advance s p k e len) := by
  unfold advance
  try dsimp only
  repeat' first
    | with_reducible assumption
    | with_reducible apply Keeps.modEntry
    | with_reducible apply setDescs_keeps
    | with_reducible apply writeSummary_keeps
    | (with_reducible apply Keeps.foldl; intro _ _ _)

theorem rejectPages_keeps {F : Footprint} {s0 s : State} (hK : Keeps F s0 s) (p e : Nat) (f_mcEv : F.mcEv = true := by assumption) (f_dies : F.dies = true := by assumption) (f_stackTab : F.stackTab = true := by assumption) (f_parts : F.parts = true := by assumption) (f_entries : F.entries = true := by assumption) (f_dram : F.dram = true := by assumption) :
    Keeps F s0 (rejectPages s p e) := by
  unfold rejectPages
  try dsimp only
  repeat' first
    | with_reducible assumption
    | with_reducible apply Keeps.modEntry
    | with_reducible apply modPool_keeps
    | with_reducible apply emptyPage_keeps
    | with_reducible apply trimIndex_keeps
    | (with_reducible apply Keeps.foldl; intro _ _ _)

theorem dropPasses_keeps {F : Footprint} {s0 s : State} (hK : Keeps F s0 s) (p : Nat) (ids : List Nat) (f_tiles : F.tiles = true := by assumption) (f_parts : F.parts = true := by assumption) :
    Keeps F s0 (dropPasses s p ids) := by
  unfold dropPasses
  try dsimp only
  repeat' first
    | with_reducible assumption
    | with_reducible apply Keeps.modTile
    | with_reducible apply Keeps.modPart
    | (with_reducible apply Keeps.foldl; intro _ _ _)

theorem passDone_keeps {F : Footprint} {s0 s : State} (hK : Keeps F s0 s) (e id : Nat) (f_entries : F.entries = true := by assumption) :
    Keeps F s0 (passDone s e id) := by
  unfold passDone
  try dsimp only
  repeat' first
    | with_reducible assumption
    | with_reducible apply modItem_keeps

theorem settleRemoved_keeps {F : Footprint} {s0 s : State} (hK : Keeps F s0 s) (p e id : Nat) (f_mcEv : F.mcEv = true := by assumption) (f_dies : F.dies = true := by assumption) (f_feedPorts : F.feedPorts = true := by assumption) (f_fns : F.fns = true := by assumption) (f_parts : F.parts = true := by assumption) (f_entries : F.entries = true := by assumption) (f_out : F.out = true := by assumption) (f_free : F.free = true := by assumption) :
    Keeps F s0 (settleRemoved s p e id) := by
  unfold settleRemoved
  try dsimp only
  repeat' first
    | with_reducible assumption
    | with_reducible apply finishItem_keeps
    | with_reducible refine Keeps.fst ?_ ‹_ = (_, _)›
    | split

theorem scoreItem_keeps {F : Footprint} {s0 s : State} (hK : Keeps F s0 s) (p : Nat) (x : Pass) (f_mcEv : F.mcEv = true := by assumption) (f_dies : F.dies = true := by assumption) (f_feedPorts : F.feedPorts = true := by assumption) (f_fns : F.fns = true := by assumption) (f_parts : F.parts = true := by assumption) (f_entries : F.entries = true := by assumption) (f_out : F.out = true := by assumption) (f_free : F.free = true := by assumption) :
    Keeps F s0 (scoreItem s p x).1 := by
  unfold scoreItem
  try dsimp only
  repeat' first
    | with_reducible assumption
    | with_reducible apply modItem_keeps
    | with_reducible apply finishItem_keeps
    | with_reducible apply addHist_keeps
    | with_reducible apply recordMiss_keeps
    | with_reducible apply settleRemoved_keeps
    | with_reducible refine Keeps.fst ?_ ‹_ = (_, _)›
    | split

theorem decodeItem_keeps {F : Footprint} {s0 s : State} (hK : Keeps F s0 s) (p : Nat) (x : Pass) (f_mcEv : F.mcEv = true := by assumption) (f_dies : F.dies = true := by assumption) (f_feedPorts : F.feedPorts = true := by assumption) (f_fns : F.fns = true := by assumption) (f_parts : F.parts = true := by assumption) (f_entries : F.entries = true := by assumption) (f_out : F.out = true := by assumption) (f_free : F.free = true := by assumption) :
    Keeps F s0 (decodeItem s p x) := by
  unfold decodeItem
  try dsimp only
  repeat' first
    | with_reducible assumption
    | with_reducible apply Keeps.modEntry
    | with_reducible apply modItem_keeps
    | with_reducible apply removeItem_keeps
    | with_reducible apply yieldTokens_keeps
    | with_reducible apply passDone_keeps
    | with_reducible apply settleRemoved_keeps
    | with_reducible refine Keeps.fst ?_ ‹_ = (_, _)›
    | split

theorem dropVerify_keeps {F : Footprint} {s0 s : State} (hK : Keeps F s0 s) (p e : Nat) (f_mcEv : F.mcEv = true := by assumption) (f_dies : F.dies = true := by assumption) (f_stackTab : F.stackTab = true := by assumption) (f_parts : F.parts = true := by assumption) (f_entries : F.entries = true := by assumption) (f_dram : F.dram = true := by assumption) :
    Keeps F s0 (dropVerify s p e) := by
  unfold dropVerify
  try dsimp only
  repeat' first
    | with_reducible assumption
    | with_reducible apply Keeps.modEntry
    | with_reducible apply rejectPages_keeps
    | (with_reducible apply Keeps.foldl; intro _ _ _)

theorem endVerify_keeps {F : Footprint} {s0 s : State} (hK : Keeps F s0 s) (p e : Nat) (v : Verify) (mains drafts : List Pass) (f_mcEv : F.mcEv = true := by assumption) (f_dies : F.dies = true := by assumption) (f_stackTab : F.stackTab = true := by assumption) (f_feedPorts : F.feedPorts = true := by assumption) (f_fns : F.fns = true := by assumption) (f_parts : F.parts = true := by assumption) (f_entries : F.entries = true := by assumption) (f_dram : F.dram = true := by assumption) (f_out : F.out = true := by assumption) (f_free : F.free = true := by assumption) :
    Keeps F s0 (endVerify s p e v mains drafts) := by
  unfold endVerify
  try dsimp only
  repeat' first
    | with_reducible assumption
    | with_reducible apply Keeps.modEntry
    | with_reducible apply modCnt_keeps
    | with_reducible apply modItem_keeps
    | with_reducible apply removeItem_keeps
    | with_reducible apply yieldTokens_keeps
    | with_reducible apply advance_keeps
    | with_reducible apply rejectPages_keeps
    | with_reducible apply settleRemoved_keeps
    | (with_reducible apply Keeps.foldl; intro _ _ _)
    | with_reducible refine Keeps.fst ?_ ‹_ = (_, _)›
    | split

theorem failItems_keeps {F : Footprint} {s0 s : State} (hK : Keeps F s0 s) (p e : Nat) (xs : List Pass) (f_mcEv : F.mcEv = true := by assumption) (f_dies : F.dies = true := by assumption) (f_feedPorts : F.feedPorts = true := by assumption) (f_fns : F.fns = true := by assumption) (f_parts : F.parts = true := by assumption) (f_entries : F.entries = true := by assumption) (f_out : F.out = true := by assumption) (f_free : F.free = true := by assumption) :
    Keeps F s0 (failItems s p e xs) := by
  unfold failItems
  try dsimp only
  repeat' first
    | with_reducible assumption
    | with_reducible apply finishItem_keeps
    | (with_reducible apply Keeps.foldl; intro _ _ _)
    | with_reducible refine Keeps.fst ?_ ‹_ = (_, _)›
    | split

theorem failFrom_keeps {F : Footprint} {s0 s : State} (hK : Keeps F s0 s) (p e pos : Nat) (poison : Option Nat) (f_mcEv : F.mcEv = true := by assumption) (f_dies : F.dies = true := by assumption) (f_tiles : F.tiles = true := by assumption) (f_stackTab : F.stackTab = true := by assumption) (f_feedPorts : F.feedPorts = true := by assumption) (f_fns : F.fns = true := by assumption) (f_parts : F.parts = true := by assumption) (f_entries : F.entries = true := by assumption) (f_dram : F.dram = true := by assumption) (f_out : F.out = true := by assumption) (f_free : F.free = true := by assumption) :
    Keeps F s0 (failFrom s p e pos poison) := by
  unfold failFrom
  try dsimp only
  repeat' first
    | with_reducible assumption
    | with_reducible apply Keeps.modEntry
    | with_reducible apply rejectPages_keeps
    | with_reducible apply dropPasses_keeps
    | with_reducible apply failItems_keeps
    | with_reducible refine Keeps.fst ?_ ‹_ = (_, _)›
    | split

theorem failGroup_keeps {F : Footprint} {s0 s : State} (hK : Keeps F s0 s) (p : Nat) (g : List Pass) (f_mcEv : F.mcEv = true := by assumption) (f_dies : F.dies = true := by assumption) (f_tiles : F.tiles = true := by assumption) (f_stackTab : F.stackTab = true := by assumption) (f_feedPorts : F.feedPorts = true := by assumption) (f_fns : F.fns = true := by assumption) (f_parts : F.parts = true := by assumption) (f_entries : F.entries = true := by assumption) (f_dram : F.dram = true := by assumption) (f_out : F.out = true := by assumption) (f_free : F.free = true := by assumption) :
    Keeps F s0 (failGroup s p g) := by
  unfold failGroup
  try dsimp only
  repeat' first
    | with_reducible assumption
    | with_reducible apply progress_keeps
    | with_reducible apply failFrom_keeps
    | (with_reducible apply Keeps.foldl; intro _ _ _)
    | split

end Sys2Proof.Machine
end

