-- ==== Sys2Proof/Laws/KeepsServing.lean ====
section
/-! SUPPORT. The operations of Machine/Serving.lean have `Keeps`: one lemma each. -/

namespace Sys2Proof.Machine

set_option Elab.async false

theorem dropKept_keeps {F : Footprint} {s0 s : State} (hK : Keeps F s0 s) (p pass layer matrix outTile gen : Nat) (f_tiles : F.tiles = true := by assumption) :
    Keeps F s0 (dropKept s p pass layer matrix outTile gen) := by
  unfold dropKept
  try dsimp only
  repeat' first
    | with_reducible assumption
    | with_reducible apply Keeps.modTile
    | (with_reducible apply Keeps.foldl; intro _ _ _)

theorem takeSample_keeps {F : Footprint} {s0 s : State} (hK : Keeps F s0 s) (t : Nat) (k : Check) (f_tiles : F.tiles = true := by assumption) :
    Keeps F s0 (takeSample s t k) := by
  unfold takeSample
  try dsimp only
  repeat' first
    | with_reducible assumption
    | with_reducible apply Keeps.modTile
    | with_reducible apply dropKept_keeps
    | split

theorem sendPartials_keeps {F : Footprint} {s0 s : State} (hK : Keeps F s0 s) (t c : Nat) (k : Ctx) (q : Split) (cell : Bool) (f_dies : F.dies = true := by assumption) (f_parts : F.parts = true := by assumption) (f_xfers : F.xfers = true := by assumption) (f_nextXfer : F.nextXfer = true := by assumption) :
    Keeps F s0 (sendPartials s t c k q cell) := by
  unfold sendPartials
  try dsimp only
  repeat' first
    | with_reducible assumption
    | with_reducible apply launch_keeps
    | with_reducible refine Keeps.fst ?_ ‹_ = (_, _)›
    | split

theorem homeOutput_keeps {F : Footprint} {s0 s : State} (hK : Keeps F s0 s) (p t c : Nat) (k : Ctx) (x : Pass) (l m o laBase : Nat) (cell : Bool) (mx : Matrix) (ly : Layer) (f_tiles : F.tiles = true := by assumption) (f_parts : F.parts = true := by assumption) :
    Keeps F s0 (homeOutput s p t c k x l m o laBase cell mx ly) := by
  unfold homeOutput
  try dsimp only
  repeat' first
    | with_reducible assumption
    | with_reducible apply modPass_keeps
    | with_reducible apply takeSample_keeps
    | with_reducible refine Keeps.fst ?_ ‹_ = (_, _)›
    | split

theorem enterDrift_keeps {F : Footprint} {s0 s : State} (hK : Keeps F s0 s) (c : Check) (f_mcEv : F.mcEv = true := by assumption) (f_dies : F.dies = true := by assumption) (f_tiles : F.tiles = true := by assumption) :
    Keeps F s0 (enterDrift s c) := by
  unfold enterDrift
  try dsimp only
  repeat' first
    | with_reducible assumption
    | with_reducible apply driftCompare_keeps
    | (with_reducible apply Keeps.foldl; intro _ _ _)

theorem noteTrouble_keeps {F : Footprint} {s0 s : State} (hK : Keeps F s0 s) (c : Check) (f_parts : F.parts = true := by assumption) :
    Keeps F s0 (noteTrouble s c) := by
  unfold noteTrouble
  try dsimp only
  repeat' first
    | with_reducible assumption
    | with_reducible apply modPass_keeps

theorem execPassOpen_keeps {F : Footprint} {s s' : State} (p now : Nat) (e : execPassOpen p now s = .next s') (f_time : F.time = true := by assumption) (f_mcEv : F.mcEv = true := by assumption) (f_dies : F.dies = true := by assumption) (f_tiles : F.tiles = true := by assumption) (f_stackTab : F.stackTab = true := by assumption) (f_feedPorts : F.feedPorts = true := by assumption) (f_fns : F.fns = true := by assumption) (f_parts : F.parts = true := by assumption) (f_entries : F.entries = true := by assumption) (f_dram : F.dram = true := by assumption) (f_out : F.out = true := by assumption) (f_free : F.free = true := by assumption) :
    Keeps F s s' := by
  unfold execPassOpen at e
  refine guarded_keeps ?_ e
  have hK := Keeps.refl F s
  try dsimp only
  repeat' first
    | with_reducible assumption
    | with_reducible apply Keeps.setNow
    | with_reducible apply pruneHead_keeps
    | with_reducible apply doOpen_keeps
    | (with_reducible apply Keeps.foldl; intro _ _ _)
    | with_reducible refine Keeps.fst ?_ ‹_ = (_, _)›
    | split

theorem execPromptRead_keeps {F : Footprint} {s s' : State} (p entry : Nat) (words : Option (List Nat)) (now : Nat) (e : execPromptRead p entry words now s = .next s') (f_time : F.time = true := by assumption) (f_mcEv : F.mcEv = true := by assumption) (f_dies : F.dies = true := by assumption) (f_feedPorts : F.feedPorts = true := by assumption) (f_fns : F.fns = true := by assumption) (f_parts : F.parts = true := by assumption) (f_entries : F.entries = true := by assumption) (f_out : F.out = true := by assumption) (f_free : F.free = true := by assumption) :
    Keeps F s s' := by
  unfold execPromptRead at e
  refine guarded_keeps ?_ e
  have hK := Keeps.refl F s
  try dsimp only
  repeat' first
    | with_reducible assumption
    | with_reducible apply Keeps.emit
    | with_reducible apply Keeps.setNow
    | with_reducible apply modItem_keeps
    | with_reducible apply removeItem_keeps
    | with_reducible refine Keeps.fst ?_ ‹_ = (_, _)›
    | split

theorem execMatrixOutputComplete_keeps {F : Footprint} {s s' : State} (p pass layer matrix outTile t laBase now : Nat) (e : execMatrixOutputComplete p pass layer matrix outTile t laBase now s = .next s') (f_time : F.time = true := by assumption) (f_dies : F.dies = true := by assumption) (f_tiles : F.tiles = true := by assumption) (f_parts : F.parts = true := by assumption) (f_xfers : F.xfers = true := by assumption) (f_nextXfer : F.nextXfer = true := by assumption) :
    Keeps F s s' := by
  unfold execMatrixOutputComplete at e
  refine guarded_keeps ?_ e
  have hK := Keeps.refl F s
  try dsimp only
  repeat' first
    | with_reducible assumption
    | with_reducible apply Keeps.setNow
    | with_reducible apply sendPartials_keeps
    | with_reducible apply homeOutput_keeps
    | with_reducible refine Keeps.fst ?_ ‹_ = (_, _)›
    | split

theorem execCheckDone_keeps {F : Footprint} {s s' : State} (t : Nat) (shadowPoison : Bool) (now : Nat) (e : execCheckDone t shadowPoison now s = .next s') (f_time : F.time = true := by assumption) (f_mcEv : F.mcEv = true := by assumption) (f_dies : F.dies = true := by assumption) (f_tiles : F.tiles = true := by assumption) (f_parts : F.parts = true := by assumption) :
    Keeps F s s' := by
  unfold execCheckDone at e
  refine guarded_keeps ?_ e
  have hK := Keeps.refl F s
  try dsimp only
  repeat' first
    | with_reducible assumption
    | with_reducible apply Keeps.modDie
    | with_reducible apply Keeps.modTile
    | with_reducible apply Keeps.setNow
    | with_reducible apply reportTile_keeps
    | with_reducible apply dropKept_keeps
    | with_reducible apply enterDrift_keeps
    | with_reducible apply noteTrouble_keeps
    | (with_reducible apply Keeps.foldl; intro _ _ _)
    | with_reducible refine Keeps.fst ?_ ‹_ = (_, _)›
    | split

theorem execTroubleNotice_keeps {F : Footprint} {s s' : State} (p pass layer gen outTile matrix now : Nat) (e : execTroubleNotice p pass layer gen outTile matrix now s = .next s') (f_time : F.time = true := by assumption) (f_mcEv : F.mcEv = true := by assumption) (f_dies : F.dies = true := by assumption) (f_tiles : F.tiles = true := by assumption) (f_parts : F.parts = true := by assumption) :
    Keeps F s s' := by
  unfold execTroubleNotice at e
  refine guarded_keeps ?_ e
  have hK := Keeps.refl F s
  try dsimp only
  repeat' first
    | with_reducible assumption
    | with_reducible apply Keeps.setNow
    | with_reducible apply modPass_keeps
    | with_reducible apply troubleResponse_keeps
    | with_reducible refine Keeps.fst ?_ ‹_ = (_, _)›
    | split

theorem execStepResolved_keeps {F : Footprint} {s s' : State} (p pass layer matrix gen t now : Nat) (e : execStepResolved p pass layer matrix gen t now s = .next s') (f_time : F.time = true := by assumption) (f_parts : F.parts = true := by assumption) :
    Keeps F s s' := by
  unfold execStepResolved at e
  refine guarded_keeps ?_ e
  have hK := Keeps.refl F s
  try dsimp only
  repeat' first
    | with_reducible assumption
    | with_reducible apply Keeps.setNow
    | with_reducible apply modPass_keeps
    | with_reducible apply progress_keeps
    | with_reducible refine Keeps.fst ?_ ‹_ = (_, _)›
    | split

end Sys2Proof.Machine
end

