-- ==== Sys2Proof/Laws/KeepsCommit.lean ====
section
/-! SUPPORT. The operations of Machine/Commit.lean have `Keeps`: one lemma each. -/

namespace Sys2Proof.Machine

set_option Elab.async false

theorem commitOne_keeps {F : Footprint} {s0 s : State} (hK : Keeps F s0 s) (p : Nat) (x : Pass) (f_mcEv : F.mcEv = true := by assumption) (f_dies : F.dies = true := by assumption) (f_tiles : F.tiles = true := by assumption) (f_stackTab : F.stackTab = true := by assumption) (f_feedPorts : F.feedPorts = true := by assumption) (f_fns : F.fns = true := by assumption) (f_parts : F.parts = true := by assumption) (f_entries : F.entries = true := by assumption) (f_dram : F.dram = true := by assumption) (f_out : F.out = true := by assumption) (f_free : F.free = true := by assumption) :
    Keeps F s0 (commitOne s p x) := by
  unfold commitOne
  try dsimp only
  repeat' first
    | with_reducible assumption
    | with_reducible apply makeCandidates_keeps
    | with_reducible apply confirmWords_keeps
    | with_reducible apply governor_keeps
    | with_reducible apply advance_keeps
    | with_reducible apply scoreItem_keeps
    | with_reducible apply decodeItem_keeps
    | with_reducible refine Keeps.fst ?_ ‹_ = (_, _)›
    | split

theorem commitPasses_keeps {F : Footprint} {s0 s : State} (hK : Keeps F s0 s) (p : Nat) (g : List Pass) (f_mcEv : F.mcEv = true := by assumption) (f_dies : F.dies = true := by assumption) (f_tiles : F.tiles = true := by assumption) (f_stackTab : F.stackTab = true := by assumption) (f_feedPorts : F.feedPorts = true := by assumption) (f_fns : F.fns = true := by assumption) (f_parts : F.parts = true := by assumption) (f_entries : F.entries = true := by assumption) (f_dram : F.dram = true := by assumption) (f_out : F.out = true := by assumption) (f_free : F.free = true := by assumption) :
    Keeps F s0 (commitPasses s p g) := by
  unfold commitPasses
  try dsimp only
  repeat' first
    | with_reducible assumption
    | with_reducible apply progress_keeps
    | with_reducible apply confirmWords_keeps
    | with_reducible apply governor_keeps
    | with_reducible apply dropPasses_keeps
    | with_reducible apply dropVerify_keeps
    | with_reducible apply endVerify_keeps
    | with_reducible apply commitOne_keeps
    | (with_reducible apply Keeps.foldl; intro _ _ _)
    | with_reducible refine Keeps.fst ?_ ‹_ = (_, _)›
    | split

theorem execPassCommit_keeps {F : Footprint} {s s' : State} (p pass now : Nat) (e : execPassCommit p pass now s = .next s') (f_time : F.time = true := by assumption) (f_mcEv : F.mcEv = true := by assumption) (f_dies : F.dies = true := by assumption) (f_tiles : F.tiles = true := by assumption) (f_stackTab : F.stackTab = true := by assumption) (f_feedPorts : F.feedPorts = true := by assumption) (f_fns : F.fns = true := by assumption) (f_parts : F.parts = true := by assumption) (f_entries : F.entries = true := by assumption) (f_dram : F.dram = true := by assumption) (f_out : F.out = true := by assumption) (f_free : F.free = true := by assumption) :
    Keeps F s s' := by
  unfold execPassCommit at e
  refine guarded_keeps ?_ e
  have hK := Keeps.refl F s
  try dsimp only
  repeat' first
    | with_reducible assumption
    | with_reducible apply Keeps.setNow
    | with_reducible apply failGroup_keeps
    | with_reducible apply commitPasses_keeps
    | with_reducible refine Keeps.fst ?_ ‹_ = (_, _)›
    | split

theorem execSpecCut_keeps {F : Footprint} {s s' : State} (p entry : Nat) (e : execSpecCut p entry s = .next s') (f_parts : F.parts = true := by assumption) (f_entries : F.entries = true := by assumption) :
    Keeps F s s' := by
  unfold execSpecCut at e
  refine guarded_keeps ?_ e
  have hK := Keeps.refl F s
  try dsimp only
  repeat' first
    | with_reducible assumption
    | with_reducible apply Keeps.modEntry
    | with_reducible apply modCnt_keeps
    | split

theorem execSpecProbe_keeps {F : Footprint} {s s' : State} (p entry : Nat) (e : execSpecProbe p entry s = .next s') (f_entries : F.entries = true := by assumption) :
    Keeps F s s' := by
  unfold execSpecProbe at e
  refine guarded_keeps ?_ e
  have hK := Keeps.refl F s
  try dsimp only
  repeat' first
    | with_reducible assumption
    | with_reducible apply beginVerify_keeps
    | with_reducible refine Keeps.fst ?_ ‹_ = (_, _)›
    | split

theorem execArrayDegraded_keeps {F : Footprint} {s s' : State} (p now : Nat) (e : execArrayDegraded p now s = .next s') (f_time : F.time = true := by assumption) (f_mcEv : F.mcEv = true := by assumption) (f_dies : F.dies = true := by assumption) (f_parts : F.parts = true := by assumption) :
    Keeps F s s' := by
  unfold execArrayDegraded at e
  refine guarded_keeps ?_ e
  have hK := Keeps.refl F s
  try dsimp only
  repeat' first
    | with_reducible assumption
    | with_reducible apply Keeps.modPart
    | with_reducible apply Keeps.setNow
    | with_reducible apply reportLead_keeps
    | split

theorem execArrayRecovered_keeps {F : Footprint} {s s' : State} (p now : Nat) (e : execArrayRecovered p now s = .next s') (f_time : F.time = true := by assumption) (f_mcEv : F.mcEv = true := by assumption) (f_dies : F.dies = true := by assumption) (f_parts : F.parts = true := by assumption) :
    Keeps F s s' := by
  unfold execArrayRecovered at e
  refine guarded_keeps ?_ e
  have hK := Keeps.refl F s
  try dsimp only
  repeat' first
    | with_reducible assumption
    | with_reducible apply Keeps.modPart
    | with_reducible apply Keeps.setNow
    | with_reducible apply reportLead_keeps
    | split

end Sys2Proof.Machine
end

