-- ==== Sys2Proof/Laws/KeepsAlarms.lean ====
section
/-! SUPPORT. The operations of Machine/Alarms.lean have `Keeps`: one lemma each. -/

namespace Sys2Proof.Machine

set_option Elab.async false

theorem bar2Write_keeps {F : Footprint} {s0 s : State} (hK : Keeps F s0 s) (p off : Nat) (bs : List Byte) (f_stackTab : F.stackTab = true := by assumption) (f_dram : F.dram = true := by assumption) :
    Keeps F s0 (bar2Write s p off bs) := by
  unfold bar2Write
  try dsimp only
  repeat' first
    | with_reducible assumption
    | with_reducible apply dramWrite_keeps
    | with_reducible refine Keeps.fst ?_ ‹_ = (_, _)›
    | split

theorem writeCapture_keeps {F : Footprint} {s0 s : State} (hK : Keeps F s0 s) (p serial : Nat) (streams : List (List Byte)) (f_mcEv : F.mcEv = true := by assumption) (f_dies : F.dies = true := by assumption) (f_stackTab : F.stackTab = true := by assumption) (f_parts : F.parts = true := by assumption) (f_dram : F.dram = true := by assumption) :
    Keeps F s0 (writeCapture s p serial streams).1 := by
  unfold writeCapture
  try dsimp only
  repeat' first
    | with_reducible assumption
    | with_reducible apply Keeps.modPart
    | with_reducible apply reportLead_keeps
    | with_reducible apply modCnt_keeps
    | with_reducible apply bar2Write_keeps
    | split

theorem startNarrative_keeps {F : Footprint} {s0 s : State} (hK : Keeps F s0 s) (p : Nat) (c : Cand) (st : Nat) (f_parts : F.parts = true := by assumption) (f_entries : F.entries = true := by assumption) :
    Keeps F s0 (startNarrative s p c st).1 := by
  unfold startNarrative
  try dsimp only
  repeat' first
    | with_reducible assumption
    | with_reducible apply Keeps.modPart
    | with_reducible apply Keeps.modEntry
    | with_reducible apply modCnt_keeps
    | with_reducible refine openEntry_keeps ?_ ‹_›
    | with_reducible refine Keeps.fst ?_ ‹_ = (_, _)›
    | split

theorem dropCand_keeps {F : Footprint} {s0 s : State} (hK : Keeps F s0 s) (p serial : Nat) (f_parts : F.parts = true := by assumption) :
    Keeps F s0 (dropCand s p serial) := by
  unfold dropCand
  try dsimp only
  repeat' first
    | with_reducible assumption
    | with_reducible apply Keeps.modPart

theorem execConfirmStart_keeps {F : Footprint} {s s' : State} (p now : Nat) (e : execConfirmStart p now s = .next s') (f_time : F.time = true := by assumption) (f_tiles : F.tiles = true := by assumption) (f_parts : F.parts = true := by assumption) :
    Keeps F s s' := by
  unfold execConfirmStart at e
  refine guarded_keeps ?_ e
  have hK := Keeps.refl F s
  try dsimp only
  repeat' first
    | with_reducible assumption
    | with_reducible apply Keeps.modPart
    | with_reducible apply Keeps.setNow
    | with_reducible apply assignCtxs_keeps
    | with_reducible refine Keeps.fst ?_ ‹_ = (_, _)›
    | split

theorem execConfirmEnd_keeps {F : Footprint} {s s' : State} (p idx now : Nat) (e : execConfirmEnd p idx now s = .next s') (f_time : F.time = true := by assumption) (f_mcEv : F.mcEv = true := by assumption) (f_dies : F.dies = true := by assumption) (f_stackTab : F.stackTab = true := by assumption) (f_parts : F.parts = true := by assumption) (f_dram : F.dram = true := by assumption) :
    Keeps F s s' := by
  unfold execConfirmEnd at e
  refine guarded_keeps ?_ e
  have hK := Keeps.refl F s
  try dsimp only
  repeat' first
    | with_reducible assumption
    | with_reducible apply Keeps.modPart
    | with_reducible apply Keeps.setNow
    | with_reducible apply modCnt_keeps
    | with_reducible apply progress_keeps
    | with_reducible apply writeCapture_keeps
    | with_reducible refine Keeps.fst ?_ ‹_ = (_, _)›
    | split

theorem execAlarmRelease_keeps {F : Footprint} {s s' : State} (p cand now : Nat) (e : execAlarmRelease p cand now s = .next s') (f_time : F.time = true := by assumption) (f_mcEv : F.mcEv = true := by assumption) (f_dies : F.dies = true := by assumption) (f_feedPorts : F.feedPorts = true := by assumption) (f_fns : F.fns = true := by assumption) (f_parts : F.parts = true := by assumption) (f_entries : F.entries = true := by assumption) (f_out : F.out = true := by assumption) (f_free : F.free = true := by assumption) :
    Keeps F s s' := by
  unfold execAlarmRelease at e
  refine guarded_keeps ?_ e
  have hK := Keeps.refl F s
  try dsimp only
  repeat' first
    | with_reducible assumption
    | with_reducible apply Keeps.setNow
    | with_reducible apply spoolAdd_keeps
    | with_reducible apply sendRecord_keeps
    | with_reducible apply modCnt_keeps
    | with_reducible apply startNarrative_keeps
    | with_reducible apply dropCand_keeps
    | with_reducible refine Keeps.fst ?_ ‹_ = (_, _)›
    | split

end Sys2Proof.Machine
end

