-- ==== Sys2Proof/Laws/KeepsEdits.lean ====
section
/-! SUPPORT. The operations of Machine/Edits.lean have `Keeps`: one lemma each. -/

namespace Sys2Proof.Machine

set_option Elab.async false

theorem rebuildIndex_keeps {F : Footprint} {s0 s : State} (hK : Keeps F s0 s) (p k e : Nat) (f_mcEv : F.mcEv = true := by assumption) (f_dies : F.dies = true := by assumption) (f_stackTab : F.stackTab = true := by assumption) (f_parts : F.parts = true := by assumption) (f_entries : F.entries = true := by assumption) (f_dram : F.dram = true := by assumption) :
    Keeps F s0 (rebuildIndex s p k e) := by
  unfold rebuildIndex
  try dsimp only
  repeat' first
    | with_reducible assumption
    | with_reducible apply returnStripe_keeps
    | with_reducible apply setDesc_keeps
    | with_reducible apply setDescs_keeps
    | with_reducible apply writeSummary_keeps
    | (with_reducible apply Keeps.foldl; intro _ _ _)
    | split

theorem editFree_keeps {F : Footprint} {s0 s : State} (hK : Keeps F s0 s) (p e : Nat) (o : EditOp) (f_mcEv : F.mcEv = true := by assumption) (f_dies : F.dies = true := by assumption) (f_stackTab : F.stackTab = true := by assumption) (f_parts : F.parts = true := by assumption) (f_entries : F.entries = true := by assumption) (f_dram : F.dram = true := by assumption) :
    Keeps F s0 (editFree s p e o) := by
  unfold editFree
  try dsimp only
  repeat' first
    | with_reducible assumption
    | with_reducible apply emptyPage_keeps
    | with_reducible apply trimIndex_keeps
    | (with_reducible apply Keeps.foldl; intro _ _ _)

theorem retable_keeps {F : Footprint} {s0 s : State} (hK : Keeps F s0 s) (p e : Nat) (new : Tab PageDesc) (f_stackTab : F.stackTab = true := by assumption) (f_entries : F.entries = true := by assumption) (f_dram : F.dram = true := by assumption) :
    Keeps F s0 (retable s p e new) := by
  unfold retable
  try dsimp only
  repeat' first
    | with_reducible assumption
    | with_reducible apply setDescs_keeps

theorem editReorder_keeps {F : Footprint} {s0 s : State} (hK : Keeps F s0 s) (p e : Nat) (o : EditOp) (f_mcEv : F.mcEv = true := by assumption) (f_dies : F.dies = true := by assumption) (f_stackTab : F.stackTab = true := by assumption) (f_parts : F.parts = true := by assumption) (f_entries : F.entries = true := by assumption) (f_dram : F.dram = true := by assumption) :
    Keeps F s0 (editReorder s p e o) := by
  unfold editReorder
  try dsimp only
  repeat' first
    | with_reducible assumption
    | with_reducible apply rebuildIndex_keeps
    | with_reducible apply retable_keeps

theorem shiftCarry_keeps {F : Footprint} {s0 s : State} (hK : Keeps F s0 s) (p e old new : Nat) (f_stackTab : F.stackTab = true := by assumption) (f_entries : F.entries = true := by assumption) (f_dram : F.dram = true := by assumption) :
    Keeps F s0 (shiftCarry s p e old new) := by
  unfold shiftCarry
  try dsimp only
  repeat' first
    | with_reducible assumption
    | with_reducible apply setCarry_keeps
    | (with_reducible apply Keeps.foldl; intro _ _ _)
    | with_reducible refine Keeps.fst ?_ ‹_ = (_, _)›
    | split

theorem editShift_keeps {F : Footprint} {s0 s : State} (hK : Keeps F s0 s) (p e : Nat) (o : EditOp) (f_mcEv : F.mcEv = true := by assumption) (f_dies : F.dies = true := by assumption) (f_stackTab : F.stackTab = true := by assumption) (f_parts : F.parts = true := by assumption) (f_entries : F.entries = true := by assumption) (f_dram : F.dram = true := by assumption) :
    Keeps F s0 (editShift s p e o) := by
  unfold editShift
  try dsimp only
  repeat' first
    | with_reducible assumption
    | with_reducible apply Keeps.modEntry
    | with_reducible apply emptyPage_keeps
    | with_reducible apply rebuildIndex_keeps
    | with_reducible apply retable_keeps
    | with_reducible apply shiftCarry_keeps
    | (with_reducible apply Keeps.foldl; intro _ _ _)

theorem editAppend_keeps {F : Footprint} {s0 s : State} (hK : Keeps F s0 s) (p e : Nat) (x0 : Nat) (x1 : Nat) (f_mcEv : F.mcEv = true := by assumption) (f_dies : F.dies = true := by assumption) (f_stackTab : F.stackTab = true := by assumption) (f_parts : F.parts = true := by assumption) (f_entries : F.entries = true := by assumption) (f_dram : F.dram = true := by assumption) :
    Keeps F s0 (editAppend p e x0 x1 s) := by
  induction x0 generalizing p e x1 s with
  | zero => unfold editAppend; exact hK
  | succ _ ih =>
    unfold editAppend
    try dsimp only
    repeat' first
      | with_reducible assumption
      | with_reducible apply ih
      | with_reducible refine takeStripe_keeps ?_ ‹_›
      | with_reducible apply setDesc_keeps
      | with_reducible refine Keeps.fst ?_ ‹_ = (_, _)›
      | split

theorem editOne_keeps {F : Footprint} {s0 s t : State} (h : Keeps F s0 s) {p e : Nat} {o : EditOp} (k : editOne s p e o = .ok t) (f_mcEv : F.mcEv = true := by assumption) (f_dies : F.dies = true := by assumption) (f_stackTab : F.stackTab = true := by assumption) (f_parts : F.parts = true := by assumption) (f_entries : F.entries = true := by assumption) (f_dram : F.dram = true := by assumption) :
    Keeps F s0 t := by
  unfold editOne at k
  dsimp only at k
  split at k
  · cases k
  · split at k
    · split at k <;> cases k
      exact editFree_keeps h _ _ _
    · split at k <;> cases k
      exact editReorder_keeps h _ _ _
    · split at k <;> cases k
      split
      · exact editShift_keeps (editShift_keeps h _ _ _) _ _ _
      · exact editShift_keeps h _ _ _
    · split at k
      · cases k
      · split at k <;> cases k
        exact editAppend_keeps h _ _ _ _
    · cases k

theorem editOps_keeps {F : Footprint} {s0 s t : State} (h : Keeps F s0 s) {p e i : Nat} {os : List EditOp}
    (k : editOps p e i os s = .ok t) (f_mcEv : F.mcEv = true := by assumption) (f_dies : F.dies = true := by assumption) (f_stackTab : F.stackTab = true := by assumption) (f_parts : F.parts = true := by assumption) (f_entries : F.entries = true := by assumption) (f_dram : F.dram = true := by assumption) : Keeps F s0 t := by
  induction os generalizing s i with
  | nil => cases k; exact h
  | cons o os ih =>
    unfold editOps at k
    split at k
    · rename_i u hu; exact ih (editOne_keeps h hu) k
    · cases k

theorem applyEdit_keeps {F : Footprint} {s0 s : State} (hK : Keeps F s0 s) (p e : Nat) (f_mcEv : F.mcEv = true := by assumption) (f_dies : F.dies = true := by assumption) (f_stackTab : F.stackTab = true := by assumption) (f_fns : F.fns = true := by assumption) (f_parts : F.parts = true := by assumption) (f_entries : F.entries = true := by assumption) (f_dram : F.dram = true := by assumption) :
    Keeps F s0 (applyEdit s p e) := by
  unfold applyEdit
  try dsimp only
  repeat' first
    | with_reducible assumption
    | with_reducible apply Keeps.modEntry
    | with_reducible apply completeWith_keeps
    | with_reducible apply modPool_keeps
    | with_reducible refine editOps_keeps ?_ ‹_›
    | with_reducible refine Keeps.fst ?_ ‹_ = (_, _)›
    | split

theorem execEntryFreed_keeps {F : Footprint} {s s' : State} (p entry now : Nat) (e : execEntryFreed p entry now s = .next s') (f_time : F.time = true := by assumption) (f_mcEv : F.mcEv = true := by assumption) (f_dies : F.dies = true := by assumption) (f_stackTab : F.stackTab = true := by assumption) (f_fns : F.fns = true := by assumption) (f_parts : F.parts = true := by assumption) (f_entries : F.entries = true := by assumption) (f_dram : F.dram = true := by assumption) :
    Keeps F s s' := by
  unfold execEntryFreed at e
  refine guarded_keeps ?_ e
  have hK := Keeps.refl F s
  try dsimp only
  repeat' first
    | with_reducible assumption
    | with_reducible apply Keeps.setNow
    | with_reducible apply freeEntry_keeps
    | split

theorem execEditApply_keeps {F : Footprint} {s s' : State} (p entry now : Nat) (e : execEditApply p entry now s = .next s') (f_time : F.time = true := by assumption) (f_mcEv : F.mcEv = true := by assumption) (f_dies : F.dies = true := by assumption) (f_stackTab : F.stackTab = true := by assumption) (f_fns : F.fns = true := by assumption) (f_parts : F.parts = true := by assumption) (f_entries : F.entries = true := by assumption) (f_dram : F.dram = true := by assumption) :
    Keeps F s s' := by
  unfold execEditApply at e
  refine guarded_keeps ?_ e
  have hK := Keeps.refl F s
  try dsimp only
  repeat' first
    | with_reducible assumption
    | with_reducible apply Keeps.setNow
    | with_reducible apply applyEdit_keeps
    | split

end Sys2Proof.Machine
end

