-- ==== Sys2Proof/Laws/KeepsOpsFeed.lean ====
section
/-! SUPPORT. The operations of Machine/OpsFeed.lean have `Keeps`: one lemma each. -/

namespace Sys2Proof.Machine

set_option Elab.async false

theorem sendFrame_keeps {F : Footprint} {s0 s : State} (hK : Keeps F s0 s) (port : Nat) (f : List Byte) (f_feedPorts : F.feedPorts = true := by assumption) (f_out : F.out = true := by assumption) :
    Keeps F s0 (sendFrame s port f) := by
  unfold sendFrame
  try dsimp only
  repeat' first
    | with_reducible assumption
    | with_reducible apply Keeps.modFport
    | with_reducible apply Keeps.emit

theorem sendArp_keeps {F : Footprint} {s0 s : State} (hK : Keeps F s0 s) (port vlan mac sender target : Nat) (f_feedPorts : F.feedPorts = true := by assumption) (f_out : F.out = true := by assumption) (f_free : F.free = true := by assumption) :
    Keeps F s0 (sendArp s port vlan mac sender target) := by
  unfold sendArp
  try dsimp only
  repeat' first
    | with_reducible assumption
    | with_reducible apply freeWord_keeps
    | with_reducible apply sendFrame_keeps

theorem sendNeigh_keeps {F : Footprint} {s0 s : State} (hK : Keeps F s0 s) (port vlan mac src target : Nat) (f_feedPorts : F.feedPorts = true := by assumption) (f_out : F.out = true := by assumption) (f_free : F.free = true := by assumption) :
    Keeps F s0 (sendNeigh s port vlan mac src target) := by
  unfold sendNeigh
  try dsimp only
  repeat' first
    | with_reducible assumption
    | with_reducible apply freeWord_keeps
    | with_reducible apply sendFrame_keeps

theorem sendIgmp_keeps {F : Footprint} {s0 s : State} (hK : Keeps F s0 s) (port vlan dst : Nat) (msg : List Byte) (f_feedPorts : F.feedPorts = true := by assumption) (f_out : F.out = true := by assumption) (f_free : F.free = true := by assumption) :
    Keeps F s0 (sendIgmp s port vlan dst msg) := by
  unfold sendIgmp
  try dsimp only
  repeat' first
    | with_reducible assumption
    | with_reducible apply Keeps.modFport
    | with_reducible apply freeWord_keeps
    | with_reducible apply sendFrame_keeps

theorem sendMld_keeps {F : Footprint} {s0 s : State} (hK : Keeps F s0 s) (port vlan dst typ : Nat) (body : List Byte) (f_feedPorts : F.feedPorts = true := by assumption) (f_out : F.out = true := by assumption) (f_free : F.free = true := by assumption) :
    Keeps F s0 (sendMld s port vlan dst typ body) := by
  unfold sendMld
  try dsimp only
  repeat' first
    | with_reducible assumption
    | with_reducible apply Keeps.modFport
    | with_reducible apply freeWord_keeps
    | with_reducible apply sendFrame_keeps

theorem sendReports_keeps {F : Footprint} {s0 s : State} (hK : Keeps F s0 s) (port vlan : Nat) (ip6 change : Bool) (groups : List (Nat × List Nat)) (f_feedPorts : F.feedPorts = true := by assumption) (f_out : F.out = true := by assumption) (f_free : F.free = true := by assumption) :
    Keeps F s0 (sendReports s port vlan ip6 change groups) := by
  unfold sendReports
  try dsimp only
  repeat' first
    | with_reducible assumption
    | with_reducible apply sendIgmp_keeps
    | with_reducible apply sendMld_keeps
    | (with_reducible apply Keeps.foldl; intro _ _ _)
    | split

theorem answerIgmp_keeps {F : Footprint} {s0 s : State} (hK : Keeps F s0 s) (port vlan : Nat) (m : List Byte) (f_feedPorts : F.feedPorts = true := by assumption) (f_out : F.out = true := by assumption) (f_free : F.free = true := by assumption) :
    Keeps F s0 (answerIgmp s port vlan m) := by
  unfold answerIgmp
  try dsimp only
  repeat' first
    | with_reducible assumption
    | with_reducible apply Keeps.modFport
    | with_reducible apply sendReports_keeps
    | split

theorem answerMld_keeps {F : Footprint} {s0 s : State} (hK : Keeps F s0 s) (port vlan : Nat) (m : List Byte) (f_feedPorts : F.feedPorts = true := by assumption) (f_out : F.out = true := by assumption) (f_free : F.free = true := by assumption) :
    Keeps F s0 (answerMld s port vlan m) := by
  unfold answerMld
  try dsimp only
  repeat' first
    | with_reducible assumption
    | with_reducible apply Keeps.modFport
    | with_reducible apply sendReports_keeps
    | split

theorem offerTo_keeps {F : Footprint} {s0 s : State} (hK : Keeps F s0 s) (d : Dgram) (start : Nat) (rules : List Rule) (f_mcEv : F.mcEv = true := by assumption) (f_dies : F.dies = true := by assumption) (f_feedIods : F.feedIods = true := by assumption) (f_parts : F.parts = true := by assumption) (f_entries : F.entries = true := by assumption) :
    Keeps F s0 (offerTo s d start rules).1 := by
  unfold offerTo
  try dsimp only
  repeat' first
    | with_reducible assumption
    | with_reducible apply Keeps.modPart
    | with_reducible apply Keeps.modFiod
    | with_reducible apply autoOpen_keeps
    | with_reducible refine Keeps.fst ?_ ‹_ = (_, _)›
    | split

theorem extract_keeps {F : Footprint} {s0 s : State} (hK : Keeps F s0 s) (d : Dgram) (start : Nat) (f_mcEv : F.mcEv = true := by assumption) (f_dies : F.dies = true := by assumption) (f_feedPorts : F.feedPorts = true := by assumption) (f_feedIods : F.feedIods = true := by assumption) (f_parts : F.parts = true := by assumption) (f_entries : F.entries = true := by assumption) :
    Keeps F s0 (extract s d start) := by
  unfold extract
  try dsimp only
  repeat' first
    | with_reducible assumption
    | with_reducible apply Keeps.modFport
    | with_reducible apply offerTo_keeps
    | (with_reducible apply Keeps.foldl_fst; intro _ _ _)
    | split

theorem deliver_keeps {F : Footprint} {s0 s : State} (hK : Keeps F s0 s) (d : Dgram) (f_mcEv : F.mcEv = true := by assumption) (f_dies : F.dies = true := by assumption) (f_feedPorts : F.feedPorts = true := by assumption) (f_feedIods : F.feedIods = true := by assumption) (f_parts : F.parts = true := by assumption) (f_entries : F.entries = true := by assumption) :
    Keeps F s0 (deliver s d) := by
  unfold deliver
  try dsimp only
  repeat' first
    | with_reducible assumption
    | with_reducible apply extract_keeps
    | (with_reducible apply Keeps.foldl; intro _ _ _)
    | with_reducible refine Keeps.fst ?_ ‹_ = (_, _)›
    | split

theorem modChannel_keeps {F : Footprint} {s0 s : State} (hK : Keeps F s0 s) (iod ch : Nat) (f : Channel → Channel) (f_feedIods : F.feedIods = true := by assumption) :
    Keeps F s0 (modChannel s iod ch f) := by
  unfold modChannel
  try dsimp only
  repeat' first
    | with_reducible assumption
    | with_reducible apply Keeps.modFiod

theorem behind_keeps {F : Footprint} {s0 s : State} (hK : Keeps F s0 s) (iod ch w first n : Nat) (f_feedIods : F.feedIods = true := by assumption) :
    Keeps F s0 (behind s iod ch w first n) := by
  unfold behind
  try dsimp only
  repeat' first
    | with_reducible assumption
    | with_reducible apply modChannel_keeps

theorem takeDgram_keeps {F : Footprint} {s0 s : State} (hK : Keeps F s0 s) (iod ch : Nat) (d : Dgram) (skip : Nat) (f_mcEv : F.mcEv = true := by assumption) (f_dies : F.dies = true := by assumption) (f_feedPorts : F.feedPorts = true := by assumption) (f_feedIods : F.feedIods = true := by assumption) (f_parts : F.parts = true := by assumption) (f_entries : F.entries = true := by assumption) :
    Keeps F s0 (takeDgram s iod ch d skip) := by
  unfold takeDgram
  try dsimp only
  repeat' first
    | with_reducible assumption
    | with_reducible apply deliver_keeps
    | with_reducible apply modChannel_keeps

theorem discardHeld_keeps {F : Footprint} {s0 s : State} (hK : Keeps F s0 s) (iod ch : Nat) (f_feedIods : F.feedIods = true := by assumption) :
    Keeps F s0 (discardHeld s iod ch) := by
  unfold discardHeld
  try dsimp only
  repeat' first
    | with_reducible assumption
    | with_reducible apply modChannel_keeps

theorem releaseHeld_keeps {F : Footprint} {s0 s : State} (hK : Keeps F s0 s) (iod ch : Nat) (x0 : Nat) (f_mcEv : F.mcEv = true := by assumption) (f_dies : F.dies = true := by assumption) (f_feedPorts : F.feedPorts = true := by assumption) (f_feedIods : F.feedIods = true := by assumption) (f_parts : F.parts = true := by assumption) (f_entries : F.entries = true := by assumption) :
    Keeps F s0 (releaseHeld iod ch x0 s) := by
  induction x0 generalizing iod ch s with
  | zero => unfold releaseHeld; exact hK
  | succ _ ih =>
    unfold releaseHeld
    try dsimp only
    repeat' first
      | with_reducible assumption
      | with_reducible apply ih
      | with_reducible apply modChannel_keeps
      | with_reducible apply behind_keeps
      | with_reducible apply takeDgram_keeps
      | with_reducible refine Keeps.fst ?_ ‹_ = (_, _)›
      | split

theorem gapTo_keeps {F : Footprint} {s0 s : State} (hK : Keeps F s0 s) (ch first count p : Nat) (f_mcEv : F.mcEv = true := by assumption) (f_dies : F.dies = true := by assumption) (f_fns : F.fns = true := by assumption) (f_parts : F.parts = true := by assumption) (f_out : F.out = true := by assumption) :
    Keeps F s0 (gapTo s ch first count p) := by
  unfold gapTo
  try dsimp only
  repeat' first
    | with_reducible assumption
    | with_reducible apply Keeps.modPart
    | with_reducible apply spoolAdd_keeps

theorem declareGap_keeps {F : Footprint} {s0 s : State} (hK : Keeps F s0 s) (iod ch : Nat) (forced : Bool) (f_mcEv : F.mcEv = true := by assumption) (f_dies : F.dies = true := by assumption) (f_feedPorts : F.feedPorts = true := by assumption) (f_feedIods : F.feedIods = true := by assumption) (f_fns : F.fns = true := by assumption) (f_parts : F.parts = true := by assumption) (f_entries : F.entries = true := by assumption) (f_out : F.out = true := by assumption) :
    Keeps F s0 (declareGap s iod ch forced) := by
  unfold declareGap
  try dsimp only
  repeat' first
    | with_reducible assumption
    | with_reducible apply report_keeps
    | with_reducible apply modChannel_keeps
    | with_reducible apply releaseHeld_keeps
    | with_reducible apply gapTo_keeps
    | (with_reducible apply Keeps.foldl; intro _ _ _)
    | with_reducible refine Keeps.fst ?_ ‹_ = (_, _)›
    | split

theorem holdDgram_keeps {F : Footprint} {s0 s : State} (hK : Keeps F s0 s) (iod ch : Nat) (d : Dgram) (f_mcEv : F.mcEv = true := by assumption) (f_dies : F.dies = true := by assumption) (f_feedPorts : F.feedPorts = true := by assumption) (f_feedIods : F.feedIods = true := by assumption) (f_fns : F.fns = true := by assumption) (f_parts : F.parts = true := by assumption) (f_entries : F.entries = true := by assumption) (f_out : F.out = true := by assumption) :
    Keeps F s0 (holdDgram s iod ch d) := by
  unfold holdDgram
  try dsimp only
  repeat' first
    | with_reducible assumption
    | with_reducible apply modChannel_keeps
    | with_reducible apply declareGap_keeps
    | split

theorem arbitrate_keeps {F : Footprint} {s0 s : State} (hK : Keeps F s0 s) (iod ch : Nat) (d : Dgram) (f_mcEv : F.mcEv = true := by assumption) (f_dies : F.dies = true := by assumption) (f_feedPorts : F.feedPorts = true := by assumption) (f_feedIods : F.feedIods = true := by assumption) (f_fns : F.fns = true := by assumption) (f_parts : F.parts = true := by assumption) (f_entries : F.entries = true := by assumption) (f_out : F.out = true := by assumption) :
    Keeps F s0 (arbitrate s iod ch d) := by
  unfold arbitrate
  try dsimp only
  repeat' first
    | with_reducible assumption
    | with_reducible apply report_keeps
    | with_reducible apply modChannel_keeps
    | with_reducible apply behind_keeps
    | with_reducible apply takeDgram_keeps
    | with_reducible apply discardHeld_keeps
    | with_reducible apply releaseHeld_keeps
    | with_reducible apply holdDgram_keeps
    | split

theorem lineMatch_keeps {F : Footprint} {s0 s : State} (hK : Keeps F s0 s) (d : Dgram) (f_mcEv : F.mcEv = true := by assumption) (f_dies : F.dies = true := by assumption) (f_feedPorts : F.feedPorts = true := by assumption) (f_feedIods : F.feedIods = true := by assumption) (f_fns : F.fns = true := by assumption) (f_parts : F.parts = true := by assumption) (f_entries : F.entries = true := by assumption) (f_out : F.out = true := by assumption) :
    Keeps F s0 (lineMatch s d) := by
  unfold lineMatch
  try dsimp only
  repeat' first
    | with_reducible assumption
    | with_reducible apply deliver_keeps
    | with_reducible apply modChannel_keeps
    | with_reducible apply arbitrate_keeps
    | with_reducible refine Keeps.fst ?_ ‹_ = (_, _)›
    | split

theorem modShare_keeps {F : Footprint} {s0 s : State} (hK : Keeps F s0 s) (iod p : Nat) (f : Share → Share) (f_feedIods : F.feedIods = true := by assumption) :
    Keeps F s0 (modShare s iod p f) := by
  unfold modShare
  try dsimp only
  repeat' first
    | with_reducible assumption
    | with_reducible apply Keeps.modFiod

theorem notePeak_keeps {F : Footprint} {s0 s : State} (hK : Keeps F s0 s) (p : Nat) (f_fns : F.fns = true := by assumption) (f_parts : F.parts = true := by assumption) :
    Keeps F s0 (notePeak s p) := by
  unfold notePeak
  try dsimp only
  repeat' first
    | with_reducible assumption
    | with_reducible apply Keeps.modPart
    | with_reducible apply Keeps.modFn
    | with_reducible refine Keeps.fst ?_ ‹_ = (_, _)›
    | split

theorem markLost_keeps {F : Footprint} {s0 s : State} (hK : Keeps F s0 s) (iod p e : Nat) (f_feedIods : F.feedIods = true := by assumption) :
    Keeps F s0 (markLost s iod p e) := by
  unfold markLost
  try dsimp only
  repeat' first
    | with_reducible assumption
    | with_reducible apply modShare_keeps

theorem placeMarked_keeps {F : Footprint} {s0 s : State} (hK : Keeps F s0 s) (iod p : Nat) (x0 : Nat) (f_feedIods : F.feedIods = true := by assumption) :
    Keeps F s0 (placeMarked iod p x0 s) := by
  induction x0 generalizing iod p s with
  | zero => unfold placeMarked; exact hK
  | succ _ ih =>
    unfold placeMarked
    try dsimp only
    repeat' first
      | with_reducible assumption
      | with_reducible apply ih
      | with_reducible apply modShare_keeps
      | with_reducible refine Keeps.fst ?_ ‹_ = (_, _)›
      | split

theorem placeAllMarked_keeps {F : Footprint} {s0 s : State} (hK : Keeps F s0 s) (iod p : Nat) (f_feedIods : F.feedIods = true := by assumption) :
    Keeps F s0 (placeAllMarked s iod p) := by
  unfold placeAllMarked
  try dsimp only
  repeat' first
    | with_reducible assumption
    | with_reducible apply placeMarked_keeps

theorem loseEvent_keeps {F : Footprint} {s0 s : State} (hK : Keeps F s0 s) (iod p e : Nat) (f_feedIods : F.feedIods = true := by assumption) (f_parts : F.parts = true := by assumption) :
    Keeps F s0 (loseEvent s iod p e) := by
  unfold loseEvent
  try dsimp only
  repeat' first
    | with_reducible assumption
    | with_reducible apply Keeps.modPart
    | with_reducible apply markLost_keeps

theorem placeEvent_keeps {F : Footprint} {s0 s : State} (hK : Keeps F s0 s) (iod p e : Nat) (k : Lookup) (f_mcEv : F.mcEv = true := by assumption) (f_dies : F.dies = true := by assumption) (f_feedIods : F.feedIods = true := by assumption) (f_fns : F.fns = true := by assumption) (f_parts : F.parts = true := by assumption) :
    Keeps F s0 (placeEvent s iod p e k) := by
  unfold placeEvent
  try dsimp only
  repeat' first
    | with_reducible assumption
    | with_reducible apply Keeps.modPart
    | with_reducible apply report_keeps
    | with_reducible apply modShare_keeps
    | with_reducible apply notePeak_keeps
    | with_reducible apply placeAllMarked_keeps
    | with_reducible apply loseEvent_keeps
    | split

end Sys2Proof.Machine
end

