-- ==== Sys2Proof/Laws/KeepsFeed.lean ====
section
/-! SUPPORT. The operations of Machine/Feed.lean have `Keeps`: one lemma each. -/

namespace Sys2Proof.Machine

set_option Elab.async false

theorem rxAct_keeps {F : Footprint} {s0 s : State} (hK : Keeps F s0 s) (port : Nat) (x0 : RxFrame) (f_mcEv : F.mcEv = true := by assumption) (f_dies : F.dies = true := by assumption) (f_feedPorts : F.feedPorts = true := by assumption) (f_feedIods : F.feedIods = true := by assumption) (f_fns : F.fns = true := by assumption) (f_parts : F.parts = true := by assumption) (f_entries : F.entries = true := by assumption) (f_out : F.out = true := by assumption) (f_free : F.free = true := by assumption) :
    Keeps F s0 (rxAct s port x0) := by
  cases x0 <;> simp only [rxAct]
  all_goals repeat' first
    | with_reducible assumption
    | with_reducible apply sendArp_keeps
    | with_reducible apply sendNeigh_keeps
    | with_reducible apply answerIgmp_keeps
    | with_reducible apply answerMld_keeps
    | with_reducible apply lineMatch_keeps

theorem autoOpen_keeps {F : Footprint} {s0 s : State} (hK : Keeps F s0 s) (iod : Nat) (k : Lookup) (f_mcEv : F.mcEv = true := by assumption) (f_dies : F.dies = true := by assumption) (f_parts : F.parts = true := by assumption) (f_entries : F.entries = true := by assumption) :
    Keeps F s0 (autoOpen s iod k).1 := by
  unfold autoOpen
  try dsimp only
  repeat' first
    | with_reducible assumption
    | with_reducible apply Keeps.modPart
    | with_reducible apply report_keeps
    | with_reducible apply keyInsert_keeps
    | with_reducible refine openEntry_keeps ?_ ‹_›
    | with_reducible apply tableFull_keeps
    | with_reducible refine Keeps.fst ?_ ‹_ = (_, _)›
    | split

theorem lookupEntry_keeps {F : Footprint} {s0 s : State} (hK : Keeps F s0 s) (iod : Nat) (k : Lookup) (f_mcEv : F.mcEv = true := by assumption) (f_dies : F.dies = true := by assumption) (f_parts : F.parts = true := by assumption) (f_entries : F.entries = true := by assumption) :
    Keeps F s0 (lookupEntry s iod k).1 := by
  unfold lookupEntry
  try dsimp only
  repeat' first
    | with_reducible assumption
    | with_reducible apply Keeps.modPart
    | with_reducible apply autoOpen_keeps
    | with_reducible refine Keeps.fst ?_ ‹_ = (_, _)›
    | split

theorem drainRefused_keeps {F : Footprint} {s0 s t : State} (h : Keeps F s0 s) {p : Nat} {k : IngestEntry} (q : drainRefused s p k = some t) (f_parts : F.parts = true := by assumption) :
    Keeps F s0 t := by
  unfold drainRefused at q
  dsimp only at q
  split at q
  · cases q; exact h
  · split at q
    · cases q; exact modCnt_keeps h _ _
    · split at q
      · cases q; exact modPool_keeps h _ _ _
      · cases q

theorem drainOne_keeps {F : Footprint} {s0 s : State} (hK : Keeps F s0 s) (p iod : Nat) (k : IngestEntry) (f_feedIods : F.feedIods = true := by assumption) (f_parts : F.parts = true := by assumption) (f_entries : F.entries = true := by assumption) :
    Keeps F s0 (drainOne p iod s k) := by
  unfold drainOne
  try dsimp only
  repeat' first
    | with_reducible assumption
    | with_reducible apply Keeps.modPart
    | with_reducible apply Keeps.modEntry
    | with_reducible apply markLost_keeps
    | with_reducible apply loseEvent_keeps
    | with_reducible refine drainRefused_keeps ?_ ‹_›
    | with_reducible refine Keeps.fst ?_ ‹_ = (_, _)›
    | split

theorem reportFeedLink_keeps {F : Footprint} {s0 s : State} (hK : Keeps F s0 s) (port : Nat) (up : Bool) (f_mcEv : F.mcEv = true := by assumption) (f_dies : F.dies = true := by assumption) :
    Keeps F s0 (reportFeedLink s port up) := by
  unfold reportFeedLink
  try dsimp only
  repeat' first
    | with_reducible assumption
    | with_reducible apply report_keeps

theorem portDown_keeps {F : Footprint} {s0 s : State} (hK : Keeps F s0 s) (port : Nat) (f_mcEv : F.mcEv = true := by assumption) (f_dies : F.dies = true := by assumption) (f_feedPorts : F.feedPorts = true := by assumption) (f_parts : F.parts = true := by assumption) :
    Keeps F s0 (portDown s port) := by
  unfold portDown
  try dsimp only
  repeat' first
    | with_reducible assumption
    | with_reducible apply Keeps.modFport
    | with_reducible apply txLost_keeps
    | with_reducible apply reportFeedLink_keeps
    | (with_reducible apply Keeps.foldl; intro _ _ _)
    | split

theorem resyncChannel_keeps {F : Footprint} {s0 s : State} (hK : Keeps F s0 s) (iod ch : Nat) (f_feedIods : F.feedIods = true := by assumption) :
    Keeps F s0 (resyncChannel s iod ch) := by
  unfold resyncChannel
  try dsimp only
  repeat' first
    | with_reducible assumption
    | with_reducible apply modChannel_keeps
    | with_reducible apply discardHeld_keeps

theorem execFeedFrameRx_keeps {F : Footprint} {s s' : State} (port : Nat) (frame : List Byte) (now : Nat) (e : execFeedFrameRx port frame now s = .next s') (f_time : F.time = true := by assumption) (f_mcEv : F.mcEv = true := by assumption) (f_dies : F.dies = true := by assumption) (f_feedPorts : F.feedPorts = true := by assumption) (f_feedIods : F.feedIods = true := by assumption) (f_fns : F.fns = true := by assumption) (f_parts : F.parts = true := by assumption) (f_entries : F.entries = true := by assumption) (f_out : F.out = true := by assumption) (f_free : F.free = true := by assumption) :
    Keeps F s s' := by
  unfold execFeedFrameRx at e
  refine guarded_keeps ?_ e
  have hK := Keeps.refl F s
  try dsimp only
  repeat' first
    | with_reducible assumption
    | with_reducible apply Keeps.modFport
    | with_reducible apply Keeps.setNow
    | with_reducible apply rxAct_keeps
    | with_reducible refine Keeps.fst ?_ ‹_ = (_, _)›
    | split

theorem execKeyLookupDone_keeps {F : Footprint} {s s' : State} (iod now : Nat) (e : execKeyLookupDone iod now s = .next s') (f_time : F.time = true := by assumption) (f_mcEv : F.mcEv = true := by assumption) (f_dies : F.dies = true := by assumption) (f_feedIods : F.feedIods = true := by assumption) (f_fns : F.fns = true := by assumption) (f_parts : F.parts = true := by assumption) (f_entries : F.entries = true := by assumption) :
    Keeps F s s' := by
  unfold execKeyLookupDone at e
  refine guarded_keeps ?_ e
  have hK := Keeps.refl F s
  try dsimp only
  repeat' first
    | with_reducible assumption
    | with_reducible apply Keeps.modFiod
    | with_reducible apply Keeps.setNow
    | with_reducible apply placeEvent_keeps
    | with_reducible apply lookupEntry_keeps
    | with_reducible refine Keeps.fst ?_ ‹_ = (_, _)›
    | split

theorem execIngestDrain_keeps {F : Footprint} {s s' : State} (p iod now : Nat) (e : execIngestDrain p iod now s = .next s') (f_time : F.time = true := by assumption) (f_feedIods : F.feedIods = true := by assumption) (f_fns : F.fns = true := by assumption) (f_parts : F.parts = true := by assumption) (f_entries : F.entries = true := by assumption) :
    Keeps F s s' := by
  unfold execIngestDrain at e
  refine guarded_keeps ?_ e
  have hK := Keeps.refl F s
  try dsimp only
  repeat' first
    | with_reducible assumption
    | with_reducible apply Keeps.setNow
    | with_reducible apply modShare_keeps
    | with_reducible apply notePeak_keeps
    | with_reducible apply placeAllMarked_keeps
    | with_reducible apply drainOne_keeps
    | (with_reducible apply Keeps.foldl; intro _ _ _)
    | split

theorem execArbHoldExpiry_keeps {F : Footprint} {s s' : State} (iod ch now : Nat) (e : execArbHoldExpiry iod ch now s = .next s') (f_time : F.time = true := by assumption) (f_mcEv : F.mcEv = true := by assumption) (f_dies : F.dies = true := by assumption) (f_feedPorts : F.feedPorts = true := by assumption) (f_feedIods : F.feedIods = true := by assumption) (f_fns : F.fns = true := by assumption) (f_parts : F.parts = true := by assumption) (f_entries : F.entries = true := by assumption) (f_out : F.out = true := by assumption) :
    Keeps F s s' := by
  unfold execArbHoldExpiry at e
  refine guarded_keeps ?_ e
  have hK := Keeps.refl F s
  try dsimp only
  repeat' first
    | with_reducible assumption
    | with_reducible apply Keeps.setNow
    | with_reducible apply declareGap_keeps
    | with_reducible refine Keeps.fst ?_ ‹_ = (_, _)›
    | split

theorem execFeedLinkUp_keeps {F : Footprint} {s s' : State} (port now : Nat) (e : execFeedLinkUp port now s = .next s') (f_time : F.time = true := by assumption) (f_mcEv : F.mcEv = true := by assumption) (f_dies : F.dies = true := by assumption) (f_feedPorts : F.feedPorts = true := by assumption) (f_out : F.out = true := by assumption) (f_free : F.free = true := by assumption) :
    Keeps F s s' := by
  unfold execFeedLinkUp at e
  refine guarded_keeps ?_ e
  have hK := Keeps.refl F s
  try dsimp only
  repeat' first
    | with_reducible assumption
    | with_reducible apply Keeps.modFport
    | with_reducible apply Keeps.setNow
    | with_reducible apply sendReports_keeps
    | with_reducible apply reportFeedLink_keeps
    | (with_reducible apply Keeps.foldl; intro _ _ _)
    | split

theorem execFeedLinkDown_keeps {F : Footprint} {s s' : State} (port now : Nat) (e : execFeedLinkDown port now s = .next s') (f_time : F.time = true := by assumption) (f_mcEv : F.mcEv = true := by assumption) (f_dies : F.dies = true := by assumption) (f_feedPorts : F.feedPorts = true := by assumption) (f_parts : F.parts = true := by assumption) :
    Keeps F s s' := by
  unfold execFeedLinkDown at e
  refine guarded_keeps ?_ e
  have hK := Keeps.refl F s
  try dsimp only
  repeat' first
    | with_reducible assumption
    | with_reducible apply Keeps.setNow
    | with_reducible apply portDown_keeps

theorem execAlarmMsgTx_keeps {F : Footprint} {s s' : State} (port : Nat) (e : execAlarmMsgTx port s = .next s') (f_feedPorts : F.feedPorts = true := by assumption) (f_out : F.out = true := by assumption) :
    Keeps F s s' := by
  unfold execAlarmMsgTx at e
  refine guarded_keeps ?_ e
  have hK := Keeps.refl F s
  try dsimp only
  repeat' first
    | with_reducible assumption
    | with_reducible apply Keeps.modFport
    | with_reducible apply Keeps.emit
    | with_reducible refine Keeps.fst ?_ ‹_ = (_, _)›
    | split

theorem execArbResyncCmd_keeps {F : Footprint} {s s' : State} (iod value : Nat) (e : execArbResyncCmd iod value s = .next s') (f_feedIods : F.feedIods = true := by assumption) :
    Keeps F s s' := by
  unfold execArbResyncCmd at e
  refine guarded_keeps ?_ e
  have hK := Keeps.refl F s
  try dsimp only
  repeat' first
    | with_reducible assumption
    | with_reducible apply resyncChannel_keeps
    | split

end Sys2Proof.Machine
end

