-- ==== Sys2Proof/Laws/KeepsOpsFlesha.lean ====
section
/-! SUPPORT. The operations of Machine/OpsFlesha.lean have `Keeps`: one lemma each. -/

namespace Sys2Proof.Machine

set_option Elab.async false

theorem modOwner_keeps {F : Footprint} {s0 s : State} (hK : Keeps F s0 s) (o : Nat) (f : Owner → Owner) (f_cfg : F.cfg = true := by assumption) :
    Keeps F s0 (modOwner s o f) := by
  unfold modOwner
  try dsimp only
  repeat' first
    | with_reducible assumption
    | split
    | dsimp only
    | with_reducible refine Keeps.upd ?_

theorem fleshaSend_keeps {F : Footprint} {s0 s : State} (hK : Keeps F s0 s) (port addr udp owner typ opcode tag status : Nat) (body : List Byte) (f_cfg : F.cfg = true := by assumption) (f_out : F.out = true := by assumption) :
    Keeps F s0 (fleshaSend s port addr udp owner typ opcode tag status body) := by
  unfold fleshaSend
  try dsimp only
  repeat' first
    | with_reducible assumption
    | with_reducible apply Keeps.emit
    | with_reducible apply modOwner_keeps
    | with_reducible refine Keeps.fst ?_ ‹_ = (_, _)›
    | split

theorem fleshaReply_keeps {F : Footprint} {s0 s : State} (hK : Keeps F s0 s) (r : Reply) (status : Nat) (body : List Byte) (f_cfg : F.cfg = true := by assumption) (f_out : F.out = true := by assumption) :
    Keeps F s0 (fleshaReply s r status body) := by
  unfold fleshaReply
  try dsimp only
  repeat' first
    | with_reducible assumption
    | with_reducible apply fleshaSend_keeps

theorem fleshaAccept_keeps {F : Footprint} {s0 s : State} (hK : Keeps F s0 s) (port addr : Nat) (msg : List Byte) (f_cfg : F.cfg = true := by assumption) (f_log : F.log = true := by assumption) (f_mcEv : F.mcEv = true := by assumption) (f_dies : F.dies = true := by assumption) :
    Keeps F s0 (fleshaAccept s port addr msg).1 := by
  unfold fleshaAccept
  try dsimp only
  repeat' first
    | with_reducible assumption
    | with_reducible apply report_keeps
    | with_reducible apply modOwner_keeps
    | split
    | dsimp only
    | with_reducible refine Keeps.upd ?_

end Sys2Proof.Machine
end

