-- ==== Sys2Proof/Laws/KeepsOpsImage.lean ====
section
/-! SUPPORT. The operations of Machine/OpsImage.lean have `Keeps`: one lemma each. -/

namespace Sys2Proof.Machine

set_option Elab.async false

theorem modModel_keeps {F : Footprint} {s0 s : State} (hK : Keeps F s0 s) (stack i : Nat) (f : ResModel → ResModel) (f_reservoirs : F.reservoirs = true := by assumption) :
    Keeps F s0 (modModel s stack i f) := by
  unfold modModel
  try dsimp only
  repeat' first
    | with_reducible assumption
    | with_reducible apply Keeps.modRes

theorem holdTarn_keeps {F : Footprint} {s0 s : State} (hK : Keeps F s0 s) (p k : Nat) (x : Plain) (q : Placed) (f_dies : F.dies = true := by assumption) (f_tiles : F.tiles = true := by assumption) :
    Keeps F s0 (holdTarn s p k x q) := by
  unfold holdTarn
  try dsimp only
  repeat' first
    | with_reducible assumption
    | with_reducible apply modTarn_keeps
    | with_reducible apply lanternClear_keeps
    | with_reducible refine Keeps.fst ?_ ‹_ = (_, _)›
    | split

theorem installSched_keeps {F : Footprint} {s0 s : State} (hK : Keeps F s0 s) (p k : Nat) (d : Sched) (map : List (TarnPlace × Placed)) (f_tiles : F.tiles = true := by assumption) :
    Keeps F s0 (installSched s p k d map) := by
  unfold installSched
  try dsimp only
  repeat' first
    | with_reducible assumption
    | with_reducible apply Keeps.modTile
    | with_reducible apply modCtx_keeps
    | with_reducible refine Keeps.fst ?_ ‹_ = (_, _)›
    | split

theorem reserveTiles_keeps {F : Footprint} {s0 s : State} (hK : Keeps F s0 s) (p : Nat) (x : Plain) (add : Bool) (f_tiles : F.tiles = true := by assumption) :
    Keeps F s0 (reserveTiles s p x add) := by
  unfold reserveTiles
  try dsimp only
  repeat' first
    | with_reducible assumption
    | with_reducible apply Keeps.modTile
    | (with_reducible apply Keeps.foldl; intro _ _ _)

theorem takeLevel_keeps {F : Footprint} {s0 s : State} (hK : Keeps F s0 s) (p k n : Nat) (x : Plain) (old : List Placed) (f_dies : F.dies = true := by assumption) (f_tiles : F.tiles = true := by assumption) (f_parts : F.parts = true := by assumption) :
    Keeps F s0 (takeLevel s p k n x old) := by
  unfold takeLevel
  try dsimp only
  repeat' first
    | with_reducible assumption
    | with_reducible apply Keeps.modSlot
    | with_reducible apply holdTarn_keeps
    | with_reducible apply installSched_keeps
    | with_reducible apply reserveTiles_keeps
    | (with_reducible apply Keeps.foldl; intro _ _ _)
    | with_reducible refine Keeps.fst ?_ ‹_ = (_, _)›
    | split

theorem dropCtx_keeps {F : Footprint} {s0 s : State} (hK : Keeps F s0 s) (t c : Nat) (f_tiles : F.tiles = true := by assumption) :
    Keeps F s0 (dropCtx s t c) := by
  unfold dropCtx
  try dsimp only
  repeat' first
    | with_reducible assumption
    | with_reducible apply Keeps.modTile

theorem dropTarn_keeps {F : Footprint} {s0 s : State} (hK : Keeps F s0 s) (p k : Nat) (q : Placed) (f_tiles : F.tiles = true := by assumption) :
    Keeps F s0 (dropTarn s p k q) := by
  unfold dropTarn
  try dsimp only
  repeat' first
    | with_reducible assumption
    | with_reducible apply modTarn_keeps
    | with_reducible refine Keeps.fst ?_ ‹_ = (_, _)›
    | split

theorem freeLevel_keeps {F : Footprint} {s0 s : State} (hK : Keeps F s0 s) (p k : Nat) (f_tiles : F.tiles = true := by assumption) (f_parts : F.parts = true := by assumption) :
    Keeps F s0 (freeLevel s p k) := by
  unfold freeLevel
  try dsimp only
  repeat' first
    | with_reducible assumption
    | with_reducible apply Keeps.modSlot
    | with_reducible apply reserveTiles_keeps
    | with_reducible apply dropCtx_keeps
    | with_reducible apply dropTarn_keeps
    | (with_reducible apply Keeps.foldl; intro _ _ _)
    | with_reducible refine Keeps.fst ?_ ‹_ = (_, _)›
    | split

theorem dropRepairs_keeps {F : Footprint} {s0 s : State} (hK : Keeps F s0 s) (p k : Nat) (f_engines : F.engines = true := by assumption) :
    Keeps F s0 (dropRepairs s p k) := by
  unfold dropRepairs
  try dsimp only
  repeat' first
    | with_reducible assumption
    | with_reducible apply Keeps.modEngine
    | (with_reducible apply Keeps.foldl; intro _ _ _)

theorem reserveChanged_keeps {F : Footprint} {s0 s : State} (hK : Keeps F s0 s) (f_fm : F.fm = true := by assumption) :
    Keeps F s0 (reserveChanged s) := by
  unfold reserveChanged
  try dsimp only
  repeat' first
    | with_reducible assumption
    | split
    | dsimp only
    | with_reducible refine Keeps.upd ?_

theorem freeSlot_keeps {F : Footprint} {s0 s : State} (hK : Keeps F s0 s) (p k : Nat) (f_fm : F.fm = true := by assumption) (f_tiles : F.tiles = true := by assumption) (f_engines : F.engines = true := by assumption) (f_parts : F.parts = true := by assumption) :
    Keeps F s0 (freeSlot s p k) := by
  unfold freeSlot
  try dsimp only
  repeat' first
    | with_reducible assumption
    | with_reducible apply Keeps.modSlot
    | with_reducible apply freeLevel_keeps
    | with_reducible apply dropRepairs_keeps
    | with_reducible apply reserveChanged_keeps

theorem pvMap_keeps {F : Footprint} {s0 s : State} (hK : Keeps F s0 s) (p k t tarn : Nat) (x0 : List Nat) (f_fm : F.fm = true := by assumption) (f_dies : F.dies = true := by assumption) (f_tiles : F.tiles = true := by assumption) (f_parts : F.parts = true := by assumption) :
    Keeps F s0 (pvMap p k t tarn x0 s) := by
  induction x0 generalizing p k t tarn s with
  | nil => unfold pvMap; exact hK
  | cons _ _ ih =>
    unfold pvMap
    try dsimp only
    repeat' first
      | with_reducible assumption
      | with_reducible apply ih
      | with_reducible apply Keeps.modSlot
      | with_reducible apply replaceTarn_keeps
      | with_reducible apply mapColumn_keeps
      | split

theorem pvRun_keeps {F : Footprint} {s0 s : State} (hK : Keeps F s0 s) (p k : Nat) (m : Matrix) (q : Placed) (cols : List Nat) (f_fm : F.fm = true := by assumption) (f_dies : F.dies = true := by assumption) (f_tiles : F.tiles = true := by assumption) (f_parts : F.parts = true := by assumption) :
    Keeps F s0 (pvRun s p k m q cols) := by
  unfold pvRun
  try dsimp only
  repeat' first
    | with_reducible assumption
    | with_reducible apply Keeps.modTile
    | with_reducible apply pvMap_keeps

theorem pvTarn_keeps {F : Footprint} {s0 s : State} (hK : Keeps F s0 s) (p k : Nat) (x : Plain) (q : Placed) (failing again : List (Nat × Nat × Nat)) (seeds : List (Nat × Nat × Nat × Int × Int)) (f_fm : F.fm = true := by assumption) (f_dies : F.dies = true := by assumption) (f_tiles : F.tiles = true := by assumption) (f_parts : F.parts = true := by assumption) :
    Keeps F s0 (pvTarn s p k x q failing again seeds) := by
  unfold pvTarn
  try dsimp only
  repeat' first
    | with_reducible assumption
    | with_reducible apply modTarn_keeps
    | with_reducible apply pvRun_keeps
    | with_reducible refine Keeps.fst ?_ ‹_ = (_, _)›
    | split

theorem pvLayer_keeps {F : Footprint} {s0 s : State} (hK : Keeps F s0 s) (p k layer : Nat) (x : Plain) (failing again : List (Nat × Nat × Nat)) (seeds : List (Nat × Nat × Nat × Int × Int)) (f_fm : F.fm = true := by assumption) (f_dies : F.dies = true := by assumption) (f_tiles : F.tiles = true := by assumption) (f_parts : F.parts = true := by assumption) :
    Keeps F s0 (pvLayer s p k layer x failing again seeds) := by
  unfold pvLayer
  try dsimp only
  repeat' first
    | with_reducible assumption
    | with_reducible apply pvTarn_keeps
    | (with_reducible apply Keeps.foldl; intro _ _ _)

theorem loadRefused_keeps {F : Footprint} {s0 s : State} (hK : Keeps F s0 s) (p k reason : Nat) (f_mcEv : F.mcEv = true := by assumption) (f_dies : F.dies = true := by assumption) :
    Keeps F s0 (loadRefused s p k reason) := by
  unfold loadRefused
  try dsimp only
  repeat' first
    | with_reducible assumption
    | with_reducible apply reportLead_keeps

theorem imgAnswer_keeps {F : Footprint} {s0 s : State} (hK : Keeps F s0 s) (h : Option HostRef) (r : Option Reply) (reason : Nat) (f_cfg : F.cfg = true := by assumption) (f_fns : F.fns = true := by assumption) (f_parts : F.parts = true := by assumption) (f_out : F.out = true := by assumption) :
    Keeps F s0 (imgAnswer s h r reason) := by
  unfold imgAnswer
  try dsimp only
  repeat' first
    | with_reducible assumption
    | with_reducible apply completeWith_keeps
    | with_reducible apply fleshaReply_keeps
    | with_reducible refine Keeps.fst ?_ ‹_ = (_, _)›
    | split

theorem imgLast_keeps {F : Footprint} {s0 s : State} (hK : Keeps F s0 s) (p k reason tag : Nat) (f_parts : F.parts = true := by assumption) :
    Keeps F s0 (imgLast s p k reason tag) := by
  unfold imgLast
  try dsimp only
  repeat' first
    | with_reducible assumption
    | with_reducible apply Keeps.modSlot
    | split

theorem nameRefusal_keeps {F : Footprint} {s0 s : State} (hK : Keeps F s0 s) (p k : Nat) (w : ImgPlace) (f_parts : F.parts = true := by assumption) :
    Keeps F s0 (nameRefusal s p k w) := by
  unfold nameRefusal
  try dsimp only
  repeat' first
    | with_reducible assumption
    | with_reducible apply Keeps.modSlot

theorem endOp_keeps {F : Footprint} {s0 s : State} (hK : Keeps F s0 s) (j : ImgOp) (reason : Nat) (f_cfg : F.cfg = true := by assumption) (f_mcEv : F.mcEv = true := by assumption) (f_dies : F.dies = true := by assumption) (f_fns : F.fns = true := by assumption) (f_parts : F.parts = true := by assumption) (f_out : F.out = true := by assumption) :
    Keeps F s0 (endOp s j reason) := by
  unfold endOp
  try dsimp only
  repeat' first
    | with_reducible assumption
    | with_reducible apply loadRefused_keeps
    | with_reducible apply imgAnswer_keeps
    | with_reducible apply imgLast_keeps
    | split

theorem dropJob_keeps {F : Footprint} {s0 s : State} (hK : Keeps F s0 s) (stack id : Nat) (f_engines : F.engines = true := by assumption) :
    Keeps F s0 (dropJob s stack id) := by
  unfold dropJob
  try dsimp only
  repeat' first
    | with_reducible assumption
    | with_reducible apply Keeps.modEngine

end Sys2Proof.Machine
end

