-- ==== Sys2Proof/Laws/KeepsOpsPart.lean ====
section
/-! SUPPORT. The operations of Machine/OpsPart.lean have `Keeps`: one lemma each. -/

namespace Sys2Proof.Machine

set_option Elab.async false

theorem partCfgRefused_keeps {F : Footprint} {s0 s : State} (hK : Keeps F s0 s) (p reason : Nat) (f_mcEv : F.mcEv = true := by assumption) (f_dies : F.dies = true := by assumption) :
    Keeps F s0 (partCfgRefused s p reason) := by
  unfold partCfgRefused
  try dsimp only
  repeat' first
    | with_reducible assumption
    | with_reducible apply report_keeps

theorem bindPart_keeps {F : Footprint} {s0 s : State} (hK : Keeps F s0 s) (p : Nat) (c : PartCfg) (f_mcEv : F.mcEv = true := by assumption) (f_dies : F.dies = true := by assumption) (f_fns : F.fns = true := by assumption) (f_parts : F.parts = true := by assumption) :
    Keeps F s0 (bindPart s p c) := by
  unfold bindPart
  try dsimp only
  repeat' first
    | with_reducible assumption
    | with_reducible apply Keeps.modPart
    | with_reducible apply Keeps.modFn
    | with_reducible apply partCfgRefused_keeps
    | with_reducible refine Keeps.fst ?_ ‹_ = (_, _)›
    | split

theorem unbindPart_keeps {F : Footprint} {s0 s : State} (hK : Keeps F s0 s) (p : Nat) (f_fns : F.fns = true := by assumption) (f_parts : F.parts = true := by assumption) :
    Keeps F s0 (unbindPart s p) := by
  unfold unbindPart
  try dsimp only
  repeat' first
    | with_reducible assumption
    | with_reducible apply Keeps.modPart
    | with_reducible apply Keeps.modFn
    | with_reducible refine Keeps.fst ?_ ‹_ = (_, _)›
    | split

theorem dropRules_keeps {F : Footprint} {s0 s : State} (hK : Keeps F s0 s) (p : Nat) (f_feedIods : F.feedIods = true := by assumption) (f_parts : F.parts = true := by assumption) :
    Keeps F s0 (dropRules s p) := by
  unfold dropRules
  try dsimp only
  repeat' first
    | with_reducible assumption
    | with_reducible apply Keeps.modPart
    | with_reducible apply Keeps.modFiod
    | (with_reducible apply Keeps.foldl; intro _ _ _)

theorem holdRules_keeps {F : Footprint} {s0 s : State} (hK : Keeps F s0 s) (p : Nat) (c : PartCfg) (f_mcEv : F.mcEv = true := by assumption) (f_dies : F.dies = true := by assumption) (f_feedIods : F.feedIods = true := by assumption) (f_parts : F.parts = true := by assumption) :
    Keeps F s0 (holdRules s p c) := by
  unfold holdRules
  try dsimp only
  repeat' first
    | with_reducible assumption
    | with_reducible apply Keeps.modFiod
    | with_reducible apply modShare_keeps
    | with_reducible apply partCfgRefused_keeps
    | with_reducible apply dropRules_keeps
    | (with_reducible apply Keeps.foldl; intro _ _ _)
    | split

theorem rulesOn_keeps {F : Footprint} {s0 s : State} (hK : Keeps F s0 s) (p : Nat) (f_mcEv : F.mcEv = true := by assumption) (f_dies : F.dies = true := by assumption) (f_feedIods : F.feedIods = true := by assumption) (f_parts : F.parts = true := by assumption) :
    Keeps F s0 (rulesOn s p) := by
  unfold rulesOn
  try dsimp only
  repeat' first
    | with_reducible assumption
    | with_reducible apply Keeps.modPart
    | with_reducible apply partCfgRefused_keeps
    | with_reducible apply dropRules_keeps
    | with_reducible refine Keeps.fst ?_ ‹_ = (_, _)›
    | split

theorem dropEntries_keeps {F : Footprint} {s0 s : State} (h : Keeps F s0 s) (p : Nat) (f_entries : F.entries = true := by assumption) : Keeps F s0 (dropEntries s p) :=
  Keeps.tabs (m := s) h fun i => ⟨i.dies, i.tiles, i.stackTab, i.feedPorts, i.feedIods, i.hostPorts, i.fns, i.reservoirs,
    i.engines, i.parts, filter_wf _ i.entries, i.dram⟩

theorem disablePart_keeps {F : Footprint} {s0 s : State} (hK : Keeps F s0 s) (p reason : Nat) (f_fm : F.fm = true := by assumption) (f_tiles : F.tiles = true := by assumption) (f_feedIods : F.feedIods = true := by assumption) (f_fns : F.fns = true := by assumption) (f_engines : F.engines = true := by assumption) (f_parts : F.parts = true := by assumption) (f_entries : F.entries = true := by assumption) :
    Keeps F s0 (disablePart s p reason) := by
  unfold disablePart
  try dsimp only
  repeat' first
    | with_reducible assumption
    | with_reducible apply Keeps.modPart
    | with_reducible apply Keeps.modFiod
    | with_reducible apply freeSlot_keeps
    | with_reducible apply unbindPart_keeps
    | with_reducible apply dropRules_keeps
    | with_reducible apply dropEntries_keeps
    | (with_reducible apply Keeps.foldl; intro _ _ _)

theorem loadRegs_keeps {F : Footprint} {s0 s : State} (hK : Keeps F s0 s) (p : Nat) (c : PartCfg) (f_parts : F.parts = true := by assumption) :
    Keeps F s0 (loadRegs s p c) := by
  unfold loadRegs
  try dsimp only
  repeat' first
    | with_reducible assumption
    | with_reducible apply Keeps.modPart
    | with_reducible apply modPool_keeps
    | (with_reducible apply Keeps.foldl; intro _ _ _)

theorem putSection_keeps {F : Footprint} {s0 s : State} (hK : Keeps F s0 s) (p : Nat) (c : PartCfg) (gen : Nat) (f_mcEv : F.mcEv = true := by assumption) (f_dies : F.dies = true := by assumption) (f_feedIods : F.feedIods = true := by assumption) (f_fns : F.fns = true := by assumption) (f_parts : F.parts = true := by assumption) :
    Keeps F s0 (putSection s p c gen) := by
  unfold putSection
  try dsimp only
  repeat' first
    | with_reducible assumption
    | with_reducible apply Keeps.modPart
    | with_reducible apply bindPart_keeps
    | with_reducible apply holdRules_keeps
    | with_reducible apply loadRegs_keeps

theorem partRuns_keeps {F : Footprint} {s0 s : State} (hK : Keeps F s0 s) (p : Nat) (f_fns : F.fns = true := by assumption) (f_parts : F.parts = true := by assumption) (f_out : F.out = true := by assumption) :
    Keeps F s0 (partRuns s p) := by
  unfold partRuns
  try dsimp only
  repeat' first
    | with_reducible assumption
    | with_reducible apply Keeps.modPart
    | with_reducible apply setEvt_keeps
    | with_reducible apply progress_keeps
    | with_reducible refine Keeps.fst ?_ ‹_ = (_, _)›
    | split

theorem loadsEnded_keeps {F : Footprint} {s0 s : State} (hK : Keeps F s0 s) (p : Nat) (f_fm : F.fm = true := by assumption) (f_mcEv : F.mcEv = true := by assumption) (f_dies : F.dies = true := by assumption) (f_tiles : F.tiles = true := by assumption) (f_feedIods : F.feedIods = true := by assumption) (f_fns : F.fns = true := by assumption) (f_engines : F.engines = true := by assumption) (f_parts : F.parts = true := by assumption) (f_entries : F.entries = true := by assumption) (f_out : F.out = true := by assumption) :
    Keeps F s0 (loadsEnded s p) := by
  unfold loadsEnded
  try dsimp only
  repeat' first
    | with_reducible assumption
    | with_reducible apply partCfgRefused_keeps
    | with_reducible apply rulesOn_keeps
    | with_reducible apply disablePart_keeps
    | with_reducible apply partRuns_keeps
    | split

theorem startLoads_keeps {F : Footprint} {s0 s : State} (hK : Keeps F s0 s) (p : Nat) (x0 : List SlotCfg) (f_cfg : F.cfg = true := by assumption) (f_fm : F.fm = true := by assumption) (f_mcEv : F.mcEv = true := by assumption) (f_dies : F.dies = true := by assumption) (f_tiles : F.tiles = true := by assumption) (f_feedIods : F.feedIods = true := by assumption) (f_fns : F.fns = true := by assumption) (f_engines : F.engines = true := by assumption) (f_parts : F.parts = true := by assumption) (f_entries : F.entries = true := by assumption) (f_nextOp : F.nextOp = true := by assumption) (f_out : F.out = true := by assumption) :
    Keeps F s0 (startLoads p x0 s) := by
  induction x0 generalizing p s with
  | nil => unfold startLoads; exact loadsEnded_keeps hK _
  | cons _ _ ih =>
    unfold startLoads
    try dsimp only
    repeat' first
      | with_reducible assumption
      | with_reducible apply ih
      | with_reducible apply Keeps.modPart
      | with_reducible apply newOp_keeps
      | with_reducible apply pushJob_keeps
      | with_reducible apply endOp_keeps
      | with_reducible apply loadsEnded_keeps
      | with_reducible refine Keeps.fst ?_ ‹_ = (_, _)›
      | split

theorem nextStart_keeps {F : Footprint} {s0 s : State} (hK : Keeps F s0 s) (p : Nat) (f_cfg : F.cfg = true := by assumption) (f_fm : F.fm = true := by assumption) (f_mcEv : F.mcEv = true := by assumption) (f_dies : F.dies = true := by assumption) (f_tiles : F.tiles = true := by assumption) (f_feedIods : F.feedIods = true := by assumption) (f_fns : F.fns = true := by assumption) (f_engines : F.engines = true := by assumption) (f_parts : F.parts = true := by assumption) (f_entries : F.entries = true := by assumption) (f_nextOp : F.nextOp = true := by assumption) (f_out : F.out = true := by assumption) :
    Keeps F s0 (nextStart s p) := by
  unfold nextStart
  try dsimp only
  repeat' first
    | with_reducible assumption
    | with_reducible apply startLoads_keeps

theorem applySection_keeps {F : Footprint} {s0 s : State} (hK : Keeps F s0 s) (p : Nat) (bytes : List Byte) (gen : Nat) (f_mcEv : F.mcEv = true := by assumption) (f_dies : F.dies = true := by assumption) (f_feedIods : F.feedIods = true := by assumption) (f_fns : F.fns = true := by assumption) (f_parts : F.parts = true := by assumption) :
    Keeps F s0 (applySection s p bytes gen) := by
  unfold applySection
  try dsimp only
  repeat' first
    | with_reducible assumption
    | with_reducible apply Keeps.modPart
    | with_reducible apply partCfgRefused_keeps
    | with_reducible apply putSection_keeps
    | with_reducible refine Keeps.fst ?_ ‹_ = (_, _)›
    | split

theorem beginLoads_keeps {F : Footprint} {s0 s : State} (hK : Keeps F s0 s) (p : Nat) (f_cfg : F.cfg = true := by assumption) (f_fm : F.fm = true := by assumption) (f_mcEv : F.mcEv = true := by assumption) (f_dies : F.dies = true := by assumption) (f_tiles : F.tiles = true := by assumption) (f_feedIods : F.feedIods = true := by assumption) (f_fns : F.fns = true := by assumption) (f_engines : F.engines = true := by assumption) (f_parts : F.parts = true := by assumption) (f_entries : F.entries = true := by assumption) (f_nextOp : F.nextOp = true := by assumption) (f_out : F.out = true := by assumption) :
    Keeps F s0 (beginLoads s p) := by
  unfold beginLoads
  try dsimp only
  repeat' first
    | with_reducible assumption
    | with_reducible apply startLoads_keeps
    | with_reducible refine Keeps.fst ?_ ‹_ = (_, _)›
    | split

theorem sendNotice_keeps {F : Footprint} {s0 s : State} (hK : Keeps F s0 s) (kind : NoticeKind) (p : Option Nat) (arg : Nat) (ds : List Nat) (f_fm : F.fm = true := by assumption) :
    Keeps F s0 (sendNotice s kind p arg ds) := by
  unfold sendNotice
  try dsimp only
  repeat' first
    | with_reducible assumption
    | split
    | dsimp only
    | with_reducible refine Keeps.upd ?_

theorem fencePart_keeps {F : Footprint} {s0 s : State} (hK : Keeps F s0 s) (p : Nat) (f_fm : F.fm = true := by assumption) (f_parts : F.parts = true := by assumption) :
    Keeps F s0 (fencePart s p) := by
  unfold fencePart
  try dsimp only
  repeat' first
    | with_reducible assumption
    | with_reducible apply Keeps.modPart
    | with_reducible apply sendNotice_keeps
    | split

theorem requeueItem_keeps {F : Footprint} {s0 s : State} (hK : Keeps F s0 s) (p e : Nat) (xs : List Pass) (id : Nat) (f_mcEv : F.mcEv = true := by assumption) (f_dies : F.dies = true := by assumption) (f_feedPorts : F.feedPorts = true := by assumption) (f_fns : F.fns = true := by assumption) (f_parts : F.parts = true := by assumption) (f_entries : F.entries = true := by assumption) (f_out : F.out = true := by assumption) (f_free : F.free = true := by assumption) :
    Keeps F s0 (requeueItem s p e xs id) := by
  unfold requeueItem
  try dsimp only
  repeat' first
    | with_reducible assumption
    | with_reducible apply modItem_keeps
    | with_reducible apply finishItem_keeps
    | with_reducible refine Keeps.fst ?_ ‹_ = (_, _)›
    | split

theorem discardSeq_keeps {F : Footprint} {s0 s : State} (hK : Keeps F s0 s) (p e : Nat) (f_mcEv : F.mcEv = true := by assumption) (f_dies : F.dies = true := by assumption) (f_tiles : F.tiles = true := by assumption) (f_stackTab : F.stackTab = true := by assumption) (f_feedPorts : F.feedPorts = true := by assumption) (f_fns : F.fns = true := by assumption) (f_parts : F.parts = true := by assumption) (f_entries : F.entries = true := by assumption) (f_dram : F.dram = true := by assumption) (f_out : F.out = true := by assumption) (f_free : F.free = true := by assumption) :
    Keeps F s0 (discardSeq s p e) := by
  unfold discardSeq
  try dsimp only
  repeat' first
    | with_reducible assumption
    | with_reducible apply Keeps.modEntry
    | with_reducible apply rejectPages_keeps
    | with_reducible apply dropPasses_keeps
    | with_reducible apply requeueItem_keeps
    | (with_reducible apply Keeps.foldl; intro _ _ _)
    | split

theorem discardPasses_keeps {F : Footprint} {s0 s : State} (hK : Keeps F s0 s) (p : Nat) (f_mcEv : F.mcEv = true := by assumption) (f_dies : F.dies = true := by assumption) (f_tiles : F.tiles = true := by assumption) (f_stackTab : F.stackTab = true := by assumption) (f_feedPorts : F.feedPorts = true := by assumption) (f_fns : F.fns = true := by assumption) (f_parts : F.parts = true := by assumption) (f_entries : F.entries = true := by assumption) (f_dram : F.dram = true := by assumption) (f_out : F.out = true := by assumption) (f_free : F.free = true := by assumption) :
    Keeps F s0 (discardPasses s p) := by
  unfold discardPasses
  try dsimp only
  repeat' first
    | with_reducible assumption
    | with_reducible apply discardSeq_keeps
    | (with_reducible apply Keeps.foldl; intro _ _ _)

theorem abandonLoad_keeps {F : Footprint} {s0 s : State} (hK : Keeps F s0 s) (p k : Nat) (j : ImgOp) (f_cfg : F.cfg = true := by assumption) (f_fm : F.fm = true := by assumption) (f_mcEv : F.mcEv = true := by assumption) (f_dies : F.dies = true := by assumption) (f_tiles : F.tiles = true := by assumption) (f_fns : F.fns = true := by assumption) (f_engines : F.engines = true := by assumption) (f_parts : F.parts = true := by assumption) (f_out : F.out = true := by assumption) :
    Keeps F s0 (abandonLoad s p k j) := by
  unfold abandonLoad
  try dsimp only
  repeat' first
    | with_reducible assumption
    | with_reducible apply freeSlot_keeps
    | with_reducible apply endOp_keeps
    | with_reducible apply dropJob_keeps

theorem resetSwap_keeps {F : Footprint} {s0 s : State} (hK : Keeps F s0 s) (p k : Nat) (f_parts : F.parts = true := by assumption) :
    Keeps F s0 (resetSwap s p k) := by
  unfold resetSwap
  try dsimp only
  repeat' first
    | with_reducible assumption
    | with_reducible apply Keeps.modSlot
    | with_reducible refine Keeps.fst ?_ ‹_ = (_, _)›
    | split

theorem resetStart_keeps {F : Footprint} {s0 s : State} (hK : Keeps F s0 s) (p cause : Nat) (f_cfg : F.cfg = true := by assumption) (f_fm : F.fm = true := by assumption) (f_mcEv : F.mcEv = true := by assumption) (f_dies : F.dies = true := by assumption) (f_tiles : F.tiles = true := by assumption) (f_stackTab : F.stackTab = true := by assumption) (f_feedPorts : F.feedPorts = true := by assumption) (f_fns : F.fns = true := by assumption) (f_engines : F.engines = true := by assumption) (f_parts : F.parts = true := by assumption) (f_entries : F.entries = true := by assumption) (f_dram : F.dram = true := by assumption) (f_out : F.out = true := by assumption) (f_free : F.free = true := by assumption) :
    Keeps F s0 (resetStart s p cause) := by
  unfold resetStart
  try dsimp only
  repeat' first
    | with_reducible assumption
    | with_reducible apply Keeps.modPart
    | with_reducible apply Keeps.modFn
    | with_reducible apply setEvt_keeps
    | with_reducible apply sendNotice_keeps
    | with_reducible apply discardPasses_keeps
    | with_reducible apply abandonLoad_keeps
    | with_reducible apply resetSwap_keeps
    | (with_reducible apply Keeps.foldl; intro _ _ _)
    | with_reducible refine Keeps.fst ?_ ‹_ = (_, _)›
    | split

theorem abandonDie_keeps {F : Footprint} {s0 s : State} (hK : Keeps F s0 s) (p d : Nat) (f_dies : F.dies = true := by assumption) (f_tiles : F.tiles = true := by assumption) (f_xfers : F.xfers = true := by assumption) (f_releases : F.releases = true := by assumption) :
    Keeps F s0 (abandonDie s p d) := by
  unfold abandonDie
  try dsimp only
  repeat' first
    | with_reducible assumption
    | with_reducible apply Keeps.modDie
    | with_reducible apply Keeps.modTile
    | with_reducible apply countCrossed_keeps
    | with_reducible apply dropStale_keeps
    | (with_reducible apply Keeps.foldl; intro _ _ _)
    | split
    | dsimp only
    | with_reducible refine Keeps.upd ?_

theorem zeroisePart_keeps {F : Footprint} {s0 s : State} (hK : Keeps F s0 s) (p : Nat) (f_tiles : F.tiles = true := by assumption) :
    Keeps F s0 (zeroisePart s p) := by
  unfold zeroisePart
  try dsimp only
  repeat' first
    | with_reducible assumption
    | with_reducible apply Keeps.modTile
    | (with_reducible apply Keeps.foldl; intro _ _ _)

theorem scanFail_keeps {F : Footprint} {s0 s : State} (hK : Keeps F s0 s) (p t tarn : Nat) (f_parts : F.parts = true := by assumption) :
    Keeps F s0 (scanFail s p t tarn) := by
  unfold scanFail
  try dsimp only
  repeat' first
    | with_reducible assumption
    | with_reducible apply Keeps.modSlot
    | with_reducible refine Keeps.fst ?_ ‹_ = (_, _)›
    | split

theorem reloadOp_keeps {F : Footprint} {s0 s : State} (hK : Keeps F s0 s) (p k : Nat) (f_parts : F.parts = true := by assumption) (f_nextOp : F.nextOp = true := by assumption) :
    Keeps F s0 (reloadOp s p k) := by
  unfold reloadOp
  try dsimp only
  repeat' first
    | with_reducible assumption
    | with_reducible apply Keeps.modSlot
    | with_reducible apply newOp_keeps
    | with_reducible refine Keeps.fst ?_ ‹_ = (_, _)›
    | split

theorem rerunSwap_keeps {F : Footprint} {s0 s : State} (hK : Keeps F s0 s) (p k : Nat) (f_parts : F.parts = true := by assumption) :
    Keeps F s0 (rerunSwap s p k) := by
  unfold rerunSwap
  try dsimp only
  repeat' first
    | with_reducible assumption
    | with_reducible apply Keeps.modSlot
    | with_reducible refine Keeps.fst ?_ ‹_ = (_, _)›
    | split

theorem closeStale_keeps {F : Footprint} {s0 s : State} (hK : Keeps F s0 s) (p : Nat) (f_mcEv : F.mcEv = true := by assumption) (f_dies : F.dies = true := by assumption) (f_feedPorts : F.feedPorts = true := by assumption) (f_fns : F.fns = true := by assumption) (f_parts : F.parts = true := by assumption) (f_entries : F.entries = true := by assumption) (f_out : F.out = true := by assumption) (f_free : F.free = true := by assumption) :
    Keeps F s0 (closeStale s p) := by
  unfold closeStale
  try dsimp only
  repeat' first
    | with_reducible assumption
    | with_reducible apply closeEntry_keeps
    | (with_reducible apply Keeps.foldl; intro _ _ _)

theorem clearCounters_keeps {F : Footprint} {s0 s : State} (hK : Keeps F s0 s) (p : Nat) (f_parts : F.parts = true := by assumption) :
    Keeps F s0 (clearCounters s p) := by
  unfold clearCounters
  try dsimp only
  repeat' first
    | with_reducible assumption
    | with_reducible apply Keeps.modPart

theorem resetEnd_keeps {F : Footprint} {s0 s : State} (hK : Keeps F s0 s) (p us : Nat) (f_mcEv : F.mcEv = true := by assumption) (f_dies : F.dies = true := by assumption) (f_stackTab : F.stackTab = true := by assumption) (f_feedPorts : F.feedPorts = true := by assumption) (f_fns : F.fns = true := by assumption) (f_parts : F.parts = true := by assumption) (f_entries : F.entries = true := by assumption) (f_dram : F.dram = true := by assumption) (f_nextOp : F.nextOp = true := by assumption) (f_out : F.out = true := by assumption) (f_free : F.free = true := by assumption) :
    Keeps F s0 (resetEnd s p us) := by
  unfold resetEnd
  try dsimp only
  repeat' first
    | with_reducible assumption
    | with_reducible apply Keeps.modPart
    | with_reducible apply report_keeps
    | with_reducible apply applyEdit_keeps
    | with_reducible apply loadRegs_keeps
    | with_reducible apply reloadOp_keeps
    | with_reducible apply rerunSwap_keeps
    | with_reducible apply closeStale_keeps
    | with_reducible apply clearCounters_keeps
    | (with_reducible apply Keeps.foldl; intro _ _ _)
    | with_reducible refine Keeps.fst ?_ ‹_ = (_, _)›
    | split

end Sys2Proof.Machine
end

