-- ==== Sys2Proof/Laws/KeepsImages.lean ====
section
/-! SUPPORT. The operations of Machine/Images.lean have `Keeps`: one lemma each. -/

namespace Sys2Proof.Machine

set_option Elab.async false

theorem endCmd_keeps {F : Footprint} {s0 s : State} (hK : Keeps F s0 s) (r : ImgReq) (reason : Nat) (f_cfg : F.cfg = true := by assumption) (f_mcEv : F.mcEv = true := by assumption) (f_dies : F.dies = true := by assumption) (f_fns : F.fns = true := by assumption) (f_parts : F.parts = true := by assumption) (f_out : F.out = true := by assumption) :
    Keeps F s0 (endCmd s r reason) := by
  unfold endCmd
  try dsimp only
  repeat' first
    | with_reducible assumption
    | with_reducible apply loadRefused_keeps
    | with_reducible apply imgAnswer_keeps
    | with_reducible apply imgLast_keeps
    | split

theorem badCmd_keeps {F : Footprint} {s0 s : State} (hK : Keeps F s0 s) (c : ImgCmd) (h : Option HostRef) (r : Option Reply) (reason : Nat) (f_cfg : F.cfg = true := by assumption) (f_mcEv : F.mcEv = true := by assumption) (f_dies : F.dies = true := by assumption) (f_fns : F.fns = true := by assumption) (f_parts : F.parts = true := by assumption) (f_out : F.out = true := by assumption) :
    Keeps F s0 (badCmd s c h r reason) := by
  unfold badCmd
  try dsimp only
  repeat' first
    | with_reducible assumption
    | with_reducible apply report_keeps
    | with_reducible apply imgAnswer_keeps

theorem hostCmd_keeps {F : Footprint} {s0 s : State} (hK : Keeps F s0 s) (fn sq op : Nat) (cmd : List Byte) (f_cfg : F.cfg = true := by assumption) (f_mcEv : F.mcEv = true := by assumption) (f_dies : F.dies = true := by assumption) (f_fns : F.fns = true := by assumption) (f_parts : F.parts = true := by assumption) (f_out : F.out = true := by assumption) :
    Keeps F s0 (hostCmd s fn sq op cmd).1 := by
  unfold hostCmd
  try dsimp only
  repeat' first
    | with_reducible assumption
    | with_reducible apply Keeps.modFn
    | with_reducible apply badCmd_keeps
    | with_reducible refine Keeps.fst ?_ ‹_ = (_, _)›
    | split

theorem fleshaCmd_keeps {F : Footprint} {s0 s : State} (hK : Keeps F s0 s) (port addr udp op : Nat) (msg cmd : List Byte) (f_cfg : F.cfg = true := by assumption) (f_log : F.log = true := by assumption) (f_mcEv : F.mcEv = true := by assumption) (f_dies : F.dies = true := by assumption) (f_fns : F.fns = true := by assumption) (f_parts : F.parts = true := by assumption) (f_out : F.out = true := by assumption) :
    Keeps F s0 (fleshaCmd s port addr udp op msg cmd).1 := by
  unfold fleshaCmd
  try dsimp only
  repeat' first
    | with_reducible assumption
    | with_reducible apply fleshaReply_keeps
    | with_reducible apply fleshaAccept_keeps
    | with_reducible apply badCmd_keeps
    | with_reducible refine Keeps.fst ?_ ‹_ = (_, _)›
    | split

theorem runCmd_keeps {F : Footprint} {s0 s : State} (hK : Keeps F s0 s) (iss : Issuer) (op : Nat) (cmd : List Byte) (f : State → ImgReq → State) (hf : ∀ a0 a1, Keeps F s0 a0 → Keeps F s0 (f a0 a1)) (f_cfg : F.cfg = true := by assumption) (f_log : F.log = true := by assumption) (f_mcEv : F.mcEv = true := by assumption) (f_dies : F.dies = true := by assumption) (f_fns : F.fns = true := by assumption) (f_parts : F.parts = true := by assumption) (f_out : F.out = true := by assumption) :
    Keeps F s0 (runCmd s iss op cmd f) := by
  unfold runCmd
  try dsimp only
  repeat' first
    | with_reducible assumption
    | with_reducible apply hostCmd_keeps
    | with_reducible apply fleshaCmd_keeps
    | with_reducible apply hf
    | with_reducible refine Keeps.fst ?_ ‹_ = (_, _)›
    | split

theorem dropRx_keeps {F : Footprint} {s0 s : State} (hK : Keeps F s0 s) (j : ImgOp) (f_log : F.log = true := by assumption) :
    Keeps F s0 (dropRx s j) := by
  unfold dropRx
  try dsimp only
  repeat' first
    | with_reducible assumption
    | with_reducible refine Keeps.fst ?_ ‹_ = (_, _)›
    | split
    | dsimp only
    | with_reducible refine Keeps.upd ?_

theorem failInstall_keeps {F : Footprint} {s0 s : State} (hK : Keeps F s0 s) (j : ImgOp) (reason : Nat) (f_cfg : F.cfg = true := by assumption) (f_log : F.log = true := by assumption) (f_mcEv : F.mcEv = true := by assumption) (f_dies : F.dies = true := by assumption) (f_fns : F.fns = true := by assumption) (f_reservoirs : F.reservoirs = true := by assumption) (f_engines : F.engines = true := by assumption) (f_parts : F.parts = true := by assumption) (f_out : F.out = true := by assumption) :
    Keeps F s0 (failInstall s j reason) := by
  unfold failInstall
  try dsimp only
  repeat' first
    | with_reducible assumption
    | with_reducible apply Keeps.modRes
    | with_reducible apply report_keeps
    | with_reducible apply modModel_keeps
    | with_reducible apply loadRefused_keeps
    | with_reducible apply imgAnswer_keeps
    | with_reducible apply dropJob_keeps
    | with_reducible apply dropRx_keeps

theorem openReason_keeps {F : Footprint} {s0 s : State} (hK : Keeps F s0 s) (f_free : F.free = true := by assumption) :
    Keeps F s0 (openReason s).1 := by
  unfold openReason
  try dsimp only
  repeat' first
    | with_reducible assumption
    | with_reducible apply freeWord_keeps

theorem commitRec_keeps {F : Footprint} {s0 s : State} (hK : Keeps F s0 s) (j : ImgOp) (extents : List Nat) (f_free : F.free = true := by assumption) :
    Keeps F s0 (commitRec s j extents).1 := by
  unfold commitRec
  try dsimp only
  repeat' first
    | with_reducible assumption
    | with_reducible apply Keeps.take

theorem commitInstall_keeps {F : Footprint} {s0 s : State} (hK : Keeps F s0 s) (j : ImgOp) (f_cfg : F.cfg = true := by assumption) (f_log : F.log = true := by assumption) (f_mcEv : F.mcEv = true := by assumption) (f_dies : F.dies = true := by assumption) (f_fns : F.fns = true := by assumption) (f_reservoirs : F.reservoirs = true := by assumption) (f_engines : F.engines = true := by assumption) (f_parts : F.parts = true := by assumption) (f_out : F.out = true := by assumption) (f_free : F.free = true := by assumption) :
    Keeps F s0 (commitInstall s j) := by
  unfold commitInstall
  try dsimp only
  repeat' first
    | with_reducible assumption
    | with_reducible apply report_keeps
    | with_reducible apply modModel_keeps
    | with_reducible apply imgAnswer_keeps
    | with_reducible apply dropJob_keeps
    | with_reducible apply dropRx_keeps
    | with_reducible apply commitRec_keeps

theorem tempWait_keeps {F : Footprint} {s0 s : State} (hK : Keeps F s0 s) (p die : Nat) (f_mcEv : F.mcEv = true := by assumption) (f_dies : F.dies = true := by assumption) :
    Keeps F s0 (tempWait s p die) := by
  unfold tempWait
  try dsimp only
  repeat' first
    | with_reducible assumption
    | with_reducible apply report_keeps

theorem installNext_keeps {F : Footprint} {s0 s : State} (hK : Keeps F s0 s) (j : ImgOp) (tagOk : Bool) (f_cfg : F.cfg = true := by assumption) (f_log : F.log = true := by assumption) (f_mcEv : F.mcEv = true := by assumption) (f_dies : F.dies = true := by assumption) (f_fns : F.fns = true := by assumption) (f_reservoirs : F.reservoirs = true := by assumption) (f_engines : F.engines = true := by assumption) (f_parts : F.parts = true := by assumption) (f_out : F.out = true := by assumption) (f_free : F.free = true := by assumption) :
    Keeps F s0 (installNext s j tagOk) := by
  unfold installNext
  try dsimp only
  repeat' first
    | with_reducible assumption
    | with_reducible apply Keeps.modRes
    | with_reducible apply Keeps.modEngine
    | with_reducible apply failInstall_keeps
    | with_reducible apply commitInstall_keeps
    | with_reducible apply tempWait_keeps
    | split

theorem refusalName_keeps {F : Footprint} {s0 s : State} (hK : Keeps F s0 s) (p k : Nat) (x : Option Plain) (stripes e : Nat) (f_parts : F.parts = true := by assumption) :
    Keeps F s0 (refusalName s p k x stripes e) := by
  unfold refusalName
  try dsimp only
  repeat' first
    | with_reducible assumption
    | with_reducible apply nameRefusal_keeps
    | with_reducible refine Keeps.fst ?_ ‹_ = (_, _)›
    | split

theorem loadBegin_keeps {F : Footprint} {s0 s : State} (hK : Keeps F s0 s) (p k : Nat) (j : ImgOp) (pl : Plain) (n : Nat) (f_mcEv : F.mcEv = true := by assumption) (f_dies : F.dies = true := by assumption) (f_tiles : F.tiles = true := by assumption) (f_stackTab : F.stackTab = true := by assumption) (f_parts : F.parts = true := by assumption) (f_dram : F.dram = true := by assumption) :
    Keeps F s0 (loadBegin s p k j pl n) := by
  unfold loadBegin
  try dsimp only
  repeat' first
    | with_reducible assumption
    | with_reducible apply Keeps.modSlot
    | with_reducible apply schedFault_keeps
    | with_reducible apply zeroGranules_keeps
    | with_reducible apply takeLevel_keeps

theorem startNext_keeps {F : Footprint} {s0 s : State} (hK : Keeps F s0 s) (j : ImgOp) (f_cfg : F.cfg = true := by assumption) (f_fm : F.fm = true := by assumption) (f_mcEv : F.mcEv = true := by assumption) (f_dies : F.dies = true := by assumption) (f_tiles : F.tiles = true := by assumption) (f_feedIods : F.feedIods = true := by assumption) (f_fns : F.fns = true := by assumption) (f_engines : F.engines = true := by assumption) (f_parts : F.parts = true := by assumption) (f_entries : F.entries = true := by assumption) (f_nextOp : F.nextOp = true := by assumption) (f_out : F.out = true := by assumption) :
    Keeps F s0 (startNext s j) := by
  unfold startNext
  try dsimp only
  repeat' first
    | with_reducible assumption
    | with_reducible apply nextStart_keeps
    | split

theorem loadFailed_keeps {F : Footprint} {s0 s : State} (hK : Keeps F s0 s) (j : ImgOp) (reason : Nat) (f_cfg : F.cfg = true := by assumption) (f_fm : F.fm = true := by assumption) (f_mcEv : F.mcEv = true := by assumption) (f_dies : F.dies = true := by assumption) (f_tiles : F.tiles = true := by assumption) (f_feedIods : F.feedIods = true := by assumption) (f_fns : F.fns = true := by assumption) (f_engines : F.engines = true := by assumption) (f_parts : F.parts = true := by assumption) (f_entries : F.entries = true := by assumption) (f_nextOp : F.nextOp = true := by assumption) (f_out : F.out = true := by assumption) :
    Keeps F s0 (loadFailed s j reason) := by
  unfold loadFailed
  try dsimp only
  repeat' first
    | with_reducible assumption
    | with_reducible apply endOp_keeps
    | with_reducible apply startNext_keeps

theorem loadDone_keeps {F : Footprint} {s0 s : State} (hK : Keeps F s0 s) (p k : Nat) (f_cfg : F.cfg = true := by assumption) (f_fm : F.fm = true := by assumption) (f_mcEv : F.mcEv = true := by assumption) (f_dies : F.dies = true := by assumption) (f_tiles : F.tiles = true := by assumption) (f_feedIods : F.feedIods = true := by assumption) (f_fns : F.fns = true := by assumption) (f_engines : F.engines = true := by assumption) (f_parts : F.parts = true := by assumption) (f_entries : F.entries = true := by assumption) (f_nextOp : F.nextOp = true := by assumption) (f_out : F.out = true := by assumption) :
    Keeps F s0 (loadDone s p k) := by
  unfold loadDone
  try dsimp only
  repeat' first
    | with_reducible assumption
    | with_reducible apply Keeps.modSlot
    | with_reducible apply reportLead_keeps
    | with_reducible apply endOp_keeps
    | with_reducible apply startNext_keeps
    | with_reducible refine Keeps.fst ?_ ‹_ = (_, _)›
    | split

theorem swapReleased_keeps {F : Footprint} {s0 s : State} (hK : Keeps F s0 s) (p k : Nat) (w : Weir) (f_mcEv : F.mcEv = true := by assumption) (f_dies : F.dies = true := by assumption) (f_parts : F.parts = true := by assumption) :
    Keeps F s0 (swapReleased s p k w) := by
  unfold swapReleased
  try dsimp only
  repeat' first
    | with_reducible assumption
    | with_reducible apply Keeps.modSlot
    | with_reducible apply reportLead_keeps

theorem reloadDone_keeps {F : Footprint} {s0 s : State} (hK : Keeps F s0 s) (p k : Nat) (f_cfg : F.cfg = true := by assumption) (f_mcEv : F.mcEv = true := by assumption) (f_dies : F.dies = true := by assumption) (f_fns : F.fns = true := by assumption) (f_parts : F.parts = true := by assumption) (f_out : F.out = true := by assumption) :
    Keeps F s0 (reloadDone s p k) := by
  unfold reloadDone
  try dsimp only
  repeat' first
    | with_reducible assumption
    | with_reducible apply Keeps.modPart
    | with_reducible apply Keeps.modSlot
    | with_reducible apply endOp_keeps
    | with_reducible apply swapReleased_keeps
    | with_reducible refine Keeps.fst ?_ ‹_ = (_, _)›
    | with_reducible apply Keeps.take
    | split

theorem modOp_keeps {F : Footprint} {s0 s : State} (hK : Keeps F s0 s) (j : ImgOp) (f : ImgOp → ImgOp) (f_engines : F.engines = true := by assumption) (f_parts : F.parts = true := by assumption) :
    Keeps F s0 (modOp s j f) := by
  unfold modOp
  try dsimp only
  repeat' first
    | with_reducible assumption
    | with_reducible apply Keeps.modEngine
    | with_reducible apply Keeps.modSlot
    | split

theorem readFailed_keeps {F : Footprint} {s0 s : State} (hK : Keeps F s0 s) (j : ImgOp) (reason : Nat) (f_cfg : F.cfg = true := by assumption) (f_fm : F.fm = true := by assumption) (f_mcEv : F.mcEv = true := by assumption) (f_dies : F.dies = true := by assumption) (f_tiles : F.tiles = true := by assumption) (f_feedIods : F.feedIods = true := by assumption) (f_fns : F.fns = true := by assumption) (f_engines : F.engines = true := by assumption) (f_parts : F.parts = true := by assumption) (f_entries : F.entries = true := by assumption) (f_nextOp : F.nextOp = true := by assumption) (f_out : F.out = true := by assumption) :
    Keeps F s0 (readFailed s j reason) := by
  unfold readFailed
  try dsimp only
  repeat' first
    | with_reducible assumption
    | with_reducible apply Keeps.modPart
    | with_reducible apply Keeps.modSlot
    | with_reducible apply freeSlot_keeps
    | with_reducible apply endOp_keeps
    | with_reducible apply dropJob_keeps
    | with_reducible apply loadFailed_keeps
    | with_reducible refine Keeps.fst ?_ ‹_ = (_, _)›
    | split

theorem readDone_keeps {F : Footprint} {s0 s : State} (hK : Keeps F s0 s) (j : ImgOp) (f_cfg : F.cfg = true := by assumption) (f_fm : F.fm = true := by assumption) (f_mcEv : F.mcEv = true := by assumption) (f_dies : F.dies = true := by assumption) (f_tiles : F.tiles = true := by assumption) (f_feedIods : F.feedIods = true := by assumption) (f_fns : F.fns = true := by assumption) (f_engines : F.engines = true := by assumption) (f_parts : F.parts = true := by assumption) (f_entries : F.entries = true := by assumption) (f_nextOp : F.nextOp = true := by assumption) (f_out : F.out = true := by assumption) :
    Keeps F s0 (readDone s j) := by
  unfold readDone
  try dsimp only
  repeat' first
    | with_reducible assumption
    | with_reducible apply Keeps.modSlot
    | with_reducible apply dropRepairs_keeps
    | with_reducible apply endOp_keeps
    | with_reducible apply loadDone_keeps
    | with_reducible apply reloadDone_keeps
    | with_reducible refine Keeps.fst ?_ ‹_ = (_, _)›
    | split

theorem startCheck_keeps {F : Footprint} {s0 s : State} (hK : Keeps F s0 s) (j : ImgOp) (f_cfg : F.cfg = true := by assumption) (f_fm : F.fm = true := by assumption) (f_mcEv : F.mcEv = true := by assumption) (f_dies : F.dies = true := by assumption) (f_tiles : F.tiles = true := by assumption) (f_stackTab : F.stackTab = true := by assumption) (f_feedIods : F.feedIods = true := by assumption) (f_fns : F.fns = true := by assumption) (f_engines : F.engines = true := by assumption) (f_parts : F.parts = true := by assumption) (f_entries : F.entries = true := by assumption) (f_dram : F.dram = true := by assumption) (f_nextOp : F.nextOp = true := by assumption) (f_out : F.out = true := by assumption) :
    Keeps F s0 (startCheck s j).1 := by
  unfold startCheck
  try dsimp only
  repeat' first
    | with_reducible assumption
    | with_reducible apply endOp_keeps
    | with_reducible apply dropJob_keeps
    | with_reducible apply refusalName_keeps
    | with_reducible apply loadBegin_keeps
    | with_reducible apply startNext_keeps
    | with_reducible apply loadFailed_keeps
    | with_reducible refine Keeps.fst ?_ ‹_ = (_, _)›
    | split

theorem chunkCross_keeps {F : Footprint} {s0 s : State} (hK : Keeps F s0 s) (j : ImgOp) (f_dies : F.dies = true := by assumption) :
    Keeps F s0 (chunkCross s j) := by
  unfold chunkCross
  try dsimp only
  repeat' first
    | with_reducible assumption
    | with_reducible apply countPath_keeps
    | with_reducible refine Keeps.fst ?_ ‹_ = (_, _)›
    | split

theorem chunkStep_keeps {F : Footprint} {s0 s : State} (hK : Keeps F s0 s) (j : ImgOp) (tagOk : Bool) (f_cfg : F.cfg = true := by assumption) (f_fm : F.fm = true := by assumption) (f_mcEv : F.mcEv = true := by assumption) (f_dies : F.dies = true := by assumption) (f_tiles : F.tiles = true := by assumption) (f_feedIods : F.feedIods = true := by assumption) (f_fns : F.fns = true := by assumption) (f_engines : F.engines = true := by assumption) (f_parts : F.parts = true := by assumption) (f_entries : F.entries = true := by assumption) (f_nextOp : F.nextOp = true := by assumption) (f_out : F.out = true := by assumption) :
    Keeps F s0 (chunkStep s j tagOk) := by
  unfold chunkStep
  try dsimp only
  repeat' first
    | with_reducible assumption
    | with_reducible apply Keeps.modEngine
    | with_reducible apply dropJob_keeps
    | with_reducible apply modOp_keeps
    | with_reducible apply readFailed_keeps
    | with_reducible apply readDone_keeps
    | with_reducible apply chunkCross_keeps
    | split

theorem layerDone_keeps {F : Footprint} {s0 s : State} (hK : Keeps F s0 s) (p k layer : Nat) (f_cfg : F.cfg = true := by assumption) (f_fm : F.fm = true := by assumption) (f_mcEv : F.mcEv = true := by assumption) (f_dies : F.dies = true := by assumption) (f_tiles : F.tiles = true := by assumption) (f_feedIods : F.feedIods = true := by assumption) (f_fns : F.fns = true := by assumption) (f_engines : F.engines = true := by assumption) (f_parts : F.parts = true := by assumption) (f_entries : F.entries = true := by assumption) (f_nextOp : F.nextOp = true := by assumption) (f_out : F.out = true := by assumption) :
    Keeps F s0 (layerDone s p k layer) := by
  unfold layerDone
  try dsimp only
  repeat' first
    | with_reducible assumption
    | with_reducible apply Keeps.modSlot
    | with_reducible apply loadDone_keeps
    | with_reducible apply reloadDone_keeps

theorem execInstall_keeps {F : Footprint} {s s' : State} (iss : Issuer) (cmd header : List Byte) (plain : Plain) (keyOk : Bool) (now : Nat) (e : execInstall iss cmd header plain keyOk now s = .next s') (f_cfg : F.cfg = true := by assumption) (f_time : F.time = true := by assumption) (f_log : F.log = true := by assumption) (f_mcEv : F.mcEv = true := by assumption) (f_dies : F.dies = true := by assumption) (f_fns : F.fns = true := by assumption) (f_reservoirs : F.reservoirs = true := by assumption) (f_engines : F.engines = true := by assumption) (f_parts : F.parts = true := by assumption) (f_nextOp : F.nextOp = true := by assumption) (f_out : F.out = true := by assumption) :
    Keeps F s s' := by
  unfold execInstall at e
  refine guarded_keeps ?_ e
  have hK := Keeps.refl F s
  try dsimp only
  repeat' first
    | with_reducible assumption
    | with_reducible apply Keeps.modRes
    | with_reducible apply Keeps.modEngine
    | with_reducible apply Keeps.setNow
    | with_reducible apply newOp_keeps
    | with_reducible apply pushJob_keeps
    | with_reducible apply modModel_keeps
    | with_reducible apply endCmd_keeps
    | with_reducible apply runCmd_keeps
    | with_reducible refine Keeps.fst ?_ ‹_ = (_, _)›
    | intro _
    | split
    | dsimp only
    | with_reducible refine Keeps.upd ?_

theorem execInstallChunk_keeps {F : Footprint} {s s' : State} (stack : Nat) (tagOk : Bool) (bytes now : Nat) (e : execInstallChunk stack tagOk bytes now s = .next s') (f_cfg : F.cfg = true := by assumption) (f_time : F.time = true := by assumption) (f_log : F.log = true := by assumption) (f_mcEv : F.mcEv = true := by assumption) (f_dies : F.dies = true := by assumption) (f_fns : F.fns = true := by assumption) (f_reservoirs : F.reservoirs = true := by assumption) (f_engines : F.engines = true := by assumption) (f_parts : F.parts = true := by assumption) (f_out : F.out = true := by assumption) (f_free : F.free = true := by assumption) :
    Keeps F s s' := by
  unfold execInstallChunk at e
  refine guarded_keeps ?_ e
  have hK := Keeps.refl F s
  try dsimp only
  repeat' first
    | with_reducible assumption
    | with_reducible apply Keeps.emit
    | with_reducible apply Keeps.setNow
    | with_reducible apply failInstall_keeps
    | with_reducible apply installNext_keeps
    | with_reducible refine Keeps.fst ?_ ‹_ = (_, _)›
    | split

theorem execInstallTempTimeout_keeps {F : Footprint} {s s' : State} (stack now : Nat) (e : execInstallTempTimeout stack now s = .next s') (f_cfg : F.cfg = true := by assumption) (f_time : F.time = true := by assumption) (f_log : F.log = true := by assumption) (f_mcEv : F.mcEv = true := by assumption) (f_dies : F.dies = true := by assumption) (f_fns : F.fns = true := by assumption) (f_reservoirs : F.reservoirs = true := by assumption) (f_engines : F.engines = true := by assumption) (f_parts : F.parts = true := by assumption) (f_out : F.out = true := by assumption) :
    Keeps F s s' := by
  unfold execInstallTempTimeout at e
  refine guarded_keeps ?_ e
  have hK := Keeps.refl F s
  try dsimp only
  repeat' first
    | with_reducible assumption
    | with_reducible apply Keeps.setNow
    | with_reducible apply failInstall_keeps
    | with_reducible refine Keeps.fst ?_ ‹_ = (_, _)›
    | split

theorem execInstallSessionTimeout_keeps {F : Footprint} {s s' : State} (stack now : Nat) (e : execInstallSessionTimeout stack now s = .next s') (f_cfg : F.cfg = true := by assumption) (f_time : F.time = true := by assumption) (f_log : F.log = true := by assumption) (f_mcEv : F.mcEv = true := by assumption) (f_dies : F.dies = true := by assumption) (f_fns : F.fns = true := by assumption) (f_reservoirs : F.reservoirs = true := by assumption) (f_engines : F.engines = true := by assumption) (f_parts : F.parts = true := by assumption) (f_out : F.out = true := by assumption) (f_free : F.free = true := by assumption) :
    Keeps F s s' := by
  unfold execInstallSessionTimeout at e
  refine guarded_keeps ?_ e
  have hK := Keeps.refl F s
  try dsimp only
  repeat' first
    | with_reducible assumption
    | with_reducible apply Keeps.setNow
    | with_reducible apply failInstall_keeps
    | with_reducible apply openReason_keeps
    | with_reducible refine Keeps.fst ?_ ‹_ = (_, _)›
    | split

theorem execActivate_keeps {F : Footprint} {s s' : State} (iss : Issuer) (cmd : List Byte) (now : Nat) (e : execActivate iss cmd now s = .next s') (f_cfg : F.cfg = true := by assumption) (f_time : F.time = true := by assumption) (f_log : F.log = true := by assumption) (f_mcEv : F.mcEv = true := by assumption) (f_dies : F.dies = true := by assumption) (f_fns : F.fns = true := by assumption) (f_reservoirs : F.reservoirs = true := by assumption) (f_parts : F.parts = true := by assumption) (f_out : F.out = true := by assumption) :
    Keeps F s s' := by
  unfold execActivate at e
  refine guarded_keeps ?_ e
  have hK := Keeps.refl F s
  try dsimp only
  repeat' first
    | with_reducible assumption
    | with_reducible apply Keeps.setNow
    | with_reducible apply modModel_keeps
    | with_reducible apply endCmd_keeps
    | with_reducible apply runCmd_keeps
    | with_reducible refine Keeps.fst ?_ ‹_ = (_, _)›
    | intro _
    | split

theorem execErase_keeps {F : Footprint} {s s' : State} (iss : Issuer) (cmd : List Byte) (now : Nat) (e : execErase iss cmd now s = .next s') (f_cfg : F.cfg = true := by assumption) (f_time : F.time = true := by assumption) (f_log : F.log = true := by assumption) (f_mcEv : F.mcEv = true := by assumption) (f_dies : F.dies = true := by assumption) (f_fns : F.fns = true := by assumption) (f_reservoirs : F.reservoirs = true := by assumption) (f_parts : F.parts = true := by assumption) (f_out : F.out = true := by assumption) :
    Keeps F s s' := by
  unfold execErase at e
  refine guarded_keeps ?_ e
  have hK := Keeps.refl F s
  try dsimp only
  repeat' first
    | with_reducible assumption
    | with_reducible apply Keeps.modRes
    | with_reducible apply Keeps.setNow
    | with_reducible apply endCmd_keeps
    | with_reducible apply runCmd_keeps
    | with_reducible refine Keeps.fst ?_ ‹_ = (_, _)›
    | intro _
    | split

theorem execLoad_keeps {F : Footprint} {s s' : State} (iss : Issuer) (cmd : List Byte) (now : Nat) (e : execLoad iss cmd now s = .next s') (f_cfg : F.cfg = true := by assumption) (f_time : F.time = true := by assumption) (f_log : F.log = true := by assumption) (f_mcEv : F.mcEv = true := by assumption) (f_dies : F.dies = true := by assumption) (f_tiles : F.tiles = true := by assumption) (f_stackTab : F.stackTab = true := by assumption) (f_fns : F.fns = true := by assumption) (f_engines : F.engines = true := by assumption) (f_parts : F.parts = true := by assumption) (f_dram : F.dram = true := by assumption) (f_nextOp : F.nextOp = true := by assumption) (f_out : F.out = true := by assumption) :
    Keeps F s s' := by
  unfold execLoad at e
  refine guarded_keeps ?_ e
  have hK := Keeps.refl F s
  try dsimp only
  repeat' first
    | with_reducible assumption
    | with_reducible apply Keeps.setNow
    | with_reducible apply newOp_keeps
    | with_reducible apply pushJob_keeps
    | with_reducible apply endCmd_keeps
    | with_reducible apply runCmd_keeps
    | with_reducible apply refusalName_keeps
    | with_reducible apply loadBegin_keeps
    | with_reducible refine Keeps.fst ?_ ‹_ = (_, _)›
    | intro _
    | split

theorem execImageChunkDecrypted_keeps {F : Footprint} {s s' : State} (stack : Nat) (tagOk : Bool) (now : Nat) (e : execImageChunkDecrypted stack tagOk now s = .next s') (f_cfg : F.cfg = true := by assumption) (f_time : F.time = true := by assumption) (f_fm : F.fm = true := by assumption) (f_mcEv : F.mcEv = true := by assumption) (f_dies : F.dies = true := by assumption) (f_tiles : F.tiles = true := by assumption) (f_stackTab : F.stackTab = true := by assumption) (f_feedIods : F.feedIods = true := by assumption) (f_fns : F.fns = true := by assumption) (f_engines : F.engines = true := by assumption) (f_parts : F.parts = true := by assumption) (f_entries : F.entries = true := by assumption) (f_dram : F.dram = true := by assumption) (f_nextOp : F.nextOp = true := by assumption) (f_out : F.out = true := by assumption) :
    Keeps F s s' := by
  unfold execImageChunkDecrypted at e
  refine guarded_keeps ?_ e
  have hK := Keeps.refl F s
  try dsimp only
  repeat' first
    | with_reducible assumption
    | with_reducible apply Keeps.setNow
    | with_reducible apply startCheck_keeps
    | with_reducible apply chunkStep_keeps
    | with_reducible refine Keeps.fst ?_ ‹_ = (_, _)›
    | split

theorem execPvDone_keeps {F : Footprint} {s s' : State} (p slot layer : Nat) (failing again : List (Nat × Nat × Nat)) (seeds : List (Nat × Nat × Nat × Int × Int)) (now : Nat) (e : execPvDone p slot layer failing again seeds now s = .next s') (f_cfg : F.cfg = true := by assumption) (f_time : F.time = true := by assumption) (f_fm : F.fm = true := by assumption) (f_mcEv : F.mcEv = true := by assumption) (f_dies : F.dies = true := by assumption) (f_tiles : F.tiles = true := by assumption) (f_feedIods : F.feedIods = true := by assumption) (f_fns : F.fns = true := by assumption) (f_engines : F.engines = true := by assumption) (f_parts : F.parts = true := by assumption) (f_entries : F.entries = true := by assumption) (f_nextOp : F.nextOp = true := by assumption) (f_out : F.out = true := by assumption) :
    Keeps F s s' := by
  unfold execPvDone at e
  refine guarded_keeps ?_ e
  have hK := Keeps.refl F s
  try dsimp only
  repeat' first
    | with_reducible assumption
    | with_reducible apply Keeps.setNow
    | with_reducible apply freeSlot_keeps
    | with_reducible apply pvLayer_keeps
    | with_reducible apply dropJob_keeps
    | with_reducible apply tempWait_keeps
    | with_reducible apply loadFailed_keeps
    | with_reducible apply modOp_keeps
    | with_reducible apply layerDone_keeps
    | with_reducible refine Keeps.fst ?_ ‹_ = (_, _)›
    | split

theorem execTempWindowResume_keeps {F : Footprint} {s s' : State} (op now : Nat) (e : execTempWindowResume op now s = .next s') (f_time : F.time = true := by assumption) (f_engines : F.engines = true := by assumption) (f_parts : F.parts = true := by assumption) :
    Keeps F s s' := by
  unfold execTempWindowResume at e
  refine guarded_keeps ?_ e
  have hK := Keeps.refl F s
  try dsimp only
  repeat' first
    | with_reducible assumption
    | with_reducible apply Keeps.setNow
    | with_reducible apply modOp_keeps
    | with_reducible refine Keeps.fst ?_ ‹_ = (_, _)›
    | split

theorem execUnload_keeps {F : Footprint} {s s' : State} (iss : Issuer) (cmd : List Byte) (now : Nat) (e : execUnload iss cmd now s = .next s') (f_cfg : F.cfg = true := by assumption) (f_time : F.time = true := by assumption) (f_log : F.log = true := by assumption) (f_fm : F.fm = true := by assumption) (f_mcEv : F.mcEv = true := by assumption) (f_dies : F.dies = true := by assumption) (f_tiles : F.tiles = true := by assumption) (f_fns : F.fns = true := by assumption) (f_engines : F.engines = true := by assumption) (f_parts : F.parts = true := by assumption) (f_out : F.out = true := by assumption) :
    Keeps F s s' := by
  unfold execUnload at e
  refine guarded_keeps ?_ e
  have hK := Keeps.refl F s
  try dsimp only
  repeat' first
    | with_reducible assumption
    | with_reducible apply Keeps.modPart
    | with_reducible apply Keeps.modSlot
    | with_reducible apply Keeps.setNow
    | with_reducible apply schedFault_keeps
    | with_reducible apply freeSlot_keeps
    | with_reducible apply dropJob_keeps
    | with_reducible apply endCmd_keeps
    | with_reducible apply runCmd_keeps
    | with_reducible refine Keeps.fst ?_ ‹_ = (_, _)›
    | intro _
    | split

theorem execVariantLoad_keeps {F : Footprint} {s s' : State} (iss : Issuer) (cmd : List Byte) (now : Nat) (e : execVariantLoad iss cmd now s = .next s') (f_cfg : F.cfg = true := by assumption) (f_time : F.time = true := by assumption) (f_log : F.log = true := by assumption) (f_mcEv : F.mcEv = true := by assumption) (f_dies : F.dies = true := by assumption) (f_fns : F.fns = true := by assumption) (f_engines : F.engines = true := by assumption) (f_parts : F.parts = true := by assumption) (f_nextOp : F.nextOp = true := by assumption) (f_out : F.out = true := by assumption) :
    Keeps F s s' := by
  unfold execVariantLoad at e
  refine guarded_keeps ?_ e
  have hK := Keeps.refl F s
  try dsimp only
  repeat' first
    | with_reducible assumption
    | with_reducible apply Keeps.modSlot
    | with_reducible apply Keeps.setNow
    | with_reducible apply newOp_keeps
    | with_reducible apply pushJob_keeps
    | with_reducible apply endCmd_keeps
    | with_reducible apply runCmd_keeps
    | with_reducible refine Keeps.fst ?_ ‹_ = (_, _)›
    | intro _
    | split

theorem execVariantUnload_keeps {F : Footprint} {s s' : State} (iss : Issuer) (cmd : List Byte) (now : Nat) (e : execVariantUnload iss cmd now s = .next s') (f_cfg : F.cfg = true := by assumption) (f_time : F.time = true := by assumption) (f_log : F.log = true := by assumption) (f_mcEv : F.mcEv = true := by assumption) (f_dies : F.dies = true := by assumption) (f_fns : F.fns = true := by assumption) (f_parts : F.parts = true := by assumption) (f_out : F.out = true := by assumption) :
    Keeps F s s' := by
  unfold execVariantUnload at e
  refine guarded_keeps ?_ e
  have hK := Keeps.refl F s
  try dsimp only
  repeat' first
    | with_reducible assumption
    | with_reducible apply Keeps.modSlot
    | with_reducible apply Keeps.setNow
    | with_reducible apply endCmd_keeps
    | with_reducible apply runCmd_keeps
    | intro _
    | split

theorem execAbort_keeps {F : Footprint} {s s' : State} (iss : Issuer) (cmd : List Byte) (now : Nat) (e : execAbort iss cmd now s = .next s') (f_cfg : F.cfg = true := by assumption) (f_time : F.time = true := by assumption) (f_log : F.log = true := by assumption) (f_mcEv : F.mcEv = true := by assumption) (f_dies : F.dies = true := by assumption) (f_fns : F.fns = true := by assumption) (f_reservoirs : F.reservoirs = true := by assumption) (f_engines : F.engines = true := by assumption) (f_parts : F.parts = true := by assumption) (f_out : F.out = true := by assumption) :
    Keeps F s s' := by
  unfold execAbort at e
  refine guarded_keeps ?_ e
  have hK := Keeps.refl F s
  try dsimp only
  repeat' first
    | with_reducible assumption
    | with_reducible apply Keeps.modSlot
    | with_reducible apply Keeps.setNow
    | with_reducible apply endOp_keeps
    | with_reducible apply dropJob_keeps
    | with_reducible apply endCmd_keeps
    | with_reducible apply runCmd_keeps
    | with_reducible apply failInstall_keeps
    | with_reducible refine Keeps.fst ?_ ‹_ = (_, _)›
    | intro _
    | split

theorem execShadowRepair_keeps {F : Footprint} {s s' : State} (p slot chunk now : Nat) (e : execShadowRepair p slot chunk now s = .next s') (f_time : F.time = true := by assumption) (f_mcEv : F.mcEv = true := by assumption) (f_dies : F.dies = true := by assumption) (f_engines : F.engines = true := by assumption) (f_parts : F.parts = true := by assumption) :
    Keeps F s s' := by
  unfold execShadowRepair at e
  refine guarded_keeps ?_ e
  have hK := Keeps.refl F s
  try dsimp only
  repeat' first
    | with_reducible assumption
    | with_reducible apply Keeps.modPart
    | with_reducible apply Keeps.modEngine
    | with_reducible apply Keeps.modSlot
    | with_reducible apply Keeps.setNow
    | with_reducible apply reportLead_keeps
    | with_reducible apply dropJob_keeps
    | with_reducible apply chunkCross_keeps
    | with_reducible refine Keeps.fst ?_ ‹_ = (_, _)›
    | split

end Sys2Proof.Machine
end

