-- ==== Sys2Proof/Laws/KeepsWeir.lean ====
section
/-! SUPPORT. The operations of Machine/Weir.lean have `Keeps`: one lemma each. -/

namespace Sys2Proof.Machine

set_option Elab.async false

theorem releaseDraft_keeps {F : Footprint} {s0 s : State} (hK : Keeps F s0 s) (p e : Nat) (f_mcEv : F.mcEv = true := by assumption) (f_dies : F.dies = true := by assumption) (f_stackTab : F.stackTab = true := by assumption) (f_parts : F.parts = true := by assumption) (f_entries : F.entries = true := by assumption) (f_dram : F.dram = true := by assumption) :
    Keeps F s0 (releaseDraft s p e) := by
  unfold releaseDraft
  try dsimp only
  repeat' first
    | with_reducible assumption
    | with_reducible apply Keeps.modEntry
    | with_reducible apply releaseEntry_keeps

theorem makeStale_keeps {F : Footprint} {s0 s : State} (hK : Keeps F s0 s) (p : Nat) (close : Bool) (e : Nat) (f_mcEv : F.mcEv = true := by assumption) (f_dies : F.dies = true := by assumption) (f_stackTab : F.stackTab = true := by assumption) (f_feedPorts : F.feedPorts = true := by assumption) (f_fns : F.fns = true := by assumption) (f_parts : F.parts = true := by assumption) (f_entries : F.entries = true := by assumption) (f_dram : F.dram = true := by assumption) (f_out : F.out = true := by assumption) (f_free : F.free = true := by assumption) :
    Keeps F s0 (makeStale p close s e) := by
  unfold makeStale
  try dsimp only
  repeat' first
    | with_reducible assumption
    | with_reducible apply Keeps.modEntry
    | with_reducible apply endFrameWait_keeps
    | with_reducible apply removeAll_keeps
    | with_reducible apply closeEntry_keeps
    | with_reducible apply releaseDraft_keeps
    | split

theorem weirStep3_keeps {F : Footprint} {s0 s : State} (hK : Keeps F s0 s) (p k : Nat) (w : Weir) (f_mcEv : F.mcEv = true := by assumption) (f_dies : F.dies = true := by assumption) (f_stackTab : F.stackTab = true := by assumption) (f_feedPorts : F.feedPorts = true := by assumption) (f_fns : F.fns = true := by assumption) (f_parts : F.parts = true := by assumption) (f_entries : F.entries = true := by assumption) (f_dram : F.dram = true := by assumption) (f_out : F.out = true := by assumption) (f_free : F.free = true := by assumption) :
    Keeps F s0 (weirStep3 s p k w) := by
  unfold weirStep3
  try dsimp only
  repeat' first
    | with_reducible assumption
    | with_reducible apply Keeps.modSlot
    | with_reducible apply reportLead_keeps
    | with_reducible apply makeStale_keeps
    | (with_reducible apply Keeps.foldl; intro _ _ _)
    | split

theorem rebindScheds_keeps {F : Footprint} {s0 s : State} (hK : Keeps F s0 s) (p k : Nat) (x : Plain) (f_tiles : F.tiles = true := by assumption) :
    Keeps F s0 (rebindScheds s p k x) := by
  unfold rebindScheds
  try dsimp only
  repeat' first
    | with_reducible assumption
    | with_reducible apply Keeps.modTile
    | with_reducible apply modCtx_keeps
    | (with_reducible apply Keeps.foldl; intro _ _ _)
    | with_reducible refine Keeps.fst ?_ ‹_ = (_, _)›
    | split

theorem execSwap_keeps {F : Footprint} {s s' : State} (iss : Issuer) (cmd : List Byte) (now : Nat) (e : execSwap iss cmd now s = .next s') (f_cfg : F.cfg = true := by assumption) (f_time : F.time = true := by assumption) (f_log : F.log = true := by assumption) (f_mcEv : F.mcEv = true := by assumption) (f_dies : F.dies = true := by assumption) (f_fns : F.fns = true := by assumption) (f_engines : F.engines = true := by assumption) (f_parts : F.parts = true := by assumption) (f_nextOp : F.nextOp = true := by assumption) (f_out : F.out = true := by assumption) :
    Keeps F s s' := by
  unfold execSwap at e
  refine guarded_keeps ?_ e
  have hK := Keeps.refl F s
  try dsimp only
  repeat' first
    | with_reducible assumption
    | with_reducible apply Keeps.modSlot
    | with_reducible apply Keeps.setNow
    | with_reducible apply newOp_keeps
    | with_reducible apply pushJob_keeps
    | with_reducible apply endCmd_keeps
    | with_reducible apply runCmd_keeps
    | with_reducible apply refusalName_keeps
    | with_reducible refine Keeps.fst ?_ ‹_ = (_, _)›
    | intro _
    | split

theorem execWeirClose_keeps {F : Footprint} {s s' : State} (p slot now : Nat) (e : execWeirClose p slot now s = .next s') (f_time : F.time = true := by assumption) (f_parts : F.parts = true := by assumption) :
    Keeps F s s' := by
  unfold execWeirClose at e
  refine guarded_keeps ?_ e
  have hK := Keeps.refl F s
  try dsimp only
  repeat' first
    | with_reducible assumption
    | with_reducible apply Keeps.modSlot
    | with_reducible apply Keeps.setNow
    | with_reducible refine Keeps.fst ?_ ‹_ = (_, _)›
    | split

theorem execWeirDrainDone_keeps {F : Footprint} {s s' : State} (p slot now : Nat) (e : execWeirDrainDone p slot now s = .next s') (f_time : F.time = true := by assumption) (f_mcEv : F.mcEv = true := by assumption) (f_dies : F.dies = true := by assumption) (f_stackTab : F.stackTab = true := by assumption) (f_feedPorts : F.feedPorts = true := by assumption) (f_fns : F.fns = true := by assumption) (f_parts : F.parts = true := by assumption) (f_entries : F.entries = true := by assumption) (f_dram : F.dram = true := by assumption) (f_out : F.out = true := by assumption) (f_free : F.free = true := by assumption) :
    Keeps F s s' := by
  unfold execWeirDrainDone at e
  refine guarded_keeps ?_ e
  have hK := Keeps.refl F s
  try dsimp only
  repeat' first
    | with_reducible assumption
    | with_reducible apply Keeps.setNow
    | with_reducible apply weirStep3_keeps
    | with_reducible refine Keeps.fst ?_ ‹_ = (_, _)›
    | split

theorem execWeirRelease_keeps {F : Footprint} {s s' : State} (p slot now : Nat) (e : execWeirRelease p slot now s = .next s') (f_cfg : F.cfg = true := by assumption) (f_time : F.time = true := by assumption) (f_mcEv : F.mcEv = true := by assumption) (f_dies : F.dies = true := by assumption) (f_tiles : F.tiles = true := by assumption) (f_fns : F.fns = true := by assumption) (f_engines : F.engines = true := by assumption) (f_parts : F.parts = true := by assumption) (f_out : F.out = true := by assumption) :
    Keeps F s s' := by
  unfold execWeirRelease at e
  refine guarded_keeps ?_ e
  have hK := Keeps.refl F s
  try dsimp only
  repeat' first
    | with_reducible assumption
    | with_reducible apply Keeps.modSlot
    | with_reducible apply Keeps.setNow
    | with_reducible apply reportLead_keeps
    | with_reducible apply dropRepairs_keeps
    | with_reducible apply endOp_keeps
    | with_reducible apply rebindScheds_keeps
    | with_reducible refine Keeps.fst ?_ ‹_ = (_, _)›
    | split

end Sys2Proof.Machine
end

