-- ==== Sys2Proof/Laws/KeepsOpsReloc.lean ====
section
/-! SUPPORT. The operations of Machine/OpsReloc.lean have `Keeps`: one lemma each. -/

namespace Sys2Proof.Machine

set_option Elab.async false

theorem mapTiles_keeps {F : Footprint} {s0 s : State} (hK : Keeps F s0 s) (p : Nat) (ks : List Nat) (x0 : List Nat) (f_parts : F.parts = true := by assumption) :
    Keeps F s0 (mapTiles p ks x0 s).1 := by
  induction x0 generalizing p ks s with
  | nil => unfold mapTiles; exact hK
  | cons _ _ ih =>
    unfold mapTiles
    try dsimp only
    repeat' first
      | with_reducible assumption
      | with_reducible apply ih
      | with_reducible apply Keeps.modPart
      | with_reducible refine Keeps.fst ?_ ‹_ = (_, _)›
      | split

theorem supersedeSwap_keeps {F : Footprint} {s0 s : State} (hK : Keeps F s0 s) (p k : Nat) (f_mcEv : F.mcEv = true := by assumption) (f_dies : F.dies = true := by assumption) (f_stackTab : F.stackTab = true := by assumption) (f_feedPorts : F.feedPorts = true := by assumption) (f_fns : F.fns = true := by assumption) (f_engines : F.engines = true := by assumption) (f_parts : F.parts = true := by assumption) (f_entries : F.entries = true := by assumption) (f_dram : F.dram = true := by assumption) (f_out : F.out = true := by assumption) (f_free : F.free = true := by assumption) :
    Keeps F s0 (supersedeSwap s p k) := by
  unfold supersedeSwap
  try dsimp only
  repeat' first
    | with_reducible assumption
    | with_reducible apply Keeps.modSlot
    | with_reducible apply dropJob_keeps
    | with_reducible apply weirStep3_keeps
    | with_reducible refine Keeps.fst ?_ ‹_ = (_, _)›
    | split

theorem blockSlot_keeps {F : Footprint} {s0 s : State} (hK : Keeps F s0 s) (p k : Nat) (f_parts : F.parts = true := by assumption) :
    Keeps F s0 (blockSlot s p k) := by
  unfold blockSlot
  try dsimp only
  repeat' first
    | with_reducible assumption
    | with_reducible apply Keeps.modPart
    | with_reducible apply Keeps.modSlot

theorem placeAnew_keeps {F : Footprint} {s0 s : State} (hK : Keeps F s0 s) (p k : Nat) (old : ImgSlot) (f_dies : F.dies = true := by assumption) (f_tiles : F.tiles = true := by assumption) (f_engines : F.engines = true := by assumption) (f_parts : F.parts = true := by assumption) (f_nextOp : F.nextOp = true := by assumption) :
    Keeps F s0 (placeAnew s p k old) := by
  unfold placeAnew
  try dsimp only
  repeat' first
    | with_reducible assumption
    | with_reducible apply Keeps.modPart
    | with_reducible apply Keeps.modSlot
    | with_reducible apply newOp_keeps
    | with_reducible apply pushJob_keeps
    | with_reducible apply takeLevel_keeps
    | with_reducible apply blockSlot_keeps
    | with_reducible refine Keeps.fst ?_ ‹_ = (_, _)›
    | split

theorem fmResult_keeps {F : Footprint} {s0 s : State} (hK : Keeps F s0 s) (reason : Nat) (f_fm : F.fm = true := by assumption) :
    Keeps F s0 (fmResult s reason) := by
  unfold fmResult
  try dsimp only
  repeat' first
    | with_reducible assumption
    | split
    | dsimp only
    | with_reducible refine Keeps.upd ?_

theorem relocatePart_keeps {F : Footprint} {s0 s : State} (hK : Keeps F s0 s) (p : Nat) (f_fm : F.fm = true := by assumption) (f_mcEv : F.mcEv = true := by assumption) (f_dies : F.dies = true := by assumption) (f_tiles : F.tiles = true := by assumption) (f_stackTab : F.stackTab = true := by assumption) (f_feedPorts : F.feedPorts = true := by assumption) (f_fns : F.fns = true := by assumption) (f_engines : F.engines = true := by assumption) (f_parts : F.parts = true := by assumption) (f_entries : F.entries = true := by assumption) (f_dram : F.dram = true := by assumption) (f_nextOp : F.nextOp = true := by assumption) (f_out : F.out = true := by assumption) (f_free : F.free = true := by assumption) :
    Keeps F s0 (relocatePart s p) := by
  unfold relocatePart
  try dsimp only
  repeat' first
    | with_reducible assumption
    | with_reducible apply Keeps.modPart
    | with_reducible apply Keeps.modSlot
    | with_reducible apply report_keeps
    | with_reducible apply freeLevel_keeps
    | with_reducible apply dropJob_keeps
    | with_reducible apply sendNotice_keeps
    | with_reducible apply mapTiles_keeps
    | with_reducible apply supersedeSwap_keeps
    | with_reducible apply blockSlot_keeps
    | with_reducible apply placeAnew_keeps
    | with_reducible apply fmResult_keeps
    | (with_reducible apply Keeps.foldl; intro _ _ _)
    | with_reducible refine Keeps.fst ?_ ‹_ = (_, _)›
    | split
    | dsimp only
    | with_reducible refine Keeps.upd ?_

theorem startReloc_keeps {F : Footprint} {s0 s : State} (hK : Keeps F s0 s) (p : Nat) (f_cfg : F.cfg = true := by assumption) (f_fm : F.fm = true := by assumption) (f_mcEv : F.mcEv = true := by assumption) (f_dies : F.dies = true := by assumption) (f_tiles : F.tiles = true := by assumption) (f_stackTab : F.stackTab = true := by assumption) (f_feedPorts : F.feedPorts = true := by assumption) (f_fns : F.fns = true := by assumption) (f_engines : F.engines = true := by assumption) (f_parts : F.parts = true := by assumption) (f_entries : F.entries = true := by assumption) (f_dram : F.dram = true := by assumption) (f_out : F.out = true := by assumption) (f_free : F.free = true := by assumption) :
    Keeps F s0 (startReloc s p) := by
  unfold startReloc
  try dsimp only
  repeat' first
    | with_reducible assumption
    | with_reducible apply Keeps.modPart
    | with_reducible apply queueReloc_keeps
    | with_reducible apply resetStart_keeps
    | split

theorem resetDisable_keeps {F : Footprint} {s0 s : State} (hK : Keeps F s0 s) (p cause reason : Nat) (f_cfg : F.cfg = true := by assumption) (f_fm : F.fm = true := by assumption) (f_mcEv : F.mcEv = true := by assumption) (f_dies : F.dies = true := by assumption) (f_tiles : F.tiles = true := by assumption) (f_stackTab : F.stackTab = true := by assumption) (f_feedPorts : F.feedPorts = true := by assumption) (f_fns : F.fns = true := by assumption) (f_engines : F.engines = true := by assumption) (f_parts : F.parts = true := by assumption) (f_entries : F.entries = true := by assumption) (f_dram : F.dram = true := by assumption) (f_out : F.out = true := by assumption) (f_free : F.free = true := by assumption) :
    Keeps F s0 (resetDisable s p cause reason) := by
  unfold resetDisable
  try dsimp only
  repeat' first
    | with_reducible assumption
    | with_reducible apply Keeps.modPart
    | with_reducible apply resetStart_keeps

theorem loseGranule_keeps {F : Footprint} {s0 s : State} (hK : Keeps F s0 s) (p : Nat) (g : Granule) (f_cfg : F.cfg = true := by assumption) (f_fm : F.fm = true := by assumption) (f_mcEv : F.mcEv = true := by assumption) (f_dies : F.dies = true := by assumption) (f_tiles : F.tiles = true := by assumption) (f_stackTab : F.stackTab = true := by assumption) (f_feedPorts : F.feedPorts = true := by assumption) (f_fns : F.fns = true := by assumption) (f_engines : F.engines = true := by assumption) (f_parts : F.parts = true := by assumption) (f_entries : F.entries = true := by assumption) (f_dram : F.dram = true := by assumption) (f_out : F.out = true := by assumption) (f_free : F.free = true := by assumption) :
    Keeps F s0 (loseGranule s p g) := by
  unfold loseGranule
  try dsimp only
  repeat' first
    | with_reducible assumption
    | with_reducible apply Keeps.modPart
    | with_reducible apply Keeps.modSlot
    | with_reducible apply modPool_keeps
    | with_reducible apply checkLow_keeps
    | with_reducible apply poisonStripe_keeps
    | with_reducible apply failFrom_keeps
    | with_reducible apply endOp_keeps
    | with_reducible apply dropJob_keeps
    | with_reducible apply makeStale_keeps
    | with_reducible apply startReloc_keeps
    | with_reducible apply resetDisable_keeps
    | (with_reducible apply Keeps.foldl; intro _ _ _)
    | with_reducible refine Keeps.fst ?_ ‹_ = (_, _)›
    | split

theorem retirePair_keeps {F : Footprint} {s0 s : State} (hK : Keeps F s0 s) (stack pair : Nat) (f_cfg : F.cfg = true := by assumption) (f_fm : F.fm = true := by assumption) (f_mcEv : F.mcEv = true := by assumption) (f_dies : F.dies = true := by assumption) (f_tiles : F.tiles = true := by assumption) (f_stackTab : F.stackTab = true := by assumption) (f_feedPorts : F.feedPorts = true := by assumption) (f_fns : F.fns = true := by assumption) (f_engines : F.engines = true := by assumption) (f_parts : F.parts = true := by assumption) (f_entries : F.entries = true := by assumption) (f_dram : F.dram = true := by assumption) (f_out : F.out = true := by assumption) (f_free : F.free = true := by assumption) :
    Keeps F s0 (retirePair s stack pair) := by
  unfold retirePair
  try dsimp only
  repeat' first
    | with_reducible assumption
    | with_reducible apply Keeps.modStack
    | with_reducible apply report_keeps
    | with_reducible apply sendNotice_keeps
    | with_reducible apply loseGranule_keeps
    | (with_reducible apply Keeps.foldl; intro _ _ _)
    | split

theorem unreachable_keeps {F : Footprint} {s0 s : State} (hK : Keeps F s0 s) (p : Nat) (f_mcEv : F.mcEv = true := by assumption) (f_dies : F.dies = true := by assumption) (f_tiles : F.tiles = true := by assumption) (f_stackTab : F.stackTab = true := by assumption) (f_feedPorts : F.feedPorts = true := by assumption) (f_fns : F.fns = true := by assumption) (f_parts : F.parts = true := by assumption) (f_entries : F.entries = true := by assumption) (f_dram : F.dram = true := by assumption) (f_out : F.out = true := by assumption) (f_free : F.free = true := by assumption) :
    Keeps F s0 (unreachable s p) := by
  unfold unreachable
  try dsimp only
  repeat' first
    | with_reducible assumption
    | with_reducible apply Keeps.modPart
    | with_reducible apply Keeps.modFn
    | with_reducible apply setEvt_keeps
    | with_reducible apply discardPasses_keeps
    | with_reducible refine Keeps.fst ?_ ‹_ = (_, _)›
    | split

theorem fenceDie_keeps {F : Footprint} {s0 s : State} (hK : Keeps F s0 s) (d : Nat) (f_dies : F.dies = true := by assumption) (f_tiles : F.tiles = true := by assumption) :
    Keeps F s0 (fenceDie s d) := by
  unfold fenceDie
  try dsimp only
  repeat' first
    | with_reducible assumption
    | with_reducible apply Keeps.modTile
    | with_reducible apply modAe_keeps
    | (with_reducible apply Keeps.foldl; intro _ _ _)

theorem retireDie_keeps {F : Footprint} {s0 s : State} (hK : Keeps F s0 s) (d : Nat) (dark : Bool) (reason : Nat) (f_cfg : F.cfg = true := by assumption) (f_fm : F.fm = true := by assumption) (f_mcEv : F.mcEv = true := by assumption) (f_dies : F.dies = true := by assumption) (f_tiles : F.tiles = true := by assumption) (f_stackTab : F.stackTab = true := by assumption) (f_feedPorts : F.feedPorts = true := by assumption) (f_fns : F.fns = true := by assumption) (f_engines : F.engines = true := by assumption) (f_parts : F.parts = true := by assumption) (f_entries : F.entries = true := by assumption) (f_dram : F.dram = true := by assumption) (f_xfers : F.xfers = true := by assumption) (f_out : F.out = true := by assumption) (f_free : F.free = true := by assumption) :
    Keeps F s0 (retireDie s d dark reason) := by
  unfold retireDie
  try dsimp only
  repeat' first
    | with_reducible assumption
    | with_reducible apply Keeps.modDie
    | with_reducible apply Keeps.modStack
    | with_reducible apply report_keeps
    | with_reducible apply linkDown_keeps
    | with_reducible apply sendNotice_keeps
    | with_reducible apply startReloc_keeps
    | with_reducible apply retirePair_keeps
    | with_reducible apply unreachable_keeps
    | with_reducible apply fenceDie_keeps
    | (with_reducible apply Keeps.foldl; intro _ _ _)
    | with_reducible refine Keeps.fst ?_ ‹_ = (_, _)›
    | split

end Sys2Proof.Machine
end

