-- ==== Sys2Proof/Laws/KeepsOpsCfg.lean ====
section
/-! SUPPORT. The operations of Machine/OpsCfg.lean have `Keeps`: one lemma each. -/

namespace Sys2Proof.Machine

set_option Elab.async false

theorem cfgRefuse_keeps {F : Footprint} {s0 s : State} (hK : Keeps F s0 s) (r : Option Reply) (action reason : Nat) (f_cfg : F.cfg = true := by assumption) (f_out : F.out = true := by assumption) :
    Keeps F s0 (cfgRefuse s r action reason) := by
  unfold cfgRefuse
  try dsimp only
  repeat' first
    | with_reducible assumption
    | with_reducible apply fleshaReply_keeps
    | with_reducible refine Keeps.fst ?_ ‹_ = (_, _)›
    | split
    | dsimp only
    | with_reducible refine Keeps.upd ?_

theorem cfgEnd_keeps {F : Footprint} {s0 s : State} (hK : Keeps F s0 s) (reason : Nat) (f_cfg : F.cfg = true := by assumption) (f_out : F.out = true := by assumption) :
    Keeps F s0 (cfgEnd s reason) := by
  unfold cfgEnd
  try dsimp only
  repeat' first
    | with_reducible assumption
    | with_reducible apply cfgRefuse_keeps
    | with_reducible refine Keeps.fst ?_ ‹_ = (_, _)›
    | split
    | dsimp only
    | with_reducible refine Keeps.upd ?_

theorem cfgBegin_keeps {F : Footprint} {s0 s : State} (hK : Keeps F s0 s) (c : CfgCmd) (f_cfg : F.cfg = true := by assumption) :
    Keeps F s0 (cfgBegin s c) := by
  unfold cfgBegin
  try dsimp only
  repeat' first
    | with_reducible assumption
    | split
    | dsimp only
    | with_reducible refine Keeps.upd ?_

theorem bindingEvt_keeps {F : Footprint} {s0 s : State} (hK : Keeps F s0 s) (f : Option Nat) (f_fns : F.fns = true := by assumption) (f_out : F.out = true := by assumption) :
    Keeps F s0 (bindingEvt s f) := by
  unfold bindingEvt
  try dsimp only
  repeat' first
    | with_reducible assumption
    | with_reducible apply setEvt_keeps
    | with_reducible refine Keeps.fst ?_ ‹_ = (_, _)›
    | split

theorem restartDone_keeps {F : Footprint} {s0 s : State} (hK : Keeps F s0 s) (p gen : Nat) (f_cfg : F.cfg = true := by assumption) (f_mcEv : F.mcEv = true := by assumption) (f_dies : F.dies = true := by assumption) (f_out : F.out = true := by assumption) :
    Keeps F s0 (restartDone s p gen) := by
  unfold restartDone
  try dsimp only
  repeat' first
    | with_reducible assumption
    | with_reducible apply report_keeps
    | with_reducible apply cfgEnd_keeps
    | split
    | dsimp only
    | with_reducible refine Keeps.upd ?_

theorem restartPut_keeps {F : Footprint} {s0 s : State} (hK : Keeps F s0 s) (p : Nat) (c : PartCfg) (gen : Nat) (f_mcEv : F.mcEv = true := by assumption) (f_dies : F.dies = true := by assumption) (f_feedIods : F.feedIods = true := by assumption) (f_fns : F.fns = true := by assumption) (f_parts : F.parts = true := by assumption) (f_out : F.out = true := by assumption) :
    Keeps F s0 (restartPut s p c gen) := by
  unfold restartPut
  try dsimp only
  repeat' first
    | with_reducible assumption
    | with_reducible apply Keeps.modPart
    | with_reducible apply unbindPart_keeps
    | with_reducible apply putSection_keeps
    | with_reducible apply bindingEvt_keeps
    | split

theorem restartApply_keeps {F : Footprint} {s0 s : State} (hK : Keeps F s0 s) (p : Nat) (new : Option PartCfg) (gen : Nat) (f_cfg : F.cfg = true := by assumption) (f_fm : F.fm = true := by assumption) (f_mcEv : F.mcEv = true := by assumption) (f_dies : F.dies = true := by assumption) (f_tiles : F.tiles = true := by assumption) (f_feedIods : F.feedIods = true := by assumption) (f_fns : F.fns = true := by assumption) (f_engines : F.engines = true := by assumption) (f_parts : F.parts = true := by assumption) (f_entries : F.entries = true := by assumption) (f_nextOp : F.nextOp = true := by assumption) (f_out : F.out = true := by assumption) :
    Keeps F s0 (restartApply s p new gen) := by
  unfold restartApply
  try dsimp only
  repeat' first
    | with_reducible assumption
    | with_reducible apply Keeps.modPart
    | with_reducible apply partCfgRefused_keeps
    | with_reducible apply disablePart_keeps
    | with_reducible apply partRuns_keeps
    | with_reducible apply startLoads_keeps
    | with_reducible apply cfgEnd_keeps
    | with_reducible apply bindingEvt_keeps
    | with_reducible apply restartDone_keeps
    | with_reducible apply restartPut_keeps
    | with_reducible refine Keeps.fst ?_ ‹_ = (_, _)›
    | split

theorem restartFail_keeps {F : Footprint} {s0 s : State} (hK : Keeps F s0 s) (p reason : Nat) (f_cfg : F.cfg = true := by assumption) (f_parts : F.parts = true := by assumption) (f_out : F.out = true := by assumption) :
    Keeps F s0 (restartFail s p reason) := by
  unfold restartFail
  try dsimp only
  repeat' first
    | with_reducible assumption
    | with_reducible apply Keeps.modPart
    | with_reducible apply cfgEnd_keeps

theorem restartBegin_keeps {F : Footprint} {s0 s : State} (hK : Keeps F s0 s) (p : Nat) (r : Option Reply) (f_cfg : F.cfg = true := by assumption) (f_fm : F.fm = true := by assumption) (f_mcEv : F.mcEv = true := by assumption) (f_dies : F.dies = true := by assumption) (f_tiles : F.tiles = true := by assumption) (f_stackTab : F.stackTab = true := by assumption) (f_feedPorts : F.feedPorts = true := by assumption) (f_feedIods : F.feedIods = true := by assumption) (f_fns : F.fns = true := by assumption) (f_engines : F.engines = true := by assumption) (f_parts : F.parts = true := by assumption) (f_entries : F.entries = true := by assumption) (f_dram : F.dram = true := by assumption) (f_nextOp : F.nextOp = true := by assumption) (f_out : F.out = true := by assumption) (f_free : F.free = true := by assumption) :
    Keeps F s0 (restartBegin s p r) := by
  unfold restartBegin
  try dsimp only
  repeat' first
    | with_reducible assumption
    | with_reducible apply Keeps.modPart
    | with_reducible apply resetStart_keeps
    | with_reducible apply cfgRefuse_keeps
    | with_reducible apply cfgBegin_keeps
    | with_reducible apply restartApply_keeps
    | with_reducible apply restartFail_keeps
    | with_reducible refine Keeps.fst ?_ ‹_ = (_, _)›
    | split

theorem ownersBegin_keeps {F : Footprint} {s0 s : State} (hK : Keeps F s0 s) (r : Option Reply) (f_cfg : F.cfg = true := by assumption) (f_out : F.out = true := by assumption) :
    Keeps F s0 (ownersBegin s r) := by
  unfold ownersBegin
  try dsimp only
  repeat' first
    | with_reducible assumption
    | with_reducible apply cfgRefuse_keeps
    | with_reducible refine Keeps.fst ?_ ‹_ = (_, _)›
    | split
    | dsimp only
    | with_reducible refine Keeps.upd ?_

theorem writeBegin_keeps {F : Footprint} {s0 s : State} (hK : Keeps F s0 s) (image : List Byte) (f_cfg : F.cfg = true := by assumption) :
    Keeps F s0 (writeBegin s image).1 := by
  unfold writeBegin
  try dsimp only
  repeat' first
    | with_reducible assumption
    | split
    | dsimp only
    | with_reducible refine Keeps.upd ?_

theorem writeStep_keeps {F : Footprint} {s0 s : State} (hK : Keeps F s0 s) (readback : List Byte) (f_cfg : F.cfg = true := by assumption) :
    Keeps F s0 (writeStep s readback) := by
  unfold writeStep
  try dsimp only
  repeat' first
    | with_reducible assumption
    | with_reducible refine Keeps.fst ?_ ‹_ = (_, _)›
    | split
    | dsimp only
    | with_reducible refine Keeps.upd ?_

theorem writeData_keeps {F : Footprint} {s0 s : State} (hK : Keeps F s0 s) (src : Requester) (off : Nat) (bytes : List Byte) (f_cfg : F.cfg = true := by assumption) :
    Keeps F s0 (writeData s src off bytes).1 := by
  unfold writeData
  try dsimp only
  repeat' first
    | with_reducible assumption
    | split
    | dsimp only
    | with_reducible refine Keeps.upd ?_

theorem writeFinal_keeps {F : Footprint} {s0 s : State} (hK : Keeps F s0 s) (f_cfg : F.cfg = true := by assumption) :
    Keeps F s0 (writeFinal s).1 := by
  unfold writeFinal
  try dsimp only
  repeat' first
    | with_reducible assumption
    | with_reducible apply writeBegin_keeps
    | split
    | dsimp only
    | with_reducible refine Keeps.upd ?_

theorem fleshaIn_keeps {F : Footprint} {s0 s : State} (hK : Keeps F s0 s) (port addr udp op : Nat) (msg : List Byte) (f_cfg : F.cfg = true := by assumption) (f_log : F.log = true := by assumption) (f_mcEv : F.mcEv = true := by assumption) (f_dies : F.dies = true := by assumption) (f_out : F.out = true := by assumption) :
    Keeps F s0 (fleshaIn s port addr udp op msg).1 := by
  unfold fleshaIn
  try dsimp only
  repeat' first
    | with_reducible assumption
    | with_reducible apply fleshaReply_keeps
    | with_reducible apply fleshaAccept_keeps
    | with_reducible refine Keeps.fst ?_ ‹_ = (_, _)›
    | split

theorem cfgSource_keeps {F : Footprint} {s0 s : State} (hK : Keeps F s0 s) (src : CmdSrc) (action : Nat) (p : Option Nat) (reach : State → Requester → Bool) (f : State → Option Reply → State) (hf : ∀ a0 a1, Keeps F s0 a0 → Keeps F s0 (f a0 a1)) (f_cfg : F.cfg = true := by assumption) (f_log : F.log = true := by assumption) (f_mcEv : F.mcEv = true := by assumption) (f_dies : F.dies = true := by assumption) (f_out : F.out = true := by assumption) :
    Keeps F s0 (cfgSource s src action p reach f) := by
  unfold cfgSource
  try dsimp only
  repeat' first
    | with_reducible assumption
    | with_reducible apply fleshaReply_keeps
    | with_reducible apply fleshaIn_keeps
    | with_reducible apply hf
    | with_reducible refine Keeps.fst ?_ ‹_ = (_, _)›
    | split

end Sys2Proof.Machine
end

