-- ==== Sys2Proof/Laws/KeepsRecovery.lean ====
section
/-! SUPPORT. The operations of Machine/Recovery.lean have `Keeps`: one lemma each. -/

namespace Sys2Proof.Machine

set_option Elab.async false

theorem afterReset_keeps {F : Footprint} {s0 s : State} (hK : Keeps F s0 s) (p us : Nat) (f_cfg : F.cfg = true := by assumption) (f_fm : F.fm = true := by assumption) (f_mcEv : F.mcEv = true := by assumption) (f_dies : F.dies = true := by assumption) (f_tiles : F.tiles = true := by assumption) (f_feedIods : F.feedIods = true := by assumption) (f_fns : F.fns = true := by assumption) (f_engines : F.engines = true := by assumption) (f_parts : F.parts = true := by assumption) (f_entries : F.entries = true := by assumption) (f_nextOp : F.nextOp = true := by assumption) (f_out : F.out = true := by assumption) :
    Keeps F s0 (afterReset s p us) := by
  unfold afterReset
  try dsimp only
  repeat' first
    | with_reducible assumption
    | with_reducible apply Keeps.modPart
    | with_reducible apply report_keeps
    | with_reducible apply rulesOn_keeps
    | with_reducible apply disablePart_keeps
    | with_reducible apply partRuns_keeps
    | with_reducible apply restartApply_keeps
    | with_reducible refine Keeps.fst ?_ ‹_ = (_, _)›
    | split

theorem ackNotice_keeps {F : Footprint} {s0 s : State} (hK : Keeps F s0 s) (n : Notice) (die : Nat) (f_fm : F.fm = true := by assumption) (f_dies : F.dies = true := by assumption) (f_tiles : F.tiles = true := by assumption) (f_xfers : F.xfers = true := by assumption) (f_releases : F.releases = true := by assumption) :
    Keeps F s0 (ackNotice s n die) := by
  unfold ackNotice
  try dsimp only
  repeat' first
    | with_reducible assumption
    | with_reducible apply abandonDie_keeps
    | with_reducible refine Keeps.fst ?_ ‹_ = (_, _)›
    | split
    | dsimp only
    | with_reducible refine Keeps.upd ?_

theorem fmDie_keeps {F : Footprint} {s0 s : State} (hK : Keeps F s0 s) (die : Nat) (dark : Bool) (f_cfg : F.cfg = true := by assumption) (f_fm : F.fm = true := by assumption) (f_mcEv : F.mcEv = true := by assumption) (f_dies : F.dies = true := by assumption) (f_tiles : F.tiles = true := by assumption) (f_stackTab : F.stackTab = true := by assumption) (f_feedPorts : F.feedPorts = true := by assumption) (f_fns : F.fns = true := by assumption) (f_engines : F.engines = true := by assumption) (f_parts : F.parts = true := by assumption) (f_entries : F.entries = true := by assumption) (f_dram : F.dram = true := by assumption) (f_xfers : F.xfers = true := by assumption) (f_out : F.out = true := by assumption) (f_free : F.free = true := by assumption) :
    Keeps F s0 (fmDie s die dark) := by
  unfold fmDie
  try dsimp only
  repeat' first
    | with_reducible assumption
    | with_reducible apply fmResult_keeps
    | with_reducible apply retireDie_keeps
    | split

theorem fmChannel_keeps {F : Footprint} {s0 s : State} (hK : Keeps F s0 s) (stack ch : Nat) (f_cfg : F.cfg = true := by assumption) (f_fm : F.fm = true := by assumption) (f_mcEv : F.mcEv = true := by assumption) (f_dies : F.dies = true := by assumption) (f_tiles : F.tiles = true := by assumption) (f_stackTab : F.stackTab = true := by assumption) (f_feedPorts : F.feedPorts = true := by assumption) (f_fns : F.fns = true := by assumption) (f_engines : F.engines = true := by assumption) (f_parts : F.parts = true := by assumption) (f_entries : F.entries = true := by assumption) (f_dram : F.dram = true := by assumption) (f_out : F.out = true := by assumption) (f_free : F.free = true := by assumption) :
    Keeps F s0 (fmChannel s stack ch) := by
  unfold fmChannel
  try dsimp only
  repeat' first
    | with_reducible assumption
    | with_reducible apply fmResult_keeps
    | with_reducible apply retirePair_keeps
    | split

theorem watchPart_keeps {F : Footprint} {s0 s : State} (hK : Keeps F s0 s) (p : Nat) (f_cfg : F.cfg = true := by assumption) (f_fm : F.fm = true := by assumption) (f_mcEv : F.mcEv = true := by assumption) (f_dies : F.dies = true := by assumption) (f_tiles : F.tiles = true := by assumption) (f_stackTab : F.stackTab = true := by assumption) (f_feedPorts : F.feedPorts = true := by assumption) (f_fns : F.fns = true := by assumption) (f_engines : F.engines = true := by assumption) (f_parts : F.parts = true := by assumption) (f_entries : F.entries = true := by assumption) (f_dram : F.dram = true := by assumption) (f_out : F.out = true := by assumption) (f_free : F.free = true := by assumption) :
    Keeps F s0 (watchPart s p) := by
  unfold watchPart
  try dsimp only
  repeat' first
    | with_reducible assumption
    | with_reducible apply Keeps.modPart
    | with_reducible apply report_keeps
    | with_reducible apply progress_keeps
    | with_reducible apply fencePart_keeps
    | with_reducible apply resetStart_keeps
    | with_reducible refine Keeps.fst ?_ ‹_ = (_, _)›
    | split

theorem failoverSwap_keeps {F : Footprint} {s0 s : State} (hK : Keeps F s0 s) (p k : Nat) (f_parts : F.parts = true := by assumption) :
    Keeps F s0 (failoverSwap s p k) := by
  unfold failoverSwap
  try dsimp only
  repeat' first
    | with_reducible assumption
    | with_reducible apply Keeps.modSlot
    | with_reducible refine Keeps.fst ?_ ‹_ = (_, _)›
    | split

theorem failover_keeps {F : Footprint} {s0 s : State} (hK : Keeps F s0 s) (f_cfg : F.cfg = true := by assumption) (f_log : F.log = true := by assumption) (f_fm : F.fm = true := by assumption) (f_mcEv : F.mcEv = true := by assumption) (f_dies : F.dies = true := by assumption) (f_fns : F.fns = true := by assumption) (f_reservoirs : F.reservoirs = true := by assumption) (f_engines : F.engines = true := by assumption) (f_parts : F.parts = true := by assumption) (f_out : F.out = true := by assumption) (f_free : F.free = true := by assumption) :
    Keeps F s0 (failover s) := by
  unfold failover
  try dsimp only
  repeat' first
    | with_reducible assumption
    | with_reducible apply report_keeps
    | with_reducible apply failInstall_keeps
    | with_reducible apply openReason_keeps
    | with_reducible apply failoverSwap_keeps
    | (with_reducible apply Keeps.foldl; intro _ _ _)
    | split
    | dsimp only
    | with_reducible refine Keeps.upd ?_

theorem execPartResetStart_keeps {F : Footprint} {s s' : State} (p cause now : Nat) (e : execPartResetStart p cause now s = .next s') (f_cfg : F.cfg = true := by assumption) (f_time : F.time = true := by assumption) (f_fm : F.fm = true := by assumption) (f_mcEv : F.mcEv = true := by assumption) (f_dies : F.dies = true := by assumption) (f_tiles : F.tiles = true := by assumption) (f_stackTab : F.stackTab = true := by assumption) (f_feedPorts : F.feedPorts = true := by assumption) (f_fns : F.fns = true := by assumption) (f_engines : F.engines = true := by assumption) (f_parts : F.parts = true := by assumption) (f_entries : F.entries = true := by assumption) (f_dram : F.dram = true := by assumption) (f_out : F.out = true := by assumption) (f_free : F.free = true := by assumption) :
    Keeps F s s' := by
  unfold execPartResetStart at e
  refine guarded_keeps ?_ e
  have hK := Keeps.refl F s
  try dsimp only
  repeat' first
    | with_reducible assumption
    | with_reducible apply Keeps.setNow
    | with_reducible apply resetStart_keeps
    | split

theorem execPartResetFinish_keeps {F : Footprint} {s s' : State} (p : Nat) (failedTarns : List (Nat × Nat)) (us now : Nat) (e : execPartResetFinish p failedTarns us now s = .next s') (f_cfg : F.cfg = true := by assumption) (f_time : F.time = true := by assumption) (f_fm : F.fm = true := by assumption) (f_mcEv : F.mcEv = true := by assumption) (f_dies : F.dies = true := by assumption) (f_tiles : F.tiles = true := by assumption) (f_stackTab : F.stackTab = true := by assumption) (f_feedPorts : F.feedPorts = true := by assumption) (f_feedIods : F.feedIods = true := by assumption) (f_fns : F.fns = true := by assumption) (f_engines : F.engines = true := by assumption) (f_parts : F.parts = true := by assumption) (f_entries : F.entries = true := by assumption) (f_dram : F.dram = true := by assumption) (f_nextOp : F.nextOp = true := by assumption) (f_out : F.out = true := by assumption) (f_free : F.free = true := by assumption) :
    Keeps F s s' := by
  unfold execPartResetFinish at e
  refine guarded_keeps ?_ e
  have hK := Keeps.refl F s
  try dsimp only
  repeat' first
    | with_reducible assumption
    | with_reducible apply Keeps.setNow
    | with_reducible apply zeroisePart_keeps
    | with_reducible apply scanFail_keeps
    | with_reducible apply resetEnd_keeps
    | with_reducible apply afterReset_keeps
    | (with_reducible apply Keeps.foldl; intro _ _ _)
    | split

theorem execPtReset_keeps {F : Footprint} {s s' : State} (req : Requester) (now : Nat) (e : execPtReset req now s = .next s') (f_cfg : F.cfg = true := by assumption) (f_time : F.time = true := by assumption) (f_fm : F.fm = true := by assumption) (f_mcEv : F.mcEv = true := by assumption) (f_dies : F.dies = true := by assumption) (f_tiles : F.tiles = true := by assumption) (f_stackTab : F.stackTab = true := by assumption) (f_feedPorts : F.feedPorts = true := by assumption) (f_fns : F.fns = true := by assumption) (f_engines : F.engines = true := by assumption) (f_parts : F.parts = true := by assumption) (f_entries : F.entries = true := by assumption) (f_dram : F.dram = true := by assumption) (f_out : F.out = true := by assumption) (f_free : F.free = true := by assumption) :
    Keeps F s s' := by
  unfold execPtReset at e
  refine guarded_keeps ?_ e
  have hK := Keeps.refl F s
  try dsimp only
  repeat' first
    | with_reducible assumption
    | with_reducible apply Keeps.setNow
    | with_reducible apply resetStart_keeps
    | split

theorem execPtFence_keeps {F : Footprint} {s s' : State} (req : Requester) (now : Nat) (e : execPtFence req now s = .next s') (f_time : F.time = true := by assumption) (f_fm : F.fm = true := by assumption) (f_parts : F.parts = true := by assumption) :
    Keeps F s s' := by
  unfold execPtFence at e
  refine guarded_keeps ?_ e
  have hK := Keeps.refl F s
  try dsimp only
  repeat' first
    | with_reducible assumption
    | with_reducible apply Keeps.setNow
    | with_reducible apply fencePart_keeps
    | split

theorem execNoticeAck_keeps {F : Footprint} {s s' : State} (notice die now : Nat) (e : execNoticeAck notice die now s = .next s') (f_time : F.time = true := by assumption) (f_fm : F.fm = true := by assumption) (f_dies : F.dies = true := by assumption) (f_tiles : F.tiles = true := by assumption) (f_xfers : F.xfers = true := by assumption) (f_releases : F.releases = true := by assumption) :
    Keeps F s s' := by
  unfold execNoticeAck at e
  refine guarded_keeps ?_ e
  have hK := Keeps.refl F s
  try dsimp only
  repeat' first
    | with_reducible assumption
    | with_reducible apply Keeps.setNow
    | with_reducible apply ackNotice_keeps
    | with_reducible refine Keeps.fst ?_ ‹_ = (_, _)›
    | split

theorem execNoticeAckTimeout_keeps {F : Footprint} {s s' : State} (notice die now : Nat) (e : execNoticeAckTimeout notice die now s = .next s') (f_cfg : F.cfg = true := by assumption) (f_time : F.time = true := by assumption) (f_fm : F.fm = true := by assumption) (f_mcEv : F.mcEv = true := by assumption) (f_dies : F.dies = true := by assumption) (f_tiles : F.tiles = true := by assumption) (f_stackTab : F.stackTab = true := by assumption) (f_feedPorts : F.feedPorts = true := by assumption) (f_fns : F.fns = true := by assumption) (f_engines : F.engines = true := by assumption) (f_parts : F.parts = true := by assumption) (f_entries : F.entries = true := by assumption) (f_dram : F.dram = true := by assumption) (f_xfers : F.xfers = true := by assumption) (f_releases : F.releases = true := by assumption) (f_out : F.out = true := by assumption) (f_free : F.free = true := by assumption) :
    Keeps F s s' := by
  unfold execNoticeAckTimeout at e
  refine guarded_keeps ?_ e
  have hK := Keeps.refl F s
  try dsimp only
  repeat' first
    | with_reducible assumption
    | with_reducible apply Keeps.setNow
    | with_reducible apply retireDie_keeps
    | with_reducible apply ackNotice_keeps
    | with_reducible refine Keeps.fst ?_ ‹_ = (_, _)›
    | split

theorem execFmComputeRetire_keeps {F : Footprint} {s s' : State} (req : Requester) (die : Nat) (transitOk : Bool) (now : Nat) (e : execFmComputeRetire req die transitOk now s = .next s') (f_cfg : F.cfg = true := by assumption) (f_time : F.time = true := by assumption) (f_fm : F.fm = true := by assumption) (f_mcEv : F.mcEv = true := by assumption) (f_dies : F.dies = true := by assumption) (f_tiles : F.tiles = true := by assumption) (f_stackTab : F.stackTab = true := by assumption) (f_feedPorts : F.feedPorts = true := by assumption) (f_fns : F.fns = true := by assumption) (f_engines : F.engines = true := by assumption) (f_parts : F.parts = true := by assumption) (f_entries : F.entries = true := by assumption) (f_dram : F.dram = true := by assumption) (f_xfers : F.xfers = true := by assumption) (f_out : F.out = true := by assumption) (f_free : F.free = true := by assumption) :
    Keeps F s s' := by
  unfold execFmComputeRetire at e
  refine guarded_keeps ?_ e
  have hK := Keeps.refl F s
  try dsimp only
  repeat' first
    | with_reducible assumption
    | with_reducible apply Keeps.setNow
    | with_reducible apply fmDie_keeps
    | split

theorem execFmDarkRetire_keeps {F : Footprint} {s s' : State} (req : Requester) (die now : Nat) (e : execFmDarkRetire req die now s = .next s') (f_cfg : F.cfg = true := by assumption) (f_time : F.time = true := by assumption) (f_fm : F.fm = true := by assumption) (f_mcEv : F.mcEv = true := by assumption) (f_dies : F.dies = true := by assumption) (f_tiles : F.tiles = true := by assumption) (f_stackTab : F.stackTab = true := by assumption) (f_feedPorts : F.feedPorts = true := by assumption) (f_fns : F.fns = true := by assumption) (f_engines : F.engines = true := by assumption) (f_parts : F.parts = true := by assumption) (f_entries : F.entries = true := by assumption) (f_dram : F.dram = true := by assumption) (f_xfers : F.xfers = true := by assumption) (f_out : F.out = true := by assumption) (f_free : F.free = true := by assumption) :
    Keeps F s s' := by
  unfold execFmDarkRetire at e
  refine guarded_keeps ?_ e
  have hK := Keeps.refl F s
  try dsimp only
  repeat' first
    | with_reducible assumption
    | with_reducible apply Keeps.setNow
    | with_reducible apply fmDie_keeps
    | split

theorem execFmRetireChannel_keeps {F : Footprint} {s s' : State} (req : Requester) (stack ch now : Nat) (e : execFmRetireChannel req stack ch now s = .next s') (f_cfg : F.cfg = true := by assumption) (f_time : F.time = true := by assumption) (f_fm : F.fm = true := by assumption) (f_mcEv : F.mcEv = true := by assumption) (f_dies : F.dies = true := by assumption) (f_tiles : F.tiles = true := by assumption) (f_stackTab : F.stackTab = true := by assumption) (f_feedPorts : F.feedPorts = true := by assumption) (f_fns : F.fns = true := by assumption) (f_engines : F.engines = true := by assumption) (f_parts : F.parts = true := by assumption) (f_entries : F.entries = true := by assumption) (f_dram : F.dram = true := by assumption) (f_out : F.out = true := by assumption) (f_free : F.free = true := by assumption) :
    Keeps F s s' := by
  unfold execFmRetireChannel at e
  refine guarded_keeps ?_ e
  have hK := Keeps.refl F s
  try dsimp only
  repeat' first
    | with_reducible assumption
    | with_reducible apply Keeps.setNow
    | with_reducible apply fmChannel_keeps
    | split

theorem execDieRetire_keeps {F : Footprint} {s s' : State} (die reason : Nat) (transitOk : Bool) (now : Nat) (e : execDieRetire die reason transitOk now s = .next s') (f_cfg : F.cfg = true := by assumption) (f_time : F.time = true := by assumption) (f_fm : F.fm = true := by assumption) (f_mcEv : F.mcEv = true := by assumption) (f_dies : F.dies = true := by assumption) (f_tiles : F.tiles = true := by assumption) (f_stackTab : F.stackTab = true := by assumption) (f_feedPorts : F.feedPorts = true := by assumption) (f_fns : F.fns = true := by assumption) (f_engines : F.engines = true := by assumption) (f_parts : F.parts = true := by assumption) (f_entries : F.entries = true := by assumption) (f_dram : F.dram = true := by assumption) (f_xfers : F.xfers = true := by assumption) (f_out : F.out = true := by assumption) (f_free : F.free = true := by assumption) :
    Keeps F s s' := by
  unfold execDieRetire at e
  refine guarded_keeps ?_ e
  have hK := Keeps.refl F s
  try dsimp only
  repeat' first
    | with_reducible assumption
    | with_reducible apply Keeps.setNow
    | with_reducible apply retireDie_keeps
    | split

theorem execChannelRetire_keeps {F : Footprint} {s s' : State} (stack ch now : Nat) (e : execChannelRetire stack ch now s = .next s') (f_cfg : F.cfg = true := by assumption) (f_time : F.time = true := by assumption) (f_fm : F.fm = true := by assumption) (f_mcEv : F.mcEv = true := by assumption) (f_dies : F.dies = true := by assumption) (f_tiles : F.tiles = true := by assumption) (f_stackTab : F.stackTab = true := by assumption) (f_feedPorts : F.feedPorts = true := by assumption) (f_fns : F.fns = true := by assumption) (f_engines : F.engines = true := by assumption) (f_parts : F.parts = true := by assumption) (f_entries : F.entries = true := by assumption) (f_dram : F.dram = true := by assumption) (f_out : F.out = true := by assumption) (f_free : F.free = true := by assumption) :
    Keeps F s s' := by
  unfold execChannelRetire at e
  refine guarded_keeps ?_ e
  have hK := Keeps.refl F s
  try dsimp only
  repeat' first
    | with_reducible assumption
    | with_reducible apply Keeps.setNow
    | with_reducible apply retirePair_keeps
    | split

theorem execRelocation_keeps {F : Footprint} {s s' : State} (p now : Nat) (e : execRelocation p now s = .next s') (f_cfg : F.cfg = true := by assumption) (f_time : F.time = true := by assumption) (f_fm : F.fm = true := by assumption) (f_mcEv : F.mcEv = true := by assumption) (f_dies : F.dies = true := by assumption) (f_tiles : F.tiles = true := by assumption) (f_stackTab : F.stackTab = true := by assumption) (f_feedPorts : F.feedPorts = true := by assumption) (f_fns : F.fns = true := by assumption) (f_engines : F.engines = true := by assumption) (f_parts : F.parts = true := by assumption) (f_entries : F.entries = true := by assumption) (f_dram : F.dram = true := by assumption) (f_nextOp : F.nextOp = true := by assumption) (f_out : F.out = true := by assumption) (f_free : F.free = true := by assumption) :
    Keeps F s s' := by
  unfold execRelocation at e
  refine guarded_keeps ?_ e
  have hK := Keeps.refl F s
  try dsimp only
  repeat' first
    | with_reducible assumption
    | with_reducible apply Keeps.setNow
    | with_reducible apply relocatePart_keeps
    | with_reducible apply startReloc_keeps
    | split
    | dsimp only
    | with_reducible refine Keeps.upd ?_

theorem execRelocationRetry_keeps {F : Footprint} {s s' : State} (p now : Nat) (e : execRelocationRetry p now s = .next s') (f_cfg : F.cfg = true := by assumption) (f_time : F.time = true := by assumption) (f_fm : F.fm = true := by assumption) (f_mcEv : F.mcEv = true := by assumption) (f_dies : F.dies = true := by assumption) (f_tiles : F.tiles = true := by assumption) (f_stackTab : F.stackTab = true := by assumption) (f_feedPorts : F.feedPorts = true := by assumption) (f_fns : F.fns = true := by assumption) (f_engines : F.engines = true := by assumption) (f_parts : F.parts = true := by assumption) (f_entries : F.entries = true := by assumption) (f_dram : F.dram = true := by assumption) (f_out : F.out = true := by assumption) (f_free : F.free = true := by assumption) :
    Keeps F s s' := by
  unfold execRelocationRetry at e
  refine guarded_keeps ?_ e
  have hK := Keeps.refl F s
  try dsimp only
  repeat' first
    | with_reducible assumption
    | with_reducible apply Keeps.setNow
    | with_reducible apply startReloc_keeps
    | with_reducible refine Keeps.fst ?_ ‹_ = (_, _)›
    | split
    | dsimp only
    | with_reducible refine Keeps.upd ?_

theorem execWatchdogTick_keeps {F : Footprint} {s s' : State} (now : Nat) (e : execWatchdogTick now s = .next s') (f_cfg : F.cfg = true := by assumption) (f_time : F.time = true := by assumption) (f_fm : F.fm = true := by assumption) (f_mcEv : F.mcEv = true := by assumption) (f_dies : F.dies = true := by assumption) (f_tiles : F.tiles = true := by assumption) (f_stackTab : F.stackTab = true := by assumption) (f_feedPorts : F.feedPorts = true := by assumption) (f_fns : F.fns = true := by assumption) (f_engines : F.engines = true := by assumption) (f_parts : F.parts = true := by assumption) (f_entries : F.entries = true := by assumption) (f_dram : F.dram = true := by assumption) (f_out : F.out = true := by assumption) (f_free : F.free = true := by assumption) :
    Keeps F s s' := by
  unfold execWatchdogTick at e
  refine guarded_keeps ?_ e
  have hK := Keeps.refl F s
  try dsimp only
  repeat' first
    | with_reducible assumption
    | with_reducible apply Keeps.setNow
    | with_reducible apply watchPart_keeps
    | (with_reducible apply Keeps.foldl; intro _ _ _)
    | split

theorem execTroubleTest_keeps {F : Footprint} {s s' : State} (p now : Nat) (e : execTroubleTest p now s = .next s') (f_cfg : F.cfg = true := by assumption) (f_time : F.time = true := by assumption) (f_fm : F.fm = true := by assumption) (f_mcEv : F.mcEv = true := by assumption) (f_dies : F.dies = true := by assumption) (f_tiles : F.tiles = true := by assumption) (f_stackTab : F.stackTab = true := by assumption) (f_feedPorts : F.feedPorts = true := by assumption) (f_fns : F.fns = true := by assumption) (f_engines : F.engines = true := by assumption) (f_parts : F.parts = true := by assumption) (f_entries : F.entries = true := by assumption) (f_dram : F.dram = true := by assumption) (f_xfers : F.xfers = true := by assumption) (f_out : F.out = true := by assumption) (f_free : F.free = true := by assumption) :
    Keeps F s s' := by
  unfold execTroubleTest at e
  refine guarded_keeps ?_ e
  have hK := Keeps.refl F s
  try dsimp only
  repeat' first
    | with_reducible assumption
    | with_reducible apply Keeps.setNow
    | with_reducible apply freeWord_keeps
    | with_reducible apply retireDie_keeps
    | with_reducible refine Keeps.fst ?_ ‹_ = (_, _)›
    | split

theorem execMcHeartbeat_keeps {F : Footprint} {s s' : State} (now : Nat) (e : execMcHeartbeat now s = .next s') (f_time : F.time = true := by assumption) (f_fm : F.fm = true := by assumption) :
    Keeps F s s' := by
  unfold execMcHeartbeat at e
  refine guarded_keeps ?_ e
  have hK := Keeps.refl F s
  try dsimp only
  repeat' first
    | with_reducible assumption
    | with_reducible apply Keeps.setNow
    | split
    | dsimp only
    | with_reducible refine Keeps.upd ?_

theorem execHeartbeatMiss_keeps {F : Footprint} {s s' : State} (now : Nat) (e : execHeartbeatMiss now s = .next s') (f_cfg : F.cfg = true := by assumption) (f_time : F.time = true := by assumption) (f_log : F.log = true := by assumption) (f_fm : F.fm = true := by assumption) (f_mcEv : F.mcEv = true := by assumption) (f_dies : F.dies = true := by assumption) (f_fns : F.fns = true := by assumption) (f_reservoirs : F.reservoirs = true := by assumption) (f_engines : F.engines = true := by assumption) (f_parts : F.parts = true := by assumption) (f_out : F.out = true := by assumption) (f_free : F.free = true := by assumption) :
    Keeps F s s' := by
  unfold execHeartbeatMiss at e
  refine guarded_keeps ?_ e
  have hK := Keeps.refl F s
  try dsimp only
  repeat' first
    | with_reducible assumption
    | with_reducible apply Keeps.setNow
    | with_reducible apply failover_keeps
    | split
    | dsimp only
    | with_reducible refine Keeps.upd ?_

theorem execMcSelfFailReport_keeps {F : Footprint} {s s' : State} (now : Nat) (e : execMcSelfFailReport now s = .next s') (f_cfg : F.cfg = true := by assumption) (f_time : F.time = true := by assumption) (f_log : F.log = true := by assumption) (f_fm : F.fm = true := by assumption) (f_mcEv : F.mcEv = true := by assumption) (f_dies : F.dies = true := by assumption) (f_fns : F.fns = true := by assumption) (f_reservoirs : F.reservoirs = true := by assumption) (f_engines : F.engines = true := by assumption) (f_parts : F.parts = true := by assumption) (f_out : F.out = true := by assumption) (f_free : F.free = true := by assumption) :
    Keeps F s s' := by
  unfold execMcSelfFailReport at e
  refine guarded_keeps ?_ e
  have hK := Keeps.refl F s
  try dsimp only
  repeat' first
    | with_reducible assumption
    | with_reducible apply Keeps.setNow
    | with_reducible apply failover_keeps
    | split

theorem execResPatrolRead_keeps {F : Footprint} {s s' : State} (stack model slot corrected : Nat) (uncorrectable : Bool) (now : Nat) (e : execResPatrolRead stack model slot corrected uncorrectable now s = .next s') (f_time : F.time = true := by assumption) (f_mcEv : F.mcEv = true := by assumption) (f_dies : F.dies = true := by assumption) (f_reservoirs : F.reservoirs = true := by assumption) :
    Keeps F s s' := by
  unfold execResPatrolRead at e
  refine guarded_keeps ?_ e
  have hK := Keeps.refl F s
  try dsimp only
  repeat' first
    | with_reducible assumption
    | with_reducible apply Keeps.modRes
    | with_reducible apply Keeps.setNow
    | with_reducible apply report_keeps
    | with_reducible apply modModel_keeps
    | with_reducible refine Keeps.fst ?_ ‹_ = (_, _)›
    | split

end Sys2Proof.Machine
end

