-- ==== Sys2Proof/Laws/KeepsOpsHk.lean ====
section
/-! SUPPORT. The operations of Machine/OpsHk.lean have `Keeps`: one lemma each. -/

namespace Sys2Proof.Machine

set_option Elab.async false

theorem modHk_keeps {F : Footprint} {s0 s : State} (hK : Keeps F s0 s) (d : Nat) (f : Hk → Hk) (f_dies : F.dies = true := by assumption) :
    Keeps F s0 (modHk s d f) := by
  unfold modHk
  try dsimp only
  repeat' first
    | with_reducible assumption
    | with_reducible apply Keeps.modDie

theorem modTherm_keeps {F : Footprint} {s0 s : State} (hK : Keeps F s0 s) (f : Therm → Therm) (f_therm : F.therm = true := by assumption) :
    Keeps F s0 (modTherm s f) := by
  unfold modTherm
  try dsimp only
  repeat' first
    | with_reducible assumption
    | split
    | dsimp only
    | with_reducible refine Keeps.upd ?_

theorem setVset_keeps {F : Footprint} {s0 s : State} (hK : Keeps F s0 s) (d v : Nat) (f_mcEv : F.mcEv = true := by assumption) (f_dies : F.dies = true := by assumption) :
    Keeps F s0 (setVset s d v) := by
  unfold setVset
  try dsimp only
  repeat' first
    | with_reducible assumption
    | with_reducible apply report_keeps
    | with_reducible apply modHk_keeps
    | split

theorem startUser_keeps {F : Footprint} {s0 s : State} (hK : Keeps F s0 s) (d : Nat) (f_dies : F.dies = true := by assumption) :
    Keeps F s0 (startUser s d) := by
  unfold startUser
  try dsimp only
  repeat' first
    | with_reducible assumption
    | with_reducible apply modHk_keeps
    | split

theorem tripCheck_keeps {F : Footprint} {s0 s : State} (hK : Keeps F s0 s) (d : Nat) (f_mcEv : F.mcEv = true := by assumption) (f_dies : F.dies = true := by assumption) :
    Keeps F s0 (tripCheck s d) := by
  unfold tripCheck
  try dsimp only
  repeat' first
    | with_reducible assumption
    | with_reducible apply report_keeps
    | with_reducible apply modHk_keeps
    | with_reducible apply setVset_keeps
    | split

theorem endSweep_keeps {F : Footprint} {s0 s : State} (hK : Keeps F s0 s) (d : Nat) (k : Sweep) (f_mcEv : F.mcEv = true := by assumption) (f_dies : F.dies = true := by assumption) :
    Keeps F s0 (endSweep s d k) := by
  unfold endSweep
  try dsimp only
  repeat' first
    | with_reducible assumption
    | with_reducible apply modHk_keeps
    | with_reducible apply startUser_keeps
    | with_reducible apply tripCheck_keeps
    | with_reducible refine Keeps.fst ?_ ‹_ = (_, _)›
    | split

theorem stepResults_keeps {F : Footprint} {s0 s : State} (hK : Keeps F s0 s) (d : Nat) (w : HkSweep) (st : List Nat) (codes : List (Nat × Nat)) (f_dies : F.dies = true := by assumption) :
    Keeps F s0 (stepResults s d w st codes) := by
  unfold stepResults
  try dsimp only
  repeat' first
    | with_reducible assumption
    | with_reducible apply modHk_keeps
    | (with_reducible apply Keeps.foldl; intro _ _ _)

theorem beginSweep_keeps {F : Footprint} {s0 s : State} (hK : Keeps F s0 s) (d : Nat) (k : Sweep) (ns : List Nat) (f_dies : F.dies = true := by assumption) :
    Keeps F s0 (beginSweep s d k ns) := by
  unfold beginSweep
  try dsimp only
  repeat' first
    | with_reducible assumption
    | with_reducible apply modHk_keeps

theorem crossCheck_keeps {F : Footprint} {s0 s : State} (hK : Keeps F s0 s) (d : Nat) (l : List Int) (f_mcEv : F.mcEv = true := by assumption) (f_dies : F.dies = true := by assumption) (f_free : F.free = true := by assumption) :
    Keeps F s0 (crossCheck s d l) := by
  unfold crossCheck
  try dsimp only
  repeat' first
    | with_reducible assumption
    | with_reducible apply report_keeps
    | with_reducible apply freeWord_keeps
    | with_reducible apply modHk_keeps
    | with_reducible refine Keeps.fst ?_ ‹_ = (_, _)›
    | split

theorem readStack_keeps {F : Footprint} {s0 s : State} (hK : Keeps F s0 s) (reads : List (Nat × Option Int)) (k : Nat) (f_mcEv : F.mcEv = true := by assumption) (f_dies : F.dies = true := by assumption) (f_stackTab : F.stackTab = true := by assumption) (f_reservoirs : F.reservoirs = true := by assumption) :
    Keeps F s0 (readStack reads s k) := by
  unfold readStack
  try dsimp only
  repeat' first
    | with_reducible assumption
    | with_reducible apply Keeps.modStack
    | with_reducible apply Keeps.modRes
    | with_reducible apply report_keeps
    | with_reducible refine Keeps.fst ?_ ‹_ = (_, _)›
    | split

theorem allZero_keeps {F : Footprint} {s0 s : State} (hK : Keeps F s0 s) (f_mcEv : F.mcEv = true := by assumption) (f_dies : F.dies = true := by assumption) :
    Keeps F s0 (allZero s) := by
  unfold allZero
  try dsimp only
  repeat' first
    | with_reducible assumption
    | with_reducible apply modHk_keeps
    | with_reducible apply setVset_keeps
    | (with_reducible apply Keeps.foldl; intro _ _ _)

theorem markThermal_keeps {F : Footprint} {s0 s : State} (hK : Keeps F s0 s) (f_parts : F.parts = true := by assumption) :
    Keeps F s0 (markThermal s) := by
  unfold markThermal
  try dsimp only
  repeat' first
    | with_reducible assumption
    | with_reducible apply Keeps.modPart
    | (with_reducible apply Keeps.foldl; intro _ _ _)
    | split

end Sys2Proof.Machine
end

