-- ==== Sys2Proof/Laws/KeepsOpsPower.lean ====
section
/-! SUPPORT. The operations of Machine/OpsPower.lean have `Keeps`: one lemma each. -/

namespace Sys2Proof.Machine

set_option Elab.async false

theorem bareState_keeps {F : Footprint} {s0 s : State} (h : Keeps F s0 s) (f_cfg : F.cfg = true := by assumption) (f_time : F.time = true := by assumption) (f_log : F.log = true := by assumption) (f_therm : F.therm = true := by assumption) (f_fm : F.fm = true := by assumption) (f_lantern : F.lantern = true := by assumption) (f_mcEv : F.mcEv = true := by assumption) (f_dies : F.dies = true := by assumption) (f_tiles : F.tiles = true := by assumption) (f_stackTab : F.stackTab = true := by assumption) (f_feedPorts : F.feedPorts = true := by assumption) (f_feedIods : F.feedIods = true := by assumption) (f_hostPorts : F.hostPorts = true := by assumption) (f_fns : F.fns = true := by assumption) (f_reservoirs : F.reservoirs = true := by assumption) (f_engines : F.engines = true := by assumption) (f_parts : F.parts = true := by assumption) (f_ptSel : F.ptSel = true := by assumption) (f_entries : F.entries = true := by assumption) (f_dram : F.dram = true := by assumption) (f_xfers : F.xfers = true := by assumption) (f_releases : F.releases = true := by assumption) (f_nextXfer : F.nextXfer = true := by assumption) (f_nextOp : F.nextOp = true := by assumption) (f_latches : F.latches = true := by assumption) : Keeps F s0 (bareState s) :=
  h.trans ⟨⟨rfl, rfl, rfl, rfl, rfl, rfl, rfl⟩, rfl, List.prefix_refl _, Nat.le_refl _,
    fun i => ⟨mapFilter_wf _ _ i.dies, mapFilter_wf _ _ i.tiles, rfl, rfl, rfl, rfl, rfl, mapFilter_wf _ _ i.reservoirs, rfl, rfl,
      rfl, rfl⟩, fun _ c => absurd c Bool.false_ne_true, fun _ c => absurd c Bool.false_ne_true,
    fun _ c => absurd c Bool.false_ne_true,
    ⟨fun _ => rfl, same_or (.inl f_cfg), same_or (.inl f_time), same_or (.inl f_log), same_or (.inl f_therm), same_or (.inl f_fm), same_or (.inl f_lantern), same_or (.inl f_mcEv), same_or (.inl f_dies), same_or (.inl f_tiles), same_or (.inl f_stackTab), same_or (.inl f_feedPorts), same_or (.inl f_feedIods), same_or (.inl f_hostPorts), same_or (.inl f_fns), same_or (.inl f_reservoirs), same_or (.inl f_engines), same_or (.inl f_parts), same_or (.inl f_ptSel), same_or (.inl f_entries), same_or (.inl f_dram), same_or (.inl f_xfers), same_or (.inl f_releases), same_or (.inl f_nextXfer), same_or (.inl f_nextOp), same_or (.inl f_latches), fun _ => rfl, fun _ => rfl⟩⟩

theorem bareState_started (s : State) : (bareState s).cfg.started = false := rfl

theorem tornCopy_keeps {F : Footprint} {s0 s : State} (h : Keeps F s0 s) (f_cfg : F.cfg = true := by assumption) (f_free : F.free = true := by assumption) : Keeps F s0 (tornCopy s) := by
  unfold tornCopy
  split
  · exact h
  · rename_i w _
    dsimp only
    split
    · exact Keeps.upd (Keeps.take h w.image.length)
    · exact Keeps.upd (Keeps.take h w.image.length)

theorem powerDown_keeps {F : Footprint} {s0 s : State} (h : Keeps F s0 s) (f_power : F.power = true := by assumption) (f_cfg : F.cfg = true := by assumption) (f_time : F.time = true := by assumption) (f_log : F.log = true := by assumption) (f_therm : F.therm = true := by assumption) (f_fm : F.fm = true := by assumption) (f_lantern : F.lantern = true := by assumption) (f_mcEv : F.mcEv = true := by assumption) (f_dies : F.dies = true := by assumption) (f_tiles : F.tiles = true := by assumption) (f_stackTab : F.stackTab = true := by assumption) (f_feedPorts : F.feedPorts = true := by assumption) (f_feedIods : F.feedIods = true := by assumption) (f_hostPorts : F.hostPorts = true := by assumption) (f_fns : F.fns = true := by assumption) (f_reservoirs : F.reservoirs = true := by assumption) (f_engines : F.engines = true := by assumption) (f_parts : F.parts = true := by assumption) (f_ptSel : F.ptSel = true := by assumption) (f_entries : F.entries = true := by assumption) (f_dram : F.dram = true := by assumption) (f_xfers : F.xfers = true := by assumption) (f_releases : F.releases = true := by assumption) (f_nextXfer : F.nextXfer = true := by assumption) (f_nextOp : F.nextOp = true := by assumption) (f_latches : F.latches = true := by assumption) (f_free : F.free = true := by assumption) : Keeps F s0 (powerDown s) := by
  unfold powerDown
  split
  · exact h
  · exact Keeps.upd (bareState_keeps (tornCopy_keeps h)) (hs := fun _ c => absurd c Bool.false_ne_true)

theorem shutdown120_keeps {F : Footprint} {s0 s : State} (hK : Keeps F s0 s) (f_power : F.power = true := by assumption) (f_cfg : F.cfg = true := by assumption) (f_time : F.time = true := by assumption) (f_log : F.log = true := by assumption) (f_therm : F.therm = true := by assumption) (f_fm : F.fm = true := by assumption) (f_lantern : F.lantern = true := by assumption) (f_mcEv : F.mcEv = true := by assumption) (f_dies : F.dies = true := by assumption) (f_tiles : F.tiles = true := by assumption) (f_stackTab : F.stackTab = true := by assumption) (f_feedPorts : F.feedPorts = true := by assumption) (f_feedIods : F.feedIods = true := by assumption) (f_hostPorts : F.hostPorts = true := by assumption) (f_fns : F.fns = true := by assumption) (f_reservoirs : F.reservoirs = true := by assumption) (f_engines : F.engines = true := by assumption) (f_parts : F.parts = true := by assumption) (f_ptSel : F.ptSel = true := by assumption) (f_entries : F.entries = true := by assumption) (f_dram : F.dram = true := by assumption) (f_xfers : F.xfers = true := by assumption) (f_releases : F.releases = true := by assumption) (f_nextXfer : F.nextXfer = true := by assumption) (f_nextOp : F.nextOp = true := by assumption) (f_latches : F.latches = true := by assumption) (f_free : F.free = true := by assumption) :
    Keeps F s0 (shutdown120 s) := by
  unfold shutdown120
  try dsimp only
  repeat' first
    | with_reducible assumption
    | with_reducible apply powerDown_keeps
    | split
    | dsimp only
    | with_reducible refine Keeps.upd ?_

theorem adoptTime_keeps {F : Footprint} {s0 s : State} (h : Keeps F s0 s) (utc : Nat) (f_time : F.time = true := by assumption) (f_mcEv : F.mcEv = true := by assumption) (f_dies : F.dies = true := by assumption) : Keeps F s0 (adoptTime s utc) := by
  unfold adoptTime
  split
  · exact Keeps.upd h
  · split
    · exact h
    · exact report_keeps (Keeps.upd h (ht := fun _ _ => Nat.le_refl _)) _ _ _ _ _

theorem presentFns_keeps {F : Footprint} {s0 s : State} (hK : Keeps F s0 s) (fns : List Nat) (f_hostPorts : F.hostPorts = true := by assumption) (f_fns : F.fns = true := by assumption) :
    Keeps F s0 (presentFns s fns) := by
  unfold presentFns
  try dsimp only
  repeat' first
    | with_reducible assumption
    | with_reducible apply Keeps.modFn
    | with_reducible apply Keeps.modHport
    | (with_reducible apply Keeps.foldl; intro _ _ _)

theorem applyModule_keeps {F : Footprint} {s0 s : State} (hK : Keeps F s0 s) (m : ModCfg) (f_cfg : F.cfg = true := by assumption) (f_therm : F.therm = true := by assumption) (f_feedPorts : F.feedPorts = true := by assumption) (f_feedIods : F.feedIods = true := by assumption) (f_hostPorts : F.hostPorts = true := by assumption) (f_fns : F.fns = true := by assumption) :
    Keeps F s0 (applyModule s m) := by
  unfold applyModule
  try dsimp only
  repeat' first
    | with_reducible assumption
    | with_reducible apply Keeps.modFport
    | with_reducible apply Keeps.modFiod
    | with_reducible apply presentFns_keeps
    | (with_reducible apply Keeps.foldl; intro _ _ _)
    | split
    | dsimp only
    | with_reducible refine Keeps.upd ?_

theorem chooseConfig_keeps {F : Footprint} {s0 s : State} (hK : Keeps F s0 s) (f_cfg : F.cfg = true := by assumption) (f_therm : F.therm = true := by assumption) (f_mcEv : F.mcEv = true := by assumption) (f_dies : F.dies = true := by assumption) (f_feedPorts : F.feedPorts = true := by assumption) (f_feedIods : F.feedIods = true := by assumption) (f_hostPorts : F.hostPorts = true := by assumption) (f_fns : F.fns = true := by assumption) :
    Keeps F s0 (chooseConfig s) := by
  unfold chooseConfig
  try dsimp only
  repeat' first
    | with_reducible assumption
    | with_reducible apply report_keeps
    | with_reducible apply applyModule_keeps
    | with_reducible refine Keeps.fst ?_ ‹_ = (_, _)›
    | split
    | dsimp only
    | with_reducible refine Keeps.upd ?_

theorem excludeDies_keeps {F : Footprint} {s0 s : State} (hK : Keeps F s0 s) (f_mcEv : F.mcEv = true := by assumption) (f_dies : F.dies = true := by assumption) :
    Keeps F s0 (excludeDies s) := by
  unfold excludeDies
  try dsimp only
  repeat' first
    | with_reducible assumption
    | with_reducible apply Keeps.modDie
    | with_reducible apply report_keeps
    | (with_reducible apply Keeps.foldl; intro _ _ _)

theorem startParts_keeps {F : Footprint} {s0 s : State} (hK : Keeps F s0 s) (f_cfg : F.cfg = true := by assumption) (f_fm : F.fm = true := by assumption) (f_mcEv : F.mcEv = true := by assumption) (f_dies : F.dies = true := by assumption) (f_tiles : F.tiles = true := by assumption) (f_feedIods : F.feedIods = true := by assumption) (f_fns : F.fns = true := by assumption) (f_engines : F.engines = true := by assumption) (f_parts : F.parts = true := by assumption) (f_entries : F.entries = true := by assumption) (f_nextOp : F.nextOp = true := by assumption) (f_out : F.out = true := by assumption) :
    Keeps F s0 (startParts s) := by
  unfold startParts
  try dsimp only
  repeat' first
    | with_reducible assumption
    | with_reducible apply applySection_keeps
    | with_reducible apply beginLoads_keeps
    | (with_reducible apply Keeps.foldl; intro _ _ _)
    | with_reducible refine Keeps.fst ?_ ‹_ = (_, _)›
    | split

theorem startFrom_keeps {F : Footprint} {s0 s : State} (h : Keeps F s0 s)
    (hp : StartOk s0 → s.power.pwrgd = true ∧ s.power.testMode = false)
    (test0 test3 : Bool) (tod : Option Nat) (f_cfg : F.cfg = true := by assumption) (f_time : F.time = true := by assumption) (f_therm : F.therm = true := by assumption) (f_fm : F.fm = true := by assumption) (f_mcEv : F.mcEv = true := by assumption) (f_dies : F.dies = true := by assumption) (f_tiles : F.tiles = true := by assumption) (f_feedPorts : F.feedPorts = true := by assumption) (f_feedIods : F.feedIods = true := by assumption) (f_hostPorts : F.hostPorts = true := by assumption) (f_fns : F.fns = true := by assumption) (f_reservoirs : F.reservoirs = true := by assumption) (f_engines : F.engines = true := by assumption) (f_parts : F.parts = true := by assumption) (f_entries : F.entries = true := by assumption) (f_nextOp : F.nextOp = true := by assumption) (f_out : F.out = true := by assumption) : Keeps F s0 (startFrom s test0 test3 tod) := by
  unfold startFrom
  refine startParts_keeps (Keeps.foldl (fun m x hm => Keeps.modRes hm _ _) _ (excludeDies_keeps ?_))
  have hb : Keeps F s0 { s with cfg := { s.cfg with
      test0 := test0, test3 := test3, active3 := !test0, standbyReady := test0 && test3, started := true, phase := 5 } } :=
    ⟨h.module, h.pending, h.sent, h.taken, fun i => let j := h.tables i
      ⟨j.dies, j.tiles, j.stackTab, j.feedPorts, j.feedIods, j.hostPorts, j.fns, j.reservoirs, j.engines, j.parts, j.entries,
        j.dram⟩, fun i _ => hp i, h.clock, h.taint,
      ⟨h.outside.power, same_or (.inl f_cfg), h.outside.time, h.outside.log, h.outside.therm, h.outside.fm, h.outside.lantern, h.outside.mcEv, h.outside.dies, h.outside.tiles, h.outside.stackTab, h.outside.feedPorts, h.outside.feedIods, h.outside.hostPorts, h.outside.fns, h.outside.reservoirs, h.outside.engines, h.outside.parts, h.outside.ptSel, h.outside.entries, h.outside.dram, h.outside.xfers, h.outside.releases, h.outside.nextXfer, h.outside.nextOp, h.outside.latches, h.outside.out, h.outside.free⟩⟩
  cases tod with
  | none => exact chooseConfig_keeps hb
  | some t => exact adoptTime_keeps (chooseConfig_keeps hb) t

end Sys2Proof.Machine
end

