-- ==== Sys2Proof/Laws/KeepsHousekeeping.lean ====
section
/-! SUPPORT. The operations of Machine/Housekeeping.lean have `Keeps`: one lemma each. -/

namespace Sys2Proof.Machine

set_option Elab.async false

theorem hkCtrlWrite_keeps {F : Footprint} {s0 s : State} (hK : Keeps F s0 s) (d value : Nat) (f_dies : F.dies = true := by assumption) :
    Keeps F s0 (hkCtrlWrite s d value) := by
  unfold hkCtrlWrite
  try dsimp only
  repeat' first
    | with_reducible assumption
    | with_reducible apply modHk_keeps
    | with_reducible apply startUser_keeps
    | split

theorem takeReports_keeps {F : Footprint} {s0 s : State} (hK : Keeps F s0 s) (ds : List Nat) (f_dies : F.dies = true := by assumption) :
    Keeps F s0 (takeReports s ds) := by
  unfold takeReports
  try dsimp only
  repeat' first
    | with_reducible assumption
    | with_reducible apply modHk_keeps
    | (with_reducible apply Keeps.foldl; intro _ _ _)

theorem settleDie_keeps {F : Footprint} {s0 s : State} (hK : Keeps F s0 s) (ds : List Nat) (d : Nat) (f_dies : F.dies = true := by assumption) :
    Keeps F s0 (settleDie ds s d) := by
  unfold settleDie
  try dsimp only
  repeat' first
    | with_reducible assumption
    | with_reducible apply modHk_keeps

theorem supplyCheck_keeps {F : Footprint} {s0 s : State} (hK : Keeps F s0 s) (d : Nat) (f_mcEv : F.mcEv = true := by assumption) (f_dies : F.dies = true := by assumption) (f_tiles : F.tiles = true := by assumption) (f_parts : F.parts = true := by assumption) (f_xfers : F.xfers = true := by assumption) :
    Keeps F s0 (supplyCheck s d) := by
  unfold supplyCheck
  try dsimp only
  repeat' first
    | with_reducible assumption
    | with_reducible apply report_keeps
    | with_reducible apply supplyFallback_keeps
    | with_reducible apply modHk_keeps
    | split

theorem vcoreCheck_keeps {F : Footprint} {s0 s : State} (hK : Keeps F s0 s) (d : Nat) (f_mcEv : F.mcEv = true := by assumption) (f_dies : F.dies = true := by assumption) :
    Keeps F s0 (vcoreCheck s d) := by
  unfold vcoreCheck
  try dsimp only
  repeat' first
    | with_reducible assumption
    | with_reducible apply report_keeps
    | with_reducible apply modHk_keeps
    | split

theorem powerCheck_keeps {F : Footprint} {s0 s : State} (hK : Keeps F s0 s) (f_therm : F.therm = true := by assumption) (f_mcEv : F.mcEv = true := by assumption) (f_dies : F.dies = true := by assumption) :
    Keeps F s0 (powerCheck s) := by
  unfold powerCheck
  try dsimp only
  repeat' first
    | with_reducible assumption
    | with_reducible apply report_keeps
    | with_reducible apply modTherm_keeps
    | split

theorem brakeCheck_keeps {F : Footprint} {s0 s : State} (hK : Keeps F s0 s) (f_power : F.power = true := by assumption) (f_therm : F.therm = true := by assumption) :
    Keeps F s0 (brakeCheck s) := by
  unfold brakeCheck
  try dsimp only
  repeat' first
    | with_reducible assumption
    | with_reducible apply modTherm_keeps
    | split
    | dsimp only
    | with_reducible refine Keeps.upd ?_

theorem controlDie_keeps {F : Footprint} {s0 s : State} (hK : Keeps F s0 s) (ds hot : List Nat) (d : Nat) (f_therm : F.therm = true := by assumption) (f_mcEv : F.mcEv = true := by assumption) (f_dies : F.dies = true := by assumption) :
    Keeps F s0 (controlDie ds hot s d) := by
  unfold controlDie
  try dsimp only
  repeat' first
    | with_reducible assumption
    | with_reducible apply modHk_keeps
    | with_reducible apply modTherm_keeps
    | with_reducible apply setVset_keeps
    | split

theorem emergencyFence_keeps {F : Footprint} {s0 s : State} (hK : Keeps F s0 s) (f_therm : F.therm = true := by assumption) (f_fm : F.fm = true := by assumption) (f_parts : F.parts = true := by assumption) :
    Keeps F s0 (emergencyFence s) := by
  unfold emergencyFence
  try dsimp only
  repeat' first
    | with_reducible assumption
    | with_reducible apply fencePart_keeps
    | with_reducible apply modTherm_keeps
    | (with_reducible apply Keeps.foldl; intro _ _ _)

theorem emergencyCheck_keeps {F : Footprint} {s0 s : State} (hK : Keeps F s0 s) (ds : List Nat) (f_power : F.power = true := by assumption) (f_cfg : F.cfg = true := by assumption) (f_therm : F.therm = true := by assumption) (f_fm : F.fm = true := by assumption) (f_mcEv : F.mcEv = true := by assumption) (f_dies : F.dies = true := by assumption) (f_tiles : F.tiles = true := by assumption) (f_stackTab : F.stackTab = true := by assumption) (f_feedPorts : F.feedPorts = true := by assumption) (f_fns : F.fns = true := by assumption) (f_engines : F.engines = true := by assumption) (f_parts : F.parts = true := by assumption) (f_entries : F.entries = true := by assumption) (f_dram : F.dram = true := by assumption) (f_out : F.out = true := by assumption) (f_free : F.free = true := by assumption) :
    Keeps F s0 (emergencyCheck s ds) := by
  unfold emergencyCheck
  try dsimp only
  repeat' first
    | with_reducible assumption
    | with_reducible apply report_keeps
    | with_reducible apply resetStart_keeps
    | with_reducible apply modTherm_keeps
    | with_reducible apply allZero_keeps
    | with_reducible apply emergencyFence_keeps
    | (with_reducible apply Keeps.foldl; intro _ _ _)
    | with_reducible refine Keeps.fst ?_ ‹_ = (_, _)›
    | split
    | dsimp only
    | with_reducible refine Keeps.upd ?_

theorem controlReadings_keeps {F : Footprint} {s0 s : State} (hK : Keeps F s0 s) (hotStacks : List (Nat × Option Int)) (ds : List Nat) (f_mcEv : F.mcEv = true := by assumption) (f_dies : F.dies = true := by assumption) (f_stackTab : F.stackTab = true := by assumption) (f_reservoirs : F.reservoirs = true := by assumption) (f_free : F.free = true := by assumption) :
    Keeps F s0 (controlReadings hotStacks s ds) := by
  unfold controlReadings
  try dsimp only
  repeat' first
    | with_reducible assumption
    | with_reducible apply crossCheck_keeps
    | with_reducible apply readStack_keeps
    | with_reducible apply takeReports_keeps
    | with_reducible apply settleDie_keeps
    | (with_reducible apply Keeps.foldl; intro _ _ _)

theorem controlLaw_keeps {F : Footprint} {s0 s : State} (hK : Keeps F s0 s) (ds : List Nat) (f_power : F.power = true := by assumption) (f_cfg : F.cfg = true := by assumption) (f_therm : F.therm = true := by assumption) (f_fm : F.fm = true := by assumption) (f_mcEv : F.mcEv = true := by assumption) (f_dies : F.dies = true := by assumption) (f_tiles : F.tiles = true := by assumption) (f_stackTab : F.stackTab = true := by assumption) (f_feedPorts : F.feedPorts = true := by assumption) (f_fns : F.fns = true := by assumption) (f_engines : F.engines = true := by assumption) (f_parts : F.parts = true := by assumption) (f_entries : F.entries = true := by assumption) (f_dram : F.dram = true := by assumption) (f_xfers : F.xfers = true := by assumption) (f_out : F.out = true := by assumption) (f_free : F.free = true := by assumption) :
    Keeps F s0 (controlLaw s ds) := by
  unfold controlLaw
  try dsimp only
  repeat' first
    | with_reducible assumption
    | with_reducible apply modTherm_keeps
    | with_reducible apply markThermal_keeps
    | with_reducible apply supplyCheck_keeps
    | with_reducible apply vcoreCheck_keeps
    | with_reducible apply powerCheck_keeps
    | with_reducible apply brakeCheck_keeps
    | with_reducible apply controlDie_keeps
    | with_reducible apply emergencyCheck_keeps
    | (with_reducible apply Keeps.foldl; intro _ _ _)

theorem execSpringTrigger_keeps {F : Footprint} {s s' : State} (now : Nat) (e : execSpringTrigger now s = .next s') (f_time : F.time = true := by assumption) (f_therm : F.therm = true := by assumption) (f_dies : F.dies = true := by assumption) :
    Keeps F s s' := by
  unfold execSpringTrigger at e
  refine guarded_keeps ?_ e
  have hK := Keeps.refl F s
  try dsimp only
  repeat' first
    | with_reducible assumption
    | with_reducible apply Keeps.setNow
    | with_reducible apply modHk_keeps
    | with_reducible apply modTherm_keeps
    | with_reducible apply beginSweep_keeps
    | (with_reducible apply Keeps.foldl; intro _ _ _)
    | split

theorem execRefBufferOn_keeps {F : Footprint} {s s' : State} (die : Nat) (e : execRefBufferOn die s = .next s') (f_dies : F.dies = true := by assumption) :
    Keeps F s s' := by
  unfold execRefBufferOn at e
  refine guarded_keeps ?_ e
  have hK := Keeps.refl F s
  try dsimp only
  repeat' first
    | with_reducible assumption
    | with_reducible apply modHk_keeps
    | split

theorem execHkSweepStepDone_keeps {F : Footprint} {s s' : State} (die : Nat) (sweep : Sweep) (codes : List (Nat × Nat)) (last : Bool) (e : execHkSweepStepDone die sweep codes last s = .next s') (f_mcEv : F.mcEv = true := by assumption) (f_dies : F.dies = true := by assumption) :
    Keeps F s s' := by
  unfold execHkSweepStepDone at e
  refine guarded_keeps ?_ e
  have hK := Keeps.refl F s
  try dsimp only
  repeat' first
    | with_reducible assumption
    | with_reducible apply modHk_keeps
    | with_reducible apply endSweep_keeps
    | with_reducible apply stepResults_keeps
    | with_reducible refine Keeps.fst ?_ ‹_ = (_, _)›
    | split

theorem execSpringReportMissed_keeps {F : Footprint} {s s' : State} (die : Nat) (e : execSpringReportMissed die s = .next s') (f_therm : F.therm = true := by assumption) (f_mcEv : F.mcEv = true := by assumption) (f_dies : F.dies = true := by assumption) :
    Keeps F s s' := by
  unfold execSpringReportMissed at e
  refine guarded_keeps ?_ e
  have hK := Keeps.refl F s
  try dsimp only
  repeat' first
    | with_reducible assumption
    | with_reducible apply report_keeps
    | with_reducible apply modHk_keeps
    | with_reducible apply modTherm_keeps
    | split

theorem execSpringTriggerTimeout_keeps {F : Footprint} {s s' : State} (die : Nat) (e : execSpringTriggerTimeout die s = .next s') (f_dies : F.dies = true := by assumption) :
    Keeps F s s' := by
  unfold execSpringTriggerTimeout at e
  refine guarded_keeps ?_ e
  have hK := Keeps.refl F s
  try dsimp only
  repeat' first
    | with_reducible assumption
    | with_reducible apply modHk_keeps
    | split

theorem execSelfTimedSweep_keeps {F : Footprint} {s s' : State} (die : Nat) (codes : List (Nat × Nat)) (e : execSelfTimedSweep die codes s = .next s') (f_mcEv : F.mcEv = true := by assumption) (f_dies : F.dies = true := by assumption) :
    Keeps F s s' := by
  unfold execSelfTimedSweep at e
  refine guarded_keeps ?_ e
  have hK := Keeps.refl F s
  try dsimp only
  repeat' first
    | with_reducible assumption
    | with_reducible apply endSweep_keeps
    | with_reducible apply stepResults_keeps
    | with_reducible apply beginSweep_keeps
    | split

theorem execHkSwTrig_keeps {F : Footprint} {s s' : State} (die value now : Nat) (e : execHkSwTrig die value now s = .next s') (f_time : F.time = true := by assumption) (f_dies : F.dies = true := by assumption) :
    Keeps F s s' := by
  unfold execHkSwTrig at e
  refine guarded_keeps ?_ e
  have hK := Keeps.refl F s
  try dsimp only
  repeat' first
    | with_reducible assumption
    | with_reducible apply Keeps.setNow
    | with_reducible apply hkCtrlWrite_keeps
    | split

theorem execIin48Crossing_keeps {F : Footprint} {s s' : State} (mA : Nat) (e : execIin48Crossing mA s = .next s') (f_power : F.power = true := by assumption) (f_therm : F.therm = true := by assumption) (f_mcEv : F.mcEv = true := by assumption) (f_dies : F.dies = true := by assumption) (f_parts : F.parts = true := by assumption) :
    Keeps F s s' := by
  unfold execIin48Crossing at e
  refine guarded_keeps ?_ e
  have hK := Keeps.refl F s
  try dsimp only
  repeat' first
    | with_reducible assumption
    | with_reducible apply modTherm_keeps
    | with_reducible apply allZero_keeps
    | with_reducible apply markThermal_keeps
    | split
    | dsimp only
    | with_reducible refine Keeps.upd ?_

theorem execSpringControl_keeps {F : Footprint} {s s' : State} (hotStacks : List (Nat × Option Int)) (now : Nat) (e : execSpringControl hotStacks now s = .next s') (f_power : F.power = true := by assumption) (f_cfg : F.cfg = true := by assumption) (f_time : F.time = true := by assumption) (f_log : F.log = true := by assumption) (f_therm : F.therm = true := by assumption) (f_fm : F.fm = true := by assumption) (f_lantern : F.lantern = true := by assumption) (f_mcEv : F.mcEv = true := by assumption) (f_dies : F.dies = true := by assumption) (f_tiles : F.tiles = true := by assumption) (f_stackTab : F.stackTab = true := by assumption) (f_feedPorts : F.feedPorts = true := by assumption) (f_feedIods : F.feedIods = true := by assumption) (f_hostPorts : F.hostPorts = true := by assumption) (f_fns : F.fns = true := by assumption) (f_reservoirs : F.reservoirs = true := by assumption) (f_engines : F.engines = true := by assumption) (f_parts : F.parts = true := by assumption) (f_ptSel : F.ptSel = true := by assumption) (f_entries : F.entries = true := by assumption) (f_dram : F.dram = true := by assumption) (f_xfers : F.xfers = true := by assumption) (f_releases : F.releases = true := by assumption) (f_nextXfer : F.nextXfer = true := by assumption) (f_nextOp : F.nextOp = true := by assumption) (f_latches : F.latches = true := by assumption) (f_out : F.out = true := by assumption) (f_free : F.free = true := by assumption) :
    Keeps F s s' := by
  unfold execSpringControl at e
  refine guarded_keeps ?_ e
  have hK := Keeps.refl F s
  try dsimp only
  repeat' first
    | with_reducible assumption
    | with_reducible apply Keeps.setNow
    | with_reducible apply shutdown120_keeps
    | with_reducible apply controlReadings_keeps
    | with_reducible apply controlLaw_keeps
    | split

end Sys2Proof.Machine
end

