-- ==== Sys2Proof/Laws/KeepsStart.lean ====
section
/-! SUPPORT. The operations of Machine/Start.lean have `Keeps`: one lemma each. -/

namespace Sys2Proof.Machine

set_option Elab.async false

theorem fleshaReply_power (s : State) (r : Reply) (status : Nat) (body : List Byte) :
    (fleshaReply s r status body).power = s.power := by
  unfold fleshaReply fleshaSend
  split <;> rfl

theorem alertOff_keeps {F : Footprint} {s0 s : State} (hK : Keeps F s0 s) (f_power : F.power = true := by assumption) :
    Keeps F s0 (alertOff s) := by
  unfold alertOff
  try dsimp only
  repeat' first
    | with_reducible assumption
    | split
    | dsimp only
    | with_reducible refine Keeps.upd ?_

theorem restartFresh_keeps {F : Footprint} {s0 s : State} (h : Keeps F s0 s) (hp : StartOk s0 → s.power.pwrgd = true ∧ s.power.testMode = false)
    (a b : Bool) (f_power : F.power = true := by assumption) (f_cfg : F.cfg = true := by assumption) (f_time : F.time = true := by assumption) (f_log : F.log = true := by assumption) (f_therm : F.therm = true := by assumption) (f_fm : F.fm = true := by assumption) (f_lantern : F.lantern = true := by assumption) (f_mcEv : F.mcEv = true := by assumption) (f_dies : F.dies = true := by assumption) (f_tiles : F.tiles = true := by assumption) (f_stackTab : F.stackTab = true := by assumption) (f_feedPorts : F.feedPorts = true := by assumption) (f_feedIods : F.feedIods = true := by assumption) (f_hostPorts : F.hostPorts = true := by assumption) (f_fns : F.fns = true := by assumption) (f_reservoirs : F.reservoirs = true := by assumption) (f_engines : F.engines = true := by assumption) (f_parts : F.parts = true := by assumption) (f_ptSel : F.ptSel = true := by assumption) (f_entries : F.entries = true := by assumption) (f_dram : F.dram = true := by assumption) (f_xfers : F.xfers = true := by assumption) (f_releases : F.releases = true := by assumption) (f_nextXfer : F.nextXfer = true := by assumption) (f_nextOp : F.nextOp = true := by assumption) (f_latches : F.latches = true := by assumption) (f_out : F.out = true := by assumption) : Keeps F s0 (startFrom (alertOff (bareState s)) a b none) := by
  refine startFrom_keeps (alertOff_keeps (bareState_keeps h)) ?_ _ _ _
  simpa only [alertOff, bareState] using hp

theorem restartModule_keeps {F : Footprint} {s0 s : State} (h : Keeps F s0 s) (r : Option Reply) (f_power : F.power = true := by assumption) (f_cfg : F.cfg = true := by assumption) (f_time : F.time = true := by assumption) (f_log : F.log = true := by assumption) (f_therm : F.therm = true := by assumption) (f_fm : F.fm = true := by assumption) (f_lantern : F.lantern = true := by assumption) (f_mcEv : F.mcEv = true := by assumption) (f_dies : F.dies = true := by assumption) (f_tiles : F.tiles = true := by assumption) (f_stackTab : F.stackTab = true := by assumption) (f_feedPorts : F.feedPorts = true := by assumption) (f_feedIods : F.feedIods = true := by assumption) (f_hostPorts : F.hostPorts = true := by assumption) (f_fns : F.fns = true := by assumption) (f_reservoirs : F.reservoirs = true := by assumption) (f_engines : F.engines = true := by assumption) (f_parts : F.parts = true := by assumption) (f_ptSel : F.ptSel = true := by assumption) (f_entries : F.entries = true := by assumption) (f_dram : F.dram = true := by assumption) (f_xfers : F.xfers = true := by assumption) (f_releases : F.releases = true := by assumption) (f_nextXfer : F.nextXfer = true := by assumption) (f_nextOp : F.nextOp = true := by assumption) (f_latches : F.latches = true := by assumption) (f_out : F.out = true := by assumption) : Keeps F s0 (restartModule s r) := by
  unfold restartModule
  split
  · exact cfgRefuse_keeps h _ _ _
  · rename_i hb
    have hs : s.cfg.started = true := by simp [cfgBusy] at hb; exact hb.1.1.1
    cases r with
    | none => exact restartFresh_keeps h (fun i => h.start i hs) _ _
    | some q =>
      refine restartFresh_keeps (fleshaReply_keeps h _ _ _) ?_ _ _
      rw [fleshaReply_power]; exact fun i => h.start i hs

theorem execModuleStart_keeps {F : Footprint} {s s' : State} (iod0SelfTest iod3SelfTest : Bool)
    (e : execModuleStart iod0SelfTest iod3SelfTest s = .next s') (f_cfg : F.cfg = true := by assumption) (f_time : F.time = true := by assumption) (f_therm : F.therm = true := by assumption) (f_fm : F.fm = true := by assumption) (f_mcEv : F.mcEv = true := by assumption) (f_dies : F.dies = true := by assumption) (f_tiles : F.tiles = true := by assumption) (f_feedPorts : F.feedPorts = true := by assumption) (f_feedIods : F.feedIods = true := by assumption) (f_hostPorts : F.hostPorts = true := by assumption) (f_fns : F.fns = true := by assumption) (f_reservoirs : F.reservoirs = true := by assumption) (f_engines : F.engines = true := by assumption) (f_parts : F.parts = true := by assumption) (f_entries : F.entries = true := by assumption) (f_nextOp : F.nextOp = true := by assumption) (f_out : F.out = true := by assumption) : Keeps F s s' := by
  unfold execModuleStart at e
  refine guarded_keeps ?_ e
  split
  · exact Keeps.refl F s
  · rename_i hc
    have hp : s.power.pwrgd = true ∧ s.power.testMode = false := by simp at hc; exact hc.1
    have ht : Keeps F s { s with time := ({} : Time) } := Keeps.upd (m := s) (power := s.power) (cfg := s.cfg) (time := {})
      (lantern := s.lantern) (Keeps.refl F s) (ht := fun _ c => absurd c Bool.false_ne_true)
    exact startFrom_keeps ht (fun _ => hp) _ _ _

theorem execModuleRestart_keeps {F : Footprint} {s s' : State} (src : CmdSrc) (now : Nat) (e : execModuleRestart src now s = .next s') (f_power : F.power = true := by assumption) (f_cfg : F.cfg = true := by assumption) (f_time : F.time = true := by assumption) (f_log : F.log = true := by assumption) (f_therm : F.therm = true := by assumption) (f_fm : F.fm = true := by assumption) (f_lantern : F.lantern = true := by assumption) (f_mcEv : F.mcEv = true := by assumption) (f_dies : F.dies = true := by assumption) (f_tiles : F.tiles = true := by assumption) (f_stackTab : F.stackTab = true := by assumption) (f_feedPorts : F.feedPorts = true := by assumption) (f_feedIods : F.feedIods = true := by assumption) (f_hostPorts : F.hostPorts = true := by assumption) (f_fns : F.fns = true := by assumption) (f_reservoirs : F.reservoirs = true := by assumption) (f_engines : F.engines = true := by assumption) (f_parts : F.parts = true := by assumption) (f_ptSel : F.ptSel = true := by assumption) (f_entries : F.entries = true := by assumption) (f_dram : F.dram = true := by assumption) (f_xfers : F.xfers = true := by assumption) (f_releases : F.releases = true := by assumption) (f_nextXfer : F.nextXfer = true := by assumption) (f_nextOp : F.nextOp = true := by assumption) (f_latches : F.latches = true := by assumption) (f_out : F.out = true := by assumption) :
    Keeps F s s' := by
  unfold execModuleRestart at e
  refine guarded_keeps ?_ e
  have hK := Keeps.refl F s
  try dsimp only
  repeat' first
    | with_reducible assumption
    | with_reducible apply Keeps.setNow
    | with_reducible apply cfgSource_keeps
    | with_reducible apply restartModule_keeps
    | intro _

theorem execPartRestart_keeps {F : Footprint} {s s' : State} (src : CmdSrc) (p now : Nat) (e : execPartRestart src p now s = .next s') (f_cfg : F.cfg = true := by assumption) (f_time : F.time = true := by assumption) (f_log : F.log = true := by assumption) (f_fm : F.fm = true := by assumption) (f_mcEv : F.mcEv = true := by assumption) (f_dies : F.dies = true := by assumption) (f_tiles : F.tiles = true := by assumption) (f_stackTab : F.stackTab = true := by assumption) (f_feedPorts : F.feedPorts = true := by assumption) (f_feedIods : F.feedIods = true := by assumption) (f_fns : F.fns = true := by assumption) (f_engines : F.engines = true := by assumption) (f_parts : F.parts = true := by assumption) (f_entries : F.entries = true := by assumption) (f_dram : F.dram = true := by assumption) (f_nextOp : F.nextOp = true := by assumption) (f_out : F.out = true := by assumption) (f_free : F.free = true := by assumption) :
    Keeps F s s' := by
  unfold execPartRestart at e
  refine guarded_keeps ?_ e
  have hK := Keeps.refl F s
  try dsimp only
  repeat' first
    | with_reducible assumption
    | with_reducible apply Keeps.setNow
    | with_reducible apply restartBegin_keeps
    | with_reducible apply cfgSource_keeps
    | intro _

theorem execOwnersReload_keeps {F : Footprint} {s s' : State} (src : CmdSrc) (now : Nat) (e : execOwnersReload src now s = .next s') (f_cfg : F.cfg = true := by assumption) (f_time : F.time = true := by assumption) (f_log : F.log = true := by assumption) (f_mcEv : F.mcEv = true := by assumption) (f_dies : F.dies = true := by assumption) (f_out : F.out = true := by assumption) :
    Keeps F s s' := by
  unfold execOwnersReload at e
  refine guarded_keeps ?_ e
  have hK := Keeps.refl F s
  try dsimp only
  repeat' first
    | with_reducible assumption
    | with_reducible apply Keeps.setNow
    | with_reducible apply ownersBegin_keeps
    | with_reducible apply cfgSource_keeps
    | intro _

theorem execCfgWrite_keeps {F : Footprint} {s s' : State} (req : Requester) (image : List Byte) (now : Nat) (e : execCfgWrite req image now s = .next s') (f_cfg : F.cfg = true := by assumption) (f_time : F.time = true := by assumption) :
    Keeps F s s' := by
  unfold execCfgWrite at e
  refine guarded_keeps ?_ e
  have hK := Keeps.refl F s
  try dsimp only
  repeat' first
    | with_reducible assumption
    | with_reducible apply Keeps.setNow
    | with_reducible apply writeBegin_keeps
    | split

theorem execCfgFlashWriteDone_keeps {F : Footprint} {s s' : State} (readback : List Byte) (now : Nat) (e : execCfgFlashWriteDone readback now s = .next s') (f_cfg : F.cfg = true := by assumption) (f_time : F.time = true := by assumption) :
    Keeps F s s' := by
  unfold execCfgFlashWriteDone at e
  refine guarded_keeps ?_ e
  have hK := Keeps.refl F s
  try dsimp only
  repeat' first
    | with_reducible assumption
    | with_reducible apply Keeps.setNow
    | with_reducible apply writeStep_keeps

end Sys2Proof.Machine
end

