-- ==== Sys2Proof/Laws/KeepsElectrical.lean ====
section
/-! SUPPORT. The operations of Machine/Electrical.lean have `Keeps`: one lemma each. -/

namespace Sys2Proof.Machine

set_option Elab.async false

theorem tapLoad_keeps {F : Footprint} {s0 s : State} (hK : Keeps F s0 s) (i : Nat) (f_free : F.free = true := by assumption) :
    Keeps F s0 (tapLoad s i).1 := by
  unfold tapLoad
  try dsimp only
  repeat' first
    | with_reducible assumption
    | with_reducible apply freeWord_keeps
    | with_reducible refine Keeps.fst ?_ ‹_ = (_, _)›
    | split

theorem tapSet_keeps {F : Footprint} {s0 s : State} (hK : Keeps F s0 s) (i v : Nat) (f_power : F.power = true := by assumption) :
    Keeps F s0 (tapSet s i v) := by
  unfold tapSet
  try dsimp only
  repeat' first
    | with_reducible assumption
    | split
    | dsimp only
    | with_reducible refine Keeps.upd ?_

theorem tapCapture_keeps {F : Footprint} {s0 s : State} (hK : Keeps F s0 s) (f_power : F.power = true := by assumption) (f_free : F.free = true := by assumption) :
    Keeps F s0 (tapCapture s) := by
  unfold tapCapture
  try dsimp only
  repeat' first
    | with_reducible assumption
    | with_reducible apply tapLoad_keeps
    | with_reducible apply tapSet_keeps
    | (with_reducible apply Keeps.foldl; intro _ _ _)

theorem tapShift_keeps {F : Footprint} {s0 s : State} (hK : Keeps F s0 s) (tdi : Bool) (f_power : F.power = true := by assumption) :
    Keeps F s0 (tapShift s tdi) := by
  unfold tapShift
  try dsimp only
  repeat' first
    | with_reducible assumption
    | with_reducible apply tapSet_keeps
    | (with_reducible apply Keeps.foldl_fst; intro _ _ _)
    | split
    | dsimp only
    | with_reducible refine Keeps.upd ?_

theorem execPowerUp_keeps {F : Footprint} {s s' : State} (vin48mV : Nat) (jtagEn : Bool) (e : execPowerUp vin48mV jtagEn s = .next s') (f_power : F.power = true := by assumption) :
    Keeps F s s' := by
  unfold execPowerUp at e
  refine guarded_keeps ?_ e
  split
  · exact Keeps.refl F s
  · rename_i hc
    have h := Keeps.refl F s
    have hs : ∀ p : Power, (s.cfg.started = true → s.power.pwrgd = true ∧ s.power.testMode = false) →
        s.cfg.started = true → p.pwrgd = true ∧ p.testMode = false := fun _ i c => absurd (i c).1 hc
    dsimp only
    split
    · with_reducible refine Keeps.upd h (hs := hs _)
    · with_reducible refine Keeps.upd h (hs := hs _)

theorem execModEnFall_keeps {F : Footprint} {s s' : State} (e : execModEnFall s = .next s') (f_power : F.power = true := by assumption) (f_cfg : F.cfg = true := by assumption) (f_time : F.time = true := by assumption) (f_log : F.log = true := by assumption) (f_therm : F.therm = true := by assumption) (f_fm : F.fm = true := by assumption) (f_lantern : F.lantern = true := by assumption) (f_mcEv : F.mcEv = true := by assumption) (f_dies : F.dies = true := by assumption) (f_tiles : F.tiles = true := by assumption) (f_stackTab : F.stackTab = true := by assumption) (f_feedPorts : F.feedPorts = true := by assumption) (f_feedIods : F.feedIods = true := by assumption) (f_hostPorts : F.hostPorts = true := by assumption) (f_fns : F.fns = true := by assumption) (f_reservoirs : F.reservoirs = true := by assumption) (f_engines : F.engines = true := by assumption) (f_parts : F.parts = true := by assumption) (f_ptSel : F.ptSel = true := by assumption) (f_entries : F.entries = true := by assumption) (f_dram : F.dram = true := by assumption) (f_xfers : F.xfers = true := by assumption) (f_releases : F.releases = true := by assumption) (f_nextXfer : F.nextXfer = true := by assumption) (f_nextOp : F.nextOp = true := by assumption) (f_latches : F.latches = true := by assumption) (f_free : F.free = true := by assumption) :
    Keeps F s s' := by
  unfold execModEnFall at e
  refine guarded_keeps ?_ e
  have hK := Keeps.refl F s
  try dsimp only
  repeat' first
    | with_reducible assumption
    | with_reducible apply powerDown_keeps
    | split
    | dsimp only
    | with_reducible refine Keeps.upd ?_

theorem execVin48Undervoltage_keeps {F : Footprint} {s s' : State} (vin48mV : Nat) (e : execVin48Undervoltage vin48mV s = .next s') (f_power : F.power = true := by assumption) (f_cfg : F.cfg = true := by assumption) (f_time : F.time = true := by assumption) (f_log : F.log = true := by assumption) (f_therm : F.therm = true := by assumption) (f_fm : F.fm = true := by assumption) (f_lantern : F.lantern = true := by assumption) (f_mcEv : F.mcEv = true := by assumption) (f_dies : F.dies = true := by assumption) (f_tiles : F.tiles = true := by assumption) (f_stackTab : F.stackTab = true := by assumption) (f_feedPorts : F.feedPorts = true := by assumption) (f_feedIods : F.feedIods = true := by assumption) (f_hostPorts : F.hostPorts = true := by assumption) (f_fns : F.fns = true := by assumption) (f_reservoirs : F.reservoirs = true := by assumption) (f_engines : F.engines = true := by assumption) (f_parts : F.parts = true := by assumption) (f_ptSel : F.ptSel = true := by assumption) (f_entries : F.entries = true := by assumption) (f_dram : F.dram = true := by assumption) (f_xfers : F.xfers = true := by assumption) (f_releases : F.releases = true := by assumption) (f_nextXfer : F.nextXfer = true := by assumption) (f_nextOp : F.nextOp = true := by assumption) (f_latches : F.latches = true := by assumption) (f_free : F.free = true := by assumption) :
    Keeps F s s' := by
  unfold execVin48Undervoltage at e
  refine guarded_keeps ?_ e
  have hK := Keeps.refl F s
  try dsimp only
  repeat' first
    | with_reducible assumption
    | with_reducible apply powerDown_keeps
    | split
    | dsimp only
    | with_reducible refine Keeps.upd ?_

theorem execAuxOutOfRange_keeps {F : Footprint} {s s' : State} (e : execAuxOutOfRange s = .next s') (f_power : F.power = true := by assumption) (f_cfg : F.cfg = true := by assumption) (f_time : F.time = true := by assumption) (f_log : F.log = true := by assumption) (f_therm : F.therm = true := by assumption) (f_fm : F.fm = true := by assumption) (f_lantern : F.lantern = true := by assumption) (f_mcEv : F.mcEv = true := by assumption) (f_dies : F.dies = true := by assumption) (f_tiles : F.tiles = true := by assumption) (f_stackTab : F.stackTab = true := by assumption) (f_feedPorts : F.feedPorts = true := by assumption) (f_feedIods : F.feedIods = true := by assumption) (f_hostPorts : F.hostPorts = true := by assumption) (f_fns : F.fns = true := by assumption) (f_reservoirs : F.reservoirs = true := by assumption) (f_engines : F.engines = true := by assumption) (f_parts : F.parts = true := by assumption) (f_ptSel : F.ptSel = true := by assumption) (f_entries : F.entries = true := by assumption) (f_dram : F.dram = true := by assumption) (f_xfers : F.xfers = true := by assumption) (f_releases : F.releases = true := by assumption) (f_nextXfer : F.nextXfer = true := by assumption) (f_nextOp : F.nextOp = true := by assumption) (f_latches : F.latches = true := by assumption) (f_free : F.free = true := by assumption) :
    Keeps F s s' := by
  unfold execAuxOutOfRange at e
  refine guarded_keeps ?_ e
  have hK := Keeps.refl F s
  try dsimp only
  repeat' first
    | with_reducible assumption
    | with_reducible apply powerDown_keeps
    | split
    | dsimp only
    | with_reducible refine Keeps.upd ?_

theorem execAuxInRange_keeps {F : Footprint} {s s' : State} (e : execAuxInRange s = .next s') (f_power : F.power = true := by assumption) :
    Keeps F s s' := by
  unfold execAuxInRange at e
  refine guarded_keeps ?_ e
  have hK := Keeps.refl F s
  try dsimp only
  repeat' first
    | with_reducible assumption
    | split
    | dsimp only
    | with_reducible refine Keeps.upd ?_

theorem execBoundaryScanCycle_keeps {F : Footprint} {s s' : State} (trst tms tdi : Bool) (irs : List TapInstr) (e : execBoundaryScanCycle trst tms tdi irs s = .next s') (f_power : F.power = true := by assumption) (f_free : F.free = true := by assumption) :
    Keeps F s s' := by
  unfold execBoundaryScanCycle at e
  refine guarded_keeps ?_ e
  have hK := Keeps.refl F s
  try dsimp only
  repeat' first
    | with_reducible assumption
    | with_reducible apply tapCapture_keeps
    | with_reducible apply tapShift_keeps
    | with_reducible refine Keeps.fst ?_ ‹_ = (_, _)›
    | split
    | dsimp only
    | with_reducible refine Keeps.upd ?_

end Sys2Proof.Machine
end

