-- ==== Sys2Proof/Laws/KeepsOpsHost.lean ====
section
/-! SUPPORT. The operations of Machine/OpsHost.lean have `Keeps`: one lemma each. -/

namespace Sys2Proof.Machine

set_option Elab.async false

theorem modEr_keeps {F : Footprint} {s0 s : State} (hK : Keeps F s0 s) (fn : Nat) (f : EvRing → EvRing) (f_fns : F.fns = true := by assumption) :
    Keeps F s0 (modEr s fn f) := by
  unfold modEr
  try dsimp only
  repeat' first
    | with_reducible assumption
    | with_reducible apply Keeps.modFn

theorem ringOff_keeps {F : Footprint} {s0 s : State} (hK : Keeps F s0 s) (fn k : Nat) (f_fns : F.fns = true := by assumption) :
    Keeps F s0 (ringOff s fn k) := by
  unfold ringOff
  try dsimp only
  repeat' first
    | with_reducible assumption
    | with_reducible apply State.modRing_keeps
    | with_reducible apply modEr_keeps
    | split

theorem ringStart_keeps {F : Footprint} {s0 s : State} (hK : Keeps F s0 s) (fn k : Nat) (f_fns : F.fns = true := by assumption) :
    Keeps F s0 (ringStart s fn k) := by
  unfold ringStart
  try dsimp only
  repeat' first
    | with_reducible assumption
    | with_reducible apply State.modRing_keeps
    | with_reducible apply modEr_keeps
    | split

theorem ringEnable_keeps {F : Footprint} {s0 s : State} (hK : Keeps F s0 s) (fn k off : Nat) (on : Bool) (f_fns : F.fns = true := by assumption) (f_out : F.out = true := by assumption) :
    Keeps F s0 (ringEnable s fn k off on) := by
  unfold ringEnable
  try dsimp only
  repeat' first
    | with_reducible assumption
    | with_reducible apply refuse_keeps
    | with_reducible apply ringOff_keeps
    | with_reducible apply ringStart_keeps
    | split

theorem queueFault_keeps {F : Footprint} {s0 s : State} (hK : Keeps F s0 s) (fn k reason off : Nat) (f_mcEv : F.mcEv = true := by assumption) (f_dies : F.dies = true := by assumption) (f_fns : F.fns = true := by assumption) (f_out : F.out = true := by assumption) :
    Keeps F s0 (queueFault s fn k reason off) := by
  unfold queueFault
  try dsimp only
  repeat' first
    | with_reducible assumption
    | with_reducible apply Keeps.modFn
    | with_reducible apply report_keeps
    | with_reducible apply setEvt_keeps
    | with_reducible apply State.modRing_keeps
    | with_reducible apply ringOff_keeps
    | split

theorem addItem_keeps {F : Footprint} {s0 s : State} (hK : Keeps F s0 s) (p e : Nat) (i : Item) (f_parts : F.parts = true := by assumption) (f_entries : F.entries = true := by assumption) :
    Keeps F s0 (addItem s p e i) := by
  unfold addItem
  try dsimp only
  repeat' first
    | with_reducible assumption
    | with_reducible apply Keeps.modPart
    | with_reducible apply Keeps.modEntry

theorem descOpen_keeps {F : Footprint} {s0 s : State} (hK : Keeps F s0 s) (p : Nat) (h : HostRef) (d : List Byte) (f_mcEv : F.mcEv = true := by assumption) (f_dies : F.dies = true := by assumption) (f_fns : F.fns = true := by assumption) (f_parts : F.parts = true := by assumption) (f_entries : F.entries = true := by assumption) :
    Keeps F s0 (descOpen s p h d) := by
  unfold descOpen
  try dsimp only
  repeat' first
    | with_reducible assumption
    | with_reducible apply completeWith_keeps
    | with_reducible apply keyInsert_keeps
    | with_reducible refine openEntry_keeps ?_ ‹_›
    | with_reducible refine openMain_keeps ?_ ‹_›
    | with_reducible apply tableFull_keeps
    | with_reducible refine Keeps.fst ?_ ‹_ = (_, _)›
    | split

theorem descScore_keeps {F : Footprint} {s0 s : State} (hK : Keeps F s0 s) (p : Nat) (h : HostRef) (arr : Nat) (d : List Byte) (f_fns : F.fns = true := by assumption) (f_parts : F.parts = true := by assumption) (f_entries : F.entries = true := by assumption) :
    Keeps F s0 (descScore s p h arr d) := by
  unfold descScore
  try dsimp only
  repeat' first
    | with_reducible assumption
    | with_reducible apply completeWith_keeps
    | with_reducible apply addItem_keeps
    | split

theorem descDecode_keeps {F : Footprint} {s0 s : State} (hK : Keeps F s0 s) (p : Nat) (h : HostRef) (arr : Nat) (d : List Byte) (f_fns : F.fns = true := by assumption) (f_parts : F.parts = true := by assumption) (f_entries : F.entries = true := by assumption) :
    Keeps F s0 (descDecode s p h arr d) := by
  unfold descDecode
  try dsimp only
  repeat' first
    | with_reducible assumption
    | with_reducible apply completeWith_keeps
    | with_reducible apply addItem_keeps
    | split

theorem descClose_keeps {F : Footprint} {s0 s : State} (hK : Keeps F s0 s) (p : Nat) (h : HostRef) (d : List Byte) (f_mcEv : F.mcEv = true := by assumption) (f_dies : F.dies = true := by assumption) (f_feedPorts : F.feedPorts = true := by assumption) (f_fns : F.fns = true := by assumption) (f_parts : F.parts = true := by assumption) (f_entries : F.entries = true := by assumption) (f_out : F.out = true := by assumption) (f_free : F.free = true := by assumption) :
    Keeps F s0 (descClose s p h d) := by
  unfold descClose
  try dsimp only
  repeat' first
    | with_reducible assumption
    | with_reducible apply completeWith_keeps
    | with_reducible apply closeEntry_keeps
    | split

theorem descQuery_keeps {F : Footprint} {s0 s : State} (hK : Keeps F s0 s) (p : Nat) (h : HostRef) (d : List Byte) (f_fns : F.fns = true := by assumption) (f_parts : F.parts = true := by assumption) :
    Keeps F s0 (descQuery s p h d) := by
  unfold descQuery
  try dsimp only
  repeat' first
    | with_reducible assumption
    | with_reducible apply produce_keeps
    | with_reducible apply completeWith_keeps
    | split

theorem runDesc_keeps {F : Footprint} {s0 s : State} (hK : Keeps F s0 s) (p fn n arr : Nat) (d : List Byte) (f_mcEv : F.mcEv = true := by assumption) (f_dies : F.dies = true := by assumption) (f_feedPorts : F.feedPorts = true := by assumption) (f_fns : F.fns = true := by assumption) (f_parts : F.parts = true := by assumption) (f_entries : F.entries = true := by assumption) (f_out : F.out = true := by assumption) (f_free : F.free = true := by assumption) :
    Keeps F s0 (runDesc s p fn n arr d) := by
  unfold runDesc
  try dsimp only
  repeat' first
    | with_reducible assumption
    | with_reducible apply Keeps.modFn
    | with_reducible apply Keeps.emit
    | with_reducible apply completeWith_keeps
    | with_reducible apply descOpen_keeps
    | with_reducible apply descScore_keeps
    | with_reducible apply descDecode_keeps
    | with_reducible apply descClose_keeps
    | with_reducible apply descQuery_keeps
    | with_reducible refine Keeps.fst ?_ ‹_ = (_, _)›
    | split

theorem placeBatch_keeps {F : Footprint} {s0 s : State} (hK : Keeps F s0 s) (p : Nat) (h : HostRef) (bs : List Byte) (f_fns : F.fns = true := by assumption) (f_parts : F.parts = true := by assumption) (f_entries : F.entries = true := by assumption) :
    Keeps F s0 (placeBatch s p h bs) := by
  unfold placeBatch
  try dsimp only
  repeat' first
    | with_reducible assumption
    | with_reducible apply Keeps.modEntry
    | with_reducible apply completeWith_keeps
    | with_reducible apply modPool_keeps
    | split

theorem complData_keeps {F : Footprint} {s0 s : State} (hK : Keeps F s0 s) (fn : Nat) (c : Compl) (f_out : F.out = true := by assumption) :
    Keeps F s0 (complData s fn c) := by
  unfold complData
  try dsimp only
  repeat' first
    | with_reducible assumption
    | with_reducible apply Keeps.emit
    | (with_reducible apply Keeps.foldl; intro _ _ _)

theorem cqSignal_keeps {F : Footprint} {s0 s : State} (hK : Keeps F s0 s) (fn n : Nat) (f_fns : F.fns = true := by assumption) (f_out : F.out = true := by assumption) :
    Keeps F s0 (cqSignal s fn n) := by
  unfold cqSignal
  try dsimp only
  repeat' first
    | with_reducible assumption
    | with_reducible apply raiseVec_keeps
    | with_reducible apply State.modRing_keeps

theorem cqCount_keeps {F : Footprint} {s0 s : State} (hK : Keeps F s0 s) (fn n : Nat) (f_fns : F.fns = true := by assumption) (f_out : F.out = true := by assumption) :
    Keeps F s0 (cqCount s fn n) := by
  unfold cqCount
  try dsimp only
  repeat' first
    | with_reducible assumption
    | with_reducible apply cqSignal_keeps
    | split

theorem cqAdvance_keeps {F : Footprint} {s0 s : State} (hK : Keeps F s0 s) (fn n : Nat) (f_fns : F.fns = true := by assumption) (f_out : F.out = true := by assumption) :
    Keeps F s0 (cqAdvance s fn n) := by
  unfold cqAdvance
  try dsimp only
  repeat' first
    | with_reducible assumption
    | with_reducible apply State.modRing_keeps
    | with_reducible apply cqCount_keeps

theorem postCompl_keeps {F : Footprint} {s0 s : State} (hK : Keeps F s0 s) (fn : Nat) (f_fns : F.fns = true := by assumption) (f_parts : F.parts = true := by assumption) (f_out : F.out = true := by assumption) :
    Keeps F s0 (postCompl s fn) := by
  unfold postCompl
  try dsimp only
  repeat' first
    | with_reducible assumption
    | with_reducible apply Keeps.modFn
    | with_reducible apply Keeps.emit
    | with_reducible apply progress_keeps
    | with_reducible apply complData_keeps
    | with_reducible apply cqAdvance_keeps
    | with_reducible refine Keeps.fst ?_ ‹_ = (_, _)›
    | split

theorem freeBytes_keeps {F : Footprint} {s0 s : State} (hK : Keeps F s0 s) (n : Nat) (f_free : F.free = true := by assumption) :
    Keeps F s0 (freeBytes s n).1 := by
  unfold freeBytes
  try dsimp only
  repeat' first
    | with_reducible assumption
    | with_reducible apply Keeps.take

theorem erWrite_keeps {F : Footprint} {s0 s : State} (hK : Keeps F s0 s) (fn : Nat) (x0 : List SpoolRec) (f_fns : F.fns = true := by assumption) (f_out : F.out = true := by assumption) (f_free : F.free = true := by assumption) :
    Keeps F s0 (erWrite fn x0 s) := by
  induction x0 generalizing fn s with
  | nil => unfold erWrite; exact hK
  | cons _ _ ih =>
    unfold erWrite
    try dsimp only
    repeat' first
      | with_reducible assumption
      | with_reducible apply ih
      | with_reducible apply Keeps.emit
      | with_reducible apply modEr_keeps
      | with_reducible apply freeBytes_keeps
      | with_reducible refine Keeps.fst ?_ ‹_ = (_, _)›
      | split

theorem flushMsix_keeps {F : Footprint} {s0 s : State} (hK : Keeps F s0 s) (fn : Nat) (f_fns : F.fns = true := by assumption) (f_out : F.out = true := by assumption) :
    Keeps F s0 (flushMsix s fn) := by
  unfold flushMsix
  try dsimp only
  repeat' first
    | with_reducible assumption
    | with_reducible apply Keeps.modFn
    | with_reducible apply Keeps.emit
    | (with_reducible apply Keeps.foldl; intro _ _ _)
    | split

theorem flrInstalls_keeps {F : Footprint} {s0 s : State} (hK : Keeps F s0 s) (fn : Nat) (f_cfg : F.cfg = true := by assumption) (f_log : F.log = true := by assumption) (f_mcEv : F.mcEv = true := by assumption) (f_dies : F.dies = true := by assumption) (f_fns : F.fns = true := by assumption) (f_reservoirs : F.reservoirs = true := by assumption) (f_engines : F.engines = true := by assumption) (f_parts : F.parts = true := by assumption) (f_out : F.out = true := by assumption) (f_free : F.free = true := by assumption) :
    Keeps F s0 (flrInstalls s fn) := by
  unfold flrInstalls
  try dsimp only
  repeat' first
    | with_reducible assumption
    | with_reducible apply failInstall_keeps
    | with_reducible apply openReason_keeps
    | (with_reducible apply Keeps.foldl; intro _ _ _)

theorem flrPart_keeps {F : Footprint} {s0 s : State} (hK : Keeps F s0 s) (fn : Nat) (f_parts : F.parts = true := by assumption) (f_entries : F.entries = true := by assumption) :
    Keeps F s0 (flrPart s fn) := by
  unfold flrPart
  try dsimp only
  repeat' first
    | with_reducible assumption
    | with_reducible apply Keeps.modPart
    | with_reducible apply Keeps.modEntry
    | (with_reducible apply Keeps.foldl; intro _ _ _)
    | with_reducible refine Keeps.fst ?_ ‹_ = (_, _)›
    | split

theorem flrEngines_keeps {F : Footprint} {s0 s : State} (hK : Keeps F s0 s) (fn : Nat) (f_engines : F.engines = true := by assumption) :
    Keeps F s0 (flrEngines s fn) := by
  unfold flrEngines
  try dsimp only
  repeat' first
    | with_reducible assumption
    | with_reducible apply Keeps.modEngine
    | (with_reducible apply Keeps.foldl; intro _ _ _)

theorem dropLatches_keeps {F : Footprint} {s0 s : State} (hK : Keeps F s0 s) (r : Requester) (f_latches : F.latches = true := by assumption) :
    Keeps F s0 (dropLatches s r) := by
  unfold dropLatches
  try dsimp only
  repeat' first
    | with_reducible assumption
    | split
    | dsimp only
    | with_reducible refine Keeps.upd ?_

theorem flrReport_keeps {F : Footprint} {s0 s : State} (hK : Keeps F s0 s) (fn : Nat) (f_mcEv : F.mcEv = true := by assumption) (f_dies : F.dies = true := by assumption) :
    Keeps F s0 (flrReport s fn) := by
  unfold flrReport
  try dsimp only
  repeat' first
    | with_reducible assumption
    | with_reducible apply report_keeps

theorem flrFn_keeps {F : Footprint} {s0 s : State} (hK : Keeps F s0 s) (fn : Nat) (f_cfg : F.cfg = true := by assumption) (f_log : F.log = true := by assumption) (f_fm : F.fm = true := by assumption) (f_mcEv : F.mcEv = true := by assumption) (f_dies : F.dies = true := by assumption) (f_tiles : F.tiles = true := by assumption) (f_stackTab : F.stackTab = true := by assumption) (f_feedPorts : F.feedPorts = true := by assumption) (f_fns : F.fns = true := by assumption) (f_reservoirs : F.reservoirs = true := by assumption) (f_engines : F.engines = true := by assumption) (f_parts : F.parts = true := by assumption) (f_entries : F.entries = true := by assumption) (f_dram : F.dram = true := by assumption) (f_latches : F.latches = true := by assumption) (f_out : F.out = true := by assumption) (f_free : F.free = true := by assumption) :
    Keeps F s0 (flrFn s fn) := by
  unfold flrFn
  try dsimp only
  repeat' first
    | with_reducible assumption
    | with_reducible apply Keeps.modFn
    | with_reducible apply resetStart_keeps
    | with_reducible apply flrInstalls_keeps
    | with_reducible apply flrPart_keeps
    | with_reducible apply flrEngines_keeps
    | with_reducible apply dropLatches_keeps
    | with_reducible apply flrReport_keeps
    | with_reducible refine Keeps.fst ?_ ‹_ = (_, _)›
    | split

theorem hostLinkEvent_keeps {F : Footprint} {s0 s : State} (hK : Keeps F s0 s) (port : Nat) (f_mcEv : F.mcEv = true := by assumption) (f_dies : F.dies = true := by assumption) :
    Keeps F s0 (hostLinkEvent s port) := by
  unfold hostLinkEvent
  try dsimp only
  repeat' first
    | with_reducible assumption
    | with_reducible apply report_keeps

theorem linkLoss_keeps {F : Footprint} {s0 s : State} (hK : Keeps F s0 s) (port : Nat) (f_cfg : F.cfg = true := by assumption) (f_log : F.log = true := by assumption) (f_fm : F.fm = true := by assumption) (f_mcEv : F.mcEv = true := by assumption) (f_dies : F.dies = true := by assumption) (f_tiles : F.tiles = true := by assumption) (f_stackTab : F.stackTab = true := by assumption) (f_feedPorts : F.feedPorts = true := by assumption) (f_hostPorts : F.hostPorts = true := by assumption) (f_fns : F.fns = true := by assumption) (f_reservoirs : F.reservoirs = true := by assumption) (f_engines : F.engines = true := by assumption) (f_parts : F.parts = true := by assumption) (f_entries : F.entries = true := by assumption) (f_dram : F.dram = true := by assumption) (f_latches : F.latches = true := by assumption) (f_out : F.out = true := by assumption) (f_free : F.free = true := by assumption) :
    Keeps F s0 (linkLoss s port) := by
  unfold linkLoss
  try dsimp only
  repeat' first
    | with_reducible assumption
    | with_reducible apply Keeps.modHport
    | with_reducible apply flrFn_keeps
    | with_reducible apply hostLinkEvent_keeps
    | (with_reducible apply Keeps.foldl; intro _ _ _)
    | split

theorem bar2Cross_keeps {F : Footprint} {s0 s : State} (hK : Keeps F s0 s) (fn p off n : Nat) (write : Bool) (f_dies : F.dies = true := by assumption) :
    Keeps F s0 (bar2Cross s fn p off n write) := by
  unfold bar2Cross
  try dsimp only
  repeat' first
    | with_reducible assumption
    | with_reducible apply countPath_keeps
    | with_reducible refine Keeps.fst ?_ ‹_ = (_, _)›
    | split

theorem sqTailWrite_keeps {F : Footprint} {s0 s : State} (hK : Keeps F s0 s) (fn n value : Nat) (f_mcEv : F.mcEv = true := by assumption) (f_dies : F.dies = true := by assumption) (f_fns : F.fns = true := by assumption) (f_out : F.out = true := by assumption) :
    Keeps F s0 (sqTailWrite s fn n value) := by
  unfold sqTailWrite
  try dsimp only
  repeat' first
    | with_reducible assumption
    | with_reducible apply State.modRing_keeps
    | with_reducible apply queueFault_keeps
    | split

theorem cqHeadWrite_keeps {F : Footprint} {s0 s : State} (hK : Keeps F s0 s) (fn n value : Nat) (f_mcEv : F.mcEv = true := by assumption) (f_dies : F.dies = true := by assumption) (f_fns : F.fns = true := by assumption) (f_out : F.out = true := by assumption) :
    Keeps F s0 (cqHeadWrite s fn n value) := by
  unfold cqHeadWrite
  try dsimp only
  repeat' first
    | with_reducible assumption
    | with_reducible apply State.modRing_keeps
    | with_reducible apply queueFault_keeps
    | split

theorem erHeadWrite_keeps {F : Footprint} {s0 s : State} (hK : Keeps F s0 s) (fn value : Nat) (f_mcEv : F.mcEv = true := by assumption) (f_dies : F.dies = true := by assumption) (f_fns : F.fns = true := by assumption) (f_parts : F.parts = true := by assumption) (f_out : F.out = true := by assumption) :
    Keeps F s0 (erHeadWrite s fn value) := by
  unfold erHeadWrite
  try dsimp only
  repeat' first
    | with_reducible assumption
    | with_reducible apply Keeps.modPart
    | with_reducible apply modEr_keeps
    | with_reducible apply queueFault_keeps
    | with_reducible refine Keeps.fst ?_ ‹_ = (_, _)›
    | split

theorem qCtrlWrite_keeps {F : Footprint} {s0 s : State} (hK : Keeps F s0 s) (fn value : Nat) (f_fns : F.fns = true := by assumption) (f_out : F.out = true := by assumption) :
    Keeps F s0 (qCtrlWrite s fn value) := by
  unfold qCtrlWrite
  try dsimp only
  repeat' first
    | with_reducible assumption
    | with_reducible apply Keeps.modFn
    | with_reducible apply refuse_keeps
    | split

theorem sqCtrlWrite_keeps {F : Footprint} {s0 s : State} (hK : Keeps F s0 s) (fn n value : Nat) (f_fns : F.fns = true := by assumption) (f_out : F.out = true := by assumption) :
    Keeps F s0 (sqCtrlWrite s fn n value) := by
  unfold sqCtrlWrite
  try dsimp only
  repeat' first
    | with_reducible assumption
    | with_reducible apply refuse_keeps
    | with_reducible apply State.modRing_keeps
    | with_reducible apply ringEnable_keeps
    | split

theorem cqCtrlWrite_keeps {F : Footprint} {s0 s : State} (hK : Keeps F s0 s) (fn n value : Nat) (f_fns : F.fns = true := by assumption) (f_out : F.out = true := by assumption) :
    Keeps F s0 (cqCtrlWrite s fn n value) := by
  unfold cqCtrlWrite
  try dsimp only
  repeat' first
    | with_reducible assumption
    | with_reducible apply refuse_keeps
    | with_reducible apply State.modRing_keeps
    | with_reducible apply ringEnable_keeps
    | with_reducible apply cqCount_keeps
    | split

theorem erCtrlWrite_keeps {F : Footprint} {s0 s : State} (hK : Keeps F s0 s) (fn value : Nat) (f_fns : F.fns = true := by assumption) (f_out : F.out = true := by assumption) :
    Keeps F s0 (erCtrlWrite s fn value) := by
  unfold erCtrlWrite
  try dsimp only
  repeat' first
    | with_reducible assumption
    | with_reducible apply refuse_keeps
    | with_reducible apply modEr_keeps
    | with_reducible apply ringEnable_keeps
    | split

theorem baseWrite_keeps {F : Footprint} {s0 s : State} (hK : Keeps F s0 s) (fn off value : Nat) (f_fns : F.fns = true := by assumption) (f_out : F.out = true := by assumption) :
    Keeps F s0 (baseWrite s fn off value) := by
  unfold baseWrite
  try dsimp only
  repeat' first
    | with_reducible assumption
    | with_reducible apply refuse_keeps
    | with_reducible apply State.modRing_keeps
    | with_reducible apply modEr_keeps
    | with_reducible refine Keeps.fst ?_ ‹_ = (_, _)›
    | split

theorem fnCtrlWrite_keeps {F : Footprint} {s0 s : State} (hK : Keeps F s0 s) (fn value : Nat) (f_cfg : F.cfg = true := by assumption) (f_fm : F.fm = true := by assumption) (f_mcEv : F.mcEv = true := by assumption) (f_dies : F.dies = true := by assumption) (f_tiles : F.tiles = true := by assumption) (f_stackTab : F.stackTab = true := by assumption) (f_feedPorts : F.feedPorts = true := by assumption) (f_fns : F.fns = true := by assumption) (f_engines : F.engines = true := by assumption) (f_parts : F.parts = true := by assumption) (f_entries : F.entries = true := by assumption) (f_dram : F.dram = true := by assumption) (f_out : F.out = true := by assumption) (f_free : F.free = true := by assumption) :
    Keeps F s0 (fnCtrlWrite s fn value) := by
  unfold fnCtrlWrite
  try dsimp only
  repeat' first
    | with_reducible assumption
    | with_reducible apply refuse_keeps
    | with_reducible apply resetStart_keeps
    | with_reducible refine Keeps.fst ?_ ‹_ = (_, _)›
    | split

theorem evtClear_keeps {F : Footprint} {s0 s : State} (hK : Keeps F s0 s) (fn value : Nat) (f_fns : F.fns = true := by assumption) :
    Keeps F s0 (evtClear s fn value) := by
  unfold evtClear
  try dsimp only
  repeat' first
    | with_reducible assumption
    | with_reducible apply Keeps.modFn

end Sys2Proof.Machine
end

