-- ==== Sys2Proof/Laws/KeepsHost.lean ====
section
/-! SUPPORT. The operations of Machine/Host.lean have `Keeps`: one lemma each. -/

namespace Sys2Proof.Machine

set_option Elab.async false

theorem execFlr_keeps {F : Footprint} {s s' : State} (fn now : Nat) (e : execFlr fn now s = .next s') (f_cfg : F.cfg = true := by assumption) (f_time : F.time = true := by assumption) (f_log : F.log = true := by assumption) (f_fm : F.fm = true := by assumption) (f_mcEv : F.mcEv = true := by assumption) (f_dies : F.dies = true := by assumption) (f_tiles : F.tiles = true := by assumption) (f_stackTab : F.stackTab = true := by assumption) (f_feedPorts : F.feedPorts = true := by assumption) (f_fns : F.fns = true := by assumption) (f_reservoirs : F.reservoirs = true := by assumption) (f_engines : F.engines = true := by assumption) (f_parts : F.parts = true := by assumption) (f_entries : F.entries = true := by assumption) (f_dram : F.dram = true := by assumption) (f_latches : F.latches = true := by assumption) (f_out : F.out = true := by assumption) (f_free : F.free = true := by assumption) :
    Keeps F s s' := by
  unfold execFlr at e
  refine guarded_keeps ?_ e
  have hK := Keeps.refl F s
  try dsimp only
  repeat' first
    | with_reducible assumption
    | with_reducible apply Keeps.setNow
    | with_reducible apply flrFn_keeps
    | split

theorem execD3hotToD0_keeps {F : Footprint} {s s' : State} (fn now : Nat) (e : execD3hotToD0 fn now s = .next s') (f_cfg : F.cfg = true := by assumption) (f_time : F.time = true := by assumption) (f_log : F.log = true := by assumption) (f_fm : F.fm = true := by assumption) (f_mcEv : F.mcEv = true := by assumption) (f_dies : F.dies = true := by assumption) (f_tiles : F.tiles = true := by assumption) (f_stackTab : F.stackTab = true := by assumption) (f_feedPorts : F.feedPorts = true := by assumption) (f_fns : F.fns = true := by assumption) (f_reservoirs : F.reservoirs = true := by assumption) (f_engines : F.engines = true := by assumption) (f_parts : F.parts = true := by assumption) (f_entries : F.entries = true := by assumption) (f_dram : F.dram = true := by assumption) (f_latches : F.latches = true := by assumption) (f_out : F.out = true := by assumption) (f_free : F.free = true := by assumption) :
    Keeps F s s' := by
  unfold execD3hotToD0 at e
  refine guarded_keeps ?_ e
  have hK := Keeps.refl F s
  try dsimp only
  repeat' first
    | with_reducible assumption
    | with_reducible apply Keeps.setNow
    | with_reducible apply flrFn_keeps
    | split

theorem execBusMasterEnableWrite_keeps {F : Footprint} {s s' : State} (fn : Nat) (on msix : Bool) (e : execBusMasterEnableWrite fn on msix s = .next s') (f_fns : F.fns = true := by assumption) (f_out : F.out = true := by assumption) :
    Keeps F s s' := by
  unfold execBusMasterEnableWrite at e
  refine guarded_keeps ?_ e
  have hK := Keeps.refl F s
  try dsimp only
  repeat' first
    | with_reducible assumption
    | with_reducible apply Keeps.modFn
    | with_reducible apply flushMsix_keeps
    | split

theorem execMsixUnmask_keeps {F : Footprint} {s s' : State} (fn vec : Nat) (e : execMsixUnmask fn vec s = .next s') (f_fns : F.fns = true := by assumption) (f_out : F.out = true := by assumption) :
    Keeps F s s' := by
  unfold execMsixUnmask at e
  refine guarded_keeps ?_ e
  have hK := Keeps.refl F s
  try dsimp only
  repeat' first
    | with_reducible assumption
    | with_reducible apply Keeps.modFn
    | with_reducible apply flushMsix_keeps

theorem execPerstAssert_keeps {F : Footprint} {s s' : State} (port : Nat) (e : execPerstAssert port s = .next s') (f_cfg : F.cfg = true := by assumption) (f_log : F.log = true := by assumption) (f_fm : F.fm = true := by assumption) (f_mcEv : F.mcEv = true := by assumption) (f_dies : F.dies = true := by assumption) (f_tiles : F.tiles = true := by assumption) (f_stackTab : F.stackTab = true := by assumption) (f_feedPorts : F.feedPorts = true := by assumption) (f_hostPorts : F.hostPorts = true := by assumption) (f_fns : F.fns = true := by assumption) (f_reservoirs : F.reservoirs = true := by assumption) (f_engines : F.engines = true := by assumption) (f_parts : F.parts = true := by assumption) (f_entries : F.entries = true := by assumption) (f_dram : F.dram = true := by assumption) (f_latches : F.latches = true := by assumption) (f_out : F.out = true := by assumption) (f_free : F.free = true := by assumption) :
    Keeps F s s' := by
  unfold execPerstAssert at e
  refine guarded_keeps ?_ e
  have hK := Keeps.refl F s
  try dsimp only
  repeat' first
    | with_reducible assumption
    | with_reducible apply linkLoss_keeps

theorem execHostLinkLoss_keeps {F : Footprint} {s s' : State} (port : Nat) (e : execHostLinkLoss port s = .next s') (f_cfg : F.cfg = true := by assumption) (f_log : F.log = true := by assumption) (f_fm : F.fm = true := by assumption) (f_mcEv : F.mcEv = true := by assumption) (f_dies : F.dies = true := by assumption) (f_tiles : F.tiles = true := by assumption) (f_stackTab : F.stackTab = true := by assumption) (f_feedPorts : F.feedPorts = true := by assumption) (f_hostPorts : F.hostPorts = true := by assumption) (f_fns : F.fns = true := by assumption) (f_reservoirs : F.reservoirs = true := by assumption) (f_engines : F.engines = true := by assumption) (f_parts : F.parts = true := by assumption) (f_entries : F.entries = true := by assumption) (f_dram : F.dram = true := by assumption) (f_latches : F.latches = true := by assumption) (f_out : F.out = true := by assumption) (f_free : F.free = true := by assumption) :
    Keeps F s s' := by
  unfold execHostLinkLoss at e
  refine guarded_keeps ?_ e
  have hK := Keeps.refl F s
  try dsimp only
  repeat' first
    | with_reducible assumption
    | with_reducible apply linkLoss_keeps

theorem execHostLinkTrained_keeps {F : Footprint} {s s' : State} (port rate width : Nat) (e : execHostLinkTrained port rate width s = .next s') (f_mcEv : F.mcEv = true := by assumption) (f_dies : F.dies = true := by assumption) (f_hostPorts : F.hostPorts = true := by assumption) :
    Keeps F s s' := by
  unfold execHostLinkTrained at e
  refine guarded_keeps ?_ e
  have hK := Keeps.refl F s
  try dsimp only
  repeat' first
    | with_reducible assumption
    | with_reducible apply Keeps.modHport
    | with_reducible apply hostLinkEvent_keeps
    | split

theorem execSqDoorbell_keeps {F : Footprint} {s s' : State} (fn n value now : Nat) (e : execSqDoorbell fn n value now s = .next s') (f_time : F.time = true := by assumption) (f_mcEv : F.mcEv = true := by assumption) (f_dies : F.dies = true := by assumption) (f_fns : F.fns = true := by assumption) (f_out : F.out = true := by assumption) :
    Keeps F s s' := by
  unfold execSqDoorbell at e
  refine guarded_keeps ?_ e
  have hK := Keeps.refl F s
  try dsimp only
  repeat' first
    | with_reducible assumption
    | with_reducible apply Keeps.setNow
    | with_reducible apply sqTailWrite_keeps

theorem execCqHeadDoorbell_keeps {F : Footprint} {s s' : State} (fn n value now : Nat) (e : execCqHeadDoorbell fn n value now s = .next s') (f_time : F.time = true := by assumption) (f_mcEv : F.mcEv = true := by assumption) (f_dies : F.dies = true := by assumption) (f_fns : F.fns = true := by assumption) (f_out : F.out = true := by assumption) :
    Keeps F s s' := by
  unfold execCqHeadDoorbell at e
  refine guarded_keeps ?_ e
  have hK := Keeps.refl F s
  try dsimp only
  repeat' first
    | with_reducible assumption
    | with_reducible apply Keeps.setNow
    | with_reducible apply cqHeadWrite_keeps

theorem execErHeadDoorbell_keeps {F : Footprint} {s s' : State} (fn value now : Nat) (e : execErHeadDoorbell fn value now s = .next s') (f_time : F.time = true := by assumption) (f_mcEv : F.mcEv = true := by assumption) (f_dies : F.dies = true := by assumption) (f_fns : F.fns = true := by assumption) (f_parts : F.parts = true := by assumption) (f_out : F.out = true := by assumption) :
    Keeps F s s' := by
  unfold execErHeadDoorbell at e
  refine guarded_keeps ?_ e
  have hK := Keeps.refl F s
  try dsimp only
  repeat' first
    | with_reducible assumption
    | with_reducible apply Keeps.setNow
    | with_reducible apply erHeadWrite_keeps

theorem execFnQCtrlWrite_keeps {F : Footprint} {s s' : State} (fn value : Nat) (e : execFnQCtrlWrite fn value s = .next s') (f_fns : F.fns = true := by assumption) (f_out : F.out = true := by assumption) :
    Keeps F s s' := by
  unfold execFnQCtrlWrite at e
  refine guarded_keeps ?_ e
  have hK := Keeps.refl F s
  try dsimp only
  repeat' first
    | with_reducible assumption
    | with_reducible apply qCtrlWrite_keeps

theorem execSqCtrlWrite_keeps {F : Footprint} {s s' : State} (fn n value : Nat) (e : execSqCtrlWrite fn n value s = .next s') (f_fns : F.fns = true := by assumption) (f_out : F.out = true := by assumption) :
    Keeps F s s' := by
  unfold execSqCtrlWrite at e
  refine guarded_keeps ?_ e
  have hK := Keeps.refl F s
  try dsimp only
  repeat' first
    | with_reducible assumption
    | with_reducible apply sqCtrlWrite_keeps

theorem execCqCtrlWrite_keeps {F : Footprint} {s s' : State} (fn n value : Nat) (e : execCqCtrlWrite fn n value s = .next s') (f_fns : F.fns = true := by assumption) (f_out : F.out = true := by assumption) :
    Keeps F s s' := by
  unfold execCqCtrlWrite at e
  refine guarded_keeps ?_ e
  have hK := Keeps.refl F s
  try dsimp only
  repeat' first
    | with_reducible assumption
    | with_reducible apply cqCtrlWrite_keeps

theorem execErCtrlWrite_keeps {F : Footprint} {s s' : State} (fn value : Nat) (e : execErCtrlWrite fn value s = .next s') (f_fns : F.fns = true := by assumption) (f_out : F.out = true := by assumption) :
    Keeps F s s' := by
  unfold execErCtrlWrite at e
  refine guarded_keeps ?_ e
  have hK := Keeps.refl F s
  try dsimp only
  repeat' first
    | with_reducible assumption
    | with_reducible apply erCtrlWrite_keeps

theorem execQueueBaseWrite_keeps {F : Footprint} {s s' : State} (fn off value : Nat) (e : execQueueBaseWrite fn off value s = .next s') (f_fns : F.fns = true := by assumption) (f_out : F.out = true := by assumption) :
    Keeps F s s' := by
  unfold execQueueBaseWrite at e
  refine guarded_keeps ?_ e
  have hK := Keeps.refl F s
  try dsimp only
  repeat' first
    | with_reducible assumption
    | with_reducible apply baseWrite_keeps

theorem execFnCtrlPartReset_keeps {F : Footprint} {s s' : State} (fn value now : Nat) (e : execFnCtrlPartReset fn value now s = .next s') (f_cfg : F.cfg = true := by assumption) (f_time : F.time = true := by assumption) (f_fm : F.fm = true := by assumption) (f_mcEv : F.mcEv = true := by assumption) (f_dies : F.dies = true := by assumption) (f_tiles : F.tiles = true := by assumption) (f_stackTab : F.stackTab = true := by assumption) (f_feedPorts : F.feedPorts = true := by assumption) (f_fns : F.fns = true := by assumption) (f_engines : F.engines = true := by assumption) (f_parts : F.parts = true := by assumption) (f_entries : F.entries = true := by assumption) (f_dram : F.dram = true := by assumption) (f_out : F.out = true := by assumption) (f_free : F.free = true := by assumption) :
    Keeps F s s' := by
  unfold execFnCtrlPartReset at e
  refine guarded_keeps ?_ e
  have hK := Keeps.refl F s
  try dsimp only
  repeat' first
    | with_reducible assumption
    | with_reducible apply Keeps.setNow
    | with_reducible apply fnCtrlWrite_keeps

theorem execFnEvtClear_keeps {F : Footprint} {s s' : State} (fn value : Nat) (e : execFnEvtClear fn value s = .next s') (f_fns : F.fns = true := by assumption) :
    Keeps F s s' := by
  unfold execFnEvtClear at e
  refine guarded_keeps ?_ e
  have hK := Keeps.refl F s
  try dsimp only
  repeat' first
    | with_reducible assumption
    | with_reducible apply evtClear_keeps

theorem execSqFetch_keeps {F : Footprint} {s s' : State} (fn n : Nat) (desc : Option (List Byte)) (now : Nat) (e : execSqFetch fn n desc now s = .next s') (f_time : F.time = true := by assumption) (f_mcEv : F.mcEv = true := by assumption) (f_dies : F.dies = true := by assumption) (f_feedPorts : F.feedPorts = true := by assumption) (f_fns : F.fns = true := by assumption) (f_parts : F.parts = true := by assumption) (f_entries : F.entries = true := by assumption) (f_out : F.out = true := by assumption) (f_free : F.free = true := by assumption) :
    Keeps F s s' := by
  unfold execSqFetch at e
  refine guarded_keeps ?_ e
  have hK := Keeps.refl F s
  try dsimp only
  repeat' first
    | with_reducible assumption
    | with_reducible apply Keeps.modFn
    | with_reducible apply Keeps.emit
    | with_reducible apply Keeps.setNow
    | with_reducible apply State.modRing_keeps
    | with_reducible apply freeWord_keeps
    | with_reducible apply queueFault_keeps
    | with_reducible apply runDesc_keeps
    | with_reducible refine Keeps.fst ?_ ‹_ = (_, _)›
    | split

theorem execHostBatchCommandRead_keeps {F : Footprint} {s s' : State} (fn : Nat) (bytes : Option (List Byte)) (now : Nat) (e : execHostBatchCommandRead fn bytes now s = .next s') (f_cfg : F.cfg = true := by assumption) (f_time : F.time = true := by assumption) (f_mcEv : F.mcEv = true := by assumption) (f_dies : F.dies = true := by assumption) (f_fns : F.fns = true := by assumption) (f_parts : F.parts = true := by assumption) (f_entries : F.entries = true := by assumption) (f_out : F.out = true := by assumption) :
    Keeps F s s' := by
  unfold execHostBatchCommandRead at e
  refine guarded_keeps ?_ e
  have hK := Keeps.refl F s
  try dsimp only
  repeat' first
    | with_reducible assumption
    | with_reducible apply Keeps.modFn
    | with_reducible apply Keeps.setNow
    | with_reducible apply completeWith_keeps
    | with_reducible apply badCmd_keeps
    | with_reducible apply placeBatch_keeps
    | with_reducible refine Keeps.fst ?_ ‹_ = (_, _)›
    | split

theorem execCqCompletionWrite_keeps {F : Footprint} {s s' : State} (fn now : Nat) (e : execCqCompletionWrite fn now s = .next s') (f_time : F.time = true := by assumption) (f_fns : F.fns = true := by assumption) (f_parts : F.parts = true := by assumption) (f_out : F.out = true := by assumption) :
    Keeps F s s' := by
  unfold execCqCompletionWrite at e
  refine guarded_keeps ?_ e
  have hK := Keeps.refl F s
  try dsimp only
  repeat' first
    | with_reducible assumption
    | with_reducible apply Keeps.setNow
    | with_reducible apply postCompl_keeps

theorem execCqCoalTimeout_keeps {F : Footprint} {s s' : State} (fn cq now : Nat) (e : execCqCoalTimeout fn cq now s = .next s') (f_time : F.time = true := by assumption) (f_fns : F.fns = true := by assumption) (f_out : F.out = true := by assumption) :
    Keeps F s s' := by
  unfold execCqCoalTimeout at e
  refine guarded_keeps ?_ e
  have hK := Keeps.refl F s
  try dsimp only
  repeat' first
    | with_reducible assumption
    | with_reducible apply Keeps.setNow
    | with_reducible apply cqSignal_keeps
    | split

theorem execEvidenceRingWrite_keeps {F : Footprint} {s s' : State} (fn : Nat) (e : execEvidenceRingWrite fn s = .next s') (f_fns : F.fns = true := by assumption) (f_out : F.out = true := by assumption) (f_free : F.free = true := by assumption) :
    Keeps F s s' := by
  unfold execEvidenceRingWrite at e
  refine guarded_keeps ?_ e
  have hK := Keeps.refl F s
  try dsimp only
  repeat' first
    | with_reducible assumption
    | with_reducible apply Keeps.emit
    | with_reducible apply raiseVec_keeps
    | with_reducible apply erWrite_keeps
    | with_reducible refine Keeps.fst ?_ ‹_ = (_, _)›
    | split

theorem execBar2Access_keeps {F : Footprint} {s s' : State} (fn off : Nat) (data : Option (List Byte)) (len : Nat) (e : execBar2Access fn off data len s = .next s') (f_dies : F.dies = true := by assumption) (f_stackTab : F.stackTab = true := by assumption) (f_fns : F.fns = true := by assumption) (f_dram : F.dram = true := by assumption) (f_out : F.out = true := by assumption) :
    Keeps F s s' := by
  unfold execBar2Access at e
  refine guarded_keeps ?_ e
  have hK := Keeps.refl F s
  try dsimp only
  repeat' first
    | with_reducible assumption
    | with_reducible apply Keeps.modFn
    | with_reducible apply Keeps.emit
    | with_reducible apply bar2Write_keeps
    | with_reducible apply bar2Cross_keeps
    | with_reducible refine Keeps.fst ?_ ‹_ = (_, _)›
    | split

end Sys2Proof.Machine
end

