-- ==== Sys2Proof/Laws/KeepsOpsMgmt.lean ====
section
/-! SUPPORT. The operations of Machine/OpsMgmt.lean have `Keeps`: one lemma each. -/

namespace Sys2Proof.Machine

set_option Elab.async false

theorem mgmtClear_keeps {F : Footprint} {s0 s : State} (hK : Keeps F s0 s) (a : Nat) (f_tiles : F.tiles = true := by assumption) (f_parts : F.parts = true := by assumption) :
    Keeps F s0 (mgmtClear s a) := by
  unfold mgmtClear
  try dsimp only
  repeat' first
    | with_reducible assumption
    | with_reducible apply Keeps.modTile
    | with_reducible apply Keeps.modPart
    | with_reducible refine Keeps.fst ?_ ‹_ = (_, _)›
    | split

theorem barClear_keeps {F : Footprint} {s0 s : State} (hK : Keeps F s0 s) (fn off : Nat) (f_fns : F.fns = true := by assumption) :
    Keeps F s0 (barClear s fn off) := by
  unfold barClear
  try dsimp only
  repeat' first
    | with_reducible assumption
    | with_reducible apply Keeps.modFn
    | with_reducible refine Keeps.fst ?_ ‹_ = (_, _)›
    | split

theorem dropLatch_keeps {F : Footprint} {s0 s : State} (hK : Keeps F s0 s) (r : Requester) (a : Nat) (f_latches : F.latches = true := by assumption) :
    Keeps F s0 (dropLatch s r a) := by
  unfold dropLatch
  try dsimp only
  repeat' first
    | with_reducible assumption
    | split
    | dsimp only
    | with_reducible refine Keeps.upd ?_

theorem latchRead_keeps {F : Footprint} {s0 s : State} (hK : Keeps F s0 s) (r : Requester) (a lo hi : Nat) (wide : Bool) (f_latches : F.latches = true := by assumption) :
    Keeps F s0 (latchRead s r a lo hi wide).1 := by
  unfold latchRead
  try dsimp only
  repeat' first
    | with_reducible assumption
    | with_reducible apply dropLatch_keeps
    | with_reducible refine Keeps.fst ?_ ‹_ = (_, _)›
    | split
    | dsimp only
    | with_reducible refine Keeps.upd ?_

theorem mgmtRead_keeps {F : Footprint} {s0 s : State} (hK : Keeps F s0 s) (r : Requester) (a : Nat) (f_tiles : F.tiles = true := by assumption) (f_parts : F.parts = true := by assumption) (f_latches : F.latches = true := by assumption) (f_free : F.free = true := by assumption) :
    Keeps F s0 (mgmtRead s r a).1 := by
  unfold mgmtRead
  try dsimp only
  repeat' first
    | with_reducible assumption
    | with_reducible apply freeWord_keeps
    | with_reducible apply mgmtClear_keeps
    | with_reducible apply latchRead_keeps
    | split

theorem mgmtReads_keeps {F : Footprint} {s0 s : State} (hK : Keeps F s0 s) (r : Requester) (a : Nat) (x0 : Nat) (f_tiles : F.tiles = true := by assumption) (f_parts : F.parts = true := by assumption) (f_latches : F.latches = true := by assumption) (f_free : F.free = true := by assumption) :
    Keeps F s0 (mgmtReads s r a x0).1 := by
  induction x0 generalizing r a s with
  | zero => unfold mgmtReads; exact hK
  | succ _ ih =>
    unfold mgmtReads
    try dsimp only
    repeat' first
      | with_reducible assumption
      | with_reducible apply ih
      | with_reducible apply mgmtRead_keeps

theorem barRead32_keeps {F : Footprint} {s0 s : State} (hK : Keeps F s0 s) (fn off : Nat) (f_fns : F.fns = true := by assumption) (f_latches : F.latches = true := by assumption) :
    Keeps F s0 (barRead32 s fn off).1 := by
  unfold barRead32
  try dsimp only
  repeat' first
    | with_reducible assumption
    | with_reducible apply barClear_keeps
    | with_reducible apply latchRead_keeps

theorem regRead_keeps {F : Footprint} {s0 s : State} (hK : Keeps F s0 s) (r : Requester) (a : Nat) (f_tiles : F.tiles = true := by assumption) (f_fns : F.fns = true := by assumption) (f_parts : F.parts = true := by assumption) (f_latches : F.latches = true := by assumption) (f_out : F.out = true := by assumption) (f_free : F.free = true := by assumption) :
    Keeps F s0 (regRead s r a) := by
  unfold regRead
  try dsimp only
  repeat' first
    | with_reducible assumption
    | with_reducible apply Keeps.emit
    | with_reducible apply mgmtRead_keeps
    | with_reducible apply barRead32_keeps
    | with_reducible refine Keeps.fst ?_ ‹_ = (_, _)›
    | split

end Sys2Proof.Machine
end

