-- ==== Sys2Proof/Laws/KeepsOpsWrite.lean ====
section
/-! SUPPORT. The operations of Machine/OpsWrite.lean have `Keeps`: one lemma each. -/

namespace Sys2Proof.Machine

set_option Elab.async false

theorem modLantern_keeps {F : Footprint} {s0 s : State} (h : Keeps F s0 s) {f : Lantern → Lantern}
    (hl : (s.lantern.unlocked = true → s.lantern.taint = true) → (f s.lantern).unlocked = true → (f s.lantern).taint = true) (f_lantern : F.lantern = true := by assumption) :
    Keeps F s0 (modLantern s f) := Keeps.upd h (hl := hl)

theorem lnClear_keeps {F : Footprint} {s0 s : State} (h : Keeps F s0 s) (f_dies : F.dies = true := by assumption) : Keeps F s0 (lnClear s) :=
  Keeps.tabs (m := s) h fun i => ⟨mapFilter_wf _ (fun x : Die => { x with ln := [] }) i.dies, i.tiles, i.stackTab, i.feedPorts,
    i.feedIods, i.hostPorts, i.fns, i.reservoirs, i.engines, i.parts, i.entries, i.dram⟩

theorem lanternLock_keeps {F : Footprint} {s0 s : State} (h : Keeps F s0 s) (cause : Nat) (f_lantern : F.lantern = true := by assumption) (f_mcEv : F.mcEv = true := by assumption) (f_dies : F.dies = true := by assumption) : Keeps F s0 (lanternLock s cause) := by
  unfold lanternLock
  split
  · exact h
  · exact report_keeps (modLantern_keeps (lnClear_keeps h) fun _ c => absurd c Bool.false_ne_true) _ _ _ _ _

theorem lanternTaint_keeps {F : Footprint} {s0 s : State} (h : Keeps F s0 s) (f_lantern : F.lantern = true := by assumption) (f_fns : F.fns = true := by assumption) (f_out : F.out = true := by assumption) : Keeps F s0 (lanternTaint s) := by
  unfold lanternTaint
  split
  · exact h
  · exact Keeps.foldl (fun m x hm => setEvt_keeps hm _ _) _ (modLantern_keeps h fun _ _ => rfl)

theorem lanternUnlock_keeps {F : Footprint} {s0 s : State} (h : Keeps F s0 s) (owner secs : Nat) (f_lantern : F.lantern = true := by assumption) (f_mcEv : F.mcEv = true := by assumption) (f_dies : F.dies = true := by assumption) (f_fns : F.fns = true := by assumption) (f_out : F.out = true := by assumption) : Keeps F s0 (lanternUnlock s owner secs) := by
  unfold lanternUnlock
  refine report_keeps (modLantern_keeps (lanternTaint_keeps h) ?_) _ _ _ _ _
  exact fun _ _ => rfl

theorem lanternRefuse_keeps {F : Footprint} {s0 s : State} (hK : Keeps F s0 s) (reason : Nat) (f_lantern : F.lantern = true := by assumption) :
    Keeps F s0 (lanternRefuse s reason) := by
  unfold lanternRefuse
  try dsimp only
  repeat' first
    | with_reducible assumption
    | with_reducible refine modLantern_keeps ?_ (fun q => q)

theorem lnWrite_keeps {F : Footprint} {s0 s : State} (hK : Keeps F s0 s) (d off v : Nat) (f_lantern : F.lantern = true := by assumption) (f_dies : F.dies = true := by assumption) :
    Keeps F s0 (lnWrite s d off v) := by
  unfold lnWrite
  try dsimp only
  repeat' first
    | with_reducible assumption
    | with_reducible apply Keeps.modDie
    | with_reducible apply lanternRefuse_keeps
    | split

theorem routeWrite_keeps {F : Footprint} {s0 s : State} (hK : Keeps F s0 s) (n v : Nat) (f_lantern : F.lantern = true := by assumption) :
    Keeps F s0 (routeWrite s n v) := by
  unfold routeWrite
  try dsimp only
  repeat' first
    | with_reducible assumption
    | with_reducible refine modLantern_keeps ?_ (fun q => q)
    | with_reducible apply lanternRefuse_keeps
    | split

theorem seqWrite_keeps {F : Footprint} {s0 s : State} (hK : Keeps F s0 s) (d n v : Nat) (f_dies : F.dies = true := by assumption) :
    Keeps F s0 (seqWrite s d n v) := by
  unfold seqWrite
  try dsimp only
  repeat' first
    | with_reducible assumption
    | with_reducible apply modHk_keeps

theorem dieWrite_keeps {F : Footprint} {s0 s : State} (hK : Keeps F s0 s) (d b off v : Nat) (f_lantern : F.lantern = true := by assumption) (f_dies : F.dies = true := by assumption) (f_stackTab : F.stackTab = true := by assumption) :
    Keeps F s0 (dieWrite s d b off v) := by
  unfold dieWrite
  try dsimp only
  repeat' first
    | with_reducible assumption
    | with_reducible apply Keeps.modDie
    | with_reducible apply Keeps.modStack
    | with_reducible apply hkCtrlWrite_keeps
    | with_reducible apply lnWrite_keeps
    | with_reducible apply seqWrite_keeps
    | with_reducible refine Keeps.fst ?_ ‹_ = (_, _)›
    | split

theorem leadWrite_keeps {F : Footprint} {s0 s : State} (hK : Keeps F s0 s) (p off v : Nat) (f_parts : F.parts = true := by assumption) :
    Keeps F s0 (leadWrite s p off v) := by
  unfold leadWrite
  try dsimp only
  repeat' first
    | with_reducible assumption
    | with_reducible apply Keeps.modPart
    | with_reducible apply modPool_keeps
    | with_reducible refine Keeps.fst ?_ ‹_ = (_, _)›
    | split

theorem fpCfgWrite_keeps {F : Footprint} {s0 s : State} (hK : Keeps F s0 s) (port v : Nat) (f_mcEv : F.mcEv = true := by assumption) (f_dies : F.dies = true := by assumption) (f_feedPorts : F.feedPorts = true := by assumption) (f_parts : F.parts = true := by assumption) :
    Keeps F s0 (fpCfgWrite s port v) := by
  unfold fpCfgWrite
  try dsimp only
  repeat' first
    | with_reducible assumption
    | with_reducible apply Keeps.modFport
    | with_reducible apply portDown_keeps
    | split

theorem iodWrite_keeps {F : Footprint} {s0 s : State} (hK : Keeps F s0 s) (n b off v : Nat) (f_mcEv : F.mcEv = true := by assumption) (f_dies : F.dies = true := by assumption) (f_feedPorts : F.feedPorts = true := by assumption) (f_feedIods : F.feedIods = true := by assumption) (f_reservoirs : F.reservoirs = true := by assumption) (f_parts : F.parts = true := by assumption) :
    Keeps F s0 (iodWrite s n b off v) := by
  unfold iodWrite
  try dsimp only
  repeat' first
    | with_reducible assumption
    | with_reducible apply Keeps.modFiod
    | with_reducible apply Keeps.modRes
    | with_reducible apply resyncChannel_keeps
    | with_reducible apply fpCfgWrite_keeps
    | split

theorem cfgCmdWrite_keeps {F : Footprint} {s0 s : State} (hK : Keeps F s0 s) (v : Nat) (f_power : F.power = true := by assumption) (f_cfg : F.cfg = true := by assumption) (f_time : F.time = true := by assumption) (f_log : F.log = true := by assumption) (f_therm : F.therm = true := by assumption) (f_fm : F.fm = true := by assumption) (f_lantern : F.lantern = true := by assumption) (f_mcEv : F.mcEv = true := by assumption) (f_dies : F.dies = true := by assumption) (f_tiles : F.tiles = true := by assumption) (f_stackTab : F.stackTab = true := by assumption) (f_feedPorts : F.feedPorts = true := by assumption) (f_feedIods : F.feedIods = true := by assumption) (f_hostPorts : F.hostPorts = true := by assumption) (f_fns : F.fns = true := by assumption) (f_reservoirs : F.reservoirs = true := by assumption) (f_engines : F.engines = true := by assumption) (f_parts : F.parts = true := by assumption) (f_ptSel : F.ptSel = true := by assumption) (f_entries : F.entries = true := by assumption) (f_dram : F.dram = true := by assumption) (f_xfers : F.xfers = true := by assumption) (f_releases : F.releases = true := by assumption) (f_nextXfer : F.nextXfer = true := by assumption) (f_nextOp : F.nextOp = true := by assumption) (f_latches : F.latches = true := by assumption) (f_out : F.out = true := by assumption) (f_free : F.free = true := by assumption) :
    Keeps F s0 (cfgCmdWrite s v) := by
  unfold cfgCmdWrite
  try dsimp only
  repeat' first
    | with_reducible assumption
    | with_reducible apply restartBegin_keeps
    | with_reducible apply ownersBegin_keeps
    | with_reducible apply restartModule_keeps
    | with_reducible refine Keeps.fst ?_ ‹_ = (_, _)›
    | split

theorem ptCmdWrite_keeps {F : Footprint} {s0 s : State} (hK : Keeps F s0 s) (v : Nat) (f_cfg : F.cfg = true := by assumption) (f_fm : F.fm = true := by assumption) (f_mcEv : F.mcEv = true := by assumption) (f_dies : F.dies = true := by assumption) (f_tiles : F.tiles = true := by assumption) (f_stackTab : F.stackTab = true := by assumption) (f_feedPorts : F.feedPorts = true := by assumption) (f_fns : F.fns = true := by assumption) (f_engines : F.engines = true := by assumption) (f_parts : F.parts = true := by assumption) (f_entries : F.entries = true := by assumption) (f_dram : F.dram = true := by assumption) (f_out : F.out = true := by assumption) (f_free : F.free = true := by assumption) :
    Keeps F s0 (ptCmdWrite s v) := by
  unfold ptCmdWrite
  try dsimp only
  repeat' first
    | with_reducible assumption
    | with_reducible apply fencePart_keeps
    | with_reducible apply resetStart_keeps
    | with_reducible refine Keeps.fst ?_ ‹_ = (_, _)›
    | split

theorem fmCmdWrite_keeps {F : Footprint} {s0 s : State} (hK : Keeps F s0 s) (v : Nat) (f_cfg : F.cfg = true := by assumption) (f_fm : F.fm = true := by assumption) (f_mcEv : F.mcEv = true := by assumption) (f_dies : F.dies = true := by assumption) (f_tiles : F.tiles = true := by assumption) (f_stackTab : F.stackTab = true := by assumption) (f_feedPorts : F.feedPorts = true := by assumption) (f_fns : F.fns = true := by assumption) (f_engines : F.engines = true := by assumption) (f_parts : F.parts = true := by assumption) (f_entries : F.entries = true := by assumption) (f_dram : F.dram = true := by assumption) (f_xfers : F.xfers = true := by assumption) (f_out : F.out = true := by assumption) (f_free : F.free = true := by assumption) :
    Keeps F s0 (fmCmdWrite s v) := by
  unfold fmCmdWrite
  try dsimp only
  repeat' first
    | with_reducible assumption
    | with_reducible apply freeWord_keeps
    | with_reducible apply fmDie_keeps
    | with_reducible apply fmChannel_keeps
    | with_reducible refine Keeps.fst ?_ ‹_ = (_, _)›
    | split

theorem ptWrite_keeps {F : Footprint} {s0 s : State} (hK : Keeps F s0 s) (off v : Nat) (f_cfg : F.cfg = true := by assumption) (f_fm : F.fm = true := by assumption) (f_mcEv : F.mcEv = true := by assumption) (f_dies : F.dies = true := by assumption) (f_tiles : F.tiles = true := by assumption) (f_stackTab : F.stackTab = true := by assumption) (f_feedPorts : F.feedPorts = true := by assumption) (f_fns : F.fns = true := by assumption) (f_engines : F.engines = true := by assumption) (f_parts : F.parts = true := by assumption) (f_ptSel : F.ptSel = true := by assumption) (f_entries : F.entries = true := by assumption) (f_dram : F.dram = true := by assumption) (f_out : F.out = true := by assumption) (f_free : F.free = true := by assumption) :
    Keeps F s0 (ptWrite s off v) := by
  unfold ptWrite
  try dsimp only
  repeat' first
    | with_reducible assumption
    | with_reducible apply Keeps.modPart
    | with_reducible apply ptCmdWrite_keeps
    | with_reducible refine Keeps.fst ?_ ‹_ = (_, _)›
    | split
    | dsimp only
    | with_reducible refine Keeps.upd ?_

theorem logWrite_keeps {F : Footprint} {s0 s : State} (hK : Keeps F s0 s) (off v : Nat) (f_log : F.log = true := by assumption) :
    Keeps F s0 (logWrite s off v) := by
  unfold logWrite
  try dsimp only
  repeat' first
    | with_reducible assumption
    | with_reducible refine Keeps.fst ?_ ‹_ = (_, _)›
    | split
    | dsimp only
    | with_reducible refine Keeps.upd ?_

theorem pwrWrite_keeps {F : Footprint} {s0 s : State} (hK : Keeps F s0 s) (off v : Nat) (f_therm : F.therm = true := by assumption) (f_dies : F.dies = true := by assumption) :
    Keeps F s0 (pwrWrite s off v) := by
  unfold pwrWrite
  try dsimp only
  repeat' first
    | with_reducible assumption
    | with_reducible apply modHk_keeps
    | with_reducible apply modTherm_keeps
    | with_reducible refine Keeps.fst ?_ ‹_ = (_, _)›
    | split

theorem fmWrite_keeps {F : Footprint} {s0 s : State} (hK : Keeps F s0 s) (off v : Nat) (f_cfg : F.cfg = true := by assumption) (f_fm : F.fm = true := by assumption) (f_mcEv : F.mcEv = true := by assumption) (f_dies : F.dies = true := by assumption) (f_tiles : F.tiles = true := by assumption) (f_stackTab : F.stackTab = true := by assumption) (f_feedPorts : F.feedPorts = true := by assumption) (f_fns : F.fns = true := by assumption) (f_engines : F.engines = true := by assumption) (f_parts : F.parts = true := by assumption) (f_entries : F.entries = true := by assumption) (f_dram : F.dram = true := by assumption) (f_xfers : F.xfers = true := by assumption) (f_out : F.out = true := by assumption) (f_free : F.free = true := by assumption) :
    Keeps F s0 (fmWrite s off v) := by
  unfold fmWrite
  try dsimp only
  repeat' first
    | with_reducible assumption
    | with_reducible apply fmCmdWrite_keeps
    | with_reducible refine Keeps.fst ?_ ‹_ = (_, _)›
    | split
    | dsimp only
    | with_reducible refine Keeps.upd ?_

theorem moduleWrite_keeps {F : Footprint} {s0 s : State} (hK : Keeps F s0 s) (b off v : Nat) (f_power : F.power = true := by assumption) (f_cfg : F.cfg = true := by assumption) (f_time : F.time = true := by assumption) (f_log : F.log = true := by assumption) (f_therm : F.therm = true := by assumption) (f_fm : F.fm = true := by assumption) (f_lantern : F.lantern = true := by assumption) (f_mcEv : F.mcEv = true := by assumption) (f_dies : F.dies = true := by assumption) (f_tiles : F.tiles = true := by assumption) (f_stackTab : F.stackTab = true := by assumption) (f_feedPorts : F.feedPorts = true := by assumption) (f_feedIods : F.feedIods = true := by assumption) (f_hostPorts : F.hostPorts = true := by assumption) (f_fns : F.fns = true := by assumption) (f_reservoirs : F.reservoirs = true := by assumption) (f_engines : F.engines = true := by assumption) (f_parts : F.parts = true := by assumption) (f_ptSel : F.ptSel = true := by assumption) (f_entries : F.entries = true := by assumption) (f_dram : F.dram = true := by assumption) (f_xfers : F.xfers = true := by assumption) (f_releases : F.releases = true := by assumption) (f_nextXfer : F.nextXfer = true := by assumption) (f_nextOp : F.nextOp = true := by assumption) (f_latches : F.latches = true := by assumption) (f_out : F.out = true := by assumption) (f_free : F.free = true := by assumption) :
    Keeps F s0 (moduleWrite s b off v) := by
  unfold moduleWrite
  try dsimp only
  repeat' first
    | with_reducible assumption
    | with_reducible apply lanternLock_keeps
    | with_reducible apply routeWrite_keeps
    | with_reducible apply cfgCmdWrite_keeps
    | with_reducible apply ptWrite_keeps
    | with_reducible apply logWrite_keeps
    | with_reducible apply pwrWrite_keeps
    | with_reducible apply fmWrite_keeps
    | split
    | dsimp only
    | with_reducible refine Keeps.upd ?_

theorem mgmtWrite_keeps {F : Footprint} {s0 s : State} (hK : Keeps F s0 s) (a v : Nat) (f_power : F.power = true := by assumption) (f_cfg : F.cfg = true := by assumption) (f_time : F.time = true := by assumption) (f_log : F.log = true := by assumption) (f_therm : F.therm = true := by assumption) (f_fm : F.fm = true := by assumption) (f_lantern : F.lantern = true := by assumption) (f_mcEv : F.mcEv = true := by assumption) (f_dies : F.dies = true := by assumption) (f_tiles : F.tiles = true := by assumption) (f_stackTab : F.stackTab = true := by assumption) (f_feedPorts : F.feedPorts = true := by assumption) (f_feedIods : F.feedIods = true := by assumption) (f_hostPorts : F.hostPorts = true := by assumption) (f_fns : F.fns = true := by assumption) (f_reservoirs : F.reservoirs = true := by assumption) (f_engines : F.engines = true := by assumption) (f_parts : F.parts = true := by assumption) (f_ptSel : F.ptSel = true := by assumption) (f_entries : F.entries = true := by assumption) (f_dram : F.dram = true := by assumption) (f_xfers : F.xfers = true := by assumption) (f_releases : F.releases = true := by assumption) (f_nextXfer : F.nextXfer = true := by assumption) (f_nextOp : F.nextOp = true := by assumption) (f_latches : F.latches = true := by assumption) (f_out : F.out = true := by assumption) (f_free : F.free = true := by assumption) :
    Keeps F s0 (mgmtWrite s a v) := by
  unfold mgmtWrite
  try dsimp only
  repeat' first
    | with_reducible assumption
    | with_reducible apply Keeps.modTile
    | with_reducible apply dieWrite_keeps
    | with_reducible apply leadWrite_keeps
    | with_reducible apply iodWrite_keeps
    | with_reducible apply moduleWrite_keeps
    | with_reducible refine Keeps.fst ?_ ‹_ = (_, _)›
    | split

theorem mgmtWrites_keeps {F : Footprint} {s0 s : State} (hK : Keeps F s0 s) (a : Nat) (x0 : List Nat) (f_power : F.power = true := by assumption) (f_cfg : F.cfg = true := by assumption) (f_time : F.time = true := by assumption) (f_log : F.log = true := by assumption) (f_therm : F.therm = true := by assumption) (f_fm : F.fm = true := by assumption) (f_lantern : F.lantern = true := by assumption) (f_mcEv : F.mcEv = true := by assumption) (f_dies : F.dies = true := by assumption) (f_tiles : F.tiles = true := by assumption) (f_stackTab : F.stackTab = true := by assumption) (f_feedPorts : F.feedPorts = true := by assumption) (f_feedIods : F.feedIods = true := by assumption) (f_hostPorts : F.hostPorts = true := by assumption) (f_fns : F.fns = true := by assumption) (f_reservoirs : F.reservoirs = true := by assumption) (f_engines : F.engines = true := by assumption) (f_parts : F.parts = true := by assumption) (f_ptSel : F.ptSel = true := by assumption) (f_entries : F.entries = true := by assumption) (f_dram : F.dram = true := by assumption) (f_xfers : F.xfers = true := by assumption) (f_releases : F.releases = true := by assumption) (f_nextXfer : F.nextXfer = true := by assumption) (f_nextOp : F.nextOp = true := by assumption) (f_latches : F.latches = true := by assumption) (f_out : F.out = true := by assumption) (f_free : F.free = true := by assumption) :
    Keeps F s0 (mgmtWrites s a x0) := by
  induction x0 generalizing a s with
  | nil => unfold mgmtWrites; exact hK
  | cons _ _ ih =>
    unfold mgmtWrites
    try dsimp only
    repeat' first
      | with_reducible assumption
      | with_reducible apply ih
      | with_reducible apply mgmtWrite_keeps

theorem windowWrite_keeps {F : Footprint} {s0 s : State} (hK : Keeps F s0 s) (fn off v : Nat) (f_fns : F.fns = true := by assumption) :
    Keeps F s0 (windowWrite s fn off v) := by
  unfold windowWrite
  try dsimp only
  repeat' first
    | with_reducible assumption
    | with_reducible apply Keeps.modFn

theorem msixWrite_keeps {F : Footprint} {s0 s : State} (hK : Keeps F s0 s) (fn off v : Nat) (f_fns : F.fns = true := by assumption) (f_out : F.out = true := by assumption) :
    Keeps F s0 (msixWrite s fn off v) := by
  unfold msixWrite
  try dsimp only
  repeat' first
    | with_reducible assumption
    | with_reducible apply Keeps.modFn
    | with_reducible apply flushMsix_keeps

theorem doorbellWrite_keeps {F : Footprint} {s0 s : State} (hK : Keeps F s0 s) (fn off v : Nat) (f_mcEv : F.mcEv = true := by assumption) (f_dies : F.dies = true := by assumption) (f_fns : F.fns = true := by assumption) (f_parts : F.parts = true := by assumption) (f_out : F.out = true := by assumption) :
    Keeps F s0 (doorbellWrite s fn off v) := by
  unfold doorbellWrite
  try dsimp only
  repeat' first
    | with_reducible assumption
    | with_reducible apply sqTailWrite_keeps
    | with_reducible apply cqHeadWrite_keeps
    | with_reducible apply erHeadWrite_keeps
    | with_reducible refine Keeps.fst ?_ ‹_ = (_, _)›
    | split

theorem queueWrite_keeps {F : Footprint} {s0 s : State} (hK : Keeps F s0 s) (fn off v : Nat) (f_fns : F.fns = true := by assumption) (f_out : F.out = true := by assumption) :
    Keeps F s0 (queueWrite s fn off v) := by
  unfold queueWrite
  try dsimp only
  repeat' first
    | with_reducible assumption
    | with_reducible apply State.modRing_keeps
    | with_reducible apply qCtrlWrite_keeps
    | with_reducible apply sqCtrlWrite_keeps
    | with_reducible apply cqCtrlWrite_keeps
    | with_reducible apply erCtrlWrite_keeps
    | with_reducible apply baseWrite_keeps
    | with_reducible refine Keeps.fst ?_ ‹_ = (_, _)›
    | split

theorem barWrite32_keeps {F : Footprint} {s0 s : State} (hK : Keeps F s0 s) (fn off v be : Nat) (f_cfg : F.cfg = true := by assumption) (f_fm : F.fm = true := by assumption) (f_mcEv : F.mcEv = true := by assumption) (f_dies : F.dies = true := by assumption) (f_tiles : F.tiles = true := by assumption) (f_stackTab : F.stackTab = true := by assumption) (f_feedPorts : F.feedPorts = true := by assumption) (f_fns : F.fns = true := by assumption) (f_engines : F.engines = true := by assumption) (f_parts : F.parts = true := by assumption) (f_entries : F.entries = true := by assumption) (f_dram : F.dram = true := by assumption) (f_out : F.out = true := by assumption) (f_free : F.free = true := by assumption) :
    Keeps F s0 (barWrite32 s fn off v be) := by
  unfold barWrite32
  try dsimp only
  repeat' first
    | with_reducible assumption
    | with_reducible apply Keeps.modFn
    | with_reducible apply fnCtrlWrite_keeps
    | with_reducible apply evtClear_keeps
    | with_reducible apply windowWrite_keeps
    | with_reducible apply msixWrite_keeps
    | with_reducible apply doorbellWrite_keeps
    | with_reducible apply queueWrite_keeps
    | split

theorem regWrite_keeps {F : Footprint} {s0 s : State} (hK : Keeps F s0 s) (r : Requester) (a v be : Nat) (f_power : F.power = true := by assumption) (f_cfg : F.cfg = true := by assumption) (f_time : F.time = true := by assumption) (f_log : F.log = true := by assumption) (f_therm : F.therm = true := by assumption) (f_fm : F.fm = true := by assumption) (f_lantern : F.lantern = true := by assumption) (f_mcEv : F.mcEv = true := by assumption) (f_dies : F.dies = true := by assumption) (f_tiles : F.tiles = true := by assumption) (f_stackTab : F.stackTab = true := by assumption) (f_feedPorts : F.feedPorts = true := by assumption) (f_feedIods : F.feedIods = true := by assumption) (f_hostPorts : F.hostPorts = true := by assumption) (f_fns : F.fns = true := by assumption) (f_reservoirs : F.reservoirs = true := by assumption) (f_engines : F.engines = true := by assumption) (f_parts : F.parts = true := by assumption) (f_ptSel : F.ptSel = true := by assumption) (f_entries : F.entries = true := by assumption) (f_dram : F.dram = true := by assumption) (f_xfers : F.xfers = true := by assumption) (f_releases : F.releases = true := by assumption) (f_nextXfer : F.nextXfer = true := by assumption) (f_nextOp : F.nextOp = true := by assumption) (f_latches : F.latches = true := by assumption) (f_out : F.out = true := by assumption) (f_free : F.free = true := by assumption) :
    Keeps F s0 (regWrite s r a v be) := by
  unfold regWrite
  try dsimp only
  repeat' first
    | with_reducible assumption
    | with_reducible apply Keeps.emit
    | with_reducible apply mgmtWrite_keeps
    | with_reducible apply barWrite32_keeps
    | with_reducible refine Keeps.fst ?_ ‹_ = (_, _)›
    | split

end Sys2Proof.Machine
end

