-- ==== Sys2Proof/Laws/KeepsOpsLog.lean ====
section
/-! SUPPORT. The operations of Machine/OpsLog.lean have `Keeps`: one lemma each. -/

namespace Sys2Proof.Machine

set_option Elab.async false

theorem modEvQueue_keeps {F : Footprint} {s0 s : State} (hK : Keeps F s0 s) (d : Nat) (f : EvQueue → EvQueue) (f_mcEv : F.mcEv = true := by assumption) (f_dies : F.dies = true := by assumption) :
    Keeps F s0 (modEvQueue s d f) := by
  unfold modEvQueue
  try dsimp only
  repeat' first
    | with_reducible assumption
    | with_reducible apply Keeps.modDie
    | split
    | dsimp only
    | with_reducible refine Keeps.upd ?_

theorem logAppend_keeps {F : Footprint} {s0 s : State} (hK : Keeps F s0 s) (r : EvRec) (f_log : F.log = true := by assumption) :
    Keeps F s0 (logAppend s r) := by
  unfold logAppend
  try dsimp only
  repeat' first
    | with_reducible assumption
    | split
    | dsimp only
    | with_reducible refine Keeps.upd ?_

theorem logTake_keeps {F : Footprint} {s0 s : State} (hK : Keeps F s0 s) (r : EvRec) (f_log : F.log = true := by assumption) (f_mcEv : F.mcEv = true := by assumption) (f_dies : F.dies = true := by assumption) (f_fns : F.fns = true := by assumption) (f_parts : F.parts = true := by assumption) (f_out : F.out = true := by assumption) :
    Keeps F s0 (logTake s r) := by
  unfold logTake
  try dsimp only
  repeat' first
    | with_reducible assumption
    | with_reducible apply spoolAdd_keeps
    | with_reducible apply logAppend_keeps
    | (with_reducible apply Keeps.foldl; intro _ _ _)

theorem logDrain_keeps {F : Footprint} {s0 s : State} (hK : Keeps F s0 s) (f_log : F.log = true := by assumption) (f_mcEv : F.mcEv = true := by assumption) (f_dies : F.dies = true := by assumption) (f_fns : F.fns = true := by assumption) (f_parts : F.parts = true := by assumption) (f_out : F.out = true := by assumption) :
    Keeps F s0 (logDrain s) := by
  unfold logDrain
  try dsimp only
  repeat' first
    | with_reducible assumption
    | with_reducible apply modEvQueue_keeps
    | with_reducible apply logTake_keeps
    | with_reducible refine Keeps.fst ?_ ‹_ = (_, _)›
    | split
    | dsimp only
    | with_reducible refine Keeps.upd ?_

theorem anonSend_keeps {F : Footprint} {s0 s : State} (hK : Keeps F s0 s) (f_log : F.log = true := by assumption) (f_out : F.out = true := by assumption) :
    Keeps F s0 (anonSend s) := by
  unfold anonSend
  try dsimp only
  repeat' first
    | with_reducible assumption
    | with_reducible apply Keeps.emit
    | split
    | dsimp only
    | with_reducible refine Keeps.upd ?_

theorem subSend_keeps {F : Footprint} {s0 s : State} (hK : Keeps F s0 s) (i : Nat) (b : Sub) (f_cfg : F.cfg = true := by assumption) (f_log : F.log = true := by assumption) (f_out : F.out = true := by assumption) :
    Keeps F s0 (subSend s i b) := by
  unfold subSend
  try dsimp only
  repeat' first
    | with_reducible assumption
    | with_reducible apply fleshaSend_keeps
    | split
    | dsimp only
    | with_reducible refine Keeps.upd ?_

theorem telemetryValues_keeps {F : Footprint} {s0 s : State} (hK : Keeps F s0 s) (o : Nat) (x0 : List Nat) (f_tiles : F.tiles = true := by assumption) (f_parts : F.parts = true := by assumption) (f_latches : F.latches = true := by assumption) (f_free : F.free = true := by assumption) :
    Keeps F s0 (telemetryValues s o x0).1 := by
  induction x0 generalizing o s with
  | nil => unfold telemetryValues; exact hK
  | cons _ _ ih =>
    unfold telemetryValues
    try dsimp only
    repeat' first
      | with_reducible assumption
      | with_reducible apply ih
      | with_reducible apply mgmtRead_keeps
      | split

theorem subscribe_keeps {F : Footprint} {s0 s : State} (hK : Keeps F s0 s) (c : FlCmd) (r : Reply) (f_cfg : F.cfg = true := by assumption) (f_log : F.log = true := by assumption) (f_out : F.out = true := by assumption) :
    Keeps F s0 (subscribe s c r) := by
  unfold subscribe
  try dsimp only
  repeat' first
    | with_reducible assumption
    | with_reducible apply fleshaReply_keeps
    | split
    | dsimp only
    | with_reducible refine Keeps.upd ?_

theorem fleshaReadRegs_keeps {F : Footprint} {s0 s : State} (hK : Keeps F s0 s) (c : FlCmd) (r : Reply) (f_cfg : F.cfg = true := by assumption) (f_tiles : F.tiles = true := by assumption) (f_parts : F.parts = true := by assumption) (f_latches : F.latches = true := by assumption) (f_out : F.out = true := by assumption) (f_free : F.free = true := by assumption) :
    Keeps F s0 (fleshaReadRegs s c r) := by
  unfold fleshaReadRegs
  try dsimp only
  repeat' first
    | with_reducible assumption
    | with_reducible apply fleshaReply_keeps
    | with_reducible apply mgmtReads_keeps
    | split

theorem fleshaWriteRegs_keeps {F : Footprint} {s0 s : State} (hK : Keeps F s0 s) (c : FlCmd) (r : Reply) (f_power : F.power = true := by assumption) (f_cfg : F.cfg = true := by assumption) (f_time : F.time = true := by assumption) (f_log : F.log = true := by assumption) (f_therm : F.therm = true := by assumption) (f_fm : F.fm = true := by assumption) (f_lantern : F.lantern = true := by assumption) (f_mcEv : F.mcEv = true := by assumption) (f_dies : F.dies = true := by assumption) (f_tiles : F.tiles = true := by assumption) (f_stackTab : F.stackTab = true := by assumption) (f_feedPorts : F.feedPorts = true := by assumption) (f_feedIods : F.feedIods = true := by assumption) (f_hostPorts : F.hostPorts = true := by assumption) (f_fns : F.fns = true := by assumption) (f_reservoirs : F.reservoirs = true := by assumption) (f_engines : F.engines = true := by assumption) (f_parts : F.parts = true := by assumption) (f_ptSel : F.ptSel = true := by assumption) (f_entries : F.entries = true := by assumption) (f_dram : F.dram = true := by assumption) (f_xfers : F.xfers = true := by assumption) (f_releases : F.releases = true := by assumption) (f_nextXfer : F.nextXfer = true := by assumption) (f_nextOp : F.nextOp = true := by assumption) (f_latches : F.latches = true := by assumption) (f_out : F.out = true := by assumption) (f_free : F.free = true := by assumption) :
    Keeps F s0 (fleshaWriteRegs s c r) := by
  unfold fleshaWriteRegs
  try dsimp only
  repeat' first
    | with_reducible assumption
    | with_reducible apply fleshaReply_keeps
    | with_reducible apply mgmtWrites_keeps
    | split

theorem takeChunks_keeps {F : Footprint} {s0 s : State} (hK : Keeps F s0 s) (stack : Nat) (tagOk : Bool) (x0 : Nat) (f_cfg : F.cfg = true := by assumption) (f_log : F.log = true := by assumption) (f_mcEv : F.mcEv = true := by assumption) (f_dies : F.dies = true := by assumption) (f_fns : F.fns = true := by assumption) (f_reservoirs : F.reservoirs = true := by assumption) (f_engines : F.engines = true := by assumption) (f_parts : F.parts = true := by assumption) (f_out : F.out = true := by assumption) (f_free : F.free = true := by assumption) :
    Keeps F s0 (takeChunks stack tagOk x0 s) := by
  induction x0 generalizing stack tagOk s with
  | zero => unfold takeChunks; exact hK
  | succ _ ih =>
    unfold takeChunks
    try dsimp only
    repeat' first
      | with_reducible assumption
      | with_reducible apply ih
      | with_reducible apply installNext_keeps
      | with_reducible refine Keeps.fst ?_ ‹_ = (_, _)›
      | split

theorem imageData_keeps {F : Footprint} {s0 s : State} (hK : Keeps F s0 s) (c : FlCmd) (r : Reply) (tagOk : Bool) (f_cfg : F.cfg = true := by assumption) (f_log : F.log = true := by assumption) (f_mcEv : F.mcEv = true := by assumption) (f_dies : F.dies = true := by assumption) (f_fns : F.fns = true := by assumption) (f_reservoirs : F.reservoirs = true := by assumption) (f_engines : F.engines = true := by assumption) (f_parts : F.parts = true := by assumption) (f_out : F.out = true := by assumption) (f_free : F.free = true := by assumption) :
    Keeps F s0 (imageData s c r tagOk) := by
  unfold imageData
  try dsimp only
  repeat' first
    | with_reducible assumption
    | with_reducible apply fleshaReply_keeps
    | with_reducible apply openReason_keeps
    | with_reducible apply takeChunks_keeps
    | with_reducible refine Keeps.fst ?_ ‹_ = (_, _)›
    | split
    | dsimp only
    | with_reducible refine Keeps.upd ?_

theorem cfgData_keeps {F : Footprint} {s0 s : State} (hK : Keeps F s0 s) (c : FlCmd) (r : Reply) (f_cfg : F.cfg = true := by assumption) (f_out : F.out = true := by assumption) :
    Keeps F s0 (cfgData s c r) := by
  unfold cfgData
  try dsimp only
  repeat' first
    | with_reducible assumption
    | with_reducible apply fleshaReply_keeps
    | with_reducible apply writeData_keeps
    | with_reducible apply writeFinal_keeps
    | with_reducible refine Keeps.fst ?_ ‹_ = (_, _)›
    | split

theorem sbReply_keeps {F : Footprint} {s0 s : State} (hK : Keeps F s0 s) (iod status : Nat) (bs : List Byte) (f_out : F.out = true := by assumption) :
    Keeps F s0 (sbReply s iod status bs) := by
  unfold sbReply
  try dsimp only
  repeat' first
    | with_reducible assumption
    | with_reducible apply Keeps.emit

theorem sbServe_keeps {F : Footprint} {s0 s : State} (hK : Keeps F s0 s) (iod : Nat) (f : State → State) (hf : ∀ a0, Keeps F s0 a0 → Keeps F s0 (f a0)) (f_out : F.out = true := by assumption) :
    Keeps F s0 (sbServe s iod f) := by
  unfold sbServe
  try dsimp only
  repeat' first
    | with_reducible assumption
    | with_reducible apply sbReply_keeps
    | with_reducible apply hf
    | split

theorem sbReadRegs_keeps {F : Footprint} {s0 s : State} (hK : Keeps F s0 s) (iod : Nat) (b : List Byte) (f_tiles : F.tiles = true := by assumption) (f_parts : F.parts = true := by assumption) (f_latches : F.latches = true := by assumption) (f_out : F.out = true := by assumption) (f_free : F.free = true := by assumption) :
    Keeps F s0 (sbReadRegs s iod b) := by
  unfold sbReadRegs
  try dsimp only
  repeat' first
    | with_reducible assumption
    | with_reducible apply mgmtReads_keeps
    | with_reducible apply sbReply_keeps
    | split

theorem sbWriteRegs_keeps {F : Footprint} {s0 s : State} (hK : Keeps F s0 s) (iod : Nat) (b : List Byte) (f_power : F.power = true := by assumption) (f_cfg : F.cfg = true := by assumption) (f_time : F.time = true := by assumption) (f_log : F.log = true := by assumption) (f_therm : F.therm = true := by assumption) (f_fm : F.fm = true := by assumption) (f_lantern : F.lantern = true := by assumption) (f_mcEv : F.mcEv = true := by assumption) (f_dies : F.dies = true := by assumption) (f_tiles : F.tiles = true := by assumption) (f_stackTab : F.stackTab = true := by assumption) (f_feedPorts : F.feedPorts = true := by assumption) (f_feedIods : F.feedIods = true := by assumption) (f_hostPorts : F.hostPorts = true := by assumption) (f_fns : F.fns = true := by assumption) (f_reservoirs : F.reservoirs = true := by assumption) (f_engines : F.engines = true := by assumption) (f_parts : F.parts = true := by assumption) (f_ptSel : F.ptSel = true := by assumption) (f_entries : F.entries = true := by assumption) (f_dram : F.dram = true := by assumption) (f_xfers : F.xfers = true := by assumption) (f_releases : F.releases = true := by assumption) (f_nextXfer : F.nextXfer = true := by assumption) (f_nextOp : F.nextOp = true := by assumption) (f_latches : F.latches = true := by assumption) (f_out : F.out = true := by assumption) (f_free : F.free = true := by assumption) :
    Keeps F s0 (sbWriteRegs s iod b) := by
  unfold sbWriteRegs
  try dsimp only
  repeat' first
    | with_reducible assumption
    | with_reducible apply mgmtWrites_keeps
    | with_reducible apply sbReply_keeps
    | split

theorem sbConfig_keeps {F : Footprint} {s0 s : State} (hK : Keeps F s0 s) (iod : Nat) (b : List Byte) (f_cfg : F.cfg = true := by assumption) (f_out : F.out = true := by assumption) :
    Keeps F s0 (sbConfig s iod b) := by
  unfold sbConfig
  try dsimp only
  repeat' first
    | with_reducible assumption
    | with_reducible apply writeData_keeps
    | with_reducible apply writeFinal_keeps
    | with_reducible apply sbReply_keeps
    | with_reducible refine Keeps.fst ?_ ‹_ = (_, _)›
    | split

theorem sbTimeSet_keeps {F : Footprint} {s0 s : State} (hK : Keeps F s0 s) (iod : Nat) (b : List Byte) (f_time : F.time = true := by assumption) (f_mcEv : F.mcEv = true := by assumption) (f_dies : F.dies = true := by assumption) (f_out : F.out = true := by assumption) :
    Keeps F s0 (sbTimeSet s iod b) := by
  unfold sbTimeSet
  try dsimp only
  repeat' first
    | with_reducible assumption
    | with_reducible apply adoptTime_keeps
    | with_reducible apply sbReply_keeps
    | split

end Sys2Proof.Machine
end

