-- ==== Sys2Proof/Laws/KeepsLog.lean ====
section
/-! SUPPORT. The operations of Machine/Log.lean have `Keeps`: one lemma each. -/

namespace Sys2Proof.Machine

set_option Elab.async false

theorem execLogDrain_keeps {F : Footprint} {s s' : State} (e : execLogDrain s = .next s') (f_log : F.log = true := by assumption) (f_mcEv : F.mcEv = true := by assumption) (f_dies : F.dies = true := by assumption) (f_fns : F.fns = true := by assumption) (f_parts : F.parts = true := by assumption) (f_out : F.out = true := by assumption) :
    Keeps F s s' := by
  unfold execLogDrain at e
  refine guarded_keeps ?_ e
  have hK := Keeps.refl F s
  try dsimp only
  repeat' first
    | with_reducible assumption
    | with_reducible apply logDrain_keeps
    | split

theorem execCoalesceIntervalEnd_keeps {F : Footprint} {s s' : State} (die now : Nat) (e : execCoalesceIntervalEnd die now s = .next s') (f_time : F.time = true := by assumption) (f_mcEv : F.mcEv = true := by assumption) (f_dies : F.dies = true := by assumption) :
    Keeps F s s' := by
  unfold execCoalesceIntervalEnd at e
  refine guarded_keeps ?_ e
  have hK := Keeps.refl F s
  try dsimp only
  repeat' first
    | with_reducible assumption
    | with_reducible apply Keeps.setNow
    | with_reducible apply modEvQueue_keeps
    | split

theorem execFleshaEventSend_keeps {F : Footprint} {s s' : State} (sub : Nat) (e : execFleshaEventSend sub s = .next s') (f_cfg : F.cfg = true := by assumption) (f_log : F.log = true := by assumption) (f_out : F.out = true := by assumption) :
    Keeps F s s' := by
  unfold execFleshaEventSend at e
  refine guarded_keeps ?_ e
  have hK := Keeps.refl F s
  try dsimp only
  repeat' first
    | with_reducible assumption
    | with_reducible apply anonSend_keeps
    | with_reducible apply subSend_keeps
    | with_reducible refine Keeps.fst ?_ ‹_ = (_, _)›
    | split

theorem execTelemetrySend_keeps {F : Footprint} {s s' : State} (sub now : Nat) (e : execTelemetrySend sub now s = .next s') (f_cfg : F.cfg = true := by assumption) (f_time : F.time = true := by assumption) (f_tiles : F.tiles = true := by assumption) (f_parts : F.parts = true := by assumption) (f_latches : F.latches = true := by assumption) (f_out : F.out = true := by assumption) (f_free : F.free = true := by assumption) :
    Keeps F s s' := by
  unfold execTelemetrySend at e
  refine guarded_keeps ?_ e
  have hK := Keeps.refl F s
  try dsimp only
  repeat' first
    | with_reducible assumption
    | with_reducible apply Keeps.setNow
    | with_reducible apply fleshaSend_keeps
    | with_reducible apply telemetryValues_keeps
    | with_reducible refine Keeps.fst ?_ ‹_ = (_, _)›
    | split

theorem execSubscriptionLapse_keeps {F : Footprint} {s s' : State} (sub now : Nat) (e : execSubscriptionLapse sub now s = .next s') (f_time : F.time = true := by assumption) (f_log : F.log = true := by assumption) :
    Keeps F s s' := by
  unfold execSubscriptionLapse at e
  refine guarded_keeps ?_ e
  have hK := Keeps.refl F s
  try dsimp only
  repeat' first
    | with_reducible assumption
    | with_reducible apply Keeps.setNow
    | with_reducible refine Keeps.fst ?_ ‹_ = (_, _)›
    | split
    | dsimp only
    | with_reducible refine Keeps.upd ?_

end Sys2Proof.Machine
end

