-- ==== Sys2Proof/Laws/KeepsFlesha.lean ====
section
/-! SUPPORT. The operations of Machine/Flesha.lean have `Keeps`: one lemma each. -/

namespace Sys2Proof.Machine

set_option Elab.async false

theorem fleshaRun_keeps {F : Footprint} {s0 s : State} (hK : Keeps F s0 s) (port addr udp op : Nat) (msg : List Byte) (f : State → FlCmd → Reply → State) (hf : ∀ a0 a1 a2, Keeps F s0 a0 → Keeps F s0 (f a0 a1 a2)) (f_cfg : F.cfg = true := by assumption) (f_log : F.log = true := by assumption) (f_mcEv : F.mcEv = true := by assumption) (f_dies : F.dies = true := by assumption) (f_out : F.out = true := by assumption) :
    Keeps F s0 (fleshaRun s port addr udp op msg f) := by
  unfold fleshaRun
  try dsimp only
  repeat' first
    | with_reducible assumption
    | with_reducible apply fleshaIn_keeps
    | with_reducible apply hf
    | with_reducible refine Keeps.fst ?_ ‹_ = (_, _)›
    | split

theorem fleshaTimeSet_keeps {F : Footprint} {s0 s : State} (hK : Keeps F s0 s) (c : FlCmd) (r : Reply) (f_cfg : F.cfg = true := by assumption) (f_time : F.time = true := by assumption) (f_mcEv : F.mcEv = true := by assumption) (f_dies : F.dies = true := by assumption) (f_out : F.out = true := by assumption) (f_free : F.free = true := by assumption) :
    Keeps F s0 (fleshaTimeSet s c r) := by
  unfold fleshaTimeSet
  try dsimp only
  repeat' first
    | with_reducible assumption
    | with_reducible apply fleshaReply_keeps
    | with_reducible apply openReason_keeps
    | with_reducible apply adoptTime_keeps
    | split

theorem fleshaResyncRun_keeps {F : Footprint} {s0 s : State} (hK : Keeps F s0 s) (c : FlCmd) (r : Reply) (f_cfg : F.cfg = true := by assumption) (f_feedIods : F.feedIods = true := by assumption) (f_out : F.out = true := by assumption) :
    Keeps F s0 (fleshaResyncRun s c r) := by
  unfold fleshaResyncRun
  try dsimp only
  repeat' first
    | with_reducible assumption
    | with_reducible apply resyncChannel_keeps
    | with_reducible apply fleshaReply_keeps
    | split

theorem fleshaFailoverRun_keeps {F : Footprint} {s0 s : State} (hK : Keeps F s0 s) (c : FlCmd) (r : Reply) (f_cfg : F.cfg = true := by assumption) (f_log : F.log = true := by assumption) (f_fm : F.fm = true := by assumption) (f_mcEv : F.mcEv = true := by assumption) (f_dies : F.dies = true := by assumption) (f_fns : F.fns = true := by assumption) (f_reservoirs : F.reservoirs = true := by assumption) (f_engines : F.engines = true := by assumption) (f_parts : F.parts = true := by assumption) (f_out : F.out = true := by assumption) (f_free : F.free = true := by assumption) :
    Keeps F s0 (fleshaFailoverRun s c r) := by
  unfold fleshaFailoverRun
  try dsimp only
  repeat' first
    | with_reducible assumption
    | with_reducible apply fleshaReply_keeps
    | with_reducible apply openReason_keeps
    | with_reducible apply failover_keeps
    | split

theorem fleshaLog_keeps {F : Footprint} {s0 s : State} (hK : Keeps F s0 s) (c : FlCmd) (r : Reply) (f_cfg : F.cfg = true := by assumption) (f_out : F.out = true := by assumption) :
    Keeps F s0 (fleshaLog s c r) := by
  unfold fleshaLog
  try dsimp only
  repeat' first
    | with_reducible assumption
    | with_reducible apply fleshaReply_keeps
    | split

theorem execFleshaSubscribe_keeps {F : Footprint} {s s' : State} (port addr udp : Nat) (msg : List Byte) (now : Nat) (e : execFleshaSubscribe port addr udp msg now s = .next s') (f_cfg : F.cfg = true := by assumption) (f_time : F.time = true := by assumption) (f_log : F.log = true := by assumption) (f_mcEv : F.mcEv = true := by assumption) (f_dies : F.dies = true := by assumption) (f_out : F.out = true := by assumption) :
    Keeps F s s' := by
  unfold execFleshaSubscribe at e
  refine guarded_keeps ?_ e
  have hK := Keeps.refl F s
  try dsimp only
  repeat' first
    | with_reducible assumption
    | with_reducible apply Keeps.setNow
    | with_reducible apply subscribe_keeps
    | with_reducible apply fleshaRun_keeps
    | intro _

theorem execFleshaRead_keeps {F : Footprint} {s s' : State} (port addr udp : Nat) (msg : List Byte) (now : Nat) (e : execFleshaRead port addr udp msg now s = .next s') (f_cfg : F.cfg = true := by assumption) (f_time : F.time = true := by assumption) (f_log : F.log = true := by assumption) (f_mcEv : F.mcEv = true := by assumption) (f_dies : F.dies = true := by assumption) (f_tiles : F.tiles = true := by assumption) (f_parts : F.parts = true := by assumption) (f_latches : F.latches = true := by assumption) (f_out : F.out = true := by assumption) (f_free : F.free = true := by assumption) :
    Keeps F s s' := by
  unfold execFleshaRead at e
  refine guarded_keeps ?_ e
  have hK := Keeps.refl F s
  try dsimp only
  repeat' first
    | with_reducible assumption
    | with_reducible apply Keeps.setNow
    | with_reducible apply fleshaReadRegs_keeps
    | with_reducible apply fleshaRun_keeps
    | intro _

theorem execFleshaWrite_keeps {F : Footprint} {s s' : State} (port addr udp : Nat) (msg : List Byte) (now : Nat) (e : execFleshaWrite port addr udp msg now s = .next s') (f_power : F.power = true := by assumption) (f_cfg : F.cfg = true := by assumption) (f_time : F.time = true := by assumption) (f_log : F.log = true := by assumption) (f_therm : F.therm = true := by assumption) (f_fm : F.fm = true := by assumption) (f_lantern : F.lantern = true := by assumption) (f_mcEv : F.mcEv = true := by assumption) (f_dies : F.dies = true := by assumption) (f_tiles : F.tiles = true := by assumption) (f_stackTab : F.stackTab = true := by assumption) (f_feedPorts : F.feedPorts = true := by assumption) (f_feedIods : F.feedIods = true := by assumption) (f_hostPorts : F.hostPorts = true := by assumption) (f_fns : F.fns = true := by assumption) (f_reservoirs : F.reservoirs = true := by assumption) (f_engines : F.engines = true := by assumption) (f_parts : F.parts = true := by assumption) (f_ptSel : F.ptSel = true := by assumption) (f_entries : F.entries = true := by assumption) (f_dram : F.dram = true := by assumption) (f_xfers : F.xfers = true := by assumption) (f_releases : F.releases = true := by assumption) (f_nextXfer : F.nextXfer = true := by assumption) (f_nextOp : F.nextOp = true := by assumption) (f_latches : F.latches = true := by assumption) (f_out : F.out = true := by assumption) (f_free : F.free = true := by assumption) :
    Keeps F s s' := by
  unfold execFleshaWrite at e
  refine guarded_keeps ?_ e
  have hK := Keeps.refl F s
  try dsimp only
  repeat' first
    | with_reducible assumption
    | with_reducible apply Keeps.setNow
    | with_reducible apply fleshaWriteRegs_keeps
    | with_reducible apply fleshaRun_keeps
    | intro _

theorem execFleshaImageData_keeps {F : Footprint} {s s' : State} (port addr udp : Nat) (msg : List Byte) (tagOk : Bool) (now : Nat) (e : execFleshaImageData port addr udp msg tagOk now s = .next s') (f_cfg : F.cfg = true := by assumption) (f_time : F.time = true := by assumption) (f_log : F.log = true := by assumption) (f_mcEv : F.mcEv = true := by assumption) (f_dies : F.dies = true := by assumption) (f_fns : F.fns = true := by assumption) (f_reservoirs : F.reservoirs = true := by assumption) (f_engines : F.engines = true := by assumption) (f_parts : F.parts = true := by assumption) (f_out : F.out = true := by assumption) (f_free : F.free = true := by assumption) :
    Keeps F s s' := by
  unfold execFleshaImageData at e
  refine guarded_keeps ?_ e
  have hK := Keeps.refl F s
  try dsimp only
  repeat' first
    | with_reducible assumption
    | with_reducible apply Keeps.setNow
    | with_reducible apply imageData_keeps
    | with_reducible apply fleshaRun_keeps
    | intro _

theorem execFleshaCfgData_keeps {F : Footprint} {s s' : State} (port addr udp : Nat) (msg : List Byte) (now : Nat) (e : execFleshaCfgData port addr udp msg now s = .next s') (f_cfg : F.cfg = true := by assumption) (f_time : F.time = true := by assumption) (f_log : F.log = true := by assumption) (f_mcEv : F.mcEv = true := by assumption) (f_dies : F.dies = true := by assumption) (f_out : F.out = true := by assumption) :
    Keeps F s s' := by
  unfold execFleshaCfgData at e
  refine guarded_keeps ?_ e
  have hK := Keeps.refl F s
  try dsimp only
  repeat' first
    | with_reducible assumption
    | with_reducible apply Keeps.setNow
    | with_reducible apply cfgData_keeps
    | with_reducible apply fleshaRun_keeps
    | intro _

theorem execFleshaTime_keeps {F : Footprint} {s s' : State} (port addr udp : Nat) (msg : List Byte) (now : Nat) (e : execFleshaTime port addr udp msg now s = .next s') (f_cfg : F.cfg = true := by assumption) (f_time : F.time = true := by assumption) (f_log : F.log = true := by assumption) (f_mcEv : F.mcEv = true := by assumption) (f_dies : F.dies = true := by assumption) (f_out : F.out = true := by assumption) (f_free : F.free = true := by assumption) :
    Keeps F s s' := by
  unfold execFleshaTime at e
  refine guarded_keeps ?_ e
  have hK := Keeps.refl F s
  try dsimp only
  repeat' first
    | with_reducible assumption
    | with_reducible apply Keeps.setNow
    | with_reducible apply fleshaRun_keeps
    | with_reducible apply fleshaTimeSet_keeps
    | intro _

theorem execFleshaResync_keeps {F : Footprint} {s s' : State} (port addr udp : Nat) (msg : List Byte) (now : Nat) (e : execFleshaResync port addr udp msg now s = .next s') (f_cfg : F.cfg = true := by assumption) (f_time : F.time = true := by assumption) (f_log : F.log = true := by assumption) (f_mcEv : F.mcEv = true := by assumption) (f_dies : F.dies = true := by assumption) (f_feedIods : F.feedIods = true := by assumption) (f_out : F.out = true := by assumption) :
    Keeps F s s' := by
  unfold execFleshaResync at e
  refine guarded_keeps ?_ e
  have hK := Keeps.refl F s
  try dsimp only
  repeat' first
    | with_reducible assumption
    | with_reducible apply Keeps.setNow
    | with_reducible apply fleshaRun_keeps
    | with_reducible apply fleshaResyncRun_keeps
    | intro _

theorem execFleshaFailover_keeps {F : Footprint} {s s' : State} (port addr udp : Nat) (msg : List Byte) (now : Nat) (e : execFleshaFailover port addr udp msg now s = .next s') (f_cfg : F.cfg = true := by assumption) (f_time : F.time = true := by assumption) (f_log : F.log = true := by assumption) (f_fm : F.fm = true := by assumption) (f_mcEv : F.mcEv = true := by assumption) (f_dies : F.dies = true := by assumption) (f_fns : F.fns = true := by assumption) (f_reservoirs : F.reservoirs = true := by assumption) (f_engines : F.engines = true := by assumption) (f_parts : F.parts = true := by assumption) (f_out : F.out = true := by assumption) (f_free : F.free = true := by assumption) :
    Keeps F s s' := by
  unfold execFleshaFailover at e
  refine guarded_keeps ?_ e
  have hK := Keeps.refl F s
  try dsimp only
  repeat' first
    | with_reducible assumption
    | with_reducible apply Keeps.setNow
    | with_reducible apply fleshaRun_keeps
    | with_reducible apply fleshaFailoverRun_keeps
    | intro _

theorem execFleshaLogRead_keeps {F : Footprint} {s s' : State} (port addr udp : Nat) (msg : List Byte) (now : Nat) (e : execFleshaLogRead port addr udp msg now s = .next s') (f_cfg : F.cfg = true := by assumption) (f_time : F.time = true := by assumption) (f_log : F.log = true := by assumption) (f_mcEv : F.mcEv = true := by assumption) (f_dies : F.dies = true := by assumption) (f_out : F.out = true := by assumption) :
    Keeps F s s' := by
  unfold execFleshaLogRead at e
  refine guarded_keeps ?_ e
  have hK := Keeps.refl F s
  try dsimp only
  repeat' first
    | with_reducible assumption
    | with_reducible apply Keeps.setNow
    | with_reducible apply fleshaRun_keeps
    | with_reducible apply fleshaLog_keeps
    | intro _

end Sys2Proof.Machine
end

