-- ==== Sys2Proof/Laws/KeepsSideband.lean ====
section
/-! SUPPORT. The operations of Machine/Sideband.lean have `Keeps`: one lemma each. -/

namespace Sys2Proof.Machine

set_option Elab.async false

theorem execSbStatus_keeps {F : Footprint} {s s' : State} (iod : Nat) (e : execSbStatus iod s = .next s') (f_out : F.out = true := by assumption) :
    Keeps F s s' := by
  unfold execSbStatus at e
  refine guarded_keeps ?_ e
  have hK := Keeps.refl F s
  try dsimp only
  repeat' first
    | with_reducible assumption
    | with_reducible apply sbReply_keeps
    | split

theorem execSbRead_keeps {F : Footprint} {s s' : State} (iod : Nat) (body : List Byte) (e : execSbRead iod body s = .next s') (f_tiles : F.tiles = true := by assumption) (f_parts : F.parts = true := by assumption) (f_latches : F.latches = true := by assumption) (f_out : F.out = true := by assumption) (f_free : F.free = true := by assumption) :
    Keeps F s s' := by
  unfold execSbRead at e
  refine guarded_keeps ?_ e
  have hK := Keeps.refl F s
  try dsimp only
  repeat' first
    | with_reducible assumption
    | with_reducible apply sbServe_keeps
    | with_reducible apply sbReadRegs_keeps
    | intro _

theorem execSbWrite_keeps {F : Footprint} {s s' : State} (iod : Nat) (body : List Byte) (now : Nat) (e : execSbWrite iod body now s = .next s') (f_power : F.power = true := by assumption) (f_cfg : F.cfg = true := by assumption) (f_time : F.time = true := by assumption) (f_log : F.log = true := by assumption) (f_therm : F.therm = true := by assumption) (f_fm : F.fm = true := by assumption) (f_lantern : F.lantern = true := by assumption) (f_mcEv : F.mcEv = true := by assumption) (f_dies : F.dies = true := by assumption) (f_tiles : F.tiles = true := by assumption) (f_stackTab : F.stackTab = true := by assumption) (f_feedPorts : F.feedPorts = true := by assumption) (f_feedIods : F.feedIods = true := by assumption) (f_hostPorts : F.hostPorts = true := by assumption) (f_fns : F.fns = true := by assumption) (f_reservoirs : F.reservoirs = true := by assumption) (f_engines : F.engines = true := by assumption) (f_parts : F.parts = true := by assumption) (f_ptSel : F.ptSel = true := by assumption) (f_entries : F.entries = true := by assumption) (f_dram : F.dram = true := by assumption) (f_xfers : F.xfers = true := by assumption) (f_releases : F.releases = true := by assumption) (f_nextXfer : F.nextXfer = true := by assumption) (f_nextOp : F.nextOp = true := by assumption) (f_latches : F.latches = true := by assumption) (f_out : F.out = true := by assumption) (f_free : F.free = true := by assumption) :
    Keeps F s s' := by
  unfold execSbWrite at e
  refine guarded_keeps ?_ e
  have hK := Keeps.refl F s
  try dsimp only
  repeat' first
    | with_reducible assumption
    | with_reducible apply Keeps.setNow
    | with_reducible apply sbServe_keeps
    | with_reducible apply sbWriteRegs_keeps
    | intro _

theorem execSbCfgData_keeps {F : Footprint} {s s' : State} (iod : Nat) (body : List Byte) (now : Nat) (e : execSbCfgData iod body now s = .next s') (f_cfg : F.cfg = true := by assumption) (f_time : F.time = true := by assumption) (f_out : F.out = true := by assumption) :
    Keeps F s s' := by
  unfold execSbCfgData at e
  refine guarded_keeps ?_ e
  have hK := Keeps.refl F s
  try dsimp only
  repeat' first
    | with_reducible assumption
    | with_reducible apply Keeps.setNow
    | with_reducible apply sbServe_keeps
    | with_reducible apply sbConfig_keeps
    | intro _

theorem execSbTime_keeps {F : Footprint} {s s' : State} (iod : Nat) (body : List Byte) (now : Nat) (e : execSbTime iod body now s = .next s') (f_time : F.time = true := by assumption) (f_mcEv : F.mcEv = true := by assumption) (f_dies : F.dies = true := by assumption) (f_out : F.out = true := by assumption) :
    Keeps F s s' := by
  unfold execSbTime at e
  refine guarded_keeps ?_ e
  have hK := Keeps.refl F s
  try dsimp only
  repeat' first
    | with_reducible assumption
    | with_reducible apply Keeps.setNow
    | with_reducible apply sbServe_keeps
    | with_reducible apply sbTimeSet_keeps
    | intro _
    | split
    | dsimp only
    | with_reducible refine Keeps.upd ?_

end Sys2Proof.Machine
end

