-- ==== Sys2Proof/Laws/KeepsLantern.lean ====
section
/-! SUPPORT. The operations of Machine/Lantern.lean have `Keeps`: one lemma each. -/

namespace Sys2Proof.Machine

set_option Elab.async false

theorem debugUnlock_keeps {F : Footprint} {s0 s : State} (hK : Keeps F s0 s) (port addr udp act : Nat) (msg : List Byte) (f_cfg : F.cfg = true := by assumption) (f_log : F.log = true := by assumption) (f_lantern : F.lantern = true := by assumption) (f_mcEv : F.mcEv = true := by assumption) (f_dies : F.dies = true := by assumption) (f_fns : F.fns = true := by assumption) (f_out : F.out = true := by assumption) :
    Keeps F s0 (debugUnlock s port addr udp act msg) := by
  unfold debugUnlock
  try dsimp only
  repeat' first
    | with_reducible assumption
    | with_reducible apply fleshaReply_keeps
    | with_reducible apply lanternLock_keeps
    | with_reducible apply lanternUnlock_keeps
    | with_reducible apply fleshaRun_keeps
    | intro _
    | split

theorem execFleshaDebugUnlock_keeps {F : Footprint} {s s' : State} (port addr udp : Nat) (msg : List Byte) (now : Nat) (e : execFleshaDebugUnlock port addr udp msg now s = .next s') (f_cfg : F.cfg = true := by assumption) (f_time : F.time = true := by assumption) (f_log : F.log = true := by assumption) (f_lantern : F.lantern = true := by assumption) (f_mcEv : F.mcEv = true := by assumption) (f_dies : F.dies = true := by assumption) (f_fns : F.fns = true := by assumption) (f_out : F.out = true := by assumption) :
    Keeps F s s' := by
  unfold execFleshaDebugUnlock at e
  refine guarded_keeps ?_ e
  have hK := Keeps.refl F s
  try dsimp only
  repeat' first
    | with_reducible assumption
    | with_reducible apply Keeps.setNow
    | with_reducible apply debugUnlock_keeps

theorem execFleshaDebugLock_keeps {F : Footprint} {s s' : State} (port addr udp : Nat) (msg : List Byte) (now : Nat) (e : execFleshaDebugLock port addr udp msg now s = .next s') (f_cfg : F.cfg = true := by assumption) (f_time : F.time = true := by assumption) (f_log : F.log = true := by assumption) (f_lantern : F.lantern = true := by assumption) (f_mcEv : F.mcEv = true := by assumption) (f_dies : F.dies = true := by assumption) (f_fns : F.fns = true := by assumption) (f_out : F.out = true := by assumption) :
    Keeps F s s' := by
  unfold execFleshaDebugLock at e
  refine guarded_keeps ?_ e
  have hK := Keeps.refl F s
  try dsimp only
  repeat' first
    | with_reducible assumption
    | with_reducible apply Keeps.setNow
    | with_reducible apply debugUnlock_keeps

theorem execLanternExpiry_keeps {F : Footprint} {s s' : State} (now : Nat) (e : execLanternExpiry now s = .next s') (f_time : F.time = true := by assumption) (f_lantern : F.lantern = true := by assumption) (f_mcEv : F.mcEv = true := by assumption) (f_dies : F.dies = true := by assumption) :
    Keeps F s s' := by
  unfold execLanternExpiry at e
  refine guarded_keeps ?_ e
  have hK := Keeps.refl F s
  try dsimp only
  repeat' first
    | with_reducible assumption
    | with_reducible apply Keeps.setNow
    | with_reducible apply lanternLock_keeps
    | split

theorem execLtnLock_keeps {F : Footprint} {s s' : State} (req : Requester) (value now : Nat) (e : execLtnLock req value now s = .next s') (f_time : F.time = true := by assumption) (f_lantern : F.lantern = true := by assumption) (f_mcEv : F.mcEv = true := by assumption) (f_dies : F.dies = true := by assumption) :
    Keeps F s s' := by
  unfold execLtnLock at e
  refine guarded_keeps ?_ e
  have hK := Keeps.refl F s
  try dsimp only
  repeat' first
    | with_reducible assumption
    | with_reducible apply Keeps.setNow
    | with_reducible apply lanternLock_keeps
    | split

theorem execLanternSelWrite_keeps {F : Footprint} {s s' : State} (req : Requester) (addr value : Nat) (e : execLanternSelWrite req addr value s = .next s') (f_power : F.power = true := by assumption) (f_cfg : F.cfg = true := by assumption) (f_time : F.time = true := by assumption) (f_log : F.log = true := by assumption) (f_therm : F.therm = true := by assumption) (f_fm : F.fm = true := by assumption) (f_lantern : F.lantern = true := by assumption) (f_mcEv : F.mcEv = true := by assumption) (f_dies : F.dies = true := by assumption) (f_tiles : F.tiles = true := by assumption) (f_stackTab : F.stackTab = true := by assumption) (f_feedPorts : F.feedPorts = true := by assumption) (f_feedIods : F.feedIods = true := by assumption) (f_hostPorts : F.hostPorts = true := by assumption) (f_fns : F.fns = true := by assumption) (f_reservoirs : F.reservoirs = true := by assumption) (f_engines : F.engines = true := by assumption) (f_parts : F.parts = true := by assumption) (f_ptSel : F.ptSel = true := by assumption) (f_entries : F.entries = true := by assumption) (f_dram : F.dram = true := by assumption) (f_xfers : F.xfers = true := by assumption) (f_releases : F.releases = true := by assumption) (f_nextXfer : F.nextXfer = true := by assumption) (f_nextOp : F.nextOp = true := by assumption) (f_latches : F.latches = true := by assumption) (f_out : F.out = true := by assumption) (f_free : F.free = true := by assumption) :
    Keeps F s s' := by
  unfold execLanternSelWrite at e
  refine guarded_keeps ?_ e
  have hK := Keeps.refl F s
  try dsimp only
  repeat' first
    | with_reducible assumption
    | with_reducible apply regWrite_keeps
    | split

end Sys2Proof.Machine
end

