-- ==== Sys2Proof/Laws/Tile.lean ====
section
/-! SUPPORT. What the shared operations of a tile answer: passes, contexts, rows of slots, arrival counters and transfers. -/

namespace Sys2Proof.Machine

set_option Elab.async false

variable {s : State} {t c : Nat}

/-! ### Searching a range -/

theorem range_find_none {n : Nat} {q : Nat → Bool} (h : ∀ i, i < n → q i = false) : (List.range n).find? q = none := by
  simp only [List.find?_eq_none, List.mem_range, Bool.not_eq_true]; exact h

theorem range_any_false {n : Nat} {q : Nat → Bool} (h : ∀ i, i < n → q i = false) : (List.range n).any q = false := by
  simp only [List.any_eq_false, List.mem_range, Bool.not_eq_true]; exact h

/-! ### Tables after a change of one tile -/

theorem TablesOk.modTile (h : TablesOk s) (t : Nat) (f : Tile → Tile) : TablesOk (s.modTile t f) :=
  (Keeps.modTile (F := { tiles := true }) (Keeps.refl _ s) t f rfl).tables h

/-- A change of a tile that leaves its contexts leaves every context. -/
theorem modTile_ctxOf (t : Nat) (f : Tile → Tile) (hf : (f (s.tile t)).ctxs = (s.tile t).ctxs) (u c : Nat) :
    ctxOf (s.modTile t f) u c = ctxOf s u c := by
  by_cases e : u = t
  · subst e; simp only [ctxOf, State.modTile_tile_self, hf]
  · simp only [ctxOf]; rw [State.modTile_tile_other _ e]

theorem modTile_destCtx (t : Nat) (f : Tile → Tile) (hf : (f (s.tile t)).ctxs = (s.tile t).ctxs) (p k u c : Nat) :
    destCtx (s.modTile t f) p k u c = destCtx s p k u c := by
  by_cases e : u = t
  · subst e; simp only [destCtx, State.modTile_tile_self, hf]
  · simp only [destCtx]; rw [State.modTile_tile_other _ e]

/-! ### Passes -/

theorem find_id_map (l : List Pass) (id : Nat) (f : Pass → Pass) (hf : ∀ x, (f x).id = x.id) :
    (l.map fun x => if x.id == id then f x else x).find? (fun x => x.id == id) = (l.find? fun x => x.id == id).map f := by
  induction l with
  | nil => rfl
  | cons a l ih =>
    by_cases h : (a.id == id) = true
    · rw [List.map_cons, List.find?_cons, List.find?_cons, if_pos h, hf, h]; rfl
    · have h' : (a.id == id) = false := by simpa using h
      rw [List.map_cons, List.find?_cons, List.find?_cons, if_neg h, h']; exact ih

/-- A change of a pass that keeps its number changes what is found under it. -/
theorem findPass_modPass (p id : Nat) (f : Pass → Pass) (hf : ∀ x, (f x).id = x.id) :
    findPass (modPass s p id f) p id = (findPass s p id).map f := by
  unfold findPass modPass allPasses
  simp only [State.modPart_part_self]
  rw [← List.map_append, find_id_map _ _ _ hf]

/-! ### Issue -/

/-- A context that cannot issue runs nothing. -/
theorem issue_blocked {w : Code} {us : List Res} (h : issues s t c w us = false) (f : Ctx → State) : issue s t c w us f = s := by
  simp [issue, h]

/-- A context that can issue runs the effect and moves on. -/
theorem issue_runs {w : Code} {us : List Res} (h : issues s t c w us = true) (f : Ctx → State) :
    issue s t c w us f = goTo (f (ctxOf s t c)) t c ((ctxOf s t c).pc + 1) := by simp [issue, h]

theorem engineBusy_tile (t c : Nat) (e : Engine) (rs : List Res) :
    (engineBusy s t c e rs).tile t = { s.tile t with
      inFlight := (s.tile t).inFlight ++ [{ id := (s.tile t).issued, engine := e, ctx := c, res := rs }], issued := (s.tile t).issued + 1 } := by
  unfold engineBusy; rw [State.modTile_tile_self]

theorem engineBusy_ctxOf (t c : Nat) (e : Engine) (rs : List Res) (u k : Nat) : ctxOf (engineBusy s t c e rs) u k = ctxOf s u k :=
  modTile_ctxOf t _ rfl u k

/-! ### Rows of slots (R192) -/

theorem toRows_take_length (bs : List Byte) (n : Nat) : ((toRows bs).take n).length ≤ n := by simp

/-- A read whose every row is served gives the rows' bytes, and consumes their poison. -/
theorem slotRead_served {slot epoch : Nat} {d : SlotDecl} (n : Nat) (hd : slotDecl (ctxOf s t c) slot = some d) (hn : n ≤ d.rows)
    (h : ∀ i, i < n → rowReads (rowOf (s.tile t) (d.base + i)) epoch = true ∧ ownsRow (ctxOf s t c) (d.base + i) = true) :
    slotRead s t c slot 0 n epoch =
      (if (List.range n).any (fun i => (rowOf (s.tile t) (d.base + i)).poison) then
          poisonPass s (ctxPart (ctxOf s t c)) (ctxOf s t c).pass reasonPassFailed
        else s,
       some (((List.range n).map fun i => rowBytes (rowOf (s.tile t) (d.base + i))).flatten,
         (List.range n).any fun i => (rowOf (s.tile t) (d.base + i)).poison)) := by
  simp only [slotRead, hd, Nat.add_zero]
  have : ((List.range n).map fun i => d.base + i).find?
      (fun r => !(rowReads (rowOf (s.tile t) r) epoch && ownsRow (ctxOf s t c) r && decide (r < d.base + d.rows))) = none := by
    rw [List.find?_map, range_find_none]; rfl
    intro i hi; simp [h i hi]; omega
  rw [this]
  simp [List.any_map, Function.comp_def]

/-- A write to rows that are all free and owned fills them and touches nothing else of the tile. -/
theorem slotWriteRows_free (bss : List (List Byte)) : ∀ {s : State} (t c slot r e rd : Nat) (bad : Bool),
    (∀ i, i < bss.length → (rowOf (s.tile t) (r + i)).full = false ∧ ownsRow (ctxOf s t c) (r + i) = true) →
    (slotWriteRows s t c slot r e rd bad bss).tile t = { s.tile t with rows := filledRows (s.tile t).rows r e rd bad bss } := by
  induction bss with
  | nil => intros; rfl
  | cons b bs ih =>
    intro s t c slot r e rd bad h
    have h0 := h 0 (by simp)
    simp only [Nat.add_zero] at h0
    simp only [slotWriteRows, slotWriteRow, h0, Bool.not_true, Bool.or_false, Bool.false_eq_true, if_false, filledRows]
    rw [ih]
    · rw [State.modTile_tile_self]
    · intro i hi
      have h1 := h (i + 1) (by simp; omega)
      rw [show r + 1 + i = r + (i + 1) by omega]
      refine ⟨?_, by rw [modTile_ctxOf t _ rfl]; exact h1.2⟩
      rw [State.modTile_tile_self]
      show Row.full (tget {} (tset {} _ _ _) _) = false
      rw [tget_tset_other _ (by omega)]
      exact h1.1

/-! ### Arrival counters (R190) -/

/-- The context words of the running context stay in the sequencer (R189). -/
theorem mirrorCtx_running (h : (s.tile t).running = some c) : mirrorCtx s t c = s := by simp [mirrorCtx, h]

theorem raiseArr_beyond {ctr : Nat} (h : 48 ≤ ctr) : raiseArr s t c ctr = s := by simp [raiseArr, h]

theorem raiseArr_adds {ctr : Nat} (h : ctr < 48) (hv : tget 0 (ctxOf s t c).arr ctr ≠ 0xFFFF) :
    raiseArr s t c ctr =
      mirrorCtx (modCtx s t c fun k => { k with arr := tset 0 k.arr ctr (tget 0 (ctxOf s t c).arr ctr + 1) }) t c := by
  have : ¬ 48 ≤ ctr := by omega
  simp [raiseArr, this, hv]

/-! ### Transfers (R202) -/

/-- With a route up, a launch puts one transfer in flight and counts its bytes on its first link. -/
theorem launch_routed {k : Ctx} {dt dc bytes : Nat} {ctr : Option Nat} {kind : XferKind} {pull : Option Release} {ls : List (Nat × Nat)}
    (h : linksOf s (tileDie t) (tileDie dt) = some ls) :
    launch s t k dt dc ctr kind bytes pull =
      countFirst { s with
        xfers := s.xfers ++ [{ id := s.nextXfer, part := ctxPart k, tag := (s.part (ctxPart k)).tag, pass := k.pass.getD 0, gen := k.gen
                               tile := dt, ctx := dc, ctr := ctr, kind := kind, src := t, links := ls, bytes := bytes, pull := pull }]
        nextXfer := s.nextXfer + 1 } ls bytes := by
  simp only [launch, launchFrom, h]

/-- Without one the transfer is lost and its pass is poisoned. -/
theorem launch_lost {k : Ctx} {dt dc bytes : Nat} {ctr : Option Nat} {kind : XferKind} {pull : Option Release}
    (h : linksOf s (tileDie t) (tileDie dt) = none) :
    launch s t k dt dc ctr kind bytes pull = poisonPass s (ctxPart k) k.pass reasonPassFailed := by
  simp only [launch, launchFrom, h]

end Sys2Proof.Machine
end

