-- ==== Sys2Proof/Tests/Slice0.lean ====
section
/-! SUPPORT. Tests: ill-formed commands refused, a witness for the hypotheses of every statement, and the worked examples of the specification. -/

section

set_option Elab.async false

open Sys2Proof Sys2Proof.Machine


/-! ### States for the witnesses: partition 3 on tiles 0 and 1 of die 0, an image in its slot 0, a pass in flight -/

/-- A row that holds `b` in every byte, FULL under epoch `e` for one reader. -/
def wRow (e : Nat) (b : Byte) : Row := rowWrite (List.replicate 64 b) e 1 false

/-- A schedule of eight instructions, with slots of two rows at 0, 2 and 4 and of four rows at 6, 10 and 14. -/
def wSched : Sched :=
  { level := 0, tile := 0, ctx := 0, instrs := List.replicate 8 0, codeRow := 32
    slots := [⟨0, 2, 1⟩, ⟨2, 2, 1⟩, ⟨4, 2, 1⟩, ⟨6, 4, 1⟩, ⟨10, 4, 1⟩, ⟨14, 1, 1⟩, ⟨15, 1, 1⟩]
    ranges := [(0, 64)], basin := [(0, 64)], saveRow := 60
    tarnSets := [[⟨0, 0, 0⟩]], opSets := [⟨0, 0, 0, 1, 0, 32⟩], walks := [] }

/-- A matrix of 32 × 1 with INT8 codes 1 and an FP32 input. -/
def wMatrix : Matrix :=
  { k := 32, n := 1, fmt := 4, inFmt := 4, codes := [List.replicate 32 1], scales := [[0x38]], outliers := [], termBound := 32
    contributors := 1, splitFp32 := false, supplied := [], outFmt := 0, bias := [] }

/-- A LINEAR layer of that matrix. -/
def wLayer : Layer :=
  { typ := 4, width := 32, act := 0, heads := 0, kvHeads := 0, headDim := 0, qFmt := 1, outFmt := 0, topK := 0, sigmoid := false
    accPlace := 0, outputsPerTile := 1, regionAligned := false, fsPpm := 0, tau := 0, ca := 1
    matrices := [wMatrix], embed := [], embedFmt := 1, embedScales := [] }

/-- An image of one layer and one class. -/
def wPlain : Plain :=
  { sections := [], order := 0, vocab := 1000, residual := 1, classes := 1, stop := none, lostToken := none, layers := [wLayer]
    levels := [{ layers := [], tarns := [], replicas := 1 }], scheds := [wSched], splits := [], kv := none, deltaCap := [], deltaColMax := 0
    narrPrefix := none, classTokens := [], binTokens := [], deltaFmt := 4, deltas := [], shadowBytes := 0, basinWords := [], rowsNeeded := [] }

/-- Pass 7 of image slot 0. -/
def wPass : Pass := { id := 7, slot := 0, entry := 0, item := 0, pos := 0, token := 0 }

/-- A context of partition 3 that serves pass 7. -/
def wCtx : Ctx := { part := some 3, sched := some wSched, pass := some 7 }

/-- Partition 3. -/
def wPart : Part := { present := true, state := .running, tiles := [0, 1], slots := [(0, { state := .ready, plain := some wPlain })], passes := [wPass] }

/-- Tile 0 runs context 0 with rows 0 to 3 and 6 to 9 FULL under epoch 5, and tile 1 holds context 0 of the same partition. -/
def wTile : State :=
  { parts := [(3, wPart)]
    tiles := [(0, { ctxs := [(0, wCtx)], running := some 0, rows := [(0, wRow 5 1), (1, wRow 5 2), (6, wRow 5 0x3F), (7, wRow 5 0x40), (8, wRow 5 0xBF), (9, wRow 5 0x41)] }),
              (1, { ctxs := [(0, wCtx)], running := some 0, rows := [(0, wRow 5 9), (1, wRow 5 8)] })] }

/-- The 128 bits of an instruction (R329). -/
def wBits (w : Code) : Nat := w.op + 2 ^ 8 * w.e1 + 2 ^ 12 * w.e2 + 2 ^ 16 * w.a + 2 ^ 32 * w.b + 2 ^ 64 * w.c + 2 ^ 96 * w.d

/-- A state with an instruction where context 0 of tile 0 fetches its first four from. -/
def wIssue (w : Code) (s : State) : State :=
  s.modTile 0 fun x => { x with rows := tset {} x.rows 32 (rowWrite (toLe 64 (wBits w)) 0 1 false) }

/-- `wTile` with another context 0 on tile 0. -/
def wTileCtx (k : Ctx) : State := wTile.modTile 0 fun x => { x with ctxs := [(0, k)] }

/-- A slot whose rows stand FULL under the epoch holds their bytes. -/
theorem slotHolds_of {s : State} {t c slot n e : Nat} (d : SlotDecl) (h : slotDecl (ctxOf s t c) slot = some d) (hn : n ≤ d.rows)
    (hr : ∀ i, i < n → rowReads (rowOf (s.tile t) (d.base + i)) e = true ∧ ownsRow (ctxOf s t c) (d.base + i) = true) :
    SlotHolds s t c slot n e ((List.range n).map fun i => rowBytes (rowOf (s.tile t) (d.base + i))).flatten
      ((List.range n).any fun i => (rowOf (s.tile t) (d.base + i)).poison) := ⟨d, h, hn, hr, rfl, rfl⟩

/-- The configuration of partition 3: its tiles, granule 0 for KV memory and granule 1. -/
def wCfg : PartCfg :=
  { part := 3, owner := 1, enable := true, hostReset := true, flrPart := false, seed := 1, keyLog2 := 10, bar2 := none, bind := some 9
    tiles := [0, 1], granules := [⟨1, 0, 0, 0⟩, ⟨2, 0, 0, 1⟩], blocks := [0], shares := [], rules := [], ruleIods := [], tables := []
    slots := [], serv := {}, dests := [] }

/-- `wTile` with partition 3 changed. -/
def wWith (f : Part → Part) : State := wTile.modPart 3 f

/-- A check of pass 7 that waits. -/
def wCheck : Check := { part := 3, slot := 0, pass := 7, gen := 0, layer := 0, matrix := 0, outTile := 0, forced := false, vals := [.num 5], refs := [.num 5] }

/-- The reason of a check that did not pass. -/
def errorOf {α β : Type} : Except α β → Option α
  | .error e => some e
  | .ok _ => none


/-! ### Sequencer -/

theorem test_issue_witness :
    issues (wIssue { op := 0x00 } wTile) 0 0 { op := 0x00 } [] = true ∧
    issues (wIssue { op := 0x03, a := 1, b := 2 } wTile) 0 0 { op := 0x03, a := 1, b := 2 } [] = true ∧ (ctxOf wTile 0 0).pass = some 7 ∧
    issues (wIssue { op := 0x01, a := 65535, b := 2 } wTile) 0 0 { op := 0x01, a := 65535, b := 2 } [] = true ∧
    issues (wIssue { op := 0x02, b := 2 ^ 32 - 1 } (wTileCtx { wCtx with pc := 3 })) 0 0 { op := 0x02, b := 0 } [] = false ∧
    issues (wIssue { op := 0x02, b := 3 } wTile) 0 0 { op := 0x02, b := 3 } [] = true ∧ (ctxOf wTile 0 0).loops.length < 4 := by decide

theorem test_loop_witness :
    (ctxOf (wTileCtx { wCtx with loops := [(1, 4, 2)] }) 0 0).loops = [(1, 4, 2)] ∧ (ctxOf wTile 0 0).loops = [] := by decide

/-- `wTile` with counter 0 at 3 and WAIT_ARR of count `k` next. -/
def wWait (k : Nat) : State := wIssue { op := 0x08, a := 0, b := k } (wTileCtx { wCtx with arr := [(0, 3)] })

theorem test_waitArr_witness :
    issues (wWait 3) 0 0 { op := 0x08, a := 0, b := 3 } [] = true ∧ issues (wWait 4) 0 0 { op := 0x08, a := 0, b := 4 } [] = true ∧
      tget 0 (ctxOf (wWait 3) 0 0).arr 0 = 3 := by decide

theorem test_waitArrResume_witness :
    let s := wTileCtx { wCtx with arr := [(0, 3)], wait := some (0, 3) }
    (ctxOf s 0 0).wait = some (0, 3) ∧ (s.tile 0).running = some 0 ∧ (s.tile 0).fenced = false ∧ (s.tile 0).switchPending = false := by decide

theorem test_counterRaise_witness :
    let s := wTileCtx { wCtx with arr := [(47, 0xFFFF)] }
    tget 0 (ctxOf s 0 0).arr 47 = 0xFFFF ∧ (ctxOf s 0 0).part = some 3 ∧ (ctxOf s 0 0).pass = some 7 ∧
      findPass s 3 7 = some wPass ∧ (s.tile 0).running = some 0 := by decide

/-- SIGNAL of counter 5 to tile 1, next on tile 0. -/
def wSignal : State := wIssue { op := 0x09, a := 5, b := 1 } wTile

theorem test_remote_witness :
    issues wSignal 0 0 { op := 0x09, a := 5, b := 1 } [] = true ∧ remote wSignal (ctxOf wSignal 0 0) 0 1 = some (1, 0) ∧
      linksOf wSignal (tileDie 0) (tileDie 1) = some [] := by decide

/-- PUT of tile 0's slot `src` into tile 1's slot `dst`, next on tile 0. -/
def wPut (src dst : Nat) : State := wIssue { op := 0x12, e1 := 5, e2 := 6, a := src, b := 1, c := dst, d := 1 } wTile

theorem test_put_witness :
    issues (wPut 0 1) 0 0 { op := 0x12, e1 := 5, e2 := 6, a := 0, b := 1, c := 1, d := 1 } [slotRes (ctxOf (wPut 0 1) 0 0) 0] = true ∧
    (∀ i, i < 2 → rowReads (rowOf ((wPut 0 1).tile 0) i) 5 = true ∧ ownsRow (ctxOf (wPut 0 1) 0 0) i = true ∧ (rowOf ((wPut 0 1).tile 0) i).poison = false) ∧
      slotDecl (ctxOf (wPut 0 1) 0 0) 0 = some ⟨0, 2, 1⟩ ∧ slotDecl (ctxOf (wPut 0 1) 1 0) 1 = some ⟨2, 2, 1⟩ ∧
    -- a slot of four rows does not fit a slot of one
    issues (wPut 3 5) 0 0 { op := 0x12, e1 := 5, e2 := 6, a := 3, b := 1, c := 5, d := 1 } [slotRes (ctxOf (wPut 3 5) 0 0) 3] = true ∧
      slotDecl (ctxOf (wPut 3 5) 1 0) 5 = some ⟨14, 1, 1⟩ := by decide

/-- PULL of tile 1's slot 0 into tile 0's slot 1, next on tile 0. -/
def wAsk : State := wIssue { op := 0x13, e1 := 6, e2 := 5, a := 1, b := 1, c := 0, d := modeD 2 1 } wTile

/-- `wTile` with a request of tile 0's slot 1 at tile 1 for its slot 0. -/
def wPull : State := wTile.modTile 1 fun x => { x with
  pulls := [{ id := 4, part := 3, tag := 0, pass := 7, gen := 0, srcSlot := 0, epoch := 5, dstTile := 0, dstCtx := 0, dstSlot := 1, dstEpoch := 6
              ctr := 2, release := true }] }

theorem test_pull_witness :
    issues wAsk 0 0 { op := 0x13, e1 := 6, e2 := 5, a := 1, b := 1, c := 0, d := modeD 2 (b2n true) } [slotRes (ctxOf wAsk 0 0) 1] = true ∧
    (∀ i, i < 2 → (rowOf (wAsk.tile 0) (2 + i)).full = false) ∧
    (wPull.tile 1).pulls.length = 1 ∧ destCtx wPull 3 (ctxOf wPull 0 0).slot 1 0 = some 0 ∧
    (∀ i, i < 2 → rowReads (rowOf (wPull.tile 1) i) 5 = true) := by decide

/-- `wTile` with a release of one row on its way to tile 0. -/
def wRelease (r epoch : Nat) : State := { wTile with releases := [⟨3, 0, r, 1, epoch⟩] }

theorem test_release_witness :
    ((wRelease 0 5).releases.find? fun q => q.tile == 0 && q.base == 0 && q.rows == 1 && q.epoch == 5) = some ⟨3, 0, 0, 1, 5⟩ ∧
    rowReads (rowOf ((wRelease 0 5).tile 0) 0) 5 = true ∧ rowReads (rowOf ((wRelease 0 4).tile 0) 0) 4 = false := by decide


/-! ### Engines -/

/-- A vector, moments or rank instruction from slot 3 into slot 4 next on tile 0: opcode, field B, field D. -/
def wVec (op b x : Nat) : State := wIssue { op := op, e1 := 5, e2 := 6, a := 3, b := b, c := 4, d := x } wTile

theorem test_vector_witness :
    let code := fun op b x : Nat => ({ op := op, e1 := 5, e2 := 6, a := 3, b := b, c := 4, d := x } : Code)
    let two := [slotRes (ctxOf wTile 0 0) 3, slotRes (ctxOf wTile 0 0) 4]
    issues (wVec 0x30 0 (vecD 8 16 1 0)) 0 0 (code 0x30 0 (vecD 8 16 1 0)) two = true ∧
    issues (wVec 0x30 3 (vecD 3 1 1 0)) 0 0 (code 0x30 3 (vecD 3 1 1 0)) (two ++ [slotRes (ctxOf wTile 0 0) 3]) = true ∧
    issues (wVec 0x31 0 (vecD 7 1 1 0)) 0 0 (code 0x31 0 (vecD 7 1 1 0)) two = true ∧
    issues (wVec 0x32 0 (vecD 0 1 1 0)) 0 0 (code 0x32 0 (vecD 0 1 1 0)) two = true ∧
    issues (wVec 0x33 0 (vecD 0 1 1 0)) 0 0 (code 0x33 0 (vecD 0 1 1 0)) two = true ∧
    issues (wVec 0x34 0 (vecD 0 0 3 1)) 0 0 (code 0x34 0 (vecD 0 0 3 (b2n true)))
      [slotRes (ctxOf wTile 0 0) 3, slotRes (ctxOf wTile 0 0) 0, slotRes (ctxOf wTile 0 0) 4] = true := by decide

theorem test_slotHolds_witness : ∃ bs bad, SlotHolds (wVec 0x31 0 (vecD 7 1 1 0)) 0 0 3 (rowsFor 0 (64 * 1)) 5 bs bad :=
  ⟨_, _, slotHolds_of ⟨6, 4, 1⟩ (by decide) (by decide) (by decide)⟩

theorem test_slotTakes_witness : SlotTakes (wVec 0x31 0 (vecD 7 1 1 0)) 0 0 4 ⟨10, 4, 1⟩ := ⟨by decide, by decide⟩

/-- QUANT of slot 0 into slot 1 next on tile 0 of `s`. -/
def wQuant (fmt : Nat) (s : State) : State := wIssue { op := 0x20, e1 := 5, e2 := 6, a := 0, b := 1, c := fmt, d := modeD 0 0 } s

theorem test_quant_witness :
    issues (wQuant 4 wTile) 0 0 { op := 0x20, e1 := 5, e2 := 6, a := 0, b := 1, c := 4, d := modeD 0 (b2n false) }
        [slotRes (ctxOf (wQuant 4 wTile) 0 0) 0, slotRes (ctxOf (wQuant 4 wTile) 0 0) 1] = true ∧
    layerOf (wQuant 4 wTile) 3 0 (ctxLayer (ctxOf (wQuant 4 wTile) 0 0)) = some wLayer ∧ wLayer.matrices[0]? = some wMatrix ∧
      findPass (wQuant 4 wTile) 3 7 = some wPass ∧
      (∃ bs bad, SlotHolds (wQuant 4 wTile) 0 0 0 (slotRows (wQuant 4 wTile) 0 0 0) 5 bs bad) ∧ SlotTakes (wQuant 4 wTile) 0 0 1 ⟨2, 2, 1⟩ :=
  ⟨by decide, by decide, by decide, by decide, ⟨_, _, slotHolds_of ⟨0, 2, 1⟩ (by decide) (by decide) (by decide)⟩, by decide, by decide⟩

/-- A CE instruction over operand set 0 and slot 0 into word 5, next on tile 0. -/
def wCe (op : Nat) (add : Bool) : State := wIssue (ceCode op 0 0 5 3 add 5) wTile

theorem test_ce_witness :
    (∀ op ∈ [0x28, 0x29, 0x2A], ∀ add, issues (wCe op add) 0 0 (ceCode op 0 0 5 3 add 5) (ceUses (wCe op add) 0 0 0 0 5 add) = true) ∧
    opSetOf (wCe 0x28 true) (ctxOf (wCe 0x28 true) 0 0) 0 = some (⟨0, 0, 0, 1, 0, 32⟩, wMatrix) ∧
      ∃ bs bad, SlotHolds (wCe 0x28 true) 0 0 0 (Nat.min (rowsFor wMatrix.inFmt wMatrix.k) (Nat.max 1 (slotRows (wCe 0x28 true) 0 0 0))) 5 bs bad :=
  ⟨by decide, by decide, _, _, slotHolds_of ⟨0, 2, 1⟩ (by decide) (by decide) (by decide)⟩

/-- `wTile` with the word `w` of the Basin of tile 0 at `v`. -/
def wWord (w : Nat) (v : LaWord) : State := wTile.modTile 0 fun x => { x with basin := [(w, v)] }

theorem test_accRange_witness :
    (wordOf ((wWord 5 { la := .num (2 ^ 103 - 1) }).tile 0) false 5).la = .num (2 ^ 103 - 1) ∧ ((2 ^ 103 - 1 : Int) + 1).natAbs = 2 ^ 103 := by decide

/-- Both contributors of word 5 have arrived in words 20 and 21, and the home's own partial stands in word 5; COMBINE of `n` is next. -/
def wCombine (n : Nat) : State := wIssue { op := 0x2B, a := 20, b := n, c := 5, d := 2 } ((wTileCtx { wCtx with arr := [(2, 3)], regions := [(5, 1, 0, 0, 0)] }).modTile 0 fun x =>
  { x with basin := [(5, { la := .num 7 }), (20, { la := .num 11 }), (21, { la := .num (-3) })] })

theorem test_combine_witness :
    issues (wCombine 2) 0 0 { op := 0x2B, a := 20, b := 2, c := 5, d := 2 } [.words 5 1] = true ∧
      tget 0 (ctxOf (wCombine 2) 0 0).arr 2 = 3 ∧
      combinePlan (wCombine 2) (ctxOf (wCombine 2) 0 0) 20 2 5 = ((0, 0, 0), 1, [none, some 20, some 21]) ∧
      (∀ w, some w ∈ [none, some 20, some 21] → w + 1 ≤ 5 ∨ 5 + 1 ≤ w) := by
  refine ⟨by decide, by decide, by decide, fun w h => ?_⟩
  simp at h; omega

/-- ROUND of four words from word 5 on into slot 4 next on tile 0. -/
def wRound : State := wIssue { op := 0x2C, e1 := 6, a := 5, b := 4, c := 1, d := 4 } (wCombine 2)

theorem test_round_witness :
    issues wRound 0 0 { op := 0x2C, e1 := 6, a := 5, b := 4, c := 1, d := 4 } [.words 5 4, slotRes (ctxOf wRound 0 0) 4] = true ∧
      SlotTakes wRound 0 0 4 ⟨10, 4, 1⟩ := ⟨by decide, by decide, by decide⟩

/-- FILL of rows `first` and the next one, and COPY of rows 0 and 1 to 2 and 3, next on tile 0. -/
def wFill (first : Nat) : State := wIssue { op := 0x18, e1 := 6, a := 2, b := first, c := 0x55 } wTile
/-- See `wFill`. -/
def wCopy (src : Nat) : State := wIssue { op := 0x19, e1 := 5, e2 := 6, a := 2, b := src, c := 2 } wTile

theorem test_fillCopy_witness :
    fillConst 0x55 8 = 0x55 ∧ issues (wFill 2) 0 0 { op := 0x18, e1 := 6, a := 2, b := 2, c := 0x55 } [.rows 2 2] = true ∧
    (∀ i, i < 2 → ownsRow (ctxOf (wFill 2) 0 0) (2 + i) = true ∧ (rowOf ((wFill 2).tile 0) (2 + i)).full = false) ∧
    issues (wCopy 0) 0 0 { op := 0x19, e1 := 5, e2 := 6, a := 2, b := 0, c := 2 } [.rows 0 2, .rows 2 2] = true ∧
    (∀ i, i < 2 → rowReads (rowOf ((wCopy 0).tile 0) i) 5 = true) ∧
    issues (wCopy 600) 0 0 { op := 0x19, e1 := 5, e2 := 6, a := 2, b := 600, c := 2 } [.rows 600 2, .rows 2 2] = true ∧
    ownsRow (ctxOf (wCopy 600) 0 0) 600 = false := by decide


/-! ### Tarns -/

/-- `wTile` with Tarn 0 of tile 0. -/
def wTarn (T : Tarn) : State := wTile.modTile 0 fun x => { x with tarns := [(0, T)] }

/-- A Tarn that holds the matrix, with a coefficient that waits. -/
def wT : Tarn := { fmt := 5, layer := 0, matrix := 0, cols := 1, pend := [(3, { g := 5 })] }

/-- TARN_MVM of set 0 from slot 0 into word 5 next on tile 0. -/
def wStart : State := wIssue { op := 0x21, e1 := 5, a := 0, b := 0, c := 5 } (wTarn wT)

theorem test_mvm_witness :
    let s := wStart
    issues s 0 0 { op := 0x21, e1 := 5, a := 0, b := 0, c := 5, d := 2 ^ 24 * b2n false + 2 ^ 25 * b2n false }
      (slotRes (ctxOf s 0 0) 0 :: useWords (s.tile 0) [⟨0, 0, 0⟩] 5) = true ∧ supplyOut s 3 0 0 0 = false ∧
      (tget [] (ctxOf s 0 0).outl 0).length ≤ 4 * wLayer.ca ∧ (s.tile 0).short = false ∧ mvmBusy (tarnOf (s.tile 0) 0) = false ∧ (tarnOf (s.tile 0) 0).rewrite = [] ∧
      (matrixOf s 3 0 0 0).isSome = true ∧ inFallback wPass 0 0 = false ∧ findPass s 3 7 = some wPass ∧
      ∃ bs bad, SlotHolds s 0 0 0 2 5 bs bad :=
  ⟨by decide +kernel, by decide +kernel, by decide +kernel, by decide +kernel, by decide +kernel, by decide +kernel, by decide +kernel, by decide +kernel, by decide +kernel, _, _, slotHolds_of ⟨0, 2, 1⟩ (by decide +kernel) (by decide +kernel) (by decide +kernel)⟩

/-- An MVM of pass 7 at a plane of its first quad. -/
def wMvm (plane : Nat) (discard : Bool) : Mvm :=
  { part := 3, pass := 7, cols := 1, planes := 4, x := List.replicate 32 3, xScale := [127], quads := [0, 1], plane := plane, discard := discard }

theorem test_roundUnit_witness :
    let s := wTarn { wT with mvm := some (wMvm 3 false) }
    let T := tarnOf (s.tile 0) 0
    T.mvm = some (wMvm 3 false) ∧ (matrixOf s 3 0 0 0).isSome = true ∧ genCurrent s 3 7 0 0 = true ∧
      newFlags (wMvm 3 false) (roundConvs T (wMvm 3 false) 0 []) = [] ∧ flagCount (s.tile 0) (wMvm 3 false) = 0 := by decide +kernel

theorem test_window_witness :
    let s := wTarn { wT with win := [(263, { n := 65536 })] }
    (s.tile 0).freeze = false ∧ 2 ^ (s.tile 0).windowLog2 = (tget {} (tarnOf (s.tile 0) 0).win 263).n := by decide

theorem test_drift_witness :
    let s := wTarn { wT with cmps := [(convKey 3 263, { n := 256 })] }
    (s.tile 0).driftFreeze = false ∧ (tget {} (tarnOf (s.tile 0) 0).cmps (convKey 3 263)).n = 256 := by decide

theorem test_scrub_witness :
    let s := wTarn { wT with rows := [(511, 9)], check := [(511, rowCheck 9)], rewrite := [(4, 6)] }
    rowCheck 9 = tget 0 (tarnOf (s.tile 0) 0).check 511 ∧ rowCheck 8 ≠ tget 0 (tarnOf (s.tile 0) 0).check 511 ∧
      (tarnOf (s.tile 0) 0).rewrite.find? (fun q => q.1 == 4) = some (4, 6) := by decide +kernel


/-! ### Transfers and attention -/

/-- Partition 3 with its DRAM granules. -/
def wDram : State := wWith fun q => { q with cfg := some wCfg }

/-- DMA_GET or DMA_PUT of `rows` rows of slot 0 under epoch 5 at row 5 of the partition's DRAM space, next on tile 0. -/
def wDma (op rows : Nat) (s : State) : State := wIssue { op := op, e1 := 5, a := 0, b := 5, c := rows, d := 3 } s

theorem test_dma_witness :
    issues (wDma 0x10 2 wDram) 0 0 { op := 0x10, e1 := 5, a := 0, b := 5, c := 2, d := 3 } [slotRes (ctxOf wDram 0 0) 0] = true ∧
    issues (wDma 0x11 2 wDram) 0 0 { op := 0x11, e1 := 5, a := 0, b := 5, c := 2, d := 3 } [slotRes (ctxOf wDram 0 0) 0] = true ∧
    partAddr (wDma 0x10 2 wDram) 3 (64 * 5) = some 320 ∧ slotDecl (ctxOf (wDma 0x10 2 wDram) 0 0) 0 = some ⟨0, 2, 1⟩ ∧
      linksOf (wDma 0x10 2 wDram) (stackDie (addrStack 320)) (tileDie 0) = some [] ∧ findPass (wDma 0x10 2 wDram) 3 7 = some wPass ∧
      ∃ bs bad, SlotHolds (wDma 0x11 2 wDram) 0 0 0 2 5 bs bad :=
  ⟨by decide +kernel, by decide +kernel, by decide +kernel, by decide +kernel, by decide +kernel, by decide +kernel, _, _,
    slotHolds_of ⟨0, 2, 1⟩ (by decide) (by decide) (by decide)⟩

/-- KV memory in INT8 with 32 dimensions, one pair. -/
def wKv : KvParams :=
  { fmt := 4, d := 32, sink := false, feedback := true, reclaim := false, retrieve := false, p := 1, w := 1
    pairs := [{ layer := 0, kvHead := 0, tile := 0, engine := 0 }], dRot := 0, interleaved := false, freq := [], sigma := 0 }

/-- The image with that KV memory, and a pass at position `pos`. -/
def wKvState (v : KvParams) (pos : Nat) : State := wWith fun q => { q with
  cfg := some wCfg, slots := [(0, { state := .ready, plain := some { wPlain with kv := some v } })], passes := [{ wPass with pos := pos }] }

theorem test_kvWrite_witness :
    issues (wDma 0x11 2 (wKvState wKv 65)) 0 0 { op := 0x11, e1 := 5, a := 0, b := 5, c := 2, d := 3 } [slotRes (ctxOf wDram 0 0) 0] = true ∧
    kvOf (wDma 0x11 2 (wKvState wKv 65)) 3 0 = some wKv ∧ findPass (wDma 0x11 2 (wKvState wKv 65)) 3 7 = some { wPass with pos := 65 } ∧
      wKv.feedback = true ∧ ∃ bs, SlotHolds (wDma 0x11 2 (wKvState wKv 65)) 0 0 0 2 5 bs false :=
  ⟨by decide +kernel, by decide +kernel, by decide +kernel, rfl, _, slotHolds_of ⟨0, 2, 1⟩ (by decide) (by decide) (by decide)⟩

/-- Transfer 4 to tile 1. -/
def wMove (kind : XferKind) (tag : Nat) : Xfer :=
  { id := 4, part := 3, tag := tag, pass := 7, gen := 0, tile := 1, ctx := 0, ctr := none, kind := kind }

/-- `wTile` with transfers in flight. -/
def wXfer (xs : List Xfer) : State := { wTile with xfers := xs }

/-- A K entry for position 65 in flight, and page 1 of its sequence. -/
def wKvLand : State :=
  ({ wKvState { wKv with feedback := false } 65 with xfers := [wMove (.kv 0 65 0 false [1] [2] [] false) 0] }).modEntry 0
    fun e => { e with pages := [(1, { stripe := 0, valid := true })] }

theorem test_landing_witness :
    let s := wXfer [wMove (.rows [(List.replicate 64 7, false), (List.replicate 64 8, false)] 2 true 1 6) 0]
    inOrder s (wMove (.rows [(List.replicate 64 7, false), (List.replicate 64 8, false)] 2 true 1 6) 0) = true ∧
      ((s.xfers.find? fun y => y.id == 4).map Xfer.tag = some (s.part 3).tag) ∧ (ctxOf s 1 0).part = some 3 ∧
      (∀ i, i < 2 → ownsRow (ctxOf s 1 0) (2 + i) = true ∧ (rowOf (s.tile 1) (2 + i)).full = false) ∧
      granRetired s 320 = false ∧ (wXfer [wMove .signal 1]).part 3 = s.part 3 ∧
      inOrder (wXfer [{ wMove .signal 0 with id := 3 }, wMove .signal 0]) (wMove .signal 0) = false := by decide +kernel

theorem test_landingKv_witness :
    kvOf wKvLand 3 0 = some { wKv with feedback := false } ∧ findPass wKvLand 3 7 = some { wPass with pos := 65 } ∧
      stale { wPass with pos := 65 } 0 0 = false ∧ (tget {} (wKvLand.entry 0).pages 1).valid = true ∧
      ((kvAddrs wKvLand 3 0 { wKv with feedback := false } 0 0 1 false).any fun q => !granRetired wKvLand q.1 && !granRetired wKvLand q.2) = true := by
  decide +kernel

theorem test_partial_witness :
    let x := wMove (.partial_ 20 [{ la := .num 5 }] 0 0) 0
    inOrder (wXfer [x]) x = true ∧ findPass (wXfer [x]) 3 7 = some wPass ∧ wPass.gen ≤ x.gen ∧ x.gen < { wPass with gen := 1 }.gen := by
  decide +kernel

/-- A head port at slot `slot` of tile 0. -/
def wPort (slot : Nat) : HeadPort := { tile := 0, slot := slot, off := 0, ctr := 0xFFFF }

/-- The walk of pair 0. -/
def wDecl : WalkDecl := ⟨0, [wPort 0], [wPort 1]⟩

/-- A context whose schedule hands out that walk, with AE_ISSUE next. -/
def wWalkCtx : State := wIssue { op := 0x38, e1 := 5, e2 := 6, a := 0, b := 2 }
  ((wKvState wKv 65).modTile 0 fun x => { x with ctxs := [(0, { wCtx with sched := some { wSched with walks := [wDecl] } })] })

/-- A walk of pass 7. -/
def wWalk : Walk :=
  { part := 3, slot := 0, pass := 7, entry := 0, gen := 0, pair := 0, tile := 0, ctx := 0, queries := [wPort 0], outs := [wPort 1], e1 := 5, e2 := 6 }

theorem test_walks_witness :
    issues wWalkCtx 0 0 { op := 0x38, e1 := 5, e2 := 6, a := 0, b := 2 } [] = true ∧ findPass wWalkCtx 3 7 = some { wPass with pos := 65 } ∧
      (let s := wWalkCtx.modDie 0 fun d => { d with ae := [(3, { waiting := [wWalk], walks := [wWalk, wWalk, wWalk] })] }
       (tget {} (s.die 0).ae 3).waiting = [wWalk] ∧ (tget {} (s.die 0).ae 3).walks.length = 3 ∧ (s.part 3).state = .running) := by decide +kernel

/-- A head dimension of 64 in BF16: the query of the walk is two rows of slot 0. -/
def wEnd : State :=
  ((wKvState { wKv with fmt := 1, d := 64, feedback := false } 0).modDie 0 fun d => { d with ae := [(3, { walks := [wWalk] })] }).modEntry 0
    fun e => { e with held := true, length := 1 }

theorem test_walkEnd_witness :
    portAt wEnd wWalk (wPort 0) = some (0, 0) ∧ slotFor (ctxOf wEnd 0 0) 0 2 = some ⟨0, 2, 1⟩ ∧
      (∀ i, i < 2 → rowReads (rowOf (wEnd.tile 0) i) 5 = true) ∧
    (tget {} (wEnd.die 0).ae 3).walks[0]? = some wWalk ∧ (wEnd.entry 0).held = true ∧ layerOf wEnd 3 0 0 = some wLayer ∧
      groupHeads wLayer = 1 ∧ ((pullHeads (wEnd.setNow 9) wWalk 1 64 [wPort 0]).2.isSome = true) ∧ stale wPass 0 0 = false := by decide +kernel


/-! ### Switches, silent errors and links -/

/-- Context 1 of tile 0, with a save area of its own. -/
def wCtx1 : Ctx := { wCtx with pass := some 8, sched := some { wSched with ctx := 1, saveRow := 500 } }

/-- Contexts 0 and 1 of tile 0, whose passes are of classes 2 and 0; the save area of context 1 holds cell 4. -/
def wSwitch (checks : List Check) : State :=
  (wWith fun q => { q with passes := [{ wPass with cls := 2 }, { wPass with id := 8 }], serv := { q.serv with preempt := true } }).modTile 0
    fun x => putSaved wCtx1 { x with ctxs := [(0, wCtx), (1, wCtx1)], cells := [(3, { la := .num 7 })], checks := checks } 4 (basinBits { la := .num 5 })

theorem test_switch_witness :
    let s := wSwitch []
    (s.tile 0).running = some 0 ∧ (s.tile 0).fenced = false ∧ (ctxOf s 0 1).part.isSome = true ∧ (s.part 3).state = .running ∧
      ctxClass s (ctxOf s 0 1) = some 0 ∧ ctxClass s (ctxOf s 0 0) = some 2 ∧
      (ctxOf s 0 0).sched = some wSched ∧ checksQueued ((wSwitch [wCheck]).tile 0) = true ∧ checksQueued (s.tile 0) = false ∧
      (s.tile 0).combining = false ∧ repeatRuns (s.tile 0) = false := by decide +kernel

/-- A CE instruction of context 0. -/
def wCeFly : InFlight := { id := 2, engine := .ce, ctx := 0 }

/-- It is in flight; row 1 is suspect. -/
def wFly : State := wTile.modTile 0 fun x => { x with inFlight := [wCeFly], rows := tmod {} x.rows 1 fun r => { r with suspect := true } }

theorem test_completion_witness : (wFly.tile 0).inFlight.find? (fun q => q.engine == .ce && workDone (wFly.tile 0) q) = some wCeFly ∧ (rowOf (wFly.tile 0) 1).suspect = true ∧
    (rowOf (wFly.tile 0) 0).suspect = false := by decide +kernel

/-- A CE row waits for the repeat of its residue check. -/
def wRes (thr : Nat) : State :=
  { wTile.modTile 0 fun x => { x with inFlight := [wCeFly], residuePending := [(.ceRow, 9, 2)], unitFaults := [(unitKey .ceRow 9, [(0, 16)])] } with
    log := { wTile.log with thrTrans := thr } }

theorem test_residue_witness :
    ((wRes 0).tile 0).residuePending.find? (fun q => q.1 == .ceRow && q.2.1 == 9) = some (.ceRow, 9, wCeFly.id) ∧
      ((wRes 0).tile 0).inFlight.find? (fun g => g.id == wCeFly.id) = some wCeFly ∧ (wRes 0).log.thrTrans = 0 ∧
      unitCount ((wRes 16).setNow 5) 0 .ceRow 9 = 16 := by decide +kernel

/-- Port 1 of die 0 with its stripes `m`, and a transfer of pass 7 on it. -/
def wLink (m : Nat) : State :=
  { wTile.modDie 0 fun d => { d with tw := [(1, { stripes := m, failed := [3] })] } with
    xfers := [{ id := 4, part := 3, tag := 0, pass := 7, gen := 0, tile := 1, ctx := 0, ctr := none, kind := .signal, links := [(0, 1)] }] }

theorem test_link_witness :
    (tget {} ((wLink 8).die 0).tw 1).up = true ∧ bitOf (tget {} ((wLink 8).die 0).tw 1).stripes 3 = true ∧ (tget {} ((wLink 8).die 0).tw 1).failed.contains 3 = true ∧
      (twNeighbour (wLink 8).variant 0 0).isNone = true ∧
      twNeighbour (wLink 8).variant 0 1 = some 1 ∧ facingPort (wLink 8).variant 1 0 = some 3 := by decide +kernel

theorem test_patrol_witness :
    let s := (State.reset.modStack 0 fun k => { k with chans := [(15, { pos := chanUnits - 1 })] })
    stackFitted s.variant 0 = true ∧ (s.stack 0).lost = false ∧ (s.stack 0).retired.contains (15 / 2) = false ∧
      (chanOf s 0 15).pos + 1 = chanUnits := by decide +kernel


/-! ### Checks and trouble -/

/-- The image with its one layer on Tarns, a split whose contributor is tile 1, and a pass. -/
def wCheckState (x : Pass) (checks : List Check) : State :=
  (wWith fun q => { q with
    slots := [(0, { state := .ready, plain := some { wPlain with
      levels := [{ layers := [0], tarns := [], replicas := 1 }]
      splits := [{ layer := 0, matrix := 0, col := 0, tile := 1, laBase := 4, words := 1, index := 1, home := 0, recv := 20, ctx := 0, ctr := 6 }] } })]
    passes := [x] }).modTile 0 fun y => { y with cells := [(4, { la := .num 96 })], checks := checks }

theorem test_output_witness :
    let s := wCheckState { wPass with sLog2 := 0 } []
    findPass s 3 7 = some { wPass with sLog2 := 0 } ∧ servingCtx s 3 7 0 = some 0 ∧ servingCtx s 3 7 1 = some 0 ∧
      matrixOf s 3 0 0 0 = some wMatrix ∧ (splitAt s 3 0 0 0 0 4) = none ∧ (tarnLayers s 3 0).contains 0 = true ∧
      tileSampled s 3 { wPass with sLog2 := 0 } 0 0 0 = true ∧ absTile s 3 0 = some 0 ∧ awaits (s.tile 0) 0 [.words 4 1] = false ∧
      noSample (s.tile 0) = false ∧ noSample ((wCheckState wPass [wCheck, wCheck, wCheck, wCheck]).tile 0) = true := by decide +kernel

theorem test_split_witness :
    let s := (wCheckState wPass []).modTile 1 fun x => { x with ctxs := [(0, { wCtx with relTile := 1 })] }
    (splitAt s 3 0 0 0 1 4).isSome = true ∧ destCtx s 3 0 0 0 = some 0 ∧ linksOf s (tileDie 1) (tileDie 0) = some [] := by decide +kernel

/-- A check whose one output differs from the reference. -/
def wDiffer : Check := { wCheck with refs := [.num (2 ^ 80)] }

theorem test_check_witness :
    let s := wCheckState { wPass with chkM := 0 } [wDiffer]
    (s.tile 0).checks = [wDiffer] ∧ findPass s 3 7 = some { wPass with chkM := 0 } ∧
      troubleDeclared 0 (checkDiffs 4 wDiffer.vals wDiffer.refs).1 = true ∧ troubleDeclared 0 (checkDiffs 4 wCheck.vals wCheck.refs).1 = false ∧ checkBad s wDiffer = false := by
  decide +kernel

theorem test_trouble_witness :
    let x : Pass := { wPass with troubles := [(0, 0, 0, 0)], replayed := [0] }
    findPass (wCheckState x []) 3 7 = some x ∧ x.troubles.contains (0, 0, 0, 0) = true ∧ stale x 0 0 = false ∧
      stale { x with restarts := [(1, 0)] } 0 0 = true ∧ layerFellBack (wCheckState x []) 3 x 0 = false := by decide +kernel

theorem test_troubleNotice_witness :
    let x : Pass := { wPass with notices := [(0, 0, 0, 0)] }
    findPass (wCheckState x []) 3 7 = some x ∧ x.notices.contains (0, 0, 0, 0) = true ∧
      stepChecked ((wCheckState x []).tile 0) 3 7 0 0 0 = false ∧ stepChecked ((wCheckState x [wCheck]).tile 0) 3 7 0 0 0 = true := by decide +kernel

theorem test_governor_witness :
    let s := wWith fun q => { q with run := 256, okRun := 4096 }
    (s.part 3).degraded = false ∧ (s.part 3).run = 256 ∧ (s.part 3).okRun = 4096 := by decide +kernel


/-! ### Serving, alarms, entries -/

/-- A SCORE item of a host command with the tokens `left` to read. -/
def wItem (left : List Nat) : Item := { id := 0, kind := .score, host := some { fn := 0, sq := 1, tag := 77, quiet := false }, left := left }

/-- The open entry 0 of partition 3, committed to position 3, with one item. -/
def wEntry (i : Item) : Entry := { open_ := true, length := 3, committed := 3, queue := [i], seqId := 11 }

/-- Partition 3 serves the entries `es`, with `passes` open, and function 0 belongs to it. -/
def wServe (es : Tab Entry) (passes : List Pass) : State :=
  { wWith fun q => { q with cfg := some wCfg, passes := passes, fn := some 0 } with
    entries := es, hostPorts := [(0, { up := true })], fns := [(0, { presented := true, part := some 3, bme := true })] }

/-- Entry 0 and its draft, entry 1. -/
def wPair : Tab Entry :=
  [(0, { wEntry (wItem [5]) with partner := 1, partnerValid := true, specDepth := 2 }),
   (1, { open_ := true, draft := true, partner := 0, partnerValid := true, length := 3, committed := 3 })]

theorem test_open_witness :
    let s := wServe [(0, wEntry (wItem [5, 6]))] []
    let v := (partEntries (s.setNow 9) 3).foldl (fun s e => pruneHead s 3 e.1) (s.setNow 9)
    (s.part 3).state = .running ∧ (s.part 3).passes.length < (s.part 3).serv.passLimit ∧
      chooseOpen v 3 = some ⟨0, 5, 0, true, false, 0⟩ ∧ (v.entry 0).partnerValid = false ∧ (stripeFor v 3 0 3).isSome = true := by
  decide +kernel

theorem test_openPair_witness :
    let s := wServe wPair []
    let v := (partEntries (s.setNow 9) 3).foldl (fun s e => pruneHead s 3 e.1) (s.setNow 9)
    chooseOpen v 3 = some ⟨0, 5, 0, true, false, 0⟩ ∧ (v.entry 0).partnerValid = true ∧ (v.entry 0).partner = 1 ∧
      (stripeFor v 3 0 3).isSome = true := by decide +kernel

/-- The same entry where the image keeps KV memory and its pool has no stripe. -/
def wNoFrame : State :=
  (wServe [(0, wEntry (wItem [5]))] []).modPart 3 fun q => { q with slots := [(0, { state := .ready, plain := some { wPlain with kv := some wKv } })] }

theorem test_wait_witness :
    let v := (partEntries (wNoFrame.setNow 9) 3).foldl (fun s e => pruneHead s 3 e.1) (wNoFrame.setNow 9)
    chooseOpen v 3 = some ⟨0, 5, 0, true, false, 0⟩ ∧ stripeFor v 3 0 3 = none ∧ (v.entry 0).frameWait = false := by decide +kernel

/-- A DECODE item whose prompt of three tokens stands in host memory. -/
def wDecode : Item := { wItem [] with kind := .decode, prompt := some (4096, 3) }

theorem test_prompt_witness :
    let s := wServe [(0, wEntry wDecode)] []
    headItem (s.entry 0) = some wDecode ∧ findItem s 0 0 = some wDecode ∧ ownsEntry s 3 0 = true ∧ fnIssues s 0 = true ∧
      ∀ w ∈ [7, 2 ^ 20 + 8, 9].take 3, w % 2 ^ 18 < ((planOf s 3 0).map Plain.vocab).getD 0 := by decide +kernel

/-- Pass 7 at its commit point, the last of the item. -/
def wDone : Pass := { wPass with pos := 3, resolved := [(0, 0, 0)], scores := [0x3F800000, 0x40000000] }

/-- Its sequence, and the item with a place for its scores. -/
def wCommit (x : Pass) : State :=
  wServe [(0, { wEntry { wItem [] with open_ := 1, result := 8192, started := true } with length := 4 })] [x]

theorem test_commit_witness :
    let s := wCommit wDone
    findPass s 3 7 = some wDone ∧ commitGroup s 3 wDone = [wDone] ∧ firstInOrder s 3 [wDone] = true ∧ (s.part 3).resetting = false ∧
      atCommitPoint s 3 wDone = true ∧ (findItem s 0 0).isSome = true ∧
      (let x : Pass := { wDone with poison := some 4 }
       commitGroup (wCommit x) 3 x = [x] ∧ firstInOrder (wCommit x) 3 [x] = true ∧ atCommitPoint (wCommit x) 3 x = true) := by
  decide +kernel

/-- A verify step of two proposals: passes 20 and 21 of the main entry, 22 and 23 of its draft. The second proposal is not confirmed. -/
def wVerify : List Pass :=
  [{ wDone with id := 20, verify := true, pos := 3, top := some (40, 0) }, { wDone with id := 21, verify := true, pos := 4, top := some (41, 0) },
   { wDone with id := 22, verify := true, pos := 3, entry := 1, top := some (40, 0) }, { wDone with id := 23, verify := true, pos := 4, entry := 1, top := some (50, 0) }]

/-- The step `v` of the pair of entries 0 and 1. -/
def wStep : State :=
  wServe [(0, { wEntry { wItem [] with kind := .decode, started := true, limit := 100, open_ := 2, nextTok := some 39 } with
                  partner := 1, partnerValid := true, specDepth := 2, length := 5
                  verify := some { start := 3, depth := 2, probe := false, input := 39, draftPasses := [22, 23], mainPasses := [20, 21] } }),
          (1, { open_ := true, draft := true, partner := 0, partnerValid := true, length := 5, committed := 3 })] wVerify

theorem test_verify_witness :
    let x := wVerify.getD 0 wPass
    let g := commitGroup wStep 3 x
    findPass wStep 3 20 = some x ∧ g.head?.map Pass.verify = some true ∧ g.head?.map Pass.entry = some 0 ∧ firstInOrder wStep 3 g = true ∧
      verifyOpen wStep x = true ∧ (∀ y ∈ g, y.poison = none ∧ atCommitPoint wStep 3 y = true) := by decide +kernel

/-- A pair with `z` steps without an acceptance, at depth `d`, `b` tokens after the cut. -/
def wSpec (z d b : Nat) : State :=
  wServe [(0, { wEntry { wItem [] with kind := .decode, started := true, limit := 100, nextTok := some 39 } with
                  partner := 1, partnerValid := true, specDepth := d, zeroRun := z, probe := b }),
          (1, { open_ := true, draft := true, partner := 0, partnerValid := true, length := 3, committed := 3 })] []

theorem test_spec_witness :
    ownsEntry (wSpec 4 2 0) 3 0 = true ∧ (((wSpec 4 2 0).entry 0).zeroRun = 4 ∧ ((wSpec 3 2 0).entry 0).zeroRun = 3) ∧
      entryServes (wSpec 0 0 64) 3 0 false = true ∧ entryServes (wSpec 0 0 64) 3 1 false = true ∧
      (headItem ((wSpec 0 0 64).entry 0)).isSome = true ∧ ((wSpec 0 0 63).entry 0).probe < 64 := by decide +kernel


/-- Candidate `n` of entry 0, of class `n`, above its threshold. -/
def wCand (n : Nat) (st : Option Nat) : Cand :=
  { serial := n, entry := 0, seqId := 11, cls := n, score := 0x40000000, thresh := 0x3F800000, status := st, pass := wDone }

/-- Candidates 0 and 1. -/
def wCands (a b : Option Nat) : List Cand := [wCand 0 a, wCand 1 b]

/-- The recomputation of pass 7, with all its steps resolved. -/
def wRecomp (poison : Option Nat) : Pass :=
  { wDone with id := 9, ref := true, confirm := some 7, scores := [0x3F900000, 0x3F000000], poison := poison }

/-- The candidates, and the backlog entry that recomputes their pass. -/
def wAlarm (a b : Option Nat) (run : Bool) : State :=
  (wServe [(0, wEntry (wItem []))] []).modPart 3 fun q => { q with
    cands := wCands a b, backlog := [{ pass := wDone, cands := [0, 1], running := run }], recomps := if run then [wRecomp none] else [], serv := { q.serv with ring := true } }

theorem test_confirm_witness :
    let q := (wAlarm none none true).part 3
    q.state = .running ∧ confirmRunning q = 1 ∧ q.serv.confirmSlots < confirmRunning q ∧
      confirmRunning ((wAlarm none none false).part 3) ≤ ((wAlarm none none false).part 3).serv.confirmSlots ∧
      (q.backlog[0]?).isSome = true ∧ (∀ c ∈ q.cands, c.status = none ∧ c.entry = wDone.entry) ∧
      nextBacklog ((wAlarm none none false).part 3) = some { pass := wDone, cands := [0, 1], running := false } ∧
      (planOf (wAlarm none none false) 3 0).isSome = true ∧
      recompOf q { pass := wDone, cands := [0, 1], running := true } = some (wRecomp none) ∧ (wRecomp none).walking = 0 ∧
      allResolved (wAlarm none none true) 3 (wRecomp none) = true := by decide +kernel

theorem test_alarmRelease_witness :
    let s := wAlarm (some 1) (some 2) false
    (s.part 3).cands.find? (fun d => d.serial == 0) = some (wCand 0 (some 1)) ∧
      (s.part 3).serv.narrEnable = false ∧ (s.part 3).serv.feed = false ∧ (s.part 3).fn = some 0 ∧ (s.part 3).spool.length < 4096 ∧
      (((s.part 3).cands.takeWhile fun d => d.serial != 1).any fun d => d.entry == 0 && d.seqId == 11) = true := by decide +kernel

theorem test_layout_witness :
    let s := (wAlarm (some 1) none false).modPart 3 fun q => { q with serv := { q.serv with nPanel := 2 } }
    (s.part 3).serv.nPanel ≤ 4 ∧ (wCand 0 none).score < 2 ^ 32 := by decide +kernel

/-- Entry 0 is closing; its page 0 holds stripe 4. -/
def wClosing (passes : List Pass) : State :=
  (wServe [(0, { wEntry (wItem []) with queue := [], closing := true, root := 6, pages := [(0, { stripe := 4, valid := true })] })] passes).modPart 3
    fun q => { q with slots := [(0, { state := .ready, plain := some { wPlain with kv := some wKv }, entries := 1, pool := { total := 9, fresh := 5, rootsTotal := 9, rootsFresh := 4 } })] }

theorem test_freed_witness :
    freeable (wClosing []) 3 0 = true ∧ (passesOf (wClosing [wDone]) 3 0).isEmpty = false ∧
      ((wClosing []).slot 3 0).pool.withdrawn.contains 4 = false ∧ ownsEntry (wClosing []) 3 0 = true := by decide +kernel

/-- An open entry of 200 positions in pages 0 to 2 and 3, with an edit batch of one operation waiting. -/
def wEdit (o : EditOp) (fresh : Nat) : State :=
  (wServe [(0, { wEntry (wItem []) with
      queue := [], length := 200, committed := 200
      pages := [(0, { stripe := 1, valid := true }), (1, { stripe := 2, valid := true }), (2, { stripe := 3, valid := true }), (3, { stripe := 4, valid := true })]
      edit := some { bytes := [0, 0, 0, 0, 1, 0], ops := [o], host := { fn := 0, sq := 1, tag := 77, quiet := false } } })] []).modPart 3
    fun q => { q with slots := [(0, { state := .ready, plain := some { wPlain with kv := some wKv }, pool := { total := 9, fresh := fresh } })] }

theorem test_edit_witness :
    let s := wEdit ⟨2, 1, 0, 1, 0⟩ 5
    passesOf s 3 0 = [] ∧ pinned s 3 0 = false ∧ batchHeadOk [0, 0, 0, 0, 1, 0] = true ∧ rangeAll 0 1 (closedPage (s.entry 0)) = true ∧
      rangeAll 1 1 (closedPage (s.entry 0)) = true ∧ afterLast (s.entry 0) = 4 ∧ unowed (s.slot 3 0).pool = 4 ∧
      unowed ((wEdit ⟨4, 1, 0, 0, 0⟩ 9).slot 3 0).pool = 0 ∧ (((kvOf s 3 0).map KvParams.sink).getD false && (0 == 0)) = false := by
  decide +kernel


/-! ### Feed ingest -/

/-- Feed port 0 with the address 10.0.0.1 and untagged frames. -/
def wFeedPort : FeedPort := { up := true, cfg := { mac := 2, addrs := [(false, 0x0A000001)], vlans := [0], enable := true } }

/-- A UDP datagram of 20 bytes to port 5000 of that address. -/
def wFrame (dst : Nat) : List Byte :=
  udpFrame 0 2 3 none false 0x0A000002 dst 4000 5000 0 64 [1, 2, 3, 4, 5, 6, 7, 8, 9, 10, 11, 12, 13, 14, 15, 16, 17, 18, 19, 20]

/-- The datagram as it leaves the port at module time 9. -/
def wDgram : Dgram :=
  { port := 0, vlan := 0, dst6 := false, dst := 0x0A000001, udp := 5000, arrival := 9
    payload := [1, 2, 3, 4, 5, 6, 7, 8, 9, 10, 11, 12, 13, 14, 15, 16, 17, 18, 19, 20] }

/-- A rule of partition 3: byte 0 is 1, the key is bytes 1 and 2. -/
def wRule : Rule :=
  { number := 0, part := 3, ports := 1, vlan := none, dst := some 0, udp := some 5000, terms := [⟨0, 1, false, 0xFF, 1⟩], discard := false
    keyspace := 2, keys := [(1, 2)], vals := [], tokenBase := 100, cls := 1, autoOpen := false, slot := 0, drop := false }

/-- Its line: 2-byte numbers at byte 4, one message a datagram, on channel 6. -/
def wLine : LineCfg :=
  { port := 0, dstIp6 := false, dst := 0x0A000001, udp := 5000, channel := 6, seqOff := 4, seqWidth := 2, seqBig := true, cntOff := 0
    cntWidth := 0, cntBig := false, first := 0, stride := 0, lenOff := 0, lenWidth := 0, lenBig := false, lenAdd := 0 }

/-- Partition 3 with feed port 0, the rules and lines of IOD 0 and the channel `c`. -/
def wFeed (rules : List Rule) (lines : List LineCfg) (c : Channel) : State :=
  { (wWith fun q => { q with cfg := some wCfg, passes := [], rulesOk := true }) with
    feedPorts := [(0, wFeedPort)], feedIods := [(0, { rules := rules, lines := lines, channels := [(6, c)] })] }

theorem test_frame_witness :
    let s := wFeed [wRule] [] {}
    let c := (s.fport 0).cfg
    (rxCheck c 0 9 (wFrame 0x0A000001)).toOption = some (.dgram wDgram) ∧ errorOf (rxCheck c 0 9 (wFrame 0x0A000009)) = some .addr ∧
      ruleHead c wRule wDgram = true ∧ ruleFits wRule wDgram 0 = true ∧ ruleTerms wRule wDgram 0 = true ∧
      ruleHead c { wRule with udp := some 5001 } wDgram = false := by decide +kernel

theorem test_line_witness :
    let s := wFeed [] [wLine] { synced := true, expect := 0x0506, hold := 1000 }
    (s.fiod 0).lines.find? (fun l => l.port == 0 % 2 && l.dstIp6 == false && l.dst == 0x0A000001 && l.udp == 5000) = some wLine ∧
      msgField wDgram 0 4 2 true = 0x0506 ∧ serial 16 0x0506 (channel s 0 6).expect = 0 ∧ serial 16 0x0506 0x0600 + 1 ≤ 0 ∧
      0 < serial 16 0x0506 0x0500 ∧ serial 16 0x0506 0x0500 < 2 ^ 20 := by decide +kernel

/-- The datagram held on channel 6 since time 3, six numbers ahead. -/
def wHeld : State :=
  wFeed [] [wLine] { synced := true, expect := 0x0500, hold := 1000, subs := 8, held := [(3, { wDgram with line := some wLine, seq := 0x0506 })] }

theorem test_gap_witness :
    (channel wHeld 0 6).held.length = 1 ∧ (wHeld.setNow 9).now < 3 + (channel wHeld 0 6).hold ∧ 3 + (channel wHeld 0 6).hold ≤ (wHeld.setNow 2000).now ∧
      serial (seqBits { wDgram with line := some wLine, seq := 0x0506 }) 0x0506 0x0500 = 6 := by decide +kernel

/-- A lookup of partition 3, and its share on IOD 0. -/
def wLook (autoOpen : Bool) : Lookup :=
  { part := 3, port := 0, keyspace := 2, key := [2, 3], token := 100, cls := 1, autoOpen := autoOpen, slot := 0, drop := false, arrival := 9, deadline := none }

/-- The lookup is in flight; the table holds the keys of `es`. -/
def wLooks (autoOpen : Bool) (keyed : Bool) : State :=
  let s := (wWith fun q => { q with cfg := some wCfg, slots := [(0, { state := .ready, plain := some wPlain, pool := { rootsTotal := 9 } })] })
  let s := { s with feedIods := [(0, { lookups := [wLook autoOpen], shares := [(3, { units := 1 })] })] }
  if keyed then
    match keyRoom s 3 2 [2, 3] with
    | some b => s.modPart 3 fun q => { q with keys := [(b, [{ keyspace := 2, key := [2, 3], entry := 5 }])] }
    | none => s
  else s

theorem test_lookup_witness :
    keyFind (wLooks false true) 3 2 [2, 3] = some 5 ∧ shareRoom (share (wLooks false true) 0 3) = true ∧
      keyFind (wLooks true false) 3 2 [2, 3] = none ∧ (keyRoom (wLooks true false) 3 2 [2, 3]).isSome = true ∧
      lowestFree (wLooks true false) 3 = some 0 ∧ (popRoot ((wLooks true false).slot 3 0).pool).isSome = true := by decide +kernel

/-- Two events for entry 0 wait in the share. -/
def wDrain : State :=
  { wServe [(0, wEntry (wItem []))] [] with
    feedIods := [(0, { shares := [(3, { units := 1, fifo := [⟨0, 100, 1, 9, false, none⟩, ⟨0, 101, 1, 10, false, some 44⟩] })] })] }

theorem test_drain_witness :
    let x := share wDrain 0 3
    (wDrain.part 3).state = .running ∧ x.lost = [] ∧ x.fifo.length = 2 ∧
      ∀ k ∈ x.fifo, k.lost = false ∧ (wDrain.entry k.entry).open_ = true ∧ (wDrain.entry k.entry).closing = false ∧
        ownsEntry wDrain 3 k.entry = true ∧ pendingOf (wDrain.entry k.entry) + x.fifo.length ≤ 4096 := by decide +kernel

/-- Port 0 with two messages waiting. -/
def wTx (up enable : Bool) : State :=
  { State.reset with feedPorts := [(0, { wFeedPort with up := up, cfg := { wFeedPort.cfg with enable := enable }, txq := [⟨3, [1]⟩, ⟨4, [2]⟩] })] }

theorem test_port_witness :
    ((wTx true true).fport 0).txq = [⟨3, [1]⟩, ⟨4, [2]⟩] ∧ feedPortFitted (wTx false true).variant 0 = true ∧
      ((wTx false true).fport 0).cfg.enable = true ∧ ((wTx false false).fport 0).up = false := by decide +kernel


/-! ### The host interface -/

/-- Ring 0 of function 0, at descriptor 2 of 5. -/
def wRing : Ring :=
  { sqBase := 0x10000, sqEn := true, sqSize := 4, head := 2, tail := 5, marks := [(5, 7)], cqBase := 0x20000, cqEn := true, cqSize := 4, vector := 2
    cqTail := 6, cqHead := 4 }

/-- Function 0, bound to partition 3, with ring 0 and an evidence ring that holds two records. -/
def wFn : Fn :=
  { presented := true, part := some 3, bme := true, msixEn := true, qEn := true, rings := [(0, wRing)]
    er := { base := 0x40000, en := true, size := 6, vector := 3, wb := 0x50000, tail := 4, head := 0, written := [2, 2] }
    msix := [(2, (0x1000, 2, false)), (3, (0x1000, 3, true))], pba := 8 }

/-- Partition 3 of entry 0 with that function, which `f` changes. -/
def wHost (f : Fn → Fn) : State :=
  let s := (wServe [(0, wEntry (wItem [5]))] []).modPart 3 fun q => { q with
    spool := [⟨List.replicate 128 1⟩, ⟨List.replicate 128 2⟩, ⟨List.replicate 128 3⟩]
    slots := [(0, { state := .ready, plain := some wPlain, pool := { rootsTotal := 9 } })] }
  { s with fns := [(0, f wFn)], hostPorts := [(0, { up := true, rate := 32, width := 16 })] }

/-- The same with ring 0 changed. -/
def wRingAt (r : Ring → Ring) : State := wHost fun f => { f with rings := [(0, r wRing)] }

theorem test_enable_witness :
    masterCheck (wHost fun f => { f with qEn := false }) 0 = 0 ∧ masterCheck (wHost fun f => { f with qEn := false, bme := false }) 0 = 0x0103 ∧
      (let s := wRingAt fun r => { r with sqEn := false }
       ringCheck (s.modRing 0 0 fun r => { r with sqSize := 5 }) 0 0 = 0) ∧
      (let s := wRingAt fun r => { r with sqEn := false, cqEn := false }
       ringCheck (s.modRing 0 0 fun r => { r with sqSize := 5 }) 0 0 = 0x0109 ∧
       ringCheck (s.modRing 0 0 fun r => { r with coalCount := 4, cqSize := 5, vector := 2 }) 0 4 = 0) ∧
      (let s := wHost fun f => { f with er := { f.er with en := false } }
       ringCheck (modEr s 0 fun e => { e with size := 6, vector := 3 }) 0 8 = 0) := by decide +kernel

theorem test_doorbell_witness :
    ((wRingAt fun r => { r with marks := [] }).ring 0 0).marks = [] ∧ 7 < 2 ^ wRing.sqSize ∧ 2 ^ wRing.sqSize ≤ 16 ∧
      (5 + 2 ^ wRing.cqSize - wRing.cqHead) % 2 ^ wRing.cqSize ≤ cqUsed wRing ∧
      cqUsed wRing < (9 + 2 ^ wRing.cqSize - wRing.cqHead) % 2 ^ wRing.cqSize ∧
      (3 + 2 ^ wFn.er.size - wFn.er.head) % 2 ^ wFn.er.size ≤ (wFn.er.tail + 2 ^ wFn.er.size - wFn.er.head) % 2 ^ wFn.er.size := by decide +kernel

/-- A descriptor of operation `op` for entry `e` with tag 0x1234 and the bytes `rest` from byte 8 on. -/
def wDesc (op : Byte) (e : Nat) (rest : List Byte) : List Byte :=
  ([op, 0, 0x34, 0x12] ++ toLe 4 e ++ rest ++ List.replicate 64 0).take 64

/-- A descriptor for each operation: NOP, OPEN of entry 4 for class 1, SCORE of one token, DECODE with a prompt of one, CLOSE, QUERY, IMAGE. -/
def wDescs : List (List Byte) :=
  [wDesc 0 0 [], wDesc 1 4 (toLe 8 99 ++ toLe 4 1), wDesc 2 0 (List.replicate 16 0 ++ [1, 0, 0, 0, 9]),
   wDesc 3 0 (toLe 8 4096 ++ toLe 8 8192 ++ [0, 0, 3, 0, 0, 0, 0, 0, 1]), wDesc 4 0 [], wDesc 6 0 (toLe 8 4096),
   [7, 0] ++ List.replicate 7 0 ++ [16] ++ List.replicate 54 0]

/-- The state of the fetches, whose image has a HEAD_LM layer. -/
def wFetch : State :=
  (wHost id).modPart 3 fun q => { q with slots := [(0, { state := .ready, plain := some { wPlain with layers := [{ wLayer with typ := 0x0A }] }, pool := { rootsTotal := 9 } })] }

theorem test_fetch_witness :
    nextFetch wFetch 0 = some 0 ∧ (∀ d ∈ wDescs, d.length = 64 ∧ descReason wFetch 3 d = 0) ∧ descReason wFetch 3 (wDesc 9 0 []) = 0x0320 ∧
      (wFetch.entry 4).open_ = false ∧ workReason wFetch 3 0 1 = 0 ∧ ((planOf wFetch 3 0).map headLm).getD false = true := by decide +kernel

/-- A read of 64 bytes in flight, for a batch or a command. -/
def wRead (edit : Bool) : State := wHost fun f => { f with reads := [⟨edit, 0, 4096, false⟩] }

theorem test_batch_witness :
    ((wRead true).fnOf 0).reads = [⟨true, 0, 4096, false⟩] ∧ ((wRead true).entry 0).edit = none ∧ ((wRead true).entry 0).open_ = true ∧
      imgCmdOk ([1] ++ List.replicate 63 0) = true := by decide +kernel

/-- A completion of ring 0 with data. -/
def wCompl : Compl := { sq := 0, item := none, tag := 7, data := [(4096, [1, 2])] }

theorem test_completion_ready_witness :
    let s := wHost fun f => { f with buffer := [wCompl] }
    (s.fnOf 0).buffer.find? (complReady s 0) = some wCompl ∧ complSilent wCompl = false ∧
      (let r := (wRingAt fun r => { r with unsignalled := 2, coalUs := 3, oldest := 100, coalCount := 9 }).ring 0 0
       r.unsignalled ≠ 0 ∧ r.coalUs ≠ 0 ∧ r.oldest + 1000 * r.coalUs ≤ 3100) := by decide +kernel

theorem test_evidence_witness :
    let s := wHost id
    ((s.part 3).spool.drop wFn.er.written.length).length = 1 ∧ recSlots (List.replicate 128 3) = 2 ∧ 2 ≤ 2 ^ wFn.er.size - wFn.er.tail ∧
      2 ≤ erFree wFn.er ∧ erFree { wFn.er with head := 6 } < 2 := by decide +kernel

/-- Function 0's partition owns granule 0 as host memory. -/
def wWindow : State := (wHost id).modPart 3 fun q => { q with cfg := some { wCfg with granules := [⟨4, 0, 0, 2⟩], bar2 := some 0 } }

theorem test_bar2Window_witness :
    (wWindow.fnOf 0).part = some 3 ∧ 64 < bar2Size wWindow 0 ∧ bar2Addr wWindow 3 64 = some (2 * granBytes + 64) ∧
      bar2Mapped wWindow 3 64 3 = 3 ∧ (wWindow.fnOf 1).part = none := by decide +kernel


/-! ### Images -/

/-- An image header of R324: one chunk of 64 plaintext bytes, for owner 1. -/
def wHeader (kind epoch compat : Nat) : List Byte :=
  ([0x59, 0x4E, 0x49, 0x4D, 1, BitVec.ofNat 8 kind] ++ toLe 2 512 ++ toLe 4 9 ++ toLe 2 epoch ++ toLe 2 compat ++ [1, 0, 0, 0] ++ toLe 4 1 ++
    toLe 8 64 ++ List.replicate 16 0 ++ [4] ++ List.replicate 512 0).take 512

/-- Its plaintext: one LINEAR layer on the correction engines. -/
def wImage : Plain :=
  { wPlain with sections := [(1, 0, 8), (2, 8, 8), (3, 16, 8), (6, 24, 8), (7, 32, 8), (9, 40, 8)], layers := [{ wLayer with regionAligned := true }], scheds := [] }

/-- An image command for partition 3 and image 9. -/
def wCmd (op slots stack epoch len : Nat) : List Byte :=
  ([BitVec.ofNat 8 op, 3, BitVec.ofNat 8 slots, BitVec.ofNat 8 stack] ++ toLe 4 9 ++ toLe 2 epoch ++ toLe 2 55 ++ toLe 4 0 ++ toLe 8 len ++
    List.replicate 64 0).take 64

/-- Who sent it. -/
def wRef : HostRef := { fn := 0, sq := 0, tag := 55, quiet := false }

/-- The commit record of image 9 at an epoch. -/
def wRecordOf (epoch extent : Nat) : CommitRec := { imageId := 9, epoch := epoch, chunks := 1, digest := [], extents := [extent] }

/-- The stored image at epoch 5, in Reservoir slot A of model 0 of stack 0. -/
def wModel (a b : ResState) : ResModel :=
  { imageId := 9, owner := 1
    a := { state := a, extents := [0], header := wHeader 1 5 0, plain := some wImage, record := some (wRecordOf 5 0) }
    b := if b = .empty then {} else { state := b, extents := [1], header := wHeader 1 6 5, plain := some wImage, record := some (wRecordOf 6 1) } }

/-- The command waits; the Reservoir holds `models`, and image slot 0 is `slot`. -/
def wImg (cmd : List Byte) (models : Tab (Option ResModel)) (slot : ImgSlot) : State :=
  let s := (wHost fun f => { f with cmds := [(wRef, cmd)] }).modPart 3 fun q => { q with slots := [(0, slot)] }
  let ok : Hk := { window := [(600, true), (600, true)] }
  { s with
    entries := [], keyId := List.replicate 48 0
    dies := [(0x00, { hk := ok }), (0x40, { hk := ok })]
    reservoirs := [(0, { ready := true, models := models, tempReads := [(600, true), (600, true)] })] }

/-- The slot with that image. -/
def wSlot : ImgSlot := { state := .ready, plain := some wImage, imageId := 9, epoch := 5, header := wHeader 1 5 0, res := (0, 0, 0) }

/-- A host command is as R338 has it. -/
theorem hostCmd_of {s : State} {fn sq op p : Nat} {cmd : List Byte} {h : HostRef} {rest : List (HostRef × List Byte)} (h1 : fn < 64)
    (h2 : (s.fnOf fn).part = some p) (h3 : takeFirst sq cmd (s.fnOf fn).cmds = some (h, rest)) (h4 : imgCmdOk cmd = true)
    (h5 : (imgFields cmd).op = op) (h6 : (imgFields cmd).part = p) : HostCmd s fn sq op cmd h p := ⟨h1, h2, ⟨rest, h3⟩, h4, h5, h6⟩

theorem test_install_witness :
    let cmd := wCmd 1 0 0 5 592
    let s := wImg cmd [] {}
    HostCmd s 0 0 1 cmd wRef 3 ∧ findModel s 1 9 = none ∧
      installCheck s { cmd := imgFields cmd, href := some wRef, reply := none, owner := 1 } (wHeader 1 5 0) wImage true 0 (freeModel s 0) none = 0 ∧
      installCheck s { cmd := imgFields cmd, href := some wRef, reply := none, owner := 1 } (wHeader 1 5 0) wImage false 0 (freeModel s 0) none = 0x0201 :=
  ⟨hostCmd_of (by decide) (by decide +kernel) (rest := []) (by decide +kernel) (by decide +kernel) (by decide +kernel) (by decide +kernel), by decide +kernel,
    by decide +kernel, by decide +kernel⟩

/-- The INSTALL of the image runs at its engine. -/
def wJob (kind : OpKind) : ImgOp :=
  { id := 2, kind := kind, part := 3, tag := 55, href := some wRef, stack := 0, model := 0, header := wHeader 1 5 0, plain := some wImage, chunks := 1 }

/-- Jobs on engine 0. -/
def wJobs (s : State) (js : List ImgOp) : State := { s with engines := [(0, { jobs := js })] }

theorem test_installRuns_witness :
    let s := wJobs (wImg [] [(0, some (wModel .writing .empty))] {}) [wJob .install]
    engineHead s 0 = some (wJob .install) ∧ fnIssues s 0 = true ∧ resWritable s 0 = true ∧ (modelAt s 0 0).isSome = true ∧
      (wJob .install).chunks ≤ (wJob .install).chunk + 1 ∧
      (let w := wJobs s [{ wJob .install with waiting := true }]
       ((w.engine 0).jobs.find? fun j => j.kind == .install && j.waiting).isSome = true) := by decide +kernel

theorem test_activate_witness :
    let cmd := wCmd 2 0 0 0 0
    let s := wImg cmd [(0, some (wModel .valid .empty))] {}
    HostCmd s 0 0 2 cmd wRef 3 ∧ findModel s 1 9 = some (0, 0, wModel .valid .empty) ∧ installing s 0 0 = false ∧ resReady (wModel .valid .empty).a = true ∧
      resInUse s 0 0 false = false ∧ resInUse (wImg cmd [(0, some (wModel .valid .empty))] wSlot) 0 0 false = true :=
  ⟨hostCmd_of (by decide) (by decide +kernel) (rest := []) (by decide +kernel) (by decide +kernel) (by decide +kernel) (by decide +kernel), by decide +kernel,
    by decide +kernel, by decide +kernel, by decide +kernel, by decide +kernel⟩

theorem test_load_witness :
    let cmd := wCmd 4 0 0 5 0
    let s := wImg cmd [(0, some (wModel .active .empty))] {}
    HostCmd s 0 0 4 cmd wRef 3 ∧ slotBusy s 3 0 = false ∧ slotWriting s 1 9 5 = false ∧ pickRes s 1 9 5 = some (0, 0, false, (wModel .active .empty).a) ∧
      (loadCheck s 3 0 (wModel .active .empty).a 0 0).toOption = some (wImage, 0) ∧
      errorOf (loadCheck s 3 0 { (wModel .active .empty).a with plain := some { wImage with order := 4 } } 0 0) = some 0x0215 ∧
      slotInUse s 3 0 = false :=
  ⟨hostCmd_of (by decide) (by decide +kernel) (rest := []) (by decide +kernel) (by decide +kernel) (by decide +kernel) (by decide +kernel), by decide +kernel, by decide +kernel,
    by decide +kernel, by decide +kernel, by decide +kernel, by decide +kernel⟩

/-- The image with layer 0 on Tarn 0 of tile 0, and that slot while it loads. -/
def wPlacedSlot : ImgSlot :=
  let x := { wImage with levels := [{ layers := [0], tarns := [⟨0, 0, 0, 0, 0, 0, 0⟩], replicas := 1 }] }
  { wSlot with state := .loading, plain := some x, placed := [⟨0, 0, 0, 0, 0, 0, 0⟩], job := some { wJob .load with chunk := 1 } }

theorem test_resident_witness :
    let s := wImg [] [] wPlacedSlot
    0 ∈ layersDue s 3 0 ∧ (∀ d ∈ layerDies s 3 0 0, dieWritable s d = true) ∧ ((s.slot 3 0).placed.map fun q => (q.tile, q.tarn)).Nodup ∧
      limitCols (tarnOf (s.tile 0) 0) = [] ∧ (placedMatrix { wImage with levels := [] } ⟨0, 0, 0, 0, 0, 0, 0⟩).isSome = true := by decide +kernel

theorem test_swap_witness :
    let cmd := wCmd 6 0 0 6 0
    let s := wImg cmd [(0, some (wModel .active .valid))] wSlot
    HostCmd s 0 0 6 cmd wRef 3 ∧ modelBusy s 1 9 = false ∧
      (swapCheck s { cmd := imgFields cmd, href := some wRef, reply := none, owner := 1 } (pickRes s 1 9 6)).toOption =
        some (wImage, 0, 0, true, (wModel .active .valid).b) ∧
      errorOf (swapCheck s { cmd := imgFields cmd, href := some wRef, reply := none, owner := 1 } none) = some 0x0204 :=
  ⟨hostCmd_of (by decide) (by decide +kernel) (rest := []) (by decide +kernel) (by decide +kernel) (by decide +kernel) (by decide +kernel), by decide +kernel,
    by decide +kernel, by decide +kernel⟩

/-- The Weir of that swap. -/
def wWeir (step : WeirStep) (compat : Nat) : Weir :=
  { res := (0, 0, 1), epoch := 6, header := wHeader 1 6 compat, plain := wImage, staged := true, step := step, oldEpoch := 5 }

/-- Image slot 0 in a swap, with the open entry 0. -/
def wSwap (st : SlotState) (step : WeirStep) (compat : Nat) : State :=
  { (wImg [] [(0, some (wModel .active .valid))] { wSlot with state := st, weir := some (wWeir step compat), job := some (wJob .swap) }).modPart 3
      fun q => { q with passes := [] } with entries := [(0, { wEntry (wItem []) with queue := [] })] }

theorem test_weir_witness :
    slotDrained (wSwap .weirClosed .draining 5) 3 0 = true ∧ kvCompatible (wWeir .draining 5) 5 = true ∧ kvCompatible (wWeir .draining 0) 5 = false ∧
      (placedLayers wImage 0).length = 0 ∧ ((wSwap .ready .staging 5).part 3).state = .running := by decide +kernel

/-- A variant of image 9 without blocks. -/
def wVariant : ResSlot :=
  { state := .active, header := (wHeader 2 5 0).take 36 ++ toLe 4 9 ++ toLe 2 5 ++ (wHeader 2 5 0).drop 42
    plain := some { wImage with sections := [(0x0B, 0, 8)] } }

theorem test_variant_witness :
    let cmd := wCmd 7 0x20 0 5 0
    let s := wImg cmd [(0, some { wModel .active .empty with a := wVariant })] wSlot
    HostCmd s 0 0 7 cmd wRef 3 ∧ pickRes s 1 9 5 = some (0, 0, false, wVariant) ∧
      variantCheck s 3 0 2 wVariant { wImage with sections := [(0x0B, 0, 8)] } = 0 ∧
      variantCheck (s.modSlot 3 0 fun q => { q with epoch := 4 }) 3 0 2 wVariant { wImage with sections := [(0x0B, 0, 8)] } = 0x0252 :=
  ⟨hostCmd_of (by decide) (by decide +kernel) (rest := []) (by decide +kernel) (by decide +kernel) (by decide +kernel) (by decide +kernel), by decide +kernel,
    by decide +kernel, by decide +kernel⟩

theorem test_stored_witness :
    let s := wImg [] [(0, some (wModel .active .empty))] { wSlot with shadowBad := [4] }
    let j : ImgOp := { wJob .shadowRepair with chunk := 4 }
    let r := wJobs s [j]
    engineHead r (r.slot 3 0).res.1 = some j ∧ j.stack = (r.slot 3 0).res.1 ∧ resReady (opSlot r j) = true ∧ (r.slot 3 0).state = .ready ∧
      modelAt s 0 0 = some (wModel .active .empty) ∧
      resReady (resSlotOf (wModel .active .empty) false) = true ∧ resReady (resSlotOf (wModel .invalid .empty) false) = false ∧
      (resSlotOf (wModel .active .empty) false).extents ≠ [] := by decide +kernel


/-! ### Recovery -/

/-- Partition 3, which `f` changes, on a module that has started. -/
def wRec (f : Part → Part) : State :=
  let s := (wHost id).modPart 3 fun q => f { q with serv := { q.serv with seed := 9 } }
  { s with cfg := { s.cfg with started := true, standbyReady := true }, ptSel := 3 }

theorem test_reset_witness :
    let s := wRec id
    (s.part 3).state ≠ .disabled ∧ (s.part 3).resetting = false ∧ hostDies s 3 ≠ [] ∧ partReach s (.sideband 0) 3 = true ∧
      (let r := wRec fun q => { q with resetting := true, state := .starting }
       noticePending r .reset 3 = false ∧ relocRuns r 3 = false ∧ (r.part 3).cfg = some wCfg ∧
       noticePending { r with fm := { r.fm with notices := [{ id := 4, kind := .reset, part := some 3, wait := [0] }] } } .reset 3 = true) := by decide +kernel

/-- A RESET notice of partition 3 that dies 0 and 1 have yet to acknowledge, and a transfer of an older tag. -/
def wNotice : State :=
  let s := wRec fun q => { q with resetting := true, state := .starting, tag := 1 }
  { s with fm := { s.fm with notices := [{ id := 4, kind := .reset, part := some 3, wait := [0, 1], sent := 7 }, { id := 5, kind := .reset, part := some 6, wait := [0] }] }
           xfers := [{ id := 4, part := 3, tag := 0, pass := 7, gen := 0, tile := 1, ctx := 0, ctr := none, kind := .signal }] }

theorem test_notice_witness :
    (wNotice.fm.notices.find? (fun n => n.id == 4 && n.wait.contains 0)).isSome = true ∧ (ctxOf wNotice 0 0).part = some 3 ∧
      (wNotice.setNow 9).now < 7 + 2000000 ∧ retirable wNotice 0 = true := by decide +kernel

/-- The module with a die at its thresholds, and a channel too. -/
def wWorn : State :=
  let s := wRec fun q => { q with cfg := some { wCfg with granules := [⟨3, 0, 0, 0⟩] } }
  { (s.modDie 0 fun d => { d with permFaults := 70, shortTiles := 9 }).modStack 0 fun k => { k with chans := [(1, { ue24 := [(0, 50)] })] } with
    log := { s.log with thrDiePerm := 64, thrDieShort := 8, thrChUe := 48 } }

theorem test_retire_witness :
    retirable wWorn 0 = true ∧ operatorReach wWorn (.sideband 0) = true ∧ retireDue wWorn 0 1 = true ∧ retireDue wWorn 0 2 = true ∧
      partsOnDie wWorn 0 = [3] ∧ stackFitted wWorn.variant 0 = true ∧ (wWorn.stack 0).retired = [] ∧
      wWorn.log.thrChUe ≤ last24 (hourOf (wWorn.setNow 9).now) (chanOf wWorn 0 1).ue24 ∧ granOfPair ⟨3, 0, 0, 0⟩ 0 0 = true ∧
      retirable (wWorn.modDie 0 fun d => { d with state := .dark }) 0 = false := by decide +kernel

/-- Tile 1 of partition 3 is lost; tile 64 is in reserve. -/
def wLost (f : Part → Part) : State :=
  let s := (wRec fun q => f { q with slots := [], tiles := [0, 33] }).modDie 1 fun d => { d with state := .dark }
  { s with fm := { s.fm with relocQueue := [3] }, cfg := { s.cfg with module := { s.cfg.module with reserve := [64] } } }

theorem test_relocation_witness :
    let s := wLost fun q => { q with resetting := true, state := .starting }
    s.fm.relocQueue.min? = some 3 ∧ noticePending s .reset 3 = false ∧ affectedSlots s 3 = [] ∧ lostTiles s 3 = [1] ∧ reserveFor s 3 1 [] = some 64 ∧
      ((wLost id).part 3).resetting = false := by decide +kernel

/-- Image slot 0 of partition 3 is blocked, and reserve capacity has changed. -/
def wBlocked : State :=
  let s := (wRec fun q => { q with blocked := [0], slots := [(0, { wSlot with state := .partial_ })] })
  { s with fm := { s.fm with retry := true } }

theorem test_retry_witness :
    0 ∈ (wBlocked.part 3).blocked ∧ shadowFits wBlocked 3 0 wImage = true ∧ (chooseLevel wBlocked 3 wImage).isSome = true ∧
      lostTiles wBlocked 3 = [] ∧ (wBlocked.part 3).resetting = false := by decide +kernel

/-- Partition 3 has a pass that opened at time 4. -/
def wDog (reset : Bool) (seen : Nat) : State :=
  wRec fun q => { q with passes := [{ wPass with opened := 4 }], wdgReset := reset, progress := 6, progressSeen := seen }

theorem test_watchdog_witness :
    let s := wDog true 6
    s.cfg.started = true ∧ (s.part 3).progress = (s.part 3).progressSeen ∧ ((s.part 3).passes.map Pass.opened).min? = some 4 ∧
      (s.part 3).wdgMs ≤ ((s.setNow 100000004).now - Nat.max (s.part 3).idleBase 4) / 1000000 ∧ ((wDog true 5).part 3).progress ≠ ((wDog true 5).part 3).progressSeen := by
  decide +kernel

/-- The dies of partition 3's Tarns have declared trouble. -/
def wTrouble (n : Nat) : State :=
  (wRec fun q => { q with degraded := true, slots := [(0, { wSlot with placed := [⟨0, 0, 0, 0, 0, 0, 0⟩, ⟨0, 0, 0, 1, 0, 32, 0⟩, ⟨0, 0, 0, 2, 0, 64, 0⟩, ⟨0, 0, 0, 3, 0, 96, 0⟩, ⟨0, 0, 0, 4, 0, 128, 0⟩] })] }).modDie 0
    fun d => { d with trouble := BitVec.ofNat 32 n }

theorem test_trouble_test_witness :
    worstDie (wTrouble 300) 3 (tarnDies (wTrouble 300) 3) = some 0 ∧ (wTrouble 300).fm.troubleThr ≤ troubleGain (wTrouble 300) 3 0 ∧
      (wTrouble 300).fm.ratio * ((tarnDies (wTrouble 300) 3).map (troubleGain (wTrouble 300) 3)).sum ≤ troubleGain (wTrouble 300) 3 0 * (tarnDies (wTrouble 300) 3).length ∧
      troubleGain (wTrouble 200) 3 0 < (wTrouble 200).fm.troubleThr := by decide +kernel

/-- A standby that holds the log up to record 1, with one heartbeat missed and a swap that programs. -/
def wStandby : State :=
  let s := wRec fun q => { q with slots := [(0, { wSlot with state := .weirClosed, weir := some (wWeir .programming 5) })] }
  { s with fm := { s.fm with heartMiss := 1, standbyLogAt := 1 } }

theorem test_standby_witness :
    wStandby.cfg.started = true ∧ wStandby.cfg.standbyReady = true ∧ wStandby.fm.heartMiss ≠ 0 ∧ (wStandby.slot 3 0).state ≠ .empty ∧
      ((wStandby.slot 3 0).weir.map Weir.step) = some .programming := by decide +kernel


/-! ### Power, module start and configuration -/

/-- A record of R404. -/
def wRecord (typ : Nat) (body : List Byte) : List Byte := toLe 2 typ ++ toLe 2 (4 + body.length) ++ body

/-- A FEED_PORT record: the standard MTU, no address, no VLAN. -/
def wPortRec (n : Nat) : List Byte := wRecord 3 ([BitVec.ofNat 8 n, 0] ++ toLe 2 1500 ++ List.replicate 72 0 ++ List.replicate 32 0xFF)

/-- A MODULE section of series S. -/
def wModSect : List Byte :=
  wRecord 1 (toLe 4 0) ++ wRecord 2 (List.replicate 8 1) ++ wRecord 7 (List.replicate 76 0) ++ wRecord 8 (toLe 4 1500) ++
    ((List.range 8).map wPortRec).flatten

/-- An OWNERS section with owner `o` as OPERATOR. -/
def wOwnSect (o : Nat) : List Byte := wRecord 1 ([BitVec.ofNat 8 o, 1] ++ List.replicate 6 0 ++ List.replicate 48 9)

/-- A PARTITION section for partition 3 of owner 1 on tiles 0 to 3 of die 0. -/
def wPartSect : List Byte :=
  wRecord 0x101 ([3, 1, 3, 0] ++ toLe 4 5 ++ [10, 0xFF, 0, 0]) ++ wRecord 0x102 [0, 0, 1, 0, 2, 0, 3, 0] ++ wRecord 0x103 (List.replicate 8 0) ++
    wRecord 0x104 ([1] ++ List.replicate 15 0) ++
    wRecord 0x109 ([6, 4, 2, 0] ++ toLe 4 1024 ++ List.replicate 24 0 ++ toLe 4 1 ++ toLe 4 0 ++ toLe 4 256 ++ toLe 4 0 ++
      ((List.range 4).map fun _ => toLe 4 65536).flatten ++ toLe 4 256)

/-- A configuration image of generation `gen` with those sections. -/
def wConfig (gen owner : Nat) : List Byte :=
  let sect := fun (typ part off : Nat) (b : List Byte) => [BitVec.ofNat 8 typ, BitVec.ofNat 8 part, 0, 0] ++ toLe 4 off ++ toLe 4 b.length ++ toLe 4 (crc32c b).toNat
  let own := wOwnSect owner
  let head := [0x59, 0x4E, 0x43, 0x46, 1, 0] ++ toLe 2 3 ++ toLe 4 1396 ++ toLe 4 gen ++ List.replicate 12 0
  let body := head ++ toLe 4 (crc32c head).toNat ++ sect 1 0 128 wModSect ++ sect 2 0 1152 own ++ sect 16 3 1216 wPartSect ++ List.replicate 48 0 ++
    wModSect ++ List.replicate 20 0 ++ own ++ List.replicate 4 0 ++ wPartSect
  body ++ sha384 body

theorem test_config_witness :
    (wConfig 7 1).length = 1396 ∧ copyReason .s 1 0x020000000000 (wConfig 7 1) = 0 ∧ imageGen (wConfig 7 1) = 7 ∧
      copyReason .s 1 0x020000000000 ((wConfig 7 1).take 1395) ≠ 0 ∧ (parsePart .s 3 wPartSect).isSome = true ∧
      (parseOwners (wOwnSect 1)).isSome = true := by decide +kernel

/-- The module as it comes, with a configuration image in copy 1. -/
def wOff : State := { State.reset with cfg := { State.reset.cfg with flash1 := wConfig 7 1 } }

/-- The same with power good, after the start or before it. -/
def wOn (started : Bool) : State :=
  { wOff with
    power := { wOff.power with pwrgd := true, rails := true, modEn := true }
    cfg := { wOff.cfg with started := started, phase := if started then 5 else 0, owners := [{ id := 1, operator := true, key := List.replicate 48 9 }] } }

theorem test_power_witness :
    wOff.power.pwrgd = false ∧ wOff.power.aux = true ∧ wOff.power.lock120 = false ∧ (wOn true).power.pwrgd = true ∧ wOff.cfg.write = none ∧
      (wOn false).power.testMode = false ∧ (wOn false).cfg.started = false := by decide +kernel

theorem test_restart_witness :
    mcReach (wOn true) (.sideband 0) = true ∧ operatorReach (wOn true) (.sideband 0) = true ∧ cfgBusy (wOn true) = false ∧
      cfgBusy { wOn true with cfg := { (wOn true).cfg with write := some { image := [] } } } = true ∧
      chooseCopy (wOn true) = some 1 := by decide +kernel

/-- Partition 3 runs with the section's configuration, which `f` changes. -/
def wRunning (f : Part → Part) : State :=
  (wOn true).modPart 3 fun q => f { q with present := true, state := .running, cfg := parsePart .s 3 wPartSect, tiles := [0, 1, 2, 3] }

theorem test_partRestart_witness :
    let s := wRunning id
    let v := (cfgBegin (s.setNow 9) { action := 1, part := 3, reply := none }).modPart 3 fun q => { q with present := true }
    imageCmdRuns s 3 = false ∧ retireRuns s 3 = false ∧ (partSections (copyImage s 1)).find? (fun q => q.1 == 3) = some (3, wPartSect) ∧
      (match sectionCheck v 3 wPartSect with | .ok c => some c == parsePart .s 3 wPartSect && !restartInUse v 3 (some c) | .error _ => false) = true ∧
      (s.part 3).state = .running := by decide +kernel

theorem test_owners_witness :
    parseOwners (sectOf (copyImage (wOn true) 1) 2) = some [{ id := 1, operator := true, key := List.replicate 48 9 }] ∧
      (∀ o ∈ (wOn true).cfg.owners, o.id = 1) := by decide +kernel

/-- The module in test mode, with IDCODE selected in every port. -/
def wScan (t : TapState) : State := { wOn false with power := { (wOn false).power with testMode := true, tapState := t, shift := [(0, 5), (3, 6)] } }

theorem test_scan_witness :
    (wScan .capDr).power.pwrgd = true ∧ (wScan .capDr).power.testMode = true ∧ tapInstr (wScan .capDr) 0 = .idcode ∧ (tapChain (wScan .ex1Ir)).length = 4 ∧
      (tapChain (wScan .shDr)).getLast? = some 3 := by decide +kernel


/-! ### Housekeeping and thermal control -/

/-- A reading of the die's temperature sensor. -/
def wRead4 (code : Nat) : HkRes := { code := code, valid := true, sweep := 1, spring := true }

/-- The module at work: die 0 as `f` has it, the others at 50 °C. -/
def wHk (f : Hk → Hk) : State :=
  let h : Hk := { reported := true, res := [(4, wRead4 3163)], vset := 25, mcSet := 25 }
  { State.reset with
    power := { State.reset.power with pwrgd := true, rails := true, modEn := true }
    cfg := { State.reset.cfg with started := true, phase := 5 }
    therm := { State.reset.therm with roundOpen := true }
    parts := [(3, wPart)]
    dies := (springDies State.reset).map fun d => (d, { hk := if d = 0 then f h else h }) }

/-- Die 0 in the middle of a user sweep of two steps. -/
def wUser : State :=
  wHk fun h => { h with sweep := some { kind := .user, steps := [[6], [7]] }, seq := [(6, { input := 1, enable := true }), (7, { input := 2, enable := true })] }

theorem test_sweep_witness :
    wUser.cfg.started = true ∧ (wUser.setNow 20000000).now % 10000000 = 0 ∧ 0 ∈ springDies wUser ∧ hkRuns wUser 0 = true ∧
      ((hkOf wUser 0).sweep.map HkSweep.steps) = some [[6], [7]] ∧ inputCarried 0 (seqEntry wUser 0 6).input = true := by decide +kernel

/-- Die 0 times its own sweeps, one of which was at 105 °C. -/
def wSelf : State := wHk fun h => { h with selfTimed := true, hotSweeps := 1, lowPower := true }

theorem test_selfTimed_witness :
    (hkOf wSelf 0).selfTimed = true ∧ 1680 ≤ rawTemp (hkOf wSelf 0).ideal 3760 ∧ rawTemp (hkOf wSelf 0).ideal 3163 < 1680 ∧
      tempValid (hkOf wSelf 0).ideal { code := 3760, valid := true } = true ∧ (hkOf wSelf 0).missed = false ∧ (hkOf wSelf 0).lowPower = true ∧
      9975000 < (wSelf.setNow 9980000).now % 10000000 ∧ formSteps wUser 0 userEntries ≠ [] := by decide +kernel

theorem test_shutdown_witness :
    let s := wHk fun h => { h with res := [(4, wRead4 3858)] }
    (0 ∈ springDies s) ∧ (hkOf s 0).reported = true ∧ tempValid (hkOf s 0).ideal (tget {} (hkOf s 0).res 4) = true ∧
      1920 ≤ rawTemp (hkOf s 0).ideal (tget {} (hkOf s 0).res 4).code := by decide +kernel

theorem test_thermalRound_witness :
    let s := wHk id
    let w := controlReadings [] (s.setNow 9) (springDies s)
    shutdownDue w (springDies s) = false ∧ w.therm.emergency = false ∧ (∀ d ∈ springDies s, (hkOf w d).emergRun < 3) := by decide +kernel

theorem test_emergency_witness :
    let s := { (wHk fun h => { h with res := [(4, wRead4 3760)], emergRun := 2 }) with stackTab := [] }
    let w := controlReadings [] (s.setNow 9) (springDies s)
    shutdownDue w (springDies s) = false ∧ w.therm.emergency = false ∧ 3 ≤ (hkOf w 0).emergRun ∧ (s.part 3).state = .running := by decide +kernel

theorem test_brake_witness : (wHk id).power.pwrgd = true ∧ (wHk id).power.iinOver = false ∧ (springDies (wHk id)).length = 44 := by decide +kernel


/-! ### The log, Flesha, the sideband, Lantern and register accesses -/

/-- The two owners: 1 is an OPERATOR, 2 is not. -/
def wOwners : List Owner := [{ id := 1, operator := true, key := List.replicate 48 9, lastSeq := 4 }, { id := 2, operator := false, key := List.replicate 48 7, lastSeq := 4 }]

/-- A started module with those owners, and partition 3 of owner 2 with function 0. -/
def wMod : State :=
  let s := (wHost id).modPart 3 fun q => { q with cfg := some { wCfg with owner := 2 } }
  { s with power := { s.power with pwrgd := true }, cfg := { s.cfg with started := true, phase := 5, owners := wOwners, standbyReady := true } }

/-- A COMMAND of owner `o`, signed under its key. -/
def wMsg (o op : Nat) (body : List Byte) : List Byte := fleshaMsg 1 (some (List.replicate 48 (if o = 1 then 9 else 7))) 3 o 5 op 77 0 body

/-- What the command says. -/
def wFl (o op : Nat) (body : List Byte) : FlCmd := ⟨o, op, 77, body⟩

/-- A record of die 3 for partition 3. -/
def wEv : EvRec := { cls := 0x0105, die := 3, block := 0x20, part := some 3, first := 5, last := 5, payload := pay [(4, 1)] }

/-- Die 3 has that record in its summary area, die 1 another in its FIFO. -/
def wLog : State := (wMod.modDie 3 fun d => { d with ev := { d.ev with summary := [wEv] } }).modDie 1 fun d => { d with ev := { d.ev with fifo := [{ wEv with die := 1, part := none }] } }

theorem test_log_witness :
    nextSource (evSources wLog) wLog.log.rrSum (fun d => !(evQueue wLog d).summary.isEmpty) = some 3 ∧ (evQueue wLog ((evSources wLog).getD 3 0)).summary = [wEv] ∧
      evParts wLog wEv = [3] ∧ (wLog.part 3).spool.length < 4096 ∧
      (let s := wLog.modDie 3 fun d => { d with ev := {} }
       (∀ d ∈ evSources s, (evQueue s d).summary = []) ∧ nextSource (evSources s) s.log.rrFifo (fun d => !(evQueue s d).fifo.isEmpty) = some 1) := by decide +kernel

/-- Die 3 coalesces: `n` reports arrived. -/
def wCoal (n : Nat) : State := wMod.modDie 3 fun d => { d with ev := { d.ev with coalescing := true, arrived := n, coalesced := 2, unattr := 1, table := [wEv] } }

theorem test_coalesce_witness :
    (wMod.setNow 300000000).now % 100000000 = 0 ∧ (evQueue (wCoal 2000) 3).coalescing = true ∧ 0 < (evQueue (wCoal 2000) 3).coalesced ∧
      (evQueue wMod 3).coalescing = false ∧ okDie 3 = true := by decide

/-- A subscriber of owner `o`, and a record in the log. -/
def wSubs (o : Nat) (addrs : List Nat) : State :=
  { wMod with log := { wMod.log with
    head := 8, recs := [(7, wEv)]
    subs := [{ port := 0, addr := 5, udp := 6, owner := o, events := true, telemetry := true, period := 10, addrs := addrs, expires := 100, nextSeq := 7 }] } }

theorem test_subscriber_witness :
    let s := wSubs 2 [0xF0010000]
    (s.log.subs[0]?).isSome = true ∧ fleshaServed s 0 = true ∧ (ownerOf s 2).isSome = true ∧
      (((recsFrom s 7).filter fun q => seesRecord s 2 q.2).take 21).length = 1 ∧ readReach s 2 0xF0010000 = false ∧ readReach s 2 0xF0040000 = true ∧
      (let a := { s with cfg := { s.cfg with owners := [] } }
       (recsFrom a a.log.anonNext).take 21 ≠ []) := by decide +kernel

theorem test_command_witness :
    fleshaServed wMod 0 = true ∧ FleshaCmd wMod 0 0x0002 (wMsg 1 0x0002 (toLe 4 0xF0040000 ++ toLe 2 1)) (wFl 1 0x0002 (toLe 4 0xF0040000 ++ toLe 2 1)) ∧
      FleshaCmd wMod 0 0x0099 (wMsg 2 0x0099 []) (wFl 2 0x0099 []) ∧ knownOpcode 0x0099 = false ∧
      (let m := (wMsg 1 0x0002 []).take 79 ++ [0x55]
       fleshaShape m = true ∧ leAt m 24 2 = 2 ∧ fleshaTests wMod m = false) :=
  ⟨by decide +kernel, ⟨by decide, by decide +kernel, by decide +kernel, by decide +kernel, by decide +kernel, by decide +kernel⟩,
    ⟨by decide, by decide +kernel, by decide +kernel, by decide +kernel, by decide +kernel, by decide +kernel⟩, by decide, by decide +kernel⟩

theorem test_reach_witness :
    readReach wMod 1 0xF0010000 = true ∧ readReach wMod 2 0xF0010000 = false ∧ writeReach wMod 2 0xF0010000 3 = true ∧ writeReach wMod 2 0xF0010000 4 = false ∧
      subBodyOk [1, 0, 0, 0, 0, 0, 0, 0] = true ∧ subBodyOk [1] = false ∧ isOperator wMod 1 = true ∧ isOperator wMod 2 = false ∧
      iodFitted wMod.variant 2 = true ∧ wMod.time.utc = false := by decide +kernel

theorem test_unlock_witness :
    FleshaCmd wMod 1 0x0040 (wMsg 1 0x0040 [1, 0, 0, 0, 60, 0, 0, 0]) (wFl 1 0x0040 [1, 0, 0, 0, 60, 0, 0, 0]) ∧ unlockBodyOk [1, 0, 0, 0, 60, 0, 0, 0] = true ∧
      unlockBodyOk [2, 0, 0, 0, 0, 0, 0, 0] = true :=
  ⟨⟨by decide, by decide +kernel, by decide +kernel, by decide +kernel, by decide +kernel, by decide +kernel⟩, by decide, by decide⟩

/-- Lantern is unlocked until time 50, and line 8 of die 0 has Tarn 7 selected, which an image slot holds or not. -/
def wLantern (held : Bool) : State :=
  let s := (wMod.modDie 0 fun d => { d with ln := [(8, { kind := 1, tile := 2, tarn := 7 })] }).modTile 2
    fun x => { x with tarns := [(7, { holder := if held then some (3, 0, 0) else none })] }
  { s with lantern := { s.lantern with unlocked := true, taint := true, until_ := 50 } }

theorem test_lantern_witness :
    (wLantern true).lantern.until_ ≤ ((wLantern true).setNow 50).now ∧ mcActive (wLantern true) 0 = true ∧ (wLantern true).lantern.indefinite = false ∧
      (tget {} ((wLantern true).die 0).ln 8).tarn = 7 ∧ fld 0x0205 0 3 = 5 ∧ (tarnOf ((wLantern true).tile (32 * 0 + fld 0x0205 8 5)) 7).holder ≠ none ∧
      (tarnOf ((wLantern false).tile 2) 7).holder = none ∧ isLanternSel wMod 0x00020040 = true ∧ wMod.lantern.unlocked = false := by decide +kernel

theorem test_sideband_witness :
    wMod.power.aux = true ∧ mcActive wMod 0 = true ∧ mcActive wMod 3 = false ∧ State.reset.cfg.started = false ∧
      (toLe 4 0xF0040000 ++ [1] : List Byte).length = 5 ∧ byteAt (toLe 4 0xF0040000 ++ [1]) 4 = 1 := by decide +kernel

/-- The latency histogram of kind 0, class 0 holds counts. -/
def wHist : State :=
  let s := wMod.modPart 3 fun q => { q with cnt := { q.cnt with hist := [(2, 5), (3, 6)] } }
  s.modFn 0 fun f => { f with win := { f.win with hist := [(2, 7), (3, 8)] } }

theorem test_reads_witness :
    fnAnswers wHist 0 = true ∧ (wHist.fnOf 0).part = some 3 ∧ latchOf wHist (.host 0) 0x495C = none ∧ leadOf wHist 0 = some 3 ∧
      addrStatus wHist 0xF0000040 = 0 ∧ mgmtWide 0xF0000040 = true ∧ isSweepAge wHist 0xF0000040 = false ∧
      latchOf { wHist with latches := [(.sideband 0, 0xF0000044, 9)] } (.sideband 0) 0xF0000044 = some 9 ∧ mgmtWide 0xF0000044 = false := by decide +kernel

theorem test_writes_witness :
    addrStatus wMod 0x30000000 = 1 ∧ addrStatus wMod 0x000F0000 = 2 ∧ mcActive wMod 0 = true ∧ (700 : Nat) < 2 ^ 32 ∧ fnAnswers wMod 0 = true := by decide +kernel


/-! ### The block as a whole -/

/-- One ill-formed command for each check of WellFormed.lean: each names a site just beyond the last. -/
def wIllFormed : List Instr :=
  [.passOpen 64 0, .flr 64 0, .walkAccept 40 0 0, .ingestDrain 0 6 0, .refBufferOn 0x46, .refBufferOn 40, .nop 1280 0, .nop 0 15, .tarnRoundDone 0 400 [],
   .tarnRowRewrite 0 0 512, .aeIssue 0 0 0 4 0 0, .waitArr 0 0 48 1, .channelRetire 20 0 0, .channelRetire 0 16 0, .arbHoldExpiry 0 256 0,
   .imageChunkDecrypted 4 true 0, .perstAssert 8, .alarmMsgTx 12, .fleshaTime 2 0 0 [] 0, .twimerLinkDown 0 4 0, .sqDoorbell 0 4 0 0, .msixUnmask 0 64]

theorem test_illFormed_refused : ∀ c ∈ wIllFormed, instrWellFormed c = false ∧ (match exec c State.reset with | .fault .illFormed => true | _ => false) = true := by decide +kernel

theorem test_wellFormed_edges : ∀ c ∈ [Instr.passOpen 63 0, .flr 63 0, .walkAccept 39 3 0, .refBufferOn 0x45, .nop 1279 14, .tarnRowRewrite 1279 399 511,
    .waitArr 0 0 47 1, .channelRetire 19 15 0, .alarmMsgTx 11, .msixUnmask 63 63], instrWellFormed c = true := by decide

/-- A step takes the command in front and leaves the rest. -/
theorem test_step_front : ∃ u, step { State.reset with pending := [.auxInRange, .modEnFall] } = .next u ∧ u.pending = [.modEnFall] := ⟨_, rfl, rfl⟩

theorem test_inv_reset : Inv State.reset :=
  ⟨⟨by decide, by decide, by decide, by decide, by decide, by decide, by decide, by decide, by decide, by decide, by decide, by decide⟩,
    fun h => absurd h (by decide), fun h => absurd h (by decide), fun h => absurd h (by decide)⟩

theorem test_step_keeps_witness : Inv State.reset ∧ ∃ u, step { State.reset with pending := [.auxInRange] } = .next u := ⟨test_inv_reset, _, rfl⟩

theorem test_footprint_witness : ∃ u, exec .auxInRange State.reset = .next u := ⟨_, rfl⟩

theorem test_site_witness : (∃ u, exec (.nop 0 0) wTile = .next u) ∧ tileSite (.nop 0 0) = some 0 ∧ ctxSite (.nop 0 0) = some (0, 0) := ⟨⟨_, rfl⟩, rfl, rfl⟩

/-- An OPERATOR unlocks Lantern; another owner does not. -/
theorem test_unlocks_witness :
    wMod.lantern.unlocked = false ∧ (∃ u, exec (.fleshaDebugUnlock 1 5 6 (wMsg 1 0x0040 [1, 0, 0, 0, 60, 0, 0, 0]) 9) wMod = .next u ∧ u.lantern.unlocked = true) ∧
      ∃ u, exec (.fleshaDebugUnlock 1 5 6 (wMsg 2 0x0040 [1, 0, 0, 0, 60, 0, 0, 0]) 9) wMod = .next u ∧ u.lantern.unlocked = false :=
  ⟨by decide, ⟨_, rfl, by decide +kernel⟩, ⟨_, rfl, by decide +kernel⟩⟩

theorem test_rank_witness :
    [(0x3F800000, 4), (0x40000000, 2)].Perm [(0x40000000, 2), (0x3F800000, 4)] ∧ ([(0x3F800000, 4), (0x40000000, 2)].map Prod.snd).Nodup ∧
      rankUnit 0 1 false [(0x3F800000, 4), (0x40000000, 2)] = rankUnit 0 1 false [(0x40000000, 2), (0x3F800000, 4)] := by decide +kernel

/-! ### The worked examples of the specification: every value on the right is the specification's -/

/-- spec/02, one activation block three ways: 3.25, -1.0, 0.703125 and 0.234375 to Y4i, INT8 and Y4. -/
theorem test_block_example :
    let xs : List Val := [.fin false 13 4, .fin true 1 1, .fin false 45 64, .fin false 15 64]
    convMeasured 5 xs = (0x2F, [7, 0xE, 2, 0]) ∧ convMeasured 4 xs = (0x0D, [127, 0xD9, 28, 9]) ∧ convMeasured 6 xs = (0x31, [7, 0xC, 2, 1]) := by
  decide +kernel

/-- spec/03, one row group, one column: popcounts, counts of planes 0 and 1, the group integer and the contribution. -/
theorem test_rowGroup_example :
    let xs : List Int := [3, -2, 1]
    let us := [13, 0, 15]
    (List.range 4).map (popPlane xs) = [2, 2, 1, 1] ∧ (List.range 4).map (idealCount xs us 0) = [2, 1, 2, 2] ∧
      (List.range 4).map (idealCount xs us 1) = [1, 0, 1, 1] ∧ (List.range 4).map (idealCount xs us 2) = [0, 0, 0, 0] ∧
      iGrp 5 54 2 = 38 ∧ contribution 5 38 0x28 0x2F = .num (285 * 2 ^ 34) := by decide +kernel

/-- spec/05, three partials of one output: the same word in two arrival orders, and its FP32 value. -/
theorem test_partials_example :
    let a : LaWord := { la := .num (2 ^ 60 + 2 ^ 20) }
    let b : LaWord := { la := .num (-(2 ^ 60)) }
    let c : LaWord := { la := .num (2 ^ 20), outl := true }
    (laEnter (laEnter a b).1 c).1 = { la := .num (2 ^ 21), outl := true } ∧ (laEnter (laEnter c a).1 b).1 = { la := .num (2 ^ 21), outl := true } ∧
      encFP32 (laToVal (.num (2 ^ 21))) = 0x36000000 ∧ laWordNat b = 0xFFFFFFFFFFF000000000000000 % 2 ^ 104 := by decide +kernel

/-- spec/05, one dot product in both orders. -/
theorem test_reduction_example :
    let ts := [0x3F80, 0x4B80, 0x3F80].map decBF16
    redNative 32 ts = 0x4B800001 ∧ redCompat 24 ts = 0x4B800000 := by decide +kernel

/-- spec/09, the modify message: side 'S', type 0x03, quantity 2,500 and price change -3 make token 5,923. -/
theorem test_token_example :
    let d : Dgram := { wDgram with payload := [0x03, 0x53, 0, 0, 0x09, 0xC4, 0xFF, 0xFF, 0xFF, 0xFD] }
    let tables : List EncTable :=
      [{ part := 3, index := 0, bin := false, width := 1, keys := [(0x42, 0), (0x53, 1)], dflt := 0, thresholds := [] },
       { part := 3, index := 1, bin := false, width := 1, keys := [(0x03, 3)], dflt := 0, thresholds := [] },
       { part := 3, index := 2, bin := true, width := 4, keys := [], dflt := 0, thresholds := [1, 2, 5, 10, 20, 50, 100, 200, 500, 1000, 2000, 5000, 10000, 20000, 50000] },
       { part := 3, index := 3, bin := true, width := 4, keys := [], dflt := 0, thresholds := [-256, -64, -16, -8, -4, -2, -1, 0, 1, 2, 4, 8, 16, 64, 256] }]
    let r : Rule := { wRule with tokenBase := 4096, vals := [⟨1, 1, true, false, false, 0, 2⟩, ⟨0, 1, true, false, false, 1, 10⟩,
      ⟨2, 4, true, false, true, 2, 16⟩, ⟨6, 4, true, true, true, 3, 16⟩] }
    tokenOf tables r d 0 = 5923 := by decide +kernel

/-- spec/11, the two tokens of the SCORE descriptor, and the completion entry. -/
theorem test_score_example :
    scoreTokens (List.replicate 24 0 ++ [2, 0, 0, 0, 0x23, 0x17, 0x90, 0x5C, 0x00] ++ List.replicate 31 0) = [5923, 5924] ∧
      complBytes (wHost fun f => { f with rings := [(0, { wRing with head := 1, phase := true })] }) 0
          { sq := 0, item := none, tag := 0x42, entry := 1177, position := 10003, score := 0x3E800000, count := 2, tCommit := 0x17E14C029A3B6D58 } =
        [0x42, 0x00, 0x00, 0x00, 0x99, 0x04, 0x00, 0x00, 0x01, 0x00, 0x00, 0x80, 0x13, 0x27, 0x00, 0x00, 0x00, 0x00, 0x80, 0x3E, 0x02, 0x00, 0x00, 0x00,
          0x58, 0x6D, 0x3B, 0x9A, 0x02, 0x4C, 0xE1, 0x17] := by decide +kernel

/-- spec/15, a sensor that drifts low: code 3,074 with ideality 1 is 40.9375 degrees. -/
theorem test_sensor_example : rawTemp 0 3074 = 655 := by decide +kernel

/-- The published check values of CRC-32 and CRC-32C over the digits 1 to 9, and SHA-384 of "abc" (FIPS 180-4), first 8 bytes. -/
theorem test_check_values :
    let digits : List Byte := [0x31, 0x32, 0x33, 0x34, 0x35, 0x36, 0x37, 0x38, 0x39]
    crc32 digits = 0xCBF43926#32 ∧ crc32c digits = 0xE3069283#32 ∧
      (sha384 [0x61, 0x62, 0x63]).take 8 = [0xCB, 0x00, 0x75, 0x3F, 0x45, 0xA3, 0x5E, 0x8B] := by decide +kernel

end
end

section
/-! SUPPORT. The frame of every command: the lemma `execX_keeps` of its meaning, at the footprint the statement names for it. -/

namespace Sys2Proof.Machine

/-- Every command has `Keeps` for its footprint: what its meaning changes, the footprint lists. -/
theorem exec_keeps {c : Instr} {s t : State} (e : exec c s = .next t) : Keeps (footprint c) s t := by
  cases c with
  | powerUp vin48mV jtagEn => exact execPowerUp_keeps vin48mV jtagEn e rfl
  | modEnFall => apply @execModEnFall_keeps _ _ _ e <;> rfl
  | vin48Undervoltage vin48mV => apply @execVin48Undervoltage_keeps _ _ _ vin48mV e <;> rfl
  | auxOutOfRange => apply @execAuxOutOfRange_keeps _ _ _ e <;> rfl
  | iin48Crossing mA => apply @execIin48Crossing_keeps _ _ _ mA e <;> rfl
  | moduleStart iod0SelfTest iod3SelfTest => apply @execModuleStart_keeps _ _ _ iod0SelfTest iod3SelfTest e <;> rfl
  | perstAssert port => apply @execPerstAssert_keeps _ _ _ port e <;> rfl
  | hostLinkLoss port => apply @execHostLinkLoss_keeps _ _ _ port e <;> rfl
  | hostLinkTrained port rate width => apply @execHostLinkTrained_keeps _ _ _ port rate width e <;> rfl
  | flr fn now => apply @execFlr_keeps _ _ _ fn now e <;> rfl
  | d3hotToD0 fn now => apply @execD3hotToD0_keeps _ _ _ fn now e <;> rfl
  | busMasterEnableWrite fn on msix => apply @execBusMasterEnableWrite_keeps _ _ _ fn on msix e <;> rfl
  | msixUnmask fn vec => apply @execMsixUnmask_keeps _ _ _ fn vec e <;> rfl
  | springTrigger now => apply @execSpringTrigger_keeps _ _ _ now e <;> rfl
  | refBufferOn die => exact execRefBufferOn_keeps die e rfl
  | hkSweepStepDone die sweep codes last => apply @execHkSweepStepDone_keeps _ _ _ die sweep codes last e <;> rfl
  | springReportMissed die => apply @execSpringReportMissed_keeps _ _ _ die e <;> rfl
  | springControl hotStacks now => apply @execSpringControl_keeps _ _ _ hotStacks now e <;> rfl
  | springTriggerTimeout die => exact execSpringTriggerTimeout_keeps die e rfl
  | selfTimedSweep die codes => apply @execSelfTimedSweep_keeps _ _ _ die codes e <;> rfl
  | mcHeartbeat now => apply @execMcHeartbeat_keeps _ _ _ now e <;> rfl
  | heartbeatMiss now => apply @execHeartbeatMiss_keeps _ _ _ now e <;> rfl
  | mcSelfFailReport now => apply @execMcSelfFailReport_keeps _ _ _ now e <;> rfl
  | watchdogTick now => apply @execWatchdogTick_keeps _ _ _ now e <;> rfl
  | troubleTest p now => apply @execTroubleTest_keeps _ _ _ p now e <;> rfl
  | noticeAck notice die now => apply @execNoticeAck_keeps _ _ _ notice die now e <;> rfl
  | noticeAckTimeout notice die now => apply @execNoticeAckTimeout_keeps _ _ _ notice die now e <;> rfl
  | logDrain => apply @execLogDrain_keeps _ _ _ e <;> rfl
  | coalesceIntervalEnd die now => apply @execCoalesceIntervalEnd_keeps _ _ _ die now e <;> rfl
  | fleshaEventSend sub => apply @execFleshaEventSend_keeps _ _ _ sub e <;> rfl
  | telemetrySend sub now => apply @execTelemetrySend_keeps _ _ _ sub now e <;> rfl
  | subscriptionLapse sub now => apply @execSubscriptionLapse_keeps _ _ _ sub now e <;> rfl
  | lanternExpiry now => apply @execLanternExpiry_keeps _ _ _ now e <;> rfl
  | faultWindowRoll now => apply @execFaultWindowRoll_keeps _ _ _ now e <;> rfl
  | cqCoalTimeout fn cq now => apply @execCqCoalTimeout_keeps _ _ _ fn cq now e <;> rfl
  | arbHoldExpiry iod ch now => apply @execArbHoldExpiry_keeps _ _ _ iod ch now e <;> rfl
  | tarnScrubRead t tarn row bits now => apply @execTarnScrubRead_keeps _ _ _ t tarn row bits now e <;> rfl
  | tarnRowRewrite t tarn row => exact execTarnRowRewrite_keeps t tarn row e rfl
  | dramPatrolRead stack ch ecc now => apply @execDramPatrolRead_keeps _ _ _ stack ch ecc now e <;> rfl
  | resPatrolRead stack model slot corrected uncorrectable now => apply @execResPatrolRead_keeps _ _ _ stack model slot corrected uncorrectable now e <;> rfl
  | tstatWindowClose t tarn col => exact execTstatWindowClose_keeps t tarn col e rfl
  | driftUpdate t tarn bank col now => apply @execDriftUpdate_keeps _ _ _ t tarn bank col now e <;> rfl
  | arrayDegraded p now => apply @execArrayDegraded_keeps _ _ _ p now e <;> rfl
  | arrayRecovered p now => apply @execArrayRecovered_keeps _ _ _ p now e <;> rfl
  | feedFrameRx port frame now => apply @execFeedFrameRx_keeps _ _ _ port frame now e <;> rfl
  | keyLookupDone iod now => apply @execKeyLookupDone_keeps _ _ _ iod now e <;> rfl
  | ingestDrain p iod now => apply @execIngestDrain_keeps _ _ _ p iod now e <;> rfl
  | feedLinkUp port now => apply @execFeedLinkUp_keeps _ _ _ port now e <;> rfl
  | feedLinkDown port now => apply @execFeedLinkDown_keeps _ _ _ port now e <;> rfl
  | alarmMsgTx port => apply @execAlarmMsgTx_keeps _ _ _ port e <;> rfl
  | arbResyncCmd iod value => exact execArbResyncCmd_keeps iod value e rfl
  | sqDoorbell fn n value now => apply @execSqDoorbell_keeps _ _ _ fn n value now e <;> rfl
  | cqHeadDoorbell fn n value now => apply @execCqHeadDoorbell_keeps _ _ _ fn n value now e <;> rfl
  | erHeadDoorbell fn value now => apply @execErHeadDoorbell_keeps _ _ _ fn value now e <;> rfl
  | fnQCtrlWrite fn value => apply @execFnQCtrlWrite_keeps _ _ _ fn value e <;> rfl
  | sqCtrlWrite fn n value => apply @execSqCtrlWrite_keeps _ _ _ fn n value e <;> rfl
  | cqCtrlWrite fn n value => apply @execCqCtrlWrite_keeps _ _ _ fn n value e <;> rfl
  | erCtrlWrite fn value => apply @execErCtrlWrite_keeps _ _ _ fn value e <;> rfl
  | queueBaseWrite fn off value => apply @execQueueBaseWrite_keeps _ _ _ fn off value e <;> rfl
  | fnCtrlPartReset fn value now => apply @execFnCtrlPartReset_keeps _ _ _ fn value now e <;> rfl
  | fnEvtClear fn value => exact execFnEvtClear_keeps fn value e rfl
  | sqFetch fn n desc now => apply @execSqFetch_keeps _ _ _ fn n desc now e <;> rfl
  | promptRead p entry words now => apply @execPromptRead_keeps _ _ _ p entry words now e <;> rfl
  | cqCompletionWrite fn now => apply @execCqCompletionWrite_keeps _ _ _ fn now e <;> rfl
  | evidenceRingWrite fn => apply @execEvidenceRingWrite_keeps _ _ _ fn e <;> rfl
  | nop t c => apply @execNop_keeps _ _ _ t c e <;> rfl
  | loop t c count body => apply @execLoop_keeps _ _ _ t c count body e <;> rfl
  | jump t c offset => apply @execJump_keeps _ _ _ t c offset e <;> rfl
  | stepEnd t c layer matrix => apply @execStepEnd_keeps _ _ _ t c layer matrix e <;> rfl
  | waitArr t c ctr k => apply @execWaitArr_keeps _ _ _ t c ctr k e <;> rfl
  | waitArrResume t c => apply @execWaitArrResume_keeps _ _ _ t c e <;> rfl
  | signal t c ctr target => apply @execSignal_keeps _ _ _ t c ctr target e <;> rfl
  | dmaGet t c slot off rows ctr epoch embed => apply @execDmaGet_keeps _ _ _ t c slot off rows ctr epoch embed e <;> rfl
  | dmaPut t c slot off rows ctr epoch kv => apply @execDmaPut_keeps _ _ _ t c slot off rows ctr epoch kv e <;> rfl
  | put t c slot tile rslot ctr e1 e2 => apply @execPut_keeps _ _ _ t c slot tile rslot ctr e1 e2 e <;> rfl
  | pull t c slot tile rslot ctr e1 e2 release => apply @execPull_keeps _ _ _ t c slot tile rslot ctr e1 e2 release e <;> rfl
  | pullServe t req merged coll => apply @execPullServe_keeps _ _ _ t req merged coll e <;> rfl
  | releaseArrive t slotBase rows epoch => apply @execReleaseArrive_keeps _ _ _ t slotBase rows epoch e <;> rfl
  | transferLanded xfer ecc coll now => apply @execTransferLanded_keeps _ _ _ xfer ecc coll now e <;> rfl
  | fill t c rows first value width epoch => apply @execFill_keeps _ _ _ t c rows first value width epoch e <;> rfl
  | copy t c rows src dst e1 e2 => apply @execCopy_keeps _ _ _ t c rows src dst e1 e2 e <;> rfl
  | quant t c src dst fmt scaleIdx supplied e1 e2 => apply @execQuant_keeps _ _ _ t c src dst fmt scaleIdx supplied e1 e2 e <;> rfl
  | tarnMvm t c slot set laBase add int8 epoch => apply @execTarnMvm_keeps _ _ _ t c slot set laBase add int8 epoch e <;> rfl
  | tarnRoundDone t tarn codes => apply @execTarnRoundDone_keeps _ _ _ t tarn codes e <;> rfl
  | ceExact t c opSet slot laBase terms add epoch => apply @execCeExact_keeps _ _ _ t c opSet slot laBase terms add epoch e <;> rfl
  | ceFp32 t c opSet slot laBase terms add epoch => apply @execCeFp32_keeps _ _ _ t c opSet slot laBase terms add epoch e <;> rfl
  | ceOutl t c opSet slot laBase terms add epoch => apply @execCeOutl_keeps _ _ _ t c opSet slot laBase terms add epoch e <;> rfl
  | combine t c recvBase contributors laBase ctr => apply @execCombine_keeps _ _ _ t c recvBase contributors laBase ctr e <;> rfl
  | round t c laBase dst fmt count epoch => apply @execRound_keeps _ _ _ t c laBase dst fmt count epoch e <;> rfl
  | vec t c src src2 dst op fmt strips e1 e2 => apply @execVec_keeps _ _ _ t c src src2 dst op fmt strips e1 e2 e <;> rfl
  | vecFn t c src dst fn fmt strips e1 e2 => apply @execVecFn_keeps _ _ _ t c src dst fn fmt strips e1 e2 e <;> rfl
  | vecRed t c src dst fmt strips e1 e2 => apply @execVecRed_keeps _ _ _ t c src dst fmt strips e1 e2 e <;> rfl
  | moments t c src dst fmt strips e1 e2 => apply @execMoments_keeps _ _ _ t c src dst fmt strips e1 e2 e <;> rfl
  | rank t c src posSlot dst fmt k minMode e1 e2 => apply @execRank_keeps _ _ _ t c src posSlot dst fmt k minMode e1 e2 e <;> rfl
  | aeIssue t c walk engine e1 e2 => apply @execAeIssue_keeps _ _ _ t c walk engine e1 e2 e <;> rfl
  | engineCompletion t engine finding coll now => apply @execEngineCompletion_keeps _ _ _ t engine finding coll now e <;> rfl
  | residueRepeatDone t unit index repeatOk thirdOk now => apply @execResidueRepeatDone_keeps _ _ _ t unit index repeatOk thirdOk now e <;> rfl
  | transientLimit die unit index now => apply @execTransientLimit_keeps _ _ _ die unit index now e <;> rfl
  | flitParityError die port stripe onDie resendOk now => apply @execFlitParityError_keeps _ _ _ die port stripe onDie resendOk now e <;> rfl
  | stripeDown die port stripe now => apply @execStripeDown_keeps _ _ _ die port stripe now e <;> rfl
  | twimerLinkDown die port now => apply @execTwimerLinkDown_keeps _ _ _ die port now e <;> rfl
  | contextSwitch t c corrected poisoned now => apply @execContextSwitch_keeps _ _ _ t c corrected poisoned now e <;> rfl
  | preempt t c corrected poisoned now => apply @execPreempt_keeps _ _ _ t c corrected poisoned now e <;> rfl
  | passOpen p now => apply @execPassOpen_keeps _ _ _ p now e <;> rfl
  | matrixOutputComplete p pass layer matrix outTile t laBase now => apply @execMatrixOutputComplete_keeps _ _ _ p pass layer matrix outTile t laBase now e <;> rfl
  | checkDone t shadowPoison now => apply @execCheckDone_keeps _ _ _ t shadowPoison now e <;> rfl
  | troubleNotice p pass layer gen outTile matrix now => apply @execTroubleNotice_keeps _ _ _ p pass layer gen outTile matrix now e <;> rfl
  | stepResolved p pass layer matrix gen t now => apply @execStepResolved_keeps _ _ _ p pass layer matrix gen t now e <;> rfl
  | walkAccept die engine now => apply @execWalkAccept_keeps _ _ _ die engine now e <;> rfl
  | walkEnd die engine idx poison now => apply @execWalkEnd_keeps _ _ _ die engine idx poison now e <;> rfl
  | passCommit p pass now => apply @execPassCommit_keeps _ _ _ p pass now e <;> rfl
  | specCut p entry => apply @execSpecCut_keeps _ _ _ p entry e <;> rfl
  | specProbe p entry => exact execSpecProbe_keeps p entry e rfl
  | confirmStart p now => apply @execConfirmStart_keeps _ _ _ p now e <;> rfl
  | confirmEnd p idx now => apply @execConfirmEnd_keeps _ _ _ p idx now e <;> rfl
  | alarmRelease p cand now => apply @execAlarmRelease_keeps _ _ _ p cand now e <;> rfl
  | entryFreed p entry now => apply @execEntryFreed_keeps _ _ _ p entry now e <;> rfl
  | editApply p entry now => apply @execEditApply_keeps _ _ _ p entry now e <;> rfl
  | install iss cmd header plain keyOk now => apply @execInstall_keeps _ _ _ iss cmd header plain keyOk now e <;> rfl
  | installChunk stack tagOk bytes now => apply @execInstallChunk_keeps _ _ _ stack tagOk bytes now e <;> rfl
  | activate iss cmd now => apply @execActivate_keeps _ _ _ iss cmd now e <;> rfl
  | erase iss cmd now => apply @execErase_keeps _ _ _ iss cmd now e <;> rfl
  | load iss cmd now => apply @execLoad_keeps _ _ _ iss cmd now e <;> rfl
  | imageChunkDecrypted stack tagOk now => apply @execImageChunkDecrypted_keeps _ _ _ stack tagOk now e <;> rfl
  | pvDone p slot layer failing again seeds now => apply @execPvDone_keeps _ _ _ p slot layer failing again seeds now e <;> rfl
  | unload iss cmd now => apply @execUnload_keeps _ _ _ iss cmd now e <;> rfl
  | swap iss cmd now => apply @execSwap_keeps _ _ _ iss cmd now e <;> rfl
  | weirClose p slot now => apply @execWeirClose_keeps _ _ _ p slot now e <;> rfl
  | weirDrainDone p slot now => apply @execWeirDrainDone_keeps _ _ _ p slot now e <;> rfl
  | weirRelease p slot now => apply @execWeirRelease_keeps _ _ _ p slot now e <;> rfl
  | variantLoad iss cmd now => apply @execVariantLoad_keeps _ _ _ iss cmd now e <;> rfl
  | variantUnload iss cmd now => apply @execVariantUnload_keeps _ _ _ iss cmd now e <;> rfl
  | abort iss cmd now => apply @execAbort_keeps _ _ _ iss cmd now e <;> rfl
  | tempWindowResume op now => apply @execTempWindowResume_keeps _ _ _ op now e <;> rfl
  | installTempTimeout stack now => apply @execInstallTempTimeout_keeps _ _ _ stack now e <;> rfl
  | installSessionTimeout stack now => apply @execInstallSessionTimeout_keeps _ _ _ stack now e <;> rfl
  | shadowRepair p slot chunk now => apply @execShadowRepair_keeps _ _ _ p slot chunk now e <;> rfl
  | partResetStart p cause now => apply @execPartResetStart_keeps _ _ _ p cause now e <;> rfl
  | partResetFinish p failedTarns us now => apply @execPartResetFinish_keeps _ _ _ p failedTarns us now e <;> rfl
  | ptReset req now => apply @execPtReset_keeps _ _ _ req now e <;> rfl
  | ptFence req now => apply @execPtFence_keeps _ _ _ req now e <;> rfl
  | fmComputeRetire req die transitOk now => apply @execFmComputeRetire_keeps _ _ _ req die transitOk now e <;> rfl
  | fmDarkRetire req die now => apply @execFmDarkRetire_keeps _ _ _ req die now e <;> rfl
  | fmRetireChannel req stack ch now => apply @execFmRetireChannel_keeps _ _ _ req stack ch now e <;> rfl
  | dieRetire die reason transitOk now => apply @execDieRetire_keeps _ _ _ die reason transitOk now e <;> rfl
  | channelRetire stack ch now => apply @execChannelRetire_keeps _ _ _ stack ch now e <;> rfl
  | relocation p now => apply @execRelocation_keeps _ _ _ p now e <;> rfl
  | relocationRetry p now => apply @execRelocationRetry_keeps _ _ _ p now e <;> rfl
  | partRestart src p now => apply @execPartRestart_keeps _ _ _ src p now e <;> rfl
  | ownersReload src now => apply @execOwnersReload_keeps _ _ _ src now e <;> rfl
  | moduleRestart src now => apply @execModuleRestart_keeps _ _ _ src now e <;> rfl
  | cfgWrite req image now => apply @execCfgWrite_keeps _ _ _ req image now e <;> rfl
  | cfgFlashWriteDone readback now => apply @execCfgFlashWriteDone_keeps _ _ _ readback now e <;> rfl
  | fleshaSubscribe port addr udp msg now => apply @execFleshaSubscribe_keeps _ _ _ port addr udp msg now e <;> rfl
  | fleshaRead port addr udp msg now => apply @execFleshaRead_keeps _ _ _ port addr udp msg now e <;> rfl
  | fleshaWrite port addr udp msg now => apply @execFleshaWrite_keeps _ _ _ port addr udp msg now e <;> rfl
  | fleshaImageData port addr udp msg tagOk now => apply @execFleshaImageData_keeps _ _ _ port addr udp msg tagOk now e <;> rfl
  | fleshaCfgData port addr udp msg now => apply @execFleshaCfgData_keeps _ _ _ port addr udp msg now e <;> rfl
  | fleshaTime port addr udp msg now => apply @execFleshaTime_keeps _ _ _ port addr udp msg now e <;> rfl
  | fleshaResync port addr udp msg now => apply @execFleshaResync_keeps _ _ _ port addr udp msg now e <;> rfl
  | fleshaDebugUnlock port addr udp msg now => apply @execFleshaDebugUnlock_keeps _ _ _ port addr udp msg now e <;> rfl
  | fleshaDebugLock port addr udp msg now => apply @execFleshaDebugLock_keeps _ _ _ port addr udp msg now e <;> rfl
  | fleshaFailover port addr udp msg now => apply @execFleshaFailover_keeps _ _ _ port addr udp msg now e <;> rfl
  | fleshaLogRead port addr udp msg now => apply @execFleshaLogRead_keeps _ _ _ port addr udp msg now e <;> rfl
  | sbStatus iod => exact execSbStatus_keeps iod e rfl
  | sbRead iod body => apply @execSbRead_keeps _ _ _ iod body e <;> rfl
  | sbWrite iod body now => apply @execSbWrite_keeps _ _ _ iod body now e <;> rfl
  | sbCfgData iod body now => apply @execSbCfgData_keeps _ _ _ iod body now e <;> rfl
  | sbTime iod body now => apply @execSbTime_keeps _ _ _ iod body now e <;> rfl
  | ltnLock req value now => apply @execLtnLock_keeps _ _ _ req value now e <;> rfl
  | lanternSelWrite req addr value => apply @execLanternSelWrite_keeps _ _ _ req addr value e <;> rfl
  | hkSwTrig die value now => apply @execHkSwTrig_keeps _ _ _ die value now e <;> rfl
  | tstatSelect t off value => exact execTstatSelect_keeps t off value e rfl
  | tstatClear t value => exact execTstatClear_keeps t value e rfl
  | rcRead req addr => apply @execRcRead_keeps _ _ _ req addr e <;> rfl
  | lowWordRead req addr => apply @execLowWordRead_keeps _ _ _ req addr e <;> rfl
  | regWrite req addr value be => apply @execRegWrite_keeps _ _ _ req addr value be e <;> rfl
  | bar2Access fn off data len => apply @execBar2Access_keeps _ _ _ fn off data len e <;> rfl
  | hostBatchCommandRead fn bytes now => apply @execHostBatchCommandRead_keeps _ _ _ fn bytes now e <;> rfl
  | auxInRange => exact execAuxInRange_keeps e rfl
  | boundaryScanCycle trst tms tdi irs => apply @execBoundaryScanCycle_keeps _ _ _ trst tms tdi irs e <;> rfl

/-- Settles O4: the frame is a part of `Keeps`, which every command has for its footprint. -/
theorem commandsKeepTheirFootprint : Obligations.CommandsKeepTheirFootprint := by
  unfold Obligations.CommandsKeepTheirFootprint
  intro c s t e
  have k := exec_keeps e
  exact ⟨k.module, k.pending, k.sent, k.taken, k.outside⟩

end Sys2Proof.Machine
end

section
/-! SUPPORT. Bits of numbers: what taking set bits away leaves. -/

namespace Sys2Proof

theorem bitOf_eq_testBit (n i : Nat) : bitOf n i = n.testBit i := by
  rw [Nat.testBit_eq_decide_div_mod_eq]; simp [bitOf, beq_eq_decide]

/-- Taking away the bits that `n` shares with `m` leaves those of `n` alone. -/
theorem testBit_sub_and (n m i : Nat) : (n - (n &&& m)).testBit i = (n.testBit i && !m.testBit i) := by
  have hle : n &&& m ≤ n := Nat.and_le_left
  have hmod : (n &&& m) % 2 = 1 ↔ n % 2 = 1 ∧ m % 2 = 1 := Nat.and_mod_two_eq_one
  induction i generalizing n m with
  | zero =>
    have : (n - (n &&& m)) % 2 = 1 ↔ n % 2 = 1 ∧ ¬ m % 2 = 1 := by omega
    simp only [Nat.testBit_zero, this, Bool.decide_and, decide_not]
  | succ i ih =>
    have half : (n - (n &&& m)) / 2 = n / 2 - (n / 2 &&& m / 2) := by rw [← Nat.and_div_two]; omega
    rw [Nat.testBit_succ, Nat.testBit_succ, Nat.testBit_succ, half]
    exact ih _ _ Nat.and_le_left Nat.and_mod_two_eq_one

theorem bitOf_sub_and (n m i : Nat) : bitOf (n - (n &&& m)) i = (bitOf n i && !bitOf m i) := by
  simp only [bitOf_eq_testBit, testBit_sub_and]

/-- A bit that is set is taken away, and no other. -/
theorem bitOf_sub_two_pow {n v : Nat} (h : bitOf n v = true) (i : Nat) :
    bitOf (n - 2 ^ v) i = (bitOf n i && !decide (v = i)) := by
  have hv : n &&& 2 ^ v = 2 ^ v := by rw [Nat.and_two_pow, ← bitOf_eq_testBit, h]; simp
  rw [← hv, bitOf_sub_and]
  simp only [bitOf_eq_testBit, Nat.testBit_two_pow]

/-- Distinct bits that are set are taken away one after the other. -/
theorem bitOf_foldl_sub {vs : List Nat} (hd : vs.Nodup) : ∀ {n : Nat}, (∀ v ∈ vs, bitOf n v = true) → ∀ i,
    bitOf (vs.foldl (fun n v => n - 2 ^ v) n) i = (bitOf n i && !decide (i ∈ vs)) := by
  induction vs with
  | nil => intros; simp
  | cons v vs ih =>
    intro n h i
    obtain ⟨hv, hd⟩ := List.nodup_cons.mp hd
    have h0 := bitOf_sub_two_pow (h v (by simp))
    have rest : ∀ w ∈ vs, bitOf (n - 2 ^ v) w = true := by
      intro w hw
      have : v ≠ w := by rintro rfl; exact hv hw
      simp [h0, this, h w (by simp [hw])]
    rw [List.foldl_cons, ih hd rest, h0]
    simp [Bool.and_assoc, eq_comm]

theorem bitOf_mod_two_pow (n k i : Nat) : bitOf (n % 2 ^ k) i = (decide (i < k) && bitOf n i) := by
  simp only [bitOf_eq_testBit, Nat.testBit_mod_two_pow]

end Sys2Proof
end

section
/-! SUPPORT. What the interrupts and completion rings of a function do: the rules of R383 to R395, one lemma per operation. -/

namespace Sys2Proof.Machine

variable {s : State} {fn n : Nat}

/-- A command whose operands name sites of the series answers its state. -/
theorem guarded_ok {ok : Bool} (h : ok = true) (s : State) : guarded ok s = .next s := by rw [guarded, if_pos h]

/-! ### Rings and messages -/

theorem ring_modRing_self (s : State) (fn n : Nat) (f : Ring → Ring) : (s.modRing fn n f).ring fn n = f (s.ring fn n) := by
  unfold State.ring State.modRing; rw [State.modFn_fnOf_self]; exact tget_tmod_self _ n f

theorem modRing_fnOf_self (s : State) (fn n : Nat) (f : Ring → Ring) :
    (s.modRing fn n f).fnOf fn = { s.fnOf fn with rings := tmod {} (s.fnOf fn).rings n f } := State.modFn_fnOf_self _ _ _

@[simp] theorem modRing_out (s : State) (fn n : Nat) (f : Ring → Ring) : (s.modRing fn n f).out = s.out := rfl

/-- Messages sent one after the other stand behind what was sent before. -/
theorem foldl_emit {α : Type} (g : α → OutMsg) (l : List α) (s : State) :
    l.foldl (fun s x => s.emit (g x)) s = { s with out := s.out ++ l.map g } := by
  induction l generalizing s with
  | nil => simp
  | cons x l ih => rw [List.foldl_cons, ih]; simp [State.emit]

theorem complData_eq (s : State) (fn : Nat) (c : Compl) :
    complData s fn c = { s with out := s.out ++ c.data.map fun w => .hostWrite fn w.1 w.2 } := foldl_emit _ _ _

theorem complData_out (s : State) (fn : Nat) (c : Compl) :
    (complData s fn c).out = s.out ++ c.data.map fun w => .hostWrite fn w.1 w.2 := by rw [complData_eq]

theorem complData_fnOf (s : State) (fn : Nat) (c : Compl) (k : Nat) : (complData s fn c).fnOf k = s.fnOf k := by
  rw [complData_eq]; rfl

theorem complData_now (s : State) (fn : Nat) (c : Compl) : (complData s fn c).now = s.now := by rw [complData_eq]; rfl

/-! ### Raising a vector (R391) -/

/-- Raising a vector changes nothing of the function but its pending bits. -/
theorem raiseVec_fnOf (s : State) (fn vec : Nat) : ∃ b, (raiseVec s fn vec).fnOf fn = { s.fnOf fn with pba := b } := by
  unfold raiseVec
  dsimp only
  split_ifs
  · exact ⟨_, rfl⟩
  · exact ⟨_, State.modFn_fnOf_self _ _ _⟩
  · exact ⟨_, rfl⟩

/-- Raising a vector sends that vector or nothing. -/
theorem raiseVec_out (s : State) (fn vec : Nat) : ∃ rest, (raiseVec s fn vec).out = s.out ++ rest ∧ ∀ m ∈ rest, m = .msix fn vec := by
  unfold raiseVec
  dsimp only
  split_ifs
  · exact ⟨[], by simp⟩
  · exact ⟨[], by simp⟩
  · exact ⟨[.msix fn vec], by simp⟩

theorem raiseVec_ring (s : State) (fn vec n : Nat) : (raiseVec s fn vec).ring fn n = s.ring fn n := by
  obtain ⟨b, hb⟩ := raiseVec_fnOf s fn vec
  unfold State.ring; rw [hb]

theorem raiseVec_buffer (s : State) (fn vec : Nat) : ((raiseVec s fn vec).fnOf fn).buffer = (s.fnOf fn).buffer := by
  obtain ⟨b, hb⟩ := raiseVec_fnOf s fn vec
  rw [hb]

theorem raiseVec_sends {vec : Nat} (hen : (s.fnOf fn).msixEn = true) (hm : (tget (0, 0, true) (s.fnOf fn).msix vec).2.2 = false)
    (hi : fnIssues s fn = true) : raiseVec s fn vec = s.emit (.msix fn vec) := by simp [raiseVec, hen, hm, hi]

theorem raiseVec_masked {vec : Nat} (hen : (s.fnOf fn).msixEn = true) (hm : (tget (0, 0, true) (s.fnOf fn).msix vec).2.2 = true) :
    raiseVec s fn vec = s.modFn fn fun f => { f with pba := f.pba ||| 2 ^ vec } := by simp [raiseVec, hen, hm]

/-! ### Completion rings (R384, R385, R391) -/

/-- A signal of a completion ring counts its entries as signalled. -/
theorem cqSignal_ring (s : State) (fn n : Nat) : (cqSignal s fn n).ring fn n = { s.ring fn n with unsignalled := 0 } := by
  unfold cqSignal; rw [raiseVec_ring, ring_modRing_self]

/-- The ring after an entry has been written at TAIL, before its interrupt. -/
def ringAdvanced (now : Nat) (r : Ring) : Ring :=
  { r with
    cqTail := (r.cqTail + 1) % 2 ^ r.cqSize
    phase := if (r.cqTail + 1) % 2 ^ r.cqSize = 0 then !r.phase else r.phase
    unsignalled := r.unsignalled + 1
    oldest := if r.unsignalled = 0 then now else r.oldest }

/-- The entry just written is signalled at once where COAL_COUNT entries are unsignalled, and waits otherwise. -/
theorem cqAdvance_eq (s : State) (fn n : Nat) (hen : (s.ring fn n).cqEn = true) :
    cqAdvance s fn n =
      if Nat.max 1 (s.ring fn n).coalCount ≤ (s.ring fn n).unsignalled + 1
      then cqSignal (s.modRing fn n (ringAdvanced s.now)) fn n else s.modRing fn n (ringAdvanced s.now) := by
  have h : cqAdvance s fn n = cqCount (s.modRing fn n (ringAdvanced s.now)) fn n := rfl
  rw [h, cqCount, ring_modRing_self]
  simp [ringAdvanced, hen]

theorem cqAdvance_ring (s : State) (fn n : Nat) (hen : (s.ring fn n).cqEn = true) :
    (cqAdvance s fn n).ring fn n = { ringAdvanced s.now (s.ring fn n) with
      unsignalled := if Nat.max 1 (s.ring fn n).coalCount ≤ (s.ring fn n).unsignalled + 1 then 0 else (s.ring fn n).unsignalled + 1 } := by
  rw [cqAdvance_eq s fn n hen]
  split_ifs
  · rw [cqSignal_ring, ring_modRing_self]
  · rw [ring_modRing_self]; rfl

theorem cqAdvance_buffer (s : State) (fn n : Nat) (hen : (s.ring fn n).cqEn = true) :
    ((cqAdvance s fn n).fnOf fn).buffer = (s.fnOf fn).buffer := by
  rw [cqAdvance_eq s fn n hen]
  split_ifs
  · rw [cqSignal, raiseVec_buffer, modRing_fnOf_self, modRing_fnOf_self]
  · rw [modRing_fnOf_self]

theorem cqAdvance_out (s : State) (fn n : Nat) (hen : (s.ring fn n).cqEn = true) :
    ∃ rest, (cqAdvance s fn n).out = s.out ++ rest ∧ ∀ m ∈ rest, m = .msix fn (s.ring fn n).vector := by
  rw [cqAdvance_eq s fn n hen]
  split_ifs
  · rw [cqSignal, ring_modRing_self]; exact raiseVec_out _ _ _
  · exact ⟨[], by simp⟩

/-! ### Pending interrupts (R391, R395) -/

/-- The vectors of a function that are pending and unmasked, in ascending order. -/
def sendable (f : Fn) : List Nat := (List.range 64).filter fun v => bitOf f.pba v && !(tget (0, 0, true) f.msix v).2.2

theorem mem_sendable (f : Fn) (v : Nat) :
    v ∈ sendable f ↔ v < 64 ∧ bitOf f.pba v = true ∧ (tget (0, 0, true) f.msix v).2.2 = false := by
  simp [sendable]

theorem sendable_nodup (f : Fn) : (sendable f).Nodup := List.nodup_range.filter _

/-- Sending vectors clears their pending bits and changes nothing else of the function. -/
theorem foldl_sendVec (fn : Nat) (vs : List Nat) : ∀ (s : State),
    let u := vs.foldl (fun s v => (s.modFn fn fun f => { f with pba := f.pba - 2 ^ v }).emit (.msix fn v)) s
    u.fnOf fn = { s.fnOf fn with pba := vs.foldl (fun p v => p - 2 ^ v) (s.fnOf fn).pba } ∧ u.out = s.out ++ vs.map fun v => .msix fn v := by
  induction vs with
  | nil => intro s; simp
  | cons v vs ih =>
    intro s
    obtain ⟨hf, ho⟩ := ih ((s.modFn fn fun f => { f with pba := f.pba - 2 ^ v }).emit (.msix fn v))
    simp only [List.foldl_cons]
    rw [hf, ho]
    simp

theorem flushMsix_idle (h : ((s.fnOf fn).msixEn && fnIssues s fn) = false) : flushMsix s fn = s := by
  unfold flushMsix
  rw [if_pos (by revert h; cases (s.fnOf fn).msixEn <;> simp)]

/-- A function that can send sends what is pending and unmasked. -/
theorem flushMsix_sends (hen : (s.fnOf fn).msixEn = true) (hi : fnIssues s fn = true) :
    ∃ b, (flushMsix s fn).fnOf fn = { s.fnOf fn with pba := b } ∧
      (flushMsix s fn).out = s.out ++ (sendable (s.fnOf fn)).map (fun v => .msix fn v) ∧
      ∀ k, bitOf b k = (bitOf (s.fnOf fn).pba k && !decide (k ∈ sendable (s.fnOf fn))) := by
  have h : flushMsix s fn =
      (sendable (s.fnOf fn)).foldl (fun s v => (s.modFn fn fun f => { f with pba := f.pba - 2 ^ v }).emit (.msix fn v)) s := by
    simp [flushMsix, hen, hi, sendable]
  obtain ⟨hf, ho⟩ := foldl_sendVec fn (sendable (s.fnOf fn)) s
  rw [h]
  exact ⟨_, hf, ho, bitOf_foldl_sub (sendable_nodup _) fun v hv => ((mem_sendable _ v).mp hv).2.1⟩

end Sys2Proof.Machine
end

section
/-! SUPPORT. Completions and interrupts of the host functions (O41), command by command. -/

namespace Sys2Proof.Machine

variable {s : State} {fn n : Nat}

theorem complReady_cqEn {c : Compl} (h : complReady s fn c = true) : (s.ring fn c.sq).cqEn = true := by
  simp only [complReady, cqRuns, Bool.and_eq_true] at h
  exact h.1.1.1.1

theorem exec_cqCompletionWrite (hfn : fn < 64) (now : Nat) (s : State) :
    exec (.cqCompletionWrite fn now) s = .next (postCompl (s.setNow now) fn) := guarded_ok (by simpa [instrWellFormed, okFn] using hfn) _

/-- Where no buffered completion can be posted, nothing is. -/
theorem postCompl_none (h : ∀ c ∈ (s.fnOf fn).buffer, complReady s fn c = false) : postCompl s fn = s := by
  have : (s.fnOf fn).buffer.find? (complReady s fn) = none := by simpa [List.find?_eq_none] using h
  simp [postCompl, this]

/-- What posting a completion changes of its function: it leaves the buffer, and an item that ends no longer stands out (R386). -/
def fnPosted (s : State) (fn : Nat) (c : Compl) (f : Fn) : Fn :=
  { f with
    buffer := removeFirst (complReady s fn) f.buffer
    outstanding := if c.progress then f.outstanding else f.outstanding - 1 }

/-- The state in which the entry of a posted completion is written: its data has been. -/
def dataWritten (s : State) (fn : Nat) (c : Compl) : State := complData (s.modFn fn (fnPosted s fn c)) fn c

theorem dataWritten_fnOf (s : State) (fn : Nat) (c : Compl) : (dataWritten s fn c).fnOf fn = fnPosted s fn c (s.fnOf fn) := by
  rw [dataWritten, complData_fnOf, State.modFn_fnOf_self]

theorem dataWritten_ring (s : State) (fn n : Nat) (c : Compl) : (dataWritten s fn c).ring fn n = s.ring fn n := by
  unfold State.ring; rw [dataWritten_fnOf]; rfl

theorem dataWritten_now (s : State) (fn : Nat) (c : Compl) : (dataWritten s fn c).now = s.now := by
  rw [dataWritten, complData_now]; rfl

theorem dataWritten_complBytes (s : State) (fn : Nat) (c : Compl) : complBytes (dataWritten s fn c) fn c = complBytes s fn c := by
  unfold complBytes; rw [dataWritten_ring, dataWritten_now]

/-- A completion that is no quiet success: its data, its entry at TAIL, and the advance of its ring. -/
theorem postCompl_some {c : Compl} (h : (s.fnOf fn).buffer.find? (complReady s fn) = some c) (hq : complSilent c = false) :
    postCompl s fn = cqAdvance ((dataWritten s fn c).emit
      (.hostWrite fn ((s.ring fn c.sq).cqBase + 32 * (s.ring fn c.sq).cqTail) (complBytes s fn c))) fn c.sq := by
  rw [← dataWritten_complBytes, ← dataWritten_ring]
  simp only [postCompl, h, hq, Bool.false_eq_true, if_false]
  rfl

/-- R383 to R385, R391: the data of the completion, its entry at TAIL, and at most the vector of its ring. -/
theorem postCompl_posts {c : Compl} (h : (s.fnOf fn).buffer.find? (complReady s fn) = some c) (hq : complSilent c = false) :
    let r := s.ring fn c.sq
    let u := postCompl s fn
    (u.fnOf fn).buffer = removeFirst (complReady s fn) (s.fnOf fn).buffer ∧
    (∃ rest, u.out = s.out ++ c.data.map (fun w => .hostWrite fn w.1 w.2) ++
      [.hostWrite fn (r.cqBase + 32 * r.cqTail) (complBytes s fn c)] ++ rest ∧ ∀ m ∈ rest, m = .msix fn r.vector) ∧
    u.ring fn c.sq = { ringAdvanced s.now r with
      unsignalled := if Nat.max 1 r.coalCount ≤ r.unsignalled + 1 then 0 else r.unsignalled + 1 } := by
  intro r u
  let w := (dataWritten s fn c).emit (.hostWrite fn (r.cqBase + 32 * r.cqTail) (complBytes s fn c))
  have hw : w.ring fn c.sq = r := dataWritten_ring s fn c.sq c
  have hnow : w.now = s.now := dataWritten_now s fn c
  have hen : (w.ring fn c.sq).cqEn = true := by rw [hw]; exact complReady_cqEn (List.find?_some h)
  have hu : u = cqAdvance w fn c.sq := postCompl_some h hq
  rw [hu]
  refine ⟨?_, ?_, ?_⟩
  · rw [cqAdvance_buffer w fn c.sq hen, State.emit_fnOf', dataWritten_fnOf]; rfl
  · obtain ⟨rest, ho, hm⟩ := cqAdvance_out w fn c.sq hen
    exact ⟨rest, by rw [ho, State.emit_out, dataWritten, complData_out]; rfl, fun m hmem => by rw [hm m hmem, hw]⟩
  · rw [cqAdvance_ring w fn c.sq hen, hw, hnow]

theorem exec_cqCoalTimeout (hfn : fn < 64) (hn : n < 4) (now : Nat) (s : State) :
    exec (.cqCoalTimeout fn n now) s = .next
      (if (s.ring fn n).unsignalled = 0 ∨ (s.ring fn n).coalUs = 0 ∨ (s.setNow now).now < (s.ring fn n).oldest + 1000 * (s.ring fn n).coalUs
       then s.setNow now else cqSignal (s.setNow now) fn n) :=
  guarded_ok (by simp [instrWellFormed, okFn, okQueue, hfn, hn]) _

/-- R391: what a signal of a ring sends, or leaves pending. -/
theorem cqSignal_vector (hen : (s.fnOf fn).msixEn = true) :
    ((tget (0, 0, true) (s.fnOf fn).msix (s.ring fn n).vector).2.2 = false → fnIssues s fn = true →
      (cqSignal s fn n).out = s.out ++ [.msix fn (s.ring fn n).vector]) ∧
    ((tget (0, 0, true) (s.fnOf fn).msix (s.ring fn n).vector).2.2 = true →
      (cqSignal s fn n).out = s.out ∧ ((cqSignal s fn n).fnOf fn).pba = (s.fnOf fn).pba ||| 2 ^ (s.ring fn n).vector) := by
  have hf := modRing_fnOf_self s fn n fun r => { r with unsignalled := 0 }
  have hi : fnIssues (s.modRing fn n fun r => { r with unsignalled := 0 }) fn = fnIssues s fn := by unfold fnIssues; rw [hf]; rfl
  constructor
  · intro hm hs
    rw [cqSignal, raiseVec_sends (by rw [hf]; exact hen) (by rw [hf]; exact hm) (hi.trans hs)]
    simp
  · intro hm
    rw [cqSignal, raiseVec_masked (by rw [hf]; exact hen) (by rw [hf]; exact hm)]
    simp [hf]

theorem exec_busMasterEnableWrite (hfn : fn < 64) (on msix : Bool) (hp : (s.fnOf fn).presented = true)
    (hu : (s.hport (fnPort fn)).up = true) :
    exec (.busMasterEnableWrite fn on msix) s = .next (flushMsix (s.modFn fn fun f => { f with bme := on, msixEn := msix }) fn) := by
  have h : exec (.busMasterEnableWrite fn on msix) s = .next
      (if (s.fnOf fn).presented && (s.hport (fnPort fn)).up then flushMsix (s.modFn fn fun f => { f with bme := on, msixEn := msix }) fn
       else s) := guarded_ok (by simpa [instrWellFormed, okFn] using hfn) _
  rw [h, hp, hu]; rfl

theorem exec_msixUnmask (hfn : fn < 64) {vec : Nat} (hv : vec < 64) (s : State) :
    exec (.msixUnmask fn vec) s = .next
      (flushMsix (s.modFn fn fun f => { f with msix := tmod (0, 0, true) f.msix vec fun e => (e.1, e.2.1, false) }) fn) :=
  guarded_ok (by simp [instrWellFormed, okFn, okVec, hfn, hv]) _

theorem exec_fnEvtClear (hfn : fn < 64) (value : Nat) (s : State) : exec (.fnEvtClear fn value) s = .next (evtClear s fn value) :=
  guarded_ok (by simpa [instrWellFormed, okFn] using hfn) _

theorem evtClear_fnOf (s : State) (fn value : Nat) :
    (evtClear s fn value).fnOf fn = { s.fnOf fn with evt := (s.fnOf fn).evt - ((s.fnOf fn).evt &&& (value % 128)) } :=
  State.modFn_fnOf_self _ _ _

theorem fnIssues_modFn (s : State) (fn : Nat) (f : Fn → Fn) : fnIssues (s.modFn fn f) fn = ((s.hport (fnPort fn)).up && (f (s.fnOf fn)).bme) := by
  simp [fnIssues]

/-- Settles O41, command by command. -/
theorem completionsAndInterrupts : Obligations.CompletionsAndInterrupts := by
  unfold Obligations.CompletionsAndInterrupts
  refine ⟨fun s fn now hfn => ⟨fun c hc hq => ?_, fun h => ?_, fun n hn => ⟨fun h0 h1 h2 hen => ?_, fun h => ?_⟩⟩,
    fun s fn hfn => ⟨fun on msix hp hu => ?_, fun vec hv => ?_, fun value => ?_⟩⟩
  · -- a completion that can be posted
    obtain ⟨hb, ⟨rest, ho, hm⟩, hr⟩ := postCompl_posts (s := s.setNow now) (fn := fn) (c := c) hc hq
    exact ⟨_, rest, exec_cqCompletionWrite hfn now s, hb, ho, hm, by rw [hr]; rfl, by rw [hr]; rfl, by rw [hr]; rfl⟩
  · -- no completion that can be posted
    rw [exec_cqCompletionWrite hfn, postCompl_none (s := s.setNow now) h]
  · -- COAL_US have passed
    have hv := cqSignal_vector (s := s.setNow now) (fn := fn) (n := n) hen
    refine ⟨_, ?_, cqSignal_ring (s.setNow now) fn n, hv⟩
    rw [exec_cqCoalTimeout hfn hn, if_neg (by simp only [not_or]; exact ⟨h0, h1, by omega⟩)]
  · -- COAL_US have not passed
    rw [exec_cqCoalTimeout hfn hn, if_pos (.inr (.inr h))]
  · -- Bus Master Enable and MSI-X Enable
    rw [exec_busMasterEnableWrite hfn on msix hp hu]
    have hi := fnIssues_modFn s fn fun f => { f with bme := on, msixEn := msix }
    have hf := State.modFn_fnOf_self s fn fun f => { f with bme := on, msixEn := msix }
    cases hb : on && msix with
    | true =>
      obtain ⟨hon, hms⟩ := (Bool.and_eq_true _ _).mp hb
      obtain ⟨b, hfb, ho, hbits⟩ := flushMsix_sends (s := s.modFn fn fun f => { f with bme := on, msixEn := msix }) (fn := fn)
        (by rw [hf]; exact hms) (by rw [hi, hu]; exact hon)
      rw [hf] at hfb ho hbits
      refine ⟨_, rfl, by rw [hfb], by rw [hfb], fun _ => ⟨ho, fun k hk => ?_⟩, fun h => absurd h (by decide)⟩
      rw [hfb, hbits]
      simp only [mem_sendable, hk, true_and]
      cases bitOf (s.fnOf fn).pba k <;> simp
    | false =>
      rw [flushMsix_idle (by rw [hf, hi, hu, Bool.true_and, Bool.and_comm]; exact hb)]
      exact ⟨_, rfl, by rw [hf], by rw [hf], fun h => absurd h (by decide), fun _ => ⟨rfl, by rw [hf]⟩⟩
  · -- a mask bit clears
    rw [exec_msixUnmask hfn hv]
    let unmask : Fn → Fn := fun f => { f with msix := tmod (0, 0, true) f.msix vec fun e => (e.1, e.2.1, false) }
    have hf := State.modFn_fnOf_self s fn unmask
    have hi : fnIssues (s.modFn fn unmask) fn = fnIssues s fn := fnIssues_modFn s fn unmask
    have hmask : (tget (0, 0, true) (unmask (s.fnOf fn)).msix vec).2.2 = false := by simp [unmask]
    cases hb : (s.fnOf fn).msixEn && fnIssues s fn with
    | true =>
      obtain ⟨hen, his⟩ := (Bool.and_eq_true _ _).mp hb
      obtain ⟨b, hfb, ho, hbits⟩ := flushMsix_sends (s := s.modFn fn unmask) (fn := fn) (by rw [hf]; exact hen) (hi.trans his)
      rw [hf] at hfb ho hbits
      refine ⟨_, rfl, by rw [hfb]; exact hmask, fun _ _ => ⟨fun hp => ?_, ?_⟩, fun h => absurd (h.symm.trans his) (by decide)⟩
      · rw [ho]
        exact List.mem_append_right _ (List.mem_map_of_mem ((mem_sendable _ vec).mpr ⟨hv, hp, hmask⟩))
      · rw [hfb, hbits]
        simp only [mem_sendable, hv, hmask, true_and, and_true]
        show (bitOf (s.fnOf fn).pba vec && !decide (bitOf (s.fnOf fn).pba vec = true)) = false
        cases bitOf (s.fnOf fn).pba vec <;> rfl
    | false =>
      rw [flushMsix_idle (by rw [hf, hi]; exact hb)]
      exact ⟨_, rfl, by rw [hf]; exact hmask, fun h1 h2 => absurd (hb.symm.trans (by rw [h1, h2])) (by decide),
        fun _ => ⟨rfl, by rw [hf]⟩⟩
  · -- FN_EVT
    refine ⟨_, exec_fnEvtClear hfn value s, by rw [evtClear_fnOf], fun b => ?_⟩
    rw [evtClear_fnOf]
    exact (bitOf_sub_and _ _ _).trans (by rw [show (128 : Nat) = 2 ^ 7 from rfl, bitOf_mod_two_pow])

end Sys2Proof.Machine
end

section
/-! SUPPORT. Flesha commands: acceptance (R473), the response (R474), and the row that a COMMAND reaches. -/

namespace Sys2Proof.Machine

variable {s : State} {port addr udp now op : Nat} {msg : List Byte} {c : FlCmd}

/-! ### Owners and responses -/

/-- A change of an owner that keeps its id changes what is found under that id. -/
theorem ownerOf_modOwner_self (s : State) (o : Nat) (f : Owner → Owner) (hf : ∀ x, (f x).id = x.id) :
    ownerOf (modOwner s o f) o = (ownerOf s o).map f := by
  unfold ownerOf modOwner
  simp only [List.find?_map]
  have hp : (fun x : Owner => x.id == o) ∘ (fun x => if x.id == o then f x else x) = fun x => x.id == o := by
    funext x
    by_cases h : x.id = o <;> simp [h, hf]
  rw [hp]
  refine Option.map_congr fun x hx => ?_
  rw [if_pos (List.find?_some (p := fun x : Owner => x.id == o) hx)]

/-- A response of a known owner is one message, and counts on its SEQ. -/
theorem fleshaReply_eq (r : Reply) (status : Nat) (body : List Byte) {o : Owner} (h : ownerOf s r.owner = some o) :
    fleshaReply s r status body = (modOwner s r.owner fun x => { x with outSeq := o.outSeq + 1 }).emit
      (.flesha r.port r.addr r.udp (fleshaMsg s.serial (some o.key) 4 r.owner (o.outSeq + 1) r.opcode r.tag status body)) := by
  simp only [fleshaReply, fleshaSend, h]

theorem fleshaReply_log (s : State) (r : Reply) (status : Nat) (body : List Byte) : (fleshaReply s r status body).log = s.log := by
  unfold fleshaReply fleshaSend; split <;> rfl

/-! ### Acceptance (R473) -/

/-- What becomes of the state when a COMMAND fails a test: it is counted and reported. -/
def authFailed (s : State) (port addr : Nat) (msg : List Byte) : State :=
  report { s with log := { s.log with authFail := satAdd s.log.authFail 1 } } 0xF0 0x03 evFleshaAuthFail none
    [(1, port), (1, byteAt msg 6 % 64), (8, addr % 2 ^ 64)]

theorem fleshaIn_dropped (hs : fleshaServed s port = true) (hshape : fleshaShape msg = true) (hop : leAt msg 24 2 = op)
    (ht : fleshaTests s msg = false) : fleshaIn s port addr udp op msg = (authFailed s port addr msg, none) := by
  simp only [fleshaIn, fleshaAccept, hs, hop, hshape, ht, bne_self_eq_false, Bool.not_true, Bool.false_and, Bool.or_false,
    Bool.false_eq_true, if_false]
  rfl

/-- A COMMAND that fails a test runs nothing. -/
theorem fleshaRun_dropped (hs : fleshaServed s port = true) (hshape : fleshaShape msg = true) (hop : leAt msg 24 2 = op)
    (ht : fleshaTests s msg = false) (f : State → FlCmd → Reply → State) :
    fleshaRun s port addr udp op msg f = authFailed s port addr msg := by
  simp only [fleshaRun, fleshaIn_dropped hs hshape hop ht]

theorem FleshaCmd.setNow (h : FleshaCmd s port op msg c) (now : Nat) : FleshaCmd (s.setNow now) port op msg c :=
  ⟨h.site, h.served, h.shape, h.tests, h.isOp, h.read⟩

theorem FleshaCmd.accept (h : FleshaCmd s port op msg c) (addr : Nat) :
    fleshaAccept s port addr msg = (acceptedSeq s msg, some c) := by
  simp only [fleshaAccept, h.shape, h.tests, h.isOp, h.read, Bool.not_true, Bool.false_eq_true, if_false, if_true]
  rfl

/-- An accepted COMMAND of the row's opcode runs. -/
theorem FleshaCmd.run (h : FleshaCmd s port op msg c) (addr udp : Nat) (f : State → FlCmd → Reply → State) :
    fleshaRun s port addr udp op msg f = f (acceptedSeq s msg) c (replyOf c port addr udp) := by
  simp [fleshaRun, fleshaIn, h.accept, h.served, h.isOp]

/-- An accepted COMMAND of an unknown opcode receives 0x0160. -/
theorem FleshaCmd.run_unknown (h : FleshaCmd s port op msg c) (hk : knownOpcode op = false) (addr udp : Nat) {row : Nat}
    (hrow : knownOpcode row = true) (f : State → FlCmd → Reply → State) :
    fleshaRun s port addr udp row msg f = fleshaReply (acceptedSeq s msg) (replyOf c port addr udp) 0x0160 [] := by
  have hne : op ≠ row := by rintro rfl; exact absurd (hk.symm.trans hrow) (by decide)
  simp [fleshaRun, fleshaIn, h.accept, h.served, h.isOp, hk, hne]

/-! ### The commands of R474 that this file's statements run -/

theorem exec_fleshaSubscribe (h : port < 2) (s : State) : exec (.fleshaSubscribe port addr udp msg now) s =
    .next (fleshaRun (s.setNow now) port addr udp 0x0001 msg subscribe) := guarded_ok (by simpa [instrWellFormed, okMgmtPort] using h) _

theorem exec_fleshaRead (h : port < 2) (s : State) : exec (.fleshaRead port addr udp msg now) s =
    .next (fleshaRun (s.setNow now) port addr udp 0x0002 msg fleshaReadRegs) := guarded_ok (by simpa [instrWellFormed, okMgmtPort] using h) _

theorem exec_fleshaWrite (h : port < 2) (s : State) : exec (.fleshaWrite port addr udp msg now) s =
    .next (fleshaRun (s.setNow now) port addr udp 0x0003 msg fleshaWriteRegs) := guarded_ok (by simpa [instrWellFormed, okMgmtPort] using h) _

theorem exec_fleshaImageData (h : port < 2) (tagOk : Bool) (s : State) : exec (.fleshaImageData port addr udp msg tagOk now) s =
    .next (fleshaRun (s.setNow now) port addr udp 0x0011 msg fun s c r => imageData s c r tagOk) :=
  guarded_ok (by simpa [instrWellFormed, okMgmtPort] using h) _

theorem exec_fleshaCfgData (h : port < 2) (s : State) : exec (.fleshaCfgData port addr udp msg now) s =
    .next (fleshaRun (s.setNow now) port addr udp 0x0021 msg cfgData) := guarded_ok (by simpa [instrWellFormed, okMgmtPort] using h) _

theorem exec_fleshaTime (h : port < 2) (s : State) : exec (.fleshaTime port addr udp msg now) s =
    .next (fleshaRun (s.setNow now) port addr udp 0x0030 msg fleshaTimeSet) := guarded_ok (by simpa [instrWellFormed, okMgmtPort] using h) _

theorem exec_fleshaResync (h : port < 2) (s : State) : exec (.fleshaResync port addr udp msg now) s =
    .next (fleshaRun (s.setNow now) port addr udp 0x0031 msg fleshaResyncRun) := guarded_ok (by simpa [instrWellFormed, okMgmtPort] using h) _

theorem exec_fleshaFailover (h : port < 2) (s : State) : exec (.fleshaFailover port addr udp msg now) s =
    .next (fleshaRun (s.setNow now) port addr udp 0x0041 msg fleshaFailoverRun) := guarded_ok (by simpa [instrWellFormed, okMgmtPort] using h) _

theorem exec_fleshaLogRead (h : port < 2) (s : State) : exec (.fleshaLogRead port addr udp msg now) s =
    .next (fleshaRun (s.setNow now) port addr udp 0x0050 msg fleshaLog) := guarded_ok (by simpa [instrWellFormed, okMgmtPort] using h) _

end Sys2Proof.Machine
end

section
/-! SUPPORT. SUBSCRIBE, READ, WRITE and LOG_READ of an accepted COMMAND (O57). -/

namespace Sys2Proof.Machine

variable {s : State} {c : FlCmd} {r : Reply}

theorem inRange_iff (lo hi v : Nat) : inRange lo hi v = true ↔ lo ≤ v ∧ v ≤ hi := by simp [inRange]

theorem inRange_false_iff (lo hi v : Nat) : inRange lo hi v = false ↔ v < lo ∨ hi < v := by
  rw [← Bool.not_eq_true, inRange_iff]; omega

/-! ### SUBSCRIBE (R475) -/

/-- What a new subscriber is registered with. -/
def newSub (s : State) (c : FlCmd) (r : Reply) : Sub :=
  { port := r.port, addr := r.addr, udp := r.udp, owner := c.owner, events := byteAt c.body 0 != 0, telemetry := byteAt c.body 1 != 0
    period := leAt c.body 2 2, addrs := (List.range (leAt c.body 4 4)).map fun i => leAt c.body (8 + 4 * i) 4
    expires := s.now + 60000000000, nextSeq := s.log.head }

theorem subs_find_none (h : ∀ x ∈ s.log.subs, ¬ (x.addr = r.addr ∧ x.udp = r.udp)) :
    s.log.subs.find? (fun x => x.addr == r.addr && x.udp == r.udp) = none := by
  simpa [List.find?_eq_none] using h

theorem subscribe_malformed (h : subBodyOk c.body = false) : subscribe s c r = fleshaReply s r 0x0160 [] := by simp [subscribe, h]

theorem subscribe_full (h : subBodyOk c.body = true) (hn : s.log.subs.length = 16)
    (hs : ∀ x ∈ s.log.subs, ¬ (x.addr = r.addr ∧ x.udp = r.udp)) : subscribe s c r = fleshaReply s r 0x0162 [] := by
  simp [subscribe, h, subs_find_none hs, hn]

theorem subscribe_new (h : subBodyOk c.body = true) (hn : s.log.subs.length < 16)
    (hs : ∀ x ∈ s.log.subs, ¬ (x.addr = r.addr ∧ x.udp = r.udp)) :
    subscribe s c r = fleshaReply { s with log := { s.log with subs := s.log.subs ++ [newSub s c r] } } r 0 [] := by
  have hn' : ¬ 16 ≤ s.log.subs.length := by omega
  simp [subscribe, h, subs_find_none hs, hn', newSub]

/-! ### READ and WRITE (R425, R474) -/

theorem fleshaReadRegs_within (hl : c.body.length = 6) (hn : inRange 1 256 (leAt c.body 4 2) = true)
    (hr : ∀ i < leAt c.body 4 2, readReach s c.owner (leAt c.body 0 4 + 4 * i) = true) :
    fleshaReadRegs s c r = fleshaReply (mgmtReads s (.flesha c.owner) (leAt c.body 0 4) (leAt c.body 4 2)).1 r
      (replyStatus s (leAt c.body 0 4) (leAt c.body 4 2))
      ((mgmtReads s (.flesha c.owner) (leAt c.body 0 4) (leAt c.body 4 2)).2.map (toLe 4)).flatten := by
  have hany := range_any_false (n := leAt c.body 4 2) (q := fun i => !readReach s c.owner (leAt c.body 0 4 + 4 * i)) fun i hi => by simp [hr i hi]
  simp [fleshaReadRegs, hl, hn, hany]

theorem fleshaReadRegs_outside (hl : c.body.length = 6) (hn : inRange 1 256 (leAt c.body 4 2) = true)
    (hr : ∃ i < leAt c.body 4 2, readReach s c.owner (leAt c.body 0 4 + 4 * i) = false) :
    fleshaReadRegs s c r = fleshaReply s r 0x0207 [] := by
  have hany : ((List.range (leAt c.body 4 2)).any fun i => !readReach s c.owner (leAt c.body 0 4 + 4 * i)) = true := by
    simpa using hr
  simp [fleshaReadRegs, hl, hn, hany]

theorem fleshaWriteRegs_within (hl : c.body.length = 6 + 4 * leAt c.body 4 2) (hn : inRange 1 256 (leAt c.body 4 2) = true)
    {vs : List Nat} (hvs : vs = (List.range (leAt c.body 4 2)).map fun i => leAt c.body (6 + 4 * i) 4)
    (hr : ∀ i < leAt c.body 4 2, writeReach s c.owner (leAt c.body 0 4 + 4 * i) (vs.getD i 0) = true) :
    fleshaWriteRegs s c r = fleshaReply (mgmtWrites s (leAt c.body 0 4) vs) r
      (if replyStatus s (leAt c.body 0 4) (leAt c.body 4 2) ≠ 0 then replyStatus s (leAt c.body 0 4) (leAt c.body 4 2)
       else writesStatus s (leAt c.body 0 4) vs) [] := by
  have hany := range_any_false (n := leAt c.body 4 2)
    (q := fun i => !writeReach s c.owner (leAt c.body 0 4 + 4 * i) (vs.getD i 0)) fun i hi => by rw [hr i hi]; rfl
  subst hvs
  simp only [fleshaWriteRegs, hl, hn, hany, bne_iff_ne, bne_self_eq_false, Bool.not_true, Bool.or_self, Bool.false_eq_true, if_false]

theorem fleshaWriteRegs_outside (hl : c.body.length = 6 + 4 * leAt c.body 4 2) (hn : inRange 1 256 (leAt c.body 4 2) = true)
    {vs : List Nat} (hvs : vs = (List.range (leAt c.body 4 2)).map fun i => leAt c.body (6 + 4 * i) 4)
    (hr : ∃ i < leAt c.body 4 2, writeReach s c.owner (leAt c.body 0 4 + 4 * i) (vs.getD i 0) = false) :
    fleshaWriteRegs s c r = fleshaReply s r 0x0207 [] := by
  have hany : ((List.range (leAt c.body 4 2)).any fun i => !writeReach s c.owner (leAt c.body 0 4 + 4 * i) (vs.getD i 0)) = true := by
    simpa using hr
  subst hvs
  simp only [fleshaWriteRegs, hl, hn, hany, bne_self_eq_false, Bool.not_true, Bool.or_self, Bool.false_eq_true, if_false, if_true]

/-! ### LOG_READ (R474) -/

theorem fleshaLog_answers (hl : c.body.length = 6) (hn : inRange 1 21 (leAt c.body 4 2) = true) :
    fleshaLog s c r = fleshaReply s r 0 (eventBody (s.log.recs.filter fun q =>
      decide (∃ i < leAt c.body 4 2, q.1 = (leAt c.body 0 4 + i) % 2 ^ 32) && seesRecord s c.owner q.2)) := by
  have hmem : ∀ k, ((List.range (leAt c.body 4 2)).map fun i => (leAt c.body 0 4 + i) % 2 ^ 32).contains k =
      decide (∃ i < leAt c.body 4 2, k = (leAt c.body 0 4 + i) % 2 ^ 32) := by
    intro k
    rw [List.contains_eq_mem]
    simp [eq_comm]
  simp only [fleshaLog, hl, hn, hmem, bne_self_eq_false, Bool.not_true, Bool.or_self, Bool.false_eq_true, if_false]

theorem fleshaLog_malformed (h : c.body.length ≠ 6 ∨ inRange 1 21 (leAt c.body 4 2) = false) :
    fleshaLog s c r = fleshaReply s r 0x0160 [] := by
  rcases h with h | h <;> simp [fleshaLog, h]

/-- Settles O57: authentication, the response, and each command of an accepted COMMAND. -/
theorem fleshaReachesRegisters : Obligations.FleshaReachesRegisters := by
  unfold Obligations.FleshaReachesRegisters
  refine ⟨⟨?_, ?_, ?_⟩, ?_⟩
  · -- a COMMAND that fails a test
    intro s port addr udp now op msg hp hs hshape hop ht drops
    have dropped : ∀ f, drops (.next (fleshaRun (s.setNow now) port addr udp op msg f)) := fun f =>
      ⟨_, rfl, by rw [fleshaRun_dropped (s := s.setNow now) hs hshape hop ht f]; exact ⟨rfl, rfl, rfl, rfl, rfl⟩⟩
    refine ⟨?_, ?_, ?_, ?_, ?_, ?_, ?_, ?_, ?_⟩ <;> rintro rfl
    · rw [exec_fleshaSubscribe hp]; exact dropped _
    · rw [exec_fleshaRead hp]; exact dropped _
    · rw [exec_fleshaWrite hp]; exact dropped _
    · rw [exec_fleshaImageData hp]; exact dropped _
    · rw [exec_fleshaCfgData hp]; exact dropped _
    · rw [exec_fleshaTime hp]; exact dropped _
    · rw [exec_fleshaResync hp]; exact dropped _
    · rw [exec_fleshaFailover hp]; exact dropped _
    · rw [exec_fleshaLogRead hp]; exact dropped _
  · -- an unknown opcode
    intro s port addr udp now op msg c h hk
    rw [exec_fleshaRead h.site, (h.setNow now).run_unknown hk addr udp (by decide)]
  · -- a response
    intro s r status body o ho
    rw [fleshaReply_eq r status body ho]
    refine ⟨rfl, ?_⟩
    have hfound := ownerOf_modOwner_self s r.owner (fun x => { x with outSeq := o.outSeq + 1 }) fun _ => rfl
    exact hfound.trans (by rw [ho]; rfl)
  · -- an accepted COMMAND
    intro s port addr udp now op msg c h v r a n
    have hv := h.setNow now
    refine ⟨?_, ?_, ?_, ?_, ?_⟩
    · rintro rfl
      rw [exec_fleshaSubscribe h.site, hv.run]
      refine ⟨fun hb => by rw [subscribe_malformed hb], fun hb hn hs => by rw [subscribe_full (s := v) (r := r) hb hn hs], fun hb hn hs => ?_⟩
      refine ⟨_, newSub v c r, rfl, ?_, rfl, rfl, rfl, rfl, rfl, rfl, rfl, by simp [newSub]⟩
      rw [subscribe_new (s := v) (r := r) hb hn hs, fleshaReply_log]; rfl
    · rintro rfl hl h1 h2
      rw [exec_fleshaRead h.site, hv.run]
      have hn := (inRange_iff 1 256 n).mpr ⟨h1, h2⟩
      exact ⟨fun hr => by rw [fleshaReadRegs_within hl hn hr], fun hr => by rw [fleshaReadRegs_outside hl hn hr]⟩
    · rintro rfl h1 h2 hl vs
      rw [exec_fleshaWrite h.site, hv.run]
      have hn := (inRange_iff 1 256 n).mpr ⟨h1, h2⟩
      exact ⟨fun hr => by rw [fleshaWriteRegs_within hl hn rfl hr], fun hr => by rw [fleshaWriteRegs_outside hl hn rfl hr]⟩
    · rintro rfl hl h1 h2
      rw [exec_fleshaLogRead h.site, hv.run, fleshaLog_answers hl ((inRange_iff 1 21 n).mpr ⟨h1, h2⟩)]
      rfl
    · rintro rfl hbad
      rw [exec_fleshaLogRead h.site, hv.run, fleshaLog_malformed (hbad.imp_right fun hn => (inRange_false_iff 1 21 n).mpr (by omega))]

end Sys2Proof.Machine
end

section
/-! SUPPORT. The sideband (R533): who serves a command, and what each command answers on the active MC. -/

namespace Sys2Proof.Machine

variable {s : State} {iod now : Nat} {b : List Byte}

theorem sbAlive_of (hi : iod = 0 ∨ iod = 3) (ha : s.power.aux = true) : sbAlive s iod = true := by
  rcases hi with rfl | rfl <;> simp [sbAlive, ha]

/-- IOD0 and IOD3 are sites of the series. -/
theorem okIod_sideband (hi : iod = 0 ∨ iod = 3) : okIod iod = true := by rcases hi with rfl | rfl <;> rfl

/-! ### Who serves -/

theorem sbServe_notReady (h : sbAlive s iod = true) (hs : s.cfg.started = false) (f : State → State) :
    sbServe s iod f = s.emit (.sideband iod [2]) := by
  simp only [sbServe, h, hs, Bool.not_true, Bool.not_false, Bool.false_eq_true, if_false, if_true]; rfl

theorem sbServe_notActive (h : sbAlive s iod = true) (hs : s.cfg.started = true) (ha : mcActive s iod = false) (f : State → State) :
    sbServe s iod f = s.emit (.sideband iod [1]) := by
  simp only [sbServe, h, hs, ha, Bool.not_true, Bool.false_eq_true, if_false]; rfl

theorem sbServe_active (h : sbAlive s iod = true) (hs : s.cfg.started = true) (ha : mcActive s iod = true) (f : State → State) :
    sbServe s iod f = f s := by
  simp only [sbServe, h, hs, ha, Bool.not_true, Bool.false_eq_true, if_false, if_true]

/-! ### The commands -/

theorem exec_sbStatus (hi : iod = 0 ∨ iod = 3) (ha : s.power.aux = true) : exec (.sbStatus iod) s =
    .next (sbReply s iod 0 (toLe 4 (if s.power.pwrgd then cfgRead s 0x0010 else 0) ++ toLe 8 s.serial)) := by
  have h : exec (.sbStatus iod) s = .next (if sbAlive s iod then
      sbReply s iod 0 (toLe 4 (if s.power.pwrgd then cfgRead s 0x0010 else 0) ++ toLe 8 s.serial) else s) := guarded_ok (okIod_sideband hi) _
  rw [h, if_pos (sbAlive_of hi ha)]

theorem exec_sbRead (hi : iod = 0 ∨ iod = 3) (b : List Byte) (s : State) :
    exec (.sbRead iod b) s = .next (sbServe s iod fun s => sbReadRegs s iod b) := guarded_ok (okIod_sideband hi) _

theorem exec_sbWrite (hi : iod = 0 ∨ iod = 3) (b : List Byte) (now : Nat) (s : State) :
    exec (.sbWrite iod b now) s = .next (sbServe (s.setNow now) iod fun s => sbWriteRegs s iod b) := guarded_ok (okIod_sideband hi) _

theorem exec_sbCfgData (hi : iod = 0 ∨ iod = 3) (b : List Byte) (now : Nat) (s : State) :
    exec (.sbCfgData iod b now) s = .next (sbServe (s.setNow now) iod fun s => sbConfig s iod b) := guarded_ok (okIod_sideband hi) _

/-- A time of day that waits for the start (R420). -/
def holdTod (s : State) (tod : Nat) : State := { s with time := { s.time with heldTod := some tod } }

theorem exec_sbTime (hi : iod = 0 ∨ iod = 3) (b : List Byte) (now : Nat) (s : State) : exec (.sbTime iod b now) s =
    .next (sbServe (if sbAlive s iod && s.power.pwrgd && !s.cfg.started && b.length == 8 then holdTod (s.setNow now) (leAt b 0 8)
      else s.setNow now) iod fun s => sbTimeSet s iod b) := guarded_ok (okIod_sideband hi) _

/-- A time of day before the start, with power good, is held, and the answer is NOT_READY (R420). -/
theorem exec_sbTime_held (hi : iod = 0 ∨ iod = 3) (ha : s.power.aux = true) (hs : s.cfg.started = false) (hp : s.power.pwrgd = true)
    (hl : b.length = 8) (now : Nat) :
    exec (.sbTime iod b now) s = .next ((holdTod (s.setNow now) (leAt b 0 8)).emit (.sideband iod [2])) := by
  have halive := sbAlive_of hi ha
  rw [exec_sbTime hi, if_pos (by simp [halive, hs, hp, hl])]
  rw [sbServe_notReady (s := holdTod (s.setNow now) (leAt b 0 8)) halive hs]

/-- After the start a time of day is not held. -/
theorem exec_sbTime_started (hi : iod = 0 ∨ iod = 3) (hs : s.cfg.started = true) (b : List Byte) (now : Nat) :
    exec (.sbTime iod b now) s = .next (sbServe (s.setNow now) iod fun s => sbTimeSet s iod b) := by
  rw [exec_sbTime hi, if_neg (by simp [hs])]

/-! ### What they answer on the active MC -/

theorem sbReadRegs_reads (hl : b.length = 5) (hn : inRange 1 8 (byteAt b 4) = true) : sbReadRegs s iod b =
    (mgmtReads s (.sideband iod) (leAt b 0 4) (byteAt b 4)).1.emit (.sideband iod
      (BitVec.ofNat 8 (replyStatus s (leAt b 0 4) (byteAt b 4)) ::
        ((mgmtReads s (.sideband iod) (leAt b 0 4) (byteAt b 4)).2.map (toLe 4)).flatten)) := by
  simp only [sbReadRegs, sbReply, hl, hn, bne_self_eq_false, Bool.not_true, Bool.or_self, Bool.false_eq_true, if_false]

theorem sbReadRegs_badArg (hn : inRange 1 8 (byteAt b 4) = false) : sbReadRegs s iod b = s.emit (.sideband iod [3]) := by
  simp only [sbReadRegs, sbReply, hn, Bool.not_false, Bool.or_true, if_true]; rfl

theorem sbWriteRegs_writes (hn : inRange 1 8 (byteAt b 4) = true) (hl : b.length = 5 + 4 * byteAt b 4) : sbWriteRegs s iod b =
    (mgmtWrites s (leAt b 0 4) ((List.range (byteAt b 4)).map fun i => leAt b (5 + 4 * i) 4)).emit
      (.sideband iod [BitVec.ofNat 8 (replyStatus s (leAt b 0 4) (byteAt b 4))]) := by
  simp only [sbWriteRegs, sbReply, hl, hn, bne_self_eq_false, Bool.not_true, Bool.or_self, Bool.false_eq_true, if_false]

theorem sbWriteRegs_badArg (hl : b.length ≠ 5 + 4 * byteAt b 4) : sbWriteRegs s iod b = s.emit (.sideband iod [3]) := by
  simp only [sbWriteRegs, sbReply, bne_iff_ne.mpr hl, Bool.or_true, if_true]; rfl

/-- What a source of CFG_DATA has sent so far; data of another source starts anew (R400). -/
def cfgBuf (s : State) (src : Requester) : List Byte := if s.cfg.writeSrc = some src then s.cfg.writeBuf else []

theorem writeData_eq (s : State) (src : Requester) (off : Nat) (bytes : List Byte) : writeData s src off bytes =
    if (cfgBuf s src).length < off then (s, none)
    else if off < (cfgBuf s src).length then (s, some (cfgBuf s src).length)
    else ({ s with cfg := { s.cfg with writeBuf := cfgBuf s src ++ bytes, writeSrc := some src } }, some (cfgBuf s src ++ bytes).length) := by
  unfold writeData cfgBuf; simp only [beq_iff_eq]

theorem sbConfig_above (hl : inRange 6 245 b.length = true) (h : (cfgBuf s (.sideband iod)).length < leAt b 0 4) :
    sbConfig s iod b = s.emit (.sideband iod [3]) := by
  simp only [sbConfig, hl, writeData_eq, if_pos h, Bool.not_true, Bool.false_eq_true, if_false]; rfl

theorem sbConfig_below (hl : inRange 6 245 b.length = true) (hf : bitOf (byteAt b 4) 0 = false)
    (h : leAt b 0 4 < (cfgBuf s (.sideband iod)).length) :
    sbConfig s iod b = s.emit (.sideband iod (0 :: toLe 4 (cfgBuf s (.sideband iod)).length)) := by
  simp only [sbConfig, hl, writeData_eq, if_neg (Nat.lt_asymm h), if_pos h, hf, Bool.not_true, Bool.not_false, Bool.false_eq_true,
    if_false, if_true]
  rfl

theorem sbConfig_takes (hl : inRange 6 245 b.length = true) (hf : bitOf (byteAt b 4) 0 = false)
    (h : leAt b 0 4 = (cfgBuf s (.sideband iod)).length) :
    sbConfig s iod b =
      State.emit { s with cfg := { s.cfg with writeBuf := cfgBuf s (.sideband iod) ++ b.drop 5, writeSrc := some (.sideband iod) } }
        (.sideband iod (0 :: toLe 4 ((cfgBuf s (.sideband iod)).length + (b.length - 5)))) := by
  simp only [sbConfig, hl, writeData_eq, h, Nat.lt_irrefl, hf, Bool.not_true, Bool.not_false, Bool.false_eq_true, if_false, if_true,
    List.length_append, List.length_drop]
  rfl

/-- The state once a first time of day has been adopted (R415). -/
def timeAdopted (s : State) (utc : Nat) : State :=
  report { s with time := { s.time with now := utc, utc := true, adopt := utc, step := utc - s.time.now } } 0xF0 0x00 evTimeSet none
    [(8, utc), (8, utc - s.time.now)]

theorem sbTimeSet_adopts (hl : b.length = 8) (hu : s.time.utc = false) (h : s.now < leAt b 0 8) :
    sbTimeSet s iod b = (timeAdopted s (leAt b 0 8)).emit (.sideband iod [0]) := by
  have hlt : ¬ leAt b 0 8 ≤ s.time.now := Nat.not_le.mpr h
  have hlt' : ¬ leAt b 0 8 ≤ s.now := hlt
  simp only [sbTimeSet, hl, hu, adoptTime, hlt, hlt', decide_false, Bool.and_false, Bool.or_false, bne_self_eq_false, Bool.false_eq_true,
    if_false]
  rfl

theorem sbTimeSet_late (hu : s.time.utc = false) (h : leAt b 0 8 ≤ s.now) : sbTimeSet s iod b = s.emit (.sideband iod [3]) := by
  simp only [sbTimeSet, hu, h, decide_true, Bool.not_false, Bool.and_self, Bool.or_true, if_true]; rfl

/-- A sideband command that the active MC serves runs on the state at its time. -/
theorem sideband_served (hi : iod = 0 ∨ iod = 3) (ha : s.power.aux = true) (hs : s.cfg.started = true) (hm : mcActive s iod = true)
    (b : List Byte) (now : Nat) :
    exec (.sbRead iod b) s = .next (sbReadRegs s iod b) ∧ exec (.sbWrite iod b now) s = .next (sbWriteRegs (s.setNow now) iod b) ∧
      exec (.sbCfgData iod b now) s = .next (sbConfig (s.setNow now) iod b) ∧
      exec (.sbTime iod b now) s = .next (sbTimeSet (s.setNow now) iod b) := by
  have hl : sbAlive s iod = true := sbAlive_of hi ha
  have hv : sbAlive (s.setNow now) iod = true := sbAlive_of (s := s.setNow now) hi ha
  exact ⟨by rw [exec_sbRead hi, sbServe_active hl hs hm], by rw [exec_sbWrite hi, sbServe_active hv hs hm],
    by rw [exec_sbCfgData hi, sbServe_active hv hs hm], by rw [exec_sbTime_started hi hs, sbServe_active hv hs hm]⟩

end Sys2Proof.Machine
end

section
/-! SUPPORT. Register reads: the latch of a 64-bit value (R16), the read-clear fields (R13), and the addresses of management space. -/

namespace Sys2Proof.Machine

variable {s t : State} {r : Requester} {a : Nat}

/-! ### Latches (R16) -/

theorem latchOf_congr (h : t.latches = s.latches) (r : Requester) (a : Nat) : latchOf t r a = latchOf s r a := by
  unfold latchOf; rw [h]

/-- A requester holds `hi` for a high word it has not read yet. -/
def latched (s : State) (r : Requester) (a hi : Nat) : State :=
  { dropLatch s r a with latches := (dropLatch s r a).latches ++ [(r, a, hi)] }

theorem find_dropLatch (s : State) (r : Requester) (a : Nat) :
    (dropLatch s r a).latches.find? (fun l => l.1 == r && l.2.1 == a) = none :=
  List.find?_eq_none.mpr fun l hl => by
    have h := (List.mem_filter.mp hl).2
    exact Bool.not_eq_true _ ▸ (Bool.not_eq_true' _).mp h

theorem latchOf_dropLatch (s : State) (r : Requester) (a : Nat) : latchOf (dropLatch s r a) r a = none := by
  rw [latchOf, find_dropLatch]; rfl

theorem latchOf_latched (s : State) (r : Requester) (a hi : Nat) : latchOf (latched s r a hi) r a = some hi := by
  simp [latchOf, latched, List.find?_append, find_dropLatch]

/-- A read of a low word answers it and latches the high word. -/
theorem latchRead_wide (s : State) (r : Requester) (a lo hi : Nat) : latchRead s r a lo hi true = (latched s r (a + 4) hi, lo) := rfl

theorem latchRead_fresh (h : latchOf s r a = none) (lo hi : Nat) : latchRead s r a lo hi false = (s, lo) := by
  simp [latchRead, h]

theorem latchRead_taken {v : Nat} (h : latchOf s r a = some v) (lo hi : Nat) :
    latchRead s r a lo hi false = (dropLatch s r a, v) := by simp [latchRead, h]

/-! ### Reads of management space -/

/-- A read of a low word answers it, with its high word latched. -/
theorem mgmtRead_wide (hs : isSweepAge s a = false) (hw : mgmtWide a = true) (hst : addrStatus s a = 0) :
    mgmtRead s r a = (mgmtClear (latched s r (a + 4) (mgmtValue s (accessOwner r) (a + 4))) a, mgmtValue s (accessOwner r) a) := by
  simp only [mgmtRead, hs, hw, hst, beq_self_eq_true, Bool.and_self, latchRead_wide, Bool.false_eq_true, if_false]

/-- A read of any other word answers what stands there, where nothing is latched for it. -/
theorem mgmtRead_fresh (hs : isSweepAge s a = false) (hw : mgmtWide a = false) (hl : latchOf s r a = none) :
    mgmtRead s r a = (mgmtClear s a, mgmtValue s (accessOwner r) a) := by
  simp only [mgmtRead, hs, hw, Bool.false_and, latchRead_fresh hl, Bool.false_eq_true, if_false]

/-- Else it answers the latched word. -/
theorem mgmtRead_taken (hs : isSweepAge s a = false) (hw : mgmtWide a = false) {v : Nat} (hl : latchOf s r a = some v) :
    mgmtRead s r a = (mgmtClear (dropLatch s r a) a, v) := by
  simp only [mgmtRead, hs, hw, Bool.false_and, latchRead_taken hl, Bool.false_eq_true, if_false]

/-- Clearing the read-clear fields of an address is a change of one tile, of one partition, or of nothing. -/
theorem mgmtClear_cases (s : State) (a : Nat) : mgmtClear s a = s ∨ (∃ t f, mgmtClear s a = s.modTile t f) ∨
    ∃ p f, mgmtClear s a = s.modPart p f := by
  unfold mgmtClear
  dsimp only
  split_ifs
  · exact .inl rfl
  · exact .inr (.inl ⟨_, _, rfl⟩)
  · cases leadOf s (32 * addrDie a + (addrBlock a - 0x20)) with
    | none => exact .inl rfl
    | some p => exact .inr (.inr ⟨_, _, rfl⟩)

theorem mgmtClear_latches (s : State) (a : Nat) : (mgmtClear s a).latches = s.latches := by
  rcases mgmtClear_cases s a with h | ⟨t, f, h⟩ | ⟨p, f, h⟩ <;> exact (congrArg State.latches h :)

theorem mgmtClear_out (s : State) (a : Nat) : (mgmtClear s a).out = s.out := by
  rcases mgmtClear_cases s a with h | ⟨t, f, h⟩ | ⟨p, f, h⟩ <;> exact (congrArg State.out h :)

theorem exec_rcRead (r : Requester) (a : Nat) (s : State) : exec (.rcRead r a) s = .next (regRead s r a) := guarded_ok rfl _

theorem exec_lowWordRead (r : Requester) (a : Nat) (s : State) : exec (.lowWordRead r a) s = .next (regRead s r a) := guarded_ok rfl _

theorem mcReach_sideband {iod : Nat} (hs : s.cfg.started = true) (hm : mcActive s iod = true) : mcReach s (.sideband iod) = true := by
  simp [mcReach, hs, hm]

theorem regRead_sideband {iod : Nat} (hr : mcReach s (.sideband iod) = true) (a : Nat) : regRead s (.sideband iod) a =
    (mgmtRead s (.sideband iod) a).1.emit (.regRead (.sideband iod) a (mgmtRead s (.sideband iod) a).2 (addrStatus s a)) := by
  simp only [regRead, hr, if_true]

/-! ### The registers of a tile (R26) -/

/-- The address of an offset in a tile's block. -/
def tileAddr (t off : Nat) : Nat := (t / 32) * 2 ^ 24 + (0x20 + t % 32) * 2 ^ 16 + off

variable {k off : Nat}

theorem addrDie_tileAddr (hk : k < 1280) (ho : off < 2 ^ 16) : addrDie (tileAddr k off) = k / 32 := by
  unfold addrDie fld tileAddr; omega

theorem addrBlock_tileAddr (ho : off < 2 ^ 16) : addrBlock (tileAddr k off) = 0x20 + k % 32 := by
  unfold addrBlock fld tileAddr; omega

theorem addrOff_tileAddr (ho : off < 2 ^ 16) : addrOff (tileAddr k off) = off := by
  unfold addrOff fld tileAddr; omega

/-- A fitted array die carries the block of each of its tiles. -/
theorem addrStatus_tileAddr (hk : k < 1280) (ho : off < 2 ^ 16) (hf : dieFitted s.variant (k / 32) = true) :
    addrStatus s (tileAddr k off) = 0 := by
  have h1 : k / 32 < 40 := by omega
  have h2 : ¬ k / 32 = 0xF0 := by omega
  have h3 : 0x20 + k % 32 < 0x40 := by omega
  simp [addrStatus, addrDie_tileAddr hk ho, addrBlock_tileAddr ho, hf, blockOn, h1, h2, h3]

theorem isSweepAge_tileAddr (hk : k < 1280) (ho : off < 2 ^ 16) : isSweepAge s (tileAddr k off) = false := by
  have h : ¬ 0x40 ≤ k / 32 := by omega
  simp [isSweepAge, addrDie_tileAddr hk ho, h]

theorem mgmtWide_tileAddr (hk : k < 1280) (ho : off < 2 ^ 16) : mgmtWide (tileAddr k off) = tileWide.contains off := by
  have h1 : k / 32 < 40 := by omega
  have h2 : ¬ k / 32 = 0xF0 := by omega
  have h3 : ¬ 0x20 + k % 32 < 12 := by omega
  have h4 : ∀ n, n < 0x20 → ¬ 0x20 + k % 32 = n := by omega
  simp only [mgmtWide, addrDie_tileAddr hk ho, addrBlock_tileAddr ho, addrOff_tileAddr ho, if_pos h1, if_neg h2, if_neg h3,
    if_neg (h4 0 (by decide)), if_neg (h4 3 (by decide)), if_neg (h4 4 (by decide))]

theorem mgmtWide_hist (hk : k < 1280) (h1 : 0x0954 ≤ off) (h2 : off ≤ 0x0990) : mgmtWide (tileAddr k off) = false := by
  rw [mgmtWide_tileAddr hk (by omega)]
  simp only [tileWide, List.contains_eq_mem, List.mem_cons, List.not_mem_nil, or_false, decide_eq_false_iff_not]
  omega

/-- The histogram entry that an offset of the histogram's window reads (R296). -/
def histKey (kind cls off : Nat) : Nat := 64 * kind + 16 * cls + (off - 0x0954) / 4

/-- What a read of the histogram leaves: the entry read is 0, and nothing else changes. -/
theorem clearView_hist (v : WinCopy) (level : Nat) (h1 : 0x0954 ≤ off) (h2 : off ≤ 0x0990) :
    clearView v level off = { v with hist := tset 0 v.hist (histKey v.histKind v.histCls off) 0 } := by
  simp only [clearView, if_pos (And.intro h1 h2)]; rfl

/-- A read of the histogram at a partition's lead tile clears the entry read. -/
theorem mgmtClear_hist {p : Nat} (hk : k < 1280) (hf : dieFitted s.variant (k / 32) = true) (hp : leadOf s k = some p)
    (h1 : 0x0954 ≤ off) (h2 : off ≤ 0x0990) :
    let c := (s.part p).cnt
    let u := mgmtClear s (tileAddr k off)
    (u.part p).cnt.hist = tset 0 c.hist (histKey c.histKind c.histCls off) 0 ∧ u.fns = s.fns := by
  intro c u
  have ho : off < 2 ^ 16 := by omega
  have hn : ¬ (40 ≤ k / 32 ∨ 0x20 + k % 32 < 0x20 ∨ (addrStatus s (tileAddr k off) != 0) = true) := by
    rw [addrStatus_tileAddr hk ho hf]; simp; omega
  have hoff : ¬ off = 0x053C := by omega
  have ht : 32 * (k / 32) + (0x20 + k % 32 - 0x20) = k := by omega
  have hu : u = s.modPart p fun q =>
      { q with cnt := { q.cnt with hist := (clearView (ownView (s.part p)) (ingLevel s p) off).hist }
               ing := { q.ing with peak := (clearView (ownView (s.part p)) (ingLevel s p) off).peak } } := by
    simp only [u, mgmtClear, addrDie_tileAddr hk ho, addrBlock_tileAddr ho, addrOff_tileAddr ho, if_neg hn, if_neg hoff, ht, hp]
  rw [hu, State.modPart_part_self, clearView_hist _ _ h1 h2]
  exact ⟨rfl, rfl⟩

/-! ### Reads of BAR0 (R369 to R373, R392) -/

theorem regRead_host {fn off : Nat} (hf : fnAnswers s fn = true) (ho : off < 65536) : regRead s (.host fn) off =
    (barRead32 s fn off).1.emit (.regRead (.host fn) off (barRead32 s fn off).2 0) := by
  have hlt : ¬ 65536 ≤ off := by omega
  simp only [regRead, hf, hlt, decide_false, Bool.not_true, Bool.or_self, Bool.false_eq_true, if_false]

theorem barRead32_wide {fn off : Nat} (hw : barWide off = true) : barRead32 s fn off =
    (barClear (latched s (.host fn) (off + 4) (barValue s fn (off + 4))) fn off, barValue s fn off) := by
  simp only [barRead32, hw, latchRead_wide]

theorem barRead32_fresh {fn off : Nat} (hw : barWide off = false) (hl : latchOf s (.host fn) off = none) :
    barRead32 s fn off = (barClear s fn off, barValue s fn off) := by simp only [barRead32, hw, latchRead_fresh hl]

/-- Clearing the read-clear fields of a BAR0 register is a change of the function's own copy, or of nothing. -/
theorem barClear_cases (s : State) (fn off : Nat) : barClear s fn off = s ∨ ∃ f, barClear s fn off = s.modFn fn f := by
  unfold barClear
  cases (s.fnOf fn).part with
  | none => exact .inl rfl
  | some p =>
    dsimp only
    split_ifs
    · exact .inr ⟨_, rfl⟩
    · exact .inl rfl

theorem barClear_latches (s : State) (fn off : Nat) : (barClear s fn off).latches = s.latches := by
  rcases barClear_cases s fn off with h | ⟨f, h⟩ <;> exact (congrArg State.latches h :)

theorem barClear_out (s : State) (fn off : Nat) : (barClear s fn off).out = s.out := by
  rcases barClear_cases s fn off with h | ⟨f, h⟩ <;> exact (congrArg State.out h :)

/-- A read of the histogram in the status window clears the entry in the function's own copy. -/
theorem barClear_hist {fn p off : Nat} (hp : (s.fnOf fn).part = some p) (h1 : 0x4954 ≤ off) (h2 : off ≤ 0x4990) :
    barClear s fn off = s.modFn fn fun f => { f with win := clearView f.win (ingLevel s p) (off - 0x4000) } := by
  simp only [barClear, hp, if_pos (show 0x4600 ≤ off ∧ off < 0x4C00 by omega)]

/-- What it leaves of the function's histogram: the entry read is 0. -/
theorem barClear_hist_entries {fn p off : Nat} (hp : (s.fnOf fn).part = some p) (h1 : 0x4954 ≤ off) (h2 : off ≤ 0x4990) :
    ((barClear s fn off).fnOf fn).win.hist =
      tset 0 (s.fnOf fn).win.hist (histKey (s.fnOf fn).win.histKind (s.fnOf fn).win.histCls (off - 0x4000)) 0 := by
  rw [barClear_hist hp h1 h2, State.modFn_fnOf_self, clearView_hist _ _ (by omega) (by omega)]

theorem barWide_hist {off : Nat} (h1 : 0x4954 ≤ off) (h2 : off ≤ 0x4990) : barWide off = false := by
  simp only [barWide, Bool.or_eq_false_iff, Bool.and_eq_false_iff, beq_eq_false_iff_ne, decide_eq_false_iff_not]
  omega

theorem barWide_lt {off : Nat} (h : barWide off = true) : off < 65536 := by
  simp only [barWide, Bool.or_eq_true, Bool.and_eq_true, beq_iff_eq, decide_eq_true_eq] at h
  omega

end Sys2Proof.Machine
end

section
/-! SUPPORT. Register writes: byte enables (R370), and the words of the module's blocks. -/

namespace Sys2Proof.Machine

variable {s : State} {a v iod : Nat}

theorem merge_bytes (cur v be : Nat) : merge cur v be =
    (if bitOf be 0 then v else cur) % 256 + 256 * ((if bitOf be 1 then v else cur) / 256 % 256 +
      256 * ((if bitOf be 2 then v else cur) / 65536 % 256 + 256 * ((if bitOf be 3 then v else cur) / 16777216 % 256))) := by
  have hr : List.range 4 = [0, 1, 2, 3] := rfl
  simp [merge, hr, leNat]

/-- A write of all four bytes replaces the word. -/
theorem merge_all (cur v : Nat) : merge cur v 15 = v % 2 ^ 32 := by
  have hb : ∀ i, i < 4 → bitOf 15 i = true := by decide
  rw [merge_bytes, hb 0 (by decide), hb 1 (by decide), hb 2 (by decide), hb 3 (by decide)]
  simp only [if_true]; omega

/-- A write of the lowest byte keeps the others. -/
theorem merge_lowest (cur v : Nat) : merge cur v 1 = cur % 2 ^ 32 / 2 ^ 8 * 2 ^ 8 + v % 2 ^ 8 := by
  have h0 : bitOf 1 0 = true := by decide
  have hb : ∀ i, i < 4 → i ≠ 0 → bitOf 1 i = false := by decide
  rw [merge_bytes, h0, hb 1 (by decide) (by decide), hb 2 (by decide) (by decide), hb 3 (by decide) (by decide)]
  simp only [if_true, Bool.false_eq_true, if_false]; omega

theorem exec_regWrite (r : Requester) (a v be : Nat) (s : State) : exec (.regWrite r a v be) s = .next (regWrite s r a v be) :=
  guarded_ok rfl _

theorem regWrite_sideband (hr : mcReach s (.sideband iod) = true) (a v be : Nat) : regWrite s (.sideband iod) a v be =
    (mgmtWrite s a (merge (mgmtValue s none a) v be)).emit (.regWrite (.sideband iod) a (addrStatus s a)) := by
  simp only [regWrite, hr, if_true]

/-- An absent die, an absent block and a misaligned offset discard a write (R5, R28). -/
theorem mgmtWrite_discarded (h : addrStatus s a ≠ 0 ∨ addrOff a % 4 ≠ 0) (v : Nat) : mgmtWrite s a v = s := by
  have hc : (addrStatus s a != 0 || addrOff a % 4 != 0) = true := by simpa using h
  simp only [mgmtWrite, hc, if_true]

/-! ### The module's blocks -/

/-- An address of the module's blocks (R27): its block and an aligned offset. -/
structure ModuleAddr (a block off : Nat) : Prop where
  isDie : addrDie a = 0xF0
  isBlock : addrBlock a = block
  isOff : addrOff a = off
  carried : block < 8
  aligned : off % 4 = 0

variable {block off : Nat}

theorem ModuleAddr.status (h : ModuleAddr a block off) (s : State) : addrStatus s a = 0 := by
  simp [addrStatus, h.isDie, h.isBlock, blockOn, h.carried]

theorem ModuleAddr.write (h : ModuleAddr a block off) (s : State) (v : Nat) : mgmtWrite s a v = moduleWrite s block off v := by
  simp [mgmtWrite, h.isDie, h.isBlock, h.isOff, h.status, h.aligned]

theorem ModuleAddr.value (h : ModuleAddr a block off) (s : State) (o : Option Nat) : mgmtValue s o a = moduleRead s block off := by
  simp [mgmtValue, h.isDie, h.isBlock, h.isOff, h.status, h.aligned]

/-- A write of a whole word of the module's blocks over the sideband. -/
theorem ModuleAddr.exec_regWrite (h : ModuleAddr a block off) (hr : mcReach s (.sideband iod) = true) (hv : v < 2 ^ 32) :
    exec (.regWrite (.sideband iod) a v 15) s = .next ((moduleWrite s block off v).emit (.regWrite (.sideband iod) a 0)) := by
  rw [Machine.exec_regWrite, regWrite_sideband hr, merge_all, Nat.mod_eq_of_lt hv, h.write, h.status]

/-- A write of the lowest byte of such a word keeps its other bytes. -/
theorem ModuleAddr.exec_regWrite_lowest (h : ModuleAddr a block off) (hr : mcReach s (.sideband iod) = true) (v : Nat) :
    exec (.regWrite (.sideband iod) a v 1) s =
      .next ((moduleWrite s block off (moduleRead s block off % 2 ^ 32 / 2 ^ 8 * 2 ^ 8 + v % 2 ^ 8)).emit
        (.regWrite (.sideband iod) a 0)) := by
  rw [Machine.exec_regWrite, regWrite_sideband hr, merge_lowest, h.write, h.value, h.status]

theorem fld_zero (n w : Nat) : fld n 0 w = n % 2 ^ w := by simp [fld]

theorem keep_decide (q : Prop) [Decidable q] (new old : Nat) : keep (decide q) new old = if q then new else old := by simp [keep]

/-! ### Words of the module's blocks (R444, R445, R481, R508) -/

theorem moduleAddr_pwrLimit : ModuleAddr 0xF0040000 4 0x0000 := ⟨rfl, rfl, rfl, by decide, rfl⟩
theorem moduleAddr_ptSel : ModuleAddr 0xF0010000 1 0x0000 := ⟨rfl, rfl, rfl, by decide, rfl⟩
theorem moduleAddr_ptWdg : ModuleAddr 0xF0010014 1 0x0014 := ⟨rfl, rfl, rfl, by decide, rfl⟩
theorem moduleAddr_thrChCe : ModuleAddr 0xF003002C 3 0x002C := ⟨rfl, rfl, rfl, by decide, rfl⟩
theorem moduleAddr_fmChanSel : ModuleAddr 0xF0060018 6 0x0018 := ⟨rfl, rfl, rfl, by decide, rfl⟩

theorem moduleWrite_pwrLimit (s : State) (v : Nat) : moduleWrite s 4 0x0000 v =
    modTherm s fun t => { t with limit := if 1500 ≤ v % 4096 ∧ v % 4096 ≤ 3000 then v % 4096 else t.limit } := by
  simp [moduleWrite, pwrWrite, fld_zero, keep, inRange_iff]

theorem moduleWrite_ptSel (s : State) (v : Nat) : moduleWrite s 1 0x0000 v = { s with ptSel := v % 64 } := by
  simp [moduleWrite, ptWrite, fld_zero]

theorem moduleWrite_ptWdg (s : State) (v : Nat) : moduleWrite s 1 0x0014 v = s.modPart s.ptSel fun q =>
    { q with
      wdgMs := if v % 2 ^ 16 = 0 ∨ 10 ≤ v % 2 ^ 16 then v % 2 ^ 16 else q.wdgMs
      wdgReset := bitOf v 16 } := by
  simp [moduleWrite, ptWrite, fld_zero, keep]

theorem moduleWrite_thrChCe (s : State) (v : Nat) : moduleWrite s 3 0x002C v = { s with log := { s.log with thrChCe := v } } := by
  simp [moduleWrite, logWrite]

theorem moduleRead_thrChCe (s : State) : moduleRead s 3 0x002C = s.log.thrChCe % 2 ^ 32 := by simp [moduleRead, logRead]

theorem moduleWrite_fmChanSel (s : State) (v : Nat) : moduleWrite s 6 0x0018 v =
    { s with fm := { s.fm with
        chanStack := if v % 32 < 20 then v % 32 else s.fm.chanStack
        chanPair := if v / 256 % 16 < 8 then v / 256 % 16 else s.fm.chanPair } } := by
  have h : moduleWrite s 6 0x0018 v = fmWrite s 0x0018 v := by simp [moduleWrite]
  rw [h]
  simp only [fmWrite, keep_decide, fld_zero]
  rfl

/-! ### BAR0 (R370) -/

/-- A write of the mask of a function's events, under byte enables (R370, R372). -/
theorem barWrite32_evtMask (s : State) (fn v : Nat) :
    barWrite32 s fn 0x0014 v 15 = s.modFn fn fun f => { f with evtMask := v % 2 ^ 32 % 128 } := by
  simp [barWrite32, merge_all, fld_zero]

theorem barWrite32_none (s : State) (fn off v : Nat) : barWrite32 s fn off v 0 = s := by simp [barWrite32]

theorem regWrite_host {fn off : Nat} (hf : fnAnswers s fn = true) (ho : off < 65536) (v be : Nat) :
    regWrite s (.host fn) off v be = (barWrite32 s fn off v be).emit (.regWrite (.host fn) off 0) := by
  have hlt : ¬ 65536 ≤ off := by omega
  simp only [regWrite, hf, hlt, decide_false, Bool.not_true, Bool.or_self, Bool.false_eq_true, if_false]

end Sys2Proof.Machine
end

section
/-! SUPPORT. Registers over every side (O60). -/

namespace Sys2Proof.Machine

/-- Settles O60: the sideband, the reads of read-clear fields and of low words, and the writes, command by command. -/
theorem registersOverEverySide : Obligations.RegistersOverEverySide := by
  unfold Obligations.RegistersOverEverySide
  refine ⟨?_, ⟨?_, ?_, ?_, ?_, ?_⟩, ?_, ?_, ?_⟩
  · -- the sideband
    intro s iod now b hi ha v all
    have hl : sbAlive s iod = true := sbAlive_of hi ha
    have hv : sbAlive v iod = true := sbAlive_of (s := v) hi ha
    refine ⟨⟨_, exec_sbStatus hi ha, rfl⟩,
      fun hs => ⟨⟨?_, ?_, ?_⟩, fun hb hp => ⟨_, exec_sbTime_held hi ha hs hp hb now, rfl, rfl⟩⟩,
      fun hs hm => ⟨⟨?_, ?_, ?_⟩, ?_⟩, ?_⟩
    · rw [exec_sbRead hi, sbServe_notReady hl hs]
    · rw [exec_sbWrite hi, sbServe_notReady hv hs]
    · rw [exec_sbCfgData hi, sbServe_notReady hv hs]
    · rw [exec_sbRead hi, sbServe_notActive hl hs hm]
    · rw [exec_sbWrite hi, sbServe_notActive hv hs hm]
    · rw [exec_sbCfgData hi, sbServe_notActive hv hs hm]
    · rw [exec_sbTime_started hi hs, sbServe_notActive hv hs hm]
    · intro hs hm n a
      obtain ⟨hread, hwrite, hcfg, htime⟩ := sideband_served hi ha hs hm b now
      rw [hread, hwrite, hcfg, htime]
      refine ⟨fun h5 h1 h8 => ?_, fun _ hn => ?_, fun h1 h8 hb => ?_, fun hb => ?_, ?_,
        fun h8 hu => ⟨fun h => ?_, fun h => ?_⟩⟩
      · rw [sbReadRegs_reads h5 ((inRange_iff 1 8 n).mpr ⟨h1, h8⟩)]
      · rw [sbReadRegs_badArg ((inRange_false_iff 1 8 n).mpr (by omega))]
      · rw [sbWriteRegs_writes ((inRange_iff 1 8 n).mpr ⟨h1, h8⟩) hb]
      · rw [sbWriteRegs_badArg hb]
      · intro h6 h245 hf buf
        have hlen := (inRange_iff 6 245 b.length).mpr ⟨h6, h245⟩
        refine ⟨fun h => ?_, fun h => ?_, fun h => ?_⟩
        · rw [sbConfig_takes (s := v) hlen hf h]; exact ⟨_, rfl, rfl, rfl⟩
        · rw [sbConfig_above (s := v) hlen h]
        · rw [sbConfig_below (s := v) hlen hf h]; rfl
      · rw [sbTimeSet_adopts (s := v) h8 hu h]; exact ⟨_, rfl, rfl, rfl, rfl, rfl, rfl⟩
      · rw [sbTimeSet_late (s := v) hu h]
  · -- a read-clear field in the status window
    intro s fn p off hf hp hfn h1 h2 h4 hlatch w k
    have hk : histKey w.histKind w.histCls (off - 0x4000) = k := by simp only [histKey, k]; omega
    have hhist := barClear_hist_entries hp h1 h2
    rw [hk] at hhist
    rw [exec_rcRead, regRead_host hf (by omega), barRead32_fresh (barWide_hist h1 h2) hlatch]
    refine ⟨_, rfl, ?_, ?_, fun j hj => ?_, ?_, fun g hg => ?_⟩
    · rw [State.emit_out, barClear_out]
    · rw [State.emit_fnOf', hhist]; exact tget_tset_self _ _ _
    · rw [State.emit_fnOf', hhist]; exact tget_tset_other _ hj _
    · rw [State.emit_parts, barClear_hist hp h1 h2]; rfl
    · rw [State.emit_fnOf', barClear_hist hp h1 h2, State.modFn_fnOf_other s hg]
  · -- a read-clear field in management space
    intro s iod t p off hs hm ht hf hp h1 h2 h4 a
    have ha : a = tileAddr t off := rfl
    clear_value a
    subst ha
    intro hlatch c k
    have ho : off < 2 ^ 16 := by omega
    obtain ⟨hhist, hfns⟩ := mgmtClear_hist ht hf hp h1 h2
    rw [exec_rcRead, regRead_sideband (mcReach_sideband hs hm), mgmtRead_fresh (isSweepAge_tileAddr ht ho) (mgmtWide_hist ht h1 h2) hlatch,
      addrStatus_tileAddr ht ho hf]
    refine ⟨_, rfl, ?_, ?_, (State.emit_fns _ _).trans hfns⟩
    · rw [State.emit_out, mgmtClear_out]; rfl
    · rw [State.emit_part', hhist]; exact tget_tset_self _ _ _
  · -- a low word in management space
    intro s iod a hs hm hst hw hage
    rw [exec_lowWordRead, regRead_sideband (mcReach_sideband hs hm), mgmtRead_wide hage hw hst, hst]
    refine ⟨_, rfl, ?_, ?_⟩
    · rw [State.emit_out, mgmtClear_out]; rfl
    · exact (latchOf_congr (mgmtClear_latches _ a) _ _).trans (latchOf_latched _ _ _ _)
  · -- the latched high word
    intro s iod a hi hs hm hst hw hage hlatch
    rw [exec_lowWordRead, regRead_sideband (mcReach_sideband hs hm), mgmtRead_taken hage hw hlatch, hst]
    refine ⟨_, rfl, ?_, ?_⟩
    · rw [State.emit_out, mgmtClear_out]; rfl
    · exact (latchOf_congr (mgmtClear_latches _ a) _ _).trans (latchOf_dropLatch _ _ _)
  · -- a low word in BAR0
    intro s fn off hf hfn hw
    rw [exec_lowWordRead, regRead_host hf (barWide_lt hw), barRead32_wide hw]
    refine ⟨_, rfl, ?_, ?_⟩
    · rw [State.emit_out, barClear_out]; rfl
    · exact (latchOf_congr (barClear_latches _ fn off) _ _).trans (latchOf_latched _ _ _ _)
  · -- a write that reaches no register
    intro s iod addr value be hs hm h
    rw [exec_regWrite, regWrite_sideband (mcReach_sideband hs hm), mgmtWrite_discarded h]
  · -- words of the module's blocks
    intro s iod value hs hm hv
    have hr := mcReach_sideband hs hm
    refine ⟨⟨_, moduleAddr_pwrLimit.exec_regWrite hr hv, ?_⟩, ⟨_, moduleAddr_ptSel.exec_regWrite hr hv, ?_⟩,
      ⟨_, moduleAddr_ptWdg.exec_regWrite hr hv, ?_⟩, ⟨_, moduleAddr_thrChCe.exec_regWrite hr hv, ?_⟩,
      ⟨_, moduleAddr_thrChCe.exec_regWrite_lowest hr value, ?_⟩, ⟨_, moduleAddr_fmChanSel.exec_regWrite hr hv, ?_⟩⟩
    · rw [moduleWrite_pwrLimit]; exact ⟨rfl, rfl, rfl⟩
    · rw [moduleWrite_ptSel]; exact ⟨rfl, rfl⟩
    · rw [moduleWrite_ptWdg, State.emit_part', State.modPart_part_self]; exact ⟨rfl, rfl⟩
    · rw [moduleWrite_thrChCe]; rfl
    · rw [moduleWrite_thrChCe, moduleRead_thrChCe, Nat.mod_mod]; rfl
    · rw [moduleWrite_fmChanSel]; exact ⟨rfl, rfl⟩
  · -- the mask of a function's events
    intro s fn value hf
    rw [exec_regWrite, exec_regWrite, regWrite_host hf (by decide), regWrite_host hf (by decide), barWrite32_evtMask, barWrite32_none]
    exact ⟨rfl, rfl⟩

end Sys2Proof.Machine
end

section
/-! SUPPORT. Every command completes or is ill-formed (O3). -/

namespace Sys2Proof.Machine

/-- The meaning of every command is one state behind the guard of its operands. -/
theorem exec_guarded (c : Instr) (s : State) : ∃ u, exec c s = guarded (instrWellFormed c) u := by
  cases c <;> exact ⟨_, rfl⟩

theorem guarded_false (s : State) : guarded false s = .fault .illFormed := rfl

/-- Settles O3: each command is guarded by the well-formedness of its operands, and a guard only completes or faults. -/
theorem wellFormedCommandsComplete : Obligations.WellFormedCommandsComplete := by
  unfold Obligations.WellFormedCommandsComplete
  intro c s
  obtain ⟨u, hu⟩ := exec_guarded c s
  refine ⟨fun h => ⟨u, ?_⟩, fun h => ?_⟩
  · rw [hu, guarded_ok h]
  · rw [hu, h, guarded_false]

end Sys2Proof.Machine
end

section
/-! SUPPORT. What an operation leaves of partitions and sequences: `Fixes` reads every one of them through a projection. -/

namespace Sys2Proof.Machine

variable {α β γ δ : Type} {π : Part → α} {ρ : Entry → β} {s m t : State}

/-- Every partition reads in `t` as in `s` through `π`, and every sequence through `ρ`. -/
structure Fixes (π : Part → α) (ρ : Entry → β) (s t : State) : Prop where
  part : ∀ p, π (t.part p) = π (s.part p)
  entry : ∀ e, ρ (t.entry e) = ρ (s.entry e)

theorem Fixes.refl (s : State) : Fixes π ρ s s := ⟨fun _ => rfl, fun _ => rfl⟩

theorem Fixes.trans (h : Fixes π ρ s m) (k : Fixes π ρ m t) : Fixes π ρ s t :=
  ⟨fun p => (k.part p).trans (h.part p), fun e => (k.entry e).trans (h.entry e)⟩

/-- The same, with the later operation first: it determines the state between. -/
theorem Fixes.after (k : Fixes π ρ m t) (h : Fixes π ρ s m) : Fixes π ρ s t := h.trans k

/-- What is fixed through some projections is fixed through every function of them. -/
theorem Fixes.coarsen {π' : Part → γ} {ρ' : Entry → δ} (h : Fixes π ρ s t) (f : α → γ) (g : β → δ) (hf : ∀ q, π' q = f (π q))
    (hg : ∀ x, ρ' x = g (ρ x)) : Fixes π' ρ' s t :=
  ⟨fun p => by rw [hf, hf, h.part], fun e => by rw [hg, hg, h.entry]⟩

/-- What a sequence reads apart from what a mask clears stays where only that changes. -/
theorem Fixes.reads {ρ : Entry → Entry} (h : Fixes π ρ s t) (g : Entry → γ) (hg : ∀ x, g (ρ x) = g x) (e : Nat) :
    g (t.entry e) = g (s.entry e) := by rw [← hg, h.entry, hg]

/-- The same of a partition. -/
theorem Fixes.readsPart {π : Part → Part} (h : Fixes π ρ s t) (g : Part → γ) (hg : ∀ q, g (π q) = g q) (p : Nat) :
    g (t.part p) = g (s.part p) := by rw [← hg, h.part, hg]

/-- An operation that changes no partition and no sequence fixes all of them. -/
theorem Fixes.of_eq (hp : t.parts = s.parts) (he : t.entries = s.entries) : Fixes π ρ s t :=
  ⟨fun p => by rw [State.part, hp]; rfl, fun e => by rw [State.entry, he]; rfl⟩

theorem Fixes.of_keeps {F : Footprint} (h : Keeps F s t) (hp : F.parts = false) (he : F.entries = false) : Fixes π ρ s t :=
  Fixes.of_eq (h.outside.parts hp) (h.outside.entries he)

theorem Fixes.modPart (p : Nat) {f : Part → Part} (hf : ∀ q, π (f q) = π q) : Fixes π ρ s (s.modPart p f) where
  part j := by
    by_cases h : j = p
    · rw [h, State.modPart_part_self, hf]
    · rw [State.modPart_part_other s h]
  entry _ := rfl

theorem Fixes.modEntry (e : Nat) {f : Entry → Entry} (hf : ∀ x, ρ (f x) = ρ x) : Fixes π ρ s (s.modEntry e f) where
  part _ := rfl
  entry j := by
    by_cases h : j = e
    · rw [h, State.modEntry_entry_self, hf]
    · rw [State.modEntry_entry_other s h]

theorem Fixes.modFn (n : Nat) (f : Fn → Fn) : Fixes π ρ s (s.modFn n f) := Fixes.of_eq rfl rfl

theorem Fixes.modFport (n : Nat) (f : FeedPort → FeedPort) : Fixes π ρ s (s.modFport n f) := Fixes.of_eq rfl rfl

theorem Fixes.ite {c : Prop} [Decidable c] {u : State} (ht : Fixes π ρ s t) (hu : Fixes π ρ s u) : Fixes π ρ s (if c then t else u) := by
  split
  · exact ht
  · exact hu

theorem Fixes.foldl {κ : Type} {f : State → κ → State} (hf : ∀ m x, Fixes π ρ m (f m x)) (l : List κ) (s : State) :
    Fixes π ρ s (l.foldl f s) := by
  induction l generalizing s with
  | nil => exact Fixes.refl s
  | cons x l ih => exact (hf s x).trans (ih _)

/-! ### Reports and function events -/

theorem report_fixes (die block cls : Nat) (part : Option Nat) (fields : List (Nat × Nat)) :
    Fixes π ρ s (report s die block cls part fields) :=
  Fixes.of_keeps (F := { mcEv := true, dies := true }) (report_keeps (Keeps.refl _ s) die block cls part fields rfl rfl) rfl rfl

theorem reportLead_fixes (p cls : Nat) (fields : List (Nat × Nat)) : Fixes π ρ s (reportLead s p cls fields) :=
  report_fixes _ _ _ _ _

theorem setEvt_fixes (fn bit : Nat) : Fixes π ρ s (setEvt s fn bit) :=
  Fixes.of_keeps (F := { fns := true, out := true }) (setEvt_keeps (Keeps.refl _ s) fn bit rfl rfl) rfl rfl

/-- A completion changes functions alone. -/
theorem produce_fixes (fn : Nat) (c : Compl) : Fixes π ρ s (produce s fn c) := by
  unfold produce
  extract_lets s'
  have h : Fixes π ρ s s' := Fixes.ite (Fixes.modFn _ _) (Fixes.refl s)
  split
  · exact h.trans (Fixes.modFn _ _)
  · split
    · exact h.trans (Fixes.modFn _ _)
    · exact h.trans (Fixes.modFn _ _)

end Sys2Proof.Machine
end

section
/-! SUPPORT. What the operations on key-value memory change: image slots, and the pages, index and leaves of sequences. -/

namespace Sys2Proof.Machine

variable {s t : State}

/-- A partition apart from its image slots, whose pools KV memory draws on. -/
def sansSlots (q : Part) : Part := { q with slots := [] }

/-- A sequence apart from the descriptors of its KV memory. -/
def sansPages (x : Entry) : Entry := { x with pages := [], index := [], leaves := [] }

/-- Only image slots and descriptors of KV memory differ. -/
abbrev KvOnly : State → State → Prop := Fixes sansSlots sansPages

theorem modPool_kvOnly (p k : Nat) (f : KvPool → KvPool) : KvOnly s (modPool s p k f) := Fixes.modPart p fun _ => rfl

theorem checkLow_kvOnly (p k : Nat) : KvOnly s (checkLow s p k) := by
  unfold checkLow
  exact Fixes.ite (modPool_kvOnly _ _ _)
    (Fixes.ite (Fixes.refl s) ((modPool_kvOnly _ _ _).trans (reportLead_fixes _ _ _)))

theorem takeStripe_kvOnly {p k n : Nat} (h : takeStripe s p k = some (n, t)) : KvOnly s t := by
  simp only [takeStripe, Option.map_eq_some_iff, Prod.mk.injEq] at h
  obtain ⟨r, -, -, rfl⟩ := h
  exact (modPool_kvOnly _ _ _).trans (checkLow_kvOnly _ _)

theorem returnStripe_kvOnly (p k stripe : Nat) : KvOnly s (returnStripe s p k stripe) := by
  unfold returnStripe
  exact Fixes.ite (Fixes.refl s) ((modPool_kvOnly _ _ _).trans (checkLow_kvOnly _ _))

theorem ctrlWrite_kvOnly (p k off : Nat) (bs : List Byte) : KvOnly s (ctrlWrite s p k off bs) :=
  Fixes.of_keeps (F := { stackTab := true, dram := true }) (ctrlWrite_keeps (Keeps.refl _ s) p k off bs rfl rfl) rfl rfl

theorem setRoot_kvOnly (p e r : Nat) (leaf : Option Nat) : KvOnly s (setRoot s p e r leaf) :=
  (ctrlWrite_kvOnly _ _ _ _).after (Fixes.modEntry e fun _ => rfl)

theorem setDesc_kvOnly (p e : Nat) (ix : Bool) (j : Nat) (d : PageDesc) : KvOnly s (setDesc s p e ix j d) := by
  unfold setDesc
  extract_lets r s1 s2
  have h1 : KvOnly s s1 := Fixes.modEntry e fun _ => by cases ix <;> rfl
  have h2 : KvOnly s s2 := Fixes.ite (h1.trans (setRoot_kvOnly _ _ _ _)) h1
  split
  · exact h2
  · exact Fixes.ite (h2.trans (ctrlWrite_kvOnly _ _ _ _)) ((h2.trans (ctrlWrite_kvOnly _ _ _ _)).trans (setRoot_kvOnly _ _ _ _))

theorem setDescs_kvOnly (p e : Nat) (ix : Bool) (ds : List (Nat × PageDesc)) : KvOnly s (setDescs s p e ix ds) :=
  Fixes.foldl (fun _ _ => setDesc_kvOnly _ _ _ _ _) ds s

theorem emptyPage_kvOnly (p k e page : Nat) : KvOnly s (emptyPage s p k e page) := by
  unfold emptyPage
  exact Fixes.ite (Fixes.refl s) ((setDesc_kvOnly _ _ _ _ _).trans (returnStripe_kvOnly _ _ _))

theorem trimIndex_kvOnly (p k e : Nat) : KvOnly s (trimIndex s p k e) := by
  unfold trimIndex
  split
  · exact Fixes.refl s
  · exact Fixes.foldl (fun _ _ => (setDesc_kvOnly _ _ _ _ _).trans (returnStripe_kvOnly _ _ _)) _ s

theorem indexStripe_kvOnly {p k e n i : Nat} (h : indexStripe s p k e n = some (i, t)) : KvOnly s t := by
  unfold indexStripe at h
  dsimp only at h
  split at h
  · cases h; exact Fixes.refl s
  · split at h
    · cases h
    · simp only [Option.map_eq_some_iff, Prod.mk.injEq] at h
      obtain ⟨r, hr, -, rfl⟩ := h
      exact (takeStripe_kvOnly hr).trans (setDesc_kvOnly _ _ _ _ _)

/-- One pair's summary: a write of DRAM and a count of its engine. -/
theorem storeSummary_kvOnly (a d e : Nat) (bs : List Byte) (poison : Bool) (f : Ae → Ae) :
    KvOnly s (modAe (dramWrite s a bs poison) d e f) :=
  Fixes.of_keeps (F := { dies := true, stackTab := true, dram := true })
    (modAe_keeps (dramWrite_keeps (Keeps.refl _ s) a bs poison rfl rfl) d e f rfl) rfl rfl

theorem writeSummary_kvOnly (p k e page : Nat) : KvOnly s (writeSummary s p k e page) := by
  unfold writeSummary
  split
  · exact Fixes.refl s
  · dsimp only
    split
    · exact Fixes.refl s
    · split
      · exact Fixes.refl s
      · rename_i heq
        refine ((indexStripe_kvOnly heq).trans (Fixes.foldl (fun m i => ?_) _ _)).trans (setDesc_kvOnly _ _ _ _ _)
        split
        · exact storeSummary_kvOnly _ _ _ _ _ _
        · exact Fixes.refl m

end Sys2Proof.Machine
end

section
/-! SUPPORT. What the items of sequences leave alone: the passes and the progress of partitions, and how far sequences have come. -/

namespace Sys2Proof.Machine

variable {α β : Type} {π : Part → α} {ρ : Entry → β} {s : State}

/-- The passes in flight of a partition, its progress, and the passes its governor has counted. -/
def flight (q : Part) : List Pass × Nat × Dword := (q.passes, q.progress, q.fbgPasses)

/-- How far a sequence has come: its length, and what of it is committed. -/
def reach (x : Entry) : Nat × Nat := (x.length, x.committed)

/-- Passes and progress of every partition, length and committed length of every sequence stay. -/
abbrev SameFlight : State → State → Prop := Fixes flight reach

theorem modItem_sameFlight (e id : Nat) (f : Item → Item) : SameFlight s (modItem s e id f) := Fixes.modEntry e fun _ => rfl

theorem modCnt_sameFlight (p : Nat) (f : ServCnt → ServCnt) : SameFlight s (modCnt s p f) := Fixes.modPart p fun _ => rfl

/-! ### Records and completions -/

theorem spoolAdd_sameFlight (p : Nat) (bytes : List Byte) : SameFlight s (spoolAdd s p bytes) := by
  unfold spoolAdd
  dsimp only
  split
  · exact Fixes.refl s
  · have hdrop (n : Nat) (f : Fn → Fn) : SameFlight s (setEvt (s.modFn n f) n 4) := (Fixes.modFn n f).trans (setEvt_fixes _ _)
    refine Fixes.ite (Fixes.modPart p fun _ => rfl) (Fixes.ite (hdrop _ _) ((report_fixes _ _ _ _ _).after ?_))
    exact (hdrop _ _).trans (Fixes.modPart p fun _ => rfl)

theorem sendRecord_sameFlight (p port : Nat) (rec : List Byte) : SameFlight s (sendRecord s p port rec) := by
  unfold sendRecord
  split
  · exact Fixes.modPart p fun _ => rfl
  · dsimp only
    split
    · exact (Fixes.modFport _ _).trans (Fixes.modPart p fun _ => rfl)
    · refine Fixes.trans ?_ (Fixes.modFport _ _)
      exact Fixes.trans (m := (freeWord s).1) (Fixes.of_eq rfl rfl) (Fixes.modPart p fun _ => rfl)

theorem egressNarr_sameFlight (p : Nat) (rec : List Byte) : SameFlight s (egressNarr s p rec) := by
  unfold egressNarr
  extract_lets v s'
  have h : SameFlight s s' := Fixes.ite (spoolAdd_sameFlight _ _) (Fixes.refl s)
  exact Fixes.ite (h.trans (sendRecord_sameFlight _ _ _)) h

theorem keyRemove_sameFlight (p e : Nat) : SameFlight s (keyRemove s p e) := Fixes.ite (Fixes.modPart p fun _ => rfl) (Fixes.refl s)

theorem markClosing_sameFlight (p e : Nat) : SameFlight s (markClosing s p e) :=
  (keyRemove_sameFlight p e).after (Fixes.modEntry e fun _ => rfl)

theorem finishItem_sameFlight (p e id reason : Nat) (limit stop : Bool) : SameFlight s (finishItem s p e id reason limit stop) := by
  unfold finishItem
  split
  · exact Fixes.refl s
  · extract_lets s1 s2
    have h1 : SameFlight s s1 := Fixes.modEntry e fun _ => rfl
    have h2 : SameFlight s s2 := by
      unfold s2
      split
      · exact Fixes.ite (h1.trans (produce_fixes _ _)) h1
      · exact h1
    split
    · exact h2
    · exact (h2.trans (egressNarr_sameFlight _ _)).trans (markClosing_sameFlight _ _)

theorem removeItem_sameFlight (p e id reason : Nat) : SameFlight s (removeItem s p e id reason) := by
  unfold removeItem
  split
  · exact Fixes.refl s
  · extract_lets s'
    have h : SameFlight s s' := Fixes.ite (Fixes.modEntry e fun _ => rfl) (Fixes.refl s)
    exact Fixes.ite (h.trans (finishItem_sameFlight _ _ _ _ _ _)) (h.trans (Fixes.modEntry e fun _ => rfl))

theorem settleRemoved_sameFlight (p e id : Nat) : SameFlight s (settleRemoved s p e id) := by
  unfold settleRemoved
  split
  · exact Fixes.refl s
  · split
    · exact Fixes.ite (finishItem_sameFlight _ _ _ _ _ _) (Fixes.refl s)
    · exact Fixes.refl s

/-! ### Deadlines and tokens -/

theorem addHist_fixes (hπ : ∀ (q : Part) (c : ServCnt), π { q with cnt := c } = π q) (p kind cls ns : Nat) :
    Fixes π ρ s (addHist s p kind cls ns) := by
  unfold addHist
  extract_lets key bump s'
  have h : Fixes π ρ s s' := Fixes.modPart p fun q => hπ q _
  split
  · exact h.trans (Fixes.modFn _ _)
  · exact h

/-- A miss changes serving counters and the misses of its sequence. -/
theorem recordMiss_fixes (hπ : ∀ (q : Part) (c : ServCnt), π { q with cnt := c } = π q)
    (hρ : ∀ (x : Entry) (n : Nat), ρ { x with misses := n } = ρ x) (p e kind cls late : Nat) :
    Fixes π ρ s (recordMiss s p e kind cls late) := by
  unfold recordMiss
  extract_lets s1 s2
  have h1 : Fixes π ρ s s1 := Fixes.modEntry e fun x => hρ x _
  have h2 : Fixes π ρ s s2 := h1.trans (Fixes.modPart p fun q => hπ q _)
  exact h2.trans (reportLead_fixes _ _ _)

theorem tokenWrite_sameFlight (e : Nat) (i : Item) (tok : Nat) : SameFlight s (tokenWrite s e i tok) := by
  unfold tokenWrite
  split
  · exact Fixes.refl s
  · exact Fixes.ite (Fixes.refl s) (Fixes.ite (Fixes.of_eq rfl rfl) (modItem_sameFlight _ _ _))

theorem narrFlush_sameFlight (p e : Nat) (i : Item) : SameFlight s (narrFlush s p e i) := by
  unfold narrFlush
  split
  · exact Fixes.refl s
  · exact Fixes.ite (Fixes.refl s) ((egressNarr_sameFlight _ _).trans (modItem_sameFlight _ _ _))

theorem tokenTimes_sameFlight (p e : Nat) (i : Item) : SameFlight s (tokenTimes s p e i) :=
  Fixes.ite ((addHist_fixes (fun _ _ => rfl) _ _ _ _).trans (recordMiss_fixes (fun _ _ => rfl) (fun _ _ => rfl) _ _ _ _ _)) (addHist_fixes (fun _ _ => rfl) _ _ _ _)

theorem tokenKeep_sameFlight (e id : Nat) (i : Item) (tok : Nat) (miss : Bool) : SameFlight s (tokenKeep s e id i tok miss) := by
  unfold tokenKeep
  extract_lets s1 s2
  have h1 : SameFlight s s1 := tokenWrite_sameFlight _ _ _
  have h2 : SameFlight s s2 := Fixes.ite (h1.trans (Fixes.modEntry e fun _ => rfl)) h1
  exact h2.trans (modItem_sameFlight _ _ _)

theorem tokenNotify_sameFlight (e id : Nat) (i : Item) : SameFlight s (tokenNotify s e id i) := by
  unfold tokenNotify
  split
  · exact Fixes.ite ((produce_fixes _ _).trans (modItem_sameFlight _ _ _)) (Fixes.refl s)
  · exact Fixes.refl s

theorem yieldToken_sameFlight (p e id tok : Nat) : SameFlight s (yieldToken s p e id tok).1 := by
  unfold yieldToken
  split
  · exact Fixes.refl s
  · extract_lets s' i
    have h : SameFlight s s' := (tokenTimes_sameFlight _ _ _).trans (tokenKeep_sameFlight _ _ _ _ _)
    split
    · exact h
    · split
      · exact h.trans (finishItem_sameFlight _ _ _ _ _ _)
      · split
        · exact h.trans (finishItem_sameFlight _ _ _ _ _ _)
        · exact (h.trans (narrFlush_sameFlight _ _ _)).trans (tokenNotify_sameFlight _ _ _)

theorem yieldTokens_sameFlight (p e id : Nat) (toks : List Nat) : SameFlight s (yieldTokens p e id toks s) := by
  induction toks generalizing s with
  | nil => exact Fixes.refl s
  | cons t ts ih => exact Fixes.ite (yieldToken_sameFlight _ _ _ _) ((yieldToken_sameFlight _ _ _ _).trans ih)

/-! ### The items of committed and failed passes -/

theorem decodeItem_sameFlight (p : Nat) (x : Pass) : SameFlight s (decodeItem s p x) := by
  unfold decodeItem
  split
  · exact Fixes.refl s
  · extract_lets s1 e s2
    have h1 : SameFlight s s1 := (modItem_sameFlight _ _ _).trans (modItem_sameFlight _ _ _)
    split
    · exact h1
    · have h2 : SameFlight s s2 := Fixes.ite (h1.trans (Fixes.modEntry _ fun _ => rfl)) h1
      exact Fixes.ite
        ((Fixes.ite h1 (h1.trans (yieldTokens_sameFlight _ _ _ _))).trans (settleRemoved_sameFlight _ _ _))
        (Fixes.ite (h1.trans (removeItem_sameFlight _ _ _ _)) (Fixes.ite h1 (h2.trans (yieldTokens_sameFlight _ _ _ _))))

theorem scoreItem_sameFlight (p : Nat) (x : Pass) : SameFlight s (scoreItem s p x).1 := by
  unfold scoreItem
  split
  · exact Fixes.refl s
  · extract_lets miss s1 s2 n ws s3 i s4
    have h1 : SameFlight s s1 := Fixes.ite (Fixes.refl s) (addHist_fixes (fun _ _ => rfl) _ _ _ _)
    have h2 : SameFlight s s2 := Fixes.ite (h1.trans (recordMiss_fixes (fun _ _ => rfl) (fun _ _ => rfl) _ _ _ _ _)) h1
    have h4 : SameFlight s s4 := (h2.trans (modItem_sameFlight _ _ _)).trans (settleRemoved_sameFlight _ _ _)
    exact Fixes.ite (h4.trans (finishItem_sameFlight _ _ _ _ _ _)) h4

theorem makeCandidates_sameFlight (p : Nat) (x : Pass) (missed : Bool) : SameFlight s (makeCandidates s p x missed) := by
  unfold makeCandidates
  extract_lets v s1 cr e full status first dig cs s2 s3 feedback s4
  have h1 : SameFlight s s1 := modCnt_sameFlight _ _
  have h2 : SameFlight s s2 := h1.trans (Fixes.modPart p fun _ => rfl)
  have h3 : SameFlight s s3 := h2.trans (modCnt_sameFlight _ _)
  have h4 : SameFlight s s4 := h3.trans (modCnt_sameFlight _ _)
  refine Fixes.ite h1 ?_
  clear_value status s4
  split
  · exact h3.trans (Fixes.modPart p fun _ => rfl)
  · refine Fixes.ite h4 ((reportLead_fixes _ _ _).after ?_)
    exact h4.trans (Fixes.modPart p fun _ => rfl)
  · exact h3

theorem failItems_sameFlight (p e : Nat) (xs : List Pass) : SameFlight s (failItems s p e xs) := by
  refine Fixes.foldl (fun m id => ?_) _ s
  split
  · exact Fixes.refl m
  · exact finishItem_sameFlight _ _ _ _ _ _

end Sys2Proof.Machine
end

section
/-! SUPPORT. What the parts of a commit and of a failure leave: passes, counts, lengths and items. -/

namespace Sys2Proof.Machine

variable {α β : Type} {π : Part → α} {ρ : Entry → β} {s t : State}

/-! ### Passes that leave -/

theorem dropPasses_tiles (s : State) (p : Nat) (f : Kept → Bool) :
    Fixes π ρ s ((s.part p).tiles.foldl (fun s t => s.modTile t (forgetTile f)) s) := by
  refine Fixes.foldl (fun m t => ?_) _ s
  exact Fixes.of_eq rfl rfl

theorem dropPasses_part (s : State) (p : Nat) (ids : List Nat) :
    (dropPasses s p ids).part p = { s.part p with passes := (s.part p).passes.filter fun x => !ids.contains x.id } := by
  unfold dropPasses
  extract_lets f s'
  have h : s'.part p = s.part p := (dropPasses_tiles (π := id) (ρ := id) s p f).part p
  rw [State.modPart_part_self, h]

theorem dropPasses_entry (s : State) (p : Nat) (ids : List Nat) (e : Nat) : (dropPasses s p ids).entry e = s.entry e :=
  (dropPasses_tiles (π := id) (ρ := id) s p _).entry e

theorem confirmWords_fixes (p : Nat) (x : Pass) : Fixes π ρ s (confirmWords s p x) :=
  Fixes.of_keeps (F := { tiles := true }) (confirmWords_keeps (Keeps.refl _ s) p x rfl) rfl rfl

theorem governor_entry (s : State) (p : Nat) (x : Pass) (e : Nat) : (governor s p x).entry e = s.entry e := by
  unfold governor
  dsimp only
  split
  · rw [State.modPart_entry']
  · rw [State.modPart_entry', State.modPart_entry']

/-- The governor counts the pass, and takes none away. -/
theorem governor_flight (s : State) (p : Nat) (x : Pass) :
    flight ((governor s p x).part p) = ((s.part p).passes, (s.part p).progress, wrapAdd (s.part p).fbgPasses 1) := by
  unfold governor
  dsimp only
  split
  · rw [State.modPart_part_self]; rfl
  · rw [State.modPart_part_self, State.modPart_part_self]; rfl

/-! ### Lengths (R135, R241, R242) -/

/-- A sequence apart from the descriptors of its KV memory and from what has committed. -/
def sansCommitted (x : Entry) : Entry := { sansPages x with committed := 0, tLast := 0 }

/-- A sequence apart from the descriptors of its KV memory and from its length. -/
def sansLength (x : Entry) : Entry := { sansPages x with length := 0 }

theorem advance_fixes (p k e len : Nat) : Fixes sansSlots sansCommitted s (advance s p k e len) := by
  unfold advance
  extract_lets old s1 s2
  have h1 : Fixes sansSlots sansCommitted s s1 :=
    (setDescs_kvOnly p e false _).coarsen id sansCommitted (fun _ => rfl) fun _ => rfl
  have h2 : Fixes sansSlots sansCommitted s s2 := h1.trans (Fixes.modEntry e fun _ => rfl)
  refine h2.trans (Fixes.foldl (fun m g => ?_) _ s2)
  exact (writeSummary_kvOnly p k e g).coarsen id sansCommitted (fun _ => rfl) fun _ => rfl

theorem advance_committed (s : State) (p k e len : Nat) : ((advance s p k e len).entry e).committed = len := by
  unfold advance
  extract_lets old s1 s2
  have h2 : (s2.entry e).committed = len := by unfold s2; rw [State.modEntry_entry_self]
  have h3 (l : List Nat) : KvOnly s2 (l.foldl (fun s g => writeSummary s p k e g) s2) :=
    Fixes.foldl (fun m g => writeSummary_kvOnly p k e g) l s2
  rw [(h3 _).reads Entry.committed (fun _ => rfl) e, h2]

theorem rejectPages_fixes (p e : Nat) : Fixes sansSlots sansLength s (rejectPages s p e) := by
  unfold rejectPages
  extract_lets x ps s1 s2
  have h1 : KvOnly s s1 := (Fixes.foldl (fun _ _ => emptyPage_kvOnly _ _ _ _) ps s).trans (trimIndex_kvOnly _ _ _)
  have h2 : KvOnly s s2 := h1.trans (modPool_kvOnly _ _ _)
  have h3 : Fixes sansSlots sansLength s s2 := h2.coarsen id sansLength (fun _ => rfl) fun _ => rfl
  exact h3.trans (Fixes.modEntry e fun _ => rfl)

/-- A sequence whose pages are rejected falls back to what is committed. -/
theorem rejectPages_reach (s : State) (p e : Nat) :
    reach ((rejectPages s p e).entry e) = ((s.entry e).committed, (s.entry e).committed) := by
  have hc := (rejectPages_fixes (s := s) p e).reads Entry.committed (fun _ => rfl) e
  have hl : ((rejectPages s p e).entry e).length = ((rejectPages s p e).entry e).committed := by
    unfold rejectPages; rw [State.modEntry_entry_self]
  rw [reach, hl, hc]

/-! ### Items -/

/-- The items of a sequence, queued and removed. -/
def items (x : Entry) : List Item := x.queue ++ x.gone

theorem findItem_of_items {e : Nat} (h : items (t.entry e) = items (s.entry e)) (id : Nat) : findItem t e id = findItem s e id :=
  congrArg (List.find? fun i : Item => i.id == id) h

/-- A change of an item that keeps its number changes what is found under it. -/
theorem findItem_modItem (s : State) (e id : Nat) (f : Item → Item) (hf : ∀ i, (f i).id = i.id) :
    findItem (modItem s e id f) e id = (findItem s e id).map f := by
  have hid : ((fun i : Item => i.id == id) ∘ fun i => if i.id == id then f i else i) = fun i => i.id == id := by
    funext i
    by_cases h : (i.id == id) = true
    · rw [Function.comp_apply, if_pos h, hf]
    · rw [Function.comp_apply, if_neg h]
  unfold findItem modItem
  rw [State.modEntry_entry_self, ← List.map_append, List.find?_map, hid]
  refine Option.map_congr fun i hi => ?_
  rw [if_pos (List.find?_some hi)]

/-- A sequence without one of its items. -/
def dropItem (s : State) (e id : Nat) : State := s.modEntry e fun x =>
  { x with queue := x.queue.filter fun j => j.id != id, gone := x.gone.filter fun j => j.id != id }

/-- An item of a live host command that is no narrative ends with its completion. -/
theorem finishItem_host {e id : Nat} {i : Item} {h : HostRef} (hi : findItem s e id = some i) (hn : i.narr = none)
    (hh : i.host = some h) (hl : h.live = true) (p reason : Nat) (limit stop : Bool) :
    finishItem s p e id reason limit stop =
      produce (dropItem s e id) h.fn (itemCompl (dropItem s e id) e i h reason false limit stop) := by
  simp only [finishItem, hi, hn, hh, hl, if_true]
  rfl

/-! ### Completions -/

theorem replaceProgress_mem {c : Compl} {l b : List Compl} (h : replaceProgress c l = some b) :
    ∃ pre, { c with data := pre ++ c.data } ∈ b := by
  induction l generalizing b with
  | nil => cases h
  | cons d l ih =>
    simp only [replaceProgress] at h
    split at h
    · cases h; exact ⟨d.data, List.mem_cons_self⟩
    · obtain ⟨b', hb, rfl⟩ := Option.map_eq_some_iff.mp h
      obtain ⟨pre, hm⟩ := ih hb
      exact ⟨pre, List.mem_cons_of_mem _ hm⟩

/-- A completion that is not quiet is in the buffer once it is produced, behind the data writes of a PROGRESS it replaces. -/
theorem produce_mem {c : Compl} (hq : c.quiet = false) (s : State) (fn : Nat) :
    ∃ pre, { c with data := pre ++ c.data } ∈ ((produce s fn c).fnOf fn).buffer := by
  unfold produce
  extract_lets s' r waiting stalled
  rw [if_neg (by simp [hq])]
  split
  · next b hb => rw [State.modFn_fnOf_self]; exact replaceProgress_mem hb
  · rw [State.modFn_fnOf_self]; exact ⟨[], by simp⟩

end Sys2Proof.Machine
end

section
/-! SUPPORT. The commit of one pass (R133 to R139, R268). -/

namespace Sys2Proof.Machine

variable {s t : State} {p : Nat} {x : Pass}

/-- The state where a pass has committed, before its item takes note: its length has advanced and the governor has counted it. -/
def committedPass (s : State) (p : Nat) (x : Pass) : State :=
  governor (confirmWords (advance s p x.slot x.entry (x.pos + 1)) p x) p x

/-- The item of a pass takes note of its commit. -/
def committedItem (s : State) (p : Nat) (x : Pass) : State :=
  if (s.entry x.entry).draft then s
  else match (findItem s x.entry x.item).map Item.kind with
    | some .decode => decodeItem s p x
    | some .score => makeCandidates (scoreItem s p x).1 p x (scoreItem s p x).2
    | none => s

theorem commitOne_eq (s : State) (p : Nat) (x : Pass) : commitOne s p x = committedItem (committedPass s p x) p x := by
  unfold commitOne
  extract_lets s1 s2 r
  change _ = committedItem s2 p x
  clear_value s2
  rfl

theorem committedPass_flight (s : State) (p : Nat) (x : Pass) : flight ((committedPass s p x).part p) =
    ((s.part p).passes, (s.part p).progress, wrapAdd (s.part p).fbgPasses 1) := by
  rw [committedPass, governor_flight]
  exact congrArg (fun f : List Pass × Nat × Dword => (f.1, f.2.1, wrapAdd f.2.2 1))
    (((advance_fixes p x.slot x.entry (x.pos + 1)).trans (confirmWords_fixes p x)).readsPart flight (fun _ => rfl) p)

theorem committedPass_committed (s : State) (p : Nat) (x : Pass) : ((committedPass s p x).entry x.entry).committed = x.pos + 1 := by
  rw [committedPass, governor_entry, (confirmWords_fixes (π := id) (ρ := id) p x).reads Entry.committed fun _ => rfl,
    advance_committed]

/-- Its sequence is otherwise the same, KV memory apart. -/
theorem committedPass_reads {γ : Type} (s : State) (p : Nat) (x : Pass) (g : Entry → γ) (hg : ∀ y, g (sansCommitted y) = g y) (e : Nat) :
    g ((committedPass s p x).entry e) = g (s.entry e) := by
  rw [committedPass, governor_entry]
  exact ((advance_fixes p x.slot x.entry (x.pos + 1)).trans (confirmWords_fixes p x)).reads g hg e

theorem committedItem_sameFlight (s : State) (p : Nat) (x : Pass) : SameFlight s (committedItem s p x) := by
  unfold committedItem
  refine Fixes.ite (Fixes.refl s) ?_
  split
  · exact decodeItem_sameFlight p x
  · exact (scoreItem_sameFlight p x).trans (makeCandidates_sameFlight p x _)
  · exact Fixes.refl s

/-- A committed pass is counted and ends no other; its sequence is committed up to its position. -/
theorem commitOne_flight (s : State) (p : Nat) (x : Pass) : flight ((commitOne s p x).part p) =
    ((s.part p).passes, (s.part p).progress, wrapAdd (s.part p).fbgPasses 1) := by
  rw [commitOne_eq, (committedItem_sameFlight _ p x).part p, committedPass_flight]

theorem commitOne_committed (s : State) (p : Nat) (x : Pass) : ((commitOne s p x).entry x.entry).committed = x.pos + 1 := by
  have h := congrArg Prod.snd ((committedItem_sameFlight (committedPass s p x) p x).entry x.entry)
  simp only [reach] at h
  rw [commitOne_eq, h, committedPass_committed]

/-! ### The last pass of a SCORE item -/

/-- Where the scores of a pass are written, and what (R379). -/
def scoreWrites (i : Item) (x : Pass) : List (Nat × List Byte) :=
  if i.result = 0 then []
  else ((List.range x.scores.length).zip x.scores).map fun q => (i.result + 4 * (i.done * x.scores.length + q.1), toLe 4 q.2)

theorem scoreWrites_mem {i : Item} (hr : i.result ≠ 0) {j : Nat} (hj : j < x.scores.length) :
    (i.result + 4 * (i.done * x.scores.length + j), toLe 4 (x.scores.getD j 0)) ∈ scoreWrites i x := by
  rw [scoreWrites, if_neg hr, List.mem_map]
  refine ⟨(j, x.scores.getD j 0), ?_, rfl⟩
  rw [List.mem_iff_getElem]
  exact ⟨j, by simpa using hj, by simp [hj]⟩

/-- A SCORE item after the commit of one of its passes (R268, R379). -/
def scored (x : Pass) (ws : List (Nat × List Byte)) (miss : Bool) (now : Nat) (i : Item) : Item :=
  { i with
    done := i.done + 1, open_ := i.open_ - 1, missed := i.missed || miss, tCommit := now
    score := x.scores.getD 0 0x7FC00000, writes := i.writes ++ ws }

/-- How far a sequence has come, and its items. -/
def reachItems (x : Entry) : (Nat × Nat) × List Item := (reach x, items x)

/-- The last pass of a SCORE item ends it. -/
theorem scoreItem_last {i : Item} (hi : findItem s x.entry x.item = some i) (hl : i.left = []) (ho : i.open_ = 1) (hr : i.removal = none)
    (p : Nat) : ∃ m miss now, SameFlight s m ∧ findItem m x.entry x.item = some (scored x (scoreWrites i x) miss now i) ∧
      (scoreItem s p x).1 = finishItem m p x.entry x.item 0 false false := by
  unfold scoreItem
  split
  · next h => rw [hi] at h; cases h
  · next i' h =>
    obtain rfl : i' = i := by rw [hi] at h; exact (Option.some.inj h).symm
    extract_lets miss s1 s2 n ws s3 j s4
    have h1 : Fixes flight reachItems s s1 := Fixes.ite (Fixes.refl s) (addHist_fixes (fun _ _ => rfl) _ _ _ _)
    have h2 : Fixes flight reachItems s s2 :=
      Fixes.ite (h1.trans (recordMiss_fixes (fun _ _ => rfl) (fun _ _ => rfl) _ _ _ _ _)) h1
    have h3 : SameFlight s s3 :=
      (h2.coarsen id Prod.fst (fun _ => rfl) fun _ => rfl).trans (modItem_sameFlight _ _ _)
    have hj : findItem s3 x.entry x.item = some (scored x ws miss s2.now i') := by
      have hm : findItem s3 x.entry x.item = (findItem s2 x.entry x.item).map (scored x ws miss s2.now) :=
        findItem_modItem s2 x.entry x.item (scored x ws miss s2.now) fun _ => rfl
      rw [hm, findItem_of_items (congrArg Prod.snd (h2.entry x.entry)), hi, Option.map_some]
    have hjeq : j = scored x ws miss s2.now i' := by unfold j; rw [hj, Option.getD_some]
    have h4 : s4 = s3 := by
      unfold s4
      simp only [settleRemoved, hj, scored, hr]
    refine ⟨s3, miss, s2.now, h3, hj, ?_⟩
    rw [h4, hjeq, if_pos (by simp [scored, hr, hl, ho])]

theorem makeCandidates_fnOf (s : State) (p : Nat) (x : Pass) (missed : Bool) (n : Nat) :
    (makeCandidates s p x missed).fnOf n = s.fnOf n := by
  have h := makeCandidates_keeps (F := { mcEv := true, dies := true, parts := true }) (Keeps.refl _ s) p x missed rfl rfl rfl
  rw [State.fnOf, h.outside.fns rfl]; rfl

end Sys2Proof.Machine
end

section
/-! SUPPORT. The failure of one pass (R23, R134, R242). -/

namespace Sys2Proof.Machine

variable {s : State} {p e : Nat} {x : Pass}

/-- The state where the passes of a sequence from a position on have failed, before their items end. -/
def failedPasses (s : State) (p e pos : Nat) : State :=
  rejectPages ((dropPasses s p (((passesOf s p e).filter fun x => decide (pos ≤ x.pos)).map Pass.id)).modEntry e fun x =>
    { x with verify := none }) p e

theorem failFrom_sameFlight (s : State) (p e pos : Nat) (poison : Option Nat) :
    SameFlight (failedPasses s p e pos) (failFrom s p e pos poison) := by
  unfold failFrom
  extract_lets xs xs' s1 s2
  have h : failedPasses s p e pos = s2 := rfl
  rw [h]
  exact Fixes.ite (Fixes.refl s2) (failItems_sameFlight p e xs')

theorem failedPasses_passes (s : State) (p e pos : Nat) : ((failedPasses s p e pos).part p).passes =
    (s.part p).passes.filter fun y => !(((passesOf s p e).filter fun x => decide (pos ≤ x.pos)).map Pass.id).contains y.id := by
  rw [failedPasses, (rejectPages_fixes p e).readsPart Part.passes (fun _ => rfl) p, State.modEntry_part', dropPasses_part]

/-- No pass of the sequence at the position or above is left. -/
theorem failedPasses_below {pos : Nat} {y : Pass} (hy : y ∈ ((failedPasses s p e pos).part p).passes) (he : y.entry = e) : y.pos < pos := by
  rw [failedPasses_passes, List.mem_filter] at hy
  obtain ⟨hmem, hleft⟩ := hy
  by_contra hpos
  have hin : y ∈ (passesOf s p e).filter fun x => decide (pos ≤ x.pos) := by
    simp only [passesOf, List.mem_filter, beq_iff_eq, decide_eq_true_eq]
    exact ⟨⟨hmem, he⟩, by omega⟩
  rw [List.contains_iff_mem.mpr (List.mem_map_of_mem hin)] at hleft
  cases hleft

theorem failedPasses_reach (s : State) (p e pos : Nat) :
    reach ((failedPasses s p e pos).entry e) = ((s.entry e).committed, (s.entry e).committed) := by
  rw [failedPasses, rejectPages_reach, State.modEntry_entry_self, dropPasses_entry]

/-- A pass of a sequence without a partner fails alone with the later passes of its sequence. -/
theorem failGroup_single (hx : (s.entry x.entry).partnerValid = false) (p : Nat) :
    failGroup s p [x] = if ((s.part p).passes.filter fun y => [x.entry].contains y.entry).length = 0
      then failFrom s p x.entry x.pos x.poison else progress (failFrom s p x.entry x.pos x.poison) p := by
  have hes : [x.entry].eraseDups = [x.entry] := by simp [List.eraseDups_cons]
  have hwhy : [x].findSome? Pass.poison = x.poison := by cases h : x.poison <;> simp [h]
  simp [failGroup, hes, hwhy, hx]

/-- Its passes are those left below it, and its sequence falls back to what is committed. -/
theorem failGroup_fixes (hx : (s.entry x.entry).partnerValid = false) (p : Nat) :
    Fixes Part.passes reach (failedPasses s p x.entry x.pos) (failGroup s p [x]) := by
  have h : Fixes Part.passes reach (failedPasses s p x.entry x.pos) (failFrom s p x.entry x.pos x.poison) :=
    (failFrom_sameFlight s p x.entry x.pos x.poison).coarsen Prod.fst id (fun _ => rfl) fun _ => rfl
  rw [failGroup_single hx]
  exact Fixes.ite h (h.trans (Fixes.modPart p fun _ => rfl))

end Sys2Proof.Machine
end

section
/-! SUPPORT. PASS_COMMIT of a pass that commits alone (O30). -/

namespace Sys2Proof.Machine

variable {s : State} {p pass : Nat} {x : Pass}

/-- A pass at its commit point that commits alone, the first of its sequence to do so. -/
structure CommitsAlone (s : State) (p pass : Nat) (x : Pass) : Prop where
  isPart : p < 64
  found : findPass s p pass = some x
  group : commitGroup s p x = [x]
  plain : x.verify = false
  first : firstInOrder s p [x] = true
  runs : (s.part p).resetting = false
  reached : atCommitPoint s p x = true

/-- The state a commit starts from: the pass has left, and that is progress. -/
def passLeft (s : State) (p : Nat) (x : Pass) (now : Nat) : State := progress (dropPasses (s.setNow now) p [x.id]) p

theorem passLeft_part (s : State) (p : Nat) (x : Pass) (now : Nat) : (passLeft s p x now).part p =
    { s.part p with passes := (s.part p).passes.filter fun y => y.id != x.id, progress := (s.part p).progress + 1 } := by
  have hid : (fun y : Pass => !(List.contains [x.id] y.id)) = fun y => y.id != x.id := by
    funext y
    by_cases h : y.id = x.id <;> simp [h]
  rw [passLeft, progress, State.modPart_part_self, dropPasses_part, hid]
  rfl

theorem passLeft_entry (s : State) (p : Nat) (x : Pass) (now e : Nat) : (passLeft s p x now).entry e = s.entry e := by
  rw [passLeft, progress, State.modPart_entry', dropPasses_entry, State.setNow_entry']

theorem commitPasses_single (hv : x.verify = false) (s : State) (p : Nat) :
    commitPasses s p [x] = commitOne (progress (dropPasses s p [x.id]) p) p x := by
  unfold commitPasses
  extract_lets s'
  have hf : [x].find? (fun y => y.verify) = none := by simp [hv]
  rw [hf]
  cases hd : (s'.entry x.entry).draft <;> simp [hd] <;> rfl

theorem CommitsAlone.outcome (h : CommitsAlone s p pass x) (now : Nat) : exec (.passCommit p pass now) s =
    .next (if x.poison.isSome then failGroup (s.setNow now) p [x] else commitOne (passLeft s p x now) p x) := by
  obtain ⟨hp, hf, hg, hv, ho, hr, ha⟩ := h
  have hf' : findPass (s.setNow now) p pass = some x := hf
  have hg' : commitGroup (s.setNow now) p x = [x] := hg
  have ho' : firstInOrder (s.setNow now) p [x] = true := ho
  have hr' : ((s.setNow now).part p).resetting = false := hr
  have ha' : atCommitPoint (s.setNow now) p x = true := ha
  have hopen : verifyOpen (s.setNow now) x = true := by simp [verifyOpen, hv]
  refine (guarded_ok (by simpa [instrWellFormed, okPart] using hp) _).trans (congrArg Host.Outcome.next ?_)
  simp only [hf', hg', ho', hr', hopen]
  cases hx : x.poison with
  | none => simp [hx, ha', commitPasses_single hv, passLeft]
  | some r => simp [hx, ha']

theorem CommitsAlone.exec_commits (h : CommitsAlone s p pass x) (hx : x.poison = none) (now : Nat) :
    exec (.passCommit p pass now) s = .next (commitOne (passLeft s p x now) p x) := by
  rw [h.outcome, hx, Option.isSome_none, if_neg Bool.false_ne_true]

theorem CommitsAlone.exec_fails (h : CommitsAlone s p pass x) (hx : x.poison.isSome = true) (now : Nat) :
    exec (.passCommit p pass now) s = .next (failGroup (s.setNow now) p [x]) := by rw [h.outcome, if_pos hx]

/-- The commit of the last pass of a SCORE item of a live host command produces its completion. -/
theorem commitOne_score {i : Item} {h : HostRef} (hd : (s.entry x.entry).draft = false) (hi : findItem s x.entry x.item = some i)
    (hk : i.kind = .score) (hl : i.left = []) (ho : i.open_ = 1) (hr : i.removal = none) (hn : i.narr = none) (hh : i.host = some h)
    (hlive : h.live = true) (hq : h.quiet = false) (p : Nat) :
    ∃ c ∈ ((commitOne s p x).fnOf h.fn).buffer, c.tag = h.tag ∧ c.sq = h.sq ∧ c.reason = 0 ∧
      c.score = x.scores.getD 0 0x7FC00000 ∧ c.count = i.done + 1 ∧ c.position = x.pos + 1 ∧ c.progress = false ∧
      ∀ w ∈ scoreWrites i x, w ∈ c.data := by
  have hi' : findItem (committedPass s p x) x.entry x.item = some i := by
    rw [findItem_of_items (committedPass_reads s p x items (fun _ => rfl) x.entry), hi]
  have hd' : ((committedPass s p x).entry x.entry).draft = false := by
    rw [committedPass_reads s p x Entry.draft (fun _ => rfl), hd]
  obtain ⟨m, miss, now, hm, hj, he⟩ := scoreItem_last hi' hl ho hr p
  have hc : (m.entry x.entry).committed = x.pos + 1 := by
    have h := congrArg Prod.snd (hm.entry x.entry)
    simp only [reach] at h
    rw [h, committedPass_committed]
  have hitem : committedItem (committedPass s p x) p x =
      makeCandidates (scoreItem (committedPass s p x) p x).1 p x (scoreItem (committedPass s p x) p x).2 := by
    simp [committedItem, hd', hi', hk]
  rw [commitOne_eq, hitem, makeCandidates_fnOf, he, finishItem_host hj hn hh hlive]
  obtain ⟨pre, hmem⟩ := produce_mem (c := itemCompl (dropItem m x.entry x.item) x.entry (scored x (scoreWrites i x) miss now i) h 0 false false false)
    hq (dropItem m x.entry x.item) h.fn
  refine ⟨_, hmem, rfl, rfl, rfl, rfl, ?_, ?_, rfl, fun w hw => ?_⟩
  · simp [itemCompl, scored, hk]
  · simp [itemCompl, dropItem, hc]
  · simp [itemCompl, scored, hw]

/-- Settles O30: the pass leaves and commits, or fails with what stands above it; the last pass of a SCORE item completes it. -/
theorem passesCommitOrFail : Obligations.PassesCommitOrFail := by
  unfold Obligations.PassesCommitOrFail
  refine ⟨fun s p pass now x hp hf hg hv ho hr ha => ?_,
    fun s p pass now x i h hp hf hg hv ho hr ha hpoison hd hi _ hk hl hopen hrem hn hh hlive hq => ?_⟩
  · have hx : CommitsAlone s p pass x := ⟨hp, hf, hg, hv, ho, hr, ha⟩
    refine ⟨fun hpoison => ?_, fun hpoison hpv => ?_⟩
    · refine ⟨_, hx.exec_commits hpoison now, ?_⟩
      have hflight := commitOne_flight (passLeft s p x now) p x
      rw [passLeft_part] at hflight
      simp only [flight, Prod.mk.injEq] at hflight
      obtain ⟨hpasses, hprogress, hcount⟩ := hflight
      exact ⟨hpasses, commitOne_committed _ p x, hprogress, hcount⟩
    · refine ⟨_, hx.exec_fails hpoison now, fun y hy he => ?_, ?_⟩
      · rw [(failGroup_fixes (s := s.setNow now) hpv p).part p] at hy
        exact failedPasses_below hy he
      · have hreach := (failGroup_fixes (s := s.setNow now) hpv p).entry x.entry
        rw [failedPasses_reach, State.setNow_entry'] at hreach
        simpa only [reach, Prod.mk.injEq] using hreach
  · have hx : CommitsAlone s p pass x := ⟨hp, hf, hg, hv, ho, hr, ha⟩
    have hd' : ((passLeft s p x now).entry x.entry).draft = false := by rw [passLeft_entry, hd]
    have hi' : findItem (passLeft s p x now) x.entry x.item = some i := by
      rw [findItem_of_items (congrArg items (passLeft_entry s p x now x.entry)), hi]
    obtain ⟨c, hc, htag, hsq, hreason, hscore, hcount, hpos, hprog, hdata⟩ :=
      commitOne_score hd' hi' hk hl hopen hrem hn hh hlive hq p
    exact ⟨_, c, hx.exec_commits hpoison now, hc, htag, hsq, hreason, hscore, hcount, hpos, hprog,
      fun hres j hj => hdata _ (scoreWrites_mem hres hj)⟩

end Sys2Proof.Machine
end

section
/-! SUPPORT. What the engines of a tile leave alone while they read, accumulate and poison (R147 to R163, R179, R192). -/

namespace Sys2Proof.Machine

variable {s u v : State} {t c : Nat}

/-- The engines' own work between two instructions: the rows and contexts of tile `t` stay, the same context runs, no COMBINE is counted, and
every image slot of every partition is as it was. -/
structure Steady (t : Nat) (s u : State) : Prop where
  rows : (u.tile t).rows = (s.tile t).rows
  ctxs : (u.tile t).ctxs = (s.tile t).ctxs
  running : (u.tile t).running = (s.tile t).running
  combines : (u.tile t).accCombineCnt = (s.tile t).accCombineCnt
  slot : ∀ p k, u.slot p k = s.slot p k

theorem Steady.refl (t : Nat) (s : State) : Steady t s s := ⟨rfl, rfl, rfl, rfl, fun _ _ => rfl⟩

theorem Steady.trans (h : Steady t s u) (k : Steady t u v) : Steady t s v where
  rows := k.rows.trans h.rows
  ctxs := k.ctxs.trans h.ctxs
  running := k.running.trans h.running
  combines := k.combines.trans h.combines
  slot p i := (k.slot p i).trans (h.slot p i)

theorem Steady.foldl {κ : Type} {f : State → κ → State} (hf : ∀ s x, (s.tile t).running = some c → Steady t s (f s x)) (xs : List κ) :
    ∀ {s : State}, (s.tile t).running = some c → Steady t s (xs.foldl f s) := by
  induction xs with
  | nil => exact fun _ => Steady.refl t _
  | cons x xs ih => exact fun h => (hf _ x h).trans (ih ((hf _ x h).running.trans h))

theorem Steady.ctxOf_eq (h : Steady t s u) (c : Nat) : ctxOf u t c = ctxOf s t c := by simp only [ctxOf, h.ctxs]

theorem Steady.rowOf_eq (h : Steady t s u) (r : Nat) : rowOf (u.tile t) r = rowOf (s.tile t) r := by simp only [rowOf, h.rows]

theorem Steady.slotRows_eq (h : Steady t s u) (c slot : Nat) : slotRows u t c slot = slotRows s t c slot := by
  simp only [slotRows, h.ctxOf_eq]

/-- A change of the tile that leaves what `Steady` names. -/
theorem Steady.modTile {f : Tile → Tile} (hr : (f (s.tile t)).rows = (s.tile t).rows) (hc : (f (s.tile t)).ctxs = (s.tile t).ctxs)
    (hn : (f (s.tile t)).running = (s.tile t).running) (ha : (f (s.tile t)).accCombineCnt = (s.tile t).accCombineCnt) :
    Steady t s (s.modTile t f) := by
  refine ⟨?_, ?_, ?_, ?_, fun _ _ => rfl⟩ <;> rwa [State.modTile_tile_self]

theorem Steady.engineBusy (s : State) (t c : Nat) (e : Engine) (rs : List Res) : Steady t s (engineBusy s t c e rs) :=
  Steady.modTile rfl rfl rfl rfl

theorem Steady.setUnits (s : State) (t base : Nat) (ws : List Nat) : Steady t s (setUnits s t base ws) := Steady.modTile rfl rfl rfl rfl

/-! ### Poison (R193, R451) -/

/-- A change of a pass leaves every image slot. -/
theorem modPass_slot (s : State) (p id : Nat) (f : Pass → Pass) (q k : Nat) : (modPass s p id f).slot q k = s.slot q k := by
  unfold State.slot modPass
  by_cases h : q = p
  · rw [h, State.modPart_part_self]
  · rw [State.modPart_part_other s h]

@[simp] theorem poisonPass_tile (s : State) (p : Nat) (i : Option Nat) (reason j : Nat) : (poisonPass s p i reason).tile j = s.tile j := by
  cases i <;> rfl

@[simp] theorem poisonPass_die (s : State) (p : Nat) (i : Option Nat) (reason j : Nat) : (poisonPass s p i reason).die j = s.die j := by
  cases i <;> rfl

@[simp] theorem poisonPass_slot (s : State) (p : Nat) (i : Option Nat) (reason q k : Nat) :
    (poisonPass s p i reason).slot q k = s.slot q k := by
  cases i with
  | none => rfl
  | some id => exact modPass_slot s p id _ q k

theorem Steady.poisonPass (s : State) (t p : Nat) (i : Option Nat) (reason : Nat) : Steady t s (poisonPass s p i reason) := by
  constructor <;> simp

theorem poisonIf_tile (s : State) (p : Nat) (i : Option Nat) (reason : Nat) (b : Bool) (j : Nat) :
    (if b then poisonPass s p i reason else s).tile j = s.tile j := by cases b <;> simp

theorem Steady.poisonIf (s : State) (t p : Nat) (i : Option Nat) (reason : Nat) (b : Bool) :
    Steady t s (if b then Machine.poisonPass s p i reason else s) := by
  split
  · exact Steady.poisonPass s t p i reason
  · exact Steady.refl t s

theorem find_map_of_id (l : List Pass) (id : Nat) (g : Pass → Pass) (hg : ∀ x, (g x).id = x.id) :
    (l.map g).find? (fun x => x.id == id) = (l.find? fun x => x.id == id).map g := by
  rw [List.find?_map]
  congr 1
  simp only [Function.comp_def, hg]

/-- What a pass reads apart from its poison outlasts it. -/
theorem poisonPass_reads {γ : Type} (s : State) (p : Nat) (i : Option Nat) (reason q id : Nat) {g : Pass → γ}
    (hg : ∀ (x : Pass) r, g { x with poison := r } = g x) : (findPass (poisonPass s p i reason) q id).map g = (findPass s q id).map g := by
  cases i with
  | none => rfl
  | some j =>
    by_cases h : q = p
    · subst h
      unfold findPass allPasses poisonPass modPass
      simp only [State.modPart_part_self]
      rw [← List.map_append, find_map_of_id _ _ _ (fun x => by split <;> rfl), Option.map_map]
      congr 1
      funext x
      simp only [Function.comp_def]
      split
      · exact hg _ _
      · rfl
    · unfold findPass allPasses poisonPass modPass
      simp only [State.modPart_part_other s h]

/-! ### What stands in an image slot -/

section
variable (h : Steady t s u)
include h

theorem Steady.planOf_eq (p k : Nat) : planOf u p k = planOf s p k := congrArg ImgSlot.plain (h.slot p k)

theorem Steady.layerOf_eq (p k l : Nat) : layerOf u p k l = layerOf s p k l := by simp only [layerOf, h.planOf_eq]

theorem Steady.matrixOf_eq (p k l m : Nat) : matrixOf u p k l m = matrixOf s p k l m := by simp only [matrixOf, h.layerOf_eq]

theorem Steady.tarnLayers_eq (p k : Nat) : tarnLayers u p k = tarnLayers s p k := by simp only [tarnLayers, h.planOf_eq, h.slot]

theorem Steady.cellPlaced_eq (p k l : Nat) : cellPlaced u p k l = cellPlaced s p k l := by simp only [cellPlaced, h.layerOf_eq]

theorem Steady.trueElems_eq (k : Ctx) (strips : Nat) : trueElems u k strips = trueElems s k strips := by
  simp only [trueElems, h.layerOf_eq]

theorem Steady.shadowBlockBad_eq (p k l m col block : Nat) : shadowBlockBad u p k l m col block = shadowBlockBad s p k l m col block := by
  simp only [shadowBlockBad, h.slot]

theorem Steady.shadowColBad_eq (p k l m col row rows : Nat) : shadowColBad u p k l m col row rows = shadowColBad s p k l m col row rows := by
  simp only [shadowColBad, h.slot, h.shadowBlockBad_eq]

end

/-! ### Reading a slot and writing a result (R192) -/

/-- The state once an instruction has read rows of which some are poisoned, or none: its pass has consumed the poison (R451). -/
def consumed (s : State) (t c : Nat) (bad : Bool) : State :=
  if bad then poisonPass s (ctxPart (ctxOf s t c)) (ctxOf s t c).pass reasonPassFailed else s

theorem Steady.consumed (s : State) (t c : Nat) (bad : Bool) : Steady t s (consumed s t c bad) := Steady.poisonIf s t _ _ _ bad

@[simp] theorem consumed_tile (s : State) (t c : Nat) (bad : Bool) (j : Nat) : (consumed s t c bad).tile j = s.tile j := by
  cases bad <;> simp [consumed]

@[simp] theorem consumed_ctxOf (s : State) (t c : Nat) (bad : Bool) (j k : Nat) : ctxOf (consumed s t c bad) j k = ctxOf s j k := by
  simp only [ctxOf, consumed_tile]

theorem consumed_reads {γ : Type} (s : State) (t c : Nat) (bad : Bool) (q id : Nat) {g : Pass → γ}
    (hg : ∀ (x : Pass) r, g { x with poison := r } = g x) : (findPass (consumed s t c bad) q id).map g = (findPass s q id).map g := by
  cases bad with
  | false => rfl
  | true => exact poisonPass_reads s _ _ _ q id hg

theorem slotRead_holds {slot n e : Nat} {bs : List Byte} {bad : Bool} (h : SlotHolds s t c slot n e bs bad) :
    slotRead s t c slot 0 n e = (consumed s t c bad, some (bs, bad)) := by
  obtain ⟨d, hd, hn, hrows, hbs, hbad⟩ := h
  rw [slotRead_served n hd hn hrows, ← hbs, ← hbad]
  rfl

theorem SlotHolds.steady {slot n e : Nat} {bs : List Byte} {bad : Bool} (h : SlotHolds s t c slot n e bs bad) (hu : Steady t s u) :
    SlotHolds u t c slot n e bs bad := by
  simpa only [SlotHolds, hu.ctxOf_eq, hu.rowOf_eq] using h

/-- Whether a slot takes a result is a matter of the tile's rows and of the schedule. -/
theorem SlotTakes.congr {slot : Nat} {d : SlotDecl} (h : SlotTakes s t c slot d) (hr : (u.tile t).rows = (s.tile t).rows)
    (hs : (ctxOf u t c).sched = (ctxOf s t c).sched) : SlotTakes u t c slot d := by
  simpa only [SlotTakes, slotDecl, ownsRow, rowOf, hr, hs] using h

theorem SlotTakes.steady {slot : Nat} {d : SlotDecl} (h : SlotTakes s t c slot d) (hu : Steady t s u) : SlotTakes u t c slot d :=
  h.congr hu.rows (congrArg Ctx.sched (hu.ctxOf_eq c))

/-- A result written into a slot that takes it changes the rows of that slot alone. -/
theorem slotWrite_takes {slot : Nat} {d : SlotDecl} (h : SlotTakes s t c slot d) (e : Nat) (bs : List Byte) (bad : Bool) :
    (slotWrite s t c slot e bs bad).tile t = { s.tile t with rows := slotResult (s.tile t) d e bad bs } := by
  obtain ⟨hd, hfree⟩ := h
  simp only [slotWrite, hd]
  exact slotWriteRows_free _ t c slot d.base e d.readers bad fun i hi => hfree i (hi.trans_le (toRows_take_length bs d.rows))

theorem slotWrite_ctxOf {slot : Nat} {d : SlotDecl} (h : SlotTakes s t c slot d) (e : Nat) (bs : List Byte) (bad : Bool) (k : Nat) :
    ctxOf (slotWrite s t c slot e bs bad) t k = ctxOf s t k := by simp only [ctxOf, slotWrite_takes h]

/-- The result of an engine that has only read since `s`: the slot of `s` takes it. -/
theorem result_rows {slot : Nat} {d : SlotDecl} (h : SlotTakes s t c slot d) (hu : Steady t s u) (en : Engine) (rs : List Res) (e : Nat)
    (bs : List Byte) (bad : Bool) :
    ((slotWrite (engineBusy u t c en rs) t c slot e bs bad).tile t).rows = slotResult (s.tile t) d e bad bs := by
  have hb : Steady t s (engineBusy u t c en rs) := hu.trans (Steady.engineBusy u t c en rs)
  rw [slotWrite_takes (h.steady hb)]
  simp only [slotResult, hb.rows]

theorem readVals_holds {slot f n e : Nat} {bs : List Byte} {bad : Bool} (h : SlotHolds s t c slot (rowsFor f n) e bs bad) :
    readVals s t c slot f n e = (consumed s t c bad, some (readVec f n bs, bad)) := by
  simp only [readVals, slotRead_holds h]

/-- A one-source operation writes what its unit makes of the values read. -/
theorem unary_rows {src dst f n e1 : Nat} {d : SlotDecl} {bs : List Byte} {bad : Bool} (hs : SlotHolds s t c src (rowsFor f n) e1 bs bad)
    (hd : SlotTakes s t c dst d) (hu : Steady t s u) (e2 : Nat) (en : Engine) (g : List Val → List Byte) :
    ((unary u t c src dst f n e1 e2 en g).tile t).rows = slotResult (s.tile t) d e2 bad (g (readVec f n bs)) := by
  simp only [unary, readVals_holds (hs.steady hu)]
  exact result_rows hd (hu.trans (Steady.consumed u t c bad)) en _ e2 _ bad

/-! ### Issue (R179) -/

/-- A well-formed instruction that can issue runs its effect, and its context moves on. -/
theorem guarded_issue {ok : Bool} (hok : ok = true) {w : Code} {us : List Res} (h : issues s t c w us = true) (f : Ctx → State) :
    guarded ok (issue s t c w us f) = .next (goTo (f (ctxOf s t c)) t c ((ctxOf s t c).pc + 1)) := by
  rw [guarded_ok hok, issue_runs h]

/-- The same of an instruction that does nothing where the unit does not serve it. -/
theorem guarded_served {ok : Bool} (hok : ok = true) {q : Prop} [Decidable q] (hq : ¬q) {w : Code} {us : List Res}
    (h : issues s t c w us = true) (f : Ctx → State) :
    guarded ok (if q then s else issue s t c w us f) = .next (goTo (f (ctxOf s t c)) t c ((ctxOf s t c).pc + 1)) := by
  rw [if_neg hq, guarded_issue hok h]

theorem okSite (ht : t < 1280) (hc : c < 15) : (okTile t && okCtx c) = true := by simp [okTile, okCtx, ht, hc]

/-- The context that issues is the one that runs. -/
theorem issues_running {w : Code} {us : List Res} (h : issues s t c w us = true) : (s.tile t).running = some c := by
  simp only [issues, Bool.and_eq_true, beq_iff_eq] at h
  simp only [h]

end Sys2Proof.Machine
end

section
/-! SUPPORT. VEC, VEC_FN, VEC_RED, MOMENTS and RANK (O13): what each writes into its destination slot. -/

namespace Sys2Proof.Machine

/-- The field F of a VEC instruction holds both formats (log entry 22). -/
theorem vecFormats {f g : Nat} (hf : f < 16) (hg : g < 16) : (f + 16 * g) % 16 = f ∧ (f + 16 * g) / 16 % 16 = g := by omega

theorem fmtReserved_lt {f : Nat} (hf : f < 8) : fmtReserved f = false := by simp [fmtReserved]; omega

variable {s : State} {t c src dst f e1 e2 : Nat} {d : SlotDecl} {bs bs2 : List Byte} {bad bad2 : Bool}

/-- A VEC whose operation, formats or conversion the unit does not have does nothing (R52). -/
theorem vec_refused {strips op g src2 : Nat} (ht : t < 1280) (hc : c < 15) (hf : f < 8) (hg : g < 16)
    (h : 8 < op ∨ g = 7 ∨ 8 ≤ g ∨ (op = 8 ∧ convNone f g = true)) : exec (.vec t c src src2 dst op (f + 16 * g) strips e1 e2) s = .next s := by
  refine (guarded_ok (okSite ht hc) _).trans (congrArg Host.Outcome.next (if_pos ?_))
  obtain ⟨hfm, hgm⟩ := vecFormats (f := f) (g := g) (by omega) hg
  simp only [hfm, hgm]
  rcases h with h | h | h | ⟨ho, h⟩
  · simp [h]
  · simp [h]
  · simp [fmtReserved, h]
  · simp [ho, h]

/-- The vector unit has the operation, the formats and the conversion. -/
theorem vec_served {op fmt : Nat} (hf : fmt % 16 < 8) (hg : fmt / 16 % 16 < 7) (ho : op ≤ 8)
    (hv : op = 8 → convNone (fmt % 16) (fmt / 16 % 16) = false) :
    ¬(decide (8 < op) || fmtReserved (fmt % 16) || fmtReserved (fmt / 16 % 16) || fmt / 16 % 16 == 7 ||
      (op == 8 && convNone (fmt % 16) (fmt / 16 % 16))) = true := by
  simp only [Bool.or_eq_true, Bool.and_eq_true, decide_eq_true_eq, beq_iff_eq, fmtReserved_lt hf, fmtReserved_lt (hg.trans (by omega))]
  rintro ((((h | h) | h) | h) | ⟨h8, h⟩)
  · omega
  · cases h
  · cases h
  · omega
  · rw [hv h8] at h; cases h

/-- A convert writes the vector of the source slot in the destination's format (R51). -/
theorem vec_converts {strips g src2 : Nat} (ht : t < 1280) (hc : c < 15) (hd : SlotTakes s t c dst d) (hf : f < 8) (hg : g < 7)
    (hv : convNone f g = false) (hs : SlotHolds s t c src (rowsFor f (64 * strips)) e1 bs bad)
    (hi : issues s t c { op := 0x30, e1 := e1, e2 := e2, a := src, b := src2, c := dst, d := vecD 8 (f + 16 * g) strips 0 }
      [slotRes (ctxOf s t c) src, slotRes (ctxOf s t c) dst] = true) :
    ∃ u, exec (.vec t c src src2 dst 8 (f + 16 * g) strips e1 e2) s = .next (goTo u t c ((ctxOf s t c).pc + 1)) ∧
      (u.tile t).rows = slotResult (s.tile t) d e2 bad (convVec f g (64 * strips) bs) := by
  obtain ⟨hfm, hgm⟩ := vecFormats (f := f) (g := g) (by omega) (by omega)
  have hserved := vec_served (op := 8) (hfm.trans_lt hf) (hgm.trans_lt hg) le_rfl fun _ => by rw [hfm, hgm, hv]
  refine ⟨_, guarded_served (okSite ht hc) hserved hi _, ?_⟩
  simp only [hfm, hgm, stripElems, slotRead_holds hs, if_true]
  exact result_rows hd (Steady.consumed s t c bad) _ _ e2 _ bad

/-- The other operations write what they make of their two or three sources. -/
theorem vec_combines {strips g op src2 : Nat} (ht : t < 1280) (hc : c < 15) (hd : SlotTakes s t c dst d) (hf : f < 8) (hg : g < 7)
    (ho : op < 8) (hs2 : SlotHolds s t c src2 (rowsFor f (64 * strips)) e1 bs2 bad2)
    (hs : SlotHolds s t c src (rowsFor f (if vecTernary op then 2 * (64 * strips) else 64 * strips)) e1 bs bad)
    (hi : issues s t c { op := 0x30, e1 := e1, e2 := e2, a := src, b := src2, c := dst, d := vecD op (f + 16 * g) strips 0 }
      [slotRes (ctxOf s t c) src, slotRes (ctxOf s t c) dst, slotRes (ctxOf s t c) src2] = true) :
    ∃ u, exec (.vec t c src src2 dst op (f + 16 * g) strips e1 e2) s = .next (goTo u t c ((ctxOf s t c).pc + 1)) ∧
      (u.tile t).rows = slotResult (s.tile t) d e2 (bad || bad2)
        (let xs := readVec f (if vecTernary op then 2 * (64 * strips) else 64 * strips) bs
         writeVec g (vecZip op (xs.take (64 * strips)) (readVec f (64 * strips) bs2) (xs.drop (64 * strips)))) := by
  obtain ⟨hfm, hgm⟩ := vecFormats (f := f) (g := g) (by omega) (by omega)
  have h8 : op ≠ 8 := by omega
  have hserved := vec_served (op := op) (hfm.trans_lt hf) (hgm.trans_lt hg) ho.le fun h => absurd h h8
  refine ⟨_, guarded_served (okSite ht hc) hserved (by simpa only [if_neg h8] using hi) _, ?_⟩
  have hread := Steady.consumed s t c bad
  simp only [hfm, hgm, stripElems, if_neg h8, readVals_holds hs, readVals_holds (hs2.steady hread)]
  exact result_rows hd (hread.trans (Steady.consumed _ t c bad2)) _ _ e2 _ (bad || bad2)

/-- VEC_FN writes its function of each value, rounded once into FP32 (R183). -/
theorem vecFn_writes {strips fn : Nat} (ht : t < 1280) (hc : c < 15) (hd : SlotTakes s t c dst d) (hf : f < 8) (hn : fn < 8)
    (hs : SlotHolds s t c src (rowsFor f (64 * strips)) e1 bs bad)
    (hi : issues s t c { op := 0x31, e1 := e1, e2 := e2, a := src, c := dst, d := vecD fn f strips 0 }
      [slotRes (ctxOf s t c) src, slotRes (ctxOf s t c) dst] = true) :
    ∃ u, exec (.vecFn t c src dst fn f strips e1 e2) s = .next (goTo u t c ((ctxOf s t c).pc + 1)) ∧
      (u.tile t).rows = slotResult (s.tile t) d e2 bad (packBytes 0 ((readVec f (64 * strips) bs).map fun x => encFP32 (vecFnVal fn x))) := by
  have hserved : ¬(decide (8 ≤ fn) || fmtReserved f) = true := by simp [fmtReserved_lt hf, hn]
  exact ⟨_, guarded_served (okSite ht hc) hserved hi _,
    unary_rows hs hd (Steady.refl t s) e2 _ _⟩

/-- VEC_RED writes the sum in shape V64 in the image's order (R160 to R162). -/
theorem vecRed_writes {strips : Nat} {p : Plain} (ht : t < 1280) (hc : c < 15) (hd : SlotTakes s t c dst d) (hf : f < 8)
    (hp : planOf s (ctxPart (ctxOf s t c)) (ctxOf s t c).slot = some p) (hs : SlotHolds s t c src (rowsFor f (64 * strips)) e1 bs bad)
    (hi : issues s t c { op := 0x32, e1 := e1, e2 := e2, a := src, c := dst, d := vecD 0 f strips 0 }
      [slotRes (ctxOf s t c) src, slotRes (ctxOf s t c) dst] = true) :
    ∃ u, exec (.vecRed t c src dst f strips e1 e2) s = .next (goTo u t c ((ctxOf s t c).pc + 1)) ∧
      (u.tile t).rows = slotResult (s.tile t) d e2 bad (toLe 4 (reduce p.order 64 (readVec f (64 * strips) bs))) := by
  have hserved : ¬fmtReserved f = true := by simp [fmtReserved_lt hf]
  refine ⟨_, guarded_served (okSite ht hc) hserved hi _, ?_⟩
  simp only [hp, Option.map_some, Option.getD_some]
  exact unary_rows hs hd (Steady.setUnits s t _ _) e2 _ _

/-- MOMENTS writes the moments of the elements that are not padding (R167, R168, R184). -/
theorem moments_writes {strips : Nat} (ht : t < 1280) (hc : c < 15) (hd : SlotTakes s t c dst d) (hf : f < 2)
    (hs : SlotHolds s t c src (rowsFor f (trueElems s (ctxOf s t c) strips)) e1 bs bad)
    (hi : issues s t c { op := 0x33, e1 := e1, e2 := e2, a := src, c := dst, d := vecD 0 f strips 0 }
      [slotRes (ctxOf s t c) src, slotRes (ctxOf s t c) dst] = true) :
    ∃ u, exec (.moments t c src dst f strips e1 e2) s = .next (goTo u t c ((ctxOf s t c).pc + 1)) ∧
      (u.tile t).rows = slotResult (s.tile t) d e2 bad
        (let o := momentsOut (momentsOf ((readVec f (trueElems s (ctxOf s t c) strips) bs).map encFP32))
         toLe 4 o.1 ++ toLe 4 o.2.1 ++ toLe 4 o.2.2.1 ++ toLe 4 o.2.2.2.1 ++ toLe 4 o.2.2.2.2.1 ++ toLe 4 o.2.2.2.2.2) := by
  have hserved : ¬2 ≤ f := by omega
  refine ⟨_, guarded_served (okSite ht hc) hserved hi _, ?_⟩
  have hu := Steady.setUnits s t 1280 (momWords ((readOnly s t c src f (trueElems s (ctxOf s t c) strips) e1).map encFP32))
  simp only [hu.trueElems_eq]
  exact unary_rows hs hd hu e2 _ _

/-- RANK writes the count and the best candidates with their positions (R164, R166). -/
theorem rank_writes {n posSlot : Nat} {mode : Bool} {pb : List Byte} (ht : t < 1280) (hc : c < 15) (hd : SlotTakes s t c dst d) (hf : f < 2)
    (hn : 1 ≤ n) (hn' : n ≤ 64) (hs : SlotHolds s t c src (slotRows s t c src) e1 bs bad)
    (hp : SlotHolds s t c posSlot (slotRows s t c posSlot) e1 pb bad2)
    (hi : issues s t c { op := 0x34, e1 := e1, e2 := e2, a := src, b := posSlot, c := dst, d := vecD 0 f n (b2n mode) }
      [slotRes (ctxOf s t c) src, slotRes (ctxOf s t c) posSlot, slotRes (ctxOf s t c) dst] = true) :
    ∃ u, exec (.rank t c src posSlot dst f n mode e1 e2) s = .next (goTo u t c ((ctxOf s t c).pc + 1)) ∧
      (u.tile t).rows = slotResult (s.tile t) d e2 (bad || bad2)
        (let len := Nat.min (slotRows s t c src * (512 / fmtBits f)) (slotRows s t c posSlot * 16)
         let r := rankUnit f n mode ((unpackNat (fmtBits f) len (leAt bs 0 (len * fmtBits f / 8))).zip (unpackNat 32 len (leAt pb 0 (len * 4))))
         toLe 4 r.1 ++ (r.2.map fun q => toLe 4 q.1 ++ toLe 4 q.2).flatten) := by
  have hserved : ¬(n = 0 || decide (64 < n) || decide (2 ≤ f)) = true := by
    simp only [Bool.or_eq_true, decide_eq_true_eq]; omega
  refine ⟨_, guarded_served (okSite ht hc) hserved hi _, ?_⟩
  have hread := Steady.consumed s t c bad
  simp only [slotRead_holds hs, slotRead_holds (hp.steady hread)]
  exact result_rows hd ((hread.trans (Steady.consumed _ t c bad2)).trans (Steady.setUnits _ t _ _)) _ _ e2 _ (bad || bad2)

/-- Settles O13, instruction by instruction: the values read do not depend on the poison that reading them leaves with the pass, and the
destination slot takes the unit's result. -/
theorem vectorUnitsWriteTheirResults : Obligations.VectorUnitsWriteTheirResults := by
  unfold Obligations.VectorUnitsWriteTheirResults
  intro s t c src dst f e1 e2 d bs bad ht hc hd hf
  refine ⟨fun strips g src2 hg hv hi hs => vec_converts ht hc hd hf hg hv hs hi, fun strips op g src2 h hg => vec_refused ht hc hf hg h,
    fun strips g op src2 bs2 bad2 hg ho hi hs2 hs => vec_combines ht hc hd hf hg ho hs2 hs hi,
    fun strips fn hn hi hs => vecFn_writes ht hc hd hf hn hs hi, fun strips p hp hi hs => vecRed_writes ht hc hd hf hp hs hi,
    fun strips hf2 hi hs => moments_writes ht hc hd hf2 hs hi,
    fun n posSlot mode pb bad2 hf2 hn hn' hi hs hp => rank_writes ht hc hd hf2 hn hn' hs hp hi⟩

end Sys2Proof.Machine
end

section
/-! SUPPORT. QUANT (O14): the outliers that leave a vector, the blocks that stay, and what the tile counts. -/

namespace Sys2Proof.Machine

variable {s : State} {t c : Nat}

theorem unpackNat_length (w n v : Nat) : (unpackNat w n v).length = n := by
  induction n generalizing v with
  | zero => rfl
  | succ n ih => simp [unpackNat, ih]

theorem modCtx_tile (s : State) (t c : Nat) (f : Ctx → Ctx) :
    (modCtx s t c f).tile t = { s.tile t with ctxs := tmod {} (s.tile t).ctxs c f } := by rw [modCtx, State.modTile_tile_self]

theorem modCtx_ctxOf (s : State) (t c : Nat) (f : Ctx → Ctx) : ctxOf (modCtx s t c f) t c = f (ctxOf s t c) := by
  rw [ctxOf, modCtx_tile]; exact tget_tmod_self _ c f

/-- QUANT has read its source and selected the outliers `sel`: the tile counts them, the context keeps them with slot `dst`, and the vector unit
works. -/
def quantBusy (s : State) (t c dst ca : Nat) (ref bad : Bool) (sel : List (Nat × Nat) × Nat) : State :=
  engineBusy (modCtx ((consumed s t c bad).modTile t fun x => { x with
    dynOutlCnt := if decide (4 * ca < sel.1.length) && !ref then x.dynOutlCnt else wrapAdd x.dynOutlCnt sel.1.length
    dynOvfCnt := if !decide (4 * ca < sel.1.length) && decide (ca < sel.1.length) then satAdd x.dynOvfCnt 1 else x.dynOvfCnt
    dynFbCnt := if decide (4 * ca < sel.1.length) then satAdd x.dynFbCnt 1 else x.dynFbCnt
    dynRangeCnt := satAdd x.dynRangeCnt sel.2 }) t c fun k => { k with outl := tset [] k.outl dst sel.1 }) t c .vector [slotRes (ctxOf s t c) dst]

theorem quantBusy_tile (s : State) (t c dst ca : Nat) (ref bad : Bool) (sel : List (Nat × Nat) × Nat) :
    (quantBusy s t c dst ca ref bad sel).tile t = { s.tile t with
      dynOutlCnt := if decide (4 * ca < sel.1.length) && !ref then (s.tile t).dynOutlCnt else wrapAdd (s.tile t).dynOutlCnt sel.1.length
      dynOvfCnt := if !decide (4 * ca < sel.1.length) && decide (ca < sel.1.length) then satAdd (s.tile t).dynOvfCnt 1 else (s.tile t).dynOvfCnt
      dynFbCnt := if decide (4 * ca < sel.1.length) then satAdd (s.tile t).dynFbCnt 1 else (s.tile t).dynFbCnt
      dynRangeCnt := satAdd (s.tile t).dynRangeCnt sel.2
      ctxs := tmod {} (s.tile t).ctxs c fun k => { k with outl := tset [] k.outl dst sel.1 }
      inFlight := (s.tile t).inFlight ++ [{ id := (s.tile t).issued, engine := .vector, ctx := c, res := [slotRes (ctxOf s t c) dst] }]
      issued := (s.tile t).issued + 1 } := by
  rw [quantBusy, engineBusy_tile, modCtx_tile, State.modTile_tile_self, consumed_tile]

theorem quantBusy_ctxOf (s : State) (t c dst ca : Nat) (ref bad : Bool) (sel : List (Nat × Nat) × Nat) :
    ctxOf (quantBusy s t c dst ca ref bad sel) t c = { ctxOf s t c with outl := tset [] (ctxOf s t c).outl dst sel.1 } := by
  rw [quantBusy, engineBusy_ctxOf, modCtx_ctxOf, modTile_ctxOf _ _ rfl, consumed_ctxOf]

theorem quantBusy_takes {dst : Nat} {d : SlotDecl} (hd : SlotTakes s t c dst d) (ca : Nat) (ref bad : Bool) (sel : List (Nat × Nat) × Nat) :
    SlotTakes (quantBusy s t c dst ca ref bad sel) t c dst d :=
  hd.congr (by rw [quantBusy_tile]) (by rw [quantBusy_ctxOf])

/-- The input codes that QUANT reads for a matrix from a slot of so many rows. -/
def quantCodes (m : Matrix) (rows : Nat) (bs : List Byte) : List Nat :=
  unpackNat 16 (Nat.min m.k (32 * rows)) (leAt bs 0 (2 * Nat.min m.k (32 * rows)))

/-- The outliers selected in a Tarn layer's vector; none where the CE runs the layer (R109, R110). -/
def quantSel (s : State) (k : Ctx) (fmt : Nat) (lay : Layer) (codes : List Nat) : List (Nat × Nat) × Nat :=
  if (tarnLayers s (ctxPart k) k.slot).contains (ctxLayer k) && (fmt == 4 || fmt == 5) && lay.ca != 0 then
    selectOutliers lay.tau 0 (blocks32 codes)
  else ([], 0)

/-- The vector without its outliers. -/
def quantVals (codes : List Nat) (sel : List (Nat × Nat)) : List Val :=
  ((List.range codes.length).zip codes).map fun q => if sel.any fun o => o.1 == q.1 then Val.fin false 0 1 else decBF16 q.2

/-- The matrix's scales, where the instruction supplies them and the pass does not measure the layer anew (R129). -/
def quantScales (m : Matrix) (x : Pass) (l : Nat) (supplied : Bool) : Option (List Nat) :=
  if supplied && !x.measured.contains l then some m.supplied else none

/-- The state of a QUANT with its result. -/
def quantDone (s : State) (t c dst fmt e2 : Nat) (lay : Layer) (m : Matrix) (x : Pass) (supplied : Bool) (codes : List Nat) (bad : Bool) : State :=
  let sel := quantSel s (ctxOf s t c) fmt lay codes
  slotWrite (quantBusy s t c dst lay.ca x.ref bad sel) t c dst e2
    (vecBytes fmt (quantBlocks fmt (quantScales m x (ctxLayer (ctxOf s t c)) supplied) 0 (blocks32 (quantVals codes sel.1)))) bad

/-- QUANT of a readable source for a matrix of the running layer. -/
theorem exec_quant {src dst fmt idx e1 e2 : Nat} {supplied : Bool} {bs : List Byte} {bad : Bool} {m : Matrix} {lay : Layer} {x : Pass}
    (ht : t < 1280) (hc : c < 15)
    (hi : issues s t c { op := 0x20, e1 := e1, e2 := e2, a := src, b := dst, c := fmt, d := modeD idx (b2n supplied) }
      [slotRes (ctxOf s t c) src, slotRes (ctxOf s t c) dst] = true)
    (h4 : 4 ≤ fmt) (h6 : fmt ≤ 6) (hs : SlotHolds s t c src (slotRows s t c src) e1 bs bad)
    (hl : layerOf s (ctxPart (ctxOf s t c)) (ctxOf s t c).slot (ctxLayer (ctxOf s t c)) = some lay) (hm : lay.matrices[idx]? = some m)
    (hk : (ctxOf s t c).pass = some x.id) (hx : findPass s (ctxPart (ctxOf s t c)) x.id = some x) :
    exec (.quant t c src dst fmt idx supplied e1 e2) s = .next (goTo (quantDone s t c dst fmt e2 lay m x supplied
      (quantCodes m (slotRows s t c src) bs) bad) t c ((ctxOf s t c).pc + 1)) := by
  have hserved : ¬(!fmtBlock fmt || fmt == 7) = true := by
    have h7 : fmt ≠ 7 := by omega
    simp [fmtBlock, h4, h7, h6.trans (by omega : 6 ≤ 7)]
  refine (guarded_served (okSite ht hc) hserved hi _).trans (congrArg (fun u => Host.Outcome.next (goTo u t c _)) ?_)
  have hread := Steady.consumed s t c bad
  obtain ⟨y, hy, hg⟩ : ∃ y, findPass (consumed s t c bad) (ctxPart (ctxOf s t c)) x.id = some y ∧ (y.ref, y.measured) = (x.ref, x.measured) := by
    have h := consumed_reads s t c bad (ctxPart (ctxOf s t c)) x.id (g := fun x => (x.ref, x.measured)) fun _ _ => rfl
    rwa [hx, Option.map_some, Option.map_eq_some_iff] at h
  obtain ⟨href, hmeas⟩ := Prod.mk.inj hg
  simp only [slotRead_holds hs, matrixOf, hread.layerOf_eq, hread.tarnLayers_eq, hl, Option.bind_some, hm, hk, hy, Option.map_some,
    Option.getD_some, href, hmeas]
  simp only [quantDone, quantVals, quantCodes, unpackNat_length]
  rfl

/-- Settles O14: what the instruction selects and converts does not depend on the poison that the read leaves with the pass; the counters
follow from the number of outliers, against *C*a and 4 × *C*a. -/
theorem quantTakesOutliersOut : Obligations.QuantTakesOutliersOut := by
  unfold Obligations.QuantTakesOutliersOut
  intro s t c src dst fmt idx e1 e2 supplied d bs bad m lay x k p ht hc hi h4 h6 hd hs hl hm hk hx codes tarn sel vals scales
  have htile := slotWrite_takes (quantBusy_takes hd lay.ca x.ref bad sel) e2 (vecBytes fmt (quantBlocks fmt scales 0 (blocks32 vals))) bad
  simp only [quantBusy_tile] at htile
  refine ⟨_, exec_quant ht hc hi h4 h6 hs hl hm hk hx, congrArg Tile.rows htile, ?_, fun hle => ?_, fun hlt => ?_, fun hlt hle => ?_⟩
  · rw [quantDone, slotWrite_ctxOf (quantBusy_takes hd lay.ca x.ref bad _), quantBusy_ctxOf, tget_tset_self]
    rfl
  · have hn : ¬4 * lay.ca < sel.1.length := by omega
    exact ⟨(congrArg Tile.dynOutlCnt htile).trans (by simp [hn]), (congrArg Tile.dynFbCnt htile).trans (by simp [hn])⟩
  · exact ⟨(congrArg Tile.dynFbCnt htile).trans (by simp [hlt]), fun href => (congrArg Tile.dynOutlCnt htile).trans (by simp [hlt, href])⟩
  · have hn : ¬4 * lay.ca < sel.1.length := by omega
    exact (congrArg Tile.dynOvfCnt htile).trans (by simp [hlt, hn])

end Sys2Proof.Machine
end

section
/-! SUPPORT. Long-accumulator words of the running context (R148 to R151): what entering a contribution, opening a step and a fold over
output columns make of them. -/

namespace Sys2Proof.Machine

variable {s u : State} {t c : Nat}

/-! ### Folds over columns -/

/-- A fold over columns changes each column once, by `g`, where every step changes its own column alone. -/
theorem range_foldl_at {σ β : Type} {f : σ → Nat → σ} {get : σ → Nat → β} {g : Nat → β → β} {Q : σ → Prop} (hQ : ∀ x i, Q x → Q (f x i))
    (hself : ∀ x i, Q x → get (f x i) i = g i (get x i)) (hother : ∀ x i j, Q x → j ≠ i → get (f x i) j = get x j) {x : σ} (hx : Q x)
    (n : Nat) : Q ((List.range n).foldl f x) ∧ ∀ j, get ((List.range n).foldl f x) j = if j < n then g j (get x j) else get x j := by
  induction n with
  | zero => exact ⟨hx, fun j => by simp⟩
  | succ n ih =>
    obtain ⟨hq, hat⟩ := ih
    simp only [List.range_succ, List.foldl_append, List.foldl_cons, List.foldl_nil]
    refine ⟨hQ _ n hq, fun j => ?_⟩
    by_cases hj : j = n
    · subst hj; rw [hself _ _ hq, hat, if_neg (Nat.lt_irrefl _), if_pos (Nat.lt_succ_self _)]
    · rw [hother _ _ _ hq hj, hat]
      simp only [show j < n + 1 ↔ j < n by omega]

/-! ### Words -/

/-- A word after a write of a word. -/
theorem wordOf_putWord (x : Tile) (cell cell' : Bool) (w w' : Nat) (v : LaWord) :
    wordOf (putWord x cell w v) cell' w' = if cell' = cell ∧ w' = w then v else wordOf x cell' w' := by
  cases cell <;> cases cell' <;> simp [wordOf, putWord, tget_tset]

theorem Steady.putWord (s : State) (t : Nat) (cell : Bool) (w : Nat) (v : LaWord) :
    Steady t s (s.modTile t fun x => putWord x cell w v) := by
  cases cell <;> exact Steady.modTile rfl rfl rfl rfl

theorem engineBusy_wordOf (s : State) (t c : Nat) (e : Engine) (rs : List Res) (cell : Bool) (w : Nat) :
    wordOf ((engineBusy s t c e rs).tile t) cell w = wordOf (s.tile t) cell w := by rw [engineBusy_tile]; rfl

theorem modCtx_wordOf (s : State) (t c : Nat) (f : Ctx → Ctx) (cell : Bool) (w : Nat) :
    wordOf ((modCtx s t c f).tile t) cell w = wordOf (s.tile t) cell w := by rw [modCtx_tile]; rfl

theorem modCtx_running (s : State) (t c : Nat) (f : Ctx → Ctx) : ((modCtx s t c f).tile t).running = (s.tile t).running := by
  rw [modCtx_tile]

theorem modCtx_slot (s : State) (t c : Nat) (f : Ctx → Ctx) (p k : Nat) : (modCtx s t c f).slot p k = s.slot p k := rfl

/-- The words of the running context lie in the tile (R154). -/
theorem ctxWord_running (h : (s.tile t).running = some c) (cell : Bool) (w : Nat) : ctxWord s t c cell w = wordOf (s.tile t) cell w := by
  simp [ctxWord, h]

theorem putCtxWord_running (h : (s.tile t).running = some c) (cell : Bool) (w : Nat) (v : LaWord) :
    putCtxWord s t c cell w v = s.modTile t fun x => putWord x cell w v := by simp [putCtxWord, h]

/-! ### ACC_RANGE (R148, R178) -/

theorem report_tile (s : State) (die block cls : Nat) (part : Option Nat) (fields : List (Nat × Nat)) (j : Nat) :
    (report s die block cls part fields).tile j = s.tile j := by unfold report; split <;> rfl

theorem report_slot (s : State) (die block cls : Nat) (part : Option Nat) (fields : List (Nat × Nat)) (p k : Nat) :
    (report s die block cls part fields).slot p k = s.slot p k := by unfold report; split <;> rfl

/-- A report of an array die stands in its queue (R468). -/
theorem report_ev {die : Nat} (h : die ≠ 0xF0) (s : State) (block cls : Nat) (part : Option Nat) (fields : List (Nat × Nat)) :
    ((report s die block cls part fields).die die).ev =
      evPush (s.die die).ev { cls := cls, die := die, block := block, part := part, first := s.now, last := s.now, payload := pay fields } := by
  simp only [report, if_neg h, State.modDie_die_self]

theorem accRange_tile (s : State) (t c p : Nat) (pass : Option Nat) (layer w : Nat) :
    (accRange s t c p pass layer w).tile t = { s.tile t with accRangeCnt := satAdd (s.tile t).accRangeCnt 1 } := by
  simp only [accRange, poisonPass_tile, reportTile, report_tile, State.modTile_tile_self]

theorem Steady.accRange (s : State) (t c p : Nat) (pass : Option Nat) (layer w : Nat) : Steady t s (accRange s t c p pass layer w) := by
  refine ⟨?_, ?_, ?_, ?_, fun q k => ?_⟩
  iterate 4 rw [accRange_tile]
  rw [Machine.accRange, poisonPass_slot, reportTile, report_slot]
  rfl

/-! ### Entering a contribution (R151) -/

/-- A word with a contribution entered, and the model's own difference from the reference value. -/
def entered (a v : LaWord) : LaWord := { (laEnter a v).1 with err := (laEnter a v).1.err + v.err }

/-- What the hardware holds of a word (R149): all but the model's own difference. -/
def LaWord.shown (a : LaWord) : LaWord := { a with err := 0 }

theorem LaWord.shown_la {a b : LaWord} (h : a.shown = b.shown) : a.la = b.la := (congrArg LaWord.la h : a.shown.la = b.shown.la)

theorem LaWord.shown_poison {a b : LaWord} (h : a.shown = b.shown) : a.poison = b.poison :=
  (congrArg LaWord.poison h : a.shown.poison = b.shown.poison)

theorem laEnter_shown {a b : LaWord} (h : a.shown = b.shown) (v : LaWord) : (laEnter a v).1.shown = (laEnter b v).1.shown := by
  obtain ⟨la, poison, sat, outl, fallback, confirm, err⟩ := a
  obtain ⟨la', poison', sat', outl', fallback', confirm', err'⟩ := b
  simp only [LaWord.shown, LaWord.mk.injEq] at h
  obtain ⟨rfl, rfl, rfl, rfl, rfl, rfl, -⟩ := h
  unfold laEnter
  cases laAdd la v.la <;> rfl

/-- The accumulation of contributions one by one does not see the model's own difference. -/
theorem foldl_laEnter_shown (vs : List LaWord) : ∀ {a b : LaWord}, a.shown = b.shown →
    (vs.foldl (fun w v => (laEnter w v).1) a).shown = (vs.foldl (fun w v => (laEnter w v).1) b).shown := by
  induction vs with
  | nil => exact fun h => h
  | cons v vs ih => exact fun h => ih (laEnter_shown h v)

theorem enterWord_running (h : (s.tile t).running = some c) (p : Nat) (pass : Option Nat) (cell : Bool) (layer w : Nat) (v : LaWord) :
    enterWord s t c p pass cell layer w v =
      if (laEnter (wordOf (s.tile t) cell w) v).2 then
        accRange (s.modTile t fun x => putWord x cell w (entered (wordOf (s.tile t) cell w) v)) t c p pass layer w
      else s.modTile t fun x => putWord x cell w (entered (wordOf (s.tile t) cell w) v) := by
  simp only [enterWord, ctxWord_running h, putCtxWord_running h]
  rfl

theorem Steady.enterWord (h : (s.tile t).running = some c) (p : Nat) (pass : Option Nat) (cell : Bool) (layer w : Nat) (v : LaWord) :
    Steady t s (enterWord s t c p pass cell layer w v) := by
  rw [enterWord_running h]
  split
  · exact (Steady.putWord s t cell w _).trans (Steady.accRange _ t c p pass layer w)
  · exact Steady.putWord s t cell w _

/-- A contribution enters its word and no other. -/
theorem enterWord_wordOf (h : (s.tile t).running = some c) (p : Nat) (pass : Option Nat) (cell : Bool) (layer w : Nat) (v : LaWord)
    (cell' : Bool) (w' : Nat) : wordOf ((enterWord s t c p pass cell layer w v).tile t) cell' w' =
      if cell' = cell ∧ w' = w then entered (wordOf (s.tile t) cell w) v else wordOf (s.tile t) cell' w' := by
  have hput : ∀ x : Tile, wordOf { x with accRangeCnt := satAdd x.accRangeCnt 1 } cell' w' = wordOf x cell' w' := fun _ => rfl
  rw [enterWord_running h]
  split
  · rw [accRange_tile, hput, State.modTile_tile_self, wordOf_putWord]
  · rw [State.modTile_tile_self, wordOf_putWord]

theorem Steady.enterTerms (h : (s.tile t).running = some c) (p : Nat) (pass : Option Nat) (cell : Bool) (layer w : Nat) (vs : List LaWord) :
    Steady t s (enterTerms s t c p pass cell layer w vs) :=
  Steady.foldl (fun _ v hs => Steady.enterWord hs p pass cell layer w v) vs h

/-- Products enter their word one by one. -/
theorem enterTerms_shown (p : Nat) (pass : Option Nat) (cell : Bool) (layer w : Nat) (vs : List LaWord) :
    ∀ {s : State}, (s.tile t).running = some c → (wordOf ((enterTerms s t c p pass cell layer w vs).tile t) cell w).shown =
      (vs.foldl (fun a v => (laEnter a v).1) (wordOf (s.tile t) cell w)).shown := by
  induction vs with
  | nil => exact fun _ => rfl
  | cons v vs ih =>
    intro s h
    refine (ih ((Steady.enterWord h p pass cell layer w v).running.trans h)).trans (foldl_laEnter_shown vs ?_)
    rw [enterWord_wordOf h, if_pos ⟨rfl, rfl⟩]
    rfl

theorem enterTerms_other (p : Nat) (pass : Option Nat) (cell : Bool) (layer w : Nat) (vs : List LaWord) {cell' : Bool} {w' : Nat}
    (hw : ¬(cell' = cell ∧ w' = w)) : ∀ {s : State}, (s.tile t).running = some c →
      wordOf ((enterTerms s t c p pass cell layer w vs).tile t) cell' w' = wordOf (s.tile t) cell' w' := by
  induction vs with
  | nil => exact fun _ => rfl
  | cons v vs ih =>
    intro s h
    refine (ih ((Steady.enterWord h p pass cell layer w v).running.trans h)).trans ?_
    rw [enterWord_wordOf h, if_neg hw]

/-! ### Opening a step (R151) -/

/-- The words that a step with OVERWRITE clears. -/
def clearedWords (x : Tile) (cell : Bool) (w n : Nat) : Tile := (List.range n).foldl (fun x i => putWord x cell (w + i) {}) x

theorem clearedWords_wordOf (x : Tile) (cell cell' : Bool) (w n w' : Nat) : wordOf (clearedWords x cell w n) cell' w' =
    if cell' = cell ∧ w ≤ w' ∧ w' < w + n then {} else wordOf x cell' w' := by
  induction n with
  | zero => rw [if_neg (by omega)]; rfl
  | succ n ih =>
    unfold clearedWords at ih ⊢
    rw [List.range_succ, List.foldl_append, List.foldl_cons, List.foldl_nil, wordOf_putWord, ih]
    by_cases hlast : cell' = cell ∧ w' = w + n
    · obtain ⟨hc, rfl⟩ := hlast
      rw [if_pos ⟨hc, rfl⟩, if_pos ⟨hc, by omega, by omega⟩]
    · rw [if_neg hlast]
      refine if_congr ⟨fun ⟨hc, hle, hlt⟩ => ⟨hc, hle, by omega⟩, fun ⟨hc, hle, hlt⟩ => ⟨hc, hle, ?_⟩⟩ rfl rfl
      have : w' ≠ w + n := fun h => hlast ⟨hc, h⟩
      omega

theorem openWords_tile (s : State) (t : Nat) (tag : Option PassTag) (cell : Bool) (w n : Nat) : ∃ tags,
    (openWords s t tag cell w n).tile t = { clearedWords (s.tile t) cell w n with tags := tags } := by
  rw [openWords, State.modTile_tile_self]
  cases cell with
  | true => exact ⟨_, rfl⟩
  | false => exact ⟨_, rfl⟩

theorem openWords_wordOf (s : State) (t : Nat) (tag : Option PassTag) (cell cell' : Bool) (w n w' : Nat) :
    wordOf ((openWords s t tag cell w n).tile t) cell' w' = if cell' = cell ∧ w ≤ w' ∧ w' < w + n then {} else wordOf (s.tile t) cell' w' := by
  obtain ⟨tags, h⟩ := openWords_tile s t tag cell w n
  rw [h, ← clearedWords_wordOf]
  rfl

theorem clearedWords_steady (x : Tile) (cell : Bool) (w n : Nat) :
    (clearedWords x cell w n).rows = x.rows ∧ (clearedWords x cell w n).ctxs = x.ctxs ∧ (clearedWords x cell w n).running = x.running ∧
      (clearedWords x cell w n).accCombineCnt = x.accCombineCnt := by
  refine List.foldlRecOn (List.range n) _ (motive := fun y : Tile =>
    y.rows = x.rows ∧ y.ctxs = x.ctxs ∧ y.running = x.running ∧ y.accCombineCnt = x.accCombineCnt) ⟨rfl, rfl, rfl, rfl⟩ fun y hy i _ => ?_
  cases cell <;> exact hy

theorem Steady.openWords (s : State) (t : Nat) (tag : Option PassTag) (cell : Bool) (w n : Nat) :
    Steady t s (openWords s t tag cell w n) := by
  obtain ⟨tags, h⟩ := openWords_tile s t tag cell w n
  obtain ⟨hr, hc, hn, ha⟩ := clearedWords_steady (s.tile t) cell w n
  refine ⟨?_, ?_, ?_, ?_, fun _ _ => rfl⟩
  · rw [h]; exact hr
  · rw [h]; exact hc
  · rw [h]; exact hn
  · rw [h]; exact ha

end Sys2Proof.Machine
end

section
/-! SUPPORT. CE_EXACT, CE_OUTL and CE_FP32 (O15): products that enter their words, and the legal range. -/

namespace Sys2Proof.Machine

variable {s : State} {t c : Nat}

/-! ### The inputs of a step -/

/-- What the products of an operand set are made of outlasts the poison that its pass consumes. -/
theorem consumed_setDeltas (s : State) (t c : Nat) (bad : Bool) (k : Ctx) (o : OperandSet) :
    setDeltas (consumed s t c bad) k o = setDeltas s k o := by
  have hv : ctxVariant (consumed s t c bad) k = ctxVariant s k := by
    unfold ctxVariant
    cases k.pass with
    | none => rfl
    | some id => exact congrArg (Option.getD · 0) (consumed_reads s t c bad _ id fun _ _ => rfl)
  funext col
  simp only [setDeltas, hv, deltasOf, (Steady.consumed s t c bad).slot]

theorem consumed_exactTerms (s : State) (t c : Nat) (bad : Bool) : exactTerms (consumed s t c bad) = exactTerms s := by
  have hu := Steady.consumed s t c bad
  funext k o m xs b col
  simp only [exactTerms, hu.tarnLayers_eq, hu.shadowBlockBad_eq, consumed_setDeltas]

theorem consumed_outlTerms (s : State) (t c : Nat) (bad : Bool) : outlTerms (consumed s t c bad) = outlTerms s := by
  have hu := Steady.consumed s t c bad
  funext k o m xs dyn b fb col
  simp only [outlTerms, hu.shadowBlockBad_eq, consumed_setDeltas]

/-- The step of an operand set has gone to fallback for the pass that the context serves (R137). -/
def setFallsBack (s : State) (k : Ctx) (o : OperandSet) : Bool :=
  match k.pass.bind (findPass s (ctxPart k)) with
  | some x => inFallback x o.layer o.matrix
  | none => false

theorem setFallsBack_eq (s : State) (k : Ctx) (o : OperandSet) :
    setFallsBack s k o = (k.pass.bind fun id => (findPass s (ctxPart k) id).map fun x => inFallback x o.layer o.matrix).getD false := by
  unfold setFallsBack
  cases k.pass with
  | none => rfl
  | some id => simp only [Option.bind_some]; cases findPass s (ctxPart k) id <;> rfl

theorem consumed_setFallsBack (s : State) (t c : Nat) (bad : Bool) (k : Ctx) (o : OperandSet) :
    setFallsBack (consumed s t c bad) k o = setFallsBack s k o := by
  rw [setFallsBack_eq, setFallsBack_eq]
  cases k.pass with
  | none => rfl
  | some id => exact congrArg (Option.getD · false) (consumed_reads s t c bad _ id fun _ _ => rfl)

/-- The rows of the input slot that a matrix reads. -/
def inputRows (s : State) (t c slot : Nat) (m : Matrix) : Nat := Nat.min (rowsFor m.inFmt m.k) (Nat.max 1 (slotRows s t c slot))

theorem ceInput_holds {slot e : Nat} {m : Matrix} {bs : List Byte} {bad : Bool} (h : SlotHolds s t c slot (inputRows s t c slot m) e bs bad) :
    ceInput s t c slot e m = (consumed s t c bad, some (inputVals m.inFmt m.k bs, bad)) := by
  unfold inputRows at h
  simp only [ceInput, slotRead_holds h]

/-! ### The words of a step -/

/-- The state in which a CE step has read its input, the engine works and the step's words are open. -/
def ceOpened (s : State) (t c : Nat) (bad cell add : Bool) (la : Nat) (o : OperandSet) : State :=
  openStep (engineBusy (consumed s t c bad) t c .ce [.words la o.cols]) t c (ctxOf s t c) cell add la o

theorem openStep_running (s : State) (t c : Nat) (k : Ctx) (cell add : Bool) (w : Nat) (o : OperandSet) :
    ((openStep s t c k cell add w o).tile t).running = (s.tile t).running := by
  rw [openStep, modCtx_running, noteRegion, modCtx_running]
  cases add with
  | true => rfl
  | false => exact (Steady.openWords s t _ cell w o.cols).running

theorem openStep_slot (s : State) (t c : Nat) (k : Ctx) (cell add : Bool) (w : Nat) (o : OperandSet) (p i : Nat) :
    (openStep s t c k cell add w o).slot p i = s.slot p i := by
  rw [openStep, modCtx_slot, noteRegion, modCtx_slot]
  cases add with
  | true => rfl
  | false => exact (Steady.openWords s t _ cell w o.cols).slot p i

/-- A step with OVERWRITE starts from cleared words, one that adds from those that stand. -/
theorem openStep_wordOf (s : State) (t c : Nat) (k : Ctx) (cell add : Bool) (w : Nat) (o : OperandSet) {j : Nat} (hj : j < o.cols) :
    wordOf ((openStep s t c k cell add w o).tile t) cell (w + j) = if add then wordOf (s.tile t) cell (w + j) else {} := by
  rw [openStep, modCtx_wordOf, noteRegion, modCtx_wordOf]
  cases add with
  | true => rfl
  | false => exact (openWords_wordOf s t _ cell cell w o.cols (w + j)).trans (if_pos ⟨rfl, by omega, by omega⟩)

theorem ceOpened_running (h : (s.tile t).running = some c) (bad cell add : Bool) (la : Nat) (o : OperandSet) :
    ((ceOpened s t c bad cell add la o).tile t).running = some c := by
  rw [ceOpened, openStep_running, engineBusy_tile, consumed_tile, h]

theorem ceOpened_slot (s : State) (t c : Nat) (bad cell add : Bool) (la : Nat) (o : OperandSet) (p i : Nat) :
    (ceOpened s t c bad cell add la o).slot p i = s.slot p i := by
  rw [ceOpened, openStep_slot]; exact (Steady.consumed s t c bad).slot p i

theorem ceOpened_wordOf (s : State) (t c : Nat) (bad cell add : Bool) (la : Nat) (o : OperandSet) {j : Nat} (hj : j < o.cols) :
    wordOf ((ceOpened s t c bad cell add la o).tile t) cell (la + j) = if add then wordOf (s.tile t) cell (la + j) else {} := by
  rw [ceOpened, openStep_wordOf _ t c _ cell add la o hj, engineBusy_wordOf, consumed_tile]

/-! ### Exact products -/

/-- The products of one output column enter its word; a pass consumes the poison that they bring (R451). -/
def enterColumn (t c : Nat) (k : Ctx) (o : OperandSet) (cell : Bool) (la : Nat) (f : Nat → List LaWord) (s : State) (j : Nat) : State :=
  enterTerms (if (f (o.col + j)).any LaWord.poison then poisonPass s (ctxPart k) k.pass reasonPassFailed else s)
    t c (ctxPart k) k.pass cell o.layer (la + j) (f (o.col + j))

theorem enterSet_eq (s : State) (t c : Nat) (k : Ctx) (o : OperandSet) (cell : Bool) (la : Nat) (f : Nat → List LaWord) :
    enterSet s t c k o cell la f = (List.range o.cols).foldl (enterColumn t c k o cell la f) s := rfl

section
variable (h : (s.tile t).running = some c) (k : Ctx) (o : OperandSet) (cell : Bool) (la : Nat) (f : Nat → List LaWord)
include h

theorem enterColumn_running (j : Nat) : ((enterColumn t c k o cell la f s j).tile t).running = some c := by
  have hp := Steady.poisonIf s t (ctxPart k) k.pass reasonPassFailed ((f (o.col + j)).any LaWord.poison)
  exact (hp.trans (Steady.enterTerms (hp.running.trans h) _ _ _ _ _ _)).running.trans h

theorem enterColumn_shown (j : Nat) : (wordOf ((enterColumn t c k o cell la f s j).tile t) cell (la + j)).shown =
    ((f (o.col + j)).foldl (fun w v => (laEnter w v).1) (wordOf (s.tile t) cell (la + j))).shown := by
  rw [enterColumn, enterTerms_shown _ _ _ _ _ _ (by rw [poisonIf_tile, h]), poisonIf_tile]

theorem enterColumn_other {j i : Nat} (hij : i ≠ j) :
    wordOf ((enterColumn t c k o cell la f s j).tile t) cell (la + i) = wordOf (s.tile t) cell (la + i) := by
  rw [enterColumn, enterTerms_other _ _ _ _ _ _ (fun hw => hij (by omega)) (by rw [poisonIf_tile, h]), poisonIf_tile]

/-- The word of each output column takes the products of its column one by one. -/
theorem enterSet_shown {j : Nat} (hj : j < o.cols) : (wordOf ((enterSet s t c k o cell la f).tile t) cell (la + j)).shown =
    ((f (o.col + j)).foldl (fun w v => (laEnter w v).1) (wordOf (s.tile t) cell (la + j))).shown := by
  obtain ⟨-, hcols⟩ := range_foldl_at (Q := fun x : State => (x.tile t).running = some c)
    (get := fun (x : State) i => (wordOf (x.tile t) cell (la + i)).shown)
    (g := fun i w => ((f (o.col + i)).foldl (fun w v => (laEnter w v).1) w).shown) (fun x i hx => enterColumn_running hx k o cell la f i)
    (fun x i hx => (enterColumn_shown hx k o cell la f i).trans (foldl_laEnter_shown _ rfl))
    (fun x i j hx hij => congrArg LaWord.shown (enterColumn_other hx k o cell la f hij)) h o.cols
  rw [enterSet_eq, hcols, if_pos hj]
  exact foldl_laEnter_shown _ rfl

end

/-- The words of a CE step on exact products: from the words that the step opens, product by product. -/
theorem enterSet_opened (h : (s.tile t).running = some c) (bad cell add : Bool) (la : Nat) (k : Ctx) (o : OperandSet) (f : Nat → List LaWord)
    {j : Nat} (hj : j < o.cols) :
    let w := wordOf ((enterSet (ceOpened s t c bad cell add la o) t c k o cell la f).tile t) cell (la + j)
    let sum := (f (o.col + j)).foldl (fun w v => (laEnter w v).1) (if add then wordOf (s.tile t) cell (la + j) else {})
    w.la = sum.la ∧ w.poison = sum.poison := by
  have hshown := enterSet_shown (ceOpened_running h bad cell add la o) k o cell la f hj
  rw [ceOpened_wordOf s t c bad cell add la o hj] at hshown
  exact ⟨LaWord.shown_la hshown, LaWord.shown_poison hshown⟩

section
variable {opSet slot la terms e : Nat} {add : Bool} {o : OperandSet} {m : Matrix} {bs : List Byte} {bad : Bool}
variable (ht : t < 1280) (hc : c < 15) (ho : opSetOf s (ctxOf s t c) opSet = some (o, m))
  (hs : SlotHolds s t c slot (inputRows s t c slot m) e bs bad)
include ht hc ho hs

/-- CE_EXACT enters the products of its operand set into the words that it opens. -/
theorem exec_ceExact (hi : issues s t c (ceCode 0x28 opSet slot la terms add e) (ceUses s t c opSet slot la add) = true) :
    let k := ctxOf s t c
    let cell := cellPlaced s (ctxPart k) k.slot o.layer
    exec (.ceExact t c opSet slot la terms add e) s = .next (goTo (enterSet (ceOpened s t c bad cell add la o) t c k o cell la
      (exactTerms s k o m (inputVals m.inFmt m.k bs) bad)) t c (k.pc + 1)) := by
  refine (guarded_issue (okSite ht hc) hi _).trans (congrArg (fun u => Host.Outcome.next (goTo u t c _)) ?_)
  simp only [ho, ceInput_holds hs, consumed_exactTerms, (Steady.consumed s t c bad).cellPlaced_eq]
  rfl

/-- CE_OUTL enters the outlier products (R108, R113). -/
theorem exec_ceOutl (hi : issues s t c (ceCode 0x2A opSet slot la terms add e) (ceUses s t c opSet slot la add) = true) :
    let k := ctxOf s t c
    let cell := cellPlaced s (ctxPart k) k.slot o.layer
    exec (.ceOutl t c opSet slot la terms add e) s = .next (goTo (enterSet (ceOpened s t c bad cell add la o) t c k o cell la
      (outlTerms s k o m (inputVals m.inFmt m.k bs) (tget [] k.outl slot) bad (setFallsBack s k o))) t c (k.pc + 1)) := by
  refine (guarded_issue (okSite ht hc) hi _).trans (congrArg (fun u => Host.Outcome.next (goTo u t c _)) ?_)
  rw [← consumed_setFallsBack s t c bad]
  simp only [ho, ceInput_holds hs, consumed_outlTerms, (Steady.consumed s t c bad).cellPlaced_eq]
  rfl

end

/-! ### FP32 partials -/

/-- The code of an FP32 partial; a NaN marker reads as the produced NaN (R149, R163). -/
def partialCode : La → Nat
  | .num a => a.toNat
  | .nanMark => 0x7FC00000

/-- The dot product of one output column over the operand set's inputs, in an order (R46, R161). -/
def fp32Dot (order : Nat) (o : OperandSet) (m : Matrix) (xs : List Val) (j : Nat) : Nat :=
  reduce order 32 ((setRows o m).map fun r => (xs.getD r (.fin false 0 1)).mul (weightVal m (o.col + j) r))

/-- A word with a column's dot product. -/
def fp32Held (add bad shadow : Bool) (r : Nat) (old : LaWord) : LaWord :=
  { old with la := .num ((if add then f32Add (partialCode old.la) r else r : Nat) : Int), poison := old.poison || bad || shadow }

/-- The shadow read of one output column met poison (R452). -/
def columnBad (s : State) (k : Ctx) (o : OperandSet) (j : Nat) : Bool :=
  shadowColBad s (ctxPart k) k.slot o.layer o.matrix (o.col + j) o.row o.rows

/-- One output column of CE_FP32. -/
def fp32Column (t c : Nat) (k : Ctx) (o : OperandSet) (cell add bad : Bool) (la : Nat) (r : Nat → Nat) (s : State) (j : Nat) : State :=
  putCtxWord (if columnBad s k o j then poisonPass s (ctxPart k) k.pass reasonPassFailed else s) t c cell (la + j)
    (fp32Held add bad (columnBad s k o j) (r j) (ctxWord s t c cell (la + j)))

section
variable (h : (s.tile t).running = some c) (k : Ctx) (o : OperandSet) (cell add bad : Bool) (la : Nat) (r : Nat → Nat)
include h

theorem fp32Column_eq (j : Nat) : fp32Column t c k o cell add bad la r s j =
    (if columnBad s k o j then poisonPass s (ctxPart k) k.pass reasonPassFailed else s).modTile t fun x =>
      putWord x cell (la + j) (fp32Held add bad (columnBad s k o j) (r j) (wordOf (s.tile t) cell (la + j))) := by
  rw [fp32Column, putCtxWord_running (by rw [poisonIf_tile, h]), ctxWord_running h]

theorem Steady.fp32Column (j : Nat) : Steady t s (fp32Column t c k o cell add bad la r s j) := by
  rw [fp32Column_eq h]
  exact (Steady.poisonIf s t _ _ _ _).trans (Steady.putWord _ t cell _ _)

theorem fp32Column_wordOf (j i : Nat) : wordOf ((Machine.fp32Column t c k o cell add bad la r s j).tile t) cell (la + i) =
    if i = j then fp32Held add bad (columnBad s k o j) (r j) (wordOf (s.tile t) cell (la + j)) else wordOf (s.tile t) cell (la + i) := by
  rw [fp32Column_eq h, State.modTile_tile_self, wordOf_putWord, poisonIf_tile]
  simp only [true_and, Nat.add_left_cancel_iff]

/-- Each output column's dot product goes into its word. -/
theorem fp32Columns_wordOf (n : Nat) {j : Nat} (hj : j < n) :
    wordOf (((List.range n).foldl (Machine.fp32Column t c k o cell add bad la r) s).tile t) cell (la + j) =
      fp32Held add bad (columnBad s k o j) (r j) (wordOf (s.tile t) cell (la + j)) := by
  have hcols := range_foldl_at (Q := fun x : State => (x.tile t).running = some c ∧ columnBad x k o = columnBad s k o)
    (get := fun (x : State) i => wordOf (x.tile t) cell (la + i)) (g := fun i => fp32Held add bad (columnBad s k o i) (r i))
    (f := Machine.fp32Column t c k o cell add bad la r) ?_ ?_ ?_ ⟨h, rfl⟩ n
  · rw [hcols.2, if_pos hj]
  · rintro x i ⟨hx, hb⟩
    have hu := Steady.fp32Column hx k o cell add bad la r i
    exact ⟨hu.running.trans hx, (funext fun j => hu.shadowColBad_eq _ _ _ _ _ _ _).trans hb⟩
  · rintro x i ⟨hx, hb⟩
    rw [fp32Column_wordOf hx, if_pos rfl, hb]
  · rintro x i j ⟨hx, hb⟩ hij
    rw [fp32Column_wordOf hx, if_neg hij]

end

/-- The words of CE_FP32: the rounded dot product, alone or added to the partial that stands (R163), and the poison of input and shadow. -/
theorem fp32Columns_opened (h : (s.tile t).running = some c) (bad cell add : Bool) (la : Nat) (o : OperandSet) (r : Nat → Nat) {j : Nat}
    (hj : j < o.cols) :
    wordOf (((List.range o.cols).foldl (fp32Column t c (ctxOf s t c) o cell add bad la r) (ceOpened s t c bad cell add la o)).tile t) cell
      (la + j) = fp32Held add bad (columnBad s (ctxOf s t c) o j) (r j) (if add then wordOf (s.tile t) cell (la + j) else {}) := by
  rw [fp32Columns_wordOf (ceOpened_running h bad cell add la o) _ o cell add bad la r o.cols hj, ceOpened_wordOf s t c bad cell add la o hj]
  simp only [columnBad, shadowColBad, shadowBlockBad, ceOpened_slot]

/-- CE_FP32 puts the dot products of its operand set into the words that it opens. -/
theorem exec_ceFp32 {opSet slot la terms e : Nat} {add : Bool} {o : OperandSet} {m : Matrix} {bs : List Byte} {bad : Bool} (ht : t < 1280)
    (hc : c < 15) (ho : opSetOf s (ctxOf s t c) opSet = some (o, m)) (hs : SlotHolds s t c slot (inputRows s t c slot m) e bs bad)
    (hi : issues s t c (ceCode 0x29 opSet slot la terms add e) (ceUses s t c opSet slot la add) = true) :
    let k := ctxOf s t c
    let cell := cellPlaced s (ctxPart k) k.slot o.layer
    let order := ((planOf s (ctxPart k) k.slot).map Plain.order).getD 0
    exec (.ceFp32 t c opSet slot la terms add e) s = .next (goTo ((List.range o.cols).foldl
      (fp32Column t c k o cell add bad la (fp32Dot order o m (inputVals m.inFmt m.k bs))) (ceOpened s t c bad cell add la o)) t c (k.pc + 1)) := by
  refine (guarded_issue (okSite ht hc) hi _).trans (congrArg (fun u => Host.Outcome.next (goTo u t c _)) ?_)
  simp only [ho, ceInput_holds hs, (Steady.consumed s t c bad).cellPlaced_eq, (Steady.consumed s t c bad).planOf_eq]
  rfl

/-! ### The legal range (R146, R148) -/

theorem laEnter_inRange {w v : LaWord} {a b : Int} (hw : w.la = .num a) (hv : v.la = .num b) (h : (a + b).natAbs < 2 ^ 103) :
    laEnter w v = ({ w with
      la := .num (a + b), poison := w.poison || v.poison, sat := w.sat || v.sat, outl := w.outl || v.outl
      fallback := w.fallback || v.fallback, confirm := false }, false) := by
  simp only [laEnter, hw, hv, laAdd, laLegal, decide_eq_true h, if_true]

theorem laEnter_outOfRange {w v : LaWord} {a b : Int} (hw : w.la = .num a) (hv : v.la = .num b) (h : 2 ^ 103 ≤ (a + b).natAbs) :
    laEnter w v = ({ w with
      poison := true, sat := w.sat || v.sat, outl := w.outl || v.outl, fallback := w.fallback || v.fallback, confirm := false }, true) := by
  simp only [laEnter, hw, hv, laAdd, laLegal, decide_eq_false (Nat.not_lt.mpr h), Bool.false_eq_true, if_false]

/-- The NaN marker absorbs what is added to it (R146). -/
theorem laEnter_nan (w : LaWord) {v : LaWord} (hv : v.la = .nanMark) : (laEnter w v).1.la = .nanMark := by
  have h : laAdd w.la v.la = some .nanMark := by rw [hv]; cases w.la <;> rfl
  simp only [laEnter, h]

section
variable {w : Nat} {cell : Bool} {v : LaWord} (h : (s.tile t).running = some c) (p layer : Nat) (pass : Option Nat)
include h

/-- A contribution that stays in range changes its word alone. -/
theorem enterWord_inRange (hr : (laEnter (wordOf (s.tile t) cell w) v).2 = false) : enterWord s t c p pass cell layer w v =
    s.modTile t fun x => putWord x cell w (entered (wordOf (s.tile t) cell w) v) := by rw [enterWord_running h, hr]; rfl

/-- One that leaves it raises ACC_RANGE. -/
theorem enterWord_outOfRange (hr : (laEnter (wordOf (s.tile t) cell w) v).2 = true) : enterWord s t c p pass cell layer w v =
    accRange (s.modTile t fun x => putWord x cell w (entered (wordOf (s.tile t) cell w) v)) t c p pass layer w := by
  rw [enterWord_running h, hr]; rfl

theorem enterWord_wordOf_self : wordOf ((enterWord s t c p pass cell layer w v).tile t) cell w = entered (wordOf (s.tile t) cell w) v := by
  rw [enterWord_wordOf h, if_pos ⟨rfl, rfl⟩]

end

/-- ACC_RANGE stands in the die's queue, with the output's index (R178, log entry 191). -/
theorem accRange_ev (ht : t < 1280) (p layer w : Nat) (pass : Option Nat) :
    ((accRange s t c p pass layer w).die (tileDie t)).ev = evPush (s.die (tileDie t)).ev
      { cls := evAccRange, die := tileDie t, block := tileBlock t, part := some p, first := s.now, last := s.now
        payload := pay [(1, p), (1, layer), (1, t % 32), (4, ((regionOf (ctxOf s t c) w).map fun q => q.2.2).getD w)] } := by
  have hd : tileDie t ≠ 0xF0 := by unfold tileDie; omega
  rw [accRange, poisonPass_die, reportTile, report_ev hd]
  rfl

theorem findPass_report (s : State) (die block cls : Nat) (part : Option Nat) (fields : List (Nat × Nat)) (p id : Nat) :
    findPass (report s die block cls part fields) p id = findPass s p id := by unfold report; split <;> rfl

theorem poisonPass_findPass (s : State) (p id reason : Nat) : findPass (poisonPass s p (some id) reason) p id =
    (findPass s p id).map fun x => { x with poison := some (x.poison.getD reason) } := findPass_modPass p id _ fun _ => rfl

/-- The pass whose addition leaves the range fails: it keeps its first reason. -/
theorem accRange_findPass {p id : Nat} {x : Pass} (hx : findPass s p id = some x) (layer w : Nat) :
    findPass (accRange s t c p (some id) layer w) p id = some { x with poison := some (x.poison.getD reasonPassFailed) } := by
  rw [accRange, poisonPass_findPass, reportTile, findPass_report]
  exact congrArg (Option.map _) hx

/-- An addition that leaves the legal range keeps the value, poisons the word, is counted and reported, and its pass fails (R148, R178). -/
theorem enterWord_accRange {p id layer w : Nat} {cell : Bool} {v : LaWord} {x : Pass} {a b : Int} (ht : t < 1280)
    (h : (s.tile t).running = some c) (ha : (wordOf (s.tile t) cell w).la = .num a) (hb : v.la = .num b) (hx : findPass s p id = some x)
    (hr : 2 ^ 103 ≤ (a + b).natAbs) :
    let u := enterWord s t c p (some id) cell layer w v
    let out := ((regionOf (ctxOf s t c) w).map fun q => q.2.2).getD w
    let r : EvRec := { cls := evAccRange, die := tileDie t, block := tileBlock t, part := some p, first := s.now, last := s.now
                       payload := pay [(1, p), (1, layer), (1, t % 32), (4, out)] }
    (wordOf (u.tile t) cell w).la = .num a ∧ (wordOf (u.tile t) cell w).poison = true ∧
      (u.tile t).accRangeCnt = satAdd (s.tile t).accRangeCnt 1 ∧ (u.die (tileDie t)).ev = evPush (s.die (tileDie t)).ev r ∧
      ∃ y, findPass u p id = some y ∧ y.poison = some (x.poison.getD reasonPassFailed) := by
  intro u out r
  have henter := laEnter_outOfRange ha hb hr
  have hword := enterWord_wordOf_self h p layer (some id) (cell := cell) (w := w) (v := v)
  have hu : u = _ := enterWord_outOfRange h p layer (some id) (congrArg Prod.snd henter)
  simp only [entered, henter] at hword
  have hpass : findPass u p id = some { x with poison := some (x.poison.getD reasonPassFailed) } := by
    rw [hu]
    refine accRange_findPass ?_ layer w
    exact hx
  refine ⟨(congrArg LaWord.la hword).trans ha, congrArg LaWord.poison hword, ?_, ?_, _, hpass, rfl⟩
  · rw [hu, accRange_tile, State.modTile_tile_self]
    cases cell <;> rfl
  · rw [hu, accRange_ev ht, (Steady.putWord s t cell w _).ctxOf_eq]
    rfl

/-- Settles O15: each product enters its word by an exact addition, which the operand set's columns do not share; an addition that leaves the
legal range keeps the value and raises ACC_RANGE. -/
theorem correctionEngineEntersProducts : Obligations.CorrectionEngineEntersProducts := by
  unfold Obligations.CorrectionEngineEntersProducts
  constructor
  · intro s t c opSet slot la terms epoch add o m bs bad k p ht hc ho hs cell xs old sum
    refine ⟨fun hi => ⟨_, exec_ceExact ht hc ho hs hi, fun j hj => enterSet_opened (issues_running hi) bad cell add la k o _ hj⟩,
      fun hi => ⟨_, exec_ceOutl ht hc ho hs hi, fun j hj => enterSet_opened (issues_running hi) bad cell add la k o _ hj⟩,
      fun hi => ⟨_, exec_ceFp32 ht hc ho hs hi, fun j hj => ?_⟩⟩
    rw [fp32Columns_opened (issues_running hi) bad cell add la o _ hj]
    refine ⟨fun hadd => ?_, fun v hadd hv => ?_, rfl⟩
    · simp only [fp32Held, hadd, Bool.false_eq_true, if_false]
      rfl
    · subst hadd
      show La.num ((f32Add (partialCode (old j).la) _ : Nat) : Int) = _
      rw [hv]
      rfl
  · intro s t c p id layer w cell v x a b ht h ha hb hx u out r
    refine ⟨fun hr => ?_, fun nm hn => ?_, fun hr => enterWord_accRange ht h ha hb hx hr⟩
    · have henter := laEnter_inRange ha hb hr
      have hu : u = _ := enterWord_inRange h p layer (some id) (congrArg Prod.snd henter)
      have hword := enterWord_wordOf_self h p layer (some id) (cell := cell) (w := w) (v := v)
      simp only [entered, henter] at hword
      refine ⟨congrArg LaWord.la hword, congrArg LaWord.poison hword, congrArg LaWord.sat hword, ?_⟩
      rw [hu]; exact hx
    · rw [enterWord_wordOf_self h]
      exact laEnter_nan _ hn

end Sys2Proof.Machine
end

section
/-! SUPPORT. COMBINE and ROUND (O16): partials enter the home tile's words, and each word is rounded once. -/

namespace Sys2Proof.Machine

variable {s : State} {t c : Nat}

/-! ### ROUND (R54, R55) -/

theorem round_writes {la dst fmt count e : Nat} {d : SlotDecl} (ht : t < 1280) (hc : c < 15) (hf : fmt < 7) (hd : SlotTakes s t c dst d)
    (hi : issues s t c { op := 0x2C, e1 := e, a := la, b := dst, c := fmt, d := count } [.words la count, slotRes (ctxOf s t c) dst] = true) :
    let k := ctxOf s t c
    let cell := match regionOf k la with | some (l, _, _) => cellPlaced s (ctxPart k) k.slot l | none => false
    let ws := (List.range count).map fun i => (la + i, wordOf (s.tile t) cell (la + i))
    ∃ u, exec (.round t c la dst fmt count e) s = .next (goTo u t c (k.pc + 1)) ∧
      (u.tile t).rows = slotResult (s.tile t) d e (ws.any fun q => q.2.poison) (writeVec fmt (ws.map fun q => outVal s k q.1 q.2)) := by
  have hserved : ¬(fmtReserved fmt || fmt == 7) = true := by
    have h7 : fmt ≠ 7 := by omega
    simp [fmtReserved_lt (hf.trans (by omega)), h7]
  refine ⟨_, guarded_served (okSite ht hc) hserved hi _, ?_⟩
  simp only [ctxWord_running (issues_running hi)]
  exact result_rows hd (Steady.poisonIf s t _ _ _ _) _ _ e _ _

/-! ### Entering words (R151, R156) -/

section
variable (p : Nat) (pass : Option Nat) (cell : Bool) (layer : Nat)

theorem Steady.enterWords (vs : List LaWord) : ∀ {s : State} (w : Nat), (s.tile t).running = some c →
    Steady t s (enterWords s t c p pass cell layer w vs) := by
  induction vs with
  | nil => exact fun _ _ => Steady.refl t _
  | cons v vs ih =>
    intro s w h
    have hv := Steady.enterWord h p pass cell layer w v
    exact hv.trans (ih (w + 1) (hv.running.trans h))

theorem enterWords_outside (vs : List LaWord) {cell' : Bool} {w' : Nat} : ∀ {s : State} (w : Nat), (s.tile t).running = some c →
    ¬(cell' = cell ∧ w ≤ w' ∧ w' < w + vs.length) →
    wordOf ((enterWords s t c p pass cell layer w vs).tile t) cell' w' = wordOf (s.tile t) cell' w' := by
  induction vs with
  | nil => exact fun _ _ _ => rfl
  | cons v vs ih =>
    intro s w h hw
    simp only [List.length_cons] at hw
    have hrun := (Steady.enterWord h p pass cell layer w v).running.trans h
    refine (ih (w + 1) hrun fun ⟨hc, hle, hlt⟩ => hw ⟨hc, by omega, by omega⟩).trans ?_
    rw [enterWord_wordOf h, if_neg fun ⟨hc, he⟩ => hw ⟨hc, by omega, by omega⟩]

/-- Contributions enter consecutive words, one each. -/
theorem enterWords_shown (vs : List LaWord) : ∀ {s : State} (w : Nat), (s.tile t).running = some c → ∀ (j : Nat) (hj : j < vs.length),
    (wordOf ((enterWords s t c p pass cell layer w vs).tile t) cell (w + j)).shown =
      (laEnter (wordOf (s.tile t) cell (w + j)) vs[j]).1.shown := by
  induction vs with
  | nil => exact fun _ _ j hj => absurd hj (Nat.not_lt_zero j)
  | cons v vs ih =>
    intro s w h j hj
    have hrun := (Steady.enterWord h p pass cell layer w v).running.trans h
    cases j with
    | zero =>
      refine (congrArg LaWord.shown (enterWords_outside p pass cell layer vs (w + 1) hrun (by omega))).trans ?_
      rw [Nat.add_zero, enterWord_wordOf h, if_pos ⟨rfl, rfl⟩]
      rfl
    | succ j =>
      have hword := ih (w + 1) hrun j (by simpa using hj)
      rw [show w + 1 + j = w + (j + 1) by omega, enterWord_wordOf h, if_neg (by omega)] at hword
      exact hword

/-- A contributor's receive words enter the home tile's words. -/
def receive (t c p : Nat) (pass : Option Nat) (cell : Bool) (layer la n : Nat) (s : State) (w : Nat) : State :=
  enterWords s t c p pass cell layer la ((List.range n).map fun j => wordOf (s.tile t) false (w + j))

theorem Steady.receive (la n : Nat) (h : (s.tile t).running = some c) (w : Nat) : Steady t s (receive t c p pass cell layer la n s w) :=
  Steady.enterWords p pass cell layer _ la h

theorem receive_beside {la n : Nat} (h : (s.tile t).running = some c) (w : Nat) {w' : Nat} (hw : w' < la ∨ la + n ≤ w') :
    wordOf ((receive t c p pass cell layer la n s w).tile t) false w' = wordOf (s.tile t) false w' :=
  enterWords_outside p pass cell layer _ la h (by simp only [List.length_map, List.length_range]; omega)

theorem receive_shown {la n : Nat} (h : (s.tile t).running = some c) (w : Nat) {j : Nat} (hj : j < n) :
    (wordOf ((receive t c p pass cell layer la n s w).tile t) cell (la + j)).shown =
      (laEnter (wordOf (s.tile t) cell (la + j)) (wordOf (s.tile t) false (w + j))).1.shown := by
  have hword := enterWords_shown p pass cell layer ((List.range n).map fun j => wordOf (s.tile t) false (w + j)) la h j (by simpa using hj)
  simp only [List.getElem_map, List.getElem_range] at hword
  exact hword

/-- The receive words of several contributors, which lie beside the home tile's words and hold in `s` what they hold in `q`, enter in order. -/
theorem receives_shown {q : State} {la n : Nat} (ws : List Nat) (hw : ∀ w ∈ ws, w + n ≤ la ∨ la + n ≤ w) : ∀ {s : State},
    (s.tile t).running = some c → (∀ w ∈ ws, ∀ j, j < n → wordOf (s.tile t) false (w + j) = wordOf (q.tile t) false (w + j)) →
    ∀ j, j < n → (wordOf ((ws.foldl (Machine.receive t c p pass cell layer la n) s).tile t) cell (la + j)).shown =
      ((ws.map fun w => wordOf (q.tile t) false (w + j)).foldl (fun a v => (laEnter a v).1) (wordOf (s.tile t) cell (la + j))).shown := by
  induction ws with
  | nil => exact fun _ _ _ _ => rfl
  | cons w ws ih =>
    intro s h hq j hj
    have hrun := (Steady.receive p pass cell layer la n h w).running.trans h
    refine (ih (fun w' hw' => hw w' (List.mem_cons_of_mem w hw')) hrun (fun w' hw' i hi => ?_) j hj).trans (foldl_laEnter_shown _ ?_)
    · have hbeside := hw w' (List.mem_cons_of_mem w hw')
      rw [receive_beside p pass cell layer h w (by omega)]
      exact hq w' (List.mem_cons_of_mem w hw') i hi
    · rw [receive_shown p pass cell layer h w hj, hq w List.mem_cons_self j hj]

theorem Steady.receives {la n : Nat} (h : (s.tile t).running = some c) (ws : List Nat) :
    Steady t s (ws.foldl (Machine.receive t c p pass cell layer la n) s) :=
  Steady.foldl (fun _ w hs => Steady.receive p pass cell layer la n hs w) ws h

end

/-! ### COMBINE (R156, R157, R163) -/

/-- The home tile's own partials, as COMBINE finds them. -/
def homeWords (x : Tile) (cell : Bool) (la n j : Nat) : LaWord := ((List.range n).map fun j => wordOf x cell (la + j)).getD j {}

theorem homeWords_lt (x : Tile) (cell : Bool) (la : Nat) {n j : Nat} (hj : j < n) : homeWords x cell la n j = wordOf x cell (la + j) := by
  simp [homeWords, hj]

/-- COMBINE has taken its count, its words carry the accumulation, and a home tile that does not contribute is cleared. -/
def combineOpened (s : State) (t c n ctr la words l mt col : Nat) (cell home : Bool) : State :=
  let q := noteRegion (takeArr s t c ctr n) t c la words l mt col
  if home then q else openWords q t (ctxTag (ctxOf s t c)) cell la words

section
variable (s : State) (t c n ctr la words l mt col : Nat) (cell home : Bool)

theorem combineOpened_steady : Steady t (noteRegion (takeArr s t c ctr n) t c la words l mt col)
    (combineOpened s t c n ctr la words l mt col cell home) := by
  cases home with
  | true => exact Steady.refl t _
  | false => exact Steady.openWords _ t _ cell la words

theorem combineOpened_ctxOf : ∃ rs, ctxOf (combineOpened s t c n ctr la words l mt col cell home) t c = { ctxOf s t c with
    arr := tset 0 (ctxOf s t c).arr ctr (tget 0 (ctxOf s t c).arr ctr - n), wait := none, regions := (la, words, l, mt, col) :: rs } := by
  rw [(combineOpened_steady s t c n ctr la words l mt col cell home).ctxOf_eq, noteRegion, modCtx_ctxOf, takeArr, modCtx_ctxOf]
  exact ⟨_, rfl⟩

theorem combineOpened_running : ((combineOpened s t c n ctr la words l mt col cell home).tile t).running = (s.tile t).running := by
  rw [(combineOpened_steady s t c n ctr la words l mt col cell home).running, noteRegion, modCtx_running, takeArr, modCtx_running]

theorem combineOpened_combines :
    ((combineOpened s t c n ctr la words l mt col cell home).tile t).accCombineCnt = (s.tile t).accCombineCnt := by
  rw [(combineOpened_steady s t c n ctr la words l mt col cell home).combines, noteRegion, modCtx_tile, takeArr, modCtx_tile]

theorem combineOpened_slot (p i : Nat) : (combineOpened s t c n ctr la words l mt col cell home).slot p i = s.slot p i := by
  rw [(combineOpened_steady s t c n ctr la words l mt col cell home).slot, noteRegion, modCtx_slot, takeArr, modCtx_slot]

theorem combineOpened_wordOf (cell' : Bool) (w' : Nat) : wordOf ((combineOpened s t c n ctr la words l mt col cell home).tile t) cell' w' =
    if home = false ∧ cell' = cell ∧ la ≤ w' ∧ w' < la + words then {} else wordOf (s.tile t) cell' w' := by
  have hq : wordOf ((noteRegion (takeArr s t c ctr n) t c la words l mt col).tile t) cell' w' = wordOf (s.tile t) cell' w' := by
    rw [noteRegion, modCtx_wordOf, takeArr, modCtx_wordOf]
  cases home with
  | true => exact hq.trans (by simp)
  | false => exact (openWords_wordOf _ t _ cell cell' la words w').trans (by rw [hq]; simp)

/-- The words of a COMBINE are those of its matrix: FP32 partials where it is on the FP32 path (R56). -/
theorem combineOpened_fp32 (hw : 1 ≤ words) :
    fp32Word (combineOpened s t c n ctr la words l mt col cell home) (ctxOf (combineOpened s t c n ctr la words l mt col cell home) t c) la =
      (matrixOf s (ctxPart (ctxOf s t c)) (ctxOf s t c).slot l mt).any fun x => x.fmt == 1 || x.fmt == 2 := by
  obtain ⟨rs, hctx⟩ := combineOpened_ctxOf s t c n ctr la words l mt col cell home
  have hregion : regionOf { ctxOf s t c with
      arr := tset 0 (ctxOf s t c).arr ctr (tget 0 (ctxOf s t c).arr ctr - n), wait := none, regions := (la, words, l, mt, col) :: rs } la =
      some (l, mt, col + (la - la)) := by
    simp [regionOf, Nat.lt_add_of_pos_right hw]
  rw [hctx, fp32Word, hregion]
  simp only [matrixOf, layerOf, planOf, combineOpened_slot, ctxPart]
  cases ((s.slot ((ctxOf s t c).part.getD 0) (ctxOf s t c).slot).plain.bind fun x => x.layers[l]?).bind fun x => x.matrices[mt]? <;> rfl

end

/-- What each contributor sends for output `j`: its receive word, or the home tile's own partial. -/
def combineParts (x : Tile) (src : List (Option Nat)) (own : Nat → LaWord) (j : Nat) : List LaWord :=
  src.map fun q => match q with
    | some w => wordOf x false (w + j)
    | none => own j

/-- The words of a COMBINE are entered: as FP32 sums, or exactly. -/
def combineEntered (s : State) (t c p : Nat) (pass : Option Nat) (cell : Bool) (l la n : Nat) (src : List (Option Nat)) (own : Nat → LaWord) :
    State :=
  if fp32Word s (ctxOf s t c) la then
    (List.range n).foldl (fun q j => putCtxWord q t c cell (la + j) (combineFp32 (combineParts (s.tile t) src own j))) s
  else (src.filterMap id).foldl (receive t c p pass cell l la n) s

section
variable (h : (s.tile t).running = some c) (p : Nat) (pass : Option Nat) (cell : Bool) (l la n : Nat) (src : List (Option Nat))
  (own : Nat → LaWord)
include h

theorem Steady.putWords (f : Nat → LaWord) (js : List Nat) : Steady t s (js.foldl (fun q j => putCtxWord q t c cell (la + j) (f j)) s) :=
  Steady.foldl (fun q j hq => by rw [putCtxWord_running hq]; exact Steady.putWord q t cell _ _) js h

theorem putWords_wordOf (f : Nat → LaWord) {j : Nat} (hj : j < n) :
    wordOf (((List.range n).foldl (fun q j => putCtxWord q t c cell (la + j) (f j)) s).tile t) cell (la + j) = f j := by
  have hput : ∀ (q : State) (i j : Nat), (q.tile t).running = some c →
      wordOf ((putCtxWord q t c cell (la + i) (f i)).tile t) cell (la + j) = if j = i then f i else wordOf (q.tile t) cell (la + j) := by
    intro q i j hq
    rw [putCtxWord_running hq, State.modTile_tile_self, wordOf_putWord]
    simp only [true_and, Nat.add_left_cancel_iff]
  have hcols := range_foldl_at (Q := fun q : State => (q.tile t).running = some c) (get := fun (q : State) i => wordOf (q.tile t) cell (la + i))
    (g := fun i _ => f i) (f := fun q j => putCtxWord q t c cell (la + j) (f j))
    (fun q i hq => by rw [putCtxWord_running hq]; exact (Steady.putWord q t cell _ _).running.trans hq)
    (fun q i hq => by rw [hput q i i hq, if_pos rfl]) (fun q i j hq hij => by rw [hput q i j hq, if_neg hij]) h n
  rw [hcols.2, if_pos hj]

theorem Steady.combineEntered : Steady t s (combineEntered s t c p pass cell l la n src own) := by
  unfold Machine.combineEntered
  split
  · exact Steady.putWords h cell la _ _
  · exact Steady.receives p pass cell l h _

end

/-- COMBINE whose contributors have all arrived. -/
theorem exec_combine {recv n la ctr words l mt col : Nat} {src : List (Option Nat)} (ht : t < 1280) (hc : c < 15) (hn : 1 ≤ n) (hn' : n ≤ 64)
    (hi : issues s t c { op := 0x2B, a := recv, b := n, c := la, d := ctr } [.words la words] = true) (harr : n ≤ tget 0 (ctxOf s t c).arr ctr)
    (hplan : combinePlan s (ctxOf s t c) recv n la = ((l, mt, col), words, src)) :
    let k := ctxOf s t c
    let cell := cellPlaced s (ctxPart k) k.slot l
    exec (.combine t c recv n la ctr) s = .next (goTo (combineRuns (combineEntered
      (combineOpened s t c n ctr la words l mt col cell (src.contains none)) t c (ctxPart k) k.pass cell l la words src
      (homeWords (s.tile t) cell la words)) t c la words) t c (k.pc + 1)) := by
  intro k cell
  have hserved : ¬(decide (tget 0 (ctxOf s t c).arr ctr < n) || decide (n = 0) || decide (64 < n)) = true := by
    simp only [Bool.or_eq_true, decide_eq_true_eq]; omega
  have hi' : issues s t c { op := 0x2B, a := recv, b := n, c := la, d := ctr }
      [.words la (combinePlan s (ctxOf s t c) recv n la).2.1] = true := by rw [hplan]; exact hi
  refine (guarded_served (okSite ht hc) hserved hi' _).trans (congrArg (fun u => Host.Outcome.next (goTo u t c _)) ?_)
  have hown : ∀ w, ctxWord (noteRegion (takeArr s t c ctr n) t c la words l mt col) t c cell w = wordOf (s.tile t) cell w := by
    intro w
    rw [ctxWord_running (by rw [noteRegion, modCtx_running, takeArr, modCtx_running, issues_running hi]), noteRegion, modCtx_wordOf, takeArr,
      modCtx_wordOf]
  unfold homeWords
  simp only [hplan, ← hown]
  rfl

/-- Below the count nothing happens. -/
theorem combine_below {recv n la ctr : Nat} (ht : t < 1280) (hc : c < 15) (harr : tget 0 (ctxOf s t c).arr ctr < n) :
    exec (.combine t c recv n la ctr) s = .next s :=
  (guarded_ok (okSite ht hc) _).trans (congrArg Host.Outcome.next (if_pos (by simp [harr])))

section
variable {n ctr la words l mt col : Nat} {src : List (Option Nat)} (hbeside : ∀ w, some w ∈ src → w + words ≤ la ∨ la + words ≤ w)
include hbeside

/-- Clearing the home tile's words leaves the receive words. -/
theorem combineOpened_received (cell home : Bool) {w : Nat} (hw : some w ∈ src) {j : Nat} (hj : j < words) :
    wordOf ((combineOpened s t c n ctr la words l mt col cell home).tile t) false (w + j) = wordOf (s.tile t) false (w + j) := by
  have := hbeside w hw
  rw [combineOpened_wordOf, if_neg fun ⟨_, _, hle, hlt⟩ => by omega]

/-- The contributors' words are those that have arrived, with the home tile's own partial. -/
theorem combineParts_opened (cell home : Bool) {own : Nat → LaWord} {j : Nat} (hj : j < words) (v : LaWord) (hown : own j = v) :
    combineParts ((combineOpened s t c n ctr la words l mt col cell home).tile t) src own j = combineParts (s.tile t) src (fun _ => v) j := by
  refine List.map_congr_left fun q hq => ?_
  cases q with
  | none => exact hown
  | some w => exact combineOpened_received hbeside cell home hq hj

/-- The words of a COMBINE hold what its contributors sent: the FP32 sums, or the exact sums. -/
theorem combineEntered_opened (h : (s.tile t).running = some c) (cell : Bool) (hw : 1 ≤ words) (p : Nat) (pass : Option Nat)
    {own : Nat → LaWord} {j : Nat} (hj : j < words) (hown : own j = wordOf (s.tile t) cell (la + j)) :
    (wordOf ((combineEntered (combineOpened s t c n ctr la words l mt col cell (src.contains none)) t c p pass cell l la words src own).tile t)
      cell (la + j)).la =
      if (matrixOf s (ctxPart (ctxOf s t c)) (ctxOf s t c).slot l mt).any fun x => x.fmt == 1 || x.fmt == 2 then
        (combineFp32 (combineParts (s.tile t) src (fun _ => wordOf (s.tile t) cell (la + j)) j)).la
      else (((src.filterMap id).map fun w => wordOf (s.tile t) false (w + j)).foldl (fun a v => (laEnter a v).1)
        (if src.contains none then wordOf (s.tile t) cell (la + j) else {})).la := by
  have hrun := (combineOpened_running s t c n ctr la words l mt col cell (src.contains none)).trans h
  rw [combineEntered, combineOpened_fp32 s t c n ctr la words l mt col cell (src.contains none) hw]
  split
  · rw [putWords_wordOf hrun cell la words _ hj, combineParts_opened hbeside cell _ hj _ hown]
  · have hsrc : ∀ w ∈ src.filterMap id, some w ∈ src := fun w hw => by simpa using hw
    refine LaWord.shown_la ((receives_shown p pass cell l _ (fun w hw => hbeside w (hsrc w hw)) hrun
      (fun w hw i hi => combineOpened_received hbeside cell _ (hsrc w hw) hi) j hj).trans (foldl_laEnter_shown _ (congrArg LaWord.shown ?_)))
    rw [combineOpened_wordOf]
    cases src.contains none with
    | true => rfl
    | false => exact if_pos ⟨rfl, rfl, by omega, by omega⟩

end

theorem combineRuns_tile (s : State) (t c la n : Nat) : (combineRuns s t c la n).tile t = { s.tile t with
    inFlight := (s.tile t).inFlight ++ [{ id := (s.tile t).issued, engine := .ce, ctx := c, res := [.words la n], combine := true }]
    issued := (s.tile t).issued + 1, combining := true, accCombineCnt := wrapAdd (s.tile t).accCombineCnt 1 } := by
  rw [combineRuns, State.modTile_tile_self]

/-- Settles O16: the receive words lie beside the home tile's words, so that what enters does not change what is still to enter. -/
theorem partialsAreCombinedAndRounded : Obligations.PartialsAreCombinedAndRounded := by
  unfold Obligations.PartialsAreCombinedAndRounded
  constructor
  · intro s t c recv n la ctr words l mt col src ht hc hctr hn hn' k cell
    refine ⟨combine_below ht hc, fun hi harr hplan hw hbeside => ⟨_, exec_combine ht hc hn hn' hi harr hplan, ?_⟩⟩
    have hrun := issues_running hi
    have hopened := (combineOpened_running s t c n ctr la words l mt col cell (src.contains none)).trans hrun
    have hentered := Steady.combineEntered hopened (ctxPart k) k.pass cell l la words src (homeWords (s.tile t) cell la words)
    refine ⟨fun j hj => ?_, ?_, by rw [combineRuns_tile], ?_⟩
    · rw [combineRuns_tile]
      exact combineEntered_opened hbeside hrun cell hw (ctxPart k) k.pass hj (homeWords_lt (s.tile t) cell la hj)
    · rw [combineRuns_tile]
      exact congrArg (wrapAdd · 1) (hentered.combines.trans (combineOpened_combines s t c n ctr la words l mt col cell _))
    · obtain ⟨rs, hctx⟩ := combineOpened_ctxOf s t c n ctr la words l mt col cell (src.contains none)
      rw [combineRuns, modTile_ctxOf t _ rfl, hentered.ctxOf_eq, hctx, tget_tset_self]
  · exact fun s t c la dst fmt count e d ht hc hf hd => round_writes ht hc hf hd

end Sys2Proof.Machine
end

section
/-! SUPPORT. The Tarns of a tile: what a change of one leaves, the commands of their statistics (O18), and their drift updates, scrub reads
and row writes (O19). -/

namespace Sys2Proof.Machine

variable {s : State} {t tarn : Nat}

/-! ### Tarns by number -/

theorem modTarn_tile (s : State) (t n : Nat) (f : Tarn → Tarn) :
    (modTarn s t n f).tile t = { s.tile t with tarns := tmod {} (s.tile t).tarns n f } := by rw [modTarn, State.modTile_tile_self]

@[simp] theorem modTarn_tarnOf (s : State) (t n : Nat) (f : Tarn → Tarn) :
    tarnOf ((modTarn s t n f).tile t) n = f (tarnOf (s.tile t) n) := by rw [modTarn_tile]; exact tget_tmod_self _ n f

theorem modTarn_tarnOf_other (s : State) (t : Nat) {n j : Nat} (h : j ≠ n) (f : Tarn → Tarn) :
    tarnOf ((modTarn s t n f).tile t) j = tarnOf (s.tile t) j := by rw [modTarn_tile]; exact tget_tmod_other _ h f

@[simp] theorem modTarn_die (s : State) (t n : Nat) (f : Tarn → Tarn) (d : Nat) : (modTarn s t n f).die d = s.die d := rfl

/-! ### Statistics (R93 to R96) -/

/-- A full window closes. -/
theorem exec_tstatWindowClose {col : Nat} (ht : t < 1280) (hn : tarn < 400) (hc : col < 264)
    (hfull : 2 ^ (s.tile t).windowLog2 ≤ (tget {} (tarnOf (s.tile t) tarn).win col).n) : exec (.tstatWindowClose t tarn col) s =
      .next (modTarn s t tarn fun T => closeWindow (s.tile t).freeze T col) := by
  have hok : instrWellFormed (.tstatWindowClose t tarn col) = true := by simp [instrWellFormed, okTile, okTarn, okCol, ht, hn, hc]
  exact (guarded_ok hok _).trans (congrArg Host.Outcome.next (if_pos hfull))

theorem exec_tstatSelect (ht : t < 1280) (value : Nat) (s : State) : exec (.tstatSelect t 0x0400 value) s =
    .next (s.modTile t fun x => tstatSel x value) := guarded_ok (decide_eq_true ht) _

theorem exec_tstatRefresh (ht : t < 1280) (value : Nat) (s : State) : exec (.tstatSelect t 0x0404 value) s =
    .next (s.modTile t fun x => tstatCtrl x value) := guarded_ok (decide_eq_true ht) _

theorem exec_tstatClear (ht : t < 1280) (value : Nat) (s : State) : exec (.tstatClear t value) s =
    .next (s.modTile t fun x => tstatCtrl x value) := guarded_ok (decide_eq_true ht) _

/-- A write of TSTAT_SEL that names a column selects and copies it. -/
theorem tstatSel_copies (x : Tile) {col : Nat} (hn : tarn < 400) (hc : col < 264) :
    tstatSel x (tarn + 65536 * col) = copyView { x with tstatTarn := tarn, tstatCol := col } := by
  have htarn : fld (tarn + 65536 * col) 0 9 = tarn := by simp only [fld]; omega
  have hcol : fld (tarn + 65536 * col) 16 9 = col := by simp only [fld]; omega
  simp only [tstatSel, htarn, hcol, hn, hc, and_self, if_true]

/-- The fields of a write of TSTAT_CTRL: WINDOW_LOG2, FREEZE off, and REFRESH and CLEAR in the two bits of `hi`. -/
theorem tstatCtrl_fields {value wl hi : Nat} (hv : value = wl + 512 * hi) (h : wl < 32) :
    fld value 0 5 = wl ∧ bitOf value 8 = false ∧ bitOf value 9 = bitOf hi 0 ∧ bitOf value 10 = bitOf hi 1 := by
  subst hv
  refine ⟨?_, beq_eq_false_iff_ne.mpr ?_, congrArg (· % 2 == 1) ?_, congrArg (· % 2 == 1) ?_⟩
  · simp only [fld]; omega
  all_goals omega

/-- A write of TSTAT_CTRL with REFRESH and the window's own length copies the selected column. -/
theorem tstatCtrl_refresh (x : Tile) (h10 : 10 ≤ x.windowLog2) (h24 : x.windowLog2 ≤ 24) :
    tstatCtrl x (x.windowLog2 + 512) = copyView { x with freeze := false } := by
  obtain ⟨hwl, hfreeze, hrefresh, hclear⟩ := tstatCtrl_fields (value := x.windowLog2 + 512) (hi := 1) rfl (by omega)
  replace hrefresh : bitOf (x.windowLog2 + 512) 9 = true := hrefresh
  replace hclear : bitOf (x.windowLog2 + 512) 10 = false := hclear
  simp [tstatCtrl, hwl, hfreeze, hrefresh, hclear, h10, h24]

/-- A write of TSTAT_CTRL with CLEAR discards every running window and makes no copy. -/
theorem tstatCtrl_clear (x : Tile) {wl : Nat} (h10 : 10 ≤ wl) (h24 : wl ≤ 24) :
    tstatCtrl x (wl + 1024) = { restartWindows x with windowLog2 := wl, freeze := false } := by
  obtain ⟨hwl, hfreeze, hrefresh, hclear⟩ := tstatCtrl_fields (value := wl + 1024) (hi := 2) rfl (by omega)
  replace hrefresh : bitOf (wl + 1024) 9 = false := hrefresh
  replace hclear : bitOf (wl + 1024) 10 = true := hclear
  simp [tstatCtrl, hwl, hfreeze, hrefresh, hclear, h10, h24]

/-- Discarding the windows of the listed Tarns leaves none of theirs, and those that were empty. -/
theorem foldl_clearWin (l : List (Nat × Tarn)) (n : Nat) : ∀ {ts : Tab Tarn}, (n ∈ l.map Prod.fst ∨ (tget {} ts n).win = []) →
    (tget {} (l.foldl (fun ts q => tmod {} ts q.1 fun T => { T with win := [] }) ts) n).win = [] := by
  induction l with
  | nil => simp
  | cons q l ih =>
    intro ts h
    refine ih ?_
    by_cases hq : n = q.1
    · right; rw [hq, tget_tmod_self]
    · rw [tget_tmod_other _ hq]
      simpa [hq] using h

theorem tget_unlisted {α : Type} {d : α} {t : Tab α} {n : Nat} (h : n ∉ t.map Prod.fst) : tget d t n = d := by
  induction t with
  | nil => rfl
  | cons q t ih =>
    simp only [List.map_cons, List.mem_cons, not_or] at h
    rw [tget, if_neg h.1, ih h.2]

theorem restartWindows_win (x : Tile) (n : Nat) : (tarnOf (restartWindows x) n).win = [] := by
  refine foldl_clearWin x.tarns n ?_
  by_cases h : n ∈ x.tarns.map Prod.fst
  · exact .inl h
  · exact .inr (by rw [tget_unlisted h])

/-- Settles O18, write by write. -/
theorem statisticsWindows : Obligations.StatisticsWindows := by
  unfold Obligations.StatisticsWindows
  intro s t tarn col ht hn hc T W
  refine ⟨fun hfreeze hfull => ⟨_, exec_tstatWindowClose ht hn hc hfull, ?_⟩, ⟨_, exec_tstatSelect ht _ s, ?_⟩,
    fun wl h10 h24 hwl htarn hcol => ⟨_, exec_tstatRefresh ht _ s, ?_⟩, fun wl h10 h24 => ⟨_, exec_tstatClear ht _ s, ?_⟩⟩
  · simp [closeWindow, hfreeze, T]
  · rw [State.modTile_tile_self, tstatSel_copies _ hn hc]
    exact ⟨rfl, rfl, rfl, rfl, rfl⟩
  · subst hwl
    rw [State.modTile_tile_self, tstatCtrl_refresh _ h10 h24]
    subst htarn hcol
    exact ⟨rfl, rfl, rfl⟩
  · rw [State.modTile_tile_self, tstatCtrl_clear _ h10 h24]
    exact ⟨rfl, rfl, restartWindows_win _ tarn⟩

/-! ### Drift updates (R115 to R119) -/

theorem okDrift {bank col : Nat} (ht : t < 1280) (hn : tarn < 400) (hb : bank < 4) (hc : col < 264) (now : Nat) :
    instrWellFormed (.driftUpdate t tarn bank col now) = true := by simp [instrWellFormed, okTile, okTarn, okCol, ht, hn, hb, hc]

theorem exec_driftUpdate {bank col : Nat} (ht : t < 1280) (hn : tarn < 400) (hb : bank < 4) (hc : col < 264) (now : Nat)
    (hfreeze : (s.tile t).driftFreeze = false) (hfull : 256 ≤ (tget {} (tarnOf (s.tile t) tarn).cmps (convKey bank col)).n) :
    exec (.driftUpdate t tarn bank col now) s = .next (driftNow (s.setNow now) t tarn (convKey bank col)) := by
  refine (guarded_ok (okDrift ht hn hb hc now) _).trans (congrArg Host.Outcome.next (if_neg ?_))
  show ¬((s.tile t).driftFreeze || decide ((tget {} (tarnOf (s.tile t) tarn).cmps (convKey bank col)).n < 256)) = true
  simp [hfreeze, hfull]

theorem exec_driftUpdate_frozen {bank col : Nat} (ht : t < 1280) (hn : tarn < 400) (hb : bank < 4) (hc : col < 264) (now : Nat)
    (hfreeze : (s.tile t).driftFreeze = true) : exec (.driftUpdate t tarn bank col now) s = .next (s.setNow now) :=
  (guarded_ok (okDrift ht hn hb hc now) _).trans (congrArg Host.Outcome.next (if_pos (by simp [hfreeze])))

/-- The Tarn once a converter column has been updated to the coefficients `co` (R116). -/
def driftUpdated (T : Tarn) (key : Nat) (co : Coef) : Tarn :=
  if mvmBusy T then { T with cmps := tset {} T.cmps key {}, pend := tput T.pend key co }
  else { T with cmps := tset {} T.cmps key {}, coefs := tset {} T.coefs key co }

/-- An update changes its Tarn and the tile's two counters of updates. -/
theorem driftNow_tile (s : State) (t tarn key : Nat) :
    let r := driftApply (tget {} (tarnOf (s.tile t) tarn).cmps key) (coefNow (tarnOf (s.tile t) tarn) key)
    (driftNow s t tarn key).tile t = { s.tile t with
      tarns := tmod {} (s.tile t).tarns tarn fun T : Tarn => driftUpdated T key r.1
      driftUpdCnt := wrapAdd (s.tile t).driftUpdCnt 1
      driftLimitCnt := if r.2.1 then satAdd (s.tile t).driftLimitCnt 1 else (s.tile t).driftLimitCnt } := by
  intro r
  unfold driftNow
  dsimp only
  split
  · rw [reportTile, report_tile, State.modTile_tile_self, modTarn_tile]; rfl
  · rw [State.modTile_tile_self, modTarn_tile]; rfl

theorem driftNow_tarnOf (s : State) (t tarn key : Nat) : tarnOf ((driftNow s t tarn key).tile t) tarn =
    driftUpdated (tarnOf (s.tile t) tarn) key
      (driftApply (tget {} (tarnOf (s.tile t) tarn).cmps key) (coefNow (tarnOf (s.tile t) tarn) key)).1 := by
  rw [driftNow_tile]
  dsimp only [tarnOf]
  rw [tget_tmod_self]

/-- The sums start anew. -/
theorem driftUpdated_cmps (T : Tarn) (key : Nat) (co : Coef) : tget {} (driftUpdated T key co).cmps key = {} := by
  unfold driftUpdated; split <;> exact tget_tset_self T.cmps key {}

/-- An idle Tarn takes the coefficients at once. -/
theorem driftUpdated_idle {T : Tarn} (h : mvmBusy T = false) (key : Nat) (co : Coef) :
    driftUpdated T key co = { T with cmps := tset {} T.cmps key {}, coefs := tset {} T.coefs key co } := if_neg (ne_true_of_eq_false h)

/-- A busy one takes them at its next MVM. -/
theorem driftUpdated_busy {T : Tarn} (h : mvmBusy T = true) (key : Nat) (co : Coef) :
    driftUpdated T key co = { T with cmps := tset {} T.cmps key {}, pend := tput T.pend key co } := if_pos h

/-! ### Scrub reads and row writes (R102, R462, R463) -/

theorem okRowSite {row : Nat} (ht : t < 1280) (hn : tarn < 400) (hr : row < 512) : (okTile t && okTarn tarn && okRow row) = true := by
  simp [okTile, okTarn, okRow, ht, hn, hr]

/-- A scrub read at `now` is counted on its die. -/
def scrubCounted (s : State) (t now : Nat) : State :=
  (s.setNow now).modDie (tileDie t) fun d => { d with scrubRows := wrapAdd d.scrubRows 1 }

/-- A row that agrees with its check word is left as it is; after the last of a clean scrub no pass is suspect. -/
theorem exec_tarnScrubRead_agrees {row bits : Nat} (ht : t < 1280) (hn : tarn < 400) (hr : row < 512) (now : Nat)
    (h : rowCheck bits = tget 0 (tarnOf (s.tile t) tarn).check row) : exec (.tarnScrubRead t tarn row bits now) s =
      .next (if row = 511 then modTarn (scrubCounted s t now) t tarn fun T => { T with ranSince := [] } else scrubCounted s t now) :=
  (guarded_ok (okRowSite ht hn hr) _).trans (congrArg Host.Outcome.next (if_pos h))

/-- A Tarn whose row read as `bits`, with its content `good` to be written back. -/
def rowDiffers (T : Tarn) (row bits good now : Nat) : Tarn :=
  { T with
    rows := tset 0 T.rows row bits
    rewrite := if T.rewrite.any fun q => q.1 == row then T.rewrite else tput T.rewrite row good
    rowFixAt := tset 0 T.rowFixAt row (now + 1) }

/-- The first disagreement of a row of a Tarn that no pass has run on: counted and reported, and the row waits for its rewrite. -/
theorem exec_tarnScrubRead_differs {row bits : Nat} (ht : t < 1280) (hn : tarn < 400) (hr : row < 512) (now : Nat)
    (h : rowCheck bits ≠ tget 0 (tarnOf (s.tile t) tarn).check row) (hran : (tarnOf (s.tile t) tarn).ranSince = [])
    (hfix : tget 0 (tarnOf (s.tile t) tarn).rowFixAt row = 0) : exec (.tarnScrubRead t tarn row bits now) s =
      .next (reportTile ((modTarn (scrubCounted s t now) t tarn fun T =>
          rowDiffers T row bits (tget 0 (tarnOf (s.tile t) tarn).rows row) (s.setNow now).now).modDie (tileDie t)
            fun d => { d with rowFix := satAdd d.rowFix 1 }) t evTarnRowRepair none
          [(1, tileDie t), (1, t % 32), (2, tarn), (2, row), (4, 0)]) := by
  refine (guarded_ok (okRowSite ht hn hr) _).trans (congrArg Host.Outcome.next ((if_neg h).trans ?_))
  simp only [State.modDie_tile', State.setNow_tile', hran, hfix]
  rfl

/-- A report changes a die's queue of events alone. -/
theorem report_die_rowFix (s : State) (die block cls : Nat) (part : Option Nat) (fields : List (Nat × Nat)) (d : Nat) :
    ((report s die block cls part fields).die d).rowFix = (s.die d).rowFix := by
  unfold report
  dsimp only
  split
  · rfl
  · by_cases h : d = die
    · rw [h, State.modDie_die_self]
    · rw [State.modDie_die_other _ h]

/-- A pending row write is applied between MVMs (R102). -/
theorem exec_tarnRowRewrite {row v : Nat} (ht : t < 1280) (hn : tarn < 400) (hr : row < 512)
    (hv : (tarnOf (s.tile t) tarn).rewrite.find? (fun q => q.1 == row) = some (row, v)) (hidle : mvmBusy (tarnOf (s.tile t) tarn) = false) :
    exec (.tarnRowRewrite t tarn row) s = .next (modTarn s t tarn fun T => { T with
      rows := tset 0 T.rows row v, check := tset 0 T.check row (rowCheck v), rewrite := tdel T.rewrite row }) := by
  refine (guarded_ok (okRowSite ht hn hr) _).trans (congrArg Host.Outcome.next ?_)
  simp only [hv, hidle]
  rfl

/-- Settles O19: an update moves the coefficients in force or those that wait; a scrub read and the rewrite of its row. -/
theorem coefficientsAndRowsAreMended : Obligations.CoefficientsAndRowsAreMended := by
  unfold Obligations.CoefficientsAndRowsAreMended
  constructor
  · intro s t tarn bank col now ht hn hb hc T key r
    refine ⟨fun hfreeze hfull => ⟨_, exec_driftUpdate ht hn hb hc now hfreeze hfull, ?_, ?_, fun hidle => ?_, fun hbusy => ?_⟩,
      exec_driftUpdate_frozen ht hn hb hc now⟩
    · rw [driftNow_tarnOf, driftUpdated_cmps]
    · rw [driftNow_tile]; rfl
    · rw [driftNow_tarnOf, State.setNow_tile', driftUpdated_idle hidle]
      exact tget_tset_self _ key _
    · rw [driftNow_tarnOf, State.setNow_tile', driftUpdated_busy hbusy]
      exact ⟨rfl, rfl⟩
  · intro s t tarn row bits now ht hn hr T
    refine ⟨fun h hrow => ⟨_, exec_tarnScrubRead_agrees ht hn hr now h, ?_⟩,
      fun h hrow => ⟨_, exec_tarnScrubRead_agrees ht hn hr now h, ?_⟩,
      fun h hrew hran hfix => ⟨_, exec_tarnScrubRead_differs ht hn hr now h hran hfix, ?_⟩,
      fun v hv hidle => ⟨_, exec_tarnRowRewrite ht hn hr hv hidle, ?_⟩⟩
    · rw [if_neg hrow, scrubCounted, State.modDie_die_self]
      exact ⟨rfl, rfl, rfl⟩
    · rw [if_pos hrow, modTarn_tarnOf]
      exact ⟨rfl, rfl⟩
    · rw [reportTile, report_tile, report_die_rowFix, State.modDie_tile', State.modDie_die_self, modTarn_tarnOf, modTarn_die, scrubCounted,
        State.modDie_die_self]
      refine ⟨tget_tset_self _ row _, ?_, rfl⟩
      simp only [rowDiffers, State.modDie_tile', State.setNow_tile', show (tarnOf (s.tile t) tarn).rewrite = [] from hrew]
      rfl
    · rw [modTarn_tarnOf]
      exact ⟨tget_tset_self _ row _, tget_tset_self _ row _, rfl⟩

end Sys2Proof.Machine
end

section
/-! SUPPORT. The module before power-up (O2). -/

namespace Sys2Proof.Machine

/-- Every table is empty, and the module has neither started, nor adopted a time, nor unlocked Lantern. -/
theorem inv_reset : Inv State.reset where
  tables := ⟨tabWf_nil _, tabWf_nil _, tabWf_nil _, tabWf_nil _, tabWf_nil _, tabWf_nil _, tabWf_nil _, tabWf_nil _, tabWf_nil _, tabWf_nil _,
    tabWf_nil _, tabWf_nil _⟩
  start h := nomatch h
  time h := nomatch h
  lantern h := nomatch h

/-- Settles O2: each register reads what its block's fields hold at reset. -/
theorem resetLeavesTheSpecsValues : Obligations.ResetLeavesTheSpecsValues := by
  unfold Obligations.ResetLeavesTheSpecsValues
  refine ⟨inv_reset, rfl, rfl, rfl, rfl, rfl, rfl, rfl, rfl, rfl, rfl, ?_⟩
  decide

end Sys2Proof.Machine
end

section
/-! SUPPORT. TARN_MVM (O17): what the Tarns of a set hold once their MVMs have started. -/

namespace Sys2Proof.Machine

variable {s u v : State} {t c : Nat}

/-! ### What a start reads -/

/-- A context apart from where its words lie. -/
def unplaced (k : Ctx) : Ctx := { k with regions := [], place := 0 }

/-- A pass apart from its poison and from where it has worked. -/
def unworked (x : Pass) : Pass := { x with poison := none, worked := [] }

/-- What the start of an MVM reads besides its Tarn: the context that serves the pass, the image, and whether its steps go exactly. -/
structure Serving (t c : Nat) (s u : State) : Prop where
  ctx : unplaced (ctxOf u t c) = unplaced (ctxOf s t c)
  slot : ∀ p k, u.slot p k = s.slot p k
  pass : ∀ p id, (findPass u p id).map unworked = (findPass s p id).map unworked

theorem Serving.refl (t c : Nat) (s : State) : Serving t c s s := ⟨rfl, fun _ _ => rfl, fun _ _ => rfl⟩

theorem Serving.trans (h : Serving t c s u) (k : Serving t c u v) : Serving t c s v where
  ctx := k.ctx.trans h.ctx
  slot p i := (k.slot p i).trans (h.slot p i)
  pass p id := (k.pass p id).trans (h.pass p id)

/-- The same, with the later operation first: it determines the state between. -/
theorem Serving.after (k : Serving t c u v) (h : Serving t c s u) : Serving t c s v := h.trans k

theorem Serving.part_eq (h : Serving t c s u) : ctxPart (ctxOf u t c) = ctxPart (ctxOf s t c) :=
  (congrArg ctxPart h.ctx : ctxPart (unplaced _) = ctxPart (unplaced _))

theorem Serving.slot_eq (h : Serving t c s u) : (ctxOf u t c).slot = (ctxOf s t c).slot :=
  (congrArg Ctx.slot h.ctx : (unplaced _).slot = (unplaced _).slot)

theorem Serving.pass_eq (h : Serving t c s u) : (ctxOf u t c).pass = (ctxOf s t c).pass :=
  (congrArg Ctx.pass h.ctx : (unplaced _).pass = (unplaced _).pass)

theorem Serving.matrixOf_eq (h : Serving t c s u) (p k l m : Nat) : matrixOf u p k l m = matrixOf s p k l m := by
  simp only [matrixOf, layerOf, planOf, h.slot]

/-- A change of a pass that a projection does not see. -/
theorem modPass_reads {γ : Type} {f : Pass → Pass} {g : Pass → γ} (hid : ∀ x, (f x).id = x.id) (hg : ∀ x, g (f x) = g x) (s : State)
    (p id q j : Nat) : (findPass (modPass s p id f) q j).map g = (findPass s q j).map g := by
  unfold findPass allPasses modPass
  by_cases h : q = p
  · subst h
    rw [State.modPart_part_self, ← List.map_append, find_map_of_id _ _ _ (fun x => by split <;> simp [hid]), Option.map_map]
    congr 1
    funext x
    simp only [Function.comp_def]
    split
    · exact hg x
    · rfl
  · rw [State.modPart_part_other s h]

theorem Serving.modTile (s : State) (t c : Nat) {f : Tile → Tile} (hf : (f (s.tile t)).ctxs = (s.tile t).ctxs) :
    Serving t c s (s.modTile t f) where
  ctx := congrArg unplaced (modTile_ctxOf t f hf t c)
  slot _ _ := rfl
  pass _ _ := rfl

theorem Serving.modTarn (s : State) (t c n : Nat) (f : Tarn → Tarn) : Serving t c s (modTarn s t n f) := Serving.modTile s t c rfl

theorem Serving.modCtx (s : State) (t c : Nat) {f : Ctx → Ctx} (hf : ∀ k, unplaced (f k) = unplaced k) : Serving t c s (modCtx s t c f) where
  ctx := by rw [modCtx_ctxOf, hf]
  slot _ _ := rfl
  pass _ _ := rfl

theorem Serving.noteRegion (s : State) (t c w n l m col : Nat) : Serving t c s (noteRegion s t c w n l m col) :=
  Serving.modCtx s t c fun _ => rfl

theorem Serving.modPass (s : State) (t c p id : Nat) {f : Pass → Pass} (hid : ∀ x, (f x).id = x.id)
    (hf : ∀ x, unworked (f x) = unworked x) :
    Serving t c s (modPass s p id f) where
  ctx := rfl
  slot := modPass_slot s p id f
  pass := modPass_reads hid hf s p id

theorem Serving.consumed (s : State) (t c : Nat) (bad : Bool) : Serving t c s (consumed s t c bad) where
  ctx := by rw [consumed_ctxOf]
  slot := (Steady.consumed s t c bad).slot
  pass p id := consumed_reads s t c bad p id fun _ _ => rfl

/-! ### The words of a set -/

theorem clearedWords_tarns (x : Tile) (cell : Bool) (w n : Nat) : (clearedWords x cell w n).tarns = x.tarns := by
  refine List.foldlRecOn (List.range n) _ (motive := fun y : Tile => y.tarns = x.tarns) rfl fun y hy i _ => ?_
  cases cell <;> exact hy

theorem openWords_tarns (s : State) (t : Nat) (tag : Option PassTag) (cell : Bool) (w n : Nat) :
    ((openWords s t tag cell w n).tile t).tarns = (s.tile t).tarns := by
  obtain ⟨tags, h⟩ := openWords_tile s t tag cell w n
  rw [h]
  exact clearedWords_tarns (s.tile t) cell w n

theorem Serving.openWords (s : State) (t c : Nat) (tag : Option PassTag) (cell : Bool) (w n : Nat) :
    Serving t c s (openWords s t tag cell w n) where
  ctx := congrArg unplaced ((Steady.openWords s t tag cell w n).ctxOf_eq c)
  slot _ _ := rfl
  pass _ _ := rfl

/-- The words of a use are open: its Tarn, and what its start reads, are not touched. -/
theorem openUse_serving (s : State) (t c la : Nat) (add : Bool) (w : TarnUse) :
    Serving t c s (openUse s t c la add w) ∧ ((openUse s t c la add w).tile t).tarns = (s.tile t).tarns := by
  unfold openUse
  dsimp only
  generalize hq : (if add then s else _) = q
  have h : Serving t c s q ∧ (q.tile t).tarns = (s.tile t).tarns := by
    subst hq
    split
    · exact ⟨Serving.refl t c s, rfl⟩
    · exact ⟨Serving.openWords s t c _ _ _ _, openWords_tarns s t _ _ _ _⟩
  refine ⟨.after (.modTile _ t c rfl) (.after (.modCtx _ t c fun _ => rfl) (.after (.noteRegion q t c _ _ _ _ _) h.1)), ?_⟩
  rw [State.modTile_tile_self, modCtx_tile, noteRegion, modCtx_tile]
  exact h.2

theorem openUses_serving (t c la : Nat) (add : Bool) (us : List TarnUse) : ∀ s : State,
    Serving t c s (us.foldl (fun s w => openUse s t c la add w) s) ∧
      ((us.foldl (fun s w => openUse s t c la add w) s).tile t).tarns = (s.tile t).tarns := by
  induction us with
  | nil => exact fun s => ⟨Serving.refl t c s, rfl⟩
  | cons w us ih =>
    intro s
    obtain ⟨hs, ht⟩ := openUse_serving s t c la add w
    obtain ⟨hs', ht'⟩ := ih (openUse s t c la add w)
    exact ⟨hs.trans hs', ht'.trans ht⟩

/-! ### Starting the MVMs (R72, R116) -/

/-- A Tarn on which an MVM has started, with the coefficients that waited (R116). -/
def mvmBegun (T : Tarn) (p : Nat) (y : Mvm) : Tarn :=
  { T with
    mvm := some y, coefs := T.pend.foldl (fun cs q => tset {} cs q.1 q.2) T.coefs, pend := []
    ranSince := if T.ranSince.contains (p, y.pass) then T.ranSince else T.ranSince ++ [(p, y.pass)] }

theorem mvmBegin_tarnOf (s : State) (t n p : Nat) (y : Mvm) :
    tarnOf ((mvmBegin s t n p y).tile t) n = mvmBegun (tarnOf (s.tile t) n) p y := by
  rw [mvmBegin, modTarn_tarnOf]; rfl

theorem mvmBegin_tarnOf_other (s : State) (t : Nat) {n j : Nat} (h : j ≠ n) (p : Nat) (y : Mvm) :
    tarnOf ((mvmBegin s t n p y).tile t) j = tarnOf (s.tile t) j := by
  rw [mvmBegin, modTarn_tarnOf_other _ t h]; rfl

theorem Serving.mvmBegin (s : State) (t c n p : Nat) (y : Mvm) : Serving t c s (mvmBegin s t n p y) :=
  .after (.modTarn _ t c n _) (.modPass s t c p y.pass (fun _ => rfl) fun _ => rfl)

/-- The Tarn of a use holds a matrix of the image, whose step goes neither exactly nor to fallback in the pass served. -/
def Starts (s : State) (t c : Nat) (w : TarnUse) : Prop :=
  let k := ctxOf s t c
  let T := tarnOf (s.tile t) w.tarn
  (matrixOf s (ctxPart k) k.slot T.layer T.matrix).isSome = true ∧
    ∃ x, (k.pass.bind (findPass s (ctxPart k))).map unworked = some x ∧ exactStep x T.layer T.matrix = false

theorem Starts.serving {w : TarnUse} (h : Starts s t c w) (hu : Serving t c s u) (hT : tarnOf (u.tile t) w.tarn = tarnOf (s.tile t) w.tarn) :
    Starts u t c w := by
  obtain ⟨hm, x, hx, hex⟩ := h
  refine ⟨?_, x, ?_, ?_⟩
  · rw [hu.part_eq, hu.slot_eq, hT, hu.matrixOf_eq, hm]
  · rw [hu.part_eq, hu.pass_eq, ← hx, Option.map_bind, Option.map_bind]
    exact congrArg _ (funext fun id => hu.pass _ id)
  · rw [hT, hex]

/-- What the start of a use makes of its Tarn: an MVM for its K-chunk, in the context that serves the pass. -/
def Begun (s : State) (t c la : Nat) (int8 bad : Bool) (w : TarnUse) (T' : Tarn) : Prop :=
  let k := ctxOf s t c
  let T := tarnOf (s.tile t) w.tarn
  ∃ m cell xs sc sampled op, matrixOf s (ctxPart k) k.slot T.layer T.matrix = some m ∧
    T' = mvmBegun T (ctxPart k) (mvmFor k c T m w la int8 cell bad xs sc sampled op)

theorem Begun.serving {la : Nat} {int8 bad : Bool} {w : TarnUse} {T' : Tarn} (h : Begun u t c la int8 bad w T') (hu : Serving t c s u)
    (hT : tarnOf (u.tile t) w.tarn = tarnOf (s.tile t) w.tarn) : Begun s t c la int8 bad w T' := by
  obtain ⟨m, cell, xs, sc, sampled, op, hm, hT'⟩ := h
  rw [hu.part_eq, hu.slot_eq, hT, hu.matrixOf_eq] at hm
  have hmvm : mvmFor (ctxOf u t c) c (tarnOf (s.tile t) w.tarn) m w la int8 cell bad xs sc sampled op =
      mvmFor (ctxOf s t c) c (tarnOf (s.tile t) w.tarn) m w la int8 cell bad xs sc sampled op :=
    (congrArg (mvmFor · c _ m w la int8 cell bad xs sc sampled op) hu.ctx : mvmFor (unplaced _) .. = mvmFor (unplaced _) ..)
  exact ⟨m, cell, xs, sc, sampled, op, hm, by rw [hT', hT, hu.part_eq, hmvm]⟩

section
variable {la op : Nat} {int8 bad : Bool} {xs : List Int} {sc : List Nat} {w : TarnUse} (h : Starts s t c w)
include h

theorem startUse_begins : ∃ m cell sampled,
    let k := ctxOf s t c
    let T := tarnOf (s.tile t) w.tarn
    matrixOf s (ctxPart k) k.slot T.layer T.matrix = some m ∧ startUse s t c la int8 bad xs sc op w =
      mvmBegin s t w.tarn (ctxPart k) (mvmFor k c T m w la int8 cell bad xs sc sampled op) := by
  obtain ⟨hm, x, hx, hex⟩ := h
  obtain ⟨m, hm⟩ := Option.isSome_iff_exists.mp hm
  obtain ⟨y, hy, rfl⟩ := Option.map_eq_some_iff.mp hx
  have hey : exactStep y (tarnOf (s.tile t) w.tarn).layer (tarnOf (s.tile t) w.tarn).matrix = false := hex
  refine ⟨m, cellPlaced s (ctxPart (ctxOf s t c)) (ctxOf s t c).slot (tarnOf (s.tile t) w.tarn).layer,
    (List.range (tarnOf (s.tile t) w.tarn).cols).filter fun j => tileSampled s (ctxPart (ctxOf s t c)) y (tarnOf (s.tile t) w.tarn).layer
      (tarnOf (s.tile t) w.tarn).matrix (((tarnOf (s.tile t) w.tarn).nBase + j) / 32), hm, ?_⟩
  unfold startUse
  simp only [hm, hy, hey]
  rfl

theorem startUse_begun : Begun s t c la int8 bad w (tarnOf ((startUse s t c la int8 bad xs sc op w).tile t) w.tarn) := by
  obtain ⟨m, cell, sampled, hm, hs⟩ := startUse_begins h (la := la) (op := op) (int8 := int8) (bad := bad) (xs := xs) (sc := sc)
  exact ⟨m, cell, xs, sc, sampled, op, hm, by rw [hs, mvmBegin_tarnOf]⟩

theorem startUse_other {j : Nat} (hj : j ≠ w.tarn) : tarnOf ((startUse s t c la int8 bad xs sc op w).tile t) j = tarnOf (s.tile t) j := by
  obtain ⟨m, cell, sampled, -, hs⟩ := startUse_begins h (la := la) (op := op) (int8 := int8) (bad := bad) (xs := xs) (sc := sc)
  rw [hs, mvmBegin_tarnOf_other _ t hj]

theorem Serving.startUse : Serving t c s (startUse s t c la int8 bad xs sc op w) := by
  obtain ⟨m, cell, sampled, -, hs⟩ := startUse_begins h (la := la) (op := op) (int8 := int8) (bad := bad) (xs := xs) (sc := sc)
  rw [hs]
  exact Serving.mvmBegin s t c _ _ _

theorem Starts.next {w' : TarnUse} (h' : Starts s t c w') (hne : w'.tarn ≠ w.tarn) :
    Starts (Machine.startUse s t c la int8 bad xs sc op w) t c w' :=
  h'.serving (Serving.startUse h) (startUse_other h hne)

end

/-- Every Tarn of a set gets its own MVM, and no other Tarn of the tile changes. -/
theorem startUses_begun {la op : Nat} {int8 bad : Bool} {xs : List Int} {sc : List Nat} (us : List TarnUse) :
    ∀ {s : State}, (us.map TarnUse.tarn).Nodup → (∀ w ∈ us, Starts s t c w) →
      let v := us.foldl (fun s w => startUse s t c la int8 bad xs sc op w) s
      (∀ j, j ∉ us.map TarnUse.tarn → tarnOf (v.tile t) j = tarnOf (s.tile t) j) ∧
        ∀ w ∈ us, Begun s t c la int8 bad w (tarnOf (v.tile t) w.tarn) := by
  induction us with
  | nil => exact fun _ _ => ⟨fun _ _ => rfl, fun _ hw => nomatch hw⟩
  | cons w us ih =>
    intro s hd h
    rw [List.map_cons, List.nodup_cons] at hd
    obtain ⟨hnew, hd⟩ := hd
    have hw : Starts s t c w := h w List.mem_cons_self
    have hne : ∀ w' ∈ us, w'.tarn ≠ w.tarn := fun w' hw' he => hnew (he ▸ List.mem_map_of_mem hw')
    obtain ⟨hother, hbegun⟩ := ih (s := startUse s t c la int8 bad xs sc op w) hd fun w' hw' =>
      hw.next (h w' (List.mem_cons_of_mem w hw')) (hne w' hw')
    refine ⟨fun j hj => ?_, fun w' hw' => ?_⟩
    · rw [List.map_cons, List.mem_cons, not_or] at hj
      exact (hother j hj.2).trans (startUse_other hw hj.1)
    · rcases List.mem_cons.mp hw' with rfl | hw'
      · rw [List.foldl_cons, hother _ hnew]
        exact startUse_begun hw
      · exact (hbegun w' hw').serving (Serving.startUse hw) (startUse_other hw (hne w' hw'))

/-! ### The command (R72, R100, R103, R112) -/

/-- The Tarn of a use is ready for its step under the pass `x`: idle, with no row write pending, in normal mode, with no more outliers in the
input slot than it may have (R112), and with the array rails in their windows (R100). -/
structure UseReady (s : State) (t c slot : Nat) (x : Pass) (w : TarnUse) : Prop where
  idle : mvmBusy (tarnOf (s.tile t) w.tarn) = false
  written : (tarnOf (s.tile t) w.tarn).rewrite = []
  matrix : (matrixOf s (ctxPart (ctxOf s t c)) (ctxOf s t c).slot (tarnOf (s.tile t) w.tarn).layer
    (tarnOf (s.tile t) w.tarn).matrix).isSome = true
  normal : inFallback x (tarnOf (s.tile t) w.tarn).layer (tarnOf (s.tile t) w.tarn).matrix = false
  outliers : (tget [] (ctxOf s t c).outl slot).length ≤
    4 * ((layerOf s (ctxPart (ctxOf s t c)) (ctxOf s t c).slot (tarnOf (s.tile t) w.tarn).layer).map Layer.ca).getD 0
  rails : x.begun.contains (tarnOf (s.tile t) w.tarn).layer = true ∨ supplyOut s (ctxPart (ctxOf s t c)) (ctxOf s t c).slot
    (tarnOf (s.tile t) w.tarn).layer (((tarnOf (s.tile t) w.tarn).holder.map fun h => h.2.2).getD 0) = false

section
variable {slot : Nat} {x : Pass} {w : TarnUse} (h : UseReady s t c slot x w) (hx : x.ref = false)
include h hx

theorem UseReady.exactStep : exactStep x (tarnOf (s.tile t) w.tarn).layer (tarnOf (s.tile t) w.tarn).matrix = false := by
  simp only [Machine.exactStep, hx, h.normal, Bool.or_self]

theorem UseReady.fallbackCause : fallbackCause s (ctxPart (ctxOf s t c)) (ctxOf s t c) x slot (tarnOf (s.tile t) w.tarn) = none := by
  have hout := Nat.not_lt.mpr h.outliers
  have hrails : ¬(!x.begun.contains (tarnOf (s.tile t) w.tarn).layer && supplyOut s (ctxPart (ctxOf s t c)) (ctxOf s t c).slot
      (tarnOf (s.tile t) w.tarn).layer (((tarnOf (s.tile t) w.tarn).holder.map fun h => h.2.2).getD 0)) = true := by
    rcases h.rails with hr | hr
    · simp only [hr, Bool.not_true, Bool.false_and, Bool.false_eq_true, not_false_eq_true]
    · simp only [hr, Bool.and_false, Bool.false_eq_true, not_false_eq_true]
  simp only [Machine.fallbackCause, h.exactStep hx, if_neg hout, if_neg hrails, Bool.false_eq_true, if_false]

variable {id : Nat} (hk : (ctxOf s t c).pass = some id) (hp : findPass s (ctxPart (ctxOf s t c)) id = some x)
include hk hp

theorem UseReady.needsTarn : needsTarn s t (ctxOf s t c) slot w = true := by
  simp only [Machine.needsTarn, hk, Option.bind_some, hp, h.exactStep hx, h.fallbackCause hx]
  rfl

/-- Nothing sends the step to fallback. -/
theorem UseReady.decideUse : decideUse s t (ctxOf s t c) slot w = s := by
  simp only [Machine.decideUse, hk, Option.bind_some, hp, h.fallbackCause hx]

theorem UseReady.starts : Starts s t c w :=
  ⟨h.matrix, unworked x, by rw [hk, Option.bind_some, hp]; rfl, h.exactStep hx⟩

end

/-- A Tarn stays ready while the input is read: the poison that the pass consumes is no matter of its step. -/
theorem UseReady.consumed {slot : Nat} {x y : Pass} {w : TarnUse} (h : UseReady s t c slot x w) (bad : Bool) (hy : unworked y = unworked x) :
    UseReady (consumed s t c bad) t c slot y w := by
  have hu := Steady.consumed s t c bad
  have hdie : ∀ d, (Machine.consumed s t c bad).die d = s.die d := fun d => by cases bad <;> simp [Machine.consumed]
  have hfell : y.fellBack = x.fellBack := (congrArg Pass.fellBack hy : (unworked y).fellBack = (unworked x).fellBack)
  have hbegun : y.begun = x.begun := (congrArg Pass.begun hy : (unworked y).begun = (unworked x).begun)
  obtain ⟨idle, written, matrix, normal, outliers, rails⟩ := h
  constructor <;> simp only [consumed_tile, consumed_ctxOf, hu.matrixOf_eq, hu.layerOf_eq, inFallback, supplyOut, hu.slot, hdie, hfell, hbegun]
  · exact idle
  · exact written
  · exact matrix
  · exact normal
  · exact outliers
  · exact rails

/-- The state in which the MVMs of a set start: the input is read, they are issued, and their words are open. -/
def mvmOpened (s : State) (t c la : Nat) (add bad : Bool) (us : List TarnUse) : State :=
  us.foldl (fun s w => openUse s t c la add w) (mvmIssued (consumed s t c bad) t c (useWords (s.tile t) us la) (us.map TarnUse.tarn))

theorem mvmOpened_serving (s : State) (t c la : Nat) (add bad : Bool) (us : List TarnUse) :
    Serving t c s (mvmOpened s t c la add bad us) ∧ ((mvmOpened s t c la add bad us).tile t).tarns = (s.tile t).tarns := by
  obtain ⟨hs, ht⟩ := openUses_serving t c la add us (mvmIssued (consumed s t c bad) t c (useWords (s.tile t) us la) (us.map TarnUse.tarn))
  refine ⟨.after hs (.after (.modTile _ t c rfl) (.consumed s t c bad)), ht.trans ?_⟩
  rw [mvmIssued, State.modTile_tile_self, consumed_tile]

/-- The longest input of a set's matrices. -/
def longestInput (s : State) (t c : Nat) (us : List TarnUse) : Nat :=
  (us.map fun w => ((matrixOf s (ctxPart (ctxOf s t c)) (ctxOf s t c).slot (tarnOf (s.tile t) w.tarn).layer
    (tarnOf (s.tile t) w.tarn).matrix).map Matrix.k).getD 0).foldl Nat.max 0

section
variable {slot set la e : Nat} {add int8 bad : Bool} {us : List TarnUse} {x : Pass} {bs : List Byte}
variable (ht : t < 1280) (hc : c < 15)
  (hi : issues s t c { op := 0x21, e1 := e, a := slot, b := set, c := la, d := 2 ^ 24 * b2n add + 2 ^ 25 * b2n int8 }
    (slotRes (ctxOf s t c) slot :: (if add then [] else useWords (s.tile t) us la)) = true)
  (hshort : (s.tile t).short = false) (hus : (((ctxOf s t c).sched.map Sched.tarnSets).getD []).getD set [] = us)
  (hready : ∀ w ∈ us, UseReady s t c slot x w) (hk : (ctxOf s t c).pass = some x.id)
  (hp : findPass s (ctxPart (ctxOf s t c)) x.id = some x) (hx : x.ref = false)
  (hs : SlotHolds s t c slot (Nat.min (slotRows s t c slot) ((vecLen (if int8 then 4 else 5) (longestInput s t c us) + 63) / 64)) e bs bad)
include ht hc hi hshort hus hready hk hp hx hs

/-- TARN_MVM whose Tarns are all ready starts an MVM on each. -/
theorem exec_tarnMvm : exec (.tarnMvm t c slot set la add int8 e) s =
    .next (goTo (us.foldl (fun q w => startUse q t c la int8 bad (inputInts int8 (longestInput s t c us) bs).1
      (inputInts int8 (longestInput s t c us) bs).2 (s.tile t).issued w) (mvmOpened s t c la add bad us)) t c ((ctxOf s t c).pc + 1)) := by
  have hneeds : us.filter (needsTarn s t (ctxOf s t c) slot) = us :=
    List.filter_eq_self.mpr fun w hw => (hready w hw).needsTarn hx hk hp
  have hbusy : (us.any fun w => mvmBusy (tarnOf (s.tile t) w.tarn) || !(tarnOf (s.tile t) w.tarn).rewrite.isEmpty) = false := by
    simp only [List.any_eq_false]
    exact fun w hw => by simp [(hready w hw).idle, (hready w hw).written]
  have hdecide : us.foldl (fun q w => decideUse q t (ctxOf s t c) slot w) (consumed s t c bad) = consumed s t c bad := by
    obtain ⟨y, hy, hyx⟩ := Option.map_eq_some_iff.mp
      ((consumed_reads s t c bad (ctxPart (ctxOf s t c)) x.id (g := unworked) fun _ _ => rfl).trans (congrArg (Option.map unworked) hp))
    have hyref : y.ref = false := ((congrArg Pass.ref hyx : (unworked y).ref = (unworked x).ref)).trans hx
    refine List.foldlRecOn us _ (motive := fun q => q = consumed s t c bad) rfl fun q hq w hw => ?_
    have hw := (hready w hw).consumed bad hyx
    rw [hq]
    rw [← consumed_ctxOf s t c bad] at hk hy ⊢
    exact hw.decideUse hyref hk hy
  have hserved : ¬((us.any fun w => mvmBusy (tarnOf (s.tile t) w.tarn) || !(tarnOf (s.tile t) w.tarn).rewrite.isEmpty) ||
      ((s.tile t).short && !us.isEmpty)) = true := by simp [hbusy, hshort]
  refine (guarded_ok (okSite ht hc) _).trans (congrArg Host.Outcome.next ?_)
  simp only [hus, hneeds]
  rw [if_neg hserved, issue_runs hi]
  have hread := slotRead_holds hs
  unfold longestInput at hread
  simp only [execTarnMvm.rowsOf, hread, hdecide, consumed_tile]
  rfl

/-- TARN_MVM starts an MVM on every Tarn of its set, with its K-chunk of the input, and the context goes on (R72, R103, R116). -/
theorem tarnMvm_starts (hd : (us.map TarnUse.tarn).Nodup) : ∃ v,
    exec (.tarnMvm t c slot set la add int8 e) s = .next (goTo v t c ((ctxOf s t c).pc + 1)) ∧
      ∀ w ∈ us, Begun s t c la int8 bad w (tarnOf (v.tile t) w.tarn) := by
  obtain ⟨hserving, htarns⟩ := mvmOpened_serving s t c la add bad us
  have htarn : ∀ n, tarnOf ((mvmOpened s t c la add bad us).tile t) n = tarnOf (s.tile t) n := fun n => by rw [tarnOf, htarns]; rfl
  refine ⟨_, exec_tarnMvm ht hc hi hshort hus hready hk hp hx hs, fun w hw => ?_⟩
  obtain ⟨-, hbegun⟩ := startUses_begun us hd fun w hw => ((hready w hw).starts hx hk hp).serving hserving (htarn w.tarn)
  exact (hbegun w hw).serving hserving (htarn w.tarn)

end

end Sys2Proof.Machine
end

section
/-! SUPPORT. What entering contributions and a fallback leave of the tiles (O17): a projection that does not see words, contexts and rows. -/

namespace Sys2Proof.Machine

variable {α β : Type} {π : Tile → α} {s u v : State}

/-- Every tile reads in `u` as in `s` through `π`. -/
def SameTiles (π : Tile → α) (s u : State) : Prop := ∀ j, π (u.tile j) = π (s.tile j)

theorem SameTiles.refl (s : State) : SameTiles π s s := fun _ => rfl

theorem SameTiles.trans (h : SameTiles π s u) (k : SameTiles π u v) : SameTiles π s v := fun j => (k j).trans (h j)

/-- The same, with the later operation first: it determines the state between. -/
theorem SameTiles.after (k : SameTiles π u v) (h : SameTiles π s u) : SameTiles π s v := h.trans k

theorem SameTiles.coarsen {ρ : Tile → β} (h : SameTiles π s u) (f : α → β) (hf : ∀ x, ρ x = f (π x)) : SameTiles ρ s u :=
  fun j => by rw [hf, hf, h j]

theorem SameTiles.of_tiles (h : u.tiles = s.tiles) : SameTiles π s u := fun j => by rw [State.tile, h]; rfl

theorem SameTiles.modTile (s : State) (t : Nat) {f : Tile → Tile} (hf : ∀ x, π (f x) = π x) : SameTiles π s (s.modTile t f) := by
  intro j
  by_cases h : j = t
  · rw [h, State.modTile_tile_self, hf]
  · rw [State.modTile_tile_other s h]

theorem SameTiles.ite {c : Prop} [Decidable c] (hu : SameTiles π s u) (hv : SameTiles π s v) : SameTiles π s (if c then u else v) := by
  split
  · exact hu
  · exact hv

theorem SameTiles.foldl {κ : Type} {f : State → κ → State} (hf : ∀ q x, SameTiles π q (f q x)) (l : List κ) :
    ∀ s, SameTiles π s (l.foldl f s) := by
  induction l with
  | nil => exact SameTiles.refl
  | cons x l ih => exact fun s => (hf s x).trans (ih _)

/-- A tile apart from its words, contexts and rows, and its count of ACC_RANGE. -/
def sansWords (x : Tile) : Tile := { x with basin := [], cells := [], ctxs := [], rows := [], accRangeCnt := 0 }

/-- Only words, contexts, rows and counts of ACC_RANGE of tiles differ. -/
abbrev WordsOnly : State → State → Prop := SameTiles sansWords

theorem poisonPass_wordsOnly (s : State) (p : Nat) (i : Option Nat) (reason : Nat) : WordsOnly s (poisonPass s p i reason) :=
  fun j => by rw [poisonPass_tile]

theorem putWord_wordsOnly (s : State) (t : Nat) (cell : Bool) (w : Nat) (a : LaWord) : WordsOnly s (s.modTile t fun x => putWord x cell w a) :=
  SameTiles.modTile s t fun _ => by cases cell <;> rfl

theorem putCtxWord_wordsOnly (s : State) (t c : Nat) (cell : Bool) (w : Nat) (a : LaWord) : WordsOnly s (putCtxWord s t c cell w a) := by
  unfold putCtxWord
  refine SameTiles.ite (.after (SameTiles.modTile _ t fun x => ?_) (SameTiles.modTile s t fun _ => rfl)) (putWord_wordsOnly s t cell w a)
  unfold putSaved
  split <;> rfl

theorem accRange_wordsOnly (s : State) (t c p : Nat) (pass : Option Nat) (layer w : Nat) : WordsOnly s (accRange s t c p pass layer w) :=
  .after (poisonPass_wordsOnly _ p pass _) (.after (fun j => congrArg sansWords (report_tile _ _ _ _ _ _ j))
    (SameTiles.modTile s t fun _ => rfl))

theorem enterWord_wordsOnly (s : State) (t c p : Nat) (pass : Option Nat) (cell : Bool) (layer w : Nat) (a : LaWord) :
    WordsOnly s (enterWord s t c p pass cell layer w a) := by
  have h := putCtxWord_wordsOnly s t c cell w { (laEnter (ctxWord s t c cell w) a).1 with
    err := (laEnter (ctxWord s t c cell w) a).1.err + a.err }
  exact SameTiles.ite (h.trans (accRange_wordsOnly _ t c p pass layer w)) h

theorem enterGroup_wordsOnly (s : State) (t : Nat) (y : Mvm) (j : Nat) (bad : Bool) (w : LaWord) : WordsOnly s (enterGroup s t y j bad w) :=
  .after (enterWord_wordsOnly _ _ _ _ _ _ _ _ _) (SameTiles.ite (poisonPass_wordsOnly s _ _ _) (SameTiles.refl s))

theorem enterIdeal_wordsOnly (s : State) (t kChunk : Nat) (y : Mvm) (m : Matrix) (gs : List Nat) (fb : Bool) :
    WordsOnly s (enterIdeal s t kChunk y m gs fb) :=
  SameTiles.foldl (fun q _ => SameTiles.foldl (fun q _ => enterGroup_wordsOnly q _ _ _ _ _) gs q) _ s

theorem enterQuad_wordsOnly (s : State) (t : Nat) (T : Tarn) (y : Mvm) (m : Matrix) (q : Nat) : WordsOnly s (enterQuad s t T y m q) :=
  SameTiles.foldl (fun q' _ => SameTiles.foldl (fun q' _ => enterGroup_wordsOnly q' _ _ _ _ _) _ q') _ s

/-! ### Rounds counted (R71) -/

/-- No tile counts a round. -/
abbrev SameRounds : State → State → Prop := SameTiles Tile.rounds

theorem sameRounds_of_wordsOnly (h : WordsOnly s u) : SameRounds s u := h.coarsen Tile.rounds fun _ => rfl

theorem modTarn_sameRounds (s : State) (t n : Nat) (f : Tarn → Tarn) : SameRounds s (modTarn s t n f) := SameTiles.modTile s t fun _ => rfl

theorem finishExact_sameRounds (s : State) (t p pass l m : Nat) (mx : Matrix) (n : Nat) : SameRounds s (finishExact s t p pass l m mx n) := by
  unfold finishExact
  dsimp only
  split
  · exact SameTiles.refl s
  · exact SameTiles.ite (.after (modTarn_sameRounds _ t n _) (sameRounds_of_wordsOnly (enterIdeal_wordsOnly s t _ _ _ _ _))) (SameTiles.refl s)

theorem stepToFallback_sameRounds (s : State) (p pass l m : Nat) : SameRounds s (stepToFallback s p pass l m) := by
  unfold stepToFallback
  dsimp only
  split
  · exact SameTiles.refl s
  split
  · exact SameTiles.refl s
  refine .after (SameTiles.foldl (fun q i => ?_) _ _) (.after (SameTiles.of_tiles rfl) (SameTiles.foldl (fun q k => ?_) _ s))
  · exact SameTiles.foldl (fun q j => finishExact_sameRounds q _ _ _ _ _ _ _) _ q
  · refine .after (SameTiles.foldl (fun q w => ?_) _ _) (SameTiles.foldl (fun q w => ?_) _ q)
    · exact SameTiles.modTile q _ fun _ => rfl
    · exact sameRounds_of_wordsOnly (putCtxWord_wordsOnly q _ _ _ _ _)

theorem markFallback_sameRounds (s : State) (p pass l m cause : Nat) : SameRounds s (markFallback s p pass l m cause) :=
  SameTiles.of_tiles ((markFallback_keeps (F := { mcEv := true, dies := true, parts := true }) (Keeps.refl _ s) p pass l m cause rfl rfl
    rfl).outside.tiles rfl)

end Sys2Proof.Machine
end

section
/-! SUPPORT. TARN_ROUND_DONE (O17): what a round whose codes its Tarn can give makes of the MVM and of the tile's counters. -/

namespace Sys2Proof.Machine

variable {s : State} {t tarn q : Nat} {codes : List (Nat × Nat)} {v : Mvm}

/-! ### The results of a round (R76, R79, R121) -/

theorem roundResults_sameRounds (s : State) (t tarn : Nat) (v : Mvm) (m : Matrix) (q : Nat) (cs : List Conv) (flags : Nat) :
    SameRounds s (roundResults s t tarn v m q cs flags) := by
  unfold roundResults
  extract_lets v1 s1 s2 s3
  have h1 : SameRounds s s1 := .after (SameTiles.of_tiles (s := s.modTile t fun x => addFlags x v flags) rfl)
    (SameTiles.modTile s t fun _ => rfl)
  have h2 : SameRounds s s2 := .after (modTarn_sameRounds s1 t tarn _) h1
  have h3 : SameRounds s s3 := .after (SameTiles.modTile s2 t fun _ => rfl) h2
  refine SameTiles.ite (.after (stepToFallback_sameRounds _ _ _ _ _) (.after (markFallback_sameRounds s3 _ _ _ _ _) h3)) (SameTiles.ite ?_ h2)
  exact h2.trans (sameRounds_of_wordsOnly (enterQuad_wordsOnly s2 t _ _ _ _))

/-- An MVM with the counts of a round in its group sums, weighted by slice and plane (R76). -/
def withSums (v : Mvm) (cs : List Conv) : Mvm :=
  { v with usum := cs.foldl (fun us cv => tmod 0 us (grpKey cv.j cv.g)
    (· + planeWeight v.planes v.plane * ((2 ^ cv.b * cv.count : Nat) : Int))) v.usum }

theorem flagCount_addFlags (x : Tile) (v : Mvm) (n : Nat) : flagCount (addFlags x v n) v = flagCount x v + n := by
  simp [flagCount, addFlags]

/-- Up to 256 flagged groups the step goes on (R121). -/
theorem roundResults_mvm (m : Matrix) (cs : List Conv) {flags : Nat} (h : flagCount (s.tile t) v + flags ≤ 256) :
    (tarnOf ((roundResults s t tarn v m q cs flags).tile t) tarn).mvm = some (withSums v cs) := by
  unfold roundResults
  extract_lets v1 s1 s2 s3
  have hcount : flagCount (s2.tile t) v = flagCount (s.tile t) v + flags := by
    rw [modTarn_tile, ← flagCount_addFlags, ← State.modTile_tile_self s t fun x => addFlags x v flags]
    rfl
  have hmvm : (tarnOf (s2.tile t) tarn).mvm = some v1 := by rw [modTarn_tarnOf]
  rw [if_neg (by omega)]
  split
  · have htarns : ((enterQuad s2 t (tarnOf (s2.tile t) tarn) v1 m q).tile t).tarns = (s2.tile t).tarns :=
      (congrArg Tile.tarns (enterQuad_wordsOnly s2 t _ v1 m q t) : (sansWords _).tarns = (sansWords _).tarns)
    rw [tarnOf, htarns]
    exact hmvm
  · exact hmvm

/-! ### The codes of a round (R81, R83, R93) -/

/-- An MVM with the groups that a round flags. -/
def withFlags (v : Mvm) (cs : List Conv) : Mvm := { v with flagged := v.flagged ++ (newFlags v cs).map Prod.fst }

/-- The codes of a round have entered the statistics, and its flags the counters (R83, R93). -/
def roundNoted (s : State) (t tarn : Nat) (v : Mvm) (cs : List Conv) : State :=
  (modTarn s t tarn fun T => { roundStats (s.tile t).windowLog2 (s.tile t).freeze T cs with mvm := some (withFlags v cs) }).modTile t fun x =>
    { x with
      satCnt := satAdd x.satCnt ((newFlags v cs).filter Prod.snd).length
      excessCnt := satAdd x.excessCnt ((newFlags v cs).filter fun n => !n.2).length }

/-- The results enter where the step stands and has not gone to fallback; the codes are noted all the same. -/
theorem roundCodes_eq (s : State) (t tarn : Nat) (v : Mvm) (m : Matrix) (q : Nat) (codes : List (Nat × Nat)) :
    let cs := roundConvs (tarnOf (s.tile t) tarn) v q codes
    roundCodes s t tarn v m q codes = if v.dead || !genCurrent s v.part v.pass v.layer v.gen then roundNoted s t tarn v cs
      else roundResults (roundNoted s t tarn v cs) t tarn (withFlags v cs) m q cs (newFlags v cs).length := rfl

theorem roundNoted_sameRounds (s : State) (t tarn : Nat) (v : Mvm) (cs : List Conv) : SameRounds s (roundNoted s t tarn v cs) :=
  .after (SameTiles.modTile _ t fun _ => rfl) (modTarn_sameRounds s t tarn _)

theorem roundCodes_sameRounds (s : State) (t tarn : Nat) (v : Mvm) (m : Matrix) (q : Nat) (codes : List (Nat × Nat)) :
    SameRounds s (roundCodes s t tarn v m q codes) := by
  have h := roundNoted_sameRounds s t tarn v (roundConvs (tarnOf (s.tile t) tarn) v q codes)
  rw [roundCodes_eq]
  exact SameTiles.ite h (h.trans (roundResults_sameRounds _ t tarn _ m q _ _))

theorem roundNoted_tile (s : State) (t tarn : Nat) (v : Mvm) (cs : List Conv) : ∃ ts, (roundNoted s t tarn v cs).tile t = { s.tile t with
    tarns := ts, satCnt := satAdd (s.tile t).satCnt ((newFlags v cs).filter Prod.snd).length
    excessCnt := satAdd (s.tile t).excessCnt ((newFlags v cs).filter fun n => !n.2).length } := by
  rw [roundNoted, State.modTile_tile_self, modTarn_tile]
  exact ⟨_, rfl⟩

theorem roundCodes_mvm (m : Matrix) (hcurrent : genCurrent s v.part v.pass v.layer v.gen = true) (hlive : v.dead = false)
    (hflags : newFlags v (roundConvs (tarnOf (s.tile t) tarn) v q codes) = []) (hcount : flagCount (s.tile t) v ≤ 256) :
    (tarnOf ((roundCodes s t tarn v m q codes).tile t) tarn).mvm = some (withSums v (roundConvs (tarnOf (s.tile t) tarn) v q codes)) := by
  have hv : withFlags v (roundConvs (tarnOf (s.tile t) tarn) v q codes) = v := by simp [withFlags, hflags]
  have hstands : (v.dead || !genCurrent s v.part v.pass v.layer v.gen) = false := by rw [hlive, hcurrent]; rfl
  rw [roundCodes_eq, hstands, if_neg Bool.false_ne_true, hv, hflags]
  refine roundResults_mvm m _ ?_
  obtain ⟨ts, h⟩ := roundNoted_tile s t tarn v (roundConvs (tarnOf (s.tile t) tarn) v q codes)
  rw [h]
  exact hcount

/-- Where the step has been superseded or has gone to fallback, its flags are counted and its results enter nothing (R83, R121, R128). -/
theorem roundCodes_superseded (m : Matrix) (h : v.dead = true ∨ genCurrent s v.part v.pass v.layer v.gen = false) :
    roundCodes s t tarn v m q codes = roundNoted s t tarn v (roundConvs (tarnOf (s.tile t) tarn) v q codes) := by
  rw [roundCodes_eq, if_pos]
  rcases h with h | h <;> simp [h]

/-! ### The command -/

/-- The state in which a round that ends is counted. -/
def roundCounted (s : State) (t : Nat) : State := s.modTile t fun x => { x with rounds := wrapAdd x.rounds 1 }

/-- What a round leaves before the next one is due. -/
def roundTaken (s : State) (t tarn : Nat) (v : Mvm) (q : Nat) (codes : List (Nat × Nat)) : State :=
  match matrixOf (roundCounted s t) v.part v.slot v.layer v.matrix with
  | some m => if v.discard then roundCounted s t else roundCodes (roundCounted s t) t tarn v m q codes
  | none => roundCounted s t

/-- What TARN_ROUND_DONE answers. -/
def roundDone (s : State) (t tarn : Nat) (v : Mvm) (q : Nat) (codes : List (Nat × Nat)) : State :=
  modTarn (roundTaken s t tarn v q codes) t tarn fun T => { T with mvm := T.mvm.map nextRound }

theorem exec_tarnRoundDone {rest : List Nat} (ht : t < 1280) (hn : tarn < 400) (hcodes : ∀ e ∈ codes, e.1 < 1024 ∧ e.2 < 64)
    (hv : (tarnOf (s.tile t) tarn).mvm = some v) (hq : v.quads = q :: rest) :
    exec (.tarnRoundDone t tarn codes) s = .next (roundDone s t tarn v q codes) := by
  have hok : instrWellFormed (.tarnRoundDone t tarn codes) = true := by
    simpa [instrWellFormed, okTile, okTarn, ht, hn] using fun a b h => hcodes (a, b) h
  refine (guarded_ok hok _).trans (congrArg Host.Outcome.next ?_)
  simp only [hv, hq]
  rfl

/-- A round that completes is counted, whatever becomes of its results (R71). -/
theorem roundDone_rounds (s : State) (t tarn : Nat) (v : Mvm) (q : Nat) (codes : List (Nat × Nat)) :
    ((roundDone s t tarn v q codes).tile t).rounds = wrapAdd (s.tile t).rounds 1 := by
  have htaken : SameRounds (roundCounted s t) (roundTaken s t tarn v q codes) := by
    unfold roundTaken
    split
    · exact SameTiles.ite (SameTiles.refl _) (roundCodes_sameRounds _ _ _ _ _ _ _)
    · exact SameTiles.refl _
  refine (htaken.trans (modTarn_sameRounds _ t tarn _) t).trans ?_
  rw [roundCounted, State.modTile_tile_self]

theorem roundCounted_tile (s : State) (t : Nat) : (roundCounted s t).tile t = { s.tile t with rounds := wrapAdd (s.tile t).rounds 1 } := by
  rw [roundCounted, State.modTile_tile_self]

theorem roundCounted_tarnOf (s : State) (t n : Nat) : tarnOf ((roundCounted s t).tile t) n = tarnOf (s.tile t) n := by
  rw [roundCounted_tile]; rfl

theorem roundDone_mvm {w : Mvm} (h : (tarnOf ((roundTaken s t tarn v q codes).tile t) tarn).mvm = some w) :
    (tarnOf ((roundDone s t tarn v q codes).tile t) tarn).mvm = some (nextRound w) := by
  rw [roundDone, modTarn_tarnOf]
  exact congrArg (Option.map nextRound) h

section
variable {m : Matrix} (hm : matrixOf s v.part v.slot v.layer v.matrix = some m)
include hm

theorem roundTaken_codes (hkeep : v.discard = false) :
    roundTaken s t tarn v q codes = roundCodes (roundCounted s t) t tarn v m q codes := by
  have hm' : matrixOf (roundCounted s t) v.part v.slot v.layer v.matrix = some m := hm
  simp only [roundTaken, hm', hkeep, Bool.false_eq_true, if_false]

/-- A round whose step stands, and that flags nothing, enters its counts into the group sums, and the next round is due (R71, R76, R79). -/
theorem roundDone_enters (hlive : v.dead = false) (hkeep : v.discard = false) (hcurrent : genCurrent s v.part v.pass v.layer v.gen = true)
    (hflags : newFlags v (roundConvs (tarnOf (s.tile t) tarn) v q codes) = []) (hcount : flagCount (s.tile t) v ≤ 256) :
    (tarnOf ((roundDone s t tarn v q codes).tile t) tarn).mvm =
      some (nextRound (withSums v (roundConvs (tarnOf (s.tile t) tarn) v q codes))) := by
  refine roundDone_mvm ?_
  rw [roundTaken_codes hm hkeep]
  rw [← roundCounted_tarnOf s t tarn] at hflags ⊢
  exact roundCodes_mvm m hcurrent hlive hflags (by rw [roundCounted_tile]; exact hcount)

/-- A round of a superseded step, or of one that has gone to fallback: its flags are counted, and no word changes (R83, R121, R128). -/
theorem roundDone_superseded (hkeep : v.discard = false) (h : v.dead = true ∨ genCurrent s v.part v.pass v.layer v.gen = false) :
    let x := (roundDone s t tarn v q codes).tile t
    x.basin = (s.tile t).basin ∧ x.cells = (s.tile t).cells ∧
      x.satCnt = satAdd (s.tile t).satCnt ((newFlags v (roundConvs (tarnOf (s.tile t) tarn) v q codes)).filter Prod.snd).length := by
  obtain ⟨ts, htile⟩ := roundNoted_tile (roundCounted s t) t tarn v (roundConvs (tarnOf (s.tile t) tarn) v q codes)
  intro x
  have hx : x = _ := modTarn_tile (roundTaken s t tarn v q codes) t tarn _
  rw [roundTaken_codes hm hkeep, roundCodes_superseded (s := roundCounted s t) m h, roundCounted_tarnOf, htile, roundCounted_tile] at hx
  rw [hx]
  exact ⟨rfl, rfl, rfl⟩

end

/-- After a partition reset the codes of a round are discarded, and the MVM runs on (R71). -/
theorem roundDone_discarded (hv : (tarnOf (s.tile t) tarn).mvm = some v) (hdiscard : v.discard = true) :
    let x := (roundDone s t tarn v q codes).tile t
    x.basin = (s.tile t).basin ∧ x.cells = (s.tile t).cells ∧ (tarnOf x tarn).mvm = some (nextRound v) := by
  have htaken : roundTaken s t tarn v q codes = roundCounted s t := by
    unfold roundTaken
    split
    · exact if_pos hdiscard
    · rfl
  intro x
  have hx : x = _ := modTarn_tile (roundTaken s t tarn v q codes) t tarn _
  rw [htaken, roundCounted_tile] at hx
  refine ⟨by rw [hx], by rw [hx], roundDone_mvm ?_⟩
  rw [htaken, roundCounted_tarnOf, hv]

/-- TARN_ROUND_DONE with codes that conversions of a round can give: the round is counted; where the step stands and nothing is flagged its
counts enter the group sums and the next round is due; where it does not stand no word changes; after a partition reset its codes are
discarded (R69, R71, R76 to R83, R121, R128). -/
theorem tarnRoundDone_advances {rest : List Nat} (ht : t < 1280) (hn : tarn < 400) (hcodes : ∀ e ∈ codes, e.1 < 1024 ∧ e.2 < 64)
    (hv : (tarnOf (s.tile t) tarn).mvm = some v) (hq : v.quads = q :: rest) :
    let cs := roundConvs (tarnOf (s.tile t) tarn) v q codes
    ∃ u, exec (.tarnRoundDone t tarn codes) s = .next u ∧ (u.tile t).rounds = wrapAdd (s.tile t).rounds 1 ∧
      (∀ m, matrixOf s v.part v.slot v.layer v.matrix = some m → genCurrent s v.part v.pass v.layer v.gen = true → v.discard = false →
        v.dead = false → newFlags v cs = [] → flagCount (s.tile t) v ≤ 256 →
        (tarnOf (u.tile t) tarn).mvm = some (nextRound (withSums v cs))) ∧
      (∀ m, matrixOf s v.part v.slot v.layer v.matrix = some m → v.discard = false →
        (v.dead = true ∨ genCurrent s v.part v.pass v.layer v.gen = false) →
        (u.tile t).basin = (s.tile t).basin ∧ (u.tile t).cells = (s.tile t).cells ∧
          (u.tile t).satCnt = satAdd (s.tile t).satCnt ((newFlags v cs).filter Prod.snd).length) ∧
      (v.discard = true → (u.tile t).basin = (s.tile t).basin ∧ (u.tile t).cells = (s.tile t).cells ∧
        (tarnOf (u.tile t) tarn).mvm = some (nextRound v)) :=
  ⟨roundDone s t tarn v q codes, exec_tarnRoundDone ht hn hcodes hv hq, roundDone_rounds s t tarn v q codes,
    fun _ hm hcurrent hkeep hlive hflags hcount => roundDone_enters hm hlive hkeep hcurrent hflags hcount,
    fun _ hm hkeep h => roundDone_superseded hm hkeep h, roundDone_discarded hv⟩

/-! ### The statement -/

/-- Codes of no converter of the Tarn, or outside the code space (R68), make the command ill-formed. -/
theorem exec_tarnRoundDone_illFormed (h : ¬∀ e ∈ codes, e.1 < 1024 ∧ e.2 < 64) (s : State) :
    exec (.tarnRoundDone t tarn codes) s = .fault .illFormed := by
  have hbad : instrWellFormed (.tarnRoundDone t tarn codes) = false := by
    simpa [instrWellFormed] using fun _ _ => h
  exact (congrArg (guarded · _) hbad).trans (guarded_false _)

/-- A tile with an MVM on its Tarn 0 that waits for its first round. -/
def mvmWaits : State := { tiles := [(0, { tarns := [(0, { mvm := some { quads := [0] } })] })] }

/-- Refutes O17: its clause on TARN_ROUND_DONE lets the command bring any codes, and a code under key 1024 (a fifth bank) makes it ill-formed,
so that no round completes. What the statement says of TARN_MVM holds (`tarnMvm_starts`), and of TARN_ROUND_DONE for codes in range
(`tarnRoundDone_advances`). -/
theorem not_mvmRunsInRounds : ¬ Obligations.MvmRunsInRounds := by
  unfold Obligations.MvmRunsInRounds
  rintro ⟨-, hround⟩
  obtain ⟨u, hu, -⟩ := hround mvmWaits 0 0 0 [] [(1024, 0)] { quads := [0] } (by decide) (by decide) rfl rfl
  rw [exec_tarnRoundDone_illFormed (by decide)] at hu
  cases hu

end Sys2Proof.Machine
end

section
/-! SUPPORT. Turns of passes (R265): what contexts that take up work, start over or rest leave of partitions and sequences. -/

namespace Sys2Proof.Machine

variable {s t : State}

/-- A pass apart from its turn. -/
def sansTurn (x : Pass) : Pass := { x with turn := none }

/-- A partition apart from the turns of its passes and recomputations. -/
def sansTurns (q : Part) : Part := { q with passes := q.passes.map sansTurn, recomps := q.recomps.map sansTurn, nextTurn := 0 }

/-- Only turns of passes differ in the partitions, and no sequence differs. -/
abbrev TurnsOnly : State → State → Prop := Fixes sansTurns (id : Entry → Entry)

theorem map_sansTurn_of_turn {f : Pass → Pass} (hf : ∀ x, sansTurn (f x) = sansTurn x) (id : Nat) (l : List Pass) :
    (l.map fun x => if x.id == id then f x else x).map sansTurn = l.map sansTurn := by
  rw [List.map_map]
  refine List.map_congr_left fun x _ => ?_
  simp only [Function.comp_apply]
  split
  · exact hf x
  · rfl

theorem modPass_turnsOnly (p id : Nat) {f : Pass → Pass} (hf : ∀ x, sansTurn (f x) = sansTurn x) : TurnsOnly s (modPass s p id f) :=
  Fixes.modPart p fun q => by simp only [sansTurns, map_sansTurn_of_turn hf]

theorem giveTurn_turnsOnly (p : Nat) (x : Pass) : TurnsOnly s (giveTurn s p x).1 := by
  unfold giveTurn
  split
  · exact Fixes.refl s
  · dsimp only
    exact .after (modPass_turnsOnly _ _ fun _ => rfl) (Fixes.modPart p fun _ => rfl)

theorem modCtx_turnsOnly (k c : Nat) (f : Ctx → Ctx) : TurnsOnly s (modCtx s k c f) := Fixes.of_eq rfl rfl

theorem mirrorCtx_turnsOnly (k c : Nat) : TurnsOnly s (mirrorCtx s k c) := Fixes.ite (Fixes.refl s) (Fixes.of_eq rfl rfl)

theorem nextUp_turnsOnly (k c : Nat) : TurnsOnly s (nextUp s k c) := by
  unfold nextUp
  split
  · exact (mirrorCtx_turnsOnly k c).after ((modCtx_turnsOnly k c _).after (giveTurn_turnsOnly _ _))
  · exact (mirrorCtx_turnsOnly k c).after (modCtx_turnsOnly k c _)

theorem dropWaiting_turnsOnly (k c : Nat) : TurnsOnly s (dropWaiting s k c) :=
  Fixes.of_keeps (F := { dies := true }) (dropWaiting_keeps (Keeps.refl _ s) k c rfl) rfl rfl

theorem restartCtx_turnsOnly (pass layer g k c : Nat) : TurnsOnly s (restartCtx s pass layer g k c) := by
  unfold restartCtx
  dsimp only
  refine Fixes.ite (Fixes.ite ?_ (Fixes.ite ?_ ?_)) (Fixes.ite (Fixes.ite ?_ ?_) (Fixes.refl s))
  · exact (mirrorCtx_turnsOnly k c).after (modCtx_turnsOnly k c _)
  · exact (mirrorCtx_turnsOnly k c).after ((modCtx_turnsOnly k c _).after (dropWaiting_turnsOnly k c))
  · exact (nextUp_turnsOnly k c).after (dropWaiting_turnsOnly k c)
  · exact (nextUp_turnsOnly k c).after (modCtx_turnsOnly k c _)
  · exact modCtx_turnsOnly k c _

theorem assignCtxs_turnsOnly (p k : Nat) : TurnsOnly s (assignCtxs s p k) := by
  refine Fixes.foldl (fun m q => (Fixes.of_eq ?_ ?_).after (nextUp_turnsOnly (s := m) q.1 q.2)) _ s
  · exact State.modTile_parts ..
  · exact State.modTile_entries ..

/-- What is found under a number is the same apart from its turn. -/
theorem Fixes.findPass_sansTurn (h : TurnsOnly s t) (p id : Nat) :
    (findPass t p id).map sansTurn = (findPass s p id).map sansTurn := by
  have hfind (s : State) : (findPass s p id).map sansTurn =
      ((sansTurns (s.part p)).passes ++ (sansTurns (s.part p)).recomps).find? fun x => x.id == id := by
    rw [findPass, allPasses, ← find_map_of_id _ id sansTurn (fun _ => rfl), List.map_append]
    rfl
  rw [hfind, hfind, h.part]

end Sys2Proof.Machine
end

section
/-! SUPPORT. PASS_OPEN (O28): the pass that a sequence opens, alone or as one of a pair, and the sequence that waits for a frame. -/

namespace Sys2Proof.Machine

variable {s t u v : State} {p : Nat}

/-! ### Before the pass (R223, R224) -/

/-- A sequence apart from its stripes, its waits and its items. -/
def sansWork (x : Entry) : Entry := { sansPages x with frameWait := false, queue := [], gone := [], lostRun := false }

/-- Only image slots of partitions, and stripes, waits and items of sequences differ. -/
abbrev WorkOnly : State → State → Prop := Fixes sansSlots sansWork

theorem workOnly_of_kvOnly (h : KvOnly s t) : WorkOnly s t := h.coarsen id sansWork (fun _ => rfl) fun _ => rfl

theorem endFrameWait_workOnly (p k e : Nat) : WorkOnly s (endFrameWait s p k e) :=
  (workOnly_of_kvOnly (modPool_kvOnly _ _ _)).after (Fixes.modEntry e fun _ => rfl)

theorem attachPage_kvOnly (p e page stripe : Nat) : KvOnly s (attachPage s p e page stripe) := setDesc_kvOnly _ _ _ _ _

theorem stripeFor_workOnly {e pos : Nat} (h : stripeFor s p e pos = some t) : WorkOnly s t := by
  have hw : WorkOnly s (if (s.entry e).frameWait then endFrameWait s p (s.entry e).slot e else s) :=
    Fixes.ite (endFrameWait_workOnly _ _ _) (Fixes.refl s)
  unfold stripeFor at h
  dsimp only at h
  split at h
  · cases h; exact hw
  split at h
  · obtain ⟨r, hr, rfl⟩ := Option.map_eq_some_iff.mp h
    exact hw.trans (workOnly_of_kvOnly ((takeStripe_kvOnly hr).trans (attachPage_kvOnly _ _ _ _)))
  · obtain ⟨page, -, rfl⟩ := Option.map_eq_some_iff.mp h
    exact workOnly_of_kvOnly ((trimIndex_kvOnly _ _ _).after ((attachPage_kvOnly _ _ _ _).after
      ((setDesc_kvOnly _ _ _ _ _).after (modPool_kvOnly _ _ _))))

theorem takeToken_workOnly (e item : Nat) (prompt : Bool) : WorkOnly s (takeToken s e item prompt) := by
  unfold takeToken
  extract_lets lost s'
  have h : WorkOnly s s' := Fixes.modEntry e fun _ => rfl
  exact Fixes.ite h (h.trans (Fixes.modEntry e fun _ => rfl))

/-! ### The pass (R123, R263) -/

/-- Entry `e` has opened a pass: `np`, apart from its turn, stands behind the passes that were open. -/
structure Opened (s : State) (p e : Nat) (np : Pass) (u : State) : Prop where
  passes : (u.part p).passes.map sansTurn = (s.part p).passes.map sansTurn ++ [np]
  id : np.id = (s.part p).nextPass
  entry : np.entry = e
  pos : np.pos = (s.entry e).length
  gen : np.gen = 0
  seed : np.seed = if (s.entry e).refMode && !(s.entry e).draft then 0 else lfsrDraw (s.part p).lfsr
  lfsr : (u.part p).lfsr = if (s.entry e).refMode && !(s.entry e).draft then (s.part p).lfsr else lfsrDraw (s.part p).lfsr
  nextPass : (u.part p).nextPass = (s.part p).nextPass + 1
  length : (u.entry e).length = (s.entry e).length + 1

/-- What an opening changes of a partition, turns apart. -/
def queue (q : Part) : List Pass × Word × Nat := (q.passes.map sansTurn, q.lfsr, q.nextPass)

theorem Opened.after {e : Nat} {np : Pass} (h : Opened s p e np u) (k : Fixes queue Entry.length u v) : Opened s p e np v := by
  have hq := k.part p
  simp only [queue, Prod.mk.injEq] at hq
  obtain ⟨hpasses, hlfsr, hnext⟩ := hq
  exact { h with
    passes := hpasses.trans h.passes, lfsr := hlfsr.trans h.lfsr, nextPass := hnext.trans h.nextPass, length := (k.entry e).trans h.length }

theorem queue_of_turnsOnly (h : TurnsOnly s t) : Fixes queue Entry.length s t :=
  h.coarsen (fun q => (q.passes, q.lfsr, q.nextPass)) Entry.length (fun _ => rfl) fun _ => rfl

theorem openPass_opened (s : State) (p e token item : Nat) (prompt verify : Bool) (cls arrival : Nat) (dl : Option Nat) :
    ∃ np, Opened s p e np (openPass s p e token item prompt verify cls arrival dl).1 ∧
      (openPass s p e token item prompt verify cls arrival dl).2 = np.id ∧ np.token = token ∧ np.item = item ∧ np.verify = verify := by
  unfold openPass
  extract_lets x q k ref seed id np s1 s2 reps s3
  have hqueue : queue (s1.part p) = ((q.passes ++ [np]).map sansTurn, seed, id + 1) := by
    unfold s1
    rw [State.modPart_part_self]
    rfl
  simp only [queue, Prod.mk.injEq] at hqueue
  obtain ⟨hpasses, hlfsr, hnext⟩ := hqueue
  have h2 : Opened s p e np s2 := by
    refine ⟨hpasses.trans List.map_append, rfl, rfl, rfl, rfl, ?_, ?_, hnext, ?_⟩
    · cases h : (x.refMode && !x.draft) <;> simp [np, seed, ref, h, q]
    · exact hlfsr
    · unfold s2
      rw [State.modEntry_entry_self]
      rfl
  have hslots : Fixes queue Entry.length s2 s3 := Fixes.modPart p fun _ => rfl
  exact ⟨np, (h2.after hslots).after (queue_of_turnsOnly (assignCtxs_turnsOnly p x.slot)), rfl, rfl, rfl, rfl⟩

/-- What an opening says of the state before the sequence's stripes and items were seen to holds of it after that, and the other way round. -/
theorem Opened.before {e : Nat} {np : Pass} (h : Opened t p e np u) (hw : WorkOnly s t) : Opened s p e np u := by
  have hpasses := hw.readsPart Part.passes (fun _ => rfl) p
  have hnext := hw.readsPart Part.nextPass (fun _ => rfl) p
  have hlfsr := hw.readsPart Part.lfsr (fun _ => rfl) p
  have hlength := hw.reads Entry.length (fun _ => rfl) e
  have href := hw.reads (fun x => x.refMode && !x.draft) (fun _ => rfl) e
  obtain ⟨h1, h2, h3, h4, h5, h6, h7, h8, h9⟩ := h
  simp only [hpasses, hnext, hlfsr, hlength, href] at h1 h2 h4 h6 h7 h8 h9
  exact ⟨h1, h2, h3, h4, h5, h6, h7, h8, h9⟩

theorem map_id_of_sansTurn {l m : List Pass} (h : l.map sansTurn = m.map sansTurn) : l.map Pass.id = m.map Pass.id := by
  have h' := congrArg (List.map Pass.id) h
  rwa [List.map_map, List.map_map] at h'

/-- The list of passes ends with the pass that has opened, which may have its turn. -/
theorem Opened.last {e : Nat} {np : Pass} (h : Opened s p e np u) : ∃ l y, (u.part p).passes = l ++ [y] ∧
    l.map sansTurn = (s.part p).passes.map sansTurn ∧ sansTurn y = np := by
  obtain ⟨l, m, hu, hl, hm⟩ := List.map_eq_append_iff.mp h.passes
  obtain ⟨y, rfl, hy⟩ := List.map_eq_singleton_iff.mp hm
  exact ⟨l, y, hu, hl, hy⟩

/-! ### What opens (R263, R276) -/

theorem doOpen_waits {r : Ready} (h : stripeFor s p r.entry (s.entry r.entry).length = none) :
    doOpen s p r = beginFrameWait s p (s.entry r.entry).slot r.entry := by simp only [doOpen, h]

/-- A main entry without a draft entry opens a pass alone, and begins no verify step. -/
theorem doOpen_single {r : Ready} (hm : (s.entry r.main).partnerValid = false) 
    (h : stripeFor s p r.entry (s.entry r.entry).length = some v) : ∃ i dl, doOpen s p r = openSingle v p r i 0 dl := by
  have hd (i : Item) : stepDepth s p (s.entry r.main) i = 0 := by simp [stepDepth, hm]
  simp only [doOpen, h, hm, hd, ite_self, Bool.false_and, Bool.false_eq_true, if_false]
  exact ⟨_, _, rfl⟩

/-- A pass that opens alone takes its token from the item; no verify step runs. -/
theorem openSingle_plain {r : Ready} (hv : r.verify = false) (he : r.entry = r.main) (s : State) (p : Nat) (i : Item) (dl : Option Nat) :
    openSingle s p r i 0 dl = (openPass (takeToken s r.main r.item r.prompt) p r.entry r.token r.item r.prompt false
      ((takeToken s r.main r.item r.prompt).entry r.main).cls i.arrival dl).1 := by
  simp [openSingle, hv, he]

/-- A prompt token of a main entry with a draft entry opens a pair. -/
theorem doOpen_pair {r : Ready} (hm : (s.entry r.main).partnerValid = true) (hv : r.verify = false) (hprompt : r.prompt = true)
    (h : stripeFor s p r.entry (s.entry r.entry).length = some t)
    (h' : stripeFor t p (s.entry r.main).partner (t.entry (s.entry r.main).partner).length = some v) :
    ∃ i dl, doOpen s p r = openPair v p r i dl := by
  simp only [doOpen, h, h', hm, hv, hprompt, Bool.false_or, if_true, Bool.not_false, Bool.and_self, beq_self_eq_true]
  exact ⟨_, _, rfl⟩

/-- A pass that is one of a pair. -/
def pairedWith (n : Nat) (x : Pass) : Pass := { x with paired := some n }

theorem openPair_opened (s : State) (p : Nat) (r : Ready) (i : Item) (dl : Option Nat) :
    ∃ u v a b, Opened s p r.entry a u ∧ Opened u p (s.entry r.main).partner b v ∧ a.token = r.token ∧ b.token = r.token ∧
      openPair s p r i dl = modPass (modPass v p a.id (pairedWith b.id)) p b.id (pairedWith a.id) := by
  obtain ⟨a, ha, hida, htoka, -⟩ := openPass_opened (takeToken s r.main r.item r.prompt) p r.entry r.token r.item r.prompt false
    (s.entry r.main).cls i.arrival dl
  obtain ⟨b, hb, hidb, htokb, -⟩ := openPass_opened
    (openPass (takeToken s r.main r.item r.prompt) p r.entry r.token r.item r.prompt false (s.entry r.main).cls i.arrival dl).1
    p (s.entry r.main).partner r.token r.item r.prompt false (s.entry r.main).cls i.arrival dl
  refine ⟨_, _, a, b, ha.before (takeToken_workOnly _ _ _), hb, htoka, htokb, ?_⟩
  rw [← hida, ← hidb]
  rfl

theorem modPass_passes (s : State) (p id : Nat) (f : Pass → Pass) :
    ((modPass s p id f).part p).passes = (s.part p).passes.map fun x => if x.id == id then f x else x := by
  rw [modPass, State.modPart_part_self]

/-- The passes of a pair stand behind the passes that were open, and name each other. -/
theorem openPair_passes (s : State) (p : Nat) (r : Ready) (i : Item) (dl : Option Nat) :
    ∃ l a b, ((openPair s p r i dl).part p).passes = l ++ [a, b] ∧ l.map Pass.id = (s.part p).passes.map Pass.id ∧
      a.entry = r.entry ∧ b.entry = (s.entry r.main).partner ∧ a.token = r.token ∧ b.token = r.token ∧ a.paired = some b.id ∧
      b.paired = some a.id ∧
      a.seed = if (s.entry r.entry).refMode && !(s.entry r.entry).draft then 0 else lfsrDraw (s.part p).lfsr := by
  obtain ⟨u, v, a, b, ha, hb, htoka, htokb, he⟩ := openPair_opened s p r i dl
  obtain ⟨m, y, hv, hm, rfl⟩ := hb.last
  rw [ha.passes] at hm
  obtain ⟨l, n, rfl, hl, hn⟩ := List.map_eq_append_iff.mp hm
  obtain ⟨x, rfl, rfl⟩ := List.map_eq_singleton_iff.mp hn
  have hids : y.id = x.id + 1 := hb.id.trans (ha.nextPass.trans (congrArg (· + 1) ha.id.symm))
  have hne : ((pairedWith y.id x).id == y.id) = false := by simp [pairedWith, hids]
  have hne' : (y.id == x.id) = false := by simp [hids]
  refine ⟨(l.map fun z => if z.id == x.id then pairedWith y.id z else z).map fun z => if z.id == y.id then pairedWith x.id z else z,
    pairedWith y.id x, pairedWith x.id y, ?_, ?_, ha.entry, hb.entry, htoka, htokb, rfl, rfl, ha.seed⟩
  · rw [he, modPass_passes, modPass_passes, hv]
    simp only [List.map_append, List.map_cons, List.map_nil, sansTurn, beq_self_eq_true, hne, hne', if_true, Bool.false_eq_true,
      if_false, List.append_assoc, List.cons_append, List.nil_append]
    rfl
  · rw [List.map_map, List.map_map, ← map_id_of_sansTurn hl]
    refine List.map_congr_left fun z _ => ?_
    simp only [Function.comp_apply]
    split <;> split <;> rfl

/-! ### A sequence that waits (R224, R225) -/

@[simp] theorem modSlot_slot_self (s : State) (p k : Nat) (f : ImgSlot → ImgSlot) : (s.modSlot p k f).slot p k = f (s.slot p k) := by
  unfold State.slot State.modSlot
  rw [State.modPart_part_self]
  exact tget_tmod_self _ k f

theorem beginFrameWait_workOnly (p k e : Nat) : WorkOnly s (beginFrameWait s p k e) := by
  unfold beginFrameWait
  extract_lets s1 s2 q
  have h : WorkOnly s s2 := (workOnly_of_kvOnly (modPool_kvOnly _ _ _)).after (Fixes.modEntry e fun _ => rfl)
  exact Fixes.ite (Fixes.refl s) (Fixes.ite (h.trans ((reportLead_fixes _ _ _).after (workOnly_of_kvOnly (modPool_kvOnly _ _ _)))) h)

theorem beginFrameWait_frameWait (s : State) (p k e : Nat) : ((beginFrameWait s p k e).entry e).frameWait = true := by
  unfold beginFrameWait
  split
  · next h => exact h
  extract_lets s1 s2 q
  have h : (s2.entry e).frameWait = true := by
    change (s1.entry e).frameWait = true
    unfold s1
    rw [State.modEntry_entry_self]
  have hr : Fixes (fun _ : Part => ()) id s2 (if freeCount q = 0 ∧ !q.exhaustedReported then
      reportLead (modPool s2 p k fun q => { q with exhaustedReported := true }) p evKvFramesExhausted [(1, p), (1, k), (4, q.waiters.length)]
    else s2) := Fixes.ite ((reportLead_fixes _ _ _).after (Fixes.modPart p fun _ => rfl)) (Fixes.refl s2)
  exact (hr.reads Entry.frameWait (fun _ => rfl) e).trans h

theorem beginFrameWait_queues {e : Nat} (hw : (s.entry e).frameWait = false) (p k : Nat) :
    ((beginFrameWait s p k e).slot p k).pool.waiters = (s.slot p k).pool.waiters ++ [e] ∧
      ((beginFrameWait s p k e).slot p k).pool.allocWait = satAdd (s.slot p k).pool.allocWait 1 := by
  unfold beginFrameWait
  rw [if_neg (by simp [hw])]
  extract_lets s1 s2 q
  have h : (s2.slot p k).pool = { (s.slot p k).pool with
      waiters := (s.slot p k).pool.waiters ++ [e], allocWait := satAdd (s.slot p k).pool.allocWait 1 } :=
    congrArg ImgSlot.pool (modSlot_slot_self s1 p k _)
  split
  · rw [reportLead, reportTile, report_slot, modPool, modSlot_slot_self, h]
    exact ⟨rfl, rfl⟩
  · rw [h]
    exact ⟨rfl, rfl⟩

/-! ### The command (R263, R264) -/

/-- What PASS_OPEN chooses from: the state once late heads have been dropped (R269). -/
def pruned (s : State) (p now : Nat) : State := (partEntries (s.setNow now) p).foldl (fun s e => pruneHead s p e.1) (s.setNow now)

theorem exec_passOpen {r : Ready} (hp : p < 64) (hrun : (s.part p).state = .running)
    (hlimit : (s.part p).passes.length < (s.part p).serv.passLimit) {now : Nat} (hr : chooseOpen (pruned s p now) p = some r) :
    exec (.passOpen p now) s = .next (doOpen (pruned s p now) p r) := by
  refine (guarded_ok (by simpa [instrWellFormed, okPart] using hp) _).trans (congrArg Host.Outcome.next ?_)
  have hrun' : (((s.setNow now).part p).state != .running) = false := by rw [State.setNow_part', hrun]; rfl
  have hlimit' : decide (((s.setNow now).part p).serv.passLimit ≤ ((s.setNow now).part p).passes.length) = false :=
    decide_eq_false (Nat.not_le.mpr hlimit)
  refine (if_neg (Bool.eq_false_iff.mp (Bool.or_eq_false_iff.mpr ⟨hrun', hlimit'⟩))).trans ?_
  unfold pruned at hr ⊢
  dsimp only
  rw [hr]

/-- Settles O28. -/
theorem passesOpenInOrder : Obligations.PassesOpenInOrder := by
  unfold Obligations.PassesOpenInOrder
  refine ⟨fun s p now r hp hrun hlimit => ?_, fun s p now r hp hrun hlimit => ?_⟩
  · intro v m e hr
    refine ⟨fun v1 hm hv he hs => ?_, fun v1 v2 hm hv hprompt he hne href hs hs2 => ?_⟩
    · obtain ⟨i, dl, ho⟩ := doOpen_single hm hs
      obtain ⟨np, hopen, -, htok, hitem, hver⟩ := openPass_opened (takeToken v1 r.main r.item r.prompt) p r.entry r.token r.item r.prompt
        false ((takeToken v1 r.main r.item r.prompt).entry r.main).cls i.arrival dl
      rw [← openSingle_plain hv he, ← ho] at hopen
      have hopen' : Opened v p r.entry np _ := hopen.before ((stripeFor_workOnly hs).trans (takeToken_workOnly _ _ _))
      obtain ⟨l, y, hu, hl, rfl⟩ := hopen'.last
      refine ⟨_, l, y, exec_passOpen hp hrun hlimit hr, hu, map_id_of_sansTurn hl, hopen'.id, hopen'.entry, hopen'.pos, htok, hitem,
        hopen'.gen, hver, hopen'.length, fun h => ?_, fun h => ?_⟩
      · have hseed : y.seed = _ := hopen'.seed
        have hlfsr := hopen'.lfsr
        rw [if_neg (by simp [e] at h; simpa using h)] at hseed hlfsr
        exact ⟨hseed, hlfsr.trans hseed.symm⟩
      · exact ⟨hopen'.seed.trans (if_pos h), hopen'.lfsr.trans (if_pos h)⟩
    · obtain ⟨i, dl, ho⟩ := doOpen_pair hm hv hprompt hs hs2
      have hw : WorkOnly v v2 := (stripeFor_workOnly hs).trans (stripeFor_workOnly hs2)
      obtain ⟨l, a, b, hpasses, hl, hea, heb, hta, htb, hpa, hpb, hseed⟩ := openPair_passes v2 p r i dl
      rw [← ho] at hpasses
      refine ⟨_, l, a, b, exec_passOpen hp hrun hlimit hr, hpasses, ?_, hea.trans he, ?_, hta, htb, hpa, hpb, ?_⟩
      · rw [hl, hw.readsPart Part.passes (fun _ => rfl)]
      · rw [heb, hw.reads Entry.partner (fun _ => rfl)]
      · rw [hseed, he, hw.reads (fun x => x.refMode && !x.draft) (fun _ => rfl), hw.readsPart Part.lfsr (fun _ => rfl)]
        exact if_neg (by simpa [m] using fun h => absurd h (by simpa [m] using href))
  · intro v e hr hs
    refine ⟨_, exec_passOpen hp hrun hlimit hr, ?_⟩
    rw [doOpen_waits (s := pruned s p now) hs]
    exact ⟨(beginFrameWait_workOnly p _ _).readsPart Part.passes (fun _ => rfl) p, beginFrameWait_frameWait _ p _ _,
      fun hw => beginFrameWait_queues hw p _⟩

end Sys2Proof.Machine
end

section
/-! SUPPORT. Replays of passes (R23, R128 to R131, R141): what a restart, the replay of later passes and a fallback make of a pass. -/

namespace Sys2Proof.Machine

variable {s t : State} {p pass layer : Nat} {x : Pass}

/-! ### Passes found under a number -/

theorem findPass_modPass_other {id : Nat} (h : pass ≠ id) (s : State) (p : Nat) {f : Pass → Pass} (hf : ∀ x, (f x).id = x.id) :
    findPass (modPass s p id f) p pass = findPass s p pass := by
  have hmap (l : List Pass) : (l.map fun x => if x.id == id then f x else x).find? (fun x => x.id == pass) = l.find? fun x => x.id == pass := by
    rw [find_map_of_id _ _ _ fun x => by split <;> simp [hf]]
    cases hl : l.find? fun x => x.id == pass with
    | none => rfl
    | some y =>
      have hy : y.id = pass := by simpa using List.find?_some hl
      simp [hy, h]
  unfold findPass modPass allPasses
  rw [State.modPart_part_self, ← List.map_append, hmap]

theorem modPass_found (hx : findPass s p pass = some x) {f : Pass → Pass} (hf : ∀ x, (f x).id = x.id) :
    findPass (modPass s p pass f) p pass = some (f x) := by rw [findPass_modPass p pass f hf, hx]; rfl

/-- A pass that is found, apart from its turn, is found. -/
theorem found_of_sansTurn {y : Pass} (h : (findPass t p pass).map sansTurn = some (sansTurn y)) :
    ∃ z, findPass t p pass = some z ∧ sansTurn z = sansTurn y := Option.map_eq_some_iff.mp h

/-! ### Restarts (R128, R129) -/

/-- A pass under generation `g`, which begins at a layer. -/
def restartedAs (g layer : Nat) (x : Pass) : Pass :=
  { x with
    gen := g, restarts := x.restarts ++ [(g, layer)]
    resolved := x.resolved.filter fun q => decide (q.1 < layer)
    troubles := x.troubles.filter fun q => decide (q.1 < layer) || (q.1 == layer && q.2.1 == x.gen)
    walked := x.walked.filter fun l => decide (l < layer)
    begun := x.begun.filter fun l => decide (l < layer)
    measured := x.measured.filter fun l => decide (l < layer)
    scores := [], top := none }

/-- What a restart at a layer makes of a pass. -/
def restarted (layer : Nat) (x : Pass) : Pass := restartedAs (x.gen + 1) layer x

/-- Once a pass has its next generation, its contexts start over. -/
theorem restartPass_turnsOnly (hx : findPass s p pass = some x) (layer : Nat) :
    TurnsOnly (modPass s p pass (restartedAs (x.gen + 1) layer)) (restartPass s p pass layer) := by
  simp only [restartPass, hx]
  exact Fixes.foldl (fun _ (q : Nat × Nat) => restartCtx_turnsOnly pass layer (x.gen + 1) q.1 q.2) _ _

theorem restartPass_none (hx : findPass s p pass = none) (layer : Nat) : restartPass s p pass layer = s := by
  simp only [restartPass, hx]

theorem restartPass_findPass (hx : findPass s p pass = some x) (layer : Nat) :
    ∃ y, findPass (restartPass s p pass layer) p pass = some y ∧ sansTurn y = sansTurn (restarted layer x) := by
  have hm : findPass (modPass s p pass (restartedAs (x.gen + 1) layer)) p pass = some (restarted layer x) := modPass_found hx fun _ => rfl
  exact found_of_sansTurn (((restartPass_turnsOnly hx layer).findPass_sansTurn p pass).trans (congrArg _ hm))

theorem restartPass_findPass_other {id : Nat} (h : pass ≠ id) (s : State) (p layer : Nat) :
    (findPass (restartPass s p id layer) p pass).map sansTurn = (findPass s p pass).map sansTurn := by
  cases hx : findPass s p id with
  | none => rw [restartPass_none hx]
  | some x =>
    have hm : findPass (modPass s p id (restartedAs (x.gen + 1) layer)) p pass = findPass s p pass := findPass_modPass_other h s p fun _ => rfl
    exact ((restartPass_turnsOnly hx layer).findPass_sansTurn p pass).trans (congrArg _ hm)

/-- The passes in flight of a partition, by number and position. -/
def places (q : Part) : List (Nat × Nat) := q.passes.map fun z => (z.id, z.pos)

/-- Every pass in flight stays where it is. -/
abbrev SamePlaces : State → State → Prop := Fixes places (id : Entry → Entry)

theorem modPass_samePlaces (p id : Nat) {f : Pass → Pass} (hf : ∀ x, ((f x).id, (f x).pos) = (x.id, x.pos)) : SamePlaces s (modPass s p id f) :=
  Fixes.modPart p fun q => by
    simp only [places, List.map_map]
    refine List.map_congr_left fun z _ => ?_
    simp only [Function.comp_apply]
    split
    · exact hf z
    · rfl

theorem samePlaces_of_turnsOnly (h : TurnsOnly s t) : SamePlaces s t :=
  h.coarsen places (id : Entry → Entry) (fun q => by simp only [places, sansTurns, List.map_map]; rfl) fun _ => rfl

theorem restartPass_samePlaces (p pass layer : Nat) : SamePlaces s (restartPass s p pass layer) := by
  cases hx : findPass s p pass with
  | none => rw [restartPass_none hx]; exact Fixes.refl s
  | some x =>
    have hm : SamePlaces s (modPass s p pass (restartedAs (x.gen + 1) layer)) := modPass_samePlaces p pass fun _ => rfl
    exact hm.trans (samePlaces_of_turnsOnly (restartPass_turnsOnly hx layer))

/-! ### Replays of later passes (R23) -/

/-- What further replays leave of a pass: it is no earlier generation, what made it replay and fall back stands, and it has resolved nothing more
and no further trouble. -/
structure Onward (x y : Pass) : Prop where
  gen : x.gen ≤ y.gen
  replayed : y.replayed = x.replayed
  forced : y.forced = x.forced
  fellBack : y.fellBack = x.fellBack
  resolved : y.resolved ⊆ x.resolved
  troubles : y.troubles ⊆ x.troubles

theorem Onward.trans {y z : Pass} (h : Onward x y) (k : Onward y z) : Onward x z where
  gen := h.gen.trans k.gen
  replayed := k.replayed.trans h.replayed
  forced := k.forced.trans h.forced
  fellBack := k.fellBack.trans h.fellBack
  resolved := List.Subset.trans k.resolved h.resolved
  troubles := List.Subset.trans k.troubles h.troubles

/-- What a pass reads apart from its turn. -/
theorem reads_of_sansTurn {γ : Type} {y : Pass} (h : sansTurn y = sansTurn x) (g : Pass → γ) (hg : ∀ x, g (sansTurn x) = g x) : g y = g x := by
  rw [← hg, h, hg]

theorem onward_of_sansTurn {y : Pass} (h : sansTurn y = sansTurn x) : Onward x y where
  gen := (reads_of_sansTurn h Pass.gen fun _ => rfl).ge
  replayed := reads_of_sansTurn h Pass.replayed fun _ => rfl
  forced := reads_of_sansTurn h Pass.forced fun _ => rfl
  fellBack := reads_of_sansTurn h Pass.fellBack fun _ => rfl
  resolved := by rw [reads_of_sansTurn h Pass.resolved fun _ => rfl]; exact List.Subset.refl _
  troubles := by rw [reads_of_sansTurn h Pass.troubles fun _ => rfl]; exact List.Subset.refl _

theorem restarted_onward (layer : Nat) (x : Pass) : Onward x (restarted layer x) where
  gen := Nat.le_succ _
  replayed := rfl
  forced := rfl
  fellBack := rfl
  resolved := fun _ hq => List.mem_of_mem_filter hq
  troubles := fun _ hq => List.mem_of_mem_filter hq

/-- A pass that replays with an earlier one of its sequence from a layer on. -/
def following (l : Nat) (x : Pass) : Pass := { x with later := x.later ++ [l] }

/-- A later pass that has read KV at or after a layer starts over at the first layer where it has. -/
def replayOne (p layer : Nat) (s : State) (z : Pass) : State :=
  match (z.walked.filter fun l => decide (layer ≤ l)).min? with
  | some l => restartPass (modPass s p z.id (following l)) p z.id l
  | none => s

theorem replayLater_eq (s : State) (p entry pos layer : Nat) : replayLater s p entry pos layer =
    ((s.part p).passes.filter fun x => x.entry == entry && decide (pos < x.pos)).foldl (replayOne p layer) s := rfl

theorem replayOne_other {z : Pass} (h : pass ≠ z.id) (s : State) (p layer : Nat) :
    (findPass (replayOne p layer s z) p pass).map sansTurn = (findPass s p pass).map sansTurn := by
  unfold replayOne
  split
  · next l _ =>
    have hm : findPass (modPass s p z.id (following l)) p pass = findPass s p pass := findPass_modPass_other h s p fun _ => rfl
    exact (restartPass_findPass_other h _ p l).trans (congrArg _ hm)
  · rfl

theorem replayOne_onward (hx : findPass s p pass = some x) (layer : Nat) (z : Pass) :
    ∃ y, findPass (replayOne p layer s z) p pass = some y ∧ Onward x y := by
  by_cases h : pass = z.id
  · subst h
    unfold replayOne
    split
    · next l _ =>
      have hm : findPass (modPass s p z.id (following l)) p z.id = some (following l x) := modPass_found hx fun _ => rfl
      obtain ⟨y, hy, he⟩ := restartPass_findPass hm l
      have ho := (restarted_onward l (following l x)).trans (onward_of_sansTurn he)
      exact ⟨y, hy, ho.gen, ho.replayed, ho.forced, ho.fellBack, ho.resolved, ho.troubles⟩
    · exact ⟨x, hx, onward_of_sansTurn rfl⟩
  · obtain ⟨y, hy, he⟩ := found_of_sansTurn ((replayOne_other h s p layer).trans (congrArg _ hx))
    exact ⟨y, hy, onward_of_sansTurn he⟩

theorem replayLater_onward (hx : findPass s p pass = some x) (entry pos layer : Nat) :
    ∃ y, findPass (replayLater s p entry pos layer) p pass = some y ∧ Onward x y := by
  have hfold (l : List Pass) : ∀ {s : State} {x : Pass}, findPass s p pass = some x →
      ∃ y, findPass (l.foldl (replayOne p layer) s) p pass = some y ∧ Onward x y := by
    induction l with
    | nil => exact fun {_ x} hx => ⟨x, hx, onward_of_sansTurn rfl⟩
    | cons z l ih =>
      intro s x hx
      obtain ⟨y, hy, ho⟩ := replayOne_onward hx layer z
      obtain ⟨w, hw, ho'⟩ := ih hy
      exact ⟨w, hw, ho.trans ho'⟩
  rw [replayLater_eq]
  exact hfold _ hx

/-- A pass that stands no later under its number does not replay with the later ones. -/
theorem replayLater_apart {pos : Nat} (h : ∀ q ∈ places (s.part p), q.1 = pass → q.2 ≤ pos) (entry layer : Nat) :
    (findPass (replayLater s p entry pos layer) p pass).map sansTurn = (findPass s p pass).map sansTurn := by
  have hfold (l : List Pass) : ∀ s : State, (∀ z ∈ l, pass ≠ z.id) →
      (findPass (l.foldl (replayOne p layer) s) p pass).map sansTurn = (findPass s p pass).map sansTurn := by
    induction l with
    | nil => exact fun _ _ => rfl
    | cons z l ih =>
      intro s hl
      rw [List.foldl_cons, ih _ fun w hw => hl w (List.mem_cons_of_mem _ hw), replayOne_other (hl z List.mem_cons_self)]
  rw [replayLater_eq]
  refine hfold _ s fun z hz he => ?_
  simp only [List.mem_filter, Bool.and_eq_true, decide_eq_true_eq] at hz
  obtain ⟨hmem, -, hlater⟩ := hz
  have hle := h (z.id, z.pos) (List.mem_map.mpr ⟨z, hmem, rfl⟩) he.symm
  exact absurd hlater (Nat.not_lt.mpr hle)

/-! ### Fallback of a layer (R130) -/

/-- A pass with one more matrix step in fallback. -/
def fallen (l m : Nat) (x : Pass) : Pass := { x with fellBack := x.fellBack ++ [(l, m)] }

/-- What sending a matrix step to fallback makes of a pass. -/
def stepFallen (l m : Nat) (x : Pass) : Pass := if inFallback x l m then x else fallen l m x

theorem findPass_modSlot (s : State) (p k : Nat) (f : ImgSlot → ImgSlot) (q pass : Nat) :
    findPass (s.modSlot p k f) q pass = findPass s q pass := by
  unfold findPass allPasses State.modSlot
  by_cases h : q = p
  · rw [h, State.modPart_part_self]
  · rw [State.modPart_part_other s h]

theorem findPass_modPart {f : Part → Part} (hf : ∀ q, (f q).passes = q.passes ∧ (f q).recomps = q.recomps) (s : State) (p pass : Nat) :
    findPass (s.modPart p f) p pass = findPass s p pass := by
  unfold findPass allPasses
  rw [State.modPart_part_self, (hf _).1, (hf _).2]

theorem markFallback_findPass (hx : findPass s p pass = some x) (l m cause : Nat) :
    findPass (markFallback s p pass l m cause) p pass = some (stepFallen l m x) := by
  have hm : findPass (modPass s p pass (fallen l m)) p pass = some (fallen l m x) := modPass_found hx fun _ => rfl
  unfold stepFallen
  simp only [markFallback, hx]
  split
  · exact hx
  split
  · rw [reportLead, reportTile, findPass_report, findPass_modSlot, findPass_modPart]
    · exact hm
    · exact fun _ => ⟨rfl, rfl⟩
  · exact hm

theorem stepFallen_gen (l m : Nat) (x : Pass) : (stepFallen l m x).gen = x.gen := by unfold stepFallen; split <;> rfl

theorem inFallback_stepFallen (l m : Nat) (x : Pass) : inFallback (stepFallen l m x) l m = true := by
  unfold stepFallen
  split
  · assumption
  · simp [inFallback, fallen]

theorem inFallback_stepFallen_of (l m : Nat) {i : Nat} (h : inFallback x l i = true) : inFallback (stepFallen l m x) l i = true := by
  unfold stepFallen
  split
  · exact h
  · simp only [inFallback, List.contains_eq_mem, decide_eq_true_eq] at h ⊢
    exact List.mem_append_left _ h

theorem layerToFallback_findPass {ly : Layer} (hx : findPass s p pass = some x) (hl : layerOf s p x.slot layer = some ly) (cause : Nat) :
    ∃ y, findPass (layerToFallback s p pass layer cause) p pass = some y ∧ y.gen = x.gen ∧
      ∀ i, i < ly.matrices.length → inFallback y layer i = true := by
  have hfold (n : Nat) : ∃ y, findPass ((List.range n).foldl (fun s m => markFallback s p pass layer m cause) s) p pass = some y ∧
      y.gen = x.gen ∧ ∀ i, i < n → inFallback y layer i = true := by
    induction n with
    | zero => exact ⟨x, hx, rfl, fun i hi => absurd hi (Nat.not_lt_zero i)⟩
    | succ n ih =>
      obtain ⟨y, hy, hg, hin⟩ := ih
      rw [List.range_succ, List.foldl_append]
      refine ⟨_, markFallback_findPass hy layer n cause, (stepFallen_gen layer n y).trans hg, fun i hi => ?_⟩
      rcases Nat.lt_succ_iff_lt_or_eq.mp hi with hi | rfl
      · exact inFallback_stepFallen_of layer n (hin i hi)
      · exact inFallback_stepFallen layer i y
  simp only [layerToFallback, hx, hl]
  exact hfold _

end Sys2Proof.Machine
end

section
/-! SUPPORT. TROUBLE_NOTICE, STEP_RESOLVED, ARRAY_DEGRADED and ARRAY_RECOVERED (O27). -/

namespace Sys2Proof.Machine

variable {s : State} {p pass layer gen m o : Nat} {x : Pass}

/-! ### The trouble response (R129 to R131, R141) -/

theorem troubleResponse_poisoned (hx : findPass s p pass = some x) (hp : x.poison.isSome = true) (layer gen : Nat) (f : Option (Nat × Nat)) :
    troubleResponse s p pass layer gen f = s := by
  simp only [troubleResponse, hx, hp, if_true]

theorem troubleResponse_superseded (hx : findPass s p pass = some x) (hs : stale x layer gen = true) (hp : samePlay x layer gen = false)
    (m o : Nat) : troubleResponse s p pass layer gen (some (m, o)) = s := by
  simp only [troubleResponse, hx, hs, hp, if_true, Bool.false_eq_true, if_false, ite_self]

/-- A pass whose output tile is checked by force from now on. -/
def forcing (layer m o : Nat) (x : Pass) : Pass :=
  { x with forced := if x.forced.contains (layer, m, o) then x.forced else x.forced ++ [(layer, m, o)] }

theorem forcing_forced (layer m o : Nat) (x : Pass) : (forcing layer m o x).forced.contains (layer, m, o) = true := by
  unfold forcing
  split
  · assumption
  · simp

theorem troubleResponse_again (hx : findPass s p pass = some x) (hp : x.poison = none) (hs : stale x layer gen = true)
    (hr : samePlay x layer gen = true) (m o : Nat) :
    troubleResponse s p pass layer gen (some (m, o)) = modPass s p pass (forcing layer m o) := by
  simp only [troubleResponse, hx, hp, hs, hr, Option.isSome_none, Bool.false_eq_true, if_false, if_true]
  rfl

theorem troubleResponse_falls (hx : findPass s p pass = some x) (hp : x.poison = none) (hs : stale x layer gen = false)
    (hr : x.replayed.contains layer = true) (hf : layerFellBack s p x layer = false) (f : Option (Nat × Nat)) :
    troubleResponse s p pass layer gen f =
      replayLater (restartPass (layerToFallback s p pass layer 0) p pass layer) p x.entry x.pos layer := by
  simp only [troubleResponse, hx, hp, hs, hr, hf, Option.isSome_none, Bool.false_eq_true, if_false, if_true]

/-- A pass that is about to replay from a layer, with the check of an output tile forced. -/
def replaying (layer m o : Nat) (x : Pass) : Pass := { x with replayed := x.replayed ++ [layer], forced := x.forced ++ [(layer, m, o)] }

/-- The first replay of a layer is counted, for the partition and for the image (R141, R144). -/
def replayCounted (s : State) (p pass layer m o k : Nat) : State :=
  ((modPass s p pass (replaying layer m o)).modPart p fun q => { q with fbgReplay := satAdd q.fbgReplay 1 }).modSlot p k fun k =>
    { k with layerReplay := tmod 0 k.layerReplay layer (· + 1) }

/-- Measured scales hold in the replay of a layer (R129). -/
def measuring (layer : Nat) (x : Pass) : Pass := { x with measured := x.measured ++ [layer] }

/-- The replay of a layer has begun, and later passes have not followed yet (R129). -/
def replayBegun (s : State) (p pass layer m o k : Nat) : State :=
  modPass (restartPass (replayCounted s p pass layer m o k) p pass layer) p pass (measuring layer)

theorem troubleResponse_replays (hx : findPass s p pass = some x) (hp : x.poison = none) (hs : stale x layer gen = false)
    (hr : x.replayed.contains layer = false) (m o : Nat) : troubleResponse s p pass layer gen (some (m, o)) =
      replayLater (replayBegun s p pass layer m o x.slot) p x.entry x.pos layer := by
  simp only [troubleResponse, hx, hp, hs, hr, Option.isSome_none, Bool.false_eq_true, if_false]
  rfl

theorem replayCounted_findPass (hx : findPass s p pass = some x) (layer m o k : Nat) :
    findPass (replayCounted s p pass layer m o k) p pass = some (replaying layer m o x) := by
  have hm : findPass (modPass s p pass (replaying layer m o)) p pass = some (replaying layer m o x) := modPass_found hx fun _ => rfl
  rw [replayCounted, findPass_modSlot, findPass_modPart]
  · exact hm
  · exact fun _ => ⟨rfl, rfl⟩

theorem replayCounted_samePlaces (layer m o k : Nat) : SamePlaces s (replayCounted s p pass layer m o k) := by
  have hm : SamePlaces s (modPass s p pass (replaying layer m o)) := modPass_samePlaces p pass fun _ => rfl
  unfold replayCounted
  exact .after (Fixes.modPart p fun _ => rfl) (.after (Fixes.modPart p fun _ => rfl) hm)

theorem replayBegun_samePlaces (layer m o k : Nat) : SamePlaces s (replayBegun s p pass layer m o k) := by
  have hmeasure : SamePlaces (restartPass (replayCounted s p pass layer m o k) p pass layer) (replayBegun s p pass layer m o k) :=
    modPass_samePlaces (f := measuring layer) p pass fun _ => rfl
  exact .after hmeasure (.after (restartPass_samePlaces p pass layer) (replayCounted_samePlaces layer m o k))

theorem replayBegun_findPass (hx : findPass s p pass = some x) (layer m o k : Nat) :
    ∃ y, findPass (replayBegun s p pass layer m o k) p pass = some y ∧
      sansTurn y = sansTurn (measuring layer (restarted layer (replaying layer m o x))) := by
  obtain ⟨y, hy, he⟩ := restartPass_findPass (replayCounted_findPass hx layer m o k) layer
  refine ⟨measuring layer y, modPass_found hy fun _ => rfl, ?_⟩
  exact congrArg (measuring layer) he

/-- A first trouble of a layer: the pass replays from there under a later generation, with the check of the output tile forced, and what it had
resolved from there on is dropped (R129). -/
theorem troubleResponse_first (hx : findPass s p pass = some x) (hp : x.poison = none) (hs : stale x layer gen = false)
    (hr : x.replayed.contains layer = false) (m o : Nat) :
    ∃ y, findPass (troubleResponse s p pass layer gen (some (m, o))) p pass = some y ∧ x.gen < y.gen ∧ y.replayed.contains layer = true ∧
      y.forced.contains (layer, m, o) = true ∧ (∀ q ∈ y.resolved, q.1 < layer) ∧
      (∀ q ∈ y.troubles, q.1 < layer ∨ (q.1 = layer ∧ q.2.1 = x.gen)) ∧
      ((∀ q ∈ places (s.part p), q.1 = pass → q.2 ≤ x.pos) → y.gen = x.gen + 1 ∧ y.measured.contains layer = true) := by
  rw [troubleResponse_replays hx hp hs hr]
  obtain ⟨y, hy, he⟩ := replayBegun_findPass hx layer m o x.slot
  obtain ⟨z, hz, ho⟩ := replayLater_onward hy x.entry x.pos layer
  have ho := (onward_of_sansTurn he).trans ho
  refine ⟨z, hz, Nat.lt_of_succ_le ho.gen, ?_, ?_, fun q hq => ?_, fun q hq => ?_, fun h => ?_⟩
  · rw [ho.replayed]; simp [measuring, restarted, restartedAs, replaying]
  · rw [ho.forced]; simp [measuring, restarted, restartedAs, replaying]
  · simpa using (List.mem_filter.mp (ho.resolved hq)).2
  · simpa [replaying] using (List.mem_filter.mp (ho.troubles hq)).2
  · have hapart := replayLater_apart (s := replayBegun s p pass layer m o x.slot) (p := p) (pass := pass) (pos := x.pos)
      (fun q hq hid => ?_) x.entry layer
    · rw [hz, hy] at hapart
      have hez := (Option.some.inj hapart).trans he
      refine ⟨reads_of_sansTurn hez Pass.gen fun _ => rfl, ?_⟩
      rw [reads_of_sansTurn hez Pass.measured fun _ => rfl]
      simp [measuring]
    · rw [(replayBegun_samePlaces layer m o x.slot).part] at hq
      exact h q hq hid

/-- A trouble in the replay of a layer: every matrix step of the layer goes to fallback, and the pass starts over from there (R130). -/
theorem troubleResponse_second {ly : Layer} (hx : findPass s p pass = some x) (hp : x.poison = none) (hs : stale x layer gen = false)
    (hr : x.replayed.contains layer = true) (hf : layerFellBack s p x layer = false) (hl : layerOf s p x.slot layer = some ly)
    (f : Option (Nat × Nat)) :
    ∃ y, findPass (troubleResponse s p pass layer gen f) p pass = some y ∧ x.gen < y.gen ∧
      ∀ i, i < ly.matrices.length → inFallback y layer i = true := by
  rw [troubleResponse_falls hx hp hs hr hf]
  obtain ⟨w, hw, hgen, hin⟩ := layerToFallback_findPass hx hl 0
  obtain ⟨y, hy, he⟩ := restartPass_findPass hw layer
  obtain ⟨z, hz, ho⟩ := replayLater_onward hy x.entry x.pos layer
  have ho := (onward_of_sansTurn he).trans ho
  refine ⟨z, hz, hgen ▸ Nat.lt_of_succ_le ho.gen, fun i hi => ?_⟩
  rw [inFallback, ho.fellBack]
  exact hin i hi

/-! ### TROUBLE_NOTICE -/

/-- The lead tile has a notice of trouble: it is outstanding no longer. -/
def noticed (q : Nat × Nat × Nat × Nat) (x : Pass) : Pass := { x with troubles := x.troubles.erase q }

theorem exec_troubleNotice (hp : p < 64) (hx : findPass s p pass = some x) (hq : x.troubles.contains (layer, gen, o, m) = true) (now : Nat) :
    exec (.troubleNotice p pass layer gen o m now) s =
      .next (troubleResponse (modPass (s.setNow now) p pass (noticed (layer, gen, o, m))) p pass layer gen (some (m, o))) := by
  have hx' : findPass (s.setNow now) p pass = some x := hx
  refine (guarded_ok (by simpa [instrWellFormed, okPart] using hp) _).trans (congrArg Host.Outcome.next ?_)
  simp only [hx', hq, Bool.not_true, Bool.false_eq_true, if_false]
  rfl

theorem noticed_findPass (hx : findPass s p pass = some x) (q : Nat × Nat × Nat × Nat) (now : Nat) :
    findPass (modPass (s.setNow now) p pass (noticed q)) p pass = some (noticed q x) :=
  modPass_found (s := s.setNow now) hx fun _ => rfl

theorem noticed_samePlaces (p pass : Nat) (q : Nat × Nat × Nat × Nat) (now : Nat) : SamePlaces s (modPass (s.setNow now) p pass (noticed q)) :=
  .after (modPass_samePlaces p pass fun _ => rfl) (Fixes.of_eq rfl rfl)

theorem noticed_layerOf (s : State) (p pass : Nat) (q : Nat × Nat × Nat × Nat) (now k l : Nat) :
    layerOf (modPass (s.setNow now) p pass (noticed q)) p k l = layerOf s p k l := by
  simp only [layerOf, planOf, modPass_slot]
  rfl

theorem noticed_layerFellBack (s : State) (p pass : Nat) (q : Nat × Nat × Nat × Nat) (now : Nat) (x : Pass) (l : Nat) :
    layerFellBack (modPass (s.setNow now) p pass (noticed q)) p (noticed q x) l = layerFellBack s p x l := by
  unfold layerFellBack
  rw [noticed_layerOf]
  rfl

/-! ### STEP_RESOLVED (R127 step 11, R134) -/

/-- A pass that has taken a step-resolved notice; one of its current generation counts. -/
def stepNoted (layer m gen t : Nat) (x : Pass) : Pass :=
  { x with
    notices := x.notices.erase (layer, m, gen, t)
    resolved := if stale x layer gen || x.resolved.contains (layer, m, t) then x.resolved else x.resolved ++ [(layer, m, t)] }

theorem stepNoted_current {t : Nat} (hs : stale x layer gen = false) : (stepNoted layer m gen t x).resolved.contains (layer, m, t) = true ∧
    ∀ q ∈ x.resolved, q ∈ (stepNoted layer m gen t x).resolved := by
  simp only [stepNoted, hs, Bool.false_or]
  split
  · next h => exact ⟨h, fun _ hq => hq⟩
  · exact ⟨by simp, fun _ hq => List.mem_append_left _ hq⟩

theorem exec_stepResolved {t : Nat} (hp : p < 64) (ht : t < 1280) (hx : findPass s p pass = some x) (now : Nat) :
    exec (.stepResolved p pass layer m gen t now) s = .next
      (if !x.notices.contains (layer, m, gen, t) || stepChecked (s.tile t) p pass layer m gen then s.setNow now
       else modPass (progress (s.setNow now) p) p pass (stepNoted layer m gen t)) := by
  have hx' : findPass (s.setNow now) p pass = some x := hx
  refine (guarded_ok (by simpa [instrWellFormed, okPart, okTile] using ⟨hp, ht⟩) _).trans (congrArg Host.Outcome.next ?_)
  simp only [hx']
  rfl

/-! ### The governor (R139, R144) -/

theorem exec_arrayDegraded (hp : p < 64) (now : Nat) : exec (.arrayDegraded p now) s = .next
    (if (s.part p).degraded || decide ((s.part p).run < 256) then s.setNow now
     else reportLead ((s.setNow now).modPart p fun q => { q with
        degraded := true, fbgDegraded := satAdd q.fbgDegraded 1, okRun := 0
        troubleBase := s.dies.foldl (fun b d => tset 0 b d.1 d.2.trouble.toNat) [] }) p evArrayDegraded
        [(1, p), (2, fbFraction (s.part p).fbHist)]) :=
  guarded_ok (by simpa [instrWellFormed, okPart] using hp) _

theorem exec_arrayRecovered (hp : p < 64) (now : Nat) : exec (.arrayRecovered p now) s = .next
    (if !(s.part p).degraded || decide ((s.part p).okRun < 4096) then s.setNow now
     else reportLead ((s.setNow now).modPart p fun q => { q with degraded := false }) p evArrayRecovered [(1, p)]) :=
  guarded_ok (by simpa [instrWellFormed, okPart] using hp) _

theorem reportLead_part (s : State) (p cls : Nat) (fields : List (Nat × Nat)) (j : Nat) : (reportLead s p cls fields).part j = s.part j :=
  (reportLead_fixes (π := id) (ρ := id) p cls fields).part j

/-- Settles O27, command by command. -/
theorem troubleReplaysAndDegrades : Obligations.TroubleReplaysAndDegrades := by
  unfold Obligations.TroubleReplaysAndDegrades
  refine ⟨fun s p pass layer gen o m now x hp hx hq => ?_, fun s p pass layer m gen t now x hp ht hx => ?_, fun s p now hp => ?_⟩
  · intro noted
    rw [exec_troubleNotice hp hx hq]
    have hn := noticed_findPass hx (layer, gen, o, m) now
    refine ⟨fun hpoison hs hr => ?_, fun hpoison hs hr hf ly hl => ?_, fun hpoison hs hr => ?_, fun h => ?_⟩
    · obtain ⟨y, hy, hrest⟩ := troubleResponse_first hn hpoison hs hr m o
      obtain ⟨hgen, hrep, hforced, hres, htroubles, hplain⟩ := hrest
      refine ⟨_, y, rfl, hy, hgen, hrep, hforced, hres, htroubles, fun h => hplain fun q hq hid => ?_⟩
      rw [(noticed_samePlaces p pass _ now).part] at hq
      obtain ⟨z, hz, rfl⟩ := List.mem_map.mp hq
      exact h z hz hid
    · have hfell := (noticed_layerFellBack s p pass (layer, gen, o, m) now x layer).trans hf
      obtain ⟨y, hy, hrest⟩ := troubleResponse_second hn hpoison hs hr hfell ((noticed_layerOf ..).trans hl) (some (m, o))
      exact ⟨_, y, rfl, hy, hrest⟩
    · rw [troubleResponse_again hn hpoison hs hr]
      exact ⟨_, _, rfl, modPass_found hn fun _ => rfl, rfl, forcing_forced layer m o _⟩
    · have hnothing : troubleResponse (modPass (s.setNow now) p pass (noticed (layer, gen, o, m))) p pass layer gen (some (m, o)) =
          modPass (s.setNow now) p pass (noticed (layer, gen, o, m)) := by
        rcases h with h | ⟨hs, hr⟩
        · exact troubleResponse_poisoned hn h layer gen _
        · exact troubleResponse_superseded hn hs hr m o
      rw [hnothing]
      exact ⟨_, rfl, hn, rfl⟩
  · intro sent checked
    rw [exec_stepResolved hp ht hx]
    refine ⟨fun hsent hchecked => ?_, fun h => ?_⟩
    · rw [show x.notices.contains (layer, m, gen, t) = true from hsent, show stepChecked (s.tile t) p pass layer m gen = false from hchecked,
        if_neg (by decide)]
      have hfound : findPass (progress (s.setNow now) p) p pass = some x := by
        rw [progress, findPass_modPart]
        · exact hx
        · exact fun _ => ⟨rfl, rfl⟩
      refine ⟨_, stepNoted layer m gen t x, rfl, modPass_found hfound fun _ => rfl, ?_, rfl, stepNoted_current, fun hs => ?_⟩
      · rw [modPass, State.modPart_part_self, progress, State.modPart_part_self]
        rfl
      · simp [stepNoted, hs]
    · rw [if_pos]
      rcases h with h | h
      · rw [show x.notices.contains (layer, m, gen, t) = false from h, Bool.not_false, Bool.true_or]
      · rw [show stepChecked (s.tile t) p pass layer m gen = true from h, Bool.or_true]
  · intro q
    refine ⟨fun hd hn => ?_, fun hd hn => ?_, fun hn => ?_, fun hn => ?_⟩
    · rw [exec_arrayDegraded hp, if_neg (by rw [hd, Bool.false_or, decide_eq_true_eq]; exact not_lt.mpr hn)]
      refine ⟨_, rfl, ?_⟩
      rw [reportLead_part, State.modPart_part_self]
      exact ⟨rfl, rfl, rfl⟩
    · rw [exec_arrayRecovered hp, if_neg (by rw [hd, Bool.not_true, Bool.false_or, decide_eq_true_eq]; exact not_lt.mpr hn)]
      refine ⟨_, rfl, ?_⟩
      rw [reportLead_part, State.modPart_part_self]
      exact ⟨rfl, rfl⟩
    · rw [exec_arrayDegraded hp, if_pos (by rw [decide_eq_true hn, Bool.or_true])]
    · rw [exec_arrayRecovered hp, if_pos (by rw [decide_eq_true hn, Bool.or_true])]

end Sys2Proof.Machine
end

section
/-! SUPPORT. MATRIX_OUTPUT_COMPLETE (O26): partials that leave, and outputs and samples at the home tile. -/

namespace Sys2Proof.Machine

variable {s u : State} {p pass layer m o t la now c : Nat} {x : Pass} {mx : Matrix} {ly : Layer}

/-! ### What the commands leave -/

theorem findPass_of_parts (h : u.parts = s.parts) (p id : Nat) : findPass u p id = findPass s p id := by
  simp only [findPass, allPasses, State.part, h]

/-- A tile apart from its Tarns and from its counts of drift updates. -/
def sansDrift (x : Tile) : Tile := { x with tarns := [], driftUpdCnt := 0, driftLimitCnt := 0 }

/-- Only Tarns and counts of drift updates of tiles differ. -/
abbrev DriftOnly : State → State → Prop := SameTiles sansDrift

/-- What a tile reads apart from what a mask clears stays where only that changes. -/
theorem SameTiles.reads {γ : Type} {π : Tile → Tile} (h : SameTiles π s u) (g : Tile → γ) (hg : ∀ x, g (π x) = g x) (j : Nat) :
    g (u.tile j) = g (s.tile j) := by rw [← hg, h j, hg]

theorem forgetTile_driftOnly (s : State) (f : Kept → Bool) (j : Nat) : DriftOnly s (s.modTile j (forgetTile f)) :=
  SameTiles.modTile s j fun _ => rfl

theorem dropKept_driftOnly (s : State) (p pass layer m o gen : Nat) : DriftOnly s (dropKept s p pass layer m o gen) :=
  SameTiles.foldl (fun q j => forgetTile_driftOnly q _ j) _ s

theorem dropKept_parts (s : State) (p pass layer m o gen : Nat) : (dropKept s p pass layer m o gen).parts = s.parts :=
  (dropKept_keeps (F := { tiles := true }) (Keeps.refl _ s) p pass layer m o gen rfl).outside.parts rfl

theorem dropKept_dies (s : State) (p pass layer m o gen : Nat) : (dropKept s p pass layer m o gen).dies = s.dies :=
  (dropKept_keeps (F := { tiles := true }) (Keeps.refl _ s) p pass layer m o gen rfl).outside.dies rfl

/-! ### Samples (R126) -/

theorem takeSample_parts (s : State) (t : Nat) (k : Check) : (takeSample s t k).parts = s.parts :=
  (takeSample_keeps (F := { tiles := true }) (Keeps.refl _ s) t k rfl).outside.parts rfl

theorem takeSample_joins (h : noSample (s.tile t) = false) (k : Check) :
    ((takeSample s t k).tile t).checks = (s.tile t).checks ++ [k] := by
  rw [takeSample, h, if_neg Bool.false_ne_true, State.modTile_tile_self]

theorem takeSample_skips (h : noSample (s.tile t) = true) (k : Check) :
    ((takeSample s t k).tile t).checks = (s.tile t).checks ∧
      ((takeSample s t k).tile t).chkSkipCnt = satAdd (s.tile t).chkSkipCnt 1 := by
  rw [takeSample, if_pos h]
  have hd := dropKept_driftOnly (s.modTile t fun x => { x with chkSkipCnt := satAdd x.chkSkipCnt 1 }) k.part k.pass k.layer k.matrix
    k.outTile k.gen
  rw [hd.reads Tile.checks fun _ => rfl, hd.reads Tile.chkSkipCnt fun _ => rfl, State.modTile_tile_self]
  exact ⟨rfl, rfl⟩

/-! ### Outputs at the home tile (R184) -/

theorem headOutputs_id (l : Layer) (o : Nat) (vs : List Nat) (x : Pass) : (headOutputs l o vs x).id = x.id := by
  have hfold (f : Pass → Nat × Nat → Pass) (hf : ∀ x v, (f x v).id = x.id) (q : List (Nat × Nat)) : ∀ x, (q.foldl f x).id = x.id := by
    induction q with
    | nil => exact fun _ => rfl
    | cons v q ih => exact fun x => (ih _).trans (hf x v)
  unfold headOutputs
  dsimp only
  split
  · refine hfold _ ?_ _ x
    exact fun _ _ => rfl
  split
  · refine hfold _ ?_ _ x
    exact fun _ _ => rfl
  · rfl

/-- The words of an output tile, by number. -/
def tileWords (s : State) (t c la n : Nat) (cell : Bool) : List (Nat × LaWord) :=
  (List.range n).map fun i => (la + i, ctxWord s t c cell (la + i))

/-- The outputs of an output tile, as FP32 codes. -/
def tileOutputs (s : State) (k : Ctx) (ws : List (Nat × LaWord)) : List Nat := ws.map fun q => encFP32 (outVal s k q.1 q.2)

/-- The check of an output tile's words (R124). -/
def sampleOf (p : Nat) (x : Pass) (gen layer m o : Nat) (ws : List (Nat × LaWord)) : Check :=
  { part := p, slot := x.slot, pass := x.id, gen := gen, layer := layer, matrix := m, outTile := o
    forced := x.forced.contains (layer, m, o), dies := contribDies x gen layer m o, vals := ws.map fun q => q.2.la
    refs := ws.map fun q => match q.2.la with | .num a => .num (a - q.2.err) | .nanMark => .nanMark }

/-- The head's outputs have reached the pass. -/
def headDone (s : State) (p : Nat) (x : Pass) (k : Ctx) (ly : Layer) (o : Nat) (ws : List (Nat × LaWord)) : State :=
  modPass s p x.id (headOutputs ly o (tileOutputs s k ws))

theorem headDone_findPass (hx : findPass s p pass = some x) (k : Ctx) (ly : Layer) (o : Nat) (ws : List (Nat × LaWord)) :
    findPass (headDone s p x k ly o ws) p pass = some (headOutputs ly o (tileOutputs s k ws) x) := by
  have hid : x.id = pass := by simpa using List.find?_some hx
  rw [headDone, hid]
  exact modPass_found hx (headOutputs_id ly o _)

/-- An output tile is sampled where its pass runs in array mode and its step runs on the Tarns (R124, R137). -/
def samples (s : State) (p : Nat) (x : Pass) (layer m o : Nat) : Bool :=
  !(x.ref || !(tarnLayers s p x.slot).contains layer || inFallback x layer m || !tileSampled s p x layer m o)

theorem headDone_samples (s : State) (p : Nat) (x : Pass) (k : Ctx) (ly : Layer) (ws : List (Nat × LaWord)) (layer m o : Nat) :
    samples (headDone s p x k ly o ws) p x layer m o = samples s p x layer m o := by
  have hslot (q i : Nat) : (headDone s p x k ly o ws).slot q i = s.slot q i := modPass_slot ..
  have hplan (q i : Nat) : planOf (headDone s p x k ly o ws) q i = planOf s q i := congrArg ImgSlot.plain (hslot q i)
  have hlayers : tarnLayers (headDone s p x k ly o ws) p x.slot = tarnLayers s p x.slot := by simp only [tarnLayers, hplan, hslot]
  have hindex : matrixIndex (headDone s p x k ly o ws) p x.slot layer m = matrixIndex s p x.slot layer m := by
    simp only [matrixIndex, hplan, hlayers]
  simp only [samples, tileSampled, hlayers, hindex]

theorem homeOutput_eq (s : State) (p t c : Nat) (k : Ctx) (x : Pass) (layer m o la : Nat) (cell : Bool) (mx : Matrix) (ly : Layer) :
    let ws := tileWords s t c la (Nat.min 32 (mx.n - 32 * o)) cell
    homeOutput s p t c k x layer m o la cell mx ly =
      if samples s p x layer m o then takeSample (headDone s p x k ly o ws) t (sampleOf p x k.gen layer m o ws)
      else headDone s p x k ly o ws := by
  intro ws
  rw [← headDone_samples s p x k ly ws]
  unfold samples
  cases h : (x.ref || !(tarnLayers (headDone s p x k ly o ws) p x.slot).contains layer || inFallback x layer m ||
      !tileSampled (headDone s p x k ly o ws) p x layer m o) with
  | true => exact if_pos h
  | false => exact if_neg (Bool.eq_false_iff.mp h)

theorem homeOutput_findPass (hx : findPass s p pass = some x) (t c : Nat) (k : Ctx) (layer m o la : Nat) (cell : Bool) (mx : Matrix)
    (ly : Layer) : findPass (homeOutput s p t c k x layer m o la cell mx ly) p pass =
      some (headOutputs ly o (tileOutputs s k (tileWords s t c la (Nat.min 32 (mx.n - 32 * o)) cell)) x) := by
  rw [homeOutput_eq]
  split
  · rw [findPass_of_parts (takeSample_parts _ _ _), headDone_findPass hx]
  · exact headDone_findPass hx ..

/-! ### The command (R127 step 9, R156) -/

/-- Tile `t` holds an output tile of a matrix step in the context that serves its pass, and the step stands. -/
structure OutputAt (s : State) (p pass layer m t : Nat) (x : Pass) (c : Nat) (mx : Matrix) (ly : Layer) : Prop where
  isPart : p < 64
  isTile : t < 1280
  found : findPass s p pass = some x
  serving : servingCtx s p pass t = some c
  matrix : matrixOf s p x.slot layer m = some mx
  lay : layerOf s p x.slot layer = some ly
  stands : stale x layer (ctxOf s t c).gen = false

/-- What MATRIX_OUTPUT_COMPLETE does once the words of the output tile are all in: a contributor's leave, the home tile's are output, and a forced
check waits for room in the queue. -/
def outputDone (s : State) (p layer m o t la c : Nat) (x : Pass) (mx : Matrix) (ly : Layer) : State :=
  match splitAt s p x.slot layer m (ctxOf s t c).relTile la with
  | some q => sendPartials s t c (ctxOf s t c) q (cellPlaced s p x.slot layer)
  | none =>
    if x.forced.contains (layer, m, o) && noSample (s.tile t) then s
    else homeOutput s p t c (ctxOf s t c) x layer m o la (cellPlaced s p x.slot layer) mx ly

theorem OutputAt.exec (h : OutputAt s p pass layer m t x c mx ly) (o la now : Nat) :
    exec (.matrixOutputComplete p pass layer m o t la now) s = .next
      (if awaits (s.tile t) c [.words la (Nat.min 32 (mx.n - 32 * o))] then s.setNow now
       else outputDone (s.setNow now) p layer m o t la c x mx ly) := by
  obtain ⟨hp, ht, hx, hc, hm, hl, hs⟩ := h
  refine (guarded_ok (by simpa [instrWellFormed, okPart, okTile] using ⟨hp, ht⟩) _).trans (congrArg Host.Outcome.next ?_)
  simp only [show findPass (s.setNow now) p pass = _ from hx, show servingCtx (s.setNow now) p pass t = _ from hc,
    show matrixOf (s.setNow now) p x.slot layer m = _ from hm, show layerOf (s.setNow now) p x.slot layer = _ from hl,
    show stale x layer (ctxOf (s.setNow now) t c).gen = _ from hs, Bool.false_or]
  rfl

theorem outputDone_contributes {q : Split} (hq : splitAt s p x.slot layer m (ctxOf s t c).relTile la = some q) :
    outputDone s p layer m o t la c x mx ly = sendPartials s t c (ctxOf s t c) q (cellPlaced s p x.slot layer) := by
  simp only [outputDone, hq]

theorem outputDone_waits (hq : splitAt s p x.slot layer m (ctxOf s t c).relTile la = none) (hf : x.forced.contains (layer, m, o) = true)
    (hn : noSample (s.tile t) = true) : outputDone s p layer m o t la c x mx ly = s := by
  simp only [outputDone, hq, hf, hn, Bool.and_self, if_true]

theorem outputDone_home (hq : splitAt s p x.slot layer m (ctxOf s t c).relTile la = none)
    (h : x.forced.contains (layer, m, o) = false ∨ noSample (s.tile t) = false) : outputDone s p layer m o t la c x mx ly =
      homeOutput s p t c (ctxOf s t c) x layer m o la (cellPlaced s p x.slot layer) mx ly := by
  have hgo : (x.forced.contains (layer, m, o) && noSample (s.tile t)) = false := Bool.and_eq_false_iff.mpr h
  simp only [outputDone, hq, hgo, Bool.false_eq_true, if_false]

/-! ### Partials that leave (R156) -/

/-- The finished words of a contribution. -/
def splitWords (s : State) (t c : Nat) (q : Split) (cell : Bool) : List LaWord :=
  (List.range q.words).map fun i => ctxWord s t c cell (q.laBase + i)

theorem countFirst_xfers (s : State) (ls : List (Nat × Nat)) (bytes : Nat) : (countFirst s ls bytes).xfers = s.xfers := by
  cases ls <;> rfl

/-- With a route up the finished words leave for the home tile's receive words, under the generation of the context (R128, R156). -/
theorem sendPartials_sends {k : Ctx} {q : Split} {cell : Bool} {ht hc : Nat} {ls : List (Nat × Nat)}
    (hhome : absTile s (ctxPart k) q.home = some ht) (hdest : destCtx s (ctxPart k) k.slot ht q.ctx = some hc)
    (hroute : linksOf s (tileDie t) (tileDie ht) = some ls) :
    ∃ y, (sendPartials s t c k q cell).xfers = s.xfers ++ [y] ∧ y.tile = ht ∧ y.ctx = hc ∧ y.ctr = some q.ctr ∧ y.gen = k.gen ∧
      y.kind = .partial_ (q.recv + q.index * q.words) (splitWords s t c q cell) q.layer q.matrix := by
  simp only [sendPartials, hhome, hdest]
  rw [launch_routed hroute, countFirst_xfers]
  exact ⟨_, rfl, rfl, rfl, rfl, rfl, rfl⟩

end Sys2Proof.Machine
end

section
/-! SUPPORT. CHECK_DONE (O26): a check that is taken, one that declares trouble, and one that is abandoned. -/

namespace Sys2Proof.Machine

variable {s u : State} {t now : Nat} {c : Check} {cs : List Check} {x : Pass}

/-! ### Drift comparisons (R115) -/

/-- No die counts trouble. -/
def SameTroubles (s u : State) : Prop := ∀ i, (u.die i).trouble = (s.die i).trouble

theorem SameTroubles.refl (s : State) : SameTroubles s s := fun _ => rfl

theorem SameTroubles.trans {v : State} (h : SameTroubles s u) (k : SameTroubles u v) : SameTroubles s v := fun i => (k i).trans (h i)

theorem SameTroubles.of_dies (h : u.dies = s.dies) : SameTroubles s u := fun i => by rw [State.die, h]; rfl

theorem SameTroubles.modDie (s : State) (d : Nat) {f : Die → Die} (hf : ∀ x, (f x).trouble = x.trouble) : SameTroubles s (s.modDie d f) := by
  intro i
  by_cases h : i = d
  · rw [h, State.modDie_die_self, hf]
  · rw [State.modDie_die_other s h]

theorem SameTroubles.report (s : State) (die block cls : Nat) (part : Option Nat) (fields : List (Nat × Nat)) :
    SameTroubles s (report s die block cls part fields) := by
  unfold Machine.report
  split
  · exact SameTroubles.of_dies rfl
  · refine SameTroubles.modDie s die ?_
    exact fun _ => rfl

/-- A drift update changes Tarns and counts of updates of tiles, and reports to a die's queue. -/
def Drifts (s u : State) : Prop := DriftOnly s u ∧ SameTroubles s u

theorem Drifts.refl (s : State) : Drifts s s := ⟨SameTiles.refl s, SameTroubles.refl s⟩

theorem Drifts.trans {v : State} (h : Drifts s u) (k : Drifts u v) : Drifts s v := ⟨h.1.trans k.1, h.2.trans k.2⟩

theorem Drifts.foldl {κ : Type} {f : State → κ → State} (hf : ∀ q x, Drifts q (f q x)) (l : List κ) : ∀ s, Drifts s (l.foldl f s) := by
  induction l with
  | nil => exact Drifts.refl
  | cons x l ih => exact fun s => (hf s x).trans (ih _)

theorem Drifts.modTile (s : State) (t : Nat) {f : Tile → Tile} (hf : ∀ x, sansDrift (f x) = sansDrift x) : Drifts s (s.modTile t f) :=
  ⟨SameTiles.modTile s t hf, SameTroubles.of_dies rfl⟩

theorem Drifts.modTarn (s : State) (t n : Nat) (f : Tarn → Tarn) : Drifts s (modTarn s t n f) := Drifts.modTile s t fun _ => rfl

theorem Drifts.reportTile (s : State) (t cls : Nat) (part : Option Nat) (fields : List (Nat × Nat)) : Drifts s (reportTile s t cls part fields) :=
  ⟨fun _ => congrArg sansDrift (report_tile ..), SameTroubles.report s _ _ _ _ _⟩

theorem driftNow_drifts (s : State) (t tarn key : Nat) : Drifts s (driftNow s t tarn key) := by
  unfold driftNow
  dsimp only
  have hmoved (f : Tarn → Tarn) {g : Tile → Tile} (hg : ∀ x, sansDrift (g x) = sansDrift x) : Drifts s ((modTarn s t tarn f).modTile t g) :=
    (Drifts.modTarn s t tarn f).trans (Drifts.modTile _ t hg)
  split
  · refine .trans (hmoved _ ?_) (Drifts.reportTile _ t _ _ _)
    exact fun _ => rfl
  · refine hmoved _ ?_
    exact fun _ => rfl

theorem driftCompare_drifts (s : State) (t tarn key : Nat) (fine : Int) (ideal : Nat) : Drifts s (driftCompare s t tarn key fine ideal) := by
  unfold driftCompare
  split
  · exact Drifts.refl s
  dsimp only
  split
  · exact (driftNow_drifts s t tarn key).trans (Drifts.modTarn _ t tarn _)
  · exact Drifts.modTarn s t tarn _

theorem enterDrift_drifts (s : State) (c : Check) : Drifts s (enterDrift s c) :=
  Drifts.foldl (fun q _ => Drifts.foldl (fun q _ => Drifts.foldl (fun q _ => driftCompare_drifts q _ _ _ _ _) _ q) _ q) _ s

theorem enterDrift_parts (s : State) (c : Check) : (enterDrift s c).parts = s.parts :=
  (enterDrift_keeps (F := { mcEv := true, dies := true, tiles := true }) (Keeps.refl _ s) c rfl rfl rfl).outside.parts rfl

/-! ### The parts of the command -/

/-- The oldest check has left the queue of a tile. -/
def checkOff (s : State) (t : Nat) (cs : List Check) (now : Nat) : State := (s.setNow now).modTile t fun x => { x with checks := cs }

/-- A check has been abandoned: it counts as skipped, and its fine counts go (R126). -/
def checkAbandoned (s : State) (t : Nat) (c : Check) (cs : List Check) (now : Nat) : State :=
  dropKept ((checkOff s t cs now).modTile t fun x => { x with chkSkipCnt := satAdd x.chkSkipCnt 1 }) c.part c.pass c.layer c.matrix c.outTile
    c.gen

/-- A check has been taken: its comparisons have entered the drift sums, and it is counted (R115, R126). -/
def checkTaken (s : State) (t : Nat) (c : Check) (cs : List Check) (now : Nat) : State :=
  (dropKept (enterDrift (checkOff s t cs now) c) c.part c.pass c.layer c.matrix c.outTile c.gen).modTile t fun x =>
    { x with chkTakenCnt := satAdd x.chkTakenCnt 1 }

/-- A die counts trouble. -/
def dieTroubled (x : Die) : Die := { x with trouble := satAdd x.trouble 1 }

/-- Trouble is counted on the tile and on the dies that did the work, and reported (R132). -/
def troubleCounted (s : State) (t : Nat) (c : Check) (d : Nat × Nat) : State :=
  reportTile (c.dies.foldl (fun s i => s.modDie i dieTroubled) (s.modTile t fun x => { x with
    chkTroubleCnt := satAdd x.chkTroubleCnt 1, chkNdiff := d.1, chkMaxdiff := d.2, chkLayer := c.layer, chkMatrix := c.matrix }))
    t evCheckTrouble (some c.part) [(1, c.part), (1, c.layer), (1, c.matrix), (2, c.outTile), (1, d.1), (1, d.2), (8, maskOf c.dies)]

theorem checkOff_findPass (s : State) (t : Nat) (cs : List Check) (now p id : Nat) : findPass (checkOff s t cs now) p id = findPass s p id := rfl

theorem checkAbandoned_findPass (s : State) (t : Nat) (c : Check) (cs : List Check) (now p id : Nat) :
    findPass (checkAbandoned s t c cs now) p id = findPass s p id := by
  rw [checkAbandoned, findPass_of_parts (dropKept_parts ..)]
  rfl

theorem checkTaken_findPass (s : State) (t : Nat) (c : Check) (cs : List Check) (now p id : Nat) :
    findPass (checkTaken s t c cs now) p id = findPass s p id := by
  rw [checkTaken, findPass_of_parts (State.modTile_parts ..), findPass_of_parts (dropKept_parts ..), findPass_of_parts (enterDrift_parts ..)]
  rfl

theorem checkAbandoned_tile (s : State) (t : Nat) (c : Check) (cs : List Check) (now : Nat) :
    let y := (checkAbandoned s t c cs now).tile t
    y.checks = cs ∧ y.chkSkipCnt = satAdd (s.tile t).chkSkipCnt 1 ∧ y.chkTakenCnt = (s.tile t).chkTakenCnt := by
  intro y
  have hd := dropKept_driftOnly ((checkOff s t cs now).modTile t fun x => { x with chkSkipCnt := satAdd x.chkSkipCnt 1 }) c.part c.pass c.layer
    c.matrix c.outTile c.gen
  have hy {γ : Type} (g : Tile → γ) (hg : ∀ x, g (sansDrift x) = g x) : g y = g { s.tile t with
      checks := cs, chkSkipCnt := satAdd (s.tile t).chkSkipCnt 1 } := by
    refine (hd.reads g hg t).trans (congrArg g ?_)
    rw [State.modTile_tile_self, checkOff, State.modTile_tile_self]
    rfl
  exact ⟨hy Tile.checks fun _ => rfl, hy Tile.chkSkipCnt fun _ => rfl, hy Tile.chkTakenCnt fun _ => rfl⟩

theorem checkTaken_tile (s : State) (t : Nat) (c : Check) (cs : List Check) (now : Nat) :
    let y := (checkTaken s t c cs now).tile t
    y.checks = cs ∧ y.chkTakenCnt = satAdd (s.tile t).chkTakenCnt 1 ∧ y.chkTroubleCnt = (s.tile t).chkTroubleCnt := by
  intro y
  have hd : DriftOnly (checkOff s t cs now) _ := (enterDrift_drifts (checkOff s t cs now) c).1.trans (dropKept_driftOnly _ c.part c.pass c.layer
    c.matrix c.outTile c.gen)
  have hy {γ : Type} (g : Tile → γ) (hg : ∀ x, g (sansDrift x) = g x) :
      g ((dropKept (enterDrift (checkOff s t cs now) c) c.part c.pass c.layer c.matrix c.outTile c.gen).tile t) =
        g { s.tile t with checks := cs } := by
    refine (hd.reads g hg t).trans (congrArg g ?_)
    rw [checkOff, State.modTile_tile_self]
    rfl
  have hself : y = _ := State.modTile_tile_self _ t _
  rw [hself]
  exact ⟨hy Tile.checks fun _ => rfl, congrArg (satAdd · 1) (hy Tile.chkTakenCnt fun _ => rfl), hy Tile.chkTroubleCnt fun _ => rfl⟩

theorem checkTaken_troubles (s : State) (t : Nat) (c : Check) (cs : List Check) (now : Nat) : SameTroubles s (checkTaken s t c cs now) := by
  have hoff : SameTroubles s (checkOff s t cs now) := SameTroubles.of_dies rfl
  have hdrop : SameTroubles _ (dropKept (enterDrift (checkOff s t cs now) c) c.part c.pass c.layer c.matrix c.outTile c.gen) :=
    SameTroubles.of_dies (dropKept_dies ..)
  exact ((hoff.trans (enterDrift_drifts _ c).2).trans hdrop).trans (SameTroubles.of_dies (State.modTile_dies ..))

/-! ### Trouble (R129, R132) -/

/-- Dies named once each are changed once each. -/
theorem foldl_modDie_die (f : Die → Die) {ds : List Nat} (hd : ds.Nodup) : ∀ (s : State) (i : Nat),
    (ds.foldl (fun s i => s.modDie i f) s).die i = if i ∈ ds then f (s.die i) else s.die i := by
  induction ds with
  | nil => exact fun s i => (if_neg List.not_mem_nil).symm
  | cons d ds ih =>
    intro s i
    obtain ⟨hdd, hds⟩ := List.nodup_cons.mp hd
    rw [List.foldl_cons, ih hds]
    by_cases h : i = d
    · rw [if_neg (h ▸ hdd), if_pos (h ▸ List.mem_cons_self), h, State.modDie_die_self]
    · simp only [State.modDie_die_other s h, List.mem_cons, h, false_or]

theorem foldl_modDie_tiles (f : Die → Die) (ds : List Nat) : ∀ s : State, (ds.foldl (fun s i => s.modDie i f) s).tiles = s.tiles := by
  induction ds with
  | nil => exact fun _ => rfl
  | cons d ds ih => exact fun s => (ih _).trans (s.modDie_tiles d f)

theorem foldl_modDie_parts (f : Die → Die) (ds : List Nat) : ∀ s : State, (ds.foldl (fun s i => s.modDie i f) s).parts = s.parts := by
  induction ds with
  | nil => exact fun _ => rfl
  | cons d ds ih => exact fun s => (ih _).trans (s.modDie_parts d f)

theorem troubleCounted_tile (s : State) (t : Nat) (c : Check) (d : Nat × Nat) : (troubleCounted s t c d).tile t = { s.tile t with
    chkTroubleCnt := satAdd (s.tile t).chkTroubleCnt 1, chkNdiff := d.1, chkMaxdiff := d.2, chkLayer := c.layer, chkMatrix := c.matrix } := by
  rw [troubleCounted, reportTile, report_tile, State.tile, foldl_modDie_tiles]
  exact State.modTile_tile_self ..

theorem troubleCounted_die (s : State) (t : Nat) {c : Check} (hd : c.dies.Nodup) (d : Nat × Nat) {i : Nat} (hi : i ∈ c.dies) :
    ((troubleCounted s t c d).die i).trouble = satAdd (s.die i).trouble 1 := by
  rw [troubleCounted, reportTile, SameTroubles.report, foldl_modDie_die _ hd, if_pos hi]
  rfl

theorem troubleCounted_findPass (s : State) (t : Nat) (c : Check) (d : Nat × Nat) (p id : Nat) :
    findPass (troubleCounted s t c d) p id = findPass s p id := by
  rw [troubleCounted, reportTile, findPass_report, findPass_of_parts (foldl_modDie_parts ..)]
  rfl

/-- A pass with trouble of a check outstanding. -/
def troubledBy (c : Check) (x : Pass) : Pass := { x with troubles := x.troubles ++ [(c.layer, c.gen, c.outTile, c.matrix)] }

theorem noteTrouble_findPass (hx : findPass s c.part c.pass = some x) (hs : stale x c.layer c.gen = false) :
    findPass (noteTrouble s c) c.part c.pass = some (troubledBy c x) := by
  have hid (x : Pass) : (if stale x c.layer c.gen && !samePlay x c.layer c.gen then x else troubledBy c x).id = x.id := by split <;> rfl
  have hn : findPass (noteTrouble s c) c.part c.pass = some (if stale x c.layer c.gen && !samePlay x c.layer c.gen then x else troubledBy c x) :=
    modPass_found hx hid
  rwa [hs, Bool.false_and, if_neg Bool.false_ne_true] at hn

/-! ### The command -/

/-- T and M of a check: its pass's, or the partition's where the pass is gone (R124, R132). -/
def checkLimits (s : State) (c : Check) : Nat × Nat :=
  match findPass s c.part c.pass with
  | some x => (x.chkT, x.chkM)
  | none => ((s.part c.part).serv.chkT, (s.part c.part).serv.chkM)

/-- A taken check is judged against its limits. -/
def judged (s : State) (t : Nat) (c : Check) (tm : Nat × Nat) : State :=
  if !troubleDeclared tm.2 (checkDiffs tm.1 c.vals c.refs).1 then s
  else noteTrouble (troubleCounted s t c (checkDiffs tm.1 c.vals c.refs)) c

theorem exec_checkDone_abandons {bad : Bool} (ht : t < 1280) (hc : (s.tile t).checks = c :: cs) (hb : (bad || checkBad s c) = true) :
    exec (.checkDone t bad now) s =
      .next (if c.forced then noteTrouble (checkAbandoned s t c cs now) c else checkAbandoned s t c cs now) := by
  refine (guarded_ok (by simpa [instrWellFormed, okTile] using ht) _).trans (congrArg Host.Outcome.next ?_)
  simp only [State.setNow_tile', hc]
  exact if_pos hb

theorem exec_checkDone_takes (ht : t < 1280) (hc : (s.tile t).checks = c :: cs) (hx : findPass s c.part c.pass = some x)
    (hb : checkBad s c = false) : exec (.checkDone t false now) s =
      .next (if troubleDeclared x.chkM (checkDiffs x.chkT c.vals c.refs).1 then
          noteTrouble (troubleCounted (checkTaken s t c cs now) t c (checkDiffs x.chkT c.vals c.refs)) c
        else checkTaken s t c cs now) := by
  refine (guarded_ok (by simpa [instrWellFormed, okTile] using ht) _).trans (congrArg Host.Outcome.next ?_)
  simp only [State.setNow_tile', hc]
  refine (if_neg (by rw [Bool.false_or]; exact Bool.eq_false_iff.mp hb)).trans ?_
  have hf : findPass (checkTaken s t c cs now) c.part c.pass = some x := (checkTaken_findPass ..).trans hx
  have hl : checkLimits (checkTaken s t c cs now) c = (x.chkT, x.chkM) := by simp only [checkLimits, hf]
  change judged (checkTaken s t c cs now) t c (checkLimits (checkTaken s t c cs now) c) = _
  rw [hl, judged]
  cases troubleDeclared x.chkM (checkDiffs x.chkT c.vals c.refs).1 <;> rfl

end Sys2Proof.Machine
end

section
/-! SETTLED HERE: O26. -/

namespace Sys2Proof.Machine

variable {s : State} {p pass layer m o t la now c : Nat} {x : Pass} {mx : Matrix} {ly : Layer}

/-- An output tile at its home tile reaches the pass, and where it is sampled its check joins the queue or is skipped. -/
theorem homeOutput_reaches (hx : findPass s p pass = some x) (t c : Nat) (k : Ctx) (layer m o la : Nat) (cell : Bool) (mx : Matrix) (ly : Layer) :
    let u := homeOutput s p t c k x layer m o la cell mx ly
    let ws := tileWords s t c la (Nat.min 32 (mx.n - 32 * o)) cell
    findPass u p pass = some (headOutputs ly o (tileOutputs s k ws) x) ∧
      (samples s p x layer m o = true →
        (noSample (s.tile t) = false → (u.tile t).checks = (s.tile t).checks ++ [sampleOf p x k.gen layer m o ws]) ∧
        (noSample (s.tile t) = true → (u.tile t).checks = (s.tile t).checks ∧ (u.tile t).chkSkipCnt = satAdd (s.tile t).chkSkipCnt 1)) := by
  intro u ws
  refine ⟨homeOutput_findPass hx t c k layer m o la cell mx ly, fun hs => ?_⟩
  have hu : u = takeSample (headDone s p x k ly o ws) t (sampleOf p x k.gen layer m o ws) := (homeOutput_eq ..).trans (if_pos hs)
  rw [hu]
  exact ⟨fun hn => takeSample_joins (s := headDone s p x k ly o ws) hn _, fun hn => takeSample_skips (s := headDone s p x k ly o ws) hn _⟩

/-- Settles O26: what MATRIX_OUTPUT_COMPLETE and CHECK_DONE do, by where the output tile stands and how its check ends. -/
theorem outputsAreCheckedOnTheirTile : Obligations.OutputsAreCheckedOnTheirTile := by
  unfold Obligations.OutputsAreCheckedOnTheirTile
  constructor
  · intro s p pass layer m o t la now c x mx ly hp ht hx hc hm hl k cell busy forced hs
    have hexec := OutputAt.exec ⟨hp, ht, hx, hc, hm, hl, hs⟩ o la now
    have hdone (hb : busy = false) := hexec.trans (congrArg Host.Outcome.next (if_neg (Bool.eq_false_iff.mp hb)))
    refine ⟨fun hb => hexec.trans (congrArg Host.Outcome.next (if_pos hb)), ?_, ?_⟩
    · intro q ht hc ls hb hq hhome hdest hroute
      obtain ⟨y, hxs, hto, hctx, hctr, hgen, hkind⟩ := sendPartials_sends (s := s.setNow now) (cell := cell) hhome hdest hroute
      refine ⟨_, y, hdone hb, ?_, hto, hctx, hctr, hgen, hkind⟩
      rw [outputDone_contributes (s := s.setNow now) hq]
      exact hxs
    · intro hb hq ws
      constructor
      · intro hf hn
        rw [hdone hb, outputDone_waits (s := s.setNow now) hq hf hn]
      · intro hgo
        obtain ⟨hout, hsample⟩ := homeOutput_reaches (s := s.setNow now) hx t c k layer m o la cell mx ly
        refine ⟨_, hdone hb, ?_⟩
        rw [outputDone_home (s := s.setNow now) hq hgo]
        refine ⟨⟨_, hout, ?_⟩, fun href htarn hfb hsam => ?_⟩
        · simp only [tileOutputs, ws]
          rfl
        · have hs : samples (s.setNow now) p x layer m o = true := by
            have htarn' : (tarnLayers (s.setNow now) p x.slot).contains layer = true := htarn
            have hsam' : tileSampled (s.setNow now) p x layer m o = true := hsam
            simp only [samples, href, htarn', hfb, hsam', Bool.not_true, Bool.or_false, Bool.not_false]
          obtain ⟨hjoin, hskip⟩ := hsample hs
          exact ⟨fun hn => ⟨_, hjoin hn, rfl, rfl, rfl, rfl, rfl, rfl, rfl, rfl, rfl⟩, hskip⟩
  · intro s t now c cs x ht hc hx hs d
    refine ⟨fun hb hd => ?_, fun hb hd => ?_, fun bad hb => ?_⟩
    · obtain ⟨hqueue, htaken, htrouble⟩ := checkTaken_tile s t c cs now
      refine ⟨_, exec_checkDone_takes ht hc hx hb, ?_⟩
      rw [if_neg (Bool.eq_false_iff.mp hd)]
      exact ⟨hqueue, htaken, htrouble, (checkTaken_findPass ..).trans hx⟩
    · obtain ⟨hqueue, -, htrouble⟩ := checkTaken_tile s t c cs now
      refine ⟨_, exec_checkDone_takes ht hc hx hb, ?_⟩
      rw [if_pos hd]
      have htile : (noteTrouble (troubleCounted (checkTaken s t c cs now) t c d) c).tile t = _ := troubleCounted_tile ..
      rw [htile]
      refine ⟨hqueue, congrArg (satAdd · 1) htrouble, rfl, rfl, rfl, rfl, fun hn i hi => ?_, ?_⟩
      · refine (troubleCounted_die _ t hn d hi).trans ?_
        rw [checkTaken_troubles]
      · exact noteTrouble_findPass ((troubleCounted_findPass ..).trans ((checkTaken_findPass ..).trans hx)) hs
    · obtain ⟨hqueue, hskip, htaken⟩ := checkAbandoned_tile s t c cs now
      have hfound : findPass (checkAbandoned s t c cs now) c.part c.pass = some x := (checkAbandoned_findPass ..).trans hx
      refine ⟨_, exec_checkDone_abandons ht hc (Bool.or_eq_true_iff.mpr hb), ?_⟩
      cases c.forced with
      | true => exact ⟨hqueue, hskip, htaken, noteTrouble_findPass hfound hs⟩
      | false => exact ⟨hqueue, hskip, htaken, hfound⟩

end Sys2Proof.Machine
end

section
/-! SUPPORT. Writes of DRAM, raises of arrival counters, rows and words that land (O21). -/

namespace Sys2Proof.Machine

variable {α : Type} {π : Tile → α} {s u : State} {x : Xfer} {t c : Nat}

/-! ### Writes of DRAM (R441, R449) -/

theorem granRetired_of_stackTab (h : u.stackTab = s.stackTab) (a : Nat) : granRetired u a = granRetired s a := by
  simp only [granRetired, State.stack, h]

/-- No granule leaves service or comes back where a channel changes. -/
theorem modChan_granRetired (s : State) (k ch : Nat) (f : Chan → Chan) (a : Nat) : granRetired (modChan s k ch f) a = granRetired s a := by
  unfold granRetired modChan
  by_cases h : addrStack a = k
  · rw [h, State.modStack_stack_self]
  · rw [State.modStack_stack_other s h]

theorem markPoison_granRetired (s : State) (b : Nat) (ws : List Nat) (poison : Bool) (a : Nat) :
    granRetired (markPoison s b ws poison) a = granRetired s a := modChan_granRetired s _ _ _ a

theorem dramWrite_granRetired (s : State) (b : Nat) (bs : List Byte) (poison : Bool) (a : Nat) :
    granRetired (dramWrite s b bs poison) a = granRetired s a := by
  unfold dramWrite
  split
  · rfl
  dsimp only
  refine (granRetired_of_stackTab rfl a).trans (?_ : granRetired (if _ then markPoison s b _ poison else _) a = _)
  split
  · exact markPoison_granRetired s b _ poison a
  · exact (markPoison_granRetired _ _ _ poison a).trans (markPoison_granRetired s b _ poison a)

/-- Bytes for a granule in service are stored. -/
theorem dramWrite_dram {a : Nat} (ha : granRetired s a = false) (bs : List Byte) (poison : Bool) :
    (dramWrite s a bs poison).dram = memWrite s.dram a bs := by
  cases bs with
  | nil => rw [dramWrite, if_pos (by simp)]; rfl
  | cons b bs =>
    rw [dramWrite, if_neg (by simp [ha])]
    dsimp only
    split <;> rfl

theorem dramWrite_parts (s : State) (a : Nat) (bs : List Byte) (poison : Bool) : (dramWrite s a bs poison).parts = s.parts :=
  (dramWrite_keeps (F := { stackTab := true, dram := true }) (Keeps.refl _ s) a bs poison rfl rfl).outside.parts rfl

/-! ### Raises of counters (R189, R190) -/

theorem putSaved_reads (hπ : ∀ y rs, π { y with rows := rs } = π y) (k : Ctx) (y : Tile) (w n : Nat) : π (putSaved k y w n) = π y := by
  unfold putSaved
  split
  · rfl
  · exact hπ ..

/-- Save areas change rows alone. -/
theorem mirrorCtx_sameTiles (hπ : ∀ y rs, π { y with rows := rs } = π y) (s : State) (t c : Nat) : SameTiles π s (mirrorCtx s t c) := by
  have hfold (k : Ctx) (ws : List Nat) : ∀ y, π (ws.foldl (fun y i => putSaved k y (1441 + i) (ctxSaved k (1441 + i))) y) = π y := by
    induction ws with
    | nil => exact fun _ => rfl
    | cons i ws ih => exact fun y => (ih _).trans (putSaved_reads hπ k y _ _)
  exact SameTiles.ite (SameTiles.refl s) (SameTiles.modTile s t fun y => hfold _ _ y)

/-- A tile apart from what a raise changes: its contexts, the rows that mirror them, and its count of schedule faults. -/
def sansRaise (y : Tile) : Tile := { y with rows := [], ctxs := [], schedFaultCnt := 0 }

/-- Only contexts, rows and counts of schedule faults of tiles differ. -/
abbrev RaiseOnly : State → State → Prop := SameTiles sansRaise

theorem schedFault_raiseOnly (s : State) (t p k : Nat) (i : Option Nat) (slot row kind : Nat) :
    RaiseOnly s (schedFault s t p k i slot row kind) := by
  have hp : RaiseOnly s (poisonPass s p i reasonSchedFault) := fun j => by rw [poisonPass_tile]
  have hc : RaiseOnly _ ((poisonPass s p i reasonSchedFault).modTile t fun y => { y with schedFaultCnt := satAdd y.schedFaultCnt 1 }) :=
    SameTiles.modTile _ t fun _ => rfl
  have hr (v : State) (fs : List (Nat × Nat)) : RaiseOnly v (reportTile v t evSchedFault (some p) fs) :=
    fun _ => congrArg sansRaise (report_tile ..)
  unfold schedFault
  refine (hr _ _).after (.after ?_ (hc.after hp))
  exact SameTiles.of_tiles rfl

theorem raiseArr_raiseOnly (s : State) (t c ctr : Nat) : RaiseOnly s (raiseArr s t c ctr) := by
  unfold raiseArr
  refine SameTiles.ite (SameTiles.refl s) (SameTiles.ite (schedFault_raiseOnly s t _ _ _ ctr 0 2) ?_)
  refine (mirrorCtx_sameTiles ?_ _ t c).after (SameTiles.modTile s t ?_)
  · exact fun _ _ => rfl
  · exact fun _ => rfl

theorem landRaise_raiseOnly (s : State) (x : Xfer) : RaiseOnly s (landRaise s x) := by
  unfold landRaise
  split
  · exact raiseArr_raiseOnly s x.tile x.ctx _
  · exact SameTiles.refl s

/-- A counter below 0xFFFF goes up by one (R190). -/
theorem raiseArr_arr {ctr : Nat} (hc : ctr < 48) (hv : tget 0 (ctxOf s t c).arr ctr ≠ 0xFFFF) :
    tget 0 (ctxOf (raiseArr s t c ctr) t c).arr ctr = tget 0 (ctxOf s t c).arr ctr + 1 := by
  have hm := mirrorCtx_sameTiles (π := Tile.ctxs) (fun _ _ => rfl)
    (modCtx s t c fun k => { k with arr := tset 0 k.arr ctr (tget 0 (ctxOf s t c).arr ctr + 1) }) t c t
  rw [raiseArr_adds hc hv, ctxOf, hm, ← ctxOf, modCtx_ctxOf]
  simp only [tget_tset_self]

/-- What a pass reads apart from its poison outlasts a raise. -/
theorem landRaise_reads {γ : Type} (s : State) (x : Xfer) (q id : Nat) {g : Pass → γ} (hg : ∀ (y : Pass) r, g { y with poison := r } = g y) :
    (findPass (landRaise s x) q id).map g = (findPass s q id).map g := by
  unfold landRaise
  split
  · unfold raiseArr
    dsimp only
    split
    · rfl
    split
    · unfold schedFault reportTile
      rw [findPass_report, findPass_modSlot]
      exact poisonPass_reads s _ _ _ q id hg
    · rw [findPass_of_parts]
      unfold mirrorCtx
      split <;> rfl
  · rfl

/-- What a raise leaves of the state: DRAM and what is in flight. -/
theorem landRaise_dram (s : State) (x : Xfer) : (landRaise s x).dram = s.dram :=
  (landRaise_keeps (F := { mcEv := true, dies := true, tiles := true, parts := true }) (Keeps.refl _ s) x rfl rfl rfl rfl).outside.dram rfl

theorem landRaise_releases (s : State) (x : Xfer) : (landRaise s x).releases = s.releases :=
  (landRaise_keeps (F := { mcEv := true, dies := true, tiles := true, parts := true }) (Keeps.refl _ s) x rfl rfl rfl rfl).outside.releases rfl

/-! ### Rows that land (R189) -/

/-- Rows `i` to `n` of a slot belong to the context and are free. -/
structure RowsFree (s : State) (x : Xfer) (base i n : Nat) : Prop where
  part : (ctxOf s x.tile x.ctx).part = some x.part
  owned : ∀ j, i ≤ j → j < n → ownsRow (ctxOf s x.tile x.ctx) (base + j) = true
  free : ∀ j, i ≤ j → j < n → (rowOf (s.tile x.tile) (base + j)).full = false

/-- Row `r` of a tile holds `v`. -/
def withRow (r : Nat) (v : Row) (y : Tile) : Tile := { y with rows := tset {} y.rows r v }

theorem withRow_rowOf (r : Nat) (v : Row) (y : Tile) (q : Nat) : rowOf (withRow r v y) q = if q = r then v else rowOf y q := tget_tset ..

variable {base readers epoch i n : Nat}

theorem RowsFree.filled (h : RowsFree s x base i n) (v : Row) : RowsFree (s.modTile x.tile (withRow (base + i) v)) x base (i + 1) n := by
  have hctx : ctxOf (s.modTile x.tile (withRow (base + i) v)) x.tile x.ctx = ctxOf s x.tile x.ctx := modTile_ctxOf x.tile _ rfl _ _
  refine ⟨hctx ▸ h.part, fun j hij hj => hctx ▸ h.owned j (by omega) hj, fun j hij hj => ?_⟩
  rw [State.modTile_tile_self, withRow_rowOf, if_neg (by omega)]
  exact h.free j (by omega) hj

theorem landRows_fills (h : RowsFree s x base i n) (hi : i < n) (b : List Byte) (bad : Bool) (rs : List (List Byte × Bool)) :
    landRows s x base true readers epoch i ((b, bad) :: rs) =
      landRows (s.modTile x.tile (withRow (base + i) (rowWrite b epoch readers bad))) x base true readers epoch (i + 1) rs := by
  simp only [landRows, h.part, h.owned i le_rfl hi, h.free i le_rfl hi, bne_self_eq_false, Bool.not_true, Bool.or_self, Bool.false_eq_true,
    if_false, if_true]
  rfl

/-- Free rows are written in their order, each with what has come for it. -/
theorem landRows_rowOf (rows : List (List Byte × Bool)) : ∀ {s : State} {i : Nat}, RowsFree s x base i (i + rows.length) → ∀ q,
    rowOf ((landRows s x base true readers epoch i rows).tile x.tile) q =
      if h : base + i ≤ q ∧ q < base + i + rows.length then
        rowWrite (rows[q - (base + i)]'(by omega)).1 epoch readers (rows[q - (base + i)]'(by omega)).2
      else rowOf (s.tile x.tile) q := by
  induction rows with
  | nil =>
    intro s i _ q
    rw [dif_neg fun h => absurd (h.1.trans_lt h.2) (lt_irrefl _)]
    rfl
  | cons r rows ih =>
    intro s i h q
    obtain ⟨b, bad⟩ := r
    have hn : i + ((b, bad) :: rows).length = i + 1 + rows.length := by simp only [List.length_cons]; omega
    rw [landRows_fills h (by simp), ih (hn ▸ h.filled _), State.modTile_tile_self, withRow_rowOf]
    by_cases hq : q = base + i
    · subst hq
      rw [dif_neg (by omega), if_pos rfl, dif_pos (by simp)]
      simp only [Nat.sub_self, List.getElem_cons_zero]
    · rw [if_neg hq]
      by_cases hin : base + (i + 1) ≤ q ∧ q < base + (i + 1) + rows.length
      · rw [dif_pos hin, dif_pos (by simp only [List.length_cons]; omega)]
        have hsub : q - (base + i) = q - (base + (i + 1)) + 1 := by omega
        simp only [hsub, List.getElem_cons_succ]
      · rw [dif_neg hin, dif_neg (by simp only [List.length_cons]; omega)]

/-! ### Partial words that land (R156) -/

theorem landPartials_sameTiles (hπ : ∀ y b, π { y with basin := b } = π y) (t recv : Nat) (ws : List LaWord) :
    ∀ (s : State) (i : Nat), SameTiles π s (landPartials s t recv i ws) := by
  induction ws with
  | nil => exact fun s _ => SameTiles.refl s
  | cons w ws ih => exact fun s i => (SameTiles.modTile s t fun y => hπ y _).trans (ih _ _)

/-- The words of a contribution lie in its receive words. -/
theorem landPartials_wordOf (t recv : Nat) (ws : List LaWord) : ∀ (s : State) (i q : Nat),
    wordOf ((landPartials s t recv i ws).tile t) false q =
      if h : recv + i ≤ q ∧ q < recv + i + ws.length then ws[q - (recv + i)]'(by omega) else wordOf (s.tile t) false q := by
  induction ws with
  | nil =>
    intro s i q
    rw [dif_neg fun h => absurd (h.1.trans_lt h.2) (lt_irrefl _)]
    rfl
  | cons w ws ih =>
    intro s i q
    rw [landPartials, ih, State.modTile_tile_self, wordOf_putWord]
    by_cases hq : q = recv + i
    · subst hq
      rw [dif_neg (by omega), if_pos ⟨rfl, rfl⟩, dif_pos (by simp)]
      simp only [Nat.sub_self, List.getElem_cons_zero]
    · rw [if_neg (by simp [hq])]
      by_cases hin : recv + (i + 1) ≤ q ∧ q < recv + (i + 1) + ws.length
      · rw [dif_pos hin, dif_pos (by simp only [List.length_cons]; omega)]
        have hsub : q - (recv + i) = q - (recv + (i + 1)) + 1 := by omega
        simp only [hsub, List.getElem_cons_succ]
      · rw [dif_neg hin, dif_neg (by simp only [List.length_cons]; omega)]

end Sys2Proof.Machine
end

section
/-! SETTLED HERE: O21. TRANSFER_LANDED (R189, R198, R429), by what the transfer carries. -/

namespace Sys2Proof.Machine

variable {s : State} {x : Xfer} {y : Pass} {id coll now : Nat} {ecc : Ecc}

/-! ### The command -/

/-- The transfer has left the links, and they have counted it (R210). -/
def crossed (s : State) (id now : Nat) (x : Xfer) : State :=
  countCrossed { s.setNow now with xfers := s.xfers.filter fun y => y.id != id } x.links x.bytes

/-- It has reached its tile, where accesses have coincided (R194). -/
def arrived (s : State) (id coll now : Nat) (x : Xfer) : State :=
  (crossed s id now x).modTile x.tile fun y => { y with arbCollideCnt := wrapAdd y.arbCollideCnt coll }

/-- Links count on their dies: the rest of the state is that without the transfer. -/
theorem crossed_outside (s : State) (id now : Nat) (x : Xfer) : SameOutside { dies := true }
    { s.setNow now with xfers := s.xfers.filter fun y => y.id != id } (crossed s id now x) :=
  (countCrossed_keeps (Keeps.refl _ _) x.links x.bytes rfl).outside

theorem crossed_parts (s : State) (id now : Nat) (x : Xfer) : (crossed s id now x).parts = s.parts := (crossed_outside s id now x).parts rfl

theorem crossed_tiles (s : State) (id now : Nat) (x : Xfer) : (crossed s id now x).tiles = s.tiles := (crossed_outside s id now x).tiles rfl

theorem crossed_dram (s : State) (id now : Nat) (x : Xfer) : (crossed s id now x).dram = s.dram := (crossed_outside s id now x).dram rfl

theorem crossed_entries (s : State) (id now : Nat) (x : Xfer) : (crossed s id now x).entries = s.entries :=
  (crossed_outside s id now x).entries rfl

theorem arrived_dram (s : State) (id coll now : Nat) (x : Xfer) : (arrived s id coll now x).dram = s.dram := crossed_dram s id now x

theorem arrived_parts (s : State) (id coll now : Nat) (x : Xfer) : (arrived s id coll now x).parts = s.parts := crossed_parts s id now x

theorem arrived_entry (s : State) (id coll now : Nat) (x : Xfer) (e : Nat) : (arrived s id coll now x).entry e = s.entry e := by
  rw [State.entry, show (arrived s id coll now x).entries = s.entries from crossed_entries ..]
  rfl

theorem arrived_releases (s : State) (id coll now : Nat) (x : Xfer) : (arrived s id coll now x).releases = s.releases :=
  (crossed_outside s id now x).releases rfl

theorem arrived_granRetired (s : State) (id coll now : Nat) (x : Xfer) (a : Nat) :
    granRetired (arrived s id coll now x) a = granRetired s a :=
  granRetired_of_stackTab ((crossed_outside s id now x).stackTab rfl) a

theorem arrived_findPass (s : State) (id coll now : Nat) (x : Xfer) (q i : Nat) : findPass (arrived s id coll now x) q i = findPass s q i :=
  findPass_of_parts (arrived_parts ..) q i

/-- Of the tiles, an arrival changes one count of coinciding accesses. -/
theorem arrived_sameTiles {α : Type} {π : Tile → α} (hπ : ∀ y n, π { y with arbCollideCnt := n } = π y) (s : State) (id coll now : Nat)
    (x : Xfer) : SameTiles π s (arrived s id coll now x) :=
  (SameTiles.modTile _ x.tile fun y => hπ y _).after (SameTiles.of_tiles (crossed_tiles s id now x))

theorem arrived_ctxOf (s : State) (id coll now : Nat) (x : Xfer) (t c : Nat) : ctxOf (arrived s id coll now x) t c = ctxOf s t c := by
  rw [ctxOf, arrived_sameTiles (π := Tile.ctxs) (fun _ _ => rfl)]
  rfl

theorem exec_transferLanded (hx : s.xfers.find? (fun y => y.id == id) = some x) (ecc : Ecc) (coll now : Nat) :
    exec (.transferLanded id ecc coll now) s = .next
      (if !inOrder s x then s.setNow now
       else if x.tag ≠ ((crossed s id now x).part x.part).tag then dropStale (crossed s id now x) x
       else landKind (arrived s id coll now x) x ecc) := by
  refine (guarded_ok rfl _).trans (congrArg Host.Outcome.next ?_)
  simp only [show (s.setNow now).xfers.find? (fun y => y.id == id) = some x from hx]
  rfl

theorem crossed_tag (s : State) (id now : Nat) (x : Xfer) (p : Nat) : ((crossed s id now x).part p).tag = (s.part p).tag :=
  congrArg (fun q => (tget {} q p).tag) (crossed_parts s id now x)

theorem exec_lands (hx : s.xfers.find? (fun y => y.id == id) = some x) (ho : inOrder s x = true) (ht : x.tag = (s.part x.part).tag) (ecc : Ecc)
    (coll now : Nat) : exec (.transferLanded id ecc coll now) s = .next (landKind (arrived s id coll now x) x ecc) := by
  rw [exec_transferLanded hx, ho, if_neg (by decide), if_neg (not_not.mpr (ht.trans (crossed_tag ..).symm))]

theorem exec_discards (hx : s.xfers.find? (fun y => y.id == id) = some x) (ho : inOrder s x = true) (ht : x.tag ≠ (s.part x.part).tag)
    (ecc : Ecc) (coll now : Nat) : exec (.transferLanded id ecc coll now) s = .next (dropStale (crossed s id now x) x) := by
  rw [exec_transferLanded hx, ho, if_neg (by decide), if_pos (by rwa [crossed_tag])]

/-! ### What it carries (R156, R189, R192, R227) -/

theorem landKind_signal {ctr : Nat} (hk : x.kind = .signal) (hc : x.ctr = some ctr) : landKind s x ecc = raiseArr s x.tile x.ctx ctr := by
  simp only [landKind, hk, landRaise, hc]

theorem landKind_dram {a : Nat} {bs : List Byte} {bad : Bool} (hk : x.kind = .dram a bs bad) :
    landKind s x ecc = landRaise (dramWrite s a bs bad) x := by simp only [landKind, hk]

/-- A clean read brings its rows as they are. -/
theorem eccRows_clean (s : State) (x : Xfer) (rows : List (List Byte × Bool)) : eccRows s x .clean rows = (s, rows) := by
  unfold eccRows
  split
  · next h => exact absurd h (by decide)
  · next h => exact absurd h (by decide)
  · rfl

/-- The release that a pull owes its source has left (R196). -/
def released (s : State) (x : Xfer) : State :=
  match x.pull with
  | some r => { s with releases := s.releases ++ [r] }
  | none => s

theorem released_releases (s : State) (x : Xfer) : (released s x).releases = s.releases ++ x.pull.toList := by
  unfold released
  cases x.pull with
  | none => exact (List.append_nil _).symm
  | some r => rfl

theorem released_tile (s : State) (x : Xfer) (j : Nat) : (released s x).tile j = s.tile j := by unfold released; split <;> rfl

theorem landKind_rows {rows : List (List Byte × Bool)} {base readers epoch : Nat} {slot : Bool} (hk : x.kind = .rows rows base slot readers epoch) :
    landKind s x .clean = released (landRaise (landRows s x base slot readers epoch 0 rows) x) x := by
  simp only [landKind, hk, eccRows_clean]
  rfl

theorem landRows_releases (s : State) (x : Xfer) (base : Nat) (slot : Bool) (readers epoch i : Nat) (rows : List (List Byte × Bool)) :
    (landRows s x base slot readers epoch i rows).releases = s.releases :=
  (landRows_keeps (F := { mcEv := true, dies := true, tiles := true, parts := true }) (Keeps.refl _ s) x base slot readers epoch i rows rfl rfl
    rfl rfl).outside.releases rfl

/-- A pass whose K or V entry of a pair has landed. -/
def kvHeld (pair : Nat) (isV : Bool) (y : Pass) : Pass :=
  { y with kvPairs := if y.kvPairs.contains (pair, isV) then y.kvPairs else y.kvPairs ++ [(pair, isV)] }

theorem kvHeld_mem (pair : Nat) (isV : Bool) (y : Pass) : (pair, isV) ∈ (kvHeld pair isV y).kvPairs := by
  unfold kvHeld
  split
  · next h => exact List.contains_iff_mem.mp h
  · exact List.mem_append_right _ List.mem_cons_self

/-- Where a K or V entry lies depends on the partitions alone. -/
theorem kvAddrs_of_parts {u : State} (h : u.parts = s.parts) (p k : Nat) (v : KvParams) (pair stripe slot : Nat) (isV : Bool) :
    kvAddrs u p k v pair stripe slot isV = kvAddrs s p k v pair stripe slot isV := by
  have hdie (a : Pair) : pairDie u p a = pairDie s p a := by simp only [pairDie, State.part, h]
  have hpairs (d : Nat) : pairsOn u p v d = pairsOn s p v d := by simp only [pairsOn, hdie]
  have hsize (d : Nat) : frameSize u p v d = frameSize s p v d := by simp only [frameSize, hpairs]
  have hgran : granulesOf u p = granulesOf s p := by simp only [granulesOf, State.part, h]
  have hframe (d stripe : Nat) : frameAddr u p k v d stripe = frameAddr s p k v d stripe := by unfold frameAddr; rw [hsize, hgran]
  simp only [kvAddrs, regionAddr, hdie, hpairs, hframe]

theorem kvOf_of_parts {u : State} (h : u.parts = s.parts) (p k : Nat) : kvOf u p k = kvOf s p k := by
  simp only [kvOf, planOf, State.slot, State.part, h]

theorem landKv_gone (hy : findPass s x.part x.pass = none) (entry pos pair : Nat) (isV : Bool) (elems scales : List Byte) (carry : List Nat)
    (bad : Bool) : landKv s x entry pos pair isV elems scales carry bad = s := by simp only [landKv, hy]

theorem landKv_stores {p : KvParams} {entry pos pair a b : Nat} {isV : Bool} (hy : findPass s x.part x.pass = some y)
    (hp : kvOf s x.part y.slot = some p) (hf : p.feedback = false) (hc : y.confirm = none)
    (hs : stale y (((p.pairs[pair]?).map Pair.layer).getD 0) x.gen = false) (hv : (tget {} (s.entry entry).pages (pos / 64)).valid = true)
    (ha : kvAddrs s x.part y.slot p pair (tget {} (s.entry entry).pages (pos / 64)).stripe (pos % 64) isV = some (a, b))
    (elems scales : List Byte) (carry : List Nat) : landKv s x entry pos pair isV elems scales carry false =
      landRaise (modPass (dramWrite (dramWrite s a elems false) b scales false) x.part x.pass (kvHeld pair isV)) x := by
  simp only [landKv, hy, hp, hf, hc, hs, hv, ha, Option.isSome_none, Bool.false_eq_true, Bool.not_true, if_false]
  rfl

/-- A stored entry lies in its frame and is held by its pass. -/
theorem landKv_held {p : KvParams} {entry pos pair a b : Nat} {isV : Bool} (hy : findPass s x.part x.pass = some y)
    (hp : kvOf s x.part y.slot = some p) (hf : p.feedback = false) (hc : y.confirm = none)
    (hs : stale y (((p.pairs[pair]?).map Pair.layer).getD 0) x.gen = false) (hv : (tget {} (s.entry entry).pages (pos / 64)).valid = true)
    (ha : kvAddrs s x.part y.slot p pair (tget {} (s.entry entry).pages (pos / 64)).stripe (pos % 64) isV = some (a, b))
    (hra : granRetired s a = false) (hrb : granRetired s b = false) (elems scales : List Byte) (carry : List Nat) :
    let u := landKv s x entry pos pair isV elems scales carry false
    u.dram = memWrite (memWrite s.dram a elems) b scales ∧ ∃ z, findPass u x.part x.pass = some z ∧ (pair, isV) ∈ z.kvPairs := by
  intro u
  let w := dramWrite (dramWrite s a elems false) b scales false
  have hu : u = landRaise (modPass w x.part x.pass (kvHeld pair isV)) x := landKv_stores hy hp hf hc hs hv ha elems scales carry
  constructor
  · have hw : w.dram = memWrite (dramWrite s a elems false).dram b scales := dramWrite_dram ((dramWrite_granRetired ..).trans hrb) scales false
    rw [hu, landRaise_dram, show (modPass w x.part x.pass (kvHeld pair isV)).dram = w.dram from rfl, hw, dramWrite_dram hra]
  · have hw : findPass w x.part x.pass = some y :=
      ((findPass_of_parts (dramWrite_parts ..) _ _).trans (findPass_of_parts (dramWrite_parts ..) _ _)).trans hy
    have hm : findPass (modPass w x.part x.pass (kvHeld pair isV)) x.part x.pass = some (kvHeld pair isV y) := modPass_found hw fun _ => rfl
    have hr := landRaise_reads (modPass w x.part x.pass (kvHeld pair isV)) x x.part x.pass (g := Pass.kvPairs) fun _ _ => rfl
    rw [hm, ← hu] at hr
    obtain ⟨z, hz, he⟩ := Option.map_eq_some_iff.mp hr
    exact ⟨z, hz, he ▸ kvHeld_mem pair isV y⟩

theorem landKind_stalePartial {recv layer matrix : Nat} {ws : List LaWord} (hk : x.kind = .partial_ recv ws layer matrix)
    (hy : findPass s x.part x.pass = some y) (hg : x.gen < y.gen) :
    landKind s x ecc = s.modTile x.tile fun y => { y with accStaleCnt := satAdd y.accStaleCnt 1 } := by
  simp only [landKind, hk, hy, Option.map_some, Option.getD_some, decide_eq_true hg, if_true]

theorem landKind_partial {recv layer matrix : Nat} {ws : List LaWord} (hk : x.kind = .partial_ recv ws layer matrix)
    (hy : findPass s x.part x.pass = some y) (hg : y.gen ≤ x.gen) : landKind s x ecc = landRaise (landPartials s x.tile recv 0 ws) x := by
  simp only [landKind, hk, hy, Option.map_some, Option.getD_some, decide_eq_false (not_lt.mpr hg), Bool.false_eq_true, if_false]

theorem landKind_xfers (s : State) (x : Xfer) (ecc : Ecc) : (landKind s x ecc).xfers = s.xfers :=
  (landKind_keeps (F := { mcEv := true, dies := true, tiles := true, stackTab := true, engines := true, parts := true, entries := true
                          dram := true, releases := true, nextOp := true })
    (Keeps.refl _ s) x ecc rfl rfl rfl rfl rfl rfl rfl rfl rfl rfl).outside.xfers rfl

theorem dropStale_outside (s : State) (x : Xfer) : SameOutside { dies := true } s (dropStale s x) :=
  (dropStale_keeps (Keeps.refl _ s) x rfl).outside

/-! ### The obligation -/

/-- A transfer that lands in its order leaves the transfers in flight, whatever its tag. -/
theorem exec_transferLanded_xfers (hx : s.xfers.find? (fun y => y.id == id) = some x) (ho : inOrder s x = true) (ecc : Ecc) (coll now : Nat) :
    ∃ u, exec (.transferLanded id ecc coll now) s = .next u ∧ u.xfers = s.xfers.filter fun y => y.id != id := by
  have hout := crossed_outside s id now x
  by_cases ht : x.tag = (s.part x.part).tag
  · exact ⟨_, exec_lands hx ho ht ecc coll now, (landKind_xfers (arrived s id coll now x) x ecc).trans (hout.xfers rfl)⟩
  · exact ⟨_, exec_discards hx ho ht ecc coll now, ((dropStale_outside _ x).xfers rfl).trans (hout.xfers rfl)⟩

/-- Rows for free rows of a slot fill them, and a pull's release is owed to its source (R189, R196). -/
theorem landKind_fillsRows {rows : List (List Byte × Bool)} {base readers epoch : Nat} (hk : x.kind = .rows rows base true readers epoch)
    (h : RowsFree s x base 0 rows.length) : let u := landKind s x .clean
    u.releases = s.releases ++ x.pull.toList ∧
      (x.ctr = none → ∀ i (h : i < rows.length), rowOf (u.tile x.tile) (base + i) = rowWrite rows[i].1 epoch readers rows[i].2) := by
  intro u
  have hu : u = released (landRaise (landRows s x base true readers epoch 0 rows) x) x := landKind_rows hk
  rw [hu, released_releases, released_tile, landRaise_releases, landRows_releases]
  refine ⟨rfl, fun hc i hi => ?_⟩
  have hraise (v : State) : landRaise v x = v := by simp only [landRaise, hc]
  rw [hraise, landRows_rowOf rows (i := 0) (by rwa [Nat.zero_add]), dif_pos ⟨by omega, by omega⟩]
  simp only [Nat.add_zero, Nat.add_sub_cancel_left]

/-- Partial words of the pass's generation lie in their receive words, and the counter is raised once (R156). -/
theorem landPartials_raised (s : State) (x : Xfer) (recv : Nat) (ws : List LaWord) :
    let u := landRaise (landPartials s x.tile recv 0 ws) x
    (u.tile x.tile).accStaleCnt = (s.tile x.tile).accStaleCnt ∧
      (∀ i (h : i < ws.length), wordOf (u.tile x.tile) false (recv + i) = ws[i]) ∧
      (∀ ctr, x.ctr = some ctr → ctr < 48 → tget 0 (ctxOf s x.tile x.ctx).arr ctr ≠ 0xFFFF →
        tget 0 (ctxOf u x.tile x.ctx).arr ctr = tget 0 (ctxOf s x.tile x.ctx).arr ctr + 1) := by
  intro u
  have hraise := landRaise_raiseOnly (landPartials s x.tile recv 0 ws) x
  refine ⟨?_, fun i hi => ?_, fun ctr hc hlt hv => ?_⟩
  · rw [hraise.reads Tile.accStaleCnt fun _ => rfl]
    exact landPartials_sameTiles (π := Tile.accStaleCnt) (fun _ _ => rfl) x.tile recv ws s 0 x.tile
  · rw [hraise.reads (fun y => wordOf y false (recv + i)) fun _ => rfl, landPartials_wordOf, dif_pos ⟨by omega, by omega⟩]
    simp only [Nat.add_zero, Nat.add_sub_cancel_left]
  · have hctx : ctxOf (landPartials s x.tile recv 0 ws) x.tile x.ctx = ctxOf s x.tile x.ctx := by
      rw [ctxOf, landPartials_sameTiles (π := Tile.ctxs) fun _ _ => rfl]
      rfl
    have hu : u = raiseArr (landPartials s x.tile recv 0 ws) x.tile x.ctx ctr := by simp only [u, landRaise, hc]
    rw [hu, raiseArr_arr hlt (by rwa [hctx]), hctx]

/-- Settles O21, by the order, the tag and what the transfer carries. -/
theorem landingDeliversOrDiscards : Obligations.LandingDeliversOrDiscards := by
  unfold Obligations.LandingDeliversOrDiscards
  constructor
  · intro s id coll now ecc x hx left w v
    refine ⟨fun ho => ?_, fun ho => ⟨exec_transferLanded_xfers hx ho ecc coll now, fun ht => ?_, fun ht => ?_⟩⟩
    · rw [exec_transferLanded hx, ho, if_pos (by decide)]
    · have hd := dropStale_outside (crossed s id now x) x
      exact ⟨_, exec_discards hx ho ht ecc coll now, (hd.xfers rfl).trans ((crossed_outside s id now x).xfers rfl),
        (hd.tiles rfl).trans (crossed_tiles ..), (hd.parts rfl).trans (crossed_parts ..), (hd.dram rfl).trans (crossed_dram ..),
        (hd.entries rfl).trans (crossed_entries ..)⟩
    have hexec (ecc : Ecc) := exec_lands hx ho ht ecc coll now
    refine ⟨fun ctr hk hc => ?_, fun addr bytes hk hret => ?_, fun rows base readers epoch hk hpart hrows => ?_, ?_, ?_⟩
    · rw [hexec, landKind_signal hk hc]
      rfl
    · have hdram : (landKind (arrived s id coll now x) x ecc).dram = memWrite s.dram addr bytes := by
        rw [landKind_dram hk, landRaise_dram, dramWrite_dram ((arrived_granRetired ..).trans hret), arrived_dram]
      refine ⟨_, hexec ecc, hdram, fun b hb => ?_, ?_⟩
      · rw [hdram, memGet_memWrite_outside _ _ _ _ hb]
      · rw [hdram, memRead_memWrite]
    · have hfree : RowsFree (arrived s id coll now x) x base 0 rows.length := by
        refine ⟨(arrived_ctxOf ..).symm ▸ hpart, fun j _ hj => (arrived_ctxOf ..).symm ▸ (hrows j hj).1, fun j _ hj => ?_⟩
        have hfull := arrived_sameTiles (π := fun y => (rowOf y (base + j)).full) (fun _ _ => rfl) s id coll now x x.tile
        exact hfull.trans (hrows j hj).2
      obtain ⟨hreleases, hfilled⟩ := landKind_fillsRows hk hfree
      exact ⟨_, hexec .clean, hreleases.trans (congrArg (· ++ x.pull.toList) (arrived_releases ..)), hfilled⟩
    · intro entry pos pair isV elems scales carry y p a b hk hy hp hf hc hs hv ha hra hrb
      have hpage : tget {} ((arrived s id coll now x).entry entry).pages (pos / 64) = tget {} (s.entry entry).pages (pos / 64) := by
        rw [arrived_entry]
      obtain ⟨hdram, hheld⟩ := landKv_held (s := arrived s id coll now x) ((arrived_findPass ..).trans hy)
        ((kvOf_of_parts (arrived_parts ..) ..).trans hp) hf hc hs (hpage ▸ hv) ((kvAddrs_of_parts (arrived_parts ..) ..).trans (hpage ▸ ha))
        ((arrived_granRetired ..).trans hra) ((arrived_granRetired ..).trans hrb) elems scales carry
      have hkind : landKind (arrived s id coll now x) x ecc = landKv (arrived s id coll now x) x entry pos pair isV elems scales carry false := by
        simp only [landKind, hk]
      exact ⟨_, (hexec ecc).trans (congrArg _ hkind), by rw [hdram, arrived_dram], hheld⟩
    · intro entry pos pair isV elems scales carry bad hk hy
      have hkind : landKind (arrived s id coll now x) x ecc = arrived s id coll now x := by
        simp only [landKind, hk, landKv_gone ((arrived_findPass ..).trans hy)]
      exact ⟨_, (hexec ecc).trans (congrArg _ hkind), arrived_dram ..⟩
  · intro s id coll now ecc x y recv layer matrix ws hx ho ht hk hy
    have hy' : findPass (arrived s id coll now x) x.part x.pass = some y := (arrived_findPass ..).trans hy
    have htile {α : Type} (π : Tile → α) (hπ : ∀ y n, π { y with arbCollideCnt := n } = π y) :
        π ((arrived s id coll now x).tile x.tile) = π (s.tile x.tile) := arrived_sameTiles hπ s id coll now x x.tile
    refine ⟨fun hg => ⟨_, exec_lands hx ho ht ecc coll now, ?_⟩, fun hg => ⟨_, exec_lands hx ho ht ecc coll now, ?_⟩⟩
    · rw [landKind_stalePartial hk hy' hg, State.modTile_tile_self]
      exact ⟨congrArg (satAdd · 1) (htile Tile.accStaleCnt fun _ _ => rfl), htile Tile.basin fun _ _ => rfl⟩
    · rw [landKind_partial hk hy' hg]
      obtain ⟨hstale, hwords, hraised⟩ := landPartials_raised (arrived s id coll now x) x recv ws
      rw [arrived_ctxOf] at hraised
      exact ⟨hstale.trans (htile Tile.accStaleCnt fun _ _ => rfl), hwords, hraised⟩

end Sys2Proof.Machine
end

section
/-! SUPPORT. The order of the rank unit (R164, R165): values in a linear order, candidates ranked by a key, and what a top-k list keeps. -/

namespace Sys2Proof.Machine

/-! ### The order of values (R45) -/

/-- A finite value has a positive denominator. -/
def Val.Proper : Val → Prop
  | .fin _ _ d => 0 < d
  | _ => True

theorem magVal_proper (mb bias m : Nat) (neg : Bool) : (magVal mb bias m neg).Proper := by
  unfold magVal
  dsimp only
  split
  · exact Nat.two_pow_pos _
  · split
    · exact Nat.one_pos
    · exact Nat.two_pow_pos _

theorem decFP32_proper (c : Nat) : (decFP32 c).Proper := by
  unfold decFP32
  dsimp only
  split
  · trivial
  · split
    · trivial
    · exact magVal_proper ..

theorem decBF16_proper (c : Nat) : (decBF16 c).Proper := by
  unfold decBF16
  dsimp only
  split
  · trivial
  · split
    · trivial
    · exact magVal_proper ..

/-- The formats of the rank unit: FP32 and BF16 (R164). -/
theorem decElem_proper {f : Nat} (hf : f < 2) (c : Nat) : (decElem f c).Proper := by
  match f, hf with
  | 0, _ => exact decFP32_proper c
  | 1, _ => exact decBF16_proper c

/-- Where a value lies among the rationals and the two infinities. -/
def Val.place : Val → WithBot (WithTop ℚ)
  | .nan => ⊥
  | .inf true => ⊥
  | .inf false => (⊤ : WithTop ℚ)
  | .fin neg num den => (((if neg then -(num : ℚ) else num) / den : ℚ) : WithTop ℚ)

/-- The comparison of values is that of their places. -/
theorem Val.lt_iff_place {x y : Val} (hx : x.Proper) (hy : y.Proper) (hxn : x.isNan = false) (hyn : y.isNan = false) :
    Val.lt x y = true ↔ x.place < y.place := by
  match x, y with
  | .inf m, .inf n => cases m <;> cases n <;> simp [Val.lt, Val.place]
  | .inf m, .fin n c d => cases m <;> simp [Val.lt, Val.place]
  | .fin m a b, .inf true => simp [Val.lt, Val.place]
  | .fin m a b, .inf false => exact iff_of_true rfl (WithBot.coe_lt_coe.mpr (WithTop.coe_lt_top _))
  | .fin m a b, .fin n c d =>
    have hb : (0 : ℚ) < b := by exact_mod_cast (hx : 0 < b)
    have hd : (0 : ℚ) < d := by exact_mod_cast (hy : 0 < d)
    simp only [Val.lt, Val.place, decide_eq_true_eq, WithBot.coe_lt_coe, WithTop.coe_lt_coe, div_lt_div_iff₀ hb hd]
    rw [← @Int.cast_lt ℚ]
    cases m <;> cases n <;> simp

theorem Val.neg_proper {x : Val} (hx : x.Proper) : x.neg.Proper := by cases x <;> exact hx

theorem Val.isNan_neg (x : Val) : x.neg.isNan = x.isNan := by cases x <;> rfl

/-- A change of both signs turns a comparison round. -/
theorem Val.neg_lt_neg (x y : Val) : Val.lt y.neg x.neg = Val.lt x y := by
  match x, y with
  | .nan, .nan | .nan, .inf _ | .nan, .fin .. | .inf _, .nan | .fin .., .nan => rfl
  | .inf m, .inf n => cases m <;> cases n <;> rfl
  | .inf m, .fin n c d => cases m <;> rfl
  | .fin m a b, .inf n => cases n <;> rfl
  | .fin m a b, .fin n c d =>
    cases m <;> cases n <;> simp [Val.lt, Val.neg]
    · exact lt_neg
    · exact neg_lt

theorem Val.lt_swap {x y : Val} (h : Val.lt x y = true) : Val.lt y x = false := by
  match x, y with
  | .inf m, .inf n => cases m <;> cases n <;> simp_all [Val.lt]
  | .inf m, .fin n c d => simp_all [Val.lt]
  | .fin m a b, .inf n => simp_all [Val.lt]
  | .fin m a b, .fin n c d => exact decide_eq_false (lt_asymm (of_decide_eq_true h))

/-! ### Candidates by key (R164) -/

/-- The value of a candidate, with its sign changed where the largest ranks first. -/
def rankVal (f : Nat) (m : Bool) (c : Nat × Nat) : Val := if m then decElem f c.1 else (decElem f c.1).neg

theorem rankVal_isNan (f : Nat) (m : Bool) (c : Nat × Nat) : (rankVal f m c).isNan = (decElem f c.1).isNan := by
  cases m
  · exact Val.isNan_neg _
  · rfl

theorem rankVal_proper {f : Nat} (hf : f < 2) (m : Bool) (c : Nat × Nat) : (rankVal f m c).Proper := by
  cases m
  · exact Val.neg_proper (decElem_proper hf _)
  · exact decElem_proper hf _

/-- The key of a candidate: NaN last, then the value, then the position. -/
def rankKey (f : Nat) (m : Bool) (c : Nat × Nat) : Bool ×ₗ (WithBot (WithTop ℚ) ×ₗ Nat) :=
  toLex ((rankVal f m c).isNan, toLex (if (rankVal f m c).isNan then ⊥ else (rankVal f m c).place, c.2))

theorem rankKey_position {f : Nat} {m : Bool} {a b : Nat × Nat} (h : rankKey f m a = rankKey f m b) : a.2 = b.2 :=
  congrArg (fun k => (ofLex (ofLex k).2).2) h

/-- The rank unit compares values of either mode by their order, then positions. -/
theorem rankBefore_eq (f : Nat) (m : Bool) (a b : Nat × Nat) : rankBefore f m a b =
    if (rankVal f m a).isNan then (rankVal f m b).isNan && decide (a.2 < b.2)
    else if (rankVal f m b).isNan then true
    else if Val.lt (rankVal f m a) (rankVal f m b) then true
    else if Val.lt (rankVal f m b) (rankVal f m a) then false
    else decide (a.2 < b.2) := by
  simp only [rankVal_isNan]
  cases m
  · simp only [rankBefore, rankVal, Bool.false_eq_true, if_false, Val.neg_lt_neg, Bool.not_false]
    cases h : Val.lt (decElem f a.1) (decElem f b.1)
    · rfl
    · rw [Val.lt_swap h]
      rfl
  · rfl

/-- R165: the order is that of a linear order, so it is strict and total. -/
theorem rankBefore_iff_rankKey {f : Nat} (hf : f < 2) (m : Bool) (a b : Nat × Nat) :
    rankBefore f m a b = true ↔ rankKey f m a < rankKey f m b := by
  have hlt := Val.lt_iff_place (rankVal_proper hf m a) (rankVal_proper hf m b)
  have hgt := Val.lt_iff_place (rankVal_proper hf m b) (rankVal_proper hf m a)
  rw [rankBefore_eq, rankKey, rankKey, Prod.Lex.toLex_lt_toLex, Prod.Lex.toLex_lt_toLex]
  cases ha : (rankVal f m a).isNan <;> cases hb : (rankVal f m b).isNan
  · simp only [Bool.false_eq_true, if_false, lt_self_iff_false, false_or, true_and, hlt ha hb, hgt hb ha]
    rcases lt_trichotomy (rankVal f m a).place (rankVal f m b).place with h | h | h
    · simp [h]
    · simp [h]
    · simp [h, h.not_gt, h.ne']
  · simp
  · simp
  · simp

/-! ### Ranked lists -/

/-- A list in rank order. -/
def Ranked (f : Nat) (m : Bool) (l : List (Nat × Nat)) : Prop := l.Pairwise fun a b => rankKey f m a ≤ rankKey f m b

theorem rankInsert_perm (f : Nat) (m : Bool) (c : Nat × Nat) (l : List (Nat × Nat)) : (rankInsert f m c l).Perm (c :: l) := by
  induction l with
  | nil => rfl
  | cons d ds ih =>
    unfold rankInsert
    split
    · rfl
    · exact (ih.cons d).trans (.swap c d ds)

theorem rankInsert_ranked {f : Nat} (hf : f < 2) {m : Bool} (c : Nat × Nat) {l : List (Nat × Nat)} (h : Ranked f m l) :
    Ranked f m (rankInsert f m c l) := by
  induction l with
  | nil => exact List.pairwise_singleton _ _
  | cons d ds ih =>
    obtain ⟨hd, hds⟩ := List.pairwise_cons.mp h
    unfold rankInsert
    split
    case isTrue hc =>
      have hcd := ((rankBefore_iff_rankKey hf m c d).mp hc).le
      exact List.pairwise_cons.mpr ⟨List.forall_mem_cons.mpr ⟨hcd, fun x hx => hcd.trans (hd x hx)⟩, h⟩
    case isFalse hc =>
      have hdc := not_lt.mp (mt (rankBefore_iff_rankKey hf m c d).mpr hc)
      refine List.pairwise_cons.mpr ⟨fun x hx => ?_, ih hds⟩
      exact (List.forall_mem_cons (p := fun x => rankKey f m d ≤ rankKey f m x)).mpr ⟨hdc, hd⟩ x ((rankInsert_perm f m c ds).subset hx)

theorem rankInserts_perm (f : Nat) (m : Bool) (cs acc : List (Nat × Nat)) :
    (cs.foldl (fun acc c => rankInsert f m c acc) acc).Perm (cs ++ acc) := by
  induction cs generalizing acc with
  | nil => rfl
  | cons c cs ih => exact (ih _).trans (((rankInsert_perm f m c acc).append_left cs).trans List.perm_middle)

theorem rankSort_perm (f : Nat) (m : Bool) (cs : List (Nat × Nat)) : (rankSort f m cs).Perm cs :=
  (rankInserts_perm f m cs []).trans (.of_eq (List.append_nil cs))

theorem rankSort_ranked {f : Nat} (hf : f < 2) (m : Bool) (cs : List (Nat × Nat)) : Ranked f m (rankSort f m cs) :=
  List.foldlRecOn cs _ List.Pairwise.nil fun _ h c _ => rankInsert_ranked hf c h

/-- Candidates at distinct positions have one rank order. -/
theorem Ranked.unique {f : Nat} {m : Bool} {xs ys : List (Nat × Nat)} (hx : Ranked f m xs) (hy : Ranked f m ys) (h : xs.Perm ys)
    (hn : (xs.map Prod.snd).Nodup) : xs = ys :=
  List.Perm.eq_of_pairwise (fun _ _ ha hb hab hba => List.inj_on_of_nodup_map hn ha (h.mem_iff.mpr hb) (rankKey_position (hab.antisymm hba)))
    hx hy h

/-- R165: the rank order depends only on the set of candidates. -/
theorem rankSort_eq_of_perm {f : Nat} (hf : f < 2) (m : Bool) {cs ds : List (Nat × Nat)} (h : cs.Perm ds) (hn : (cs.map Prod.snd).Nodup) :
    rankSort f m cs = rankSort f m ds :=
  (rankSort_ranked hf m cs).unique (rankSort_ranked hf m ds) ((rankSort_perm f m cs).trans (h.trans (rankSort_perm f m ds).symm))
    (((rankSort_perm f m cs).map Prod.snd).nodup_iff.mpr hn)

/-! ### Top-k lists -/

/-- The first `k` after an insertion depend on the first `k` before it. -/
theorem rankInsert_take (f : Nat) (m : Bool) (c : Nat × Nat) (k : Nat) (l : List (Nat × Nat)) :
    (rankInsert f m c (l.take k)).take k = (rankInsert f m c l).take k := by
  induction l generalizing k with
  | nil => rw [List.take_nil]
  | cons d ds ih =>
    cases k with
    | zero => rfl
    | succ k =>
      simp only [List.take_succ_cons, rankInsert]
      split
      · cases k with
        | zero => rfl
        | succ k => simp [List.take_take]
      · rw [List.take_succ_cons, List.take_succ_cons, ih]

theorem rankInserts_take {f : Nat} {m : Bool} {k : Nat} (cs : List (Nat × Nat)) {acc acc' : List (Nat × Nat)} (h : acc.take k = acc'.take k) :
    (cs.foldl (fun acc c => rankInsert f m c acc) acc).take k = (cs.foldl (fun acc c => rankInsert f m c acc) acc').take k := by
  induction cs generalizing acc acc' with
  | nil => exact h
  | cons c cs ih => exact ih (by rw [← rankInsert_take, h, rankInsert_take])

/-- Of the candidates before others, the top-k list is enough for the top-k list of all. -/
theorem rankSort_take_append {f : Nat} (hf : f < 2) (m : Bool) (k : Nat) {xs : List (Nat × Nat)} (hn : (xs.map Prod.snd).Nodup)
    (ys : List (Nat × Nat)) : (rankSort f m ((rankSort f m xs).take k ++ ys)).take k = (rankSort f m (xs ++ ys)).take k := by
  have hr : Ranked f m ((rankSort f m xs).take k) := (rankSort_ranked hf m xs).sublist (List.take_sublist k _)
  have hn' : (((rankSort f m xs).take k).map Prod.snd).Nodup :=
    (((rankSort_perm f m xs).map Prod.snd).nodup_iff.mpr hn).sublist ((List.take_sublist k _).map Prod.snd)
  have hself : rankSort f m ((rankSort f m xs).take k) = (rankSort f m xs).take k :=
    ((hr.unique (rankSort_ranked hf m _) (rankSort_perm f m _).symm) hn').symm
  have happ (as : List (Nat × Nat)) : rankSort f m (as ++ ys) = ys.foldl (fun acc c => rankInsert f m c acc) (rankSort f m as) :=
    List.foldl_append
  rw [happ, happ, hself]
  exact rankInserts_take ys (by rw [List.take_take, Nat.min_self])

/-- The top-k lists of two sets of candidates rank as all the candidates do. -/
theorem rankSort_take_merge {f : Nat} (hf : f < 2) (m : Bool) (k : Nat) {cs ds : List (Nat × Nat)} (hn : ((cs ++ ds).map Prod.snd).Nodup) :
    (rankSort f m ((rankSort f m cs).take k ++ (rankSort f m ds).take k)).take k = (rankSort f m (cs ++ ds)).take k := by
  have hcs : (cs.map Prod.snd).Nodup := hn.sublist ((List.sublist_append_left cs ds).map Prod.snd)
  have hds : (ds.map Prod.snd).Nodup := hn.sublist ((List.sublist_append_right cs ds).map Prod.snd)
  have hmid : ((cs ++ (rankSort f m ds).take k).map Prod.snd).Nodup :=
    ((((rankSort_perm f m ds).append_left cs).map Prod.snd).nodup_iff.mpr hn).sublist
      (((List.take_sublist k _).append_left cs).map Prod.snd)
  calc (rankSort f m ((rankSort f m cs).take k ++ (rankSort f m ds).take k)).take k
      = (rankSort f m (cs ++ (rankSort f m ds).take k)).take k := rankSort_take_append hf m k hcs _
    _ = (rankSort f m ((rankSort f m ds).take k ++ cs)).take k := by rw [rankSort_eq_of_perm hf m List.perm_append_comm hmid]
    _ = (rankSort f m (ds ++ cs)).take k := rankSort_take_append hf m k hds _
    _ = (rankSort f m (cs ++ ds)).take k := by rw [rankSort_eq_of_perm hf m List.perm_append_comm hn]

/-- The rank unit's output is a function of the top-k list. -/
theorem rankUnit_congr {f k : Nat} {m : Bool} {cs ds : List (Nat × Nat)} (h : (rankSort f m cs).take k = (rankSort f m ds).take k) :
    rankUnit f k m cs = rankUnit f k m ds := by simp only [rankUnit, h]

end Sys2Proof.Machine
end

section
/-! SETTLED HERE: O8. The rank unit (R165). -/

namespace Sys2Proof.Machine

/-- Settles O8: candidates at distinct positions have one rank order, and a top-k list keeps all that the top-k list of more can take. -/
theorem rankDependsOnTheSetOnly : Obligations.RankDependsOnTheSetOnly := by
  unfold Obligations.RankDependsOnTheSetOnly
  intro f k m cs ds hf
  exact ⟨fun h hn => rankUnit_congr (congrArg (List.take k) (rankSort_eq_of_perm hf m h hn)),
    fun hn => rankUnit_congr (rankSort_take_merge hf m k hn)⟩

end Sys2Proof.Machine
end

section
/-! SUPPORT. Words of save areas (R169): what is read back of the bytes that a switch writes. -/

namespace Sys2Proof.Machine

/-! ### Bytes and rows (R12) -/

theorem toLe_length (k n : Nat) : (toLe k n).length = k := by
  induction k generalizing n with
  | zero => rfl
  | succ k ih => exact congrArg (· + 1) (ih _)

theorem leNat_toLe {k n : Nat} (h : n < 256 ^ k) : leNat (toLe k n) = n := by
  induction k generalizing n with
  | zero => rw [pow_zero] at h; exact (Nat.lt_one_iff.mp h).symm
  | succ k ih =>
    rw [toLe, leNat, ih (by rw [pow_succ] at h; omega), BitVec.toNat_ofNat]
    omega

theorem slice_whole {bs : List Byte} {k : Nat} (h : bs.length = k) : slice bs 0 k = bs := by simp [slice, ← h]

/-- A slice of parts of one length that begins with a part is that part. -/
theorem slice_flatten {n : Nat} : ∀ (ws : List (List Byte)), (∀ w ∈ ws, w.length = n) → ∀ j (hj : j < ws.length),
    slice ws.flatten (n * j) n = ws[j] := by
  intro ws h
  induction ws with
  | nil => intro j hj; exact absurd hj (Nat.not_lt_zero j)
  | cons w ws ih =>
    obtain ⟨hw, hws⟩ := List.forall_mem_cons.mp h
    intro j hj
    cases j with
    | zero => simp [slice, ← hw]
    | succ j =>
      have hdrop : (w :: ws).flatten.drop (n * (j + 1)) = ws.flatten.drop (n * j) := by
        rw [List.flatten_cons, Nat.mul_succ, Nat.add_comm, ← hw, List.drop_length_add_append]
      have : slice (w :: ws).flatten (n * (j + 1)) n = slice ws.flatten (n * j) n := by simp only [slice, hdrop]
      exact this.trans (ih hws j (Nat.lt_of_succ_lt_succ hj))

/-- A row gives back the 64 bytes it is written with. -/
theorem rowBytes_mkData {r : Row} {bs : List Byte} (hr : r.data = mkData bs) (h : bs.length = 64) : rowBytes r = bs := by
  rw [rowBytes, hr, mkData]
  split
  case isTrue hz =>
    have hzero : bs = List.replicate 64 0 := List.eq_replicate_iff.mpr ⟨h, by simpa using hz⟩
    rw [hzero]
    rfl
  case isFalse => rw [slice_whole h, slice_whole h]

/-! ### Basin words (R149) -/

theorem b2n_le_one (b : Bool) : b2n b ≤ 1 := by cases b <;> decide

/-- A word's value and its status bits fit in 112 bits. -/
theorem laWordNat_lt (v : LaWord) : laWordNat v < 2 ^ 112 := by
  obtain ⟨la, poison, sat, outl, fallback, confirm, err⟩ := v
  have hpoison := b2n_le_one poison
  have hsat := b2n_le_one sat
  have houtl := b2n_le_one outl
  have hfallback := b2n_le_one fallback
  have hconfirm := b2n_le_one confirm
  cases la with
  | nanMark => simp only [laWordNat]; omega
  | num a => simp only [laWordNat]; omega

/-- A Basin word fits in 128 bits. -/
theorem basinBits_lt (v : LaWord) : basinBits v < 256 ^ 16 := by
  have hw := laWordNat_lt v
  have he := (Config.secded (BitVec.ofNat 56 (everyOther (laWordNat v) 0))).isLt
  have ho := (Config.secded (BitVec.ofNat 56 (everyOther (laWordNat v) 1))).isLt
  unfold basinBits
  dsimp only
  omega

/-! ### Rows of a save area (R169) -/

/-- The 64 bytes of row `i` of a save area. -/
def saveBytes (x : Tile) (k : Ctx) (i : Nat) : List Byte := ((List.range 4).map fun j => toLe 16 (saveWord x k (4 * i + j))).flatten

theorem saveBytes_length (x : Tile) (k : Ctx) (i : Nat) : (saveBytes x k i).length = 64 := by
  simp [saveBytes, List.range_succ, toLe_length]

/-- Each of the four words of a row. -/
theorem leAt_saveBytes {x : Tile} {k : Ctx} {i j : Nat} (hj : j < 4) (hw : saveWord x k (4 * i + j) < 256 ^ 16) :
    leAt (saveBytes x k i) (16 * j) 16 = saveWord x k (4 * i + j) := by
  have hlen : j < ((List.range 4).map fun j => toLe 16 (saveWord x k (4 * i + j))).length := by simpa using hj
  have hwords : ∀ w ∈ (List.range 4).map fun j => toLe 16 (saveWord x k (4 * i + j)), w.length = 16 := by simp [toLe_length]
  rw [leAt, saveBytes, slice_flatten _ hwords j hlen]
  simp [leNat_toLe hw]

/-- The first `n` rows of a save area from row `b` on. -/
def saveAreaRows (x : Tile) (k : Ctx) (b n : Nat) (rs : Tab Row) : Tab Row :=
  (List.range n).foldl (fun rs i => tset {} rs (b + i) { tget {} rs (b + i) with data := mkData (saveBytes x k i) }) rs

theorem saveArea_of_sched {k : Ctx} {d : Sched} (h : k.sched = some d) (x : Tile) (rs : Tab Row) :
    saveArea x k rs = saveAreaRows x k d.saveRow 363 rs := by
  simp only [saveArea, h]
  rfl

theorem saveAreaRows_data (x : Tile) (k : Ctx) (b : Nat) (rs : Tab Row) {n i : Nat} (hi : i < n) :
    (tget {} (saveAreaRows x k b n rs) (b + i)).data = mkData (saveBytes x k i) := by
  induction n with
  | zero => exact absurd hi (Nat.not_lt_zero i)
  | succ n ih =>
    rw [saveAreaRows, List.range_succ, List.foldl_append, List.foldl_cons, List.foldl_nil]
    by_cases h : i = n
    · subst h
      rw [tget_tset_self]
    · rw [tget_tset_other _ (by omega)]
      exact ih (by omega)

/-- The CE cells of a context stand in its save area once it is written. -/
theorem savedBits_saveArea {x y : Tile} {k o : Ctx} {d : Sched} (hk : k.sched = some d) (ho : o.sched = some d)
    (hy : y.rows = saveArea x k x.rows) {w : Nat} (hw : w < 1024) : savedBits y o w = basinBits (tget {} x.cells w) := by
  have hword : saveWord x k (4 * (w / 4) + w % 4) = basinBits (tget {} x.cells w) := by
    rw [Nat.div_add_mod, saveWord, if_pos hw]
  have hdata : (rowOf y (saveBase o + w / 4)).data = mkData (saveBytes x k (w / 4)) := by
    rw [rowOf, hy, saveArea_of_sched hk, saveBase, ho]
    exact saveAreaRows_data x k d.saveRow x.rows (by omega)
  rw [savedBits, rowBytes_mkData hdata (saveBytes_length ..), leAt_saveBytes (Nat.mod_lt w (by decide)) (hword ▸ basinBits_lt _), hword]

end Sys2Proof.Machine
end

section
/-! SUPPORT. CONTEXT_SWITCH and PREEMPT (O23): the switch of a tile, and the switch that waits. -/

namespace Sys2Proof.Machine

variable {s : State} {t c o : Nat}

/-! ### The switch of a tile (R169, R171) -/

/-- What a switch makes of a tile that runs another context. -/
theorem saveCtx_running {x : Tile} (h : x.running = some o) : saveCtx x =
    { x with
      rows := saveArea x (tget {} x.ctxs o) x.rows
      ctxs := tmod {} x.ctxs o fun k => { k with cells := x.cells }
      cells := [], units := [], ctxSaveCnt := wrapAdd x.ctxSaveCnt 1 } := by simp only [saveCtx, h]

/-- The incoming context is not touched by the save. -/
theorem saveCtx_ctxs_other {x : Tile} (h : x.running = some o) (hoc : o ≠ c) : tget {} (saveCtx x).ctxs c = tget {} x.ctxs c := by
  simp only [saveCtx_running h]
  rw [tget_tmod_other _ hoc.symm]

/-- The outgoing context keeps its schedule. -/
theorem switched_sched {x : Tile} (h : x.running = some o) (hoc : o ≠ c) (fixed : Nat) (bad : List Nat) :
    (tget {} (restoreCtx (saveCtx x) c fixed bad).ctxs o).sched = (tget {} x.ctxs o).sched := by
  simp only [restoreCtx, tget_tset_other (α := Ctx) _ hoc, saveCtx_running h, tget_tmod_self]

/-- A switch writes the CE cells of the outgoing context into its save area. -/
theorem switched_savedBits {x : Tile} {d : Sched} (h : x.running = some o) (hoc : o ≠ c) (hd : (tget {} x.ctxs o).sched = some d)
    (fixed : Nat) (bad : List Nat) {w : Nat} (hw : w < 1024) :
    savedBits (restoreCtx (saveCtx x) c fixed bad) (tget {} (restoreCtx (saveCtx x) c fixed bad).ctxs o) w = basinBits (tget {} x.cells w) := by
  refine savedBits_saveArea hd ((switched_sched h hoc fixed bad).trans hd) ?_ hw
  simp only [restoreCtx, saveCtx_running h]

/-- The incoming context's CE cells come from its save area, poison where they could not be corrected. -/
theorem switched_cells {x : Tile} (h : x.running = some o) (hoc : o ≠ c) (fixed : Nat) (bad : List Nat) :
    (restoreCtx (saveCtx x) c fixed bad).cells =
      (bad.filter fun w => decide (w < 1024)).foldl (fun cs w => tmod {} cs w fun v => { v with poison := true })
        (savedCells (saveCtx x) (tget {} x.ctxs c)) := by
  simp only [restoreCtx]
  rw [saveCtx_ctxs_other h hoc]

theorem switched_counts {x : Tile} (h : x.running = some o) (fixed : Nat) (bad : List Nat) :
    let y := restoreCtx (saveCtx x) c fixed bad
    y.ctxSaveCnt = wrapAdd x.ctxSaveCnt 1 ∧ y.ctxRestoreCnt = wrapAdd x.ctxRestoreCnt 1 ∧ y.ctxFixCnt = satAdd x.ctxFixCnt fixed ∧
      y.ctxPoisonCnt = satAdd x.ctxPoisonCnt bad.length := by
  rw [saveCtx_running h]
  exact ⟨rfl, rfl, rfl, rfl⟩

/-! ### When a tile switches (R170) -/

/-- Context `c` is to take tile `t` from context `o`: another one, of a partition that runs, on a tile in service. -/
structure SwitchDue (s : State) (t c o : Nat) : Prop where
  running : (s.tile t).running = some o
  other : o ≠ c
  unfenced : (s.tile t).fenced = false
  owned : (ctxOf s t c).part.isSome = true
  serves : (s.part (ctxPart (ctxOf s t c))).state = .running

/-- What holds a switch back: a combine, a check of the outgoing schedule, or a repeat. -/
def switchWaits (x : Tile) : Bool := x.combining || checksQueued x || repeatRuns x

theorem SwitchDue.goes (h : SwitchDue s t c o) : ((s.tile t).fenced || (s.part (ctxPart (ctxOf s t c))).state != .running ||
    (ctxOf s t c).part.isNone || (s.tile t).running == some c) = false := by
  have howned : (ctxOf s t c).part.isNone = false := by rw [← Option.not_isSome, h.owned]; rfl
  have hother : (some o == some c) = false := by simpa using h.other
  rw [h.unfenced, h.serves, howned, h.running, hother]
  rfl

/-- A switch that nothing holds back. -/
theorem SwitchDue.switchTo_tile (h : SwitchDue s t c o) (hw : switchWaits (s.tile t) = false) (fixed : Nat) (bad : List Nat) :
    (switchTo s t c fixed bad).tile t = restoreCtx (saveCtx (s.tile t)) c fixed bad := by
  have hw' : ((s.tile t).combining || checksQueued (s.tile t) || repeatRuns (s.tile t)) = false := hw
  unfold switchTo
  dsimp only
  rw [if_neg (ne_true_of_eq_false h.goes), if_neg (ne_true_of_eq_false hw')]
  split
  · exact State.modTile_tile_self ..
  · rw [reportTile, report_tile, poisonPass_tile]
    exact State.modTile_tile_self ..

/-- The outgoing context's CE cells stand in its save area. -/
theorem SwitchDue.savedBits {d : Sched} (h : SwitchDue s t c o) (hw : switchWaits (s.tile t) = false)
    (hd : (ctxOf s t o).sched = some d) (fixed : Nat) (bad : List Nat) {w : Nat} (hw' : w < 1024) :
    savedBits ((switchTo s t c fixed bad).tile t) (ctxOf (switchTo s t c fixed bad) t o) w = basinBits (tget {} (s.tile t).cells w) := by
  rw [ctxOf, h.switchTo_tile hw]
  exact switched_savedBits h.running h.other hd fixed bad hw'

/-- One that waits leaves the outgoing context on the tile, and no boundary at which it goes on. -/
theorem SwitchDue.switchTo_waits (h : SwitchDue s t c o) (hw : switchWaits (s.tile t) = true) (fixed : Nat) (bad : List Nat) :
    ((switchTo s t c fixed bad).tile t).running = some o ∧ ∀ cd us, issues (switchTo s t c fixed bad) t o cd us = false := by
  have htile : (switchTo s t c fixed bad).tile t =
      { s.tile t with switchPending := true, switching := true, switchTarget := some c } := by
    have hw' : ((s.tile t).combining || checksQueued (s.tile t) || repeatRuns (s.tile t)) = true := hw
    unfold switchTo
    dsimp only
    rw [if_neg (ne_true_of_eq_false h.goes), if_pos hw']
    exact State.modTile_tile_self ..
  refine ⟨?_, fun cd us => ?_⟩
  · rw [htile]
    exact h.running
  · simp [issues, htile]

/-! ### The commands -/

theorem exec_contextSwitch (ht : t < 1280) (hc : c < 15) (fixed now : Nat) (bad : List Nat) (s : State) :
    exec (.contextSwitch t c fixed bad now) s = .next (switchTo (s.setNow now) t c fixed bad) := guarded_ok (okSite ht hc) _

/-- R265: a class-0 pass takes the tile from a class-2 or class-3 one. -/
theorem exec_preempt (ht : t < 1280) (hc : c < 15) (hr : (s.tile t).running = some o)
    (hp : (s.part (ctxPart (ctxOf s t c))).serv.preempt = true) (hin : ctxClass s (ctxOf s t c) = some 0) {cl : Nat}
    (hout : ctxClass s (ctxOf s t o) = some cl) (hcl : 2 ≤ cl) (fixed now : Nat) (bad : List Nat) :
    exec (.preempt t c fixed bad now) s = .next (switchTo (s.setNow now) t c fixed bad) := by
  have hout' : (((s.setNow now).tile t).running.map (ctxOf (s.setNow now) t)).bind (ctxClass (s.setNow now)) = some cl := by
    rw [State.setNow_tile', hr]
    exact hout
  have hin' : ctxClass (s.setNow now) (ctxOf (s.setNow now) t c) = some 0 := hin
  have hp' : ((s.setNow now).part (ctxPart (ctxOf (s.setNow now) t c))).serv.preempt = true := hp
  refine (guarded_ok (okSite ht hc) _).trans (congrArg Host.Outcome.next ?_)
  simp only [hout', hin', hp', hcl, decide_true, beq_self_eq_true, Bool.and_self, if_true]

end Sys2Proof.Machine
end

section
/-! SUPPORT. ENGINE_COMPLETION (O23): what a completion leaves, and the errors that it finds. -/

namespace Sys2Proof.Machine

variable {γ : Type} {s : State} {t c : Nat}

/-! ### Dies under reports and SHORT tiles (R92, R468) -/

/-- What a die reads apart from its queue of events outlasts a report. -/
theorem report_die_reads {π : Die → γ} (hπ : ∀ d e, π { d with ev := e } = π d) (s : State) (die block cls : Nat) (part : Option Nat)
    (fields : List (Nat × Nat)) (j : Nat) : π ((report s die block cls part fields).die j) = π (s.die j) := by
  unfold report
  dsimp only
  split
  · rfl
  · by_cases h : j = die
    · rw [h, State.modDie_die_self, hπ]
    · rw [State.modDie_die_other s h]

theorem shortTile_tile (s : State) (t j : Nat) : (shortTile s t).tile j = s.tile j :=
  SameTiles.of_tiles (π := id) ((shortTile_keeps (F := { fm := true, dies := true }) (Keeps.refl _ s) t rfl rfl).outside.tiles rfl) j

theorem queueRelocs_die (ps : List Nat) (s : State) (j : Nat) : (ps.foldl queueReloc s).die j = s.die j := by
  induction ps generalizing s with
  | nil => rfl
  | cons p ps ih =>
    refine (ih _).trans ?_
    unfold queueReloc
    split <;> rfl

/-- What a die reads apart from its count of SHORT tiles outlasts another one. -/
theorem shortTile_die_reads {π : Die → γ} (hπ : ∀ d n, π { d with shortTiles := n } = π d) (s : State) (t j : Nat) :
    π ((shortTile s t).die j) = π (s.die j) := by
  unfold shortTile
  dsimp only
  rw [queueRelocs_die]
  split
  · rfl
  · by_cases h : j = tileDie t
    · rw [h, State.modDie_die_self, hπ]
    · rw [State.modDie_die_other s h]

@[simp] theorem modTileDie_tile (s : State) (t : Nat) (f : Die → Die) (j : Nat) : (modTileDie s t f).tile j = s.tile j := rfl

@[simp] theorem modTileDie_die_self (s : State) (t : Nat) (f : Die → Die) : (modTileDie s t f).die (tileDie t) = f (s.die (tileDie t)) :=
  State.modDie_die_self ..

@[simp] theorem poisonCtx_tile (s : State) (t c j : Nat) : (poisonCtx s t c).tile j = s.tile j := poisonPass_tile ..

@[simp] theorem poisonCtx_die (s : State) (t c j : Nat) : (poisonCtx s t c).die j = s.die j := poisonPass_die ..

@[simp] theorem modTileDie_ctxOf (s : State) (t : Nat) (f : Die → Die) (u c : Nat) : ctxOf (modTileDie s t f) u c = ctxOf s u c := rfl

/-- The pass that a context serves fails, and keeps its first reason (R451). -/
theorem poisonCtx_findPass {u : State} {id : Nat} (hctx : ctxOf u t c = ctxOf s t c) (hparts : u.parts = s.parts)
    (h : (ctxOf s t c).pass = some id) : findPass (poisonCtx u t c) (ctxPart (ctxOf s t c)) id =
      (findPass s (ctxPart (ctxOf s t c)) id).map fun x => { x with poison := some (x.poison.getD reasonPassFailed) } := by
  rw [poisonCtx, hctx, h, poisonPass_findPass, findPass_of_parts hparts]

/-! ### Scratchpad parity errors (R457) -/

/-- The error is counted, and the data delivered is poison. -/
def parityCounted (s : State) (t c : Nat) : State := modTileDie (poisonCtx s t c) t fun d => { d with spadPar := satAdd d.spadPar 1 }

theorem parityCounted_tile (s : State) (t c j : Nat) : (parityCounted s t c).tile j = s.tile j := poisonCtx_tile ..

theorem parityCounted_die (s : State) (t c : Nat) : (parityCounted s t c).die (tileDie t) =
    { s.die (tileDie t) with spadPar := satAdd (s.die (tileDie t)).spadPar 1 } := by
  rw [parityCounted, modTileDie_die_self, poisonCtx_die]

/-- The first error of a row makes it suspect. -/
theorem spadParity_first {row : Nat} (h : (rowOf (s.tile t) row).suspect = false) (c : Nat) : spadParity s t c row =
    (parityCounted s t c).modTile t fun x => { x with rows := tmod {} x.rows row fun r => { r with suspect := true } } := by
  unfold spadParity
  dsimp only
  rw [if_pos (by simp [h])]
  rfl

/-- A suspect row with another error is mapped out while a spare row is left. -/
theorem spadParity_mapped {row : Nat} (h : (rowOf (s.tile t) row).suspect = true) (hs : (s.tile t).spareRows < 256) (c : Nat) :
    spadParity s t c row = reportTile (modTileDie ((parityCounted s t c).modTile t fun x =>
        { x with rows := tmod {} x.rows row fun r => { r with suspect := false }, spareRows := x.spareRows + 1 }) t
      fun d => { d with spadMapout := satAdd d.spadMapout 1 }) t evRowMappedOut none (unitPay t .spadRow row) := by
  unfold spadParity
  dsimp only
  rw [if_neg (by simp [h]), if_pos (by simpa using hs)]
  rfl

/-- The row that is listed as lost. -/
def loseRow (row : Nat) (x : Tile) : Tile :=
  { x with spadShort := true, rowsLost := if x.rowsLost.contains row then x.rowsLost else x.rowsLost ++ [row] }

theorem mem_rowsLost_loseRow (row : Nat) (x : Tile) : row ∈ (loseRow row x).rowsLost := by
  unfold loseRow
  dsimp only
  split
  case isTrue h => simpa using h
  case isFalse => simp

/-- With no spare row left it is lost. -/
theorem spadParity_lost {row : Nat} (h : (rowOf (s.tile t) row).suspect = true) (hs : 256 ≤ (s.tile t).spareRows) (c : Nat) :
    spadParity s t c row = (shortTile (parityCounted s t c) t).modTile t (loseRow row) := by
  unfold spadParity
  dsimp only
  rw [if_neg (by simp [h]), if_neg (by simpa using hs)]
  rfl

/-- Every parity error is counted on the die. -/
theorem spadParity_spadPar (s : State) (t c row : Nat) :
    ((spadParity s t c row).die (tileDie t)).spadPar = satAdd (s.die (tileDie t)).spadPar 1 := by
  have hcount : ((parityCounted s t c).die (tileDie t)).spadPar = satAdd (s.die (tileDie t)).spadPar 1 := by rw [parityCounted_die]
  cases h : (rowOf (s.tile t) row).suspect
  · rw [spadParity_first h]
    exact hcount
  · by_cases hs : (s.tile t).spareRows < 256
    · rw [spadParity_mapped h hs, reportTile, report_die_reads (π := Die.spadPar) (fun _ _ => rfl), modTileDie_die_self]
      exact hcount
    · rw [spadParity_lost h (Nat.not_lt.mp hs)]
      exact (shortTile_die_reads (π := Die.spadPar) (fun _ _ => rfl) _ t _).trans hcount

/-- What a parity error makes of its row, by the row's mark and the spares that are left. -/
theorem spadParity_outcomes (s : State) (t c row : Nat) :
    let v := spadParity s t c row
    ((rowOf (s.tile t) row).suspect = false → (rowOf (v.tile t) row).suspect = true ∧ (v.tile t).spareRows = (s.tile t).spareRows) ∧
    ((rowOf (s.tile t) row).suspect = true → (s.tile t).spareRows < 256 → (rowOf (v.tile t) row).suspect = false ∧
      (v.tile t).spareRows = (s.tile t).spareRows + 1 ∧
      (v.die (tileDie t)).spadMapout = satAdd (s.die (tileDie t)).spadMapout 1) ∧
    ((rowOf (s.tile t) row).suspect = true → 256 ≤ (s.tile t).spareRows → (v.tile t).spadShort = true ∧ row ∈ (v.tile t).rowsLost) := by
  intro v
  refine ⟨fun h => ?_, fun h hs => ?_, fun h hs => ?_⟩
  · rw [show v = _ from spadParity_first h c, State.modTile_tile_self, parityCounted_tile]
    exact ⟨by simp [rowOf], rfl⟩
  · rw [show v = _ from spadParity_mapped h hs c, reportTile, report_tile, modTileDie_tile, State.modTile_tile_self, parityCounted_tile,
      report_die_reads (π := Die.spadMapout) (fun _ _ => rfl), modTileDie_die_self, State.modTile_die', parityCounted_die]
    exact ⟨by simp [rowOf], rfl, rfl⟩
  · rw [show v = _ from spadParity_lost h hs c, State.modTile_tile_self]
    exact ⟨rfl, mem_rowsLost_loseRow row _⟩

/-! ### Basin words (R458) -/

/-- A corrected error is counted. -/
def fixCounted (s : State) (t : Nat) : State := modTileDie s t fun d => { d with basinCe := satAdd d.basinCe 1 }

/-- A word whose error reappears is mapped out while a spare word is left. -/
theorem basinFix_mapped (h : (s.tile t).basinSpares < 256) (word : Nat) : basinFix s t word true =
    reportTile (modTileDie ((fixCounted s t).modTile t fun x => { x with basinSpares := x.basinSpares + 1 }) t
      fun d => { d with basinMapout := satAdd d.basinMapout 1 }) t evRowMappedOut none (unitPay t .basinWord word) := by
  unfold basinFix
  dsimp only
  rw [if_neg (by simp), if_pos (by simpa using h)]
  rfl

/-- With no spare word left it is lost. -/
def wordLost (s : State) (t : Nat) : State := (fixCounted s t).modTile t fun x => { x with basinLost := x.basinLost + 1 }

/-- A tile that has lost words that its schedules use is SHORT. -/
theorem basinFix_lost (h : 256 ≤ (s.tile t).basinSpares) (word : Nat) : basinFix s t word true =
    if 16384 < (s.tile t).basinWords + ((s.tile t).basinLost + 1) then
      (shortTile (wordLost s t) t).modTile t fun x => { x with short := true }
    else wordLost s t := by
  have hwords : ((wordLost s t).tile t).basinWords = (s.tile t).basinWords := by rw [wordLost, State.modTile_tile_self]; rfl
  have hlost : ((wordLost s t).tile t).basinLost = (s.tile t).basinLost + 1 := by rw [wordLost, State.modTile_tile_self]; rfl
  unfold basinFix
  dsimp only
  rw [if_neg (by simp), if_neg (by simpa using h)]
  change (if 16384 < ((wordLost s t).tile t).basinWords + ((wordLost s t).tile t).basinLost then _ else wordLost s t) = _
  rw [hwords, hlost]
  rfl

theorem basinFix_basinCe (s : State) (t word : Nat) (r : Bool) :
    ((basinFix s t word r).die (tileDie t)).basinCe = satAdd (s.die (tileDie t)).basinCe 1 := by
  have hcount : ((fixCounted s t).die (tileDie t)).basinCe = satAdd (s.die (tileDie t)).basinCe 1 := by
    rw [fixCounted, modTileDie_die_self]
  cases r
  · exact hcount
  · by_cases hs : (s.tile t).basinSpares < 256
    · rw [basinFix_mapped hs, reportTile, report_die_reads (π := Die.basinCe) (fun _ _ => rfl), modTileDie_die_self]
      exact hcount
    · rw [basinFix_lost (Nat.not_lt.mp hs)]
      split
      · exact (shortTile_die_reads (π := Die.basinCe) (fun _ _ => rfl) _ t _).trans hcount
      · exact hcount

/-- What a corrected error leaves of the tile's spare words, by whether it reappears. -/
theorem basinFix_outcomes (s : State) (t word : Nat) (r : Bool) :
    let v := basinFix s t word r
    (r = false → (v.tile t).basinSpares = (s.tile t).basinSpares) ∧
    (r = true → (s.tile t).basinSpares < 256 → (v.tile t).basinSpares = (s.tile t).basinSpares + 1 ∧
      (v.die (tileDie t)).basinMapout = satAdd (s.die (tileDie t)).basinMapout 1) ∧
    (r = true → 256 ≤ (s.tile t).basinSpares → (v.tile t).basinLost = (s.tile t).basinLost + 1 ∧
      (16384 < (s.tile t).basinWords + (s.tile t).basinLost + 1 → (v.tile t).short = true)) := by
  intro v
  refine ⟨fun hr => ?_, fun hr h => ?_, fun hr h => ?_⟩ <;> subst hr
  · rfl
  · rw [show v = _ from basinFix_mapped h word, reportTile, report_tile, modTileDie_tile, State.modTile_tile_self,
      report_die_reads (π := Die.basinMapout) (fun _ _ => rfl), modTileDie_die_self, State.modTile_die', fixCounted, modTileDie_die_self]
    exact ⟨rfl, rfl⟩
  · have hlost : ((wordLost s t).tile t).basinLost = (s.tile t).basinLost + 1 := by rw [wordLost, State.modTile_tile_self]; rfl
    rw [show v = _ from basinFix_lost h word]
    split
    case isTrue =>
      rw [State.modTile_tile_self, shortTile_tile]
      exact ⟨hlost, fun _ => rfl⟩
    case isFalse hw => exact ⟨hlost, fun hw' => absurd hw' hw⟩

/-! ### The command (R179, R194) -/

/-- Accesses have coincided (R194) and the instruction has left the list of those in flight. -/
def ended (s : State) (t coll now : Nat) (q : InFlight) : State :=
  ((s.setNow now).modTile t fun x => { x with arbCollideCnt := wrapAdd x.arbCollideCnt coll }).modTile t (endFlight q)

theorem ended_tile (s : State) (t coll now : Nat) (q : InFlight) : (ended s t coll now q).tile t =
    { s.tile t with
      arbCollideCnt := wrapAdd (s.tile t).arbCollideCnt coll
      inFlight := (s.tile t).inFlight.erase q, combining := (s.tile t).combining && !q.combine } := by
  rw [ended, State.modTile_tile_self, State.modTile_tile_self]
  rfl

theorem ended_ctxOf (s : State) (t coll now : Nat) (q : InFlight) (c : Nat) : ctxOf (ended s t coll now q) t c = ctxOf s t c := by
  rw [ctxOf, ended_tile]
  rfl

/-- What a completion leaves, by what it finds: a residue mismatch keeps the instruction in flight (R454). -/
def completed (s : State) (t coll now : Nat) (q : InFlight) : EngineFinding → State
  | .ok => ended s t coll now q
  | .residueMismatch u i => ((s.setNow now).modTile t fun x => { x with arbCollideCnt := wrapAdd x.arbCollideCnt coll }).modTile t
      fun x => { x with residuePending := x.residuePending ++ [(u, i, q.id)] }
  | .spadParity row => spadParity (ended s t coll now q) t q.ctx row
  | .basinCorrected w r => basinFix (ended s t coll now q) t w r
  | .basinUncorrectable w => poisonCtx (modTileDie ((ended s t coll now q).modTile t fun x =>
      putWord x false w { wordOf x false w with poison := true }) t fun d => { d with basinUe := satAdd d.basinUe 1 }) t q.ctx

/-- A completion is that of the engine's oldest instruction whose work is done. -/
theorem exec_engineCompletion {e : Engine} {q : InFlight} (ht : t < 1280)
    (hq : (s.tile t).inFlight.find? (fun q => q.engine == e && workDone (s.tile t) q) = some q) (coll now : Nat) (finding : EngineFinding) :
    exec (.engineCompletion t e finding coll now) s = .next (completed s t coll now q finding) := by
  have hok : instrWellFormed (.engineCompletion t e finding coll now) = true := decide_eq_true ht
  refine (guarded_ok hok _).trans (congrArg Host.Outcome.next ?_)
  simp only [State.setNow_tile', hq]
  cases finding <;> rfl

/-- A residue mismatch waits for its repeat. -/
theorem completed_residueMismatch_tile (s : State) (t coll now : Nat) (q : InFlight) (u : UnitKind) (i : Nat) :
    (completed s t coll now q (.residueMismatch u i)).tile t = { s.tile t with
      arbCollideCnt := wrapAdd (s.tile t).arbCollideCnt coll, residuePending := (s.tile t).residuePending ++ [(u, i, q.id)] } := by
  rw [completed, State.modTile_tile_self, State.modTile_tile_self]
  rfl

/-- An uncorrectable word turns poison and keeps its value. -/
theorem completed_basinUncorrectable_tile (s : State) (t coll now : Nat) (q : InFlight) (w : Nat) :
    (completed s t coll now q (.basinUncorrectable w)).tile t =
      putWord ((ended s t coll now q).tile t) false w { wordOf (s.tile t) false w with poison := true } := by
  rw [completed, poisonCtx_tile, modTileDie_tile, State.modTile_tile_self, ended_tile]
  rfl

theorem completed_basinUncorrectable_basinUe (s : State) (t coll now : Nat) (q : InFlight) (w : Nat) :
    ((completed s t coll now q (.basinUncorrectable w)).die (tileDie t)).basinUe = satAdd (s.die (tileDie t)).basinUe 1 := by
  rw [completed, poisonCtx_die, modTileDie_die_self]
  rfl

/-- And the pass of its context fails. -/
theorem completed_basinUncorrectable_findPass {id : Nat} {q : InFlight} (h : (ctxOf s t q.ctx).pass = some id) (coll now w : Nat) :
    findPass (completed s t coll now q (.basinUncorrectable w)) (ctxPart (ctxOf s t q.ctx)) id =
      (findPass s (ctxPart (ctxOf s t q.ctx)) id).map fun x => { x with poison := some (x.poison.getD reasonPassFailed) } := by
  rw [completed]
  refine poisonCtx_findPass ?_ rfl h
  rw [modTileDie_ctxOf, modTile_ctxOf t _ rfl, ended_ctxOf]

end Sys2Proof.Machine
end

section
/-! SETTLED HERE: O23. CONTEXT_SWITCH, PREEMPT (R169 to R171, R265) and ENGINE_COMPLETION (R179, R454, R457, R458). -/

namespace Sys2Proof.Machine

/-- Settles O23: a switch by what the tile is when it comes, a completion by what it finds. -/
theorem contextSwitchesAndCompletions : Obligations.ContextSwitchesAndCompletions := by
  unfold Obligations.ContextSwitchesAndCompletions
  constructor
  · intro s t c o now fixed bad x d ht hc hx hr hoc hf ho hs hd waits
    subst hx
    have due : SwitchDue (s.setNow now) t c o := ⟨hr, hoc, hf, ho, hs⟩
    have hexec := exec_contextSwitch ht hc fixed now bad s
    refine ⟨fun hw => ⟨_, hexec, ?_⟩, fun hw => ⟨_, hexec, due.switchTo_waits hw fixed bad⟩, fun hw hp hin ⟨cl, hout, hcl⟩ => ?_⟩
    · have htile := due.switchTo_tile hw fixed bad
      refine ⟨congrArg Tile.running htile, congrArg Tile.switchPending htile, fun w => due.savedBits hw hd fixed bad,
        (congrArg Tile.cells htile).trans (switched_cells hr hoc fixed bad), ?_⟩
      rw [htile]
      exact switched_counts hr fixed bad
    · refine ⟨_, exec_preempt ht hc hr hp hin hout hcl fixed now bad, ?_, fun w => due.savedBits hw hd fixed bad⟩
      exact congrArg Tile.running (due.switchTo_tile hw fixed bad)
  · intro s t now coll e q ht hq d x y p
    have hexec := exec_engineCompletion ht hq coll now
    refine ⟨⟨_, hexec .ok, rfl, rfl, ended_tile ..⟩, fun u i => ⟨_, hexec _, completed_residueMismatch_tile ..⟩,
      fun w => ⟨_, hexec _, ?_⟩, fun w r => ⟨_, hexec _, basinFix_basinCe .., ?_⟩, fun row => ⟨_, hexec _, spadParity_spadPar .., ?_⟩⟩
    · refine ⟨?_, ?_, ?_, completed_basinUncorrectable_basinUe .., fun id z hid hz => ?_⟩
      · rw [completed_basinUncorrectable_tile, ended_tile]
        rfl
      · rw [completed_basinUncorrectable_tile]
        simp [wordOf, putWord]
      · rw [completed_basinUncorrectable_tile]
        simp [wordOf, putWord, x]
      · exact ⟨_, (completed_basinUncorrectable_findPass hid coll now w).trans (congrArg _ hz), rfl⟩
    · have hfix := basinFix_outcomes (ended s t coll now q) t w r
      rw [ended_tile] at hfix
      exact hfix
    · have hrow := spadParity_outcomes (ended s t coll now q) t q.ctx row
      rw [ended_tile] at hrow
      exact hrow

end Sys2Proof.Machine
end

section
/-! SUPPORT. Instructions and their tiles (O5): a scrub read of one tile whose trouble response reaches another. -/

namespace Sys2Proof.Machine

/-- Pass 5 of partition 0 ran on Tarn 0 of tile 0, which carries a part of layer 1, and context 0 of tile 1 serves it. -/
def scrubWitness : State where
  parts := [(0, { tiles := [0, 1], passes := [{ id := 5, slot := 0, entry := 0, item := 0, pos := 0, token := 0 }] })]
  tiles := [(0, { tarns := [(0, { layer := 1, ranSince := [(0, 5)] })] }), (1, { ctxs := [(0, { part := some 0, pass := some 5 })] })]

/-- The check word of row 0 of the Tarn of tile 0 does not fit what the row reads back (R462), and the pass restarts on tile 1 (R128, R463). -/
theorem scrub_restarts_on_another_tile : ∃ u, exec (.tarnScrubRead 0 0 0 1 0) scrubWitness = .next u ∧
    (ctxOf scrubWitness 1 0).gen = 0 ∧ (ctxOf u 1 0).gen = 1 := ⟨_, rfl, by decide +kernel, by decide +kernel⟩

/-- Refutes O5: its first clause counts TARN_SCRUB_READ among the commands that change no other tile, but a row that reads back wrong restarts the
uncommitted passes that ran on the Tarn (R463), in their contexts on every tile of their partition. -/
theorem not_instructionsStayOnTheirTile : ¬ Obligations.InstructionsStayOnTheirTile := by
  unfold Obligations.InstructionsStayOnTheirTile
  intro h
  obtain ⟨u, hu, h0, h1⟩ := scrub_restarts_on_another_tile
  have hsame : u.tile 1 = scrubWitness.tile 1 := (h _ _ _ hu).1 0 rfl 1 (by decide)
  have : (ctxOf u 1 0).gen = (ctxOf scrubWitness 1 0).gen := by rw [ctxOf, ctxOf, hsame]
  omega

end Sys2Proof.Machine
end

section
/-! SUPPORT. What faults of a schedule and transfers that leave do to the state, and what the routes between dies depend on. -/

namespace Sys2Proof.Machine

variable {s u : State} {t c : Nat}

/-- A pass that consumes poison changes the passes of its partition alone. -/
theorem poisonPass_part {α : Type} {π : Part → α} (hπ : ∀ q ps rs, π { q with passes := ps, recomps := rs } = π q) (s : State) (p : Nat)
    (i : Option Nat) (reason q : Nat) : π ((poisonPass s p i reason).part q) = π (s.part q) := by
  cases i with
  | none => rfl
  | some id =>
    by_cases h : q = p
    · rw [h]
      exact (congrArg π (State.modPart_part_self ..)).trans (hπ ..)
    · exact congrArg π (State.modPart_part_other s h _)

/-! ### Faults of a schedule (R185, R193) -/

@[simp] theorem modSlot_tile (s : State) (p k : Nat) (f : ImgSlot → ImgSlot) (j : Nat) : (s.modSlot p k f).tile j = s.tile j := rfl

/-- A fault of a schedule is counted on its tile, and changes nothing else of it. -/
theorem schedFault_tile (s : State) (t p k : Nat) (pass : Option Nat) (slot row kind : Nat) :
    (schedFault s t p k pass slot row kind).tile t = { s.tile t with schedFaultCnt := satAdd (s.tile t).schedFaultCnt 1 } := by
  unfold schedFault reportTile
  rw [report_tile, modSlot_tile, State.modTile_tile_self, poisonPass_tile]

/-- The pass of a fault of its schedule fails with SCHED_FAULT, unless it has failed before. -/
theorem schedFault_findPass (s : State) (t p k id slot row kind : Nat) : findPass (schedFault s t p k (some id) slot row kind) p id =
    (findPass s p id).map fun x => { x with poison := some (x.poison.getD reasonSchedFault) } := by
  unfold schedFault reportTile
  rw [findPass_report, findPass_modSlot, findPass_of_parts (State.modTile_parts ..), poisonPass_findPass]

/-- What a fault of a schedule leaves of the state: everything but events, dies, its tile and its partition. -/
theorem schedFault_outside (s : State) (t p k : Nat) (pass : Option Nat) (slot row kind : Nat) :
    SameOutside { mcEv := true, dies := true, tiles := true, parts := true } s (schedFault s t p k pass slot row kind) :=
  (schedFault_keeps (Keeps.refl _ s) t p k pass slot row kind rfl rfl rfl rfl).outside

/-- A fault of a schedule leaves every row of every tile, and every context. -/
theorem schedFault_sameTiles {α : Type} {π : Tile → α} (hπ : ∀ y n, π { y with schedFaultCnt := n } = π y) (s : State) (t p k : Nat)
    (pass : Option Nat) (slot row kind : Nat) : SameTiles π s (schedFault s t p k pass slot row kind) := by
  intro j
  unfold schedFault reportTile
  rw [report_tile, modSlot_tile]
  exact (SameTiles.modTile _ t fun _ => hπ ..) j |>.trans (congrArg π (poisonPass_tile ..))

/-- An access fault is counted twice on its tile, as an access and as a fault of its schedule. -/
theorem accessFault_tile (s : State) (t c slot row kind : Nat) : (accessFault s t c slot row kind).tile t =
    { s.tile t with
      accessFaultCnt := satAdd (s.tile t).accessFaultCnt 1, schedFaultCnt := satAdd (s.tile t).schedFaultCnt 1 } := by
  unfold accessFault
  rw [schedFault_tile, State.modTile_tile_self]

theorem accessFault_outside (s : State) (t c slot row kind : Nat) :
    SameOutside { mcEv := true, dies := true, tiles := true, parts := true } s (accessFault s t c slot row kind) :=
  (accessFault_keeps (Keeps.refl _ s) t c slot row kind rfl rfl rfl rfl).outside

/-- A slot that an access may not use leaves the rows of its tile. -/
theorem slotFault_rows (s : State) (t c slot r kind : Nat) : ((slotFault s t c slot r kind).tile t).rows = (s.tile t).rows := by
  unfold slotFault
  dsimp only
  split
  · rw [schedFault_tile]
  · rw [accessFault_tile]

/-! ### Routes (R201, R202, R438) -/

/-- What routes depend on: which dies are dark, and which ports are up. -/
structure SameRoutes (s u : State) : Prop where
  variant : u.variant = s.variant
  state : ∀ d, (u.die d).state = (s.die d).state
  up : ∀ d q, (tget {} (u.die d).tw q).up = (tget {} (s.die d).tw q).up

theorem SameRoutes.of_dies (hd : u.dies = s.dies) (hv : u.variant = s.variant) : SameRoutes s u :=
  ⟨hv, fun d => by rw [State.die, hd]; rfl, fun d q => by rw [State.die, hd]; rfl⟩

theorem SameRoutes.linksOf_eq (h : SameRoutes s u) (a b : Nat) : linksOf u a b = linksOf s a b := by
  have hok : pathOk u = pathOk s := by
    funext path
    simp only [pathOk, h.variant, h.state]
  have hup : pathUp u = pathUp s := by
    funext path
    simp only [pathUp, h.up]
  simp only [linksOf, route, hok, hup]

/-! ### Transfers (R202, R210) -/

/-- What leaves counts on its first link, which is a change of dies alone. -/
theorem countFirst_outside (s : State) (ls : List (Nat × Nat)) (bytes : Nat) : SameOutside { dies := true } s (countFirst s ls bytes) :=
  (countFirst_keeps (Keeps.refl _ s) ls bytes rfl).outside

theorem countFirst_tile (s : State) (ls : List (Nat × Nat)) (bytes j : Nat) : (countFirst s ls bytes).tile j = s.tile j := by
  cases ls <;> rfl

end Sys2Proof.Machine
end

section
/-! SUPPORT. The sequencer's control flow (O9): where a program counter goes, and the instructions that move it. -/

namespace Sys2Proof.Machine

variable {s : State} {t c pc st en left : Nat} {sc : Sched} {ls : List (Nat × Nat × Nat)}

/-! ### Loops (R181) -/

theorem closeLoops_inside (h : pc ≠ en) : closeLoops ((st, en, left) :: ls) pc = ((st, en, left) :: ls, pc) := if_neg h

theorem closeLoops_repeats (h : left ≠ 0) : closeLoops ((st, en, left) :: ls) en = ((st, en, left - 1) :: ls, st) := by
  rw [closeLoops, if_pos rfl, if_neg h]

theorem closeLoops_ends : closeLoops [(st, en, 0)] en = ([], en) := by
  rw [closeLoops, if_pos rfl, if_pos rfl]
  rfl

/-- A context whose loops leave it inside its schedule stays there. -/
theorem goTo_inside {pc' : Nat} (hs : (ctxOf s t c).sched = some sc) (hcl : closeLoops (ctxOf s t c).loops pc = (ls, pc'))
    (h : pc' < sc.instrs.length) : goTo s t c pc = modCtx s t c fun k => { k with pc := pc', loops := ls } := by
  have hlen : (ctxInstrs (ctxOf s t c)).length = sc.instrs.length := by simp only [ctxInstrs, hs, Option.map_some, Option.getD_some]
  simp only [goTo, hcl, hlen]
  exact if_neg fun h' => absurd h'.2 (by omega)

/-! ### The instructions (R181) -/

/-- LOOP begins a loop of `body` instructions that follow it. -/
theorem exec_loop {count body : Nat} (ht : t < 1280) (hc : c < 15) (h : issues s t c { op := 0x01, a := count - 1, b := body } [] = true)
    (hcount : 1 ≤ count) (hmax : count ≤ 65536) (hbody : 1 ≤ body) (hnest : (ctxOf s t c).loops.length < 4) :
    exec (.loop t c count body) s = .next (goTo (modCtx s t c fun k =>
      { k with loops := (k.pc + 1, k.pc + 1 + body, count - 1) :: k.loops }) t c ((ctxOf s t c).pc + 1)) := by
  refine (guarded_issue (okSite ht hc) h _).trans ?_
  rw [if_neg (by omega)]

/-- JUMP moves the program counter by its offset, out of the loops that the target leaves. -/
theorem exec_jump {off : Int} {n : Nat} (ht : t < 1280) (hc : c < 15)
    (h : issues s t c { op := 0x02, b := (off % 2 ^ 32).toNat } [] = true) (hlo : -2 ^ 31 ≤ off) (hhi : off < 2 ^ 31)
    (hn : ((ctxOf s t c).pc : Int) + off = n) :
    exec (.jump t c off) s = .next (goTo (modCtx s t c fun k =>
      { k with loops := k.loops.filter fun l => decide (l.1 ≤ n) && decide (n < l.2.1) }) t c n) := by
  refine (guarded_ok (okSite ht hc) _).trans (congrArg Host.Outcome.next ?_)
  simp only [if_pos (And.intro hlo hhi), h, if_true, hn, Int.toNat_natCast]

/-- STEP_END puts its notice on its way to the lead tile and ends the layer step. -/
theorem exec_stepEnd {l m id : Nat} (ht : t < 1280) (hc : c < 15) (h : issues s t c { op := 0x03, a := l, b := m } [] = true)
    (hid : (ctxOf s t c).pass = some id) :
    exec (.stepEnd t c l m) s = .next (goTo (modCtx (modPass s (ctxPart (ctxOf s t c)) id fun x =>
      { x with notices := x.notices ++ [(l, m, (ctxOf s t c).gen, t)] }) t c fun k => { k with layer := l, place := 0 }) t c
      ((ctxOf s t c).pc + 1)) := by
  refine (guarded_issue (okSite ht hc) h _).trans ?_
  simp only [hid]

/-- Settles O9: each instruction runs where it issues, and `goTo` follows the loop that its target ends, if any. -/
theorem sequencerControlFollowsLoops : Obligations.SequencerControlFollowsLoops := by
  unfold Obligations.SequencerControlFollowsLoops
  constructor
  · intro s t c ht hc
    exact ⟨fun h => guarded_issue (okSite ht hc) h _, fun l m id h hid => exec_stepEnd ht hc h hid,
      fun count body h h1 h2 h3 h4 => exec_loop ht hc h h1 h2 h3 h4, fun off n h h1 h2 h3 => exec_jump ht hc h h1 h2 h3⟩
  · intro s t c pc sc hs hpc
    refine ⟨fun hl => goTo_inside hs (by rw [hl]; rfl) hpc, fun st en left ls hl hst => ⟨fun h => ?_, fun h h0 => ?_, fun h h0 hls => ?_⟩⟩
    · exact goTo_inside hs (by rw [hl, closeLoops_inside h]) hpc
    · subst h
      exact goTo_inside hs (by rw [hl, closeLoops_repeats h0]) hst
    · subst h h0 hls
      exact goTo_inside hs (by rw [hl, closeLoops_ends]) hpc

end Sys2Proof.Machine
end

section
/-! SUPPORT. Waits and raises of arrival counters (O10). -/

namespace Sys2Proof.Machine

variable {s : State} {t c ctr k : Nat}

/-! ### WAIT_ARR (R190) -/

/-- A context that has what it waits for takes it, and moves on. -/
def waitTaken (s : State) (t c ctr k : Nat) : State := goTo (takeArr s t c ctr k) t c ((ctxOf s t c).pc + 1)

/-- WAIT_ARR takes its count at once, or leaves its context waiting for it. -/
theorem exec_waitArr (ht : t < 1280) (hc : c < 15) (hctr : ctr < 48) (hk : 1 ≤ k) (hmax : k ≤ 65535)
    (h : issues s t c { op := 0x08, a := ctr, b := k } [] = true) :
    exec (.waitArr t c ctr k) s = .next (if k ≤ tget 0 (ctxOf s t c).arr ctr then waitTaken s t c ctr k
      else modCtx s t c fun x => { x with wait := some (ctr, k) }) := by
  have hok : instrWellFormed (.waitArr t c ctr k) = true := by simp [instrWellFormed, okTile, okCtx, okCtr, ht, hc, hctr]
  have hlegal : (!issues s t c { op := 0x08, a := ctr, b := k } [] || k = 0 || decide (65535 < k)) = false := by
    simp only [h, Bool.not_true, Bool.false_or, Bool.or_eq_false_iff, decide_eq_false_iff_not]
    omega
  refine (guarded_ok hok _).trans (congrArg Host.Outcome.next ?_)
  simp only [hlegal, Bool.false_eq_true, if_false]
  rfl

/-- A waiting context resumes once its counter has reached the count. -/
theorem exec_waitArrResume (ht : t < 1280) (hc : c < 15) (hw : (ctxOf s t c).wait = some (ctr, k)) (hr : (s.tile t).running = some c)
    (hf : (s.tile t).fenced = false) (hp : (s.tile t).switchPending = false) (hk : k ≤ tget 0 (ctxOf s t c).arr ctr) :
    exec (.waitArrResume t c) s = .next (waitTaken s t c ctr k) := by
  refine (guarded_ok (okSite ht hc) _).trans (congrArg Host.Outcome.next ?_)
  simp only [hw, hr, hf, hp, hk, beq_self_eq_true, Bool.not_false, Bool.and_self, decide_true, if_true]
  rfl

/-! ### Raises (R189, R190) -/

/-- Past 0xFFFF a raise is a fault of its schedule. -/
theorem raiseArr_overflows (hctr : ctr < 48) (hv : tget 0 (ctxOf s t c).arr ctr = 0xFFFF) :
    raiseArr s t c ctr = schedFault s t (ctxPart (ctxOf s t c)) (ctxOf s t c).slot (ctxOf s t c).pass ctr 0 2 := by
  rw [raiseArr]
  simp only [if_neg (show ¬48 ≤ ctr by omega), if_pos hv]

/-- Settles O10: WAIT_ARR and its resumption take the count in one step; a raise adds 1, or faults. -/
theorem waitArrTakesItsCount : Obligations.WaitArrTakesItsCount := by
  unfold Obligations.WaitArrTakesItsCount
  constructor
  · intro s t c ctr k ht hc hctr hk hmax
    refine ⟨fun h hn => ?_, fun h hn => ?_, fun hw hr hf hp hn => exec_waitArrResume ht hc hw hr hf hp hn⟩
    · rw [exec_waitArr ht hc hctr hk hmax h, if_pos hn]
      rfl
    · rw [exec_waitArr ht hc hctr hk hmax h, if_neg (by omega)]
  · intro s t c ctr hctr
    refine ⟨fun hn hr => ?_, fun hn => raiseArr_adds hctr hn, fun hn => ?_, fun hn p id x hp hid hx hpoison => ?_⟩
    · rw [raiseArr_adds hctr hn]
      exact mirrorCtx_running ((congrArg Tile.running (State.modTile_tile_self ..)).trans hr)
    · rw [raiseArr_overflows hctr hn, schedFault_tile]
    · have hpart : ctxPart (ctxOf s t c) = p := by rw [ctxPart, hp]; rfl
      rw [raiseArr_overflows hctr hn, hpart, hid, schedFault_findPass, hx]
      exact ⟨_, rfl, congrArg (fun r => some (r.getD reasonSchedFault)) hpoison⟩

end Sys2Proof.Machine
end

section
/-! SUPPORT. Transfers between tiles (O11): SIGNAL, PUT, PULL and PULL_SERVE, by where their rows may go. -/

namespace Sys2Proof.Machine

variable {s u : State} {t c dt dc slot rslot ctr e1 e2 : Nat} {ls : List (Nat × Nat)} {d dd : SlotDecl}

/-! ### Slots of other tiles (R189) -/

theorem slotFor_fits {k : Ctx} {n : Nat} (hd : slotDecl k slot = some d) (hn : n ≤ d.rows) : slotFor k slot n = some d := by
  simp only [slotFor, hd, Option.filter_some, decide_eq_true hn, if_true]

theorem slotFor_short {k : Ctx} {n : Nat} (hd : slotDecl k slot = some d) (hn : d.rows < n) : slotFor k slot n = none := by
  simp only [slotFor, hd, Option.filter_some, decide_eq_false (Nat.not_le.mpr hn), Bool.false_eq_true, if_false]

theorem slotRows_of_decl (hd : slotDecl (ctxOf s t c) slot = some d) : slotRows s t c slot = d.rows := by
  simp only [slotRows, hd, Option.map_some, Option.getD_some]

theorem linksOf_engineBusy (s : State) (t c : Nat) (e : Engine) (rs : List Res) (a b : Nat) :
    linksOf (engineBusy s t c e rs) a b = linksOf s a b := (SameRoutes.of_dies rfl rfl).linksOf_eq a b

/-! ### Transfers that a tile sends -/

/-- A transfer as a tile sends it (R198): it carries the partition's tag and the pass and the generation of its context. -/
def sent (s : State) (t : Nat) (k : Ctx) (dt dc : Nat) (ctr : Option Nat) (kind : XferKind) (ls : List (Nat × Nat)) (bytes : Nat)
    (pull : Option Release) : Xfer :=
  { id := s.nextXfer, part := ctxPart k, tag := (s.part (ctxPart k)).tag, pass := k.pass.getD 0, gen := k.gen, tile := dt, ctx := dc
    ctr := ctr, kind := kind, src := t, links := ls, bytes := bytes, pull := pull }

section
variable {k : Ctx} {o : Option Nat} {kind : XferKind} {bytes : Nat} {pull : Option Release}

theorem launch_xfers (h : linksOf s (tileDie t) (tileDie dt) = some ls) :
    (launch s t k dt dc o kind bytes pull).xfers = s.xfers ++ [sent s t k dt dc o kind ls bytes pull] := by
  rw [launch_routed h]
  exact (countFirst_outside ..).xfers rfl

theorem launch_tile (h : linksOf s (tileDie t) (tileDie dt) = some ls) (j : Nat) :
    (launch s t k dt dc o kind bytes pull).tile j = s.tile j := by
  rw [launch_routed h, countFirst_tile]
  rfl

end

/-! ### SIGNAL (R181) -/

/-- A signal leaves for its tile, and nothing of tiles or partitions changes. -/
theorem signal_sends {target : Nat} (ht : t < 1280) (hc : c < 15) (hctr : ctr < 48)
    (hi : issues s t c { op := 0x09, a := ctr, b := target } [] = true) (hr : remote s (ctxOf s t c) c target = some (dt, dc))
    (hl : linksOf s (tileDie t) (tileDie dt) = some ls) :
    ∃ u, exec (.signal t c ctr target) s = .next (goTo u t c ((ctxOf s t c).pc + 1)) ∧
      u.xfers = s.xfers ++ [{ id := s.nextXfer, part := ctxPart (ctxOf s t c), tag := (s.part (ctxPart (ctxOf s t c))).tag,
                              pass := (ctxOf s t c).pass.getD 0, gen := (ctxOf s t c).gen, tile := dt, ctx := dc,
                              ctr := some ctr, kind := .signal, src := t, links := ls, bytes := 8 }] ∧
      u.nextXfer = s.nextXfer + 1 ∧ u.tiles = s.tiles ∧ u.parts = s.parts := by
  have hok : instrWellFormed (.signal t c ctr target) = true := by simp [instrWellFormed, okTile, okCtx, okCtr, ht, hc, hctr]
  have hleaves (v : State) := countFirst_outside v ls 8
  refine ⟨_, guarded_issue hok hi _, ?_⟩
  simp only [hr, launch_routed hl]
  exact ⟨(hleaves _).xfers rfl, (hleaves _).nextXfer rfl, (hleaves _).tiles rfl, (hleaves _).parts rfl⟩

/-! ### PUT (R192, R195) -/

/-- The rows of the local slot leave for a slot that takes them all. -/
theorem put_sends {tile : Nat} (ht : t < 1280) (hc : c < 15)
    (hi : issues s t c { op := 0x12, e1 := e1, e2 := e2, a := slot, b := tile, c := rslot, d := ctr } [slotRes (ctxOf s t c) slot] = true)
    (hr : remote s (ctxOf s t c) c tile = some (dt, dc)) (hl : linksOf s (tileDie t) (tileDie dt) = some ls)
    (hd : slotDecl (ctxOf s t c) slot = some d) (hdd : slotDecl (ctxOf s dt dc) rslot = some dd) (hfit : d.rows ≤ dd.rows)
    (hrows : ∀ i, i < d.rows → rowReads (rowOf (s.tile t) (d.base + i)) e1 = true ∧ ownsRow (ctxOf s t c) (d.base + i) = true ∧
      (rowOf (s.tile t) (d.base + i)).poison = false) :
    ∃ u x, exec (.put t c slot tile rslot ctr e1 e2) s = .next (goTo u t c ((ctxOf s t c).pc + 1)) ∧
      u.xfers = s.xfers ++ [x] ∧ x.tile = dt ∧ x.ctx = dc ∧ x.ctr = (if ctr = 0xFFFF then none else some ctr) ∧
      x.kind = .rows ((toRows (((List.range d.rows).map fun i => rowBytes (rowOf (s.tile t) (d.base + i))).flatten)).map
        fun b => (b, false)) dd.base true dd.readers e2 ∧
      (u.tile t).rows = (s.tile t).rows := by
  have hclean : ((List.range d.rows).any fun i => (rowOf (s.tile t) (d.base + i)).poison) = false :=
    range_any_false fun i hi => (hrows i hi).2.2
  have hread := slotRead_served d.rows hd le_rfl fun i hi => ⟨(hrows i hi).1, (hrows i hi).2.1⟩
  rw [hclean, if_neg Bool.false_ne_true] at hread
  have hroute (e : Engine) (rs : List Res) := (linksOf_engineBusy s t c e rs (tileDie t) (tileDie dt)).trans hl
  refine ⟨_, sent (engineBusy s t c .transfer []) t (ctxOf s t c) dt dc (ctrOf ctr) _ ls (64 * d.rows) none,
    guarded_issue (okSite ht hc) hi _, ?_, rfl, rfl, rfl, rfl, ?_⟩ <;>
    simp only [hr, slotRows_of_decl hd, slotFor_fits hdd hfit, hread]
  · exact launch_xfers (hroute ..)
  · rw [launch_tile (hroute ..)]
    exact (congrArg Tile.rows (engineBusy_tile (s := s) t c .transfer [])).trans rfl

/-- Nothing leaves for a slot that cannot take them all. -/
theorem put_refused {tile : Nat} (ht : t < 1280) (hc : c < 15)
    (hi : issues s t c { op := 0x12, e1 := e1, e2 := e2, a := slot, b := tile, c := rslot, d := ctr } [slotRes (ctxOf s t c) slot] = true)
    (hr : remote s (ctxOf s t c) c tile = some (dt, dc)) (hd : slotDecl (ctxOf s t c) slot = some d)
    (hdd : slotDecl (ctxOf s dt dc) rslot = some dd) (hshort : dd.rows < d.rows) :
    ∃ u, exec (.put t c slot tile rslot ctr e1 e2) s = .next (goTo u t c ((ctxOf s t c).pc + 1)) ∧
      u.xfers = s.xfers ∧ (u.tile t).accessFaultCnt = satAdd (s.tile t).accessFaultCnt 1 := by
  refine ⟨_, guarded_issue (okSite ht hc) hi _, ?_⟩
  simp only [hr, slotRows_of_decl hd, slotFor_short hdd hshort]
  exact ⟨(accessFault_outside ..).xfers rfl, by rw [accessFault_tile]⟩

/-! ### PULL (R195, R196) -/

/-- A reader whose own slot is free leaves its request at the source tile. -/
theorem pull_asks {tile st sc : Nat} {release : Bool} (ht : t < 1280) (hc : c < 15)
    (hi : issues s t c { op := 0x13, e1 := e1, e2 := e2, a := slot, b := tile, c := rslot, d := modeD ctr (b2n release) }
      [slotRes (ctxOf s t c) slot] = true)
    (hd : slotDecl (ctxOf s t c) slot = some d) (hfree : ∀ i, i < d.rows → (rowOf (s.tile t) (d.base + i)).full = false)
    (hr : remote s (ctxOf s t c) c tile = some (st, sc)) :
    ∃ u r, exec (.pull t c slot tile rslot ctr e1 e2 release) s = .next (goTo u t c ((ctxOf s t c).pc + 1)) ∧
      (u.tile st).pulls = (s.tile st).pulls ++ [r] ∧ r.id = s.nextXfer ∧ u.nextXfer = s.nextXfer + 1 ∧ r.srcSlot = rslot ∧
      r.epoch = e2 ∧ r.dstTile = t ∧ r.dstCtx = c ∧ r.dstSlot = slot ∧ r.dstEpoch = e1 ∧ r.ctr = ctr ∧ r.release = release := by
  have hidle : ((List.range d.rows).any fun i => (rowOf (s.tile t) (d.base + i)).full) = false := range_any_false hfree
  have hbusy : ((engineBusy s t c .transfer []).tile st).pulls = (s.tile st).pulls := by
    unfold engineBusy
    exact SameTiles.modTile (π := Tile.pulls) s t (by exact fun _ => rfl) st
  refine ⟨_, { id := s.nextXfer, part := ctxPart (ctxOf s t c), tag := (s.part (ctxPart (ctxOf s t c))).tag, srcSlot := rslot, epoch := e2
               release := release, dstTile := t, dstCtx := c, dstSlot := slot, dstEpoch := e1, ctr := ctr
               pass := (ctxOf s t c).pass.getD 0, gen := (ctxOf s t c).gen },
    guarded_served (okSite ht hc) (by simp only [hd, hidle, Bool.false_eq_true, not_false_eq_true]) hi _, ?_, rfl, ?_, rfl, rfl, rfl, rfl, rfl, rfl, rfl, rfl⟩ <;>
    simp only [hr, hd]
  · rw [State.modTile_tile_self]
    exact congrArg (· ++ [_]) hbusy
  · rfl

/-! ### PULL_SERVE (R196, R197) -/

/-- A station has taken up a request: it waits there no longer, and the tile has counted it and the accesses that coincided (R194). -/
def pullTaken (req : Nat) (merged : Bool) (coll : Nat) (x : Tile) : Tile :=
  { x with
    pulls := x.pulls.filter fun q => q.id != req
    pullCnt := wrapAdd x.pullCnt 1
    pullMergeCnt := if merged then wrapAdd x.pullMergeCnt 1 else x.pullMergeCnt
    arbCollideCnt := wrapAdd x.arbCollideCnt coll }

/-- A request whose epoch stands in every row is served with the rows, and with the release where it asks for one. -/
theorem pullServe_sends {req sc coll : Nat} {merged : Bool} {r : PullReq} (ht : t < 1280)
    (hreq : (s.tile t).pulls.find? (fun q => q.id == req) = some r) (htag : r.tag = (s.part r.part).tag)
    (hdest : destCtx s r.part (ctxOf s r.dstTile r.dstCtx).slot t r.dstCtx = some sc) (hd : slotDecl (ctxOf s t sc) r.srcSlot = some d)
    (hdd : slotDecl (ctxOf s r.dstTile r.dstCtx) r.dstSlot = some dd) (hfit : d.rows ≤ dd.rows)
    (hrows : ∀ i, i < d.rows → rowReads (rowOf (s.tile t) (d.base + i)) r.epoch = true)
    (hl : linksOf s (tileDie t) (tileDie r.dstTile) = some ls) :
    ∃ u x, exec (.pullServe t req merged coll) s = .next u ∧ u.xfers = s.xfers ++ [x] ∧ x.tile = r.dstTile ∧ x.ctx = r.dstCtx ∧
      x.kind = .rows ((List.range d.rows).map fun i =>
        (rowBytes (rowOf (s.tile t) (d.base + i)), (rowOf (s.tile t) (d.base + i)).poison)) dd.base true dd.readers r.dstEpoch ∧
      x.pull = (if r.release then some { part := r.part, tile := t, base := d.base, rows := d.rows, epoch := r.epoch } else none) ∧
      u.tile t = pullTaken req merged coll (s.tile t) := by
  have htaken : exec (.pullServe t req merged coll) s = .next (launch (s.modTile t (pullTaken req merged coll)) t
      { ctxOf s r.dstTile r.dstCtx with pass := some r.pass, gen := r.gen } r.dstTile r.dstCtx (ctrOf r.ctr)
      (.rows ((List.range d.rows).map fun i =>
        (rowBytes (rowOf (s.tile t) (d.base + i)), (rowOf (s.tile t) (d.base + i)).poison)) dd.base true dd.readers r.dstEpoch)
      (64 * d.rows) (if r.release then some { part := r.part, tile := t, base := d.base, rows := d.rows, epoch := r.epoch } else none)) := by
    have hctx (j k : Nat) : ctxOf (s.modTile t (pullTaken req merged coll)) j k = ctxOf s j k := modTile_ctxOf t _ rfl j k
    have hdest' := (modTile_destCtx t (pullTaken req merged coll) rfl r.part (ctxOf s r.dstTile r.dstCtx).slot t r.dstCtx).trans hdest
    have hrow (i : Nat) : rowOf ((s.modTile t (pullTaken req merged coll)).tile t) i = rowOf (s.tile t) i := by
      rw [State.modTile_tile_self]
      rfl
    have hserved : ((List.range d.rows).map (d.base + ·)).find?
        (fun q => !rowReads (rowOf (s.tile t) q) r.epoch) = none := by
      rw [List.find?_map, range_find_none]
      · rfl
      · intro i hi
        simp only [Function.comp_apply, hrows i hi, Bool.not_true]
    refine (guarded_ok (by simp [instrWellFormed, okTile, ht]) _).trans (congrArg Host.Outcome.next ?_)
    rw [hreq]
    refine (if_neg (not_not.mpr htag)).trans ?_
    unfold pullTaken at hctx hdest' hrow ⊢
    simp only [hctx, hdest', Option.bind_some, hd, slotFor_fits hdd hfit, hserved, hrow, List.map_map, List.length_map,
      List.length_range, Function.comp_def]
  have hroute := ((SameRoutes.of_dies (u := s.modTile t (pullTaken req merged coll)) rfl rfl).linksOf_eq _ _).trans hl
  refine ⟨_, _, htaken, launch_xfers hroute, rfl, rfl, rfl, rfl, ?_⟩
  rw [launch_tile hroute, State.modTile_tile_self]

/-- Settles O11: a signal, a put, a pull and the serving of one, each by where it may go. -/
theorem transfersBetweenTiles : Obligations.TransfersBetweenTiles := by
  unfold Obligations.TransfersBetweenTiles
  refine ⟨?signal, ?put, ?pull, ?serve⟩
  case signal =>
    intro s t c ctr target dt dc ls ht hc hctr hi hr hl
    exact signal_sends ht hc hctr hi hr hl
  case put =>
    intro s t c slot tile rslot ctr e1 e2 dt dc ls d dd ht hc hi hr hl hd hdd
    exact ⟨put_sends ht hc hi hr hl hd hdd, put_refused ht hc hi hr hd hdd⟩
  case pull =>
    intro s t c slot tile rslot ctr e1 e2 st sc release d ht hc hi hd hfree hr
    exact pull_asks ht hc hi hd hfree hr
  case serve =>
    intro s t req sc coll merged r d dd ls ht hreq htag hdest hd hdd hfit hrows hl
    obtain ⟨u, x, hu, hx, htile, hctx, hkind, hpull, htaken⟩ := pullServe_sends (coll := coll) (merged := merged) ht hreq htag hdest hd hdd
      hfit hrows hl
    exact ⟨u, x, hu, hx, htile, hctx, hkind, hpull, congrArg Tile.pulls htaken, congrArg Tile.pullCnt htaken,
      congrArg Tile.arbCollideCnt htaken, (congrArg Tile.rows htaken).trans rfl⟩

end Sys2Proof.Machine
end

section
/-! SUPPORT. FILL, COPY and releases (O12): the rows that each writes, as one table of rows. -/

namespace Sys2Proof.Machine

variable {s : State} {t c : Nat}

/-- A change of a tile is what it makes of the tile as it stands. -/
theorem modTile_eq_of {f g : Tile → Tile} (h : f (s.tile t) = g (s.tile t)) : s.modTile t f = s.modTile t g := by
  simp only [State.modTile, tmod]
  exact congrArg (fun y => { s with tiles := tset {} s.tiles t y }) h

/-! ### FILL (R186) -/

/-- What FILL leaves in row `r`: under the slot rules where a slot holds it. -/
def filledRow (k : Ctx) (x : Tile) (e : Nat) (bs : List Byte) (r : Nat) : Row :=
  match slotAt k r with
  | some (_, d) => rowWrite bs e d.readers false
  | none => { rowOf x r with data := mkData bs, poison := false, suspect := false }

/-- FILL may write row `r`: the context owns it, and where a slot holds it, it is free. -/
def Fillable (k : Ctx) (x : Tile) (r : Nat) : Prop := ownsRow k r = true ∧ ((slotAt k r).isSome = true → (rowOf x r).full = false)

theorem fillOne_writes {e r : Nat} {bs : List Byte} (h : Fillable (ctxOf s t c) (s.tile t) r) :
    fillOne s t c r e bs = s.modTile t (withRow r (filledRow (ctxOf s t c) (s.tile t) e bs r)) := by
  obtain ⟨howned, hfree⟩ := h
  unfold fillOne filledRow
  cases hs : slotAt (ctxOf s t c) r with
  | none =>
    simp only [plainWrite, howned, if_true]
    exact modTile_eq_of rfl
  | some nd =>
    simp only [slotWriteRow, hfree (hs ▸ rfl), howned, Bool.not_true, Bool.or_false, Bool.false_eq_true, if_false]
    rfl

/-- FILL writes each of its rows, and no other. -/
theorem fillRows_rowOf {e : Nat} {bs : List Byte} (n : Nat) : ∀ {s : State} {r : Nat},
    (∀ i, i < n → Fillable (ctxOf s t c) (s.tile t) (r + i)) → ∀ q, rowOf ((fillRows s t c e bs r n).tile t) q =
      if r ≤ q ∧ q < r + n then filledRow (ctxOf s t c) (s.tile t) e bs q else rowOf (s.tile t) q := by
  induction n with
  | zero =>
    intro s r _ q
    rw [if_neg (by omega)]
    rfl
  | succ n ih =>
    intro s r h q
    have hone := fillOne_writes (e := e) (bs := bs) (h 0 (Nat.succ_pos n))
    rw [Nat.add_zero] at hone
    rw [fillRows, hone]
    generalize hv : filledRow (ctxOf s t c) (s.tile t) e bs r = v
    have hctx : ctxOf (s.modTile t (withRow r v)) t c = ctxOf s t c := modTile_ctxOf t _ rfl t c
    have hrow (j : Nat) : rowOf ((s.modTile t (withRow r v)).tile t) j = if j = r then v else rowOf (s.tile t) j := by
      rw [State.modTile_tile_self, withRow_rowOf]
    rw [ih, hrow, hctx]
    · by_cases hq : q = r
      · subst hq
        rw [if_neg (by omega), if_pos rfl, if_pos (by omega), hv]
      · simp only [filledRow, hrow, if_neg hq]
        exact if_congr (by omega) rfl rfl
    · intro i hi
      have hrest := h (i + 1) (Nat.succ_lt_succ hi)
      rw [show r + (i + 1) = r + 1 + i by omega] at hrest
      rw [Fillable, hctx, hrow, if_neg (by omega)]
      exact hrest

/-! ### COPY (R187) -/

/-- What COPY leaves in row `dst + i`, from the rows of `x` as they were before it. -/
def copiedRow (k : Ctx) (x : Tile) (src dst e2 i : Nat) : Row :=
  match slotAt k (dst + i) with
  | some (_, d) => rowWrite (rowBytes (rowOf x (src + i))) e2 d.readers (rowOf x (src + i)).poison
  | none => { rowOf x (dst + i) with data := (rowOf x (src + i)).data, poison := (rowOf x (src + i)).poison, suspect := false }

theorem copyRow_eq (k : Ctx) (x : Tile) (src dst e2 : Nat) (rs : Tab Row) (i : Nat) :
    copyRow k x src dst e2 rs i = tset {} rs (dst + i) (copiedRow k x src dst e2 i) := by
  unfold copyRow copiedRow
  cases slotAt k (dst + i) <;> rfl

theorem copyRows_tget (k : Ctx) (x : Tile) (src dst e2 : Nat) (rs : Tab Row) (n q : Nat) :
    tget {} ((List.range n).foldl (copyRow k x src dst e2) rs) q =
      if dst ≤ q ∧ q < dst + n then copiedRow k x src dst e2 (q - dst) else tget {} rs q := by
  induction n with
  | zero =>
    rw [if_neg (by omega)]
    rfl
  | succ n ih =>
    rw [List.range_succ, List.foldl_append, List.foldl_cons, List.foldl_nil, copyRow_eq, tget_tset, ih]
    by_cases hq : q = dst + n
    · rw [if_pos hq, if_pos (by omega), hq, Nat.add_sub_cancel_left]
    · rw [if_neg hq]
      exact if_congr (by omega) rfl rfl

theorem rowBytes_length (r : Row) : (rowBytes r).length = 64 := by
  simp only [rowBytes, slice, List.length_append, List.length_replicate, List.length_take]
  omega

/-- A copied row holds what its source row holds, and is FULL where a slot holds it. -/
theorem copiedRow_holds (k : Ctx) (x : Tile) (src dst e2 i : Nat) :
    rowBytes (copiedRow k x src dst e2 i) = rowBytes (rowOf x (src + i)) ∧
      (copiedRow k x src dst e2 i).poison = (rowOf x (src + i)).poison ∧
      (copiedRow k x src dst e2 i).full = ((slotAt k (dst + i)).isSome || (rowOf x (dst + i)).full) := by
  unfold copiedRow
  cases slotAt k (dst + i) with
  | none => exact ⟨rfl, rfl, (Bool.false_or _).symm⟩
  | some nd => exact ⟨rowBytes_mkData rfl (rowBytes_length _), rfl, rfl⟩

/-! ### Their instructions -/

section
variable {rows : Nat} (ht : t < 1280) (hc : c < 15) (hpos : 1 ≤ rows) (hmax : rows ≤ 4096)
include ht hc hpos hmax

theorem fill_writes {first value width e : Nat} (hi : issues s t c { op := 0x18, e1 := e, a := rows, b := first
                                                                     c := fillConst value width % 2 ^ 32
                                                                     d := fillConst value width / 2 ^ 32 } [.rows first rows] = true)
    (hfill : ∀ i, i < rows → Fillable (ctxOf s t c) (s.tile t) (first + i)) :
    ∃ u, exec (.fill t c rows first value width e) s = .next (goTo u t c ((ctxOf s t c).pc + 1)) ∧ ∀ q, rowOf (u.tile t) q =
      if first ≤ q ∧ q < first + rows then filledRow (ctxOf s t c) (s.tile t) e (fillRow value width) q else rowOf (s.tile t) q :=
  ⟨_, guarded_served (okSite ht hc) (by omega) hi _, fillRows_rowOf rows hfill⟩

/-- COPY moves its rows where each of them may be read and written. -/
theorem copy_moves {src dst e1 e2 : Nat}
    (hi : issues s t c { op := 0x19, e1 := e1, e2 := e2, a := rows, b := src, c := dst } [.rows src rows, .rows dst rows] = true)
    (hmoves : ∀ i, i < rows → ownsRow (ctxOf s t c) (src + i) = true ∧ ownsRow (ctxOf s t c) (dst + i) = true ∧
      ((slotAt (ctxOf s t c) (src + i)).isSome = true → rowReads (rowOf (s.tile t) (src + i)) e1 = true) ∧
      ((slotAt (ctxOf s t c) (dst + i)).isSome = true → (rowOf (s.tile t) (dst + i)).full = false)) :
    ∃ u, exec (.copy t c rows src dst e1 e2) s = .next (goTo u t c ((ctxOf s t c).pc + 1)) ∧ ∀ q, rowOf (u.tile t) q =
      if dst ≤ q ∧ q < dst + rows then copiedRow (ctxOf s t c) (s.tile t) src dst e2 (q - dst) else rowOf (s.tile t) q := by
  have hsrc : (List.range rows).find? (fun i => !ownsRow (ctxOf s t c) (src + i) ||
      ((slotAt (ctxOf s t c) (src + i)).isSome && !rowReads (rowOf (s.tile t) (src + i)) e1)) = none := by
    refine range_find_none fun i hi => ?_
    obtain ⟨howned, -, hreads, -⟩ := hmoves i hi
    cases hslot : (slotAt (ctxOf s t c) (src + i)).isSome <;> simp [howned, hslot, hreads]
  have hdst : (List.range rows).find? (fun i => !ownsRow (ctxOf s t c) (dst + i) ||
      ((slotAt (ctxOf s t c) (dst + i)).isSome && (rowOf (s.tile t) (dst + i)).full)) = none := by
    refine range_find_none fun i hi => ?_
    obtain ⟨-, howned, -, hfree⟩ := hmoves i hi
    cases hslot : (slotAt (ctxOf s t c) (dst + i)).isSome <;> simp [howned, hslot, hfree]
  refine ⟨_, guarded_served (okSite ht hc) (by omega) hi _, fun q => ?_⟩
  simp only [hsrc, hdst]
  rw [State.modTile_tile_self, rowOf, poisonIf_tile]
  exact copyRows_tget ..

/-- COPY changes no row where a source row is not the context's. -/
theorem copy_suppressed {src dst e1 e2 i : Nat}
    (hi : issues s t c { op := 0x19, e1 := e1, e2 := e2, a := rows, b := src, c := dst } [.rows src rows, .rows dst rows] = true)
    (hin : i < rows) (hforeign : ownsRow (ctxOf s t c) (src + i) = false) :
    ∃ u, exec (.copy t c rows src dst e1 e2) s = .next (goTo u t c ((ctxOf s t c).pc + 1)) ∧ (u.tile t).rows = (s.tile t).rows := by
  refine ⟨_, guarded_served (okSite ht hc) (by omega) hi _, ?_⟩
  dsimp only
  split
  next => exact slotFault_rows ..
  next hnone =>
    have hread := List.find?_eq_none.mp hnone i (List.mem_range.mpr hin)
    simp [hforeign] at hread

end

/-! ### RELEASE_ARRIVE (R192, R196) -/

theorem releaseArrive_one {r epoch : Nat} {q : Release} (ht : t < 1280)
    (hsent : s.releases.find? (fun q => q.tile == t && q.base == r && q.rows == 1 && q.epoch == epoch) = some q) :
    exec (.releaseArrive t r 1 epoch) s = .next (({ s with releases := s.releases.erase q }).modTile t fun x =>
      { x with rows := if rowReads (rowOf x r) epoch then tset {} x.rows r (rowRelease (rowOf x r)) else x.rows }) := by
  refine (guarded_ok (by simp [instrWellFormed, okTile, ht]) _).trans (congrArg Host.Outcome.next ?_)
  rw [hsent]
  rfl

theorem releaseArrive_unsent {r epoch : Nat} (ht : t < 1280)
    (hsent : s.releases.find? (fun q => q.tile == t && q.base == r && q.rows == 1 && q.epoch == epoch) = none) :
    exec (.releaseArrive t r 1 epoch) s = .next s := by
  refine (guarded_ok (by simp [instrWellFormed, okTile, ht]) _).trans (congrArg Host.Outcome.next ?_)
  rw [hsent]

/-- Settles O12: each row of a FILL and of a COPY, and the release of one row by its last reader or another. -/
theorem rowsAreFilledCopiedAndFreed : Obligations.RowsAreFilledCopiedAndFreed := by
  unfold Obligations.RowsAreFilledCopiedAndFreed
  refine ⟨fun s t c rows ht hc hpos hmax => ⟨?fill, ?copy⟩, ?release⟩
  case fill =>
    intro first value width e v hi hfill
    obtain ⟨u, hu, hrows⟩ := fill_writes ht hc hpos hmax hi hfill
    refine ⟨u, hu, fun i hi => ?_, fun r hr => ?_⟩
    · rw [hrows, if_pos (by omega)]
      rfl
    · rw [hrows, if_neg (by omega)]
  case copy =>
    intro src dst e1 e2 hi
    refine ⟨fun hmoves => ?_, fun i hin hforeign => copy_suppressed ht hc hpos hmax hi hin hforeign⟩
    obtain ⟨u, hu, hrows⟩ := copy_moves ht hc hpos hmax hi hmoves
    refine ⟨u, hu, fun i hi => ?_, fun r hr => ?_⟩
    · rw [hrows, if_pos (by omega), Nat.add_sub_cancel_left]
      exact copiedRow_holds ..
    · rw [hrows, if_neg (by omega)]
  case release =>
    intro s t r epoch ht sent
    refine ⟨fun q hq hreads => ?_, fun q hq hreads => ?_, fun hq => releaseArrive_unsent ht hq⟩ <;>
      rw [releaseArrive_one ht hq] <;>
      refine congrArg Host.Outcome.next (modTile_eq_of ?_)
    · exact congrArg (fun rs => { s.tile t with rows := rs }) (if_pos hreads)
    · exact congrArg (fun rs => { s.tile t with rows := rs }) (if_neg (Bool.not_eq_true _ ▸ hreads))

end Sys2Proof.Machine
end

section
/-! SUPPORT. DMA (O20): transfers between a tile and DRAM, as their instructions send them. -/

namespace Sys2Proof.Machine

variable {s u : State} {t c slot off rows ctr epoch a : Nat} {d : SlotDecl} {ls : List (Nat × Nat)} {bs : List Byte} {bad : Bool}

/-! ### DRAM transfers that leave (R201) -/

/-- A DRAM transfer as a tile sends it. -/
def sentDram (s : State) (t c : Nat) (k : Ctx) (ctr addr : Nat) (kind : XferKind) (ls : List (Nat × Nat)) (bytes : Nat) : Xfer :=
  { id := s.nextXfer, part := ctxPart k, tag := (s.part (ctxPart k)).tag, pass := k.pass.getD 0, gen := k.gen, tile := t, ctx := c
    ctr := ctrOf ctr, kind := kind, src := t, dramAddr := some addr, links := ls, bytes := bytes }

/-- With a route it is in flight, and no byte of DRAM changes. -/
theorem launchDram_leaves {k : Ctx} {kind : XferKind} {read : Bool} {bytes : Nat}
    (h : (if read then linksOf s (stackDie (addrStack a)) (tileDie t) else linksOf s (tileDie t) (stackDie (addrStack a))) = some ls) :
    (launchDram s t c k ctr a kind read bytes).xfers = s.xfers ++ [sentDram s t c k ctr a kind ls bytes] ∧
      (launchDram s t c k ctr a kind read bytes).dram = s.dram := by
  simp only [launchDram, h]
  exact ⟨(countFirst_outside ..).xfers rfl, (countFirst_outside ..).dram rfl⟩

/-- The same once the transfer engine has taken the instruction up. -/
theorem launchDram_busy {k : Ctx} {kind : XferKind} {read : Bool} {bytes : Nat}
    (h : (if read then linksOf s (stackDie (addrStack a)) (tileDie t) else linksOf s (tileDie t) (stackDie (addrStack a))) = some ls) :
    (launchDram (engineBusy s t c .transfer []) t c k ctr a kind read bytes).xfers =
        s.xfers ++ [sentDram s t c k ctr a kind ls bytes] ∧
      (launchDram (engineBusy s t c .transfer []) t c k ctr a kind read bytes).dram = s.dram := by
  refine launchDram_leaves ?_
  rw [linksOf_engineBusy, linksOf_engineBusy]
  exact h

/-! ### What a read of a slot leaves (R451) -/

/-- A read that consumes poison changes the passes of its partition alone. -/
theorem consumed_part {α : Type} {π : Part → α} (hπ : ∀ q ps rs, π { q with passes := ps, recomps := rs } = π q) (s : State) (t c : Nat)
    (bad : Bool) (p : Nat) : π ((consumed s t c bad).part p) = π (s.part p) := by
  cases bad with
  | false => rfl
  | true => exact poisonPass_part hπ ..

theorem consumed_keeps (s : State) (t c : Nat) (bad : Bool) : Keeps { parts := true } s (consumed s t c bad) := by
  cases bad with
  | false => exact Keeps.refl _ s
  | true => exact poisonPass_keeps (Keeps.refl _ s) _ _ _ rfl

theorem consumed_sameRoutes (s : State) (t c : Nat) (bad : Bool) : SameRoutes s (consumed s t c bad) := by
  obtain ⟨hvariant, -⟩ := (consumed_keeps s t c bad).module
  exact .of_dies ((consumed_keeps s t c bad).outside.dies rfl) hvariant

/-- A pass outlasts its poison. -/
theorem consumed_found {x : Pass} {p id : Nat} (h : findPass s p id = some x) (t c : Nat) (bad : Bool) :
    ∃ r, findPass (consumed s t c bad) p id = some { x with poison := r } := by
  have hreads := consumed_reads s t c bad p id (g := fun x => { x with poison := none }) fun _ _ => rfl
  rw [h] at hreads
  cases hy : findPass (consumed s t c bad) p id with
  | none => simp [hy] at hreads
  | some y =>
    rw [hy] at hreads
    exact ⟨y.poison, congrArg some (congrArg (fun z : Pass => { z with poison := y.poison }) (Option.some.inj hreads))⟩

/-! ### Addresses of a partition (R216; log entry 24) -/

section
variable {p : Nat} (h : (u.part p).cfg = (s.part p).cfg)
include h

theorem granulesOf_of_cfg : granulesOf u p = granulesOf s p := by simp only [granulesOf, h]

theorem partAddr_of_cfg (off : Nat) : partAddr u p off = partAddr s p off := by simp only [partAddr, granulesOf_of_cfg h]

theorem kvAddrs_of_cfg (k : Nat) (v : KvParams) (pair stripe slot : Nat) (isV : Bool) :
    kvAddrs u p k v pair stripe slot isV = kvAddrs s p k v pair stripe slot isV := by
  have hdie (a : Pair) : pairDie u p a = pairDie s p a := by simp only [pairDie, h]
  have hpairs (d : Nat) : pairsOn u p v d = pairsOn s p v d := by simp only [pairsOn, hdie]
  have hsize (d : Nat) : frameSize u p v d = frameSize s p v d := by simp only [frameSize, hpairs]
  have hframe (d stripe : Nat) : frameAddr u p k v d stripe = frameAddr s p k v d stripe := by
    unfold frameAddr
    rw [hsize, granulesOf_of_cfg h]
  simp only [kvAddrs, regionAddr, hdie, hpairs, hframe]

end

/-! ### DMA_GET (R181, R184, R449) -/

/-- The rows that a DMA_GET brings from address `a`. -/
def dramRows (s : State) (rows a : Nat) : List (List Byte × Bool) :=
  (List.range rows).map fun i => (memRead s.dram (a + 64 * i) 64, dramBad s (a + 64 * i) 64)

/-- The rows of a token's embedding, with the poison of its table (R452). -/
def embeddedRows (s : State) (p k l token : Nat) : List (List Byte × Bool) :=
  (embedRows s p k l token).map fun b => (b, embedBad s p k l token)

section
variable (ht : t < 1280) (hc : c < 15) (ha : partAddr s (ctxPart (ctxOf s t c)) (64 * off) = some a)
  (hd : slotDecl (ctxOf s t c) slot = some d)
  (hi : issues s t c { op := 0x10, e1 := epoch, a := slot, b := off, c := rows, d := ctr } [slotRes (ctxOf s t c) slot] = true)
include ht hc ha hd hi

theorem dmaGet_sends (hl : linksOf s (stackDie (addrStack a)) (tileDie t) = some ls) (hfit : rows ≤ d.rows) :
    ∃ u, exec (.dmaGet t c slot off rows ctr epoch none) s = .next (goTo u t c ((ctxOf s t c).pc + 1)) ∧ u.dram = s.dram ∧
      u.xfers = s.xfers ++ [sentDram s t c (ctxOf s t c) ctr a (.rows (dramRows s rows a) d.base true d.readers epoch) ls (64 * rows)] := by
  refine ⟨_, guarded_issue (okSite ht hc) hi _, ?_⟩
  simp only [List.length_map, List.length_range, ha, slotFor_fits hd hfit]
  obtain ⟨hsent, hdram⟩ := launchDram_busy (s := s) (t := t) (c := c) (ctr := ctr) (k := ctxOf s t c) (read := true) (bytes := 64 * rows)
    (kind := .rows (dramRows s rows a) d.base true d.readers epoch) hl
  exact ⟨hdram, hsent⟩

theorem dmaGet_refused (hshort : d.rows < rows) :
    ∃ u, exec (.dmaGet t c slot off rows ctr epoch none) s = .next (goTo u t c ((ctxOf s t c).pc + 1)) ∧ u.xfers = s.xfers ∧
      (u.tile t).accessFaultCnt = satAdd (s.tile t).accessFaultCnt 1 := by
  refine ⟨_, guarded_issue (okSite ht hc) hi _, ?_⟩
  simp only [List.length_map, List.length_range, ha, slotFor_short hd hshort]
  exact ⟨(accessFault_outside ..).xfers rfl, by rw [accessFault_tile]⟩

theorem dmaGet_embeds {l : Nat} {y : Pass} (hl : linksOf s (stackDie (addrStack a)) (tileDie t) = some ls)
    (hpass : (ctxOf s t c).pass = some y.id) (hy : findPass s (ctxPart (ctxOf s t c)) y.id = some y)
    (hfit : (embedRows s (ctxPart (ctxOf s t c)) (ctxOf s t c).slot l y.token).length ≤ d.rows) :
    ∃ u bytes, exec (.dmaGet t c slot off rows ctr epoch (some l)) s = .next (goTo u t c ((ctxOf s t c).pc + 1)) ∧
      u.xfers = s.xfers ++ [sentDram s t c (ctxOf s t c) ctr a
        (.rows (embeddedRows s (ctxPart (ctxOf s t c)) (ctxOf s t c).slot l y.token) d.base true d.readers epoch) ls bytes] := by
  refine ⟨_, 64 * (embedRows s (ctxPart (ctxOf s t c)) (ctxOf s t c).slot l y.token).length, guarded_issue (okSite ht hc) hi _, ?_⟩
  simp only [embeddedRows, hpass, Option.bind_some, hy, Option.map_some, Option.getD_some, List.length_map, ha, slotFor_fits hd hfit]
  exact (launchDram_busy (read := true) hl).1

end

/-! ### DMA_PUT (R181, R227) -/

section
variable (ht : t < 1280) (hc : c < 15)
  (hi : issues s t c { op := 0x11, e1 := epoch, a := slot, b := off, c := rows, d := ctr } [slotRes (ctxOf s t c) slot] = true)
  (hbs : SlotHolds s t c slot rows epoch bs bad)
include ht hc hi hbs

theorem dmaPut_sends (ha : partAddr s (ctxPart (ctxOf s t c)) (64 * off) = some a)
    (hl : linksOf s (tileDie t) (stackDie (addrStack a)) = some ls) :
    ∃ u, exec (.dmaPut t c slot off rows ctr epoch none) s = .next (goTo u t c ((ctxOf s t c).pc + 1)) ∧ u.dram = s.dram ∧
      u.xfers = s.xfers ++ [sentDram (consumed s t c bad) t c (ctxOf s t c) ctr a (.dram a bs bad) ls bs.length] := by
  have hkept := (consumed_keeps s t c bad).outside
  have haddr : partAddr (engineBusy (consumed s t c bad) t c .transfer []) (ctxPart (ctxOf s t c)) (64 * off) = some a :=
    (partAddr_of_cfg (consumed_part (π := Part.cfg) (fun _ _ _ => rfl) s t c bad _) (64 * off)).trans ha
  have hroute := ((consumed_sameRoutes s t c bad).linksOf_eq (tileDie t) (stackDie (addrStack a))).trans hl
  refine ⟨_, guarded_served (okSite ht hc) (by simp) hi _, ?_⟩
  simp only [slotRead_holds hbs, haddr]
  obtain ⟨hsent, hdram⟩ := launchDram_busy (s := consumed s t c bad) (t := t) (c := c) (ctr := ctr) (k := ctxOf s t c) (read := false)
    (bytes := bs.length) (kind := .dram a bs bad) hroute
  exact ⟨hdram.trans (hkept.dram rfl), hsent.trans (congrArg (· ++ [_]) (hkept.xfers rfl))⟩

/-- A K or V vector of the context's pass leaves converted, for the frame of the pass's position. -/
theorem dmaPut_sendsKv {w : KvDest} {v : KvParams} {x : Pass} (hv : kvOf s (ctxPart (ctxOf s t c)) (ctxOf s t c).slot = some v)
    (hpass : (ctxOf s t c).pass = some w.pass) (hx : findPass s (ctxPart (ctxOf s t c)) w.pass = some x)
    (ha : ((kvAddrs s (ctxPart (ctxOf s t c)) (ctxOf s t c).slot v w.pair (tget {} (s.entry x.entry).pages (x.pos / 64)).stripe (x.pos % 64)
      w.isV).map Prod.fst).getD 0 = a) (hl : linksOf s (tileDie t) (stackDie (addrStack a)) = some ls) :
    let r := kvEntry v (passCarry (s.entry x.entry) x) x.pos w.pair w.isV (unpackNat 32 v.d (leAt bs 0 (4 * v.d)))
    ∃ u y, exec (.dmaPut t c slot off rows ctr epoch (some w)) s = .next (goTo u t c ((ctxOf s t c).pc + 1)) ∧ u.xfers = s.xfers ++ [y] ∧
      y.kind = .kv x.entry x.pos w.pair w.isV r.1 r.2.1 r.2.2 bad := by
  intro r
  have hkept := (consumed_keeps s t c bad).outside
  have hcfg := consumed_part (π := Part.cfg) (fun _ _ _ => rfl) s t c bad (ctxPart (ctxOf s t c))
  obtain ⟨z, hz⟩ := consumed_found hx t c bad
  have hkv : kvOf (consumed s t c bad) (ctxPart (ctxOf s t c)) (ctxOf s t c).slot = some v := by
    simpa only [kvOf, planOf, (Steady.consumed s t c bad).slot] using hv
  have haddr := kvAddrs_of_cfg (u := engineBusy (consumed s t c bad) t c .transfer []) hcfg (ctxOf s t c).slot v w.pair
  have hroute := ((consumed_sameRoutes s t c bad).linksOf_eq (tileDie t) _).trans hl
  have hentry : (engineBusy (consumed s t c bad) t c .transfer []).entry x.entry = s.entry x.entry :=
    congrArg (fun es => tget ({} : Entry) es x.entry) (hkept.entries rfl)
  have hfound : findPass (engineBusy (consumed s t c bad) t c .transfer []) (ctxPart (ctxOf s t c)) w.pass = some { x with poison := z } := hz
  have hparams : kvOf (engineBusy (consumed s t c bad) t c .transfer []) (ctxPart (ctxOf s t c)) (ctxOf s t c).slot = some v := hkv
  have hcarry : passCarry (s.entry x.entry) { x with poison := z } = passCarry (s.entry x.entry) x := rfl
  refine ⟨_, sentDram (consumed s t c bad) t c (ctxOf s t c) ctr a (.kv x.entry x.pos w.pair w.isV r.1 r.2.1 r.2.2 bad) ls
    (r.1.length + r.2.1.length), guarded_served (okSite ht hc) (by simp [hpass]) hi _, ?_, rfl⟩
  simp only [slotRead_holds hbs, hparams, hfound, hentry, haddr, hcarry, ha]
  exact (launchDram_busy (read := false) hroute).1.trans (congrArg (· ++ [_]) (hkept.xfers rfl))

end

/-- Settles O20: DMA_GET and DMA_PUT, each by what leaves. -/
theorem dmaAndKvTransfersLeave : Obligations.DmaAndKvTransfersLeave := by
  unfold Obligations.DmaAndKvTransfersLeave
  refine ⟨?dram, ?kv⟩
  case dram =>
    intro s t c slot off rows ctr epoch a d ls ht hc k p code ha hd
    refine ⟨fun hi hl => ⟨fun hfit => ?_, dmaGet_refused ht hc ha hd hi, fun l y hpass hy hfit => ?_⟩, fun bs bad hi hbs hl => ?_⟩
    · obtain ⟨u, hu, hdram, hsent⟩ := dmaGet_sends (ctr := ctr) ht hc ha hd hi hl hfit
      exact ⟨u, _, hu, hsent, rfl, rfl, rfl, rfl, rfl, rfl, hdram⟩
    · obtain ⟨u, _, hu, hsent⟩ := dmaGet_embeds (ctr := ctr) ht hc ha hd hi hl hpass hy hfit
      exact ⟨u, _, hu, hsent, rfl⟩
    · obtain ⟨u, hu, hdram, hsent⟩ := dmaPut_sends (ctr := ctr) ht hc hi hbs ha hl
      exact ⟨u, _, hu, hsent, rfl, consumed_part (π := Part.tag) (fun _ _ _ => rfl) s t c bad p, hdram⟩
  case kv =>
    intro s t c slot off rows ctr epoch w v x bs bad ls ht hc k p hi hbs hv hpass hx e stripe a hl ys old zs stored residue
    exact dmaPut_sendsKv ht hc hi hbs hv hpass hx rfl hl

end Sys2Proof.Machine
end

section
/-! SUPPORT. The evidence ring and the BAR2 window (O42). -/

namespace Sys2Proof.Machine

variable {s : State} {fn p off a len : Nat}

/-! ### A record in the evidence ring (R387, R388) -/

/-- A record at the tail of a ring, which has moved past it. -/
def erPassed (e : EvRing) (r : SpoolRec) : EvRing :=
  { e with tail := (e.tail + recSlots r.bytes) % 2 ^ e.size, written := e.written ++ [recSlots r.bytes] }

/-- The record is written at TAIL. -/
def recordWritten (s : State) (fn : Nat) (r : SpoolRec) : State :=
  (s.emit (.hostWrite fn ((s.fnOf fn).er.base + 64 * (s.fnOf fn).er.tail) r.bytes)).modFn fn fun f => { f with er := erPassed f.er r }

theorem recordWritten_fnOf (s : State) (fn : Nat) (r : SpoolRec) :
    (recordWritten s fn r).fnOf fn = { s.fnOf fn with er := erPassed (s.fnOf fn).er r } := State.modFn_fnOf_self ..

/-- A record that fits before the ring's end is written at TAIL. -/
theorem erWrite_fits {r : SpoolRec} (hleft : recSlots r.bytes ≤ 2 ^ (s.fnOf fn).er.size - (s.fnOf fn).er.tail)
    (hfree : recSlots r.bytes ≤ erFree (s.fnOf fn).er) : erWrite fn [r] s = recordWritten s fn r := by
  simp only [erWrite, if_neg (Nat.not_lt.mpr hleft), Nat.add_zero, if_neg (Nat.not_lt.mpr hfree), if_true]
  rfl

/-- A record with no room stays in the spool, and those behind it. -/
theorem erWrite_full {r : SpoolRec} (rs : List SpoolRec) (hfull : erFree (s.fnOf fn).er < recSlots r.bytes) :
    erWrite fn (r :: rs) s = s := by
  simp only [erWrite]
  exact if_pos (hfull.trans_le (Nat.le_add_right ..))

section
variable (hfn : fn < 64) (hp : (s.fnOf fn).part = some p) (hen : (s.fnOf fn).er.en = true) (hq : (s.fnOf fn).qEn = true)
  (hissues : fnIssues s fn = true) (hstate : (s.part p).state ≠ .fenced)
include hfn hp hen hq hissues hstate

/-- A ring that is in service takes the records that are not yet in it. -/
theorem exec_evidenceRingWrite : exec (.evidenceRingWrite fn) s = .next
    (let s' := erWrite fn ((s.part p).spool.drop (s.fnOf fn).er.written.length) s
     let e := (s'.fnOf fn).er
     if e.written.length = (s.fnOf fn).er.written.length then s
     else raiseVec (s'.emit (.hostWrite fn e.wb (toLe 4 e.tail))) fn e.vector) := by
  have hfenced : fnFenced s fn = false := by simp [fnFenced, hp, hstate]
  refine (guarded_ok (by simp [instrWellFormed, okFn, hfn]) _).trans (congrArg Host.Outcome.next ?_)
  simp only [hp, hen, hq, hissues, hfenced, Bool.not_true, Bool.or_self, Bool.false_eq_true, if_false]

theorem evidenceRing_takes {r : SpoolRec} (hr : (s.part p).spool.drop (s.fnOf fn).er.written.length = [r])
    (hleft : recSlots r.bytes ≤ 2 ^ (s.fnOf fn).er.size - (s.fnOf fn).er.tail) (hfree : recSlots r.bytes ≤ erFree (s.fnOf fn).er) :
    ∃ u rest, exec (.evidenceRingWrite fn) s = .next u ∧
      u.out = s.out ++ [.hostWrite fn ((s.fnOf fn).er.base + 64 * (s.fnOf fn).er.tail) r.bytes,
        .hostWrite fn (s.fnOf fn).er.wb (toLe 4 (((s.fnOf fn).er.tail + recSlots r.bytes) % 2 ^ (s.fnOf fn).er.size))] ++ rest ∧
      (∀ m ∈ rest, m = .msix fn (s.fnOf fn).er.vector) ∧
      (u.fnOf fn).er = { (s.fnOf fn).er with
        tail := ((s.fnOf fn).er.tail + recSlots r.bytes) % 2 ^ (s.fnOf fn).er.size
        written := (s.fnOf fn).er.written ++ [recSlots r.bytes] } := by
  have hmoved : (s.fnOf fn).er.written.length + 1 ≠ (s.fnOf fn).er.written.length := Nat.succ_ne_self _
  obtain ⟨rest, hout, hrest⟩ := raiseVec_out ((recordWritten s fn r).emit
    (.hostWrite fn (erPassed (s.fnOf fn).er r).wb (toLe 4 (erPassed (s.fnOf fn).er r).tail))) fn (erPassed (s.fnOf fn).er r).vector
  obtain ⟨b, hfnOf⟩ := raiseVec_fnOf ((recordWritten s fn r).emit
    (.hostWrite fn (erPassed (s.fnOf fn).er r).wb (toLe 4 (erPassed (s.fnOf fn).er r).tail))) fn (erPassed (s.fnOf fn).er r).vector
  refine ⟨_, rest, (exec_evidenceRingWrite hfn hp hen hq hissues hstate).trans ?_, hout.trans ?_, hrest, ?_⟩
  · rw [hr, erWrite_fits hleft hfree]
    simp only [recordWritten_fnOf]
    rw [if_neg (by simp [erPassed])]
  · simp [recordWritten, erPassed]
  · rw [hfnOf, State.emit_fnOf', recordWritten_fnOf]
    rfl

theorem evidenceRing_waits {r : SpoolRec} {rs : List SpoolRec} (hr : (s.part p).spool.drop (s.fnOf fn).er.written.length = r :: rs)
    (hfull : erFree (s.fnOf fn).er < recSlots r.bytes) : exec (.evidenceRingWrite fn) s = .next s := by
  rw [exec_evidenceRingWrite hfn hp hen hq hissues hstate, hr, erWrite_full rs hfull]
  simp only [if_true]

end

/-! ### The BAR2 window (R371) -/

/-- What an access moves over the grid changes dies alone: the window stays where it is. -/
theorem bar2Cross_addr (s : State) (fn p off n : Nat) (write : Bool) (o : Nat) : bar2Addr (bar2Cross s fn p off n write) p o = bar2Addr s p o := by
  have hparts : (bar2Cross s fn p off n write).parts = s.parts := (bar2Cross_keeps (F := { dies := true }) (Keeps.refl _ s) fn p off n write rfl).outside.parts rfl
  simp only [bar2Addr, granulesOf, State.part, hparts]

/-- Nothing is moved where nothing is mapped. -/
theorem bar2Cross_nothing (s : State) (fn p off : Nat) (write : Bool) : bar2Cross s fn p off 0 write = s := by
  simp [bar2Cross]

/-- Bytes of the window inside one granule, and whether any is uncorrectable. -/
theorem bar2Read_within (ha : bar2Addr s p off = some a) (hin : len ≤ granBytes - off % granBytes) (hpos : 0 < len) :
    bar2Read s p off len = (memRead s.dram a len, dramBad s a len) := by
  have hlen : (len != 0) = true := by simpa using hpos.ne'
  simp only [bar2Read, Nat.min_eq_left hin, Nat.sub_self, ha, hlen, Bool.true_and]
  cases bar2Addr s p (off + len) <;> simp [memRead]

theorem bar2Read_nothing (s : State) (p off : Nat) : bar2Read s p off 0 = ([], false) := by
  simp only [bar2Read, Nat.zero_min, Nat.sub_zero, Nat.add_zero]
  cases bar2Addr s p off <;> rfl

/-- A write inside one granule lands at its DRAM address. -/
theorem bar2Write_within {d : List Byte} (ha : bar2Addr s p off = some a) (hin : d.length ≤ granBytes - off % granBytes) :
    bar2Write s p off d = dramWrite s a d false := by
  simp only [bar2Write, ha, if_pos hin, List.take_of_length_le hin]

/-- Zeros answer a read that reaches nothing, and it is counted. -/
def bar2Missed (s : State) (fn off len : Nat) : State :=
  (s.modFn fn fun f => { f with bar2Miss := satAdd f.bar2Miss 1 }).emit (.barRead fn off (List.replicate len 0) false)

theorem bar2Missed_count (s : State) (fn off len : Nat) :
    ((bar2Missed s fn off len).fnOf fn).bar2Miss = satAdd (s.fnOf fn).bar2Miss 1 := by
  rw [bar2Missed, State.emit_fnOf', State.modFn_fnOf_self]

section
variable (hfn : fn < 64)
include hfn

theorem bar2Access_writes {d : List Byte} (hp : (s.fnOf fn).part = some p) (hoff : off < bar2Size s fn) (ha : bar2Addr s p off = some a)
    (hin : d.length ≤ granBytes - off % granBytes) (hmapped : bar2Mapped s p off d.length = d.length) :
    exec (.bar2Access fn off (some d) len) s = .next (dramWrite (bar2Cross s fn p off d.length true) a d false) := by
  refine (guarded_ok (by simp [instrWellFormed, okFn, hfn]) _).trans (congrArg Host.Outcome.next ?_)
  simp only [hp, if_neg (Nat.not_le.mpr hoff), hmapped, lt_irrefl, if_false, List.take_length]
  exact bar2Write_within ((bar2Cross_addr ..).trans ha) hin

theorem bar2Access_reads (hp : (s.fnOf fn).part = some p) (hoff : off < bar2Size s fn) (ha : bar2Addr s p off = some a)
    (hin : len ≤ granBytes - off % granBytes) (hmapped : bar2Mapped s p off len = len) (hpos : 0 < len) :
    exec (.bar2Access fn off none len) s =
      .next ((bar2Cross s fn p off len false).emit (.barRead fn off (memRead s.dram a len) (dramBad s a len))) := by
  refine (guarded_ok (by simp [instrWellFormed, okFn, hfn]) _).trans (congrArg Host.Outcome.next ?_)
  simp only [hp, if_neg (Nat.not_le.mpr hoff), hmapped, lt_irrefl, if_false, bar2Read_within ha hin hpos, Nat.sub_self, List.replicate_zero,
    List.append_nil]

theorem bar2Access_unbound (hp : (s.fnOf fn).part = none) : exec (.bar2Access fn off none len) s = .next (bar2Missed s fn off len) := by
  refine (guarded_ok (by simp [instrWellFormed, okFn, hfn]) _).trans (congrArg Host.Outcome.next ?_)
  simp only [hp]
  rfl

theorem bar2Access_unmapped (hp : (s.fnOf fn).part = some p) (hoff : off < bar2Size s fn) (hmapped : bar2Mapped s p off len = 0)
    (hpos : 0 < len) : exec (.bar2Access fn off none len) s = .next (bar2Missed s fn off len) := by
  refine (guarded_ok (by simp [instrWellFormed, okFn, hfn]) _).trans (congrArg Host.Outcome.next ?_)
  simp only [hp, if_neg (Nat.not_le.mpr hoff), hmapped, hpos, if_true, bar2Cross_nothing, bar2Read_nothing, List.nil_append, Nat.sub_zero]
  rfl

end

/-- Settles O42: the record that fits and the one that waits, and an access to the window in a granule and beyond the mapped ones. -/
theorem evidenceRingAndWindow : Obligations.EvidenceRingAndWindow := by
  unfold Obligations.EvidenceRingAndWindow
  refine ⟨?ring, ?window⟩
  case ring =>
    intro s fn p r rs hfn hp e hen hq hissues hstate hr n
    refine ⟨fun hrs hleft hfree => ?_, evidenceRing_waits hfn hp hen hq hissues hstate hr⟩
    subst hrs
    exact evidenceRing_takes hfn hp hen hq hissues hstate hr hleft hfree
  case window =>
    intro s fn off p a hfn hp hoff ha
    refine ⟨fun d len => bar2Access_writes hfn hp hoff ha, fun len => bar2Access_reads hfn hp hoff ha, fun fn2 off2 len hfn2 hmiss => ?_⟩
    have hzeros : exec (.bar2Access fn2 off2 none len) s = .next (bar2Missed s fn2 off2 len) := by
      obtain hunbound | ⟨q, hq, hoff2, hunmapped, hpos⟩ := hmiss
      · exact bar2Access_unbound hfn2 hunbound
      · exact bar2Access_unmapped hfn2 hq hoff2 hunmapped hpos
    exact ⟨_, hzeros, rfl, bar2Missed_count .., rfl⟩

end Sys2Proof.Machine
end

section
/-! SUPPORT. What operations leave of dies and of their ports: a projection that does not see what they change. -/

namespace Sys2Proof.Machine

variable {α : Type} {π : Die → α} {ρ : TwPort → α} {s u v : State}

/-- Every die reads in `u` as in `s` through `π`. -/
def SameDies (π : Die → α) (s u : State) : Prop := ∀ j, π (u.die j) = π (s.die j)

theorem SameDies.refl (s : State) : SameDies π s s := fun _ => rfl

theorem SameDies.trans (h : SameDies π s u) (k : SameDies π u v) : SameDies π s v := fun j => (k j).trans (h j)

theorem SameDies.of_dies (h : u.dies = s.dies) : SameDies π s u := fun j => by rw [State.die, h]; rfl

theorem SameDies.modDie (s : State) (d : Nat) {f : Die → Die} (hf : ∀ x, π (f x) = π x) : SameDies π s (s.modDie d f) := by
  intro j
  by_cases h : j = d
  · rw [h, State.modDie_die_self, hf]
  · rw [State.modDie_die_other s h]

theorem SameDies.ite {c : Prop} [Decidable c] (hu : SameDies π s u) (hv : SameDies π s v) : SameDies π s (if c then u else v) := by
  split
  · exact hu
  · exact hv

theorem SameDies.foldl {κ : Type} {f : State → κ → State} (hf : ∀ q x, SameDies π q (f q x)) (l : List κ) :
    ∀ s, SameDies π s (l.foldl f s) := by
  induction l with
  | nil => exact SameDies.refl
  | cons x l ih => exact fun s => (hf s x).trans (ih _)

theorem SameDies.report (hπ : ∀ d e, π { d with ev := e } = π d) (s : State) (die block cls : Nat) (part : Option Nat)
    (fields : List (Nat × Nat)) : SameDies π s (report s die block cls part fields) :=
  report_die_reads hπ s die block cls part fields

theorem SameDies.poisonPass (s : State) (p : Nat) (i : Option Nat) (reason : Nat) : SameDies π s (poisonPass s p i reason) :=
  fun j => congrArg π (poisonPass_die s p i reason j)

/-! ### Ports -/

/-- A change of one port of a die. -/
def modPort (s : State) (die port : Nat) (f : TwPort → TwPort) : State := s.modDie die fun d => { d with tw := tmod {} d.tw port f }

/-- A port of a die. -/
def portOf (s : State) (die port : Nat) : TwPort := tget {} (s.die die).tw port

theorem modPort_portOf (s : State) (die port : Nat) (f : TwPort → TwPort) (d q : Nat) :
    portOf (modPort s die port f) d q = if d = die ∧ q = port then f (portOf s d q) else portOf s d q := by
  unfold portOf modPort
  by_cases hd : d = die
  · subst hd
    rw [State.modDie_die_self]
    by_cases hq : q = port
    · subst hq
      rw [if_pos ⟨rfl, rfl⟩, tget_tmod_self]
    · rw [if_neg fun h => hq h.2, tget_tmod_other _ hq]
  · rw [if_neg fun h => hd h.1, State.modDie_die_other s hd]

/-- What the ports of a die read through `ρ`. -/
def portsBy (ρ : TwPort → α) (d : Die) (q : Nat) : α := ρ (tget {} d.tw q)

/-- Every port reads in `u` as in `s` through `ρ`. -/
abbrev SamePorts (ρ : TwPort → α) : State → State → Prop := SameDies (portsBy ρ)

theorem SamePorts.portOf_eq (h : SamePorts ρ s u) (d q : Nat) : ρ (portOf u d q) = ρ (portOf s d q) := congrFun (h d) q

theorem SamePorts.modPort (s : State) (die port : Nat) {f : TwPort → TwPort} (hf : ∀ w, ρ (f w) = ρ w) :
    SamePorts ρ s (modPort s die port f) := by
  intro d
  funext q
  refine (congrArg ρ (modPort_portOf s die port f d q)).trans ?_
  split
  · exact hf _
  · rfl

/-- A change of dies that does not see bytes moved and transfers lost on a port. -/
structure MovesOnly (π : Die → α) : Prop where
  tx : ∀ d q n, π { d with tw := tmod {} d.tw q fun w => { w with tx := wrapAdd w.tx n } } = π d
  rx : ∀ d q n, π { d with tw := tmod {} d.tw q fun w => { w with rx := wrapAdd w.rx n } } = π d

theorem portsBy_tmod {f : TwPort → TwPort} (hf : ∀ w, ρ (f w) = ρ w) (d : Die) (q : Nat) :
    portsBy ρ { d with tw := tmod {} d.tw q f } = portsBy ρ d := by
  funext j
  unfold portsBy
  by_cases h : j = q
  · rw [h, tget_tmod_self, hf]
  · rw [tget_tmod_other _ h]

theorem MovesOnly.ports (hρ : ∀ w x y, ρ { w with tx := x, rx := y } = ρ w) : MovesOnly (portsBy ρ) where
  tx d q _ := portsBy_tmod (fun w => hρ w _ w.rx) d q
  rx d q _ := portsBy_tmod (fun w => hρ w w.tx _) d q

variable (hπ : MovesOnly π)
include hπ

theorem SameDies.countTx (s : State) (q : Nat × Nat) (n : Nat) : SameDies π s (countTx s q n) := SameDies.modDie s q.1 fun d => hπ.tx d q.2 n

theorem SameDies.countRx (s : State) (q : Nat × Nat) (n : Nat) : SameDies π s (countRx s q n) := by
  unfold Machine.countRx
  split
  · split
    · exact SameDies.modDie s _ fun d => hπ.rx d _ n
    · exact SameDies.refl s
  · exact SameDies.refl s

theorem SameDies.countFirst (s : State) (ls : List (Nat × Nat)) (n : Nat) : SameDies π s (countFirst s ls n) := by
  cases ls with
  | nil => exact SameDies.refl s
  | cons q ls => exact SameDies.countTx hπ s q n

theorem SameDies.countCrossed (s : State) (ls : List (Nat × Nat)) (n : Nat) : SameDies π s (countCrossed s ls n) :=
  (SameDies.foldl (fun _ _ => SameDies.countRx hπ _ _ _) ls s).trans (SameDies.foldl (fun _ _ => SameDies.countTx hπ _ _ _) _ _)

end Sys2Proof.Machine
end

section
/-! SUPPORT. Link errors (O25): flits, stripes and links that go down (R202, R464). -/

namespace Sys2Proof.Machine

variable {s u : State} {die port stripe now : Nat}

/-! ### Flits with parity errors (R464) -/

/-- A parity error on a stripe, as its port keeps it: in the interval `iv`, with the stripe marked where the resend failed. -/
def parityKept (iv stripe : Nat) (ok : Bool) (w : TwPort) : TwPort :=
  { w with
    parity := satAdd w.parity 1, ivl := iv, ivlErr := tmod 0 (if w.ivl = iv then w.ivlErr else []) stripe (· + 1)
    failed := if ok || w.failed.contains stripe then w.failed else w.failed ++ [stripe] }

theorem report_portOf (s : State) (die block cls : Nat) (part : Option Nat) (fields : List (Nat × Nat)) (d q : Nat) :
    portOf (report s die block cls part fields) d q = portOf s d q :=
  SamePorts.portOf_eq (ρ := id) (SameDies.report (fun _ _ => rfl) s die block cls part fields) d q

theorem flitParityError_counts {ok : Bool} (hd : die < 40) (hp : port < 4) (hn : (twNeighbour s.variant die port).isSome = true) :
    ∃ v, exec (.flitParityError die port stripe none ok now) s = .next v ∧
      portOf v die port = parityKept ((s.setNow now).now / 100000000) stripe ok (portOf s die port) := by
  refine ⟨_, guarded_ok (by simp [instrWellFormed, okDie, okEdge, hd, hp]) _, ?_⟩
  have hsome : ¬(twNeighbour (s.setNow now).variant die port).isNone = true := by simpa [Option.isSome_iff_ne_none] using hn
  dsimp only
  rw [if_neg hsome, report_portOf]
  refine (modPort_portOf (s.setNow now) die port (parityKept ((s.setNow now).now / 100000000) stripe ok) die port).trans ?_
  rw [if_pos ⟨rfl, rfl⟩]
  rfl

theorem flitParityError_unconnected {ok : Bool} (hd : die < 40) (hp : port < 4) (hn : (twNeighbour s.variant die port).isNone = true) :
    exec (.flitParityError die port stripe none ok now) s = .next (s.setNow now) := by
  refine (guarded_ok (by simp [instrWellFormed, okDie, okEdge, hd, hp]) _).trans (congrArg Host.Outcome.next ?_)
  exact if_pos hn

/-- The stripe of a failed resend is marked. -/
theorem mem_parityKept_failed (iv stripe : Nat) (w : TwPort) : stripe ∈ (parityKept iv stripe false w).failed := by
  simp only [parityKept, Bool.false_or]
  split
  case isTrue h => exact List.contains_iff_mem.mp h
  case isFalse => exact List.mem_append_right _ (List.mem_singleton_self _)

theorem parityKept_ivlErr (iv stripe : Nat) (ok : Bool) (w : TwPort) :
    tget 0 (parityKept iv stripe ok w).ivlErr stripe = (if w.ivl = iv then tget 0 w.ivlErr stripe else 0) + 1 := by
  simp only [parityKept, tget_tmod_self]
  split <;> rfl

theorem tileDie_of {tl : Nat} (h : tl < 32) : tileDie (die * 32 + tl) = die := by unfold tileDie; omega

theorem modTileDie_die_of {t d : Nat} (h : tileDie t = d) (s : State) (f : Die → Die) : (modTileDie s t f).die d = f (s.die d) := by
  subst h
  exact modTileDie_die_self ..

/-- A failed resend on an on-die channel is a permanent fault of its tile. -/
theorem flitParityError_shorts {tl : Nat} (hd : die < 40) (htl : tl < 32) (hp : port < 4) :
    ∃ v, exec (.flitParityError die port stripe (some (die * 32 + tl)) false now) s = .next v ∧
      (v.tile (die * 32 + tl)).short = true ∧ (v.die die).chanPar = satAdd (s.die die).chanPar 1 ∧
      (v.die die).permFaults = (s.die die).permFaults + 1 := by
  refine ⟨_, guarded_ok (by simp [instrWellFormed, okDie, okEdge, hd, hp]) _, ?_⟩
  dsimp only
  rw [if_neg Bool.false_ne_true]
  refine ⟨by rw [State.modTile_tile_self], ?_, ?_⟩ <;>
    rw [State.modTile_die']
  · refine (shortTile_die_reads (π := Die.chanPar) (fun _ _ => rfl) _ _ die).trans ?_
    rw [modTileDie_die_of (tileDie_of htl)]
    refine (report_die_reads (π := Die.chanPar) (fun _ _ => rfl) ..).trans ?_
    rw [State.modDie_die_self]
    rfl
  · refine (shortTile_die_reads (π := Die.permFaults) (fun _ _ => rfl) _ _ die).trans ?_
    rw [modTileDie_die_of (tileDie_of htl)]
    refine congrArg (· + 1) ((report_die_reads (π := Die.permFaults) (fun _ _ => rfl) ..).trans ?_)
    rw [State.modDie_die_self]
    rfl

/-! ### Transfers lost on a port (R202) -/

/-- A port apart from the bytes that it moved and the transfers lost on it. -/
def sansMoves (w : TwPort) : TwPort := { w with tx := 0, rx := 0, lost := 0 }

theorem countLost_samePorts (s : State) (q : Nat × Nat) (x : Xfer) : SamePorts sansMoves s (countLost s q x) := by
  have hmoves : MovesOnly (portsBy sansMoves) := .ports fun _ _ _ => rfl
  exact SameDies.ite (SameDies.refl s) ((SameDies.countCrossed hmoves _ _ _).trans (SameDies.countTx hmoves _ _ _))

/-- Every pass of `s` is in flight in `u`, and has failed there where it had in `s`. -/
def PoisonStays (s u : State) : Prop :=
  ∀ p id y, findPass s p id = some y → ∃ z, findPass u p id = some z ∧ (y.poison.isSome = true → z.poison.isSome = true)

theorem PoisonStays.of_parts (h : u.parts = s.parts) : PoisonStays s u := fun p id y hy => ⟨y, (findPass_of_parts h p id).trans hy, fun hp => hp⟩

theorem PoisonStays.trans {v : State} (h : PoisonStays s u) (k : PoisonStays u v) : PoisonStays s v := by
  intro p id y hy
  obtain ⟨z, hz, hyz⟩ := h p id y hy
  obtain ⟨w, hw, hzw⟩ := k p id z hz
  exact ⟨w, hw, hzw ∘ hyz⟩

theorem PoisonStays.foldl {κ : Type} {f : State → κ → State} (hf : ∀ q x, PoisonStays q (f q x)) (l : List κ) :
    ∀ s, PoisonStays s (l.foldl f s) := by
  induction l with
  | nil => exact fun s => .of_parts rfl
  | cons x l ih => exact fun s => (hf s x).trans (ih _)

theorem PoisonStays.poisonPass (s : State) (p i reason : Nat) : PoisonStays s (poisonPass s p (some i) reason) := by
  intro q id y hy
  by_cases hq : q = p
  · subst hq
    by_cases hi : id = i
    · subst hi
      exact ⟨_, by rw [poisonPass_findPass, hy, Option.map_some], fun _ => rfl⟩
    · exact ⟨y, (findPass_modPass_other hi s q (by exact fun _ => rfl)).trans hy, fun hp => hp⟩
  · refine ⟨y, ?_, fun hp => hp⟩
    unfold findPass allPasses Machine.poisonPass modPass at *
    rwa [State.modPart_part_other s hq]

theorem countLost_poisonStays (s : State) (q : Nat × Nat) (x : Xfer) : PoisonStays s (countLost s q x) :=
  .of_parts ((countLost_keeps (F := { dies := true }) (Keeps.refl _ s) q x rfl).outside.parts rfl)

/-- What is lost fails its passes, in turn. -/
def failLost (die port : Nat) (s : State) (x : Xfer) : State :=
  poisonPass (countLost s (die, port) x) x.part (some x.pass) reasonPassFailed

theorem failLost_poisonStays (die port : Nat) (s : State) (x : Xfer) : PoisonStays s (failLost die port s x) :=
  (countLost_poisonStays s _ x).trans (.poisonPass _ _ _ _)

theorem failLost_fails {y : Pass} (x : Xfer) (hy : findPass s x.part x.pass = some y) :
    ∃ z, findPass (failLost die port s x) x.part x.pass = some z ∧ z.poison.isSome = true := by
  obtain ⟨z, hz, -⟩ := countLost_poisonStays s (die, port) x _ _ _ hy
  exact ⟨_, by rw [failLost, poisonPass_findPass, hz, Option.map_some], rfl⟩

/-- Of a list of transfers, the pass of each one fails. -/
theorem foldl_failLost_fails {x : Xfer} {l : List Xfer} (hx : x ∈ l) : ∀ {s : State} {y : Pass}, findPass s x.part x.pass = some y →
    ∃ z, findPass (l.foldl (failLost die port) s) x.part x.pass = some z ∧ z.poison.isSome = true := by
  induction l with
  | nil => exact absurd hx List.not_mem_nil
  | cons w l ih =>
    intro s y hy
    obtain rfl | hl := List.mem_cons.mp hx
    · obtain ⟨z, hz, hfailed⟩ := failLost_fails (die := die) (port := port) x hy
      obtain ⟨a, ha, hstays⟩ := PoisonStays.foldl (failLost_poisonStays die port) l _ _ _ _ hz
      exact ⟨a, ha, hstays hfailed⟩
    · obtain ⟨z, hz, -⟩ := failLost_poisonStays die port s w _ _ _ hy
      exact ih hl hz

theorem failLost_samePorts (die port : Nat) (s : State) (x : Xfer) : SamePorts sansMoves s (failLost die port s x) :=
  (countLost_samePorts s _ x).trans (SameDies.poisonPass _ _ _ _)

theorem failLost_keeps (die port : Nat) (s : State) (x : Xfer) : Keeps { dies := true, parts := true } s (failLost die port s x) :=
  poisonPass_keeps (countLost_keeps (Keeps.refl _ s) _ x rfl) _ _ _ rfl

/-- The port has counted the transfers that it lost, and they are not in flight. -/
def lossCounted (s : State) (die port : Nat) (lost : Xfer → Bool) : State :=
  modPort { s with xfers := s.xfers.filter fun x => !(x.links.contains (die, port) && lost x) } die port fun w =>
    { w with lost := satAdd w.lost (s.xfers.filter fun x => x.links.contains (die, port) && lost x).length }

theorem loseXfers_eq (s : State) (die port : Nat) (lost : Xfer → Bool) : loseXfers s die port lost =
    (s.xfers.filter fun x => x.links.contains (die, port) && lost x).foldl (failLost die port) (lossCounted s die port lost) := rfl

/-- What is lost on a port leaves it up or down as it was, with its stripes. -/
theorem loseXfers_samePorts (s : State) (die port : Nat) (lost : Xfer → Bool) : SamePorts sansMoves s (loseXfers s die port lost) := by
  rw [loseXfers_eq]
  refine SameDies.trans ?_ (SameDies.foldl (failLost_samePorts die port) _ _)
  exact SameDies.trans (u := { s with xfers := s.xfers.filter fun x => !(x.links.contains (die, port) && lost x) }) (SameDies.of_dies rfl)
    (SamePorts.modPort _ die port (by exact fun _ => rfl))

theorem loseXfers_xfers (s : State) (die port : Nat) (lost : Xfer → Bool) :
    (loseXfers s die port lost).xfers = s.xfers.filter fun x => !(x.links.contains (die, port) && lost x) := by
  rw [loseXfers_eq]
  exact (Keeps.foldl (fun _ x hm => hm.trans (failLost_keeps die port _ x)) _ (Keeps.refl _ _)).outside.xfers rfl

theorem loseXfers_poisonStays (s : State) (die port : Nat) (lost : Xfer → Bool) : PoisonStays s (loseXfers s die port lost) := by
  rw [loseXfers_eq]
  exact PoisonStays.trans (u := lossCounted s die port lost) (.of_parts rfl) (.foldl (failLost_poisonStays die port) _ _)

theorem loseXfers_fails {lost : Xfer → Bool} {x : Xfer} {y : Pass} (hx : x ∈ s.xfers) (hl : x.links.contains (die, port) = true)
    (hlost : lost x = true) (hy : findPass s x.part x.pass = some y) :
    ∃ z, findPass (loseXfers s die port lost) x.part x.pass = some z ∧ z.poison.isSome = true := by
  rw [loseXfers_eq]
  refine foldl_failLost_fails (s := lossCounted s die port lost) (List.mem_filter.mpr ⟨hx, ?_⟩) hy
  rw [hl, hlost]
  rfl

/-! ### Links that go down (R202, R464) -/

/-- A port that is down has no stripe up. -/
def portCut (w : TwPort) : TwPort := { w with up := false, stripes := 0 }

/-- One end of a link goes down. -/
def endDown (s : State) (die port : Nat) : State := loseXfers (modPort s die port portCut) die port fun _ => true

theorem linkDown_unfold (s : State) (die port : Nat) : linkDown s die port =
    match twNeighbour s.variant die port with
    | some e => (match facingPort s.variant e die with
      | some r => endDown (endDown s die port) e r
      | none => endDown s die port)
    | none => endDown s die port := by
  have hv : (endDown s die port).variant = s.variant :=
    (loseXfers_keeps (F := { dies := true, parts := true, xfers := true }) (Keeps.modDie (Keeps.refl _ s) die _ rfl) die port _ rfl rfl rfl).module.1
  rw [← hv]
  rfl

theorem linkDown_eq {e r : Nat} (he : twNeighbour s.variant die port = some e) (hr : facingPort s.variant e die = some r) :
    linkDown s die port = endDown (endDown s die port) e r := by
  simp only [linkDown_unfold, he, hr]

theorem endDown_portOf (s : State) (die port d q : Nat) : sansMoves (portOf (endDown s die port) d q) =
    sansMoves (if d = die ∧ q = port then portCut (portOf s d q) else portOf s d q) := by
  rw [endDown, (loseXfers_samePorts _ die port _).portOf_eq, modPort_portOf]

/-- The port that goes down is cut, whatever becomes of the other end. -/
theorem linkDown_portOf (s : State) (die port : Nat) :
    sansMoves (portOf (linkDown s die port) die port) = sansMoves (portCut (portOf s die port)) := by
  have hcut : sansMoves (portOf (endDown s die port) die port) = sansMoves (portCut (portOf s die port)) := by
    rw [endDown_portOf, if_pos ⟨rfl, rfl⟩]
  rw [linkDown_unfold]
  split
  · split
    · rw [endDown_portOf]
      split
      · exact congrArg portCut hcut
      · exact hcut
    · exact hcut
  · exact hcut

theorem endDown_up (s : State) (die port d q : Nat) :
    (portOf (endDown s die port) d q).up = if d = die ∧ q = port then false else (portOf s d q).up := by
  refine (congrArg TwPort.up (endDown_portOf s die port d q)).trans ?_
  split <;> rfl

theorem endDown_xfers (s : State) (die port : Nat) :
    (endDown s die port).xfers = s.xfers.filter fun x => !x.links.contains (die, port) := by
  rw [endDown, loseXfers_xfers]
  simp only [Bool.and_true]
  rfl

theorem endDown_poisonStays (s : State) (die port : Nat) : PoisonStays s (endDown s die port) :=
  PoisonStays.trans (u := modPort s die port portCut) (.of_parts rfl) (loseXfers_poisonStays _ _ _ _)

theorem endDown_fails {x : Xfer} {y : Pass} (hx : x ∈ s.xfers) (hl : x.links.contains (die, port) = true)
    (hy : findPass s x.part x.pass = some y) : ∃ z, findPass (endDown s die port) x.part x.pass = some z ∧ z.poison.isSome = true :=
  loseXfers_fails (s := modPort s die port portCut) hx hl rfl hy

/-- A link goes down at both its ends, what was in flight on it is lost, and the passes of the first end's fail. -/
theorem twimerLinkDown_cuts {e r : Nat} (hd : die < 40) (hp : port < 4) (hup : (portOf s die port).up = true)
    (he : twNeighbour s.variant die port = some e) (hr : facingPort s.variant e die = some r) :
    exec (.twimerLinkDown die port now) s = .next (endDown (endDown (s.setNow now) die port) e r) := by
  refine (guarded_ok (by simp [instrWellFormed, okDie, okEdge, hd, hp]) _).trans (congrArg Host.Outcome.next ?_)
  dsimp only
  refine (if_pos (Bool.and_eq_true_iff.mpr ⟨hup, Option.isSome_of_eq_some he⟩)).trans ?_
  exact linkDown_eq he hr

/-! ### Stripes that go down (R464) -/

/-- A stripe leaves its port with the transfers on it. -/
def stripeLost (s : State) (die port stripe : Nat) : State :=
  report (modPort (loseXfers s die port fun x => xferStripe (portOf s die port) port x.src == stripe) die port fun w =>
    { w with stripes := w.stripes - 2 ^ stripe }) die 0x04 evStripeDown none [(1, die), (1, port), (1, stripe)]

theorem stripeLost_stripes (s : State) (die port stripe : Nat) :
    (portOf (stripeLost s die port stripe) die port).stripes = (portOf s die port).stripes - 2 ^ stripe := by
  rw [stripeLost, report_portOf, modPort_portOf, if_pos ⟨rfl, rfl⟩]
  have hkept := (loseXfers_samePorts s die port fun x => xferStripe (portOf s die port) port x.src == stripe).portOf_eq die port
  exact (congrArg (fun w : TwPort => w.stripes - 2 ^ stripe) hkept :)

theorem stripeDown_ignored (hd : die < 40) (hp : port < 4) (hbad : stripeBad (portOf s die port) stripe = false) :
    exec (.stripeDown die port stripe now) s = .next (s.setNow now) := by
  refine (guarded_ok (by simp [instrWellFormed, okDie, okEdge, hd, hp]) _).trans (congrArg Host.Outcome.next ?_)
  refine if_pos ?_
  have hkept : stripeBad (tget {} ((s.setNow now).die die).tw port) stripe = false := hbad
  rw [hkept, Bool.not_false, Bool.or_true, Bool.true_or]

theorem stripeDown_takes (hd : die < 40) (hp : port < 4) (hstripe : bitOf (portOf s die port).stripes stripe = true)
    (hn : (twNeighbour s.variant die port).isSome = true) (hbad : stripeBad (portOf s die port) stripe = true) :
    exec (.stripeDown die port stripe now) s = .next
      (if (portOf (stripeLost (s.setNow now) die port stripe) die port).stripes = 0
        then linkDown (stripeLost (s.setNow now) die port stripe) die port else stripeLost (s.setNow now) die port stripe) := by
  refine (guarded_ok (by simp [instrWellFormed, okDie, okEdge, hd, hp]) _).trans (congrArg Host.Outcome.next ?_)
  refine (if_neg ?_).trans rfl
  have hup : bitOf (tget {} ((s.setNow now).die die).tw port).stripes stripe = true := hstripe
  have hkept : stripeBad (tget {} ((s.setNow now).die die).tw port) stripe = true := hbad
  have hsome : (twNeighbour (s.setNow now).variant die port).isNone = false := by simpa [Option.isSome_iff_ne_none] using hn
  rw [hup, hkept, hsome]
  decide

/-- A bad stripe leaves its port; with the last one the port is down. -/
theorem stripeDown_leaves (hd : die < 40) (hp : port < 4) (hstripe : bitOf (portOf s die port).stripes stripe = true)
    (hn : (twNeighbour s.variant die port).isSome = true) (hbad : stripeBad (portOf s die port) stripe = true) :
    ∃ v, exec (.stripeDown die port stripe now) s = .next v ∧
      (portOf v die port).stripes = (portOf s die port).stripes - 2 ^ stripe ∧
      ((portOf s die port).stripes = 2 ^ stripe → (portOf v die port).up = false) := by
  have hleft : (portOf (stripeLost (s.setNow now) die port stripe) die port).stripes = (portOf s die port).stripes - 2 ^ stripe :=
    stripeLost_stripes ..
  refine ⟨_, stripeDown_takes hd hp hstripe hn hbad, ?_⟩
  split
  case isTrue hzero =>
    have hcut := linkDown_portOf (stripeLost (s.setNow now) die port stripe) die port
    exact ⟨(congrArg TwPort.stripes hcut).trans (hzero.symm.trans hleft), fun _ => congrArg TwPort.up hcut⟩
  case isFalse hsome => exact ⟨hleft, fun hlast => absurd (hleft.trans (by rw [hlast, Nat.sub_self])) hsome⟩

end Sys2Proof.Machine
end

section
/-! SUPPORT. The DRAM patrol and the fault windows (O25). -/

namespace Sys2Proof.Machine

variable {s u v : State} {k ch now : Nat}

/-! ### Channels (R441, R449) -/

theorem modChan_chanOf (s : State) (k ch : Nat) (f : Chan → Chan) (j c : Nat) :
    chanOf (modChan s k ch f) j c = if j = k ∧ c = ch then f (chanOf s j c) else chanOf s j c := by
  unfold chanOf modChan
  by_cases hj : j = k
  · subst hj
    rw [State.modStack_stack_self]
    by_cases hc : c = ch
    · subst hc
      rw [if_pos ⟨rfl, rfl⟩, tget_tmod_self]
    · rw [if_neg fun h => hc h.2, tget_tmod_other _ hc]
  · rw [if_neg fun h => hj h.1, State.modStack_stack_other s hj]

theorem modChan_chanOf_self (s : State) (k ch : Nat) (f : Chan → Chan) : chanOf (modChan s k ch f) k ch = f (chanOf s k ch) := by
  rw [modChan_chanOf, if_pos ⟨rfl, rfl⟩]

/-- Every channel is in `u` as it is in `s`. -/
def SameChans (s u : State) : Prop := ∀ j c, chanOf u j c = chanOf s j c

theorem SameChans.refl (s : State) : SameChans s s := fun _ _ => rfl

theorem SameChans.trans (h : SameChans s u) (k : SameChans u v) : SameChans s v := fun j c => (k j c).trans (h j c)

theorem SameChans.of_stackTab (h : u.stackTab = s.stackTab) : SameChans s u := fun j c => by rw [chanOf, State.stack, h]; rfl

theorem SameChans.modChan (s : State) (k ch : Nat) {f : Chan → Chan} (hf : ∀ x, f x = x) : SameChans s (modChan s k ch f) := by
  intro j c
  rw [modChan_chanOf, hf, ite_self]

theorem SameChans.ite {c : Prop} [Decidable c] (hu : SameChans s u) (hv : SameChans s v) : SameChans s (if c then u else v) := by
  split
  · exact hu
  · exact hv

theorem SameChans.foldl {κ : Type} {f : State → κ → State} (hf : ∀ q x, SameChans q (f q x)) (l : List κ) :
    ∀ s, SameChans s (l.foldl f s) := by
  induction l with
  | nil => exact SameChans.refl
  | cons x l ih => exact fun s => (hf s x).trans (ih _)

/-! ### Descriptors of sequences (R219, R220, R449) -/

/-- Four bytes fill no word: an unpoisoned write of them leaves the poison of every channel. -/
theorem dramWrite_sameChans {a : Nat} {bs : List Byte} (h : bs.length < 8) : SameChans s (dramWrite s a bs false) := by
  have hnone : (wordsOf a bs.length).filter (fun w => false || (decide (a ≤ 8 * w) && decide (8 * w + 8 ≤ a + bs.length))) = [] := by
    simp only [List.filter_eq_nil_iff, Bool.false_or, Bool.and_eq_true, decide_eq_true_eq]
    omega
  have hmark (m : State) (b : Nat) : SameChans m (markPoison m b [] false) :=
    SameChans.modChan m _ _ fun c => by simp
  unfold dramWrite
  refine SameChans.ite (SameChans.refl s) ?_
  simp only [hnone]
  refine SameChans.trans ?_ (SameChans.of_stackTab rfl)
  exact SameChans.ite (hmark s a) ((hmark s a).trans (hmark _ _))

theorem ctrlWrite_sameChans {p k off : Nat} {bs : List Byte} (h : bs.length < 8) : SameChans s (ctrlWrite s p k off bs) := by
  unfold ctrlWrite
  split
  · exact dramWrite_sameChans h
  · exact SameChans.refl s

theorem toLe_four (n : Nat) : (toLe 4 n).length < 8 := by rw [toLe_length]; decide

theorem setRoot_sameChans (p e r : Nat) (leaf : Option Nat) : SameChans s (setRoot s p e r leaf) :=
  SameChans.trans (u := s.modEntry e _) (SameChans.of_stackTab rfl) (ctrlWrite_sameChans (toLe_four _))

theorem setDesc_sameChans (p e : Nat) (ix : Bool) (j : Nat) (d : PageDesc) : SameChans s (setDesc s p e ix j d) := by
  unfold setDesc
  extract_lets r s1 s2
  have h1 : SameChans s s1 := SameChans.of_stackTab rfl
  have h2 : SameChans s s2 := SameChans.ite (h1.trans (setRoot_sameChans _ _ _ _)) h1
  split
  · exact h2
  · exact SameChans.ite (h2.trans (ctrlWrite_sameChans (toLe_four _)))
      ((h2.trans (ctrlWrite_sameChans (toLe_four _))).trans (setRoot_sameChans _ _ _ _))

/-! ### Uncorrectable words (R453, R459) -/

theorem poisonStripe_sameChans (p k stripe : Nat) : SameChans s (poisonStripe s p k stripe) := by
  unfold poisonStripe
  extract_lets ps fresh s1 s2
  have h1 : SameChans s s1 := SameChans.foldl (fun _ _ => setDesc_sameChans _ _ _ _ _) _ s
  have h2 : SameChans s s2 := h1.trans (SameChans.of_stackTab rfl)
  refine SameChans.ite h2 (h2.trans (SameChans.of_stackTab ?_))
  exact (reportLead_keeps (F := { mcEv := true, dies := true }) (Keeps.refl _ s2) _ _ _ rfl rfl).outside.stackTab rfl

theorem poisonOwner_sameChans (s : State) (a : Nat) : SameChans s (poisonOwner s a) := by
  unfold poisonOwner
  split
  · exact SameChans.refl s
  dsimp only
  split
  · split
    · exact SameChans.refl s
    · exact SameChans.ite (SameChans.refl s) (poisonStripe_sameChans _ _ _)
  · refine SameChans.foldl (fun m q => ?_) _ s
    exact SameChans.of_stackTab rfl
  · exact SameChans.of_stackTab ((poisonChunk_keeps (F := { engines := true, parts := true, nextOp := true }) (Keeps.refl _ s) _ _ _
      rfl rfl rfl).outside.stackTab rfl)
  · exact SameChans.refl s

theorem chanUncorrectable_chanOf (s : State) (a : Nat) (part : Option Nat) :
    chanOf (chanUncorrectable s a part) (addrStack a) (addrChan a) =
      { chanOf s (addrStack a) (addrChan a) with
        ue := satAdd (chanOf s (addrStack a) (addrChan a)).ue 1
        ue24 := tmod 0 (chanOf s (addrStack a) (addrChan a)).ue24 (hourOf s.now) (· + 1)
        poison := if (chanOf s (addrStack a) (addrChan a)).poison.contains (a / 8) then (chanOf s (addrStack a) (addrChan a)).poison
          else (chanOf s (addrStack a) (addrChan a)).poison ++ [a / 8] } := by
  unfold chanUncorrectable
  dsimp only
  have hreport (m : State) (die : Nat) (fs : List (Nat × Nat)) : SameChans m (report m die 0x05 evMemUncorrectable part fs) :=
    SameChans.of_stackTab ((report_keeps (F := { mcEv := true, dies := true }) (Keeps.refl _ m) _ _ _ _ _ rfl rfl).outside.stackTab rfl)
  rw [poisonOwner_sameChans, hreport, modChan_chanOf_self]

/-! ### The patrol (R460) -/

theorem addrStack_chanAddr {pos : Nat} (hch : ch < 16) (hpos : pos < chanUnits) : addrStack (chanAddr k ch pos) = k := by
  unfold chanUnits at hpos
  unfold addrStack addrGran chanAddr granBytes
  dsimp only
  omega

theorem addrChan_chanAddr {pos : Nat} (hch : ch < 16) (hpos : pos < chanUnits) : addrChan (chanAddr k ch pos) = ch := by
  unfold chanUnits at hpos
  unfold addrChan addrGran chanAddr granBytes
  dsimp only
  omega

/-- The patrol goes on to the next word, and begins again at the end of the channel. -/
def patrolMoved (c : Chan) : Chan :=
  if c.pos + 1 < chanUnits then { c with pos := c.pos + 1 } else { c with pos := 0, pass := wrapAdd c.pass 1 }

theorem patrolMoved_ce (c : Chan) : (patrolMoved c).ce = c.ce := by unfold patrolMoved; split <;> rfl
theorem patrolMoved_ue (c : Chan) : (patrolMoved c).ue = c.ue := by unfold patrolMoved; split <;> rfl
theorem patrolMoved_poison (c : Chan) : (patrolMoved c).poison = c.poison := by unfold patrolMoved; split <;> rfl

section
variable (hk : k < 20) (hch : ch < 16) (hfit : stackFitted s.variant k = true) (hlost : (s.stack k).lost = false)
  (hret : (s.stack k).retired.contains (ch / 2) = false)
include hk hch hfit hlost hret

/-- What the patrol's error check finds, and then its step. -/
theorem exec_dramPatrolRead (ecc : Ecc) : ∃ v, exec (.dramPatrolRead k ch ecc now) s = .next v ∧ chanOf v k ch = patrolMoved (chanOf
    (match ecc with
     | .clean => s.setNow now
     | .corrected => chanCorrected (s.setNow now) (chanAddr k ch (chanOf s k ch).pos)
     | .uncorrectable => chanUncorrectable (s.setNow now) (chanAddr k ch (chanOf s k ch).pos)
         ((granOwner (s.setNow now) (chanAddr k ch (chanOf s k ch).pos)).map Prod.fst)) k ch) := by
  refine ⟨_, guarded_ok (by simp [instrWellFormed, okStack, okChan, hk, hch]) _, ?_⟩
  dsimp only
  have hrun : (!stackFitted (s.setNow now).variant k || ((s.setNow now).stack k).lost || ((s.setNow now).stack k).retired.contains (ch / 2)) =
      false := by
    rw [State.setNow_variant, State.setNow_stack', hfit, hlost, hret]
    rfl
  rw [hrun, if_neg Bool.false_ne_true, modChan_chanOf_self]
  rfl

section
variable (hpos : (chanOf s k ch).pos < chanUnits)
include hpos

theorem dramPatrolRead_corrected : ∃ v, exec (.dramPatrolRead k ch .corrected now) s = .next v ∧
    (chanOf v k ch).ce = satAdd (chanOf s k ch).ce 1 ∧ (chanOf v k ch).ue = (chanOf s k ch).ue := by
  obtain ⟨v, hv, hchan⟩ := exec_dramPatrolRead (now := now) hk hch hfit hlost hret .corrected
  have hcorrected : chanOf (chanCorrected (s.setNow now) (chanAddr k ch (chanOf s k ch).pos)) k ch =
      { chanOf s k ch with
        ce := satAdd (chanOf s k ch).ce 1, ce24 := tmod 0 (chanOf s k ch).ce24 (hourOf (s.setNow now).now) (· + 1) } := by
    unfold chanCorrected
    rw [addrStack_chanAddr hch hpos, addrChan_chanAddr hch hpos, modChan_chanOf_self]
    rfl
  refine ⟨v, hv, ?_, ?_⟩ <;> rw [hchan]
  · rw [patrolMoved_ce, hcorrected]
  · rw [patrolMoved_ue, hcorrected]

theorem dramPatrolRead_uncorrectable : ∃ v, exec (.dramPatrolRead k ch .uncorrectable now) s = .next v ∧
    (chanOf v k ch).ue = satAdd (chanOf s k ch).ue 1 ∧
    (chanOf v k ch).poison.contains (chanAddr k ch (chanOf s k ch).pos / 8) = true := by
  obtain ⟨v, hv, hchan⟩ := exec_dramPatrolRead (now := now) hk hch hfit hlost hret .uncorrectable
  have hbad := chanUncorrectable_chanOf (s.setNow now) (chanAddr k ch (chanOf s k ch).pos)
    ((granOwner (s.setNow now) (chanAddr k ch (chanOf s k ch).pos)).map Prod.fst)
  rw [addrStack_chanAddr hch hpos, addrChan_chanAddr hch hpos] at hbad
  refine ⟨v, hv, ?_, ?_⟩ <;> rw [hchan]
  · rw [patrolMoved_ue, hbad]
    rfl
  · rw [patrolMoved_poison, hbad]
    dsimp only
    split
    case isTrue h => exact h
    case isFalse => simp

end

end

/-! ### The fault windows (R456, R465) -/

/-- A table reads its default, or one of its entries. -/
theorem tget_listed {α : Type} (d : α) (t : Tab α) (n : Nat) : tget d t n = d ∨ (n, tget d t n) ∈ t := by
  induction t with
  | nil => exact .inl rfl
  | cons q t ih =>
    obtain ⟨j, w⟩ := q
    rw [tget]
    split
    case isTrue h =>
      subst h
      exact .inr List.mem_cons_self
    case isFalse => exact ih.imp_right (List.mem_cons_of_mem _)

/-- No bucket older than 24 hours stands. -/
def Rolled (h : Nat) (b : Tab Nat) : Prop := ∀ hour n, hour + 24 ≤ h → (hour, n) ∉ b

theorem rolled_rollTab (h : Nat) (b : Tab Nat) : Rolled h (rollTab h b) := by
  intro hour n hold hmem
  have hyoung := (List.mem_filter.mp hmem).2
  simp only [decide_eq_true_eq] at hyoung
  omega

theorem rolled_nil (h : Nat) : Rolled h [] := fun _ _ _ => List.not_mem_nil

theorem rolled_rollUnits (h : Nat) (us : Tab (Tab Nat)) (j : Nat) : Rolled h (tget [] (rollUnits h us) j) := by
  obtain hnone | hlisted := tget_listed [] (rollUnits h us) j
  · rw [hnone]
    exact rolled_nil h
  · obtain ⟨q, -, hq⟩ := List.mem_map.mp (List.mem_filter.mp hlisted).1
    have hkept : rollTab h q.2 = tget [] (rollUnits h us) j := congrArg Prod.snd hq
    rw [← hkept]
    exact rolled_rollTab h q.2

/-- The windows of the tiles `l` roll. -/
def rollTiles (h : Nat) (s : State) (l : List (Nat × Tile)) : State :=
  l.foldl (fun s q => s.modTile q.1 fun x => { x with unitFaults := rollUnits h x.unitFaults }) s

theorem rollTiles_rolled (h t : Nat) (l : List (Nat × Tile)) : ∀ s : State,
    t ∈ l.map Prod.fst ∨ (∀ u, Rolled h (tget [] (s.tile t).unitFaults u)) → ∀ u, Rolled h (tget [] ((rollTiles h s l).tile t).unitFaults u) := by
  induction l with
  | nil =>
    rintro s (hmem | hrolled)
    · exact absurd hmem List.not_mem_nil
    · exact hrolled
  | cons q l ih =>
    intro s hor
    refine ih _ ?_
    by_cases hq : t = q.1
    · subst hq
      refine .inr fun u => ?_
      rw [State.modTile_tile_self]
      exact rolled_rollUnits h _ u
    · rw [State.modTile_tile_other s hq]
      exact hor.imp_left fun hmem => (List.mem_cons.mp hmem).resolve_left hq

theorem rollTiles_all (h t : Nat) (s : State) : ∀ u, Rolled h (tget [] ((rollTiles h s s.tiles).tile t).unitFaults u) := by
  refine rollTiles_rolled h t s.tiles s (Decidable.or_iff_not_imp_left.mpr fun hmem u => ?_)
  rw [State.tile, tget_unlisted hmem]
  exact rolled_nil h

/-- A channel's windows roll. -/
def rollChan (h : Nat) (x : Chan) : Chan := { x with ce24 := rollTab h x.ce24, ue24 := rollTab h x.ue24 }

/-- The windows of channels `cs` of stack `k` roll. -/
def rollChans (h k : Nat) (s : State) (cs : Tab Chan) : State := cs.foldl (fun s c => modChan s k c.1 (rollChan h)) s

/-- The windows of the stacks `l` roll. -/
def rollStacks (h : Nat) (s : State) (l : List (Nat × Stack)) : State := l.foldl (fun s q => rollChans h q.1 s q.2.chans) s

theorem rollChans_rolled (h k j c : Nat) (cs : Tab Chan) : ∀ s : State, (j = k ∧ c ∈ cs.map Prod.fst) ∨ Rolled h (chanOf s j c).ce24 →
    Rolled h (chanOf (rollChans h k s cs) j c).ce24 := by
  induction cs with
  | nil =>
    rintro s (⟨-, hmem⟩ | hrolled)
    · exact absurd hmem List.not_mem_nil
    · exact hrolled
  | cons q cs ih =>
    intro s hor
    refine ih _ ?_
    rw [modChan_chanOf]
    split
    case isTrue => exact .inr (rolled_rollTab h _)
    case isFalse hq => exact hor.imp_left fun ⟨hj, hmem⟩ => ⟨hj, (List.mem_cons.mp hmem).resolve_left fun hc => hq ⟨hj, hc⟩⟩

theorem rollStacks_rolled (h j c : Nat) (l : List (Nat × Stack)) : ∀ s : State,
    (∃ x, (j, x) ∈ l ∧ c ∈ x.chans.map Prod.fst) ∨ Rolled h (chanOf s j c).ce24 → Rolled h (chanOf (rollStacks h s l) j c).ce24 := by
  induction l with
  | nil =>
    rintro s (⟨x, hmem, -⟩ | hrolled)
    · exact absurd hmem List.not_mem_nil
    · exact hrolled
  | cons q l ih =>
    rintro s (⟨x, hmem, hc⟩ | hrolled)
    · obtain rfl | hrest := List.mem_cons.mp hmem
      · exact ih _ (.inr (rollChans_rolled h j j c x.chans s (.inl ⟨rfl, hc⟩)))
      · exact ih _ (.inl ⟨x, hrest, hc⟩)
    · exact ih _ (.inr (rollChans_rolled h q.1 j c q.2.chans s (.inr hrolled)))

theorem rollStacks_all (h j c : Nat) (s : State) : Rolled h (chanOf (rollStacks h s s.stackTab) j c).ce24 := by
  refine rollStacks_rolled h j c s.stackTab s ?_
  obtain hnone | hlisted := tget_listed {} s.stackTab j
  · refine .inr ?_
    rw [chanOf, State.stack, hnone]
    exact rolled_nil h
  · by_cases hc : c ∈ (s.stack j).chans.map Prod.fst
    · exact .inl ⟨_, hlisted, hc⟩
    · refine .inr ?_
      rw [chanOf, tget_unlisted hc]
      exact rolled_nil h

/-- The windows of the attention engines of the dies `l` roll. -/
def rollEngines (h : Nat) (s : State) (l : List (Nat × Die)) : State :=
  l.foldl (fun s q => q.2.ae.foldl (fun s a => modAe s q.1 a.1 fun x => { x with faults := rollUnits h x.faults }) s) s

theorem rollTiles_keeps (h : Nat) (s : State) (l : List (Nat × Tile)) : Keeps { tiles := true } s (rollTiles h s l) :=
  Keeps.foldl (fun _ _ hm => Keeps.modTile hm _ _ rfl) l (Keeps.refl _ s)

/-- The module once every window has rolled to the hour `h`. -/
def windowsRolled (h : Nat) (s : State) : State :=
  let u := rollEngines h (rollTiles h s s.tiles) (rollTiles h s s.tiles).dies
  rollStacks h u u.stackTab

theorem exec_faultWindowRoll (now : Nat) (s : State) :
    exec (.faultWindowRoll now) s = .next (windowsRolled (hourOf (s.setNow now).now) (s.setNow now)) := guarded_ok rfl _

theorem windowsRolled_keeps (h : Nat) (s : State) :
    Keeps { dies := true, stackTab := true } (rollTiles h s s.tiles) (windowsRolled h s) :=
  Keeps.foldl (fun _ q hm => Keeps.foldl (fun _ _ hn => modChan_keeps hn _ _ _ rfl) q.2.chans hm) _
    (Keeps.foldl (fun _ q hm => Keeps.foldl (fun _ _ hn => modAe_keeps hn _ _ _ rfl) q.2.ae hm) _ (Keeps.refl _ _))

theorem windowsRolled_tile (h : Nat) (s : State) (t : Nat) : (windowsRolled h s).tile t = (rollTiles h s s.tiles).tile t :=
  SameTiles.of_tiles (π := id) ((windowsRolled_keeps h s).outside.tiles rfl) t

theorem windowsRolled_now (h : Nat) (s : State) : (windowsRolled h s).now = s.now :=
  congrArg Time.now (((windowsRolled_keeps h s).outside.time rfl).trans ((rollTiles_keeps h s s.tiles).outside.time rfl))

theorem rollTiles_same {α : Type} {π : Tile → α} (hπ : ∀ x b, π { x with unitFaults := b } = π x) (h : Nat) (s : State)
    (l : List (Nat × Tile)) : SameTiles π s (rollTiles h s l) := by
  refine SameTiles.foldl (fun m q => ?_) l s
  exact SameTiles.modTile m q.1 fun x => hπ x _

end Sys2Proof.Machine
end
section
/-! SUPPORT. Link errors, the patrol and the fault windows: the settling of O25. -/

namespace Sys2Proof.Machine

/-- Settles O25: links by the ports at their ends, the patrol by the channel it reads, the windows by the tables that roll. -/
theorem linksAndDramReportErrors : Obligations.LinksAndDramReportErrors := by
  unfold Obligations.LinksAndDramReportErrors
  refine ⟨⟨?flit, ?onDie, ?stripe, ?link⟩, ?patrol, ?roll⟩
  case flit =>
    intro s die port stripe now ok hd hp _ w
    refine ⟨fun hn => ?_, flitParityError_unconnected hd hp⟩
    obtain ⟨v, hv, hport⟩ := flitParityError_counts (stripe := stripe) (now := now) (ok := ok) hd hp hn
    refine ⟨v, hv, congrArg TwPort.parity hport, fun hok => ?_, ?_⟩
    · subst hok
      exact (congrArg TwPort.failed hport).symm ▸ mem_parityKept_failed _ stripe w
    · exact (congrArg (fun w : TwPort => tget 0 w.ivlErr stripe) hport).trans (parityKept_ivlErr _ stripe ok w)
  case onDie =>
    intro s die tl port stripe now hd htl hp _
    exact flitParityError_shorts hd htl hp
  case stripe =>
    intro s die port stripe now hd hp _ w hup hn
    refine ⟨fun hbad => stripeDown_leaves hd hp hup hn ?_, fun hgood hfew => stripeDown_ignored hd hp ?_⟩
    · rw [stripeBad, Bool.or_eq_true, decide_eq_true_eq]
      exact hbad
    · rw [stripeBad, Bool.or_eq_false_iff, decide_eq_false_iff_not, Nat.not_le]
      exact ⟨hgood, hfew⟩
  case link =>
    intro s die port e r now hd hp hup he hr
    refine ⟨_, twimerLinkDown_cuts hd hp hup he hr, ?_, ?_, ?_, ?_⟩
    · have hfirst : (portOf (endDown (s.setNow now) die port) die port).up = false := (endDown_up ..).trans (if_pos ⟨rfl, rfl⟩)
      refine (endDown_up _ e r die port).trans ?_
      rw [hfirst, ite_self]
    · exact (endDown_up _ e r e r).trans (if_pos ⟨rfl, rfl⟩)
    · rw [endDown_xfers, endDown_xfers]
      rfl
    · intro x hx hl y hy
      obtain ⟨z, hz, hfailed⟩ := endDown_fails (s := s.setNow now) hx hl hy
      obtain ⟨a, ha, hstays⟩ := endDown_poisonStays (endDown (s.setNow now) die port) e r _ _ _ hz
      exact ⟨a, ha, hstays hfailed⟩
  case patrol =>
    intro s k ch now hk hch hfit hlost hret hpos c
    obtain ⟨v, hv, hclean⟩ := exec_dramPatrolRead (now := now) hk hch hfit hlost hret .clean
    refine ⟨fun hmore => ⟨v, hv, hclean.trans (if_pos hmore)⟩, fun hend => ⟨v, hv, hclean.trans (if_neg ?_)⟩,
      dramPatrolRead_corrected hk hch hfit hlost hret hpos, dramPatrolRead_uncorrectable hk hch hfit hlost hret hpos⟩
    exact hend.not_lt
  case roll =>
    intro s now
    refine ⟨_, exec_faultWindowRoll now s, ?_, ?_, ?_⟩
    · intro t hour n hold u
      rw [windowsRolled_now] at hold
      rw [windowsRolled_tile]
      exact rollTiles_all _ t _ u hour n hold
    · intro t
      rw [windowsRolled_tile]
      exact ⟨rollTiles_same (π := Tile.rows) (fun _ _ => rfl) _ _ _ t, rollTiles_same (π := Tile.basin) (fun _ _ => rfl) _ _ _ t⟩
    · intro k ch hour n hold
      rw [windowsRolled_now] at hold
      exact rollStacks_all _ k ch _ hour n hold

end Sys2Proof.Machine
end

section
/-! SUPPORT. Attention walks (O22): a walk that is issued, its acceptance, and the queries that an engine pulls. -/

namespace Sys2Proof.Machine

variable {s u : State} {t c e die now : Nat}

/-! ### Attention engines -/

/-- An attention engine of a die. -/
def aeOf (s : State) (die e : Nat) : Ae := tget {} (s.die die).ae e

theorem modAe_aeOf (s : State) (die e : Nat) (f : Ae → Ae) (d j : Nat) :
    aeOf (modAe s die e f) d j = if d = die ∧ j = e then f (aeOf s d j) else aeOf s d j := by
  unfold aeOf modAe
  by_cases hd : d = die
  · subst hd
    rw [State.modDie_die_self]
    by_cases hj : j = e
    · subst hj
      rw [if_pos ⟨rfl, rfl⟩, tget_tmod_self]
    · rw [if_neg fun h => hj h.2, tget_tmod_other _ hj]
  · rw [if_neg fun h => hd h.1, State.modDie_die_other s hd]

theorem modAe_aeOf_self (s : State) (die e : Nat) (f : Ae → Ae) : aeOf (modAe s die e f) die e = f (aeOf s die e) := by
  rw [modAe_aeOf, if_pos ⟨rfl, rfl⟩]

theorem aeOf_of_dies (h : u.dies = s.dies) (die e : Nat) : aeOf u die e = aeOf s die e := by
  rw [aeOf, State.die, h]
  rfl

/-! ### AE_ISSUE (R213) -/

/-- The context of a walk that waits at an engine issues nothing. -/
theorem issues_of_waiting {w : Walk} (h : w ∈ (aeOf s die e).waiting) (cd : Code) (us : List Res) : issues s w.tile w.ctx cd us = false := by
  have hdie : (die, s.die die) ∈ s.dies := by
    refine (tget_listed {} s.dies die).resolve_left fun hnone => ?_
    rw [aeOf, State.die, hnone] at h
    exact absurd h List.not_mem_nil
  have hae : (e, aeOf s die e) ∈ (s.die die).ae := by
    refine (tget_listed {} (s.die die).ae e).resolve_left fun hnone => ?_
    rw [aeOf, hnone] at h
    exact absurd h List.not_mem_nil
  have hwaits : aeWaits s w.tile w.ctx = true := by
    simp only [aeWaits, List.any_eq_true]
    exact ⟨_, hdie, _, hae, w, h, by simp⟩
  simp [issues, hwaits]

/-- The walk that an AE_ISSUE hands out. -/
def issuedWalk (t c e1 e2 : Nat) (k : Ctx) (w : WalkDecl) (x : Pass) : Walk :=
  { part := ctxPart k, slot := k.slot, pass := x.id, entry := x.entry, gen := k.gen, pair := w.pair, tile := t, ctx := c
    queries := w.queries, outs := w.outs, e1 := e1, e2 := e2 }

/-- The walk waits at the engine named. -/
theorem aeIssue_waits {walk e1 e2 : Nat} {w : WalkDecl} {x : Pass} (ht : t < 1280) (hc : c < 15) (he : e < 4)
    (hi : issues s t c { op := 0x38, e1 := e1, e2 := e2, a := walk, b := e } [] = true)
    (hw : (((ctxOf s t c).sched.map Sched.walks).getD [])[walk]? = some w) (hpass : (ctxOf s t c).pass = some x.id)
    (hx : findPass s (ctxPart (ctxOf s t c)) x.id = some x) :
    exec (.aeIssue t c walk e e1 e2) s = .next
      (let d := aeDie s (ctxPart (ctxOf s t c)) (ctxOf s t c).relTile t
       modAe s d (aeFor s d e) fun a => { a with waiting := a.waiting ++ [issuedWalk t c e1 e2 (ctxOf s t c) w x] }) := by
  refine (guarded_ok (by simp [instrWellFormed, okTile, okCtx, okEngine, ht, hc, he]) _).trans (congrArg Host.Outcome.next ?_)
  simp only [hi, if_true, hw, hpass, Option.bind_some, hx]
  rfl

/-! ### WALK_ACCEPT (R213, R243) -/

/-- An engine holds a walk, and the sequence's table with it. -/
def walkTaken (s : State) (die e : Nat) (w : Walk) (ws : List Walk) : State :=
  (modAe s die e fun a => { a with walks := a.walks ++ [w], waiting := ws }).modEntry w.entry fun y => { y with held := true }

section
variable (hd : die < 40) (he : e < 4)
include hd he

/-- The oldest walk that waits is held by the engine, with the table of its sequence; what follows is of tiles and partitions. -/
theorem walkAccept_takes {w : Walk} {ws : List Walk} (hwait : (aeOf s die e).waiting = w :: ws) (hroom : (aeOf s die e).walks.length < 4)
    (hfence : (aeOf s die e).fenced = false) (hrun : (s.part w.part).state = .running) :
    ∃ u, exec (.walkAccept die e now) s = .next u ∧ Keeps { tiles := true, parts := true } (walkTaken (s.setNow now) die e w ws) u := by
  have hwait' : (tget {} ((s.setNow now).die die).ae e).waiting = w :: ws := hwait
  have hgoes : (decide (4 ≤ (tget {} ((s.setNow now).die die).ae e).walks.length) || (tget {} ((s.setNow now).die die).ae e).fenced ||
      ((s.setNow now).part w.part).state != .running) = false := by
    have hroom' : (tget {} ((s.setNow now).die die).ae e).walks.length < 4 := hroom
    rw [decide_eq_false (Nat.not_le.mpr hroom'), Bool.false_or, Bool.or_eq_false_iff]
    exact ⟨hfence, by simp [hrun]⟩
  refine ⟨_, guarded_ok (by simp [instrWellFormed, okAd, okEngine, hd, he]) _, ?_⟩
  dsimp only
  rw [hwait']
  dsimp only
  rw [hgoes, if_neg Bool.false_ne_true]
  exact engineBusy_keeps (goTo_keeps (modPass_keeps (Keeps.refl _ _) _ _ _ rfl) _ _ _ rfl rfl) _ _ _ _ rfl

theorem walkAccept_full (hfull : 4 ≤ (aeOf s die e).walks.length) : exec (.walkAccept die e now) s = .next (s.setNow now) := by
  refine (guarded_ok (by simp [instrWellFormed, okAd, okEngine, hd, he]) _).trans (congrArg Host.Outcome.next ?_)
  have hfull' : 4 ≤ (tget {} ((s.setNow now).die die).ae e).walks.length := hfull
  dsimp only
  split
  · rfl
  · rw [decide_eq_true hfull', Bool.true_or, Bool.true_or, if_pos rfl]

end

/-! ### Queries that an engine pulls (R192, R195 to R197, R214) -/

/-- Rows released one after another: each of them once. -/
theorem foldl_release_tget (b n : Nat) (rs : Tab Row) (q : Nat) :
    tget {} (((List.range n).map fun i => b + i).foldl (fun y r => tmod {} y r rowRelease) rs) q =
      if b ≤ q ∧ q < b + n then rowRelease (tget {} rs q) else tget {} rs q := by
  induction n with
  | zero =>
    rw [if_neg (by omega)]
    rfl
  | succ n ih =>
    rw [List.range_succ, List.map_append, List.foldl_append, List.map_singleton, List.foldl_cons, List.foldl_nil]
    by_cases hq : q = b + n
    · rw [hq, tget_tmod_self, ← hq, ih, if_neg (by omega), if_pos (by omega)]
    · rw [tget_tmod_other _ hq, ih]
      exact if_congr (by omega) rfl rfl

/-- The rows of a query, read and released: the tile has counted the pull. -/
def queryPulled (b n : Nat) (x : Tile) : Tile :=
  { x with
    pullCnt := wrapAdd x.pullCnt 1
    rows := ((List.range n).map fun i => b + i).foldl (fun y r => tmod {} y r rowRelease) x.rows }

theorem pullHead_pulls {w : Walk} {f n : Nat} {h : HeadPort} {d : SlotDecl} (hport : portAt s w h = some (t, c))
    (hd : slotFor (ctxOf s t c) h.slot (h.off * fmtBits f / 8 / 64 + (h.off * fmtBits f / 8 % 64 + vecLen f n + 63) / 64) = some d)
    (hrows : ∀ i, i < (h.off * fmtBits f / 8 % 64 + vecLen f n + 63) / 64 →
      rowReads (rowOf (s.tile t) (d.base + h.off * fmtBits f / 8 / 64 + i)) w.e1 = true) :
    let n' := (h.off * fmtBits f / 8 % 64 + vecLen f n + 63) / 64
    let b := d.base + h.off * fmtBits f / 8 / 64
    let rs := (List.range n').map fun i => rowOf (s.tile t) (b + i)
    ∃ u, pullHead s w f n h = (u, some (readVec f n ((rs.map rowBytes).flatten.drop (h.off * fmtBits f / 8 % 64)), rs.any Row.poison)) ∧
      u.tile t = queryPulled b n' (s.tile t) := by
  intro n' b rs
  have hrow : rowOf ((s.modTile t fun x => { x with pullCnt := wrapAdd x.pullCnt 1 }).tile t) = rowOf (s.tile t) := by
    rw [State.modTile_tile_self]
    rfl
  have hserved : ((List.range n').map fun i => b + i).find? (fun r => !rowReads (rowOf (s.tile t) r) w.e1) = none := by
    rw [List.find?_map, range_find_none]
    · rfl
    · intro i hi
      simp only [Function.comp_apply, b, hrows i hi, Bool.not_true]
  dsimp only [n', b] at hserved
  unfold pullHead
  simp only [hport, hd, hrow, hserved, rs, n', b, List.map_map, Function.comp_def]
  refine ⟨_, rfl, ?_⟩
  rw [State.modTile_tile_self, State.modTile_tile_self]
  rfl

end Sys2Proof.Machine
end

section
/-! SUPPORT. Attention walks (O22): a walk that ends, and the outputs that leave with it. -/

namespace Sys2Proof.Machine

variable {s u v : State} {die e : Nat} {w : Walk}

/-! ### What an ending walk leaves of the engines (R243) -/

/-- The walks that an engine holds, and how many have ended there. -/
def heldWalks (a : Ae) : List Walk × Word := (a.walks, a.walkCnt)

/-- The walks of every engine of a die. -/
def dieWalks (d : Die) (j : Nat) : List Walk × Word := heldWalks (tget {} d.ae j)

/-- Every engine holds the same walks. -/
abbrev SameWalks : State → State → Prop := SameDies dieWalks

theorem modAe_sameWalks (s : State) (die e : Nat) {f : Ae → Ae} (hf : ∀ a, heldWalks (f a) = heldWalks a) : SameWalks s (modAe s die e f) := by
  intro d
  funext j
  refine (congrArg heldWalks (modAe_aeOf s die e f d j)).trans ?_
  split
  · exact hf _
  · rfl

theorem schedFault_sameWalks (s : State) (t p k : Nat) (pass : Option Nat) (slot row kind : Nat) :
    SameWalks s (schedFault s t p k pass slot row kind) := by
  unfold schedFault reportTile
  dsimp only
  refine SameDies.trans ?_ (SameDies.report (by exact fun _ _ => rfl) _ _ _ _ _ _)
  exact SameDies.trans (SameDies.poisonPass s p pass reasonSchedFault) (SameDies.of_dies rfl)

theorem portFault_sameWalks (s : State) (w : Walk) (h : HeadPort) (kind : Nat) : SameWalks s (portFault s w h kind) :=
  SameDies.trans (u := s.modTile w.tile _) (SameDies.of_dies rfl) (schedFault_sameWalks _ _ _ _ _ _ _ _)

theorem pullHead_sameWalks (s : State) (w : Walk) (f n : Nat) (h : HeadPort) : SameWalks s (pullHead s w f n h).1 := by
  unfold pullHead
  split
  · exact portFault_sameWalks s w h 0
  · dsimp only
    split
    · exact portFault_sameWalks s w h 0
    · split
      · exact SameDies.trans (u := s.modTile _ _) (SameDies.of_dies rfl) (schedFault_sameWalks _ _ _ _ _ _ _ _)
      · exact SameDies.of_dies rfl

theorem pullHead_sameWalks_of {f n : Nat} {h : HeadPort} {r : Option (List Val × Bool)} (hq : pullHead s w f n h = (u, r)) : SameWalks s u := by
  have hone := pullHead_sameWalks s w f n h
  rwa [hq] at hone

theorem pullHeads_sameWalks {f n : Nat} (hs : List HeadPort) : ∀ {s u : State} {r : Option (List (List Val) × Bool)},
    pullHeads s w f n hs = (u, r) → SameWalks s u := by
  induction hs with
  | nil =>
    rintro s u r ⟨⟩
    exact SameDies.refl s
  | cons h hs ih =>
    intro s u r hq
    unfold pullHeads at hq
    split at hq
    next heq =>
      cases hq
      exact pullHead_sameWalks_of heq
    next heq =>
      split at hq <;> next heq2 =>
        cases hq
        exact SameDies.trans (pullHead_sameWalks_of heq) (ih heq2)

theorem launchFrom_sameWalks (s : State) (die src : Nat) (k : Ctx) (dt dc : Nat) (ctr : Option Nat) (kind : XferKind) (bytes : Nat)
    (pull : Option Release) : SameWalks s (launchFrom s die src k dt dc ctr kind bytes pull) := by
  have hmoves : MovesOnly dieWalks := ⟨fun _ _ _ => rfl, fun _ _ _ => rfl⟩
  unfold launchFrom
  split
  · exact SameDies.poisonPass _ _ _ _
  · exact SameDies.trans (SameDies.of_dies rfl) (SameDies.countFirst hmoves _ _ _)

theorem putHead_sameWalks (s : State) (die engine : Nat) (w : Walk) (bad : Bool) (out : List Nat) (h : HeadPort) :
    SameWalks s (putHead s die engine w bad out h) := by
  unfold putHead
  dsimp only
  split
  · exact portFault_sameWalks s w h 1
  · split
    · exact portFault_sameWalks s w h 1
    · exact launchFrom_sameWalks _ _ _ _ _ _ _ _ _ _

theorem putHeads_sameWalks (s : State) (die engine : Nat) (w : Walk) (bad : Bool) (outs : List (List Nat)) :
    SameWalks s (putHeads s die engine w bad outs) := by
  unfold putHeads
  refine SameDies.foldl (fun m q => ?_) _ s
  exact putHead_sameWalks m die engine w bad q.1 q.2

/-- The work of a walk leaves the walks that engines hold. -/
theorem endWalk_sameWalks (s : State) (die engine : Nat) (w : Walk) (poison : Bool) : SameWalks s (endWalk s die engine w poison) := by
  unfold endWalk
  split
  case h_2 => exact SameDies.refl s
  split
  · exact SameDies.refl s
  split
  · exact SameDies.refl s
  refine SameDies.ite (SameDies.refl s) ?_
  dsimp only
  split
  next heq => exact pullHeads_sameWalks _ heq
  next m qs bad heq =>
    refine SameDies.trans (pullHeads_sameWalks _ heq) ?_
    generalize hm : modAe m die engine _ = n
    have hn : SameWalks m n := hm ▸ modAe_sameWalks m die engine fun _ => rfl
    refine SameDies.trans hn (SameDies.ite (SameDies.poisonPass _ _ _ _) ?_)
    have hpoison (b : Bool) : SameWalks n (if b then poisonPass n w.part (some w.pass) reasonPassFailed else n) :=
      SameDies.ite (SameDies.poisonPass _ _ _ _) (SameDies.refl n)
    exact SameDies.trans (hpoison _) (SameDies.trans (SameDies.of_dies rfl) (putHeads_sameWalks _ _ _ _ _ _))

/-! ### What outputs depend on as they leave -/

/-- What ports of a walk and routes depend on: the tiles of partitions, the contexts of tiles, and the links that are up. -/
structure SameHeads (s u : State) : Prop where
  routes : SameRoutes s u
  tiles : ∀ p, (u.part p).tiles = (s.part p).tiles
  ctxs : SameTiles Tile.ctxs s u

theorem SameHeads.trans (h : SameHeads s u) (k : SameHeads u v) : SameHeads s v where
  routes := ⟨k.routes.variant.trans h.routes.variant, fun d => (k.routes.state d).trans (h.routes.state d),
    fun d q => (k.routes.up d q).trans (h.routes.up d q)⟩
  tiles p := (k.tiles p).trans (h.tiles p)
  ctxs := h.ctxs.trans k.ctxs

theorem SameHeads.ctxOf_eq (h : SameHeads s u) (t c : Nat) : ctxOf u t c = ctxOf s t c := by rw [ctxOf, h.ctxs t]; rfl

theorem SameHeads.portAt_eq (h : SameHeads s u) (w : Walk) (p : HeadPort) : portAt u w p = portAt s w p := by
  have hdest (q k t c : Nat) : destCtx u q k t c = destCtx s q k t c := by simp only [destCtx, h.ctxs t]
  simp only [portAt, absTile, h.tiles, hdest]

/-- What routes depend on in a die. -/
def dieRoutes (d : Die) : DieState × (Nat → Bool) := (d.state, portsBy TwPort.up d)

theorem dieRoutes_moves : MovesOnly dieRoutes where
  tx d q n := congrArg (Prod.mk d.state) ((MovesOnly.ports fun _ _ _ => rfl).tx d q n)
  rx d q n := congrArg (Prod.mk d.state) ((MovesOnly.ports fun _ _ _ => rfl).rx d q n)

theorem SameRoutes.of_dieRoutes (hv : u.variant = s.variant) (h : SameDies dieRoutes s u) : SameRoutes s u :=
  ⟨hv, fun d => congrArg Prod.fst (h d), fun d q => congrFun (congrArg Prod.snd (h d)) q⟩

/-- A change of dies alone that routes do not see. -/
theorem SameHeads.of_dieRoutes (hv : u.variant = s.variant) (hp : u.parts = s.parts) (ht : u.tiles = s.tiles)
    (h : SameDies dieRoutes s u) : SameHeads s u :=
  ⟨.of_dieRoutes hv h, fun p => by rw [State.part, hp]; rfl, SameTiles.of_tiles ht⟩

theorem SameHeads.refl (s : State) : SameHeads s s := .of_dieRoutes rfl rfl rfl (SameDies.refl s)

theorem SameHeads.modTile (s : State) (t : Nat) {f : Tile → Tile} (hf : ∀ x, (f x).ctxs = x.ctxs) : SameHeads s (s.modTile t f) :=
  ⟨.of_dies rfl rfl, fun _ => rfl, SameTiles.modTile s t hf⟩

theorem SameHeads.modPart (s : State) (p : Nat) {f : Part → Part} (hf : ∀ q, (f q).tiles = q.tiles) : SameHeads s (s.modPart p f) := by
  refine ⟨.of_dies rfl rfl, fun q => ?_, SameTiles.of_tiles rfl⟩
  by_cases h : q = p
  · rw [h, State.modPart_part_self, hf]
  · rw [State.modPart_part_other s h]

theorem SameHeads.modPass (s : State) (p id : Nat) (f : Pass → Pass) : SameHeads s (modPass s p id f) := .modPart s p fun _ => rfl

theorem SameHeads.poisonPass (s : State) (p : Nat) (i : Option Nat) (reason : Nat) : SameHeads s (poisonPass s p i reason) := by
  cases i with
  | none => exact .refl s
  | some id => exact .modPass s p id _

theorem SameHeads.modAe (s : State) (die e : Nat) (f : Ae → Ae) : SameHeads s (modAe s die e f) :=
  .of_dieRoutes rfl rfl rfl (SameDies.modDie s die (by exact fun _ => rfl))

theorem SameHeads.report (s : State) (die block cls : Nat) (part : Option Nat) (fields : List (Nat × Nat)) :
    SameHeads s (report s die block cls part fields) := by
  have hkept := report_keeps (F := { mcEv := true, dies := true }) (Keeps.refl _ s) die block cls part fields rfl rfl
  exact .of_dieRoutes hkept.module.1 (hkept.outside.parts rfl) (hkept.outside.tiles rfl) (SameDies.report (by exact fun _ _ => rfl) _ _ _ _ _ _)

theorem SameHeads.schedFault (s : State) (t p k : Nat) (pass : Option Nat) (slot row kind : Nat) :
    SameHeads s (schedFault s t p k pass slot row kind) :=
  (SameHeads.poisonPass s p pass reasonSchedFault).trans
    ((SameHeads.modTile _ t (by exact fun _ => rfl)).trans ((SameHeads.modPart _ p (by exact fun _ => rfl)).trans (.report _ _ _ _ _ _)))

theorem SameHeads.portFault (s : State) (w : Walk) (h : HeadPort) (kind : Nat) : SameHeads s (portFault s w h kind) :=
  (SameHeads.modTile s w.tile (by exact fun _ => rfl)).trans (.schedFault _ _ _ _ _ _ _ _)

theorem SameHeads.launchFrom (s : State) (die src : Nat) (k : Ctx) (dt dc : Nat) (ctr : Option Nat) (kind : XferKind) (bytes : Nat)
    (pull : Option Release) : SameHeads s (launchFrom s die src k dt dc ctr kind bytes pull) := by
  unfold Machine.launchFrom
  split
  · exact .poisonPass _ _ _ _
  · next ls _ =>
    have hkept (m : State) := countFirst_keeps (F := { dies := true }) (Keeps.refl _ m) ls bytes rfl
    exact .of_dieRoutes (hkept _).module.1 ((hkept _).outside.parts rfl) ((hkept _).outside.tiles rfl)
      (SameDies.trans (SameDies.of_dies rfl) (SameDies.countFirst dieRoutes_moves _ _ _))

theorem SameHeads.putHead (s : State) (die engine : Nat) (w : Walk) (bad : Bool) (out : List Nat) (h : HeadPort) :
    SameHeads s (putHead s die engine w bad out h) := by
  unfold Machine.putHead
  dsimp only
  split
  · exact .portFault s w h 1
  · split
    · exact .portFault s w h 1
    · exact .launchFrom _ _ _ _ _ _ _ _ _ _

/-! ### Outputs that leave (R214, R231) -/

/-- What leaves with one head's output. -/
structure HeadSent (w : Walk) (bad : Bool) (out : List Nat) (h : HeadPort) (t c : Nat) (d : SlotDecl) (y : Xfer) : Prop where
  tile : y.tile = t
  ctx : y.ctx = c
  pass : y.pass = w.pass
  gen : y.gen = w.gen
  ctr : y.ctr = ctrOf h.ctr
  kind : y.kind = .rows ((toRows (packBytes 1 out)).map fun b => (b, bad)) (d.base + 2 * h.off / 64) true d.readers w.e2

section
variable {bad : Bool} {out : List Nat} {h : HeadPort} {t c : Nat} {d : SlotDecl} {ls : List (Nat × Nat)}

theorem putHead_sends (hport : portAt s w h = some (t, c))
    (hd : slotFor (ctxOf s t c) h.slot (2 * h.off / 64 + (toRows (packBytes 1 out)).length) = some d)
    (hl : linksOf s die (tileDie t) = some ls) : ∃ y ∈ (putHead s die e w bad out h).xfers, HeadSent w bad out h t c d y := by
  simp only [putHead, hport, hd, launchFrom, hl, countFirst_xfers]
  exact ⟨_, List.mem_append_right _ (List.mem_singleton_self _), rfl, rfl, rfl, rfl, rfl, rfl⟩

/-- What is in flight stays in flight as an output leaves. -/
theorem putHead_xfers (s : State) (die e : Nat) (w : Walk) (bad : Bool) (out : List Nat) (h : HeadPort) {y : Xfer} (hy : y ∈ s.xfers) :
    y ∈ (putHead s die e w bad out h).xfers := by
  have hfault (kind : Nat) : (portFault s w h kind).xfers = s.xfers :=
    (portFault_keeps (F := { mcEv := true, dies := true, tiles := true, parts := true }) (Keeps.refl _ s) w h kind rfl rfl rfl rfl).outside.xfers rfl
  unfold putHead
  dsimp only
  split
  · rwa [hfault]
  split
  · rwa [hfault]
  unfold launchFrom
  split
  · rwa [(poisonPass_keeps (F := { parts := true }) (Keeps.refl _ s) _ _ _ rfl).outside.xfers rfl]
  · rw [countFirst_xfers]
    exact List.mem_append_left _ hy

theorem foldl_putHead_xfers (die e : Nat) (w : Walk) (bad : Bool) {y : Xfer} (l : List (List Nat × HeadPort)) : ∀ {s : State}, y ∈ s.xfers →
    y ∈ (l.foldl (fun s q => putHead s die e w bad q.1 q.2) s).xfers := by
  induction l with
  | nil => exact fun hy => hy
  | cons q l ih => exact fun hy => ih (putHead_xfers _ die e w bad q.1 q.2 hy)

/-- Each output of a list leaves, whatever leaves before it and after it. -/
theorem foldl_putHead_sends {l : List (List Nat × HeadPort)} (hmem : (out, h) ∈ l) : ∀ {m : State}, SameHeads s m →
    portAt s w h = some (t, c) → slotFor (ctxOf s t c) h.slot (2 * h.off / 64 + (toRows (packBytes 1 out)).length) = some d →
    linksOf s die (tileDie t) = some ls →
    ∃ y ∈ (l.foldl (fun s q => putHead s die e w bad q.1 q.2) m).xfers, HeadSent w bad out h t c d y := by
  induction l with
  | nil => exact absurd hmem List.not_mem_nil
  | cons q l ih =>
    intro m hm hport hd hl
    obtain rfl | hrest := List.mem_cons.mp hmem
    · obtain ⟨y, hy, hsent⟩ := putHead_sends (s := m) (die := die) (e := e) (w := w) (bad := bad) (out := out) (h := h) (t := t) (c := c) (d := d)
        (ls := ls) ((hm.portAt_eq w h).trans hport) (by rw [hm.ctxOf_eq]; exact hd) ((hm.routes.linksOf_eq _ _).trans hl)
      exact ⟨y, foldl_putHead_xfers die e w bad l hy, hsent⟩
    · exact ih hrest (hm.trans (.putHead _ _ _ _ _ _ _)) hport hd hl

end

/-! ### The work of a walk (R213, R243; log entry 202) -/

/-- Queries that are pulled change rows and counts of tiles alone. -/
structure PulledOnly (s u : State) : Prop where
  ctxs : SameTiles Tile.ctxs s u
  only : ∃ T, u = { s with tiles := T }

theorem PulledOnly.sameHeads (h : PulledOnly s u) : SameHeads s u := by
  obtain ⟨T, rfl⟩ := h.only
  exact ⟨.of_dies rfl rfl, fun _ => rfl, h.ctxs⟩

theorem PulledOnly.trans (h : PulledOnly s u) (k : PulledOnly u v) : PulledOnly s v := by
  obtain ⟨T, rfl⟩ := h.only
  obtain ⟨T', rfl⟩ := k.only
  exact ⟨h.ctxs.trans k.ctxs, T', rfl⟩

theorem pullHead_only {f n : Nat} {h : HeadPort} {r : List Val × Bool} (hq : pullHead s w f n h = (u, some r)) : PulledOnly s u := by
  unfold pullHead at hq
  split at hq
  · cases hq
  · dsimp only at hq
    split at hq
    · cases hq
    · split at hq
      · cases hq
      · cases hq
        exact ⟨(SameTiles.modTile s _ (by exact fun _ => rfl)).trans (SameTiles.modTile _ _ (by exact fun _ => rfl)), _, rfl⟩

theorem pullHeads_only {f n : Nat} (hs : List HeadPort) : ∀ {s u : State} {r : List (List Val) × Bool},
    pullHeads s w f n hs = (u, some r) → PulledOnly s u := by
  induction hs with
  | nil =>
    rintro s u r ⟨⟩
    exact ⟨SameTiles.refl s, _, rfl⟩
  | cons h hs ih =>
    intro s u r hq
    unfold pullHeads at hq
    split at hq
    · cases hq
    next heq =>
      split at hq
      · cases hq
      next heq2 =>
        cases hq
        exact (pullHead_only heq).trans (ih heq2)

/-- A walk reads partitions, sequences and DRAM, and neither tiles nor the time. -/
theorem runWalk_pulled (s : State) (T : Tab Tile) (now p k : Nat) (v : KvParams) (y : Entry) (x : Pass) (pair order qf : Nat)
    (qs : List (List Val)) :
    runWalk { s.setNow now with tiles := T } p k v y x pair order qf qs = runWalk s p k v y x pair order qf qs := rfl

/-- The work of a walk whose queries can be pulled ends with its outputs put, from a state that has the same contexts and routes. -/
theorem endWalk_puts {now : Nat} {poison bad : Bool} {v : KvParams} {x : Pass} {pr : Pair} {l : Layer} {q : State} {qs : List (List Val)}
    (hv : kvOf s w.part w.slot = some v) (hx : findPass s w.part w.pass = some x) (hpr : v.pairs[w.pair]? = some pr)
    (hl : layerOf s w.part w.slot pr.layer = some l) (hstale : stale x pr.layer w.gen = false)
    (hpull : pullHeads (s.setNow now) w l.qFmt v.d (w.queries.take (groupHeads l)) = (q, some (qs, bad))) :
    let o := runWalk s w.part w.slot v (s.entry w.entry) x w.pair (((planOf s w.part w.slot).map Plain.order).getD 0) l.qFmt qs
    o.att.limit = false → ∃ n, endWalk (s.setNow now) die e w poison = putHeads n die e w (bad || o.poison || poison) o.outs ∧ SameHeads s n := by
  intro o hlimit
  have hq := pullHeads_only _ hpull
  have hnow : SameHeads s (s.setNow now) := .of_dieRoutes rfl rfl rfl (SameDies.of_dies rfl)
  have hrun : runWalk q w.part w.slot v (s.entry w.entry) x w.pair (((planOf s w.part w.slot).map Plain.order).getD 0) l.qFmt qs = o := by
    obtain ⟨T, rfl⟩ := hq.only
    exact runWalk_pulled ..
  have hv' : kvOf (s.setNow now) w.part w.slot = some v := hv
  have hx' : findPass (s.setNow now) w.part w.pass = some x := hx
  have hl' : layerOf (s.setNow now) w.part w.slot pr.layer = some l := hl
  have hentry : (s.setNow now).entry w.entry = s.entry w.entry := rfl
  have hplan : planOf (s.setNow now) w.part w.slot = planOf s w.part w.slot := rfl
  unfold endWalk
  simp only [hv', hx', hpr, hl', hstale, Bool.false_eq_true, if_false, hpull, hentry, hplan, hrun, hlimit]
  refine ⟨_, rfl, (hnow.trans hq.sameHeads).trans (SameHeads.trans ?_ (.modPass _ _ _ _))⟩
  split
  · exact (SameHeads.modAe q die e _).trans (.poisonPass _ _ _ _)
  · exact .modAe q die e _

/-! ### WALK_END (R243) -/

/-- The engine holds the walk no longer, and has counted it; the pass has one walk less. -/
def walkLeft (s : State) (die e idx : Nat) (w : Walk) : State :=
  modPass (modAe s die e fun a => { a with walks := a.walks.eraseIdx idx, walkCnt := wrapAdd a.walkCnt 1 }) w.part w.pass
    fun x => { x with walking := x.walking - 1 }

/-- The table of a sequence is held no longer than it has walks on the module. -/
def holdEnded (s : State) (y : Nat) : State := if entryWalking s y then s else s.modEntry y fun x => { x with held := false }

theorem holdEnded_held (s : State) (y : Nat) (h : entryWalking (holdEnded s y) y = false) : ((holdEnded s y).entry y).held = false := by
  by_cases hwalks : entryWalking s y = true
  · rw [holdEnded, if_pos hwalks] at h
    exact absurd (hwalks.symm.trans h) (by decide)
  · rw [holdEnded, if_neg hwalks, State.modEntry_entry_self]

theorem holdEnded_keeps (s : State) (y : Nat) : Keeps { entries := true } s (holdEnded s y) := by
  unfold holdEnded
  split
  · exact Keeps.refl _ s
  · exact Keeps.modEntry (Keeps.refl _ s) _ _ rfl

theorem exec_walkEnd {idx now : Nat} {poison : Bool} (hd : die < 40) (he : e < 4) (hw : (aeOf s die e).walks[idx]? = some w) :
    exec (.walkEnd die e idx poison now) s = .next (holdEnded (walkLeft (endWalk (s.setNow now) die e w poison) die e idx w) w.entry) := by
  have hw' : (tget {} ((s.setNow now).die die).ae e).walks[idx]? = some w := hw
  refine (guarded_ok (by simp [instrWellFormed, okAd, okEngine, hd, he]) _).trans (congrArg Host.Outcome.next ?_)
  simp only [hw']
  rfl

/-- The engine holds the walk no longer, whatever its work was. -/
theorem walkEnd_engine (s : State) (die e idx now : Nat) (poison : Bool) (w : Walk) :
    heldWalks (aeOf (holdEnded (walkLeft (endWalk (s.setNow now) die e w poison) die e idx w) w.entry) die e) =
      ((aeOf s die e).walks.eraseIdx idx, wrapAdd (aeOf s die e).walkCnt 1) := by
  have hsame : heldWalks (aeOf (endWalk (s.setNow now) die e w poison) die e) = heldWalks (aeOf s die e) :=
    congrFun (endWalk_sameWalks (s.setNow now) die e w poison die) e
  have hdies : (holdEnded (walkLeft (endWalk (s.setNow now) die e w poison) die e idx w) w.entry).dies =
      (modAe (endWalk (s.setNow now) die e w poison) die e fun a =>
        { a with walks := a.walks.eraseIdx idx, walkCnt := wrapAdd a.walkCnt 1 }).dies := (holdEnded_keeps _ _).outside.dies rfl
  rw [aeOf_of_dies hdies, modAe_aeOf_self]
  exact (congrArg (fun q : List Walk × Word => (q.1.eraseIdx idx, wrapAdd q.2 1)) hsame :)

theorem walkEnd_xfers (s : State) (die e idx now : Nat) (poison : Bool) (w : Walk) :
    (holdEnded (walkLeft (endWalk (s.setNow now) die e w poison) die e idx w) w.entry).xfers = (endWalk (s.setNow now) die e w poison).xfers :=
  (holdEnded_keeps _ _).outside.xfers rfl

/-- Settles O22: a walk from its issue to its end, by the engine that holds it and by what leaves with it. -/
theorem walksRunOnTheEngines : Obligations.WalksRunOnTheEngines := by
  unfold Obligations.WalksRunOnTheEngines
  refine ⟨⟨?issue, ?accept, ?full⟩, ?pull, ?finish⟩
  case issue =>
    intro s t c walk e e1 e2 w x ht hc he hi k hw hpass hx
    have hwaiting : (aeOf (modAe s (aeDie s (ctxPart k) k.relTile t) (aeFor s (aeDie s (ctxPart k) k.relTile t) e) fun a =>
        { a with waiting := a.waiting ++ [issuedWalk t c e1 e2 k w x] }) (aeDie s (ctxPart k) k.relTile t)
        (aeFor s (aeDie s (ctxPart k) k.relTile t) e)).waiting =
        (aeOf s (aeDie s (ctxPart k) k.relTile t) (aeFor s (aeDie s (ctxPart k) k.relTile t) e)).waiting ++
          [issuedWalk t c e1 e2 k w x] := by rw [modAe_aeOf_self]
    refine ⟨_, issuedWalk t c e1 e2 k w x, aeIssue_waits ht hc he hi hw hpass hx, rfl, rfl, rfl, rfl, rfl, rfl, rfl, rfl, rfl, rfl,
      hwaiting, rfl, fun cd us => ?_⟩
    exact issues_of_waiting (w := issuedWalk t c e1 e2 k w x)
      (hwaiting ▸ List.mem_append_right _ (List.mem_singleton_self _)) cd us
  case accept =>
    intro s die e now w ws hd he a hwait hroom hfence hrun
    obtain ⟨u, hu, hkept⟩ := walkAccept_takes (now := now) hd he hwait hroom hfence hrun
    have hae : aeOf u die e = { aeOf s die e with walks := (aeOf s die e).walks ++ [w], waiting := ws } :=
      (aeOf_of_dies (hkept.outside.dies rfl) die e).trans (modAe_aeOf_self (s.setNow now) die e _)
    refine ⟨u, hu, congrArg Ae.walks hae, congrArg Ae.waiting hae, ?_⟩
    rw [State.entry, hkept.outside.entries rfl]
    exact congrArg Entry.held (State.modEntry_entry_self ..)
  case full =>
    intro s die e now hd he hfull
    exact walkAccept_full hd he hfull
  case pull =>
    intro s w f n t c h d hport first skip rows hslot hrows rs
    obtain ⟨u, hu, htile⟩ := pullHead_pulls hport hslot hrows
    refine ⟨u, hu, fun i hi => ?_, congrArg Tile.pullCnt htile⟩
    rw [htile]
    exact (foldl_release_tget (d.base + first) rows (s.tile t).rows _).trans (if_pos ⟨Nat.le_add_right _ _, by omega⟩)
  case finish =>
    intro s die e idx now poison w hd he a hw
    have hengine := walkEnd_engine s die e idx now poison w
    refine ⟨_, exec_walkEnd hd he hw, congrArg Prod.fst hengine, congrArg Prod.snd hengine, holdEnded_held _ _, ?_⟩
    intro v x pr l q qs bad hv hx hpr hl hstale hpull o hlimit i out h t c d ls hout hh hport hslot hroute
    obtain ⟨n, hputs, hsame⟩ := endWalk_puts (die := die) (e := e) (poison := poison) hv hx hpr hl hstale hpull hlimit
    have hmem : (out, h) ∈ o.outs.zip w.outs := List.mem_of_getElem? (List.getElem?_zip_eq_some.mpr ⟨hout, hh⟩)
    obtain ⟨y, hy, htile, hctx, hpass, hgen, hctr, hkind⟩ :=
      foldl_putHead_sends (e := e) (bad := bad || o.poison || poison) hmem hsame hport hslot hroute
    rw [walkEnd_xfers, hputs]
    exact ⟨y, hy, htile, hctx, hpass, hgen, hctr, hkind⟩

end Sys2Proof.Machine
end

section
/-! SUPPORT. What completions and items that end leave of functions and sequences: `Ends` holds of every operation on them. -/

namespace Sys2Proof.Machine

variable {s m t : State}

/-- A function apart from what completions and function events change (R372, R383 to R388). -/
def sansEvents (f : Fn) : Fn := { f with buffer := [], outstanding := 0, descErr := 0, cqStall := 0, evt := 0, pba := 0, evDrop := 0 }

/-- Functions differ in completions and events alone. -/
abbrev SameQueues (s t : State) : Prop := ∀ k, sansEvents (t.fnOf k) = sansEvents (s.fnOf k)

theorem SameQueues.trans (h : SameQueues s m) (k : SameQueues m t) : SameQueues s t := fun j => (k j).trans (h j)

theorem SameQueues.of_fns (h : t.fns = s.fns) : SameQueues s t := fun k => by rw [State.fnOf, h]; rfl

theorem SameQueues.of_keeps {F : Footprint} (h : Keeps F s t) (hf : F.fns = false) : SameQueues s t := .of_fns (h.outside.fns hf)

/-- Functions differ in completions and events alone, and a sequence that closes goes on closing (R262). -/
structure Ends (s t : State) : Prop where
  queues : SameQueues s t
  closing : ∀ e, (s.entry e).closing = true → (t.entry e).closing = true

theorem Ends.refl (s : State) : Ends s s := ⟨fun _ => rfl, fun _ => id⟩

theorem Ends.trans (h : Ends s m) (k : Ends m t) : Ends s t := ⟨h.queues.trans k.queues, fun e => k.closing e ∘ h.closing e⟩

/-- The same, with the later operation first: it determines the state between. -/
theorem Ends.after (k : Ends m t) (h : Ends s m) : Ends s t := h.trans k

theorem Ends.of_eq (hf : t.fns = s.fns) (he : t.entries = s.entries) : Ends s t :=
  ⟨.of_fns hf, fun e h => by rw [State.entry, he]; exact h⟩

theorem Ends.of_keeps {F : Footprint} (h : Keeps F s t) (hf : F.fns = false) (he : F.entries = false) : Ends s t :=
  .of_eq (h.outside.fns hf) (h.outside.entries he)

theorem Ends.modFn (n : Nat) {f : Fn → Fn} (hf : ∀ g, sansEvents (f g) = sansEvents g) : Ends s (s.modFn n f) where
  queues k := by
    by_cases h : k = n
    · rw [h, State.modFn_fnOf_self, hf]
    · rw [State.modFn_fnOf_other s h]
  closing _ := id

theorem Ends.modEntry (e : Nat) {f : Entry → Entry} (hf : ∀ x, x.closing = true → (f x).closing = true) : Ends s (s.modEntry e f) where
  queues _ := rfl
  closing j := by
    by_cases h : j = e
    · rw [h, State.modEntry_entry_self]; exact hf _
    · rw [State.modEntry_entry_other s h]; exact id

theorem Ends.modPart (p : Nat) (f : Part → Part) : Ends s (s.modPart p f) := .of_eq rfl rfl

theorem Ends.ite {c : Prop} [Decidable c] {u : State} (ht : Ends s t) (hu : Ends s u) : Ends s (if c then t else u) := by
  split
  · exact ht
  · exact hu

theorem Ends.foldl {κ : Type} {f : State → κ → State} (hf : ∀ m x, Ends m (f m x)) (l : List κ) (s : State) : Ends s (l.foldl f s) := by
  induction l generalizing s with
  | nil => exact Ends.refl s
  | cons x l ih => exact (hf s x).trans (ih _)

/-! ### Completions and records (R383 to R388) -/

theorem produce_ends (fn : Nat) (c : Compl) : Ends s (produce s fn c) := by
  unfold produce
  extract_lets s'
  have h : Ends s s' := Ends.ite (Ends.modFn _ fun _ => rfl) (Ends.refl s)
  split
  · exact h.trans (Ends.modFn _ fun _ => rfl)
  · split
    · exact h.trans (Ends.modFn _ fun _ => rfl)
    · exact h.trans (Ends.modFn _ fun _ => rfl)

theorem completeWith_ends (h : HostRef) (reason entry count : Nat) : Ends s (completeWith s h reason entry count) :=
  Ends.ite (Ends.refl s) (produce_ends _ _)

theorem setEvt_ends (fn bit : Nat) : Ends s (setEvt s fn bit) := by
  unfold setEvt
  extract_lets s'
  have h : Ends s s' := Ends.modFn _ fun _ => rfl
  refine Ends.ite h (h.trans ?_)
  exact Ends.ite (Ends.refl _) (Ends.ite (Ends.modFn _ fun _ => rfl) (Ends.of_eq rfl rfl))

theorem report_ends (die block cls : Nat) (part : Option Nat) (fields : List (Nat × Nat)) : Ends s (report s die block cls part fields) :=
  Ends.of_keeps (F := { mcEv := true, dies := true }) (report_keeps (Keeps.refl _ s) die block cls part fields rfl rfl) rfl rfl

theorem spoolAdd_ends (p : Nat) (bytes : List Byte) : Ends s (spoolAdd s p bytes) := by
  unfold spoolAdd
  dsimp only
  split
  · exact Ends.refl s
  · have hdrop (n : Nat) : Ends s (setEvt (s.modFn n fun f => { f with evDrop := satAdd f.evDrop 1 }) n 4) :=
      (setEvt_ends _ _).after (Ends.modFn n fun _ => rfl)
    refine Ends.ite (Ends.modPart p _) (Ends.ite (hdrop _) ((report_ends _ _ _ _ _).after ?_))
    exact (hdrop _).trans (Ends.modPart p _)

theorem egressNarr_ends (p : Nat) (rec : List Byte) : Ends s (egressNarr s p rec) := by
  unfold egressNarr
  extract_lets v s'
  have h : Ends s s' := Ends.ite (spoolAdd_ends _ _) (Ends.refl s)
  refine Ends.ite (h.trans ?_) h
  exact Ends.of_keeps (F := { feedPorts := true, parts := true, free := true }) (sendRecord_keeps (Keeps.refl _ s') _ _ _ rfl rfl rfl) rfl rfl

/-! ### Items and sequences that close (R259, R262) -/

theorem keyRemove_ends (p e : Nat) : Ends s (keyRemove s p e) := Ends.ite (Ends.modPart _ _) (Ends.refl s)

theorem markClosing_ends (p e : Nat) : Ends s (markClosing s p e) := (keyRemove_ends _ _).after (Ends.modEntry e fun _ _ => rfl)

theorem markClosing_closing (s : State) (p e : Nat) : ((markClosing s p e).entry e).closing = true :=
  (keyRemove_ends p e).closing e (by rw [State.modEntry_entry_self])

theorem finishItem_ends (p e id reason : Nat) (limit stop : Bool) : Ends s (finishItem s p e id reason limit stop) := by
  unfold finishItem
  split
  · exact Ends.refl s
  · extract_lets s1 s2
    have h1 : Ends s s1 := Ends.modEntry e fun _ h => h
    have h2 : Ends s s2 := by
      unfold s2
      split
      · exact Ends.ite (h1.trans (produce_ends _ _)) h1
      · exact h1
    split
    · exact h2
    · exact (markClosing_ends _ _).after (h2.trans (egressNarr_ends _ _))

theorem removeItem_ends (p e id reason : Nat) : Ends s (removeItem s p e id reason) := by
  unfold removeItem
  split
  · exact Ends.refl s
  · extract_lets s'
    have h : Ends s s' := Ends.ite (Ends.modEntry e fun _ h => h) (Ends.refl s)
    exact Ends.ite (h.trans (finishItem_ends _ _ _ _ _ _)) (h.trans (Ends.modEntry e fun _ h => h))

theorem removeAll_ends (p e reason : Nat) : Ends s (removeAll s p e reason) := Ends.foldl (fun _ _ => removeItem_ends _ _ _ _) _ s

theorem endFrameWait_ends (p k e : Nat) : Ends s (endFrameWait s p k e) := (Ends.modPart _ _).after (Ends.modEntry e fun _ h => h)

/-- What a CLOSE does after the entry is marked leaves the mark. -/
theorem closeEntry_ends (p e : Nat) (h : Option HostRef) : Ends (markClosing s p e) (closeEntry s p e h) := by
  unfold closeEntry
  extract_lets s1 s2 s3 s4 x s5 d s6
  have h2 : Ends s1 s2 := by
    unfold s2
    split
    · exact Ends.modEntry e fun _ h => h
    · exact Ends.refl s1
  have h3 : Ends s1 s3 := h2.trans (removeAll_ends _ _ _)
  have h4 : Ends s1 s4 := by
    unfold s4
    split
    · exact (completeWith_ends _ _ _ _).after (h3.trans (Ends.modEntry e fun _ h => h))
    · exact h3
  have h5 : Ends s1 s5 := Ends.ite (h4.trans (endFrameWait_ends _ _ _)) h4
  have h6 : Ends s1 s6 := h5.trans (Ends.modEntry _ fun _ _ => rfl)
  exact Ends.ite (Ends.ite (h6.trans (endFrameWait_ends _ _ _)) h6) h5

theorem closeEntry_closing (s : State) (p e : Nat) (h : Option HostRef) : ((closeEntry s p e h).entry e).closing = true :=
  (closeEntry_ends p e h).closing e (markClosing_closing s p e)

theorem closeEntry_queues (p e : Nat) (h : Option HostRef) : SameQueues s (closeEntry s p e h) :=
  ((markClosing_ends p e).trans (closeEntry_ends p e h)).queues

end Sys2Proof.Machine
end

section
/-! SUPPORT. Descriptors (R376 to R382): what each makes of the function that brought it, of its partition and of the entry it names. -/

namespace Sys2Proof.Machine

variable {s : State} {p fn n e arr : Nat} {d : List Byte} {h : HostRef}

/-! ### Completions in the buffer (R385) -/

/-- A completion of no item replaces no PROGRESS. -/
theorem replaceProgress_none {c : Compl} (hc : c.item = none) (l : List Compl) : replaceProgress c l = none := by
  induction l with
  | nil => rfl
  | cons d l ih => simp [replaceProgress, hc, ih]

/-- A completion of no item goes behind those that wait, but for a quiet success with nothing to write. -/
theorem produce_buffer {c : Compl} (hc : c.item = none) (hw : (c.quiet && c.reason == 0 && !c.progress && c.data.isEmpty) = false)
    (s : State) (fn : Nat) : c ∈ ((produce s fn c).fnOf fn).buffer := by
  unfold produce
  extract_lets s' r waiting stalled
  rw [if_neg (by rw [hw]; decide), replaceProgress_none hc]
  dsimp only
  rw [State.modFn_fnOf_self]
  exact List.mem_append_right _ (List.mem_singleton_self _)

/-- The plain completion of a live host command: a failure, or a success that is not quiet. -/
theorem completeWith_buffer {reason : Nat} (hl : h.live = true) (hr : reason ≠ 0 ∨ h.quiet = false) (s : State) (e count : Nat) :
    ∃ c ∈ ((completeWith s h reason e count).fnOf h.fn).buffer, c.tag = h.tag ∧ c.sq = h.sq ∧ c.reason = reason ∧ c.entry = e := by
  have hshown : (h.quiet && reason == 0) = false := by
    rcases hr with hr | hr
    · simp [hr]
    · simp [hr]
  unfold completeWith
  rw [if_neg (by simp [hl])]
  exact ⟨_, produce_buffer rfl (by simp [hshown]) _ _, rfl, rfl, rfl, rfl⟩

/-- A completion is the function's own: sequences stay. -/
theorem completeWith_entry (s : State) (h : HostRef) (reason e count j : Nat) :
    (completeWith s h reason e count).entry j = s.entry j := by
  have hf : Fixes (fun _ : Part => ()) (fun x : Entry => x) s (completeWith s h reason e count) :=
    Fixes.ite (Fixes.refl s) (produce_fixes _ _)
  exact hf.entry j

/-! ### The operations (R377 to R382) -/

/-- Where the completion of a descriptor of SQ `n` goes (R377). -/
def descHost (fn n : Nat) (d : List Byte) : HostRef := { fn := fn, sq := n, tag := leAt d 2 2, quiet := bitOf (byteAt d 1) 0 }

/-- The entry that a descriptor names (R377). -/
def descTarget (d : List Byte) : Nat := leAt d 4 4 % 2 ^ 17

theorem runDesc_malformed (h : descReason s p d ≠ 0) :
    runDesc s p fn n arr d = completeWith s (descHost fn n d) (descReason s p d) (descTarget d) 0 := by
  simp only [runDesc, bne_iff_ne.mpr h, if_true]; rfl

theorem runDesc_wellFormed (h : descReason s p d = 0) : runDesc s p fn n arr d =
    match byteAt d 0 with
    | 0 => completeWith s (descHost fn n d) 0 (descTarget d) 0
    | 1 => descOpen s p (descHost fn n d) d
    | 2 => descScore s p (descHost fn n d) arr d
    | 3 => descDecode s p (descHost fn n d) arr d
    | 4 => descClose s p (descHost fn n d) d
    | 6 => descQuery s p (descHost fn n d) d
    | op => (s.modFn fn fun f => { f with
        reads := f.reads ++ [{ edit := op == 5, sq := n, addr := leAt d 8 8, quiet := (descHost fn n d).quiet }] }).emit
        (.hostRead fn (leAt d 8 8) 64) := by
  simp only [runDesc, h, bne_self_eq_false, Bool.false_eq_true, if_false]; rfl

/-- The entry that an opening makes, with its root table (R261). -/
def openedEntry (a : OpenArgs) (root : Nat) : Entry :=
  { open_ := true, cls := a.cls, variant := a.variant, slot := a.slot, dropOnMiss := a.drop, refMode := a.ref, specEn := a.spec
    root := 2 * root, seqId := a.seqId, draft := a.draft, narrative := a.narrative }

/-- A FREE entry opens in the base variant where its slot has a free root table (R261). -/
theorem openEntry_opens {a : OpenArgs} {r : Nat} {pool : KvPool} (hfree : (s.entry e).open_ = false) (hvar : a.variant = 0)
    (hroot : popRoot (s.slot p a.slot).pool = some (r, pool)) :
    openEntry s p e a = .ok ((modPool s p a.slot fun _ => pool).modEntry e fun _ => openedEntry a r) := by
  simp [openEntry, hfree, hvar, hroot, openedEntry]

/-- An entry without SPEC_EN opens without a draft entry (R276). -/
theorem openMain_alone {a : OpenArgs} {u : State} (hspec : a.spec = false) (ho : openEntry s p e a = .ok u) : openMain s p e a = .ok u := by
  simp [openMain, ho, hspec]

/-- What an OPEN descriptor asks of the entry (R378). -/
def openArgs (d : List Byte) : OpenArgs :=
  { seqId := leAt d 8 8, cls := fld (leAt d 16 4) 0 2, variant := fld (leAt d 16 4) 2 4, slot := fld (leAt d 16 4) 6 4
    drop := bitOf (leAt d 16 4) 10, ref := bitOf (leAt d 16 4) 11, spec := bitOf (leAt d 16 4) 12 }

/-- OPEN of a named entry of the partition, without a key and without SPEC_EN (R378). -/
theorem descOpen_opens {u : State} (hany : bitOf (leAt d 4 4) 31 = false) (hown : ownsEntry s p (descTarget d) = true) (hkey : byteAt d 21 = 0)
    (hspec : bitOf (leAt d 16 4) 12 = false) (ho : openEntry s p (descTarget d) (openArgs d) = .ok u) :
    descOpen s p h d = completeWith u h 0 (descTarget d) 0 := by
  have hkeys : slice d 24 (byteAt d 21) = [] := by simp [hkey, slice]
  have hmain := openMain_alone hspec ho
  unfold openArgs at ho hmain
  unfold descTarget at *
  simp only [descOpen, hany, Bool.false_eq_true, if_false, hown, Bool.not_true, ho, hmain, hkeys, bne_self_eq_false, Bool.false_and,
    beq_self_eq_true, if_true]
  cases keyRoom u p (byteAt d 20) [] <;> rfl

/-- A work item goes behind those of its entry, under a number of its own (R259). -/
theorem addItem_entry (s : State) (p e : Nat) (i : Item) :
    ((addItem s p e i).entry e).queue = (s.entry e).queue ++ [{ i with id := (s.part p).nextItem }] :=
  congrArg Entry.queue (State.modEntry_entry_self (s.modPart p fun q => { q with nextItem := (s.part p).nextItem + 1 }) e _)

/-- The item of a SCORE descriptor for an entry of class `cls` (R379). -/
def scoreWork (s : State) (p cls : Nat) (h : HostRef) (arr : Nat) (d : List Byte) : Item :=
  { id := 0, kind := .score, host := some h, left := scoreTokens d, arrival := arr, result := leAt d 16 8
    deadline := if leAt d 8 8 = 0 then budget arr (tget 0 (s.part p).serv.dlEvent cls) else some (leAt d 8 8) }

theorem descScore_adds (hw : workReason s p (descTarget d) (scoreTokens d).length = 0) :
    descScore s p h arr d = addItem s p (descTarget d) (scoreWork s p (s.entry (descTarget d)).cls h arr d) := by
  unfold descTarget at *
  simp only [descScore, hw, bne_self_eq_false, Bool.false_eq_true, if_false]
  rfl

/-- The item of a DECODE descriptor (R380). -/
def decodeWork (h : HostRef) (arr : Nat) (d : List Byte) : Item :=
  { id := 0, kind := .decode, host := some h, arrival := arr, prompt := some (leAt d 8 8, leAt d 24 2 % 2 ^ 12 + 1)
    outAddr := leAt d 16 8, limit := leAt d 26 2 + 1
    stop := if bitOf (leAt d 28 4) 31 then some (leAt d 28 4 % 2 ^ 18) else none, notify := byteAt d 32 }

theorem descDecode_adds (hw : workReason s p (descTarget d) (leAt d 24 2 % 2 ^ 12 + 1) = 0)
    (hlm : ((planOf s p (s.entry (descTarget d)).slot).map headLm).getD false = true) :
    descDecode s p h arr d = addItem s p (descTarget d) (decodeWork h arr d) := by
  unfold descTarget at *
  simp only [descDecode, hw, hlm, bne_self_eq_false, Bool.not_true, Bool.false_eq_true, if_false]
  rfl

theorem descClose_closes (hown : ownsEntry s p (descTarget d) = true) (hopen : (s.entry (descTarget d)).open_ = true) :
    descClose s p h d = closeEntry s p (descTarget d) (some h) := by
  unfold descTarget at *
  simp only [descClose, hown, hopen, Bool.not_true, Bool.false_eq_true, if_false]

/-- The completion of a QUERY: the bytes of the entry, and how far it is committed (R381). -/
def queryCompl (s : State) (p : Nat) (h : HostRef) (d : List Byte) : Compl :=
  { sq := h.sq, item := none, tag := h.tag, quiet := h.quiet, entry := descTarget d, position := (s.entry (descTarget d)).committed
    data := [(leAt d 8 8, entryBytes s p (descTarget d) 0)] }

theorem descQuery_answers (hown : ownsEntry s p (descTarget d) = true) :
    descQuery s p h d = produce s h.fn (queryCompl s p h d) := by
  unfold queryCompl descTarget at *
  simp only [descQuery, hown, Bool.not_true, Bool.false_eq_true, if_false]

/-! ### What every descriptor leaves -/

theorem addItem_queues (p e : Nat) (i : Item) : SameQueues s (addItem s p e i) := .of_fns rfl

theorem tableFull_queues (p : Nat) (noEntry : Bool) : SameQueues s (tableFull s p noEntry) :=
  .of_keeps (F := { mcEv := true, dies := true, parts := true }) (tableFull_keeps (Keeps.refl _ s) p noEntry rfl rfl rfl) rfl

theorem openMain_queues {a : OpenArgs} {u : State} (ho : openMain s p e a = .ok u) : SameQueues s u :=
  .of_keeps (F := { parts := true, entries := true }) (openMain_keeps (Keeps.refl _ s) ho rfl rfl) rfl

theorem descOpen_queues (p : Nat) (h : HostRef) (d : List Byte) : SameQueues s (descOpen s p h d) := by
  have hdone {m : State} (hm : SameQueues s m) (r e : Nat) : SameQueues s (completeWith m h r e 0) := hm.trans (completeWith_ends _ _ _ _).queues
  have hsame : SameQueues s s := fun _ => rfl
  unfold descOpen
  dsimp only
  split
  · exact hdone (tableFull_queues _ _) _ _
  · split
    · exact hdone hsame _ _
    · split
      · refine hdone ?_ _ _
        split
        · exact tableFull_queues _ _
        · exact hsame
      · split
        · exact hdone hsame _ _
        · split
          · exact hdone hsame _ _
          · split
            · exact hdone hsame _ _
            · next u hu =>
              refine hdone ((openMain_queues hu).trans (.of_fns ?_)) _ _
              split
              · split
                · rfl
                · rfl
              · rfl

theorem descScore_queues (p : Nat) (h : HostRef) (arr : Nat) (d : List Byte) : SameQueues s (descScore s p h arr d) := by
  unfold descScore
  dsimp only
  split
  · exact (completeWith_ends _ _ _ _).queues
  · exact addItem_queues _ _ _

theorem descDecode_queues (p : Nat) (h : HostRef) (arr : Nat) (d : List Byte) : SameQueues s (descDecode s p h arr d) := by
  unfold descDecode
  dsimp only
  split
  · exact (completeWith_ends _ _ _ _).queues
  · split
    · exact (completeWith_ends _ _ _ _).queues
    · exact addItem_queues _ _ _

theorem descClose_queues (p : Nat) (h : HostRef) (d : List Byte) : SameQueues s (descClose s p h d) := by
  unfold descClose
  dsimp only
  split
  · exact (completeWith_ends _ _ _ _).queues
  · split
    · exact (completeWith_ends _ _ _ _).queues
    · exact closeEntry_queues _ _ _

theorem descQuery_queues (p : Nat) (h : HostRef) (d : List Byte) : SameQueues s (descQuery s p h d) := by
  unfold descQuery
  dsimp only
  split
  · exact (completeWith_ends _ _ _ _).queues
  · exact (produce_ends _ _).queues

/-- What SQ_FETCH has moved of a function: its rings, whose turn is next, and the count of its descriptors. -/
def fetchState (f : Fn) : Tab Ring × Nat × Word := (f.rings, f.nextSq, f.descCnt)

theorem SameQueues.fetchState {t : State} (hq : SameQueues s t) (k : Nat) : fetchState (t.fnOf k) = fetchState (s.fnOf k) :=
  (congrArg Machine.fetchState (hq k) :)

/-- A descriptor that takes effect leaves what SQ_FETCH has moved. -/
theorem runDesc_fetchState (s : State) (p fn n arr : Nat) (d : List Byte) :
    fetchState ((runDesc s p fn n arr d).fnOf fn) = fetchState (s.fnOf fn) := by
  by_cases hr : descReason s p d = 0
  · rw [runDesc_wellFormed hr]
    split
    · exact (completeWith_ends _ _ _ _).queues.fetchState fn
    · exact (descOpen_queues _ _ _).fetchState fn
    · exact (descScore_queues _ _ _ _).fetchState fn
    · exact (descDecode_queues _ _ _ _).fetchState fn
    · exact (descClose_queues _ _ _).fetchState fn
    · exact (descQuery_queues _ _ _).fetchState fn
    · rw [State.emit_fnOf', State.modFn_fnOf_self]; rfl
  · rw [runDesc_malformed hr]
    exact (completeWith_ends _ _ _ _).queues.fetchState fn

/-- A descriptor takes nothing back of what was sent. -/
theorem runDesc_sent (s : State) (p fn n arr : Nat) (d : List Byte) : s.out <+: (runDesc s p fn n arr d).out :=
  (runDesc_keeps (F := { mcEv := true, dies := true, feedPorts := true, fns := true, parts := true, entries := true, out := true, free := true })
    (Keeps.refl _ s) p fn n arr d rfl rfl rfl rfl rfl rfl rfl rfl).sent

end Sys2Proof.Machine
end

section
/-! SUPPORT. SQ_FETCH and HOST_BATCH_COMMAND_READ (O40). -/

namespace Sys2Proof.Machine

variable {s : State} {p fn n now : Nat} {d : List Byte}

/-! ### Queue faults (R390) -/

/-- A function event changes nothing of the function but its bit and the pending interrupts. -/
theorem setEvt_fnOf (s : State) (fn bit : Nat) :
    ∃ b, (setEvt s fn bit).fnOf fn = { s.fnOf fn with evt := (s.fnOf fn).evt ||| 2 ^ bit, pba := b } := by
  unfold setEvt
  extract_lets s'
  have h : s'.fnOf fn = { s.fnOf fn with evt := (s.fnOf fn).evt ||| 2 ^ bit } := State.modFn_fnOf_self _ _ _
  split
  · exact ⟨_, h⟩
  · obtain ⟨b, hb⟩ := raiseVec_fnOf s' fn (s'.fnOf fn).evtVec
    exact ⟨b, by rw [hb, h]⟩

/-- A fault of an SQ stops the ring and says why. -/
theorem queueFault_sq (hn : n < 4) (s : State) (fn reason off : Nat) :
    ((queueFault s fn n reason off).ring fn n).sqEn = false ∧ ((queueFault s fn n reason off).ring fn n).sqFault = true ∧
      ((queueFault s fn n reason off).fnOf fn).reason = reason ∧ bitOf ((queueFault s fn n reason off).fnOf fn).evt 1 = true := by
  let stopped := (s.modRing fn n fun r => { r with sqEn := false }).modRing fn n fun r => { r with sqFault := true }
  let told := stopped.modFn fn fun f => { f with reason := reason, reasonReg := off }
  have hoff : ringOff s fn n = s.modRing fn n fun r => { r with sqEn := false } := if_pos hn
  have hfault : (queueFault s fn n reason off).fns = (setEvt told fn 1).fns := by
    unfold queueFault
    rw [hoff]
    dsimp only
    rw [if_pos hn]
    exact (report_keeps (F := { mcEv := true, dies := true }) (Keeps.refl _ _) _ _ _ _ _ rfl rfl).outside.fns rfl
  have htold : told.fnOf fn = { stopped.fnOf fn with reason := reason, reasonReg := off } := State.modFn_fnOf_self _ _ _
  have hring : stopped.ring fn n = { s.ring fn n with sqEn := false, sqFault := true } := by rw [ring_modRing_self, ring_modRing_self]
  obtain ⟨b, hb⟩ := setEvt_fnOf told fn 1
  have hfn : (queueFault s fn n reason off).fnOf fn =
      { stopped.fnOf fn with reason := reason, reasonReg := off, evt := (stopped.fnOf fn).evt ||| 2 ^ 1, pba := b } := by
    rw [State.fnOf, hfault, ← State.fnOf, hb, htold]
  have hr : (queueFault s fn n reason off).ring fn n = stopped.ring fn n := by rw [State.ring, hfn]; rfl
  refine ⟨?_, ?_, ?_, ?_⟩
  · rw [hr, hring]
  · rw [hr, hring]
  · rw [hfn]
  · rw [hfn, bitOf_eq_testBit, Nat.testBit_or, Nat.testBit_two_pow_self, Bool.or_true]

/-! ### SQ_FETCH (R376) -/

/-- The descriptor at the head of SQ `n` is read. -/
def headRead (s : State) (fn n : Nat) : State := s.emit (.hostRead fn ((s.ring fn n).sqBase + 64 * (s.ring fn n).head) 64)

/-- A ring whose descriptor at the head has been taken. -/
def headTaken (r : Ring) : Ring :=
  { r with head := (r.head + 1) % 2 ^ r.sqSize, marks := r.marks.dropWhile fun m => m.1 == (r.head + 1) % 2 ^ r.sqSize }

/-- SQ `n` has been served. -/
def turnTaken (n : Nat) (f : Fn) : Fn :=
  { f with nextSq := (n + 1) % 4, descCnt := wrapAdd f.descCnt 1, outstanding := f.outstanding + 1 }

/-- The descriptor at the head of SQ `n` has been taken. -/
def headFetched (s : State) (fn n : Nat) : State := ((headRead s fn n).modRing fn n headTaken).modFn fn (turnTaken n)

/-- The arrival stamp of the descriptor at the head of a ring (R376). -/
def headArrival (s : State) (fn n : Nat) : Nat := (((s.ring fn n).marks.head?).map Prod.snd).getD s.now

theorem headFetched_fnOf (s : State) (fn n : Nat) : (headFetched s fn n).fnOf fn =
    turnTaken n { s.fnOf fn with rings := tmod {} (s.fnOf fn).rings n headTaken } := by
  rw [headFetched, State.modFn_fnOf_self, modRing_fnOf_self]
  rfl

section
variable (hfn : fn < 64) (hn : n < 4) (hp : (s.fnOf fn).part = some p) (hnext : nextFetch s fn = some n) (hroom : (s.fnOf fn).outstanding < 1024)
include hfn hn hp hnext hroom

/-- The head of the SQ whose turn it is leaves for its effect, or the ring stops. -/
theorem exec_sqFetch (desc : Option (List Byte)) : exec (.sqFetch fn n desc now) s = .next
    (match desc with
    | none =>
      let w := freeWord (headRead (s.setNow now) fn n)
      queueFault w.1 fn n 0x0111 (w.2 % 65536)
    | some d => runDesc (headFetched (s.setNow now) fn n) p fn n (headArrival (s.setNow now) fn n) (slice d 0 64)) := by
  have hturn : (nextFetch (s.setNow now) fn != some n || decide (1024 ≤ (s.fnOf fn).outstanding)) = false := by
    have hsame : nextFetch (s.setNow now) fn = some n := hnext
    simp [hsame, hroom]
  refine (guarded_ok (by simp [instrWellFormed, okFn, okQueue, hfn, hn]) _).trans (congrArg Host.Outcome.next ?_)
  simp only [State.setNow_fnOf', hp]
  cases desc
  · exact if_neg fun h => Bool.noConfusion (hturn.symm.trans h)
  · exact if_neg fun h => Bool.noConfusion (hturn.symm.trans h)

theorem sqFetch_takes (hd : d.length = 64) : exec (.sqFetch fn n (some d) now) s =
    .next (runDesc (headFetched (s.setNow now) fn n) p fn n (headArrival (s.setNow now) fn n) d) := by
  refine (exec_sqFetch hfn hn hp hnext hroom (some d)).trans ?_
  dsimp only
  rw [slice_whole hd]

end

/-! ### What a descriptor makes of its function and its entry (R377 to R382) -/

section
variable (fn n arr : Nat) (hr : descReason s p d = 0)

theorem runDesc_fails (hr : descReason s p d ≠ 0) : ∃ c ∈ ((runDesc s p fn n arr d).fnOf fn).buffer,
    c.tag = leAt d 2 2 ∧ c.sq = n ∧ c.reason = descReason s p d := by
  rw [runDesc_malformed hr]
  obtain ⟨c, hc, htag, hsq, hreason, -⟩ := completeWith_buffer (h := descHost fn n d) rfl (.inl hr) s (descTarget d) 0
  exact ⟨c, hc, htag, hsq, hreason⟩

include hr

theorem runDesc_nop (hop : byteAt d 0 = 0) (hquiet : bitOf (byteAt d 1) 0 = false) :
    ∃ c ∈ ((runDesc s p fn n arr d).fnOf fn).buffer, c.tag = leAt d 2 2 ∧ c.sq = n ∧ c.reason = 0 := by
  rw [runDesc_wellFormed hr, hop]
  obtain ⟨c, hc, htag, hsq, hreason, -⟩ := completeWith_buffer (h := descHost fn n d) (reason := 0) rfl (.inr hquiet) s (descTarget d) 0
  exact ⟨c, hc, htag, hsq, hreason⟩

theorem runDesc_opens (hop : byteAt d 0 = 1) (hany : bitOf (leAt d 4 4) 31 = false) (hown : ownsEntry s p (descTarget d) = true)
    (hfree : (s.entry (descTarget d)).open_ = false) (hkey : byteAt d 21 = 0) (hvar : fld (leAt d 16 4) 2 4 = 0)
    (hroot : (popRoot (s.slot p (fld (leAt d 16 4) 6 4)).pool).isSome = true) (hspec : bitOf (leAt d 16 4) 12 = false)
    (hquiet : bitOf (byteAt d 1) 0 = false) :
    let u := runDesc s p fn n arr d
    (∃ root, u.entry (descTarget d) = openedEntry (openArgs d) root) ∧
      ∃ c ∈ (u.fnOf fn).buffer, c.tag = leAt d 2 2 ∧ c.reason = 0 ∧ c.entry = descTarget d := by
  intro u
  obtain ⟨⟨root, pool⟩, hpop⟩ := Option.isSome_iff_exists.mp hroot
  have ho := openEntry_opens (p := p) (a := openArgs d) hfree hvar hpop
  have hu : u = completeWith ((modPool s p (openArgs d).slot fun _ => pool).modEntry (descTarget d) fun _ => openedEntry (openArgs d) root)
      (descHost fn n d) 0 (descTarget d) 0 := by
    unfold u
    rw [runDesc_wellFormed hr, hop]
    exact descOpen_opens hany hown hkey hspec ho
  rw [hu]
  obtain ⟨c, hc, htag, -, hreason, hentry⟩ := completeWith_buffer (h := descHost fn n d) (reason := 0) rfl (.inr hquiet) _ (descTarget d) 0
  exact ⟨⟨root, by rw [completeWith_entry, State.modEntry_entry_self]⟩, c, hc, htag, hreason, hentry⟩

theorem runDesc_scores (hop : byteAt d 0 = 2) (hw : workReason s p (descTarget d) (scoreTokens d).length = 0) :
    ((runDesc s p fn n arr d).entry (descTarget d)).queue = (s.entry (descTarget d)).queue ++
      [{ scoreWork s p (s.entry (descTarget d)).cls (descHost fn n d) arr d with id := (s.part p).nextItem }] := by
  rw [runDesc_wellFormed hr, hop]
  exact (congrArg (fun u : State => (u.entry (descTarget d)).queue) (descScore_adds hw)).trans (addItem_entry ..)

theorem runDesc_decodes (hop : byteAt d 0 = 3) (hw : workReason s p (descTarget d) (leAt d 24 2 % 2 ^ 12 + 1) = 0)
    (hlm : ((planOf s p (s.entry (descTarget d)).slot).map headLm).getD false = true) :
    ((runDesc s p fn n arr d).entry (descTarget d)).queue = (s.entry (descTarget d)).queue ++
      [{ decodeWork (descHost fn n d) arr d with id := (s.part p).nextItem }] := by
  rw [runDesc_wellFormed hr, hop]
  exact (congrArg (fun u : State => (u.entry (descTarget d)).queue) (descDecode_adds hw hlm)).trans (addItem_entry ..)

theorem runDesc_closes (hop : byteAt d 0 = 4) (hown : ownsEntry s p (descTarget d) = true) (hopen : (s.entry (descTarget d)).open_ = true) :
    ((runDesc s p fn n arr d).entry (descTarget d)).closing = true := by
  rw [runDesc_wellFormed hr, hop]
  exact (congrArg (fun u : State => (u.entry (descTarget d)).closing) (descClose_closes hown hopen)).trans (closeEntry_closing ..)

theorem runDesc_queries (hop : byteAt d 0 = 6) (hown : ownsEntry s p (descTarget d) = true) :
    queryCompl s p (descHost fn n d) d ∈ ((runDesc s p fn n arr d).fnOf fn).buffer := by
  have hu : runDesc s p fn n arr d = produce s fn (queryCompl s p (descHost fn n d) d) := by
    rw [runDesc_wellFormed hr, hop]
    exact descQuery_answers hown
  rw [hu]
  exact produce_buffer rfl (by simp [queryCompl]) s fn

theorem runDesc_reads (hop : byteAt d 0 = 5 ∨ byteAt d 0 = 7) :
    let u := runDesc s p fn n arr d
    (u.fnOf fn).reads = (s.fnOf fn).reads ++ [{ edit := byteAt d 0 == 5, sq := n, addr := leAt d 8 8, quiet := bitOf (byteAt d 1) 0 }] ∧
      .hostRead fn (leAt d 8 8) 64 ∈ u.out := by
  intro u
  have hu : u = (s.modFn fn fun f => { f with
      reads := f.reads ++ [{ edit := byteAt d 0 == 5, sq := n, addr := leAt d 8 8, quiet := bitOf (byteAt d 1) 0 }] }).emit
      (.hostRead fn (leAt d 8 8) 64) := by
    unfold u
    rw [runDesc_wellFormed hr]
    rcases hop with hop | hop
    · rw [hop]; rfl
    · rw [hop]; rfl
  rw [hu]
  exact ⟨by rw [State.emit_fnOf', State.modFn_fnOf_self], List.mem_append_right _ (List.mem_singleton_self _)⟩

end

/-! ### HOST_BATCH_COMMAND_READ (R247, R381) -/

/-- The oldest read of a function has returned. -/
def readTaken (s : State) (fn : Nat) (rs : List HostRead) : State := s.modFn fn fun f => { f with reads := rs }

theorem readTaken_fnOf (s : State) (fn : Nat) (rs : List HostRead) : (readTaken s fn rs).fnOf fn = { s.fnOf fn with reads := rs } :=
  State.modFn_fnOf_self _ _ _

/-- Where the completion of what a host read brings goes: its TAG is the one in the bytes (R381). -/
def readHost (fn : Nat) (r : HostRead) (tag : Nat) : HostRef := { fn := fn, sq := r.sq, tag := tag, quiet := r.quiet }

/-- A batch for an open entry of the partition that holds none waits at its entry (R247). -/
theorem placeBatch_waits {h : HostRef} {b : List Byte} {e : Nat} (he : leAt b 0 4 % 2 ^ 17 = e) (hown : ownsEntry s p e = true)
    (hdraft : (s.entry e).draft = false) (hnarr : (s.entry e).narrative = false) (hopen : (s.entry e).open_ = true)
    (hclosing : (s.entry e).closing = false) (hedit : (s.entry e).edit = none) :
    placeBatch s p h b = s.modEntry e fun x => { x with edit := some { bytes := b, ops := parseOps b, host := h } } := by
  subst he
  simp only [placeBatch, hown, hdraft, hnarr, hopen, hclosing, hedit, Bool.not_true, Bool.or_self, Bool.false_eq_true, if_false,
    Option.isSome_none]

section
variable {r : HostRead} {rs : List HostRead} {b : List Byte} (hfn : fn < 64) (hp : (s.fnOf fn).part = some p)
  (hreads : (s.fnOf fn).reads = r :: rs)
include hfn hp hreads

theorem exec_hostBatchCommandRead (bytes : Option (List Byte)) : exec (.hostBatchCommandRead fn bytes now) s = .next
    (let v := readTaken (s.setNow now) fn rs
     match bytes with
     | none => completeWith v (readHost fn r 0) 0x0323 0 0
     | some b =>
       let b := slice b 0 64
       if r.edit then placeBatch v p (readHost fn r (leAt b 6 2)) b
       else if imgCmdOk b then v.modFn fn fun f => { f with cmds := f.cmds ++ [(readHost fn r (leAt b 10 2), b)] }
       else badCmd v (imgFields b) (some (readHost fn r (leAt b 10 2))) none 0x0200) := by
  refine (guarded_ok (by simp [instrWellFormed, okFn, hfn]) _).trans (congrArg Host.Outcome.next ?_)
  simp only [State.setNow_fnOf', hp, hreads]
  rfl

theorem hostRead_lost : ∃ u, exec (.hostBatchCommandRead fn none now) s = .next u ∧ (u.fnOf fn).reads = rs ∧
    ∃ c ∈ (u.fnOf fn).buffer, c.tag = 0 ∧ c.sq = r.sq ∧ c.reason = 0x0323 := by
  obtain ⟨c, hc, htag, hsq, hreason, -⟩ :=
    completeWith_buffer (h := readHost fn r 0) (reason := 0x0323) rfl (.inl (by decide)) (readTaken (s.setNow now) fn rs) 0 0
  have hkept := (completeWith_ends (s := readTaken (s.setNow now) fn rs) (readHost fn r 0) 0x0323 0 0).queues fn
  refine ⟨_, exec_hostBatchCommandRead hfn hp hreads none, (congrArg Fn.reads hkept :).trans ?_, c, hc, htag, hsq, hreason⟩
  exact congrArg Fn.reads (readTaken_fnOf ..)

theorem hostRead_batch (hb : b.length = 64) (hedit : r.edit = true) {e : Nat} {x : Entry} (he : leAt b 0 4 % 2 ^ 17 = e) (hx : s.entry e = x)
    (hown : ownsEntry s p e = true) (hdraft : x.draft = false) (hnarr : x.narrative = false) (hopen : x.open_ = true)
    (hclosing : x.closing = false) (hnone : x.edit = none) :
    ∃ u, exec (.hostBatchCommandRead fn (some b) now) s = .next u ∧ (u.fnOf fn).reads = rs ∧ u.entry e =
      { x with edit := some { bytes := b, ops := parseOps b, host := readHost fn r (leAt b 6 2) } } := by
  subst hx
  refine ⟨_, exec_hostBatchCommandRead hfn hp hreads (some b), ?_⟩
  have hplaced := placeBatch_waits (s := readTaken (s.setNow now) fn rs) (h := readHost fn r (leAt b 6 2)) he hown hdraft hnarr hopen
    hclosing hnone
  dsimp only
  rw [slice_whole hb, if_pos hedit, hplaced]
  exact ⟨congrArg Fn.reads (readTaken_fnOf ..), State.modEntry_entry_self ..⟩

theorem hostRead_command (hb : b.length = 64) (hedit : r.edit = false) (hok : imgCmdOk b = true) :
    ∃ u, exec (.hostBatchCommandRead fn (some b) now) s = .next u ∧ (u.fnOf fn).reads = rs ∧
      (u.fnOf fn).cmds = (s.fnOf fn).cmds ++ [(readHost fn r (leAt b 10 2), b)] := by
  refine ⟨_, exec_hostBatchCommandRead hfn hp hreads (some b), ?_⟩
  dsimp only
  rw [slice_whole hb, hedit, if_neg (by decide), if_pos hok, State.modFn_fnOf_self, readTaken_fnOf]
  exact ⟨rfl, rfl⟩

end

/-! ### What a fetch and a descriptor read: partitions and sequences alone -/

section
variable {t : State} (hparts : t.parts = s.parts) (hentries : t.entries = s.entries)
theorem entry_of_entries (hentries : t.entries = s.entries) (e : Nat) : t.entry e = s.entry e := by rw [State.entry, hentries]; rfl

include hparts

theorem part_of_parts (p : Nat) : t.part p = s.part p := by rw [State.part, hparts]; rfl

theorem ownsEntry_of_parts (p e : Nat) : ownsEntry t p e = ownsEntry s p e := by simp only [ownsEntry, blocksOf, part_of_parts hparts]

theorem planOf_of_parts (p k : Nat) : planOf t p k = planOf s p k := by simp only [planOf, State.slot, part_of_parts hparts]

theorem scoreWork_of_parts (p cls : Nat) (h : HostRef) (arr : Nat) (d : List Byte) : scoreWork t p cls h arr d = scoreWork s p cls h arr d := by
  simp only [scoreWork, part_of_parts hparts]

theorem slotHeld_of_parts (p k : Nat) : slotHeld t p k = slotHeld s p k := by simp only [slotHeld, State.slot, part_of_parts hparts]

theorem passesOf_of_parts (p e : Nat) : passesOf t p e = passesOf s p e := by simp only [passesOf, part_of_parts hparts]

theorem pinned_of_parts (p e : Nat) : pinned t p e = pinned s p e := by simp only [pinned, part_of_parts hparts]

include hentries

theorem workReason_of_tables (p e k : Nat) : workReason t p e k = workReason s p e k := by
  simp only [workReason, ownsEntry_of_parts hparts, entry_of_entries hentries]

theorem descRange_of_tables (p : Nat) (d : List Byte) : descRange t p d = descRange s p d := by
  simp only [descRange, ownsEntry_of_parts hparts, planOf_of_parts hparts, entry_of_entries hentries]

theorem descEntry_of_tables (p : Nat) (d : List Byte) : descEntry t p d = descEntry s p d := by
  simp only [descEntry, ownsEntry_of_parts hparts, entry_of_entries hentries]

theorem descReason_of_tables (p : Nat) (d : List Byte) : descReason t p d = descReason s p d := by
  simp only [descReason, descRange_of_tables hparts hentries, descEntry_of_tables hparts hentries]

theorem entryState_of_tables (p e : Nat) : entryState t p e = entryState s p e := by
  simp only [entryState, slotHeld_of_parts hparts, passesOf_of_parts hparts, entry_of_entries hentries]

theorem entryDeadline_of_tables (p e : Nat) : entryDeadline t p e = entryDeadline s p e := by
  simp only [entryDeadline, passesOf_of_parts hparts, part_of_parts hparts, entry_of_entries hentries]

theorem entryBytes_of_tables (p e root : Nat) : entryBytes t p e root = entryBytes s p e root := by
  simp only [entryBytes, entryDeadline_of_tables hparts hentries, entryState_of_tables hparts hentries, pinned_of_parts hparts,
    entry_of_entries hentries]

end

/-! ### The obligation -/

/-- Settles O40: SQ_FETCH by the operation of its descriptor, and the reads of batches and commands that return. -/
theorem descriptorsTakeEffect : Obligations.DescriptorsTakeEffect := by
  unfold Obligations.DescriptorsTakeEffect
  refine ⟨fun s fn n now p hfn hn hp hnext hroom => ⟨?failed, fun d hd => ?taken⟩, fun s fn now p r rs hfn hp hreads => ⟨?lost, ?batch, ?command⟩⟩
  case failed => exact ⟨_, exec_sqFetch hfn hn hp hnext hroom none, queueFault_sq hn _ _ _ _⟩
  case taken =>
    have hmoved := runDesc_fetchState (headFetched (s.setNow now) fn n) p fn n (headArrival (s.setNow now) fn n) d
    have hsent := runDesc_sent (headFetched (s.setNow now) fn n) p fn n (headArrival (s.setNow now) fn n) d
    have hreadsKept : ((headFetched (s.setNow now) fn n).fnOf fn).reads = (s.fnOf fn).reads := by rw [headFetched_fnOf]; rfl
    rw [fetchState, fetchState, Prod.mk.injEq, Prod.mk.injEq, headFetched_fnOf] at hmoved
    obtain ⟨hrings, hturn, hcount⟩ := hmoved
    have hread := hsent.subset (List.mem_append_right _ (List.mem_singleton_self _))
    have hparts : (headFetched (s.setNow now) fn n).parts = s.parts := rfl
    have hentries : (headFetched (s.setNow now) fn n).entries = s.entries := rfl
    refine ⟨_, sqFetch_takes hfn hn hp hnext hroom hd, ?_⟩
    generalize headFetched (s.setNow now) fn n = v at *
    let arr := headArrival (s.setNow now) fn n
    have hreason : descReason v p d = descReason s p d := descReason_of_tables hparts hentries p d
    have howns := ownsEntry_of_parts hparts p (descTarget d)
    have hentry : v.entry (descTarget d) = s.entry (descTarget d) := entry_of_entries hentries _
    have hpart := part_of_parts hparts p
    refine ⟨?head, hturn, hcount, hread, ?fails, ?nop, ?opens, ?scores, ?decodes, ?closes, ?queries, ?reads⟩
    case head =>
      have hring := (congrArg (fun rings => tget ({} : Ring) rings n) hrings).trans (tget_tmod_self _ n headTaken)
      exact congrArg Ring.head hring
    case fails =>
      rw [← hreason]
      exact runDesc_fails fn n arr
    case nop =>
      rw [← hreason]
      exact runDesc_nop fn n arr
    case opens =>
      intro hr hop hany hown hfree hkey hvar hroot hspec hquiet
      obtain ⟨⟨root, hopened⟩, hc⟩ := runDesc_opens fn n arr (hreason.trans hr) hop hany
        (howns.trans hown) ((congrArg Entry.open_ hentry).trans hfree) hkey hvar (by rw [State.slot, hpart]; exact hroot) hspec hquiet
      exact ⟨congrArg Entry.open_ hopened, congrArg Entry.seqId hopened, congrArg Entry.cls hopened, congrArg Entry.slot hopened,
        congrArg Entry.length hopened, hc⟩
    case scores =>
      intro hr hop hw
      have hq := runDesc_scores fn n arr (hreason.trans hr) hop
        ((workReason_of_tables hparts hentries p _ _).trans hw)
      rw [hentry, hpart, scoreWork_of_parts hparts] at hq
      exact ⟨_, hq, rfl, rfl, rfl, rfl, rfl, rfl⟩
    case decodes =>
      intro hr hop hw hlm
      have hq := runDesc_decodes fn n arr (hreason.trans hr) hop
        ((workReason_of_tables hparts hentries p _ _).trans hw) (by rw [hentry, planOf_of_parts hparts]; exact hlm)
      rw [hentry] at hq
      exact ⟨_, hq, rfl, rfl, rfl, rfl, rfl, rfl⟩
    case closes =>
      intro hr hop hown hopen
      exact runDesc_closes fn n arr (hreason.trans hr) hop (howns.trans hown) ((congrArg Entry.open_ hentry).trans hopen)
    case queries =>
      intro hr hop hown
      have hq := runDesc_queries fn n arr (hreason.trans hr) hop (howns.trans hown)
      rw [queryCompl, hentry, entryBytes_of_tables hparts hentries, ← entryBytes_of_tables (t := s.setNow now) (s := s) rfl rfl] at hq
      exact ⟨_, hq, rfl, rfl, rfl, rfl⟩
    case reads =>
      intro hr hop
      rw [← hreadsKept]
      exact runDesc_reads fn n arr (hreason.trans hr) hop
  case lost => exact hostRead_lost hfn hp hreads
  case batch => exact fun b hb hedit => hostRead_batch hfn hp hreads hb hedit rfl rfl
  case command => exact fun b hb hedit hok => hostRead_command hfn hp hreads hb hedit hok

end Sys2Proof.Machine
end

section
/-! SUPPORT. Page tables (R219, R220, R245): what is written into one by descriptors, and what REORDER makes of one in canonical form. -/

namespace Sys2Proof.Machine

variable {α : Type} {s t : State} {p k e : Nat}

/-! ### Tables in canonical form -/

theorem tget_of_mem [DecidableEq α] {d : α} {lo : Nat} {t : Tab α} (h : tabWfFrom d lo t = true) {q : Nat × α} (hq : q ∈ t) :
    lo ≤ q.1 ∧ tget d t q.1 = q.2 := by
  induction t generalizing lo with
  | nil => cases hq
  | cons r t ih =>
    obtain ⟨j, v⟩ := r
    simp only [tabWfFrom, Bool.and_eq_true, decide_eq_true_eq] at h
    obtain ⟨⟨hlo, -⟩, ht⟩ := h
    rcases List.mem_cons.mp hq with rfl | hq
    · exact ⟨hlo, if_pos rfl⟩
    · obtain ⟨hj, hget⟩ := ih ht hq
      exact ⟨by omega, (if_neg (by omega)).trans hget⟩

theorem tget_of_not_mem {d : α} {t : Tab α} {j : Nat} (h : j ∉ t.map Prod.fst) : tget d t j = d := by
  induction t with
  | nil => rfl
  | cons q t ih =>
    rw [List.map_cons, List.mem_cons, not_or] at h
    exact (if_neg h.1).trans (ih h.2)

/-- Values that follow from their keys, written one after the other. -/
theorem tget_foldl_tset [DecidableEq α] {d : α} (f : Nat → α) {ds : List (Nat × α)} (hf : ∀ q ∈ ds, q.2 = f q.1) (t : Tab α) (j : Nat) :
    tget d (ds.foldl (fun t q => tset d t q.1 q.2) t) j = if j ∈ ds.map Prod.fst then f j else tget d t j := by
  induction ds generalizing t with
  | nil => rfl
  | cons q ds ih =>
    rw [List.foldl_cons, ih (fun r hr => hf r (List.mem_cons_of_mem _ hr)), hf q List.mem_cons_self, tget_tset, List.map_cons]
    by_cases hin : j ∈ ds.map Prod.fst
    · rw [if_pos hin, if_pos (List.mem_cons_of_mem _ hin)]
    · by_cases hj : j = q.1
      · rw [if_neg hin, if_pos hj, hj, if_pos List.mem_cons_self]
      · rw [if_neg hin, if_neg hj, if_neg (by rw [List.mem_cons, not_or]; exact ⟨hj, hin⟩)]

theorem foldl_tset_wf [DecidableEq α] {d : α} (ds : List (Nat × α)) {t : Tab α} (h : tabWf d t = true) :
    tabWf d (ds.foldl (fun t q => tset d t q.1 q.2) t) = true := by
  induction ds generalizing t with
  | nil => exact h
  | cons q ds ih => exact ih (tset_wf _ _ h)

/-! ### Descriptors (R219, R220) -/

/-- The page tables of all sequences stay. -/
abbrev SamePages : State → State → Prop := Fixes (fun _ : Part => ()) Entry.pages

theorem SamePages.of_entries (h : t.entries = s.entries) : SamePages s t := ⟨fun _ => rfl, fun e => by rw [State.entry, h]; rfl⟩

theorem ctrlWrite_samePages (p k off : Nat) (bs : List Byte) : SamePages s (ctrlWrite s p k off bs) :=
  .of_entries ((ctrlWrite_keeps (F := { stackTab := true, dram := true }) (Keeps.refl _ s) p k off bs rfl rfl).outside.entries rfl)

theorem setRoot_samePages (p e r : Nat) (leaf : Option Nat) : SamePages s (setRoot s p e r leaf) :=
  (ctrlWrite_samePages _ _ _ _).after (Fixes.modEntry e fun _ => rfl)

/-- Writing a descriptor changes the tables of its own sequence alone, and those by that descriptor. -/
theorem setDesc_samePages (p e : Nat) (ix : Bool) (j : Nat) (d : PageDesc) :
    SamePages (s.modEntry e fun x => if ix then { x with index := tset {} x.index j d } else { x with pages := tset {} x.pages j d })
      (setDesc s p e ix j d) := by
  unfold setDesc
  extract_lets r s1 s2
  have h2 : SamePages s1 s2 := Fixes.ite (setRoot_samePages _ _ _ _) (Fixes.refl s1)
  change SamePages s1 _
  split
  · exact h2
  · exact Fixes.ite (h2.trans (ctrlWrite_samePages _ _ _ _)) ((h2.trans (ctrlWrite_samePages _ _ _ _)).trans (setRoot_samePages _ _ _ _))

theorem setDesc_index_samePages (p e j : Nat) (d : PageDesc) : SamePages s (setDesc s p e true j d) :=
  (setDesc_samePages p e true j d).after (Fixes.modEntry e fun _ => rfl)

theorem setDesc_pages (s : State) (p e j : Nat) (d : PageDesc) :
    ((setDesc s p e false j d).entry e).pages = tset {} (s.entry e).pages j d :=
  ((setDesc_samePages p e false j d).entry e).trans (congrArg Entry.pages (State.modEntry_entry_self ..))

theorem setDescs_pages (p e : Nat) (ds : List (Nat × PageDesc)) (s : State) :
    ((setDescs s p e false ds).entry e).pages = ds.foldl (fun t q => tset {} t q.1 q.2) (s.entry e).pages := by
  induction ds generalizing s with
  | nil => rfl
  | cons q ds ih => exact (ih _).trans (by rw [setDesc_pages]; rfl)

/-- A page table that is written anew reads as the new one, where that is in canonical form. -/
theorem retable_page {new : Tab PageDesc} (hw : tabWf {} new = true) (s : State) (p e j : Nat) :
    tget {} ((retable s p e new).entry e).pages j = tget {} new j := by
  have hnew : ∀ q ∈ new, q.2 = tget {} new q.1 := fun q hq => (tget_of_mem hw hq).2.symm
  have hgone : ∀ q ∈ ((s.entry e).pages.filter fun d => !new.any fun q => q.1 == d.1).map fun d => (d.1, ({} : PageDesc)), q.2 = {} := by
    intro q hq
    obtain ⟨d, -, rfl⟩ := List.mem_map.mp hq
    rfl
  rw [retable, setDescs_pages, setDescs_pages, tget_foldl_tset (fun _ => ({} : PageDesc)) hgone, tget_foldl_tset _ hnew]
  by_cases hin : j ∈ new.map Prod.fst
  · have hkept : j ∉ (((s.entry e).pages.filter fun d => !new.any fun q => q.1 == d.1).map fun d => (d.1, ({} : PageDesc))).map Prod.fst := by
      obtain ⟨q, hq, rfl⟩ := List.mem_map.mp hin
      simp only [List.map_map, List.mem_map, List.mem_filter, not_exists, not_and]
      rintro d ⟨-, hd⟩ hqd
      simp only [Bool.not_eq_true', List.any_eq_false, beq_iff_eq] at hd
      exact hd q hq hqd.symm
    rw [if_neg hkept, if_pos hin]
  · have hzero : tget {} new j = {} := tget_of_not_mem hin
    rw [if_neg hin, hzero]
    split
    · rfl
    · next hold =>
      apply tget_of_not_mem
      intro hj
      apply hold
      obtain ⟨d, hd, rfl⟩ := List.mem_map.mp hj
      simp only [List.map_map, List.mem_map, List.mem_filter]
      refine ⟨d, ⟨hd, ?_⟩, rfl⟩
      simp only [Bool.not_eq_true', List.any_eq_false, beq_iff_eq]
      exact fun q hq hqd => hin (List.mem_map.mpr ⟨q, hq, hqd⟩)

theorem retable_wf {new : Tab PageDesc} (h : tabWf {} (s.entry e).pages = true) (p : Nat) : tabWf {} ((retable s p e new).entry e).pages = true := by
  rw [retable, setDescs_pages, setDescs_pages]
  exact foldl_tset_wf _ (foldl_tset_wf _ h)

/-! ### Summaries written anew (R245) leave the stripes of the pages -/

/-- The pages of a sequence keep their stripes. -/
def SameStripes (e : Nat) (s t : State) : Prop := ∀ j, (tget {} (t.entry e).pages j).stripe = (tget {} (s.entry e).pages j).stripe

theorem SameStripes.trans {m : State} (h : SameStripes e s m) (k : SameStripes e m t) : SameStripes e s t := fun j => (k j).trans (h j)

theorem SamePages.stripes (h : SamePages s t) (e : Nat) : SameStripes e s t := fun j => by rw [h.entry]

theorem SameStripes.foldl {κ : Type} {f : State → κ → State} (hf : ∀ m x, SameStripes e m (f m x)) (l : List κ) (s : State) :
    SameStripes e s (l.foldl f s) := by
  induction l generalizing s with
  | nil => exact fun _ => rfl
  | cons x l ih => exact (hf s x).trans (ih _)

theorem setDesc_sameStripes {j : Nat} {d : PageDesc} (h : d.stripe = (tget {} (s.entry e).pages j).stripe) (p : Nat) :
    SameStripes e s (setDesc s p e false j d) := by
  intro i
  rw [setDesc_pages, tget_tset]
  split
  · next hi => rw [hi, h]
  · rfl

theorem setDescs_sameStripes {ds : List (Nat × PageDesc)} (h : ∀ q ∈ ds, q.2.stripe = (tget {} (s.entry e).pages q.1).stripe) (p : Nat) :
    SameStripes e s (setDescs s p e false ds) := by
  induction ds generalizing s with
  | nil => exact fun _ => rfl
  | cons q ds ih =>
    have hq := setDesc_sameStripes (h q List.mem_cons_self) p
    exact hq.trans (ih fun r hr => (h r (List.mem_cons_of_mem _ hr)).trans (hq r.1).symm)

theorem returnStripe_samePages (p k stripe : Nat) : SamePages s (returnStripe s p k stripe) :=
  .of_entries ((returnStripe_keeps (F := { mcEv := true, dies := true, parts := true }) (Keeps.refl _ s) p k stripe rfl rfl rfl).outside.entries rfl)

theorem indexStripe_samePages {m n : Nat} (h : indexStripe s p k e m = some (n, t)) : SamePages s t := by
  unfold indexStripe at h
  dsimp only at h
  split at h
  · cases h; exact Fixes.refl s
  · split at h
    · cases h
    · simp only [Option.map_eq_some_iff, Prod.mk.injEq] at h
      obtain ⟨r, hr, -, rfl⟩ := h
      have htake : r.2.entries = s.entries :=
        (takeStripe_keeps (F := { mcEv := true, dies := true, parts := true }) (Keeps.refl _ s) hr rfl rfl rfl).outside.entries rfl
      exact (SamePages.of_entries htake).trans (setDesc_index_samePages _ _ _ _)

theorem writeSummary_sameStripes (p k page : Nat) : SameStripes e s (writeSummary s p k e page) := by
  unfold writeSummary
  split
  · exact fun _ => rfl
  · dsimp only
    split
    · exact fun _ => rfl
    · split
      · exact fun _ => rfl
      · next m hm =>
        have hstored (u : State) (hu : SamePages m u) : SameStripes e s (setDesc u p e false page
            { tget {} (s.entry e).pages page with summary := true }) := by
          have hsame := (indexStripe_samePages hm).trans hu
          exact (SamePages.stripes hsame e).trans (setDesc_sameStripes (by rw [hsame.entry]) p)
        apply hstored
        refine Fixes.foldl (fun u i => ?_) _ _
        split
        · exact SamePages.of_entries ((modAe_keeps (F := { dies := true, stackTab := true, dram := true })
            (dramWrite_keeps (Keeps.refl _ u) _ _ _ rfl rfl) _ _ _ rfl).outside.entries rfl)
        · exact Fixes.refl u

/-- Index stripes built anew leave the stripes of the pages of a table in canonical form. -/
theorem rebuildIndex_sameStripes (hw : tabWf {} (s.entry e).pages = true) (p k : Nat) : SameStripes e s (rebuildIndex s p k e) := by
  unfold rebuildIndex
  extract_lets x had s1 s2
  split
  · exact fun _ => rfl
  · have h1 : SamePages s s1 := Fixes.foldl (fun m d => Fixes.ite ((setDesc_index_samePages _ _ _ _).trans (returnStripe_samePages _ _ _))
      (Fixes.refl m)) _ s
    have h2 : SameStripes e s1 s2 := by
      refine setDescs_sameStripes (fun q hq => ?_) p
      simp only [List.mem_map, List.mem_filter] at hq
      obtain ⟨d, ⟨hd, -⟩, rfl⟩ := hq
      rw [h1.entry]
      exact (congrArg PageDesc.stripe (tget_of_mem hw hd).2.symm :)
    exact (SamePages.stripes h1 e).trans (h2.trans (SameStripes.foldl (fun _ _ => writeSummary_sameStripes _ _ _) _ _))

/-! ### REORDER (R245) -/

/-- A page table whose ranges of `m` pages from `a` and from `b` on have swapped. -/
def swapPages (pages : Tab PageDesc) (a b m : Nat) : Tab PageDesc :=
  (List.range m).foldl (fun t i => tset {} (tset {} t (a + i) (tget {} pages (b + i))) (b + i) (tget {} pages (a + i))) pages

theorem swapPages_succ (pages : Tab PageDesc) (a b m : Nat) : swapPages pages a b (m + 1) =
    tset {} (tset {} (swapPages pages a b m) (a + m) (tget {} pages (b + m))) (b + m) (tget {} pages (a + m)) := by
  rw [swapPages, List.range_succ, List.foldl_append]; rfl

theorem swapPages_wf {pages : Tab PageDesc} (h : tabWf {} pages = true) (a b m : Nat) : tabWf {} (swapPages pages a b m) = true := by
  induction m with
  | zero => exact h
  | succ m ih => rw [swapPages_succ]; exact tset_wf _ _ (tset_wf _ _ ih)

theorem swapPages_swaps (pages : Tab PageDesc) {a b n : Nat} (hdisj : a + n ≤ b) : ∀ m ≤ n, ∀ i < m,
    tget {} (swapPages pages a b m) (a + i) = tget {} pages (b + i) ∧ tget {} (swapPages pages a b m) (b + i) = tget {} pages (a + i) := by
  intro m
  induction m with
  | zero => intro _ i hi; cases hi
  | succ m ih =>
    intro hm i hi
    rw [swapPages_succ]
    by_cases him : i = m
    · subst him
      exact ⟨by rw [tget_tset_other _ (by omega), tget_tset_self], by rw [tget_tset_self]⟩
    · obtain ⟨hfirst, hsecond⟩ := ih (by omega) i (by omega)
      exact ⟨by rw [tget_tset_other _ (by omega), tget_tset_other _ (by omega), hfirst],
        by rw [tget_tset_other _ (by omega), tget_tset_other _ (by omega), hsecond]⟩

/-- REORDER swaps the stripes of its two ranges, on a page table in canonical form. -/
theorem editReorder_swaps {o : EditOp} (hw : tabWf {} (s.entry e).pages = true) (hdisj : o.first + o.n ≤ o.dest) {i : Nat} (hi : i < o.n) (p : Nat) :
    (tget {} ((editReorder s p e o).entry e).pages (o.first + i)).stripe = (tget {} (s.entry e).pages (o.dest + i)).stripe ∧
    (tget {} ((editReorder s p e o).entry e).pages (o.dest + i)).stripe = (tget {} (s.entry e).pages (o.first + i)).stripe := by
  have hstripes : SameStripes e (retable s p e (swapPages (s.entry e).pages o.first o.dest o.n)) (editReorder s p e o) :=
    rebuildIndex_sameStripes (retable_wf hw p) p (s.entry e).slot
  have hread := retable_page (swapPages_wf hw o.first o.dest o.n) s p e
  obtain ⟨hfirst, hsecond⟩ := swapPages_swaps (s.entry e).pages hdisj o.n le_rfl i hi
  exact ⟨by rw [hstripes, hread, hfirst], by rw [hstripes, hread, hsecond]⟩

/-! ### EDIT_APPLY (R246, R247) -/

/-- A batch of one operation waits at an entry of the partition between passes (R247), and its command is live. -/
structure EditWaits (s : State) (p e : Nat) (b : EditBatch) (o : EditOp) : Prop where
  part : p < 64
  owned : ownsEntry s p e = true
  open_ : (s.entry e).open_ = true
  idle : passesOf s p e = []
  alone : (s.entry e).partnerValid = false
  unpinned : pinned s p e = false
  waiting : (s.entry e).edit = some b
  live : b.host.live = true
  loud : b.host.quiet = false
  head : batchHeadOk b.bytes = true
  single : b.ops = [o]

theorem exec_editApply {now : Nat} {b : EditBatch} {o : EditOp} (h : EditWaits s p e b o) :
    exec (.editApply p e now) s = .next (applyEdit (s.setNow now) p e) := by
  have hfree : (!ownsEntry (s.setNow now) p e || !((s.setNow now).entry e).open_ ||
      (!(passesOf (s.setNow now) p e).isEmpty || ((s.setNow now).entry e).partnerValid &&
        !(passesOf (s.setNow now) p ((s.setNow now).entry e).partner).isEmpty) || pinned (s.setNow now) p e) = false := by
    rw [ownsEntry_of_parts (State.setNow_parts s now), passesOf_of_parts (State.setNow_parts s now), pinned_of_parts (State.setNow_parts s now),
      State.setNow_entry', h.owned, h.open_, h.idle, h.alone, h.unpinned]
    rfl
  refine (guarded_ok (by simp [instrWellFormed, okPart, h.part]) _).trans (congrArg Host.Outcome.next ?_)
  exact if_neg fun hbusy => Bool.noConfusion (hfree.symm.trans hbusy)

/-- The entry without its waiting batch. -/
def batchTaken (s : State) (e : Nat) : State := s.modEntry e fun x => { x with edit := none }

theorem batchTaken_pages (s : State) (e : Nat) : ((batchTaken s e).entry e).pages = (s.entry e).pages :=
  (congrArg Entry.pages (State.modEntry_entry_self s e fun x => { x with edit := none }) :)

/-- Which pages are closed follows from the pages and the committed length (R245). -/
theorem batchTaken_closedPage (s : State) (e : Nat) : closedPage ((batchTaken s e).entry e) = closedPage (s.entry e) := by
  rw [batchTaken, State.modEntry_entry_self]; rfl

/-- A batch of one operation that applies completes with reason 0, and its entry is as the operation leaves it (R247). -/
theorem editApply_applies {now : Nat} {b : EditBatch} {o : EditOp} {v : State} (h : EditWaits s p e b o)
    (hone : editOne (batchTaken (s.setNow now) e) p e o = .ok v) : ∃ u, exec (.editApply p e now) s = .next u ∧
      (∃ c ∈ (u.fnOf b.host.fn).buffer, c.tag = b.host.tag ∧ c.reason = 0) ∧ u.entry e = v.entry e := by
  have hwaiting : ((s.setNow now).entry e).edit = some b := h.waiting
  have happly : applyEdit (s.setNow now) p e =
      completeWith (modPool v p (v.entry e).slot fun k => { k with editCnt := wrapAdd k.editCnt 1 }) b.host 0 e 0 := by
    unfold batchTaken at hone
    simp only [applyEdit, hwaiting, h.head, h.single, editOps, hone, Bool.not_true, Bool.false_eq_true, if_false]
  obtain ⟨c, hc, htag, -, hreason, -⟩ := completeWith_buffer (h := b.host) (reason := 0) h.live (.inr h.loud)
    (modPool v p (v.entry e).slot fun k => { k with editCnt := wrapAdd k.editCnt 1 }) e 0
  exact ⟨_, (exec_editApply h).trans (congrArg Host.Outcome.next happly), ⟨c, hc, htag, hreason⟩, completeWith_entry ..⟩

/-- REORDER is legal on two ranges of closed pages, the first before the second, of an entry that is not stale. -/
theorem editOne_reorder {o : EditOp} (hrsv : o.rsv = 0) (hpos : 1 ≤ o.n) (hmax : o.n ≤ 64) (hop : o.op = 2) (hstale : (s.entry e).stale = false)
    (hfirst : rangeAll o.first o.n (closedPage (s.entry e)) = true) (hdest : rangeAll o.dest o.n (closedPage (s.entry e)) = true)
    (hdisj : o.first + o.n ≤ o.dest) : editOne s p e o = .ok (editReorder s p e o) := by
  unfold editOne
  dsimp only
  rw [if_neg (by simp only [hrsv, hstale, ne_eq, not_true_eq_false, Bool.false_eq_true, false_and, or_false, false_or]; omega), hop]
  exact if_pos (by rw [hfirst, hdest, decide_eq_true hdisj]; rfl)

/-- R245 to R247: what O34 says of REORDER holds of a page table in canonical form. -/
theorem editApply_reorders {now : Nat} {b : EditBatch} {o : EditOp} (h : EditWaits s p e b o) (hw : tabWf {} (s.entry e).pages = true)
    (hrsv : o.rsv = 0) (hpos : 1 ≤ o.n) (hmax : o.n ≤ 64) (hop : o.op = 2) (hstale : (s.entry e).stale = false)
    (hfirst : rangeAll o.first o.n (closedPage (s.entry e)) = true) (hdest : rangeAll o.dest o.n (closedPage (s.entry e)) = true)
    (hdisj : o.first + o.n ≤ o.dest) :
    ∃ u, exec (.editApply p e now) s = .next u ∧ (∃ c ∈ (u.fnOf b.host.fn).buffer, c.tag = b.host.tag ∧ c.reason = 0) ∧ ∀ i, i < o.n →
      (tget {} (u.entry e).pages (o.first + i)).stripe = (tget {} (s.entry e).pages (o.dest + i)).stripe ∧
      (tget {} (u.entry e).pages (o.dest + i)).stripe = (tget {} (s.entry e).pages (o.first + i)).stripe := by
  have hx : (batchTaken (s.setNow now) e).entry e = { s.entry e with edit := none } := by
    rw [batchTaken, State.modEntry_entry_self, State.setNow_entry']
  have hclosed : closedPage ((batchTaken (s.setNow now) e).entry e) = closedPage (s.entry e) := batchTaken_closedPage (s.setNow now) e
  have hone : editOne (batchTaken (s.setNow now) e) p e o = .ok (editReorder (batchTaken (s.setNow now) e) p e o) :=
    editOne_reorder hrsv hpos hmax hop (by rw [hx]; exact hstale) (by rw [hclosed]; exact hfirst) (by rw [hclosed]; exact hdest) hdisj
  obtain ⟨u, hu, hdone, hentry⟩ := editApply_applies h hone
  refine ⟨u, hu, hdone, fun i hi => ?_⟩
  have hswaps := editReorder_swaps (s := batchTaken (s.setNow now) e) (by rw [hx]; exact hw) hdisj hi p
  rw [batchTaken_pages, State.setNow_entry'] at hswaps
  rw [hentry]
  exact hswaps

end Sys2Proof.Machine
end

section
/-! SUPPORT. Edit batches (O34): a swap of two pages on a page table that lists one of them twice. -/

namespace Sys2Proof.Machine

/-- Entry 0 of partition 3 waits for a batch that swaps its pages 0 and 1, and its page table lists page 0 twice. -/
def doubledPage : State where
  parts := [(3, { cfg := some {
    part := 3, owner := 1, enable := true, hostReset := true, flrPart := false, seed := 1, keyLog2 := 10, bar2 := none, bind := none
    tiles := [], granules := [], blocks := [0], shares := [], rules := [], ruleIods := [], tables := [], slots := [], serv := {}, dests := [] } })]
  entries := [(0, { open_ := true, length := 128, committed := 128
                    pages := [(0, { stripe := 1, valid := true }), (0, { stripe := 2, valid := true }), (1, { stripe := 3, valid := true })]
                    edit := some { bytes := [0, 0, 0, 0, 1], ops := [⟨2, 1, 0, 1, 0⟩], host := { fn := 0, sq := 0, tag := 0, quiet := false } } })]

/-- The descriptors of the swapped table are written in its order (R219), and the second one of page 0 is the last that is written there. -/
theorem reorder_of_doubledPage : ∃ u, exec (.editApply 3 0 0) doubledPage = .next u ∧ (tget {} (u.entry 0).pages 0).stripe = 2 :=
  ⟨_, rfl, by decide +kernel⟩

/-- Refutes O34: its clause on REORDER (R245) speaks of every page table, and on one that is not in canonical form (a page listed twice) the swap
does not give page 0 the stripe that page 1 had. On page tables in canonical form that clause holds (`editApply_reorders`). -/
theorem not_entriesAreFreedAndEdited : ¬ Obligations.EntriesAreFreedAndEdited := by
  unfold Obligations.EntriesAreFreedAndEdited
  rintro ⟨-, hedit⟩
  obtain ⟨-, hreorder, -⟩ := hedit doubledPage 3 0 0 _ _ (by decide) (by decide +kernel) rfl (by decide) rfl (by decide) rfl rfl rfl
    (by decide +kernel) rfl
  obtain ⟨u, hu, -, hswap⟩ := hreorder rfl (by decide) (by decide) rfl rfl (by decide +kernel) (by decide +kernel) (by decide)
  obtain ⟨v, hv, hlast⟩ := reorder_of_doubledPage
  obtain rfl : u = v := Host.Outcome.next.inj (hu.symm.trans hv)
  exact absurd (hlast.symm.trans (hswap 0 (by decide)).1) (by decide)

end Sys2Proof.Machine
end

section
/-! SUPPORT. Alarms that are released (O33): the fields of an evidence record (R286 to R289), and ALARM_RELEASE (R284, R294). -/

namespace Sys2Proof.Machine

variable {s t : State} {p : Nat} {c : Cand}

/-! ### Fields of a record -/

/-- A field behind a part of a record lies as far into the rest. -/
theorem leAt_append_of_le {a : List Byte} {o : Nat} (h : a.length ≤ o) (b : List Byte) (k : Nat) :
    leAt (a ++ b) o k = leAt b (o - a.length) k := by
  have hdrop : (a ++ b).drop o = b.drop (o - a.length) := by rw [List.drop_append, List.drop_eq_nil_of_le h, List.nil_append]
  simp only [leAt, slice, hdrop]

/-- The field that a record begins with reads as it was written. -/
theorem leAt_toLe_append {k n : Nat} (h : n < 256 ^ k) (b : List Byte) : leAt (toLe k n ++ b) 0 k = n := by
  have hslice : slice (toLe k n ++ b) 0 k = toLe k n := by simp [slice, toLe_length]
  rw [leAt, hslice, leNat_toLe h]

theorem byteAt_append_of_le {a : List Byte} {o : Nat} (h : a.length ≤ o) (b : List Byte) : byteAt (a ++ b) o = byteAt b (o - a.length) := by
  rw [byteAt, List.getD_append_right _ _ _ _ h, byteAt]

/-- Parts of one length make a whole of as many times that length. -/
theorem length_flatten_of_forall {α : Type} {n : Nat} {l : List (List α)} (h : ∀ x ∈ l, x.length = n) : l.flatten.length = l.length * n := by
  rw [List.length_flatten, List.map_congr_left h, List.map_const', List.sum_replicate, smul_eq_mul]

theorem panelBytes_length (s : State) (p : Nat) (c : Cand) (cfg : Nat × Nat × Nat) : (panelBytes s p c cfg).length = 384 := by
  have htab (m k : Nat) (f : Nat → Nat) : ((List.range m).map fun i => toLe k (f i)).flatten.length = m * k := by
    rw [length_flatten_of_forall (n := k) (by simp [toLe_length]), List.length_map, List.length_range]
  simp [panelBytes, htab]

theorem replayToken_length (s : State) (p : Nat) (c : Cand) (st : Nat) (taint : Bool) : (replayToken s p c st taint).length = 32 := by
  simp [replayToken, toLe_length]

/-- R286: 128 bytes, and 384 for each panel. -/
theorem alarmRecord_length (s : State) (p : Nat) (c : Cand) (st : Nat) (narr : Bool) :
    (alarmRecord s p c st narr).length = 128 + 384 * (s.part p).serv.nPanel := by
  have hpanels (n : Nat) (f : Nat → Nat × Nat × Nat) : ((List.range n).map fun i => panelBytes s p c (f i)).flatten.length = n * 384 := by
    rw [length_flatten_of_forall (n := 384) (by simp [panelBytes_length]), List.length_map, List.length_range]
  unfold alarmRecord
  extract_lets v x taint n
  have hn : n = (s.part p).serv.nPanel := rfl
  clear_value n v x taint
  simp [hpanels, toLe_length, replayToken_length, hn]
  omega

/-- R286, R287: where the fields of a record's head lie. -/
theorem alarmRecord_fields {n : Nat} (hn : (s.part p).serv.nPanel = n) (hmax : n ≤ 4) (c : Cand) (st : Nat) (narr : Bool) :
    leAt (alarmRecord s p c st narr) 0 2 = 128 + 384 * n ∧ byteAt (alarmRecord s p c st narr) 2 = 1 ∧
      byteAt (alarmRecord s p c st narr) 3 = 1 + 16 * n ∧ (c.entry < 2 ^ 32 → leAt (alarmRecord s p c st narr) 4 4 = c.entry) ∧
      (c.serial < 2 ^ 32 → leAt (alarmRecord s p c st narr) 12 4 = c.serial) ∧
      (c.score < 2 ^ 32 → leAt (alarmRecord s p c st narr) 28 4 = c.score) := by
  unfold alarmRecord
  extract_lets v x taint m
  have hm : m = n := hn
  clear_value m v x taint
  subst hm
  simp only [List.append_assoc]
  refine ⟨leAt_toLe_append (by omega) _, ?_, ?_, fun h => ?_, fun h => ?_, fun h => ?_⟩
  · rw [byteAt_append_of_le (by simp [toLe_length])]
    simp [toLe_length, byteAt]
  · rw [byteAt_append_of_le (by simp [toLe_length])]
    simp [toLe_length, byteAt]
    omega
  · iterate 2 rw [leAt_append_of_le (by simp [toLe_length])]
    simpa only [toLe_length, List.length_cons, List.length_nil] using leAt_toLe_append h _
  · iterate 5 rw [leAt_append_of_le (by simp [toLe_length])]
    simpa only [toLe_length, List.length_cons, List.length_nil] using leAt_toLe_append h _
  · iterate 8 rw [leAt_append_of_le (by simp [toLe_length])]
    simpa only [toLe_length, List.length_cons, List.length_nil] using leAt_toLe_append h _

/-- A record reads of the partition its settings and its images. -/
theorem alarmRecord_congr (hserv : (t.part p).serv = (s.part p).serv) (hslots : ∀ k, t.slot p k = s.slot p k) (hlantern : t.lantern = s.lantern)
    (c : Cand) (st : Nat) (narr : Bool) : alarmRecord t p c st narr = alarmRecord s p c st narr := by
  have hpanel (q : Nat × Nat × Nat) : panelBytes t p c q = panelBytes s p c q := by simp only [panelBytes, layerOf, planOf, hslots]
  have htoken (taint : Bool) : replayToken t p c st taint = replayToken s p c st taint := by simp only [replayToken, kvOf, planOf, hslots]
  have hpanels : panelBytes t p c = panelBytes s p c := funext hpanel
  unfold alarmRecord
  rw [hserv, hlantern]
  extract_lets v x taint n
  rw [htoken, hpanels]

/-! ### ALARM_RELEASE (R284, R294) -/

/-- An earlier candidate of the same sequence waits for its release (R284). -/
def olderWaits (s : State) (p : Nat) (c : Cand) (serial : Nat) : Bool :=
  ((s.part p).cands.takeWhile fun d => d.serial != serial).any fun d => d.entry == c.entry && d.seqId == c.seqId

theorem dropCand_part (s : State) (p serial : Nat) :
    (dropCand s p serial).part p = { s.part p with cands := (s.part p).cands.filter fun c => c.serial != serial } :=
  State.modPart_part_self s p _

theorem modCnt_part (s : State) (p : Nat) (f : ServCnt → ServCnt) : (modCnt s p f).part p = { s.part p with cnt := f (s.part p).cnt } :=
  State.modPart_part_self s p _

theorem alarmRecord_dropCand (s : State) (p serial : Nat) (c : Cand) (st : Nat) (narr : Bool) :
    alarmRecord (dropCand s p serial) p c st narr = alarmRecord s p c st narr := by
  refine alarmRecord_congr ?_ (fun k => ?_) ?_ c st narr
  · rw [dropCand_part]
  · simp only [State.slot, dropCand_part]
  · rfl

/-- A record finds room in the spool of a bound function (R388). -/
theorem spoolAdd_room {fn : Nat} (hfn : (s.part p).fn = some fn) (hroom : (s.part p).spool.length < 4096) (bytes : List Byte) :
    spoolAdd s p bytes = s.modPart p fun q => { q with spool := q.spool ++ [{ bytes := bytes }] } := by
  simp only [spoolAdd, hfn, hroom, if_true]

variable {serial st : Nat}

/-- A candidate that is not resolved, or not the oldest of its sequence, stays. -/
theorem alarmRelease_waits (hp : p < 64) (hc : (s.part p).cands.find? (fun d => d.serial == serial) = some c)
    (h : c.status = none ∨ olderWaits s p c serial = true) (now : Nat) :
    exec (.alarmRelease p serial now) s = .next (s.setNow now) := by
  refine (guarded_ok (by simpa [instrWellFormed, okPart] using hp) _).trans (congrArg Host.Outcome.next ?_)
  have holder : olderWaits (s.setNow now) p c serial = olderWaits s p c serial := rfl
  simp only [State.setNow_part', hc]
  cases hst : c.status with
  | none => rfl
  | some st =>
    have hwaits : olderWaits s p c serial = true := by simpa [hst] using h
    exact if_pos hwaits

/-- A resolved candidate that is the oldest of its sequence leaves; where no narrative begins, its record is `alarmRecord … false`. -/
theorem alarmRelease_leaves (hp : p < 64) (hc : (s.part p).cands.find? (fun d => d.serial == serial) = some c) (hst : c.status = some st)
    (hold : olderWaits s p c serial = false) (hnarr : 2 ≤ st ∨ (s.part p).serv.narrEnable = false) (now : Nat) :
    exec (.alarmRelease p serial now) s = .next
      (let m := dropCand (s.setNow now) p serial
       let r := alarmRecord (s.setNow now) p c st false
       if st < 2 then
         let m := modCnt m p fun c => { c with release := wrapAdd c.release 1 }
         let m := if (s.part p).serv.ring then spoolAdd m p r else m
         if (s.part p).serv.feed then sendRecord m p (s.part p).serv.port r else m
       else spoolAdd m p r) := by
  refine (guarded_ok (by simpa [instrWellFormed, okPart] using hp) _).trans (congrArg Host.Outcome.next ?_)
  have hnot : ¬ olderWaits s p c serial = true := by simp [hold]
  have hrel : (st == 0 || st == 1) = decide (st < 2) := by
    rcases st with _ | _ | st
    · rfl
    · rfl
    · simp
  have hskip : (decide (st < 2) && (s.part p).serv.narrEnable) = false := by
    rcases hnarr with h | h
    · simp; omega
    · simp [h]
  simp only [State.setNow_part', hc, hst]
  refine (if_neg hnot).trans ?_
  simp only [hrel, hskip, Bool.false_eq_true, if_false, alarmRecord_dropCand, decide_eq_true_eq]

/-- Settles O33: the release follows R284 and R294, and the record has the layout of R286 to R288. -/
theorem alarmsAreReleasedWithTheirRecord : Obligations.AlarmsAreReleasedWithTheirRecord := by
  unfold Obligations.AlarmsAreReleasedWithTheirRecord
  refine ⟨fun s p serial now st c fn hp hc => ⟨fun hst hold hlt hnarr hring hfeed hfn hroom => ?_, fun hst hold hge hfn hroom => ?_,
    fun h => alarmRelease_waits hp hc h now⟩, fun s p c st narr hmax => ⟨alarmRecord_length s p c st narr, alarmRecord_fields rfl hmax c st narr⟩⟩
  · refine ⟨_, alarmRelease_leaves hp hc hst hold (.inr hnarr) now, ?_⟩
    simp only [hlt, if_true, hring, hfeed, Bool.false_eq_true, if_false]
    rw [spoolAdd_room (by rw [modCnt_part, dropCand_part]; exact hfn) (by rw [modCnt_part, dropCand_part]; exact hroom),
      State.modPart_part_self, modCnt_part, dropCand_part]
    exact ⟨rfl, rfl, fun d hd => by simpa using (List.mem_filter.mp hd).2⟩
  · refine ⟨_, alarmRelease_leaves hp hc hst hold (.inl hge) now, ?_⟩
    simp only [Nat.not_lt.mpr hge, if_false]
    rw [spoolAdd_room (by rw [dropCand_part]; exact hfn) (by rw [dropCand_part]; exact hroom), State.modPart_part_self, dropCand_part]
    exact ⟨rfl, rfl, rfl⟩

end Sys2Proof.Machine
end

section
/-! SUPPORT. Confirmations (O32): CONFIRM_START (R230, R282) and CONFIRM_END (R281, R285, R291). -/

namespace Sys2Proof.Machine

variable {s t : State} {p now : Nat} {b : Backlog} {y : Pass}

/-! ### CONFIRM_START (R282) -/

/-- Where no backlog entry waits, or as many run as may, nothing starts. -/
theorem confirmStart_idle (hp : p < 64) (h : nextBacklog (s.part p) = none ∨ (s.part p).serv.confirmSlots < confirmRunning (s.part p)) :
    exec (.confirmStart p now) s = .next (s.setNow now) := by
  refine (guarded_ok (by simpa [instrWellFormed, okPart] using hp) _).trans (congrArg Host.Outcome.next ?_)
  simp only [State.setNow_part']
  rcases h with hnone | hfull
  · simp only [hnone]
  · cases nextBacklog (s.part p) with
    | none => rfl
    | some b => exact if_pos (by simp [hfull])

/-- A backlog entry whose recomputation has begun: the contexts of its image may take it up. -/
def confirmBegun (s : State) (p : Nat) (b : Backlog) : State := s.modPart p fun q =>
  { q with backlog := startFirst q.backlog, recomps := q.recomps ++ [recompute s p (s.part p).nextPass b], nextPass := (s.part p).nextPass + 1 }

theorem confirmStart_starts (hp : p < 64) (hrun : (s.part p).state = .running) (hb : nextBacklog (s.part p) = some b)
    (hplan : (planOf s p b.pass.slot).isSome = true) (hroom : confirmRunning (s.part p) ≤ (s.part p).serv.confirmSlots) (now : Nat) :
    exec (.confirmStart p now) s = .next (assignCtxs (confirmBegun (s.setNow now) p b) p b.pass.slot) := by
  refine (guarded_ok (by simpa [instrWellFormed, okPart] using hp) _).trans (congrArg Host.Outcome.next ?_)
  have hplan' : planOf (s.setNow now) p b.pass.slot = planOf s p b.pass.slot := rfl
  simp only [State.setNow_part', hb]
  refine (if_neg ?_).trans rfl
  rw [hplan', Option.isNone_eq_false_iff.mpr hplan]
  simp [hrun, Nat.not_lt.mpr hroom]

/-- What a recomputation takes over of the pass that it recomputes, with the number it has itself (R230, R282). -/
def recomputed (x : Pass) : Nat × Option Nat × Bool × Nat × Nat × Nat × Nat × Tab (List Nat) :=
  (x.id, x.confirm, x.ref, x.token, x.pos, x.entry, x.variant, x.carryIn)

/-- A recomputation that has begun is in the partition, whatever turn a context gives it. -/
theorem confirmBegun_recomp (h : TurnsOnly (confirmBegun s p b) t) :
    (t.part p).backlog = startFirst (s.part p).backlog ∧ ∃ y ∈ (t.part p).recomps, recomputed y =
      ((s.part p).nextPass, some b.pass.id, true, b.pass.token, b.pass.pos, b.pass.entry, b.pass.variant, b.carry) := by
  have hpart : (confirmBegun s p b).part p = { s.part p with
      backlog := startFirst (s.part p).backlog, recomps := (s.part p).recomps ++ [recompute s p (s.part p).nextPass b]
      nextPass := (s.part p).nextPass + 1 } := State.modPart_part_self s p _
  refine ⟨?_, ?_⟩
  · rw [h.readsPart Part.backlog (fun _ => rfl) p, hpart]
  · have hmem : sansTurn (recompute s p (s.part p).nextPass b) ∈ (t.part p).recomps.map sansTurn := by
      have hrecomps := congrArg Part.recomps (h.part p)
      simp only [sansTurns, hpart] at hrecomps
      rw [hrecomps]
      simp
    obtain ⟨y, hy, hturn⟩ := List.mem_map.mp hmem
    exact ⟨y, hy, (reads_of_sansTurn hturn recomputed fun _ => rfl).trans rfl⟩

/-! ### CONFIRM_END (R281, R291) -/

/-- What a confirmation reads and changes of a partition. -/
def confirmState (q : Part) : List Backlog × List Pass × List Cand × Nat := (q.backlog, q.recomps, q.cands, q.progress)

theorem bar2Write_fixes {α β : Type} {π : Part → α} {ρ : Entry → β} (p off : Nat) (bs : List Byte) : Fixes π ρ s (bar2Write s p off bs) :=
  Fixes.of_keeps (F := { stackTab := true, dram := true }) (bar2Write_keeps (Keeps.refl _ s) p off bs rfl rfl) rfl rfl

/-- A capture (R291) is beside the confirmation: bytes of DRAM, and counts. -/
theorem writeCapture_fixes {β : Type} {ρ : Entry → β} (p serial : Nat) (streams : List (List Byte)) :
    Fixes confirmState ρ s (writeCapture s p serial streams).1 := by
  unfold writeCapture
  extract_lets v bs s1 n s2
  have h1 : Fixes confirmState ρ s s1 := Fixes.modPart p fun _ => rfl
  have h2 : Fixes confirmState ρ s s2 := bar2Write_fixes _ _ _
  split
  · exact Fixes.refl s
  · split
    · exact h1.trans (reportLead_fixes _ _ _)
    · exact h2.trans (Fixes.modPart p fun _ => rfl)

/-- A candidate that waits for the recomputation of a backlog entry. -/
def awaitsConfirm (b : Backlog) (c : Cand) : Bool := b.cands.contains c.serial && c.entry == b.pass.entry && c.status.isNone

/-- A partition once the recomputation `y` has resolved its backlog entry `b`, the one at `idx`. -/
def confirmResolved (m : State) (idx : Nat) (b : Backlog) (y : Pass) (capt : Option (Nat × Nat)) (q : Part) : Part :=
  { q with
    backlog := q.backlog.eraseIdx idx, backlogPeriod := false, recomps := q.recomps.filter fun z => z.id != y.id
    cands := q.cands.map fun c => if awaitsConfirm b c then resolveCand m y capt c else c }

/-- What a confirmation counts of the candidates `cs` that it resolves, each with its status (R281). -/
def confirmCounts (cs : List ((Nat × Nat) × Cand)) (c : ServCnt) : ServCnt :=
  { c with
    suppress := satAdd c.suppress (cs.filter fun q => q.1.1 == 2).length
    unresolved := satAdd c.unresolved (cs.filter fun q => q.1.1 == 3).length
    nan := satAdd c.nan (cs.filter fun q => q.1.1 == 2 && f32IsNan q.1.2).length }

variable {idx : Nat}

/-- A recomputation that still runs resolves nothing. -/
theorem confirmEnd_waits (hp : p < 64) (hb : (s.part p).backlog[idx]? = some b) (hy : recompOf (s.part p) b = some y)
    (h : y.walking ≠ 0 ∨ allResolved s p y = false) (now : Nat) : exec (.confirmEnd p idx now) s = .next (s.setNow now) := by
  refine (guarded_ok (by simpa [instrWellFormed, okPart] using hp) _).trans (congrArg Host.Outcome.next ?_)
  have hall : allResolved (s.setNow now) p y = allResolved s p y := rfl
  simp only [State.setNow_part', hb, Option.bind_some, hy, hall]
  refine if_pos ?_
  rcases h with hwalk | hres
  · simp [hwalk]
  · simp [hres]

/-- A recomputation that has resolved its steps resolves its backlog entry. -/
theorem confirmEnd_resolves (hp : p < 64) (hrun : (s.part p).state = .running) (hb : (s.part p).backlog[idx]? = some b)
    (hbrun : b.running = true) (hy : recompOf (s.part p) b = some y) (hwalk : y.walking = 0) (hres : allResolved s p y = true) (now : Nat) :
    ∃ m capt cs, Fixes confirmState (id : Entry → Entry) s m ∧ exec (.confirmEnd p idx now) s =
      .next (progress (modCnt (m.modPart p (confirmResolved m idx b y capt)) p (confirmCounts cs)) p) := by
  have hall : allResolved (s.setNow now) p y = allResolved s p y := rfl
  have hset : Fixes confirmState (id : Entry → Entry) s (s.setNow now) := Fixes.of_eq rfl rfl
  let capture := writeCapture (s.setNow now) p (b.cands.headD 0) (pairStreams (s.setNow now) p y)
  let mine := (s.part p).cands.filter (awaitsConfirm b)
  refine ⟨capture.1, capture.2, mine.map fun c => (refStatus y c, c), hset.trans (writeCapture_fixes p _ _),
    (guarded_ok (by simpa [instrWellFormed, okPart] using hp) _).trans (congrArg Host.Outcome.next ?_)⟩
  simp only [State.setNow_part', hb, Option.bind_some, hy, hall]
  refine (if_neg ?_).trans rfl
  simp [hbrun, hrun, hwalk, hres]

/-- The status that R281 gives a candidate from the recomputation of its pass. -/
theorem resolveCand_status (m : State) (y : Pass) (capt : Option (Nat × Nat)) (c : Cand) : (resolveCand m y capt c).status =
    some (if y.poison.isSome then 3
      else if f32IsNan (y.scores.getD c.cls 0x7FC00000) then 2
      else if f32Ge (y.scores.getD c.cls 0x7FC00000) c.thresh then 1 else 2) := by
  have hstatus : (resolveCand m y capt c).status = some (refStatus y c).1 := by
    unfold resolveCand
    dsimp only
    split
    · next h => rw [h]
    · rfl
  rw [hstatus, refStatus]
  dsimp only
  cases y.poison.isSome with
  | true => rfl
  | false =>
    cases f32IsNan (y.scores.getD c.cls 0x7FC00000) with
    | true => rfl
    | false => rfl

/-- A candidate keeps what it was raised for. -/
theorem resolveCand_raised (m : State) (y : Pass) (capt : Option (Nat × Nat)) (c : Cand) :
    (resolveCand m y capt c).serial = c.serial ∧ (resolveCand m y capt c).entry = c.entry ∧ (resolveCand m y capt c).cls = c.cls := by
  unfold resolveCand
  dsimp only
  split
  · exact ⟨rfl, rfl, rfl⟩
  · exact ⟨rfl, rfl, rfl⟩

/-- Settles O32: CONFIRM_START takes the backlog in commit order, and CONFIRM_END resolves the candidates of its entry. -/
theorem confirmationResolvesCandidates : Obligations.ConfirmationResolvesCandidates := by
  unfold Obligations.ConfirmationResolvesCandidates
  intro s p now hp hrun
  refine ⟨fun b hb hplan hroom => ?_, confirmStart_idle hp, fun idx b y hb hbrun hy => ⟨fun hwalk hres => ?_,
    fun h => confirmEnd_waits hp hb hy h now⟩⟩
  · obtain ⟨hback, z, hz, hrec⟩ := confirmBegun_recomp (assignCtxs_turnsOnly (s := confirmBegun (s.setNow now) p b) p b.pass.slot)
    simp only [recomputed, Prod.mk.injEq] at hrec
    exact ⟨_, confirmStart_starts hp hrun hb hplan hroom now, hback, z, hz, hrec⟩
  · obtain ⟨m, capt, cs, hm, hu⟩ := confirmEnd_resolves hp hrun hb hbrun hy hwalk hres now
    have hstate := hm.part p
    simp only [confirmState, Prod.mk.injEq] at hstate
    obtain ⟨hback, hrecomps, hcands, hprog⟩ := hstate
    refine ⟨_, hu, ?_⟩
    rw [progress, State.modPart_part_self, modCnt, State.modPart_part_self, State.modPart_part_self]
    simp only [confirmResolved, hback, hrecomps, hcands, hprog]
    refine ⟨trivial, trivial, trivial, fun c hc hserial hentry hstatus => ?_⟩
    have hmine : awaitsConfirm b c = true := by
      rw [awaitsConfirm, hserial, hentry, hstatus]
      simp
    obtain ⟨hs, he, hk⟩ := resolveCand_raised m y capt c
    exact ⟨_, List.mem_map.mpr ⟨c, hc, if_pos hmine⟩, hs, he, hk, resolveCand_status m y capt c⟩

end Sys2Proof.Machine
end

section
/-! SUPPORT. What the ends of items write: records, keys, counts and the items themselves. Every other field of a partition and of a
sequence stays (R259, R262, R268 to R270, R285, R294). -/

namespace Sys2Proof.Machine

variable {β : Type} {s t : State}

/-- A partition apart from its records, its keys and the counts of records, latencies and misses. -/
def sansRecords (q : Part) : Part :=
  { q with
    spool := [], spoolPeriod := false, keys := [], keyFullPeriod := false, msgSeq := []
    cnt := { q.cnt with txDrop := 0, hist := [], miss := [] } }

/-- A sequence apart from its items, its closing mark, its misses and the time of its first token. -/
def sansItems (x : Entry) : Entry := { x with queue := [], gone := [], closing := false, misses := 0, tFirst := 0 }

/-- Only records, keys, items and their counts differ. -/
abbrev ItemsOnly : State → State → Prop := Fixes sansRecords sansItems

theorem Fixes.modEntry_at {α : Type} {π : Part → α} {ρ : Entry → β} {e : Nat} {f : Entry → Entry} (hf : ρ (f (s.entry e)) = ρ (s.entry e)) :
    Fixes π ρ s (s.modEntry e f) where
  part _ := rfl
  entry j := by
    by_cases h : j = e
    · rw [h, State.modEntry_entry_self, hf]
    · rw [State.modEntry_entry_other s h]

theorem modItem_itemsOnly (e id : Nat) (f : Item → Item) : ItemsOnly s (modItem s e id f) := Fixes.modEntry e fun _ => rfl

/-! ### Records -/

theorem spoolAdd_itemsOnly (p : Nat) (bytes : List Byte) : ItemsOnly s (spoolAdd s p bytes) := by
  unfold spoolAdd
  dsimp only
  split
  · exact Fixes.refl s
  · have hdrop (n : Nat) (f : Fn → Fn) : ItemsOnly s (setEvt (s.modFn n f) n 4) := (Fixes.modFn n f).trans (setEvt_fixes _ _)
    refine Fixes.ite (Fixes.modPart p fun _ => rfl) (Fixes.ite (hdrop _ _) ((report_fixes _ _ _ _ _).after ?_))
    exact (hdrop _ _).trans (Fixes.modPart p fun _ => rfl)

theorem sendRecord_itemsOnly (p port : Nat) (rec : List Byte) : ItemsOnly s (sendRecord s p port rec) := by
  have hlost (m : State) : ItemsOnly m (txLost m p) := Fixes.modPart p fun _ => rfl
  unfold sendRecord
  split
  · exact hlost s
  · dsimp only
    split
    · exact (Fixes.modFport _ _).trans (hlost _)
    · refine Fixes.trans ?_ (Fixes.modFport _ _)
      exact Fixes.trans (m := (freeWord s).1) (Fixes.of_eq rfl rfl) (Fixes.modPart p fun _ => rfl)

theorem egressNarr_itemsOnly (p : Nat) (rec : List Byte) : ItemsOnly s (egressNarr s p rec) := by
  unfold egressNarr
  extract_lets v s'
  have h : ItemsOnly s s' := Fixes.ite (spoolAdd_itemsOnly _ _) (Fixes.refl s)
  exact Fixes.ite (h.trans (sendRecord_itemsOnly _ _ _)) h

/-! ### Items that end -/

theorem markClosing_itemsOnly (p e : Nat) : ItemsOnly s (markClosing s p e) :=
  Fixes.after (Fixes.ite (Fixes.modPart p fun _ => rfl) (Fixes.refl _)) (Fixes.modEntry e fun _ => rfl)

theorem finishItem_itemsOnly (p e id reason : Nat) (limit stop : Bool) : ItemsOnly s (finishItem s p e id reason limit stop) := by
  unfold finishItem
  split
  · exact Fixes.refl s
  · extract_lets s1 s2
    have h1 : ItemsOnly s s1 := Fixes.modEntry e fun _ => rfl
    have h2 : ItemsOnly s s2 := by
      unfold s2
      split
      · exact Fixes.ite (h1.trans (produce_fixes _ _)) h1
      · exact h1
    split
    · exact h2
    · exact (h2.trans (egressNarr_itemsOnly _ _)).trans (markClosing_itemsOnly _ _)

/-- An item that is removed cuts a verify step that has passes (R259). -/
theorem removeItem_fixes {ρ : Entry → β} {e : Nat} (hρ : ∀ x, ρ (sansItems x) = ρ x)
    (hcut : ρ { s.entry e with verify := (s.entry e).verify.bind cutVerify } = ρ (s.entry e)) (p id reason : Nat) :
    Fixes sansRecords ρ s (removeItem s p e id reason) := by
  unfold removeItem
  split
  · exact Fixes.refl s
  · extract_lets s'
    have h : Fixes sansRecords ρ s s' := Fixes.ite (Fixes.modEntry_at hcut) (Fixes.refl s)
    split
    · exact h.trans ((finishItem_itemsOnly _ _ _ _ _ _).coarsen (fun q : Part => q) ρ (fun _ => rfl) fun x => (hρ x).symm)
    · refine h.trans (Fixes.modEntry e fun x => ?_)
      rw [← hρ x, ← hρ]
      rfl

theorem settleRemoved_itemsOnly (p e id : Nat) : ItemsOnly s (settleRemoved s p e id) := by
  unfold settleRemoved
  split
  · exact Fixes.refl s
  · split
    · exact Fixes.ite (finishItem_itemsOnly _ _ _ _ _ _) (Fixes.refl s)
    · exact Fixes.refl s

/-! ### Tokens (R263, R268, R270) -/

theorem addHist_itemsOnly (p kind cls ns : Nat) : ItemsOnly s (addHist s p kind cls ns) := by
  unfold addHist
  extract_lets key bump s'
  have h : ItemsOnly s s' := Fixes.modPart p fun _ => rfl
  split
  · exact h.trans (Fixes.modFn _ _)
  · exact h

theorem recordMiss_itemsOnly (p e kind cls late : Nat) : ItemsOnly s (recordMiss s p e kind cls late) := by
  unfold recordMiss
  extract_lets s1 s2
  have h1 : ItemsOnly s s1 := Fixes.modEntry e fun _ => rfl
  have h2 : ItemsOnly s s2 := h1.trans (Fixes.modPart p fun _ => rfl)
  exact h2.trans (reportLead_fixes _ _ _)

theorem tokenTimes_itemsOnly (p e : Nat) (i : Item) : ItemsOnly s (tokenTimes s p e i) :=
  Fixes.ite ((addHist_itemsOnly _ _ _ _).trans (recordMiss_itemsOnly _ _ _ _ _)) (addHist_itemsOnly _ _ _ _)

theorem tokenWrite_itemsOnly (e : Nat) (i : Item) (tok : Nat) : ItemsOnly s (tokenWrite s e i tok) := by
  unfold tokenWrite
  split
  · exact Fixes.refl s
  · exact Fixes.ite (Fixes.refl s) (Fixes.ite (Fixes.of_eq rfl rfl) (modItem_itemsOnly _ _ _))

theorem tokenKeep_itemsOnly (e id : Nat) (i : Item) (tok : Nat) (miss : Bool) : ItemsOnly s (tokenKeep s e id i tok miss) := by
  unfold tokenKeep
  extract_lets s1 s2
  have h1 : ItemsOnly s s1 := tokenWrite_itemsOnly _ _ _
  have h2 : ItemsOnly s s2 := Fixes.ite (h1.trans (Fixes.modEntry e fun _ => rfl)) h1
  exact h2.trans (modItem_itemsOnly _ _ _)

theorem narrFlush_itemsOnly (p e : Nat) (i : Item) : ItemsOnly s (narrFlush s p e i) := by
  unfold narrFlush
  split
  · exact Fixes.refl s
  · exact Fixes.ite (Fixes.refl s) ((egressNarr_itemsOnly _ _).trans (modItem_itemsOnly _ _ _))

theorem tokenNotify_itemsOnly (e id : Nat) (i : Item) : ItemsOnly s (tokenNotify s e id i) := by
  unfold tokenNotify
  split
  · exact Fixes.ite ((produce_fixes _ _).trans (modItem_itemsOnly _ _ _)) (Fixes.refl s)
  · exact Fixes.refl s

theorem yieldToken_itemsOnly (p e id tok : Nat) : ItemsOnly s (yieldToken s p e id tok).1 := by
  unfold yieldToken
  split
  · exact Fixes.refl s
  · extract_lets s' i
    have h : ItemsOnly s s' := (tokenTimes_itemsOnly _ _ _).trans (tokenKeep_itemsOnly _ _ _ _ _)
    split
    · exact h
    · split
      · exact h.trans (finishItem_itemsOnly _ _ _ _ _ _)
      · split
        · exact h.trans (finishItem_itemsOnly _ _ _ _ _ _)
        · exact (h.trans (narrFlush_itemsOnly _ _ _)).trans (tokenNotify_itemsOnly _ _ _)

theorem yieldTokens_itemsOnly (p e id : Nat) (toks : List Nat) : ItemsOnly s (yieldTokens p e id toks s) := by
  induction toks generalizing s with
  | nil => exact Fixes.refl s
  | cons t ts ih => exact Fixes.ite (yieldToken_itemsOnly _ _ _ _) ((yieldToken_itemsOnly _ _ _ _).trans ih)

end Sys2Proof.Machine
end

section
/-! SUPPORT. Verify steps (O31): what one commits of its two sequences (R277, R278), and the cut and the probe of its depth (R279). -/

namespace Sys2Proof.Machine

variable {s t : State} {p e : Nat}

/-! ### The lengths of the two sequences -/

/-- Committing one sequence leaves every other, but for descriptors of KV memory. -/
theorem advance_entry_other {j : Nat} (hj : j ≠ e) (s : State) (p k len : Nat) :
    sansPages ((advance s p k e len).entry j) = sansPages (s.entry j) := by
  unfold advance
  extract_lets old s1 s2
  have h1 : KvOnly s s1 := setDescs_kvOnly p e false _
  have h2 : s2.entry j = s1.entry j := State.modEntry_entry_other s1 hj _
  have h3 (l : List Nat) : KvOnly s2 (l.foldl (fun s g => writeSummary s p k e g) s2) :=
    Fixes.foldl (fun m g => writeSummary_kvOnly p k e g) l s2
  rw [(h3 _).entry, h2, h1.entry]

theorem rejectPages_entry_other {j : Nat} (hj : j ≠ e) (s : State) (p : Nat) :
    sansPages ((rejectPages s p e).entry j) = sansPages (s.entry j) := by
  unfold rejectPages
  extract_lets x ps s1 s2
  have h1 : KvOnly s s1 := (Fixes.foldl (fun _ _ => emptyPage_kvOnly _ _ _ _) ps s).trans (trimIndex_kvOnly _ _ _)
  have h2 : KvOnly s s2 := h1.trans (modPool_kvOnly _ _ _)
  rw [State.modEntry_entry_other s2 hj, h2.entry]

/-- A verify step commits a sequence at its end: what lies above is returned (R278). -/
def commitAt (p len : Nat) (s : State) (n : Nat) : State := rejectPages (advance s p (s.entry n).slot n len) p n

theorem commitAt_fixes (len n : Nat) : Fixes sansSlots (fun x => sansLength (sansCommitted x)) s (commitAt p len s n) :=
  ((advance_fixes p _ n len).coarsen id sansLength (fun _ => rfl) fun _ => rfl).trans
    ((rejectPages_fixes p n).coarsen id (fun x => sansLength (sansCommitted x)) (fun _ => rfl) fun _ => rfl)

theorem commitAt_reach (s : State) (p len n : Nat) : reach ((commitAt p len s n).entry n) = (len, len) := by
  rw [commitAt, rejectPages_reach, advance_committed]

theorem commitAt_reach_other {j n : Nat} (hj : j ≠ n) (s : State) (p len : Nat) :
    reach ((commitAt p len s n).entry j) = reach (s.entry j) := by
  have h := (rejectPages_entry_other hj (advance s p (s.entry n).slot n len) p).trans (advance_entry_other hj s p _ len)
  exact Prod.ext (congrArg Entry.length h :) (congrArg Entry.committed h :)

/-! ### The end of a verify step (R277, R278) -/

/-- The sequences of a verify step. -/
def verifyPair (s : State) (e : Nat) : List Nat := e :: (if (s.entry e).partnerValid then [(s.entry e).partner] else [])

/-- Both sequences of a verify step come to its end. -/
theorem foldl_commitAt_reach (hv : (s.entry e).partnerValid = true) (hne : (s.entry e).partner ≠ e) (p len : Nat) :
    reach (((verifyPair s e).foldl (commitAt p len) s).entry e) = (len, len) ∧
      reach (((verifyPair s e).foldl (commitAt p len) s).entry (s.entry e).partner) = (len, len) := by
  rw [verifyPair, if_pos hv]
  exact ⟨(commitAt_reach_other hne.symm _ _ _).trans (commitAt_reach _ _ _ _), commitAt_reach _ _ _ _⟩

/-- What a verify step reads and changes of a partition's counts (R279). -/
def verifyCounts (q : Part) : Word × Word × Word := (q.cnt.verify, q.cnt.proposed, q.cnt.accept)

theorem foldl_commitAt_counts (l : List Nat) (p len : Nat) : verifyCounts ((l.foldl (commitAt p len) s).part p) = verifyCounts (s.part p) :=
  (Fixes.foldl (fun _ n => (commitAt_fixes len n).coarsen verifyCounts (fun _ => ()) (fun _ => rfl) fun _ => rfl) l s).part p

theorem specGovern_verify (x : Entry) (m a : Nat) (probe : Bool) : (specGovern x m a probe).verify = x.verify := by
  unfold specGovern
  repeat' split
  all_goals rfl

theorem specGovern_reach (x : Entry) (m a : Nat) (probe : Bool) : reach (specGovern x m a probe) = reach x := by
  unfold specGovern
  repeat' split
  all_goals rfl

/-- What a verify step keeps of itself where its sequences have committed: its counts, its governor, and its item. -/
def verifyKept (m : State) (p e : Nat) (v : Verify) (d a id : Nat) : State :=
  let m := modCnt m p fun c => { c with
    verify := wrapAdd c.verify 1, proposed := wrapAdd c.proposed d, accept := wrapAdd c.accept a }
  let m := m.modEntry e fun x => specGovern { x with verify := none } (m.part p).serv.depthMax a v.probe
  modItem m e id fun i => { i with open_ := i.open_ - d, tCommit := m.now }

variable {v : Verify} {d a len id : Nat}

theorem verifyKept_verify : ((verifyKept s p e v d a id).entry e).verify = none := by
  unfold verifyKept
  rw [(modItem_itemsOnly _ _ _).reads Entry.verify (fun _ => rfl), State.modEntry_entry_self, specGovern_verify]

theorem verifyKept_reach (j : Nat) : reach ((verifyKept s p e v d a id).entry j) = reach (s.entry j) := by
  unfold verifyKept
  extract_lets m1 m2
  have h2 : Fixes Part.slots reach m1 m2 := Fixes.modEntry e fun x => specGovern_reach _ _ _ _
  rw [(modItem_itemsOnly _ _ _).reads reach (fun _ => rfl), h2.entry]
  rfl

theorem verifyKept_counts : verifyCounts ((verifyKept s p e v d a id).part p) =
    (wrapAdd (s.part p).cnt.verify 1, wrapAdd (s.part p).cnt.proposed d, wrapAdd (s.part p).cnt.accept a) := by
  unfold verifyKept
  rw [(modItem_itemsOnly _ _ _).readsPart verifyCounts fun _ => rfl, State.modEntry_part', modCnt, State.modPart_part_self]
  rfl

/-- An item that is removed leaves a sequence in which no verify step runs. -/
theorem bind_cutVerify_eq {x : Entry} (h : x.verify = none) : { x with verify := x.verify.bind cutVerify } = x := by
  cases x
  cases h
  rfl

/-- What a verify step yields changes records, items and their counts alone (R278). -/
theorem endVerify_itemsOnly (mains drafts : List Pass)
    (ha : a = Nat.min mains.length (accepted (drafts.map topTok) (mains.map topTok)))
    (hlen : len = v.start + (if a < mains.length then a + 1 else mains.length)) :
    ItemsOnly (verifyKept ((verifyPair s e).foldl (commitAt p len) s) p e v mains.length a (((mains.head?).map Pass.item).getD 0))
      (endVerify s p e v mains drafts) := by
  subst ha hlen
  unfold endVerify
  extract_lets x ys ms d a toks len id s1 s2 s3 s4 nan s5 s6
  have hnone : (s4.entry e).verify = none := verifyKept_verify (s := s1) (v := v)
  have h5 : ItemsOnly s4 s5 := yieldTokens_itemsOnly _ _ _ _
  have h6 : ItemsOnly s5 s6 := by
    have hnone5 : (s5.entry e).verify = none := (h5.reads Entry.verify (fun _ => rfl) e).trans hnone
    refine Fixes.ite ?_ (Fixes.refl s5)
    split
    · exact Fixes.ite (removeItem_fixes (fun _ => rfl) (congrArg sansItems (bind_cutVerify_eq hnone5)) _ _ _) (Fixes.refl s5)
    · exact Fixes.refl s5
  exact (h5.trans h6).trans (settleRemoved_itemsOnly _ _ _)

/-- The end of a verify step (R277, R278). -/
theorem endVerify_ends (hv : (s.entry e).partnerValid = true) (hne : (s.entry e).partner ≠ e) (mains drafts : List Pass)
    (ha : a = Nat.min mains.length (accepted (drafts.map topTok) (mains.map topTok)))
    (hlen : len = v.start + (if a < mains.length then a + 1 else mains.length)) :
    reach ((endVerify s p e v mains drafts).entry e) = (len, len) ∧
      reach ((endVerify s p e v mains drafts).entry (s.entry e).partner) = (len, len) ∧
      ((endVerify s p e v mains drafts).entry e).verify = none ∧ verifyCounts ((endVerify s p e v mains drafts).part p) =
        (wrapAdd (s.part p).cnt.verify 1, wrapAdd (s.part p).cnt.proposed mains.length, wrapAdd (s.part p).cnt.accept a) := by
  have h := endVerify_itemsOnly (s := s) (p := p) (e := e) mains drafts ha hlen
  obtain ⟨hmain, hpartner⟩ := foldl_commitAt_reach hv hne p len
  have hcounts := foldl_commitAt_counts (s := s) (verifyPair s e) p len
  simp only [verifyCounts, Prod.mk.injEq] at hcounts
  obtain ⟨hverify, hproposed, haccept⟩ := hcounts
  refine ⟨?_, ?_, ?_, ?_⟩
  · rw [h.reads reach (fun _ => rfl), verifyKept_reach, hmain]
  · rw [h.reads reach (fun _ => rfl), verifyKept_reach, hpartner]
  · rw [h.reads Entry.verify (fun _ => rfl), verifyKept_verify]
  · rw [h.readsPart verifyCounts (fun _ => rfl), verifyKept_counts, hverify, hproposed, haccept]

/-! ### The commit of its passes (R134, R278) -/

theorem governor_fixes (x : Pass) : Fixes verifyCounts (fun y : Entry => y) s (governor s p x) := by
  unfold governor
  extract_lets nt nf s1
  have h1 : Fixes verifyCounts (fun y : Entry => y) s s1 := Fixes.modPart p fun _ => rfl
  exact Fixes.ite h1 (h1.trans (Fixes.modPart p fun _ => rfl))

/-- The passes of a verify step leave the partition, and the governor counts them. -/
def verifyLeft (s : State) (p : Nat) (g : List Pass) : State :=
  g.foldl (fun s y => governor (confirmWords s p y) p y) (progress (dropPasses s p (g.map Pass.id)) p)

theorem verifyLeft_fixes (g : List Pass) : Fixes verifyCounts (fun y : Entry => y) s (verifyLeft s p g) := by
  have hdrop : Fixes verifyCounts (fun y : Entry => y) s (dropPasses s p (g.map Pass.id)) :=
    (dropPasses_tiles s p _).trans (Fixes.modPart p fun _ => rfl)
  have hprog : Fixes verifyCounts (fun y : Entry => y) s (progress (dropPasses s p (g.map Pass.id)) p) :=
    hdrop.trans (Fixes.modPart p fun _ => rfl)
  exact hprog.trans (Fixes.foldl (fun _ y => (confirmWords_fixes p y).trans (governor_fixes y)) g _)

/-- A group whose first pass belongs to a verify step of its main sequence commits as that step. -/
theorem commitPasses_verify {g : List Pass} {y : Pass} (hhead : g.head? = some y) (hy : y.verify = true)
    (hdraft : (s.entry y.entry).draft = false) (hv : (s.entry y.entry).verify = some v) :
    commitPasses s p g =
      endVerify (verifyLeft s p g) p y.entry v (g.filter fun z => z.entry == y.entry) (g.filter fun z => z.entry != y.entry) := by
  have hfind : (g.find? fun z => z.verify) = some y := by
    cases g with
    | nil => cases hhead
    | cons z zs => cases hhead; exact List.find?_cons_of_pos hy
  have hmains : (g.filter fun z => z.entry == y.entry).isEmpty = false := by
    rw [List.isEmpty_eq_false_iff_exists_mem]
    exact ⟨y, List.mem_filter.mpr ⟨List.mem_of_mem_head? hhead, by simp⟩⟩
  have hentry (e : Nat) : (progress (dropPasses s p (g.map Pass.id)) p).entry e = s.entry e := dropPasses_entry s p _ e
  simp only [commitPasses, hfind, hentry, hdraft, Bool.false_eq_true, if_false, hv, hmains]
  rfl

/-- PASS_COMMIT of a verify step of which every pass has come to its commit point (R134, R278). -/
theorem exec_passCommit_verify {pass m : Nat} {x y : Pass} (hp : p < 64) (hx : findPass s p pass = some x)
    (hhead : (commitGroup s p x).head? = some y) (hy : y.verify = true) (hm : y.entry = m) (hdraft : (s.entry m).draft = false)
    (hv : (s.entry m).verify = some v) (hfirst : firstInOrder s p (commitGroup s p x) = true) (hres : (s.part p).resetting = false)
    (hopen : verifyOpen s x = true) (hg : ∀ y ∈ commitGroup s p x, y.poison = none ∧ atCommitPoint s p y = true) (now : Nat) :
    exec (.passCommit p pass now) s = .next (endVerify (verifyLeft (s.setNow now) p (commitGroup s p x)) p m v
      ((commitGroup s p x).filter fun z => z.entry == m) ((commitGroup s p x).filter fun z => z.entry != m)) := by
  refine (guarded_ok (by simpa [instrWellFormed, okPart] using hp) _).trans (congrArg Host.Outcome.next ?_)
  have hx' : findPass (s.setNow now) p pass = some x := hx
  have hfirst' : firstInOrder (s.setNow now) p (commitGroup (s.setNow now) p x) = true := hfirst
  have hopen' : verifyOpen (s.setNow now) x = true := hopen
  have hpoison : ((commitGroup s p x).any fun y => y.poison.isSome && atCommitPoint s p y) = false :=
    List.any_eq_false.mpr fun z hz => by simp [(hg z hz).1]
  have hsettled : ((commitGroup s p x).all fun y => y.poison.isNone && atCommitPoint s p y) = true :=
    List.all_eq_true.mpr fun z hz => by simp [(hg z hz).1, (hg z hz).2]
  subst hm
  have hcommit := commitPasses_verify (s := s.setNow now) (p := p) hhead hy hdraft hv
  simp only [hx', hfirst', hopen', State.setNow_part', hres]
  exact (if_neg (by decide)).trans ((if_neg (Bool.not_eq_true _ ▸ hpoison)).trans ((if_pos hsettled).trans hcommit))

/-- Settles O31: a verify step through its end, the cut and the probe through their guards. -/
theorem speculationAcceptsAPrefix : Obligations.SpeculationAcceptsAPrefix := by
  unfold Obligations.SpeculationAcceptsAPrefix
  refine ⟨?_, fun s p e hp hown hopen hpv hdraft => ⟨fun hzero hdepth => ?_, fun hzero => ?_,
      fun i t hi ht hdepth hprobe hv hkind hleft hio hse hsp => ?_, fun hprobe => ?_⟩⟩
  · intro s p pass now m x v hp hx _ hdraft hm hv hpv hne g mains drafts hgv hge hfirst hres hopen hg d a len
    obtain ⟨y, hy, hye⟩ := Option.map_eq_some_iff.mp hge
    have hyv : y.verify = true := by rw [hy] at hgv; simpa using hgv
    have hu := exec_passCommit_verify hp hx hy hyv hye (hm ▸ hdraft) hv hfirst hres hopen hg now
    have hleft : Fixes verifyCounts (fun y : Entry => y) s (verifyLeft (s.setNow now) p g) :=
      Fixes.trans (Fixes.of_eq (t := s.setNow now) rfl rfl) (verifyLeft_fixes g)
    have hcounts := hleft.part p
    simp only [verifyCounts, Prod.mk.injEq] at hcounts
    obtain ⟨hcv, hcp, hca⟩ := hcounts
    obtain ⟨hmain, hpartner, hnone, hcnt⟩ := endVerify_ends (s := verifyLeft (s.setNow now) p g) (p := p) (e := m) (v := v)
      (by rw [hleft.entry]; exact hpv) (by rw [hleft.entry]; exact hne) mains drafts rfl rfl
    rw [hleft.entry] at hpartner
    simp only [verifyCounts, Prod.mk.injEq, hcv, hcp, hca] at hcnt
    obtain ⟨huv, hup, hua⟩ := hcnt
    exact ⟨_, hu, congrArg Prod.snd hmain, congrArg Prod.snd hpartner, congrArg Prod.fst hmain, hnone, huv, hup, hua⟩
  · refine ⟨_, (guarded_ok (by simpa [instrWellFormed, okPart] using hp) _).trans (congrArg Host.Outcome.next (if_pos ?_)), ?_, ?_⟩
    · simp [hown, hopen, hpv, hdraft, hzero, hdepth]
    · rw [modCnt, State.modPart_entry', State.modEntry_entry_self]
    · exact congrArg (fun q : Part => q.cnt.cut) (State.modPart_part_self _ _ _)
  · refine (guarded_ok (by simpa [instrWellFormed, okPart] using hp) _).trans (congrArg Host.Outcome.next (if_neg ?_))
    simp [Nat.not_le.mpr hzero]
  · refine ⟨_, (guarded_ok (by simpa [instrWellFormed, okPart] using hp) _).trans (congrArg Host.Outcome.next (a₂ := beginVerify s e _ t true) ?_),
      State.modEntry_entry_self _ _ _⟩
    simp only [hi, ht]
    exact if_pos (by simp [hown, hopen, hpv, hdraft, hdepth, hprobe, hv, hkind, hleft, hio, hse, hsp])
  · refine (guarded_ok (by simpa [instrWellFormed, okPart] using hp) _).trans (congrArg Host.Outcome.next ?_)
    dsimp only
    split
    · rfl
    · split
      · rfl
      · exact if_neg (by simp [Nat.not_le.mpr hprobe])

end Sys2Proof.Machine
end

section
/-! SUPPORT. Image commands (R338, R357, R360): how one read by a function begins to run, and what its end leaves of image slots. -/

namespace Sys2Proof.Machine

variable {α β : Type} {π : Part → α} {ρ : Entry → β} {s t : State} {p k fn sq op : Nat} {cmd : List Byte} {h : HostRef}

theorem Fixes.slot (hf : Fixes Part.slots ρ s t) (p k : Nat) : t.slot p k = s.slot p k := by rw [State.slot, hf.part]; rfl

/-! ### How a command begins (R338, R381) -/

/-- The state in which a command read by a function runs: the time is the command's, and the command is taken. -/
def cmdTaken (s : State) (fn now : Nat) (rest : List (HostRef × List Byte)) : State :=
  (s.setNow now).modFn fn fun f => { f with cmds := rest }

/-- What a command reads of slots, models and engines is as it was before it was taken. -/
@[simp] theorem cmdTaken_slot (s : State) (fn now : Nat) (rest : List (HostRef × List Byte)) (p k : Nat) :
    (cmdTaken s fn now rest).slot p k = s.slot p k := rfl

@[simp] theorem cmdTaken_slotBusy (s : State) (fn now : Nat) (rest : List (HostRef × List Byte)) (p k : Nat) :
    slotBusy (cmdTaken s fn now rest) p k = slotBusy s p k := rfl

@[simp] theorem cmdTaken_findModel (s : State) (fn now : Nat) (rest : List (HostRef × List Byte)) (owner id : Nat) :
    findModel (cmdTaken s fn now rest) owner id = findModel s owner id := rfl

@[simp] theorem cmdTaken_modelBusy (s : State) (fn now : Nat) (rest : List (HostRef × List Byte)) (owner id : Nat) :
    modelBusy (cmdTaken s fn now rest) owner id = modelBusy s owner id := rfl

@[simp] theorem cmdTaken_pickRes (s : State) (fn now : Nat) (rest : List (HostRef × List Byte)) (owner id epoch : Nat) :
    pickRes (cmdTaken s fn now rest) owner id epoch = pickRes s owner id epoch := rfl

/-- A command of a function as it begins to run. -/
def hostReq (s : State) (cmd : List Byte) (h : HostRef) (p : Nat) : ImgReq :=
  { cmd := imgFields cmd, href := some h, reply := none, owner := (partOwner s p).getD 0 }

theorem runCmd_host (hc : HostCmd s fn sq op cmd h p) (now : Nat) (f : State → ImgReq → State) :
    ∃ rest, runCmd (s.setNow now) (.host fn sq) op cmd f = f (cmdTaken s fn now rest) (hostReq s cmd h p) := by
  obtain ⟨rest, hw⟩ := hc.waits
  refine ⟨rest, ?_⟩
  have hb : ((s.setNow now).fnOf fn).part = some p := hc.bound
  have hw' : takeFirst sq cmd ((s.setNow now).fnOf fn).cmds = some (h, rest) := hw
  have hfits : opFits op cmd = true := by simp [opFits, hc.isOp]
  have hrun : hostCmd (s.setNow now) fn sq op cmd = (cmdTaken s fn now rest, some (hostReq s cmd h p)) := by
    unfold hostCmd
    simp only [hb, hw', hfits, hc.formed, hc.own]
    exact (if_neg (by simp)).trans ((if_neg (by simp)).trans rfl)
  simp only [runCmd, hrun]

/-! ### Ends of image commands (R357, R360) -/

/-- What IMG_LAST of a slot reads once an operation has ended with a reason (R357). -/
def lastEnd (reason tag : Nat) (q : ImgSlot) : ImgSlot :=
  if reason = 0 then q else { q with lastReason := reason, lastTag := tag, refusedAt := none }

theorem imgLast_slot (s : State) (p k reason tag : Nat) : (imgLast s p k reason tag).slot p k = lastEnd reason tag (s.slot p k) := by
  unfold imgLast lastEnd
  split
  · rfl
  · exact modSlot_slot_self _ _ _ _

/-- An answer is the function's or the channel's: partitions and sequences stay. -/
theorem imgAnswer_fixes (h : Option HostRef) (r : Option Reply) (reason : Nat) : Fixes π ρ s (imgAnswer s h r reason) := by
  unfold imgAnswer
  extract_lets s'
  have hhost : Fixes π ρ s s' := by
    unfold s'
    split
    · exact Fixes.ite (Fixes.refl s) (produce_fixes _ _)
    · exact Fixes.refl s
  split
  · exact hhost.trans (Fixes.of_keeps (F := { cfg := true, out := true }) (fleshaReply_keeps (Keeps.refl _ s') _ _ _ rfl rfl) rfl rfl)
  · exact hhost

/-- The completion of an image command stands in its function's buffer. -/
theorem imgAnswer_answered {reason : Nat} (hl : h.live = true) (hr : reason ≠ 0 ∨ h.quiet = false) (s : State) (r : Option Reply) :
    Answered (imgAnswer s (some h) r reason) h reason := by
  obtain ⟨c, hc, htag, hsq, hreason, -⟩ := completeWith_buffer hl hr s 0 0
  refine ⟨c, ?_, htag, hsq, hreason⟩
  unfold imgAnswer
  cases r with
  | none => exact hc
  | some r =>
    have hfns := (fleshaReply_keeps (F := { cfg := true, out := true }) (Keeps.refl _ (completeWith s h reason 0 0)) r reason []
      rfl rfl).outside.fns rfl
    simp only [State.fnOf, hfns]
    exact hc

theorem endOp_slot (s : State) (j : ImgOp) (reason : Nat) :
    (endOp s j reason).slot j.part j.slot = lastEnd reason j.tag (s.slot j.part j.slot) := by
  unfold endOp
  extract_lets s1 s2
  have h2 : Fixes Part.slots (id : Entry → Entry) s1 s2 := Fixes.ite (Fixes.refl s1) (reportLead_fixes _ _ _)
  rw [(h2.trans (imgAnswer_fixes _ _ _)).slot, imgLast_slot]

/-- A success ends with an answer alone. -/
theorem endOp_zero (s : State) (j : ImgOp) : endOp s j 0 = imgAnswer s j.href j.reply 0 := rfl

theorem endOp_answered {reason : Nat} {j : ImgOp} (hj : j.href = some h) (hl : h.live = true) (hr : reason ≠ 0 ∨ h.quiet = false)
    (s : State) : Answered (endOp s j reason) h reason := by
  unfold endOp
  rw [hj]
  exact imgAnswer_answered hl hr _ _

/-- The end of a command on an image slot. -/
theorem endCmd_slot {r : ImgReq} (hop : 4 ≤ r.cmd.op ∧ r.cmd.op ≤ 9) (s : State) (reason : Nat) :
    (endCmd s r reason).slot r.cmd.part r.cmd.slot = lastEnd reason r.cmd.tag (s.slot r.cmd.part r.cmd.slot) := by
  unfold endCmd
  extract_lets c s1 s2
  have h2 : Fixes Part.slots (id : Entry → Entry) s1 s2 := Fixes.ite (Fixes.refl s1) (reportLead_fixes _ _ _)
  rw [(h2.trans (imgAnswer_fixes _ _ _)).slot]
  unfold s1
  rw [if_pos hop, imgLast_slot]

theorem endCmd_answered {reason : Nat} {r : ImgReq} (hh : r.href = some h) (hl : h.live = true) (hr : reason ≠ 0 ∨ h.quiet = false)
    (s : State) : Answered (endCmd s r reason) h reason := by
  unfold endCmd
  rw [hh]
  exact imgAnswer_answered hl hr _ _

/-- The end of a host command on slot `k` of its partition, with the slot as it was. -/
theorem endCmd_host {reason : Nat} (hc : HostCmd s fn sq op cmd h p) (hop : 4 ≤ op ∧ op ≤ 9) (hl : h.live = true) (hq : h.quiet = false)
    (m : State) :
    (endCmd m (hostReq s cmd h p) reason).slot p (imgFields cmd).slot =
      lastEnd reason (imgFields cmd).tag (m.slot p (imgFields cmd).slot) ∧ Answered (endCmd m (hostReq s cmd h p) reason) h reason := by
  refine ⟨?_, endCmd_answered rfl hl (.inr hq) m⟩
  have hslot := endCmd_slot (r := hostReq s cmd h p) (hc.isOp.symm ▸ hop) m reason
  rw [show (hostReq s cmd h p).cmd.part = p from hc.own] at hslot
  exact hslot

end Sys2Proof.Machine
end

section
/-! SUPPORT. Variants (O47): VARIANT_LOAD, VARIANT_UNLOAD, and the last chunk of a variant (R271 to R273, R352). -/

namespace Sys2Proof.Machine

variable {s : State} {p fn sq : Nat} {cmd : List Byte} {h : HostRef}

/-- The operation of a VARIANT_LOAD from a Reservoir slot. -/
def variantOp (s : State) (p : Nat) (c : ImgCmd) (h : HostRef) (st m : Nat) (b : Bool) (x : ResSlot) : ImgOp :=
  { id := s.nextOp, kind := .variantLoad, part := p, slot := c.slot, vslot := c.vslot, tag := c.tag, href := some h, reply := none
    stack := st, model := m, resB := b, header := x.header, chunks := hdrChunks x.header }

/-- The variant slot while its variant is read. -/
def variantComing (x : ResSlot) (v : Plain) : VarSlot :=
  { imageId := hdrId x.header, epoch := hdrEpoch x.header, fmt := v.deltaFmt, blocks := v.deltas, loading := true }

/-- A VARIANT_LOAD that its checks pass. -/
def variantBegun (s : State) (p : Nat) (c : ImgCmd) (j : ImgOp) (n : VarSlot) : State :=
  pushJob ((newOp s).1.modSlot p c.slot fun q => { q with variants := tset {} q.variants c.vslot n, job := some j }) j.stack j

variable {st m now : Nat} {b : Bool} {x : ResSlot} {v : Plain}

/-- A VARIANT_LOAD that names a complete image reaches its checks. -/
theorem exec_variantLoad (hc : HostCmd s fn sq 7 cmd h p) (hbusy : slotBusy s p (imgFields cmd).slot = false)
    (hmodel : modelBusy s ((partOwner s p).getD 0) (imgFields cmd).imageId = false) (hready : (s.slot p (imgFields cmd).slot).state = .ready)
    (hpick : pickRes s ((partOwner s p).getD 0) (imgFields cmd).imageId (imgFields cmd).epoch = some (st, m, b, x)) (hv : x.plain = some v)
    (now : Nat) :
    ∃ t rest, t = cmdTaken s fn now rest ∧ exec (.variantLoad (.host fn sq) cmd now) s = .next
      (if variantCheck s p (imgFields cmd).slot (imgFields cmd).vslot x v != 0 then
        endCmd t (hostReq s cmd h p) (variantCheck s p (imgFields cmd).slot (imgFields cmd).vslot x v)
       else variantBegun t p (imgFields cmd) (variantOp t p (imgFields cmd) h st m b x) (variantComing x v)) := by
  obtain ⟨rest, hrun⟩ := runCmd_host hc now _
  refine ⟨_, rest, rfl, congrArg Host.Outcome.next (hrun.trans ?_)⟩
  simp only [hostReq, hc.own, cmdTaken_slotBusy, hbusy, cmdTaken_modelBusy, hmodel, cmdTaken_slot, hready, cmdTaken_pickRes, hpick, hv]
  exact (if_neg (by decide)).trans rfl

/-- A VARIANT_UNLOAD of a slot on which no command runs. -/
theorem exec_variantUnload (hc : HostCmd s fn sq 8 cmd h p) (hbusy : slotBusy s p (imgFields cmd).slot = false) (now : Nat) :
    ∃ t rest, t = cmdTaken s fn now rest ∧ exec (.variantUnload (.host fn sq) cmd now) s = .next
      (if (partEntries s p).any fun q => q.2.slot == (imgFields cmd).slot && q.2.variant == (imgFields cmd).vslot then
        endCmd t (hostReq s cmd h p) 0x0255
       else endCmd (t.modSlot p (imgFields cmd).slot fun q => { q with variants := tset {} q.variants (imgFields cmd).vslot {} })
        (hostReq s cmd h p) 0) := by
  obtain ⟨rest, hrun⟩ := runCmd_host hc now _
  refine ⟨_, rest, rfl, congrArg Host.Outcome.next (hrun.trans ?_)⟩
  simp only [hostReq, hc.own, cmdTaken_slotBusy, hbusy]
  rfl

/-- The last chunk of an operation, with a complete image behind it, is handed on (R326). -/
theorem chunkStep_last {j : ImgOp} (hready : resReady (opSlot s j) = true) (hlast : j.chunk + 1 = j.chunks) :
    ∃ t, chunkStep s j true = readDone t { j with chunk := j.chunk + 1 } := by
  unfold chunkStep
  rw [hready]
  exact ⟨_, (if_neg (by decide)).trans ((if_neg (by decide)).trans (if_neg (by omega)))⟩

/-- The last chunk of a variant ends its VARIANT_LOAD (R352). -/
theorem exec_lastVariantChunk {stack : Nat} {j : ImgOp} (hst : stack < 4) (hj : engineHead s stack = some j) (hkind : j.kind = .variantLoad)
    (hstart : j.atStart = false) (hready : resReady (opSlot s j) = true) (hlast : j.chunk + 1 = j.chunks) (now : Nat) :
    ∃ t, exec (.imageChunkDecrypted stack true now) s = .next (readDone t { j with chunk := j.chunk + 1 }) := by
  have hj' : engineHead (s.setNow now) stack = some j := hj
  obtain ⟨t, ht⟩ := chunkStep_last (s := s.setNow now) hready hlast
  refine ⟨t, (guarded_ok (by simpa [instrWellFormed, okRes] using hst) _).trans (congrArg Host.Outcome.next (Eq.trans ?_ ht))⟩
  simp only [hj', hkind, hstart]
  rfl

/-- Settles O47, command by command. -/
theorem variantsLoadAndUnload : Obligations.VariantsLoadAndUnload := by
  unfold Obligations.VariantsLoadAndUnload
  refine ⟨fun s fn sq now p cmd h hl hq => ⟨fun st m b x v hc hbusy hmodel hready hpick hv => ?_, fun hc hbusy hfree => ?_,
    fun e he hc hbusy hslot hvar => ?_⟩, fun s stack now j hst hj _ hkind hstart hready hlast => ?_⟩
  · obtain ⟨t, rest, rfl, hu⟩ := exec_variantLoad hc hbusy hmodel hready hpick hv now
    refine ⟨fun hok => ?_, fun hbad => ?_⟩
    · rw [if_neg (by simp [hok])] at hu
      refine ⟨_, variantOp (cmdTaken s fn now rest) p (imgFields cmd) h st m b x, variantComing x v, hu, ?_, rfl, rfl, rfl, rfl, rfl, ?_⟩
      · exact modSlot_slot_self _ _ _ _
      · unfold variantBegun pushJob
        exact congrArg ImgEngine.jobs (State.modEngine_engine_self _ _ _)
    · rw [if_pos (by simpa using hbad)] at hu
      obtain ⟨hs, ha⟩ := endCmd_host (reason := variantCheck s p (imgFields cmd).slot (imgFields cmd).vslot x v) hc (by decide) hl hq
        (cmdTaken s fn now rest)
      refine ⟨_, hu, ?_, ha⟩
      rw [hs, lastEnd, if_neg hbad]
      rfl
  · obtain ⟨t, rest, rfl, hu⟩ := exec_variantUnload hc hbusy now
    rw [if_neg (by simpa using hfree)] at hu
    obtain ⟨hs, ha⟩ := endCmd_host (reason := 0) hc (by decide) hl hq ((cmdTaken s fn now rest).modSlot p (imgFields cmd).slot fun q =>
      { q with variants := tset {} q.variants (imgFields cmd).vslot {} })
    refine ⟨_, hu, ?_, ha⟩
    rw [hs, lastEnd, if_pos rfl, modSlot_slot_self]
    rfl
  · obtain ⟨t, rest, rfl, hu⟩ := exec_variantUnload hc hbusy now
    rw [if_pos (List.any_eq_true.mpr ⟨e, he, by simp [hslot, hvar]⟩)] at hu
    obtain ⟨hs, ha⟩ := endCmd_host (reason := 0x0255) hc (by decide) hl hq (cmdTaken s fn now rest)
    refine ⟨_, hu, ?_, ha⟩
    rw [hs, lastEnd, if_neg (by decide)]
    rfl
  · obtain ⟨t, hu⟩ := exec_lastVariantChunk hst hj hkind hstart hready hlast now
    have hslot : (readDone t { j with chunk := j.chunk + 1 }).slot j.part j.slot = { t.slot j.part j.slot with
        job := none, variants := tmod {} (t.slot j.part j.slot).variants j.vslot fun v => { v with loading := false } } := by
      simp only [readDone, hkind, endOp_zero]
      rw [(imgAnswer_fixes (ρ := (id : Entry → Entry)) _ _ _).slot]
      exact modSlot_slot_self _ _ _ _
    refine ⟨_, hu, congrArg ImgSlot.job hslot, ?_⟩
    rw [hslot]
    dsimp only
    rw [tget_tmod_self]

end Sys2Proof.Machine
end

section
/-! SUPPORT. Weir swaps (O46): SWAP, ABORT and WEIR_CLOSE (R346, R348), WEIR_DRAIN_DONE (R349, R350) and WEIR_RELEASE. -/

namespace Sys2Proof.Machine

variable {s t : State} {p k e fn sq now : Nat} {cmd : List Byte} {h : HostRef}

/-! ### SWAP (R346, R348) -/

/-- The operation of a SWAP from a Reservoir slot. -/
def swapOp (s : State) (p : Nat) (c : ImgCmd) (h : HostRef) (st m : Nat) (b : Bool) (x : ResSlot) : ImgOp :=
  { id := s.nextOp, kind := .swap, part := p, slot := c.slot, tag := c.tag, href := some h, reply := none
    stack := st, model := m, resB := b, header := x.header, chunks := hdrChunks x.header, staleClose := c.staleClose }

/-- The Weir of a slot while the incoming image is staged. -/
def swapWeir (c : ImgCmd) (new : Plain) (st m : Nat) (b : Bool) (x : ResSlot) (old : Nat) : Weir :=
  { res := (st, m, b2n b), epoch := hdrEpoch x.header, header := x.header, plain := new, staleClose := c.staleClose, oldEpoch := old }

/-- A SWAP that its checks pass. -/
def swapBegun (s : State) (p : Nat) (c : ImgCmd) (j : ImgOp) (w : Weir) : State :=
  pushJob ((newOp s).1.modSlot p c.slot fun q => { q with weir := some w, job := some j }) j.stack j

theorem swapBegun_slot (s : State) (p : Nat) (c : ImgCmd) (j : ImgOp) (w : Weir) :
    (swapBegun s p c j w).slot p c.slot = { s.slot p c.slot with weir := some w, job := some j } := modSlot_slot_self _ _ _ _

theorem swapBegun_jobs (s : State) (p : Nat) (c : ImgCmd) (j : ImgOp) (w : Weir) :
    ((swapBegun s p c j w).engine j.stack).jobs = (s.engine j.stack).jobs ++ [j] :=
  congrArg ImgEngine.jobs (State.modEngine_engine_self _ _ _)

theorem exec_swap_busy (hc : HostCmd s fn sq 6 cmd h p)
    (hbusy : slotBusy s p (imgFields cmd).slot = true ∨ modelBusy s ((partOwner s p).getD 0) (imgFields cmd).imageId = true) (now : Nat) :
    ∃ rest, exec (.swap (.host fn sq) cmd now) s = .next (endCmd (cmdTaken s fn now rest) (hostReq s cmd h p) 0x0208) := by
  obtain ⟨rest, hrun⟩ := runCmd_host hc now _
  refine ⟨rest, congrArg Host.Outcome.next (hrun.trans ?_)⟩
  simp only [hostReq, hc.own, cmdTaken_slotBusy, cmdTaken_modelBusy]
  refine if_pos ?_
  rcases hbusy with hb | hb
  · simp [hb]
  · simp [hb]

section checks

variable (hc : HostCmd s fn sq 6 cmd h p) (hbusy : slotBusy s p (imgFields cmd).slot = false)
  (hmodel : modelBusy s ((partOwner s p).getD 0) (imgFields cmd).imageId = false)
  (hload : (s.slot p (imgFields cmd).slot).state ≠ .loading)

include hc hbusy hmodel hload

theorem exec_swap_ok {new : Plain} {st m : Nat} {b : Bool} {x : ResSlot}
    (hcheck : swapCheck s (hostReq s cmd h p) (pickRes s ((partOwner s p).getD 0) (imgFields cmd).imageId (imgFields cmd).epoch) =
      .ok (new, st, m, b, x)) (now : Nat) : ∃ t rest, t = cmdTaken s fn now rest ∧ exec (.swap (.host fn sq) cmd now) s = .next
      (swapBegun t p (imgFields cmd) (swapOp t p (imgFields cmd) h st m b x)
        (swapWeir (imgFields cmd) new st m b x (s.slot p (imgFields cmd).slot).epoch)) := by
  obtain ⟨rest, hrun⟩ := runCmd_host hc now _
  refine ⟨_, rest, rfl, congrArg Host.Outcome.next (hrun.trans ?_)⟩
  have hcheck' : swapCheck (cmdTaken s fn now rest) _ _ = .ok (new, st, m, b, x) := hcheck
  unfold hostReq at hcheck'
  simp only [hostReq, hc.own, cmdTaken_slotBusy, hbusy, cmdTaken_modelBusy, hmodel, cmdTaken_slot, cmdTaken_pickRes, hcheck']
  exact (if_neg (by simpa using hload)).trans rfl

theorem exec_swap_error {reason : Nat}
    (hcheck : swapCheck s (hostReq s cmd h p) (pickRes s ((partOwner s p).getD 0) (imgFields cmd).imageId (imgFields cmd).epoch) =
      .error reason) (now : Nat) : ∃ rest x, exec (.swap (.host fn sq) cmd now) s =
      .next (refusalName (endCmd (cmdTaken s fn now rest) (hostReq s cmd h p) reason) p (imgFields cmd).slot x 0 reason) := by
  obtain ⟨rest, hrun⟩ := runCmd_host hc now _
  refine ⟨rest, (pickRes s ((partOwner s p).getD 0) (imgFields cmd).imageId (imgFields cmd).epoch).bind fun q => q.2.2.2.plain,
    congrArg Host.Outcome.next (hrun.trans ?_)⟩
  have hcheck' : swapCheck (cmdTaken s fn now rest) _ _ = .error reason := hcheck
  unfold hostReq at hcheck'
  simp only [hostReq, hc.own, cmdTaken_slotBusy, hbusy, cmdTaken_modelBusy, hmodel, cmdTaken_slot, cmdTaken_pickRes, hcheck']
  exact if_neg (by simpa using hload)

end checks

/-- The name of a refusal is the slot's alone (R339). -/
theorem refusalName_slot (s : State) (p k : Nat) (x : Option Plain) (stripes reason : Nat) :
    (∃ w, (refusalName s p k x stripes reason).slot p k = { s.slot p k with refusedAt := w }) ∧
      (refusalName s p k x stripes reason).fns = s.fns := by
  have hsame : ∃ w, s.slot p k = { s.slot p k with refusedAt := w } := ⟨(s.slot p k).refusedAt, rfl⟩
  unfold refusalName
  split
  · split
    · exact ⟨⟨_, modSlot_slot_self _ _ _ _⟩, rfl⟩
    · exact ⟨hsame, rfl⟩
  · exact ⟨hsame, rfl⟩

/-! ### ABORT of a SWAP (R348) -/

/-- A SWAP that stages has been stopped. -/
def swapStopped (s : State) (p k : Nat) (j : ImgOp) : State :=
  endOp ((dropJob s j.stack j.id).modSlot p k fun q => { q with weir := none, job := none }) j 0x0267

theorem exec_abort_swap {j : ImgOp} {w : Weir} (hc : HostCmd s fn sq 9 cmd h p)
    (hnone : findModel s ((partOwner s p).getD 0) (imgFields cmd).imageId = none) (hjob : (s.slot p (imgFields cmd).slot).job = some j)
    (hkind : j.kind = .swap) (hweir : (s.slot p (imgFields cmd).slot).weir = some w) (hstep : w.step = .staging) (now : Nat) :
    ∃ rest, exec (.abort (.host fn sq) cmd now) s =
      .next (endCmd (swapStopped (cmdTaken s fn now rest) p (imgFields cmd).slot j) (hostReq s cmd h p) 0) := by
  obtain ⟨rest, hrun⟩ := runCmd_host hc now _
  refine ⟨rest, congrArg Host.Outcome.next (hrun.trans ?_)⟩
  simp only [hostReq, hc.own, cmdTaken_findModel, hnone, cmdTaken_slot, hjob, hweir, hkind, hstep]
  rfl

theorem swapStopped_slot {j : ImgOp} (hp : j.part = p) (hk : j.slot = k) (s : State) :
    (swapStopped s p k j).slot p k = lastEnd 0x0267 j.tag { s.slot p k with weir := none, job := none } := by
  subst hp hk
  rw [swapStopped, endOp_slot, modSlot_slot_self]
  rfl

/-! ### What becomes of sequences at the end of the old epoch (R350, R351) -/

/-- The image slots of a partition, apart from their pools. -/
def slotsKept (q : Part) (k : Nat) : ImgSlot := { tget {} q.slots k with pool := {} }

/-- Whether a sequence is STALE, and whether it is a draft's. -/
def marks (x : Entry) : Bool × Bool := (x.stale, x.draft)

/-- Image slots stay apart from their pools, and so do the marks of sequences. -/
abbrev MarksKept : State → State → Prop := Fixes slotsKept marks

theorem slotsKept_slot (h : slotsKept (t.part p) = slotsKept (s.part p)) (k : Nat) :
    { t.slot p k with pool := {} } = { s.slot p k with pool := ({} : KvPool) } := congrFun h k

theorem modPool_marksKept (p k : Nat) (f : KvPool → KvPool) : MarksKept s (modPool s p k f) := Fixes.modPart p fun q => by
  funext j
  by_cases h : j = k
  · subst h
    rw [slotsKept, tget_tmod_self]
    rfl
  · rw [slotsKept, tget_tmod_other _ h]
    rfl

theorem returnStripe_marksKept (p k stripe : Nat) : MarksKept s (returnStripe s p k stripe) := by
  have hlow (m : State) : MarksKept m (checkLow m p k) :=
    Fixes.ite (modPool_marksKept _ _ _) (Fixes.ite (Fixes.refl m) ((modPool_marksKept _ _ _).trans (reportLead_fixes _ _ _)))
  exact Fixes.ite (Fixes.refl s) ((modPool_marksKept _ _ _).trans (hlow _))

theorem setDesc_marksKept (p e : Nat) (ix : Bool) (j : Nat) (d : PageDesc) : MarksKept s (setDesc s p e ix j d) where
  part i := by
    have hparts := (setDesc_keeps (F := { stackTab := true, entries := true, dram := true }) (Keeps.refl _ s) p e ix j d rfl rfl rfl).outside.parts rfl
    rw [State.part, hparts]
    rfl
  entry i := (setDesc_kvOnly p e ix j d).reads marks (fun _ => rfl) i

theorem returnDescs_marksKept (p e k : Nat) (ix : Bool) (l : Tab PageDesc) : MarksKept s
    (l.foldl (fun s d => if d.2.valid then returnStripe (setDesc s p e ix d.1 {}) p k d.2.stripe else s) s) :=
  Fixes.foldl (fun m _ => Fixes.ite ((setDesc_marksKept _ _ _ _ _).trans (returnStripe_marksKept _ _ _)) (Fixes.refl m)) l s

theorem itemsOnly_marksKept (h : ItemsOnly s t) : MarksKept s t := h.coarsen slotsKept marks (fun _ => rfl) fun _ => rfl

theorem removeAll_marksKept (p e reason : Nat) : MarksKept s (removeAll s p e reason) :=
  Fixes.foldl (fun _ _ => (removeItem_fixes (fun _ => rfl) rfl _ _ _).coarsen slotsKept id (fun _ => rfl) fun _ => rfl) _ s

theorem endFrameWait_marksKept (p k e : Nat) : MarksKept s (endFrameWait s p k e) :=
  (modPool_marksKept _ _ _).after (Fixes.modEntry e fun _ => rfl)

theorem closeEntry_marksKept (p e : Nat) (h : Option HostRef) : MarksKept s (closeEntry s p e h) := by
  unfold closeEntry
  extract_lets s1 s2 s3 s4 x s5 d s6
  have h1 : MarksKept s s1 := itemsOnly_marksKept (markClosing_itemsOnly _ _)
  have h2 : MarksKept s s2 := by
    unfold s2
    split
    · exact h1.trans (Fixes.modEntry e fun _ => rfl)
    · exact h1
  have h3 : MarksKept s s3 := h2.trans (removeAll_marksKept _ _ _)
  have h4 : MarksKept s s4 := by
    unfold s4
    split
    · exact (Fixes.ite (Fixes.refl _) (produce_fixes _ _)).after (h3.trans (Fixes.modEntry e fun _ => rfl))
    · exact h3
  have h5 : MarksKept s s5 := Fixes.ite (h4.trans (endFrameWait_marksKept _ _ _)) h4
  have h6 : MarksKept s s6 := h5.trans (Fixes.modEntry _ fun _ => rfl)
  exact Fixes.ite (Fixes.ite (h6.trans (endFrameWait_marksKept _ _ _)) h6) h5

/-- Image slots stay apart from their pools; a main sequence stays one, and one that is STALE stays so. -/
structure StaleKept (s t : State) : Prop where
  slots : ∀ p, slotsKept (t.part p) = slotsKept (s.part p)
  main : ∀ e, (s.entry e).draft = false → (t.entry e).draft = false
  stale : ∀ e, (s.entry e).draft = false → (s.entry e).stale = true → (t.entry e).stale = true

theorem StaleKept.refl (s : State) : StaleKept s s := ⟨fun _ => rfl, fun _ => id, fun _ _ => id⟩

theorem StaleKept.trans {m : State} (h : StaleKept s m) (k : StaleKept m t) : StaleKept s t :=
  ⟨fun p => (k.slots p).trans (h.slots p), fun e hd => k.main e (h.main e hd), fun e hd hs => k.stale e (h.main e hd) (h.stale e hd hs)⟩

theorem StaleKept.of_marksKept (h : MarksKept s t) : StaleKept s t where
  slots := h.part
  main e hd := (congrArg Prod.snd (h.entry e)).trans hd
  stale e _ hs := (congrArg Prod.fst (h.entry e)).trans hs

/-- A change of a sequence that is a draft's, or that leaves it the main one and STALE. -/
theorem StaleKept.modEntry (e : Nat) {f : Entry → Entry} (hd : (s.entry e).draft = false → (f (s.entry e)).draft = false)
    (hs : (s.entry e).draft = false → (s.entry e).stale = true → (f (s.entry e)).stale = true) : StaleKept s (s.modEntry e f) where
  slots _ := rfl
  main j h := by
    by_cases hj : j = e
    · subst hj; rw [State.modEntry_entry_self]; exact hd h
    · rw [State.modEntry_entry_other s hj]; exact h
  stale j h hst := by
    by_cases hj : j = e
    · subst hj; rw [State.modEntry_entry_self]; exact hs h hst
    · rw [State.modEntry_entry_other s hj]; exact hst

/-- A draft's entry that is released is FREE; no other sequence changes its marks. -/
theorem releaseEntry_staleKept (hd : (s.entry e).draft = true) (p : Nat) : StaleKept s (releaseEntry s p e) := by
  unfold releaseEntry
  extract_lets x s1 s2 s3 s4
  have h1 : MarksKept s s1 := returnDescs_marksKept p e x.slot false x.pages
  have h2 : MarksKept s s2 := h1.trans (returnDescs_marksKept p e x.slot true x.index)
  have h3 : MarksKept s s3 := h2.trans (modPool_marksKept _ _ _)
  have h4 : MarksKept s s4 := h3.trans (Fixes.modPart p fun _ => rfl)
  have hdraft : (s4.entry e).draft = true := (congrArg Prod.snd (h4.entry e)).trans hd
  refine (StaleKept.of_marksKept h4).trans (StaleKept.modEntry e (fun _ => rfl) fun h => ?_)
  rw [hdraft] at h
  cases h

/-- A main sequence becomes STALE (R350). -/
theorem makeStale_marksKept (hd : (s.entry e).draft = false) (p : Nat) (close : Bool) :
    MarksKept (s.modEntry e fun x => { x with stale := true }) (makeStale p close s e) := by
  unfold makeStale
  rw [if_neg (by simp [hd])]
  extract_lets s1 x s2
  have h1 : MarksKept (s.modEntry e fun x => { x with stale := true }) s1 := removeAll_marksKept _ _ _
  have h2 : MarksKept (s.modEntry e fun x => { x with stale := true }) s2 := Fixes.ite (h1.trans (endFrameWait_marksKept _ _ _)) h1
  exact Fixes.ite (h2.trans (closeEntry_marksKept _ _ _)) h2

theorem makeStale_staleKept (p : Nat) (close : Bool) (s : State) (e : Nat) : StaleKept s (makeStale p close s e) := by
  cases hd : (s.entry e).draft with
  | false =>
    exact (StaleKept.modEntry e id fun _ _ => rfl).trans (StaleKept.of_marksKept (makeStale_marksKept hd p close))
  | true =>
    unfold makeStale releaseDraft
    rw [if_pos hd]
    extract_lets m
    have h1 : MarksKept s (s.modEntry m fun y => { y with partnerValid := false, specDepth := 0, probe := 0 }) :=
      Fixes.modEntry m fun _ => rfl
    exact (StaleKept.of_marksKept h1).trans (releaseEntry_staleKept ((congrArg Prod.snd (h1.entry e)).trans hd) p)

theorem makeStale_stale (hd : (s.entry e).draft = false) (p : Nat) (close : Bool) : ((makeStale p close s e).entry e).stale = true :=
  (congrArg Prod.fst ((makeStale_marksKept hd p close).entry e)).trans (by rw [State.modEntry_entry_self]; rfl)

theorem foldl_makeStale_staleKept (p : Nat) (close : Bool) (l : List Nat) (s : State) : StaleKept s (l.foldl (makeStale p close) s) := by
  induction l generalizing s with
  | nil => exact StaleKept.refl s
  | cons e l ih => exact (makeStale_staleKept p close s e).trans (ih _)

/-- Every main sequence of the list becomes STALE. -/
theorem foldl_makeStale_stale (p : Nat) (close : Bool) {l : List Nat} (he : e ∈ l) (hd : (s.entry e).draft = false) :
    ((l.foldl (makeStale p close) s).entry e).stale = true := by
  induction l generalizing s with
  | nil => cases he
  | cons j l ih =>
    have hkept := makeStale_staleKept p close s j
    rcases List.mem_cons.mp he with rfl | he
    · exact (foldl_makeStale_staleKept p close l _).stale e (hkept.main e hd) (makeStale_stale hd p close)
    · exact ih he (hkept.main e hd)

/-! ### WEIR_DRAIN_DONE (R349, R350) -/

/-- The slot goes on to programming: every variant is unloaded. -/
def variantsOut (s : State) (p k n : Nat) : State := s.modSlot p k fun q => { q with variants := [], staleCnt := satAdd q.staleCnt n }

/-- The sequences that become STALE as a slot goes on to programming. -/
def staleDue (s : State) (p k : Nat) (w : Weir) : List Nat :=
  ((partEntries s p).filter fun e => e.2.slot == k && !e.2.stale && !(kvCompatible w (s.slot p k).epoch && e.2.variant == 0)).map Prod.fst

/-- Under a compatible image a sequence that names no variant keeps its context (R350). -/
theorem staleDue_compatible {w : Weir} (hok : kvCompatible w (s.slot p k).epoch = true)
    (hbase : ∀ e ∈ (partEntries s p).filter fun e => e.2.slot == k && !e.2.stale, e.2.variant = 0) : staleDue s p k w = [] := by
  rw [staleDue, List.map_eq_nil_iff, List.filter_eq_nil_iff]
  intro e he hdue
  simp only [Bool.and_eq_true] at hdue
  obtain ⟨⟨hk, hfresh⟩, hnew⟩ := hdue
  have hvar := hbase e (List.mem_filter.mpr ⟨he, by rw [hk, hfresh]; rfl⟩)
  simp [hok, hvar] at hnew

/-- Under an incompatible image every sequence of the slot is due (R350). -/
theorem staleDue_eq {w : Weir} (hbad : kvCompatible w (s.slot p k).epoch = false) :
    staleDue s p k w = ((partEntries s p).filter fun e => e.2.slot == k && !e.2.stale).map Prod.fst := by
  simp [staleDue, hbad]

theorem mem_staleDue {w : Weir} (hbad : kvCompatible w (s.slot p k).epoch = false) (hopen : (s.entry e).open_ = true)
    (hown : ownsEntry s p e = true) (hk : (s.entry e).slot = k) (hfresh : (s.entry e).stale = false) : e ∈ staleDue s p k w := by
  have hlisted : (e, s.entry e) ∈ s.entries := by
    refine (tget_listed {} s.entries e).resolve_left fun h => ?_
    rw [State.entry, h] at hopen
    cases hopen
  rw [staleDue_eq hbad]
  refine List.mem_map.mpr ⟨_, List.mem_filter.mpr ⟨List.mem_filter.mpr ⟨hlisted, ?_⟩, ?_⟩, rfl⟩
  · simp [hopen, hown]
  · simp [hk, hfresh]

/-- The sequences of a slot have turned STALE. -/
def staleMade (s : State) (p k : Nat) (w : Weir) : State :=
  (staleDue s p k w).foldl (makeStale p w.staleClose) (variantsOut s p k (staleDue s p k w).length)

/-- Step 3 of R349 after the sequences: its report, and the step itself. -/
theorem weirStep3_ends (s : State) (p k : Nat) (w : Weir) : ∃ m, MarksKept (staleMade s p k w) m ∧
    ((kvCompatible w (s.slot p k).epoch && (staleDue s p k w).length == 0) = true → m = staleMade s p k w) ∧
    weirStep3 s p k w = m.modSlot p k fun q =>
      { q with weir := some { w with step := .programming, staleCnt := w.staleCnt + (staleDue s p k w).length } } := by
  refine ⟨_, ?_, ?_, rfl⟩
  · exact Fixes.ite (Fixes.refl _) (reportLead_fixes _ _ _)
  · exact fun h => if_pos h

/-- The slot under a Weir that goes on to programming. -/
theorem weirStep3_slot (s : State) (p k : Nat) (w : Weir) :
    { (weirStep3 s p k w).slot p k with pool := ({} : KvPool) } =
      { s.slot p k with
        pool := {}, variants := [], staleCnt := satAdd (s.slot p k).staleCnt (staleDue s p k w).length
        weir := some { w with step := .programming, staleCnt := w.staleCnt + (staleDue s p k w).length } } := by
  obtain ⟨m, hm, -, hstep⟩ := weirStep3_ends s p k w
  have hkept := slotsKept_slot ((hm.part p).trans ((foldl_makeStale_staleKept p w.staleClose (staleDue s p k w) _).slots p)) k
  rw [variantsOut, modSlot_slot_self] at hkept
  rw [hstep, modSlot_slot_self]
  exact congrArg (fun q : ImgSlot =>
    { q with weir := some { w with step := .programming, staleCnt := w.staleCnt + (staleDue s p k w).length } }) hkept

/-- A sequence that is due, or is STALE already, is STALE afterwards. -/
theorem weirStep3_stale {w : Weir} (hd : (s.entry e).draft = false) (h : (s.entry e).stale = true ∨ e ∈ staleDue s p k w) :
    ((weirStep3 s p k w).entry e).stale = true := by
  obtain ⟨m, hm, -, hstep⟩ := weirStep3_ends s p k w
  rw [hstep]
  refine (congrArg Prod.fst (hm.entry e)).trans ?_
  rcases h with hstale | hdue
  · exact (foldl_makeStale_staleKept p w.staleClose _ _).stale e hd hstale
  · exact foldl_makeStale_stale p w.staleClose hdue hd

/-- Where no sequence is due under a compatible image, none changes. -/
theorem weirStep3_entries {w : Weir} (hok : kvCompatible w (s.slot p k).epoch = true) (hnone : staleDue s p k w = []) :
    (weirStep3 s p k w).entries = s.entries := by
  obtain ⟨m, -, hsame, hstep⟩ := weirStep3_ends s p k w
  rw [hstep, hsame (by simp [hok, hnone]), staleMade, hnone]
  rfl

theorem exec_weirDrainDone {w : Weir} (hp : p < 64) (hw : (s.slot p k).weir = some w) (hstep : w.step = .draining)
    (hclosed : (s.slot p k).state = .weirClosed) (hres : (s.part p).resetting = false) (hdrained : slotDrained s p k = true) (now : Nat) :
    exec (.weirDrainDone p k now) s = .next (weirStep3 (s.setNow now) p k w) := by
  refine (guarded_ok (by simpa [instrWellFormed, okPart] using hp) _).trans (congrArg Host.Outcome.next ?_)
  have hw' : ((s.setNow now).slot p k).weir = some w := hw
  have hclosed' : ((s.setNow now).slot p k).state = .weirClosed := hclosed
  have hdrained' : slotDrained (s.setNow now) p k = true := hdrained
  simp only [hw', hstep, hclosed', State.setNow_part', hres, hdrained']
  exact if_pos (by decide)

/-! ### WEIR_RELEASE (R349) -/

/-- The slot with the incoming image in force. -/
def releasedSlot (w : Weir) (q : ImgSlot) : ImgSlot :=
  { q with
    state := .ready, res := w.res, epoch := w.epoch, header := w.header, plain := some w.plain, weir := none, job := none
    notResident := [], shadowBad := [], swapCnt := wrapAdd q.swapCnt 1 }

theorem dropRepairs_fixes {α β : Type} {π : Part → α} {ρ : Entry → β} (p k : Nat) : Fixes π ρ s (dropRepairs s p k) :=
  Fixes.of_keeps (F := { engines := true }) (dropRepairs_keeps (Keeps.refl _ s) p k rfl) rfl rfl

theorem rebindScheds_fixes {α β : Type} {π : Part → α} {ρ : Entry → β} (p k : Nat) (x : Plain) : Fixes π ρ s (rebindScheds s p k x) :=
  Fixes.of_keeps (F := { tiles := true }) (rebindScheds_keeps (Keeps.refl _ s) p k x rfl) rfl rfl

/-- The end of a swap but for its operation: the slot, the schedules of its contexts and the report. -/
def weirReleased (s : State) (p k : Nat) (w : Weir) : State :=
  let m := rebindScheds ((dropRepairs s p k).modSlot p k (releasedSlot w)) p k w.plain
  let us := Nat.min ((m.now - w.closedAt) / 1000) (2 ^ 32 - 1)
  reportLead m p evWeirDone
    [(1, p), (1, k), (2, (s.slot p k).epoch), (2, w.epoch), (4, us), (4, w.staleCnt)]

theorem weirReleased_slot (s : State) (p k : Nat) (w : Weir) : (weirReleased s p k w).slot p k = releasedSlot w (s.slot p k) := by
  rw [weirReleased, (reportLead_fixes (ρ := (id : Entry → Entry)) _ _ _).slot, (rebindScheds_fixes (ρ := (id : Entry → Entry)) _ _ _).slot,
    modSlot_slot_self, (dropRepairs_fixes (ρ := (id : Entry → Entry)) _ _).slot]

/-- A swap whose layers are all resident under the new epoch ends with its operation. -/
theorem exec_weirRelease {w : Weir} {j : ImgOp} (hp : p < 64) (hw : (s.slot p k).weir = some w) (hj : (s.slot p k).job = some j)
    (hstep : w.step = .programming) (hres : (s.part p).resetting = false)
    (hdone : ∀ l ∈ placedLayers w.plain (s.slot p k).level, l ∈ w.done) (now : Nat) :
    exec (.weirRelease p k now) s = .next (endOp (weirReleased (s.setNow now) p k w) j 0) := by
  have hw' : ((s.setNow now).slot p k).weir = some w := hw
  have hj' : ((s.setNow now).slot p k).job = some j := hj
  have hall : (placedLayers w.plain ((s.setNow now).slot p k).level).all (fun l => w.done.contains l) = true :=
    List.all_eq_true.mpr fun l hl => by simpa using hdone l hl
  refine (guarded_ok (by simpa [instrWellFormed, okPart] using hp) _).trans (congrArg Host.Outcome.next ?_)
  simp only [hw', hj', hstep, State.setNow_part', hres, hall]
  exact (if_neg (by decide)).trans rfl

/-- Settles O46, command by command. -/
theorem swapsRunToTheirRelease : Obligations.SwapsRunToTheirRelease := by
  unfold Obligations.SwapsRunToTheirRelease
  refine ⟨⟨fun s fn sq now p cmd h hl hq => ⟨fun new st m b x hc hbusy hmodel hload hcheck => ?_,
    fun e hc hbusy hmodel hload he hcheck => ?_, fun hc hbusy => ?_, fun j w hc hnone hjob hkind hjp hjk hweir hstep => ?_⟩,
    fun s p k now w hp hw hstep hready hrun => ?_⟩, fun s p k now w hp hw hstep hclosed hres hdrained => ?_,
    fun s p k now w j hp hw hj hstep hres hdone => ?_⟩
  · obtain ⟨t, rest, rfl, hu⟩ := exec_swap_ok hc hbusy hmodel hload hcheck now
    exact ⟨_, _, _, hu, swapBegun_slot _ _ _ _ _, rfl, rfl, rfl, rfl, rfl, rfl, rfl, swapBegun_jobs _ _ _ _ _⟩
  · obtain ⟨rest, x, hu⟩ := exec_swap_error hc hbusy hmodel hload hcheck now
    obtain ⟨hs, c, hmem, hc'⟩ := endCmd_host (reason := e) hc (by decide) hl hq (cmdTaken s fn now rest)
    obtain ⟨⟨w, hslot⟩, hfns⟩ := refusalName_slot (endCmd (cmdTaken s fn now rest) (hostReq s cmd h p) e) p (imgFields cmd).slot x 0 e
    refine ⟨_, w, hu, ?_, c, ?_, hc'⟩
    · rw [hslot, hs, lastEnd, if_neg he]
      rfl
    · rw [State.fnOf, hfns]
      exact hmem
  · obtain ⟨rest, hu⟩ := exec_swap_busy hc hbusy now
    obtain ⟨hs, ha⟩ := endCmd_host (reason := 0x0208) hc (by decide) hl hq (cmdTaken s fn now rest)
    refine ⟨_, hu, ?_, ha⟩
    rw [hs, lastEnd, if_neg (by decide)]
    rfl
  · obtain ⟨rest, hu⟩ := exec_abort_swap hc hnone hjob hkind hweir hstep now
    obtain ⟨hs, ha⟩ := endCmd_host (reason := 0) hc (by decide) hl hq (swapStopped (cmdTaken s fn now rest) p (imgFields cmd).slot j)
    rw [lastEnd, if_pos rfl, swapStopped_slot hjp hjk, lastEnd, if_neg (by decide)] at hs
    exact ⟨_, hu, congrArg ImgSlot.weir hs, congrArg ImgSlot.job hs, (congrArg ImgSlot.state hs :), ha⟩
  · have hw' : ((s.setNow now).slot p k).weir = some w := hw
    have hready' : ((s.setNow now).slot p k).state = .ready := hready
    refine ⟨fun hstaged => ?_, fun hstaged => ?_⟩
    · refine (guarded_ok (by simpa [instrWellFormed, okPart] using hp) _).trans (congrArg Host.Outcome.next ?_)
      simp only [hw', hstaged, hstep, hready', State.setNow_part', hrun]
      exact if_pos (by decide)
    · refine (guarded_ok (by simpa [instrWellFormed, okPart] using hp) _).trans (congrArg Host.Outcome.next ?_)
      simp only [hw', hstaged, Bool.false_and]
      exact if_neg (by decide)
  · intro old es
    have hslot := weirStep3_slot (s.setNow now) p k w
    refine ⟨_, { w with step := .programming, staleCnt := w.staleCnt + (staleDue (s.setNow now) p k w).length },
      exec_weirDrainDone hp hw hstep hclosed hres hdrained now, (congrArg ImgSlot.weir hslot :), rfl, rfl, (congrArg ImgSlot.variants hslot :),
      (congrArg ImgSlot.state hslot :).trans hclosed, fun hok hbase => ?_, fun hbad => ⟨?_, fun e hopen hown hk hd => ?_⟩⟩
    · have hnone : staleDue (s.setNow now) p k w = [] := staleDue_compatible hok hbase
      exact ⟨weirStep3_entries hok hnone, by rw [hnone]; rfl⟩
    · have hdue : staleDue (s.setNow now) p k w = es.map Prod.fst := staleDue_eq (s := s.setNow now) hbad
      rw [hdue, List.length_map]
    · refine weirStep3_stale hd ?_
      cases hstale : (s.entry e).stale with
      | true => exact .inl hstale
      | false => exact .inr (mem_staleDue (s := s) hbad hopen hown hk hstale)
  · have hslot : (endOp (weirReleased (s.setNow now) p k w) j 0).slot p k = releasedSlot w (s.slot p k) := by
      rw [endOp_zero, (imgAnswer_fixes (ρ := (id : Entry → Entry)) _ _ _).slot, weirReleased_slot]
      rfl
    exact ⟨_, exec_weirRelease hp hw hj hstep hres hdone now, congrArg ImgSlot.state hslot, congrArg ImgSlot.epoch hslot,
      congrArg ImgSlot.header hslot, congrArg ImgSlot.plain hslot, congrArg ImgSlot.weir hslot, congrArg ImgSlot.job hslot,
      congrArg ImgSlot.swapCnt hslot, fun h hh hl hq => endOp_answered hh hl (.inr hq) _⟩

end Sys2Proof.Machine
end

section
/-! SUPPORT. Key lookups and ingest (O37): the shares of an IOD, KEY_LOOKUP_DONE (R309 to R313) and INGEST_DRAIN (R260, R312). -/

namespace Sys2Proof.Machine

variable {s t : State} {p iod e : Nat} {k : Lookup}

/-! ### Shares (R312 to R314) -/

theorem share_of_fiods (h : t.feedIods = s.feedIods) (iod p : Nat) : share t iod p = share s iod p := by
  rw [share, State.fiod, h]
  rfl

theorem share_modShare_self (s : State) (iod p : Nat) (f : Share → Share) : share (modShare s iod p f) iod p = f (share s iod p) := by
  rw [share, modShare, State.modFiod_fiod_self]
  exact tget_tmod_self _ _ _

/-- Nothing is marked lost: nothing is placed. -/
theorem placeAllMarked_none (h : (share s iod p).lost = []) : placeAllMarked s iod p = s := by
  rw [placeAllMarked, h]
  rfl

/-- A partition apart from the highest level of its shares (R322). -/
def sansPeak (q : Part) : Part := { q with ing := { q.ing with peak := 0 } }

theorem notePeak_fixes (p : Nat) : Fixes sansPeak (id : Entry → Entry) s (notePeak s p) := by
  unfold notePeak
  extract_lets n s'
  have h : Fixes sansPeak (id : Entry → Entry) s s' := Fixes.modPart p fun _ => rfl
  split
  · exact h
  · exact h.trans (Fixes.modFn _ _)

theorem notePeak_outside (s : State) (p : Nat) : (notePeak s p).feedIods = s.feedIods ∧ (notePeak s p).entries = s.entries :=
  have hk := (notePeak_keeps (F := { fns := true, parts := true }) (Keeps.refl _ s) p rfl rfl).outside
  ⟨hk.feedIods rfl, hk.entries rfl⟩

/-! ### Events (R312, R313) -/

/-- The ingest entry of an event for entry `e`. -/
def eventOf (e : Nat) (k : Lookup) : IngestEntry :=
  { entry := e, token := k.token, cls := k.cls, arrival := k.arrival, lost := false, deadline := k.deadline }

/-- An event has gone behind those of a share. -/
def eventPlaced (s : State) (iod p e : Nat) (k : Lookup) : State :=
  notePeak ((modShare s iod p fun x => { x with overload := false, fifo := x.fifo ++ [eventOf e k] }).modPart p fun q =>
    { q with ing := { q.ing with events := wrapAdd q.ing.events 1 } }) p

theorem placeEvent_room (hlost : (share s iod p).lost = []) (hroom : shareRoom (share s iod p) = true) (e : Nat) (k : Lookup) :
    placeEvent s iod p e k = eventPlaced s iod p e k := by
  unfold placeEvent
  rw [placeAllMarked_none hlost]
  exact if_pos hroom

theorem eventPlaced_entries (s : State) (iod p e : Nat) (k : Lookup) : (eventPlaced s iod p e k).entries = s.entries :=
  (notePeak_outside _ p).2

theorem eventPlaced_entry {x : Entry} {j : Nat} (h : s.entry j = x) (iod p : Nat) (k : Lookup) : (eventPlaced s iod p e k).entry j = x := by
  rw [State.entry, eventPlaced_entries]
  exact h

theorem eventPlaced_lookups (s : State) (iod p e : Nat) (k : Lookup) :
    ((eventPlaced s iod p e k).fiod iod).lookups = (s.fiod iod).lookups := by
  rw [eventPlaced, State.fiod, (notePeak_outside _ p).1]
  change ((modShare s iod p _).fiod iod).lookups = _
  rw [modShare, State.modFiod_fiod_self]

theorem eventPlaced_fifo (s : State) (iod p e : Nat) (k : Lookup) :
    (share (eventPlaced s iod p e k) iod p).fifo = (share s iod p).fifo ++ [eventOf e k] := by
  rw [eventPlaced, share_of_fiods (notePeak_outside _ p).1]
  exact congrArg Share.fifo (share_modShare_self s iod p _)

/-- A partition once it has counted an event. -/
def eventCounted (q : Part) : Part := { q with ing := { q.ing with events := wrapAdd q.ing.events 1 } }

theorem eventPlaced_reads {γ : Type} (g : Part → γ) (hg : ∀ q, g (sansPeak q) = g q) (s : State) (iod p e : Nat) (k : Lookup) :
    g ((eventPlaced s iod p e k).part p) = g (eventCounted (s.part p)) := by
  rw [eventPlaced, (notePeak_fixes p).readsPart g hg, State.modPart_part_self]
  rfl

theorem keyFind_congr (hcfg : (t.part p).cfg = (s.part p).cfg) (hkeys : (t.part p).keys = (s.part p).keys) (keyspace : Nat)
    (key : List Byte) : keyFind t p keyspace key = keyFind s p keyspace key := by
  simp only [keyFind, keyBuckets, keyLog2, hcfg, hkeys]

theorem eventPlaced_keyFind (s : State) (iod p e : Nat) (k : Lookup) (keyspace : Nat) (key : List Byte) :
    keyFind (eventPlaced s iod p e k) p keyspace key = keyFind s p keyspace key :=
  keyFind_congr (eventPlaced_reads Part.cfg (fun _ => rfl) s iod p e k) (eventPlaced_reads Part.keys (fun _ => rfl) s iod p e k) keyspace key

theorem eventPlaced_events (s : State) (iod p e : Nat) (k : Lookup) :
    ((eventPlaced s iod p e k).part p).ing.events = wrapAdd (s.part p).ing.events 1 :=
  eventPlaced_reads (fun q => q.ing.events) (fun _ => rfl) s iod p e k

theorem eventPlaced_autoOpen (s : State) (iod p e : Nat) (k : Lookup) :
    ((eventPlaced s iod p e k).part p).ing.autoOpen = (s.part p).ing.autoOpen :=
  eventPlaced_reads (fun q => q.ing.autoOpen) (fun _ => rfl) s iod p e k

/-! ### Lookups (R309) -/

/-- The oldest lookup of an IOD has been taken. -/
def lookupTaken (s : State) (iod now : Nat) (ks : List Lookup) : State := (s.setNow now).modFiod iod fun f => { f with lookups := ks }

theorem lookupTaken_lookups (s : State) (iod now : Nat) (ks : List Lookup) : ((lookupTaken s iod now ks).fiod iod).lookups = ks :=
  congrArg FeedIod.lookups (State.modFiod_fiod_self (s.setNow now) iod _)

theorem lookupTaken_share (s : State) (iod now : Nat) (ks : List Lookup) (p : Nat) :
    share (lookupTaken s iod now ks) iod p = share s iod p := by
  rw [share, lookupTaken, State.modFiod_fiod_self]
  rfl

variable {ks : List Lookup} {now : Nat}

/-- A lookup ends with an entry, which takes the event, or with none. -/
def lookupEnd (iod : Nat) (k : Lookup) : State × Option Nat → State
  | (s, none) => s
  | (s, some e) => placeEvent s iod k.part e k

theorem exec_keyLookupDone (hi : iod < 6) (hk : (s.fiod iod).lookups = k :: ks) (now : Nat) :
    exec (.keyLookupDone iod now) s = .next (lookupEnd iod k (lookupEntry (lookupTaken s iod now ks) iod k)) := by
  refine (guarded_ok (by simpa [instrWellFormed, okIod] using hi) _).trans (congrArg Host.Outcome.next ?_)
  have hk' : ((s.setNow now).fiod iod).lookups = k :: ks := hk
  simp only [hk']
  rfl

/-- A lookup that ends with an entry, in a state with room in the share. -/
theorem exec_keyLookupDone_some (hi : iod < 6) (hk : (s.fiod iod).lookups = k :: ks)
    (hl : lookupEntry (lookupTaken s iod now ks) iod k = (t, some e)) (hlost : (share t iod k.part).lost = [])
    (hroom : shareRoom (share t iod k.part) = true) :
    exec (.keyLookupDone iod now) s = .next (eventPlaced t iod k.part e k) := by
  rw [exec_keyLookupDone hi hk now, hl]
  exact congrArg Host.Outcome.next (placeEvent_room hlost hroom e k)

/-- A lookup that ends with none. -/
theorem exec_keyLookupDone_none (hi : iod < 6) (hk : (s.fiod iod).lookups = k :: ks)
    (hl : lookupEntry (lookupTaken s iod now ks) iod k = (t, none)) : exec (.keyLookupDone iod now) s = .next t := by
  rw [exec_keyLookupDone hi hk now, hl]
  rfl

/-! ### AUTO_OPEN (R309) -/

/-- The arguments of an entry that AUTO_OPEN opens. -/
def autoArgs (k : Lookup) : OpenArgs :=
  { seqId := (crc64 (BitVec.ofNat 8 k.keyspace :: k.key)).toNat, cls := k.cls, slot := k.slot, drop := k.drop }

/-- AUTO_OPEN has opened entry `e` and given it the key in bucket `b`. -/
def autoOpened (s : State) (k : Lookup) (b e r : Nat) (pool : KvPool) : State :=
  (keyInsert ((modPool s k.part k.slot fun _ => pool).modEntry e fun _ => openedEntry (autoArgs k) r)
    k.part b k.keyspace k.key e).modPart k.part fun q => { q with ing := { q.ing with autoOpen := wrapAdd q.ing.autoOpen 1 } }

theorem autoOpened_entry (s : State) (k : Lookup) (b e r : Nat) (pool : KvPool) :
    (autoOpened s k b e r pool).entry e = openedEntry (autoArgs k) r := by
  unfold autoOpened keyInsert
  simp

theorem autoOpened_autoOpen (s : State) (k : Lookup) (b e r : Nat) (pool : KvPool) :
    ((autoOpened s k b e r pool).part k.part).ing.autoOpen = wrapAdd (s.part k.part).ing.autoOpen 1 := by
  unfold autoOpened keyInsert modPool State.modSlot
  simp

theorem lowestFree_free (h : lowestFree s p = some e) : (s.entry e).open_ = false := by
  obtain ⟨b, -, hb⟩ := List.exists_of_findSome?_eq_some h
  simpa using List.find?_some hb

variable {b r : Nat} {pool : KvPool}

theorem lookupEntry_autoOpen (hnone : keyFind s k.part k.keyspace k.key = none) (hauto : k.autoOpen = true)
    (hready : (s.slot k.part k.slot).state = .ready) (hb : keyRoom s k.part k.keyspace k.key = some b)
    (he : lowestFree s k.part = some e) (hr : popRoot (s.slot k.part k.slot).pool = some (r, pool)) (iod : Nat) :
    lookupEntry s iod k = (autoOpened s k b e r pool, some e) := by
  have hopen := openEntry_opens (p := k.part) (a := autoArgs k) (lowestFree_free he) rfl hr
  unfold autoArgs at hopen
  simp only [lookupEntry, hnone, hauto, hready, autoOpen, hb, he, hopen]
  rfl

/-- The entry that a partition's key table gives a key, searched in the buckets `bs`. -/
def keyIn (keys : Tab (List KeySlot)) (bs : List Nat) (keyspace : Nat) (key : List Byte) : Option Nat :=
  bs.findSome? fun b => ((tget [] keys b).find? fun k => k.keyspace == keyspace && k.key == key).map KeySlot.entry

/-- A key that was in none of its buckets is found in the one it was put in. -/
theorem keyIn_insert {keys : Tab (List KeySlot)} {bs : List Nat} {keyspace : Nat} {key : List Byte} (hnone : keyIn keys bs keyspace key = none)
    (hb : b ∈ bs) (e : Nat) :
    keyIn (tmod [] keys b fun l => l ++ [{ key := key, keyspace := keyspace, entry := e }]) bs keyspace key = some e := by
  have hone {c : Nat} (hc : c ∈ bs) : (tget [] keys c).find? (fun k => k.keyspace == keyspace && k.key == key) = none := by
    simpa using List.findSome?_eq_none_iff.mp hnone c hc
  clear hnone
  unfold keyIn
  induction bs with
  | nil => cases hb
  | cons c bs ih =>
    rw [List.findSome?_cons]
    by_cases hcb : c = b
    · subst hcb
      rw [tget_tmod_self, List.find?_append, hone List.mem_cons_self]
      simp
    · rw [tget_tmod_other _ hcb, hone List.mem_cons_self]
      exact ih ((List.mem_cons.mp hb).resolve_left fun h => hcb h.symm) fun hc => hone (List.mem_cons_of_mem _ hc)

/-- The key of an entry that AUTO_OPEN has opened is the entry's. -/
theorem autoOpened_keyFind (hnone : keyFind s k.part k.keyspace k.key = none) (hb : keyRoom s k.part k.keyspace k.key = some b) :
    keyFind (autoOpened s k b e r pool) k.part k.keyspace k.key = some e := by
  have hpart : ((autoOpened s k b e r pool).part k.part).cfg = (s.part k.part).cfg ∧ ((autoOpened s k b e r pool).part k.part).keys =
      tmod [] (s.part k.part).keys b fun l => l ++ [{ key := k.key, keyspace := k.keyspace, entry := e }] := by
    unfold autoOpened keyInsert modPool State.modSlot
    simp
  have hbuckets : keyBuckets (autoOpened s k b e r pool) k.part k.keyspace k.key = keyBuckets s k.part k.keyspace k.key := by
    simp only [keyBuckets, keyLog2, hpart.1]
  rw [keyFind, hbuckets, hpart.2]
  exact keyIn_insert hnone (List.mem_of_find?_eq_some hb) e

/-! ### INGEST_DRAIN (R260, R312) -/

/-- The drain hands an event to an entry that can take it, with room for `n` more. -/
structure Takes (s : State) (p n : Nat) (k : IngestEntry) : Prop where
  event : k.lost = false
  isOpen : (s.entry k.entry).open_ = true
  goesOn : (s.entry k.entry).closing = false
  owned : ownsEntry s p k.entry = true
  fresh : (s.entry k.entry).stale = false
  fits : (s.entry k.entry).length < 2 ^ 26
  room : pendingOf (s.entry k.entry) + n ≤ 4096

/-- The work of an event: one SCORE item of one token (R260). -/
def drainItem (s : State) (p : Nat) (k : IngestEntry) : Item :=
  { id := (s.part p).nextItem, kind := .score, left := [k.token], lost := k.lost, arrival := k.arrival, deadline := k.deadline }

theorem drainOne_takes {k : IngestEntry} {n : Nat} (h : Takes s p (n + 1) k) (iod : Nat) : drainOne p iod s k =
    (s.modPart p fun q => { q with nextItem := (s.part p).nextItem + 1, ing := { q.ing with lostTokens := q.ing.lostTokens } }).modEntry
      k.entry fun x => { x with queue := x.queue ++ [drainItem s p k] } := by
  have hrefused : drainRefused s p k = none := by
    simpa [drainRefused, h.isOpen, h.goesOn, h.owned, h.fresh] using h.fits
  have hroom : ¬ 4096 ≤ pendingOf (s.entry k.entry) := by have := h.room; omega
  simp only [drainOne, hrefused, if_neg hroom, drainItem, h.event]
  rfl

/-- A sequence apart from its work. -/
def sansQueue (x : Entry) : Entry := { x with queue := [] }

/-- What an event makes of the sequences: the entry it names has its item, and the rest stays. -/
theorem drainOne_entry {k : IngestEntry} {n : Nat} (h : Takes s p (n + 1) k) (iod e : Nat) :
    sansQueue ((drainOne p iod s k).entry e) = sansQueue (s.entry e) ∧
      ((drainOne p iod s k).entry e).queue = (s.entry e).queue ++ if k.entry == e then [drainItem s p k] else [] := by
  rw [drainOne_takes h]
  by_cases he : e = k.entry
  · subst he
    rw [State.modEntry_entry_self]
    simp [sansQueue]
  · rw [State.modEntry_entry_other _ he]
    simp [Ne.symm he]

theorem drainOne_owns {k : IngestEntry} {n : Nat} (h : Takes s p (n + 1) k) (iod e : Nat) :
    ownsEntry (drainOne p iod s k) p e = ownsEntry s p e := by
  rw [drainOne_takes h]
  simp [ownsEntry, blocksOf]

theorem drainOne_fiods {k : IngestEntry} {n : Nat} (h : Takes s p (n + 1) k) (iod : Nat) :
    (drainOne p iod s k).feedIods = s.feedIods := by
  rw [drainOne_takes h]
  simp

/-- An event takes the room of one token (R257). -/
theorem drainOne_pending {k : IngestEntry} {n : Nat} (h : Takes s p (n + 1) k) (iod e : Nat) :
    pendingOf ((drainOne p iod s k).entry e) ≤ pendingOf (s.entry e) + 1 := by
  rw [pendingOf, (drainOne_entry h iod e).2]
  split
  · simp [pendingOf, itemTokens, drainItem]
  · simp [pendingOf]

/-- What an entry takes it takes after an event before it. -/
theorem Takes.after {k j : IngestEntry} {n : Nat} (h : Takes s p (n + 1) k) (hj : Takes s p (n + 1) j) (iod : Nat) :
    Takes (drainOne p iod s k) p n j := by
  obtain ⟨hentry, -⟩ := drainOne_entry h iod j.entry
  have hp := drainOne_pending h iod j.entry
  have hr := hj.room
  exact {
    event := hj.event
    isOpen := (congrArg Entry.open_ hentry :).trans hj.isOpen
    goesOn := (congrArg Entry.closing hentry :).trans hj.goesOn
    owned := (drainOne_owns h iod _).trans hj.owned
    fresh := (congrArg Entry.stale hentry :).trans hj.fresh
    fits := (congrArg Entry.length hentry :).trans_lt hj.fits
    room := by omega }

/-- The work that events make of a sequence: what the obligation reads of it. -/
def workOf (i : Item) : List Nat × Nat × Option Nat := (i.left, i.arrival, i.deadline)

/-- A share whose events can all be taken goes into the work queues, oldest first. -/
theorem foldl_drainOne (l : List IngestEntry) (s : State) (p iod : Nat) (h : ∀ k ∈ l, Takes s p l.length k) :
    (l.foldl (drainOne p iod) s).feedIods = s.feedIods ∧ ∀ e, ∃ items,
      ((l.foldl (drainOne p iod) s).entry e).queue = (s.entry e).queue ++ items ∧ (∀ i ∈ items, i.kind = .score) ∧
      items.map workOf = (l.filter fun k => k.entry == e).map fun k => ([k.token], k.arrival, k.deadline) := by
  induction l generalizing s with
  | nil => exact ⟨rfl, fun e => ⟨[], (List.append_nil _).symm, by simp, rfl⟩⟩
  | cons k l ih =>
    have hk : Takes s p (l.length + 1) k := h k List.mem_cons_self
    obtain ⟨hfiods, hrest⟩ := ih (drainOne p iod s k) fun j hj => hk.after (h j (List.mem_cons_of_mem _ hj)) iod
    refine ⟨hfiods.trans (drainOne_fiods hk iod), fun e => ?_⟩
    obtain ⟨items, hqueue, hkind, hwork⟩ := hrest e
    rw [(drainOne_entry hk iod e).2] at hqueue
    cases he : k.entry == e with
    | true =>
      rw [he, if_pos rfl, List.append_assoc] at hqueue
      refine ⟨_, hqueue, fun i hi => ?_, ?_⟩
      · rcases List.mem_cons.mp hi with rfl | hi
        · rfl
        · exact hkind i hi
      · rw [List.filter_cons, if_pos he, List.map_cons, ← hwork]
        rfl
    | false =>
      rw [he, if_neg (by decide), List.append_nil] at hqueue
      exact ⟨items, hqueue, hkind, by rw [List.filter_cons, if_neg (by simp [he]), hwork]⟩

/-- A partition that does not run drains nothing. -/
theorem ingestDrain_stopped (hp : p < 64) (hi : iod < 6) (h : (s.part p).state ≠ .running) (now : Nat) :
    exec (.ingestDrain p iod now) s = .next (s.setNow now) := by
  refine (guarded_ok (by simp [instrWellFormed, okPart, okIod, hp, hi]) _).trans (congrArg Host.Outcome.next (if_pos ?_))
  simpa using h

/-- A running partition empties its share (R312). -/
def shareTaken (s : State) (iod p : Nat) : State := modShare s iod p fun x => { x with fifo := [], overload := false }

theorem ingestDrain_running (hp : p < 64) (hi : iod < 6) (h : (s.part p).state = .running) (now : Nat) :
    exec (.ingestDrain p iod now) s = .next
      (notePeak (placeAllMarked ((share s iod p).fifo.foldl (drainOne p iod) (shareTaken (s.setNow now) iod p)) iod p) p) := by
  refine (guarded_ok (by simp [instrWellFormed, okPart, okIod, hp, hi]) _).trans (congrArg Host.Outcome.next (if_neg ?_))
  simp [h]

/-- Settles O37: a lookup through its entry, the drain by induction over the events of the share. -/
theorem lookupsFeedTheSequences : Obligations.LookupsFeedTheSequences := by
  unfold Obligations.LookupsFeedTheSequences
  refine ⟨fun s iod now k ks hi hk => ?_, fun s p iod now hp hi => ?_⟩
  · intro x item
    have hx : share (lookupTaken s iod now ks) iod k.part = x := lookupTaken_share s iod now ks k.part
    refine ⟨fun e he hlost hroom => ?_, fun hnone hauto => ?_, fun b e r pool hnone hauto hready hb he hr hlost hroom => ?_⟩
    · have hl : lookupEntry (lookupTaken s iod now ks) iod k = (lookupTaken s iod now ks, some e) := by
        have he' : keyFind (lookupTaken s iod now ks) k.part k.keyspace k.key = some e := he
        simp only [lookupEntry, he']
      refine ⟨_, exec_keyLookupDone_some hi hk hl (hx ▸ hlost) (hx ▸ hroom), ?_, ?_, ?_, eventPlaced_entries _ _ _ _ _⟩
      · rw [eventPlaced_lookups, lookupTaken_lookups]
      · rw [eventPlaced_fifo, hx]
        rfl
      · rw [eventPlaced_events]
        rfl
    · have hl : lookupEntry (lookupTaken s iod now ks) iod k = ((lookupTaken s iod now ks).modPart k.part fun q =>
          { q with ing := { q.ing with keyMiss := satAdd q.ing.keyMiss 1 } }, none) := by
        have hnone' : keyFind (lookupTaken s iod now ks) k.part k.keyspace k.key = none := hnone
        simp only [lookupEntry, hnone', hauto]
        rfl
      refine ⟨_, exec_keyLookupDone_none hi hk hl, lookupTaken_lookups s iod now ks, congrArg Share.fifo hx, ?_, rfl⟩
      exact congrArg (fun q : Part => q.ing.keyMiss) (State.modPart_part_self _ _ _)
    · have hl := lookupEntry_autoOpen (s := lookupTaken s iod now ks) (k := k) hnone hauto hready hb he hr iod
      have hx' : share (autoOpened (lookupTaken s iod now ks) k b e r pool) iod k.part = x := hx
      have hopened := eventPlaced_entry (e := e) (autoOpened_entry (lookupTaken s iod now ks) k b e r pool) iod k.part k
      refine ⟨_, exec_keyLookupDone_some hi hk hl (hx' ▸ hlost) (hx' ▸ hroom), ?_, ?_, ?_, ?_, ?_, ?_, ?_⟩
      · exact congrArg Entry.open_ hopened
      · exact congrArg Entry.cls hopened
      · exact congrArg Entry.slot hopened
      · exact congrArg Entry.seqId hopened
      · rw [eventPlaced_keyFind]
        exact autoOpened_keyFind (s := lookupTaken s iod now ks) hnone hb
      · rw [eventPlaced_fifo, hx']
        rfl
      · rw [eventPlaced_autoOpen, autoOpened_autoOpen]
        rfl
  · intro x
    refine ⟨fun h => ingestDrain_stopped hp hi h now, fun hrun hlost hall => ?_⟩
    have htaken : share (shareTaken (s.setNow now) iod p) iod p = { x with fifo := [], overload := false } := share_modShare_self _ _ _ _
    obtain ⟨hfiods, hwork⟩ := foldl_drainOne x.fifo (shareTaken (s.setNow now) iod p) p iod fun k hk =>
      let ⟨hevent, hopen, hclosing, howned, hstale, hfits, hroom⟩ := hall k hk
      ⟨hevent, hopen, hclosing, howned, hstale, hfits, hroom⟩
    have hshare := (share_of_fiods hfiods iod p).trans htaken
    have hu := ingestDrain_running hp hi hrun now
    rw [placeAllMarked_none (by rw [hshare]; exact hlost)] at hu
    refine ⟨_, hu, ?_, fun e => ?_⟩
    · rw [share_of_fiods (notePeak_outside _ p).1, hshare]
    · rw [State.entry, (notePeak_outside _ p).2]
      exact hwork e

end Sys2Proof.Machine
end
